-- ==== Sys2Proof/Word.lean ====
section
/-! DEFINITION. The word types of the module: bytes, lanes and scalars, all little-endian in memory (R14). -/
namespace Sys2Proof

/-- One byte. -/
abbrev Byte := BitVec 8

/-- One 32-bit lane of a vector register (R84). -/
abbrev Lane := BitVec 32

/-- One 64-bit scalar register or lane mask (R84). -/
abbrev Word64 := BitVec 64

/-- A sparse map from numbers to plain data, kept sorted by key. -/
abbrev Table (α : Type) := List (Nat × α)

end Sys2Proof
end

