-- ==== Sys2Proof/Syntax.lean ====
section
/-! DEFINITION. The commands the module takes, one constructor per row of the table of operations and events, and the
operands they carry. -/
namespace Sys2Proof

/-- A tile by its number `die × 144 + row × 12 + col` (R16, R123). -/
abbrev TileId := Fin 288

/-- R88: a slot in register form, its opcode apart. -/
structure RegForm where
  dst : Fin 64
  sa  : Fin 64
  sb  : Fin 64
  sc  : Fin 64
  md  : Fin 256
  deriving DecidableEq, Repr

/-- R88: a slot in immediate form, its opcode apart. -/
structure ImmForm where
  dst : Fin 64
  sa  : Fin 64
  imm : Fin 1048576
  deriving DecidableEq, Repr

/-- R223, R470: a round-trip probe: local send time, peer's receive time, peer's send time, local receive time. -/
structure Probe where
  t1 : Nat
  t2 : Nat
  t3 : Nat
  t4 : Nat
  deriving DecidableEq, Repr

/-- R223, R470: what the peer sends in IDENT, with the eight probes and its alignment. -/
structure IdentIn where
  machine : Nat
  dims    : Nat
  node    : Nat
  port    : Nat
  probes  : List Probe
  aligned : Bool
  depth   : Nat
  deriving DecidableEq, Repr

/-- R208, R209, R214: a flit as received: its link header and control word, its slots, what the FEC found (symbols
corrected by lane, codewords that did not decode) and whether its tag verifies under the key in use. -/
structure FlitIn where
  fseq   : Fin 65536
  ackSeq : Fin 65536
  ackV   : Bool
  nak    : Bool
  phase  : Fin 2
  ftype  : Fin 4
  count  : Fin 17
  crVc   : Fin 8
  crCnt  : Fin 1024
  slots  : List (List Byte)
  fixed  : List Nat
  lost   : Nat
  tagOk  : Bool
  deriving DecidableEq, Repr

/-- R225, R238: what a port measures of its lanes, in 0.01 dBm and 0.01 dB (received power, reflectance, own launch power) and
of its engine's feed, and what the peer reports: its launch powers and whether its own connector is dirty. -/
structure LaneIn where
  rx     : List Int
  refl   : List Int
  own    : List Int
  feed   : Int
  launch : List Int
  peerDirty : Bool
  deriving DecidableEq, Repr

/-- R455: a KEY_OFFER as received, with whether its signature verifies and what its wrapped key unwraps to. -/
structure OfferIn where
  node      : Nat
  port      : Nat
  phase     : Fin 2
  machine   : Nat
  effective : Nat
  nonce     : Nat
  sigOk     : Bool
  key       : Option Nat
  deriving DecidableEq, Repr

/-- R278, R285: how a read of host memory ends. -/
inductive HostRead where
  | good | failed | poisoned
  deriving DecidableEq, Repr

/-- R278, R303: data that a command reads from host memory: how the read ended, the bytes as they lie there (in confidential
mode encrypted), and the tags of its blocks. -/
structure HostIn where
  rd    : HostRead
  bytes : List Byte
  tags  : List Byte
  deriving DecidableEq, Repr

/-- R282, R283, R297: what a poll reads: the producer record's PROD_IDX, the median round trip over the last second in
ns, the host's index in the consumer record, and the entries from the ring as they lie there. -/
structure PollIn where
  rec_    : HostRead
  prod    : Fin 4294967296
  rtt     : Nat
  cons    : Fin 4294967296
  fetch   : HostRead
  entries : List (List Byte)
  deriving DecidableEq, Repr

/-- R275, R276: registers of the function's configuration space that software writes: the maximum payload and read request
sizes (0 to 5 for 128 to 4,096 bytes), the enable and the mask of MSI-X, and the error status of AER. -/
inductive CfgField where
  | maxPayload | maxReadReq | msixEnable | msixMask | aerStatus
  deriving DecidableEq, Repr

/-- R275, R276: a host access to BAR0 or to the configuration space; of a BAR0 read the number of bytes. -/
inductive HostAccess where
  | write (bs : List Byte)
  | read (n : Nat)
  | cfgWrite (f : CfgField) (v : Nat)
  | cfgRead (f : CfgField)
  | cfgClass
  deriving DecidableEq, Repr

/-- R311: the classes of events: matrix busy cycles by format group (the rows of R112), vector operations, bundles, tile
SRAM bank accesses, irregular-unit requests, Filler cycles by level, mesh flit-hops, stacked SRAM accesses, LPDDR5X bursts,
die-bridge and switch slots, and the optics. -/
inductive EvClass where
  | matrix (group : Fin 9)
  | vector | bundle | tileSram | irregular
  | filler (level : Fin 16)
  | mesh | stacked | lpddr | slots | optics
  deriving DecidableEq, Repr

/-- R311: events of one class on a die in an estimator window, with the OP_ID they carry (0 for none). -/
structure EvCount where
  die : Fin 2
  cls : EvClass
  op  : Fin 65536
  n   : Nat
  deriving DecidableEq, Repr

/-- R362, R363, R359: what Trowel measures of one rail over a period: its mean voltage as each engine senses it (2^-24 V),
its total phase current (2^-16 A), the mean delivered on-time of its active phases (2^-24 of a period), the current of each
phase in order (2^-16 A), and the phases, by their place in the rail, that met the peak limit. -/
structure RailMean where
  yvA   : Int
  yvB   : Int
  yi    : Int
  echo  : Int
  phI   : List Int
  peaks : List Nat
  deriving DecidableEq, Repr

/-- R360 to R362: the means over the last period at a boundary: the rails, the input current as each engine senses it
(2^-16 A), the input voltage as each engine senses it (0.01 V), VBUS (mV), and, while REG_SYNC is in range, its frequency
over 16 edges (Hz) and the boundary's offset from the rising edge (ns). -/
structure PeriodIn where
  rails : List RailMean
  iinA  : Int
  iinB  : Int
  vinA  : Nat
  vinB  : Nat
  vbus  : Nat
  sync  : Option (Nat × Int)
  deriving DecidableEq, Repr

/-- R439: what each management core finds in the boot ROM: for core A and core B, whether slots A and B hold a valid image;
and the core that claims first. -/
structure BootIn where
  coreA : Bool × Bool
  coreB : Bool × Bool
  first : Fin 2
  deriving DecidableEq, Repr

/-- R450: a GET_MEASUREMENTS request: the index (0 the count, 255 all), whether it asks for a signature, the slot, the nonce
and the requester's context. -/
structure MeasReq where
  index : Fin 256
  sign  : Bool
  slot  : Fin 16
  nonce : List Byte
  ctx   : List Byte
  deriving DecidableEq, Repr

/-- R452, R453: a CONTEXT_SET request, with what its WRAPPED unwraps to: the H2M and the M2H key. -/
structure CtxReq where
  ctx   : Nat
  rsv   : Nat
  chan  : Nat
  nonce : List Byte
  keys  : Option (Nat × Nat)
  deriving DecidableEq, Repr

/-- R502, R505, R535: what holds when AUX rises: what the cores find in the boot ROM, the levels of SLOT_ID and PROFILE_SEL,
whether REF25 is present, whether the 54 V input had been removed too, and the logbook slots whose records fail their CRC. -/
structure AuxIn where
  boot     : BootIn
  slotId   : Fin 64
  profSel  : Fin 4
  ref25    : Bool
  inputOff : Bool
  bad      : List Nat
  deriving DecidableEq, Repr

/-- R177, R352, R394, R502: what the steps of a cold start find: the stages that each engine's pulses fail on, the sensor
whose comparator fails, the LPDDR5X training that fails as (package, channel, step), the LPDDR5X rows that are repaired, and
whether the digest of the control cores' code is right. -/
structure StartIn where
  failsA   : List (Fin 108)
  failsB   : List (Fin 108)
  trip     : Option (Fin 40)
  training : Option (Fin 16 × Fin 4 × Fin 6)
  repaired : List Nat
  digestOk : Bool
  deriving DecidableEq, Repr

/-- What the writes that start an operation meet: the sensors whose comparators fail under TRIP_TEST, what the cores
find when FW_ACTIVATE or RESET_REQUEST 5 boots them, whether the image of a restarted core verifies, and the power change
in nW that a TILE_ENABLE write causes, where the state holds no estimate (log entry 104). -/
structure WriteEnv where
  failed  : List (Fin 40)
  boot    : BootIn
  imageOk : Bool
  power   : Nat
  deriving DecidableEq, Repr

/-- R414, R415: a USDO initiate: a read, an expedited write with its bytes, or a segmented write with its stated size, if it
states one. -/
inductive UsdoReq where
  | read (idx : Fin 65536) (sub : Fin 256)
  | expedited (idx : Fin 65536) (sub : Fin 256) (bs : List Byte)
  | segmented (idx : Fin 65536) (sub : Fin 256) (size : Option Nat)
  deriving DecidableEq, Repr

/-- R185 to R188: an error held by a word or line: its first address, its level (1 tile SRAM, 2 stacked SRAM or an
accumulation slot, 3 LPDDR5X, 4 a data path, which the next access to the address meets once, 5 the link of an LPDDR5X
package) and whether it is correctable. The words of a tile's program store and queue storage have addresses of their own
beyond the map (log entry 119). -/
structure EccMark where
  addr    : Nat
  level   : Nat
  correct : Bool
  deriving DecidableEq, Repr

/-- R192: a scrub read of a level (0 to 2: R192's rows), with the errors that have struck the memories and paths since the last
one (log entry 41). -/
structure ScrubIn where
  level  : Fin 3
  upsets : List EccMark
  deriving DecidableEq, Repr

/-- R523: a read of LOG_RECORD, and whether the flash has lost the record it reads (R514). -/
structure LogRead where
  path : Fin 4
  lost : Bool
  deriving DecidableEq, Repr

/-- R450: what a CHALLENGE carries: the requester's nonce and context. -/
structure ChalReq where
  nonce : List Byte
  ctx   : List Byte
  deriving DecidableEq, Repr

/-- R450, R451: why a request cannot be served: its code is none of the table, it is malformed, or it is not of the version
negotiated. -/
inductive SpdmFlaw where
  | code
  | form
  | version
  deriving DecidableEq, Repr

/-- R450, R451: a request that cannot be served, on a transport. -/
structure SpdmBad where
  tr   : Fin 2
  flaw : SpdmFlaw
  deriving DecidableEq, Repr

/-- R409, R411: a CAN bus that has delivered no frame for 1 s, with the transmit and receive error counts that its controller
has come to (ISO 11898-1). -/
structure BusLoss where
  bus : Fin 2
  tx  : Nat
  rx  : Nat
  deriving DecidableEq, Repr

/-- The commands of the module: one constructor per row of the table of operations and events. -/
inductive Instr where
  /-- MMA (R91): Matrix multiply-accumulate of descriptors A and B into an accumulator bank, optionally cleared first. -/
  | mma (t : TileId) (f : RegForm)
  /-- MMOUT (R91): Converts an accumulator bank to the output format of the context and writes it through an output descriptor. -/
  | mmout (t : TileId) (f : RegForm)
  /-- MLDACC (R91): Loads an accumulator bank from tile SRAM. -/
  | mldacc (t : TileId) (f : RegForm)
  /-- MCLR (R91): Sets an accumulator bank to zero. -/
  | mclr (t : TileId) (f : RegForm)
  /-- MATRIX_OP_COMPLETE (R120): An outstanding matrix operation finishes after its latency, freeing a slot of the four outstanding. -/
  | matrixOpComplete (t : TileId) (busy : Nat)
  /-- FADD (R92): Per-lane FP32 addition. -/
  | fadd (t : TileId) (f : RegForm)
  /-- FSUB (R92): Per-lane FP32 subtraction. -/
  | fsub (t : TileId) (f : RegForm)
  /-- FMUL (R92): Per-lane FP32 multiplication. -/
  | fmul (t : TileId) (f : RegForm)
  /-- FFMA (R92): Per-lane fused multiply-add with one rounding. -/
  | ffma (t : TileId) (f : RegForm)
  /-- FMIN (R117): Per-lane FP32 minimum, with the NaN and signed-zero rules. -/
  | fmin (t : TileId) (f : RegForm)
  /-- FMAX (R117): Per-lane FP32 maximum, with the NaN and signed-zero rules. -/
  | fmax (t : TileId) (f : RegForm)
  /-- FABS (R92): Clears the sign bit of each lane. -/
  | fabs (t : TileId) (f : RegForm)
  /-- FNEG (R92): Inverts the sign bit of each lane. -/
  | fneg (t : TileId) (f : RegForm)
  /-- FDIV (R92): Correctly rounded per-lane division. -/
  | fdiv (t : TileId) (f : RegForm)
  /-- FSQRT (R92): Correctly rounded per-lane square root. -/
  | fsqrt (t : TileId) (f : RegForm)
  /-- FRCP (R92): Fixed-result reciprocal per lane. -/
  | frcp (t : TileId) (f : RegForm)
  /-- FRSQ (R92): Fixed-result reciprocal square root per lane. -/
  | frsq (t : TileId) (f : RegForm)
  /-- FEXP2 (R92): Fixed-result base-2 exponential per lane. -/
  | fexp2 (t : TileId) (f : RegForm)
  /-- FLOG2 (R92): Fixed-result base-2 logarithm per lane. -/
  | flog2 (t : TileId) (f : RegForm)
  /-- FTANH (R92): Fixed-result hyperbolic tangent per lane. -/
  | ftanh (t : TileId) (f : RegForm)
  /-- IADD (R92): INT32 addition per lane, keeping the low 32 bits. -/
  | iadd (t : TileId) (f : RegForm)
  /-- ISUB (R92): INT32 subtraction per lane, keeping the low 32 bits. -/
  | isub (t : TileId) (f : RegForm)
  /-- IMUL (R92): INT32 multiplication per lane, keeping the low 32 bits. -/
  | imul (t : TileId) (f : RegForm)
  /-- IMIN (R92): INT32 minimum per lane. -/
  | imin (t : TileId) (f : RegForm)
  /-- IMAX (R92): INT32 maximum per lane. -/
  | imax (t : TileId) (f : RegForm)
  /-- AND (R92): Bitwise AND per lane. -/
  | andV (t : TileId) (f : RegForm)
  /-- OR (R92): Bitwise OR per lane. -/
  | orV (t : TileId) (f : RegForm)
  /-- XOR (R92): Bitwise XOR per lane. -/
  | xorV (t : TileId) (f : RegForm)
  /-- SHL (R92): Logical shift left per lane. -/
  | shl (t : TileId) (f : RegForm)
  /-- SHR (R92): Logical shift right per lane. -/
  | shr (t : TileId) (f : RegForm)
  /-- SRA (R92): Arithmetic shift right per lane. -/
  | sra (t : TileId) (f : RegForm)
  /-- SCANF (R118): Segmented inclusive floating-point scan, exact before one rounding, optionally chained. -/
  | scanf (t : TileId) (f : RegForm)
  /-- SCANI (R118): Segmented inclusive integer scan, wrapping modulo 2^32. -/
  | scani (t : TileId) (f : RegForm)
  /-- SCANMAX (R118): Segmented running maximum scan. -/
  | scanmax (t : TileId) (f : RegForm)
  /-- SCANMIN (R118): Segmented running minimum scan. -/
  | scanmin (t : TileId) (f : RegForm)
  /-- REDF (R118): Segmented floating-point reduction to the leading lanes, with the segment count to a scalar. -/
  | redf (t : TileId) (f : RegForm)
  /-- REDI (R118): Segmented integer reduction. -/
  | redi (t : TileId) (f : RegForm)
  /-- REDMAX (R118): Segmented maximum reduction. -/
  | redmax (t : TileId) (f : RegForm)
  /-- REDMIN (R118): Segmented minimum reduction. -/
  | redmin (t : TileId) (f : RegForm)
  /-- EAADD (R119): Adds each masked lane's FP32 or INT32 value exactly into its lane accumulator. -/
  | eaadd (t : TileId) (f : RegForm)
  /-- EARED (R119): Segmented exact sum of masked lane accumulators into each segment's first masked lane. -/
  | eared (t : TileId) (f : RegForm)
  /-- EAOUT (R119): Converts lane accumulators into a vector register under a context. -/
  | eaout (t : TileId) (f : RegForm)
  /-- EACLR (R92): Clears the lane accumulators to finite zero. -/
  | eaclr (t : TileId) (f : RegForm)
  /-- VMOV (R93): Copies a vector register. -/
  | vmov (t : TileId) (f : RegForm)
  /-- VBCAST (R93): Broadcasts a scalar's low 32 bits to every lane. -/
  | vbcast (t : TileId) (f : RegForm)
  /-- VIOTA (R93): Writes each lane's index into the lane. -/
  | viota (t : TileId) (f : RegForm)
  /-- VPERM (R93): Permutes lanes by an index vector. -/
  | vperm (t : TileId) (f : RegForm)
  /-- VSEL (R93): Selects lanes from two vectors under a mask. -/
  | vsel (t : TileId) (f : RegForm)
  /-- VCVT (R93): Converts each lane between formats under a context. -/
  | vcvt (t : TileId) (f : RegForm)
  /-- VPACK (R93): Converts two vectors into packed 16- or 8-bit elements. -/
  | vpack (t : TileId) (f : RegForm)
  /-- VUNPACK (R93): Converts half of a packed vector into 32-bit lanes. -/
  | vunpack (t : TileId) (f : RegForm)
  /-- FCMPEQ (R93): Floating-point equality compare into a mask. -/
  | fcmpeq (t : TileId) (f : RegForm)
  /-- FCMPLT (R93): Floating-point less-than compare into a mask. -/
  | fcmplt (t : TileId) (f : RegForm)
  /-- FCMPLE (R93): Floating-point less-or-equal compare into a mask. -/
  | fcmple (t : TileId) (f : RegForm)
  /-- ICMPEQ (R93): Signed INT32 equality compare into a mask. -/
  | icmpeq (t : TileId) (f : RegForm)
  /-- ICMPLT (R93): Signed INT32 less-than compare into a mask. -/
  | icmplt (t : TileId) (f : RegForm)
  /-- MAND (R93): AND of two masks. -/
  | mand (t : TileId) (f : RegForm)
  /-- MOR (R93): OR of two masks. -/
  | mor (t : TileId) (f : RegForm)
  /-- MNOT (R93): Complement of a mask. -/
  | mnot (t : TileId) (f : RegForm)
  /-- MPOP (R93): Counts the set bits of a mask into a scalar. -/
  | mpop (t : TileId) (f : RegForm)
  /-- VEXT (R93): Extracts one lane into a scalar. -/
  | vext (t : TileId) (f : RegForm)
  /-- VINS (R93): Inserts a scalar into one lane. -/
  | vins (t : TileId) (f : RegForm)
  /-- VLD (R94): Loads 256 bytes of tile SRAM into a vector register. -/
  | vld (t : TileId) (f : ImmForm)
  /-- VST (R94): Stores a vector register to tile SRAM. -/
  | vst (t : TileId) (f : ImmForm)
  /-- SLD (R94): Loads 8 bytes into a scalar register. -/
  | sld (t : TileId) (f : ImmForm)
  /-- SST (R94): Stores a scalar register to tile SRAM. -/
  | sst (t : TileId) (f : ImmForm)
  /-- EALD (R94): Loads a lane accumulator from its 96-byte memory form. -/
  | eald (t : TileId) (f : ImmForm)
  /-- EAST (R94): Stores a lane accumulator in its 96-byte memory form. -/
  | east (t : TileId) (f : ImmForm)
  /-- DMAIN (R182): Starts an asynchronous copy from a module address into a tile descriptor after its checks. -/
  | dmain (t : TileId) (f : ImmForm)
  /-- DMAOUT (R182): Starts an asynchronous copy from a tile descriptor to a module address after its checks. -/
  | dmaout (t : TileId) (f : ImmForm)
  /-- DMA_COMPLETE (R183): A tile DMA finishes when every byte has landed or been accepted at its destination. -/
  | dmaComplete (t : TileId)
  /-- GATHER (R136): Issues a gather of indexed elements into a packed stream. -/
  | gather (t : TileId) (f : RegForm)
  /-- SCATTER (R136): Issues a scatter of a packed stream to indexed elements. -/
  | scatter (t : TileId) (f : RegForm)
  /-- SCADD (R141): Issues an exact scatter-add or clear of EA640 accumulators. -/
  | scadd (t : TileId) (f : RegForm)
  /-- SETISECT (R146): Issues a sorted-stream intersection. -/
  | setisect (t : TileId) (f : RegForm)
  /-- SETUNION (R146): Issues a sorted-stream union, optionally merging. -/
  | setunion (t : TileId) (f : RegForm)
  /-- SETDIFF (R146): Issues a sorted-stream difference. -/
  | setdiff (t : TileId) (f : RegForm)
  /-- MJOIN (R149): Issues a merge join emitting position pairs, resumable from its cursors. -/
  | mjoin (t : TileId) (f : RegForm)
  /-- HINSERT (R155): Issues a hash-table insert of a key stream. -/
  | hinsert (t : TileId) (f : RegForm)
  /-- HPROBE (R154): Issues a hash-table probe of a key stream. -/
  | hprobe (t : TileId) (f : RegForm)
  /-- SORT (R159): Issues a stable sort of up to 262,144 elements. -/
  | sort (t : TileId) (f : RegForm)
  /-- SELECTK (R161): Issues the selection of forced and top-scoring key blocks. -/
  | selectk (t : TileId) (f : RegForm)
  /-- IRR_OP_DEQUEUE (R130): A queued irregular operation leaves its unit's queue and starts once the previous one has completed. -/
  | irrOpDequeue (t : TileId) (u : Fin 4)
  /-- IRR_OP_COMPLETE (R130): An irregular operation completes and writes its status, counts and cursors into the IOB. -/
  | irrOpComplete (t : TileId) (u : Fin 4)
  /-- SCADD_ACCEPT (R143): An accumulation engine accepts a waiting addition when a slot or credit frees. -/
  | scaddAccept (t : TileId) (k : Nat)
  /-- SLI (R96): Loads a sign-extended immediate into a scalar. -/
  | sli (t : TileId) (f : ImmForm)
  /-- SADDI (R96): Adds a sign-extended immediate to a scalar. -/
  | saddi (t : TileId) (f : ImmForm)
  /-- SADD (R96): Scalar addition modulo 2^64. -/
  | sadd (t : TileId) (f : RegForm)
  /-- SSUB (R96): Scalar subtraction modulo 2^64. -/
  | ssub (t : TileId) (f : RegForm)
  /-- SMUL (R96): Scalar multiplication modulo 2^64. -/
  | smul (t : TileId) (f : RegForm)
  /-- SAND (R96): Scalar AND. -/
  | sand (t : TileId) (f : RegForm)
  /-- SOR (R96): Scalar OR. -/
  | sor (t : TileId) (f : RegForm)
  /-- SXOR (R96): Scalar XOR. -/
  | sxor (t : TileId) (f : RegForm)
  /-- SSHL (R96): Scalar shift left. -/
  | sshl (t : TileId) (f : RegForm)
  /-- SSHR (R96): Scalar shift right. -/
  | sshr (t : TileId) (f : RegForm)
  /-- SCMPLT (R96): Signed scalar less-than into a predicate. -/
  | scmplt (t : TileId) (f : RegForm)
  /-- SCMPEQ (R96): Scalar equality into a predicate. -/
  | scmpeq (t : TileId) (f : RegForm)
  /-- BR (R96): Branches to a bundle index. -/
  | br (t : TileId) (f : ImmForm)
  /-- LOOP (R96): Runs the following bundles up to an end index a counted number of times. -/
  | loop (t : TileId) (f : ImmForm)
  /-- TGET (R107): Reads the payload of a window token into a scalar. -/
  | tget (t : TileId) (f : ImmForm)
  /-- TKIND (R107): Reads the kind of a window token into a scalar. -/
  | tkind (t : TileId) (f : ImmForm)
  /-- TPUT (R99): Puts a token on an output queue within its reservation. -/
  | tput (t : TileId) (f : ImmForm)
  /-- WAIT (R96): Waits until earlier operations of the named units have completed. -/
  | wait (t : TileId) (f : ImmForm)
  /-- DSETA (R96): Sets the ADDR field of a tensor descriptor from a scalar. -/
  | dseta (t : TileId) (f : ImmForm)
  /-- RDTIME (R96): Reads the time base into a scalar. -/
  | rdtime (t : TileId) (f : ImmForm)
  /-- BRK (R487): Breakpoint instruction that stops the tile after its bundle when enabled. -/
  | brk (t : TileId) (f : ImmForm)
  /-- BUNDLE_STALL_RELEASE (R90): A bundle held by an interlock, WAIT, WAITALL or a full unit queue issues once the awaited completion arrives. -/
  | bundleStallRelease (t : TileId)
  /-- GRAPH_EXCEPTION_STOP (R122): Control cores stop every tile of the graph at its next bundle boundary, empty its queues and complete its commands with the code. -/
  | graphExceptionStop (h : Nat)
  /-- TOKEN_ARRIVAL (R104): A token becomes visible at a destination input queue after the mesh delay. -/
  | tokenArrival (t : TileId) (oq : Fin 16) (k : Fin 4)
  /-- QUEUE_CREDIT_RETURN (R104): A credit returned by a downstream firing reaches the producer's output queue. -/
  | queueCreditReturn (t : TileId) (oq : Fin 16) (k : Fin 4)
  /-- TASK_FIRE (R106): A tile holding a credit fires the oldest ready task, taking its tokens and reserving output credits. -/
  | taskFire (t : TileId)
  /-- TASK_END (R108): A task ends after its END bundle's operations complete, returning unused reservations and emptying the window. -/
  | taskEnd (t : TileId) (cyc p : Nat)
  /-- POWER_CREDIT_GRANT (R27): The die issuer grants a waiting credit request in a pacing slot when pacing and headroom allow. -/
  | powerCreditGrant (die : Fin 2)
  /-- TILE_WAKE (R21): A granted tile becomes active 40 ns from rest or 2 µs from pupa. -/
  | tileWake (t : TileId)
  /-- DIE_STEP_SLOT (R29): A die-level frequency, voltage or duty step uses a pacing slot and takes effect with its last slot. -/
  | dieStepSlot (die : Fin 2)
  /-- CREDIT_TAKE_BACK (R31): Float takes a credit back from a Filler tile in a pacing slot under the ramp and floor limits. -/
  | creditTakeBack (t : TileId)
  /-- PUPA_DWELL_EXPIRY (R110): A rest tile whose queues stayed empty for the dwell begins pupa entry. -/
  | pupaDwellExpiry (t : TileId)
  /-- PUPA_ENTRY_COMMIT (R110): Pupa entry commits 100 ns after it began. -/
  | pupaEntryCommit (t : TileId)
  /-- TILE_ENABLE_WRITE (R111): Turns a tile off or back on, refused for a tile in a loaded graph. -/
  | tileEnableWrite (path : Fin 4) (t : TileId) (v power : Nat)
  /-- SLEW_LIMIT_WRITE (R34): Sets a core-rail slew limit, refused above the active bank's supported slew. -/
  | slewLimitWrite (path : Fin 4) (die : Fin 2) (v : Nat)
  /-- SINK_REPORT (R126): A sink task's completion token reaches the leading control core, completing the run at the last report. -/
  | sinkReport (t : TileId) (oq : Fin 16) (k : Fin 4)
  /-- GRAPH_LOAD_COMPLETE (R126): Control cores finish writing all sections and the load completes with its handle. -/
  | graphLoadComplete (h : Nat)
  /-- SCRUB_READ (R192): A background scrub read in a reserved slot checks the next address of its level. -/
  | scrubRead (e : ScrubIn)
  /-- MR4_POLL (R175): Every 4 ms the controller reads MR4 of each device and applies its refresh multiplier. -/
  | mr4Poll (dev : Fin 128) (rate : Nat) (hot : Bool)
  /-- CHANNEL_POWER_DOWN (R176): A channel idle for 100 ns enters power-down. -/
  | channelPowerDown (c : Fin 64)
  /-- CHANNEL_SELF_REFRESH (R176): A channel idle for LP_SR_IDLE_US enters self-refresh. -/
  | channelSelfRefresh (c : Fin 64)
  /-- WCK2DQ_OSCILLATOR_RUN (R177): Every 1 ms a channel runs its interval oscillator and retimes if needed. -/
  | wck2dqOscillatorRun (c : Fin 64)
  /-- ZQ_CALIBRATION_LATCH (R177): Every 64 ms a channel latches background ZQ calibration. -/
  | zqCalibrationLatch (c : Fin 64)
  /-- ERR_INJECT_ARM (R193): Arms one error injection with the latched address and kind, after its checks. -/
  | errInjectArm (path : Fin 4) (v : Nat)
  /-- BAR2_READ (R277): A host read through BAR2 is mapped through BAR2_BASE onto module memory. -/
  | bar2Read (off : Fin 17179869184) (n : Nat)
  /-- BAR2_WRITE (R277): A host write through BAR2 is mapped onto module memory or dropped and counted. -/
  | bar2Write (off : Fin 17179869184) (bs : List Byte)
  /-- FABRIC_DIMS_WRITE (R198): Sets the machine's dimension count after the lock and node-ID checks. -/
  | fabricDimsWrite (path : Fin 4) (v : Nat)
  /-- NODE_ID_WRITE (R198): Sets the node ID after the lock, slot and dimension checks. -/
  | nodeIdWrite (path : Fin 4) (v : Nat)
  /-- MACHINE_ID_WRITE (R198): Sets the machine ID while every port is disabled. -/
  | machineIdWrite (path : Fin 4) (v : Nat)
  /-- PORT_ENABLE_WRITE (R234): Enables a port or disables it, draining it without loss when up. -/
  | portEnableWrite (path : Fin 4) (p : Fin 16) (v : Nat)
  /-- FEC_MODE_WRITE (R205): Selects the FEC mode, refused for long fibre and retraining a live port. -/
  | fecModeWrite (path : Fin 4) (p : Fin 16) (v : Nat)
  /-- RETRAIN_NOW (R221): Starts a lossless retrain at the widest healthy width. -/
  | retrainNow (path : Fin 4) (p : Fin 16) (v : Nat)
  /-- REKEY_ALL (R219): Forces a key change on every live port. -/
  | rekeyAll (path : Fin 4) (v : Nat)
  /-- LASER_RESTART (R201): Clears the feed-open latch. -/
  | laserRestart (path : Fin 4) (v : Nat)
  /-- LASER_OK_RISE (R221): LASER_OK high for 100 µs lets enabled ports leave DISABLED. -/
  | laserOkRise
  /-- LASER_OK_FALL (R201): LASER_OK low for over 100 µs takes every port out of service to DISABLED. -/
  | laserOkFall
  /-- LASER_OK_TIMEOUT (R201): LASER_OK has not risen 100 ms after LASER_EN, and a record is written. -/
  | laserOkTimeout
  /-- FEED_OPEN (R201): A feed falls by over 10 dB within 1 ms, LASER_EN falls and the latch sets. -/
  | feedOpen (e : Fin 8)
  /-- LASER_FEED_LOW (R201): An engine's feed stays below +16 dBm for 1 ms and is reported once. -/
  | laserFeedLow (e : Fin 8) (power : Int)
  /-- PORT_PROBE (R202): A dark port emits a 2 ms probe every 250 ms. -/
  | portProbe (p : Fin 16)
  /-- LIGHT_DETECTED (R202): Light on all 8 lanes for 100 µs turns the transmitter on and enters TRAINING. -/
  | lightDetected (p : Fin 16)
  /-- LOSS_OF_LIGHT (R202): All lanes below −12 dBm for 10 µs close the shutter and return the port to DARK or loss. -/
  | lossOfLight (p : Fin 16)
  /-- TRAINING_COMPLETE (R221): Lock, FEC alignment and deskew on a lane group move the port to IDENT. -/
  | trainingComplete (p : Fin 16) (ok : Fin 256)
  /-- TRAINING_TIMEOUT (R221): Training not complete in 10 ms returns the port to DARK. -/
  | trainingTimeout (p : Fin 16)
  /-- IDENT_EXCHANGE (R223): The peer's identity and 8 probes are received and checked, setting FIBRE_LENGTH and HOLD_REASON. -/
  | identExchange (p : Fin 16) (k : IdentIn)
  /-- IDENT_REPEAT (R221): A HELD port repeats the identity exchange every 1 s. -/
  | identRepeat (p : Fin 16) (k : IdentIn)
  /-- KEYING_TIMEOUT (R221): No key within 100 ms of KEYING fails the port. -/
  | keyingTimeout (p : Fin 16)
  /-- FAILED_PORT_TIMEOUT (R221): A FAILED port returns to DARK after 1 s. -/
  | failedPortTimeout (p : Fin 16)
  /-- LANE_FAILURE (R231): A lane fails on power, lock or error share and starts a retrain at a narrower width. -/
  | laneFailure (p : Fin 16) (lane : Option (Fin 8))
  /-- RETRAIN_COMPLETE (R232): A retrained port returns to UP and resends unacknowledged flits. -/
  | retrainComplete (p : Fin 16) (ok : Fin 256)
  /-- RETRAIN_TIMEOUT (R221): A retrain not done in 500 µs fails the port. -/
  | retrainTimeout (p : Fin 16)
  /-- PORT_LOST (R233): A port is declared lost, rerouted and discard notices sent for its replay buffer. -/
  | portLost (p : Fin 16)
  /-- DRAIN_TIMEOUT (R234): A drain not finished within 10 µs is declared a port loss. -/
  | drainTimeout (p : Fin 16)
  /-- FLIT_TRANSMIT (R207): A port sends the next data or control flit at its fixed flit interval. -/
  | flitTransmit (p : Fin 16) (crVc : Fin 8) (crCount : Fin 1024)
  /-- FLIT_RECEIVE (R214): A received flit is accepted in order or dropped with a NAK, updating acks and credits. -/
  | flitReceive (p : Fin 16) (f : FlitIn)
  /-- NAK_REPEAT (R214): The receiver repeats a NAK when the expected flit has not arrived after 5 µs. -/
  | nakRepeat (p : Fin 16)
  /-- KEY_CHANGE (R219): The sender switches key at the due frame counter, or loses the port if no key is installed. -/
  | keyChange (p : Fin 16)
  /-- KEY_REQUEST_DUE (R219): The counter passes the interval midpoint and the next key is requested. -/
  | keyRequestDue (p : Fin 16)
  /-- CERT (R455): Link message carrying the peer's chain; a passing chain prompts a key offer. -/
  | cert (p : Fin 16) (mode sec nonce len : Nat) (chainOk : Bool)
  /-- KEY_REQUEST (R455): Link message asking the receiver for the next key. -/
  | keyRequest (p : Fin 16) (phase : Fin 2) (nonce : Nat)
  /-- KEY_OFFER (R455): Link message carrying a wrapped, signed key that the transmitter verifies, installs and acknowledges. -/
  | keyOffer (p : Fin 16) (o : OfferIn)
  /-- KEY_ACK (R455): Link message confirming installation and the effective frame. -/
  | keyAck (p : Fin 16) (phase : Fin 2) (effective : Nat)
  /-- GOING_DOWN_NOTICE (R234): The peer's drain notice sends the port to DARK without discards. -/
  | goingDownNotice (p : Fin 16)
  /-- PEER_FAILURE_NOTICE (R233): A failure notice from the peer triggers port loss. -/
  | peerFailureNotice (p : Fin 16)
  /-- LOCATE_FORWARD (R224): A LOCATE setting forwarded from the peer drives this port's locator LED. -/
  | locateForward (p : Fin 16) (on : Bool)
  /-- CONN_HEALTH_UPDATE (R225): Every 1 s the port classifies reflectance, launch power and loss into CONN_HEALTH. -/
  | connHealthUpdate (p : Fin 16) (k : LaneIn)
  /-- PACKET_ARRIVAL (R211): A whole packet arrives at a switch half and is checked, ejected or queued for routing. -/
  | packetArrival (port : Fin 16)
  /-- OUTPUT_ARBITRATION_GRANT (R229): An output grants the oldest eligible packet after routing it under R226. -/
  | outputArbitrationGrant (out : Fin 24)
  /-- ROB_FETCH (R248): A front end fetches a ROB, checks it and sends its packets. -/
  | robFetch (t : TileId) (oq : Fin 16) (k : Fin 4)
  /-- RD (R245): Remote read request served by the target after map and window checks. -/
  | rd
  /-- WR (R245): Remote write request applied at the target. -/
  | wr
  /-- AT_ADD (R251): Remote atomic add modulo 2^64. -/
  | atAdd
  /-- AT_AND (R251): Remote atomic AND. -/
  | atAnd
  /-- AT_OR (R251): Remote atomic OR. -/
  | atOr
  /-- AT_XOR (R251): Remote atomic XOR. -/
  | atXor
  /-- AT_MIN (R251): Remote atomic signed minimum. -/
  | atMin
  /-- AT_MAX (R251): Remote atomic signed maximum. -/
  | atMax
  /-- AT_SWAP (R251): Remote atomic swap. -/
  | atSwap
  /-- AT_CAS (R251): Remote atomic compare-and-swap. -/
  | atCas
  /-- REMOTE_EAADD (R252): Remote exact add into a switch accumulation slot. -/
  | remoteEaadd
  /-- REMOTE_HPROBE (R245): Remote hash probe of up to 60 keys. -/
  | remoteHprobe
  /-- REMOTE_HINSERT (R250): Remote hash insert of up to 60 keys. -/
  | remoteHinsert
  /-- COLL_STEP (R264): Collective step packet received by a reduction engine and folded into its collective. -/
  | collStep
  /-- PACE (R268): Pace message received, held and forwarded on higher mask dimensions. -/
  | pace
  /-- DISCARD (R245): Discard notice received; the packet fails with its code. -/
  | discard
  /-- RD_RSP (R249): Read response received; data written to the ROB's destination. -/
  | rdRsp
  /-- WR_ACK (R249): Write acknowledgement received. -/
  | wrAck
  /-- AT_RSP (R251): Atomic response received with the old value. -/
  | atRsp
  /-- EA_ACK (R252): Exact-add acknowledgement received. -/
  | eaAck
  /-- HT_RSP (R245): Hash response received with per-key results. -/
  | htRsp
  /-- REMOTE_TIMEOUT (R253): A packet without response within REMOTE_TIMEOUT_US fails and may trigger replica resend. -/
  | remoteTimeout (fe : Fin 16) (tag : Fin 4096)
  /-- EA_SLOT_FLUSH (R252): A switch accumulation slot passes its sum to the memory engine after 1 µs or 64 additions. -/
  | eaSlotFlush (a : Nat)
  /-- MEMBER_REVIVE (R258): Makes a STALE node current again. -/
  | memberRevive (path : Fin 4) (v : Nat)
  /-- COLL_TIMEOUT (R265): No step packet from a peer for COLL_TIMEOUT_MS ends the collective. -/
  | collTimeout (id mask : Fin 65536)
  /-- PACE_SEND (R266): The module sends pace messages on a duty change and every 1 ms while below 16/16. -/
  | paceSend
  /-- PACE_EXPIRY (R269): A held pace message expires after 5 ms without refresh. -/
  | paceExpiry (origin : Fin 65536)
  /-- FUNCTION_LEVEL_RESET (R278): Resets the host interface: rings disabled, fetched commands and graphs discarded. -/
  | functionLevelReset
  /-- HOT_RESET (R278): PCIe hot reset with the host-interface reset effects. -/
  | hotReset
  /-- PCIE_LINK_DOWN (R278): Link-down with the host-interface reset effects. -/
  | pcieLinkDown
  /-- PERST_ASSERT (R529): PERST_N low holds the host interface in reset. -/
  | perstAssert (level : Bool)
  /-- PCIE_D3HOT_ENTRY (R275): Entering D3hot stops polling. -/
  | pcieD3hotEntry
  /-- PCIE_D0_RETURN (R275): Return to D0 resumes polling and writes deferred completions. -/
  | pcieD0Return
  /-- RING_POLL (R282): The module reads a running ring's producer record and fetches waiting entries. -/
  | ringPoll (r : Fin 64) (p : PollIn)
  /-- RING_ENABLE (R285): Enables a command ring, or reports RING_CONFIG_INVALID. -/
  | ringEnable (r : Fin 64) (fields : Fin 2147483648)
  /-- RING_DISABLE (R285): Moves a ring to DRAINING and later DISABLED. -/
  | ringDisable (r : Fin 64) (fields : Fin 2147483648)
  /-- CQ_ENABLE (R295): Enables a completion ring after its checks. -/
  | cqEnable (c : Fin 64) (fields : Fin 9223372036854775808)
  /-- CQ_DISABLE (R294): Disables a completion ring unless a bound command ring is active. -/
  | cqDisable (c : Fin 64) (fields : Fin 9223372036854775808)
  /-- BAR0_REGISTER_WRITE (R276): A write to a BAR0 register with no row of its own. -/
  | bar0RegisterWrite (off : Fin 67108864) (a : HostAccess)
  /-- COMMAND_START (R286): A fetched command starts in fetch order once fences and resources allow. -/
  | commandStart (ring : Fin 64)
  /-- NOP (R291): Command that completes without effect. -/
  | nop (ring : Fin 64) (idx : Nat)
  /-- BUFSET_DEFINE (R288): Command that defines a buffer set from a host list. -/
  | bufsetDefine (ring : Fin 64) (idx : Nat) (h : HostIn)
  /-- DMA_COPY (R292): Command that copies bytes between declared buffers. -/
  | dmaCopy (ring : Fin 64) (idx : Nat) (h : HostIn)
  /-- GRAPH_LOAD (R125): Command that checks and loads a graph image into tiles. -/
  | graphLoad (ring : Fin 64) (idx : Nat) (h : HostIn)
  /-- GRAPH_START (R292): Command that starts one run of a loaded graph. -/
  | graphStart (ring : Fin 64) (idx : Nat)
  /-- GRAPH_UNLOAD (R292): Command that unloads a graph, forced or after its runs. -/
  | graphUnload (ring : Fin 64) (idx : Nat)
  /-- REMOTE_OP (R292): Command that performs a remote operation as a ROB. -/
  | remoteOp (ring : Fin 64) (idx : Nat)
  /-- COLLECTIVE (R260): Command that issues a collective over a subcube. -/
  | collective (ring : Fin 64) (idx : Nat)
  /-- WINDOWS_LOAD (R243): Command that replaces the remote window table. -/
  | windowsLoad (ring : Fin 64) (idx : Nat) (h : HostIn)
  /-- SHARD_MAP_LOAD (R255): Command that checks and replaces a shard map. -/
  | shardMapLoad (ring : Fin 64) (idx : Nat) (h : HostIn)
  /-- COMMAND_COMPLETE (R298): A command finishes, its completion entry is written and CQ_PROD raised. -/
  | commandComplete (ring : Fin 64) (idx : Nat)
  /-- COAL_TIMER_EXPIRY (R298): COAL_US after the first unsignalled completion sends the MSI-X message. -/
  | coalTimerExpiry (c : Fin 64)
  /-- CONS_RECORD_READ (R297): The module rereads a full completion ring's consumer record at poll cadence. -/
  | consRecordRead (c : Fin 64) (rd : HostRead) (cons : Fin 4294967296)
  /-- ESTIMATOR_UPDATE (R311): Every 2.048 µs the estimator forms P_est and Float recomputes the power limit, ramp and cap. -/
  | estimatorUpdate (evs : List EvCount)
  /-- CALIBRATION (R312): Every 1 ms Float updates the calibration factor from measured input power. -/
  | calibration (pIn : Nat) (vin : Fin 65536)
  /-- SHARE_RECOMPUTE (R334): Every 1 ms the learned table and die shares are updated. -/
  | shareRecompute (ops : List (Nat × Nat))
  /-- FREQ_MODE_SWITCH (R315): A written frequency mode takes effect when no graph is loaded. -/
  | freqModeSwitch
  /-- FREQ_RAISE_DECISION (R317): Every 100 µs Float decides whether to raise a die one point. -/
  | freqRaiseDecision (p0 p1 fix : Nat)
  /-- FREQ_RAISE_AFTER_SETTLE (R317): After Trowel reports the new voltage settled, the frequency rises. -/
  | freqRaiseAfterSettle (die : Fin 2)
  /-- CAP_TARGET_WRITE (R322): Sets or clamps the rack cap and ends the Autonomous source. -/
  | capTargetWrite (path : Fin 4) (v : Nat)
  /-- AUTONOMOUS_CAP_WRITE (R323): Sets or clamps the autonomous cap. -/
  | autonomousCapWrite (path : Fin 4) (v : Nat)
  /-- SAFE_CAP_WRITE (R323): Sets or clamps the safe cap. -/
  | safeCapWrite (path : Fin 4) (v : Nat)
  /-- THERMAL_LOOP_UPDATE (R347): Every 1 ms the thermal loop updates P_th. -/
  | thermalLoopUpdate
  /-- SENSOR_READ (R346): Every 100 µs the junction sensors are read and T_max formed. -/
  | sensorRead (ts : List Int) (inlet outlet : Int)
  /-- COOLANT_CAP_UPDATE (R349): Every 100 ms the coolant cap is recomputed. -/
  | coolantCapUpdate
  /-- FLOW_LOSS_WRITE (R350): The rack manager reports flow loss, activating the Safe source. -/
  | flowLossWrite (path : Fin 4) (v : Nat)
  /-- FLOW_LPM_WRITE (R350): The rack reports flow; below 0.50 L/min activates the Safe source. -/
  | flowLpmWrite (path : Fin 4) (v : Nat)
  /-- SAFE_CAP_CLEAR (R350): Clears the Safe source when FLOW_LOSS reads 0. -/
  | safeCapClear (path : Fin 4) (v : Nat)
  /-- BRAKE_ASSERT (R341): PWR_BRAKE_N passes its filter, grants stop and all tiles gate at 1/16. -/
  | brakeAssert
  /-- BRAKE_RELEASE (R341): PWR_BRAKE_N high clears BRAKE and recovery begins. -/
  | brakeRelease
  /-- DROOP_DETECTED (R342): A cluster detector crossing stretches the die's tile clock. -/
  | droopDetected (die : Fin 2)
  /-- STRETCH_END (R342): The stretch ends 64 ns after every detector reads above threshold. -/
  | stretchEnd (die : Fin 2) (cycles : Nat)
  /-- STEP_TEST (R345): Runs a paced load step of n credits for deviation measurement. -/
  | stepTest (path : Fin 4) (v : Nat)
  /-- STEP_TEST_HOLD_END (R345): After 1 ms at level 15 the test credits are taken back. -/
  | stepTestHoldEnd
  /-- THERMAL_TRIP (R351): A comparator trips, all stages off, THERM_TRIP_N low and the latch set. -/
  | thermalTrip (sensors : List (Fin 40))
  /-- TRIP_TEST (R352): Runs the comparator test in READY. -/
  | tripTest (path : Fin 4) (v : Nat) (failed : List (Fin 40))
  /-- SWITCHING_PERIOD_BOUNDARY (R362): Each period Trowel latches means and computes, selects and delivers duties for all rails. -/
  | switchingPeriodBoundary (e : PeriodIn)
  /-- SHED_TIMER_EXPIRY (R379): After 200 µs below 12 A with the conditions met, a shed begins. -/
  | shedTimerExpiry (rail : Fin 11)
  /-- ADD_HOLDOFF_EXPIRY (R378): The 1 ms hold-off after an add ends. -/
  | addHoldoffExpiry (rail : Fin 11)
  /-- MIRROR_FRAME (R390): The standby receives the owner's mirror frame and adopts plausible rail state. -/
  | mirrorFrame
  /-- MIRROR_DEADLINE (R362): No mirror frame by 800 ns is a watchdog fault. -/
  | mirrorDeadline
  /-- ENGINE_TAKEOVER (R391): The standby claims the stages at the next boundary after an owner fault. -/
  | engineTakeover
  /-- CLAIM_OVERLAP_END (R392): Two periods after a claim the stages block the old owner. -/
  | claimOverlapEnd
  /-- ENGINE_RESTART (R395): A failed engine is reset 1 s later into RESYNC. -/
  | engineRestart (engine : Fin 2)
  /-- TROWEL_HANDOVER (R396): Moves ownership to the standby engine. -/
  | trowelHandover (path : Fin 4) (v : Nat)
  /-- GAIN_BANK_IMAGE (R370): Writes a gain-bank image after size and bank checks. -/
  | gainBankImage (path : Fin 4) (bs : List Byte)
  /-- GAIN_BANK_COMMIT (R371): Validates a bank and computes its supported slew. -/
  | gainBankCommit (path : Fin 4) (v : Nat)
  /-- GAIN_BANK_SWAP (R372): Accepts a swap to the inactive bank at the next boundary. -/
  | gainBankSwap (path : Fin 4) (v : Nat)
  /-- VSET_WRITE (R377): Sets a rail target within its margin range; core rails refused. -/
  | vsetWrite (path : Fin 4) (rail : Fin 11) (v : Nat)
  /-- PEAK_CLEAR (R388): Restarts the rail's peak holds. -/
  | peakClear (path : Fin 4) (rail : Fin 11) (v : Nat)
  /-- RAIL_TELEMETRY_UPDATE (R388): Every 1 ms rail and phase telemetry objects are updated. -/
  | railTelemetryUpdate
  /-- RAIL_GROUP_START (R382): A rail group starts 100 µs after the previous group regulates. -/
  | railGroupStart (g : Fin 6)
  /-- POWER_GOOD_TIMEOUT (R384): No power-good within SS_TIME_US plus 1 ms stops the rail. -/
  | powerGoodTimeout (rail : Fin 11)
  /-- RETRY_WAIT_EXPIRY (R385): After 100 ms a rail retries soft start or latches off. -/
  | retryWaitExpiry (rail : Fin 11)
  /-- SOFT_STOP_COMPLETE (R385): A soft-stopping rail goes OFF below 10 % or after 200 µs. -/
  | softStopComplete (rail : Fin 11)
  /-- FAST_OVERVOLTAGE (R386): The fast comparator ends high-side pulses for that period. -/
  | fastOvervoltage (rail : Fin 11)
  /-- INPUT_UNDERVOLTAGE (R386): Input at 40 V for 2 µs causes an input stop. -/
  | inputUndervoltage
  /-- INPUT_OVERVOLTAGE (R386): Input at 61 V for 10 µs causes an input stop. -/
  | inputOvervoltage
  /-- BUS_CONVERTER_FAULT (R386): A failed bus converter is shut off and logged. -/
  | busConverterFault (conv : Fin 4)
  /-- STAGE_TEMP_READ (R386): Every 100 µs stage temperatures are read for warning and shutdown. -/
  | stageTempRead (ts : List Int)
  /-- REG_SYNC_LOSS (R361): No REG_SYNC edge for 4 µs or edges out of range start the glide to internal. -/
  | regSyncLoss
  /-- REG_SYNC_RECOVERED (R361): 100 edges in range start the glide toward REG_SYNC. -/
  | regSyncRecovered
  /-- USDO_INITIATE (R414): A USDO initiate opens a session, expedited or segmented. -/
  | usdoInitiate (bus : Fin 2) (r : UsdoReq) (env : WriteEnv)
  /-- USDO_SEGMENT (R415): A USDO segment is received or sent and confirmed. -/
  | usdoSegment (bus : Fin 2) (bs : List Byte) (last : Bool) (env : WriteEnv)
  /-- USDO_SESSION_TIMEOUT (R415): A gap over 1 s aborts the session. -/
  | usdoSessionTimeout (bus : Fin 2)
  /-- OBJECT_WRITE (R405): A write to a dictionary object with no row of its own, judged in order. -/
  | objectWrite (path : Fin 4) (idx : Fin 65536) (sub : Fin 256) (bs : List Byte) (env : WriteEnv)
  /-- MAILBOX_READ (R427): Mailbox CMD 1 reads an object into OD_DATA. -/
  | mailboxRead
  /-- MAILBOX_WRITE (R427): Mailbox CMD 2 writes an object from OD_DATA. -/
  | mailboxWrite
  /-- MAILBOX_COMPLETE (R427): A mailbox command completes, sets DONE and may send MSI-X. -/
  | mailboxComplete (env : WriteEnv)
  /-- NMT_START (R413): NMT start moves the node to OPERATIONAL. -/
  | nmtStart (bus : Fin 2)
  /-- NMT_STOP (R413): NMT stop moves the node to STOPPED. -/
  | nmtStop (bus : Fin 2)
  /-- NMT_ENTER_PRE_OPERATIONAL (R413): NMT enter pre-operational stops PDOs. -/
  | nmtEnterPreOperational (bus : Fin 2)
  /-- NMT_RESET_COMMUNICATION (R413): Resets communication objects and reinitialises the node. -/
  | nmtResetCommunication (bus : Fin 2)
  /-- NMT_RESET_NODE (R413): Reapplies the profile, then resets communication. -/
  | nmtResetNode (bus : Fin 2)
  /-- PDO_MAPPING_WRITE (R418): Writing a PDO mapping count judges and activates the mapping. -/
  | pdoMappingWrite (path : Fin 4) (pdo : Fin 4) (n : Fin 256)
  /-- RPDO1 (R420): Received RPDO applies each mapped object as a C-path write. -/
  | rpdo1 (bus : Fin 2) (bs : List Byte) (env : WriteEnv)
  /-- SYNC (R421): A SYNC frame drives SYNC-triggered TPDOs. -/
  | syncFrame (bus : Fin 2)
  /-- TPDO_TIMER (R419): A TPDO event timer expires and the TPDO is sent on both buses. -/
  | tpdoTimer (n : Fin 3)
  /-- HEARTBEAT_TIMER (R422): The producer heartbeat is sent. -/
  | heartbeatTimer
  /-- RM_HEARTBEAT (R422): A rack-manager heartbeat is received, clearing RM_SILENT. -/
  | rmHeartbeat (bus : Fin 2) (node : Fin 128)
  /-- RM_SILENCE_TIMEOUT (R422): 1 s without heartbeat or RPDO starts the Autonomous source. -/
  | rmSilenceTimeout
  /-- EMCY_INHIBIT_EXPIRY (R423): The inhibit time ends and the next waiting EMCY is sent. -/
  | emcyInhibitExpiry
  /-- CAN_BUS_OFF_RECOVERY (R409): A bus recovers from bus-off. -/
  | canBusOffRecovery (bus : Fin 2)
  /-- PROFILE_ACTIVE_WRITE (R429): Selects a profile at run time after checking every field. -/
  | profileActiveWrite (path : Fin 4) (n : Nat)
  /-- PROFILE_SAVE (R430): Stores the values in force into a profile. -/
  | profileSave (path : Fin 4) (n : Nat)
  /-- PROFILE_FACTORY (R430): Restores a profile to shipped values. -/
  | profileFactory (path : Fin 4) (n : Nat)
  /-- PROFILE_FLASH_DONE (R430): The profile flash write completes. -/
  | profileFlashDone
  /-- GET_VERSION (R450): SPDM GET_VERSION request. -/
  | getVersion (tr : Fin 2)
  /-- GET_CAPABILITIES (R450): SPDM GET_CAPABILITIES request. -/
  | getCapabilities (tr : Fin 2)
  /-- NEGOTIATE_ALGORITHMS (R449): SPDM algorithm negotiation. -/
  | negotiateAlgorithms (tr : Fin 2) (asym hash mhash : Fin 4294967296)
  /-- GET_DIGESTS (R450): SPDM request for certificate digests. -/
  | getDigests (tr : Fin 2)
  /-- GET_CERTIFICATE (R450): SPDM request for a certificate chain. -/
  | getCertificate (tr : Fin 2) (slot : Fin 16) (off len : Fin 65536)
  /-- CHALLENGE (R450): SPDM challenge signed by the DIK. -/
  | challenge (tr : Fin 2) (slot : Fin 16) (summary : Bool) (c : ChalReq)
  /-- GET_MEASUREMENTS (R443): SPDM request for signed or unsigned measurement blocks. -/
  | getMeasurements (tr : Fin 2) (r : MeasReq)
  /-- GET_MEASUREMENT_EXTENSION_LOG (R448): SPDM request for the measurement log. -/
  | getMeasurementExtensionLog (tr : Fin 2) (off len : Fin 4294967296)
  /-- GET_CSR (R450): SPDM request for a CSR of the DIK. -/
  | getCsr (tr : Fin 2)
  /-- SET_CERTIFICATE (R450): Installs a slot 1 chain for the DIK. -/
  | setCertificate (tr : Fin 2) (slot : Fin 16) (chain : List Byte) (ok : Bool) (anchor : List Byte)
  /-- SPDM_UNSUPPORTED_REQUEST (R450): Any other request code gets ERROR UnsupportedRequest. -/
  | spdmUnsupportedRequest (e : SpdmBad)
  /-- CONTEXT_SET (R453): Vendor request that keys a bounce-buffer context. -/
  | contextSet (tr : Fin 2) (r : CtxReq)
  /-- CONTEXT_CLEAR (R453): Vendor request that zeroises a context. -/
  | contextClear (tr : Fin 2) (ctx rsv : Nat)
  /-- MEASURE_RANGE (R446): Vendor request that starts measuring a memory range. -/
  | measureRange (tr : Fin 2) (addr len : Nat)
  /-- MEASURE_RANGE_COMPLETE (R446): The tree-hash engine finishes and extends the weight digest. -/
  | measureRangeComplete (die : Fin 2)
  /-- SECURITY_ENGINE_OP_COMPLETE (R436): An RSA operation finishes and the next waiting one starts. -/
  | securityEngineOpComplete
  /-- LINK_AUTH_MODE_WRITE (R454): Sets the link authentication mode. -/
  | linkAuthModeWrite (path : Fin 4) (v : Nat)
  /-- CONF_MODE_REQUEST (R457): Requests entry to or exit from confidential mode, starting Primer. -/
  | confModeRequest (path : Fin 4) (v : Nat)
  /-- FW_STAGE_CHUNK (R441): Writes a chunk of an image into the inactive slot. -/
  | fwStageChunk (path : Fin 4) (bs : List Byte)
  /-- FW_STAGE_COMMIT (R441): Starts verifying the staged image. -/
  | fwStageCommit (path : Fin 4) (v : Nat)
  /-- FW_STAGE_COMMIT_DONE (R441): Verification ends with STAGED or INVALID. -/
  | fwStageCommitDone (cert sig digest : Bool)
  /-- FW_ACTIVATE (R442): Makes the staged slot preferred, or restarts the cores in RECOVERY. -/
  | fwActivate (path : Fin 4) (v : Nat) (b : BootIn)
  /-- FW_COMMIT_SVN (R440): Raises the fused SVN minimum. -/
  | fwCommitSvn (path : Fin 4) (v : Nat)
  /-- DIK_GENERATION_DONE (R437): A ZLM-1640-AS finishes generating its DIK. -/
  | dikGenerationDone
  /-- PRIMER_START (R460): Starts Primer: discards work, disables rings, enters APPROACH. -/
  | primerStart (path : Fin 4) (v : Nat)
  /-- PRIMER_APPROACH_END (R461): P_in reaches the hold level and Primer proper begins. -/
  | primerApproachEnd
  /-- PRIMER_ERASE_CHECK (R463): At 1,190 ms erase counts and key changes are checked and state cleared. -/
  | primerEraseCheck (whole : Bool)
  /-- PRIMER_END (R462): At 1,200 ms the result is recorded and the module returns to READY. -/
  | primerEnd
  /-- ALIGN_COLLECT_WINDOW_END (R470): After 1 s collecting aligned peers the offset is computed. -/
  | alignCollectWindowEnd
  /-- TIME_ALIGN (R471): The alignment step is applied once nothing is outstanding. -/
  | timeAlign
  /-- REF25_LOSS (R474): No REF25 edge for 1 µs switches to the local oscillator. -/
  | ref25Loss
  /-- REF25_RELOCK (R474): After 1,000 edges the time base returns to REF25. -/
  | ref25Relock
  /-- FREEZE_NOW (R479): Freezes every accumulating object. -/
  | freezeNow (path : Fin 4) (v : Nat)
  /-- FREEZE_AT_WRITE (R479): Sets a future freeze time, or freezes at once if past. -/
  | freezeAtWrite (path : Fin 4) (v : Nat)
  /-- FREEZE_AT_REACHED (R479): The time base reaching FREEZE_AT triggers a freeze. -/
  | freezeAtReached
  /-- FREEZE_RELEASE (R479): Returns frozen objects to live values. -/
  | freezeRelease (path : Fin 4) (v : Nat)
  /-- TRACE_CTL_WRITE (R483): Configures the trace when not capturing. -/
  | traceCtlWrite (path : Fin 4) (v : Nat)
  /-- TRACE_ARM (R484): Empties buffers and starts capture. -/
  | traceArm (path : Fin 4) (v : Nat)
  /-- TRACE_STOP (R484): Stops capture and writes the closing GAP. -/
  | traceStop (path : Fin 4) (v : Nat)
  /-- TRACE_TRIGGER (R484): Software trace trigger source. -/
  | traceTrigger (path : Fin 4) (v : Nat)
  /-- TRACE_BUFFER_FULL (R484): In mode 1 the last slot is written and capture stops. -/
  | traceBufferFull
  /-- TRACE_POST_COMPLETE (R484): P_post records after the trigger stop capture in mode 3. -/
  | tracePostComplete
  /-- TRACE_DATA_READ (R486): Reads one 256 KiB window of a trace buffer. -/
  | traceDataRead (path : Fin 4)
  /-- BRK_ADDR_HIT (R487): A tile about to issue a valid breakpoint bundle stops before it. -/
  | brkAddrHit (t : TileId)
  /-- BRK_DRAIN_COMPLETE (R488): The graph drains, the dump is written and the state is BROKEN. -/
  | brkDrainComplete
  /-- BRK_DRAIN_TIMEOUT (R488): The drain limit expires and the graph is discarded. -/
  | brkDrainTimeout
  /-- BRK_RESUME (R491): Resumes a broken graph from its boundaries. -/
  | brkResume (path : Fin 4) (v : Nat)
  /-- HELD_BREAK_TAKE_UP (R488): The oldest held break is taken up when the state returns to NONE. -/
  | heldBreakTakeUp
  /-- HANG_DETECTED (R493): A run without progress for HANG_TIMEOUT_MS is declared hung. -/
  | hangDetected (h : Nat)
  /-- WFG_REQUEST (R494): Starts a wait-for graph assembly for a handle. -/
  | wfgRequest (path : Fin 4) (h : Nat)
  /-- WFG_SECOND_READ (R494): 1 ms later the second read completes the assembly. -/
  | wfgSecondRead
  /-- OPC_SELECT_WRITE (R477): Selects an OP_ID for operator counters and zeroes them. -/
  | opcSelectWrite (path : Fin 4) (k : Fin 16) (v : Nat)
  /-- AUX_POWER_ON (R505): AUX rises: time base starts, cores boot and verify, logbook scanned. -/
  | auxPowerOn (e : AuxIn)
  /-- RECOVERY_CLAIM (R439): 30 ms after AUX with no valid owner a RECOVERY core claims. -/
  | recoveryClaim
  /-- AUX_LOSS (R513): AUX below 10 V for 10 µs; VAON held while the logbook commits. -/
  | auxLoss
  /-- COLD_START (R502): Start conditions hold and the cold start begins. -/
  | coldStart (slot : Fin 64) (prof : Fin 4) (lost : List (Fin 4))
  /-- START_STEP_COMPLETE (R502): A cold-start step finishes and the next begins, or the start ends READY or FAULT. -/
  | startStepComplete (e : StartIn)
  /-- RESET_REQUEST_COLD_START (R507): RESET_REQUEST 1 starts an ordered stop and cold start. -/
  | resetRequestColdStart (path : Fin 4)
  /-- RESET_REQUEST_STANDBY (R507): RESET_REQUEST 2 stops and holds in STANDBY. -/
  | resetRequestStandby (path : Fin 4)
  /-- REGION_RESET (R506): RESET_REQUEST 3 or 4 resets one die's compute region. -/
  | regionReset (path : Fin 4) (die : Fin 2)
  /-- REGION_RESET_COMPLETE (R506): The region reset ends and the region is EMPTY. -/
  | regionResetComplete (die : Fin 2)
  /-- MGMT_HANDOVER (R511): RESET_REQUEST 5 hands management to the standby core. -/
  | mgmtHandover (path : Fin 4) (imageOk : Bool)
  /-- ORDERED_STOP_COMPLETE (R500): Every rail is OFF and the module enters STANDBY. -/
  | orderedStopComplete
  /-- MGMT_HEARTBEAT_TIMEOUT (R510): Owner heartbeat absent 200 µs; the standby core claims. -/
  | mgmtHeartbeatTimeout
  /-- MGMT_CORE_RESTART (R511): A failed core is reset 1 s later. -/
  | mgmtCoreRestart (core : Fin 2) (imageOk : Bool)
  /-- NO_OWNER_TIMEOUT (R512): No owner for 10 ms drives FAULT_N low and lowers the hardware cap. -/
  | noOwnerTimeout
  /-- MATE_N_RISE (R531): MATE_N high causes an input stop and opens the input switch. -/
  | mateNRise
  /-- INPUT_SWITCH_ON (R531): MATE_N low for 20 ms turns on the input switch and precharge. -/
  | inputSwitchOn
  /-- LOG_COMMIT (R522): The oldest pending entry is committed to flash. -/
  | logCommit
  /-- LOG_SECTOR_ERASE_DONE (R516): A sector erase ahead of the write position completes. -/
  | logSectorEraseDone (sector : Fin 1024)
  /-- LOG_RECORD_READ (R523): Reads a record by the path's read SEQ and advances. -/
  | logRecordRead (e : LogRead)
  /-- OPERATING_SECONDS_SAVE (R524): Every 60 s operating seconds are saved to flash. -/
  | operatingSecondsSave
  /-- ENGINE_SELF_CHECK_FAULT (R395): A Trowel engine detects its own parity error or supply failure and goes to FAILED, with a takeover if it was owner. -/
  | engineSelfCheckFault (engine : Fin 2)
  /-- MGMT_SELF_CHECK_FAULT (R510): A management core reports a self-check fault: the owner's fault lets the standby claim at once, and a standby's fault sends it to FAILED. -/
  | mgmtSelfCheckFault (core : Fin 2)
  /-- PCIE_LINK_UP (R275): The host link finishes training and comes up at its rate and width, with BAR0, DOE and configuration requests answered from then on. -/
  | pcieLinkUp (speed : Fin 7) (width : Fin 9) (flit : Bool)
  /-- ADMISSION_DUTY_SLOT (R326): A 64 ns slot opens in which a tile's rotated duty pattern allows issue, and bundles held by duty gating or the brake issue again. -/
  | admissionDutySlot (t : TileId)
  /-- CAN_BUS_NO_FRAME (R411): A CAN bus that has delivered no frame for 1 s shows state 3 in CAN_BUS_STATE, and the loss of that bus is masked. -/
  | canBusNoFrame (e : BusLoss)
  deriving DecidableEq, Repr

end Sys2Proof
end

