-- ==== Sys2Proof/Config.lean ====
section
/-! DEFINITION. What the manual leaves open, as constants without a body: nothing proved about the model can see a
value of one of them (log entry 1). -/
namespace Sys2Proof.Config

/-- The byte at address `a` of a memory range whose contents the manual calls undefined, for the event numbered
`seed` that made it so. -/
opaque freeByte (seed a : Nat) : Byte

/-- A register or value that the manual leaves undefined, number `i` of the event numbered `seed`. -/
opaque freeWord (seed i : Nat) : Nat

/-- A choice that the manual leaves open, number `i` of the event numbered `seed`. -/
opaque freeBool (seed i : Nat) : Bool

/-- R66: the fixed result of FRCP (0), FRSQ (1), FEXP2 (2), FLOG2 (3), FTANH (4) for each input; the manual fixes that
it exists and gives no value. -/
opaque fixedFn (fn : Nat) (x : Lane) : Lane

/-- The arithmetic flags of R80, INVALID apart, that a fixed-result function sets; the manual gives none. -/
opaque fixedFlags (fn : Nat) (x : Lane) : BitVec 5

/-- R443 to R448: SHA-512 of a byte string, which the model does not compute. -/
opaque sha512 (bytes : List Byte) : List Byte

/-- Signatures by the module's own keys, over a byte string. -/
opaque sign (key : Nat) (bytes : List Byte) : List Byte

/-- AES-GCM ciphertext and tag made by the module: key number, nonce, associated data, plain text. -/
opaque sealBytes (key nonce : Nat) (aad plain : List Byte) : List Byte

/-- AES-GCM as the module verifies and decrypts: key number, nonce, associated data, ciphertext and tag; none where the tag
fails. -/
opaque openBytes (key nonce : Nat) (aad cipher tag : List Byte) : Option (List Byte)

/-- The signature function that COLL_STEP carries (R264), which the manual does not give. -/
opaque collSignature (bytes : List Byte) : Nat

/-- R435: the certificate chain of slot 0, and the module's DIK public key, which the manual does not give. -/
opaque chain0 : List Byte
opaque dikPublic : List Byte

/-- R438: the byte at an offset of a firmware slot as the factory, or an erase, left it. -/
opaque fwByte (slot off : Nat) : Byte

/-- R443: the digests of the boot ROM with the fused configuration, and of the shipped gain image. -/
opaque romDigest : List Byte
opaque gainDigest : List Byte

/-- R450: the certificate signing request for the DIK, but for its signature. -/
opaque csrBody : List Byte

/-- R455: a link key wrapped for the peer: RSA-OAEP under the peer's DIK, label "ZLM LINK KEY". -/
opaque wrapKey (event key : Nat) : List Byte

/-- R372: the factory content of the shipped gain image, which the manual does not list: the word at an offset of the set
of a rail and region. -/
opaque gainWord (rail region off : Nat) : Nat

/-- R365: the trim that balances a phase, for the duty of its rail and its current's difference from the mean of the rail's
phases; the manual does not give it. -/
opaque balanceTrim (duty off : Int) : Int

/-- R400: the CRC-32C of the shipped gain image. -/
opaque gainCrc : Nat

/-- R435: the fused SHA-512 digest of the Casfolyn root key, under which certificates verify, and the secure-store key. -/
opaque rootKeyDigest : List Byte
opaque storeKey : Nat

/-- R423, R519: the event code of a bus's recovery from bus-off (0) and of a short RPDO (1), for which no code is given. -/
opaque busEventCode (i : Nat) : Nat

/-- R311: the energy of one event of a class (by its number), set at test for each module, in 10⁻¹⁸ J; core-scaled
classes at 0.75 V. -/
opaque eventWeight (cls : Nat) : Nat

/-- R311: the factory table behind P_fix, in nW: optics, LPDDR5X background, host interface and management (0 to 3), and
the conversion loss at a load. -/
opaque fixPower (block : Nat) : Nat
opaque conversionLoss (load : Nat) : Nat

/-- R311: the factory table of a die's leakage, in nW, over 16 voltages (0.1 mV) and 8 temperatures (0.1 °C). -/
opaque leakPower (die i j : Nat) : Nat
opaque leakVolt (i : Nat) : Nat
opaque leakTemp (j : Nat) : Int

end Sys2Proof.Config
end

