-- ==== Sys2Proof/Machine/Bits.lean ====
section
/-! DEFINITION. Bit fields, sign extension and byte order (R14: little-endian). -/
namespace Sys2Proof.Machine

/-- Bits `[hi:lo]` of `w`. -/
def bitsOf (w hi lo : Nat) : Nat := (w >>> lo) % 2 ^ (hi + 1 - lo)

/-- Bit `i` of `w`. -/
def bitAt (w i : Nat) : Bool := (w >>> i) % 2 == 1

/-- `w` with the `n` bits from bit `lo` replaced by the low `n` bits of `v`. -/
def setBits (w lo n v : Nat) : Nat :=
  w - ((w >>> lo) % 2 ^ n) * 2 ^ lo + (v % 2 ^ n) * 2 ^ lo

/-- A Bool as the number 0 or 1. -/
def b2n (b : Bool) : Nat := if b then 1 else 0

/-- The signed reading of the low `n` bits of `v`. -/
def sxt (n v : Nat) : Int :=
  if (v % 2 ^ n) < 2 ^ (n - 1) then Int.ofNat (v % 2 ^ n) else Int.ofNat (v % 2 ^ n) - Int.ofNat (2 ^ n)

/-- The `n`-bit two's-complement word of `i`. -/
def uxt (n : Nat) (i : Int) : Nat := (i % Int.ofNat (2 ^ n)).toNat

/-- The number that a list of bytes spells, the first byte lowest. -/
def leNat : List Byte → Nat
  | [] => 0
  | b :: r => b.toNat + 256 * leNat r

/-- The `n` bytes of `v`, the lowest first. -/
def leBytes : Nat → Nat → List Byte
  | 0, _ => []
  | n + 1, v => BitVec.ofNat 8 v :: leBytes n (v / 256)

/-- The little-endian field of `n` bytes at byte offset `off`. -/
def fld (bs : List Byte) (off n : Nat) : Nat := leNat ((bs.drop off).take n)

/-- The byte at offset `off` (0 past the end). -/
def byteAt (bs : List Byte) (off : Nat) : Nat := (bs.getD off 0).toNat

/-- Every byte of the range is zero. -/
def zeroIn (bs : List Byte) (off n : Nat) : Bool := ((bs.drop off).take n).all (· == 0)

/-- `n` zero bytes. -/
def zeros (n : Nat) : List Byte := List.replicate n 0

/-- `bs` cut or padded with zeros to exactly `n` bytes. -/
def padTo (n : Nat) (bs : List Byte) : List Byte := (bs ++ zeros (n - bs.length)).take n

/-- The list with bytes `[off, off + new.length)` replaced by `new`. -/
def spliceAt (bs : List Byte) (off : Nat) (new : List Byte) : List Byte :=
  bs.take off ++ new ++ bs.drop (off + new.length)

/-- The smallest multiple of `a` that is at least `n`. -/
def alignUp (n a : Nat) : Nat := (n + a - 1) / a * a

/-- Division rounded up. -/
def ceilDiv (n d : Nat) : Nat := (n + d - 1) / d

/-- The number of set bits among the low `n` bits of `w`. -/
def popcount : Nat → Nat → Nat
  | 0, _ => 0
  | n + 1, w => w % 2 + popcount n (w / 2)

/-- Exclusive or of two words of the low `n` bits. -/
def xorN (n a b : Nat) : Nat := (Nat.xor a b) % 2 ^ n

end Sys2Proof.Machine
end

