-- ==== Sys2Proof/Machine/Table.lean ====
section
/-! DEFINITION. Reading and writing sparse tables: sorted lists of key and value pairs. -/
namespace Sys2Proof.Machine

/-- The entry of key `k`, if the table lists one. -/
def tfind {α : Type} : Table α → Nat → Option α
  | [], _ => none
  | (j, v) :: r, k => if j = k then some v else tfind r k

/-- The entry of key `k`, or `d` where the table lists none. -/
def tget {α : Type} (t : Table α) (k : Nat) (d : α) : α := (tfind t k).getD d

/-- The table with `v` at key `k`, still sorted. -/
def tput {α : Type} : Table α → Nat → α → Table α
  | [], k, v => [(k, v)]
  | (j, u) :: r, k, v =>
    if k < j then (k, v) :: (j, u) :: r
    else if j = k then (k, v) :: r
    else (j, u) :: tput r k v

/-- The table without key `k`. -/
def tdel {α : Type} : Table α → Nat → Table α
  | [], _ => []
  | (j, u) :: r, k => if j = k then tdel r k else (j, u) :: tdel r k

/-- Changes the entry at key `k` by `f`, starting from `d` where none is listed. -/
def tmod {α : Type} (t : Table α) (k : Nat) (d : α) (f : α → α) : Table α :=
  tput t k (f (tget t k d))

/-- A list with its `i`-th element replaced (unchanged where there is none). -/
def lset {α : Type} : List α → Nat → α → List α
  | [], _, _ => []
  | _ :: r, 0, v => v :: r
  | x :: r, n + 1, v => x :: lset r n v

/-- The index of the first element that satisfies `p`. -/
def lfindIdx {α : Type} (p : α → Bool) : List α → Option Nat
  | [] => none
  | x :: r => if p x then some 0 else (lfindIdx p r).map (· + 1)

/-- The list without its first element that satisfies `p`. -/
def leraseFirst {α : Type} (p : α → Bool) : List α → List α
  | [] => []
  | x :: r => if p x then r else x :: leraseFirst p r

/-- Stable insertion before the first element that must come after `x`. -/
def linsert {α : Type} (before : α → α → Bool) (x : α) : List α → List α
  | [] => [x]
  | y :: r => if before x y then x :: y :: r else y :: linsert before x r

/-- Stable insertion sort; `before a b` says that `a` must come before `b`. -/
def lsort {α : Type} (before : α → α → Bool) : List α → List α
  | [] => []
  | x :: r => linsert (fun a b => !before b a) x (lsort before r)

/-- The sum of a list of numbers. -/
def lsum : List Nat → Nat
  | [] => 0
  | x :: r => x + lsum r

/-- The largest of a list of numbers, 0 for none. -/
def lmax : List Nat → Nat
  | [] => 0
  | x :: r => max x (lmax r)

/-- The smallest of `d` and a list of numbers. -/
def lminD (d : Nat) : List Nat → Nat
  | [] => d
  | x :: r => min x (lminD d r)

end Sys2Proof.Machine
end

