-- ==== Sys2Proof/Machine/Numbers.lean ====
section
/-! DEFINITION. Number formats, the single output rounding and the arithmetic flags (chapter 02: R45 to R66, R80).
Values are exact: a sign, a natural magnitude and a power of two. -/
namespace Sys2Proof.Machine

/-- An exact value: `(−1)^neg × mag × 2^ex`. -/
structure Dy where
  neg : Bool
  mag : Nat
  ex  : Int
  deriving DecidableEq, Repr

/-- What a format's pattern stands for: a finite value, an infinity, or NaN. -/
inductive XVal where
  | fin (d : Dy)
  | inf (neg : Bool)
  | nan
  deriving DecidableEq, Repr

/-- How a floating-point format uses its top exponent (R46). -/
inductive FpKind where
  | ieee     -- infinities and NaNs at the top exponent
  | e4m3     -- one NaN pattern, no infinity
  | finite   -- every pattern is finite
  deriving DecidableEq, Repr

/-- The fields of a floating-point format (R46). -/
structure Fp where
  eb   : Nat
  fb   : Nat
  bias : Nat
  kind : FpKind
  deriving DecidableEq, Repr

/-- R80: flag bits. -/
def fInvalid : Nat := 1
def fOverflow : Nat := 2
def fUnderflow : Nat := 4
def fInexact : Nat := 8
def fSaturated : Nat := 16
def fNanInput : Nat := 32
def fMxClamped : Nat := 64

/-- R80: each flag bit is the OR of its condition over the command. -/
def fOr (a b : Nat) : Nat := Nat.lor a b

/-- R45: the format codes. -/
def fmtFP32 : Nat := 0x0
def fmtBF16 : Nat := 0x1
def fmtFP16 : Nat := 0x2
def fmtE4M3 : Nat := 0x3
def fmtE5M2 : Nat := 0x4
def fmtMXINT8 : Nat := 0xA
def fmtINT8 : Nat := 0xB
def fmtINT32 : Nat := 0xC
def fmtEA640 : Nat := 0xD

/-- R45: element bits of a format code. -/
def fmtBits (f : Nat) : Nat :=
  match f with
  | 0x0 => 32 | 0x1 => 16 | 0x2 => 16 | 0x3 => 8 | 0x4 => 8 | 0x5 => 8 | 0x6 => 8 | 0x7 => 6
  | 0x8 => 6 | 0x9 => 4 | 0xA => 8 | 0xB => 8 | 0xC => 32 | 0xD => 640 | _ => 0

/-- R45: the six MX formats. -/
def fmtIsMX (f : Nat) : Bool := decide (5 ≤ f ∧ f ≤ 0xA)

/-- R45: codes 0xE and 0xF are reserved. -/
def fmtReserved (f : Nat) : Bool := decide (0xE ≤ f)

/-- R46: the floating-point format of a code; for an MX code, that of its elements. -/
def fpOf (f : Nat) : Option Fp :=
  match f with
  | 0x0 => some ⟨8, 23, 127, .ieee⟩
  | 0x1 => some ⟨8, 7, 127, .ieee⟩
  | 0x2 => some ⟨5, 10, 15, .ieee⟩
  | 0x3 => some ⟨4, 3, 7, .e4m3⟩
  | 0x4 => some ⟨5, 2, 15, .ieee⟩
  | 0x5 => some ⟨4, 3, 7, .e4m3⟩
  | 0x6 => some ⟨5, 2, 15, .ieee⟩
  | 0x7 => some ⟨2, 3, 1, .finite⟩
  | 0x8 => some ⟨3, 2, 3, .finite⟩
  | 0x9 => some ⟨2, 1, 1, .finite⟩
  | _ => none

/-- The largest biased exponent and the largest significand there of a finite value (R46). -/
def fpMaxExp (p : Fp) : Nat :=
  match p.kind with
  | .ieee => 2 ^ p.eb - 2
  | _ => 2 ^ p.eb - 1

def fpMaxSig (p : Fp) : Nat :=
  match p.kind with
  | .e4m3 => 2 ^ (p.fb + 1) - 2
  | _ => 2 ^ (p.fb + 1) - 1

/-- The pattern of the largest finite value, without sign. -/
def fpMaxBits (p : Fp) : Nat := fpMaxExp p * 2 ^ p.fb + (fpMaxSig p - 2 ^ p.fb)

/-- R47: the canonical NaN that is written. -/
def fpNaN (p : Fp) : Nat :=
  match p.kind with
  | .e4m3 => 0x7F
  | _ => if p.eb = 5 ∧ p.fb = 2 then 0x7F else (2 ^ p.eb - 1) * 2 ^ p.fb + 2 ^ (p.fb - 1)

/-- The pattern of +infinity. -/
def fpInf (p : Fp) : Nat := (2 ^ p.eb - 1) * 2 ^ p.fb

/-- The sign bit of a format. -/
def fpSign (p : Fp) (neg : Bool) : Nat := if neg then 2 ^ (p.eb + p.fb) else 0

/-- R46, R47, R48: what a pattern of a floating-point format stands for. -/
def decodeFp (p : Fp) (raw : Nat) : XVal :=
  let neg := bitAt raw (p.eb + p.fb)
  let e := bitsOf raw (p.eb + p.fb - 1) p.fb
  let f := raw % 2 ^ p.fb
  let special := e == 2 ^ p.eb - 1
  match p.kind with
  | .ieee =>
    if special && f == 0 then .inf neg
    else if special then .nan
    else if e = 0 then .fin ⟨neg, f, 1 - (p.bias : Int) - (p.fb : Int)⟩
    else .fin ⟨neg, 2 ^ p.fb + f, (e : Int) - (p.bias : Int) - (p.fb : Int)⟩
  | .e4m3 =>
    if special && f == 2 ^ p.fb - 1 then .nan
    else if e = 0 then .fin ⟨neg, f, 1 - (p.bias : Int) - (p.fb : Int)⟩
    else .fin ⟨neg, 2 ^ p.fb + f, (e : Int) - (p.bias : Int) - (p.fb : Int)⟩
  | .finite =>
    if e = 0 then .fin ⟨neg, f, 1 - (p.bias : Int) - (p.fb : Int)⟩
    else .fin ⟨neg, 2 ^ p.fb + f, (e : Int) - (p.bias : Int) - (p.fb : Int)⟩

/-- An integer as an exact value, scaled by `2^ex`. -/
def dyOfInt (i : Int) (ex : Int) : Dy := ⟨decide (i < 0), i.natAbs, ex⟩

/-- R45 to R50: the value of one element of a scalar format, or of an MX element before its block scale. -/
def decodeElem (f raw : Nat) : XVal :=
  match fpOf f with
  | some p => decodeFp p raw
  | none =>
    if f = fmtINT32 then .fin (dyOfInt (sxt 32 raw) 0)
    else if f = fmtMXINT8 then .fin (dyOfInt (sxt 8 raw) (-6))
    else .fin (dyOfInt (sxt 8 raw) 0)

/-- R52: an element of an MX block under its E8M0 scale byte. -/
def scaleElem (scale : Nat) (x : XVal) : XVal :=
  if scale = 0xFF then .nan
  else match x with
    | .fin d => .fin { d with ex := d.ex + (scale : Int) - 127 }
    | y => y

/-- Multiplication of an exact value by a power of two (OUT_SHIFT, R56). -/
def dyShift (d : Dy) (k : Int) : Dy := { d with ex := d.ex + k }

/-- The signed integer that an exact value is in units of `2^e`, for `e` at most its own exponent. -/
def dyAt (d : Dy) (e : Int) : Int :=
  let n : Nat := d.mag <<< (d.ex - e).toNat
  if d.neg then -(n : Int) else (n : Int)

/-- The exact sum; a zero sum is negative only if both terms are (R49, round to nearest even). -/
def dyAdd (a b : Dy) : Dy :=
  let e := min a.ex b.ex
  let i := dyAt a e + dyAt b e
  ⟨if i = 0 then a.neg && b.neg else decide (i < 0), i.natAbs, e⟩

/-- The exact product. -/
def dyMul (a b : Dy) : Dy := ⟨a.neg != b.neg, a.mag * b.mag, a.ex + b.ex⟩

/-- floor(log2) of a nonzero exact value's magnitude. -/
def dyLog2 (d : Dy) : Int := (Nat.log2 d.mag : Int) + d.ex

/-- R56: the rounding modes. -/
def rmNearest : Nat := 0
def rmZero : Nat := 1
def rmStochastic : Nat := 2

/-- R61: the random value of element `k` under `seed`. -/
def srValue (seed k : Nat) : Nat :=
  let m := 2 ^ 64
  let z0 := (seed + (k + 1) * 0x9E3779B97F4A7C15) % m
  let z1 := ((Nat.xor z0 (z0 >>> 30)) * 0xBF58476D1CE4E5B9) % m
  let z2 := ((Nat.xor z1 (z1 >>> 27)) * 0x94D049BB133111EB) % m
  let z3 := Nat.xor z2 (z2 >>> 31)
  z3 >>> 48

/-- R59, the rounding of `mag × 2^sh` to an integer, and whether the result differs from the exact value. -/
def roundInt (rm r mag : Nat) (sh : Int) : Nat × Bool :=
  if 0 ≤ sh then (mag <<< sh.toNat, false)
  else
    let k := (-sh).toNat
    let n := mag >>> k
    let rem := mag % 2 ^ k
    let up :=
      if rm = rmNearest then decide (2 ^ k < 2 * rem) || (decide (2 * rem = 2 ^ k) && n % 2 == 1)
      else if rm = rmStochastic then decide (65536 ≤ (rem * 65536) / 2 ^ k + r)
      else false
    (if up then n + 1 else n, rem != 0)

/-- R56: the fields of an arithmetic control word, with the seed of its command. -/
structure Arith where
  outFmt : Nat
  rm     : Nat
  sat    : Bool
  exact  : Bool
  shift  : Int
  seed   : Nat
  deriving DecidableEq, Repr

/-- R56: reading ARITH_CTL. -/
def arithOf (ctl seed : Nat) : Arith :=
  ⟨ctl % 16, bitsOf ctl 5 4, bitAt ctl 6, bitAt ctl 7, sxt 9 (bitsOf ctl 16 8), seed⟩

/-- R57, checks 1, 2, 3 and 5, with `inOk` the answer of check 4 for the command's inputs; `none` accepts. -/
def arithCheck (ctl : Nat) (inOk : Bool) : Option Nat :=
  let a := arithOf ctl 0
  if 2 ^ 17 ≤ ctl then some 0x0134
  else if fmtReserved a.outFmt then some 0x0132
  else if a.rm = 3 then some 0x0130
  else if a.exact && !inOk then some 0x0133
  else if a.outFmt = fmtEA640 ∧ a.shift ≠ 0 then some 0x0135
  else none

/-- R68: formats admitted to exact mode as addends (vector unit, scatter-add, reductions). -/
def exactAddend (f : Nat) : Bool :=
  f == fmtFP32 || f == fmtBF16 || f == fmtFP16 || f == fmtINT32 || f == fmtEA640

/-- Round to nearest even into FP32, with infinities on overflow: the vector unit's rounding (R66). -/
def arithRNE : Arith := ⟨fmtFP32, rmNearest, false, false, 0, 0⟩

/-- R59, R63, R64: a finite value to a floating-point format; `r` is the random value of R61. The NaN of an E4M3 overflow
arises from a value that is none, so that INVALID is set (R80, log entry 114). -/
def roundFp (p : Fp) (a : Arith) (r : Nat) (d0 : Dy) : Nat × Nat :=
  let d := dyShift d0 a.shift
  if d.mag = 0 then (fpSign p (d.neg && !a.exact), 0)
  else
    let emin : Int := 1 - (p.bias : Int)
    let e := max (dyLog2 d) emin
    let (n0, inex) := roundInt a.rm r d.mag (d.ex - (e - (p.fb : Int)))
    let carry := n0 = 2 ^ (p.fb + 1)
    let n := if carry then 2 ^ p.fb else n0
    let e' := if carry then e + 1 else e
    let tiny := decide (dyLog2 d < emin)
    let fl := fOr (if inex then fInexact else 0) (if inex && tiny then fUnderflow else 0)
    let emax : Int := (fpMaxExp p : Int) - (p.bias : Int)
    if emax < e' ∨ (e' = emax ∧ fpMaxSig p < n) then
      if a.rm = rmZero then (fpSign p d.neg + fpMaxBits p, fOr fSaturated fInexact)
      else if a.sat ∨ p.kind = .finite then (fpSign p d.neg + fpMaxBits p, fOr fl (fOr fSaturated fInexact))
      else if p.kind = .ieee then (fpSign p d.neg + fpInf p, fOr fl (fOr fOverflow fInexact))
      else (fpNaN p, fOr fl (fOr fOverflow (fOr fInexact fInvalid)))
    else if n < 2 ^ p.fb then (fpSign p d.neg + n, fl)
    else (fpSign p d.neg + (e' + (p.bias : Int)).toNat * 2 ^ p.fb + (n - 2 ^ p.fb), fl)

/-- R60, R64: a finite value to an integer of `w` bits; a saturated result differs from the exact value. -/
def roundIntFmt (w : Nat) (a : Arith) (r : Nat) (d0 : Dy) : Nat × Nat :=
  let d := dyShift d0 a.shift
  let (n, inex) := roundInt a.rm r d.mag d.ex
  let fl := if inex then fInexact else 0
  if d.neg then
    if 2 ^ (w - 1) < n then (2 ^ (w - 1), fOr fInexact fSaturated) else ((2 ^ w - n) % 2 ^ w, fl)
  else if 2 ^ (w - 1) - 1 < n then (2 ^ (w - 1) - 1, fOr fInexact fSaturated) else (n, fl)

/-- R59, R60, R63: a value to the scalar format `a.outFmt`; `k` is the element's index (R62). The result is the
element's bits and the flags; NAN_INPUT belongs to whoever read a NaN. -/
def convOut (a : Arith) (k : Nat) (x : XVal) : Nat × Nat :=
  let r := if a.rm = rmStochastic then srValue a.seed k else 0
  match fpOf a.outFmt with
  | some p =>
    match x with
    | .fin d => roundFp p a r d
    | .inf neg =>
      if p.kind = .ieee then (fpSign p neg + fpInf p, 0)
      else if a.sat then (fpSign p neg + fpMaxBits p, fSaturated)
      else (fpNaN p, fInvalid)
    | .nan => (fpNaN p, 0)
  | none =>
    let w := if a.outFmt = fmtINT32 then 32 else 8
    match x with
    | .fin d => roundIntFmt w a r d
    | .inf neg => (if neg then 2 ^ (w - 1) else 2 ^ (w - 1) - 1, fSaturated)
    | .nan => (0, fInvalid)

/-- R80: the NAN_INPUT flag of reading `x`. -/
def nanFlag (x : XVal) : Nat := if x = .nan then fNanInput else 0

/-- R53: emax_elem of an MX format. -/
def mxEmax (f : Nat) : Int :=
  match f with
  | 0x5 => 8 | 0x6 => 15 | 0x7 => 2 | 0x8 => 4 | 0x9 => 2 | _ => 0

/-- floor(log2) of the largest magnitude among finite nonzero values, if there is one. -/
def mxMaxLog : List XVal → Option Int
  | [] => none
  | .fin d :: r =>
    if d.mag = 0 then mxMaxLog r
    else match mxMaxLog r with
      | none => some (dyLog2 d)
      | some m => some (max m (dyLog2 d))
  | _ :: r => mxMaxLog r

/-- Whether any value is an infinity or NaN. -/
def anySpecial : List XVal → Bool
  | [] => false
  | .fin _ :: r => anySpecial r
  | _ :: _ => true

/-- R54, step 4: one MX element under scale exponent `x`. -/
def mxElem (a : Arith) (x : Int) (k : Nat) (v : XVal) : Nat × Nat :=
  let r := if a.rm = rmStochastic then srValue a.seed k else 0
  match v with
  | .fin d =>
    match fpOf a.outFmt with
    | some p => roundFp p { a with sat := true, shift := a.shift - x } r d
    | none => roundIntFmt 8 { a with sat := true, shift := a.shift - x + 6 } r d
  | _ => (0, 0)

/-- The elements of a block in order from index `k`, with their flags. -/
def mxElems (a : Arith) (x : Int) : Nat → List XVal → List Nat × Nat
  | _, [] => ([], 0)
  | k, v :: r =>
    let (b, f) := mxElem a x k v
    let (bs, fs) := mxElems a x (k + 1) r
    (b :: bs, fOr f fs)

/-- R54, R55: quantises one block whose first element has index `k`: its element patterns, scale byte and flags. -/
def mxQuantise (a : Arith) (k : Nat) (vs : List XVal) : List Nat × Nat × Nat :=
  if anySpecial vs then (vs.map fun _ => 0, 0xFF, fInvalid)
  else match mxMaxLog vs with
    | none => (vs.map fun _ => 0, 0x07, 0)
    | some m =>
      let x0 := m + a.shift - mxEmax a.outFmt
      let x := max (-120) (min 127 x0)
      let (es, fl) := mxElems a x k vs
      (es, (x + 127).toNat, if x = x0 then fl else fOr fl fMxClamped)

/-- R54, R59, R60: values of a list to a scalar format, element by element from index `k`. -/
def convElems (a : Arith) : Nat → List XVal → List Nat × Nat
  | _, [] => ([], 0)
  | k, v :: r =>
    let (b, f) := convOut a (k % 2 ^ 64) v
    let (bs, fs) := convElems a (k + 1) r
    (b :: bs, fOr f fs)

/-- R54: values of a list to an MX format, `n` blocks of 32 from index `k`. -/
def convBlocks (a : Arith) : Nat → Nat → List XVal → List Nat × Nat
  | 0, _, _ => ([], 0)
  | n + 1, k, vs =>
    let (es, _, f) := mxQuantise a (k % 2 ^ 64) (vs.take 32)
    let (r, fs) := convBlocks a n (k + 32) (vs.drop 32)
    (es ++ r, fOr f fs)

/-- Values to `a.outFmt`: an MX format in blocks of 32 consecutive values (log entry 113). -/
def convList (a : Arith) (k : Nat) (vs : List XVal) : List Nat × Nat :=
  if fmtIsMX a.outFmt then convBlocks a (ceilDiv vs.length 32) k vs else convElems a k vs

/-- Addition of values as IEEE 754-2019 and R71 combine specials, with the flags of doing so. -/
def xAdd (x y : XVal) : XVal × Nat :=
  match x, y with
  | .nan, _ => (.nan, fNanInput)
  | _, .nan => (.nan, fNanInput)
  | .inf a, .inf b => if a = b then (.inf a, 0) else (.nan, fInvalid)
  | .inf a, .fin _ => (.inf a, 0)
  | .fin _, .inf b => (.inf b, 0)
  | .fin a, .fin b => (.fin (dyAdd a b), 0)

/-- Multiplication of values as R71 states for products. -/
def xMul (x y : XVal) : XVal × Nat :=
  match x, y with
  | .nan, _ => (.nan, fNanInput)
  | _, .nan => (.nan, fNanInput)
  | .inf a, .inf b => (.inf (a != b), 0)
  | .inf a, .fin d => if d.mag = 0 then (.nan, fInvalid) else (.inf (a != d.neg), 0)
  | .fin d, .inf b => if d.mag = 0 then (.nan, fInvalid) else (.inf (d.neg != b), 0)
  | .fin a, .fin b => (.fin (dyMul a b), 0)

/-- The value with its sign inverted. -/
def xNeg : XVal → XVal
  | .fin d => .fin { d with neg := !d.neg }
  | .inf n => .inf (!n)
  | .nan => .nan

/-- Rounds to FP32 to nearest even, joining the flags of the operation. -/
def toFp32 (xf : XVal × Nat) : Lane × Nat :=
  let (b, f) := convOut arithRNE 0 xf.1
  (BitVec.ofNat 32 b, fOr xf.2 f)

/-- The value of an FP32 lane. -/
def fp32 (x : Lane) : XVal := decodeElem fmtFP32 x.toNat

/-- R66, R92: FP32 addition. -/
def fp32Add (x y : Lane) : Lane × Nat := toFp32 (xAdd (fp32 x) (fp32 y))

/-- R66, R92: FP32 subtraction. -/
def fp32Sub (x y : Lane) : Lane × Nat := toFp32 (xAdd (fp32 x) (xNeg (fp32 y)))

/-- R66, R92: FP32 multiplication. -/
def fp32Mul (x y : Lane) : Lane × Nat := toFp32 (xMul (fp32 x) (fp32 y))

/-- R66, R92: fused multiply-add with one rounding. -/
def fp32Fma (x y z : Lane) : Lane × Nat :=
  if fp32 x = .nan ∨ fp32 y = .nan ∨ fp32 z = .nan then toFp32 (.nan, fNanInput)
  else
    let (p, f) := xMul (fp32 x) (fp32 y)
    if p = .nan then toFp32 (p, f) else toFp32 (xAdd p (fp32 z))

/-- The quotient of finite values, the divisor nonzero: 80 bits more than the dividend and a sticky bit, which round
as the exact quotient does. -/
def dyDiv (a b : Dy) : Dy :=
  let n := a.mag <<< 80
  ⟨a.neg != b.neg, 2 * (n / b.mag) + (if n % b.mag = 0 then 0 else 1), a.ex - b.ex - 81⟩

/-- R66, R92: correctly rounded division. -/
def fp32Div (x y : Lane) : Lane × Nat :=
  match fp32 x, fp32 y with
  | .nan, _ => toFp32 (.nan, fNanInput)
  | _, .nan => toFp32 (.nan, fNanInput)
  | .inf _, .inf _ => toFp32 (.nan, fInvalid)
  | .inf a, .fin d => toFp32 (.inf (a != d.neg), 0)
  | .fin d, .inf b => toFp32 (.fin ⟨d.neg != b, 0, 0⟩, 0)
  | .fin a, .fin b =>
    if b.mag = 0 then
      if a.mag = 0 then toFp32 (.nan, fInvalid) else toFp32 (.inf (a.neg != b.neg), 0)
    else toFp32 (.fin (dyDiv a b), 0)

/-- The integer square root below `2^i`, bit by bit from bit `i − 1`. -/
def isqrtAux (n : Nat) : Nat → Nat → Nat
  | 0, r => r
  | i + 1, r => let c := r + 2 ^ i; isqrtAux n i (if c * c ≤ n then c else r)

/-- The integer square root of a number below `2^256`. -/
def isqrt (n : Nat) : Nat := isqrtAux n 128 0

/-- The square root of a finite value that is not negative, with a sticky bit. -/
def dySqrt (d : Dy) : Dy :=
  let odd := d.ex % 2 ≠ 0
  let m := (if odd then 2 * d.mag else d.mag) <<< 160
  let e := (if odd then d.ex - 1 else d.ex) - 160
  let q := isqrt m
  ⟨false, 2 * q + (if q * q = m then 0 else 1), e / 2 - 1⟩

/-- R66, R92: correctly rounded square root. -/
def fp32Sqrt (x : Lane) : Lane × Nat :=
  match fp32 x with
  | .nan => toFp32 (.nan, fNanInput)
  | .inf neg => if neg then toFp32 (.nan, fInvalid) else toFp32 (.inf false, 0)
  | .fin d =>
    if d.mag = 0 then (x, 0)
    else if d.neg then toFp32 (.nan, fInvalid)
    else toFp32 (.fin (dySqrt d), 0)

/-- A key that orders non-NaN FP32 patterns by value, with −0 below +0 (R117). -/
def fpKey (x : Lane) : Int :=
  if x.toNat < 2 ^ 31 then (x.toNat : Int) else -((x.toNat - 2 ^ 31 : Nat) : Int) - 1

/-- A key that orders non-NaN FP32 patterns by value, the zeros equal. -/
def fpCmpKey (x : Lane) : Int :=
  if x.toNat < 2 ^ 31 then (x.toNat : Int) else -((x.toNat - 2 ^ 31 : Nat) : Int)

/-- R117: FMIN and FMAX (`mx`). -/
def fp32MinMax (mx : Bool) (x y : Lane) : Lane × Nat :=
  if fp32 x = .nan then
    if fp32 y = .nan then (0x7FC00000#32, fNanInput) else (y, fNanInput)
  else if fp32 y = .nan then (x, fNanInput)
  else if mx then (if fpKey x < fpKey y then y else x, 0)
  else (if fpKey y < fpKey x then y else x, 0)

/-- R93: FCMPEQ (0), FCMPLT (1), FCMPLE (2); a comparison with a NaN is false (IEEE 754-2019). -/
def fp32Cmp (op : Nat) (x y : Lane) : Bool × Nat :=
  if fp32 x = .nan ∨ fp32 y = .nan then (false, fNanInput)
  else match op with
    | 0 => (decide (fpCmpKey x = fpCmpKey y), 0)
    | 1 => (decide (fpCmpKey x < fpCmpKey y), 0)
    | _ => (decide (fpCmpKey x ≤ fpCmpKey y), 0)

/-- R47: every NaN that is written is the canonical one. -/
def canonNaN (x : Lane) : Lane := if fp32 x = .nan then 0x7FC00000#32 else x

/-- R66, R80: a fixed-result function of the vector unit; the result is the manual's open value, a NaN among them the
canonical one (R47). INVALID tells of a NaN that arises from an input that is none; a NaN overflows, underflows and
saturates nothing. -/
def fp32Fixed (fn : Nat) (x : Lane) : Lane × Nat :=
  let y := canonNaN (Config.fixedFn fn x)
  (y, fOr (nanFlag (fp32 x))
    (if fp32 y = .nan then (if fp32 x = .nan then 0 else fInvalid) else (Config.fixedFlags fn x).toNat / 2 * 2))

end Sys2Proof.Machine
end

