-- ==== Sys2Proof/Machine/Flags.lean ====
section
/-! DEFINITION. Integer lanes, and results joined lane by lane with their arithmetic flags (R80, R92, R117). -/
namespace Sys2Proof.Machine

/-- R92: the integer and logical lane operations, by opcode; IADD, ISUB and IMUL keep the low 32 bits. -/
def intLane (op : Nat) (x y : Lane) : Lane :=
  match op with
  | 0x10 => x + y
  | 0x11 => x - y
  | 0x12 => x * y
  | 0x13 => if x.toInt ≤ y.toInt then x else y
  | 0x14 => if x.toInt ≤ y.toInt then y else x
  | 0x15 => x &&& y
  | 0x16 => x ||| y
  | 0x17 => x ^^^ y
  | 0x18 => x <<< (y.toNat % 32)
  | 0x19 => x >>> (y.toNat % 32)
  | _ => BitVec.sshiftRight x (y.toNat % 32)

/-- The lanes of a result, computed where the mask has a bit and 0 elsewhere, with the flags of the lanes computed. -/
def laneMap (mask : Nat) (g : Nat → Lane × Nat) : Nat → Nat → List Lane × Nat
  | 0, _ => ([], 0)
  | n + 1, i =>
    let (r, f) := laneMap mask g n (i + 1)
    if bitAt mask i then
      let (x, f1) := g i
      (x :: r, fOr f1 f)
    else (0 :: r, f)

/-- The bits of a comparison, lane by lane. -/
def maskMap (mask : Nat) (g : Nat → Bool × Nat) : Nat → Nat → Nat × Nat
  | 0, _ => (0, 0)
  | n + 1, i =>
    let (r, f) := maskMap mask g n (i + 1)
    if bitAt mask i then
      let (b, f1) := g i
      (Nat.lor (if b then 2 ^ i else 0) r, fOr f1 f)
    else (r, f)

/-- R89: an effect that joins flags, when there are any. -/
def anyFlags (f : Nat) : Bool := f != 0

end Sys2Proof.Machine
end

