-- ==== Sys2Proof/Machine/State.lean ====
section
/-! DEFINITION. Everything the manual gives the module, as plain data, and the module right after AUX power-on. -/
namespace Sys2Proof.Machine

/-! ### Numbers held in registers and memory -/

/-- R67: an EA640 value: the 640 bits as a natural number below `2^640`, and the tag (0 finite, 1 +infinity,
2 −infinity, 3 NaN). The bits of a NaN, which no memory or wire form shows, record the infinities among its terms (1 for
+infinity, 2 for −infinity), so that its flags do not depend on order (R78, log entry 114). -/
structure Ea where
  bits : Nat
  tag  : Nat
  deriving DecidableEq, Repr

/-! ### Memory -/

/-- Bytes by address in one canonical form. `cells` has strictly rising addresses; an unlisted address reads 0 (a cold
start writes zeros, R502) unless an entry of `undef` covers it, and then it reads the manual's open value: `undef`
holds (first address, length, event number), newest first. -/
structure Memory where
  cells : List Host.Cell
  undef : List (Nat × Nat × Nat)
  deriving DecidableEq, Repr

/-- Chapter 05: error, scrub, injection and channel state. -/
structure EccSt where
  marks     : List EccMark
  armed     : Option (Nat × Nat)        -- R193: latched address and kind
  scrubPos  : Table Nat                 -- R192: next address by level
  corrLine  : Table (List Nat)          -- R190: correction times of a stacked bank line, by line key
  healed    : List Nat                  -- R190: lines written after an uncorrectable error, by line key
  retired   : Table Nat                 -- R190: retired line key to spare number (flash)
  exhausted : List Nat                  -- R190: banks whose exhaustion is recorded
  pprRows   : List Nat                  -- R191: LPDDR5X rows due for repair (flash)
  channels  : Table Nat                 -- R176: 0 active, 1 power-down, 2 self-refresh
  chanLast  : Table Nat                 -- R176: time of the last request of a channel
  mr4       : Table Nat                 -- R175: refresh multiplier by device
  hotDevs   : List Nat                  -- R175: devices above their rated temperature
  wckLast   : Table Nat                 -- R177: time of the last oscillator run by channel
  zqLast    : Table Nat                 -- R177: time of the last ZQ latch by channel
  trained   : List Nat                  -- R177: channels trained at this start
  engines   : Table (List Nat)          -- R142: open accumulation slots of an engine, least recently used first
  deriving DecidableEq, Repr

/-! ### The tile (chapters 03 and 04) -/

/-- R21: tile states. -/
inductive TileMode where
  | active | rest | pupa | off
  deriving DecidableEq, Repr

/-- R99: a token. -/
structure Token where
  payload : Nat
  age     : Nat
  kind    : Nat
  seq     : Nat
  deriving DecidableEq, Repr

/-- R100, R102: an input queue: DEPTH, its tokens oldest first, and the output queue that feeds it as
(tile, output queue, destination index). -/
structure InQ where
  depth : Nat
  toks  : List Token
  prod  : Option (Nat × Nat × Nat)
  deriving DecidableEq, Repr

/-- R82, R114: an accumulator bank: whether its unlisted elements are zero (or undefined), whether an INT32
accumulation last wrote it, and its elements' 32-bit patterns by row × 64 + column. -/
structure BankSt where
  clear : Bool
  int32 : Bool
  cells : Table Nat
  deriving DecidableEq, Repr

/-- R82: the exact file: whether its unlisted elements are zero (or undefined), and its elements. -/
structure ExactSt where
  clear : Bool
  cells : Table Ea
  deriving DecidableEq, Repr

/-- R102: an output queue: one credit count per destination and the SEQ of its next token. -/
structure OutQ where
  credits : List Nat
  seq     : Nat
  deriving DecidableEq, Repr

/-- R91, R120: a matrix operation issued and not yet completed, its descriptors and context as read at issue. -/
structure MatOp where
  op   : Nat
  dst  : Nat
  sa   : Nat
  md   : Nat
  da   : Nat
  db   : Nat
  ctl  : Nat
  seed : Nat
  deriving DecidableEq, Repr

/-- R181: a DMA issued and not yet completed: direction, the descriptor as read at issue, and S[SA]. -/
structure DmaOp where
  inbound : Bool
  desc    : Nat
  addr    : Nat
  deriving DecidableEq, Repr

/-- R130, R141: an irregular operation issued and not yet completed: opcode, MOD, IOB address, the IOB's own fields as
read at issue (bytes 0x10 to 0x3F, after 16 zero bytes), whether it has left its unit's queue, and for a started SCADD
its counts of indices in and out of range and its flags so far. -/
structure IrrOp where
  op      : Nat
  md      : Nat
  iobAddr : Nat
  iob     : List Byte
  started : Bool
  inCnt   : Nat
  outCnt  : Nat
  flags   : Nat
  deriving DecidableEq, Repr

/-- R141, R143: an addition of a started SCADD that its engine has not accepted yet. -/
structure Addition where
  addr : Nat
  val  : Ea
  deriving DecidableEq, Repr

/-- R96: a loop level: its first and last bundle and the passes left. -/
structure LoopLv where
  first : Nat
  last  : Nat
  left  : Nat
  deriving DecidableEq, Repr

/-- R118: the carry of chained scans of one kind. -/
inductive Carry where
  | fsum (e : Ea)
  | isum (n : Nat)
  | fext (x : Lane)
  deriving DecidableEq, Repr

/-- R89: what one slot of a bundle does once every slot of the bundle has read its sources. -/
inductive TEff where
  | vreg (r : Nat) (v : List Lane)
  | sreg (r v : Nat)
  | mask (r v : Nat)
  | pred (r : Nat) (b : Bool)
  | lacc (r : Nat) (e : Ea)
  | carry (op : Nat) (c : Option Carry)
  | store (off : Nat) (bs : List Byte)
  | matrix (m : MatOp)
  | dma (d : DmaOp)
  | irr (o : IrrOp)
  | put (oq kind payload : Nat)
  | dseta (d a : Nat)
  | jump (b : Nat)
  | loop (last count : Nat)
  | flags (f : Nat)
  | brk (id : Nat)
  deriving DecidableEq, Repr

/-- R107, R108: the running task of a tile: its index, OP_ID, bundle, the slots of the bundle still to issue, the
effects of those already issued, its loops, token window, reservations as (queue, credits left), whether END has
issued, whether the bundle is held, the address breakpoints resumed past in this firing (R491), the event number
of the firing (R85), the time up to which its running time is counted (R334), and the time of the firing. -/
structure Run where
  task   : Nat
  opId   : Nat
  pc     : Nat
  todo   : List Nat
  effs   : List TEff
  loops  : List LoopLv
  window : List Token
  resv   : List (Nat × Nat)
  ending : Bool
  held   : Bool
  passed : List Nat
  seed   : Nat
  at_    : Nat
  since  : Nat
  deriving DecidableEq, Repr

/-- The state of one tile. Registers that no bundle of the firing has written read the manual's open value (R85). -/
structure TileSt where
  mode    : TileMode
  credit  : Bool                        -- R21: holds a power credit
  waking  : Bool                        -- R21: granted, not yet active
  req     : Option (Nat × Nat)          -- R25: age stamp of a waiting request, and its time
  reqSat  : Bool                        -- R38: that request has reached 2,047 units
  entry   : Bool                        -- R110: pupa entry begun
  graph   : Nat                         -- R127: handle of the loaded graph, 0 none
  filler  : Option Nat                  -- R335: Filler level, while it runs Filler
  fillAt  : Nat                         -- R330: since when it has run Filler
  pLast   : Option Nat                  -- R335: attributed input power over its last 1 µs, nW; none where no end of a task brought it
  lastOp  : Nat                         -- R334: OP_ID it ran last
  stopped : Option Nat                  -- R121: code of the exception that stopped its task
  iqs     : Table InQ
  oqs     : Table OutQ
  run     : Option Run
  mats    : List MatOp
  dmas    : List DmaOp
  irrs    : List IrrOp
  adds    : List Addition               -- R143: additions waiting for their engines
  vregs   : Table (List Lane)
  sregs   : Table Nat
  masks   : Table Nat
  preds   : Table Bool
  laccs   : Table Ea
  carries : Table Carry
  banks   : Table BankSt                -- accumulator banks 0 to 3
  exact   : ExactSt
  store   : Memory                      -- R86: program store
  deriving DecidableEq, Repr

/-- R104: a token or a credit on the mesh: from output queue `oq` of tile `src`, for its destination `k`. -/
structure MeshTok where
  src : Nat
  oq  : Nat
  k   : Nat
  tok : Token
  deriving DecidableEq, Repr

structure Mesh where
  toks    : List MeshTok
  credits : List (Nat × Nat × Nat)
  deriving DecidableEq, Repr

/-! ### Commands and graphs (chapters 03 and 08) -/

/-- R288: a buffer of a buffer set. -/
structure Buf where
  addr    : Nat
  size    : Nat
  host    : Bool
  rd      : Bool
  wr      : Bool
  tagAddr : Nat
  ctx     : Nat
  deriving DecidableEq, Repr

/-- R296: what a finished command returns: STATUS, ARITH_FLAGS, RESULT and DETAIL. -/
structure CmdRes where
  status : Nat
  flags  : Nat
  result : Nat
  detail : Nat
  deriving DecidableEq, Repr

/-- R283, R286: a command of the command store: its ring, index, time of fetch, 128 bytes, the buffer set as it stood
when the command started (for BUFSET_DEFINE, the set it defines), whether it has started, whether its work has begun, and
its result once it has finished, with the time of that (R296) and its place among those finished (R298). -/
structure CmdEnt where
  ring    : Nat
  idx     : Nat
  at_     : Nat
  bytes   : List Byte
  set     : List Buf
  started : Bool
  begun   : Bool
  done    : Option CmdRes
  doneAt  : Nat
  doneOrd : Nat
  deriving DecidableEq, Repr

/-- R126, R292: the run of a graph in progress: the command that started it, its TAG, LAYER_ID, OP_ID, buffers and
seed override, the sink reports awaited and received, the arithmetic flags so far, the time of its last progress and
whether its hang is declared (R493). -/
structure RunG where
  ring    : Nat
  idx     : Nat
  tag     : Nat
  layer   : Nat
  opId    : Nat
  bufs    : List Buf
  seed    : Option Nat
  sinks   : Nat
  reports : Nat
  flags   : Nat
  lastAt  : Nat
  hung    : Bool
  infs    : Table Nat                   -- R78: the infinities behind accumulators that this run made NaN, by address
  deriving DecidableEq, Repr

/-- R124 to R126: a loaded graph: LAYER_ID, the number of its leading control core (die × 8 + core), its tiles with
the section bytes each was loaded with, its START entries as (tile, input queue), the load command until the load
completes, an unload that waits, the run in progress, a task exception being handled as (tile, code), and the tile
SRAM that its tasks have written, the tiles that met an uncorrectable error of their own storage (R122), and the start
tokens of the run that wait for a credit (R103). -/
structure GraphSt where
  layer   : Nat
  header  : List Byte                   -- R445: the image's 64-byte header
  leader  : Nat
  tiles   : List (Nat × List Byte)
  starts  : List (Nat × Nat)
  loading : Option (Nat × Nat)
  unload  : Option (Nat × Nat)
  run     : Option RunG
  exc     : Option (Nat × Nat)
  wrote   : List (Nat × Nat)
  ueTiles : List Nat                    -- R122: tiles whose sections are reloaded
  pend    : List (Nat × Nat)            -- R103: start tokens that wait for a credit
  deriving DecidableEq, Repr

/-! ### The host interface (chapter 08) -/

/-- R280, R285: a command ring: RING_BASE, PROD_REC, RING_CTL, the status code of RING_STATUS, its state (0 DISABLED,
1 RUNNING, 2 DRAINING, 3 STOPPED), CFG_IGNORED, RING_CONS and RING_ERR_IDX. -/
structure RingSt where
  base  : Nat
  rec_  : Nat
  ctl   : Nat
  code  : Nat
  st    : Nat
  ign   : Bool
  cons  : Nat
  err   : Nat
  deriving DecidableEq, Repr

/-- R294, R297, R298: a completion ring: CQ_BASE, CONS_REC, CQ_CTL, the status code of CQ_STATUS, ENABLED, CFG_IGNORED,
CQ_PROD, the host's index as last read, and the completions written since the last message. -/
structure CqSt where
  base  : Nat
  rec_  : Nat
  ctl   : Nat
  code  : Nat
  on    : Bool
  ign   : Bool
  prod  : Nat
  cons  : Nat
  since : Nat
  deriving DecidableEq, Repr

/-- R302, R305, R306: a bounce-buffer context: CTX_STATE, CTX_CHAN_ID, its H2M and M2H keys, its two block counts,
CTX_TAG_FAILS, and the indices used under its keys by each ring (by its number) and completion ring (64 + its number). -/
structure CtxSt where
  st    : Nat
  chan  : Nat
  keyIn : Nat
  keyOut : Nat
  h2m   : Nat
  m2h   : Nat
  fails : Nat
  uses  : Table Nat
  deriving DecidableEq, Repr

/-- R276, R298: an entry of the MSI-X table, with its pending bit. -/
structure MsixSt where
  addr    : Nat
  data    : Nat
  ctrl    : Nat
  pending : Bool
  deriving DecidableEq, Repr

/-- R275: what software sets in the function's configuration space: the maximum payload and read request sizes (0 to 5 for
128 to 4,096 bytes), MSI-X enabled and masked as a whole, and the error status that AER reports (bit 12: a poisoned TLP). -/
structure CfgSt where
  mps   : Nat
  mrrs  : Nat
  msixOn : Bool
  msixMask : Bool
  aer   : Nat
  deriving DecidableEq, Repr

/-- The configuration space as the PCI Express standard resets it: 128 and 512 bytes, MSI-X off. -/
def CfgSt.initial : CfgSt := ⟨0, 2, false, false, 0⟩

/-- Chapter 08: BAR2_BASE, the rings, completion rings, contexts, defined buffer sets and MSI-X entries by number,
whether the link is up, D3hot, and the configuration space. -/
structure HostSt where
  bar2   : Nat
  rings  : Table RingSt
  cqs    : Table CqSt
  ctxs   : Table CtxSt
  sets   : Table (List Buf)
  msix   : Table MsixSt
  linkUp : Bool
  d3     : Bool
  cfg    : CfgSt
  deriving DecidableEq, Repr

/-! ### The fabric and remote operations (chapters 06 and 07) -/

/-- R210: a packet: the fields of its header slot, with the reserved bits as received, and its payload bytes. -/
structure Pkt where
  dst       : Nat
  src       : Nat
  vc        : Nat
  detour    : Bool
  last      : Nat
  age       : Nat
  op        : Nat
  pslots    : Nat
  lastBytes : Nat
  rsv       : Nat
  rtag      : Nat
  ea        : Nat
  opId      : Nat
  gaddr     : Nat
  operand   : Nat
  data      : List Byte
  deriving DecidableEq, Repr

/-- R17, R229: a packet in the switch: its input (0 to 15 a port, 16 to 31 a front end, 32 and 33 the engines of a switch
half, 34 and 35 the die bridge into a half), the buffer credit it holds as (port, channel), whether it has reached 2,047
units (R38), and the packet. -/
structure QPkt where
  inp  : Nat
  from_ : Option (Nat × Nat)
  sat  : Bool
  pkt  : Pkt
  deriving DecidableEq, Repr

/-- R213, R233: a packet granted to a port: as it was in the switch, as it leaves, and its slots already sent. -/
structure TxPkt where
  q    : QPkt
  out  : Pkt
  sent : Nat
  deriving DecidableEq, Repr

/-- R206, R214: a flit of the replay buffer: its frame counter, its bytes as first sent, and the packets that have a slot
in it. -/
structure FlitSt where
  seq   : Nat
  bytes : List Byte
  pkts  : List TxPkt
  deriving DecidableEq, Repr

/-- Chapter 06: the link of one port. Keys are numbers that stand for key material; 0 is the all-zero key (R218). -/
structure PortSt where
  tx       : Nat                        -- R207: frame counter of the next new flit
  replay   : List FlitSt                -- R214: flits not acknowledged, oldest first
  again    : Option Nat                 -- R214: place in the replay buffer of the next flit to resend
  rx       : Nat                        -- R214: frame counter expected
  got      : Bool                       -- R208: a flit has been accepted (ACKV)
  bad      : Nat                        -- R216: failures in a row of the expected flit
  nak      : Bool                       -- R214: a NAK is due
  gap      : Bool                       -- R214: flits are dropped until the expected one arrives
  txq      : List TxPkt                 -- packets granted, oldest first
  rxs      : List (List Byte)           -- slots received, not yet taken as whole packets
  credit   : Table Nat                  -- R212: slots the peer has advertised, by channel
  held     : Table Nat                  -- R212: slots advertised to the peer and not yet freed, by channel
  ctlq     : List (List Byte)           -- R456: link-message fragments waiting for control flits
  txOn     : Nat                        -- R202: transmitter: 0 shutter closed, 1 probing, 2 on
  probeAt  : Nat                        -- R202: time of the last probe
  txKey    : Nat
  rxKey    : Nat
  rxOld    : Nat                        -- R219: previous receive key, kept until its flits are acknowledged
  txNext   : Option (Nat × Nat)         -- R219: installed next transmit key and its first frame
  rxNext   : Option (Nat × Nat)         -- R219: offered next receive key and its first frame
  keyAt    : Nat                        -- R219: frame counter at which the transmit key came into use
  phase    : Nat                        -- R208: KEY_PHASE sent, and expected
  rxPhase  : Nat
  nonce    : Option Nat                 -- R455: NONCE outstanding
  peerNonce : Option Nat                -- R455: NONCE of the peer's last CERT or KEY_REQUEST
  ackTx    : Bool                       -- R455: first transmit key installed; first receive key acknowledged
  ackRx    : Bool
  asked    : Bool                       -- R219: next key requested in this interval
  forced   : Bool                       -- R219, R455: a forced change is under way
  lanesBad : List Nat                   -- R231: lanes found failed
  corr     : List Nat                   -- R231: corrected symbols by lane
  hist     : List (Nat × Nat × Nat)     -- R216: (time, flits sent, flits resent) over the last 10 ms
  over4    : Bool                       -- R216: resent flits exceeded 4 % at the last flit sent
  rule4    : List Nat                   -- R231: times of the 4 % rule within the last second
  widen    : Bool                       -- R232: the retrain in progress may widen the port
  fecNext  : Nat                        -- R205: FEC mode after the retrain in progress
  drain    : Bool                       -- R234: draining
  peerLoc  : Bool                       -- R224: LOCATE of the peer
  sched    : Nat                        -- R455: the frame of the last scheduled change offered to the peer
  deriving DecidableEq, Repr

/-- Chapter 06: the ports, the packets in the switch, those ejected and waiting to be served, the rotation of each
output (R39), whether the record of R198 is written, the feed-open latch and the engines reported low (R201). -/
structure FabSt where
  ports   : Table PortSt
  sw      : List QPkt
  ej      : List QPkt
  rot     : Table Nat
  idFail  : Bool
  latch   : Bool
  feedLow : List Nat
  deriving DecidableEq, Repr

/-- R249, R253: a packet of a ROB: its number, its target node, its module address there, its length, its tag, the time it
was sent, and the members that have failed it (R257). -/
structure RPkt where
  n      : Nat
  node   : Nat
  addr   : Nat
  len    : Nat
  tag    : Nat
  sentAt : Nat
  tried  : List Nat
  deriving DecidableEq, Repr

/-- R246, R247: a ROB in progress: its tile, or none and the host command; its offset; its bytes 0x10 to 0x3F after 16
zero bytes; the module address of its local region and of its results; its members in order (R256, R257; empty for
SPACE 0); the packets to send and those outstanding; the failures as (target address, code); its RESULT, COUNT_OUT,
the time of its issue, whether it passed its checks, its arithmetic flags (R80) and the TAG of its command (R188). -/
structure RobSt where
  tile   : Option Nat
  ring   : Nat
  idx    : Nat
  off    : Nat
  rob    : List Byte
  laddr  : Nat
  res    : Nat
  opId   : Nat
  layer  : Nat
  mems   : List Nat
  todo   : List RPkt
  outs   : List RPkt
  fails  : List (Nat × Nat)
  result : Nat
  count  : Nat
  at_    : Nat
  sent   : Bool
  flags  : Nat
  tag    : Nat
  deriving DecidableEq, Repr

/-- R247, R253: a front end: its ROBs oldest first, its tags not yet reusable with the time from which each is free, and
the tag tried next. -/
structure FeSt where
  robs : List RobSt
  tags : Table Nat
  next : Nat
  deriving DecidableEq, Repr

/-- R252: a switch accumulation slot: its sum, its additions, the time of the first, and the packets to acknowledge, each with
the flags of its addition. -/
structure EaSlot where
  sum  : Ea
  n    : Nat
  at_  : Nat
  acks : List (Pkt × Nat)
  deriving DecidableEq, Repr

/-- R260 to R265: a collective in progress: its command, its descriptor, the step reached by each chunk, the elements
received by chunk × 32 + step, the partial sums, the signs of the infinities among the terms of each (1, 2), the elements
held in their output or input format, its flags, the time of the last step packet, and LAYER_ID and TAG of its command. -/
structure CollSt where
  ring  : Nat
  idx   : Nat
  desc  : List Byte
  opId  : Nat
  steps : List Nat
  got   : Table Nat
  sums  : Table Ea
  infs  : Table Nat
  vals  : Table Nat
  flags : Nat
  at_   : Nat
  layer : Nat
  tag   : Nat
  deriving DecidableEq, Repr

/-- R269: a pace message held: its origin, group, duty and time. -/
structure PaceSt where
  origin : Nat
  mask   : Nat
  duty   : Nat
  at_    : Nat
  deriving DecidableEq, Repr

/-- Chapter 07: the remote windows as (base, size, rights), the shard maps by MAP as member lists, the STALE nodes, the
front ends (die × 8 + core), the switch accumulation slots by address, replies that wait for room as (tile, queue,
token), the SEQ of the next reply by tile × 16 + queue, the collectives in progress, the step packets held for one not yet issued, the pace messages held, those
forwarded as (origin, SEQ, time), and the module's own pace count. -/
structure RemSt where
  windows : List (Nat × Nat × Nat)
  maps    : Table (List (List Nat))
  stale   : List Nat
  fes     : Table FeSt
  slots   : Table EaSlot
  replies : List (Nat × Nat × Token)
  repSeq  : Table Nat
  colls   : List CollSt
  early   : List Pkt
  pace    : List PaceSt
  seen    : List (Nat × Nat × Nat)
  pseq    : Nat
  deriving DecidableEq, Repr

/-! ### Float (chapter 09); powers in nW -/

/-- R29, R326, R340: a die-level step that waits: its die, what it steps (0 the duty of R319, 1 the pace limit, 2 the
frequency point, 3 a voltage), whether it raises power, its age stamp, its credits and those still to pace, its
size, and whether it has reached 2,047 units (R38). -/
structure DieStep where
  die   : Nat
  kind  : Nat
  up    : Bool
  stamp : Nat
  total : Nat
  left  : Nat
  size  : Nat
  sat   : Bool
  deriving DecidableEq, Repr

/-- R345: a step test: its die, the grants still to make, its tiles, and whether their credits are being taken back. -/
structure StepTest where
  die  : Nat
  left : Nat
  ts   : List Nat
  back : Bool
  deriving DecidableEq, Repr

/-- Chapter 09: the envelope's own state. -/
structure FloatSt where
  duty0     : Nat                       -- R319: duty reached, die 0 and die 1
  duty1     : Nat
  pace0     : Nat                       -- R340: pace limit reached
  pace1     : Nat
  point0    : Nat                       -- R316: frequency point
  point1    : Nat
  slot0     : Option Nat                -- R26: time of the last slot used on the rail
  slot1     : Option Nat
  busyAt    : Table Nat                 -- R379: when a die's issuer last granted or had a request waiting
  rot0      : Nat                       -- R39: the input that comes first between equal waiting times
  rot1      : Nat
  turn      : Nat                       -- R28: the die that comes first between equal ages
  shareTurn : Nat                       -- R333: the die that comes first between equal excesses
  declined0 : Bool                      -- R330: a take-back was declined
  declined1 : Bool
  steps     : List DieStep
  settle    : Table Nat                 -- R317: raises whose voltage is settling: die to point
  pRaw      : Nat                       -- R311
  pEst      : Nat
  proj      : Int                       -- R331: grants less releases since the estimator's last update
  fell      : Nat                       -- R340: falls of pace steps that P_est does not show yet
  pFix      : Nat                       -- R311: P_fix
  core0     : Nat                       -- R311: dynamic power of each die's core-scaled classes at 0.75 V
  core1     : Nat
  other0    : Nat                       -- R311: dynamic power of each die's other classes
  other1    : Nat
  dyn0      : Nat                       -- R326: attributed dynamic power of each die
  dyn1      : Nat
  die0      : Nat                       -- R333: estimated power of each die
  die1      : Nat
  corr      : Nat                       -- R312: c, in units of 2^-32
  cals      : Nat                       -- R343: calibrations since the soft start of the core rails, or power-on
  outRun    : Nat                       -- R313: calibrations in a row with r out of range, and in range
  inRun     : Nat
  rawSum    : Nat                       -- R312: the sum of P_raw since the last calibration, and its count
  rawN      : Nat
  pIn       : Nat                       -- R310: last 1 ms mean
  inSum     : Nat                       -- R310: input voltage × current of the periods since then, in 0.01 V × 2^-16 A
  vSum      : Nat                       -- their input voltages, and their count
  inN       : Nat
  vin       : Nat                       -- R318: input voltage of the last period, 0.01 V
  pInHist   : List Nat                  -- R329: 1 ms means of the last second, newest first
  sinceIn   : Nat                       -- R313: credit power of the grants since that measurement
  pRef      : Option Nat                -- R328
  refSet    : Bool                      -- R328: P_ref has been set since the last cold start
  pCap      : Nat                       -- R324: enforced cap
  pTh       : Nat                       -- R347
  ePrev     : Option Int                -- R347: in 0.1 K
  pLim      : Nat                       -- R318
  unheld    : List (Nat × Nat)          -- R336: falls at Filler entry as (time, nW), newest first
  fillRem   : Nat                       -- R337: Filler energy below 1 mJ, in 10⁻¹⁸ J
  enRem     : Nat                       -- ENERGY_IN_MJ below 1 mJ, in 10⁻¹⁸ J
  opcRem    : Table Nat                 -- R477: operator energy below 1 mJ, in 10⁻¹⁸ J
  learned   : Table (Nat × Nat)         -- R334: entry to (OP_ID, D)
  opE       : Table Nat                 -- R334: attributed energy by OP_ID since the last recompute, in 10⁻¹⁸ J
  opT       : Table Nat                 -- R334: running tile-ns by OP_ID since then
  share0    : Nat                       -- R334: learned share of die 0, in 1/65,536
  stretch   : List Nat                  -- R342: dies whose clock is stretched
  expectTo  : Nat                       -- R343: until when recovery expects droops
  droopLog  : Table Nat                 -- R343: time of a die's last droop record
  test      : Option StepTest
  outlets   : List (Nat × Int)          -- R350: outlet readings of the last 50 ms as (time, 0.1 °C)
  flowAt    : Nat                       -- R349: last refresh of FLOW_LPM
  pinHist10 : List Nat                  -- R353: 1 ms means for the published means, newest first
  hold      : Option Nat                -- R338: the level that Float holds during Primer
  evs       : List EvCount              -- R311: the events that the tiles have counted since the last update
  deriving DecidableEq, Repr

/-! ### Trowel (chapter 10); voltages in 2^-24 V, currents in 2^-16 A, duties in 2^-24 of a period (R363) -/

/-- R389: the items of a mirror frame for one rail beside the observer's and the integrator: target and slewed setpoint, active
bank, active and retired phases, rail state, attempt count and soft-start ramp position. -/
structure Mirror where
  tgt     : Nat
  set_    : Int
  bank    : Nat
  act     : List Nat
  retired : List Nat
  st      : Nat
  tries   : Nat
  ramp    : Nat
  deriving DecidableEq, Repr

/-- R364 to R367, R376: what one engine holds for one rail: the observer's v̂, î_L and î_o, the integrator z, the
voltage-loop duty of the last period, the region in force and the bands C and V decided for the next boundary, the duty
driving this period and the next with whether the voltage loop set each, its last means y_v and y_i, its plausibility
failures in a row, the trim of each phase (R365), and as a standby its own copy of what the owner mirrors (R389). -/
structure ERail where
  vhat    : Int
  ihl     : Int
  iho     : Int
  z       : Int
  dv      : Int
  reg     : Nat
  cNext   : Nat
  vNext   : Nat
  dCur    : Int
  dNext   : Int
  vCur    : Bool
  vNextL  : Bool
  yv      : Int
  yi      : Int
  fails   : Nat
  trims   : Table Int
  mir     : Option Mirror
  deriving DecidableEq, Repr

/-- R377 to R388: what the engines share for one rail: the setpoint of R364, the target it follows, the start of the ramp
in progress and its time so far, the periods in tolerance towards power-good and SETTLED, the periods for which the
plausibility check stays suspended, the phases to add at the next boundary, the phase being shed with its stage, whether
the shed aborts, the hold-off, whether the mean per phase was below 12 A, the last 10 rail currents, the time (ns) for
which slow over-current, under-voltage, fast over-voltage and a short have lasted, the periods in a row of disagreeing
senses, whether the fast comparator has acted in this period, the periods in a row of imbalance and of the peak limit by phase, the sums of the running 1 ms, the
until when OC_LIMITING, IIN_LIMITING and PEAK_LIMITING show, whether the peak holds start afresh, SS_TIME_US as the last start
took it (R397), and whether the low-side switches are in diode emulation (R383). -/
structure RailSt where
  set_    : Int
  tgt     : Nat
  ramp0   : Int
  ramp    : Nat
  good    : Nat
  settle  : Nat
  skip    : Nat
  add     : Nat
  shed    : Option (Nat × Nat)
  abort   : Bool
  hold    : Bool
  low     : Bool
  hist    : List Int
  ocN     : Nat
  uvN     : Nat
  ovN     : Nat
  shortN  : Nat
  disN    : Nat
  ovAct   : Bool
  imb     : Table Nat
  pk      : Table Nat
  vSum    : Int
  iSum    : Int
  cnt     : Nat
  phSum   : Table Int
  ocTo    : Nat
  iinTo   : Nat
  peakTo  : Nat
  fresh   : Bool
  ssUs    : Nat
  diode   : Bool
  deriving DecidableEq, Repr

/-- Chapter 10: each engine's rails; the time of each engine's last automatic restart, whether it is held FAILED until the
next power cycle, and its mirror frames adopted in a row (R395); the rails; the gain banks written over the shipped image;
an accepted swap; the old owner within a claim overlap, and the free value that says whether it goes on emitting (R392); an owner fault that the standby answers at the next
boundary (R391); an accepted handover; whether a mirror frame has arrived in this period; a stop of the rails in progress
(R387); the stage temperatures as last read, in 0.1 °C; the sums of VBUS and of the input current over the running 1 ms. -/
structure TrwSt where
  railsA   : Table ERail
  railsB   : Table ERail
  autoAt   : Table Nat
  held     : List Nat
  adopt    : Nat
  rails    : Table RailSt
  banks    : Table (List Byte)
  swap     : Bool
  claim    : Option Nat
  claimNo  : Nat
  due      : Bool
  handover : Bool
  mirrored : Bool
  stopping : Bool
  temps    : Table Int
  busSum   : Nat
  iinSum   : Int
  cnt      : Nat
  deriving DecidableEq, Repr

/-! ### Observation (chapter 13) -/

/-- R481: a trace record. -/
structure TraceRec where
  time   : Nat
  typ    : Nat
  flags  : Nat
  source : Nat
  opId   : Nat
  layer  : Nat
  seq    : Nat
  arg0   : Nat
  arg1   : Nat
  deriving DecidableEq, Repr

/-- R480, R484: the trace buffer of a die: its slots, the next slot, the SEQ of the next record, the protected slot,
whether writing has wrapped, and the records left after the trigger in mode 3. -/
structure TraceDie where
  slots   : Table TraceRec
  next    : Nat
  seq     : Nat
  prot    : Option Nat
  wrapped : Bool
  post    : Option Nat
  deriving DecidableEq, Repr

/-- R487 to R490: a break: graph, hitting tile, cause, BRK identifier or entry, time of the hit, and whether its
graph has drained. -/
structure BreakSt where
  graph  : Nat
  tile   : Nat
  cause  : Nat
  id     : Nat
  at_    : Nat
  broken : Bool
  deriving DecidableEq, Repr

/-- R494: an edge of the wait-for graph: FROM, TO, KIND, TASK, QUEUE, NEED and HAVE. -/
structure WfgEdge where
  src   : Nat
  dst   : Nat
  kind  : Nat
  task  : Nat
  queue : Nat
  need  : Nat
  have_ : Nat
  deriving DecidableEq, Repr

/-- R494: a wait-for-graph assembly after its first read: handle, whether a hang started it, the edges and the time of
the first read, and the firings of the graph's tiles up to then. -/
structure WfgSt where
  handle : Nat
  hang   : Bool
  edges  : List WfgEdge
  time1  : Nat
  fired  : Nat
  deriving DecidableEq, Repr

/-- Chapter 13: the trace FIFOs by source and the trace (die 0, die 1), the break reported and those held, oldest first, and the wait-for-graph
assembly in progress. -/
structure ObsSt where
  fifos  : Table (List (Nat × TraceRec)) -- R480: each source's records not yet collected, with the loss before each
  drops  : Table Nat                    -- R480: records of a source dropped since its last accepted one
  trace0 : TraceDie
  trace1 : TraceDie
  trig   : Bool                         -- R485: a trigger since arming
  gap0   : Option TraceRec              -- R484: the closing GAP record of slot N − 1
  gap1   : Option TraceRec
  brk    : Option BreakSt
  held   : List BreakSt
  wfg    : Option WfgSt
  deriving DecidableEq, Repr

/-- R470 to R474: the time base: the window that collects aligned peers, the peers collected as (port, depth, offset),
the step that waits as (step, port, depth), the ns for which a negative step still holds the time base, the ports whose
residual is measured, and since when REF25 is lost. -/
structure TimeSt where
  collect : Bool
  cands   : List (Nat × Nat × Int)
  step    : Option (Int × Nat × Nat)
  hold    : Nat
  resid   : List Nat
  lostAt  : Option Nat
  deriving DecidableEq, Repr

/-! ### Measurements (chapter 12) -/

/-- R438, R441: a firmware slot: whether an image has been staged into it, and its chunks as (offset, bytes), newest
first, and whether the slot is valid (the first chunk invalidates it). What no chunk covers is as the factory left it. -/
structure FwSlot where
  staged : Bool
  chunks : List (Nat × List Byte)
  ok     : Bool
  deriving DecidableEq, Repr

/-- R449, R453: an SPDM connection: 0 none, 1 after VERSION, 2 after CAPABILITIES, 3 after ALGORITHMS; the nonce of its last
signed measurements, the time of that answer, and the blocks 1 to 6 that it showed. -/
structure ConnSt where
  stage  : Nat
  nonce  : Option (List Byte)
  at_    : Nat
  blocks : List Byte
  deriving DecidableEq, Repr

/-- R450 to R453: an SPDM request. -/
inductive SpdmReq where
  | version
  | caps
  | algs (asym hash mhash : Nat)
  | digests
  | cert (slot off len : Nat)
  | chal (slot : Nat) (summary : Bool) (c : ChalReq)
  | meas (r : MeasReq)
  | mel (off len : Nat)
  | csr
  | setCert (slot : Nat) (chain : List Byte) (ok : Bool) (anchor : List Byte)
  | ctxSet (r : CtxReq)
  | ctxClear (ctx rsv : Nat)
  | range (addr len : Nat)
  | bad (flaw : SpdmFlaw)
  deriving DecidableEq, Repr

/-- R436, R450, R453, R455: an operation of the security engine: the signature of an SPDM response on a transport, with what
of the request is signed before it, and for measurements the nonce and the blocks; the check of a chain for slot 1; the
unwrapping of a context's keys; the check of a peer's chain, with its NONCE and the verdict; the signature of a key offer; or the
check and unwrapping of a peer's offer. -/
inductive SecOp where
  | spdm (tr : Nat) (req body : List Byte) (quote : Option (List Byte × List Byte))
  | setCert (tr : Nat) (chain : List Byte) (ok : Bool) (anchor : List Byte)
  | context (tr : Nat) (r : CtxReq)
  | cert (p nonce : Nat) (ok : Bool)
  | offer (p phase nonce effective : Nat)
  | install (p : Nat) (o : OfferIn)
  deriving DecidableEq, Repr

/-- The port of a link-key operation. -/
def SecOp.port : SecOp → Option Nat
  | .spdm .. | .setCert .. | .context .. => none
  | .cert p _ _ => some p
  | .offer p _ _ _ => some p
  | .install p _ => some p

/-- Chapter 12: the certificate chain of slot 1 (empty for none), whether the DIK is present, the firmware slots (0 A, 1 B),
the preferred one, the one whose image runs, whether a commit runs, the SPDM connections (0 DOE, 1 the objects), the
operations that the security engine has accepted, oldest first, the ones that wait at their source, LAST_PRIMER, the SEC_MODE that a failed Primer restores, the ports with a key change due in Primer as
(port, KEY_CHANGES), the time of the boot and the digests of its six records (R448), and what the erase check found: 0 passed, 1 an erase count short, 2 a key not
changed; the slot that FW_STAGE_STATE speaks of (R441), and the SPDM requests that wait in their transports' buffers for a
core to own (R451), oldest first. -/
structure SecSt where
  slot1   : List Byte
  dik     : Bool
  slots   : Table FwSlot
  pref    : Nat
  running : Option Nat
  commit  : Bool
  conns   : Table ConnSt
  ops     : List SecOp
  wait    : List SecOp
  last    : Nat
  prev    : Nat
  keyed   : List (Nat × Nat)
  bootAt  : Nat
  boot    : List (List Byte)
  check   : Option Nat
  into    : Nat
  held    : List (Nat × SpdmReq)
  deriving DecidableEq, Repr

/-- R448: a weight record: address, length, time and range root. -/
structure WRec where
  addr : Nat
  len  : Nat
  time : Nat
  root : List Byte
  deriving DecidableEq, Repr

/-- R444 to R448: LOG_GENERATION, SINCE_PRIMER, the times of the program records by tile, W by die (unlisted: 64 zero
bytes), the weight records by die, and the ranges being measured by die as (ADDR, LEN, range number). -/
structure MeasSt where
  gen       : Nat
  since     : Bool
  progAt    : Table Nat
  w         : Table (List Byte)
  recs      : Table (List WRec)
  measuring : Table (Nat × Nat)
  deriving DecidableEq, Repr

/-! ### The logbook (chapter 14) -/

/-- R517: a logbook record. -/
structure LogRec where
  seq      : Nat
  opSec    : Nat
  cycles   : Nat
  time     : Nat
  code     : Nat
  source   : Nat
  severity : Nat
  flags    : Nat
  rep      : Nat
  lost     : Nat
  lastTime : Nat
  mstate   : Nat
  writer   : Nat
  layer    : Nat
  opId     : Nat
  tag      : Nat
  arg1     : Nat
  arg0     : Nat
  snapKind : Nat
  snap     : List Byte
  deriving DecidableEq, Repr

/-- R516, R521, R522: the pending queue (oldest first), whether its newest entry is open and since when, the lost
count, the SEQ of the next entry, the flash ring by slot with whether the record's CRC holds, the slot of the next
commit, the erased sectors, the sectors being erased, and each path's LOG_READ_SEQ. -/
structure LogSt where
  queue    : List LogRec
  isOpen   : Bool
  openedAt : Nat
  lost     : Nat
  nextSeq  : Nat
  ring     : Table (LogRec × Bool)
  wslot    : Nat
  erased   : List Nat
  erasing  : List Nat
  readSeq  : Table Nat
  deriving DecidableEq, Repr

/-! ### The field network and the mailbox (chapter 11) -/

/-- R414, R415: an open USDO session of one bus: the object, the stated size, the bytes so far (received, or still to
send), whether the client writes, and whether the write is applied and waits for flash (R430). -/
structure UsdoSt where
  key    : Nat
  size   : Nat
  bytes  : List Byte
  write  : Bool
  flash  : Bool
  deriving DecidableEq, Repr

/-- R408, R409: a frame in a CAN controller's receive buffer: a USDO initiate or segment, an NMT command, a heartbeat of a
node, a SYNC or an RPDO1. -/
inductive CanFrame where
  | usdo (r : UsdoReq) (env : WriteEnv)
  | segment (bs : List Byte) (last : Bool) (env : WriteEnv)
  | nmt (cmd : Nat)
  | heartbeat (node : Nat)
  | sync
  | rpdo (bs : List Byte) (env : WriteEnv)
  deriving DecidableEq, Repr

/-- R424 to R426: the mailbox: OD_ADDR, the bits of OD_CTRL, OD_DATA from its first byte (zeros follow), the command in
progress (1 read, 2 write, 3 a write that waits for flash, 4 a read that no core has begun), and the status and length that a read will complete with. -/
structure MailSt where
  addr    : Nat
  busy    : Bool
  done    : Bool
  ignored : Bool
  status  : Nat
  resLen  : Nat
  data    : List Byte
  cmd     : Nat
  code    : Nat
  len     : Nat
  deriving DecidableEq, Repr

/-- R409: the error counters of a CAN controller (ISO 11898-1): transmit and receive. -/
structure CanErr where
  tx : Nat
  rx : Nat
  deriving DecidableEq, Repr

/-- R411 to R423: the field network. -/
structure CanSt where
  emcyQ     : List (List Byte)          -- R423: messages waiting out the inhibit, oldest first
  inhibitTo : Nat                       -- R423: time until which the next message waits
  conds     : List (Nat × Nat)          -- R423: conditions in force: register bit and event code
  usdo      : Table UsdoSt              -- R414: one session per bus (0 A, 1 B)
  nmtLast   : Table Nat                 -- R411: time at which each bus last executed each command (bus × 256 + command)
  rmAt      : Nat                       -- R422: last heartbeat or RPDO of the rack manager
  syncAt    : Option (Nat × Nat)        -- R421: bus and time of the last SYNC counted
  syncCnt   : Table Nat                 -- R419: SYNCs counted per TPDO
  hbAt      : Nat                       -- R422: last own heartbeat
  tpdoAt    : Table Nat                 -- R419: last timed transmission per TPDO
  mail      : MailSt
  errs      : Table CanErr              -- R409: the error counters of a bus's controller, where they are not 0
  rx        : Table (List CanFrame)     -- R409: frames received while no core serves a bus, oldest first
  profiles  : Table (Table Nat)         -- R430: stored profiles that differ from the shipped ones (flash)
  profBusy  : Option (Nat × Nat × Table Nat) -- R430: path, profile being written to flash, and its values
  deriving DecidableEq, Repr

/-! ### Start-up and management (chapter 14) -/

/-- R529 and the pins that other chapters name: the levels of the module's inputs and latched outputs. -/
structure Pins where
  slotId    : Nat                       -- SLOT_ID[5:0]
  profSel   : Nat                       -- PROFILE_SEL[1:0]
  perstN    : Bool
  brakeN    : Bool                      -- PWR_BRAKE_N
  ref25     : Bool
  regSync   : Bool                      -- R361: 100 edges in a row in range since REG_SYNC was last lost
  laserOk   : Bool
  laserEn   : Bool
  mateN     : Bool
  faultHeld : Bool                      -- R512: FAULT_N driven low by the interlock
  tripN     : Bool                      -- THERM_TRIP_N
  inSwitch  : Bool                      -- R531: input switch on
  deriving DecidableEq, Repr

/-- R500 to R513: start-up, stops and the management cores. -/
structure ModSt where
  auxUp     : Bool                      -- AUX present
  owner     : Option Nat                -- R509: the core that holds ownership (0 A, 1 B)
  everOwned : Bool                      -- an owner with a valid image has existed since AUX rose
  autoAt    : Table Nat                 -- R511: time of a core's last automatic restart
  dead      : List Nat                  -- R511: cores that failed again within 3,600 s of one: FAILED until AUX is removed
  hwCap     : Nat                       -- R512: cap target held in hardware, W
  stopReq   : Nat                       -- R500: the request being served in STOPPING
  tripLatch : Bool                      -- R351: thermal-trip latch
  vinAt     : Option Nat                -- R501: since when V_IN has stayed within 44 to 59.5 V
  inStop    : Bool                      -- R501: the last stop was an input stop
  nextCause : Nat                       -- cause of the next cold start (LAST_START_CAUSE)
  secAt     : Nat                       -- R524: time base at which OPERATING_SECONDS was last saved
  pins      : Pins
  deriving DecidableEq, Repr

/-! ### What leaves the module -/

/-- Something the module sends: the model's own record of its outputs, newest first in State. -/
inductive Output where
  | host (addr : Nat) (bs : List Byte) (ro : Bool) -- a write to host memory, with Relaxed Ordering or not (R275, R298)
  | msix (vector : Nat)                           -- an MSI-X message (R276)
  | fetch (addr n : Nat)                          -- a read of host memory (R282, R283, R303)
  | hostRead (bs : List Byte)                     -- the answer to a host read through a BAR (R276, R277)
  | hostUr                                        -- Unsupported Request (R276, R277)
  | can (cob : Nat) (bs : List Byte)              -- a frame sent on both CAN buses (R411)
  | usdo (bus cob : Nat) (bs : List Byte)         -- a USDO answer on one bus (R414)
  | spdm (transport : Nat) (bs : List Byte)       -- an SPDM response (R449)
  | mctp (bs : List Byte)
  | flit (port : Nat) (bs : List Byte)            -- a flit on a port (R208)
  | link (port msg : Nat) (bs : List Byte)        -- a link message (R455)
  | packet (dst : Nat) (bs : List Byte)           -- a packet handed to the switch (R210)
  | object (key : Nat) (bs : List Byte)           -- the answer to an object read (R405)
  deriving DecidableEq, Repr

/-! ### The machine -/

/-- The whole state of the module. -/
structure State where
  pending : List Instr                  -- the commands waiting, first in, first out
  now     : Nat                         -- R20: the time base, in ns
  od      : Table Nat                   -- the object dictionary's values, by index × 256 + subindex (R402)
  dom     : Table (List Byte)           -- its DOMAIN and string values
  out     : List Output                 -- everything sent, newest first (the model's own record)
  resp    : Nat                         -- status of the last request judged (the model's own record)
  freeCtr : Nat                         -- events that left a value undefined (the model's own counter)
  mem     : Memory                      -- R167: every module address
  ecc     : EccSt
  tiles   : Table TileSt
  mesh    : Mesh
  graphs  : Table GraphSt               -- R126: loaded graphs, by handle
  cmds    : List CmdEnt                 -- R283: the command store, in fetch order
  hst     : HostSt
  fab     : FabSt
  rem     : RemSt
  flt     : FloatSt
  trw     : TrwSt
  sec     : SecSt
  meas    : MeasSt
  tim     : TimeSt
  obs     : ObsSt
  log     : LogSt
  frz     : Table Nat                   -- R478: the values latched by a freeze
  can     : CanSt
  mod     : ModSt
  deriving DecidableEq, Repr

/-- R127: a tile before any cold start: unpowered, with nothing in it. -/
def TileSt.initial : TileSt where
  mode := .off
  credit := false
  waking := false
  req := none
  reqSat := false
  entry := false
  graph := 0
  filler := none
  fillAt := 0
  pLast := some 0
  lastOp := 0
  stopped := none
  iqs := []
  oqs := []
  run := none
  mats := []
  dmas := []
  irrs := []
  adds := []
  vregs := []
  sregs := []
  masks := []
  preds := []
  laccs := []
  carries := []
  banks := []
  exact := ⟨false, []⟩
  store := ⟨[], []⟩

/-- R484: nothing captured, no break, no assembly. -/
def TraceDie.initial : TraceDie := ⟨[], 0, 0, none, false, none⟩

def ObsSt.initial : ObsSt := ⟨[], [], TraceDie.initial, TraceDie.initial, false, none, none, none, [], none⟩

/-- Power-on values of the envelope (R312, R347, R354): full duty, 1.8 GHz, c = 1, P_th = 2,400 W, caps at 2,200 W. -/
def FloatSt.initial : FloatSt where
  duty0 := 16
  duty1 := 16
  pace0 := 16
  pace1 := 16
  point0 := 12
  point1 := 12
  slot0 := none
  slot1 := none
  busyAt := []
  rot0 := 0
  rot1 := 0
  turn := 0
  shareTurn := 0
  declined0 := false
  declined1 := false
  steps := []
  settle := []
  pRaw := 0
  pEst := 0
  proj := 0
  fell := 0
  pFix := 0
  core0 := 0
  core1 := 0
  other0 := 0
  other1 := 0
  dyn0 := 0
  dyn1 := 0
  die0 := 0
  die1 := 0
  corr := 2 ^ 32
  cals := 0
  outRun := 0
  inRun := 0
  rawSum := 0
  rawN := 0
  pIn := 0
  inSum := 0
  vSum := 0
  inN := 0
  vin := 0
  pInHist := []
  sinceIn := 0
  pRef := none
  refSet := false
  pCap := 2200000000000
  pTh := 2400000000000
  ePrev := none
  pLim := 2200000000000
  unheld := []
  fillRem := 0
  enRem := 0
  opcRem := []
  learned := []
  opE := []
  opT := []
  share0 := 32768
  stretch := []
  expectTo := 0
  droopLog := []
  test := none
  outlets := []
  flowAt := 0
  pinHist10 := []
  hold := none
  evs := []

/-- R363: an engine's state of a rail before its first period. -/
def ERail.initial : ERail := ⟨0, 0, 0, 0, 0, 0, 0, 0, 0, 0, false, false, 0, 0, 0, [], none⟩

/-- A rail that has never run. -/
def RailSt.initial : RailSt where
  set_ := 0
  tgt := 0
  ramp0 := 0
  ramp := 0
  good := 0
  settle := 0
  skip := 0
  add := 0
  shed := none
  abort := false
  hold := false
  low := false
  hist := []
  ocN := 0
  uvN := 0
  ovN := 0
  shortN := 0
  disN := 0
  ovAct := false
  imb := []
  pk := []
  vSum := 0
  iSum := 0
  cnt := 0
  phSum := []
  ocTo := 0
  iinTo := 0
  peakTo := 0
  fresh := true
  ssUs := 0
  diode := false

/-- R399, R400: both engines OFF, both banks as shipped. -/
def TrwSt.initial : TrwSt :=
  ⟨[], [], [], [], 0, [], [], false, none, 0, false, false, false, false, [], 0, 0, 0⟩

/-- R435, R437: a ZLM-1640-AC as it leaves the factory: its DIK present, slot A preferred, nothing staged, slot 1 empty. -/
def SecSt.initial : SecSt := ⟨[], true, [], 0, none, false, [], [], [], 0, 0, [], 0, [], none, 1, []⟩

/-- R524: the logbook of a module that has never held a record: an empty ring whose first three sectors are erased. -/
def LogSt.initial : LogSt where
  queue := []
  isOpen := false
  openedAt := 0
  lost := 0
  nextSeq := 0
  ring := []
  wslot := 0
  erased := [0, 1, 2]
  erasing := []
  readSeq := []

/-- No error, no injection, every channel idle. -/
def EccSt.initial : EccSt where
  marks := []
  armed := none
  scrubPos := []
  corrLine := []
  healed := []
  retired := []
  exhausted := []
  pprRows := []
  channels := []
  chanLast := []
  mr4 := []
  hotDevs := []
  wckLast := []
  zqLast := []
  trained := []
  engines := []

/-- R424, R433: the field network before anything has been received. -/
def CanSt.initial : CanSt where
  emcyQ := []
  inhibitTo := 0
  conds := []
  usdo := []
  nmtLast := []
  rmAt := 0
  syncAt := none
  syncCnt := []
  errs := []
  hbAt := 0
  tpdoAt := []
  mail := ⟨0, false, false, false, 0, 0, [], 0, 0, 0⟩
  rx := []
  profiles := []
  profBusy := none

/-- A port before any bring-up: shutter closed, zero key (R218). -/
def PortSt.initial : PortSt where
  tx := 0
  replay := []
  again := none
  rx := 0
  got := false
  bad := 0
  nak := false
  gap := false
  txq := []
  rxs := []
  credit := []
  held := []
  ctlq := []
  txOn := 0
  probeAt := 0
  txKey := 0
  rxKey := 0
  rxOld := 0
  txNext := none
  rxNext := none
  keyAt := 0
  phase := 0
  rxPhase := 0
  nonce := none
  peerNonce := none
  ackTx := false
  ackRx := false
  asked := false
  forced := false
  lanesBad := []
  corr := []
  hist := []
  over4 := false
  rule4 := []
  widen := false
  fecNext := 0
  drain := false
  peerLoc := false
  sched := 0

/-- The pins as log entry 4 takes them: slot 0, profile 0, mated, clocks present, no laser, no brake. -/
def Pins.initial : Pins where
  slotId := 0
  profSel := 0
  perstN := true
  brakeN := true
  ref25 := true
  regSync := false
  laserOk := false
  laserEn := false
  mateN := false
  faultHeld := false
  tripN := true
  inSwitch := false

/-- R502, time 0: AUX has just risen, both management cores are in the boot ROM and none owns. -/
def ModSt.initial : ModSt where
  auxUp := true
  owner := none
  everOwned := false
  autoAt := []
  dead := []
  hwCap := 2200
  stopReq := 0
  tripLatch := false
  vinAt := none
  inStop := false
  nextCause := 0
  secAt := 0
  pins := Pins.initial

/-- Why the machine stops. No command of this module stops it: every event the manual describes has an effect. -/
inductive Fault where
  /-- Raised by no command. It would be safe: a stop proves nothing of the hardware. -/
  | unreachable
  deriving DecidableEq, Repr

/-- Why a command has no meaning. -/
inductive Refusal where
  /-- Raised by an arm of `exec` for a command that is not modelled yet, with its mnemonic; safe. -/
  | notModelled (mnemonic : String)
  deriving DecidableEq, Repr

/-- The module right after AUX power-on (R502, time 0; R505). -/
def State.reset : State where
  pending := []
  now := 0
  od := []
  dom := []
  out := []
  resp := 0
  freeCtr := 0
  mem := ⟨[], []⟩
  ecc := EccSt.initial
  tiles := []
  mesh := ⟨[], []⟩
  graphs := []
  cmds := []
  hst := ⟨0, [], [], [], [], [], false, false, CfgSt.initial⟩
  fab := ⟨[], [], [], [], false, false, []⟩
  rem := ⟨[], [], [], [], [], [], [], [], [], [], [], 0⟩
  flt := FloatSt.initial
  trw := TrwSt.initial
  sec := SecSt.initial
  meas := ⟨0, false, [], [], [], []⟩
  tim := ⟨false, [], none, 0, [], none⟩
  obs := ObsSt.initial
  log := LogSt.initial
  frz := []
  can := CanSt.initial
  mod := ModSt.initial

end Sys2Proof.Machine
end

