-- ==== Sys2Proof/Machine/Ea.lean ====
section
/-! DEFINITION. EA640 values: addition, entry and conversion, the memory form and the wire form (R67 to R77). -/
namespace Sys2Proof.Machine

/-- R67: zero, with tag finite. -/
def Ea.zero : Ea := ⟨0, 0⟩

/-- R71: the tag of a sum. -/
def tagAdd (a b : Nat) : Nat :=
  if a = 0 then b else if b = 0 ∨ a = b then a else 3

/-- R78: the infinities known to be among the terms of a value: 1 for +infinity, 2 for −infinity. -/
def eaInfs (e : Ea) : Nat := if e.tag = 0 then 0 else if e.tag = 3 then e.bits % 4 else e.tag

/-- R71, R78: the flag of joining terms: set where infinities of both signs come together, whether or not a NaN already
hides them, so that it is set once in every order (log entry 114). -/
def infClash (a b : Nat) : Nat := if Nat.lor a b = 3 ∧ a ≠ 3 ∧ b ≠ 3 then fInvalid else 0

/-- R70, R71: integer addition modulo 2^640; a NaN keeps the infinities among its terms (R78). -/
def eaAdd (a b : Ea) : Ea × Nat :=
  let t := tagAdd a.tag b.tag
  (⟨if t = 0 then (a.bits + b.bits) % 2 ^ 640 else if t = 3 then Nat.lor (eaInfs a) (eaInfs b) else 0, t⟩,
   infClash (eaInfs a) (eaInfs b))

/-- R70, R71, R78: the sum of several terms onto `a`; neither its bits, its tag nor its flags depend on their order. -/
def eaSum (a : Ea) : List Ea → Ea × Nat
  | [] => (a, 0)
  | e :: r =>
    let (b, f) := eaAdd a e
    let (c, g) := eaSum b r
    (c, fOr f g)

/-- R68: the EA640 value of an exact value, which the admitted inputs enter without rounding. -/
def eaOfX (x : XVal) : Ea × Nat :=
  match x with
  | .fin d => (⟨uxt 640 (dyAt ⟨d.neg, d.mag <<< (d.ex + 272).toNat >>> (-(d.ex + 272)).toNat, 0⟩ 0), 0⟩, 0)
  | .inf neg => (⟨0, if neg then 2 else 1⟩, 0)
  | .nan => (⟨0, 3⟩, fNanInput)

/-- R67, R77: the exact value that an EA640 value stands for. -/
def eaToX (e : Ea) : XVal :=
  match e.tag with
  | 0 => .fin (dyOfInt (sxt 640 e.bits) (-272))
  | 1 => .inf false
  | 2 => .inf true
  | _ => .nan

/-- R77: conversion to a scalar format; an exact zero gives +0 (R59). -/
def eaOut (a : Arith) (k : Nat) (e : Ea) : Nat × Nat := convOut { a with exact := true } k (eaToX e)

/-- R77: conversion of several values from index `k`, in blocks where the format is an MX one. -/
def eaOutList (a : Arith) (k : Nat) (es : List Ea) : List Nat × Nat := convList { a with exact := true } k (es.map eaToX)

/-- R72: the 96-byte memory form, as written. -/
def eaBytes (e : Ea) : List Byte :=
  leBytes 80 (if e.tag = 0 then e.bits else 0) ++ leBytes 1 (e.tag % 4) ++ zeros 15

/-- R72: the memory form, as read. -/
def eaOfBytes (bs : List Byte) : Ea :=
  let t := byteAt bs 80 % 4
  ⟨if t = 0 then fld bs 0 80 else 0, t⟩

/-- Limb `j` of the 640 bits. -/
def eaLimb (bits j : Nat) : Nat := (bits >>> (64 * j)) % 2 ^ 64

/-- R75: the highest limb among the first `n` that differs from the fill pattern, plus one; 0 for none. -/
def topLimb (bits fill : Nat) : Nat → Nat
  | 0 => 0
  | n + 1 => if eaLimb bits n ≠ fill then n + 1 else topLimb bits fill n

/-- R75: the canonical wire form: descriptor and body. -/
def eaWire (e : Ea) : Nat × List Byte :=
  if e.tag ≠ 0 then (e.tag * 1024, [])
  else
    let neg := bitAt e.bits 639
    let fill := if neg then 2 ^ 64 - 1 else 0
    let h := topLimb e.bits fill 10
    let present := (List.range h).filter fun j => j + 1 == h || eaLimb e.bits j != 0
    (lsum (present.map (2 ^ ·)) + (if neg then 4096 else 0),
     present.foldr (fun j bs => leBytes 8 (eaLimb e.bits j) ++ bs) [])

/-- R76: the body length that a descriptor calls for. -/
def eaWireLen (desc : Nat) : Nat := 8 * popcount 10 (desc % 1024)

/-- R74: the limbs of a body from limb `j`, `n` to go; `h` is one past the highest present limb. -/
def eaLimbs (desc h j : Nat) : Nat → List Byte → Nat
  | 0, _ => 0
  | n + 1, body =>
    let fill := if bitAt desc 12 && decide (h ≤ j) then 2 ^ 64 - 1 else 0
    if bitAt desc j then fld body 0 8 + 2 ^ 64 * eaLimbs desc h (j + 1) n (body.drop 8)
    else fill + 2 ^ 64 * eaLimbs desc h (j + 1) n body

/-- One past the highest set bit among the first `n` of the limb map. -/
def mapTop (desc : Nat) : Nat → Nat
  | 0 => 0
  | n + 1 => if bitAt desc n then n + 1 else mapTop desc n

/-- R74, R76: decoding a wire value, `none` where the descriptor or the body length is invalid. -/
def eaUnwire (desc : Nat) (body : List Byte) : Option Ea :=
  let tag := bitsOf desc 11 10
  if desc / 8192 ≠ 0 then none
  else if tag ≠ 0 ∧ (desc % 1024 ≠ 0 ∨ bitAt desc 12) then none
  else if body.length ≠ eaWireLen desc then none
  else some ⟨if tag = 0 then eaLimbs desc (mapTop desc 10) 0 10 body else 0, tag⟩

end Sys2Proof.Machine
end

