-- ==== Sys2Proof/Machine/Objects.lean ====
section
/-! DEFINITION. The object dictionary's entries: their keys, types, access, defaults and legal values (R402 to R404,
R432, and the object tables of every chapter), and the value that a read of each gives. -/
namespace Sys2Proof.Machine

/-- R403: the data types of objects. -/
inductive OdTy where
  | bool | i8 | i16 | i32 | i64 | u8 | u16 | u32 | u64 | str | dom
  deriving DecidableEq, Repr

/-- R402: access codes. W1C bits lie inside RW objects. -/
inductive OdAcc where
  | ro | rw | wo
  deriving DecidableEq, Repr

/-- One row of an object table: indices `iLo` to `iHi`, subindices `sLo` to `sHi`, type, access, default, whether zero
is legal, and the smallest and largest legal nonzero values. -/
structure ObjRow where
  iLo : Nat
  iHi : Nat
  sLo : Nat
  sHi : Nat
  ty : OdTy
  acc : OdAcc
  dflt : Nat
  zero : Bool
  lo : Nat
  hi : Nat
  deriving DecidableEq, Repr

/-- R403: bytes of a type; 0 for a DOMAIN or string, whose length is its own. -/
def odSize (t : OdTy) : Nat :=
  match t with
  | .bool => 1 | .i8 => 1 | .u8 => 1 | .i16 => 2 | .u16 => 2 | .i32 => 4 | .u32 => 4 | .i64 => 8 | .u64 => 8
  | .str => 0 | .dom => 0

/-! ### The keys of named objects: index × 256 + subindex -/
def oDEVICE_TYPE : Nat := 0x100000
def oERROR_REGISTER : Nat := 0x100100
def oCOB_ID_SYNC : Nat := 0x100500
def oCOB_ID_EMCY : Nat := 0x101400
def oINHIBIT_EMCY : Nat := 0x101500
def oCONSUMER_HB : Nat := 0x101601
def oPRODUCER_HB_MS : Nat := 0x101700
def oVENDOR_ID : Nat := 0x101801
def oPRODUCT_CODE : Nat := 0x101802
def oREVISION : Nat := 0x101803
def oSERIAL : Nat := 0x101804
def oMODULE_STATE : Nat := 0x200001
def oSLOT_ID : Nat := 0x200002
def oPROFILE_PINS : Nat := 0x200003
def oORDER_CODE : Nat := 0x200004
def oPORTS_UP : Nat := 0x200005
def oPORTS_ATTENTION : Nat := 0x200006
def oMGMT_OWNER : Nat := 0x200007
def oFW_VERSION : Nat := 0x200008
def oRM_NODE_ID : Nat := 0x201001
def oNMT_AUTOSTART : Nat := 0x201002
def oNMT_STATE : Nat := 0x201003
def oCAN_BUS_STATE : Nat := 0x201004
def oCAN_RX_OVERFLOW : Nat := 0x201006
def oRM_SILENT : Nat := 0x201008
def oOD_LAST_STATUS : Nat := 0x201009
def oRPDO_REFUSED : Nat := 0x20100C
def oEMCY_LOST : Nat := 0x20100D
def oPROFILE_ACTIVE : Nat := 0x202001
def oPROFILE_SAVE : Nat := 0x202002
def oPROFILE_FACTORY : Nat := 0x202003
def oPROFILE_RESET_PENDING : Nat := 0x202004
def oFREQ_MODE : Nat := 0x210001
def oFREQ_MODE_ACTIVE : Nat := 0x210002
def oFMAX_POINT : Nat := 0x210003
def oDIE_FREQ_MHZ : Nat := 0x210004
def oDIE_VCORE : Nat := 0x210006
def oCAP_ENFORCED_W : Nat := 0x211001
def oCAP_LAG_W : Nat := 0x211002
def oCAP_TARGET_W : Nat := 0x211003
def oCAP_DOWN_SLEW_WPS : Nat := 0x211004
def oAUTONOMOUS_CAP_W : Nat := 0x211005
def oSAFE_CAP_W : Nat := 0x211006
def oCAP_SHORTFALL_W : Nat := 0x211007
def oCAP_STATUS : Nat := 0x211008
def oLIMIT_SOURCE : Nat := 0x211009
def oCOOLANT_CAP_W : Nat := 0x21100A
def oTHERMAL_LIMIT_W : Nat := 0x21100B
def oSAFE_CAP_CLEAR : Nat := 0x21100C
def oSLEW_LIMIT_CORE0 : Nat := 0x212001
def oSLEW_LIMIT_CORE1 : Nat := 0x212002
def oINPUT_RAMP_WPS : Nat := 0x212003
def oRAMP_BAND_W : Nat := 0x212004
def oIIN_LIMIT : Nat := 0x212005
def oCREDIT_FACTOR : Nat := 0x212006
def oCAP_PROPAGATE : Nat := 0x213001
def oSHARE_MODE : Nat := 0x213002
def oSHARE_DIE0_PCT : Nat := 0x213003
def oSHARE_W : Nat := 0x213004
def oDUTY : Nat := 0x213006
def oFILLER_FLOOR_PCT : Nat := 0x214001
def oFILLER_ENERGY_MJ : Nat := 0x214002
def oFILLER_TILES : Nat := 0x214003
def oFILLER_UNHELD_W : Nat := 0x214005
def oFILLER_HOLD_W : Nat := 0x214006
def oP_IN : Nat := 0x215001
def oP_EST : Nat := 0x215002
def oEST_CORR : Nat := 0x215003
def oENERGY_IN_MJ : Nat := 0x215004
def oV_IN : Nat := 0x215005
def oBRAKE_ACTIVE : Nat := 0x216001
def oBRAKE_COUNT : Nat := 0x216002
def oDROOP_EVENTS : Nat := 0x216003
def oSTRETCH_CYCLES : Nat := 0x216005
def oDROOP_MARGIN_MV : Nat := 0x216007
def oSTEP_TEST : Nat := 0x216008
def oVOLT_TABLE : Nat := 0x218001
def oRAIL_STATE : Nat := 0x220001
def oVSET : Nat := 0x220002
def oVSLEW : Nat := 0x220003
def oSS_TIME_US : Nat := 0x220004
def oOC_SLOW_A : Nat := 0x220005
def oV_OUT : Nat := 0x220006
def oI_OUT : Nat := 0x220007
def oI_PEAK : Nat := 0x220008
def oV_MIN : Nat := 0x220009
def oV_MAX : Nat := 0x22000A
def oPEAK_CLEAR : Nat := 0x22000B
def oPHASES_ACTIVE : Nat := 0x22000C
def oPHASES_HEALTHY : Nat := 0x22000D
def oREGION : Nat := 0x22000E
def oRAIL_FLAGS : Nat := 0x22000F
def oSWAP_CLAMP_COUNT : Nat := 0x220010
def oSHED_ABORTS : Nat := 0x220011
def oSTART_ATTEMPTS : Nat := 0x220012
def oT_STAGE_MAX : Nat := 0x220013
def oC_OUT : Nat := 0x220014
def oTROWEL_OWNER : Nat := 0x228001
def oTROWEL_STATE_A : Nat := 0x228002
def oTROWEL_STATE_B : Nat := 0x228003
def oTROWEL_HANDOVER : Nat := 0x228004
def oREG_SYNC_STATE : Nat := 0x228005
def oPWM_FREQ_HZ : Nat := 0x228006
def oTAKEOVERS : Nat := 0x228007
def oBUSCONV_STATE : Nat := 0x228008
def oV_BUS : Nat := 0x228009
def oI_IN : Nat := 0x22800A
def oPHASE_STATE : Nat := 0x22F001
def oPHASE_I : Nat := 0x22F101
def oPHASE_T : Nat := 0x22F201
def oPHASE_RETIRE_REASON : Nat := 0x22F301
def oT_MAX : Nat := 0x230001
def oT_TARGET_C : Nat := 0x230002
def oHOTTEST_SENSOR : Nat := 0x230003
def oT_SENSOR : Nat := 0x230101
def oT_INLET : Nat := 0x231001
def oT_OUTLET : Nat := 0x231002
def oFLOW_LPM : Nat := 0x231003
def oFLOW_LOSS : Nat := 0x231004
def oSUPPLY_T : Nat := 0x231005
def oTHERM_TRIP_SENSOR : Nat := 0x232001
def oTRIP_TEST : Nat := 0x232002
def oTRIP_TEST_FAILED : Nat := 0x232003
def oPORT_STATE : Nat := 0x240001
def oPORT_ENABLE : Nat := 0x240002
def oNEIGHBOUR_NODE : Nat := 0x240003
def oNEIGHBOUR_PORT : Nat := 0x240004
def oNEIGHBOUR_MACHINE : Nat := 0x240005
def oHOLD_REASON : Nat := 0x240006
def oLANES_ACTIVE : Nat := 0x240007
def oLANE_SET : Nat := 0x240008
def oFEC_MODE : Nat := 0x240009
def oFEC_ACTIVE : Nat := 0x24000A
def oFIBRE_LENGTH : Nat := 0x24000B
def oCONN_HEALTH : Nat := 0x24000C
def oLOCATE : Nat := 0x24000D
def oRETRAIN_NOW : Nat := 0x24000E
def oRX_POWER : Nat := 0x240010
def oREFLECTANCE : Nat := 0x240018
def oLINK_LOSS : Nat := 0x240020
def oFEC_CORRECTED : Nat := 0x240028
def oFEC_UNCORRECTABLE : Nat := 0x240029
def oFLITS_RESENT : Nat := 0x24002A
def oTAG_FAILURES : Nat := 0x24002B
def oKEY_CHANGES : Nat := 0x24002C
def oPORT_LOSSES : Nat := 0x24002D
def oNODE_ID : Nat := 0x248001
def oMACHINE_ID : Nat := 0x248002
def oFABRIC_DIMS : Nat := 0x248003
def oREKEY_LOG2 : Nat := 0x248004
def oREKEY_ALL : Nat := 0x248005
def oLOCATE_ALL : Nat := 0x248006
def oUNREACHABLE_COUNT : Nat := 0x248007
def oLASER_STATE : Nat := 0x248008
def oFEED_POWER : Nat := 0x248009
def oLASER_RESTART : Nat := 0x248011
def oREMOTE_TIMEOUT_US : Nat := 0x249001
def oCOLL_TIMEOUT_MS : Nat := 0x249002
def oMEMBER_REVIVE : Nat := 0x249003
def oSTALE_MEMBERS : Nat := 0x249004
def oLATE_RESPONSES : Nat := 0x249005
def oPACE_DUTY : Nat := 0x249006
def oPACE_RECEIVED : Nat := 0x249007
def oSCRUB_PERIOD_TILE_S : Nat := 0x250101
def oSCRUB_PERIOD_STACKED_S : Nat := 0x250102
def oSCRUB_PERIOD_LPDDR_S : Nat := 0x250103
def oECC_CORRECTED : Nat := 0x251001
def oECC_UNCORRECTABLE : Nat := 0x251005
def oLINK_ECC_CORRECTED : Nat := 0x251101
def oLAST_UE_LEVEL : Nat := 0x252001
def oLAST_UE_ADDR : Nat := 0x252002
def oLAST_UE_TIME : Nat := 0x252003
def oLAST_UE_SCRUB : Nat := 0x252004
def oSPARES_USED : Nat := 0x253001
def oPPR_PENDING : Nat := 0x253101
def oLP_SR_IDLE_US : Nat := 0x254001
def oLPDDR_MR4_RATE : Nat := 0x254101
def oERR_INJECT_ADDR : Nat := 0x255001
def oERR_INJECT_KIND : Nat := 0x255002
def oERR_INJECT_ARM : Nat := 0x255003
def oSEC_MODE : Nat := 0x260001
def oCONF_MODE_REQUEST : Nat := 0x260002
def oLINK_AUTH_MODE : Nat := 0x260003
def oSITE_ANCHOR_DIGEST : Nat := 0x260004
def oSPDM_REQUEST : Nat := 0x261001
def oSPDM_RESPONSE : Nat := 0x261002
def oFW_STAGE_OFFSET : Nat := 0x262001
def oFW_STAGE_CHUNK : Nat := 0x262002
def oFW_STAGE_COMMIT : Nat := 0x262003
def oFW_STAGE_STATE : Nat := 0x262004
def oFW_ACTIVATE : Nat := 0x262005
def oFW_ACTIVE_SLOT : Nat := 0x262006
def oFW_SVN_MIN : Nat := 0x262007
def oFW_COMMIT_SVN : Nat := 0x262008
def oBOOT_STATUS : Nat := 0x262009
def oFW_STAGE_STATUS : Nat := 0x26200A
def oPRIMER_START : Nat := 0x263001
def oPRIMER_STATE : Nat := 0x263002
def oPRIMER_COUNT : Nat := 0x263003
def oPRIMER_LAST_RESULT : Nat := 0x263004
def oPRIMER_MIN_W : Nat := 0x263005
def oREGION_STATE : Nat := 0x264001
def oWEIGHT_RANGES : Nat := 0x264003
def oPEER_SEC_MODE : Nat := 0x266001
def oTIME_NOW : Nat := 0x270001
def oTIME_FLAGS : Nat := 0x270002
def oTIME_ALIGN_STEP : Nat := 0x270003
def oTIME_ALIGN_PORT : Nat := 0x270004
def oTIME_ALIGN_DEPTH : Nat := 0x270005
def oTIME_ALIGN_ERR_NS : Nat := 0x270006
def oTIME_REFERENCE : Nat := 0x270007
def oTIME_UNLOCKED_NS : Nat := 0x270008
def oTIME_DRIFT_BOUND_NS : Nat := 0x270009
def oTIME_PEER_RESIDUAL : Nat := 0x270101
def oTASK_CYCLES : Nat := 0x271001
def oFILLER_CYCLES : Nat := 0x271003
def oMATRIX_BUSY_CYCLES : Nat := 0x271005
def oFIRINGS : Nat := 0x271007
def oCREDIT_WAIT_NS : Nat := 0x271009
def oCOMMANDS_COMPLETED : Nat := 0x27100B
def oCOMMANDS_DISCARDED : Nat := 0x27100C
def oTILE_TASK_CYCLES : Nat := 0x271101
def oTILE_FIRINGS : Nat := 0x271301
def oSTACKED_RD_BYTES : Nat := 0x272001
def oSTACKED_WR_BYTES : Nat := 0x272003
def oBRIDGE_BYTES : Nat := 0x272005
def oPCIE_BYTES : Nat := 0x272007
def oTILE_WINDOW_BYTES : Nat := 0x272009
def oLPDDR_RD_BYTES : Nat := 0x272101
def oLPDDR_WR_BYTES : Nat := 0x272201
def oLINK_PAYLOAD_BYTES : Nat := 0x273001
def oLINK_PACKETS : Nat := 0x273003
def oTRANSIT_BYTES : Nat := 0x273005
def oTRACE_CTL : Nat := 0x274001
def oTRACE_MATCH : Nat := 0x274002
def oTRACE_ARM : Nat := 0x274003
def oTRACE_STOP : Nat := 0x274004
def oTRACE_TRIGGER : Nat := 0x274005
def oTRACE_STATE : Nat := 0x274006
def oTRACE_RECORDS : Nat := 0x274007
def oTRACE_LOST : Nat := 0x274009
def oTRACE_READ_OFFSET : Nat := 0x27400B
def oTRACE_DATA : Nat := 0x27400C
def oTRACE_TRIGGER_SLOT : Nat := 0x27400D
def oTRACE_OLDEST_SLOT : Nat := 0x27400F
def oBRK_ENABLE : Nat := 0x275001
def oBRK_ID_MASK : Nat := 0x275002
def oBRK_DRAIN_LIMIT_US : Nat := 0x275003
def oBRK_STATE : Nat := 0x275004
def oBRK_HANDLE : Nat := 0x275005
def oBRK_SOURCE : Nat := 0x275006
def oBRK_RESUME : Nat := 0x275007
def oBRK_DUMP : Nat := 0x275008
def oBRK_ADDR : Nat := 0x275101
def oHANG_TIMEOUT_MS : Nat := 0x276001
def oHANG_HANDLE : Nat := 0x276002
def oHANG_COUNT : Nat := 0x276003
def oWFG_REQUEST : Nat := 0x276004
def oWFG_STATE : Nat := 0x276005
def oWFG_DATA : Nat := 0x276006
def oFREEZE_NOW : Nat := 0x277001
def oFREEZE_AT : Nat := 0x277002
def oFREEZE_SOURCES : Nat := 0x277003
def oFREEZE_STATE : Nat := 0x277004
def oFREEZE_TIME : Nat := 0x277005
def oFREEZE_CAUSE : Nat := 0x277006
def oFREEZE_RELEASE : Nat := 0x277007
def oOPC_SELECT : Nat := 0x278001
def oOPC_TASK_CYCLES : Nat := 0x278101
def oOPC_FIRINGS : Nat := 0x278201
def oOPC_ENERGY_MJ : Nat := 0x278301
def oLOG_HEAD_SEQ : Nat := 0x280001
def oLOG_TAIL_SEQ : Nat := 0x280002
def oLOG_READ_SEQ : Nat := 0x280003
def oLOG_RECORD : Nat := 0x280004
def oLOG_OPEN_RECORD : Nat := 0x280005
def oLOG_LOST_TOTAL : Nat := 0x280006
def oLOG_CRC_ERRORS : Nat := 0x280007
def oLOG_QUEUE_DEPTH : Nat := 0x280008
def oRESET_REQUEST : Nat := 0x281001
def oSTART_HOLD : Nat := 0x281002
def oLAST_START_CAUSE : Nat := 0x281003
def oSTART_STEP : Nat := 0x281004
def oSTART_FAIL_CODE : Nat := 0x281005
def oOPERATING_SECONDS : Nat := 0x281006
def oPOWER_CYCLES : Nat := 0x281007
def oINPUT_STOPS : Nat := 0x281008
def oMGMT_STATE_A : Nat := 0x282001
def oMGMT_STATE_B : Nat := 0x282002
def oMGMT_TAKEOVERS : Nat := 0x282003
def oPCIE_LINK_SPEED : Nat := 0x290001
def oPCIE_LINK_WIDTH : Nat := 0x290002
def oPCIE_FLIT_MODE : Nat := 0x290003
def oPCIE_SPEED_LIMIT : Nat := 0x290004
def oHOST_RD_RTT_NS : Nat := 0x290005
def oCMDS_FETCHED : Nat := 0x290006
def oPOLL_READS : Nat := 0x290007
def oPOISONED_RECEIVED : Nat := 0x290008
def oBAR2_DROPPED : Nat := 0x290009
def oOD_MSIX_VECTOR : Nat := 0x290101
def oGAIN_BANK_ACTIVE : Nat := 0x2A0001
def oGAIN_BANK_VALID : Nat := 0x2A0002
def oGAIN_BANK_IMAGE : Nat := 0x2A0100
def oGAIN_BANK_COMMIT : Nat := 0x2A0201
def oGAIN_BANK_SWAP : Nat := 0x2A0202
def oGAIN_COMMIT_STATUS : Nat := 0x2A0203
def oGAIN_COMMIT_DETAIL : Nat := 0x2A0204
def oGAIN_BANK_CRC : Nat := 0x2A0301
def oSLEW_SUPPORTED_CORE0 : Nat := 0x2A1001
def oSLEW_SUPPORTED_CORE1 : Nat := 0x2A1002
def oSLEW_SUPPORTED_INACTIVE : Nat := 0x2A1101
def oTILE_STATE : Nat := 0x300001
def oTILE_ENABLE : Nat := 0x300201
def oTILE_GRAPH_ID : Nat := 0x300401
def oTILE_OP_ID : Nat := 0x300601
def oPUPA_DWELL_US : Nat := 0x301001

/-- Objects of indices 0x1000 to 0x10FF. -/
def odRows10 : List ObjRow :=
  [⟨0x1000, 0x1000, 0x00, 0x00, .u32, .ro, 0, true, 0, 4294967295⟩,
   ⟨0x1001, 0x1001, 0x00, 0x00, .u8, .ro, 0, true, 0, 255⟩,
   ⟨0x1005, 0x1005, 0x00, 0x00, .u32, .rw, 128, false, 1, 2047⟩,
   ⟨0x1014, 0x1014, 0x00, 0x00, .u32, .ro, 129, true, 0, 4294967295⟩,
   ⟨0x1015, 0x1015, 0x00, 0x00, .u16, .rw, 100, false, 10, 10000⟩,
   ⟨0x1016, 0x1016, 0x01, 0x01, .u32, .ro, 7341032, true, 0, 4294967295⟩,
   ⟨0x1017, 0x1017, 0x00, 0x00, .u16, .rw, 100, false, 50, 1000⟩,
   ⟨0x1018, 0x1018, 0x01, 0x01, .u32, .ro, 3167, true, 0, 4294967295⟩,
   ⟨0x1018, 0x1018, 0x02, 0x02, .u32, .ro, 71232, true, 0, 4294967295⟩,
   ⟨0x1018, 0x1018, 0x03, 0x03, .u32, .ro, 65536, true, 0, 4294967295⟩,
   ⟨0x1018, 0x1018, 0x04, 0x04, .u32, .ro, 0, true, 0, 4294967295⟩]

/-- Objects of indices 0x1400 to 0x14FF. -/
def odRows14 : List ObjRow :=
  [⟨0x1400, 0x1400, 0x01, 0x01, .u32, .rw, 0, true, 0, 4294967295⟩]

/-- Objects of indices 0x1600 to 0x16FF. -/
def odRows16 : List ObjRow :=
  [⟨0x1600, 0x1600, 0x01, 0x40, .u32, .rw, 0, true, 0, 4294967295⟩]

/-- Objects of indices 0x1800 to 0x18FF. -/
def odRows18 : List ObjRow :=
  [⟨0x1800, 0x1802, 0x01, 0x01, .u32, .rw, 0, true, 0, 4294967295⟩,
   ⟨0x1800, 0x1802, 0x02, 0x02, .u8, .rw, 254, false, 1, 254⟩,
   ⟨0x1800, 0x1802, 0x05, 0x05, .u16, .rw, 0, false, 10, 1000⟩]

/-- Objects of indices 0x1A00 to 0x1AFF. -/
def odRows1A : List ObjRow :=
  [⟨0x1A00, 0x1A02, 0x01, 0x40, .u32, .rw, 0, true, 0, 4294967295⟩]

/-- Objects of indices 0x2000 to 0x20FF. -/
def odRows20 : List ObjRow :=
  [⟨0x2000, 0x2000, 0x01, 0x01, .u8, .ro, 0, true, 0, 255⟩,
   ⟨0x2000, 0x2000, 0x02, 0x02, .u8, .ro, 0, true, 0, 255⟩,
   ⟨0x2000, 0x2000, 0x03, 0x03, .u8, .ro, 0, true, 0, 255⟩,
   ⟨0x2000, 0x2000, 0x04, 0x04, .str, .ro, 0, true, 0, 18446744073709551615⟩,
   ⟨0x2000, 0x2000, 0x05, 0x05, .u16, .ro, 0, true, 0, 65535⟩,
   ⟨0x2000, 0x2000, 0x06, 0x06, .u16, .ro, 0, true, 0, 65535⟩,
   ⟨0x2000, 0x2000, 0x07, 0x07, .u8, .ro, 0, true, 0, 255⟩,
   ⟨0x2000, 0x2000, 0x08, 0x08, .u32, .ro, 0, true, 0, 4294967295⟩,
   ⟨0x2010, 0x2010, 0x01, 0x01, .u8, .rw, 112, false, 65, 127⟩,
   ⟨0x2010, 0x2010, 0x02, 0x02, .bool, .rw, 1, true, 0, 1⟩,
   ⟨0x2010, 0x2010, 0x03, 0x03, .u8, .ro, 127, true, 0, 255⟩,
   ⟨0x2010, 0x2010, 0x04, 0x04, .u8, .ro, 3, true, 0, 255⟩,
   ⟨0x2010, 0x2010, 0x05, 0x05, .u8, .ro, 3, true, 0, 255⟩,
   ⟨0x2010, 0x2010, 0x06, 0x06, .u32, .ro, 0, true, 0, 4294967295⟩,
   ⟨0x2010, 0x2010, 0x07, 0x07, .u32, .ro, 0, true, 0, 4294967295⟩,
   ⟨0x2010, 0x2010, 0x08, 0x08, .bool, .ro, 0, true, 0, 1⟩,
   ⟨0x2010, 0x2010, 0x09, 0x0B, .u16, .ro, 0, true, 0, 65535⟩,
   ⟨0x2010, 0x2010, 0x0C, 0x0C, .u32, .ro, 0, true, 0, 4294967295⟩,
   ⟨0x2010, 0x2010, 0x0D, 0x0D, .u32, .ro, 0, true, 0, 4294967295⟩,
   ⟨0x2020, 0x2020, 0x01, 0x01, .u8, .rw, 0, true, 0, 3⟩,
   ⟨0x2020, 0x2020, 0x02, 0x02, .u8, .wo, 0, true, 0, 3⟩,
   ⟨0x2020, 0x2020, 0x03, 0x03, .u8, .wo, 0, true, 0, 3⟩,
   ⟨0x2020, 0x2020, 0x04, 0x04, .bool, .ro, 0, true, 0, 1⟩]

/-- Objects of indices 0x2100 to 0x21FF. -/
def odRows21a : List ObjRow :=
  [⟨0x2100, 0x2100, 0x01, 0x01, .u8, .rw, 0, true, 0, 1⟩,
   ⟨0x2100, 0x2100, 0x02, 0x02, .u8, .ro, 0, true, 0, 255⟩,
   ⟨0x2100, 0x2100, 0x03, 0x03, .u8, .rw, 15, true, 0, 15⟩,
   ⟨0x2100, 0x2100, 0x04, 0x04, .u16, .ro, 1800, true, 0, 65535⟩,
   ⟨0x2100, 0x2100, 0x05, 0x05, .u16, .ro, 1800, true, 0, 65535⟩,
   ⟨0x2100, 0x2100, 0x06, 0x06, .u16, .ro, 7500, true, 0, 65535⟩,
   ⟨0x2100, 0x2100, 0x07, 0x07, .u16, .ro, 7500, true, 0, 65535⟩,
   ⟨0x2110, 0x2110, 0x01, 0x01, .u16, .ro, 2200, true, 0, 65535⟩,
   ⟨0x2110, 0x2110, 0x02, 0x02, .u16, .ro, 0, true, 0, 65535⟩,
   ⟨0x2110, 0x2110, 0x03, 0x03, .u16, .rw, 2200, true, 0, 2200⟩,
   ⟨0x2110, 0x2110, 0x04, 0x04, .u32, .rw, 20000, false, 1000, 50000⟩,
   ⟨0x2110, 0x2110, 0x05, 0x05, .u16, .rw, 1600, true, 0, 2200⟩,
   ⟨0x2110, 0x2110, 0x06, 0x06, .u16, .rw, 1000, true, 0, 2200⟩,
   ⟨0x2110, 0x2110, 0x07, 0x07, .u16, .ro, 0, true, 0, 65535⟩,
   ⟨0x2110, 0x2110, 0x08, 0x08, .u32, .rw, 0, true, 0, 4294967295⟩,
   ⟨0x2110, 0x2110, 0x09, 0x09, .u8, .ro, 0, true, 0, 255⟩,
   ⟨0x2110, 0x2110, 0x0A, 0x0A, .u16, .ro, 2200, true, 0, 65535⟩,
   ⟨0x2110, 0x2110, 0x0B, 0x0B, .u16, .ro, 2400, true, 0, 65535⟩,
   ⟨0x2110, 0x2110, 0x0C, 0x0C, .bool, .wo, 0, true, 0, 1⟩,
   ⟨0x2120, 0x2120, 0x01, 0x01, .u16, .rw, 200, false, 10, 400⟩,
   ⟨0x2120, 0x2120, 0x02, 0x02, .u16, .rw, 200, false, 10, 400⟩,
   ⟨0x2120, 0x2120, 0x03, 0x03, .u32, .rw, 500, false, 50, 50000⟩,
   ⟨0x2120, 0x2120, 0x04, 0x04, .u16, .rw, 20, false, 5, 200⟩,
   ⟨0x2120, 0x2120, 0x05, 0x05, .u16, .rw, 500, false, 100, 500⟩]

/-- Objects of indices 0x2100 to 0x21FF. -/
def odRows21b : List ObjRow :=
  [⟨0x2120, 0x2120, 0x06, 0x06, .u16, .ro, 1644, true, 0, 65535⟩,
   ⟨0x2120, 0x2120, 0x07, 0x07, .u16, .ro, 1644, true, 0, 65535⟩,
   ⟨0x2130, 0x2130, 0x01, 0x01, .bool, .rw, 0, true, 0, 1⟩,
   ⟨0x2130, 0x2130, 0x02, 0x02, .u8, .rw, 0, true, 0, 1⟩,
   ⟨0x2130, 0x2130, 0x03, 0x03, .u8, .rw, 50, false, 10, 90⟩,
   ⟨0x2130, 0x2130, 0x04, 0x04, .u16, .ro, 0, true, 0, 65535⟩,
   ⟨0x2130, 0x2130, 0x05, 0x05, .u16, .ro, 0, true, 0, 65535⟩,
   ⟨0x2130, 0x2130, 0x06, 0x06, .u8, .ro, 16, true, 0, 255⟩,
   ⟨0x2130, 0x2130, 0x07, 0x07, .u8, .ro, 16, true, 0, 255⟩,
   ⟨0x2140, 0x2140, 0x01, 0x01, .u8, .rw, 85, true, 50, 100⟩,
   ⟨0x2140, 0x2140, 0x02, 0x02, .u64, .ro, 0, true, 0, 18446744073709551615⟩,
   ⟨0x2140, 0x2140, 0x03, 0x03, .u8, .ro, 0, true, 0, 255⟩,
   ⟨0x2140, 0x2140, 0x04, 0x04, .u8, .ro, 0, true, 0, 255⟩,
   ⟨0x2140, 0x2140, 0x05, 0x05, .u16, .ro, 0, true, 0, 65535⟩,
   ⟨0x2140, 0x2140, 0x06, 0x06, .u16, .rw, 0, true, 400, 2200⟩,
   ⟨0x2150, 0x2150, 0x01, 0x01, .u32, .ro, 0, true, 0, 4294967295⟩,
   ⟨0x2150, 0x2150, 0x02, 0x02, .u32, .ro, 0, true, 0, 4294967295⟩,
   ⟨0x2150, 0x2150, 0x03, 0x03, .u16, .ro, 16384, true, 0, 65535⟩,
   ⟨0x2150, 0x2150, 0x04, 0x04, .u64, .ro, 0, true, 0, 18446744073709551615⟩,
   ⟨0x2150, 0x2150, 0x05, 0x05, .u16, .ro, 0, true, 0, 65535⟩,
   ⟨0x2160, 0x2160, 0x01, 0x01, .bool, .ro, 0, true, 0, 1⟩,
   ⟨0x2160, 0x2160, 0x02, 0x02, .u32, .ro, 0, true, 0, 4294967295⟩,
   ⟨0x2160, 0x2160, 0x03, 0x03, .u64, .ro, 0, true, 0, 18446744073709551615⟩,
   ⟨0x2160, 0x2160, 0x04, 0x04, .u64, .ro, 0, true, 0, 18446744073709551615⟩]

/-- Objects of indices 0x2100 to 0x21FF. -/
def odRows21c : List ObjRow :=
  [⟨0x2160, 0x2160, 0x05, 0x05, .u64, .ro, 0, true, 0, 18446744073709551615⟩,
   ⟨0x2160, 0x2160, 0x06, 0x06, .u64, .ro, 0, true, 0, 18446744073709551615⟩,
   ⟨0x2160, 0x2160, 0x07, 0x07, .u8, .rw, 35, false, 20, 60⟩,
   ⟨0x2160, 0x2160, 0x08, 0x08, .u16, .wo, 0, true, 0, 65535⟩,
   ⟨0x2180, 0x219F, 0x01, 0x10, .u16, .ro, 7500, true, 0, 65535⟩]

/-- Objects of indices 0x2200 to 0x22FF. -/
def odRows22a : List ObjRow :=
  [⟨0x2200, 0x220A, 0x01, 0x01, .u8, .ro, 0, true, 0, 255⟩,
   ⟨0x2200, 0x220A, 0x02, 0x02, .u16, .rw, 0, true, 0, 65535⟩,
   ⟨0x2200, 0x220A, 0x03, 0x03, .u8, .rw, 10, false, 1, 100⟩,
   ⟨0x2200, 0x220A, 0x04, 0x04, .u16, .rw, 1000, false, 250, 4000⟩,
   ⟨0x2200, 0x220A, 0x05, 0x05, .u16, .rw, 0, true, 0, 65535⟩,
   ⟨0x2200, 0x220A, 0x06, 0x06, .u16, .ro, 0, true, 0, 65535⟩,
   ⟨0x2200, 0x220A, 0x07, 0x07, .u32, .ro, 0, true, 0, 4294967295⟩,
   ⟨0x2200, 0x220A, 0x08, 0x08, .u32, .ro, 0, true, 0, 4294967295⟩,
   ⟨0x2200, 0x220A, 0x09, 0x09, .u16, .ro, 0, true, 0, 65535⟩,
   ⟨0x2200, 0x220A, 0x0A, 0x0A, .u16, .ro, 0, true, 0, 65535⟩,
   ⟨0x2200, 0x220A, 0x0B, 0x0B, .bool, .wo, 0, true, 0, 1⟩,
   ⟨0x2200, 0x220A, 0x0C, 0x0C, .u8, .ro, 0, true, 0, 255⟩,
   ⟨0x2200, 0x220A, 0x0D, 0x0D, .u8, .ro, 0, true, 0, 255⟩,
   ⟨0x2200, 0x220A, 0x0E, 0x0E, .u8, .ro, 0, true, 0, 255⟩,
   ⟨0x2200, 0x220A, 0x0F, 0x0F, .u32, .rw, 0, true, 0, 4294967295⟩,
   ⟨0x2200, 0x220A, 0x10, 0x10, .u32, .ro, 0, true, 0, 4294967295⟩,
   ⟨0x2200, 0x220A, 0x11, 0x11, .u32, .ro, 0, true, 0, 4294967295⟩,
   ⟨0x2200, 0x220A, 0x12, 0x12, .u8, .ro, 0, true, 0, 255⟩,
   ⟨0x2200, 0x220A, 0x13, 0x13, .i16, .ro, 0, true, 0, 65535⟩,
   ⟨0x2200, 0x220A, 0x14, 0x14, .u32, .ro, 0, true, 0, 4294967295⟩,
   ⟨0x2280, 0x2280, 0x01, 0x01, .u8, .ro, 0, true, 0, 255⟩,
   ⟨0x2280, 0x2280, 0x02, 0x02, .u8, .ro, 0, true, 0, 255⟩,
   ⟨0x2280, 0x2280, 0x03, 0x03, .u8, .ro, 0, true, 0, 255⟩,
   ⟨0x2280, 0x2280, 0x04, 0x04, .bool, .wo, 0, true, 0, 1⟩]

/-- Objects of indices 0x2200 to 0x22FF. -/
def odRows22b : List ObjRow :=
  [⟨0x2280, 0x2280, 0x05, 0x05, .u8, .ro, 2, true, 0, 255⟩,
   ⟨0x2280, 0x2280, 0x06, 0x06, .u32, .ro, 1000000, true, 0, 4294967295⟩,
   ⟨0x2280, 0x2280, 0x07, 0x07, .u32, .ro, 0, true, 0, 4294967295⟩,
   ⟨0x2280, 0x2280, 0x08, 0x08, .u8, .ro, 15, true, 0, 255⟩,
   ⟨0x2280, 0x2280, 0x09, 0x09, .u16, .ro, 0, true, 0, 65535⟩,
   ⟨0x2280, 0x2280, 0x0A, 0x0A, .u16, .ro, 0, true, 0, 65535⟩,
   ⟨0x22F0, 0x22F0, 0x01, 0x70, .u8, .ro, 0, true, 0, 255⟩,
   ⟨0x22F1, 0x22F1, 0x01, 0x70, .i16, .ro, 0, true, 0, 65535⟩,
   ⟨0x22F2, 0x22F2, 0x01, 0x70, .i16, .ro, 0, true, 0, 65535⟩,
   ⟨0x22F3, 0x22F3, 0x01, 0x70, .u8, .ro, 0, true, 0, 255⟩]

/-- Objects of indices 0x2300 to 0x23FF. -/
def odRows23 : List ObjRow :=
  [⟨0x2300, 0x2300, 0x01, 0x01, .i16, .ro, 0, true, 0, 65535⟩,
   ⟨0x2300, 0x2300, 0x02, 0x02, .u8, .rw, 105, false, 85, 105⟩,
   ⟨0x2300, 0x2300, 0x03, 0x03, .u8, .ro, 1, true, 0, 255⟩,
   ⟨0x2301, 0x2301, 0x01, 0x28, .i16, .ro, 0, true, 0, 65535⟩,
   ⟨0x2310, 0x2310, 0x01, 0x01, .i16, .ro, 0, true, 0, 65535⟩,
   ⟨0x2310, 0x2310, 0x02, 0x02, .i16, .ro, 0, true, 0, 65535⟩,
   ⟨0x2310, 0x2310, 0x03, 0x03, .u16, .rw, 210, true, 0, 1000⟩,
   ⟨0x2310, 0x2310, 0x04, 0x04, .bool, .rw, 0, true, 0, 1⟩,
   ⟨0x2310, 0x2310, 0x05, 0x05, .i16, .rw, 0, true, 0, 65535⟩,
   ⟨0x2320, 0x2320, 0x01, 0x01, .u8, .ro, 255, true, 0, 255⟩,
   ⟨0x2320, 0x2320, 0x02, 0x02, .bool, .wo, 0, true, 0, 1⟩,
   ⟨0x2320, 0x2320, 0x03, 0x03, .u8, .ro, 0, true, 0, 255⟩]

/-- Objects of indices 0x2400 to 0x24FF. -/
def odRows24a : List ObjRow :=
  [⟨0x2400, 0x240F, 0x01, 0x01, .u8, .ro, 0, true, 0, 255⟩,
   ⟨0x2400, 0x240F, 0x02, 0x02, .bool, .rw, 1, true, 0, 1⟩,
   ⟨0x2400, 0x240F, 0x03, 0x03, .u16, .ro, 0, true, 0, 65535⟩,
   ⟨0x2400, 0x240F, 0x04, 0x04, .u8, .ro, 255, true, 0, 255⟩,
   ⟨0x2400, 0x240F, 0x05, 0x05, .u32, .ro, 0, true, 0, 4294967295⟩,
   ⟨0x2400, 0x240F, 0x06, 0x06, .u8, .ro, 0, true, 0, 255⟩,
   ⟨0x2400, 0x240F, 0x07, 0x07, .u8, .ro, 0, true, 0, 255⟩,
   ⟨0x2400, 0x240F, 0x08, 0x08, .u8, .ro, 0, true, 0, 255⟩,
   ⟨0x2400, 0x240F, 0x09, 0x09, .u8, .rw, 0, true, 0, 1⟩,
   ⟨0x2400, 0x240F, 0x0A, 0x0A, .u8, .ro, 0, true, 0, 255⟩,
   ⟨0x2400, 0x240F, 0x0B, 0x0B, .u16, .ro, 0, true, 0, 65535⟩,
   ⟨0x2400, 0x240F, 0x0C, 0x0C, .u8, .ro, 6, true, 0, 255⟩,
   ⟨0x2400, 0x240F, 0x0D, 0x0D, .bool, .rw, 0, true, 0, 1⟩,
   ⟨0x2400, 0x240F, 0x0E, 0x0E, .bool, .wo, 0, true, 0, 1⟩,
   ⟨0x2400, 0x240F, 0x10, 0x17, .i16, .ro, 0, true, 0, 65535⟩,
   ⟨0x2400, 0x240F, 0x18, 0x1F, .i16, .ro, 0, true, 0, 65535⟩,
   ⟨0x2400, 0x240F, 0x20, 0x27, .i16, .ro, 0, true, 0, 65535⟩,
   ⟨0x2400, 0x240F, 0x28, 0x28, .u64, .ro, 0, true, 0, 18446744073709551615⟩,
   ⟨0x2400, 0x240F, 0x29, 0x29, .u64, .ro, 0, true, 0, 18446744073709551615⟩,
   ⟨0x2400, 0x240F, 0x2A, 0x2A, .u64, .ro, 0, true, 0, 18446744073709551615⟩,
   ⟨0x2400, 0x240F, 0x2B, 0x2B, .u64, .ro, 0, true, 0, 18446744073709551615⟩,
   ⟨0x2400, 0x240F, 0x2C, 0x2C, .u32, .ro, 0, true, 0, 4294967295⟩,
   ⟨0x2400, 0x240F, 0x2D, 0x2D, .u32, .ro, 0, true, 0, 4294967295⟩,
   ⟨0x2480, 0x2480, 0x01, 0x01, .u16, .rw, 0, true, 0, 65535⟩]

/-- Objects of indices 0x2400 to 0x24FF. -/
def odRows24b : List ObjRow :=
  [⟨0x2480, 0x2480, 0x02, 0x02, .u32, .rw, 0, true, 0, 4294967295⟩,
   ⟨0x2480, 0x2480, 0x03, 0x03, .u8, .rw, 0, true, 0, 255⟩,
   ⟨0x2480, 0x2480, 0x04, 0x04, .u8, .rw, 40, false, 26, 40⟩,
   ⟨0x2480, 0x2480, 0x05, 0x05, .bool, .wo, 0, true, 0, 1⟩,
   ⟨0x2480, 0x2480, 0x06, 0x06, .bool, .rw, 0, true, 0, 1⟩,
   ⟨0x2480, 0x2480, 0x07, 0x07, .u64, .ro, 0, true, 0, 18446744073709551615⟩,
   ⟨0x2480, 0x2480, 0x08, 0x08, .u8, .ro, 0, true, 0, 255⟩,
   ⟨0x2480, 0x2480, 0x09, 0x10, .i16, .ro, 0, true, 0, 65535⟩,
   ⟨0x2480, 0x2480, 0x11, 0x11, .bool, .wo, 0, true, 0, 1⟩,
   ⟨0x2490, 0x2490, 0x01, 0x01, .u32, .rw, 400, false, 100, 100000⟩,
   ⟨0x2490, 0x2490, 0x02, 0x02, .u32, .rw, 100, false, 1, 60000⟩,
   ⟨0x2490, 0x2490, 0x03, 0x03, .u16, .wo, 0, true, 0, 65535⟩,
   ⟨0x2490, 0x2490, 0x04, 0x04, .u16, .ro, 0, true, 0, 65535⟩,
   ⟨0x2490, 0x2490, 0x05, 0x05, .u64, .ro, 0, true, 0, 18446744073709551615⟩,
   ⟨0x2490, 0x2490, 0x06, 0x06, .u8, .ro, 16, true, 0, 255⟩,
   ⟨0x2490, 0x2490, 0x07, 0x07, .u32, .ro, 0, true, 0, 4294967295⟩]

/-- Objects of indices 0x2500 to 0x25FF. -/
def odRows25 : List ObjRow :=
  [⟨0x2501, 0x2501, 0x01, 0x01, .u32, .rw, 3600, true, 60, 604800⟩,
   ⟨0x2501, 0x2501, 0x02, 0x02, .u32, .rw, 14400, true, 60, 604800⟩,
   ⟨0x2501, 0x2501, 0x03, 0x03, .u32, .rw, 86400, true, 3600, 604800⟩,
   ⟨0x2510, 0x2510, 0x01, 0x04, .u64, .ro, 0, true, 0, 18446744073709551615⟩,
   ⟨0x2510, 0x2510, 0x05, 0x08, .u64, .ro, 0, true, 0, 18446744073709551615⟩,
   ⟨0x2511, 0x2511, 0x01, 0x10, .u64, .ro, 0, true, 0, 18446744073709551615⟩,
   ⟨0x2520, 0x2520, 0x01, 0x01, .u8, .ro, 0, true, 0, 255⟩,
   ⟨0x2520, 0x2520, 0x02, 0x02, .u64, .ro, 0, true, 0, 18446744073709551615⟩,
   ⟨0x2520, 0x2520, 0x03, 0x03, .u64, .ro, 0, true, 0, 18446744073709551615⟩,
   ⟨0x2520, 0x2520, 0x04, 0x04, .bool, .ro, 0, true, 0, 1⟩,
   ⟨0x2530, 0x2530, 0x01, 0x01, .u32, .ro, 0, true, 0, 4294967295⟩,
   ⟨0x2530, 0x2530, 0x02, 0x02, .u32, .ro, 0, true, 0, 4294967295⟩,
   ⟨0x2531, 0x2531, 0x01, 0x01, .u16, .ro, 0, true, 0, 65535⟩,
   ⟨0x2540, 0x2540, 0x01, 0x01, .u32, .rw, 100, true, 10, 1000000⟩,
   ⟨0x2541, 0x2541, 0x01, 0x10, .u8, .ro, 1, true, 0, 255⟩,
   ⟨0x2550, 0x2550, 0x01, 0x01, .u64, .rw, 0, true, 0, 18446744073709551615⟩,
   ⟨0x2550, 0x2550, 0x02, 0x02, .u8, .rw, 0, true, 1, 4⟩,
   ⟨0x2550, 0x2550, 0x03, 0x03, .bool, .wo, 0, true, 0, 1⟩]

/-- Objects of indices 0x2600 to 0x26FF. -/
def odRows26a : List ObjRow :=
  [⟨0x2600, 0x2600, 0x01, 0x01, .u8, .ro, 0, true, 0, 255⟩,
   ⟨0x2600, 0x2600, 0x02, 0x02, .u8, .wo, 0, true, 0, 1⟩,
   ⟨0x2600, 0x2600, 0x03, 0x03, .u8, .rw, 0, true, 0, 2⟩,
   ⟨0x2600, 0x2600, 0x04, 0x04, .dom, .ro, 0, true, 0, 18446744073709551615⟩,
   ⟨0x2610, 0x2610, 0x01, 0x01, .dom, .wo, 0, true, 0, 18446744073709551615⟩,
   ⟨0x2610, 0x2610, 0x02, 0x02, .dom, .ro, 0, true, 0, 18446744073709551615⟩,
   ⟨0x2620, 0x2620, 0x01, 0x01, .u32, .rw, 0, true, 0, 16773120⟩,
   ⟨0x2620, 0x2620, 0x02, 0x02, .dom, .wo, 0, true, 0, 18446744073709551615⟩,
   ⟨0x2620, 0x2620, 0x03, 0x03, .bool, .wo, 0, true, 0, 1⟩,
   ⟨0x2620, 0x2620, 0x04, 0x04, .u8, .ro, 0, true, 0, 255⟩,
   ⟨0x2620, 0x2620, 0x05, 0x05, .bool, .wo, 0, true, 0, 1⟩,
   ⟨0x2620, 0x2620, 0x06, 0x06, .u8, .ro, 0, true, 0, 255⟩,
   ⟨0x2620, 0x2620, 0x07, 0x07, .u8, .ro, 0, true, 0, 255⟩,
   ⟨0x2620, 0x2620, 0x08, 0x08, .bool, .wo, 0, true, 0, 1⟩,
   ⟨0x2620, 0x2620, 0x09, 0x09, .u16, .ro, 0, true, 0, 65535⟩,
   ⟨0x2620, 0x2620, 0x0A, 0x0A, .u16, .ro, 0, true, 0, 65535⟩,
   ⟨0x2630, 0x2630, 0x01, 0x01, .bool, .wo, 0, true, 0, 1⟩,
   ⟨0x2630, 0x2630, 0x02, 0x02, .u8, .ro, 0, true, 0, 255⟩,
   ⟨0x2630, 0x2630, 0x03, 0x03, .u32, .ro, 0, true, 0, 4294967295⟩,
   ⟨0x2630, 0x2630, 0x04, 0x04, .u16, .ro, 0, true, 0, 65535⟩,
   ⟨0x2630, 0x2630, 0x05, 0x05, .u16, .ro, 380, true, 0, 65535⟩,
   ⟨0x2640, 0x2640, 0x01, 0x01, .u8, .ro, 0, true, 0, 255⟩,
   ⟨0x2640, 0x2640, 0x02, 0x02, .u8, .ro, 0, true, 0, 255⟩,
   ⟨0x2640, 0x2640, 0x03, 0x03, .u16, .ro, 0, true, 0, 65535⟩]

/-- Objects of indices 0x2600 to 0x26FF. -/
def odRows26b : List ObjRow :=
  [⟨0x2640, 0x2640, 0x04, 0x04, .u16, .ro, 0, true, 0, 65535⟩,
   ⟨0x2660, 0x2660, 0x01, 0x10, .u8, .ro, 255, true, 0, 255⟩]

/-- Objects of indices 0x2700 to 0x27FF. -/
def odRows27a : List ObjRow :=
  [⟨0x2700, 0x2700, 0x01, 0x01, .u64, .ro, 0, true, 0, 18446744073709551615⟩,
   ⟨0x2700, 0x2700, 0x02, 0x02, .u8, .ro, 5, true, 0, 255⟩,
   ⟨0x2700, 0x2700, 0x03, 0x03, .i64, .ro, 0, true, 0, 18446744073709551615⟩,
   ⟨0x2700, 0x2700, 0x04, 0x04, .u8, .ro, 255, true, 0, 255⟩,
   ⟨0x2700, 0x2700, 0x05, 0x05, .u8, .ro, 255, true, 0, 255⟩,
   ⟨0x2700, 0x2700, 0x06, 0x06, .u16, .ro, 0, true, 0, 65535⟩,
   ⟨0x2700, 0x2700, 0x07, 0x07, .u8, .rw, 2, true, 0, 2⟩,
   ⟨0x2700, 0x2700, 0x08, 0x08, .u64, .ro, 0, true, 0, 18446744073709551615⟩,
   ⟨0x2700, 0x2700, 0x09, 0x09, .u64, .ro, 0, true, 0, 18446744073709551615⟩,
   ⟨0x2701, 0x2701, 0x01, 0x10, .i32, .ro, 2147483647, true, 0, 4294967295⟩,
   ⟨0x2710, 0x2710, 0x01, 0x01, .u64, .ro, 0, true, 0, 18446744073709551615⟩,
   ⟨0x2710, 0x2710, 0x02, 0x02, .u64, .ro, 0, true, 0, 18446744073709551615⟩,
   ⟨0x2710, 0x2710, 0x03, 0x03, .u64, .ro, 0, true, 0, 18446744073709551615⟩,
   ⟨0x2710, 0x2710, 0x04, 0x04, .u64, .ro, 0, true, 0, 18446744073709551615⟩,
   ⟨0x2710, 0x2710, 0x05, 0x05, .u64, .ro, 0, true, 0, 18446744073709551615⟩,
   ⟨0x2710, 0x2710, 0x06, 0x06, .u64, .ro, 0, true, 0, 18446744073709551615⟩,
   ⟨0x2710, 0x2710, 0x07, 0x07, .u64, .ro, 0, true, 0, 18446744073709551615⟩,
   ⟨0x2710, 0x2710, 0x08, 0x08, .u64, .ro, 0, true, 0, 18446744073709551615⟩,
   ⟨0x2710, 0x2710, 0x09, 0x09, .u64, .ro, 0, true, 0, 18446744073709551615⟩,
   ⟨0x2710, 0x2710, 0x0A, 0x0A, .u64, .ro, 0, true, 0, 18446744073709551615⟩,
   ⟨0x2710, 0x2710, 0x0B, 0x0B, .u64, .ro, 0, true, 0, 18446744073709551615⟩,
   ⟨0x2710, 0x2710, 0x0C, 0x0C, .u64, .ro, 0, true, 0, 18446744073709551615⟩,
   ⟨0x2711, 0x2711, 0x01, 0x90, .u64, .ro, 0, true, 0, 18446744073709551615⟩,
   ⟨0x2712, 0x2712, 0x01, 0x90, .u64, .ro, 0, true, 0, 18446744073709551615⟩]

/-- Objects of indices 0x2700 to 0x27FF. -/
def odRows27b : List ObjRow :=
  [⟨0x2713, 0x2713, 0x01, 0x90, .u64, .ro, 0, true, 0, 18446744073709551615⟩,
   ⟨0x2714, 0x2714, 0x01, 0x90, .u64, .ro, 0, true, 0, 18446744073709551615⟩,
   ⟨0x2720, 0x2720, 0x01, 0x01, .u64, .ro, 0, true, 0, 18446744073709551615⟩,
   ⟨0x2720, 0x2720, 0x02, 0x02, .u64, .ro, 0, true, 0, 18446744073709551615⟩,
   ⟨0x2720, 0x2720, 0x03, 0x03, .u64, .ro, 0, true, 0, 18446744073709551615⟩,
   ⟨0x2720, 0x2720, 0x04, 0x04, .u64, .ro, 0, true, 0, 18446744073709551615⟩,
   ⟨0x2720, 0x2720, 0x05, 0x05, .u64, .ro, 0, true, 0, 18446744073709551615⟩,
   ⟨0x2720, 0x2720, 0x06, 0x06, .u64, .ro, 0, true, 0, 18446744073709551615⟩,
   ⟨0x2720, 0x2720, 0x07, 0x07, .u64, .ro, 0, true, 0, 18446744073709551615⟩,
   ⟨0x2720, 0x2720, 0x08, 0x08, .u64, .ro, 0, true, 0, 18446744073709551615⟩,
   ⟨0x2720, 0x2720, 0x09, 0x09, .u64, .ro, 0, true, 0, 18446744073709551615⟩,
   ⟨0x2720, 0x2720, 0x0A, 0x0A, .u64, .ro, 0, true, 0, 18446744073709551615⟩,
   ⟨0x2721, 0x2721, 0x01, 0x10, .u64, .ro, 0, true, 0, 18446744073709551615⟩,
   ⟨0x2722, 0x2722, 0x01, 0x10, .u64, .ro, 0, true, 0, 18446744073709551615⟩,
   ⟨0x2730, 0x273F, 0x01, 0x01, .u64, .ro, 0, true, 0, 18446744073709551615⟩,
   ⟨0x2730, 0x273F, 0x02, 0x02, .u64, .ro, 0, true, 0, 18446744073709551615⟩,
   ⟨0x2730, 0x273F, 0x03, 0x03, .u64, .ro, 0, true, 0, 18446744073709551615⟩,
   ⟨0x2730, 0x273F, 0x04, 0x04, .u64, .ro, 0, true, 0, 18446744073709551615⟩,
   ⟨0x2730, 0x273F, 0x05, 0x05, .u64, .ro, 0, true, 0, 18446744073709551615⟩,
   ⟨0x2740, 0x2740, 0x01, 0x01, .u32, .rw, 0, true, 0, 4294967295⟩,
   ⟨0x2740, 0x2740, 0x02, 0x02, .u32, .rw, 0, true, 0, 33554431⟩,
   ⟨0x2740, 0x2740, 0x03, 0x03, .bool, .wo, 0, true, 0, 1⟩,
   ⟨0x2740, 0x2740, 0x04, 0x04, .bool, .wo, 0, true, 0, 1⟩,
   ⟨0x2740, 0x2740, 0x05, 0x05, .bool, .wo, 0, true, 0, 1⟩]

/-- Objects of indices 0x2700 to 0x27FF. -/
def odRows27c : List ObjRow :=
  [⟨0x2740, 0x2740, 0x06, 0x06, .u8, .ro, 0, true, 0, 255⟩,
   ⟨0x2740, 0x2740, 0x07, 0x07, .u64, .ro, 0, true, 0, 18446744073709551615⟩,
   ⟨0x2740, 0x2740, 0x08, 0x08, .u64, .ro, 0, true, 0, 18446744073709551615⟩,
   ⟨0x2740, 0x2740, 0x09, 0x09, .u64, .ro, 0, true, 0, 18446744073709551615⟩,
   ⟨0x2740, 0x2740, 0x0A, 0x0A, .u64, .ro, 0, true, 0, 18446744073709551615⟩,
   ⟨0x2740, 0x2740, 0x0B, 0x0B, .u32, .rw, 0, true, 0, 4294967295⟩,
   ⟨0x2740, 0x2740, 0x0C, 0x0C, .dom, .ro, 0, true, 0, 18446744073709551615⟩,
   ⟨0x2740, 0x2740, 0x0D, 0x0D, .u32, .ro, 4294967295, true, 0, 4294967295⟩,
   ⟨0x2740, 0x2740, 0x0E, 0x0E, .u32, .ro, 4294967295, true, 0, 4294967295⟩,
   ⟨0x2740, 0x2740, 0x0F, 0x0F, .u32, .ro, 0, true, 0, 4294967295⟩,
   ⟨0x2740, 0x2740, 0x10, 0x10, .u32, .ro, 0, true, 0, 4294967295⟩,
   ⟨0x2750, 0x2750, 0x01, 0x01, .bool, .rw, 0, true, 0, 1⟩,
   ⟨0x2750, 0x2750, 0x02, 0x02, .u32, .rw, 0, true, 0, 4294967295⟩,
   ⟨0x2750, 0x2750, 0x03, 0x03, .u32, .rw, 10000, false, 100, 1000000⟩,
   ⟨0x2750, 0x2750, 0x04, 0x04, .u8, .ro, 0, true, 0, 255⟩,
   ⟨0x2750, 0x2750, 0x05, 0x05, .u16, .ro, 0, true, 0, 65535⟩,
   ⟨0x2750, 0x2750, 0x06, 0x06, .u32, .ro, 0, true, 0, 4294967295⟩,
   ⟨0x2750, 0x2750, 0x07, 0x07, .bool, .wo, 0, true, 0, 1⟩,
   ⟨0x2750, 0x2750, 0x08, 0x08, .dom, .ro, 0, true, 0, 18446744073709551615⟩,
   ⟨0x2751, 0x2751, 0x01, 0x08, .u32, .rw, 0, true, 0, 4294967295⟩,
   ⟨0x2760, 0x2760, 0x01, 0x01, .u32, .rw, 1000, true, 10, 60000⟩,
   ⟨0x2760, 0x2760, 0x02, 0x02, .u16, .ro, 0, true, 0, 65535⟩,
   ⟨0x2760, 0x2760, 0x03, 0x03, .u32, .ro, 0, true, 0, 4294967295⟩,
   ⟨0x2760, 0x2760, 0x04, 0x04, .u16, .wo, 0, true, 0, 65535⟩]

/-- Objects of indices 0x2700 to 0x27FF. -/
def odRows27d : List ObjRow :=
  [⟨0x2760, 0x2760, 0x05, 0x05, .u8, .ro, 0, true, 0, 255⟩,
   ⟨0x2760, 0x2760, 0x06, 0x06, .dom, .ro, 0, true, 0, 18446744073709551615⟩,
   ⟨0x2770, 0x2770, 0x01, 0x01, .bool, .wo, 0, true, 0, 1⟩,
   ⟨0x2770, 0x2770, 0x02, 0x02, .u64, .rw, 0, true, 0, 18446744073709551615⟩,
   ⟨0x2770, 0x2770, 0x03, 0x03, .u8, .rw, 0, true, 0, 31⟩,
   ⟨0x2770, 0x2770, 0x04, 0x04, .u8, .ro, 0, true, 0, 255⟩,
   ⟨0x2770, 0x2770, 0x05, 0x05, .u64, .ro, 0, true, 0, 18446744073709551615⟩,
   ⟨0x2770, 0x2770, 0x06, 0x06, .u8, .ro, 0, true, 0, 255⟩,
   ⟨0x2770, 0x2770, 0x07, 0x07, .bool, .wo, 0, true, 0, 1⟩,
   ⟨0x2780, 0x2780, 0x01, 0x10, .u16, .rw, 0, true, 0, 65535⟩,
   ⟨0x2781, 0x2781, 0x01, 0x10, .u64, .ro, 0, true, 0, 18446744073709551615⟩,
   ⟨0x2782, 0x2782, 0x01, 0x10, .u64, .ro, 0, true, 0, 18446744073709551615⟩,
   ⟨0x2783, 0x2783, 0x01, 0x10, .u64, .ro, 0, true, 0, 18446744073709551615⟩]

/-- Objects of indices 0x2800 to 0x28FF. -/
def odRows28 : List ObjRow :=
  [⟨0x2800, 0x2800, 0x01, 0x01, .u32, .ro, 0, true, 0, 4294967295⟩,
   ⟨0x2800, 0x2800, 0x02, 0x02, .u32, .ro, 0, true, 0, 4294967295⟩,
   ⟨0x2800, 0x2800, 0x03, 0x03, .u32, .rw, 0, true, 0, 4294967295⟩,
   ⟨0x2800, 0x2800, 0x04, 0x04, .dom, .ro, 0, true, 0, 18446744073709551615⟩,
   ⟨0x2800, 0x2800, 0x05, 0x05, .dom, .ro, 0, true, 0, 18446744073709551615⟩,
   ⟨0x2800, 0x2800, 0x06, 0x06, .u64, .ro, 0, true, 0, 18446744073709551615⟩,
   ⟨0x2800, 0x2800, 0x07, 0x07, .u32, .ro, 0, true, 0, 4294967295⟩,
   ⟨0x2800, 0x2800, 0x08, 0x08, .u8, .ro, 0, true, 0, 255⟩,
   ⟨0x2810, 0x2810, 0x01, 0x01, .u8, .wo, 0, false, 1, 5⟩,
   ⟨0x2810, 0x2810, 0x02, 0x02, .bool, .rw, 0, true, 0, 1⟩,
   ⟨0x2810, 0x2810, 0x03, 0x03, .u8, .ro, 0, true, 0, 255⟩,
   ⟨0x2810, 0x2810, 0x04, 0x04, .u8, .ro, 0, true, 0, 255⟩,
   ⟨0x2810, 0x2810, 0x05, 0x05, .u16, .ro, 0, true, 0, 65535⟩,
   ⟨0x2810, 0x2810, 0x06, 0x06, .u32, .ro, 0, true, 0, 4294967295⟩,
   ⟨0x2810, 0x2810, 0x07, 0x07, .u32, .ro, 0, true, 0, 4294967295⟩,
   ⟨0x2810, 0x2810, 0x08, 0x08, .u32, .ro, 0, true, 0, 4294967295⟩,
   ⟨0x2820, 0x2820, 0x01, 0x01, .u8, .ro, 0, true, 0, 255⟩,
   ⟨0x2820, 0x2820, 0x02, 0x02, .u8, .ro, 0, true, 0, 255⟩,
   ⟨0x2820, 0x2820, 0x03, 0x03, .u32, .ro, 0, true, 0, 4294967295⟩]

/-- Objects of indices 0x2900 to 0x29FF. -/
def odRows29 : List ObjRow :=
  [⟨0x2900, 0x2900, 0x01, 0x01, .u8, .ro, 0, true, 0, 255⟩,
   ⟨0x2900, 0x2900, 0x02, 0x02, .u8, .ro, 0, true, 0, 255⟩,
   ⟨0x2900, 0x2900, 0x03, 0x03, .bool, .ro, 0, true, 0, 1⟩,
   ⟨0x2900, 0x2900, 0x04, 0x04, .u8, .rw, 6, false, 1, 6⟩,
   ⟨0x2900, 0x2900, 0x05, 0x05, .u32, .ro, 0, true, 0, 4294967295⟩,
   ⟨0x2900, 0x2900, 0x06, 0x06, .u64, .ro, 0, true, 0, 18446744073709551615⟩,
   ⟨0x2900, 0x2900, 0x07, 0x07, .u64, .ro, 0, true, 0, 18446744073709551615⟩,
   ⟨0x2900, 0x2900, 0x08, 0x08, .u64, .ro, 0, true, 0, 18446744073709551615⟩,
   ⟨0x2900, 0x2900, 0x09, 0x09, .u64, .ro, 0, true, 0, 18446744073709551615⟩,
   ⟨0x2901, 0x2901, 0x01, 0x01, .u8, .rw, 255, true, 0, 255⟩]

/-- Objects of indices 0x2A00 to 0x2AFF. -/
def odRows2A : List ObjRow :=
  [⟨0x2A00, 0x2A00, 0x01, 0x01, .u8, .ro, 0, true, 0, 255⟩,
   ⟨0x2A00, 0x2A00, 0x02, 0x02, .u8, .ro, 3, true, 0, 255⟩,
   ⟨0x2A01, 0x2A01, 0x00, 0x00, .dom, .wo, 0, true, 0, 18446744073709551615⟩,
   ⟨0x2A02, 0x2A02, 0x01, 0x01, .u8, .wo, 0, true, 0, 1⟩,
   ⟨0x2A02, 0x2A02, 0x02, 0x02, .bool, .wo, 0, true, 0, 1⟩,
   ⟨0x2A02, 0x2A02, 0x03, 0x03, .u16, .ro, 0, true, 0, 65535⟩,
   ⟨0x2A02, 0x2A02, 0x04, 0x04, .u16, .ro, 0, true, 0, 65535⟩,
   ⟨0x2A03, 0x2A03, 0x01, 0x01, .u32, .ro, 0, true, 0, 4294967295⟩,
   ⟨0x2A03, 0x2A03, 0x02, 0x02, .u32, .ro, 0, true, 0, 4294967295⟩,
   ⟨0x2A10, 0x2A10, 0x01, 0x01, .u16, .ro, 378, true, 0, 65535⟩,
   ⟨0x2A10, 0x2A10, 0x02, 0x02, .u16, .ro, 378, true, 0, 65535⟩,
   ⟨0x2A11, 0x2A11, 0x01, 0x01, .u16, .ro, 378, true, 0, 65535⟩,
   ⟨0x2A11, 0x2A11, 0x02, 0x02, .u16, .ro, 378, true, 0, 65535⟩]

/-- Objects of indices 0x3000 to 0x30FF. -/
def odRows30 : List ObjRow :=
  [⟨0x3000, 0x3000, 0x01, 0x90, .u8, .ro, 0, true, 0, 255⟩,
   ⟨0x3001, 0x3001, 0x01, 0x90, .u8, .ro, 0, true, 0, 255⟩,
   ⟨0x3002, 0x3002, 0x01, 0x90, .bool, .rw, 1, true, 0, 1⟩,
   ⟨0x3003, 0x3003, 0x01, 0x90, .bool, .rw, 1, true, 0, 1⟩,
   ⟨0x3004, 0x3004, 0x01, 0x90, .u16, .ro, 0, true, 0, 65535⟩,
   ⟨0x3005, 0x3005, 0x01, 0x90, .u16, .ro, 0, true, 0, 65535⟩,
   ⟨0x3006, 0x3006, 0x01, 0x90, .u16, .ro, 0, true, 0, 65535⟩,
   ⟨0x3007, 0x3007, 0x01, 0x90, .u16, .ro, 0, true, 0, 65535⟩,
   ⟨0x3010, 0x3010, 0x01, 0x01, .u32, .rw, 200, true, 10, 100000⟩,
   ⟨0x3010, 0x3010, 0x02, 0x02, .u32, .rw, 200, true, 10, 100000⟩]

/-- The rows of the objects whose index has upper byte `g`. -/
def odRows (g : Nat) : List ObjRow :=
  if g = 0x10 then odRows10 else
  if g = 0x14 then odRows14 else
  if g = 0x16 then odRows16 else
  if g = 0x18 then odRows18 else
  if g = 0x1A then odRows1A else
  if g = 0x20 then odRows20 else
  if g = 0x21 then odRows21a ++ odRows21b ++ odRows21c else
  if g = 0x22 then odRows22a ++ odRows22b else
  if g = 0x23 then odRows23 else
  if g = 0x24 then odRows24a ++ odRows24b else
  if g = 0x25 then odRows25 else
  if g = 0x26 then odRows26a ++ odRows26b else
  if g = 0x27 then odRows27a ++ odRows27b ++ odRows27c ++ odRows27d else
  if g = 0x28 then odRows28 else
  if g = 0x29 then odRows29 else
  if g = 0x2A then odRows2A else
  if g = 0x30 then odRows30 else []

/-- The index and the subindex of a key. -/
def keyIdx (k : Nat) : Nat := k / 256
def keySub (k : Nat) : Nat := k % 256

/-- The rows of one index. -/
def odIndexRows (idx : Nat) : List ObjRow :=
  (odRows (idx / 256)).filter fun r => decide (r.iLo ≤ idx ∧ idx ≤ r.iHi)

/-- The index holds an object. -/
def odIndexExists (idx : Nat) : Bool := !(odIndexRows idx).isEmpty

/-- The highest subindex of an index. -/
def odTopSub (idx : Nat) : Nat := lmax ((odIndexRows idx).map (·.sHi))

/-- The indices of PDO mappings, whose subindex 0 is the writable count (R418). -/
def isPdoMap (idx : Nat) : Bool := idx == 0x1600 || idx == 0x1A00 || idx == 0x1A01 || idx == 0x1A02

/-- R432: the map of the indices. -/
def odMap : List (Nat × Nat) :=
  [(0x1000, 0x1001), (0x1005, 0x1005), (0x1014, 0x1018), (0x1400, 0x1400), (0x1600, 0x1600), (0x1800, 0x1802),
   (0x1A00, 0x1A02), (0x2000, 0x2000), (0x2010, 0x2010), (0x2020, 0x2020), (0x2100, 0x2100), (0x2110, 0x2110),
   (0x2120, 0x2120), (0x2130, 0x2160), (0x2180, 0x219F), (0x2200, 0x220A), (0x2280, 0x2280), (0x22F0, 0x22F3),
   (0x2300, 0x2301), (0x2310, 0x2310), (0x2320, 0x2320), (0x2400, 0x240F), (0x2480, 0x2480), (0x2490, 0x2490),
   (0x2501, 0x2550), (0x2600, 0x26FF), (0x2700, 0x27FF), (0x2800, 0x28FF), (0x2900, 0x2901), (0x2A00, 0x2A03),
   (0x2A10, 0x2A11), (0x3000, 0x3007), (0x3010, 0x3010)]

/-- R432, R434: an index of the map, whether or not it holds an object. -/
def odMapped (idx : Nat) : Bool := odMap.any fun r => decide (r.1 ≤ idx ∧ idx ≤ r.2)

/-- R402: the row of an object; subindex 0 of a record or array is its highest subindex. -/
def odRow (k : Nat) : Option ObjRow :=
  match (odIndexRows (keyIdx k)).find? fun r => decide (r.sLo ≤ keySub k ∧ keySub k ≤ r.sHi) with
  | some r => some r
  | none =>
    if keySub k = 0 ∧ odIndexExists (keyIdx k) then
      if isPdoMap (keyIdx k) then some ⟨keyIdx k, keyIdx k, 0, 0, .u8, .rw, 0, true, 0, 255⟩
      else some ⟨keyIdx k, keyIdx k, 0, 0, .u8, .ro, odTopSub (keyIdx k), true, 0, 255⟩
    else none

/-- R358: phases, nominal voltage in 0.1 mV, rated current in A, phases needed and C_OUT in µF of a rail. -/
def railPhases (n : Nat) : Nat :=
  match n with | 0 => 40 | 1 => 40 | 2 => 6 | 3 => 6 | 4 => 4 | 5 => 4 | 6 => 2 | 7 => 2 | 8 => 2 | 9 => 1 | 10 => 1 | _ => 0
def railNominal (n : Nat) : Nat :=
  match n with
  | 0 => 7500 | 1 => 7500 | 2 => 7500 | 3 => 7500 | 4 => 9000 | 5 => 9000 | 6 => 18000 | 7 => 5000 | 8 => 10500
  | 9 => 9000 | 10 => 18000 | _ => 0
def railRated (n : Nat) : Nat :=
  match n with
  | 0 => 1250 | 1 => 1250 | 2 => 140 | 3 => 140 | 4 => 110 | 5 => 110 | 6 => 35 | 7 => 35 | 8 => 35 | 9 => 30 | 10 => 10
  | _ => 0
def railNeeded (n : Nat) : Nat :=
  match n with | 0 => 32 | 1 => 32 | 2 => 4 | 3 => 4 | 4 => 3 | 5 => 3 | _ => 1
def railCout (n : Nat) : Nat :=
  match n with
  | 0 => 6000 | 1 => 6000 | 2 => 1200 | 3 => 1200 | 4 => 800 | 5 => 800 | 6 => 300 | 7 => 300 | 8 => 300 | 9 => 200
  | 10 => 100 | _ => 0

/-- A mapping entry of R418: index, subindex, length in bits. -/
def mapEntry (k bits : Nat) : Nat := keyIdx k * 65536 + keySub k * 256 + bits

/-- R417: the default mappings. -/
def pdoDefault (idx : Nat) : List Nat :=
  if idx = 0x1600 then
    [mapEntry oCAP_TARGET_W 16, mapEntry oFLOW_LPM 16, mapEntry oFLOW_LOSS 8, mapEntry oSUPPLY_T 16]
  else if idx = 0x1A00 then
    [mapEntry oP_IN 32, mapEntry oCAP_ENFORCED_W 16, mapEntry oCAP_LAG_W 16, mapEntry oCAP_SHORTFALL_W 16,
     mapEntry oCAP_STATUS 32, mapEntry oLIMIT_SOURCE 8, mapEntry oMODULE_STATE 8, mapEntry oFILLER_ENERGY_MJ 64,
     mapEntry oENERGY_IN_MJ 64]
  else if idx = 0x1A01 then
    [mapEntry oT_MAX 16, mapEntry oT_INLET 16, mapEntry oT_OUTLET 16, mapEntry oCOOLANT_CAP_W 16,
     mapEntry oTHERMAL_LIMIT_W 16, mapEntry oV_IN 16, mapEntry oI_IN 16, mapEntry oDUTY 8, mapEntry (oDUTY + 1) 8,
     mapEntry oDIE_FREQ_MHZ 16, mapEntry (oDIE_FREQ_MHZ + 1) 16, mapEntry oSHARE_W 16, mapEntry (oSHARE_W + 1) 16,
     mapEntry oFILLER_TILES 8, mapEntry (oFILLER_TILES + 1) 8, mapEntry oHOTTEST_SENSOR 8, mapEntry oTROWEL_OWNER 8,
     mapEntry oBUSCONV_STATE 8]
  else if idx = 0x1A02 then
    [mapEntry oPORTS_UP 16, mapEntry oPORTS_ATTENTION 16, mapEntry oSTALE_MEMBERS 16, mapEntry oMGMT_OWNER 8,
     mapEntry oCAN_BUS_STATE 8, mapEntry (oCAN_BUS_STATE + 1) 8, mapEntry oTAKEOVERS 32, mapEntry oNMT_STATE 8,
     0x00050008, 0x00050008]
  else []

/-- The default of an object: that of its table, with the rows whose default depends on the index or subindex
(R358, R397, R417) worked out, and the values of log entries 2 and 3 where the manual gives none. -/
def odDefault (k : Nat) : Nat :=
  let i := keyIdx k
  let j := keySub k
  if 0x2200 ≤ i ∧ i ≤ 0x220A ∧ (j = 2 ∨ j = 5 ∨ j = 0xD ∨ j = 0x14) then
    let n := i - 0x2200
    if j = 2 then railNominal n else if j = 5 then railRated n * 112 / 10 else if j = 0xD then railPhases n
    else railCout n
  else if i = 0x22F0 ∧ j ≠ 0 then (if j ≤ 108 then 1 else 0)
  else if isPdoMap i then (if j = 0 then (pdoDefault i).length else (pdoDefault i).getD (j - 1) 0)
  else if i = 0x1400 ∧ j = 1 then 0x201
  else if 0x1800 ≤ i ∧ i ≤ 0x1802 ∧ j = 1 then 0x181 + (i - 0x1800) * 0x100
  else if 0x1800 ≤ i ∧ i ≤ 0x1802 ∧ j = 5 then (if i = 0x1800 then 10 else 100)
  else match odRow k with
    | some r => r.dflt
    | none => 0

/-- The stored value of an object. -/
def odv (s : State) (k : Nat) : Nat := tget s.od k (odDefault k)

/-- The state with an object's stored value replaced. -/
def odSet (s : State) (k v : Nat) : State := { s with od := tput s.od k v }

/-- A counter object one higher (R475: counters wrap modulo their width; here 64 bits). -/
def odAdd (s : State) (k n : Nat) : State := odSet s k ((odv s k + n) % 2 ^ 64)

/-- Counters of 32 bits. -/
def odAdd32 (s : State) (k n : Nat) : State := odSet s k ((odv s k + n) % 2 ^ 32)

/-- An object of flag bits with bit `i` set or cleared. -/
def odBit (s : State) (k i : Nat) (b : Bool) : State := odSet s k (setBits (odv s k) i 1 (b2n b))

/-- The state with an object back at its default. -/
def odClear (s : State) (k : Nat) : State := { s with od := tdel s.od k }

/-- R457: confidential mode is in force, until a Primer that leaves it has passed. -/
def confidential (s : State) : Bool := odv s oSEC_MODE == 1 || odv s oSEC_MODE == 3

/-- R353, R464: telemetry is coarsened: in confidential mode and while Primer shows TELEMETRY_COARSE. -/
def coarse (s : State) : Bool := confidential s || bitAt (odv s oCAP_STATUS) 9

/-- The state of a tile. -/
def tileSt (s : State) (t : Nat) : TileSt := tget s.tiles t TileSt.initial

/-- The state with a tile's state replaced. -/
def setTile (s : State) (t : Nat) (x : TileSt) : State := { s with tiles := tput s.tiles t x }

/-- The die of a tile. -/
def dieOf (t : Nat) : Nat := t / 144

/-- R467: the classes of chapter 13's objects. -/
inductive DiagClass where
  | none | platform | tenant | diagnostic
  deriving DecidableEq, Repr

/-- R467, R498: the class of an object. -/
def diagClass (k : Nat) : DiagClass :=
  let i := keyIdx k
  if i = 0x2700 ∨ i = 0x2701 ∨ i = 0x2770 then .platform
  else if i = 0x2710 then (if keySub k = 0x0B ∨ keySub k = 0x0C then .platform else .tenant)
  else if (0x2711 ≤ i ∧ i ≤ 0x2714) ∨ (0x2720 ≤ i ∧ i ≤ 0x273F) ∨ (0x2780 ≤ i ∧ i ≤ 0x2783) then .tenant
  else if i = 0x2760 then (if keySub k = 3 then .platform else .diagnostic)
  else if i = 0x2740 ∨ i = 0x2750 ∨ i = 0x2751 then .diagnostic
  else .none

/-- R478: objects that accumulate from a start point, which a freeze latches. -/
def accumulates (k : Nat) : Bool :=
  let i := keyIdx k
  let j := keySub k
  decide (((0x2710 ≤ i ∧ i ≤ 0x2714) ∨ (0x2720 ≤ i ∧ i ≤ 0x273F) ∨ (0x2781 ≤ i ∧ i ≤ 0x2783)
    ∨ (i = 0x2740 ∧ 7 ≤ j ∧ j ≤ 0xA) ∨ i = 0x2510 ∨ i = 0x2511
    ∨ (0x2400 ≤ i ∧ i ≤ 0x240F ∧ 0x28 ≤ j ∧ j ≤ 0x2D) ∨ k = oUNREACHABLE_COUNT ∨ k = oLATE_RESPONSES
    ∨ (i = 0x2900 ∧ 6 ≤ j ∧ j ≤ 9) ∨ k = oFILLER_ENERGY_MJ ∨ k = oENERGY_IN_MJ
    ∨ (i = 0x2160 ∧ 3 ≤ j ∧ j ≤ 6) ∨ k = oLOG_LOST_TOTAL) ∧ j ≠ 0)

/-- R353, R388: a value coarsened. -/
def coarsen (k v : Nat) : Nat :=
  let i := keyIdx k
  let j := keySub k
  if k = oP_IN then (v + 250) / 500 * 500
  else if k = oCAP_ENFORCED_W ∨ k = oCAP_LAG_W ∨ k = oCAP_SHORTFALL_W then (v + 25) / 50 * 50
  else if k = oFILLER_ENERGY_MJ ∨ k = oENERGY_IN_MJ then v / 1000000 * 1000000
  else if k = oDUTY ∨ k = oDUTY + 1 ∨ k = oDIE_FREQ_MHZ ∨ k = oDIE_FREQ_MHZ + 1 ∨ k = oSHARE_W ∨ k = oSHARE_W + 1
      ∨ k = oFILLER_TILES ∨ k = oFILLER_TILES + 1 ∨ (i = 0x2301 ∧ j ≠ 0) then 0
  else if k = oT_MAX then uxt 16 ((sxt 16 v + 5) / 10 * 10)
  else if 0x2200 ≤ i ∧ i ≤ 0x220A ∧ (j = 7 ∨ j = 8 ∨ j = 9 ∨ j = 0xA) then 0
  else if 0x2200 ≤ i ∧ i ≤ 0x220A ∧ j = 6 then (v + 50) / 100 * 100
  else if i = 0x22F1 ∧ j ≠ 0 then 0
  else v

/-- R353, R388, R406, R467: a value as every path reads it. -/
def readAs (s : State) (k v : Nat) : Nat :=
  if confidential s ∧ (diagClass k = .tenant ∨ diagClass k = .diagnostic) then 0
  else if coarse s then coarsen k v else v

/-- R127: the number of a tile state. -/
def modeNum (m : TileMode) : Nat :=
  match m with
  | .active => 0 | .rest => 1 | .pupa => 2 | .off => 3

/-- The tile that a per-tile object names: two indices, one per die, subindex 1 to 144. -/
def objTile (base k : Nat) : Nat := (keyIdx k - base) * 144 + (keySub k - 1)

/-- R30, R492: a tile that runs Filler. -/
def runsFiller (x : TileSt) : Bool := x.filler.isSome

/-- R354: FILLER_TILES of a die. -/
def fillerTiles (s : State) (d : Nat) : Nat :=
  (s.tiles.filter fun e => decide (dieOf e.1 = d) && runsFiller e.2).length

/-- R523: the SEQs of the oldest and the newest committed record; with none held, TAIL is the SEQ of the first record
to be committed and HEAD is TAIL − 1. -/
def logTail (s : State) : Nat :=
  match s.log.ring.map (fun e => e.2.1.seq) with
  | [] => ((s.log.queue.map (·.seq)) ++ [s.log.nextSeq]).headD 0
  | x :: r => (x :: r).foldl (fun a b => if (a + 2 ^ 32 - b) % 2 ^ 32 < 2 ^ 31 then b else a) x
def logHead (s : State) : Nat :=
  match s.log.ring.map (fun e => e.2.1.seq) with
  | [] => (logTail s + 2 ^ 32 - 1) % 2 ^ 32
  | x :: r => (x :: r).foldl (fun a b => if (b + 2 ^ 32 - a) % 2 ^ 32 < 2 ^ 31 then b else a) x

/-- R221, R465: the ports in a state, as a bit per port. -/
def portsWhere (s : State) (p : State → Nat → Bool) : Nat :=
  (List.range 16).foldl (fun a i => if p s i then a + 2 ^ i else a) 0

/-- R221: PORT_STATE of port `p`. -/
def portState (s : State) (p : Nat) : Nat := odv s (oPORT_STATE + 256 * p)

/-- R474: the time spent unlocked. -/
def unlockedNs (s : State) : Nat :=
  odv s oTIME_UNLOCKED_NS + (match s.tim.lostAt with | some a => s.now - a | none => 0)

/-- R524: OPERATING_SECONDS: what is saved, and the whole seconds since. -/
def opSeconds (s : State) : Nat := (odv s oOPERATING_SECONDS + (s.now - s.mod.secAt) / 1000000000) % 2 ^ 32

/-- R409: the error counters of a bus's controller; above 255 transmit errors it is in bus-off, above 127 of either kind
error-passive. -/
def canErr (s : State) (bus : Nat) : CanErr := tget s.can.errs bus ⟨0, 0⟩
def busOff (s : State) (bus : Nat) : Bool := decide (255 < (canErr s bus).tx)

/-- R409, R433: CAN_BUS_STATE: bus-off before a silence of 1 s, and that before error-passive (log entry 138). -/
def canBusState (s : State) (bus : Nat) : Nat :=
  if busOff s bus then 2
  else if odv s (oCAN_BUS_STATE + bus) = 3 then 3
  else if 127 < (canErr s bus).tx ∨ 127 < (canErr s bus).rx then 1
  else 0

/-- R433: the live value of an object: stored, or worked out from the state it reports. -/
def odLive (s : State) (path k : Nat) : Nat :=
  let i := keyIdx k
  let j := keySub k
  if j = 0 ∧ i ≠ 0x2A01 then odv s k
  else if i = 0x3000 ∨ i = 0x3001 then modeNum (tileSt s (objTile 0x3000 k)).mode
  else if i = 0x3004 ∨ i = 0x3005 then (tileSt s (objTile 0x3004 k)).graph
  else if i = 0x3006 ∨ i = 0x3007 then
    (match (tileSt s (objTile 0x3006 k)).run with | some r => r.opId | none => 0)
  else if k = oTIME_NOW then s.now
  else if k = oCOB_ID_EMCY ∨ ((i = 0x1400 ∨ (0x1800 ≤ i ∧ i ≤ 0x1802)) ∧ j = 1) then
    (match tfind s.od k with | some v => v | none => odDefault k + odv s oSLOT_ID)
  else if k = oTIME_UNLOCKED_NS then unlockedNs s
  else if k = oTIME_DRIFT_BOUND_NS then (unlockedNs s * 50 + 999999) / 1000000
  else if k = oCAN_BUS_STATE then canBusState s 0
  else if k = oCAN_BUS_STATE + 1 then canBusState s 1
  else if k = oCONSUMER_HB then odv s oRM_NODE_ID * 65536 + 1000
  else if k = oVSET then odv s oDIE_VCORE
  else if k = oVSET + 256 then odv s (oDIE_VCORE + 1)
  else if i = 0x2A03 then (match tfind s.trw.banks (j - 1) with | some _ => odv s k | none => Config.gainCrc % 2 ^ 32)
  else if k = oFILLER_TILES then fillerTiles s 0
  else if k = oFILLER_TILES + 1 then fillerTiles s 1
  else if k = oOPERATING_SECONDS then opSeconds s
  else if k = oLOG_HEAD_SEQ then logHead s
  else if k = oLOG_TAIL_SEQ then logTail s
  else if k = oLOG_READ_SEQ then tget s.log.readSeq path (logTail s)
  else if k = oLOG_QUEUE_DEPTH then s.log.queue.length
  else if k = oPORTS_UP then portsWhere s fun s p => portState s p == 6
  else if k = oPORTS_ATTENTION then
    portsWhere s fun s p => portState s p == 4 || portState s p == 8
      || decide (1 ≤ odv s (oCONN_HEALTH + 256 * p) ∧ odv s (oCONN_HEALTH + 256 * p) ≤ 5)
  else odv s k

end Sys2Proof.Machine
end

