-- ==== Sys2Proof/Machine/Trace.lean ====
section
/-! DEFINITION. Trace records, trace triggers and freezes, which any event of the module may raise (R478 to R485). -/
namespace Sys2Proof.Machine

/-- R484: the number of slots of a trace buffer. -/
def traceN : Nat := 524288

/-- R518, R481: SOURCE of the module as a whole in a logbook record; of a tile, a control core (die, number) and a
switch half. -/
def srcModule : Nat := 0xFFFF
def srcTile (t : Nat) : Nat := dieOf t * 256 + (t % 144 / 12) * 16 + t % 12
def srcCore (die c : Nat) : Nat := die * 256 + 0xF0 + c
def srcHalf (die : Nat) : Nat := die * 256 + 0xD0

/-- R481: the die of a SOURCE. -/
def srcDie (src : Nat) : Nat := bitsOf src 8 8

/-- R481: SOURCE of a record that a die's collector makes itself: its die, with a row and column that the manual does not
name and that are left open (log entry 7). -/
def srcCollector (die : Nat) : Nat := die * 256 + Config.freeWord 0 die % 256

/-- R484: CAPTURING or TRIGGERED. -/
def capturing (s : State) : Bool := odv s oTRACE_STATE == 1 || odv s oTRACE_STATE == 2

/-- R480: the trace buffer of a die, and the state with it replaced. -/
def traceDie (s : State) (d : Nat) : TraceDie := if d = 0 then s.obs.trace0 else s.obs.trace1
def setTraceDie (s : State) (d : Nat) (x : TraceDie) : State :=
  if d = 0 then { s with obs := { s.obs with trace0 := x } } else { s with obs := { s.obs with trace1 := x } }

/-- R483: the fields of TRACE_CTL. -/
def traceMode (s : State) : Nat := odv s oTRACE_CTL % 4
def traceSelect (s : State) (g : Nat) : Bool := bitAt (odv s oTRACE_CTL) (10 + g)
def traceSrcOn (s : State) (b : Nat) : Bool := bitAt (odv s oTRACE_CTL) (17 + b)

/-- R484: the slot after `n`, wrapping after slot N − 2 and skipping a protected slot. -/
def traceNext (n : Nat) (prot : Option Nat) : Nat × Bool :=
  let a := if n + 1 = traceN - 1 then 0 else n + 1
  let w := n + 1 = traceN - 1
  if some a = prot then (if a + 1 = traceN - 1 then (0, true) else (a + 1, w)) else (a, w)

/-- R484: whether a die's buffer takes no further record: full in mode 1, or done after the trigger in mode 3. -/
def traceFull (s : State) (d : Nat) : Bool :=
  (traceMode s == 1 && (traceDie s d).wrapped) || (traceDie s d).post == some 0

/-- R484: the closing GAP record of a die, with the count of events lost. -/
def traceGap (s : State) (d : Nat) : TraceRec :=
  ⟨s.now, 0x31, odv s oTIME_FLAGS % 16, srcCollector d, 0, 0, (traceDie s d).seq, 0, odv s (oTRACE_LOST + d)⟩

/-- R484: a record lost: counted, and the closing GAP record rewritten. -/
def traceLose (d : Nat) (s : State) : State :=
  let s1 := odAdd s (oTRACE_LOST + d) 1
  let up (g : Option TraceRec) := g.map fun r => { r with arg1 := odv s1 (oTRACE_LOST + d) }
  if d = 0 then { s1 with obs := { s1.obs with gap0 := up s1.obs.gap0 } }
  else { s1 with obs := { s1.obs with gap1 := up s1.obs.gap1 } }

/-- R484: an event that comes when the trace is stopped is lost where it would have been recorded. -/
def traceMiss (d : Nat) (s : State) : State := if traceMode s = 0 then s else traceLose d s

/-- R480, R484: writes a record into a die's buffer; `protect` marks the trigger of R485. -/
def traceWrite (d : Nat) (r : TraceRec) (protect : Bool) (s : State) : State :=
  let st := odv s oTRACE_STATE
  if st = 3 then traceMiss d s
  else if st = 0 then s
  else if traceFull s d then traceLose d s
  else
    let b := traceDie s d
    let r1 := { r with seq := b.seq, flags := r.flags + (if protect then 16 else 0) }
    let prot := if protect then some b.next else b.prot
    let (n, w) := traceNext b.next prot
    let b1 : TraceDie :=
      { slots := tput b.slots b.next r1, next := n, seq := (b.seq + 1) % 2 ^ 32, prot := prot,
        wrapped := b.wrapped || w, post := b.post.map (· - 1) }
    let s1 := odAdd (setTraceDie s d b1) (oTRACE_RECORDS + d) 1
    let s2 := if protect then odSet s1 (oTRACE_TRIGGER_SLOT + d) b.next else s1
    if b1.wrapped && traceMode s != 1 then odSet s2 (oTRACE_OLDEST_SLOT + d) n else s2

/-- R484: records kept after the trigger in mode 3. -/
def tracePost (s : State) : Nat := (100 - bitsOf (odv s oTRACE_CTL) 8 2) * (traceN - 1) / 100

/-- R483 to R485: an event of trigger source `b`: each die writes a TRIGGER record with the same TIME; the first since
arming is protected, and in mode 3 starts the post-trigger count; in STOPPED both records are lost. -/
def traceTrig (b : Nat) (s : State) : State :=
  if traceSrcOn s b ∧ (odv s oTRACE_STATE = 1 ∨ odv s oTRACE_STATE = 2) then
    let first := !s.obs.trig
    let r (d : Nat) : TraceRec := ⟨s.now, 0x30, odv s oTIME_FLAGS % 16, srcCollector d, 0, 0, 0, b, 0⟩
    let s1 := traceWrite 1 (r 1) first (traceWrite 0 (r 0) first s)
    let s2 := { s1 with obs := { s1.obs with trig := true } }
    if first ∧ traceMode s = 3 then
      let p := some (tracePost s)
      odSet { s2 with obs := { s2.obs with trace0 := { s2.obs.trace0 with post := p },
                                           trace1 := { s2.obs.trace1 with post := p } } } oTRACE_STATE 2
    else s2
  else if traceSrcOn s b ∧ odv s oTRACE_STATE = 3 then traceMiss 1 (traceMiss 0 s)
  else s

/-- R483: whether a record of a TYPE and OP_ID matches TRACE_MATCH. -/
def traceMatches (s : State) (typ opId : Nat) : Bool :=
  let m := odv s oTRACE_MATCH
  m % 256 == typ && (!bitAt m 24 || bitsOf m 23 8 == opId)

/-- R478: latches every object that accumulates and stamps the freeze. -/
def freezeLatch (cause : Nat) (s : State) : State :=
  let f := s.od.filter fun e => accumulates e.1
  odSet (odSet (odSet { s with frz := f } oFREEZE_STATE 2) oFREEZE_TIME s.now) oFREEZE_CAUSE cause

/-- R19, R479: two times fall in one cycle of the 25 MHz always-on clock. -/
def sameCycle (a b : Nat) : Bool := a / 40 == b / 40

/-- R479: a freeze was in force before this cycle of the always-on clock. -/
def frozen (s : State) : Bool := odv s oFREEZE_STATE == 2 && !sameCycle (odv s oFREEZE_TIME) s.now

/-- R479, R482: a FREEZE record of the present freeze names the cause it merges to. -/
def recauseRec (cause at_ : Nat) (r : TraceRec) : TraceRec :=
  if r.typ = 0x32 ∧ r.arg1 = at_ then { r with arg0 := cause } else r

/-- R479: another trigger in the cycle of a freeze: FREEZE_CAUSE and the FREEZE records name the lowest cause. -/
def freezeMerge (cause : Nat) (s : State) : State :=
  if odv s oFREEZE_CAUSE ≤ cause then s
  else
    let up (t : TraceDie) : TraceDie :=
      { t with slots := t.slots.map fun e => (e.1, recauseRec cause (odv s oFREEZE_TIME) e.2) }
    odSet { s with obs := { s.obs with trace0 := up s.obs.trace0, trace1 := up s.obs.trace1 } } oFREEZE_CAUSE cause

/-- R478, R479, R482: a freeze with a cause: latches, writes the FREEZE records and triggers the trace where it is enabled
for that. Within its cycle it takes up further triggers, and after that it ignores them. -/
def freeze (cause : Nat) (s : State) : State :=
  if odv s oFREEZE_STATE = 2 then (if frozen s then s else freezeMerge cause s)
  else
    let s1 := freezeLatch cause s
    let r (d : Nat) : TraceRec := ⟨s.now, 0x32, odv s oTIME_FLAGS % 16, srcCollector d, 0, 0, 0, cause, s.now⟩
    let s2 := traceWrite 1 (r 1) false (traceWrite 0 (r 0) false s1)
    traceTrig 3 (if traceMatches s 0x32 0 then traceTrig 5 s2 else s2)

/-- R479: an event enabled in FREEZE_SOURCES, by its bit; the cause codes 4 to 8 follow the bits. -/
def freezeSource (bit : Nat) (s : State) : State :=
  if bitAt (odv s oFREEZE_SOURCES) bit then freeze (4 + bit) s else s

/-- R483, R479: an event of a trace trigger source, which may freeze the counters too. -/
def traceEvent (b : Nat) (s : State) : State :=
  if traceSrcOn s b ∧ capturing s then freezeSource 3 (traceTrig b s) else traceTrig b s

/-- R480: NO_LOSS, and a source that is a tile. -/
def noLoss (s : State) : Bool := bitAt (odv s oTRACE_CTL) 9
def srcIsTile (src : Nat) : Bool := decide (bitsOf src 7 4 < 12)

/-- R480: a FIFO without room for a record of its source; with NO_LOSS a tile drops none. -/
def fifoFull (s : State) (src : Nat) : Bool :=
  decide (16 ≤ (tget s.obs.fifos src []).length) && !(noLoss s && srcIsTile src)

/-- R480, R484: a record of a source enters its FIFO, with the number dropped before it, or is dropped and counted. -/
def traceAccept (r : TraceRec) (s : State) : State :=
  if odv s oTRACE_STATE = 3 then traceMiss (srcDie r.source) s
  else if capturing s = false then s
  else if fifoFull s r.source then
    traceLose (srcDie r.source)
      { s with obs := { s.obs with drops := tput s.obs.drops r.source (tget s.obs.drops r.source 0 + 1) } }
  else
    { s with obs := { s.obs with
      fifos := tput s.obs.fifos r.source (tget s.obs.fifos r.source [] ++ [(tget s.obs.drops r.source 0, r)])
      drops := tdel s.obs.drops r.source } }

/-- R480: the source of a die whose oldest record has the oldest stamp, with that record. -/
def traceOldest (d : Nat) : Table (List (Nat × TraceRec)) → Option (Nat × Nat × TraceRec)
  | [] => none
  | (src, q) :: r =>
    match q with
    | [] => traceOldest d r
    | e :: _ =>
      if srcDie src ≠ d then traceOldest d r
      else match traceOldest d r with
        | some b => if b.2.2.time < e.2.time then some b else some (src, e)
        | none => some (src, e)

/-- R480: a die's collector moves one record from its FIFO into the buffer, after a GAP record where some were dropped
before it. -/
def traceCollect (d : Nat) (s : State) : State :=
  match traceOldest d s.obs.fifos with
  | none => s
  | some (src, n, r) =>
    let q := (tget s.obs.fifos src []).drop 1
    let s1 := { s with obs := { s.obs with
      fifos := if q.isEmpty then tdel s.obs.fifos src else tput s.obs.fifos src q } }
    let s2 := if n = 0 then s1 else traceWrite d ⟨s.now, 0x31, odv s oTIME_FLAGS % 16, src, 0, 0, 0, 0, n⟩ false s1
    traceWrite d r false s2

/-- R480: `n` moves of a die's collector. -/
def traceDrain (d : Nat) : Nat → State → State
  | 0, s => s
  | n + 1, s => if s.obs.fifos.isEmpty then s else traceDrain d n (traceCollect d s)

/-- R480: what a die's collector moves while the time base goes from `a` to `b`: two records in each tile clock cycle. -/
def traceMoves (d a b : Nat) (s : State) : State :=
  let f := odv s (oDIE_FREQ_MHZ + d)
  traceDrain d (2 * (b * f / 1000 - a * f / 1000)) s

/-- R480 to R483: a record of a source; one that matches TRACE_MATCH is a trigger event. -/
def tracePut (typ src opId layer arg0 arg1 : Nat) (s : State) : State :=
  let s1 := traceAccept ⟨s.now, typ, odv s oTIME_FLAGS % 16, src, opId, layer, 0, arg0 % 2 ^ 32, arg1 % 2 ^ 64⟩ s
  if capturing s && !fifoFull s src && traceMatches s typ opId then traceEvent 5 s1 else s1

/-- R480 to R483: a trace record of a group of TRACE_CTL SELECT. -/
def trace (group typ src opId layer arg0 arg1 : Nat) (s : State) : State :=
  if traceSelect s group then tracePut typ src opId layer arg0 arg1 s else s

/-- R482: a record written in every mode other than off, on one die. -/
def traceAlways (typ src arg0 arg1 : Nat) (s : State) : State := tracePut typ src 0 0 arg0 arg1 s

/-- R480: with NO_LOSS a tile issues no bundle while its FIFO has no room. -/
def traceHeld (s : State) (src : Nat) : Bool :=
  noLoss s && capturing s && decide (16 ≤ (tget s.obs.fifos src []).length)

/-- Adds to the record of what left the module. -/
def emit (o : Output) (s : State) : State := { s with out := o :: s.out }

/-- R437, R20: an event that left a value undefined: the number that names it, and the state past it. Number 0 names
the values that no event of a run makes. -/
def freeNext (s : State) : Nat × State := (s.freeCtr + 1, { s with freeCtr := s.freeCtr + 1 })

end Sys2Proof.Machine
end

