-- ==== Sys2Proof/Machine/Log.lean ====
section
/-! DEFINITION. Logbook events, freezes and emergency messages: what every detected fault shares (R423, R478, R479,
R517 to R522). -/
namespace Sys2Proof.Machine

/-- CRC-32C (R517), one bit. -/
def crcBits : Nat → Nat → Nat
  | 0, c => c
  | n + 1, c => crcBits n (if c % 2 = 1 then Nat.xor (c / 2) 0x82F63B78 else c / 2)

/-- CRC-32C over bytes from a running value. -/
def crcBytes : List Byte → Nat → Nat
  | [], c => c
  | b :: r, c => crcBytes r (crcBits 8 (Nat.xor c b.toNat))

/-- CRC-32C of a byte string. -/
def crc32c (bs : List Byte) : Nat := Nat.xor (crcBytes bs 0xFFFFFFFF) 0xFFFFFFFF

/-- R517: the 256 bytes of a record; `crc` false leaves the CRC zero (R523). -/
def recBytes (r : LogRec) (crc : Bool) : List Byte :=
  let body := leBytes 4 r.seq ++ leBytes 4 r.opSec ++ leBytes 4 r.cycles ++ leBytes 8 r.time ++ leBytes 2 r.code
    ++ leBytes 2 r.source ++ leBytes 1 r.severity ++ leBytes 1 r.flags ++ leBytes 2 r.rep ++ leBytes 4 r.lost
    ++ leBytes 8 r.lastTime ++ leBytes 1 r.mstate ++ leBytes 1 r.writer ++ leBytes 2 r.layer ++ leBytes 2 r.opId
    ++ leBytes 2 0 ++ leBytes 4 r.tag ++ leBytes 8 r.arg1 ++ leBytes 4 r.arg0 ++ leBytes 1 r.snapKind ++ leBytes 3 0
    ++ padTo 184 r.snap
  body ++ leBytes 4 (if crc then crc32c body else 0)

/-- R519: event codes. -/
def evINPUT_STOP : Nat := 0x8101
def evINPUT_OUT_OF_RANGE : Nat := 0x8102
def evCAP_UNREACHABLE : Nat := 0x8103
def evSAFE_CAP_ACTIVE : Nat := 0x8104
def evRM_SILENT : Nat := 0x8105
def evBRAKE : Nat := 0x8106
def evJUNCTION_WARN : Nat := 0x8107
def evTHERMAL_TRIP : Nat := 0x8108
def evESTIMATOR_IMPLAUSIBLE : Nat := 0x8109
def evDROOP_IN_SERVICE : Nat := 0x810A
def evCOOLANT_DERATE : Nat := 0x810B
def evRAIL_FAULT : Nat := 0x8201
def evRAIL_LATCHED_OFF : Nat := 0x8202
def evPHASE_RETIRED : Nat := 0x8203
def evBUSCONV_OFF : Nat := 0x8204
def evTROWEL_TAKEOVER : Nat := 0x8205
def evTROWEL_ENGINE_FAILED : Nat := 0x8206
def evREG_SYNC_LOST : Nat := 0x8207
def evSENSE_DISAGREE : Nat := 0x8208
def evSTAGE_WARN : Nat := 0x8209
def evGAIN_BANK_SWAPPED : Nat := 0x820A
def evLINE_RETIRED : Nat := 0x8301
def evSTACKED_SPARES_EXHAUSTED : Nat := 0x8302
def evLPDDR_TRAIN_FAILED : Nat := 0x8303
def evLPDDR_HOT : Nat := 0x8304
def evPPR_APPLIED : Nat := 0x8305
def evPORT_HELD : Nat := 0x8401
def evLINK_AUTH_FAILED : Nat := 0x8402
def evLASER_FEED_LOW : Nat := 0x8403
def evLASER_OK_TIMEOUT : Nat := 0x8404
def evFEED_OPEN : Nat := 0x8405
def evLL_FEC_REFUSED : Nat := 0x8406
def evPACKET_INVALID_RECEIVED : Nat := 0x8407
def evAGE_SATURATED : Nat := 0x8408
def evCOLD_START : Nat := 0x8501
def evSTART_DONE : Nat := 0x8502
def evSTART_FAILED : Nat := 0x8503
def evSTOP : Nat := 0x8504
def evMGMT_TAKEOVER : Nat := 0x8505
def evMGMT_CORE_FAILED : Nat := 0x8506
def evREGION_RESET : Nat := 0x8507
def evPROFILE_FIELD_DEFAULTED : Nat := 0x8508
def evPROFILE_COPY_LOST : Nat := 0x8509
def evTIME_UNLOCKED : Nat := 0x850A
def evTIME_ALIGNED : Nat := 0x850B
def evBOOT_FALLBACK : Nat := 0x8601
def evPRIMER_RESULT : Nat := 0x8602
def evFW_STAGED : Nat := 0x8603
def evCERT_SET : Nat := 0x8604
def evHANG : Nat := 0x8701
def evUNCORRECTABLE_BY_SCRUB : Nat := 0x8702

/-- R514, R518: the severity of an event: 4 stops the module, 3 a detected fault, 2 a masked fault; for the events
that R514 does not name, log entry 5. -/
def severityOf (code : Nat) : Nat :=
  if code = evINPUT_STOP ∨ code = evTHERMAL_TRIP ∨ code = evRAIL_FAULT ∨ code = evRAIL_LATCHED_OFF
      ∨ code = evSTART_FAILED ∨ code = evLPDDR_TRAIN_FAILED then 4
  else if code / 256 = 3 ∨ code = evLINK_AUTH_FAILED ∨ code = evFEED_OPEN ∨ code = evPACKET_INVALID_RECEIVED
      ∨ code = evHANG ∨ code = evUNCORRECTABLE_BY_SCRUB then 3
  else if code = evRM_SILENT ∨ code = evPHASE_RETIRED ∨ code = evBUSCONV_OFF ∨ code = evTROWEL_TAKEOVER
      ∨ code = evTROWEL_ENGINE_FAILED ∨ code = evREG_SYNC_LOST ∨ code = evLASER_FEED_LOW ∨ code = evMGMT_TAKEOVER
      ∨ code = evMGMT_CORE_FAILED ∨ code = evTIME_UNLOCKED then 2
  else if code = evCOLD_START ∨ code = evSTART_DONE ∨ code = evSTOP ∨ code = evREGION_RESET ∨ code = evTIME_ALIGNED
      ∨ code = evPRIMER_RESULT ∨ code = evFW_STAGED ∨ code = evCERT_SET ∨ code = evGAIN_BANK_SWAPPED
      ∨ code = evPPR_APPLIED then 0
  else 1

/-- R520: the kind of an event's snapshot. -/
def snapKindOf (code : Nat) : Nat :=
  if code = evTHERMAL_TRIP ∨ code = evJUNCTION_WARN ∨ code = evSTAGE_WARN then 5
  else if code / 256 = 0x81 then 1
  else if code / 256 = 0x82 then 2
  else if code / 256 = 0x83 ∨ (0x0340 ≤ code ∧ code ≤ 0x0343) then 3
  else if code / 256 = 0x84 ∨ code = 0x0170 ∨ (0x0350 ≤ code ∧ code ≤ 0x0352) then 4
  else if code / 256 = 0x85 then 6
  else 0

/-- R406, R520: a value as any path reads it, in its object's size. -/
def snapVal (s : State) (k : Nat) : List Byte :=
  let n := match odRow k with | some r => odSize r.ty | none => 0
  leBytes n (readAs s k (odLive s 0 k))

/-- The values of a list of objects, packed. -/
def snapVals (s : State) : List Nat → List Byte
  | [] => []
  | k :: r => snapVal s k ++ snapVals s r

/-- `n` consecutive keys from `k`. -/
def keyRun (k n : Nat) : List Nat := (List.range n).map (k + ·)

/-- R358: the first phase of a rail. -/
def railFirst (n : Nat) : Nat := lsum ((List.range n).map railPhases)

/-- R518, R520: the rail that a SOURCE names, directly or through one of its phases. -/
def srcRail (src : Nat) : Option Nat :=
  if 0x1000 ≤ src ∧ src < 0x100B then some (src - 0x1000)
  else if 0x1100 ≤ src ∧ src < 0x1100 + 108 then
    (List.range 11).find? fun n => decide (railFirst n ≤ src - 0x1100 ∧ src - 0x1100 < railFirst n + railPhases n)
  else none

/-- R518, R520: the port that a SOURCE names, directly or as the first port of its engine. -/
def srcPort (src : Nat) : Option Nat :=
  if 0x2000 ≤ src ∧ src < 0x2010 then some (src - 0x2000)
  else if 0x2100 ≤ src ∧ src < 0x2108 then some (2 * (src - 0x2100))
  else none

/-- R520: the snapshot of an event. -/
def snapshot (s : State) (code src : Nat) : List Byte :=
  match snapKindOf code with
  | 1 => snapVals s [oP_IN, oP_EST, oV_IN, oI_IN, oCAP_TARGET_W, oCAP_ENFORCED_W, oCAP_STATUS, oLIMIT_SOURCE, oDUTY,
      oDUTY + 1, oT_MAX, oT_INLET, oT_OUTLET, oFLOW_LPM]
  | 2 =>
    match srcRail src with
    | some n =>
      let b := 256 * n
      leBytes 1 n ++ snapVals s [oRAIL_STATE + b, oPHASES_ACTIVE + b, oPHASES_HEALTHY + b, oREGION + b, oTROWEL_OWNER,
        oV_OUT + b, oI_OUT + b, oRAIL_FLAGS + b, oV_BUS]
      ++ snapVals s (keyRun (oPHASE_I + railFirst n) (railPhases n))
      ++ snapVals s (keyRun (oPHASE_T + railFirst n) (railPhases n))
    | none => leBytes 1 0xFF ++ zeros 4 ++ snapVal s oTROWEL_OWNER ++ zeros 10 ++ snapVal s oV_BUS
  | 3 =>
    let lvl := if code = 0x0340 then 1 else if code = 0x0341 then 2 else if code = 0x0342 then 3
      else if code = 0x0343 then 4 else if code = evLPDDR_TRAIN_FAILED ∨ code = evLPDDR_HOT ∨ code = evPPR_APPLIED
      then 3 else 2
    snapVals s [oLAST_UE_LEVEL, oLAST_UE_ADDR, oLAST_UE_SCRUB, oECC_CORRECTED + (lvl - 1), oSPARES_USED,
      oSPARES_USED + 1, oPPR_PENDING]
  | 4 =>
    match srcPort src with
    | some p =>
      let b := 256 * p
      leBytes 1 p ++ snapVals s [oPORT_STATE + b, oLANES_ACTIVE + b, oHOLD_REASON + b, oCONN_HEALTH + b,
        oFEC_ACTIVE + b, oNEIGHBOUR_NODE + b]
      ++ snapVals s (keyRun (oRX_POWER + b) 8) ++ snapVals s (keyRun (oREFLECTANCE + b) 8)
      ++ snapVals s (keyRun (oLINK_LOSS + b) 8) ++ snapVals s [oFEC_CORRECTED + b, oFLITS_RESENT + b,
        oTAG_FAILURES + b]
    | none => leBytes 1 0xFF
  | 5 =>
    snapVals s (keyRun oT_SENSOR 40) ++ snapVals s [oTHERM_TRIP_SENSOR, oT_INLET, oT_OUTLET]
      ++ snapVals s ((List.range 11).map fun n => oT_STAGE_MAX + 256 * n)
  | 6 => snapVals s [oMODULE_STATE, oSTART_STEP, oSTART_FAIL_CODE, oMGMT_OWNER, oMGMT_STATE_A, oMGMT_STATE_B,
      oTROWEL_STATE_A, oTROWEL_STATE_B, oREG_SYNC_STATE, oPWM_FREQ_HZ, oBUSCONV_STATE, oTIME_FLAGS]
  | _ => []

/-- The command an event concerns (R517): LAYER_ID, OP_ID and TAG, zero for none. -/
structure EvCmd where
  layer : Nat
  opId  : Nat
  tag   : Nat
  deriving DecidableEq, Repr

/-- R517: no command. -/
def noCmd : EvCmd := ⟨0, 0, 0⟩

/-- R517, R520: the record that an event opens. -/
def newRec (s : State) (code src arg0 arg1 : Nat) (c : EvCmd) : LogRec where
  seq := s.log.nextSeq
  opSec := opSeconds s
  cycles := odv s oPOWER_CYCLES
  time := s.now
  code := code
  source := src
  severity := severityOf code
  flags := odv s oTIME_FLAGS % 16 + (if coarse s then 16 else 0) + 32
  rep := 0
  lost := s.log.lost
  lastTime := s.now
  mstate := odv s oMODULE_STATE
  writer := odv s oMGMT_OWNER
  layer := c.layer
  opId := c.opId
  tag := c.tag
  arg1 := arg1
  arg0 := arg0
  snapKind := snapKindOf code
  snap := snapshot s code src

/-- The record with FLAGS bit 5 (OPEN) cleared. -/
def closeRec (r : LogRec) : LogRec := { r with flags := setBits r.flags 5 1 0 }

/-- The newest entry of the queue changed by `f`. -/
def modLast (f : LogRec → LogRec) : List LogRec → List LogRec
  | [] => []
  | [r] => [f r]
  | r :: x :: q => r :: modLast f (x :: q)

/-- The newest entry of the pending queue. -/
def newest (q : List LogRec) : Option LogRec := q.getLast?

/-- R521: an event merges into the open entry, opens a new one, or is lost. Without an owner no record is written
(R512). -/
def logEvent (code src arg0 arg1 : Nat) (c : EvCmd) (s : State) : State :=
  if s.mod.owner = none then s
  else
    let same := match newest s.log.queue with
      | some r => s.log.isOpen && r.code == code && r.source == src
      | none => false
    let s1 :=
      if same then
        { s with log := { s.log with
            queue := modLast (fun r => { r with rep := min 65535 (r.rep + 1), lastTime := s.now }) s.log.queue } }
      else if 32 ≤ s.log.queue.length then
        odAdd { s with log := { s.log with lost := s.log.lost + 1 } } oLOG_LOST_TOTAL 1
      else
        { s with log := { s.log with
            queue := modLast closeRec s.log.queue ++ [newRec s code src arg0 arg1 c]
            isOpen := true
            openedAt := s.now
            lost := 0
            nextSeq := (s.log.nextSeq + 1) % 2 ^ 32 } }
    if 2 ≤ severityOf code then freezeSource 4 (traceEvent 6 s1) else s1

/-- An event with no arguments and no command. -/
def logSimple (code src : Nat) (s : State) : State := logEvent code src 0 0 noCmd s

/-- R522: at an input stop, a fault stop or a thermal trip the open entry closes at once. -/
def closeOpen (s : State) : State :=
  { s with log := { s.log with queue := modLast closeRec s.log.queue, isOpen := false } }

/-- R410: the CANopen node ID. -/
def nodeId (s : State) : Nat := 1 + odv s oSLOT_ID

/-- R423: ERROR_REGISTER for the conditions in force and one transient bit. -/
def errorReg (conds : List (Nat × Nat)) (extra : Option Nat) : Nat :=
  let bits := conds.map (·.1) ++ (match extra with | some b => [b] | none => [])
  let v := bits.foldl (fun a b => Nat.lor a (2 ^ b)) 0
  if v = 0 then 0 else Nat.lor v 1

/-- R409: a frame sent on a bus that answers takes one off its controller's transmit errors. -/
def busSent (bus : Nat) (s : State) : State :=
  let e := canErr s bus
  if e.tx = 0 ∨ busOff s bus ∨ odv s (oCAN_BUS_STATE + bus) = 3 then s
  else { s with can := { s.can with errs := tput s.can.errs bus { e with tx := e.tx - 1 } } }

/-- R411: a frame on both buses, which only an owning core sends (R509, R512). -/
def canSend (cob : Nat) (bs : List Byte) (s : State) : State :=
  if s.mod.owner = none then s else emit (.can cob bs) (busSent 1 (busSent 0 s))

/-- R423: the bytes of an emergency message. -/
def emcyBytes (s : State) (code reg event : Nat) : List Byte :=
  leBytes 2 code ++ leBytes 1 reg ++ leBytes 2 event ++ leBytes 8 s.now

/-- R423: sends an emergency message, queues it for the inhibit time, or counts it as lost. In STOPPED no EMCY is sent
(R413). -/
def emcyMsg (code reg event : Nat) (s : State) : State :=
  let m := emcyBytes s code reg event
  if odv s oNMT_STATE = 4 then s
  else if s.now < s.can.inhibitTo ∨ s.can.emcyQ ≠ [] then
    if 16 ≤ s.can.emcyQ.length then odAdd32 s oEMCY_LOST 1
    else { s with can := { s.can with emcyQ := s.can.emcyQ ++ [m] } }
  else
    canSend (0x80 + nodeId s) m
      { s with can := { s.can with inhibitTo := s.now + odv s oINHIBIT_EMCY * 100000 } }

/-- R423: an event that leaves no condition in force: one message with its bit. -/
def emcyEvent (code bit event : Nat) (s : State) : State :=
  emcyMsg code (errorReg s.can.conds (some bit)) event s

/-- R423: a condition comes into force. -/
def emcyRaise (code bit event : Nat) (s : State) : State :=
  if (bit, event) ∈ s.can.conds then s
  else
    let s1 := { s with can := { s.can with conds := (bit, event) :: s.can.conds } }
    let s2 := odSet s1 oERROR_REGISTER (errorReg s1.can.conds none)
    emcyMsg code (odv s2 oERROR_REGISTER) event s2

/-- R423: a condition clears: the message with error code 0. -/
def emcyClear (bit event : Nat) (s : State) : State :=
  if (bit, event) ∈ s.can.conds then
    let s1 := { s with can := { s.can with conds := s.can.conds.filter (· ≠ (bit, event)) } }
    let s2 := odSet s1 oERROR_REGISTER (errorReg s1.can.conds none)
    emcyMsg 0 (odv s2 oERROR_REGISTER) event s2
  else s

end Sys2Proof.Machine
end

