-- ==== Sys2Proof/Machine/Ops.lean ====
section
/-! DEFINITION. The named operations over memory: bytes, the address map, error codes, injection and byte counters
(chapter 05), shared by every command that touches memory. -/
namespace Sys2Proof.Machine

/-! ### Bytes -/

/-- The event that made an address undefined, if one covers it. -/
def undefOf : List (Nat × Nat × Nat) → Nat → Option Nat
  | [], _ => none
  | (lo, len, seed) :: r, a => if lo ≤ a ∧ a < lo + len then some seed else undefOf r a

/-- The byte at an address: listed, or the manual's open value, or zero. -/
def memByte (m : Memory) (a : Nat) : Byte :=
  match tfind m.cells a with
  | some b => b
  | none => match undefOf m.undef a with
    | some seed => Config.freeByte seed a
    | none => 0

/-- Writes one byte, in canonical form. -/
def memSet (m : Memory) (a : Nat) (b : Byte) : Memory :=
  if b = 0 ∧ undefOf m.undef a = none then { m with cells := tdel m.cells a }
  else { m with cells := tput m.cells a b }

/-- The `n` bytes from address `a`. -/
def memRead (m : Memory) (a : Nat) : Nat → List Byte
  | 0 => []
  | n + 1 => memByte m a :: memRead m (a + 1) n

/-- Writes bytes from address `a`. -/
def memWrite (m : Memory) (a : Nat) : List Byte → Memory
  | [] => m
  | b :: r => memWrite (memSet m a b) (a + 1) r

/-- The list of undefined ranges without the addresses `[a, a + n)`. -/
def undefCut (a n : Nat) : List (Nat × Nat × Nat) → List (Nat × Nat × Nat)
  | [] => []
  | (lo, len, seed) :: r =>
    if a + n ≤ lo ∨ lo + len ≤ a then (lo, len, seed) :: undefCut a n r
    else
      (if lo < a then [(lo, a - lo, seed)] else [])
        ++ (if a + n < lo + len then [(a + n, lo + len - (a + n), seed)] else []) ++ undefCut a n r

/-- The cells outside `[a, a + n)`. -/
def cellsCut (a n : Nat) (cs : List Host.Cell) : List Host.Cell :=
  cs.filter fun c => decide (c.1 < a ∨ a + n ≤ c.1)

/-- Writes zeros over `[a, a + n)`. -/
def memZero (m : Memory) (a n : Nat) : Memory := ⟨cellsCut a n m.cells, undefCut a n m.undef⟩

/-- Makes the contents of `[a, a + n)` undefined. -/
def memUndef (m : Memory) (a n seed : Nat) : Memory :=
  ⟨cellsCut a n m.cells, (a, n, seed) :: undefCut a n m.undef⟩

/-- Canonical form: rising addresses, and no cell that an unlisted address would read as. -/
def cellsRise : List Host.Cell → Bool
  | [] => true
  | [_] => true
  | a :: b :: r => decide (a.1 < b.1) && cellsRise (b :: r)

def Memory.wf (m : Memory) : Bool :=
  cellsRise m.cells && m.cells.all fun c => c.2 != 0 || (undefOf m.undef c.1).isSome

/-! ### The module address map -/

/-- R167: bounds of the address map's areas; the two stacked regions and the two LPDDR5X regions are contiguous. -/
def mapAreas : List (Nat × Nat) :=
  [(0x00000000000, 0x00024000000), (0x00040000000, 0x00064000000), (0x00100000000, 0x00300000000),
   (0x10000000000, 0x22000000000)]

/-- R168: the region lies in the map; a region of zero bytes is not judged. -/
def inMap (a n : Nat) : Bool :=
  n == 0 || mapAreas.any fun r => decide (r.1 ≤ a ∧ a + n ≤ r.2)

/-- The level of an address: 1 tile SRAM, 2 stacked SRAM, 3 LPDDR5X, 0 a hole. -/
def addrLevel (a : Nat) : Nat :=
  if a < 0x24000000 ∨ (0x40000000 ≤ a ∧ a < 0x64000000) then 1
  else if 0x100000000 ≤ a ∧ a < 0x300000000 then 2
  else if 0x10000000000 ≤ a ∧ a < 0x22000000000 then 3
  else 0

/-- R169: the window of a tile. -/
def tileBase (t : Nat) : Nat := dieOf t * 0x40000000 + (t % 144) * 0x400000

/-- R169: the tile whose window holds an address of level 1. -/
def tileOfAddr (a : Nat) : Nat :=
  if a < 0x40000000 then a / 0x400000 else 144 + (a - 0x40000000) / 0x400000

/-- The die that holds an address. -/
def addrDie (a : Nat) : Nat :=
  if addrLevel a = 1 then (if a < 0x40000000 then 0 else 1)
  else if addrLevel a = 2 then (if a < 0x200000000 then 0 else 1)
  else if a < 0x19000000000 then 0 else 1

/-- R169: the tiles whose windows a region touches. -/
def windowTiles (a n : Nat) : List Nat :=
  if n = 0 ∨ addrLevel a ≠ 1 then []
  else (List.range (tileOfAddr (a + n - 1) + 1 - tileOfAddr a)).map (tileOfAddr a + ·)

/-- R169: an access to the window of a tile in off. -/
def windowOff (s : State) (a n : Nat) : Bool := (windowTiles a n).any fun t => (tileSt s t).mode == .off

/-- R170: bank of a stacked address: (tile, bank 0 to 15), and its line. -/
def stackedBank (a : Nat) : Nat × Nat × Nat :=
  let x := a % 0x100000000
  let g := x >>> 5
  let j := g % 16
  let u := g >>> 4
  let v := Nat.xor u ((u >>> 8) % 256)
  (v % 144, j, v / 144)

/-- R170: a number for the bank of a stacked address, and one for its line. -/
def bankKey (a : Nat) : Nat := addrDie a * 2304 + (stackedBank a).1 * 16 + (stackedBank a).2.1
def lineKey (a : Nat) : Nat := a / 32

/-- R172: package and channel of an LPDDR5X address, and its 64-byte line in the channel. -/
def lpChannel (a : Nat) : Nat × Nat × Nat :=
  let d := addrDie a
  let x := a - (if d = 0 then 0x10000000000 else 0x19000000000)
  let c := x >>> 11
  let n := Nat.xor (Nat.xor (c % 32) ((c >>> 5) % 32)) ((c >>> 10) % 32)
  (d * 8 + n / 4, n % 4, ((c >>> 5) * 2048 + x % 2048) / 64)

/-- The bytes of a protected unit: a 32-bit word of SRAM or a 64-byte line of LPDDR5X (R185, R186). -/
def eccUnit (level : Nat) : Nat := if level = 3 then 64 else 4

/-- The first address of the protected unit that holds `a`. -/
def eccBase (a : Nat) : Nat := a / eccUnit (addrLevel a) * eccUnit (addrLevel a)

/-! ### Errors (R187 to R193) -/

/-- Whether a mark's unit meets `[a, a + n)`. -/
def markIn (m : EccMark) (a n : Nat) : Bool := decide (n ≠ 0 ∧ m.addr < a + n ∧ a < m.addr + eccUnit m.level)

/-- R189: a mark's unit lies wholly in `[a, a + n)`, so that a write there stores it afresh; an error of a path is in no
unit. -/
def markCovered (m : EccMark) (a n : Nat) : Bool :=
  decide (m.level ≤ 3 ∧ a ≤ m.addr ∧ m.addr + eccUnit m.level ≤ a + n)

/-- R185: addresses beyond the map for the words of a tile's program store, by byte offset, and of its queue storage, by
input queue. -/
def storeCell (t off : Nat) : Nat := 2 ^ 42 + t * 2 ^ 20 + off
def queueCell (t q : Nat) : Nat := 2 ^ 42 + t * 2 ^ 20 + 2 ^ 19 + 4 * q

/-- The uncorrectable errors that an access meets: the first, with its level and address, and the others. -/
structure UeMet where
  level : Nat
  addr  : Nat
  rest  : List EccMark
  deriving DecidableEq, Repr

/-- The errors of a list, if there is one. -/
def ueMet : List EccMark → Option UeMet
  | [] => none
  | m :: r => some ⟨m.level, m.addr, r⟩

/-- R188: the uncorrectable errors that a read of the region meets. -/
def ueRead (s : State) (a n : Nat) : Option UeMet := ueMet (s.ecc.marks.filter fun m => !m.correct && markIn m a n)

/-- R189: the uncorrectable errors that a write of the region meets, in units it covers only in part. -/
def ueWrite (s : State) (a n : Nat) : Option UeMet :=
  ueMet (s.ecc.marks.filter fun m => !m.correct && markIn m a n && !markCovered m a n)

/-- R188: the code of an uncorrectable error at a level. -/
def ueCode (level : Nat) : Nat := 0x033F + level

/-- R188: what the module records of one uncorrectable error: counts it, updates 0x2520 and writes the record. An error on
a data path is gone once it has been met. -/
def ueRecord1 (level a : Nat) (c : EvCmd) (s : State) : State :=
  let s0 := { s with ecc := { s.ecc with marks := s.ecc.marks.filter fun m => m.level != 4 || m.addr != a } }
  let s1 := odAdd s0 (oECC_CORRECTED + 3 + level) 1
  let s2 := odSet (odSet (odSet (odSet s1 oLAST_UE_LEVEL level) oLAST_UE_ADDR a) oLAST_UE_TIME s.now) oLAST_UE_SCRUB 0
  emcyEvent 0x5000 7 (ueCode level) (logEvent (ueCode level) srcModule level a c s2)

/-- R188: one record for each error met. -/
def ueRecord (m : UeMet) (c : EvCmd) (s : State) : State :=
  m.rest.foldl (fun s e => ueRecord1 e.level e.addr c s) (ueRecord1 m.level m.addr c s)

/-- R190: the spares that a bank has used: they go in order, and a spare that is retired in its turn stays used. -/
def bankSpares (s : State) (b : Nat) : Nat :=
  lmax ((s.ecc.retired.filter fun e => bankKey (e.1 * 32) == b).map fun e => e.2 + 1)

/-- R190: retires the line that a stacked address reads, the bank's own or a spare, or records once that its bank has no
spare left. -/
def retireLine (a : Nat) (s : State) : State :=
  let b := bankKey a
  let d := addrDie a
  if bankSpares s b < 64 then
    let s1 := { s with ecc := { s.ecc with retired := tput s.ecc.retired (lineKey a) (bankSpares s b) } }
    logEvent evLINE_RETIRED (0x5100 + d) 0 (lineKey a * 32) noCmd (odAdd32 s1 (oSPARES_USED + d) 1)
  else if b ∈ s.ecc.exhausted then s
  else logEvent evSTACKED_SPARES_EXHAUSTED (0x5100 + d) b 0 noCmd
    { s with ecc := { s.ecc with exhausted := b :: s.ecc.exhausted } }

/-- R191: the repair unit of an LPDDR5X address: its 2 KiB chunk, log entry 6. -/
def pprRow (a : Nat) : Nat := a / 2048

/-- R191: schedules post-package repair of an LPDDR5X row. -/
def scheduleRepair (a : Nat) (s : State) : State :=
  if pprRow a ∈ s.ecc.pprRows then s
  else odSet { s with ecc := { s.ecc with pprRows := pprRow a :: s.ecc.pprRows } } oPPR_PENDING
    ((s.ecc.pprRows.length + 1) % 2 ^ 16)

/-- R190, R191: retirement or repair of the line at a stacked or LPDDR5X address. -/
def retireAt (level a : Nat) (s : State) : State :=
  if level ≠ addrLevel a then s
  else if level = 2 then retireLine a s else if level = 3 then scheduleRepair a s else s

/-- The bank line whose corrections R190 counts, and the row whose corrections R191 counts. -/
def corrKey (level a : Nat) : Nat := if level = 3 then pprRow a else a / 32

/-- R173, R187: where a correction is counted. -/
def corrObj (m : EccMark) : Nat :=
  if m.level = 5 then oLINK_ECC_CORRECTED + (lpChannel m.addr).1 else oECC_CORRECTED + m.level - 1

/-- R173, R187, R190, R191: one correction: the word or line is written back, counted, and retired at the fourth within
3,600 s; the count then begins anew. -/
def correct1 (m : EccMark) (s : State) : State :=
  let s1 := odAdd { s with ecc := { s.ecc with marks := s.ecc.marks.filter (· ≠ m) } } (corrObj m) 1
  let k := corrKey m.level m.addr
  let ts := s.now :: (tget s.ecc.corrLine k []).filter fun t => decide (s.now < t + 3600000000000)
  let s2 := { s1 with ecc := { s1.ecc with corrLine := tput s1.ecc.corrLine k (if 4 ≤ ts.length then [] else ts) } }
  if 3 < m.level then s1 else if 4 ≤ ts.length then retireAt m.level m.addr s2 else s2

/-- R187: every correction that a read of the region makes. -/
def correctIn (a n : Nat) (s : State) : State :=
  (s.ecc.marks.filter fun m => m.correct && markIn m a n).foldl (fun s m => correct1 m s) s

/-- R184, R187: every correction that a write of the region makes, in units that it covers only in part and reads first. -/
def correctPart (a n : Nat) (s : State) : State :=
  (s.ecc.marks.filter fun m => m.correct && markIn m a n && !markCovered m a n).foldl (fun s m => correct1 m s) s

/-- R189, R190: errors that a write clears: units it covers whole; the first such write after an uncorrectable error
retires the line. -/
def clearCovered (a n : Nat) (s : State) : State :=
  let cov := s.ecc.marks.filter fun m => markCovered m a n
  let s1 := { s with ecc := { s.ecc with marks := s.ecc.marks.filter fun m => !markCovered m a n } }
  (cov.filter fun m => !m.correct).foldl (fun s m => retireAt m.level m.addr s) s1

/-- R193: a write of the latched word or line stores the armed error, and the injection disarms. -/
def landInjection (a n : Nat) (s : State) : State :=
  match s.ecc.armed with
  | none => s
  | some (x, kind) =>
    let m : EccMark := ⟨eccBase x, addrLevel x, kind == 1 || kind == 3⟩
    if markIn m a n then
      { s with ecc := { s.ecc with armed := none, marks := m :: s.ecc.marks.filter fun y => y.addr != m.addr } }
    else s

/-- R193: an armed injection disarms without landing. -/
def disarm (s : State) : State := { s with ecc := { s.ecc with armed := none } }

/-- R193: an injection whose address lies in `[a, a + n)` disarms without landing. -/
def disarmIn (a n : Nat) (s : State) : State :=
  match s.ecc.armed with
  | some (x, _) => if a ≤ x ∧ x < a + n then disarm s else s
  | none => s

/-! ### Byte counters (R476) -/

/-- Who makes an access: a tile, or another unit on a die. -/
structure Acc where
  tile : Option Nat
  die  : Nat
  deriving DecidableEq, Repr

/-- Bytes of `[a, a + n)` inside `[lo, hi)`. -/
def overlap (a n lo hi : Nat) : Nat := min (a + n) hi - max a lo

/-- The LPDDR5X bytes of a region by package, chunk by chunk. -/
def lpCount (base : Nat) : Nat → Nat → Nat → State → State
  | 0, _, _, s => s
  | f + 1, a, n, s =>
    if n = 0 then s
    else
      let k := min n (2048 - a % 2048)
      lpCount base f (a + k) (n - k) (odAdd s (base + (lpChannel a).1) k)

/-- R476: counts the data bytes of one access at the level it touches, and those that cross the die bridge. -/
def countBytes (wr : Bool) (who : Acc) (a n : Nat) (s : State) : State :=
  if n = 0 then s
  else
    let d := addrDie a
    let s1 := if d = who.die then s else odAdd s (oBRIDGE_BYTES + (if wr then who.die else d)) n
    if addrLevel a = 2 then
      let n0 := overlap a n 0x100000000 0x200000000
      let k := if wr then oSTACKED_WR_BYTES else oSTACKED_RD_BYTES
      let s2 := if n0 = 0 then s1 else odAdd s1 k n0
      if n = n0 then s2 else odAdd s2 (k + 1) (n - n0)
    else if addrLevel a = 3 then
      lpCount (if wr then oLPDDR_WR_BYTES else oLPDDR_RD_BYTES) (n / 2048 + 2) a n s1
    else if addrLevel a = 1 then
      match who.tile with
      | some t => if (windowTiles a n).all (· == t) then s1 else odAdd s1 (oTILE_WINDOW_BYTES + d) n
      | none => odAdd s1 (oTILE_WINDOW_BYTES + d) n
    else s1

/-! ### Reads and writes of module memory -/

/-- R176: a request to a channel (package × 4 + channel) wakes it. -/
def wakeChannel (k : Nat) (s : State) : State :=
  { s with ecc := { s.ecc with channels := tput s.ecc.channels k 0, chanLast := tput s.ecc.chanLast k s.now } }

/-- R172, R176: a request to a region of LPDDR5X wakes the channel of each 2 KiB chunk that it touches. -/
def touchChannel (a n : Nat) (s : State) : State :=
  if n = 0 ∨ addrLevel a ≠ 3 then s
  else (List.range ((a + n - 1) / 2048 + 1 - a / 2048)).foldl (fun s i =>
    let c := lpChannel ((a / 2048 + i) * 2048)
    wakeChannel (c.1 * 4 + c.2.1) s) s

/-- What an access gives: the state after it, also where it met an uncorrectable error. -/
inductive MemRes (α : Type) where
  | ok (x : α) (s : State)
  | ue (m : UeMet) (s : State)

/-- A read of module memory: corrected data (R187), or an uncorrectable error (R188); it wakes its channels and corrects
what it can in either case. -/
def readMod (who : Acc) (a n : Nat) (s : State) : MemRes (List Byte) :=
  let s1 := touchChannel a n (correctIn a n s)
  match ueRead s a n with
  | some m => .ue m s1
  | none => .ok (memRead s.mem a n) (countBytes false who a n s1)

/-- The state with bytes written, fresh check bits and any armed injection landed. -/
def putBytes (a : Nat) (bs : List Byte) (s : State) : State :=
  let s1 := clearCovered a bs.length s
  landInjection a bs.length { s1 with mem := memWrite s1.mem a bs }

/-- A write of module memory: a partial write meets an uncorrectable error of the unit it must first read (R189). -/
def writeMod (who : Acc) (a : Nat) (bs : List Byte) (s : State) : MemRes Unit :=
  let s1 := touchChannel a bs.length (correctPart a bs.length s)
  match ueWrite s a bs.length with
  | some m => .ue m s1
  | none => .ok () (countBytes true who a bs.length (putBytes a bs s1))

/-- Makes a region undefined (R122, R134, R304), with a new event number. -/
def undefine (a n : Nat) (s : State) : State :=
  if n = 0 then s
  else
    let (k, s1) := freeNext s
    { s1 with mem := memUndef s1.mem a n k }

/-- The errors and open accumulation slots of a region are gone with what it held. -/
def dropCells (a n : Nat) (s : State) : State :=
  { s with ecc := { s.ecc with
      marks := s.ecc.marks.filter fun m => !decide (a ≤ m.addr ∧ m.addr < a + n)
      engines := s.ecc.engines.map fun e => (e.1, e.2.filter fun x => !decide (a ≤ x ∧ x < a + n)) } }

/-- R178, R462: zero-fills a region by writes of whole words and lines, which clear its errors and retire lines that had an
uncorrectable one (R189 to R191), without landing an injection (R193). -/
def zeroFill (a n : Nat) (s : State) : State :=
  dropCells a n { clearCovered a n s with mem := memZero s.mem a n }

/-- R178: the contents of every memory level are lost. -/
def loseMemory (s : State) : State :=
  let (k, s1) := freeNext s
  { s1 with mem := ⟨[], mapAreas.map fun r => (r.1, r.2 - r.1, k)⟩, ecc := { s1.ecc with marks := [], armed := none, engines := [] } }

end Sys2Proof.Machine
end

