-- ==== Sys2Proof/Machine/Filler.lean ====
section
/-! DEFINITION. Filler as a tile starts and ends it, and the cycle and event counters of tiles (R30, R311, R331, R335, R336,
R476, R477, R492). -/
namespace Sys2Proof.Machine

/-- The state with Float's part changed. -/
def modFlt (f : FloatSt → FloatSt) (s : State) : State := { s with flt := f s.flt }

/-- R331: the credit power of one grant on die `d`, nW: 5 A × V_d × `CREDIT_FACTOR`. -/
def creditPower (s : State) (d : Nat) : Nat := 500 * odv s (oDIE_VCORE + d) * odv s (oCREDIT_FACTOR + d)

/-- R335: the level whose input power is nearest to `p`; level L stands for L/15 of a credit's power. -/
def fillLevel (s : State) (d p : Nat) : Nat :=
  let c := creditPower s d
  if c = 0 then 0 else min 15 ((30 * p + c) / (2 * c))

/-- R336: the part of a tile's power above level 15, which Filler does not replace. -/
def unheldFall (s : State) (d p : Nat) : Nat := p - creditPower s d

/-- R335: a tile's attributed input power over its last 1 µs: as its last task's end brought it, or, for a task that was
stopped, a measurement that no operand brings and that is left open (log entry 100). -/
def lastPower (x : TileSt) (s : State) : Nat × State :=
  match x.pLast with
  | some p => (p, s)
  | none => let (k, s1) := freeNext s; (Config.freeWord k 0, s1)

/-- R335, R336: a tile starts Filler at the level of its last power. -/
def startFiller (t : Nat) (s : State) : State :=
  let x := tileSt s t
  let (p, s0) := lastPower x s
  let s1 := setTile s0 t { x with filler := some (fillLevel s (dieOf t) p), fillAt := s.now, pLast := some p }
  let f := unheldFall s (dieOf t) p
  if f = 0 then s1 else modFlt (fun q => { q with unheld := (s.now, f) :: q.unheld }) s1

/-- R476: the tile cycles since `from_`, as the tile counted them: no operand brings the count, which is left open up to
that of the highest clock, 2,100 MHz (log entry 133). -/
def cyclesSince (from_ : Nat) (s : State) : Nat × State :=
  let (k, s1) := freeNext s
  (Config.freeWord k 0 % ((s.now - from_) * 21 / 10 + 1), s1)

/-- R476: a tile ends its Filler, whose cycles are counted. -/
def endFiller (t : Nat) (s : State) : State :=
  let x := tileSt s t
  if x.filler.isNone then s
  else
    let (n, s1) := cyclesSince x.fillAt s
    setTile (odAdd s1 (oFILLER_CYCLES + dieOf t) n) t { x with filler := none }

/-- R477: the operator counters whose selected OP_ID a task has. -/
def opcCount (base opId n : Nat) (s : State) : State :=
  (List.range 16).foldl (fun s i =>
    if opId ≠ 0 ∧ odv s (oOPC_SELECT + i) = opId then odAdd s (base + i) n else s) s

/-- The key of a per-tile counter whose objects begin at `base`, one index per die. -/
def tileKey (base t : Nat) : Nat := base + 256 * dieOf t + t % 144

/-- R476, R477: `n` task cycles of a tile under an OP_ID. -/
def countTask (t opId n : Nat) (s : State) : State :=
  opcCount oOPC_TASK_CYCLES opId n (odAdd (odAdd s (oTASK_CYCLES + dieOf t) n) (tileKey oTILE_TASK_CYCLES t) n)

/-- R311: `e` added to the events counted. -/
def addEvent (e : EvCount) : List EvCount → List EvCount
  | [] => [e]
  | x :: r => if x.die = e.die ∧ x.cls = e.cls ∧ x.op = e.op then { x with n := x.n + e.n } :: r else x :: addEvent e r

/-- R311: `n` events of a class that tile `t` causes under an OP_ID. -/
def noteEvents (t : Nat) (c : EvClass) (op n : Nat) (s : State) : State :=
  if n = 0 then s
  else modFlt (fun f => { f with evs := addEvent ⟨Fin.ofNat 2 (dieOf t), c, Fin.ofNat 65536 op, n⟩ f.evs }) s

/-- R311: the OP_ID that a tile's events carry: of its task, or of the task that caused what is still to come of it. -/
def tileOpId (x : TileSt) : Nat := match x.run with | some r => r.opId | none => x.lastOp

end Sys2Proof.Machine
end

