-- ==== Sys2Proof/Machine/Tile.lean ====
section
/-! DEFINITION. What every tile operation shares: the program store, registers, the checks of a bundle, its issue, its
end and exceptions (R84 to R90, R96 to R98, R107, R121, R326, R487, R488). -/
namespace Sys2Proof.Machine

/-! ### The program store (R86) -/

/-- `n` bytes of a tile's program store. -/
def progNat (x : TileSt) (off n : Nat) : Nat := leNat (memRead x.store off n)

/-- R87: bundle `b`, as a number of 256 bits. -/
def bundleAt (x : TileSt) (b : Nat) : Nat := progNat x (32 * b) 32

/-- R87: slot `k` of a bundle: 0 MAT, 1 VEC, 2 VMOV, 3 MEM, 4 IRR, 5 CTL. -/
def slotBits (w k : Nat) : Nat := (w >>> (16 + 40 * k)) % 2 ^ 40

/-- R88: the bits of a slot in register form and in immediate form. -/
def regBits (op : Nat) (f : RegForm) : Nat :=
  op + f.dst.val * 2 ^ 8 + f.sa.val * 2 ^ 14 + f.sb.val * 2 ^ 20 + f.sc.val * 2 ^ 26 + f.md.val * 2 ^ 32
def immBits (op : Nat) (f : ImmForm) : Nat := op + f.dst.val * 2 ^ 8 + f.sa.val * 2 ^ 14 + f.imm.val * 2 ^ 20

/-- R97: descriptor `d`, as a number of 256 bits, and its fields. -/
def descAt (x : TileSt) (d : Nat) : Nat := progNat x (0x3C200 + 32 * d) 32
def dAddr (d : Nat) : Nat := d % 2 ^ 22
def dFmt (d : Nat) : Nat := bitsOf d 25 22
def dRows (d : Nat) : Nat := bitsOf d 47 32
def dCols (d : Nat) : Nat := bitsOf d 63 48
def dStride (d : Nat) : Nat := bitsOf d 85 64
def dScale (d : Nat) : Nat := bitsOf d 117 96
def dGidx (d : Nat) : Nat := bitsOf d 191 128
def dGidxRow (d : Nat) : Nat := bitsOf d 255 192

/-- R105: task descriptor `i`, and its fields. -/
def taskAt (x : TileSt) (i : Nat) : Nat := progNat x (0x3C000 + 16 * i) 16
def taskEntry (w : Nat) : Nat := w % 2 ^ 13
def taskValid (w : Nat) : Bool := bitAt w 13
def taskIns (w : Nat) : List (Nat × Nat) :=
  (List.range (min 4 (bitsOf w 18 16))).map fun k => let b := bitsOf w (39 + 8 * k) (32 + 8 * k); (b % 16, b / 16)
def taskOuts (w : Nat) : List (Nat × Nat) :=
  (List.range (min 4 (bitsOf w 21 19))).map fun k => let b := bitsOf w (71 + 8 * k) (64 + 8 * k); (b % 16, b / 16)
def taskOpId (w : Nat) : Nat := bitsOf w 111 96

/-- R101: output queue binding `q`, whether it is bound, and its destination words. -/
def oqWord (x : TileSt) (q : Nat) : Nat := progNat x (0x3CA40 + 16 * q) 16
def oqDests (w : Nat) : List Nat :=
  if w % 2 = 0 then [] else (List.range (bitsOf w 2 1 + 1)).map fun k => bitsOf w (31 + 16 * k) (16 + 16 * k)

/-- R101: a destination word: its die, row, column and input queue; row 15 names control core `column`. -/
def destDie (w : Nat) : Nat := bitsOf w 12 12
def destRow (w : Nat) : Nat := bitsOf w 11 8
def destCol (w : Nat) : Nat := bitsOf w 7 4
def destQ (w : Nat) : Nat := w % 16
def destCore (w : Nat) : Bool := destRow w == 15
def destTile (w : Nat) : Nat := destDie w * 144 + destRow w * 12 + destCol w

/-- R100: DEPTH of input queue `q`. -/
def iqDepth (x : TileSt) (q : Nat) : Nat := progNat x (0x3CB40 + 4 * q) 4 % 128

/-! ### The graph and run of a tile -/

/-- The graph that a tile holds. -/
def tileGraph (s : State) (t : Nat) : Option GraphSt := tfind s.graphs (tileSt s t).graph

/-- The run in progress of the graph that a tile holds. -/
def tileRunG (s : State) (t : Nat) : Option RunG := (tileGraph s t).bind (·.run)

/-- Changes the graph under a handle. -/
def modGraph (s : State) (h : Nat) (f : GraphSt → GraphSt) : State :=
  match tfind s.graphs h with
  | some g => { s with graphs := tput s.graphs h (f g) }
  | none => s

/-- Changes the run of the graph under a handle. -/
def modRunG (s : State) (h : Nat) (f : RunG → RunG) : State := modGraph s h fun g => { g with run := g.run.map f }

/-- R188: the command on whose behalf a tile reads. -/
def tileCmd (s : State) (t : Nat) : EvCmd :=
  match tileRunG s t with
  | some r => ⟨r.layer, r.opId, r.tag⟩
  | none => noCmd

/-- R80, R292: arithmetic flags join those of the run. -/
def addFlags (t f : Nat) (s : State) : State := modRunG s (tileSt s t).graph fun r => { r with flags := fOr r.flags f }

/-- R493: progress of a run. -/
def progress (h : Nat) (s : State) : State := modRunG s h fun r => { r with lastAt := s.now, hung := false }

/-- R122: a range of tile SRAM that a graph's tasks wrote. -/
def noteWrote (t a n : Nat) (s : State) : State :=
  if n = 0 then s
  else modGraph s (tileSt s t).graph fun g => if (a, n) ∈ g.wrote then g else { g with wrote := (a, n) :: g.wrote }

/-- LAYER_ID of the run of a tile's graph. -/
def tileLayer (s : State) (t : Nat) : Nat := ((tileRunG s t).map (·.layer)).getD 0

/-- R98, R292: arithmetic context `c` of a tile: ARITH_CTL and the seed. -/
def ctxCtl (x : TileSt) (c : Nat) : Nat := progNat x (0x3CA00 + 16 * c) 4
def ctxSeed (s : State) (t c : Nat) : Nat :=
  match (tileRunG s t).bind (·.seed) with
  | some v => v
  | none => progNat (tileSt s t) (0x3CA08 + 16 * c) 8
def ctxArith (s : State) (t c : Nat) : Arith := arithOf (ctxCtl (tileSt s t) c) (ctxSeed s t c)

/-! ### Registers (R84, R85): a register not yet written in this firing holds the manual's open value -/

/-- The event number of the firing in progress. -/
def seedOf (x : TileSt) : Nat := match x.run with | some r => r.seed | none => 0

def freeLane (seed r i : Nat) : Lane := BitVec.ofNat 32 (Config.freeWord seed (r * 64 + i))
def vreg (x : TileSt) (r : Nat) : List Lane :=
  (tfind x.vregs r).getD ((List.range 64).map (freeLane (seedOf x) r))
def sreg (x : TileSt) (r : Nat) : Nat := (tfind x.sregs r).getD (Config.freeWord (seedOf x) (5000 + r)) % 2 ^ 64
def mreg (x : TileSt) (r : Nat) : Nat :=
  if r = 0 then 2 ^ 64 - 1 else (tfind x.masks r).getD (Config.freeWord (seedOf x) (6000 + r)) % 2 ^ 64
def preg (x : TileSt) (r : Nat) : Bool :=
  if r = 0 then true else (tfind x.preds r).getD (Config.freeBool (seedOf x) r)
def lacc (x : TileSt) (r : Nat) : Ea :=
  (tfind x.laccs r).getD
    (let tag := Config.freeWord (seedOf x) (7000 + r) % 4
     ⟨if tag = 0 then Config.freeWord (seedOf x) (8000 + r) % 2 ^ 640 else 0, tag⟩)

/-- Lane `i` of a vector value. -/
def laneAt (v : List Lane) (i : Nat) : Lane := v.getD i 0

/-- The 64 lanes of a vector value. -/
def lanes64 (v : List Lane) : List Lane := (List.range 64).map (laneAt v)

/-- R92, R93: new lanes where the mask has a bit, old lanes elsewhere. -/
def mergeLanes (mask : Nat) (old new : List Lane) : List Lane :=
  (List.range 64).map fun i => if bitAt mask i then laneAt new i else laneAt old i

/-! ### The checks of a bundle (R87 to R89, R121) -/

/-- R84, R88: the register file that an operand field names: none, vector, scalar, mask, predicate, lane accumulator,
descriptor, accumulator bank. -/
inductive OpKind where
  | none | v | s | m | p | la | desc | bank
  deriving DecidableEq, Repr

/-- The number of values that a field of a kind may take. -/
def kindSize (k : OpKind) : Nat :=
  match k with
  | .none => 1 | .v => 64 | .s => 32 | .m => 8 | .p => 16 | .la => 64 | .desc => 64 | .bank => 4

/-- R88, R91 to R96: the fields that an operation uses; `use` is the set of legal bits of MOD or of IMM20. -/
structure SlotSpec where
  imm : Bool
  dst : OpKind
  sa  : OpKind
  sb  : OpKind
  sc  : OpKind
  use : Nat
  deriving DecidableEq, Repr

/-- R91: the MAT slot. -/
def matSpec (op : Nat) : Option SlotSpec :=
  match op with
  | 0x01 => some ⟨false, .bank, .desc, .desc, .none, 0x07⟩
  | 0x02 => some ⟨false, .desc, .bank, .none, .none, 0x03⟩
  | 0x03 => some ⟨false, .bank, .desc, .none, .none, 0x03⟩
  | 0x04 => some ⟨false, .bank, .none, .none, .none, 0x03⟩
  | _ => none

/-- R92: the VEC slot. -/
def vecSpec (op : Nat) : Option SlotSpec :=
  if op = 0x04 then some ⟨false, .v, .v, .v, .v, 0x07⟩
  else if (0x01 ≤ op ∧ op ≤ 0x06) ∨ op = 0x09 ∨ (0x10 ≤ op ∧ op ≤ 0x1A) then some ⟨false, .v, .v, .v, .none, 0x07⟩
  else if 0x07 ≤ op ∧ op ≤ 0x0F then some ⟨false, .v, .v, .none, .none, 0x07⟩
  else if 0x20 ≤ op ∧ op ≤ 0x23 then some ⟨false, .v, .v, .m, .none, 0x0F⟩
  else if 0x24 ≤ op ∧ op ≤ 0x27 then some ⟨false, .v, .v, .m, .s, 0x07⟩
  else if op = 0x30 then some ⟨false, .none, .v, .none, .none, 0x47⟩
  else if op = 0x31 then some ⟨false, .none, .none, .m, .none, 0x07⟩
  else if op = 0x32 then some ⟨false, .v, .none, .s, .none, 0x37⟩
  else if op = 0x33 then some ⟨false, .none, .none, .none, .none, 0x07⟩
  else none

/-- R93: the VMOV slot. MOD[2:0] names the lane mask of every row but the conversions, of MPOP and VEXT too, whose scalar
result has no lanes (log entry 8). -/
def vmovSpec (op : Nat) : Option SlotSpec :=
  if op = 0x01 then some ⟨false, .v, .v, .none, .none, 0x07⟩
  else if op = 0x02 then some ⟨false, .v, .s, .none, .none, 0x07⟩
  else if op = 0x03 then some ⟨false, .v, .none, .none, .none, 0x07⟩
  else if op = 0x04 then some ⟨false, .v, .v, .v, .none, 0x07⟩
  else if op = 0x05 then some ⟨false, .v, .v, .v, .m, 0x07⟩
  else if op = 0x06 then some ⟨false, .v, .v, .s, .none, 0x3F⟩
  else if op = 0x07 then some ⟨false, .v, .v, .v, .s, 0x3F⟩
  else if op = 0x08 then some ⟨false, .v, .v, .s, .none, 0xBF⟩
  else if 0x10 ≤ op ∧ op ≤ 0x14 then some ⟨false, .m, .v, .v, .none, 0x07⟩
  else if op = 0x18 ∨ op = 0x19 then some ⟨false, .m, .m, .m, .none, 0x07⟩
  else if op = 0x1A then some ⟨false, .m, .m, .none, .none, 0x07⟩
  else if op = 0x1B then some ⟨false, .s, .m, .none, .none, 0x07⟩
  else if op = 0x1C then some ⟨false, .s, .v, .s, .none, 0x07⟩
  else if op = 0x1D then some ⟨false, .v, .s, .s, .none, 0x07⟩
  else none

/-- R94: the MEM slot. -/
def memSpec (op : Nat) : Option SlotSpec :=
  match op with
  | 0x01 => some ⟨true, .v, .s, .none, .none, 0xFFFFF⟩
  | 0x02 => some ⟨true, .v, .s, .none, .none, 0xFFFFF⟩
  | 0x03 => some ⟨true, .s, .s, .none, .none, 0xFFFFF⟩
  | 0x04 => some ⟨true, .s, .s, .none, .none, 0xFFFFF⟩
  | 0x05 => some ⟨true, .la, .s, .none, .none, 0xFFFFF⟩
  | 0x06 => some ⟨true, .la, .s, .none, .none, 0xFFFFF⟩
  | 0x10 => some ⟨true, .desc, .s, .none, .none, 0⟩
  | 0x11 => some ⟨true, .desc, .s, .none, .none, 0⟩
  | _ => none

/-- R95, R128: the IRR slot; MOD is judged with the operation (R131). -/
def irrSpec (op : Nat) : Option SlotSpec :=
  if op = 0x01 ∨ op = 0x02 ∨ op = 0x03 ∨ (0x10 ≤ op ∧ op ≤ 0x13) ∨ op = 0x20 ∨ op = 0x21 ∨ op = 0x30 ∨ op = 0x31
  then some ⟨false, .none, .s, .none, .none, 0xFF⟩ else none

/-- R96: the CTL slot. -/
def ctlSpec (op : Nat) : Option SlotSpec :=
  match op with
  | 0x01 => some ⟨true, .s, .none, .none, .none, 0xFFFFF⟩
  | 0x02 => some ⟨true, .s, .s, .none, .none, 0xFFFFF⟩
  | 0x0B => some ⟨false, .p, .s, .s, .none, 0⟩
  | 0x0C => some ⟨false, .p, .s, .s, .none, 0⟩
  | 0x10 => some ⟨true, .none, .none, .none, .none, 0xFFFFF⟩
  | 0x11 => some ⟨true, .none, .s, .none, .none, 0xFFFFF⟩
  | 0x12 => some ⟨true, .s, .none, .none, .none, 0xFFFFF⟩
  | 0x13 => some ⟨true, .s, .none, .none, .none, 0xFFFFF⟩
  | 0x14 => some ⟨true, .none, .s, .none, .none, 0x000FF⟩
  | 0x16 => some ⟨true, .none, .none, .none, .none, 0x0000F⟩
  | 0x17 => some ⟨true, .none, .s, .none, .none, 0x0003F⟩
  | 0x18 => some ⟨true, .s, .none, .none, .none, 0⟩
  | 0x19 => some ⟨true, .none, .none, .none, .none, 0x0001F⟩
  | _ => if 0x03 ≤ op ∧ op ≤ 0x0A then some ⟨false, .s, .s, .s, .none, 0⟩ else none

/-- The operations of slot `k`. -/
def slotSpec (k op : Nat) : Option SlotSpec :=
  match k with
  | 0 => matSpec op | 1 => vecSpec op | 2 => vmovSpec op | 3 => memSpec op | 4 => irrSpec op | _ => ctlSpec op

/-- R88: the fields of a slot. -/
def slotOp (w : Nat) : Nat := w % 256
def slotDst (w : Nat) : Nat := bitsOf w 13 8
def slotSa (w : Nat) : Nat := bitsOf w 19 14
def slotSb (w : Nat) : Nat := bitsOf w 25 20
def slotSc (w : Nat) : Nat := bitsOf w 31 26
def slotMd (w : Nat) : Nat := bitsOf w 39 32
def slotImm (w : Nat) : Nat := bitsOf w 39 20

/-- R88: every field within its kind, and unused fields zero. A number beyond its register file breaks the rule as a
nonzero unused field does (log entry 105). -/
def fieldsOk (sp : SlotSpec) (w : Nat) : Bool :=
  decide (slotDst w < kindSize sp.dst) && decide (slotSa w < kindSize sp.sa)
  && (if sp.imm then Nat.land (slotImm w) sp.use == slotImm w
      else decide (slotSb w < kindSize sp.sb) && decide (slotSc w < kindSize sp.sc)
        && Nat.land (slotMd w) sp.use == slotMd w)

/-- R93: a format that a lane may hold. -/
def laneFmt (f : Nat) : Bool := decide (f ≤ 0xC)

/-- R93, R99, R91, R96: the further rules of an operation whose breach is `TILE_ILLEGAL_OPCODE`; in exact mode a bank
other than 0 is one of them (log entry 106). -/
def slotRules (x : TileSt) (k w pc : Nat) (loops : Nat) : Bool :=
  let op := slotOp w
  if k = 0 then
    let ex := bitAt (ctxCtl x (slotMd w % 4)) 7
    !(ex && ((op != 2 && slotDst w != 0) || (op == 2 && slotSa w != 0)))
  else if k = 1 then op != 0x32 || laneFmt (ctxCtl x (slotMd w / 16 % 4) % 16)
  else if k = 2 then
    let fin := slotMd w % 16
    let fout := ctxCtl x (slotMd w / 16 % 4) % 16
    if op = 0x06 then laneFmt fin && laneFmt fout
    else if op = 0x07 then laneFmt fin && laneFmt fout && (fmtBits fout == 16 || fmtBits fout == 8)
    else if op = 0x08 then laneFmt fin && laneFmt fout && (fmtBits fin == 16 || fmtBits fin == 8)
    else op < 0x10 || 0x1A < op || slotDst w != 0
  else if k = 5 then
    if op = 0x0B ∨ op = 0x0C then slotDst w != 0
    else if op = 0x10 then decide (slotImm w ≤ 7679)
    else if op = 0x11 then decide (slotImm w ≤ 7679) && decide (pc < slotImm w) && decide (loops < 2)
    else if op = 0x14 then decide (slotImm w / 16 ≤ 3)
    else true
  else true

/-- R89: the registers that a slot writes, each as a number of its own. -/
def slotWrites (x : TileSt) (k w : Nat) : List Nat :=
  let op := slotOp w
  let reg (kd : OpKind) (n : Nat) : List Nat :=
    match kd with
    | .v => [n] | .s => [100 + n] | .m => [200 + n] | .p => [300 + n] | .la => [400 + n] | _ => []
  let mask := mreg x (slotMd w % 8)
  if k = 1 ∧ (op = 0x30 ∨ op = 0x31 ∨ op = 0x33) then
    ((List.range 64).filter (bitAt mask)).map (400 + ·)
  else if k = 3 ∧ (op = 0x02 ∨ op = 0x04 ∨ op = 0x06) then []
  else match slotSpec k op with
    | some sp => reg sp.dst (slotDst w) ++ (if k = 1 ∧ 0x24 ≤ op ∧ op ≤ 0x27 then reg .s (slotSc w) else [])
    | none => []

/-- Whether a list has no repeats. -/
def allDiffer : List Nat → Bool
  | [] => true
  | a :: r => !r.contains a && allDiffer r

/-- R87: the enabled slots of a bundle. -/
def enabledSlots (w : Nat) : List Nat := (List.range 6).filter fun k => bitAt w k

/-- R87 to R89, R121: a bundle whose predicate holds breaks no rule of `TILE_ILLEGAL_OPCODE`. -/
def bundleOk (x : TileSt) (w pc loops : Nat) : Bool :=
  (enabledSlots w).all (fun k =>
    let b := slotBits w k
    if slotOp b = 0 then b == 0
    else match slotSpec k (slotOp b) with
      | some sp => fieldsOk sp b && slotRules x k b pc loops
      | none => false)
  && allDiffer ((enabledSlots w).flatMap fun k => slotWrites x k (slotBits w k))

/-! ### Issue (R90, R96, R120, R130, R183, R326, R488) -/

/-- R128: the unit of an irregular operation: 0 gather/scatter, 1 set, 2 hash, 3 sort. -/
def irrUnit (op : Nat) : Nat := if op < 0x10 then 0 else if op < 0x20 then 1 else if op < 0x30 then 2 else 3

/-- R90, R96, R120, R130, R183: a bundle that must still wait for operations issued earlier. -/
def bundleWaits (x : TileSt) (w : Nat) : Bool :=
  let op (k : Nat) : Nat := if bitAt w k then slotOp (slotBits w k) else 0
  let wt := slotImm (slotBits w 5)
  (bitAt w 7 && !(x.mats.isEmpty && x.dmas.isEmpty && x.irrs.isEmpty))
  || (op 5 == 0x16 && ((bitAt wt 0 && !x.mats.isEmpty) || (bitAt wt 1 && !x.dmas.isEmpty)
      || (bitAt wt 2 && !x.irrs.isEmpty)))
  || (op 0 == 0x01 && decide (4 ≤ (x.mats.filter fun m => m.op == 1).length))
  || (op 3 == 0x10 || op 3 == 0x11) && decide (4 ≤ x.dmas.length)
  || (op 4 != 0 && decide (4 ≤ (x.irrs.filter fun o => irrUnit o.op == irrUnit (op 4)).length))

/-- R326: the slots of a frame in which a tile issues at a duty of d/16, its pattern rotated by its number. -/
def dutySlot (now t d : Nat) : Bool :=
  let k := (now / 64 + t) % 16
  decide (k * d / 16 < (k + 1) * d / 16)

/-- R326, R327: the duty in force on a tile's die admits issue now. -/
def dutyOpen (s : State) (t : Nat) : Bool := dutySlot s.now t (odv s (oDUTY + dieOf t))

/-- R488, R489: a graph with a break reported or held. -/
def breakOf (s : State) (h : Nat) : Option BreakSt :=
  match s.obs.brk with
  | some b => if b.graph = h then some b else s.obs.held.find? fun x => x.graph == h
  | none => s.obs.held.find? fun x => x.graph == h

/-- R487, R467: breakpoints act outside confidential mode only. -/
def brkEnabled (s : State) : Bool := !confidential s && odv s oBRK_ENABLE == 1

/-- R487: the BRK_ADDR entry that names a tile and bundle and has not been passed in this firing. -/
def brkAddrHitOf (s : State) (t pc : Nat) (passed : List Nat) : Option Nat :=
  if confidential s then none
  else (List.range 8).find? fun i =>
    let v := odv s (oBRK_ADDR + i)
    bitAt v 22 && v % 8192 == pc && bitsOf v 20 13 == t % 144 && bitsOf v 21 21 == dieOf t && !passed.contains i

/-- R87, R89: a bundle's predicate holds, so that it issues its slots. -/
def bundleOn (x : TileSt) (w : Nat) : Bool := preg x (bitsOf w 11 8) != bitAt w 12

/-- R487, R488: a break, or an address entry that names the bundle, keeps a tile from issuing it. -/
def breakHeld (s : State) (t : Nat) (r : Run) : Bool :=
  (breakOf s (tileSt s t).graph).isSome || (brkAddrHitOf s t r.pc r.passed).isSome

/-- R181, R183, R480: what stands between a tile and the issue of its bundle; one whose predicate fails issues no slot, and
waits for no operation. -/
def issueHeld (s : State) (t : Nat) (r : Run) (w : Nat) : Bool :=
  (bundleOn (tileSt s t) w && bundleWaits (tileSt s t) w) || !dutyOpen s t || breakHeld s t r
  || traceHeld s (srcTile t)

/-- R121, R482, R485, R479: a tile raises an exception: it stops at its bundle and tells its control core; nothing of
the bundle takes effect. -/
def tileExc (t code : Nat) (ue : Option UeMet) (s : State) : State :=
  let x := tileSt s t
  let s0 := match ue with | some m => ueRecord m (tileCmd s t) s | none => s
  let pc := match x.run with | some r => r.pc | none => 0
  let op := match x.run with | some r => r.opId | none => 0
  let s1 := setTile s0 t { tileSt s0 t with
    stopped := some code, run := x.run.map fun r => { r with todo := [], effs := [], held := true } }
  let s2 := modGraph s1 x.graph fun g =>
    { (if g.exc.isSome then g else { g with exc := some (t, code) }) with
      ueTiles := if code = 0x0340 then t :: g.ueTiles else g.ueTiles }
  freezeSource 1 (traceEvent 2 (trace 6 0x22 (srcCore (dieOf t) (t % 144 / 18)) op (tileLayer s t) code pc s2))

/-- R121, R188: a tile meets an uncorrectable error, of its own storage or of what its operation reads. -/
def ueTile (t : Nat) (m : UeMet) (s : State) : State := tileExc t (ueCode m.level) (some m) s

/-- R492: an active tile with a credit that a break keeps from issuing, at a bundle boundary or before a firing. -/
def breakIdle (s : State) (t : Nat) : Bool :=
  let x := tileSt s t
  x.mode == .active && x.credit && x.filler.isNone && (breakOf s x.graph).isSome
    && (match x.run with | some r => r.held && !r.ending | none => true)

/-- R492: a tile that a break holds runs Filler. -/
def breakFill (t : Nat) (s : State) : State := if breakIdle s t then startFiller t s else s

/-- R492: the tiles of a graph in which a break begins. -/
def breakFillAll (h : Nat) (s : State) : State :=
  match tfind s.graphs h with
  | some g => g.tiles.foldl (fun s e => breakFill e.1 s) s
  | none => s

/-- R487 to R489, R492: a breakpoint is hit on a tile: its graph begins to drain, or the break is held; the graph's tiles that
stand at a boundary run Filler. -/
def brkHit (t cause id : Nat) (s : State) : State :=
  let h := (tileSt s t).graph
  let b : BreakSt := ⟨h, t, cause, id, s.now, false⟩
  let src := srcTile t
  let report (s : State) : State :=
    odSet (odSet (odSet s oBRK_STATE 1) oBRK_HANDLE h) oBRK_SOURCE (odv s oNODE_ID * 65536 + src)
  match breakOf s h with
  | some old =>
    if old.at_ = s.now ∧ t < old.tile ∧ !old.broken then
      match s.obs.brk with
      | some c => if c.graph = h then report { s with obs := { s.obs with brk := some b } }
                  else { s with obs := { s.obs with held := s.obs.held.map fun y => if y.graph = h then b else y } }
      | none => s
    else s
  | none =>
    match s.obs.brk with
    | none => breakFillAll h (traceEvent 1 (report { s with obs := { s.obs with brk := some b } }))
    | some _ => breakFillAll h (traceEvent 1 { s with obs := { s.obs with held := s.obs.held ++ [b] } })

/-- R96: the innermost loops that end at a bundle: passes taken and levels left, and the bundle that follows. -/
def loopNext : List LoopLv → Nat → List LoopLv × Nat
  | [], pc => ([], pc + 1)
  | l :: r, pc =>
    if l.last = pc then
      if 1 < l.left then ({ l with left := l.left - 1 } :: r, l.first) else loopNext r pc
    else (l :: r, pc + 1)

/-- R98, R96, R101: the arithmetic context, output queue binding or descriptor word that a slot names by MOD or IMM20. -/
def namedCells (t k b : Nat) : List (Nat × Nat) :=
  let op := slotOp b
  let ctx (c : Nat) : List (Nat × Nat) := [(storeCell t (0x3CA00 + 16 * (c % 4)), 16)]
  if k = 0 then (if op = 0 then [] else ctx (slotMd b))
  else if k = 1 then (if op = 0x32 then ctx (slotMd b / 16) else [])
  else if k = 2 then (if 0x06 ≤ op ∧ op ≤ 0x08 then ctx (slotMd b / 16) else [])
  else if k = 5 ∧ op = 0x14 then [(storeCell t (0x3CA40 + 16 * (slotImm b % 16)), 16)]
  else if k = 5 ∧ op = 0x17 then [(storeCell t (0x3C200 + 32 * (slotImm b % 64)), 4)]
  else []

/-- R86, R97: the program store words that a tile reads to issue a bundle, its predicate apart: the bundle, the
descriptors that its slots name, and the words that their modifiers name. -/
def bundleCells (t pc w : Nat) : List (Nat × Nat) :=
  (storeCell t (32 * pc), 32) :: (enabledSlots w).flatMap fun k =>
    let b := slotBits w k
    match slotSpec k (slotOp b) with
    | some sp =>
      let d (kd : OpKind) (n : Nat) : List (Nat × Nat) := if kd = .desc then [(storeCell t (0x3C200 + 32 * n), 32)] else []
      d sp.dst (slotDst b) ++ d sp.sa (slotSa b) ++ (if sp.imm then [] else d sp.sb (slotSb b)) ++ namedCells t k b
    | none => []

/-- R188: the uncorrectable errors that reads of several ranges meet. -/
def ueIn (s : State) (rs : List (Nat × Nat)) : Option UeMet :=
  ueMet (s.ecc.marks.filter fun m => !m.correct && rs.any fun r => markIn m r.1 r.2)

/-- R187: the corrections that reads of several ranges make. -/
def correctAll (rs : List (Nat × Nat)) (s : State) : State := rs.foldl (fun s r => correctIn r.1 r.2 s) s

/-- Takes up the bundle at the tile's pc: checks it, holds it, or makes its slots ready to issue; bundles that issue
nothing are passed, `fuel` of them at once. -/
def settle : Nat → Nat → State → State
  | 0, t, s =>
    let x := tileSt s t
    setTile s t { x with run := x.run.map fun r => { r with held := true } }
  | fuel + 1, t, s =>
    let x := tileSt s t
    match x.run with
    | none => s
    | some r =>
      if breakHeld s t r then breakFill t (setTile s t { x with run := some { r with held := true, todo := [] } })
      else if 7679 < r.pc then tileExc t 0x0140 none s
      else
        let w := bundleAt x r.pc
        let cells := bundleCells t r.pc w
        match ueIn s cells with
        | some m => ueTile t m (correctAll cells s)
        | none =>
        if bitsOf w 15 13 ≠ 0 then tileExc t 0x0140 none s
        else
          let s := correctAll cells s
          let on := bundleOn x w
          if on && !bundleOk x w r.pc r.loops.length then tileExc t 0x0140 none s
          else if issueHeld s t r w then setTile s t { x with run := some { r with held := true, todo := [] } }
          else
            let todo := if on then (enabledSlots w).filter fun k => slotOp (slotBits w k) != 0 else []
            if todo = [] then
              if bitAt w 6 then setTile s t { x with run := some { r with held := false, todo := [], ending := true } }
              else
                let (ls, pc) := loopNext r.loops r.pc
                settle fuel t (setTile s t { x with run := some { r with held := false, loops := ls, pc := pc } })
            else setTile s t { x with run := some { r with held := false, todo := todo } }

/-- How many bundles that issue nothing one step passes (log entry 9). -/
def settleFuel : Nat := 64

/-- R20, R37: the age stamp of the present moment. -/
def stampNow (s : State) : Nat := s.now / 256 % 4096

/-- R99, R102, R104: a token leaves an output queue toward every destination. -/
def putToken (t oq kind payload : Nat) (s : State) : State :=
  let x := tileSt s t
  let q := tget x.oqs oq ⟨[], 0⟩
  let tok : Token := ⟨payload, stampNow s, kind, q.seq⟩
  let ds := oqDests (oqWord x oq)
  let s1 := setTile s t { x with
    oqs := tput x.oqs oq { q with seq := (q.seq + 1) % 65536 }
    run := x.run.map fun r => { r with resv := r.resv.map fun e => if e.1 = oq then (e.1, e.2 - 1) else e } }
  let s2 := { s1 with mesh := { s1.mesh with
    toks := s1.mesh.toks ++ (List.range ds.length).map fun k => ⟨t, oq, k, tok⟩ } }
  trace 1 0x03 (srcTile t) (match x.run with | some r => r.opId | none => 0) (tileLayer s t)
    (oq + 16 * kind) (tok.seq + 65536 * ds.headD 0) s2

/-- R89: one effect of a bundle, once every slot has read its sources. BR, LOOP and BRK act when the bundle ends. -/
def applyEff (t : Nat) (e : TEff) (s : State) : State :=
  let x := tileSt s t
  match e with
  | .vreg r v => setTile s t { x with vregs := tput x.vregs r v }
  | .sreg r v => setTile s t { x with sregs := tput x.sregs r (v % 2 ^ 64) }
  | .mask r v => setTile s t { x with masks := tput x.masks r (v % 2 ^ 64) }
  | .pred r b => setTile s t { x with preds := tput x.preds r b }
  | .lacc r v => setTile s t { x with laccs := tput x.laccs r v }
  | .carry op none => setTile s t { x with carries := tdel x.carries op }
  | .carry op (some c) => setTile s t { x with carries := tput x.carries op c }
  | .store off bs =>
    match writeMod ⟨some t, dieOf t⟩ (tileBase t + off) bs s with
    | .ok _ s1 => noteWrote t (tileBase t + off) bs.length s1
    | .ue m s1 => ueTile t m s1
  | .matrix m => setTile s t { x with mats := x.mats ++ [m] }
  | .dma d => setTile s t { x with dmas := x.dmas ++ [d] }
  | .irr o => setTile s t { x with irrs := x.irrs ++ [o] }
  | .put oq kind payload => putToken t oq kind payload s
  | .dseta d a => setTile s t { x with
      store := memWrite x.store (0x3C200 + 32 * d) (leBytes 4 (setBits (descAt x d % 2 ^ 32) 0 22 a)) }
  | .flags f => addFlags t f s
  | .jump _ => s
  | .loop _ _ => s
  | .brk _ => s

/-- The target of a taken branch, a LOOP and a BRK among a bundle's effects. -/
def jumpOf : List TEff → Option Nat
  | [] => none
  | .jump b :: _ => some b
  | _ :: r => jumpOf r
def loopOf : List TEff → Option (Nat × Nat)
  | [] => none
  | .loop l n :: _ => some (l, n)
  | _ :: r => loopOf r
def brkOf : List TEff → Option Nat
  | [] => none
  | .brk i :: _ => some i
  | _ :: r => brkOf r

/-- R89, R96: what follows a bundle: the loops and the next bundle. A LOOP of count zero goes on as the end of its body
would; a branch leaves the loops as they are, also where it leaves a body (log entry 108). -/
def nextBundle (r : Run) (effs : List TEff) : List LoopLv × Nat :=
  match jumpOf effs with
  | some b => (r.loops, b)
  | none =>
    match loopOf effs with
    | some (last, n) => if n = 0 then loopNext r.loops last else (⟨r.pc + 1, last, n⟩ :: r.loops, r.pc + 1)
    | none => loopNext r.loops r.pc

/-- R311: a bundle and its vector operation are counted. -/
def countBundle (t w op : Nat) (s : State) : State :=
  noteEvents t .vector op (if slotBits w 1 = 0 then 0 else 1) (noteEvents t .bundle op 1 s)

/-- R89, R108, R487: every slot of the bundle has issued: its effects happen, and the tile goes on to the next bundle
or ends its task. -/
def commitBundle (t : Nat) (r : Run) (effs : List TEff) (s : State) : State :=
  let w := bundleAt (tileSt s t) r.pc
  let s1 := effs.foldl (fun s e => applyEff t e s) s
  let x := tileSt s1 t
  if x.stopped.isSome then s1
  else
    let (ls, pc) := nextBundle r effs
    let s2 := countBundle t w r.opId (setTile s1 t { x with run := x.run.map fun q =>
      { q with todo := [], effs := [], loops := ls, pc := pc, ending := bitAt w 6 } })
    let s3 := match brkOf effs with
      | some i => if brkEnabled s && bitAt (odv s oBRK_ID_MASK) i then brkHit t 1 i s2 else s2
      | none => s2
    if bitAt w 6 then s3 else settle settleFuel t s3

/-- What the operation of a slot gives when it issues, with the state after its reads: effects that wait for the bundle, an
exception, or the uncorrectable error of a read. -/
inductive SlotRes where
  | ok (effs : List TEff) (s : State)
  | exc (code : Nat) (s : State)
  | ue (m : UeMet) (s : State)

/-- R89: the tile stands at a bundle of which slot `k` holds exactly these bits and has not issued yet. -/
def slotReady (s : State) (t k bits : Nat) : Option Run :=
  let x := tileSt s t
  if x.mode = .active ∧ x.stopped = none then
    match x.run with
    | some r => if k ∈ r.todo ∧ r.held = false ∧ slotBits (bundleAt x r.pc) k = bits then some r else none
    | none => none
  else none

/-- R89: slot `k` of a tile's bundle issues; the last of the bundle's slots commits it. A slot that is not the one the
tile is about to issue changes nothing (log entry 10). -/
def issueSlot (t k bits : Nat) (sem : State → TileSt → SlotRes) (s : State) : State :=
  match slotReady s t k bits with
  | none => s
  | some r =>
    match sem s (tileSt s t) with
    | .exc code s1 => tileExc t code none s1
    | .ue m s1 => ueTile t m s1
    | .ok effs s1 =>
      let todo := r.todo.filter (· ≠ k)
      if todo = [] then commitBundle t r (r.effs ++ effs) s1
      else setTile s1 t { tileSt s1 t with run := some { r with todo := todo, effs := r.effs ++ effs } }

/-- A slot in register form, and in immediate form. -/
def issueReg (t : TileId) (k op : Nat) (f : RegForm) (sem : State → TileSt → SlotRes) (s : State) : State :=
  issueSlot t.val k (regBits op f) sem s
def issueImm (t : TileId) (k op : Nat) (f : ImmForm) (sem : State → TileSt → SlotRes) (s : State) : State :=
  issueSlot t.val k (immBits op f) sem s

/-- R90, R326: a held bundle issues once nothing holds it any more. -/
def releaseBundle (t : Nat) (s : State) : State :=
  let x := tileSt s t
  if x.mode = .active ∧ x.stopped = none then
    match x.run with
    | some r => if r.held ∧ r.ending = false then settle settleFuel t s else s
    | none => s
  else s

end Sys2Proof.Machine
end

