-- ==== Sys2Proof/Machine/Operands.lean ====
section
/-! DEFINITION. The operand forms of the vector, vector-move, scalar and memory slots: which registers an operation
reads and what it writes (R88, R89, R92 to R94, R96). -/
namespace Sys2Proof.Machine

/-- The effects of an operation together with its flags. -/
def withFlags (f : Nat) (es : List TEff) : List TEff := if anyFlags f then es ++ [.flags f] else es

/-- R92: V[DST] from each lane of the mask. -/
def lanesOp (f : RegForm) (g : TileSt → Nat → Lane × Nat) (s : State) (x : TileSt) : SlotRes :=
  let mask := mreg x (f.md.val % 8)
  let (r, fl) := laneMap mask (g x) 64 0
  .ok (withFlags fl [.vreg f.dst.val (mergeLanes mask (vreg x f.dst.val) r)]) s

/-- R92: V[DST] = V[SA] op V[SB]. -/
def vecBin (f : RegForm) (g : Lane → Lane → Lane × Nat) : State → TileSt → SlotRes :=
  lanesOp f fun x i => g (laneAt (vreg x f.sa.val) i) (laneAt (vreg x f.sb.val) i)

/-- R92: V[DST] = op V[SA]. -/
def vecUn (f : RegForm) (g : Lane → Lane × Nat) : State → TileSt → SlotRes :=
  lanesOp f fun x i => g (laneAt (vreg x f.sa.val) i)

/-- R92: an integer or logical operation. -/
def vecInt (op : Nat) (f : RegForm) : State → TileSt → SlotRes := vecBin f fun a b => (intLane op a b, 0)

/-- R93: M[DST] bit i from a comparison of lanes of V[SA] and V[SB]; bits outside the mask keep their value. -/
def cmpOp (f : RegForm) (g : Lane → Lane → Bool × Nat) (s : State) (x : TileSt) : SlotRes :=
  let mask := mreg x (f.md.val % 8)
  let (b, fl) := maskMap mask (fun i => g (laneAt (vreg x f.sa.val) i) (laneAt (vreg x f.sb.val) i)) 64 0
  .ok (withFlags fl [.mask f.dst.val (Nat.lor (Nat.land (mreg x f.dst.val) (2 ^ 64 - 1 - mask)) b)]) s

/-- R93: M[DST] from a mask operation; bits outside the mask keep their value. -/
def maskOp (f : RegForm) (g : TileSt → Nat) (s : State) (x : TileSt) : SlotRes :=
  let mask := mreg x (f.md.val % 8)
  .ok [.mask f.dst.val (Nat.lor (Nat.land (mreg x f.dst.val) (2 ^ 64 - 1 - mask)) (Nat.land (g x) mask))] s

/-- R96: S[DST] from a scalar operation. -/
def sclOp (dst : Nat) (g : State → TileSt → Nat) (s : State) (x : TileSt) : SlotRes :=
  .ok [.sreg dst (g s x % 2 ^ 64)] s

/-- R96: P[DST] from a comparison of S[SA] and S[SB]. -/
def sclCmp (f : RegForm) (g : Int → Int → Bool) (s : State) (x : TileSt) : SlotRes :=
  .ok [.pred f.dst.val (g (sxt 64 (sreg x f.sa.val)) (sxt 64 (sreg x f.sb.val)))] s

/-- R94: the effective address of a MEM operation, `none` where it is misaligned or reaches beyond tile SRAM. The sum does
not wrap at 2^64 (log entry 107). -/
def memEa (x : TileSt) (f : ImmForm) (align width : Nat) : Option Nat :=
  let a := sreg x f.sa.val + f.imm.val
  if a % align = 0 ∧ a + width ≤ 4194304 then some a else none

/-- R94: a load of `width` bytes of tile SRAM. -/
def memLoad (t : TileId) (f : ImmForm) (align width : Nat) (g : List Byte → TEff) (s : State) (x : TileSt) : SlotRes :=
  match memEa x f align width with
  | none => .exc 0x0142 s
  | some a =>
    match readMod ⟨some t.val, dieOf t.val⟩ (tileBase t.val + a) width s with
    | .ok bs s1 => .ok [g bs] s1
    | .ue m s1 => .ue m s1

/-- R94: a store of `width` bytes to tile SRAM. -/
def memStore (f : ImmForm) (align width : Nat) (g : TileSt → List Byte) (s : State) (x : TileSt) : SlotRes :=
  match memEa x f align width with
  | none => .exc 0x0142 s
  | some a => .ok [.store a (g x)] s

/-- R84: the bytes of a vector value, lane 0 first, and back. -/
def lanesBytes (v : List Lane) : List Byte := (List.range 64).flatMap fun i => leBytes 4 (laneAt v i).toNat
def bytesLanes (bs : List Byte) : List Lane := (List.range 64).map fun i => BitVec.ofNat 32 (fld bs (4 * i) 4)

/-- Numbers as lanes. -/
def natLanes (v : List Nat) : List Lane := v.map (BitVec.ofNat 32)

end Sys2Proof.Machine
end

