-- ==== Sys2Proof/Machine/Tensor.lean ====
section
/-! DEFINITION. Tensors in tile SRAM: the checks of a descriptor, and reading and writing its rows (R51, R52, R97). -/
namespace Sys2Proof.Machine

/-- Bytes of one row of `cols` elements of a format. In the matrix slot an EA640 element is in its memory form (R72);
a DMA row has `cols × element bits / 8` bytes (R181). -/
def rowBytes (fmt cols : Nat) : Nat := if fmt = fmtEA640 then 96 * cols else cols * fmtBits fmt / 8
def dmaRowBytes (fmt cols : Nat) : Nat := cols * fmtBits fmt / 8

/-- R97: bytes from ADDR to the end of the last row. -/
def extent (rows stride row : Nat) : Nat := (rows - 1) * stride + row

/-- R45, R97: the checks of a descriptor read with format `fmt` and rows of `row` bytes; `none` accepts. A field
outside its legal values raises the same exception as an extent beyond 4 MiB (log entry 13); a single row needs no
stride (log entry 109). -/
def descCheck (d fmt row : Nat) : Option Nat :=
  if fmtReserved (dFmt d) ∨ fmtReserved fmt then some 0x0132
  else if bitsOf d 31 26 ≠ 0 ∨ bitsOf d 95 86 ≠ 0 ∨ bitsOf d 127 118 ≠ 0 ∨ dRows d = 0 ∨ dCols d = 0
      ∨ (fmtIsMX fmt ∧ dCols d % 32 ≠ 0) ∨ (1 < dRows d ∧ dStride d < row) then some 0x0142
  else if 4194304 < dAddr d + extent (dRows d) (dStride d) row then some 0x0142
  else if fmtIsMX fmt ∧ 4194304 < dScale d + dRows d * dCols d / 32 then some 0x0142
  else none

/-- R51: the elements of a row, from its bytes as one number. -/
def rowElems (fmt w : Nat) (n : Nat) (cols : Nat) : List XVal :=
  (List.range cols).map fun i => decodeElem fmt ((n >>> (w * i)) % 2 ^ w)

/-- R52: a row under its scale bytes, one for every 32 elements. -/
def scaleRow (scales : List Byte) (xs : List XVal) : List XVal :=
  (List.range xs.length).map fun i => scaleElem (byteAt scales (i / 32)) (xs.getD i .nan)

/-- The bytes of `rows` rows of `row` bytes, `stride` apart, from tile SRAM offset `off`. -/
def readRows (t off stride row : Nat) : Nat → State → MemRes (List (List Byte))
  | 0, s => .ok [] s
  | n + 1, s =>
    match readMod ⟨some t, dieOf t⟩ (tileBase t + off) row s with
    | .ue m z => .ue m z
    | .ok bs s1 =>
      match readRows t (off + stride) stride row n s1 with
      | .ue m z => .ue m z
      | .ok r s2 => .ok (bs :: r) s2

/-- Writes rows `stride` apart from tile SRAM offset `off`. -/
def writeRows (t off stride : Nat) : List (List Byte) → State → MemRes Unit
  | [], s => .ok () s
  | bs :: r, s =>
    match writeMod ⟨some t, dieOf t⟩ (tileBase t + off) bs s with
    | .ue m z => .ue m z
    | .ok _ s1 => writeRows t (off + stride) stride r (noteWrote t (tileBase t + off) bs.length s1)

/-- R51, R52: a tensor's values by row, and its scale bytes by row. -/
def readTensor (t d : Nat) (s : State) : MemRes (List (List XVal) × List (List Byte)) :=
  let fmt := dFmt d
  match readRows t (dAddr d) (dStride d) (rowBytes fmt (dCols d)) (dRows d) s with
  | .ue m z => .ue m z
  | .ok rows s1 =>
    let vals := rows.map fun bs => rowElems fmt (fmtBits fmt) (leNat bs) (dCols d)
    if fmtIsMX fmt then
      match readRows t (dScale d) (dCols d / 32) (dCols d / 32) (dRows d) s1 with
      | .ue m z => .ue m z
      | .ok scs s2 => .ok ((List.range (dRows d)).map fun i => scaleRow (scs.getD i []) (vals.getD i []), scs) s2
    else .ok (vals, []) s1

/-- The bytes of elements of `w` bits, packed low first. -/
def packElems (w : Nat) (es : List Nat) : List Byte :=
  leBytes (ceilDiv (w * es.length) 8) (es.foldr (fun e n => e % 2 ^ w + 2 ^ w * n) 0)

/-- Consecutive groups of 32. -/
def groups32 {α : Type} : Nat → List α → List (List α)
  | 0, _ => []
  | n + 1, xs => if xs.isEmpty then [] else xs.take 32 :: groups32 n (xs.drop 32)

end Sys2Proof.Machine
end

