-- ==== Sys2Proof/Machine/MemSlot.lean ====
section
/-! DEFINITION. The MEM slot: loads, stores and tile DMA (R72, R94, R181 to R184). -/
namespace Sys2Proof.Machine

/-- R94: V[DST] = 256 bytes of tile SRAM. -/
def execVld (t : TileId) (f : ImmForm) (s : State) : Host.Outcome State Fault Refusal :=
  .next (issueImm t 3 0x01 f (memLoad t f 64 256 fun bs => .vreg f.dst.val (bytesLanes bs)) s)

/-- R94: 256 bytes of tile SRAM = V[DST]; every lane, since M0 is all ones. -/
def execVst (t : TileId) (f : ImmForm) (s : State) : Host.Outcome State Fault Refusal :=
  .next (issueImm t 3 0x02 f (memStore f 64 256 fun x => lanesBytes (vreg x f.dst.val)) s)

def execSld (t : TileId) (f : ImmForm) (s : State) : Host.Outcome State Fault Refusal :=
  .next (issueImm t 3 0x03 f (memLoad t f 8 8 fun bs => .sreg f.dst.val (leNat bs)) s)

def execSst (t : TileId) (f : ImmForm) (s : State) : Host.Outcome State Fault Refusal :=
  .next (issueImm t 3 0x04 f (memStore f 8 8 fun x => leBytes 8 (sreg x f.dst.val)) s)

/-- R94, R72. -/
def execEald (t : TileId) (f : ImmForm) (s : State) : Host.Outcome State Fault Refusal :=
  .next (issueImm t 3 0x05 f (memLoad t f 32 96 fun bs => .lacc f.dst.val (eaOfBytes bs)) s)

/-- R94, R72. -/
def execEast (t : TileId) (f : ImmForm) (s : State) : Host.Outcome State Fault Refusal :=
  .next (issueImm t 3 0x06 f (memStore f 32 96 fun x => eaBytes (lacc x f.dst.val)) s)

/-! ### Tile DMA -/

/-- R181: the fields of S[SA]; a stride of zero packs the rows. -/
def maddr (v : Nat) : Nat := v % 2 ^ 42
def mstride (v row : Nat) : Nat := let n := bitsOf v 62 42; if n = 0 then row else 32 * n
/-- R181: bytes of a DMA row. -/
def dmaRow (d : Nat) : Nat := dmaRowBytes (dFmt d) (dCols d)

/-- R132, R182: the region lies wholly in one module buffer of the run's set with the right. -/
def declared (s : State) (t a n : Nat) (wr : Bool) : Bool :=
  n == 0 || match tileRunG s t with
    | some r => r.bufs.any fun b => !b.host && (if wr then b.wr else b.rd) && decide (b.addr ≤ a ∧ a + n ≤ b.addr + b.size)
    | none => false

/-- R182, R169: the checks of a DMA when it issues. -/
def dmaCheck (s : State) (t d v : Nat) (inbound : Bool) : Option Nat :=
  let row := dmaRow d
  let n := extent (dRows d) (mstride v row) row
  match descCheck d (if dFmt d = fmtEA640 then fmtINT8 else dFmt d) row with
  | some c => some c
  | none =>
    if bitAt v 63 then some 0x0160
    else if maddr v % 32 ≠ 0 then some 0x0161
    else if bitsOf v 62 42 ≠ 0 ∧ 32 * bitsOf v 62 42 < row then some 0x0162
    else if !inMap (maddr v) n then some 0x0160
    else if !declared s t (maddr v) n (!inbound) then some 0x0101
    else if windowOff s (maddr v) n then some 0x0542
    else none

/-- R94, R182: a DMA issues. -/
def dmaIssue (t : TileId) (inbound : Bool) (f : ImmForm) (s : State) (x : TileSt) : SlotRes :=
  let d := descAt x f.dst.val
  let v := sreg x f.sa.val
  match dmaCheck s t.val d v inbound with
  | some c => .exc c s
  | none => .ok [.dma ⟨inbound, d, v⟩] s

def execDmain (t : TileId) (f : ImmForm) (s : State) : Host.Outcome State Fault Refusal :=
  .next (issueImm t 3 0x10 f (dmaIssue t true f) s)

def execDmaout (t : TileId) (f : ImmForm) (s : State) : Host.Outcome State Fault Refusal :=
  .next (issueImm t 3 0x11 f (dmaIssue t false f) s)

/-- R181: copies rows: `src` and `dst` addresses, `n` rows of `row` bytes, `ss` and `ds` apart. -/
def copyRows (t src ss dst ds row : Nat) : Nat → State → MemRes Unit
  | 0, s => .ok () s
  | n + 1, s =>
    match readMod ⟨some t, dieOf t⟩ src row s with
    | .ue m z => .ue m z
    | .ok bs s1 =>
      match writeMod ⟨some t, dieOf t⟩ dst bs s1 with
      | .ue m z => .ue m z
      | .ok _ s2 =>
        copyRows t (src + ss) ss (dst + ds) ds row n (if addrLevel dst = 1 then noteWrote t dst row s2 else s2)

/-- R183, R184: the oldest outstanding DMA of a tile completes: every byte has landed. One that meets an uncorrectable
error stays outstanding, so that the stop makes its destination undefined (R122). -/
def dmaComplete (t : Nat) (s : State) : State :=
  let x := tileSt s t
  if x.stopped.isSome then s
  else match x.dmas with
    | [] => s
    | m :: r =>
      let s1 := setTile s t { x with dmas := r }
      let d := m.desc
      let row := dmaRow d
      let tile := tileBase t + dAddr d
      let res := if m.inbound then copyRows t (maddr m.addr) (mstride m.addr row) tile (dStride d) row (dRows d) s1
        else copyRows t tile (dStride d) (maddr m.addr) (mstride m.addr row) row (dRows d) s1
      match res with
      | .ok _ s2 => s2
      | .ue e s2 => ueTile t e (setTile s2 t { tileSt s2 t with dmas := m :: (tileSt s2 t).dmas })

def execDmaComplete (t : TileId) (s : State) : Host.Outcome State Fault Refusal := .next (dmaComplete t.val s)

end Sys2Proof.Machine
end

