-- ==== Sys2Proof/Machine/Irregular.lean ====
section
/-! DEFINITION. Irregular work: gather, scatter, scatter-add, set operations, hashing, sorting and selection (R128 to
R164). -/
namespace Sys2Proof.Machine

/-! ### The checks at issue (R131, R132) -/

/-- The first code of a list of checks in their order; `none` where every check passes. -/
def firstCode : List (Option Nat) → Option Nat
  | [] => none
  | some c :: _ => some c
  | none :: r => firstCode r

/-- A check that raises `c` where it does not hold. -/
def need (ok : Bool) (c : Nat) : Option Nat := if ok then none else some c

/-- R8 to R11: a length field with legal values 0 (where `zero`) and `lo` to `hi`. -/
def lenCheck (v lo hi : Nat) (zero : Bool) : Option Nat :=
  if v = 0 then (if zero then none else some 0x0102)
  else if v < lo then some 0x0104
  else if hi < v then some 0x0103
  else none

/-- A tile SRAM address field: below 4 MiB, and aligned where the field alone decides it. -/
def sramField (v align : Nat) : Option Nat :=
  if 4194304 ≤ v then some 0x0150 else if v % align ≠ 0 then some 0x0157 else none

/-- R131: reserved and unused bytes are zero. -/
def iobZero (iob : List Byte) (off n : Nat) : Option Nat := need (zeroIn iob off n) 0x0150

/-- R135, R140, R145, R151, R158, R160: the legal MOD values. -/
def irrModOk (op md : Nat) : Bool :=
  if op = 0x01 ∨ op = 0x02 then decide (md < 2)
  else if op = 0x03 then decide (md < 64) && decide (md % 4 < 2) && decide (md / 4 % 8 < 5)
  else if op = 0x11 then decide (md < 64)
  else if 0x10 ≤ op ∧ op ≤ 0x13 then decide (md < 64) && !bitAt md 3
  else if op = 0x20 then decide (md < 16) && md / 4 % 4 != 3
  else if op = 0x21 then decide (md < 4)
  else if op = 0x30 then decide (md < 16)
  else decide (md < 8)

/-- R140: bytes of a SCADD value. -/
def scaddSize (md : Nat) : Nat :=
  let v := md / 4 % 8
  if v = 4 then 96 else if v = 1 ∨ v = 2 then 2 else 4

/-- R145, R158: bytes of a set or sort element. -/
def setElem (md : Nat) : Nat := if bitAt md 0 && bitAt md 1 then 16 else if bitAt md 0 || bitAt md 1 then 8 else 4
def sortElem (md : Nat) : Nat :=
  if md % 4 = 3 then (if bitAt md 2 then 16 else 8) else (if bitAt md 2 then 8 else 4)

/-- R135, R140: MOD LOCAL of GATHER, SCATTER and SCADD. -/
def gsLocal (op md : Nat) : Bool := if op = 0x03 then bitAt md 5 else bitAt md 0

/-- R167: the die's stacked SRAM. -/
def stackedBase (die : Nat) : Nat := 0x100000000 * (die + 1)

/-- R131 step 3: each field in offset order, against the legal values that it decides alone. -/
def irrFields (op md die : Nat) (b : List Byte) : Option Nat :=
  if op = 0x01 ∨ op = 0x02 then
    firstCode [lenCheck (fld b 0x18 4) 1 0xFFFFFFFF false, lenCheck (fld b 0x1C 4) 1 1048576 true,
      sramField (fld b 0x20 4) 4, need (decide (fld b 0x24 4 < 4194304)) 0x0150, lenCheck (byteAt b 0x28) 2 8 false,
      iobZero b 0x29 23]
  else if op = 0x03 then
    let clear := md % 4 == 1
    firstCode [need (fld b 0x10 8 % 32 == 0) 0x0157, lenCheck (fld b 0x18 4) 1 0xFFFFFFFF false,
      if clear then iobZero b 0x1C 4 else lenCheck (fld b 0x1C 4) 1 1048576 true,
      if clear then iobZero b 0x20 4 else sramField (fld b 0x20 4) 4,
      if clear then iobZero b 0x24 4 else sramField (fld b 0x24 4) (if md / 4 % 8 = 4 then 32 else scaddSize md),
      iobZero b 0x28 2, lenCheck (byteAt b 0x2A) 1 64 false, iobZero b 0x2B 21]
  else if 0x10 ≤ op ∧ op ≤ 0x13 then
    let e := setElem md
    firstCode [sramField (fld b 0x10 4) e, lenCheck (fld b 0x14 4) 1 1048576 true, sramField (fld b 0x18 4) e,
      lenCheck (fld b 0x1C 4) 1 1048576 true, sramField (fld b 0x20 4) (if op = 0x13 then 8 else e),
      if op = 0x13 then lenCheck (fld b 0x24 4) 1 524288 false else lenCheck (fld b 0x24 4) 1 1048576 true,
      if op = 0x13 then none else need (fld b 0x30 4 == 0) 0x0156, iobZero b 0x34 12]
  else if op = 0x20 ∨ op = 0x21 then
    let tab := fld b 0x10 8
    let loc := bitAt md 1
    firstCode [
      if loc then sramField tab 64
      else if stackedBase die ≤ tab ∧ tab < stackedBase die + 0x100000000 then need (tab % 64 == 0) 0x0157
      else some 0x0150,
      lenCheck (byteAt b 0x18) 1 (if loc then 16 else 26) true, lenCheck (byteAt b 0x19) 1 16 false, iobZero b 0x1A 2,
      lenCheck (fld b 0x1C 4) 1 1048576 true, sramField (fld b 0x28 4) (if bitAt md 0 then 8 else 4),
      if op = 0x20 then sramField (fld b 0x2C 4) 4 else iobZero b 0x2C 4,
      sramField (fld b 0x30 4) 8, if op = 0x20 then iobZero b 0x34 4 else none, iobZero b 0x38 8]
  else if op = 0x30 then
    firstCode [sramField (fld b 0x10 4) (sortElem md), sramField (fld b 0x14 4) (sortElem md),
      lenCheck (fld b 0x18 4) 1 262144 true, iobZero b 0x1C 36]
  else
    firstCode [sramField (fld b 0x10 4) 4,
      if fld b 0x14 4 / 2 ^ 23 ≠ 0 then some 0x0150 else lenCheck (fld b 0x14 4) 1 4194304 false,
      lenCheck (fld b 0x1C 2) 1 4096 true, lenCheck (byteAt b 0x1E) 1 64 true, iobZero b 0x1F 1,
      lenCheck (fld b 0x20 2) 1 256 true, iobZero b 0x22 2, sramField (fld b 0x24 4) 4,
      need (decide (fld b 0x28 4 ≤ 4416)) 0x0103, iobZero b 0x2C 20]

/-- R131 step 4: legal values that depend on other fields. -/
def irrDeps (op md die : Nat) (b : List Byte) : Option Nat :=
  if op = 0x01 ∨ op = 0x02 then
    let a := min (2 ^ byteAt b 0x28) 32
    need (fld b 0x10 8 % a == 0 && fld b 0x24 4 % a == 0) 0x0157
  else if op = 0x03 then none
  else if 0x10 ≤ op ∧ op ≤ 0x13 then
    let na := fld b 0x14 4
    let nb := fld b 0x1C 4
    let sa := fld b 0x28 4
    let sb := fld b 0x2C 4
    let cap := fld b 0x24 4
    let bound := if op = 0x10 then min (na - sa) (nb - sb) else if op = 0x11 then na - sa + (nb - sb) else na - sa
    firstCode [need (decide (sa ≤ na) && decide (sb ≤ nb)) 0x0156,
      if op = 0x13 then need (decide (fld b 0x30 4 ≤ sb)) 0x0156 else need (decide (bound ≤ cap)) 0x0153]
  else if op = 0x20 ∨ op = 0x21 then
    if bitAt md 1 then none
    else need (decide (fld b 0x10 8 + 64 * 2 ^ byteAt b 0x18 ≤ stackedBase die + 0x100000000)) 0x0150
  else if op = 0x30 then none
  else
    let bound := byteAt b 0x1E + fld b 0x20 2 + fld b 0x1C 2
    let cap := fld b 0x28 4
    firstCode [need (decide (fld b 0x18 4 < fld b 0x14 4)) 0x0150, need (decide (bound ≤ cap)) 0x0153]

/-- R132: a region that an operation reads (`rd`) or writes (`wr`), at a tile SRAM offset or a module address. -/
structure IrrRg where
  lo   : Nat
  n    : Nat
  sram : Bool
  rd   : Bool
  wr   : Bool
  deriving DecidableEq, Repr

/-- R131: the number of blocks of SELECTK. -/
def selBlk (md : Nat) : Nat := 16 * 2 ^ (md % 4)

/-- R132, R163: the regions of an operation, apart from its IOB. -/
def irrRegions (op md : Nat) (b : List Byte) : List IrrRg :=
  let n := fld b 0x1C 4
  if op = 0x01 ∨ op = 0x02 then
    let e := 2 ^ byteAt b 0x28
    [⟨fld b 0x10 8, fld b 0x18 4 * e, gsLocal op md, op == 1, op == 2⟩, ⟨fld b 0x20 4, 4 * n, true, true, false⟩,
     ⟨fld b 0x24 4, n * e, true, op == 2, op == 1⟩]
  else if op = 0x03 then
    let rw := byteAt b 0x2A
    [⟨fld b 0x10 8, fld b 0x18 4 * rw * 96, gsLocal op md, md % 4 == 0, true⟩,
     ⟨fld b 0x20 4, 4 * n, true, true, false⟩, ⟨fld b 0x24 4, n * rw * scaddSize md, true, true, false⟩]
  else if 0x10 ≤ op ∧ op ≤ 0x13 then
    let e := setElem md
    [⟨fld b 0x10 4, fld b 0x14 4 * e, true, true, false⟩, ⟨fld b 0x18 4, fld b 0x1C 4 * e, true, true, false⟩,
     ⟨fld b 0x20 4, fld b 0x24 4 * (if op = 0x13 then 8 else e), true, false, true⟩]
  else if op = 0x20 ∨ op = 0x21 then
    [⟨fld b 0x10 8, 64 * 2 ^ byteAt b 0x18, bitAt md 1, true, op == 0x20⟩,
     ⟨fld b 0x28 4, n * (if bitAt md 0 then 8 else 4), true, true, false⟩,
     ⟨fld b 0x2C 4, if op = 0x20 then 4 * n else 0, true, true, false⟩, ⟨fld b 0x30 4, 8 * n, true, false, true⟩]
  else if op = 0x30 then
    let k := fld b 0x18 4 * sortElem md
    [⟨fld b 0x10 4, k, true, true, true⟩, ⟨fld b 0x14 4, k, true, false, true⟩]
  else
    [⟨fld b 0x10 4, 4 * ceilDiv (fld b 0x14 4) (selBlk md), true, true, false⟩,
     ⟨fld b 0x24 4, 4 * fld b 0x28 4, true, false, true⟩]

/-- The module address of a region of tile `t`'s operation. -/
def rgAddr (t : Nat) (r : IrrRg) : Nat := if r.sram then tileBase t + r.lo else r.lo

/-- R132 condition 2: an output region overlaps an input region. -/
def rgClash (t : Nat) (a b : IrrRg) : Bool :=
  a.n != 0 && b.n != 0 && ((a.wr && b.rd) || (a.rd && b.wr))
  && decide (rgAddr t a < rgAddr t b + b.n ∧ rgAddr t b < rgAddr t a + a.n)

/-- Some two of the regions clash. -/
def rgsClash (t : Nat) : List IrrRg → Bool
  | [] => false
  | a :: r => r.any (rgClash t a) || rgsClash t r

/-- R132, R169: the regions' conditions, each over all regions before the next. -/
def irrRegionCheck (s : State) (t op md iobAddr : Nat) (b : List Byte) : Option Nat :=
  let rs := irrRegions op md b
  let ms := rs.filter fun r => !r.sram
  firstCode [
    need (rs.all fun r => !r.sram || r.n == 0 || decide (r.lo + r.n ≤ 4194304)) 0x0142,
    need (!rgsClash t (⟨iobAddr, 64, true, true, false⟩ :: rs)) 0x0155,
    need (ms.all fun r => inMap r.lo r.n) 0x0160,
    need (ms.all fun r => (!r.rd || declared s t r.lo r.n false) && (!r.wr || declared s t r.lo r.n true)) 0x0101,
    need (ms.all fun r => !windowOff s r.lo r.n) 0x0542]

/-- R128 to R131: an irregular operation issues. -/
def irrIssue (t : TileId) (op : Nat) (f : RegForm) (s : State) (x : TileSt) : SlotRes :=
  let md := f.md.val
  let a := sreg x f.sa.val
  if !irrModOk op md then .exc 0x0151 s
  else if a % 64 ≠ 0 ∨ 4194304 ≤ a then .exc 0x0150 s
  else
    match readMod ⟨some t.val, dieOf t.val⟩ (tileBase t.val + a + 16) 48 s with
    | .ue m s1 => .ue m s1
    | .ok bs s1 =>
      let b := zeros 16 ++ bs
      match firstCode [irrFields op md (dieOf t.val) b, irrDeps op md (dieOf t.val) b,
          irrRegionCheck s t.val op md a b] with
      | some c => .exc c s1
      | none => .ok [.irr ⟨op, md, a, b, false, 0, 0, 0⟩] s1

/-! ### Running an operation -/

/-- What an operation gives: STATUS, FLAGS, RESULT_COUNT, AUX_COUNT, the cursors of set operations, and the module
ranges that it wrote. -/
structure IrrOut where
  status : Nat
  flags  : Nat
  res    : Nat
  aux    : Nat
  curs   : Option (Nat × Nat × Nat)
  wrote  : List (Nat × Nat)
  deriving DecidableEq, Repr

/-- The 32-bit words of a byte string. -/
def words4 (n : Nat) (bs : List Byte) : List Nat := (List.range n).map fun i => fld bs (4 * i) 4

/-- Chunks of `k` bytes. -/
def chunks (k : Nat) : Nat → List Byte → List (List Byte)
  | 0, _ => []
  | n + 1, bs => bs.take k :: chunks k n (bs.drop k)

/-- Reads a region of an operation. -/
def irrRead (t a n : Nat) (s : State) : MemRes (List Byte) := if n = 0 then .ok [] s else readMod ⟨some t, dieOf t⟩ a n s

/-- Writes a list of (module address, bytes) in order. -/
def irrWrites (t : Nat) : List (Nat × List Byte) → State → MemRes Unit
  | [], s => .ok () s
  | (a, bs) :: r, s =>
    match writeMod ⟨some t, dieOf t⟩ a bs s with
    | .ue m z => .ue m z
    | .ok _ s1 => irrWrites t r s1

/-- R136: the target of BASE for an operation of tile `t`. -/
def gsBase (t : Nat) (o : IrrOp) : Nat := fld o.iob 0x10 8 + (if gsLocal o.op o.md then tileBase t else 0)

/-- R136: an element of `e` bytes, read as the 32-byte granules that hold it. -/
def readGranule (who : Acc) (a e : Nat) (s : State) : MemRes (List Byte) :=
  if 32 ≤ e then readMod who a e s
  else match readMod who (a / 32 * 32) 32 s with
    | .ue m z => .ue m z
    | .ok bs s1 => .ok ((bs.drop (a % 32)).take e) s1

/-- R136: GATHER, element by element. -/
def gatherLoop (t base lim e : Nat) : List Nat → Nat → State → MemRes Unit
  | [], _, s => .ok () s
  | i :: r, dst, s =>
    let got := if i < lim then readGranule ⟨some t, dieOf t⟩ (base + i * e) e s else .ok (zeros e) s
    match got with
    | .ue m z => .ue m z
    | .ok bs s1 =>
      match writeMod ⟨some t, dieOf t⟩ dst bs s1 with
      | .ue m z => .ue m z
      | .ok _ s2 => gatherLoop t base lim e r (dst + e) s2

/-- R136, R137: GATHER. -/
def runGather (t : Nat) (o : IrrOp) (s : State) : MemRes IrrOut :=
  let b := o.iob
  let n := fld b 0x1C 4
  let lim := fld b 0x18 4
  let e := 2 ^ byteAt b 0x28
  let dst := tileBase t + fld b 0x24 4
  match irrRead t (tileBase t + fld b 0x20 4) (4 * n) s with
  | .ue m z => .ue m z
  | .ok ib s1 =>
    let ix := words4 n ib
    match gatherLoop t (gsBase t o) lim e ix dst s1 with
    | .ue m z => .ue m z
    | .ok _ s2 =>
      let k := (ix.filter (· < lim)).length
      .ok ⟨0, 0, k, n - k, none, [(dst, n * e)]⟩ s2

/-- R136: the writes of SCATTER, in stream order. -/
def scatterWrites (base lim e : Nat) : List Nat → List (List Byte) → List (Nat × List Byte)
  | i :: r, bs :: q => (if i < lim then [(base + i * e, bs)] else []) ++ scatterWrites base lim e r q
  | _, _ => []

/-- R136, R137: SCATTER. -/
def runScatter (t : Nat) (o : IrrOp) (s : State) : MemRes IrrOut :=
  let b := o.iob
  let n := fld b 0x1C 4
  let lim := fld b 0x18 4
  let e := 2 ^ byteAt b 0x28
  match irrRead t (tileBase t + fld b 0x20 4) (4 * n) s with
  | .ue m z => .ue m z
  | .ok ib s1 =>
    match irrRead t (tileBase t + fld b 0x24 4) (n * e) s1 with
    | .ue m z => .ue m z
    | .ok db s2 =>
      let ws := scatterWrites (gsBase t o) lim e (words4 n ib) (chunks e n db)
      match irrWrites t ws s2 with
      | .ue m z => .ue m z
      | .ok _ s3 => .ok ⟨0, 0, ws.length, n - ws.length, none, ws.map fun w => (w.1, e)⟩ s3

/-! ### SCADD (R140 to R144) -/

/-- R140: a SCADD value as an EA640 value, with the flags of entering it. -/
def scaddValue (md : Nat) (bs : List Byte) : Ea × Nat :=
  match md / 4 % 8 with
  | 0 => eaOfX (decodeElem fmtFP32 (leNat bs))
  | 1 => eaOfX (decodeElem fmtBF16 (leNat bs))
  | 2 => eaOfX (decodeElem fmtFP16 (leNat bs))
  | 3 => eaOfX (decodeElem fmtINT32 (leNat bs))
  | _ => let e := eaOfBytes bs; (e, if e.tag = 3 then fNanInput else 0)

/-- R141: the additions of one index, and of a stream of indices. -/
def rowAdds (md base i rw : Nat) : List (List Byte) → Nat → List Addition × Nat
  | [], _ => ([], 0)
  | v :: r, w =>
    let (e, f) := scaddValue md v
    let (q, g) := rowAdds md base i rw r (w + 1)
    (⟨base + (i * rw + w) * 96, e⟩ :: q, fOr f g)

def scaddAdds (md base lim rw : Nat) : List Nat → List (List Byte) → List Addition × Nat
  | [], _ => ([], 0)
  | i :: r, vs =>
    let (q, g) := scaddAdds md base lim rw r (vs.drop rw)
    if i < lim then
      let (a, f) := rowAdds md base i rw (vs.take rw) 0
      (a ++ q, fOr f g)
    else (q, g)

/-- R141: a SCADD in ADD mode leaves its queue: its additions wait for the engines. -/
def scaddStart (t : Nat) (o : IrrOp) (s : State) : MemRes (IrrOp × List Addition) :=
  let b := o.iob
  let n := fld b 0x1C 4
  let lim := fld b 0x18 4
  let rw := byteAt b 0x2A
  let v := scaddSize o.md
  match irrRead t (tileBase t + fld b 0x20 4) (4 * n) s with
  | .ue m z => .ue m z
  | .ok ib s1 =>
    match irrRead t (tileBase t + fld b 0x24 4) (n * rw * v) s1 with
    | .ue m z => .ue m z
    | .ok db s2 =>
      let ix := words4 n ib
      let (as, f) := scaddAdds o.md (gsBase t o) lim rw ix (chunks v (n * rw) db)
      let k := (ix.filter (· < lim)).length
      .ok ({ o with started := true, inCnt := k, outCnt := n - k, flags := f }, as) s2

/-- R142: the engine that owns the accumulator at an address, by its first 32 bytes: a tile's, one of the stacked SRAM's
for each four banks (log entry 117), or a package controller's. -/
def engineOf (a : Nat) : Nat :=
  match addrLevel a with
  | 2 => 1000 + bankKey a / 4
  | 3 => 5000 + (lpChannel a).1
  | _ => tileOfAddr a

/-- R142: open slots of the engine of an address. -/
def engineSlots (a : Nat) : Nat := if addrLevel a = 3 then 64 else 16

/-- The run of the tile that makes an access, if one does. -/
def accRun (s : State) (who : Acc) : Option RunG := who.tile.bind (tileRunG s)

/-- R78: an accumulator as memory holds it; the infinities behind a NaN are those that this run has added (log entry 114). -/
def accValue (s : State) (who : Acc) (a : Nat) : Ea :=
  let e := eaOfBytes (memRead s.mem a 96)
  if e.tag = 3 then ⟨match accRun s who with | some r => tget r.infs a 0 | none => 0, 3⟩ else e

/-- R78: a run remembers the infinities behind an accumulator that it has made NaN. -/
def noteInfs (who : Acc) (a : Nat) (e : Ea) (s : State) : State :=
  match who.tile with
  | some t => if e.tag = 3 then modRunG s (tileSt s t).graph fun r => { r with infs := tput r.infs a (eaInfs e) } else s
  | none => s

/-- R143, R185: an addition into an open slot, which becomes the most recently used. Every read passes through the engine,
so memory shows the slot's value, and an error of the slot is met here; the read into the slot and its write-back are the
engine's traffic (log entry 117). -/
def slotAdd (who : Acc) (a : Addition) (opened : List Nat) (s : State) : MemRes Nat :=
  let s1 := correctIn a.addr 96 s
  match ueRead s a.addr 96 with
  | some m => .ue m s1
  | none =>
    let (e, f) := eaAdd (accValue s1 who a.addr) a.val
    .ok f (noteInfs who a.addr e { s1 with
      mem := memWrite s1.mem a.addr (eaBytes e)
      ecc := { s1.ecc with
        engines := tput s1.ecc.engines (engineOf a.addr) (opened.filter (· ≠ a.addr) ++ [a.addr]) } })

/-- R143, R185: the engine writes its least recently used slot back when every slot is taken; it meets an error of the slot
as it reads it. -/
def slotEvict (who : Acc) (a : Nat) (opened : List Nat) (s : State) : MemRes (List Nat) :=
  match opened with
  | v :: r =>
    if engineSlots a ≤ opened.length then
      match ueRead s v 96 with
      | some m => .ue m (correctIn v 96 s)
      | none =>
        match writeMod who v (memRead s.mem v 96) (correctIn v 96 s) with
        | .ue m z => .ue m z
        | .ok _ s1 => .ok r s1
    else .ok opened s
  | [] => .ok [] s

/-- R141, R143: an engine accepts an addition: in the accumulator's open slot, or in a free slot after it has read the
accumulator. -/
def engineAdd (who : Acc) (a : Addition) (s : State) : MemRes Nat :=
  let opened := tget s.ecc.engines (engineOf a.addr) []
  if opened.contains a.addr then slotAdd who a opened s
  else match slotEvict who a.addr opened s with
    | .ue m z => .ue m z
    | .ok free s1 =>
      match readMod who a.addr 96 s1 with
      | .ue m z => .ue m z
      | .ok _ s2 => slotAdd who a free s2

/-- Every waiting addition in turn, with the flags; those not accepted go on waiting. -/
def engineAll (t : Nat) : List Addition → State → MemRes Nat
  | [], s => .ok 0 s
  | a :: r, s =>
    match engineAdd ⟨some t, dieOf t⟩ a s with
    | .ue m z => .ue m z
    | .ok f s1 =>
      match engineAll t r (setTile s1 t { tileSt s1 t with adds := r }) with
      | .ue m z => .ue m z
      | .ok g s2 => .ok (fOr f g) s2

/-- R141: a SCADD completes: what its engines have not accepted yet, or the clear. -/
def runScadd (t : Nat) (o : IrrOp) (adds : List Addition) (s : State) : MemRes IrrOut :=
  let b := o.iob
  let base := gsBase t o
  if o.md % 4 = 1 then
    let n := fld b 0x18 4 * byteAt b 0x2A
    match writeMod ⟨some t, dieOf t⟩ base (zeros (96 * n)) s with
    | .ue m z => .ue m z
    | .ok _ s1 => .ok ⟨0, 0, n, 0, none, [(base, 96 * n)]⟩ s1
  else
    match engineAll t adds s with
    | .ue m z => .ue m z
    | .ok f s1 =>
      .ok ⟨0, Nat.land (fOr o.flags f) (fInvalid + fNanInput), o.inCnt, o.outCnt, none, adds.map fun a => (a.addr, 96)⟩ s1

/-! ### The set unit (R145 to R150) -/

/-- R145: an element of a stream: its position, key and bytes. -/
structure SetEl where
  pos : Nat
  key : Nat
  bs  : List Byte
  deriving DecidableEq, Repr

/-- R145: the elements of a stream from position `pos`; bytes 12 to 15 of a 16-byte element are written zero. -/
def setStream (kw e pos : Nat) : Nat → List Byte → List SetEl
  | 0, _ => []
  | n + 1, bs =>
    let x := bs.take e
    ⟨pos, fld x 0 kw, if e = 16 then x.take 12 ++ zeros 4 else x⟩ :: setStream kw e (pos + 1) n (bs.drop e)

/-- R150: the run of key `x` at the front of a stream, and what follows. -/
def runOf (x : Nat) : List SetEl → List SetEl × List SetEl
  | [] => ([], [])
  | y :: r => if y.key = x then let (a, b) := runOf x r; (y :: a, b) else ([], y :: r)

/-- R150: the element that ends a run lies below it. -/
def unsorted (x : Nat) (run rest : List SetEl) : Bool :=
  !run.isEmpty && match rest with | y :: _ => decide (y.key < x) | [] => false

/-- R146: the copies of one key that SETISECT, SETUNION and SETDIFF put out. -/
def setCopies (op md : Nat) (a b : List SetEl) : List SetEl :=
  if op = 0x10 then a.take (min a.length b.length)
  else if op = 0x11 then (if bitAt md 3 then a ++ b else a ++ b.drop a.length)
  else a.drop b.length

/-- What the set unit has done: its output newest first, the cursors, and how it ended. -/
structure SetRes where
  out    : List (List Byte)
  aRest  : List SetEl
  bRest  : List SetEl
  status : Nat
  aux    : Nat
  more   : Option (Nat × Nat × Nat)
  deriving DecidableEq, Repr

/-- R149: the pairs of a run, those before the resumed pair (`sa`, `sb`) left out. -/
def joinPairs (sa sb : Nat) (a b : List SetEl) : List (Nat × Nat) :=
  a.flatMap fun x => (b.filter fun y => !(x.pos == sa && decide (y.pos < sb))).map fun y => (x.pos, y.pos)

/-- R146 to R150: the keys in ascending order, each below `lim`; `fuel` bounds the number of keys. -/
def setLoop (op md cap sa sb lim : Nat) : Nat → List SetEl → List SetEl → List (List Byte) → Nat → SetRes
  | 0, a, b, out, _ => ⟨out, a, b, 0, 0, none⟩
  | fuel + 1, a, b, out, n =>
    let x := match a, b with
      | [], [] => lim
      | y :: _, [] => y.key
      | [], z :: _ => z.key
      | y :: _, z :: _ => min y.key z.key
    if lim ≤ x then ⟨out, a, b, 0, 0, none⟩
    else
      let (ra, qa) := runOf x a
      let (rb, qb) := runOf x b
      if unsorted x ra qa then ⟨out, a, b, 0x0152, 1, none⟩
      else if unsorted x rb qb then ⟨out, a, b, 0x0152, 2, none⟩
      else
        let ca := if bitAt md 2 then ra.take 1 else ra
        let cb := if bitAt md 2 then rb.take 1 else rb
        if op = 0x13 then
          let ps := joinPairs sa sb ca cb
          let out1 := ((ps.take (cap - n)).map fun p => leBytes 4 p.1 ++ leBytes 4 p.2).reverse ++ out
          match ps.drop (cap - n) with
          | p :: _ => ⟨out1, a, b, 0x0010, 0, some (p.1, p.2, (cb.map (·.pos)).headD 0)⟩
          | [] => setLoop op md cap sa sb lim fuel qa qb out1 (n + ps.length)
        else
          let cs := setCopies op md ca cb
          setLoop op md cap sa sb lim fuel qa qb ((cs.map (·.bs)).reverse ++ out) (n + cs.length)

/-- R148: the bound that a stream sets: +infinity where it ends with NA, the key of its last element, or 0 where an
open stream has none left. -/
def setBound (cont : Bool) (els : List SetEl) : Nat :=
  if cont then (match els.getLast? with | some e => e.key | none => 0) else 2 ^ 64

/-- The position of a stream's first unprocessed element. -/
def restPos (n : Nat) (r : List SetEl) : Nat := n - r.length

/-- R145 to R150: a set operation. -/
def runSet (t : Nat) (o : IrrOp) (s : State) : MemRes IrrOut :=
  let b := o.iob
  let mj := o.op == 0x13
  let e := setElem o.md
  let kw := if bitAt o.md 0 then 8 else 4
  let na := fld b 0x14 4
  let nb := fld b 0x1C 4
  let sa := fld b 0x28 4
  let sb := fld b 0x2C 4
  let b0 := if mj then fld b 0x30 4 else sb
  match irrRead t (tileBase t + fld b 0x10 4 + sa * e) ((na - sa) * e) s with
  | .ue m z => .ue m z
  | .ok ab s1 =>
    match irrRead t (tileBase t + fld b 0x18 4 + b0 * e) ((nb - b0) * e) s1 with
    | .ue m z => .ue m z
    | .ok bb s2 =>
      let as := setStream kw e sa (na - sa) ab
      let bs := setStream kw e b0 (nb - b0) bb
      let lim := min (setBound (bitAt o.md 4) as) (setBound (bitAt o.md 5) bs)
      let r := setLoop o.op o.md (fld b 0x24 4) sa sb lim (as.length + bs.length + 1) as bs [] 0
      let out := r.out.reverse.flatten
      let pa := restPos na r.aRest
      let pb := restPos nb r.bRest
      let stuck := r.status == 0 && pa == sa && pb == b0 && (decide (sa < na) || decide (b0 < nb))
      let curs := match r.more with | some c => c | none => (pa, pb, if mj then pb else 0)
      let dst := tileBase t + fld b 0x20 4
      match irrWrites t (if out.isEmpty then [] else [(dst, out)]) s2 with
      | .ue m z => .ue m z
      | .ok _ s3 =>
        .ok ⟨if stuck then 0x0154 else r.status, 0, r.out.length, r.aux, some curs, [(dst, out.length)]⟩ s3

/-! ### The hash unit (R151 to R157) -/

/-- R152: the home bucket of a key. -/
def homeBucket (k seed b : Nat) : Nat :=
  if b = 0 then 0 else (Nat.xor k seed * 0x9E3779B97F4A7C15 % 2 ^ 64) >>> (64 - b)

/-- R153: entries of a bucket, bytes of an entry and of a key. -/
def hEntries (k64 : Bool) : Nat := if k64 then 4 else 7
def hSize (k64 : Bool) : Nat := if k64 then 12 else 8
def hKey (k64 : Bool) : Nat := if k64 then 8 else 4

/-- R153: the occupied entry of a bucket that holds a key, and its lowest free entry. -/
def bucketFind (k64 : Bool) (bk : List Byte) (k : Nat) : Option Nat :=
  (List.range (hEntries k64)).find? fun e => bitAt (fld bk 0 8) e && fld bk (8 + hSize k64 * e) (hKey k64) == k
def bucketFree (k64 : Bool) (bk : List Byte) : Option Nat :=
  (List.range (hEntries k64)).find? fun e => !bitAt (fld bk 0 8) e

/-- R154: where a visit ends: a match in a bucket, a bucket that is not full, or the last full bucket. -/
inductive Visit where
  | found (b e : Nat) (bk : List Byte)
  | free (b e : Nat) (bk : List Byte)
  | full
  deriving DecidableEq, Repr

/-- R154: visits up to `fuel` buckets from bucket `h`, of `nb` buckets at module address `tab`. -/
def hashVisit (who : Acc) (tab nb : Nat) (k64 : Bool) (k : Nat) : Nat → Nat → State → MemRes Visit
  | 0, _, s => .ok .full s
  | fuel + 1, h, s =>
    match readMod who (tab + 64 * h) 64 s with
    | .ue m z => .ue m z
    | .ok bk s1 =>
      match bucketFind k64 bk k with
      | some e => .ok (.found h e bk) s1
      | none =>
        match bucketFree k64 bk with
        | some e => .ok (.free h e bk) s1
        | none => hashVisit who tab nb k64 k fuel ((h + 1) % nb) s1

/-- R156: a result. -/
def hashResult (value slot : Nat) (ins full found : Bool) : Nat :=
  value % 2 ^ 32 + slot * 2 ^ 32 + b2n ins * 2 ^ 61 + b2n full * 2 ^ 62 + b2n found * 2 ^ 63

/-- R155: the value of a matched entry after HINSERT. -/
def hashMatched (imode old new : Nat) : Nat :=
  if imode = 1 then new else if imode = 2 then (old + new) % 2 ^ 32 else old

/-- R154 to R156: one key: its result, whether it counts in RESULT_COUNT, and whether in AUX_COUNT. -/
def hashKey (who : Acc) (tab lb p seed : Nat) (k64 ins : Bool) (imode dflt k v : Nat) (s : State) : MemRes (Nat × Bool × Bool) :=
  match hashVisit who tab (2 ^ lb) k64 k p (homeBucket k seed lb) s with
  | .ue m z => .ue m z
  | .ok (.found b e bk) s1 =>
    let off := 8 + hSize k64 * e + hKey k64
    let old := fld bk off 4
    let slot := b * hEntries k64 + e
    if ins then
      let new := hashMatched imode old v
      if imode = 0 then .ok (hashResult old slot false false true, false, false) s1
      else
        match writeMod who (tab + 64 * b) (spliceAt bk off (leBytes 4 new)) s1 with
        | .ue m z => .ue m z
        | .ok _ s2 => .ok (hashResult new slot false false true, false, false) s2
    else .ok (hashResult old slot false false true, true, false) s1
  | .ok (.free b e bk) s1 =>
    if ins then
      let off := 8 + hSize k64 * e
      let bk1 := spliceAt bk off (leBytes (hKey k64) k ++ leBytes 4 v)
      let bk2 := spliceAt bk1 0 (leBytes 8 (Nat.lor (fld bk 0 8) (2 ^ e)))
      match writeMod who (tab + 64 * b) bk2 s1 with
      | .ue m z => .ue m z
      | .ok _ s2 => .ok (hashResult v (b * hEntries k64 + e) true false false, true, false) s2
    else .ok (hashResult dflt 0 false false false, false, false) s1
  | .ok .full s1 =>
    if ins then .ok (hashResult v 0 false true false, false, true) s1
    else .ok (hashResult dflt 0 false false false, false, false) s1

/-- Keys in stream order: results, RESULT_COUNT and AUX_COUNT. -/
def hashKeys (who : Acc) (tab lb p seed : Nat) (k64 ins : Bool) (imode dflt : Nat) :
    List (Nat × Nat) → State → MemRes (List Nat × Nat × Nat)
  | [], s => .ok ([], 0, 0) s
  | (k, v) :: r, s =>
    match hashKey who tab lb p seed k64 ins imode dflt k v s with
    | .ue m z => .ue m z
    | .ok (x, c, a) s1 =>
      match hashKeys who tab lb p seed k64 ins imode dflt r s1 with
      | .ue m z => .ue m z
      | .ok (xs, n, q) s2 => .ok (x :: xs, n + b2n c, q + b2n a) s2

/-- R155: the buckets that HINSERT wrote, by its results. -/
def hashWrote (tab : Nat) (k64 : Bool) (imode : Nat) (xs : List Nat) : List (Nat × Nat) :=
  xs.filterMap fun x =>
    if bitAt x 61 || (bitAt x 63 && imode != 0) then some (tab + 64 * (bitsOf x 60 32 / hEntries k64), 64) else none

/-- R151 to R157: HINSERT and HPROBE. -/
def runHash (t : Nat) (o : IrrOp) (s : State) : MemRes IrrOut :=
  let b := o.iob
  let ins := o.op == 0x20
  let k64 := bitAt o.md 0
  let n := fld b 0x1C 4
  let kw := hKey k64
  let tab := fld b 0x10 8 + (if bitAt o.md 1 then tileBase t else 0)
  let lb := byteAt b 0x18
  match irrRead t (tileBase t + fld b 0x28 4) (n * kw) s with
  | .ue m z => .ue m z
  | .ok kb s1 =>
    match irrRead t (tileBase t + fld b 0x2C 4) (if ins then 4 * n else 0) s1 with
    | .ue m z => .ue m z
    | .ok vb s2 =>
      let ks := (List.range n).map fun i => (fld kb (kw * i) kw, fld vb (4 * i) 4)
      match hashKeys ⟨some t, dieOf t⟩ tab lb (byteAt b 0x19) (fld b 0x20 8) k64 ins (o.md / 4 % 4) (fld b 0x34 4) ks s2 with
      | .ue m z => .ue m z
      | .ok (xs, c, a) s3 =>
        let dst := tileBase t + fld b 0x30 4
        match irrWrites t (if n = 0 then [] else [(dst, xs.flatMap (leBytes 8))]) s3 with
        | .ue m z => .ue m z
        | .ok _ s4 =>
          .ok ⟨if a = 0 then 0 else 0x0230, 0, c, a, none,
            (dst, 8 * n) :: (if ins then hashWrote tab k64 (o.md / 4 % 4) xs else [])⟩ s4

/-! ### The sort unit (R158 to R161) -/

/-- R159: the number by which a sort key is ordered. -/
def sortKey (md : Nat) (el : List Byte) : Nat :=
  let k := fld el 0 4
  match md % 4 with
  | 0 => k
  | 1 => Nat.xor k 0x80000000
  | 2 => if bitAt k 31 then Nat.xor k 0xFFFFFFFF else Nat.xor k 0x80000000
  | _ => fld el 0 8

/-- R159: stable order, ascending or descending. -/
def sortEls (md : Nat) (els : List (List Byte)) : List (List Byte) :=
  (lsort (fun (a b : Nat × List Byte) => if bitAt md 3 then decide (b.1 < a.1) else decide (a.1 < b.1))
    (els.map fun e => (sortKey md e, if sortElem md = 16 then e.take 12 ++ zeros 4 else e))).map (·.2)

/-- R158, R159: SORT; the source is undefined afterwards. -/
def runSort (t : Nat) (o : IrrOp) (s : State) : MemRes IrrOut :=
  let b := o.iob
  let e := sortElem o.md
  let n := fld b 0x18 4
  let src := tileBase t + fld b 0x10 4
  let dst := tileBase t + fld b 0x14 4
  match irrRead t src (n * e) s with
  | .ue m z => .ue m z
  | .ok sb s1 =>
    let out := (sortEls o.md (chunks e n sb)).flatten
    match irrWrites t (if n = 0 then [] else [(dst, out)]) s1 with
    | .ue m z => .ue m z
    | .ok _ s2 => .ok ⟨0, 0, n, 0, none, [(src, n * e), (dst, n * e)]⟩ (undefine src (n * e) s2)

/-- R161: whether a block is forced. -/
def selForced (sink lw q i : Nat) : Bool := decide (i < sink) || (decide (q < i + lw) && decide (i ≤ q))

/-- R161: block `a` ranks before block `b`: a higher score, NaN below −infinity, equal scores by number. -/
def selBefore (a b : Nat × Lane) : Bool :=
  let rank (x : Lane) : Option Int := if fp32 x = .nan then none else some (fpCmpKey x)
  match rank a.2, rank b.2 with
  | some u, some v => decide (v < u) || (u == v && decide (a.1 < b.1))
  | some _, none => true
  | none, some _ => false
  | none, none => decide (a.1 < b.1)

/-- R161: the blocks chosen, in ascending order. -/
def selBlocks (sink lw q k : Nat) (scores : List Lane) : List Nat :=
  let all := (List.range scores.length).map fun i => (i, laneAt scores i)
  let best := ((lsort selBefore (all.filter fun c => !selForced sink lw q c.1)).take k).map (·.1)
  (List.range scores.length).filter fun i => selForced sink lw q i || best.contains i

/-- R160, R161: SELECTK. -/
def runSelectk (t : Nat) (o : IrrOp) (s : State) : MemRes IrrOut :=
  let b := o.iob
  let blk := selBlk o.md
  let q := fld b 0x18 4 / blk
  let cands := if bitAt o.md 2 then ceilDiv (fld b 0x14 4) blk else q + 1
  match irrRead t (tileBase t + fld b 0x10 4) (4 * cands) s with
  | .ue m z => .ue m z
  | .ok sb s1 =>
    let out := selBlocks (byteAt b 0x1E) (fld b 0x20 2) q (fld b 0x1C 2) ((words4 cands sb).map (BitVec.ofNat 32))
    let dst := tileBase t + fld b 0x24 4
    match irrWrites t (if out.isEmpty then [] else [(dst, out.flatMap (leBytes 4))]) s1 with
    | .ue m z => .ue m z
    | .ok _ s2 => .ok ⟨0, 0, out.length, cands, none, [(dst, 4 * out.length)]⟩ s2

/-! ### The queue of a unit (R130) -/

/-- What an operation of a tile does from start to completion; `adds` are the additions its engines still owe. -/
def irrRun (t : Nat) (o : IrrOp) (adds : List Addition) (s : State) : MemRes IrrOut :=
  if o.op = 0x01 then runGather t o s
  else if o.op = 0x02 then runScatter t o s
  else if o.op = 0x03 then runScadd t o adds s
  else if o.op < 0x20 then runSet t o s
  else if o.op < 0x30 then runHash t o s
  else if o.op = 0x30 then runSort t o s
  else runSelectk t o s

/-- The first operation of a unit in a tile's queue that satisfies `p`, with the others. -/
def irrTake (u : Nat) (p : IrrOp → Bool) (x : TileSt) : Option IrrOp :=
  match x.irrs.find? fun o => irrUnit o.op == u with
  | some o => if p o then some o else none
  | none => none

/-- R130: an operation leaves its unit's queue: the oldest of the unit, one at a time. -/
def irrDequeue (t u : Nat) (s : State) : State :=
  let x := tileSt s t
  if x.stopped.isSome then s
  else match irrTake u (!·.started) x with
    | none => s
    | some o =>
      let put (o2 : IrrOp) (as : List Addition) (s : State) : State :=
        setTile s t { tileSt s t with
          irrs := o2 :: leraseFirst (fun y => irrUnit y.op == u) (tileSt s t).irrs
          adds := if u = 0 then as else (tileSt s t).adds }
      if o.op = 0x03 ∧ o.md % 4 = 0 then
        match scaddStart t o s with
        | .ok (o2, as) s1 => put o2 as s1
        | .ue m z => ueTile t m z
      else put { o with started := true } [] s

/-- R129, R145: what the unit writes into the IOB. -/
def iobWrite (t : Nat) (o : IrrOp) (r : IrrOut) (s : State) : MemRes Unit :=
  let a := tileBase t + o.iobAddr
  irrWrites t ((a, leBytes 4 r.status ++ leBytes 4 r.flags ++ leBytes 4 r.res ++ leBytes 4 r.aux) ::
    match r.curs with
    | some (c, d, e) => [(a + 0x28, leBytes 4 c ++ leBytes 4 d ++ leBytes 4 e)]
    | none => []) s

/-- R122: notes the tile SRAM among the ranges written. -/
def noteAll (t : Nat) : List (Nat × Nat) → State → State
  | [], s => s
  | (a, n) :: r, s => noteAll t r (if addrLevel a = 1 then noteWrote t a n s else s)

/-- R129, R145: the bytes of its IOB that a unit writes. -/
def iobWrote (t : Nat) (o : IrrOp) : List (Nat × Nat) :=
  let a := tileBase t + o.iobAddr
  (a, 16) :: (if 0x10 ≤ o.op ∧ o.op ≤ 0x13 then [(a + 0x28, 12)] else [])

/-- R130, R134: the started operation of a unit completes. One that meets an uncorrectable error stays outstanding, so
that the discard makes what it would have written undefined. -/
def irrComplete (t u : Nat) (s : State) : State :=
  let x := tileSt s t
  if x.stopped.isSome then s
  else match x.irrs.find? fun o => irrUnit o.op == u && o.started with
    | none => s
    | some o =>
      let s0 := setTile s t { x with irrs := leraseFirst (fun y => irrUnit y.op == u && y.started) x.irrs }
      let stay (z : State) : State := setTile z t { tileSt z t with irrs := x.irrs }
      match irrRun t o x.adds s0 with
      | .ue m z => ueTile t m (stay z)
      | .ok r s1 =>
        match iobWrite t o r s1 with
        | .ue m z => ueTile t m (stay z)
        | .ok _ s2 => noteAll t (iobWrote t o ++ r.wrote) (addFlags t r.flags s2)

/-- R143: an engine accepts one of the additions that wait, whichever the engines reach first. -/
def scaddAccept (t i : Nat) (s : State) : State :=
  let x := tileSt s t
  if x.stopped.isSome then s
  else match x.adds[i]? with
    | none => s
    | some a =>
      match engineAdd ⟨some t, dieOf t⟩ a s with
      | .ue m z => ueTile t m z
      | .ok f s1 =>
        let y := tileSt s1 t
        (if addrLevel a.addr = 1 then noteWrote t a.addr 96 else id)
          (setTile s1 t { y with
            adds := x.adds.eraseIdx i
            irrs := y.irrs.map fun o => if o.op = 0x03 ∧ o.started then { o with flags := fOr o.flags f } else o })

/-- R140: a SCADD in ADD mode. -/
def isAdd (o : IrrOp) : Bool := o.op == 0x03 && o.md % 4 == 0

/-- R141: the additions that a SCADD still owes: those that wait at the engines, or, before it starts, all of them. -/
def owedAdds (t : Nat) (o : IrrOp) (s : State) : List Addition :=
  if o.started then (tileSt s t).adds
  else match scaddStart t o s with | .ok r _ => r.2 | .ue _ _ => []

/-- R134, R137, R144: what the operations of a tile, stopped by a discard, would have written, each one as if those before
it had completed; and the additions that scatter-adds among them owe, whose accumulators are not undefined. The state given
holds no errors, so that an operation that met one counts what it would have written without it (log entry 132). -/
def irrRanges (t : Nat) : List IrrOp → State → List (Nat × Nat) × List Addition
  | [], _ => ([], [])
  | o :: r, s =>
    let owed := if isAdd o then owedAdds t o s else []
    match irrRun t o owed s with
    | .ok w s1 =>
      let (rs, as) := irrRanges t r s1
      (iobWrote t o ++ (if isAdd o then [] else w.wrote) ++ rs, owed ++ as)
    | .ue _ s1 =>
      let all := (irrRegions o.op o.md o.iob).filterMap fun g => if g.wr then some (rgAddr t g, g.n) else none
      let (rs, as) := irrRanges t r s1
      (iobWrote t o ++ (if isAdd o then [] else all) ++ rs, owed ++ as)

/-- The state without errors in its memories. -/
def faultless (s : State) : State := { s with ecc := { s.ecc with marks := [], armed := none } }

/-- R144: an open choice of a discarded command's additions reaches its accumulators. -/
def someAdds (t k : Nat) : Nat → List Addition → State → State
  | _, [], s => s
  | i, a :: r, s =>
    someAdds t k (i + 1) r (if Config.freeBool k i then
        (match engineAdd ⟨some t, dieOf t⟩ a s with | .ok _ s1 => s1 | .ue _ s1 => s1)
      else s)

/-! ### The commands -/

def execGather (t : TileId) (f : RegForm) (s : State) : Host.Outcome State Fault Refusal :=
  .next (issueReg t 4 0x01 f (irrIssue t 0x01 f) s)

def execScatter (t : TileId) (f : RegForm) (s : State) : Host.Outcome State Fault Refusal :=
  .next (issueReg t 4 0x02 f (irrIssue t 0x02 f) s)

def execScadd (t : TileId) (f : RegForm) (s : State) : Host.Outcome State Fault Refusal :=
  .next (issueReg t 4 0x03 f (irrIssue t 0x03 f) s)

def execSetisect (t : TileId) (f : RegForm) (s : State) : Host.Outcome State Fault Refusal :=
  .next (issueReg t 4 0x10 f (irrIssue t 0x10 f) s)

def execSetunion (t : TileId) (f : RegForm) (s : State) : Host.Outcome State Fault Refusal :=
  .next (issueReg t 4 0x11 f (irrIssue t 0x11 f) s)

def execSetdiff (t : TileId) (f : RegForm) (s : State) : Host.Outcome State Fault Refusal :=
  .next (issueReg t 4 0x12 f (irrIssue t 0x12 f) s)

def execMjoin (t : TileId) (f : RegForm) (s : State) : Host.Outcome State Fault Refusal :=
  .next (issueReg t 4 0x13 f (irrIssue t 0x13 f) s)

def execHinsert (t : TileId) (f : RegForm) (s : State) : Host.Outcome State Fault Refusal :=
  .next (issueReg t 4 0x20 f (irrIssue t 0x20 f) s)

def execHprobe (t : TileId) (f : RegForm) (s : State) : Host.Outcome State Fault Refusal :=
  .next (issueReg t 4 0x21 f (irrIssue t 0x21 f) s)

def execSort (t : TileId) (f : RegForm) (s : State) : Host.Outcome State Fault Refusal :=
  .next (issueReg t 4 0x30 f (irrIssue t 0x30 f) s)

def execSelectk (t : TileId) (f : RegForm) (s : State) : Host.Outcome State Fault Refusal :=
  .next (issueReg t 4 0x31 f (irrIssue t 0x31 f) s)

/-- R130: the oldest operation of unit `u` (0 gather/scatter, 1 set, 2 hash, 3 sort) starts. -/
def execIrrOpDequeue (t : TileId) (u : Fin 4) (s : State) : Host.Outcome State Fault Refusal :=
  .next (irrDequeue t.val u.val s)

/-- R130: the running operation of unit `u` completes. -/
def execIrrOpComplete (t : TileId) (u : Fin 4) (s : State) : Host.Outcome State Fault Refusal :=
  .next (irrComplete t.val u.val s)

/-- R143: waiting addition `i` is accepted. -/
def execScaddAccept (t : TileId) (i : Nat) (s : State) : Host.Outcome State Fault Refusal :=
  .next (scaddAccept t.val i s)

end Sys2Proof.Machine
end

