-- ==== Sys2Proof/Machine/Float.lean ====
section
/-! DEFINITION. Float: pacing slots, credit power, requests and their age order, Filler, and the duty in force, which the
rows of chapters 01, 03 and 09 share (R21 to R39, R326 to R336). -/
namespace Sys2Proof.Machine

/-! ### Parts that each die has -/

def fSlot (s : State) (d : Nat) : Option Nat := if d = 0 then s.flt.slot0 else s.flt.slot1
def fRot (s : State) (d : Nat) : Nat := if d = 0 then s.flt.rot0 else s.flt.rot1
def fDuty (s : State) (d : Nat) : Nat := if d = 0 then s.flt.duty0 else s.flt.duty1
def fPace (s : State) (d : Nat) : Nat := if d = 0 then s.flt.pace0 else s.flt.pace1
def fPoint (s : State) (d : Nat) : Nat := if d = 0 then s.flt.point0 else s.flt.point1
def fDyn (s : State) (d : Nat) : Nat := if d = 0 then s.flt.dyn0 else s.flt.dyn1
def fDie (s : State) (d : Nat) : Nat := if d = 0 then s.flt.die0 else s.flt.die1
def fCore (s : State) (d : Nat) : Nat := if d = 0 then s.flt.core0 else s.flt.core1
def fOther (s : State) (d : Nat) : Nat := if d = 0 then s.flt.other0 else s.flt.other1
def fDeclined (s : State) (d : Nat) : Bool := if d = 0 then s.flt.declined0 else s.flt.declined1
def setSlot (d t : Nat) (s : State) : State :=
  modFlt (fun f => if d = 0 then { f with slot0 := some t } else { f with slot1 := some t }) s
def setRot (d v : Nat) (s : State) : State := modFlt (fun f => if d = 0 then { f with rot0 := v } else { f with rot1 := v }) s
def setDuty (d v : Nat) (s : State) : State := modFlt (fun f => if d = 0 then { f with duty0 := v } else { f with duty1 := v }) s
def setPace (d v : Nat) (s : State) : State := modFlt (fun f => if d = 0 then { f with pace0 := v } else { f with pace1 := v }) s
def setPoint (d v : Nat) (s : State) : State := modFlt (fun f => if d = 0 then { f with point0 := v } else { f with point1 := v }) s
def setDeclined (d : Nat) (v : Bool) (s : State) : State :=
  modFlt (fun f => if d = 0 then { f with declined0 := v } else { f with declined1 := v }) s

/-! ### Duty and voltage (R316, R327) -/

/-- R327: the duty in force. -/
def dutyInForce (s : State) (d : Nat) : Nat :=
  if odv s oBRAKE_ACTIVE = 1 then 1 else min (fDuty s d) (fPace s d)

/-- R327: reports the duty in force of both dies. -/
def showDuty (s : State) : State := odSet (odSet s oDUTY (dutyInForce s 0)) (oDUTY + 1) (dutyInForce s 1)

/-- R316: the cluster of a tile. -/
def clusterOf (t : Nat) : Nat := let n := t % 144; 4 * (n / 36) + n % 12 / 3

/-- R316: a die with a tile not in off. -/
def dieHasTile (s : State) (d : Nat) : Bool := (List.range 144).any fun n => (tileSt s (d * 144 + n)).mode != .off

/-- R316: the voltage of die `d` at point `i`: the largest over its clusters with a tile not in off; of a die whose tiles are
all off the largest over all of them (log entry 136). -/
def voltAt (s : State) (d i : Nat) : Nat :=
  let all := !dieHasTile s d
  lmax ((List.range 144).map fun n =>
    let t := d * 144 + n
    if all || (tileSt s t).mode != .off then odv s (oVOLT_TABLE + 256 * (16 * d + clusterOf t) + i) else 0)

/-- R317: the point whose voltage a die has: that of a raise which settles, and else its own. -/
def voltPoint (s : State) (d : Nat) : Nat := (tfind s.flt.settle d).getD (fPoint s d)

/-- R316, R317, R377: the die's VCORE setpoint and frequency follow its point; a new setpoint is not settled yet. -/
def showVolt (d : Nat) (s : State) : State :=
  let v := voltAt s d (voltPoint s d)
  let s1 := if v = odv s (oDIE_VCORE + d) then s else odBit s (oRAIL_FLAGS + 256 * d) 1 false
  odSet s1 (oDIE_VCORE + d) v
def showFreq (d : Nat) (s : State) : State := odSet s (oDIE_FREQ_MHZ + d) (600 + 100 * fPoint s d)

/-! ### Pacing and power (R26, R27, R331) -/

/-- R26: T_g in ns at a slew limit of `sl` tenths of an A/µs. -/
def grantGap (sl : Nat) : Nat := max (ceilDiv 50000 sl) (ceilDiv 1000 (max 1 (sl / 50)))

/-- R26: the rail's next slot may be used now: T_g, at the slew limit in force, has passed since the last one. -/
def slotOpen (s : State) (d : Nat) : Bool :=
  match fSlot s d with
  | none => true
  | some t => decide (t + grantGap (odv s (oSLEW_LIMIT_CORE0 + d)) ≤ s.now)

/-- R26: a slot of the rail's pacing stream is used. -/
def useSlot (d : Nat) (s : State) : State := setSlot d s.now s

/-- R335: the input power that a Filler level stands for. -/
def levelPower (s : State) (d l : Nat) : Nat := l * creditPower s d / 15

/-- R331: P_proj. -/
def pProj (s : State) : Int := (s.flt.pEst : Int) + s.flt.proj

/-- R27, R331: the limit admits `p` more. -/
def admits (s : State) (p : Nat) : Bool := decide (pProj s + (p : Int) ≤ (s.flt.pLim : Int))

/-- R331: a grant or a release counts in P_proj; R313: a grant counts since the last measurement. -/
def addProj (p : Int) (s : State) : State :=
  modFlt (fun f => { f with proj := f.proj + p, sinceIn := f.sinceIn + p.toNat }) s

/-! ### What a die draws at a point (R29, R311) -/

/-- R311: a core-scaled power at a VCORE setpoint in 0.1 mV. -/
def vScale (v p : Nat) : Nat := p * v * v / (7500 * 7500)

/-- R312: a raw power with the calibration factor. -/
def calibrated (s : State) (p : Nat) : Nat := p * s.flt.corr / 2 ^ 32

/-- R311: the hottest cluster temperature of a die, 0.1 °C. -/
def dieTemp (s : State) (d : Nat) : Int :=
  (List.range 15).foldl (fun m c => max m (sxt 16 (odv s (oT_SENSOR + 16 * d + c + 1)))) (sxt 16 (odv s (oT_SENSOR + 16 * d)))

/-- The last of the points 1 to `n` of a table that is at or below `x`, else point 0. -/
def tablePoint (at_ : Nat → Int) : Nat → Int → Nat
  | 0, _ => 0
  | n + 1, x => if at_ (n + 1) ≤ x then n + 1 else tablePoint at_ n x

/-- Linear interpolation between two points of a table, held at its ends. -/
def interpolate (x0 x1 y0 y1 x : Int) : Int := y0 + (y1 - y0) * (max x0 (min x x1) - x0) / max 1 (x1 - x0)

/-- R311: a die's leakage at a setpoint: the factory table, interpolated in voltage and in temperature (log entry 101). -/
def leakAt (s : State) (d v : Nat) : Nat :=
  let volt (i : Nat) : Int := Config.leakVolt i
  let i := tablePoint volt 14 v
  let j := tablePoint Config.leakTemp 6 (dieTemp s d)
  let row (i : Nat) : Int := interpolate (Config.leakTemp j) (Config.leakTemp (j + 1)) (Config.leakPower d i j)
    (Config.leakPower d i (j + 1)) (dieTemp s d)
  (interpolate (volt i) (volt (i + 1)) (row i) (row (i + 1)) v).toNat

/-- R29: the power estimated for die `d` at point `i` and a setpoint: its core-scaled events follow the tile clock (log
entry 102). -/
def diePower (s : State) (d i v : Nat) : Nat :=
  calibrated s (vScale v (fCore s d * (6 + i) / (6 + fPoint s d)) + fOther s d + leakAt s d v)

/-- R311: no estimator window has been counted, so that the state holds no estimate; a command that needs one brings it (log
entry 104). -/
def untold (s : State) : Bool := s.flt.pRaw == 0

/-- The difference of two powers. -/
def powerGap (a b : Nat) : Nat := if a < b then b - a else a - b

/-- R29, R317: the estimated change of a die's power with one point up or down, and with a new setpoint. -/
def pointGap (s : State) (d i : Nat) : Nat :=
  powerGap (diePower s d (fPoint s d) (odv s (oDIE_VCORE + d))) (diePower s d i (voltAt s d i))
def voltGap (s : State) (d v : Nat) : Nat :=
  powerGap (diePower s d (fPoint s d) (odv s (oDIE_VCORE + d))) (diePower s d (fPoint s d) v)

/-! ### Age order (R24, R28, R29, R38, R39) -/

/-- R38: the waiting time of a stamp, in units of 256 ns. -/
def waitOf (s : State) (stamp : Nat) : Nat := min 2047 ((stampNow s + 4096 - stamp) % 4096)

/-- R29, R37: a requester of die `d`: its input (0 to 143 a tile, 144 and up a die-level step, by its kind), its stamp, and
the place of a step in Float's list. -/
structure Req where
  inp   : Nat
  stamp : Nat
  place : Option Nat
  deriving DecidableEq, Repr

/-- R25: the tile requests of a die. -/
def tileReqs (s : State) (d : Nat) : List Req :=
  (List.range 144).filterMap fun n => (tileSt s (d * 144 + n)).req.map fun r => ⟨n, r.1, none⟩

/-- R29: the die-level steps of a die. -/
def stepReqs (s : State) (d : Nat) (p : DieStep → Bool) : List Req :=
  (List.range s.flt.steps.length).filterMap fun i =>
    match s.flt.steps[i]? with
    | some x => if x.die = d ∧ p x then some ⟨144 + x.kind, x.stamp, some i⟩ else none
    | none => none

/-- The die-level step that a request is. -/
def stepOf (s : State) (r : Req) : Option DieStep :=
  match r.place with
  | some i => s.flt.steps[i]?
  | none => none

/-- R39: input `a` comes before `b` when the rotation begins at `rot`. -/
def rotBefore (rot a b : Nat) : Bool := decide ((a + 512 - rot) % 512 < (b + 512 - rot) % 512)

/-- R37 to R39: the requester served first. -/
def oldest (s : State) (rot : Nat) : List Req → Option Req
  | [] => none
  | r :: q =>
    match oldest s rot q with
    | none => some r
    | some b =>
      if waitOf s b.stamp < waitOf s r.stamp ∨ (waitOf s b.stamp = waitOf s r.stamp ∧ rotBefore rot r.inp b.inp)
      then some r else some b

/-- R39: whether another requester waits exactly as long. -/
def ageTie (s : State) (r : Req) (rs : List Req) : Bool :=
  rs.any fun q => q != r && waitOf s q.stamp == waitOf s r.stamp

/-- R29: a step that has used a slot. -/
def begun (x : DieStep) : Bool := x.left != x.total

/-- R29: the step of a direction that has used a slot and not yet its last. -/
def begunStep (s : State) (d : Nat) (up : Bool) : Option Req := (stepReqs s d fun x => x.up == up && begun x).head?

/-- R27, R29: the headroom that a request asks for: none for a step that lowers power. -/
def reqPower (s : State) (d : Nat) (r : Req) : Nat :=
  match stepOf s r with
  | some x => if x.up then x.left * creditPower s d else 0
  | none => creditPower s d

/-- R27, R29: what asks a die's rail for headroom: tile requests and raising steps. -/
def raiseReqs (s : State) (d : Nat) : List Req := tileReqs s d ++ stepReqs s d (·.up)

/-- R29, R37, R332: the first of them, which no younger one passes: a step that has begun, or the oldest. -/
def raiseHead (s : State) (d : Nat) : Option Req :=
  match begunStep s d true with
  | some r => some r
  | none => oldest s (fRot s d) (raiseReqs s d)

/-- R340: a pace step is taken only when its fall, on top of those taken, keeps P_proj at or above P_ref less the band. -/
def paceAdmits (s : State) (x : DieStep) : Bool :=
  x.kind != 1 || begun x ||
    decide (((s.flt.pRef.getD s.flt.pEst : Nat) : Int) - ((odv s oRAMP_BAND_W * 1000000000 : Nat) : Int)
      ≤ pProj s - (s.flt.fell : Int) - (x.size : Int))

/-- R29: the lowering steps of a die, which need no headroom. -/
def fallReqs (s : State) (d : Nat) : List Req := stepReqs s d fun x => !x.up && paceAdmits s x

/-- R27, R29: the headroom admits a request, and no brake stops it. -/
def headroom (s : State) (d : Nat) (r : Req) : Bool := odv s oBRAKE_ACTIVE != 1 && admits s (reqPower s d r)

/-- R28: the request of the other die with which this one shares a headroom that admits only one of them. -/
def rival (s : State) (d : Nat) (r : Req) : Option Req :=
  match raiseHead s (1 - d) with
  | none => none
  | some o =>
    if reqPower s d r ≠ 0 ∧ admits s (reqPower s d r + reqPower s (1 - d) o) = false then some o else none

/-- R28: the rival is older, or as old and its die's turn: the headroom is held for it. -/
def yields (s : State) (d : Nat) (r : Req) : Bool :=
  match rival s d r with
  | some o => decide (waitOf s r.stamp < waitOf s o.stamp) || (waitOf s r.stamp == waitOf s o.stamp && s.flt.turn != d)
  | none => false

/-- R29: what takes the next slot of die `d`: a step that has begun; else the oldest of the lowering steps and of the
first request for headroom, which the lowering steps pass while it is held, for want of headroom or for the other die's
rival (R28). -/
def railHead (s : State) (d : Nat) : Option Req :=
  match begunStep s d false with
  | some r => some r
  | none =>
    match raiseHead s d with
    | none => oldest s (fRot s d) (fallReqs s d)
    | some r =>
      if headroom s d r then
        if (begunStep s d true).isSome then some r
        else oldest s (fRot s d) (if yields s d r then fallReqs s d else r :: fallReqs s d)
      else oldest s (fRot s d) (fallReqs s d)

/-- R28: after a grant against a rival of equal age the other die comes first. -/
def flipTurn (d : Nat) (r : Req) (s0 s : State) : State :=
  match rival s0 d r with
  | some o => if waitOf s0 o.stamp = waitOf s0 r.stamp then modFlt (fun f => { f with turn := 1 - d }) s else s
  | none => s

/-- R39: the rotation of a rail moves past the input granted, where another waited as long (log entry 35). -/
def turnRail (d : Nat) (r : Req) (s0 s : State) : State :=
  if ageTie s0 r (raiseReqs s0 d ++ fallReqs s0 d) then setRot d (r.inp + 1) s else s

/-- R38: a request granted at 2,047 units whose event is not yet logged. -/
def ageLog (r : Req) (sat : Bool) (src : Nat) (c : EvCmd) (s0 s : State) : State :=
  if sat = false ∧ waitOf s0 r.stamp = 2047 then logEvent evAGE_SATURATED src r.stamp 0 c s else s

/-! ### Tiles: states, readiness, requests and Filler -/

/-- R110, R482: a tile changes state. -/
def setMode (t : Nat) (m : TileMode) (s : State) : State :=
  let x := tileSt s t
  let s1 := setTile s t { x with mode := m }
  if x.mode = m then s1
  else trace 3 0x07 (srcTile t) 0 (tileLayer s t) (modeNum x.mode + 4 * modeNum m) 0 s1

/-- R100, R23: the tokens on an input queue, and the credit of an output queue: the smallest of its counts. -/
def iqToks (x : TileSt) (q : Nat) : List Token := match tfind x.iqs q with | some i => i.toks | none => []
def oqCredit (x : TileSt) (q : Nat) : Nat :=
  match tfind x.oqs q with
  | some o => (match o.credits with | [] => 0 | c :: r => lminD c r)
  | none => 0

/-- The sum of the counts that entries name for one queue. -/
def countFor (es : List (Nat × Nat)) (q : Nat) : Nat := lsum ((es.filter fun e => e.1 == q).map (·.2))

/-- R23, R105: conditions 1 and 2 of a task. -/
def taskReady (x : TileSt) (i : Nat) : Bool :=
  let w := taskAt x i
  taskValid w && (taskIns w).all (fun e => decide (countFor (taskIns w) e.1 ≤ (iqToks x e.1).length))
    && (taskOuts w).all (fun e => decide (countFor (taskOuts w) e.1 ≤ oqCredit x e.1))

/-- R24, R106: the longest wait among the head tokens of a task's input queues. -/
def taskWait (s : State) (x : TileSt) (i : Nat) : Nat :=
  lmax ((taskIns (taskAt x i)).map fun e => match iqToks x e.1 with | k :: _ => waitOf s k.age | [] => 0)

/-- The ready tasks of a tile. -/
def readyTasks (x : TileSt) : List Nat := if x.graph = 0 then [] else (List.range 32).filter (taskReady x)

/-- R24: the task that fires, with its waiting time. -/
def pickTask (s : State) (x : TileSt) : Option (Nat × Nat) :=
  (readyTasks x).foldl (fun b i =>
    match b with
    | none => some (i, taskWait s x i)
    | some (j, w) => if w < taskWait s x i then some (i, taskWait s x i) else some (j, w)) none

/-- R122, R488: a tile whose graph is stopping, stopped or broken starts no task. -/
def mayStart (s : State) (t : Nat) : Bool :=
  let x := tileSt s t
  x.stopped.isNone && (breakOf s x.graph).isNone
    && (match tileGraph s t with | some g => g.exc.isNone && g.loading.isNone | none => false)

/-- R30: the tile has a fireable task, its credit apart. -/
def fireable (s : State) (t : Nat) : Bool := mayStart s t && !(readyTasks (tileSt s t)).isEmpty

/-- R25: a task of the tile is ready, whether or not a break keeps it from firing. -/
def taskWaits (s : State) (t : Nat) : Bool :=
  let x := tileSt s t
  x.run.isNone && x.stopped.isNone && !(readyTasks x).isEmpty
    && (match tileGraph s t with | some g => g.exc.isNone && g.loading.isNone | none => false)

/-- R25, R491: a tile without a credit that has a ready task, or a firing to resume, raises a request. -/
def raiseReq (t : Nat) (s : State) : State :=
  let x := tileSt s t
  if x.credit ∨ x.waking ∨ x.req.isSome ∨ x.mode = .off ∨ x.mode = .active then s
  else if (mayStart s t && x.run.isSome) || taskWaits s t then
    trace 2 0x04 (srcTile t) 0 (tileLayer s t) (stampNow s) 0
      (setTile s t { x with req := some (stampNow s, s.now), reqSat := false, entry := false })
  else s

/-- R379: the issuer of a die has just granted, or had a request waiting. -/
def noteIssuer (d : Nat) (s : State) : State := modFlt (fun f => { f with busyAt := tput f.busyAt d s.now }) s

/-- R30, R335, R492: an active tile with a credit and nothing to run, or one that a break holds, enters Filler. -/
def enterFiller (t : Nat) (s : State) : State :=
  let x := tileSt s t
  if (x.mode = .active ∧ x.credit ∧ x.filler.isNone ∧ x.run.isNone ∧ fireable s t = false) ∨ breakIdle s t
  then startFiller t s
  else s

/-- R334: the running time of a tile's task is counted for its OP_ID up to now. -/
def countRan (t : Nat) (s : State) : State :=
  let x := tileSt s t
  match x.run with
  | some r =>
    modFlt (fun f => { f with opT := tput f.opT r.opId (tget f.opT r.opId 0 + (s.now - r.at_)) })
      (setTile s t { x with run := some { r with at_ := s.now } })
  | none => s

/-- R476: the task cycles of a firing that is stopped. -/
def countStop (t : Nat) (s : State) : State :=
  match (tileSt s t).run with
  | some r => let (n, s1) := cyclesSince r.since s; countTask t r.opId n s1
  | none => s

/-! ### Stopping the tiles of a graph (R110, R122) -/

/-- R102: an output queue's counts at the start: the DEPTH of each destination; a control core takes 64 tokens at a
time (log entry 15). -/
def oqInit (s : State) (t q : Nat) : OutQ :=
  ⟨(oqDests (oqWord (tileSt s t) q)).map fun w => if destCore w then 64 else iqDepth (tileSt s (destTile w)) (destQ w), 0⟩

/-- R102: the output queue that feeds input queue `q` of tile `t`, among the tiles of a graph. -/
def producerOf (s : State) (ts : List Nat) (t q : Nat) : Option (Nat × Nat × Nat) :=
  (ts.flatMap fun u => (List.range 16).flatMap fun o =>
      let ds := oqDests (oqWord (tileSt s u) o)
      (List.range ds.length).filterMap fun k =>
        let w := ds.getD k 0
        if !destCore w && destTile w == t && destQ w == q then some (u, o, k) else none).head?

/-- R100, R102: the queues of a tile, empty and with full credit. -/
def initQueues (ts : List Nat) (t : Nat) (s : State) : State :=
  let x := tileSt s t
  setTile s t { x with
    iqs := (List.range 16).filterMap fun q =>
      if iqDepth x q = 0 then none else some (q, ⟨iqDepth x q, [], producerOf s ts t q⟩)
    oqs := (List.range 16).filterMap fun q => if oqWord x q % 2 = 0 then none else some (q, oqInit s t q) }

/-- R181, R91: what an outstanding DMA or matrix operation would have written, as row ranges. -/
def dmaRanges (t : Nat) (m : DmaOp) : List (Nat × Nat) :=
  let row := dmaRow m.desc
  (List.range (dRows m.desc)).map fun i =>
    if m.inbound then (tileBase t + dAddr m.desc + i * dStride m.desc, row)
    else (maddr m.addr + i * mstride m.addr row, row)

def matRanges (t : Nat) (m : MatOp) : List (Nat × Nat) :=
  let fmt := m.ctl % 16
  if m.op = 2 then
    (tileBase t + dAddr m.da, extent (dRows m.da) (dStride m.da) (rowBytes fmt (dCols m.da)))
      :: (if fmtIsMX fmt then [(tileBase t + dScale m.da, dRows m.da * (dCols m.da / 32))] else [])
  else []

/-- Makes every range undefined. -/
def undefineAll : List (Nat × Nat) → State → State
  | [], s => s
  | (a, n) :: r, s => undefineAll r (undefine a n s)

/-- R110: the remote operations of a stopped tile end with it; what a read would have written is undefined (R249). -/
def dropRobs (t : Nat) (s : State) : State :=
  let mine (r : RobSt) : Bool := r.tile == some t
  let rs := (s.rem.fes.flatMap fun e => e.2.robs.filter mine).filterMap fun r =>
    if byteAt r.rob 0x10 = 1 then some (r.laddr, fld r.rob 0x14 4) else none
  undefineAll rs { s with rem := { s.rem with
    fes := s.rem.fes.map fun e => (e.1, { e.2 with robs := e.2.robs.filter (!mine ·) })
    replies := s.rem.replies.filter fun r => r.1 != t } }

/-- R110, R122, R134, R144: a tile stops: its task, its outstanding operations, its window, its queues and its request end;
what the operations would have written is undefined, and accumulators hold some of the additions owed. With a credit it runs Filler, and else rests. -/
def stopTile (ts : List Nat) (t : Nat) (s0 : State) : State :=
  let s := countStop t (countRan t s0)
  let x := tileSt s t
  let (irs, adds) := irrRanges t x.irrs (faultless s)
  let rs := irs ++ x.dmas.flatMap (dmaRanges t) ++ x.mats.flatMap (matRanges t)
  let s1 := setTile s t { x with
    run := none, mats := [], dmas := [], irrs := [], adds := [], req := none, stopped := none, entry := false,
    lastOp := match x.run with | some r => r.opId | none => x.lastOp,
    vregs := [], sregs := [], masks := [], preds := [], laccs := [], carries := [] }
  let (k, s2) := freeNext (dropRobs t (undefineAll rs (initQueues ts t s1)))
  let s3 := if x.req.isSome then noteIssuer (dieOf t) (someAdds t k 0 adds s2) else someAdds t k 0 adds s2
  if x.mode = .pupa then setMode t .rest s3 else s3

/-- The tiles of a graph. -/
def graphTiles (g : GraphSt) : List Nat := g.tiles.map (·.1)

/-- R104: the mesh without the tokens and credits of a graph's tiles. -/
def meshWithout (ts : List Nat) (m : Mesh) : Mesh :=
  ⟨m.toks.filter fun k => !ts.contains k.src, m.credits.filter fun c => !ts.contains c.1⟩

/-- R298: the place of the next command to finish among those of the command store. -/
def nextOrd (s : State) : Nat := s.cmds.foldl (fun m c => max m c.doneOrd) 0 + 1

/-- R296, R298: a command finishes: its result, the time, and its place. -/
def finish (ring idx : Nat) (r : CmdRes) (s : State) : State :=
  { s with cmds := s.cmds.map fun c => if c.ring = ring ∧ c.idx = idx ∧ c.done = none then
      { c with done := some r, doneAt := s.now, doneOrd := nextOrd s } else c }

/-- A result with a status and nothing else. -/
def resOf (code : Nat) : CmdRes := ⟨code, 0, 0, 0⟩

/-- R482: the record of a run's end. -/
def traceDone (h code : Nat) (g : GraphSt) (r : RunG) (s : State) : State :=
  trace 6 0x21 (srcCore (g.leader / 8) (g.leader % 8)) r.opId r.layer h code s

/-- R488: the break of a graph ends; the state shown returns to NONE when it was that graph's. -/
def dropBreak (h : Nat) (s : State) : State :=
  let s1 := { s with obs := { s.obs with held := s.obs.held.filter fun b => b.graph != h } }
  match s1.obs.brk with
  | some b =>
    if b.graph = h then odSet (odSet { s1 with obs := { s1.obs with brk := none } } oBRK_STATE 0) oBRK_HANDLE 0 else s1
  | none => s1

/-- R122, R110: every tile of a graph stops and its run completes with a code; the graph stays loaded. -/
def stopGraph (h code : Nat) (s : State) : State :=
  match tfind s.graphs h with
  | none => s
  | some g =>
    let ts := graphTiles g
    let s1 := { s with mesh := meshWithout ts s.mesh }
    let s2 := ts.foldl (fun s t => stopTile ts t s) s1
    let s3 := match g.run with
      | some r => traceDone h code g r (finish r.ring r.idx ⟨code, r.flags % 256, 0, 0⟩ s2)
      | none => s2
    let s4 := modGraph (dropBreak h s3) h fun g => { g with run := none, exc := none, wrote := [], ueTiles := [], pend := [] }
    ts.foldl (fun s t => enterFiller t s) s4

/-- R110, R292: a graph unloads: its tiles stop and are free, those with a credit run Filler, and its handle is free. -/
def freeGraph (h : Nat) (s : State) : State :=
  match tfind s.graphs h with
  | none => s
  | some g =>
    let ts := graphTiles g
    let s1 := ts.foldl (fun s t => stopTile ts t s) { s with mesh := meshWithout ts s.mesh }
    let s2 := ts.foldl (fun s t => setTile s t { tileSt s t with graph := 0, iqs := [], oqs := [] }) (dropBreak h s1)
    ts.foldl (fun s t => enterFiller t s) { s2 with graphs := tdel s2.graphs h }

end Sys2Proof.Machine
end

