-- ==== Sys2Proof/Machine/Sched.lean ====
section
/-! DEFINITION. Tokens, firing, power credits, tile states, and the end of runs and loads (R21 to R39, R99 to R111, R122
to R126, R326 to R331). -/
namespace Sys2Proof.Machine

/-! ### Measurement of loaded graphs (R445, R447) -/

/-- R447: the state of a die's region. -/
def regionState (s : State) (d : Nat) : Nat := odv s (oREGION_STATE + d)

/-- R448: the measurement log changes. -/
def measChange (s : State) : State := { s with meas := { s.meas with gen := (s.meas.gen + 1) % 2 ^ 32 } }

/-- R447: a loaded tile or a measured range makes its die's region LOADED. -/
def regionLoaded (d : Nat) (s : State) : State :=
  if regionState s d = 0 then odSet s (oREGION_STATE + d) 1 else s

/-- R445, R447: a load completes: its leaves enter the program tree. -/
def measLoad (ts : List Nat) (s : State) : State :=
  let s1 := measChange { s with meas := { s.meas with
    since := true, progAt := ts.foldl (fun m t => tput m t s.now) s.meas.progAt } }
  ts.foldl (fun s t => regionLoaded (dieOf t) s) s1

/-- R447: the last graph of a die is unloaded and its W is zero. -/
def regionEmpty (d : Nat) (s : State) : State :=
  if regionState s d = 1 ∧ (s.tiles.all fun e => dieOf e.1 != d || e.2.graph == 0) ∧ tfind s.meas.w d = none
  then odSet s (oREGION_STATE + d) 0 else s

/-- R445, R447: an unload completes. -/
def measUnload (ts : List Nat) (s : State) : State :=
  regionEmpty 1 (regionEmpty 0 (measChange { s with meas := { s.meas with
    progAt := ts.foldl (fun m t => tdel m t) s.meas.progAt } }))

/-! ### The end of runs, loads and unloads -/

/-- R292: the graph unloads and the command that asked for it completes. -/
def unloadNow (h ring idx : Nat) (s : State) : State :=
  match tfind s.graphs h with
  | none => s
  | some g => finish ring idx (resOf 0) (measUnload (graphTiles g) (freeGraph h s))

/-- R292: after a run, an unload that waited for it proceeds. -/
def afterRun (h : Nat) (s : State) : State :=
  match tfind s.graphs h with
  | some g => match g.unload with
    | some (r, i) => unloadNow h r i s
    | none => s
  | none => s

/-- R86, R122, R124: the control core writes a tile's section from the graph image; the reserved end of the program store
is zero, as is everything beyond the section. -/
def reloadTile (t : Nat) (sec : List Byte) (s : State) : State :=
  dropCells (storeCell t 0) (2 ^ 18) (setTile s t { tileSt s t with store := memWrite ⟨[], []⟩ 0 (sec.take 0x3CB80) })

/-- R122: the sections of those tiles of a graph that are to be reloaded. -/
def reloadTiles (ts : List Nat) (secs : List (Nat × List Byte)) (s : State) : State :=
  (secs.filter fun e => ts.contains e.1).foldl (fun s e => reloadTile e.1 e.2 s) s

/-- R122: the control cores handle an exception of a graph's task. -/
def exceptionStop (h : Nat) (s : State) : State :=
  match tfind s.graphs h with
  | none => s
  | some g =>
    match g.exc with
    | none => s
    | some (_, code) => afterRun h (reloadTiles g.ueTiles g.tiles (undefineAll g.wrote (stopGraph h code s)))

def execGraphExceptionStop (h : Nat) (s : State) : Host.Outcome State Fault Refusal := .next (exceptionStop h s)

/-- R126: the run of a graph has every sink report. -/
def runDone (h : Nat) (g : GraphSt) (r : RunG) (s : State) : State :=
  let s1 := traceDone h 0 g r (finish r.ring r.idx ⟨0, r.flags % 256, 0, 0⟩ s)
  afterRun h (modGraph s1 h fun g => { g with run := none, pend := [] })

/-- R126, R489: a run with every sink report completes, unless a break of its graph keeps it incomplete. -/
def runReported (h : Nat) (s : State) : State :=
  match tfind s.graphs h with
  | none => s
  | some g => match g.run with
    | none => s
    | some r => if r.reports = r.sinks ∧ breakOf s h = none then runDone h g r s else s

/-- R25, R126: a completion token of output queue `oq` of a tile, for its destination `k`, reaches a control core, and its
credit returns (log entry 15), which may make a task of the tile ready. -/
def sinkReport (t oq k : Nat) (s : State) : State :=
  let p (m : MeshTok) : Bool := m.src == t && m.oq == oq && m.k == k
  let w := (oqDests (oqWord (tileSt s t) oq)).getD k 0
  if destCore w ∧ s.mesh.toks.any p then
    let h := (tileSt s t).graph
    let x := tileSt s t
    let q := tget x.oqs oq ⟨[], 0⟩
    let s1 := setTile { s with mesh := { s.mesh with toks := leraseFirst p s.mesh.toks } } t
      { x with oqs := tput x.oqs oq { q with credits := lset q.credits k (q.credits.getD k 0 + 1) } }
    raiseReq t (runReported h (modRunG s1 h fun r => { r with reports := r.reports + 1 }))
  else s

def execSinkReport (t : TileId) (oq : Fin 16) (k : Fin 4) (s : State) : Host.Outcome State Fault Refusal :=
  .next (sinkReport t.val oq.val k.val s)

/-- R124, R126: every section of a load is written: a section from offset 0 and zeros beyond it. -/
def loadComplete (h : Nat) (s : State) : State :=
  match tfind s.graphs h with
  | none => s
  | some g =>
    match g.loading with
    | none => s
    | some (ring, idx) =>
      let ts := graphTiles g
      let s1 := g.tiles.foldl (fun s e => reloadTile e.1 e.2 s) s
      let s2 := ts.foldl (fun s t => initQueues ts t s) s1
      let s3 := modGraph s2 h fun g => { g with loading := none }
      measLoad ts (finish ring idx ⟨0, 0, h, 0⟩ s3)

def execGraphLoadComplete (h : Nat) (s : State) : Host.Outcome State Fault Refusal := .next (loadComplete h s)

/-! ### Tokens and credits on the mesh (R104) -/

/-- R104, R110: a token reaches its input queue; pupa entry is abandoned, and a ready tile raises a request. -/
def tokenArrival (t oq k : Nat) (s : State) : State :=
  let p (m : MeshTok) : Bool := m.src == t && m.oq == oq && m.k == k
  let w := (oqDests (oqWord (tileSt s t) oq)).getD k 0
  if destCore w then s
  else match s.mesh.toks.find? p with
    | none => s
    | some m =>
      let u := destTile w
      let x := tileSt s u
      match tfind x.iqs (destQ w) with
      | none => s
      | some q =>
        let s1 := setTile { s with mesh := { s.mesh with toks := leraseFirst p s.mesh.toks } } u
          { x with entry := false, iqs := tput x.iqs (destQ w) { q with toks := q.toks ++ [m.tok] } }
        raiseReq u (progress x.graph s1)

def execTokenArrival (t : TileId) (oq : Fin 16) (k : Fin 4) (s : State) : Host.Outcome State Fault Refusal :=
  .next (tokenArrival t.val oq.val k.val s)

/-- R99, R103, R126: the leader puts a control token with the command's TAG on a START queue, for which the queue's
producer has one credit less; without a producer the token counts against DEPTH. `none` where there is no credit or
room. -/
def startToken (tag t q : Nat) (s : State) : Option State :=
  let x := tileSt s t
  match tfind x.iqs q with
  | none => some s
  | some i =>
    let put (s : State) : State :=
      let y := tileSt s t
      raiseReq t (progress y.graph (setTile s t { y with
        entry := false, iqs := tput y.iqs q { i with toks := i.toks ++ [⟨tag, stampNow s, 3, 0⟩] } }))
    match i.prod with
    | none => if i.toks.length < i.depth then some (put s) else none
    | some (u, o, k) =>
      let y := tileSt s u
      let oq := tget y.oqs o ⟨[], 0⟩
      let c := oq.credits.getD k 0
      if c = 0 then none
      else some (put (setTile s u { y with oqs := tput y.oqs o { oq with credits := lset oq.credits k (c - 1) } }))

/-- R103: start tokens reach their queues; those without a credit wait on (log entry 115). -/
def feedStarts (h tag : Nat) : List (Nat × Nat) → State → State
  | [], s => s
  | (t, q) :: r, s =>
    match startToken tag t q s with
    | some s1 => feedStarts h tag r s1
    | none => feedStarts h tag r (modGraph s h fun g => { g with pend := g.pend ++ [(t, q)] })

/-- R103: after a credit of a graph's tile has returned, or room has come on an input queue. -/
def flushStarts (h : Nat) (s : State) : State :=
  match tfind s.graphs h with
  | some g => match g.run with
    | some r => feedStarts h r.tag g.pend (modGraph s h fun g => { g with pend := [] })
    | none => s
  | none => s

/-- R104: a returned credit reaches its output queue. -/
def creditReturn (t oq k : Nat) (s : State) : State :=
  if (t, oq, k) ∈ s.mesh.credits then
    let x := tileSt s t
    let q := tget x.oqs oq ⟨[], 0⟩
    let s1 := setTile { s with mesh := { s.mesh with credits := leraseFirst (· == (t, oq, k)) s.mesh.credits } } t
      { x with oqs := tput x.oqs oq { q with credits := lset q.credits k (q.credits.getD k 0 + 1) } }
    raiseReq t (flushStarts x.graph s1)
  else s

def execQueueCreditReturn (t : TileId) (oq : Fin 16) (k : Fin 4) (s : State) : Host.Outcome State Fault Refusal :=
  .next (creditReturn t.val oq.val k.val s)

/-! ### Firing (R106 to R108) -/

/-- R107: `n` tokens leave input queue `q`; their credits set out for the producer. -/
def takeTokens (t q n : Nat) (s : State) : List Token × State :=
  let x := tileSt s t
  match tfind x.iqs q with
  | none => ([], s)
  | some i =>
    let s1 := setTile s t { x with iqs := tput x.iqs q { i with toks := i.toks.drop n } }
    (i.toks.take n, match i.prod with
      | some p => { s1 with mesh := { s1.mesh with credits := s1.mesh.credits ++ List.replicate n p } }
      | none => s1)

/-- R107: the tokens of every input entry, in order. -/
def takeAll (t : Nat) : List (Nat × Nat) → State → List Token × State
  | [], s => ([], s)
  | (q, n) :: r, s =>
    let (a, s1) := takeTokens t q n s
    let (b, s2) := takeAll t r s1
    (a ++ b, s2)

/-- R110, R247: a reply token reaches its input queue when the queue has room; pupa entry is abandoned. -/
def giveReply (t q : Nat) (k : Token) (s : State) : Option State :=
  let x := tileSt s t
  match tfind x.iqs q with
  | none => some s
  | some i =>
    if i.toks.length < i.depth then
      some (setTile s t { x with entry := false, iqs := tput x.iqs q { i with toks := i.toks ++ [k] } })
    else none

/-- R247: replies that wait for room on a tile's input queues reach them, oldest first; the rest wait on. -/
def giveReplies (t : Nat) : List (Nat × Nat × Token) → State → State
  | [], s => s
  | (u, q, k) :: r, s =>
    match (if u = t then giveReply t q k s else none) with
    | some s1 => giveReplies t r (progress (tileSt s1 t).graph s1)
    | none => giveReplies t r { s with rem := { s.rem with replies := s.rem.replies ++ [(u, q, k)] } }

/-- R247: after tokens have left a tile's queues. -/
def flushReplies (t : Nat) (s : State) : State := giveReplies t s.rem.replies { s with rem := { s.rem with replies := [] } }

/-- R107, R108: `n` credits leave (`give` false) or rejoin every destination of an output queue. -/
def moveCredits (t q n : Nat) (give : Bool) (s : State) : State :=
  let x := tileSt s t
  match tfind x.oqs q with
  | none => s
  | some o => setTile s t { x with
      oqs := tput x.oqs q { o with credits := o.credits.map fun c => if give then c + n else c - n } }

/-- R23, R106, R107: the tile fires the task that R24 chooses. The carries of chained scans start empty, as every other
register of the firing starts open (log entry 112). -/
def taskFire (t : Nat) (s : State) : State :=
  let x := tileSt s t
  if x.mode = .active ∧ x.credit ∧ x.run = none ∧ mayStart s t then
    match pickTask s x with
    | none => s
    | some (i, wt) =>
      let w := taskAt x i
      let cells := (storeCell t (0x3C000 + 16 * i), 16) :: (taskIns w).map fun e => (queueCell t e.1, 4)
      match ueIn s cells with
      | some m => ueTile t m (correctAll cells s)
      | none =>
      let (win, s0) := takeAll t (taskIns w) (correctAll cells s)
      let s1 := flushStarts x.graph (flushReplies t s0)
      let s2 := (taskOuts w).foldl (fun s e => moveCredits t e.1 e.2 false s) s1
      let resv := (taskOuts w).foldl (fun l e =>
        if l.any fun p => p.1 == e.1 then l.map fun p => if p.1 = e.1 then (p.1, p.2 + e.2) else p
        else l ++ [e]) ([] : List (Nat × Nat))
      let (k, s3) := freeNext (endFiller t s2)
      let y := tileSt s3 t
      let s4 := setTile s3 t { y with
        run := some ⟨i, taskOpId w, taskEntry w, [], [], [], win, resv, false, false, [], k, s.now, s.now⟩
        pLast := none, vregs := [], sregs := [], masks := [], preds := [], laccs := [], carries := []
        banks := [], exact := ⟨false, []⟩ }
      let s5 := opcCount oOPC_FIRINGS (taskOpId w) 1 (odAdd (odAdd s4 (oFIRINGS + dieOf t) 1) (tileKey oTILE_FIRINGS t) 1)
      let s6 := trace 0 0x01 (srcTile t) (taskOpId w) (tileLayer s t) i (taskEntry w + 65536 * wt) s5
      settle settleFuel t (progress x.graph s6)
  else s

def execTaskFire (t : TileId) (s : State) : Host.Outcome State Fault Refusal := .next (taskFire t.val s)

/-- R108, R335: the task ends once every operation it issued has completed; `cyc` are its cycles and `p` the tile's
attributed input power over its last 1 µs, as measured. -/
def taskEnd (t cyc p : Nat) (s0 : State) : State :=
  let s := countRan t s0
  let x := tileSt s t
  match x.run with
  | none => s
  | some r =>
    if r.ending ∧ x.stopped = none ∧ x.mats = [] ∧ x.dmas = [] ∧ x.irrs = [] then
      let s1 := r.resv.foldl (fun s e => moveCredits t e.1 e.2 true s) s
      let s2 := flushStarts x.graph (setTile s1 t { tileSt s1 t with run := none, pLast := some p, lastOp := r.opId })
      enterFiller t (raiseReq t (trace 0 0x02 (srcTile t) r.opId (tileLayer s t) r.task cyc (countTask t r.opId cyc s2)))
    else s

def execTaskEnd (t : TileId) (cyc p : Nat) (s : State) : Host.Outcome State Fault Refusal :=
  .next (taskEnd t.val cyc p s)

/-! ### Power credits (R25 to R31) -/

/-- One watt in nW. -/
def watt : Nat := 1000000000

/-- R318: the output of the input-current loop at the last period's input voltage: 0.1 A × 0.01 V = 1 mW. -/
def iinLimit (s : State) : Nat := odv s oIIN_LIMIT * s.flt.vin * 1000000

/-- R318: the lowest loop output but the ramp's. -/
def limNoRamp (s : State) : Nat := min (min s.flt.pCap s.flt.pTh) (min (iinLimit s) (2400 * watt))

/-- R345: the tile that a step test grants next: the lowest-numbered idle tile of its die. -/
def testTile (s : State) (d : Nat) : Option Nat :=
  match s.flt.test with
  | some e =>
    if e.die = d ∧ !e.back ∧ 0 < e.left then
      ((List.range 144).map (d * 144 + ·)).find? fun t =>
        let x := tileSt s t
        !x.credit && !x.waking && x.req.isNone && (x.mode == .rest || x.mode == .pupa)
    else none
  | none => none

/-- R338, R461: the level that Primer holds, under the caps. -/
def holdLevel (s : State) : Option Nat := s.flt.hold.map fun h => min h (min s.flt.pCap s.flt.pTh)

/-- R338: in APPROACH, the idle tile that Float grants to reach its hold level. -/
def holdTile (s : State) (d : Nat) : Option Nat :=
  match holdLevel s with
  | some h =>
    if odv s oPRIMER_STATE = 1 ∧ pProj s + (creditPower s d : Int) ≤ (h : Int) ∧ admits s (creditPower s d) then
      ((List.range 144).map (d * 144 + ·)).find? fun t =>
        let x := tileSt s t
        !x.credit && !x.waking && x.req.isNone && (x.mode == .rest || x.mode == .pupa)
    else none
  | none => none

/-- R338: in APPROACH, a release towards the hold level; once it is reached nothing changes. -/
def holdRelease (s : State) (d : Nat) : Bool :=
  match holdLevel s with
  | some h => odv s oPRIMER_STATE == 1 && decide ((h : Int) ≤ pProj s - (creditPower s d : Int))
  | none => true

/-- R338: the Filler level with which a tile granted towards the hold level closes the gap to it. -/
def holdFill (s : State) (d : Nat) : Option Nat :=
  (holdLevel s).map fun h => fillLevel s d ((h : Int) - (pProj s - (creditPower s d : Int))).toNat

/-- R21, R26, R379: a credit goes to a tile of die `d` in a slot of its rail. -/
def grant (d t : Nat) (s : State) : State :=
  let x := tileSt s t
  noteIssuer d (useSlot d (addProj (creditPower s d) (setTile s t { x with credit := true, waking := true, req := none })))

/-- R27, R28, R39: the issuer of a die grants the oldest request that pacing and headroom admit, or a step of a step
test (R345), to which the ramp does not apply. -/
def creditGrant (d : Nat) (s : State) : State :=
  if odv s oBRAKE_ACTIVE = 1 ∨ !slotOpen s d then s
  else match testTile s d with
    | some t =>
      if pProj s + (creditPower s d : Int) ≤ (limNoRamp s : Int) then
        modFlt (fun f => { f with test := f.test.map fun e => { e with left := e.left - 1, ts := t :: e.ts } })
          (grant d t s)
      else s
    | none =>
      match railHead s d with
      | none => match holdTile s d with
        | some t => grant d t s
        | none => s
      | some r =>
        if r.place.isSome ∨ yields s d r then s
        else
          let t := d * 144 + r.inp
          let x := tileSt s t
          let at_ := match x.req with | some q => q.2 | none => s.now
          let s1 := flipTurn d r s (grant d t (turnRail d r s s))
          let s2 := odAdd s1 (oCREDIT_WAIT_NS + d) (s.now - at_)
          let s3 := trace 2 0x05 (srcTile t) 0 (tileLayer s t) r.stamp (s.now - at_) (progress x.graph s2)
          ageLog r x.reqSat (srcTile t) (tileCmd s t) s s3

def execPowerCreditGrant (die : Fin 2) (s : State) : Host.Outcome State Fault Refusal :=
  .next (creditGrant die.val s)

/-- R21, R30, R335: a granted tile becomes active: it fires a ready task (by its own row), goes on with a firing, or runs
Filler, at level 15 in a step test. -/
def tileWake (t : Nat) (s : State) : State :=
  let x := tileSt s t
  if x.waking then
    let s1 := setMode t .active (setTile s t { x with waking := false, pLast := if x.run.isSome then x.pLast else some 0 })
    let s2 := match s.flt.test with
      | some e => if t ∈ e.ts then setTile s1 t { tileSt s1 t with filler := some 15, fillAt := s.now } else s1
      | none => match holdFill s1 (dieOf t) with
        | some l => setTile s1 t { tileSt s1 t with filler := some l, fillAt := s.now }
        | none => s1
    let s3 := enterFiller t s2
    match (tileSt s3 t).run with
    | some r => if r.ending then s3 else settle settleFuel t s3
    | none => s3
  else s

def execTileWake (t : TileId) (s : State) : Host.Outcome State Fault Refusal := .next (tileWake t.val s)

/-- R29, R316, R317, R326, R340: a die-level step takes effect. -/
def stepEffect (x : DieStep) (s : State) : State :=
  let d := x.die
  if x.kind = 0 then showDuty (setDuty d (if x.up then min 16 (fDuty s d + 1) else max 1 (fDuty s d - 1)) s)
  else if x.kind = 1 then showDuty (setPace d (if x.up then min 16 (fPace s d + 1) else max 1 (fPace s d - 1)) s)
  else if x.kind = 2 then
    if x.up then showVolt d (modFlt (fun f => { f with settle := tput f.settle d (min 15 (fPoint s d + 1)) }) s)
    else showVolt d (showFreq d (setPoint d (fPoint s d - 1) s))
  else showVolt d s

/-- R28, R38 to R40, R340: a die-level step is granted its first slot. -/
def beginStep (d : Nat) (r : Req) (x : DieStep) (s : State) : State :=
  let s1 := turnRail d r s s
  let s2 := if x.up then flipTurn d r s s1
    else if x.kind = 1 then modFlt (fun f => { f with fell := f.fell + x.size }) s1 else s1
  ageLog r x.sat srcModule noCmd s s2

/-- R29, R379: a die-level step at the head of its rail uses a slot, and takes effect with its last. -/
def dieStepSlot (d : Nat) (s : State) : State :=
  if !slotOpen s d then s
  else match railHead s d with
    | none => s
    | some r =>
      match r.place, stepOf s r with
      | some i, some x =>
        if x.up && !begun x && yields s d r then s
        else
          let s1 := if begun x then s else beginStep d r x s
          let s2 := noteIssuer d (useSlot d (if x.up then addProj (creditPower s d) s1 else s1))
          if x.left ≤ 1 then stepEffect x (modFlt (fun f => { f with steps := f.steps.eraseIdx i }) s2)
          else modFlt (fun f => { f with steps := lset f.steps i { x with left := x.left - 1 } }) s2
      | _, _ => s

def execDieStepSlot (die : Fin 2) (s : State) : Host.Outcome State Fault Refusal := .next (dieStepSlot die.val s)

/-- R29: a power change on die `d` in whole credits. -/
def creditsOf (s : State) (d p : Nat) : Nat := if creditPower s d = 0 then 0 else ceilDiv p (creditPower s d)

/-- R29, R326: a die-level step waits for its slots; one of no credits takes effect at once. -/
def queueStep (d kind : Nat) (up : Bool) (p : Nat) (s : State) : State :=
  let n := creditsOf s d p
  let x : DieStep := ⟨d, kind, up, stampNow s, n, n, n * creditPower s d, false⟩
  if n = 0 then stepEffect x s else modFlt (fun f => { f with steps := f.steps ++ [x] }) s

/-- R379: the steps of a die and kind that have not begun are withdrawn; until now they waited at its issuer. -/
def withdraw (d kind : Nat) (s : State) : State :=
  let mine (x : DieStep) : Bool := x.die == d && x.kind == kind && !begun x
  let s1 := modFlt (fun f => { f with steps := f.steps.filter fun x => !mine x }) s
  if s.flt.steps.any mine then noteIssuer d s1 else s1

/-- R29, R316: the die's voltage follows its tiles, in a die-level step of the power that `gap` estimates for the new
setpoint, which replaces one that has not begun. -/
def voltStepBy (d : Nat) (gap : Nat → Nat) (s0 : State) : State :=
  let s := withdraw d 3 s0
  let v := voltAt s d (voltPoint s d)
  if v = odv s (oDIE_VCORE + d) then s else queueStep d 3 (decide (odv s (oDIE_VCORE + d) < v)) (gap v) s
def voltStep (d : Nat) (s : State) : State := voltStepBy d (voltGap s d) s

/-- R329: the mean of P_in over the last second. -/
def meanIn (s : State) : Nat := lsum s.flt.pInHist / max 1 s.flt.pInHist.length

/-- R329: the conditions under which a release may happen, after it: the ramp, which a step test sets aside (R345), and
the Filler floor. -/
def releaseOk (s : State) (d : Nat) (test : Bool) : Bool :=
  let p := pProj s - (creditPower s d : Int)
  let ref : Int := (s.flt.pRef.getD s.flt.pEst : Nat)
  (test || decide (ref - (odv s oRAMP_BAND_W * 1000000000 : Nat) ≤ p))
    && decide (((odv s oFILLER_FLOOR_PCT * meanIn s / 100 : Nat) : Int) ≤ p)

/-- R31: no request that the headroom admits, and no step, waits for a slot of the rail; under the brake credits stay
(R341). -/
def railIdle (s : State) (d : Nat) : Bool := odv s oBRAKE_ACTIVE != 1 && (railHead s d).isNone

/-- R330: no tile of the die has run Filler longer. -/
def longestFiller (s : State) (t : Nat) : Bool :=
  (List.range 144).all fun n =>
    let u := dieOf t * 144 + n
    !runsFiller (tileSt s u) || decide ((tileSt s t).fillAt ≤ (tileSt s u).fillAt)

/-- R127: the TILE_ENABLE of a tile. -/
def enableKey (t : Nat) : Nat := oTILE_ENABLE + 256 * dieOf t + t % 144

/-- R110: a tile powers down: its program store and SRAM are lost. -/
def tileOff (t : Nat) (s : State) : State :=
  let s1 := setMode t .off (setTile s t { TileSt.initial with mode := (tileSt s t).mode, lastOp := (tileSt s t).lastOp })
  undefine (tileBase t) 0x400000 (dropCells (storeCell t 0) (2 ^ 20) (dropCells (tileBase t) 0x400000 s1))

/-- R110: a tile rests; one whose TILE_ENABLE was written 0 while it was active goes off. -/
def toRest (t : Nat) (s : State) : State :=
  let s1 := setMode t .rest s
  if odv s (enableKey t) = 0 then voltStep (dieOf t) (tileOff t s1) else s1

/-- R31, R109, R329, R330: Float offers a tile that runs Filler the take-back of its credit: the tile declines where a
task is fireable, and else it rests. -/
def takeBack (t : Nat) (s : State) : State :=
  let x := tileSt s t
  let d := dieOf t
  let test : Bool := match s.flt.test with | some e => e.back && e.ts.contains t | none => false
  if x.mode = .active ∧ x.credit ∧ runsFiller x ∧ slotOpen s d ∧ railIdle s d ∧ releaseOk s d test
      ∧ (test ∨ holdRelease s d) ∧ (fDeclined s d = false ∨ longestFiller s t) then
    if fireable s t then trace 2 0x06 (srcTile t) 0 (tileLayer s t) 1 0 (setDeclined d true s)
    else
      let s0 := endFiller t s
      let s1 := setTile s0 t { tileSt s0 t with credit := false }
      let s2 := modFlt (fun f => { f with test := match f.test with
        | some e => if e.back then
            (let r := e.ts.filter (· ≠ t); if r = [] then none else some { e with ts := r }) else some e
        | none => none }) s1
      trace 2 0x06 (srcTile t) 0 (tileLayer s t) 0 0
        (toRest t (setDeclined d false (useSlot d (addProj (-(creditPower s d : Int)) s2))))
  else s

/-! ### Pupa (R110) -/

/-- R110: every input queue of a tile is empty. -/
def queuesEmpty (x : TileSt) : Bool := x.iqs.all fun e => e.2.toks.isEmpty

/-- R110: the dwell has run out on a resting tile: it begins pupa entry. -/
def dwellExpiry (t : Nat) (s : State) : State :=
  let x := tileSt s t
  if x.mode = .rest ∧ !x.waking ∧ x.req = none ∧ x.run = none ∧ queuesEmpty x ∧ odv s (oPUPA_DWELL_US + dieOf t) ≠ 0
  then setTile s t { x with entry := true } else s

def execPupaDwellExpiry (t : TileId) (s : State) : Host.Outcome State Fault Refusal := .next (dwellExpiry t.val s)

/-- R22, R110: 100 ns after it began, pupa entry commits, unless a token or a request has come. -/
def entryCommit (t : Nat) (s : State) : State :=
  let x := tileSt s t
  if x.entry ∧ x.mode = .rest ∧ !x.waking ∧ x.req = none ∧ queuesEmpty x then
    setMode t .pupa (setTile s t { x with entry := false })
  else s

def execPupaEntryCommit (t : TileId) (s : State) : Host.Outcome State Fault Refusal := .next (entryCommit t.val s)

/-! ### Requests that saturate (R38) -/

/-- R38: a tile request that reaches 2,047 units while it waits. -/
def tileSat (t : Nat) (s : State) : State :=
  let x := tileSt s t
  match x.req with
  | some r =>
    if x.reqSat = false ∧ waitOf s r.1 = 2047 then
      logEvent evAGE_SATURATED (srcTile t) r.1 0 (tileCmd s t) (setTile s t { x with reqSat := true })
    else s
  | none => s

/-- R38: die-level steps that reach 2,047 units while they wait. -/
def stepSat (s : State) : State :=
  let hit (x : DieStep) : Bool := !x.sat && waitOf s x.stamp == 2047
  (s.flt.steps.filter hit).foldl (fun s x => logEvent evAGE_SATURATED srcModule x.stamp 0 noCmd s)
    (modFlt (fun f => { f with steps := f.steps.map fun x => if hit x then { x with sat := true } else x }) s)

end Sys2Proof.Machine
end

