-- ==== Sys2Proof/Machine/Judge.lean ====
section
/-! DEFINITION. How an object write is judged, and what every write of an object shares: paths, checks in order and the
recorded status (R404 to R408, R413, R434, R439, R465, R467). Paths: 0 bus A, 1 bus B, 2 the mailbox M, 3 Urgoip U. -/
namespace Sys2Proof.Machine

/-- R404: path C, either CAN bus. -/
def pathC (path : Nat) : Bool := decide (path ≤ 1)

/-- R404, R465, R467: the paths that may write an object that is not RO. -/
def pathMayWrite (path k : Nat) : Bool :=
  let g := keyIdx k / 256
  if g < 0x20 ∨ k = oNMT_AUTOSTART ∨ k = oFLOW_LPM ∨ k = oFLOW_LOSS ∨ k = oSUPPLY_T then path != 2
  else if g = 0x25 ∨ g = 0x29 ∨ 0x30 ≤ g ∨ k = oFW_COMMIT_SVN ∨ diagClass k = .tenant ∨ diagClass k = .diagnostic then
    decide (2 ≤ path)
  else true

/-- R467: class D is read on M and U only. -/
def pathMayRead (path k : Nat) : Bool := diagClass k != .diagnostic || decide (2 ≤ path)

/-- R439, R511: the owner is a core in RECOVERY. -/
def inRecovery (s : State) : Bool :=
  match s.mod.owner with
  | some c => odv s (if c = 0 then oMGMT_STATE_A else oMGMT_STATE_B) == 4
  | none => false

/-- R405 steps 1 and 2, with R439 before them in RECOVERY. -/
def odFind (s : State) (k : Nat) : Nat :=
  if inRecovery s ∧ keyIdx k ≠ 0x1018 ∧ keyIdx k ≠ 0x2000 ∧ keyIdx k ≠ 0x2620 then 0x0590
  else if odMapped (keyIdx k) = false then 0x01C0
  else if (odRow k).isNone then 0x01C1
  else 0

/-- R413: PDO mappings and PDO COB-IDs, which path C writes in PRE-OPERATIONAL only. -/
def isPdoConfig (k : Nat) : Bool :=
  isPdoMap (keyIdx k) || (keySub k == 1 && (keyIdx k == 0x1400 || (0x1800 ≤ keyIdx k && keyIdx k ≤ 0x1802)))

/-- R8 to R11: a value against a row's legal values, in the order zero, smallest, largest. -/
def valueCode (r : ObjRow) (v : Nat) : Nat :=
  if v = 0 then (if r.zero then 0 else 0x0102)
  else if v < r.lo then 0x0104
  else if r.hi < v then 0x0103
  else 0

/-- R405 steps 1 to 7, R467: the first failing check of a write of `len` bytes with value `v`, 0 when none fails. -/
def odJudge (s : State) (path k len v : Nat) : Nat :=
  if odFind s k ≠ 0 then odFind s k
  else match odRow k with
    | none => 0x01C1
    | some r =>
      if r.acc ≠ .ro ∧ pathMayWrite path k = false then 0x0450
      else if r.acc = .ro then 0x01C2
      else if confidential s ∧ (diagClass k = .diagnostic ∨ diagClass k = .tenant) then 0x0470
      else if r.ty ≠ .dom ∧ len ≠ odSize r.ty then 0x01C3
      else if pathC path ∧ isPdoConfig k ∧ odv s oNMT_STATE ≠ 0x7F then 0x0572
      else if r.ty = .dom then 0
      else valueCode r v

/-- The last status code of a path (R433), and the status of the request. -/
def tell (path code : Nat) (s : State) : State :=
  let s1 := { s with resp := code }
  if path < 3 then odSet s1 (oOD_LAST_STATUS + path) code else s1

/-- A plain setting: stored, with success. -/
def wStore (k v : Nat) (s : State) : Nat × State := (0, odSet s k v)

/-- A write with a code and no effect. -/
def wRefuse (code : Nat) (s : State) : Nat × State := (code, s)

/-- R405: a write of `len` bytes on a path: judged, then its own effect; without an owner the dictionary is unreachable
(R512). A refused write changes nothing. -/
def odTry (path k len v : Nat) (eff : State → Nat × State) (s : State) : Nat × State :=
  if odJudge s path k len v ≠ 0 then (odJudge s path k len v, s) else eff s

/-- R405: a named write row: a value of the object's own size on a path. -/
def namedWrite (path k v : Nat) (eff : State → Nat × State) (s : State) : State :=
  if s.mod.owner = none then s
  else
    let n := match odRow k with | some r => odSize r.ty | none => 0
    let (c, s1) := odTry path k n v eff s
    tell path c s1

/-- R425: the object that OD_ADDR names. -/
def mailKey (m : MailSt) : Nat := m.addr % 65536 * 256 + bitsOf m.addr 23 16

/-- R407: a session of another path writes this DOMAIN object. -/
def domBusy (s : State) (path k : Nat) : Bool :=
  (s.can.usdo.any fun e => e.1 != path && e.2.key == k && e.2.write && !e.2.flash)
    || (path != 2 && s.can.mail.busy && s.can.mail.cmd == 2 && s.can.mail.code == 0 && mailKey s.can.mail == k)
def isDomain (k : Nat) : Bool := match odRow k with | some r => r.ty == .dom | none => false

/-- R403, R407: a named write row of a DOMAIN object: refused while a session of another path writes it. -/
def namedBytes (path k : Nat) (bs : List Byte) (eff : State → Nat × State) (s : State) : State :=
  if s.mod.owner = none then s
  else
    let (c, s1) := odTry path k bs.length 0 (fun s => if isDomain k && domBusy s path k then (0x0570, s) else eff s) s
    tell path c s1

/-- An EMCY event whose condition holds while `b`: raised or cleared (R423). -/
def emcyWhile (b : Bool) (code bit event : Nat) (s : State) : State :=
  if b then emcyRaise code bit event s else emcyClear bit event s

/-- R500: MODULE_STATE. -/
def modState (s : State) : Nat := odv s oMODULE_STATE

/-- R19, R354, R500: the main domain is up: from STARTING's last steps to STOPPING. -/
def isReady (s : State) : Bool := modState s == 2

end Sys2Proof.Machine
end

