-- ==== Sys2Proof/Machine/Memory.lean ====
section
/-! DEFINITION. Scrubbing, LPDDR5X housekeeping, error injection and host access through BAR2 (R175 to R177, R192, R193,
R277). -/
namespace Sys2Proof.Machine

/-- R18, R500: the main domain is powered: from STARTING to STOPPING. -/
def mainUp (s : State) : Bool := decide (1 ≤ modState s ∧ modState s ≤ 4)

/-- R502: the PLLs run: the main domain is up, and in STARTING past step 4. -/
def pllsUp (s : State) : Bool := mainUp s && (modState s != 1 || decide (5 ≤ odv s oSTART_STEP))

/-! ### Scrubbing (R192) -/

/-- R83, R192: bytes of one scrub read: a line of 64 bytes of a tile's bank or of LPDDR5X, or of 32 bytes of stacked
SRAM. -/
def scrubLine (level : Nat) : Nat := if level = 2 then 32 else 64

/-- The address areas of a level, in address order. -/
def levelAreas (level : Nat) : List (Nat × Nat) :=
  if level = 1 then [(0x00000000000, 0x00024000000), (0x00040000000, 0x00064000000)]
  else if level = 2 then [(0x00100000000, 0x00300000000)]
  else [(0x10000000000, 0x22000000000)]

/-- R192: the address after `a` in address order, wrapping at the end of the level. -/
def scrubNext (level a : Nat) : Nat :=
  let b := a + scrubLine level
  match levelAreas level with
  | [] => 0
  | r :: q =>
    if b < r.2 then b
    else match q with
      | [] => r.1
      | r2 :: _ => if b < r2.1 then r2.1 else if b < r2.2 then b else r.1

/-- R188, R192: an uncorrectable error found by a scrub read discards no command; it is recorded. An error on a data path is
gone once it has been met. -/
def scrubUe (m : EccMark) (s : State) : State :=
  let s0 := { s with ecc := { s.ecc with marks := s.ecc.marks.filter fun e => e.level != 4 || e.addr != m.addr } }
  let s1 := odAdd s0 (oECC_CORRECTED + 3 + m.level) 1
  let s2 := odSet (odSet (odSet (odSet s1 oLAST_UE_LEVEL m.level) oLAST_UE_ADDR m.addr) oLAST_UE_TIME s.now)
    oLAST_UE_SCRUB 1
  emcyEvent 0x5000 7 evUNCORRECTABLE_BY_SCRUB (logEvent evUNCORRECTABLE_BY_SCRUB srcModule m.level m.addr noCmd s2)

/-- R192: the scrub period of a level; 0 stops its scrubbing. -/
def scrubPeriod (s : State) (level : Nat) : Nat := odv s (oSCRUB_PERIOD_TILE_S + level - 1)

/-- Errors strike words, lines and paths. -/
def strike (ms : List EccMark) (s : State) : State := { s with ecc := { s.ecc with marks := ms ++ s.ecc.marks } }

/-- R192: a scrub read of the next address of a level; a period of 0 stops the reads, not the errors. -/
def scrubRead (level : Nat) (ms : List EccMark) (s0 : State) : State :=
  let s := strike ms s0
  if mainUp s0 = false then s0
  else if scrubPeriod s0 level = 0 then s
  else
    let a := tget s.ecc.scrubPos level ((levelAreas level).headD (0, 0)).1
    let n := scrubLine level
    let s1 := { s with ecc := { s.ecc with scrubPos := tput s.ecc.scrubPos level (scrubNext level a) } }
    let bad := s.ecc.marks.filter fun m => !m.correct && markIn m a n
    touchChannel a n (bad.foldl (fun s m => scrubUe m s) (correctIn a n s1))

def execScrubRead (e : ScrubIn) (s : State) : Host.Outcome State Fault Refusal :=
  .next (scrubRead (e.level.val + 1) e.upsets s)

/-! ### LPDDR5X housekeeping (R175 to R177) -/

/-- R175: what MR4 of device `dev` (package × 8 + channel × 2 + rank) reports: its refresh multiplier, and whether it is
above its rated upper temperature. -/
def mr4Poll (dev rate : Nat) (hot : Bool) (s : State) : State :=
  if mainUp s = false then s
  else
    let p := dev / 8
    let m := tput s.ecc.mr4 dev rate
    let top := lmax ((List.range 8).map fun i => tget m (8 * p + i) 0)
    let devs := if hot then (if dev ∈ s.ecc.hotDevs then s.ecc.hotDevs else dev :: s.ecc.hotDevs)
      else s.ecc.hotDevs.filter (· ≠ dev)
    let s1 := odSet { s with ecc := { s.ecc with mr4 := m, hotDevs := devs } } (oLPDDR_MR4_RATE + p) (top % 256)
    let s2 := odBit s1 oCAP_STATUS 12 (!devs.isEmpty)
    if hot ∧ dev ∉ s.ecc.hotDevs then logEvent evLPDDR_HOT (0x5000 + p) dev rate noCmd s2 else s2

def execMr4Poll (dev : Fin 128) (rate : Nat) (hot : Bool) (s : State) : Host.Outcome State Fault Refusal :=
  .next (mr4Poll dev.val rate hot s)

/-- R176: the state of a channel (package × 4 + channel). -/
def channelSt (s : State) (c : Nat) : Nat := tget s.ecc.channels c 0
def setChannel (c v : Nat) (s : State) : State := { s with ecc := { s.ecc with channels := tput s.ecc.channels c v } }

/-- R176: a channel has had no request for `t` ns. -/
def chanIdle (s : State) (c t : Nat) : Bool :=
  match tfind s.ecc.chanLast c with
  | some u => decide (u + t ≤ s.now)
  | none => true

/-- R176: a channel without a request for 100 ns enters power-down. -/
def powerDown (c : Nat) (s : State) : State :=
  if mainUp s ∧ channelSt s c = 0 ∧ chanIdle s c 100 then setChannel c 1 s else s

def execChannelPowerDown (c : Fin 64) (s : State) : Host.Outcome State Fault Refusal := .next (powerDown c.val s)

/-- R176: a channel without a request for LP_SR_IDLE_US enters self-refresh, unless that object is 0. -/
def selfRefresh (c : Nat) (s : State) : State :=
  if mainUp s ∧ channelSt s c ≠ 2 ∧ odv s oLP_SR_IDLE_US ≠ 0 ∧ chanIdle s c (1000 * odv s oLP_SR_IDLE_US)
  then setChannel c 2 s else s

def execChannelSelfRefresh (c : Fin 64) (s : State) : Host.Outcome State Fault Refusal := .next (selfRefresh c.val s)

/-- R177: a channel runs its WCK2DQ interval oscillator. -/
def oscRun (c : Nat) (s : State) : State :=
  if mainUp s then { s with ecc := { s.ecc with wckLast := tput s.ecc.wckLast c s.now } } else s

def execWck2dqOscillatorRun (c : Fin 64) (s : State) : Host.Outcome State Fault Refusal := .next (oscRun c.val s)

/-- R177: a channel latches its background ZQ calibration. -/
def zqLatch (c : Nat) (s : State) : State :=
  if mainUp s then { s with ecc := { s.ecc with zqLast := tput s.ecc.zqLast c s.now } } else s

def execZqCalibrationLatch (c : Fin 64) (s : State) : Host.Outcome State Fault Refusal := .next (zqLatch c.val s)

/-! ### Error injection (R193) -/

/-- R193: the kinds that fit the level of an address. -/
def injectFits (kind a : Nat) : Bool := if addrLevel a = 3 then kind == 3 || kind == 4 else kind == 1 || kind == 2

/-- R193: a write of ERR_INJECT_ARM. -/
def wInjectArm (v : Nat) (s : State) : Nat × State :=
  let a := odv s oERR_INJECT_ADDR
  let k := odv s oERR_INJECT_KIND
  if v = 0 then (0, s)
  else if confidential s then (0x0440, s)
  else if k = 0 then (0x0102, s)
  else if inMap a 1 = false then (0x0160, s)
  else if injectFits k a = false then (0x0163, s)
  else (0, { s with ecc := { s.ecc with armed := some (a, k) } })

def execErrInjectArm (path : Fin 4) (v : Nat) (s : State) : Host.Outcome State Fault Refusal :=
  .next (namedWrite path.val oERR_INJECT_ARM v (wInjectArm v) s)

/-! ### BAR2 (R277) -/

/-- R277: the module address of an offset in the window. -/
def bar2Addr (s : State) (off : Nat) : Nat := s.hst.bar2 + off

/-- R277: the access is closed: a hole, the reserved region or the window of a tile in off. -/
def bar2Closed (s : State) (a n : Nat) : Bool := !inMap a n || windowOff s a n

/-- R276, R275: the function answers memory accesses: its link is up and it is in D0. -/
def barOpen (s : State) : Bool := s.hst.linkUp && !s.hst.d3

/-- R476: PCIe payload bytes received (0) or sent (1). -/
def pcieCount (dir n : Nat) (s : State) : State := odAdd s (oPCIE_BYTES + dir) n

/-- R275: Unsupported Request, which AER shows in bit 20 of its uncorrectable error status. -/
def unsupported (s : State) : State :=
  emit .hostUr { s with hst := { s.hst with cfg := { s.hst.cfg with aer := Nat.lor s.hst.cfg.aer 1048576 } } }

/-- R277, R188: a host read of `n` bytes. -/
def bar2Read (off n : Nat) (s : State) : State :=
  if s.hst.linkUp = false then s
  else if s.hst.d3 ∨ confidential s then unsupported s
  else
    let a := bar2Addr s off
    if bar2Closed s a n then unsupported s
    else
      let s1 := touchChannel a n (correctIn a n s)
      match ueRead s a n with
      | some m => unsupported (ueRecord m noCmd s1)
      | none => pcieCount 1 n (emit (.hostRead (memRead s.mem a n)) s1)

def execBar2Read (off : Fin 17179869184) (n : Nat) (s : State) : Host.Outcome State Fault Refusal :=
  .next (bar2Read off.val n s)

/-- R277, R188, R189: a host write: dropped and counted where it may not go. -/
def bar2Write (off : Nat) (bs : List Byte) (s : State) : State :=
  if s.hst.linkUp = false then s
  else if s.hst.d3 ∨ confidential s then unsupported s
  else
    let a := bar2Addr s off
    let n := bs.length
    let s0 := pcieCount 0 n s
    if bar2Closed s a n then odAdd s0 oBAR2_DROPPED 1
    else
      let s1 := touchChannel a n (correctPart a n s0)
      match ueWrite s0 a n with
      | some m => ueRecord m noCmd s1
      | none => putBytes a bs s1

def execBar2Write (off : Fin 17179869184) (bs : List Byte) (s : State) : Host.Outcome State Fault Refusal :=
  .next (bar2Write off.val bs s)

end Sys2Proof.Machine
end

