-- ==== Sys2Proof/Machine/Packet.lean ====
section
/-! DEFINITION. Packets: their header slot, the switch and its arbitration, routing, and discard notices (R210 to R213,
R226 to R229, R233, R242). -/
namespace Sys2Proof.Machine

/-! ### The header slot (R210) -/

/-- R210: the packet that a header slot spells, without its payload. -/
def pktOfHeader (h : List Byte) : Pkt :=
  let w := fld h 0 16
  { dst := w % 2 ^ 16, src := bitsOf w 31 16, vc := bitsOf w 34 32, detour := bitAt w 35, last := bitsOf w 40 36,
    age := bitsOf w 52 41, op := bitsOf w 60 53, pslots := bitsOf w 65 61, lastBytes := bitsOf w 71 66,
    rsv := bitsOf w 79 72, rtag := bitsOf w 95 80, ea := bitsOf w 111 96, opId := bitsOf w 127 112,
    gaddr := fld h 16 8, operand := fld h 24 8, data := [] }

/-- R210: the header slot of a packet. -/
def headerOf (p : Pkt) : List Byte :=
  leBytes 16 (p.dst + p.src * 2 ^ 16 + p.vc * 2 ^ 32 + b2n p.detour * 2 ^ 35 + p.last * 2 ^ 36 + p.age * 2 ^ 41
    + p.op * 2 ^ 53 + p.pslots * 2 ^ 61 + p.lastBytes * 2 ^ 66 + p.rsv * 2 ^ 72 + p.rtag * 2 ^ 80 + p.ea * 2 ^ 96
    + p.opId * 2 ^ 112) ++ leBytes 8 p.gaddr ++ leBytes 8 p.operand

/-- R210: bytes of payload by PSLOTS and LAST_BYTES. -/
def payloadLen (p : Pkt) : Nat := if p.pslots = 0 then 0 else 32 * (p.pslots - 1) + p.lastBytes

/-- R210: the slots of a packet, header first. -/
def pktSlots (p : Pkt) : List (List Byte) :=
  headerOf p :: (List.range p.pslots).map fun i => padTo 32 ((p.data.drop (32 * i)).take 32)

/-- R213: slots of a packet, header included. -/
def pktLen (p : Pkt) : Nat := p.pslots + 1

/-- R210: PSLOTS and LAST_BYTES of a payload. -/
def withData (p : Pkt) (bs : List Byte) : Pkt :=
  let n := ceilDiv bs.length 32
  { p with data := bs, pslots := n, lastBytes := if n = 0 then 0 else bs.length - 32 * (n - 1) }

/-- R245: the opcodes of requests, responses and neighbour packets. -/
def opRequest (op : Nat) : Bool :=
  op == 1 || op == 2 || decide (0x10 ≤ op ∧ op ≤ 0x17) || op == 0x20 || op == 0x30 || op == 0x31
def opResponse (op : Nat) : Bool :=
  op == 0x81 || op == 0x82 || op == 0x90 || op == 0xA0 || op == 0xB0 || op == 0xF0

/-- R245: the opcode is one of the table, on a channel of its class; COLL_STEP and PACE may also travel routed as requests
(R265, R268). -/
def opFits (p : Pkt) : Bool :=
  if opRequest p.op then decide (p.vc ≤ 2)
  else if opResponse p.op then decide (3 ≤ p.vc ∧ p.vc ≤ 5)
  else if p.op = 0x40 then p.vc == 6 || decide (p.vc ≤ 2)
  else if p.op = 0x50 then p.vc == 7 || decide (p.vc ≤ 2)
  else false

/-- R210, R211: the header breaks the rules. -/
def pktBad (s : State) (p : Pkt) : Bool :=
  decide (16 < p.pslots) || (p.pslots == 0 && p.lastBytes != 0)
    || (p.pslots != 0 && (p.lastBytes == 0 || decide (32 < p.lastBytes)))
    || decide (2 ^ odv s oFABRIC_DIMS ≤ p.dst) || (decide (16 ≤ p.last) && p.last != 31) || p.rsv != 0 || !opFits p
    || (decide (6 ≤ p.vc) && p.dst != odv s oNODE_ID)

/-! ### Injection -/

/-- The packet put into the switch from an input. -/
def inject (inp : Nat) (p : Pkt) (s : State) : State :=
  { s with fab := { s.fab with sw := s.fab.sw ++ [⟨inp, none, false, p⟩] } }

/-- R210: a new packet of this module: LAST_DIM 31, the age stamp of now. -/
def newPkt (s : State) (op vc dst rtag opId gaddr operand : Nat) : Pkt :=
  { dst := dst, src := odv s oNODE_ID, vc := vc, detour := false, last := 31, age := stampNow s, op := op, pslots := 0,
    lastBytes := 0, rsv := 0, rtag := rtag, ea := 0, opId := opId, gaddr := gaddr, operand := operand, data := [] }

/-- R227, R233: the requester of a packet: SRC_NODE of a request, DST_NODE of a response. -/
def requester (p : Pkt) : Nat := if opResponse p.op then p.dst else p.src

/-! ### Ports as routing sees them -/

def portOf (s : State) (p : Nat) : PortSt := tget s.fab.ports p PortSt.initial
def setPort (p : Nat) (x : PortSt) (s : State) : State := { s with fab := { s.fab with ports := tput s.fab.ports p x } }

/-- R221, R226, R234: a port is live in UP; one that drains accepts no new packet. -/
def portLive (s : State) (p : Nat) : Bool := portState s p == 6 && !(portOf s p).drain

/-- R213: credit that the sender holds on a channel. -/
def portCredit (s : State) (p vc : Nat) : Nat := tget (portOf s p).credit vc 0

/-! ### Routing (R226) -/

/-- The dimensions of a set of bits. -/
def dimsOf (d : Nat) : List Nat := (List.range 16).filter fun j => bitAt d j

/-- R226: the routing level of a channel, and the channel one level up. -/
def levelOf (vc : Nat) : Nat := if vc ≤ 2 then vc else vc - 3

/-- R226: the dimension of `ds` whose port holds most credit on a channel, the lowest on a tie. -/
def mostCredit (s : State) (vc : Nat) : List Nat → Option Nat
  | [] => none
  | j :: r =>
    match mostCredit s vc r with
    | none => some j
    | some k => if portCredit s j vc < portCredit s k vc then some k else some j

/-- R226: the output of a packet and the packet as it leaves, `none` where it is unreachable. -/
def route (s : State) (p : Pkt) : Option (Nat × Pkt) :=
  let d := Nat.xor (odv s oNODE_ID) p.dst % 2 ^ 16
  let after (j : Nat) : Bool := p.last == 31 || decide (p.last < j)
  let inD := dimsOf d
  let outD := (List.range 16).filter fun j => !bitAt d j
  let live (j : Nat) : Bool := portLive s j
  let up : Pkt := { p with vc := p.vc + 1 }
  let go (j : Nat) (q : Pkt) : Option (Nat × Pkt) := some (j, { q with last := j })
  match inD.head?, inD.filter fun j => live j && after j with
  | some k, a :: as =>
    if live k && after k then go k p
    else match mostCredit s p.vc (a :: as) with | some j => go j p | none => none
  | _, _ =>
    match (if levelOf p.vc < 2 then inD.find? live else none) with
    | some j => go j up
    | none =>
      if p.detour then none
      else match outD.find? fun j => live j && after j with
        | some j => go j { p with detour := true }
        | none =>
          match (if levelOf p.vc < 2 then outD.find? live else none) with
          | some j => go j { up with detour := true }
          | none => none

/-- R263, R265: the switch half whose reduction engine takes a step packet: that of the port of the dimension it moves over. -/
def collHalf (p : Pkt) : Nat := Nat.log2 (Nat.xor p.src p.dst) / 8 % 2

/-- R16, R229: where a packet for this module goes: the ejection path to a die (16 and 17), the input of the reduction engine
of a half (20 and 21), or that of its remote-atomic engine (22 and 23); by the address it names, its front end, or half 0. -/
def ejectOf (p : Pkt) : Nat :=
  if opResponse p.op then 16 + p.rtag / 2 ^ 15 % 2
  else if p.op = 0x40 then 20 + collHalf p
  else if decide (0x10 ≤ p.op ∧ p.op ≤ 0x17) || p.op == 0x20 then 22 + addrDie (p.gaddr % 2 ^ 42)
  else if opRequest p.op then 16 + addrDie (p.gaddr % 2 ^ 42)
  else 16

/-- R211, R226, R242: where a packet in the switch leaves it: a port (0 to 15), an output of `ejectOf`, or nowhere. Neighbour
packets of channels 6 and 7 take their one hop. -/
def outputOf (s : State) (p : Pkt) : Option (Nat × Pkt) :=
  if p.dst = odv s oNODE_ID then some (ejectOf p, p)
  else if 6 ≤ p.vc then
    let d := Nat.xor (odv s oNODE_ID) p.dst % 2 ^ 16
    match dimsOf d with
    | [j] => if portLive s j then some (j, { p with last := j }) else route s { p with vc := 0 }
    | _ => none
  else route s p

/-- R16, R481: the switch half of an output. -/
def outHalf (out : Nat) : Nat := if out < 16 then out / 8 else out % 2

/-- R16: the switch half of an input. -/
def inHalf (inp : Nat) : Nat := if inp < 32 then inp / 8 % 2 else inp % 2

/-- R17, R229: the output of its half at which a packet waits: where it leaves the switch, or the die-bridge crossing of its
half (18 and 19) on the way to the other half. -/
def switchOut (s : State) (q : QPkt) : Option (Nat × Pkt) :=
  (outputOf s q.pkt).map fun o =>
    if outHalf o.1 = inHalf q.inp then o else (18 + inHalf q.inp, q.pkt)

/-! ### Discard notices (R227, R233, R244, R245) -/

/-- The discard notice for a packet, to its requester: of a COLL_STEP packet it carries the GADDR, by which the collective is
found, and of a PACE packet one that names no collective and no front end. -/
def noticePkt (code : Nat) (p : Pkt) (s : State) : Pkt :=
  newPkt s 0xF0 3 (requester p) p.rtag p.opId (if p.op = 0x40 then p.gaddr else if p.op = 0x50 then 2 ^ 63 else 0) code

/-- R211, R227, R233, R244: a discard notice leaves for the requester of a packet. One for a notice without a route leaves
only while it has a route itself. -/
def notice (code : Nat) (p : Pkt) (s : State) : State :=
  let k := noticePkt code p s
  if p.op = 0xF0 ∧ code = 0x0351 ∧ outputOf s k = none then s else inject 32 k s

/-! ### The switch (R229) -/

/-- R212: the buffer slots of a packet are freed once it leaves its input buffer. -/
def freeSlots (q : QPkt) (s : State) : State :=
  match q.from_ with
  | none => s
  | some (p, vc) =>
    let x := portOf s p
    setPort p { x with held := tput x.held vc (tget x.held vc 0 - pktLen q.pkt) } s

/-- R212, R227: the packets without a route leave the switch with notices. -/
def dropUnreachable : List QPkt → State → State
  | [], s => s
  | q :: r, s =>
    dropUnreachable r (match outputOf s q.pkt with
      | some _ => { s with fab := { s.fab with sw := s.fab.sw ++ [q] } }
      | none => notice 0x0351 q.pkt (freeSlots q (odAdd s oUNREACHABLE_COUNT 1)))

/-- R213, R229: a candidate of an output: its place in the switch, the packet in the switch and as it would leave. -/
structure Cand where
  at_  : Nat
  q    : QPkt
  out  : Pkt
  deriving DecidableEq, Repr

/-- R229: the heads of the queues for an output, one queue per input and channel. -/
def candsOf (s : State) (out : Nat) : Nat → List QPkt → List (Nat × Nat) → List Cand
  | _, [], _ => []
  | i, q :: r, seen =>
    match switchOut s q with
    | some (o, p) =>
      if o ≠ out then candsOf s out (i + 1) r seen
      else if (q.inp, q.pkt.vc) ∈ seen then candsOf s out (i + 1) r seen
      else
        let rest := candsOf s out (i + 1) r ((q.inp, q.pkt.vc) :: seen)
        if 16 ≤ out ∨ pktLen p ≤ portCredit s out p.vc then ⟨i, q, p⟩ :: rest else rest
    | none => candsOf s out (i + 1) r seen

/-- R37 to R39: the candidate granted: the longest wait, then the rotation over inputs, then the lower channel. -/
def bestCand (s : State) (rot : Nat) : List Cand → Option Cand
  | [] => none
  | c :: r =>
    match bestCand s rot r with
    | none => some c
    | some b =>
      let wc := waitOf s c.q.pkt.age
      let wb := waitOf s b.q.pkt.age
      if wb < wc then some c
      else if wc < wb then some b
      else if rotBefore rot b.q.inp c.q.inp then some b
      else if b.q.inp = c.q.inp ∧ b.q.pkt.vc < c.q.pkt.vc then some b
      else some c

/-- R476: a packet that passes through counts in TRANSIT_BYTES of the port it leaves by, and one of this module in the
link counters. -/
def countSent (out : Nat) (q : QPkt) (s : State) : State :=
  if q.from_.isSome then odAdd s (oTRANSIT_BYTES + 256 * out) (payloadLen q.pkt)
  else odAdd (odAdd s (oLINK_PAYLOAD_BYTES + 256 * out) (payloadLen q.pkt)) (oLINK_PACKETS + 256 * out) 1

/-- R38: a packet that has reached 2,047 units is logged once at this module. -/
def pktSat (half : Nat) (q : QPkt) (s : State) : State :=
  if q.sat = false ∧ waitOf s q.pkt.age = 2047 then
    logEvent evAGE_SATURATED (srcHalf half) q.pkt.age 0 ⟨0, q.pkt.opId, 0⟩ s
  else s

/-- R38: the packets that reach 2,047 units while they wait in the switch. -/
def switchSat (s : State) : State :=
  s.fab.sw.foldl (fun s q => pktSat (inHalf q.inp) q s)
    { s with fab := { s.fab with sw := s.fab.sw.map fun q =>
        { q with sat := q.sat || waitOf s q.pkt.age == 2047 } } }

/-- R213, R229: a granted packet leaves by an output: across the die bridge to the other half, to an engine or a die, or into
a port's queue, which takes the credit. -/
def leaveBy (out : Nat) (c : Cand) (s : State) : State :=
  let q : QPkt := { c.q with sat := c.q.sat || waitOf s c.q.pkt.age == 2047 }
  if 18 ≤ out ∧ out < 20 then
    { s with fab := { s.fab with sw := s.fab.sw ++ [{ q with inp := 34 + (1 - out % 2) }] } }
  else if 16 ≤ out then { s with fab := { s.fab with ej := s.fab.ej ++ [{ q with pkt := c.out }] } }
  else
    let x := portOf s out
    countSent out c.q (freeSlots c.q (setPort out
      { x with txq := x.txq ++ [⟨{ q with from_ := none }, c.out, 0⟩], credit := tput x.credit c.out.vc (tget x.credit c.out.vc 0 - pktLen c.out) }
      s))

/-- R185: the address beyond the map of the switch buffers of an input. -/
def switchCell (inp : Nat) : Nat := 2 ^ 44 + 4 * inp

/-- R185, R188: a packet is read from its buffer: an error corrected there is counted, and one that cannot be discards the
packet. -/
def readOut (out : Nat) (c : Cand) (s : State) : State :=
  match ueRead s (switchCell c.q.inp) 4 with
  | some m => notice 0x0343 c.q.pkt (freeSlots c.q (ueRecord m ⟨0, c.q.pkt.opId, 0⟩ s))
  | none => leaveBy out c (correctIn (switchCell c.q.inp) 4 s)

/-- R226, R229: an output of the switch grants the oldest eligible packet. -/
def arbitrate (out : Nat) (s : State) : State :=
  let s1 := dropUnreachable s.fab.sw { s with fab := { s.fab with sw := [] } }
  let cs := candsOf s1 out 0 s1.fab.sw []
  match bestCand s1 (tget s1.fab.rot out 0) cs with
  | none => s1
  | some c =>
    let tie := cs.any fun b => b.at_ != c.at_ && waitOf s1 b.q.pkt.age == waitOf s1 c.q.pkt.age
    let s2 := { s1 with fab := { s1.fab with
      sw := s1.fab.sw.eraseIdx c.at_
      rot := if tie then tput s1.fab.rot out (c.q.inp + 1) else s1.fab.rot } }
    readOut out c (pktSat (outHalf out) c.q s2)

def execOutputArbitrationGrant (out : Fin 24) (s : State) : Host.Outcome State Fault Refusal :=
  .next (arbitrate out.val s)

/-! ### Arrival (R211) -/

/-- R210: the first whole packet of a slot stream, with the slots after it. -/
def takePacket : List (List Byte) → Option (Pkt × List (List Byte))
  | [] => none
  | h :: r =>
    let p := pktOfHeader h
    let n := min p.pslots 16
    if r.length < n then none
    else
      let bs := (r.take n).flatten
      some ({ p with data := bs.take (if p.pslots = 0 then 0 else min bs.length (payloadLen p)) }, r.drop n)

/-- R211, R476: a whole packet arrives: dropped with a notice and a record where its header breaks the rules, and else put
into the switch. -/
def packetArrival (port : Nat) (s : State) : State :=
  let x := portOf s port
  match takePacket x.rxs with
  | none => s
  | some (p, rest) =>
    let s1 := setPort port { x with rxs := rest } s
    let q : QPkt := ⟨port, some (port, p.vc), false, p⟩
    if pktBad s p then
      logEvent evPACKET_INVALID_RECEIVED (0x2000 + port) p.op p.gaddr ⟨0, p.opId, 0⟩ (notice 0x0352 p (freeSlots q s1))
    else
      let s2 := { s1 with fab := { s1.fab with sw := s1.fab.sw ++ [q] } }
      if p.dst = odv s oNODE_ID then
        odAdd (odAdd s2 (oLINK_PAYLOAD_BYTES + 256 * port + 1) (payloadLen p)) (oLINK_PACKETS + 256 * port + 1) 1
      else s2

def execPacketArrival (port : Fin 16) (s : State) : Host.Outcome State Fault Refusal := .next (packetArrival port.val s)

/-! ### Packets ejected to this module -/

/-- The oldest ejected packet that satisfies `p`, with the state without it; its buffer slots are freed. -/
def takeEjected (p : Pkt → Bool) (s : State) : Option (Pkt × State) :=
  match s.fab.ej.find? fun q => p q.pkt with
  | none => none
  | some q => some (q.pkt, freeSlots q { s with fab := { s.fab with ej := leraseFirst (fun q => p q.pkt) s.fab.ej } })

end Sys2Proof.Machine
end

