-- ==== Sys2Proof/Machine/Link.lean ====
section
/-! DEFINITION. The ports: laser feed, states, flits, retry, keys, bring-up, lane degrade and loss (R197 to R225, R231 to
R234, R454 to R456). -/
namespace Sys2Proof.Machine

/-! ### A port's objects -/

/-- The key of a port's object, and a write of one. -/
def pKey (base p : Nat) : Nat := base + 256 * p
def pv (s : State) (base p : Nat) : Nat := odv s (pKey base p)
def pSet (base p v : Nat) (s : State) : State := odSet s (pKey base p) v
def pAdd (base p n : Nat) (s : State) : State := odAdd s (pKey base p) n

/-- R19, R468: COARSE: no port is trained, so the fabric reference is off. -/
def coarseUpdate (s : State) : State :=
  odBit s oTIME_FLAGS 0 (!(List.range 16).any fun p => decide (3 ≤ portState s p ∧ portState s p ≤ 7))

/-- The security engine's operations for a port are gone. -/
def dropKeyOps (p : Nat) (s : State) : State :=
  { s with sec := { s.sec with ops := s.sec.ops.filter (·.port != some p), wait := s.sec.wait.filter (·.port != some p) } }

/-- R221: a port's state; the fabric reference follows the ports (R19). A port without a link has no key operation. -/
def setPState (p v : Nat) (s : State) : State :=
  coarseUpdate (pSet oPORT_STATE p v (if v < 5 ∨ 7 < v then dropKeyOps p s else s))
def modPort (p : Nat) (f : PortSt → PortSt) (s : State) : State := setPort p (f (portOf s p)) s

/-- R518: SOURCE of a port. -/
def srcOfPort (p : Nat) : Nat := 0x2000 + p

/-- R197: the port belongs to the machine's dimensions. -/
def inDims (s : State) (p : Nat) : Bool := decide (p < odv s oFABRIC_DIMS)

/-- R198: some port is not in DISABLED. -/
def anyPortOn (s : State) : Bool := (List.range 16).any fun p => portState s p != 0

/-! ### Identity (R198) -/

/-- R198 check 3, for given values of FABRIC_DIMS and NODE_ID. -/
def slotFits (s : State) (dims node : Nat) : Bool :=
  let m := min 5 dims
  node % 2 ^ m == odv s oSLOT_ID % 2 ^ m

/-- R198 check 4. -/
def nodeFits (dims node : Nat) : Bool := decide (node < 2 ^ dims)

/-! ### Leaving and entering DISABLED and DARK (R221) -/

/-- R221, R237: the objects of a port without a link. -/
def clearLink (p : Nat) (s : State) : State :=
  pSet oHOLD_REASON p 0 (pSet oLANES_ACTIVE p 0 (pSet oLANE_SET p 0 (pSet oCONN_HEALTH p 6 s)))

/-- The peer is no longer identified. -/
def forgetPeer (p : Nat) (s : State) : State :=
  pSet oNEIGHBOUR_NODE p 0 (pSet oNEIGHBOUR_PORT p 255 (pSet oNEIGHBOUR_MACHINE p 0 s))

/-- A port's link state at a new bring-up: as initial, but for the buffer slots that packets of the port still hold and for
what R216 and R231 count over time. -/
def freshPort (s : State) (p tx : Nat) : PortSt :=
  let hold := (s.fab.sw ++ s.fab.ej).foldl (fun t q => match q.from_ with
    | some (r, vc) => if r = p then tput t vc (tget t vc 0 + pktLen q.pkt) else t
    | none => t) ([] : Table Nat)
  { PortSt.initial with txOn := tx, held := hold, hist := (portOf s p).hist, rule4 := (portOf s p).rule4 }

/-- R221: the port goes to DISABLED, its shutter closed. -/
def toDisabled (p : Nat) (s : State) : State :=
  setPort p (freshPort s p 0) (setPState p 0 (forgetPeer p (clearLink p s)))

/-- R221: the port goes to DARK. -/
def toDark (p : Nat) (s : State) : State :=
  setPort p (freshPort s p 0) (setPState p 1 (forgetPeer p (clearLink p s)))

/-- R197, R201, R221, R508: a port that may be in use: enabled, in the machine's dimensions, with light, and the main domain
up and not stopping. -/
def portWanted (p : Nat) (s : State) : Bool :=
  pv s oPORT_ENABLE p == 1 && inDims s p && s.mod.pins.laserOk && pllsUp s && modState s != 4

/-- R221, R198: a port that may leave DISABLED does; check 3 of R198 is repeated. -/
def raisePort (p : Nat) (s : State) : State :=
  if portState s p = 0 ∧ portWanted p s then
    if slotFits s (odv s oFABRIC_DIMS) (odv s oNODE_ID) then toDark p s
    else if s.fab.idFail then s
    else logSimple 0x0170 srcModule { s with fab := { s.fab with idFail := true } }
  else s

/-- Every port that may leave DISABLED. -/
def raisePorts (s : State) : State :=
  let s1 := if slotFits s (odv s oFABRIC_DIMS) (odv s oNODE_ID) then
    { s with fab := { s.fab with idFail := false } } else s
  (List.range 16).foldl (fun s p => raisePort p s) s1

/-! ### The laser feed (R201) -/

/-- R201: the module drives LASER_EN high: the main domain is up, and some port in the machine's dimensions is enabled
(R237). -/
def laserWanted (s : State) : Bool :=
  pllsUp s && !s.mod.tripLatch && decide (1 ≤ odv s oFABRIC_DIMS)
    && ((List.range 16).any fun p => pv s oPORT_ENABLE p == 1 && inDims s p) && !s.fab.latch

/-- R201, R238: LASER_EN and LASER_STATE follow the conditions. -/
def laserUpdate (s : State) : State :=
  let en := laserWanted s
  let st := if s.fab.latch then 3 else if !en then 0 else if s.mod.pins.laserOk then 2 else 1
  odSet { s with mod := { s.mod with pins := { s.mod.pins with laserEn := en } } } oLASER_STATE st

/-! ### Port loss (R233) -/

/-- R232 to R234: packets granted to a port and not begun go back to the switch, and their credit to the port. -/
def requeue (p : Nat) (s : State) : State :=
  let x := portOf s p
  let back := x.txq.filter fun t => t.sent == 0
  let credit := back.foldl (fun c t => tput c t.out.vc (tget c t.out.vc 0 + pktLen t.out)) x.credit
  setPort p { x with txq := x.txq.filter fun t => t.sent != 0, credit := credit }
    { s with fab := { s.fab with sw := back.map (·.q) ++ s.fab.sw } }

/-- R211: every whole packet received goes to the switch, before partial ones are dropped. -/
def takeWhole (p : Nat) : Nat → State → State
  | 0, s => s
  | n + 1, s => match takePacket (portOf s p).rxs with
    | some _ => takeWhole p n (packetArrival p s)
    | none => s

/-- R233: the packets of a port's replay buffer: those that end in a flit not acknowledged, and one begun and not
finished. -/
def replayPkts (x : PortSt) : List TxPkt := x.replay.flatMap (·.pkts) ++ x.txq.filter fun t => t.sent != 0

/-- R456: a link message of a kind that R456 gives no encoding for. -/
def linkNote (p kind : Nat) (bs : List Byte) (s : State) : State := emit (.link p kind bs) s

/-- R470: the eight round-trip probes of IDENT: the time base as each leaves, whether the module is aligned, and its depth. -/
def sendProbes (p : Nat) (s : State) : State :=
  (List.range 8).foldl (fun s _ => linkNote p 0x105 (leBytes 8 s.now ++ leBytes 1 (b2n !bitAt (odv s oTIME_FLAGS) 2)
    ++ leBytes 1 (odv s oTIME_ALIGN_DEPTH)) s) s

/-- R223: the port sends its MACHINE_ID, FABRIC_DIMS, NODE_ID and port number, and its probes. -/
def sendIdent (p : Nat) (s : State) : State :=
  sendProbes p <| linkNote p 0x102 (leBytes 4 (odv s oMACHINE_ID) ++ leBytes 1 (odv s oFABRIC_DIMS) ++ leBytes 2 (odv s oNODE_ID) ++ leBytes 1 p) s

/-- R218, R224: LOCATE goes to the peer whenever the link can carry it. -/
def sendLocate (p : Nat) (s : State) : State :=
  if 3 ≤ portState s p ∧ portState s p ≤ 6 then linkNote p 0x104 (leBytes 1 (pv s oLOCATE p)) s else s

/-- R233: a port in UP or RETRAIN is declared lost; `auth` where failing tags were the cause (R220). -/
def portLoss (p : Nat) (auth : Bool) (s : State) : State :=
  if portState s p = 6 ∨ portState s p = 7 then
    let s1 := requeue p (takeWhole p ((portOf s p).rxs.length) s)
    let lost := replayPkts (portOf s1 p)
    let s2 := pAdd oPORT_LOSSES p 1 (clearLink p (setPState p 8 s1))
    let s3 := setPort p (freshPort s2 p 0) s2
    let s4 := lost.foldl (fun s q => notice 0x0350 q.out s) s3
    let s5 := linkNote p 0x101 [] s4
    let s6 := logSimple 0x0350 (srcOfPort p) s5
    let s7 := if auth then logSimple evLINK_AUTH_FAILED (srcOfPort p) s6 else s6
    emcyEvent 0xFF00 0 0x0350 s7
  else s

/-- R221: a port whose bring-up fails. -/
def toFailed (p : Nat) (s : State) : State :=
  setPort p (freshPort s p 0) (setPState p 8 (clearLink p s))

/-- R201, R221: the port leaves service and goes to DISABLED: lost where it was up (R233). -/
def portOff (p : Nat) (s : State) : State := if portState s p = 0 then s else toDisabled p (portLoss p false s)

/-! ### Writes of the fabric objects -/

def wFabricDims (v : Nat) (s : State) : Nat × State :=
  if anyPortOn s then (0x0550, s)
  else if 16 < v then (0x0103, s)
  else if nodeFits v (odv s oNODE_ID) = false then (0x0172, s)
  else (0, raisePorts (laserUpdate (odSet s oFABRIC_DIMS v)))

def execFabricDimsWrite (path : Fin 4) (v : Nat) (s : State) : Host.Outcome State Fault Refusal :=
  .next (namedWrite path.val oFABRIC_DIMS v (wFabricDims v) s)

def wNodeId (v : Nat) (s : State) : Nat × State :=
  if anyPortOn s then (0x0550, s)
  else if slotFits s (odv s oFABRIC_DIMS) v = false then (0x0170, s)
  else if nodeFits (odv s oFABRIC_DIMS) v = false then (0x0172, s)
  else (0, raisePorts (odSet s oNODE_ID v))

def execNodeIdWrite (path : Fin 4) (v : Nat) (s : State) : Host.Outcome State Fault Refusal :=
  .next (namedWrite path.val oNODE_ID v (wNodeId v) s)

def wMachineId (v : Nat) (s : State) : Nat × State :=
  if anyPortOn s then (0x0550, s) else (0, odSet s oMACHINE_ID v)

def execMachineIdWrite (path : Fin 4) (v : Nat) (s : State) : Host.Outcome State Fault Refusal :=
  .next (namedWrite path.val oMACHINE_ID v (wMachineId v) s)

/-- R234: a drain is complete once every flit is acknowledged: the going-down notice, and the shutter closes. -/
def drainCheck (p : Nat) (s : State) : State :=
  let x := portOf s p
  if x.drain ∧ portState s p = 6 ∧ x.replay.isEmpty ∧ x.txq.isEmpty then
    raisePort p (toDisabled p (takeWhole p x.rxs.length (linkNote p 0x100 [] s)))
  else s

/-- R234, R508: a port in UP drains; one in RETRAIN does once it is UP again. -/
def startDrain (p : Nat) (s : State) : State := drainCheck p (modPort p (fun x => { x with drain := true }) (requeue p s))

/-- R221, R234: a write of PORT_ENABLE. -/
def wEnable (p v : Nat) (s : State) : Nat × State :=
  let s1 := laserUpdate (pSet oPORT_ENABLE p v s)
  if v = 0 then (0, if portState s p = 6 then startDrain p s1 else portOff p s1) else (0, raisePort p s1)


/-- R231, R232: a port in UP starts a retrain, towards FEC mode `fec`. -/
def startRetrain (p fec : Nat) (widen : Bool) (s : State) : State :=
  if portState s p = 6 then
    modPort p (fun x => { x with fecNext := fec, widen := widen }) (requeue p (setPState p 7 s))
  else s

/-- R205: a write of FEC_MODE. -/
def wFecMode (p v : Nat) (s : State) : Nat × State :=
  if v = 1 ∧ 20 ≤ pv s oFIBRE_LENGTH p then (0x0171, s)
  else (0, startRetrain p v false (pSet oFEC_MODE p v s))

def execFecModeWrite (path : Fin 4) (p : Fin 16) (v : Nat) (s : State) : Host.Outcome State Fault Refusal :=
  .next (namedWrite path.val (pKey oFEC_MODE p.val) v (wFecMode p.val v) s)

/-- R232, R237: a write of RETRAIN_NOW: a retrain at the widest healthy width. -/
def wRetrainNow (p v : Nat) (s : State) : Nat × State :=
  if v = 0 then (0, s)
  else (0, startRetrain p (pv s oFEC_ACTIVE p) true (modPort p (fun x => { x with lanesBad := [] }) s))

def execRetrainNow (path : Fin 4) (p : Fin 16) (v : Nat) (s : State) : Host.Outcome State Fault Refusal :=
  .next (namedWrite path.val (pKey oRETRAIN_NOW p.val) v (wRetrainNow p.val v) s)

/-! ### Keys (R217 to R219, R455, R456) -/

/-- R456: a link message cut into fragments of one control flit each: an 8-byte header and up to 504 bytes. -/
def fragments (typ total : Nat) : Nat → Nat → List Byte → List (List Byte)
  | 0, _, _ => []
  | n + 1, i, bs =>
    (leBytes 1 typ ++ leBytes 1 0 ++ leBytes 2 i ++ leBytes 4 total ++ bs.take 504)
      :: (if bs.length ≤ 504 then [] else fragments typ total n (i + 1) (bs.drop 504))

/-- R456: a link message waits for control flits. -/
def sendLink (p typ : Nat) (body : List Byte) (s : State) : State :=
  modPort p (fun x => { x with ctlq := x.ctlq ++ fragments typ (8 + body.length) (body.length / 504 + 1) 0 body }) s

/-- R454: the chain that CERT carries. -/
def linkChain (s : State) : List Byte :=
  let m := odv s oLINK_AUTH_MODE
  if m = 0 then Config.chain0 else if m = 1 then s.sec.slot1 else Config.dikPublic

/-- R455: a fresh NONCE or key, which nothing but the module chooses. -/
def fresh64 (k : Nat) : Nat := Config.freeWord k 0 % 2 ^ 64
def fresh256 (k : Nat) : Nat := Config.freeWord k 1 % 2 ^ 256

/-- R455: the port sends its CERT with a fresh NONCE. -/
def sendCert (p : Nat) (s : State) : State :=
  let (k, s1) := freeNext s
  let ch := linkChain s
  sendLink p 0x10 (leBytes 1 (odv s oLINK_AUTH_MODE) ++ leBytes 1 (odv s oSEC_MODE) ++ zeros 6 ++ leBytes 8 (fresh64 k)
    ++ leBytes 4 ch.length ++ zeros 4 ++ ch) (modPort p (fun x => { x with nonce := some (fresh64 k) }) s1)

/-- R219: the first frame of the interval after the one that holds frame `n`. -/
def nextInterval (s : State) (n : Nat) : Nat :=
  let i := 2 ^ odv s oREKEY_LOG2
  (n / i + 1) * i

/-! ### The security engine's queue (R436) -/

/-- R436: the engine has room for an operation: the oldest is in service, and 32 link-key operations and 4 SPDM operations
may wait. -/
def opRoom (ops : List SecOp) (o : SecOp) : Bool :=
  ops.isEmpty || decide (((ops.drop 1).filter fun x => x.port.isSome == o.port.isSome).length
    < if o.port.isSome then 32 else 4)

/-- R436: the operations that wait at their source enter where there is room, oldest first. -/
def takeIn (ops : List SecOp) : List SecOp → List SecOp × List SecOp
  | [] => (ops, [])
  | o :: r => if opRoom ops o then takeIn (ops ++ [o]) r else let x := takeIn ops r; (x.1, o :: x.2)

/-- R436: the engine's queue after it takes in what waits. -/
def secFill (ops wait : List SecOp) (s : State) : State :=
  let x := takeIn ops wait
  { s with sec := { s.sec with ops := x.1, wait := x.2 } }

/-- R436: a further operation. -/
def secAdd (o : SecOp) (s : State) : State := secFill s.sec.ops (s.sec.wait ++ [o]) s

/-- R455: the port offers a fresh key for its receive direction, effective at a frame of the peer's counter (0: at once
or as the peer's KEY_ACK names): the engine signs the offer. -/
def sendOffer (p phase nonce effective : Nat) (s : State) : State := secAdd (.offer p phase nonce effective) s

/-- R436, R455: the offer is signed and sent. -/
def offerNow (p phase nonce effective : Nat) (s : State) : State :=
  let (k, s1) := freeNext s
  let body := leBytes 2 (odv s oNODE_ID) ++ leBytes 1 p ++ leBytes 1 phase ++ leBytes 4 (odv s oMACHINE_ID)
    ++ leBytes 8 effective ++ leBytes 8 nonce ++ padTo 512 (Config.wrapKey k (fresh256 k))
  sendLink p 0x12 (body ++ padTo 512 (Config.sign 0 body))
    (modPort p (fun x => { x with rxNext := some (fresh256 k, effective) }) s1)

/-- R455: the port requests the next key of its transmit direction. -/
def sendRequest (p : Nat) (s : State) : State :=
  let (k, s1) := freeNext s
  sendLink p 0x11 (leBytes 1 (1 - (portOf s p).phase) ++ zeros 7 ++ leBytes 8 (fresh64 k))
    (modPort p (fun x => { x with nonce := some (fresh64 k), asked := true }) s1)

/-- R455: in KEYING, with the peer's chain accepted, the port makes its offer. -/
def keyingOffer (p : Nat) (s : State) : State :=
  match portState s p == 5, (portOf s p).peerNonce with
  | true, some n => modPort p (fun x => { x with peerNonce := none }) (sendOffer p 0 n 0 s)
  | _, _ => s

/-- R221: a port enters KEYING: the first key is requested. -/
def toKeying (p : Nat) (s : State) : State := keyingOffer p (sendCert p (pSet oHOLD_REASON p 0 (setPState p 5 s)))

/-- R221, R455: a port whose first keys are installed in both directions is UP. -/
def reachUp (p : Nat) (s : State) : State :=
  let x := portOf s p
  if portState s p = 5 ∧ x.ackTx ∧ x.ackRx then
    sendLocate p (setPort p { x with bad := 0, nak := false, gap := false, again := none }
      (pSet oKEY_CHANGES p 0 (setPState p 6 { s with sec := { s.sec with keyed := s.sec.keyed.filter fun e => e.1 != p } })))
  else s

/-- R219: the first multiple of 2^16 after frame `n`. -/
def next64k (n : Nat) : Nat := (n / 65536 + 1) * 65536

/-- R454, R455: the peer is accepted, or its chain fails and it gets no offer. -/
def certDone (p nonce : Nat) (ok : Bool) (s : State) : State :=
  if ok then keyingOffer p (modPort p (fun x => { x with peerNonce := some nonce }) s) else s

/-- R436, R454, R455: CERT of the peer, with whether its chain passes the check of the local mode. -/
def certIn (p mode sec nonce len : Nat) (chainOk : Bool) (s : State) : State :=
  if 2 ≤ portState s p ∧ portState s p ≤ 5 ∧ 1 ≤ len ∧ len ≤ 8192 then
    let s1 := odSet s (oPEER_SEC_MODE + p) (sec % 256)
    if mode ≠ odv s oLINK_AUTH_MODE then s1
    else if mode = 2 then certDone p nonce true s1
    else secAdd (.cert p nonce chainOk) s1
  else s

def execCert (p : Fin 16) (mode sec nonce len : Nat) (chainOk : Bool) (s : State) : Host.Outcome State Fault Refusal :=
  .next (certIn p.val mode sec nonce len chainOk s)

/-- R455: the peer requests the next key of its transmit direction: the first request past the midpoint of an interval is
the scheduled one, and any other a forced change, in which this end requests its own next key too (log entry 139). -/
def keyRequestIn (p phase nonce : Nat) (s : State) : State :=
  if portState s p = 6 then
    let x := portOf s p
    let i := 2 ^ odv s oREKEY_LOG2
    let f := nextInterval s x.rx
    if i / 2 ≤ x.rx % i ∧ x.forced = false ∧ x.sched ≠ f then
      sendOffer p phase nonce f (modPort p (fun x => { x with sched := f }) s)
    else
      let s1 := sendOffer p phase nonce 0 s
      if x.forced then s1 else modPort p (fun x => { x with forced := true }) (sendRequest p s1)
  else s

def execKeyRequest (p : Fin 16) (phase : Fin 2) (nonce : Nat) (s : State) : Host.Outcome State Fault Refusal :=
  .next (keyRequestIn p.val phase.val nonce s)

/-- R455: the offer is the one outstanding, from the peer of IDENT. -/
def offerOk (s : State) (p : Nat) (o : OfferIn) : Bool :=
  (portOf s p).nonce == some o.nonce && o.node == pv s oNEIGHBOUR_NODE p && o.port == pv s oNEIGHBOUR_PORT p
    && o.machine == pv s oNEIGHBOUR_MACHINE p

/-- R436, R455: a key offer is dropped, or the engine checks its signature and unwraps its key. -/
def keyOfferIn (p : Nat) (o : OfferIn) (s : State) : State :=
  if (portState s p = 5 ∨ portState s p = 6) ∧ offerOk s p o then secAdd (.install p o) s else s

/-- R217, R219, R455: an offer that verifies, and is still the one outstanding: the transmitter installs its key and answers
KEY_ACK; the first key of a bring-up takes effect at once, at frame 0. -/
def installKey (p : Nat) (o : OfferIn) (s : State) : State :=
  match o.key with
  | none => s
  | some k =>
    if (o.sigOk && offerOk s p o) = false then s
    else
      let x := portOf s p
      let ack (f : Nat) : List Byte := leBytes 1 o.phase.val ++ zeros 7 ++ leBytes 8 f
      if portState s p = 5 then
        reachUp p (setPort p { (portOf (sendLink p 0x13 (ack 0) s) p) with
          txKey := k, tx := 0, keyAt := 0, phase := 0, replay := [], again := none, nonce := none, ackTx := true } s)
      else if portState s p = 6 then
        let f := if o.effective = 0 then next64k x.tx else o.effective
        sendLink p 0x13 (ack f) (setPort p { x with txNext := some (k, f), nonce := none } s)
      else s

def execKeyOffer (p : Fin 16) (o : OfferIn) (s : State) : Host.Outcome State Fault Refusal := .next (keyOfferIn p.val o s)

/-- R455: the peer has installed the key that this end offered, effective at a frame. -/
def keyAckIn (p effective : Nat) (s : State) : State :=
  let x := portOf s p
  match x.rxNext with
  | none => s
  | some (k, _) =>
    if portState s p = 5 then
      reachUp p (setPort p { x with rxKey := k, rx := 0, rxPhase := 0, sched := 0, rxNext := none, got := false, gap := false,
                                    ackRx := true } s)
    else if portState s p = 6 then setPort p { x with rxNext := some (k, effective) } s
    else s

def execKeyAck (p : Fin 16) (phase : Fin 2) (effective : Nat) (s : State) : Host.Outcome State Fault Refusal :=
  .next (if phase.val < 2 then keyAckIn p.val effective s else s)

/-- R219, R237: REKEY_ALL: every live port requests the next key of its transmit direction at once. -/
def forceKeys (s : State) : State :=
  (List.range 16).foldl (fun s p =>
    if portState s p = 6 then modPort p (fun x => { x with forced := true }) (sendRequest p s) else s) s

def wRekeyAll (v : Nat) (s : State) : Nat × State := (0, if v = 0 then s else forceKeys s)

def execRekeyAll (path : Fin 4) (v : Nat) (s : State) : Host.Outcome State Fault Refusal :=
  .next (namedWrite path.val oREKEY_ALL v (wRekeyAll v) s)

/-- R219: the next new flit of the port is one at which a key change falls due. -/
def keyDue (s : State) (p : Nat) : Bool :=
  let x := portOf s p
  portState s p == 6 && x.tx != x.keyAt
    && (x.tx % 2 ^ odv s oREKEY_LOG2 == 0 || (match x.txNext with | some e => e.2 == x.tx | none => false))

/-- R219, R233: the sender changes key at a due frame, or the port is lost where none is installed. -/
def keyChange (p : Nat) (s : State) : State :=
  if keyDue s p then
    let x := portOf s p
    match x.txNext with
    | none => portLoss p false s
    | some (k, f) =>
      if x.tx < f then portLoss p false s
      else pAdd oKEY_CHANGES p 1 (setPort p { x with txKey := k, txNext := none, keyAt := x.tx, phase := 1 - x.phase,
                                                     asked := false, forced := false } s)
  else s

/-- R219: the counter has passed the midpoint of the current interval. -/
def keyRequestDue (p : Nat) (s : State) : State :=
  let x := portOf s p
  let i := 2 ^ odv s oREKEY_LOG2
  if portState s p = 6 ∧ x.asked = false ∧ i / 2 ≤ x.tx % i then sendRequest p s else s

def execKeyRequestDue (p : Fin 16) (s : State) : Host.Outcome State Fault Refusal := .next (keyRequestDue p.val s)

/-! ### Flits (R206 to R209, R212 to R216) -/

/-- R207, R218: the port sends flits. -/
def portSends (s : State) (p : Nat) : Bool := decide (2 ≤ portState s p ∧ portState s p ≤ 6) && s.mod.pins.laserOk

/-- R217: the nonce of a frame. -/
def flitNonce (s : State) (p n : Nat) : Nat := odv s oNODE_ID * 2 ^ 80 + p * 2 ^ 76 + n % 2 ^ 64

/-- R208: the link header of a new flit. -/
def linkHeader (x : PortSt) (n : Nat) : List Byte :=
  leBytes 8 (n % 65536 + ((x.rx + 65535) % 65536) * 2 ^ 16 + b2n x.got * 2 ^ 32 + b2n x.nak * 2 ^ 33 + x.phase * 2 ^ 34)

/-- R206, R209, R217: the 540 bytes of a flit. -/
def flitBytes (s : State) (p : Nat) (x : PortSt) (n ftype count crVc crCount : Nat) (slots : List Byte) : List Byte :=
  let h := linkHeader x n
  h ++ padTo 532 (Config.sealBytes x.txKey (flitNonce s p n) h
    (leBytes 4 (ftype + count * 4 + crVc * 2 ^ 7 + crCount * 2 ^ 10) ++ padTo 512 slots))

/-- R207, R218: the next packet slots of a data flit, with the packets that end in them and the queue left. Before the first
key only packets of channel 7 are sent. -/
def takeSlots (up : Bool) : Nat → List TxPkt → List (List Byte) × List TxPkt × List TxPkt
  | _, [] => ([], [], [])
  | 0, q => ([], [], q)
  | n + 1, t :: r =>
    if !up && t.out.vc != 7 then ([], [], t :: r)
    else
      let ss := (pktSlots t.out).drop t.sent
      if ss.length ≤ n + 1 then
        let (a, b, c) := takeSlots up (n + 1 - ss.length) r
        (ss ++ a, t :: b, c)
      else (ss.take (n + 1), [], { t with sent := t.sent + (n + 1) } :: r)
  termination_by structural _ q => q

/-- R212: a credit return keeps every channel's credit within its reserve and the pool. -/
def creditFits (x : PortSt) (vc n : Nat) : Bool :=
  let h := tput x.held vc (tget x.held vc 0 + n)
  decide (lsum ((List.range 8).map fun v => tget h v 0 - 256) ≤ 14336)

/-- R216, R231: the 4 % rule of the port over the last 10 ms. -/
def fourPercent (x : PortSt) : Bool :=
  let sent := lsum (x.hist.map (·.2.1))
  let re := lsum (x.hist.map (·.2.2))
  decide (4 * sent < 100 * re)

/-- R231: the lane in use with the most corrected symbols. -/
def worstLane (s : State) (p : Nat) : Nat :=
  let x := portOf s p
  (List.range 8).foldl (fun b n =>
    if bitAt (pv s oLANE_SET p) n ∧ (bitAt (pv s oLANE_SET p) b = false ∨ x.corr.getD b 0 < x.corr.getD n 0) then n else b) 0

/-- R216, R231: a port whose resent flits come to exceed 4 % of the flits of the last 10 ms retrains, and again for every further
10 ms over which they stay above; at the third time within 1 s without its worst lane. -/
def checkRate (p : Nat) (s : State) : State :=
  let x := portOf s p
  if portState s p = 6 ∧ fourPercent x ∧ (x.over4 = false ∨ x.rule4.all fun t => decide (t + 10000000 ≤ s.now)) then
    let ts := s.now :: x.rule4.filter fun t => decide (s.now < t + 1000000000)
    let bad := if 3 ≤ ts.length then worstLane s p :: x.lanesBad else x.lanesBad
    startRetrain p (pv s oFEC_ACTIVE p) false (setPort p { x with rule4 := ts, lanesBad := bad, over4 := true } s)
  else setPort p { x with over4 := x.over4 && fourPercent x } s

/-- R216: one flit sent, resent or new. -/
def countFlit (p : Nat) (re : Nat) (s : State) : State :=
  modPort p (fun x =>
    let h := x.hist.filter fun e => decide (s.now < e.1 + 10000000)
    { x with hist := match h with
        | (t, a, b) :: r => if t = s.now then (t, a + 1, b + re) :: r else (s.now, 1, re) :: (t, a, b) :: r
        | [] => [(s.now, 1, re)] }) s

/-- R207, R214: a port sends its next flit: one to resend, byte for byte as first sent, or a new one, with a credit return of
`crCount` slots on `crVc`. -/
def flitTransmit (p crVc crCount : Nat) (s : State) : State :=
  let x := portOf s p
  if portSends s p = false then s
  else match x.again with
  | some i =>
    match x.replay[i]? with
    | none => setPort p { x with again := none } s
    | some f =>
      let s1 := setPort p { x with again := if i + 1 < x.replay.length then some (i + 1) else none } s
      checkRate p (countFlit p 1 (pAdd oFLITS_RESENT p 1 (emit (.flit p f.bytes) s1)))
  | none =>
    if 1024 ≤ x.replay.length ∨ keyDue s p then s
    else
      let up := portState s p = 6
      let n := if up ∧ creditFits x crVc crCount then crCount else 0
      let ctl := x.tx % 1024 = 1023
      let (slots, ends, q) := if ctl then ([], [], x.txq) else takeSlots up 16 x.txq
      let body := if ctl then x.ctlq.headD [] else slots.flatten
      let bs := flitBytes s p x x.tx (if ctl then 1 else 0) slots.length (if n = 0 then 0 else crVc) n body
      let x1 := { x with tx := x.tx + 1, replay := x.replay ++ [⟨x.tx, bs, ends⟩], txq := q, nak := false, rxOld := 0,
                         ctlq := if ctl then x.ctlq.drop 1 else x.ctlq,
                         held := if n = 0 then x.held else tput x.held crVc (tget x.held crVc 0 + n) }
      checkRate p (countFlit p 0 (emit (.flit p bs) (setPort p x1 s)))

def execFlitTransmit (p : Fin 16) (crVc : Fin 8) (crCount : Fin 1024) (s : State) : Host.Outcome State Fault Refusal :=
  .next (flitTransmit p.val crVc.val crCount.val s)

/-- R237: what the FEC found in a flit. -/
def countFec (p : Nat) (f : FlitIn) (s : State) : State :=
  modPort p (fun x => { x with corr := (List.range 8).map fun n => x.corr.getD n 0 + f.fixed.getD n 0 })
    (pAdd oFEC_CORRECTED p (lsum f.fixed) (pAdd oFEC_UNCORRECTABLE p f.lost s))

/-- R214, R216: a flit that the receiver drops. -/
def flitDrop (p : Nat) (f : FlitIn) (s : State) : State :=
  let x := portOf s p
  let broken := f.lost != 0 || !f.tagOk
  let s1 := if f.lost = 0 ∧ f.tagOk = false then pAdd oTAG_FAILURES p 1 s else s
  let bad := if broken && f.fseq.val == x.rx % 65536 then x.bad + 1 else x.bad
  let s2 := modPort p (fun x => { x with bad := bad, nak := x.nak || !x.gap || broken, gap := true }) s1
  if 8 ≤ bad then portLoss p (f.lost == 0) s2 else s2

/-- R214: flits of the replay buffer up to an acknowledged FSEQ leave it. -/
def ackTo (a : Nat) (q : List FlitSt) : List FlitSt :=
  match lfindIdx (fun f => f.seq % 65536 == a) q with
  | some i => q.drop (i + 1)
  | none => q

/-- R208, R219: the receive key and phase with which a flit was accepted. -/
def rxKeyStep (x : PortSt) (phase : Nat) : PortSt :=
  if phase = x.rxPhase then x
  else match x.rxNext with
    | some (k, _) => { x with rxOld := x.rxKey, rxKey := k, rxNext := none, rxPhase := phase }
    | none => x

/-- R214, R212: a flit accepted in order: acknowledgements, credit and slots. -/
def flitAccept (p : Nat) (f : FlitIn) (s : State) : State :=
  let x := rxKeyStep (portOf s p) f.phase.val
  let rep := if f.ackV then ackTo f.ackSeq.val x.replay else x.replay
  let slots := if f.ftype.val = 0 then (f.slots.take f.count.val).map (padTo 32) else []
  drainCheck p (setPort p { x with
    rx := x.rx + 1, got := true, bad := 0, gap := false, replay := rep
    again := if f.nak ∧ rep ≠ [] then some 0 else if rep.length = x.replay.length then x.again
      else x.again.map fun i => i - (x.replay.length - rep.length)
    credit := if f.crCnt.val = 0 then x.credit
      else tput x.credit f.crVc.val (tget x.credit f.crVc.val 0 + f.crCnt.val)
    rxs := x.rxs ++ slots } s)

/-- R214: a received flit is accepted in order or dropped with a NAK. -/
def flitReceive (p : Nat) (f : FlitIn) (s : State) : State :=
  if 2 ≤ portState s p ∧ portState s p ≤ 6 then
    let s1 := countFec p f s
    if f.lost = 0 ∧ f.tagOk ∧ f.fseq.val = (portOf s p).rx % 65536 then flitAccept p f s1 else flitDrop p f s1
  else s


/-- R214: the NAK is repeated while the expected flit has not arrived. -/
def nakRepeat (p : Nat) (s : State) : State :=
  if (portOf s p).gap then modPort p (fun x => { x with nak := true }) s else s

def execNakRepeat (p : Fin 16) (s : State) : Host.Outcome State Fault Refusal := .next (nakRepeat p.val s)

/-! ### Laser events (R201, R202) -/

def wLaserRestart (v : Nat) (s : State) : Nat × State :=
  (0, if v = 0 then s else laserUpdate { s with fab := { s.fab with latch := false } })

def execLaserRestart (path : Fin 4) (v : Nat) (s : State) : Host.Outcome State Fault Refusal :=
  .next (namedWrite path.val oLASER_RESTART v (wLaserRestart v) s)

def setLaserOk (b : Bool) (s : State) : State :=
  { s with mod := { s.mod with pins := { s.mod.pins with laserOk := b } } }

/-- R221: LASER_OK is high: enabled ports may leave DISABLED. -/
def laserOkRise (s : State) : State := raisePorts (laserUpdate (setLaserOk true s))
def execLaserOkRise (s : State) : Host.Outcome State Fault Refusal := .next (laserOkRise s)

/-- R201: every port leaves service and goes to DISABLED until LASER_OK returns. -/
def laserOkFall (s : State) : State :=
  (List.range 16).foldl (fun s p => portOff p s) (laserUpdate (setLaserOk false s))

/-- R201: LASER_OK has not risen within 100 ms of LASER_EN. -/
def laserOkTimeout (s : State) : State :=
  if s.mod.pins.laserEn ∧ s.mod.pins.laserOk = false then logSimple evLASER_OK_TIMEOUT srcModule s else s
def execLaserOkTimeout (s : State) : Host.Outcome State Fault Refusal := .next (laserOkTimeout s)

/-- R201: a feed opens: the latch sets and LASER_EN falls. -/
def feedOpen (e : Nat) (s : State) : State :=
  if mainUp s = false ∨ s.fab.latch then s
  else logSimple evFEED_OPEN (0x2100 + e) (laserUpdate { s with fab := { s.fab with latch := true } })
def execFeedOpen (e : Fin 8) (s : State) : Host.Outcome State Fault Refusal := .next (feedOpen e.val s)

/-- R201, R238: an engine's feed is low: reported once, its ports stay in service. -/
def feedLow (e : Nat) (power : Int) (s : State) : State :=
  let s1 := odSet s (oFEED_POWER + e) (uxt 16 power)
  if e ∈ s.fab.feedLow then s1
  else logSimple evLASER_FEED_LOW (0x2100 + e) { s1 with fab := { s1.fab with feedLow := e :: s1.fab.feedLow } }
def execLaserFeedLow (e : Fin 8) (power : Int) (s : State) : Host.Outcome State Fault Refusal :=
  .next (feedLow e.val power s)

/-- R202: a port in DARK probes, every 250 ms, while LASER_OK is high. -/
def portProbe (p : Nat) (s : State) : State :=
  let x := portOf s p
  if portState s p = 1 ∧ s.mod.pins.laserOk ∧ (x.txOn = 0 ∨ x.probeAt + 250000000 ≤ s.now) then
    setPort p { x with txOn := 1, probeAt := s.now } s
  else s
def execPortProbe (p : Fin 16) (s : State) : Host.Outcome State Fault Refusal := .next (portProbe p.val s)

/-- R202, R221: light on all 8 lanes turns the transmitter on. -/
def lightDetected (p : Nat) (s : State) : State :=
  if portState s p = 1 ∧ s.mod.pins.laserOk then setPort p (freshPort s p 2) (setPState p 2 s) else s
def execLightDetected (p : Fin 16) (s : State) : Host.Outcome State Fault Refusal := .next (lightDetected p.val s)

/-- R202, R221, R233: loss of light. -/
def lossOfLight (p : Nat) (s : State) : State :=
  if 2 ≤ portState s p ∧ portState s p ≤ 5 then toDark p s else portLoss p false s

/-! ### Training and retraining (R221, R231, R232) -/

/-- R231: the lane groups, widest first and lower lanes first, as bit sets. -/
def laneGroups : List Nat := [0xFF, 0x0F, 0xF0, 0x03, 0x0C, 0x30, 0xC0]

/-- R231: the widest group of lanes that are all in `ok`, of at most `w` lanes. -/
def pickGroup (ok w : Nat) : Option Nat :=
  laneGroups.find? fun g => decide (popcount 8 g ≤ w ∧ Nat.land g ok = g)

def setLanes (p g : Nat) (s : State) : State := pSet oLANES_ACTIVE p (popcount 8 g) (pSet oLANE_SET p g s)

/-- R221: the port has trained on the lanes in `ok`. -/
def trainingComplete (p ok : Nat) (s : State) : State :=
  if portState s p = 2 then
    match pickGroup ok 8 with
    | none => s
    | some g =>
      let s1 := sendIdent p (pSet oFEC_ACTIVE p (pv s oFEC_MODE p) (setLanes p g (setPState p 3 s)))
      if pv s oLOCATE p = 1 then sendLocate p s1 else s1
  else s
def execTrainingComplete (p : Fin 16) (ok : Fin 256) (s : State) : Host.Outcome State Fault Refusal :=
  .next (trainingComplete p.val ok.val s)

def trainingTimeout (p : Nat) (s : State) : State := if portState s p = 2 then toDark p s else s
def execTrainingTimeout (p : Fin 16) (s : State) : Host.Outcome State Fault Refusal := .next (trainingTimeout p.val s)

/-- R231, R205: a lane fails, or with no lane named the bit-error ratio of a port in low-latency mode: a retrain. -/
def laneFailure (p : Nat) (lane : Option Nat) (s : State) : State :=
  let bad (s : State) : State := match lane with
    | some n => modPort p (fun x => { x with lanesBad := if n ∈ x.lanesBad then x.lanesBad else n :: x.lanesBad }) s
    | none => s
  if portState s p = 6 then
    startRetrain p (if lane = none then 0 else pv s oFEC_ACTIVE p) false (bad s)
  else if portState s p = 7 then bad s
  else s
def execLaneFailure (p : Fin 16) (lane : Option (Fin 8)) (s : State) : Host.Outcome State Fault Refusal :=
  .next (laneFailure p.val (lane.map (·.val)) s)

/-- R231, R232: the retrain ends on the widest healthy group, never wider than before but for RETRAIN_NOW; the flits not
acknowledged are resent. -/
def retrainComplete (p ok : Nat) (s : State) : State :=
  if portState s p = 7 then
    let x := portOf s p
    let good := (List.range 8).foldl (fun a n => if bitAt ok n ∧ n ∉ x.lanesBad then a + 2 ^ n else a) 0
    match pickGroup good (if x.widen then 8 else pv s oLANES_ACTIVE p) with
    | none => portLoss p false s
    | some g =>
      drainCheck p <| sendLocate p (setPort p { x with again := if x.replay = [] then none else some 0, widen := false, corr := [] }
        (pSet oFEC_ACTIVE p x.fecNext (setLanes p g (setPState p 6 s))))
  else s
def retrainTimeout (p : Nat) (s : State) : State := if portState s p = 7 then portLoss p false s else s

/-! ### Identity (R223, R470, R473) -/

/-- The median of a list of integers: of an even count, the mean of the middle two, rounded down. -/
def medianI (l : List Int) : Int :=
  let q := lsort (fun a b => decide (a ≤ b)) l
  let n := q.length
  if n % 2 = 1 then q.getD (n / 2) 0 else (q.getD (n / 2 - 1) 0 + q.getD (n / 2) 0) / 2

/-- R204: SerDes latency of a FEC mode, ns. -/
def serdes (mode : Nat) : Nat := if mode = 1 then 60 else 110

/-- R223: FIBRE_LENGTH in 0.1 m. -/
def fibreLen (mode : Nat) (ps : List Probe) : Nat :=
  let rt := medianI (ps.map fun q => ((q.t4 : Int) - q.t1) - ((q.t3 : Int) - q.t2))
  let d := rt - 2 * serdes mode - 20
  if d ≤ 0 then 0 else min 65535 (100 * d.toNat / 98)

/-- R470: the offset by the probes. -/
def probeOffset (ps : List Probe) : Int :=
  medianI (ps.map fun q => (((q.t2 : Int) - q.t1) + ((q.t3 : Int) - q.t4)) / 2)

/-- R223: HOLD_REASON by the checks in order, 0 where they pass. -/
def holdReason (s : State) (p : Nat) (i : IdentIn) (len : Nat) : Nat :=
  if i.machine ≠ odv s oMACHINE_ID then 1
  else if i.dims ≠ odv s oFABRIC_DIMS then 2
  else if i.node ≠ Nat.xor (odv s oNODE_ID) (2 ^ p) then 3
  else if i.port ≠ p then 4
  else if 2000 < len then 5
  else 0

/-- R469: UNALIGNED. -/
def unaligned (s : State) : Bool := bitAt (odv s oTIME_FLAGS) 2

/-- R470: the module is the time reference. -/
def isReference (s : State) : Bool :=
  odv s oTIME_REFERENCE == 1 || (odv s oTIME_REFERENCE == 2 && odv s oNODE_ID == 0)

/-- R470, R473: an aligned peer in IDENT: collected, or its residual measured. -/
def alignPeer (p : Nat) (i : IdentIn) (s : State) : State :=
  if i.aligned = false then s
  else if unaligned s then
    if isReference s ∨ s.tim.step.isSome then s
    else { s with tim := { s.tim with
      collect := true, cands := (s.tim.cands.filter fun c => c.1 != p) ++ [(p, i.depth, probeOffset i.probes)] } }
  else if p ∈ s.tim.resid then s
  else odSet { s with tim := { s.tim with resid := p :: s.tim.resid } } (oTIME_PEER_RESIDUAL + p)
    (uxt 32 (probeOffset i.probes))

/-- R205: FEC_MODE judged by the measured length: the mode in force, and a record where low latency is refused. -/
def judgeFec (p len : Nat) (s : State) : State :=
  if pv s oFEC_MODE p = 1 ∧ 20 ≤ len then logSimple evLL_FEC_REFUSED (srcOfPort p) (pSet oFEC_ACTIVE p 0 s)
  else pSet oFEC_ACTIVE p (pv s oFEC_MODE p) s

/-- R205, R223: what the peer of port `p` says of itself is recorded and checked. -/
def identChecks (p : Nat) (i : IdentIn) (s : State) : Nat × State :=
  let len := fibreLen (pv s oFEC_ACTIVE p) i.probes
  let s1 := pSet oFIBRE_LENGTH p len (pSet oNEIGHBOUR_NODE p i.node (pSet oNEIGHBOUR_PORT p i.port
    (pSet oNEIGHBOUR_MACHINE p i.machine s)))
  (holdReason s p i len, if portState s p = 3 then judgeFec p len s1 else s1)

/-- R221, R223: the identity exchange in IDENT. -/
def identExchange (p : Nat) (i : IdentIn) (s : State) : State :=
  if portState s p = 3 then
    let (r, s1) := identChecks p i (alignPeer p i s)
    if r = 0 then toKeying p s1
    else logEvent evPORT_HELD (srcOfPort p) r 0 noCmd (pSet oHOLD_REASON p r (setPState p 4 s1))
  else s
def execIdentExchange (p : Fin 16) (i : IdentIn) (s : State) : Host.Outcome State Fault Refusal :=
  .next (identExchange p.val i s)

/-- R221: a HELD port repeats the exchange. -/
def identRepeat (p : Nat) (i : IdentIn) (s : State) : State :=
  if portState s p = 4 then
    let (r, s1) := identChecks p i (sendIdent p s)
    if r = 0 then toKeying p s1 else pSet oHOLD_REASON p r s1
  else s
def execIdentRepeat (p : Fin 16) (i : IdentIn) (s : State) : Host.Outcome State Fault Refusal :=
  .next (identRepeat p.val i s)

/-- R221, R454: no key within 100 ms of KEYING. -/
def keyingTimeout (p : Nat) (s : State) : State :=
  if portState s p = 5 then logSimple evLINK_AUTH_FAILED (srcOfPort p) (toFailed p s) else s
def execKeyingTimeout (p : Fin 16) (s : State) : Host.Outcome State Fault Refusal := .next (keyingTimeout p.val s)

/-- R221: a FAILED port returns to DARK after 1 s; one that is not enabled is disabled. -/
def failedTimeout (p : Nat) (s : State) : State :=
  if portState s p = 8 then
    if portWanted p s then toDark p s else toDisabled p s
  else s
def execFailedPortTimeout (p : Fin 16) (s : State) : Host.Outcome State Fault Refusal := .next (failedTimeout p.val s)

/-! ### Loss and drain (R233, R234) -/


/-- R234: a drain that has not finished is a loss. -/
def drainTimeout (p : Nat) (s : State) : State := if (portOf s p).drain then portLoss p false s else s

/-- R234: the peer goes down: nothing is discarded. The packets of the replay buffer go back to the switch with those queued,
and the port goes to DARK. -/
def goingDown (p : Nat) (s : State) : State :=
  if portState s p = 6 ∨ portState s p = 7 then
    let s1 := modPort p (fun x => { x with txq := (x.replay.flatMap (·.pkts) ++ x.txq).map fun t => { t with sent := 0 } }) s
    toDark p (requeue p (takeWhole p ((portOf s p).rxs.length) s1))
  else s

/-! ### Locator and connector health (R224, R225) -/

/-- R224: the peer's LOCATE. -/
def locateForward (p : Nat) (on : Bool) (s : State) : State := modPort p (fun x => { x with peerLoc := on }) s
def execLocateForward (p : Fin 16) (on : Bool) (s : State) : Host.Outcome State Fault Refusal :=
  .next (locateForward p.val on s)

/-- R224: locator LED patterns, by priority; 7 is off. -/
def locatorLed (s : State) (p : Nat) : Nat :=
  if (pv s oLOCATE p = 1 ∧ inDims s p) ∨ (portOf s p).peerLoc ∨ odv s oLOCATE_ALL = 1 then 1
  else if portState s p = 4 then 2
  else if portState s p = 8 then 3
  else if 1 ≤ pv s oCONN_HEALTH p ∧ pv s oCONN_HEALTH p ≤ 5 then 4
  else if portState s p = 6 then (if pv s oLANES_ACTIVE p < 8 then 5 else 6)
  else 7

/-- The values of a lane list, one object per lane. -/
def laneObjs (base p : Nat) (l : List Int) (s : State) : State :=
  (List.range 8).foldl (fun s n => odSet s (pKey base p + n) (uxt 16 (l.getD n 0))) s

/-- R225: the class of a port's connector. -/
def healthClass (i : LaneIn) : Nat :=
  let dirty := i.refl.any fun r => decide (-3000 < r)
  let lossHigh := (List.range 8).any fun n => decide (300 < i.launch.getD n 0 - i.rx.getD n 0)
  if i.launch.any fun l => decide (l < -200) then 5
  else if dirty && i.peerDirty then 3
  else if dirty then 1
  else if i.peerDirty then 2
  else if lossHigh then 4
  else 0

/-- R225, R238: the powers, reflectances and link losses of a port, the power of its engine's feed, its CONN_HEALTH, and the
report of its launch powers and reflectance to the peer. -/
def connHealth (p : Nat) (i : LaneIn) (s : State) : State :=
  let st := portState s p
  let dirty := i.refl.any fun r => decide (-3000 < r)
  let s1 := laneObjs oREFLECTANCE p i.refl (laneObjs oRX_POWER p i.rx (odSet s (oFEED_POWER + p / 2) (uxt 16 i.feed)))
  if st = 3 ∨ st = 4 ∨ st = 5 ∨ st = 6 then
    linkNote p 0x103 (((List.range 8).flatMap fun n => leBytes 2 (uxt 16 (i.own.getD n 0))) ++ leBytes 1 (b2n dirty))
      (pSet oCONN_HEALTH p (healthClass i)
        (laneObjs oLINK_LOSS p ((List.range 8).map fun n => i.launch.getD n 0 - i.rx.getD n 0) s1))
  else if st = 1 ∨ st = 8 then pSet oCONN_HEALTH p (if dirty then 1 else 6) s1
  else if st = 7 then s1
  else pSet oCONN_HEALTH p 6 s1
def execConnHealthUpdate (p : Fin 16) (i : LaneIn) (s : State) : Host.Outcome State Fault Refusal :=
  .next (connHealth p.val i s)

end Sys2Proof.Machine
end

