-- ==== Sys2Proof/Machine/Remote.lean ====
section
/-! DEFINITION. Remote operations: global addresses, ROBs and their front ends, the target's engines, responses, replicas
(R240 to R259). -/
namespace Sys2Proof.Machine

/-! ### The fields of a ROB (R246), at its own offsets -/

def rOp (b : List Byte) : Nat := byteAt b 0x10
def rFence (b : List Byte) : Bool := bitAt (byteAt b 0x11) 0
def rReply (b : List Byte) : Nat := byteAt b 0x12
def rBytes (b : List Byte) : Nat := fld b 0x14 4
def rGaddr (b : List Byte) : Nat := fld b 0x18 8
def rOperand (b : List Byte) : Nat := fld b 0x28 8
def rOp2 (b : List Byte) : Nat := fld b 0x30 8
def rDflt (b : List Byte) : Nat := fld b 0x38 4

def opAtomic (op : Nat) : Bool := decide (0x10 ≤ op ∧ op ≤ 0x17)
def opHash (op : Nat) : Bool := op == 0x30 || op == 0x31

/-- R240: the fields of a global address. -/
def gMaddr (g : Nat) : Nat := g % 2 ^ 42
def gNode (g : Nat) : Nat := bitsOf g 57 42
def gSpace (g : Nat) : Nat := bitsOf g 59 58

/-- R156, R246: bytes of a key of a hash operation, and LOG2_BUCKETS. -/
def rKeySize (b : List Byte) : Nat := if bitAt (rOp2 b) 38 then 8 else 4
def rLog2 (o2 : Nat) : Nat := bitsOf o2 29 22

/-! ### Checks (R241, R248) -/

/-- R241: a global address, as its SPACE and the nodes it stands for, or the first failure. -/
def gaddrCheck (s : State) (g : Nat) : Nat × List Nat :=
  let dims := odv s oFABRIC_DIMS
  let node := gNode g
  if g / 2 ^ 60 ≠ 0 ∨ 2 ≤ gSpace g then (0x0180, [])
  else if gSpace g = 0 then
    if (dims = 0 ∧ node ≠ odv s oNODE_ID) ∨ (dims ≠ 0 ∧ 2 ^ dims ≤ node) then (0x0180, []) else (0, [node])
  else if bitsOf node 15 13 ≠ 0 then (0x0180, [])
  else match (tfind s.rem.maps (bitsOf node 12 11)).bind fun m => m[node % 2 ^ 11]? with
    | some ms => (0, ms)
    | none => (0x0186, [])

/-- R246, R248 step 1: OPCODE, reserved bits and fields, as the offset of the first that is illegal; the fields of OPERAND2
take the legal values of the hash unit. -/
def robFieldBad (host : Bool) (b : List Byte) : Option Nat :=
  let op := rOp b
  let o2 := rOp2 b
  let bad : List (Bool × Nat) :=
    [(!opRequest op, 0x10), (decide (2 ≤ byteAt b 0x11), 0x11), (byteAt b 0x13 != 0, 0x13),
     (!host && fld b 0x24 4 != 0, 0x24), (rOperand b != 0 && !opAtomic op && !opHash op, 0x28),
     (if opHash op then decide (o2 / 2 ^ 41 ≠ 0 ∨ bitsOf o2 40 39 = 3 ∨ (op = 0x30 ∧ bitsOf o2 40 39 ≠ 0) ∨ 26 < rLog2 o2
        ∨ bitsOf o2 37 30 = 0 ∨ 16 < bitsOf o2 37 30) else o2 != 0 && op != 0x17, 0x30),
     (rDflt b != 0 && op != 0x30, 0x38), (fld b 0x3C 4 != 0, 0x3C)]
  (bad.find? (·.1)).map (·.2)

/-- R246, R248 step 3: BYTES. -/
def robBytesBad (b : List Byte) : Option Nat :=
  let op := rOp b
  let n := rBytes b
  let (hi, unit) := if op ≤ 2 then (4194304, 4) else if opAtomic op then (8, 8) else if op = 0x20 then (4194240, 96)
    else (2097152, rKeySize b)
  if n = 0 then some 0x0102 else if hi < n then some 0x0103 else if n % unit ≠ 0 then some 0x0181 else none

/-- R248 step 4: the alignment that an opcode needs. -/
def robAlign (op : Nat) : Nat := if opAtomic op then 8 else if op = 0x20 then 32 else 4

/-- R132, R246: the local regions of a ROB as (address, length, written). -/
def robRegions (b : List Byte) (laddr res : Nat) : List (Nat × Nat × Bool) :=
  let op := rOp b
  if opAtomic op then []
  else (laddr, rBytes b, op == 1) :: (if opHash op then [(res, 8 * (rBytes b / rKeySize b), true)] else [])

/-- R132: regions in tile SRAM: inside it, and no output over an input or the ROB. -/
def tileRegionBad (off : Nat) (rs : List (Nat × Nat × Bool)) : Option Nat :=
  let ins := (off, 64) :: (rs.filter fun r => !r.2.2).map fun r => (r.1, r.2.1)
  if rs.any fun r => decide (4194304 < r.1 + r.2.1) then some 0x0142
  else if rs.any fun r => r.2.2 && ins.any fun i => decide (r.1 < i.1 + i.2 ∧ i.1 < r.1 + r.2.1) then some 0x0155
  else none

/-- R168, R182, R290: a region that a host command names by module address, unless it is empty: in the map, and wholly in one module buffer of its set
with the right. -/
def hostRegionBad (s : State) (bufs : List Buf) (a n : Nat) (wr : Bool) : Option Nat :=
  let around := bufs.filter fun b => !b.host && decide (b.addr ≤ a ∧ a + n ≤ b.addr + b.size)
  if n = 0 then none
  else if inMap a n = false then some 0x0160
  else if around.any fun b => if wr then b.wr else b.rd then (if windowOff s a n then some 0x0542 else none)
  else if around.isEmpty then some 0x0101 else some 0x0194

/-- R248: steps 1 to 5 of the checks of a ROB in order, as the code and the offset of the failing field in the ROB. A host's
ROB, which has no tile, keeps REPLY_Q zero (R291). -/
def robFieldCheck (s : State) (tile : Option Nat) (laddr : Nat) (b : List Byte) : Option (Nat × Nat) :=
  let op := rOp b
  match robFieldBad tile.isNone b with
  | some o => some (0x0181, o)
  | none =>
    if tile.any fun t => decide (16 ≤ rReply b) || (tfind (tileSt s t).iqs (rReply b)).isNone then some (0x0181, 0x12)
    else if tile = none ∧ rReply b ≠ 0 then some (0x0191, 0x12)
    else match robBytesBad b with
    | some c => some (c, 0x14)
    | none =>
      if gMaddr (rGaddr b) % robAlign op ≠ 0 then some (0x0185, 0x18)
      else if laddr % robAlign op ≠ 0 then some (0x0185, 0x20)
      else if (gaddrCheck s (rGaddr b)).1 ≠ 0 then some ((gaddrCheck s (rGaddr b)).1, 0x18)
      else if gSpace (rGaddr b) = 1 ∧ (opAtomic op ∨ opHash op) then some (0x0181, 0x18)
      else none

/-- R248: step 6, the local regions of a ROB. -/
def robRegionCheck (s : State) (tile : Option Nat) (bufs : List Buf) (off laddr res : Nat) (b : List Byte) : Option (Nat × Nat) :=
  let rs := robRegions b laddr res
  match tile with
  | some _ => (tileRegionBad off rs).map fun c => (c, 0x20)
  | none =>
    match (rs.take 1).findSome? fun r => hostRegionBad s bufs r.1 r.2.1 r.2.2 with
    | some c => some (c, 0x20)
    | none => ((rs.drop 1).findSome? fun r => hostRegionBad s bufs r.1 r.2.1 r.2.2).map fun c => (c, 0x40)

/-- R248: the checks of a ROB in order. -/
def robCheck (s : State) (tile : Option Nat) (bufs : List Buf) (off laddr res : Nat) (b : List Byte) : Option (Nat × Nat) :=
  robFieldCheck s tile laddr b <|> robRegionCheck s tile bufs off laddr res b

/-! ### Front ends -/

def feSt (s : State) (fe : Nat) : FeSt := tget s.rem.fes fe ⟨[], [], 0⟩
def setFe (fe : Nat) (x : FeSt) (s : State) : State := { s with rem := { s.rem with fes := tput s.rem.fes fe x } }
def robAt (s : State) (fe i : Nat) : Option RobSt := (feSt s fe).robs[i]?
def setRob (fe i : Nat) (r : RobSt) (s : State) : State :=
  setFe fe { feSt s fe with robs := lset (feSt s fe).robs i r } s

/-- R249: how a ROB splits: (packet number, offset from its target address, bytes). -/
def robCuts (b : List Byte) : List (Nat × Nat × Nat) :=
  let op := rOp b
  let n := rBytes b
  if op ≤ 2 then
    (List.range (ceilDiv n 512)).map fun i => (i, 512 * i, min 512 (n - 512 * i))
  else if opAtomic op then [(0, 0, 8)]
  else if op = 0x20 then (List.range (n / 96)).map fun i => (i, 96 * i, 96)
  else
    let k := rKeySize b
    (List.range (ceilDiv (n / k) 60)).map fun i => (i, 0, min 60 (n / k - 60 * i) * k)

/-- R257: the members of a shard in the order in which they serve a read. -/
def readOrder (s : State) (ms : List Nat) : List Nat :=
  let hops (n : Nat) : Nat := popcount 16 (Nat.xor n (odv s oNODE_ID))
  lsort (fun a b => decide (hops a < hops b) || (hops a == hops b && decide (a ≤ b))) ms

/-- R249, R256: the packets of a ROB, to one node each, but for a replica read, whose node is chosen when it is sent. -/
def robPackets (s : State) (b : List Byte) (ms : List Nat) : List RPkt :=
  let a := gMaddr (rGaddr b)
  let tos : List Nat := if gSpace (rGaddr b) = 0 then ms else if rOp b = 1 then [0] else ms.filter (· ∉ s.rem.stale)
  (robCuts b).flatMap fun c => tos.map fun n => ⟨c.1, n, a + c.2.1, c.2.2, 0, 0, []⟩

/-- R244 to R246: where the local bytes of a packet stand, from the ROB's LADDR. -/
def pktLocal (r : RobSt) (p : RPkt) : Nat :=
  if opHash (rOp r.rob) then r.laddr + 60 * rKeySize r.rob * p.n else r.laddr + (p.addr - gMaddr (rGaddr r.rob))

/-- The unit that reads and writes local memory for a ROB of front end `fe`. -/
def robAcc (fe : Nat) (r : RobSt) : Acc := ⟨r.tile, fe / 8⟩

/-- R71, R245, R249, R251: the operand, EA_DESC and payload of a request, and the flags of reading its values. -/
def pktBody (fe : Nat) (r : RobSt) (p : RPkt) (s : State) : MemRes (Nat × Nat × List Byte × Nat) :=
  let op := rOp r.rob
  if op = 1 then .ok (p.len, 0, [], 0) s
  else if op = 0x17 then .ok (rOperand r.rob, 0, leBytes 8 (rOp2 r.rob), 0) s
  else if opAtomic op then .ok (rOperand r.rob, 0, [], 0) s
  else match readMod (robAcc fe r) (pktLocal r p) p.len s with
    | .ue m z => .ue m z
    | .ok bs s1 =>
      if op = 2 then .ok (0, 0, bs, 0) s1
      else if op = 0x20 then
        let w := eaWire (eaOfBytes bs)
        .ok (0, w.1, w.2, if (eaOfBytes bs).tag = 3 then fNanInput else 0) s1
      else .ok (rOperand r.rob, 0, padTo 32 (leBytes 8 (rOp2 r.rob) ++ leBytes 4 (rDflt r.rob)) ++ bs, 0) s1

/-- R253: the packets of a front end with a response outstanding. -/
def feOuts (s : State) (fe : Nat) : List RPkt := (feSt s fe).robs.flatMap (·.outs)

/-- R253: a tag that may be used now. -/
def freeTag (s : State) (fe : Nat) : Option Nat :=
  let x := feSt s fe
  let used := (feOuts s fe).map (·.tag)
  (((List.range 4096).map fun k => (x.next + k) % 4096).find? fun t => !used.contains t && decide (tget x.tags t 0 ≤ s.now))

/-- R256, R258: a node becomes STALE, or current again. -/
def setStale (l : List Nat) (s : State) : State :=
  odSet { s with rem := { s.rem with stale := l } } oSTALE_MEMBERS (l.length % 65536)
def markStale (n : Nat) (s : State) : State := if n ∈ s.rem.stale then s else setStale (n :: s.rem.stale) s

/-- R257: the failures that show a member dead. -/
def livenessCode (c : Nat) : Bool := c == 0x0350 || c == 0x0351 || c == 0x0354
def class3 (c : Nat) : Bool := c / 256 == 3

/-- R256, R257: a packet of a ROB fails: a replica read goes to its next member, and a replica write marks its member STALE;
`2^42` stands after every target address. -/
def failPacket (fe i : Nat) (p : RPkt) (code : Nat) (s : State) : State :=
  match robAt s fe i with
  | none => s
  | some r =>
    if r.mems ≠ [] ∧ class3 code then
      (if livenessCode code then markStale p.node else id)
        (setRob fe i { r with todo := { p with tried := p.node :: p.tried } :: r.todo } s)
    else if gSpace (rGaddr r.rob) = 1 ∧ rOp r.rob ≠ 1 ∧ class3 code then
      markStale p.node (setRob fe i { r with fails := r.fails ++ [(2 ^ 42, 0x0353)] } s)
    else setRob fe i { r with fails := r.fails ++ [(p.addr, code)] } s

/-- R188, R256, R257: a packet of a ROB fails at this module, by an uncorrectable error of its local region. -/
def failLocal (fe i : Nat) (p : RPkt) (code : Nat) (s : State) : State :=
  match robAt s fe i with
  | none => s
  | some r => setRob fe i { r with fails := r.fails ++ [(p.addr, code)] } s

/-- R188: the command of a ROB, for a record. -/
def robCmd (r : RobSt) : EvCmd := ⟨r.layer, r.opId, r.tag⟩

/-- R245, R249, R257: the packets of a ROB that may leave now, at most `fuel` attempts. -/
def sendRob (fe i : Nat) : Nat → State → State
  | 0, s => s
  | fuel + 1, s =>
    match robAt s fe i with
    | none => s
    | some r =>
      match r.todo with
      | [] => s
      | p :: rest =>
        if (rOp r.rob = 0x31 ∧ r.outs ≠ []) ∨ 4096 ≤ (feOuts s fe).length then s
        else
          let s0 := setRob fe i { r with todo := rest } s
          match (if r.mems = [] then some p.node else r.mems.find? fun n => !s.rem.stale.contains n && !p.tried.contains n),
              freeTag s fe with
          | none, _ => sendRob fe i fuel (setRob fe i { r with todo := rest, fails := r.fails ++ [(p.addr, 0x0355)] } s)
          | some _, none => s
          | some n, some tag =>
            match pktBody fe r p s0 with
            | .ue m s1 => sendRob fe i fuel (failLocal fe i p (ueCode m.level) (ueRecord m (robCmd r) s1))
            | .ok (operand, ea, bs, f) s1 =>
              let q : RPkt := { p with node := n, tag := tag, sentAt := s.now }
              let k := withData { newPkt s1 (rOp r.rob) 0 n (fe * 4096 + tag) r.opId (n * 2 ^ 42 + p.addr) operand with
                ea := ea } bs
              let s2 := setRob fe i { r with todo := rest, outs := r.outs ++ [q], flags := fOr r.flags f } (inject (16 + fe) k s1)
              sendRob fe i fuel (setFe fe { feSt s2 fe with next := (tag + 1) % 4096 } s2)

/-- R249, R256: the STATUS of a finished ROB: the failure with the lowest target address. -/
def robStatus (r : RobSt) : Nat :=
  match r.fails with
  | [] => 0
  | f :: q => (q.foldl (fun (b : Nat × Nat) c => if c.1 < b.1 then c else b) f).2

/-- R247, R493: the completion token of a ROB reaches REPLY_Q, or waits for room; the run has progressed. -/
def replyToken (t q off : Nat) (s : State) : State :=
  let k := t * 16 + q
  let n := tget s.rem.repSeq k 0
  let tok : Token := ⟨off, stampNow s, 0, n⟩
  let s1 := { s with rem := { s.rem with repSeq := tput s.rem.repSeq k ((n + 1) % 65536) } }
  let s2 := progress (tileSt s1 t).graph s1
  match giveReply t q tok s2 with
  | some s3 => raiseReq t s3
  | none => { s2 with rem := { s2.rem with replies := s2.rem.replies ++ [(t, q, tok)] } }

/-- R122: a range of tile SRAM that the ROB of a tile's graph wrote. -/
def noteRob (r : RobSt) (a n : Nat) (s : State) : State :=
  match r.tile with
  | some t => noteWrote t a n s
  | none => s

/-- R246, R247, R249: a ROB without packets left completes; a failed RD leaves its local region undefined. -/
def finishRob (fe i : Nat) (s : State) : State :=
  match robAt s fe i with
  | none => s
  | some r =>
    if r.todo ≠ [] ∨ r.outs ≠ [] then s
    else
      let st := robStatus r
      let s1 := setFe fe { feSt s fe with robs := (feSt s fe).robs.eraseIdx i } s
      let s2 := if st ≠ 0 ∧ r.sent ∧ rOp r.rob = 1 then undefine r.laddr (rBytes r.rob) s1 else s1
      let s3 := trace 4 0x11 (srcCore (fe / 8) (fe % 8)) r.opId r.layer st (s.now - r.at_) s2
      match r.tile with
      | none => finish r.ring r.idx ⟨st, r.flags, r.result, r.count⟩ s3
      | some t =>
        let s4 := addFlags t r.flags s3
        match writeMod ⟨some t, dieOf t⟩ (tileBase t + r.off) (leBytes 4 st ++ leBytes 4 r.count ++ leBytes 8 r.result) s4 with
        | .ue m s5 => ueTile t m s5
        | .ok _ s5 => replyToken t (rReply r.rob) r.off (noteRob r (tileBase t + r.off) 16 s5)

/-- The packets of a ROB leave, and it completes when none is left. -/
def runRob (fe i : Nat) (s : State) : State :=
  match robAt s fe i with
  | none => s
  | some r => finishRob fe i (sendRob fe i (9 * r.todo.length + 9) s)

/-- R247, R249, R253: every ROB of a front end from place `i` on goes as far as its tags and limits let it, oldest first; one
that completes gives up its place. -/
def pumpFe (fe : Nat) : Nat → Nat → State → State
  | _, 0, s => s
  | i, fuel + 1, s =>
    if (robAt s fe i).isNone then s
    else
      let s1 := runRob fe i s
      pumpFe fe (if (feSt s1 fe).robs.length < (feSt s fe).robs.length then i else i + 1) fuel s1

/-- R253: packets that wait for a tag leave once one is free. -/
def pumpAll (s : State) : State := s.rem.fes.foldl (fun s e => pumpFe e.1 0 (feSt s e.1).robs.length s) s

/-- R247, R250: the front end may fetch a ROB. -/
def feTakes (s : State) (fe : Nat) (b : List Byte) : Bool :=
  decide ((feSt s fe).robs.length < 64) && (!rFence b || (feSt s fe).robs.isEmpty)

/-- R248, R255: the front end takes up a checked ROB under the maps in force; a replica write without a current member
finds no member to serve it. -/
def startRob (fe : Nat) (r0 : RobSt) (s : State) : State :=
  let ms := (gaddrCheck s (rGaddr r0.rob)).2
  let todo := robPackets s r0.rob ms
  let r : RobSt := { r0 with
    todo := todo
    sent := true
    mems := if gSpace (rGaddr r0.rob) = 1 ∧ rOp r0.rob = 1 then readOrder s ms else []
    fails := if todo = [] then [(gMaddr (rGaddr r0.rob), 0x0355)] else [] }
  let i := (feSt s fe).robs.length
  runRob fe i (setFe fe { feSt s fe with robs := (feSt s fe).robs ++ [r] } s)

/-- R247, R248: a tile's ROB whose token has reached control core `fe`. -/
def fetchRob (fe t off : Nat) (s : State) : State :=
  let c := tileCmd s t
  if off % 64 ≠ 0 ∨ 4194304 ≤ off then tileExc t 0x0181 none s
  else match readMod ⟨some t, dieOf t⟩ (tileBase t + off + 16) 48 s with
    | .ue m s1 => ueTile t m s1
    | .ok bs s1 =>
      let b := zeros 16 ++ bs
      let la := fld b 0x20 4
      let rs := rOp2 b % 2 ^ 22
      let r : RobSt := ⟨some t, 0, 0, off, b, tileBase t + la, tileBase t + rs, c.opId, c.layer, [], [], [], [], 0, 0, s.now,
        false, 0, c.tag⟩
      let s2 := trace 4 0x10 (srcCore (fe / 8) (fe % 8)) c.opId c.layer (rOp b + 256 * rReply b) (rGaddr b) s1
      match robCheck s1 (some t) [] off la rs b with
      | none => startRob fe r s2
      | some (code, _) =>
        let i := (feSt s2 fe).robs.length
        finishRob fe i (setFe fe { feSt s2 fe with robs := (feSt s2 fe).robs ++ [{ r with fails := [(0, code)] }] } s2)

/-- R25, R247: the front end of a control core fetches the ROB of an inline token that waits at it; the token's credit returns,
which may make a task of the tile ready. -/
def robFetch (t oq k : Nat) (s : State) : State :=
  let p (m : MeshTok) : Bool := m.src == t && m.oq == oq && m.k == k && m.tok.kind == 0
  let w := (oqDests (oqWord (tileSt s t) oq)).getD k 0
  let fe := destDie w * 8 + destCol w
  match destCore w, s.mesh.toks.find? p with
  | true, some m =>
    let b := zeros 16 ++ memRead s.mem (tileBase t + m.tok.payload + 16) 48
    if feTakes s fe b = false then s
    else
      let x := tileSt s t
      let q := tget x.oqs oq ⟨[], 0⟩
      fetchRob fe t m.tok.payload (raiseReq t (setTile { s with mesh := { s.mesh with toks := leraseFirst p s.mesh.toks } } t
        { x with oqs := tput x.oqs oq { q with credits := lset q.credits k (q.credits.getD k 0 + 1) } }))
  | _, _ => s

def execRobFetch (t : TileId) (oq : Fin 16) (k : Fin 4) (s : State) : Host.Outcome State Fault Refusal :=
  .next (robFetch t.val oq.val k.val s)

/-! ### Responses (R249, R253) -/

/-- R253: the ROB and the packet that a tag names. -/
def findOut (s : State) (fe tag : Nat) : Option (Nat × RPkt) :=
  (List.range (feSt s fe).robs.length).findSome? fun i =>
    match robAt s fe i with
    | some r => (r.outs.find? fun p => p.tag == tag).map fun p => (i, p)
    | none => none

/-- R253: REMOTE_TIMEOUT_US in ns. -/
def remoteTimeout (s : State) : Nat := odv s oREMOTE_TIMEOUT_US * 1000

/-- R249, R253: a packet has its response (code 0) or has failed; `eff` is what a response does. The front end then sends what
it can. -/
def respond (rtag code : Nat) (eff : Nat → RobSt → RPkt → State → MemRes RobSt) (s : State) : State :=
  let fe := rtag / 4096 % 16
  match findOut s fe (rtag % 4096) with
  | none => odAdd s oLATE_RESPONSES 1
  | some (i, p) =>
    match robAt s fe i with
    | none => s
    | some r =>
      let r1 := { r with outs := r.outs.filter (·.tag != p.tag) }
      let x := feSt s fe
      let s1 := setRob fe i r1 (setFe fe { x with tags := tput x.tags p.tag (s.now + 2 * remoteTimeout s) } s)
      let s2 :=
        if code ≠ 0 then failPacket fe i p code s1
        else match eff fe r1 p s1 with
          | .ue m s2 => failLocal fe i p (ueCode m.level) (ueRecord m (robCmd r) s2)
          | .ok r2 s2 => setRob fe i r2 s2
      pumpFe fe 0 (feSt s2 fe).robs.length s2

/-- Takes the oldest ejected packet of an opcode. -/
def withPacket (op : Nat) (f : Pkt → State → State) (s : State) : State :=
  match takeEjected (fun p => p.op == op) s with
  | none => s
  | some (p, s1) => f p s1

/-- R249: the data of a read. -/
def rdRsp (p : Pkt) : State → State :=
  respond p.rtag 0 fun fe r q s =>
    match writeMod (robAcc fe r) (pktLocal r q) (padTo q.len p.data) s with
    | .ue m z => .ue m z
    | .ok _ s1 => .ok r (noteRob r (pktLocal r q) q.len s1)
def execRdRsp (s : State) : Host.Outcome State Fault Refusal := .next (withPacket 0x81 rdRsp s)

/-- R250: a write is accepted at its target. -/
def wrAck (p : Pkt) : State → State := respond p.rtag 0 fun _ r _ s => .ok r s
def execWrAck (s : State) : Host.Outcome State Fault Refusal := .next (withPacket 0x82 wrAck s)

/-- R251: the old value of an atomic. -/
def atRsp (p : Pkt) : State → State := respond p.rtag 0 fun _ r _ s => .ok { r with result := p.operand } s
def execAtRsp (s : State) : Host.Outcome State Fault Refusal := .next (withPacket 0x90 atRsp s)

/-- R80, R252: an addition is accepted; OPERAND carries its flags. -/
def eaAck (p : Pkt) : State → State :=
  respond p.rtag 0 fun _ r _ s => .ok { r with flags := fOr r.flags (p.operand % 256) } s
def execEaAck (s : State) : Host.Outcome State Fault Refusal := .next (withPacket 0xA0 eaAck s)

/-- R156, R246: the results of a hash packet, and the keys found or inserted. -/
def htRsp (p : Pkt) : State → State :=
  respond p.rtag 0 fun fe r q s =>
    let n := q.len / rKeySize r.rob
    let bs := padTo (8 * n) p.data
    let bit := if rOp r.rob = 0x31 then 61 else 63
    let c := ((List.range n).filter fun j => bitAt (fld bs (8 * j) 8) bit).length
    match writeMod (robAcc fe r) (r.res + 480 * q.n) bs s with
    | .ue m z => .ue m z
    | .ok _ s1 => .ok { r with count := r.count + c } (noteRob r (r.res + 480 * q.n) (8 * n) s1)
def execHtRsp (s : State) : Host.Outcome State Fault Refusal := .next (withPacket 0xB0 htRsp s)

/-- R253: no response within REMOTE_TIMEOUT_US; of a packet that has its response nothing is left to time out. -/
def remoteTimeoutAt (fe tag : Nat) (s : State) : State :=
  if (findOut s fe tag).isSome then respond (fe * 4096 + tag) 0x0354 (fun _ r _ s => .ok r s) s else s
def execRemoteTimeout (fe : Fin 16) (tag : Fin 4096) (s : State) : Host.Outcome State Fault Refusal :=
  .next (remoteTimeoutAt fe.val tag.val s)

/-- R258: a write of MEMBER_REVIVE. -/
def wMemberRevive (v : Nat) (s : State) : Nat × State := (0, setStale (s.rem.stale.filter (· ≠ v)) s)
def execMemberRevive (path : Fin 4) (v : Nat) (s : State) : Host.Outcome State Fault Refusal :=
  .next (namedWrite path.val oMEMBER_REVIVE v (wMemberRevive v) s)

/-! ### The target (R242 to R245, R251, R252) -/

/-- R245: the right that an opcode needs, as a bit of the window's rights. -/
def rightOf (op : Nat) : Nat := if op = 1 then 0 else if op = 2 then 1 else if opHash op then 3 else 2

/-- R244: the byte range of a request; of a hash packet, its table. -/
def reqRange (p : Pkt) : Nat × Nat :=
  (gMaddr p.gaddr,
   if p.op = 1 then p.operand % 1024 else if p.op = 2 then p.data.length else if p.op = 0x20 then 96
   else if opHash p.op then 64 * 2 ^ rLog2 (fld p.data 0 8) else 8)

/-- R244, R460: the judgement of a request: 0, or the code of the discard notice. -/
def windowJudge (s : State) (p : Pkt) : Nat :=
  let (a, n) := reqRange p
  if modState s = 3 then 0x0581
  else if inMap a n = false then 0x0160
  else if s.rem.windows.any fun w => decide (w.1 ≤ a ∧ a + n ≤ w.1 + w.2.1) && bitAt w.2.2 (rightOf p.op) then
    (if windowOff s a n then 0x0542 else 0)
  else 0x0441

/-- R245: the response to a request. -/
def answer (op operand : Nat) (bs : List Byte) (p : Pkt) (s : State) : State :=
  inject (32 + addrDie (gMaddr p.gaddr)) (withData (newPkt s op 3 p.src p.rtag p.opId p.gaddr operand) bs) s

/-- The unit that serves an address: the switch half of its die. -/
def halfAcc (a : Nat) : Acc := ⟨none, addrDie a⟩

/-- R188: the command on whose behalf a packet reads, as far as this module knows it: its header carries OP_ID, and a
request of this module's own front ends is found by its tag (log entry 131). -/
def pktCmd (s : State) (p : Pkt) : EvCmd :=
  if p.src = odv s oNODE_ID then
    match (feSt s (p.rtag / 4096 % 16)).robs.find? fun r => r.outs.any fun q => q.tag == p.rtag % 4096 with
    | some r => robCmd r
    | none => ⟨0, p.opId, 0⟩
  else ⟨0, p.opId, 0⟩

/-- R244, R188: a request judged and served by `f`; an uncorrectable error is reported to its requester. -/
def serve (op : Nat) (f : Pkt → Nat → State → MemRes State) (s : State) : State :=
  withPacket op (fun p s =>
    if windowJudge s p ≠ 0 then notice (windowJudge s p) p s
    else match f p (gMaddr p.gaddr) s with
      | .ue m s1 => notice (ueCode m.level) p (ueRecord m (pktCmd s p) s1)
      | .ok s1 _ => s1) s

/-- R245: a read. -/
def serveRd (p : Pkt) (a : Nat) (s : State) : MemRes State :=
  match readMod (halfAcc a) a (p.operand % 1024) s with
  | .ue m z => .ue m z
  | .ok bs s1 => .ok (answer 0x81 0 bs p s1) s1
def execRd (s : State) : Host.Outcome State Fault Refusal := .next (serve 0x01 serveRd s)

/-- R245, R250: a write. -/
def serveWr (p : Pkt) (a : Nat) (s : State) : MemRes State :=
  match writeMod (halfAcc a) a p.data s with
  | .ue m z => .ue m z
  | .ok _ s1 => .ok (answer 0x82 0 [] p s1) s1
def execWr (s : State) : Host.Outcome State Fault Refusal := .next (serve 0x02 serveWr s)

/-- R251: an atomic: one indivisible read-modify-write that returns the old value. -/
def serveAt (g : Nat → Nat → Nat → Nat) (p : Pkt) (a : Nat) (s : State) : MemRes State :=
  match readMod (halfAcc a) a 8 s with
  | .ue m z => .ue m z
  | .ok bs s1 =>
    let old := leNat bs
    match writeMod (halfAcc a) a (leBytes 8 (g old p.operand (fld p.data 0 8))) s1 with
    | .ue m z => .ue m z
    | .ok _ s2 => .ok (answer 0x90 old [] p s2) s2

/-- R251: the operations on the old value, the operand and the compare value. -/
def atAdd (o x _ : Nat) : Nat := (o + x) % 2 ^ 64
def atAnd (o x _ : Nat) : Nat := Nat.land o x
def atOr (o x _ : Nat) : Nat := Nat.lor o x
def atXor (o x _ : Nat) : Nat := Nat.xor o x
def atMin (o x _ : Nat) : Nat := if sxt 64 o ≤ sxt 64 x then o else x
def atMax (o x _ : Nat) : Nat := if sxt 64 x ≤ sxt 64 o then o else x
def atSwap (_ x _ : Nat) : Nat := x
def atCas (o x c : Nat) : Nat := if o = c then x else o

def execAtAdd (s : State) : Host.Outcome State Fault Refusal := .next (serve 0x10 (serveAt atAdd) s)
def execAtAnd (s : State) : Host.Outcome State Fault Refusal := .next (serve 0x11 (serveAt atAnd) s)
def execAtOr (s : State) : Host.Outcome State Fault Refusal := .next (serve 0x12 (serveAt atOr) s)
def execAtXor (s : State) : Host.Outcome State Fault Refusal := .next (serve 0x13 (serveAt atXor) s)
def execAtMin (s : State) : Host.Outcome State Fault Refusal := .next (serve 0x14 (serveAt atMin) s)
def execAtMax (s : State) : Host.Outcome State Fault Refusal := .next (serve 0x15 (serveAt atMax) s)
def execAtSwap (s : State) : Host.Outcome State Fault Refusal := .next (serve 0x16 (serveAt atSwap) s)
def execAtCas (s : State) : Host.Outcome State Fault Refusal := .next (serve 0x17 (serveAt atCas) s)

/-- R71, R252: the slot's sum goes to the memory engine as one addition, and every add in it is acknowledged with the flags of
its own addition and of that one. -/
def slotFlush (a : Nat) (s : State) : State :=
  match tfind s.rem.slots a with
  | none => s
  | some e =>
    let s1 := { s with rem := { s.rem with slots := tdel s.rem.slots a } }
    match engineAdd (halfAcc a) ⟨a, e.sum⟩ s1 with
    | .ok f s2 => e.acks.foldl (fun s p => answer 0xA0 (fOr p.2 f) [] p.1 s) s2
    | .ue m s2 =>
      let c := match e.acks with | p :: _ => pktCmd s p.1 | [] => noCmd
      e.acks.foldl (fun s p => notice (ueCode m.level) p.1 s) (ueRecord m c s2)
def execEaSlotFlush (a : Nat) (s : State) : Host.Outcome State Fault Refusal := .next (slotFlush a s)

/-- R252: slots of a switch half in use. -/
def slotsUsed (s : State) (die : Nat) : Nat := (s.rem.slots.filter fun e => addrDie e.1 == die).length

/-- R252: an EAADD takes its slot, or waits in the switch while none is free; at 64 additions the slot is passed on. -/
def remoteEaadd (s : State) : State :=
  let can (p : Pkt) : Bool := p.op == 0x20 && (windowJudge s p != 0 || (eaUnwire p.ea p.data).isNone
    || (tfind s.rem.slots (gMaddr p.gaddr)).isSome || decide (slotsUsed s (addrDie (gMaddr p.gaddr)) < 1024))
  match takeEjected can s with
  | none => s
  | some (p, s1) =>
    let a := gMaddr p.gaddr
    if windowJudge s1 p ≠ 0 then notice (windowJudge s1 p) p s1
    else match eaUnwire p.ea p.data with
      | none => notice 0x0330 p s1
      | some v =>
        let e := tget s1.rem.slots a ⟨Ea.zero, 0, s.now, []⟩
        let e1 : EaSlot := { e with sum := (eaAdd e.sum v).1, n := e.n + 1, acks := e.acks ++ [(p, (eaAdd e.sum v).2)] }
        let s2 := { s1 with rem := { s1.rem with slots := tput s1.rem.slots a e1 } }
        if 64 ≤ e1.n then slotFlush a s2 else s2
def execRemoteEaadd (s : State) : Host.Outcome State Fault Refusal := .next (remoteEaadd s)

/-- R154 to R156, R245: a hash packet; the parameter slot carries OPERAND2 and DEFAULT, and OPERAND carries SEED. No value
travels with an inserted key, so the value inserted is left open. -/
def serveHash (ins : Bool) (p : Pkt) (a : Nat) (s : State) : MemRes State :=
  let o2 := fld p.data 0 8
  let kw := if bitAt o2 38 then 8 else 4
  let kb := p.data.drop 32
  let (e, s0) := if ins then freeNext s else (0, s)
  let ks := (List.range (kb.length / kw)).map fun i => (fld kb (kw * i) kw, Config.freeWord e i % 2 ^ 32)
  match hashKeys (halfAcc a) a (rLog2 o2) (bitsOf o2 37 30) p.operand (bitAt o2 38) ins (bitsOf o2 40 39)
      (fld p.data 8 4) ks s0 with
  | .ue m z => .ue m z
  | .ok (xs, _, _) s1 => .ok (answer 0xB0 0 (xs.flatMap (leBytes 8)) p s1) s1
def execRemoteHprobe (s : State) : Host.Outcome State Fault Refusal := .next (serve 0x30 (serveHash false) s)
def execRemoteHinsert (s : State) : Host.Outcome State Fault Refusal := .next (serve 0x31 (serveHash true) s)

end Sys2Proof.Machine
end

