-- ==== Sys2Proof/Machine/Collective.lean ====
section
/-! DEFINITION. Collectives and pace messages between modules (R260 to R269). -/
namespace Sys2Proof.Machine

/-! ### The descriptor (R260, R262) -/

def cKind (d : List Byte) : Nat := byteAt d 0
def cFmt (d : List Byte) : Nat := byteAt d 1
def cId (d : List Byte) : Nat := fld d 2 2
def cMask (d : List Byte) : Nat := fld d 4 2
def cRoot (d : List Byte) : Nat := fld d 6 2
def cCount (d : List Byte) : Nat := fld d 8 4
def cCtl (d : List Byte) : Nat := fld d 0x0C 4
def cSeed (d : List Byte) : Nat := fld d 0x10 8
def cIn (d : List Byte) : Nat := fld d 0x18 8
def cOut (d : List Byte) : Nat := fld d 0x20 8

/-- R262: the kinds that add exactly, and those that reduce at all. -/
def cExact (d : List Byte) : Bool := decide (cKind d ≤ 1)
def cReduces (d : List Byte) : Bool := cKind d != 2 && cKind d != 3

/-- R261: the dimensions of the group, their number and the number of members. -/
def cDims (d : List Byte) : List Nat := dimsOf (cMask d)
def cN (d : List Byte) : Nat := (cDims d).length
def cG (d : List Byte) : Nat := 2 ^ cN d

/-- R261: the rank of a node: its bits at the mask positions, packed. -/
def packRank (node : Nat) : List Nat → Nat
  | [] => 0
  | j :: r => b2n (bitAt node j) + 2 * packRank node r
def myRank (s : State) (d : List Byte) : Nat := packRank (odv s oNODE_ID) (cDims d)

/-- The format in which elements are gathered, and the bits of an element (R72 for EA640). -/
def cOutFmt (d : List Byte) : Nat := if cReduces d then cCtl d % 16 else cFmt d
def elemW (f : Nat) : Nat := if f = fmtEA640 then 768 else fmtBits f

/-- R77: elements that are converted together: those of an MX block. -/
def cBlock (d : List Byte) : Nat := if cExact d && fmtIsMX (cOutFmt d) then 32 else 1

/-- R262, R263: the first element that rank `r` converts of the reduced result; no MX block is cut. -/
def blockLo (d : List Byte) (r : Nat) : Nat :=
  min (cCount d) (r * ceilDiv (cCount d) (cBlock d) / cG d * cBlock d)

/-- R262: the elements of the whole result. -/
def cTotal (d : List Byte) : Nat := if cKind d = 2 then cG d * cCount d else cCount d

/-- R262: the first element and the number of elements of a rank's output. -/
def outSpan (d : List Byte) (r : Nat) : Nat × Nat :=
  if cKind d = 1 then (r * cCount d / cG d, (r + 1) * cCount d / cG d - r * cCount d / cG d) else (0, cTotal d)

/-- Bytes of `n` packed elements. -/
def spanBytes (f n : Nat) : Nat := ceilDiv (elemW f * n) 8
def inBytes (d : List Byte) : Nat := spanBytes (cFmt d) (cCount d)
def outBytes (s : State) (d : List Byte) : Nat := spanBytes (cOutFmt d) (outSpan d (myRank s d)).2

/-- R260, R262: the descriptor's checks in field order, with the offset of the failing field; `region` judges a region. -/
def collCheck (s : State) (d : List Byte) (region : Nat → Nat → Bool → Option Nat) : Option (Nat × Nat) :=
  let k := cKind d
  let m := cMask d
  let ctl := cCtl d
  let small := cFmt d == fmtFP32 || cFmt d == fmtBF16 || cFmt d == fmtFP16 || cFmt d == fmtINT32
  let bad (b : Bool) (c o : Nat) : Option (Nat × Nat) := if b then some (c, o) else none
  (bad (decide (5 < k)) 0x0184 0)
  <|> (bad (decide (16 ≤ cFmt d)) 0x0184 1)
  <|> (bad (fmtReserved (cFmt d)) 0x0132 1)
  <|> (bad (cExact d && !exactAddend (cFmt d)) 0x0133 1)
  <|> (bad (decide (4 ≤ k) && !small) 0x0184 1)
  <|> (bad (m == 0 || decide (2 ^ odv s oFABRIC_DIMS ≤ m)) 0x0184 4)
  <|> (bad (if k = 3 then decide (cG d ≤ cRoot d) else cRoot d != 0) 0x0184 6)
  <|> (bad (cCount d == 0) 0x0102 8)
  <|> ((arithCheck ctl (exactAddend (cFmt d))).map fun c => (c, 0x0C))
  <|> (bad (cExact d && !(arithOf ctl 0).exact) 0x0133 0x0C)
  <|> (bad (decide (4 ≤ k) && ctl % 16 != cFmt d) 0x0184 0x0C)
  <|> ((region (cIn d) (inBytes d) false).map fun c => (c, 0x18))
  <|> ((region (cOut d) (outBytes s d) true).map fun c => (c, 0x20))
  <|> (bad (cIn d != cOut d && outBytes s d != 0 && decide (cIn d < cOut d + outBytes s d ∧ cOut d < cIn d + inBytes d))
    0x0184 0x20)
  <|> (bad (!zeroIn d 0x28 24) 0x0184 0x28)

/-! ### Which member holds what (R263) -/

/-- The rank to which an element belongs between the reduce and the gather steps. -/
def ownerOf (d : List Byte) (e : Nat) : Nat :=
  if cKind d = 2 then e / cCount d else if cKind d = 3 then cRoot d
  else
    let r := e / cBlock d * cG d / ceilDiv (cCount d) (cBlock d)
    if e < blockLo d r then r - 1 else if blockLo d (r + 1) ≤ e then r + 1 else r

/-- R263: the chunk of an element: its place in its owner's part, in `n` parts; an MX block is in one chunk. -/
def chunkOf (d : List Byte) (e : Nat) : Nat :=
  let n := cN d
  if cKind d = 2 then e % cCount d * n / cCount d
  else if cKind d = 3 then e * n / cCount d
  else
    let r := ownerOf d e
    let u := cBlock d
    (e / u - blockLo d r / u) * n / max 1 (ceilDiv (blockLo d (r + 1)) u - blockLo d r / u)

/-- R263: the mask dimension, as its place in the mask, over which chunk `c` moves at a step. -/
def stepDim (d : List Byte) (c k : Nat) : Nat :=
  let n := cN d
  if k < n then (c + k) % n else (c + (2 * n - 1 - k)) % n

/-- The places of the mask over which chunk `c` has moved before reduce step `k`, or has still to move from gather step `k`
on. -/
def boundDims (d : List Byte) (c k : Nat) : List Nat :=
  if k < cN d then (List.range k).map (stepDim d c)
  else (List.range (2 * cN d - k)).map fun j => stepDim d c (k + j)

/-- Two ranks agree at places of the mask. -/
def agree (a b : Nat) (ps : List Nat) : Bool := ps.all fun p => bitAt a p == bitAt b p

/-- R263: rank `r` sends element `e` at step `k`: in a reduce step one that belongs across the dimension, in a gather step
one that it holds. -/
def sends (d : List Byte) (r c k e : Nat) : Bool :=
  let o := ownerOf d e
  chunkOf d e == c && agree o r (boundDims d c k) && (decide (cN d ≤ k) || bitAt o (stepDim d c k) != bitAt r (stepDim d c k))

/-- The peer of rank `r` at a step. -/
def stepPeer (d : List Byte) (r c k : Nat) : Nat := Nat.xor r (2 ^ stepDim d c k)

/-- The elements that rank `r` receives at a step. -/
def expected (d : List Byte) (r c k : Nat) : Nat :=
  ((List.range (cTotal d)).filter fun e => sends d (stepPeer d r c k) c k e).length

/-- R262, R263: the first step and the step after the last. REDUCE_SCATTER ends with the reduce steps, but to an MX format,
whose blocks two members may share: each block is converted by one member and passed on in gather steps (log entry 135). -/
def firstStep (d : List Byte) : Nat := if cReduces d then 0 else cN d
def endStep (d : List Byte) : Nat := if cKind d = 1 ∧ cBlock d = 1 then cN d else 2 * cN d

/-! ### Step packets (R264) -/

/-- R264: the signature that a collective's packets carry. -/
def collSig (d : List Byte) : Nat := Config.collSignature (d.take 0x18) % 2 ^ 23

/-- R264: GADDR of a step packet. -/
def stepGaddr (d : List Byte) (c k : Nat) : Nat :=
  cId d + cMask d * 2 ^ 16 + k * 2 ^ 32 + c * 2 ^ 37 + collSig d * 2 ^ 41

/-- Consecutive elements cut into runs of at most `lim` that `fit`: the packets of a step. -/
def runsOf (fit : List Nat → Bool) : List Nat → List Nat → List (List Nat)
  | [], cur => if cur = [] then [] else [cur]
  | e :: r, cur =>
    if cur = [] then runsOf fit r [e]
    else if cur.getLastD 0 + 1 = e ∧ fit (cur ++ [e]) then runsOf fit r (cur ++ [e])
    else cur :: runsOf fit r [e]

/-- R263, R264: bytes of an element in a reduce step of the exact kinds. -/
def wireBytes (e : Ea) : List Byte := let w := eaWire e; leBytes 2 w.1 ++ w.2

/-- The payload of a step for elements. -/
def stepData (x : CollSt) (k : Nat) (es : List Nat) : List Byte :=
  if k < cN x.desc ∧ cExact x.desc then es.flatMap fun e => wireBytes (tget x.sums e Ea.zero)
  else packElems (elemW (cOutFmt x.desc)) (es.map fun e => tget x.vals e 0)

/-- Whether elements fit one packet, in whole bytes. -/
def stepFits (x : CollSt) (k : Nat) (es : List Nat) : Bool :=
  if k < cN x.desc ∧ cExact x.desc then decide ((stepData x k es).length ≤ 512)
  else
    let w := elemW (cOutFmt x.desc)
    let lim := 4096 / w
    decide (es.length ≤ if w % 8 = 0 then lim else lim / 8 * 8)

/-- R265: a step packet for the neighbour over dimension `j`: on channel 6 over its port, or routed as a request. -/
def stepPacket (s : State) (x : CollSt) (c k j : Nat) (es : List Nat) : Pkt :=
  let vc := if portState s j = 6 then 6 else 0
  withData (newPkt s 0x40 vc (Nat.xor (odv s oNODE_ID) (2 ^ j)) 0 x.opId (stepGaddr x.desc c k) (es.headD 0))
    (stepData x k es)

/-- R263, R482: a member starts a step of a chunk: its packets leave. -/
def sendStep (x : CollSt) (c k : Nat) (s : State) : State :=
  let d := x.desc
  let j := (cDims d).getD (stepDim d c k) 0
  let es := (List.range (cTotal d)).filter fun e => sends d (myRank s d) c k e
  let ps := (runsOf (stepFits x k) es []).map (stepPacket s x c k j)
  let s1 := ps.foldl (fun s p => inject (32 + j / 8) p s) s
  if ps = [] then s1
  else trace 5 0x12 (srcHalf (j / 8)) x.opId x.layer (cId d + k * 2 ^ 16 + c * 2 ^ 21) (lsum (ps.map fun p => p.data.length)) s1

/-! ### A collective's course -/

/-- The collective of an identifier and mask. -/
def collIs (id mask : Nat) (x : CollSt) : Bool := cId x.desc == id && cMask x.desc == mask
def findColl (s : State) (id mask : Nat) : Option CollSt := s.rem.colls.find? (collIs id mask)
def setColl (x : CollSt) (s : State) : State :=
  { s with rem := { s.rem with colls := s.rem.colls.map fun y => if collIs (cId x.desc) (cMask x.desc) y then x else y } }
def dropColl (x : CollSt) (s : State) : State :=
  { s with rem := { s.rem with colls := leraseFirst (collIs (cId x.desc) (cMask x.desc)) s.rem.colls } }

/-- R188: the command of a collective, for a record. -/
def collCmd (x : CollSt) : EvCmd := ⟨x.layer, x.opId, x.tag⟩

/-- R265, R493: a collective ends with a code; a discarded one leaves its output undefined (R43). A collective counts as every
run's (log entry 140). -/
def endColl (x : CollSt) (code : Nat) (s : State) : State :=
  let s1 := s.graphs.foldl (fun s e => progress e.1 s) (dropColl x s)
  let s2 := if class3 code then undefine (cOut x.desc) (outBytes s x.desc) s1 else s1
  finish x.ring x.idx ⟨code, x.flags % 256, 0, 0⟩ s2

/-- R62, R77: elements from `e` on take converted values. -/
def putVals (x : CollSt) : Nat → List Nat → CollSt
  | _, [] => x
  | e, v :: r => putVals { x with vals := tput x.vals e v } (e + 1) r

/-- R77: consecutive elements convert together, once. -/
def convertRun (x : CollSt) (es : List Nat) : CollSt :=
  let a := arithOf (cCtl x.desc) (cSeed x.desc)
  let vs := es.map fun e => tget x.sums e Ea.zero
  let y := if cOutFmt x.desc = fmtEA640 then (vs.map fun v => leNat (eaBytes v), 0) else eaOutList a (es.headD 0) vs
  putVals { x with flags := fOr x.flags y.2 } (es.headD 0) y.1

/-- R77, R262: after the last reduce step each member converts its own elements of a chunk once: one by one, or those of an
MX block together. -/
def convertOwn (s : State) (x : CollSt) (c : Nat) : CollSt :=
  if cExact x.desc = false then x
  else
    let r := myRank s x.desc
    let u := cBlock x.desc
    let es := (List.range (cTotal x.desc)).filter fun e => chunkOf x.desc e == c && ownerOf x.desc e == r
    (runsOf (fun l => decide (l.headD 0 / u = l.getLastD 0 / u)) es []).foldl convertRun x

/-- R263: a chunk passes every step that has all its elements; each step's packets leave when it starts. -/
def advanceChunk (c : Nat) : Nat → CollSt → State → CollSt × State
  | 0, x, s => (x, s)
  | fuel + 1, x, s =>
    let k := x.steps.getD c 0
    if endStep x.desc ≤ k ∨ tget x.got (c * 32 + k) 0 < expected x.desc (myRank s x.desc) c k then (x, s)
    else
      let x1 := if k + 1 = cN x.desc then convertOwn s x c else x
      let x2 := { x1 with steps := lset x1.steps c (k + 1) }
      advanceChunk c fuel x2 (if k + 1 < endStep x.desc then sendStep x2 c (k + 1) s else s)

/-- The bytes of a member's output. -/
def outData (s : State) (x : CollSt) : List Byte :=
  let sp := outSpan x.desc (myRank s x.desc)
  packElems (elemW (cOutFmt x.desc)) ((List.range sp.2).map fun i => tget x.vals (sp.1 + i) 0)

/-- R262: every chunk has passed its last step: the output is written and the collective completes. -/
def finishColl (x : CollSt) (s : State) : State :=
  if x.steps.all fun k => decide (endStep x.desc ≤ k) then
    match writeMod (halfAcc (cOut x.desc)) (cOut x.desc) (outData s x) s with
    | .ue m s1 => endColl x (ueCode m.level) (ueRecord m (collCmd x) s1)
    | .ok _ s1 => endColl x 0 s1
  else setColl x s

/-- Every chunk goes as far as it can. -/
def advanceAll : Nat → CollSt → State → CollSt × State
  | 0, x, s => (x, s)
  | c + 1, x, s =>
    let (x1, s1) := advanceAll c x s
    advanceChunk c 33 x1 s1
def advance (x : CollSt) (s : State) : State :=
  let (x1, s1) := advanceAll (cN x.desc) x s
  finishColl x1 s1

/-! ### Receiving (R264, R265) -/

/-- R117, R262: the minimum or maximum of two elements of a format, with flags. -/
def fmtMinMax (f : Nat) (mx : Bool) (a b : Nat) : Nat × Nat :=
  if f = fmtINT32 then
    (if mx then (if sxt 32 a < sxt 32 b then b else a) else (if sxt 32 b < sxt 32 a then b else a), 0)
  else match fpOf f with
    | none => (a, 0)
    | some p =>
      let key (x : Nat) : Int :=
        let m := 2 ^ (p.eb + p.fb)
        if x < m then (x : Int) else -((x - m : Nat) : Int) - 1
      if decodeFp p a = .nan then (if decodeFp p b = .nan then fpNaN p else b, fNanInput)
      else if decodeFp p b = .nan then (a, fNanInput)
      else (if mx then (if key a < key b then b else a) else (if key b < key a then b else a), 0)

/-- R264, R76: the elements of a reduce step in wire form, `none` where malformed. -/
def unwireAll : Nat → List Byte → Option (List Ea)
  | _, [] => some []
  | 0, _ :: _ => none
  | n + 1, bs =>
    let desc := fld bs 0 2
    let len := eaWireLen desc
    if bs.length < 2 + len then none
    else (eaUnwire desc ((bs.drop 2).take len)).bind fun e => (unwireAll n (bs.drop (2 + len))).map (e :: ·)

/-- R71, R78: adds a term to element `e`: INVALID where infinities of both signs are among its terms, in whatever order. -/
def addTerm (x : CollSt) (e : Nat) (v : Ea) : CollSt :=
  let m := Nat.lor (tget x.infs e 0) (if v.tag = 1 then 1 else if v.tag = 2 then 2 else 0)
  { x with sums := tput x.sums e (eaAdd (tget x.sums e Ea.zero) v).1, infs := tput x.infs e m
           flags := if m = 3 then fOr x.flags fInvalid else x.flags }

/-- Folds sums from element `e` on. -/
def foldSums (x : CollSt) : Nat → List Ea → CollSt
  | _, [] => x
  | e, v :: r => foldSums (addTerm x e v) (e + 1) r

/-- Takes values from element `e` on: reduced in a reduce step of kinds 4 and 5, and else as they are. -/
def foldVals (red : Bool) (x : CollSt) : Nat → List Nat → CollSt
  | _, [] => x
  | e, v :: r =>
    let y := if red then fmtMinMax (cFmt x.desc) (cKind x.desc == 5) (tget x.vals e 0) v else (v, 0)
    foldVals red { x with vals := tput x.vals e y.1, flags := fOr x.flags y.2 } (e + 1) r

/-- R185, R263: the address beyond the map at which the collective store of a switch half begins. -/
def collCell (half : Nat) : Nat := 2 ^ 43 + half * 2 ^ 24

/-- R264: how many of `n` element places from element `e` on a packed payload of a step fills: those that the peer sends one
after the other; the bits that fill its last byte are no element. -/
def packedRun (d : List Byte) (r c k e n : Nat) : Nat :=
  ((List.range n).takeWhile fun i => decide (e + i < cTotal d) && sends d (stepPeer d r c k) c k (e + i)).length

/-- R264, R265: a step packet of a collective. -/
def collPacket (x : CollSt) (p : Pkt) (s : State) : State :=
  let k := bitsOf p.gaddr 36 32
  let c := bitsOf p.gaddr 40 37
  let e := p.operand
  if bitsOf p.gaddr 63 41 ≠ collSig x.desc then endColl x 0x0520 s
  else match ueIn s [(collCell (collHalf p), 2 ^ 24)] with
  | some m => endColl x (ueCode m.level) (ueRecord m (collCmd x) s)
  | none =>
    let note (y : CollSt) (n : Nat) : CollSt :=
      { y with got := tput y.got (c * 32 + k) (tget y.got (c * 32 + k) 0 + n), at_ := s.now }
    if k < cN x.desc ∧ cExact x.desc then
      match unwireAll 256 p.data with
      | none => endColl x 0x0330 s
      | some es => advance (note (foldSums x e es) es.length) s
    else
      let w := elemW (cOutFmt x.desc)
      let vs := (List.range (8 * p.data.length / w)).map fun i => (leNat p.data >>> (w * i)) % 2 ^ w
      let m := packedRun x.desc (myRank s x.desc) c k e vs.length
      advance (note (foldVals (decide (k < cN x.desc)) x e (vs.take m)) m) s

/-- R265: bytes of step packets that a switch half holds for collectives not yet issued here. -/
def earlyBytes (s : State) (half : Nat) : Nat :=
  lsum ((s.rem.early.filter fun p => collHalf p == half).map fun p => p.data.length)

/-- R264, R265, R460: a step packet arrives: for a collective in progress, or held in the collective store while it has room. -/
def collStep (s : State) : State :=
  let known (p : Pkt) : Bool := (findColl s (p.gaddr % 65536) (bitsOf p.gaddr 31 16)).isSome
  if modState s = 3 then
    match takeEjected (fun p => p.op == 0x40) s with
    | none => s
    | some (p, s1) => notice 0x0581 p s1
  else match takeEjected (fun p => p.op == 0x40 && (known p || decide (earlyBytes s (collHalf p) + p.data.length ≤ 2097152))) s with
  | none => s
  | some (p, s1) =>
    match findColl s1 (p.gaddr % 65536) (bitsOf p.gaddr 31 16) with
    | some x => collPacket x p s1
    | none => { s1 with rem := { s1.rem with early := s1.rem.early ++ [p] } }
def execCollStep (s : State) : Host.Outcome State Fault Refusal := .next (collStep s)

/-- R265: no step packet for COLL_TIMEOUT_MS. -/
def collTimeout (id mask : Nat) (s : State) : State :=
  match findColl s id mask with
  | some x => endColl x 0x0357 s
  | none => s
def execCollTimeout (id mask : Fin 65536) (s : State) : Host.Outcome State Fault Refusal :=
  .next (collTimeout id.val mask.val s)

/-! ### Starting (R260 to R263) -/

/-- The input of a member: its sums, or its values. -/
def collInput (s : State) (x : CollSt) (bs : List Byte) : CollSt :=
  let d := x.desc
  let w := elemW (cFmt d)
  let v (i : Nat) : Nat := (leNat bs >>> (w * i)) % 2 ^ w
  let r := myRank s d
  if cExact d then
    (List.range (cCount d)).foldl (fun x i =>
      let y := if cFmt d = fmtEA640 then (eaOfBytes (leBytes 96 (v i)), if (eaOfBytes (leBytes 96 (v i))).tag = 3 then fNanInput else 0)
        else eaOfX (decodeElem (cFmt d) (v i))
      addTerm { x with flags := fOr x.flags y.2 } i y.1) x
  else
    let base := if cKind d = 2 then r * cCount d else 0
    if cKind d = 3 ∧ r ≠ cRoot d then x
    else (List.range (cCount d)).foldl (fun x i => { x with vals := tput x.vals (base + i) (v i) }) x

/-- The step packets held for a collective, taken in. -/
def takeEarly (id mask : Nat) : List Pkt → State → State
  | [], s => s
  | p :: r, s =>
    match (if p.gaddr % 65536 = id ∧ bitsOf p.gaddr 31 16 = mask then findColl s id mask else none) with
    | some x => takeEarly id mask r (collPacket x p s)
    | none => takeEarly id mask r { s with rem := { s.rem with early := s.rem.early ++ [p] } }

/-- R260: a checked collective starts: its input is read and the first step of every chunk leaves. -/
def startColl (ring idx : Nat) (c : EvCmd) (d : List Byte) (s : State) : State :=
  let x0 : CollSt := ⟨ring, idx, d, c.opId, List.replicate (cN d) (firstStep d), [], [], [], [], 0, s.now, c.layer, c.tag⟩
  match readMod (halfAcc (cIn d)) (cIn d) (inBytes d) s with
  | .ue m s1 => finish ring idx (resOf (ueCode m.level)) (ueRecord m c s1)
  | .ok bs s1 =>
    let x := collInput s1 x0 bs
    let s2 := { s1 with rem := { s1.rem with colls := s1.rem.colls ++ [x] } }
    let s3 := (List.range (cN d)).foldl (fun s c => sendStep x c (firstStep d) s) s2
    let s4 := advance x s3
    takeEarly (cId d) (cMask d) s4.rem.early { s4 with rem := { s4.rem with early := [] } }

/-! ### Discard notices (R233, R245, R265) -/

/-- R265: a notice for a step packet ends its collective; any other fails the packet that its tag names. -/
def discardIn (p : Pkt) (s : State) : State :=
  if p.gaddr ≠ 0 then
    match findColl s (p.gaddr % 65536) (bitsOf p.gaddr 31 16) with
    | some x => endColl x 0x0356 s
    | none => s
  else respond p.rtag (p.operand % 65536) (fun _ r _ s => .ok r s) s
def execDiscard (s : State) : Host.Outcome State Fault Refusal := .next (withPacket 0xF0 discardIn s)

/-! ### Pace messages (R266 to R269) -/

/-- R267: OPERAND of a pace message. -/
def paceOperand (origin mask duty seq : Nat) : Nat :=
  origin + mask * 2 ^ 16 + (duty - 1) % 16 * 2 ^ 32 + seq % 256 * 2 ^ 36

/-- R268: a pace packet over dimension `j`: on channel 7 over its port, or routed as a request. -/
def pacePacket (s : State) (operand j : Nat) : Pkt :=
  newPkt s 0x50 (if portState s j = 6 then 7 else 0) (Nat.xor (odv s oNODE_ID) (2 ^ j)) 0 0 0 operand

def sendPace (operand : Nat) (js : List Nat) (s : State) : State :=
  js.foldl (fun s j => inject 32 (pacePacket s operand j) s) s

/-- R266: the duty that a module tells its groups: the lower of its dies'. -/
def ownDuty (s : State) : Nat := min (fDuty s 0) (fDuty s 1)

/-- R266, R482: a pace message to every group with a collective in progress. -/
def paceSend (s : State) : State :=
  if odv s oCAP_PROPAGATE = 1 then
    let masks := (s.rem.colls.map fun x => cMask x.desc).foldl (fun l m => if m ∈ l then l else l ++ [m]) ([] : List Nat)
    masks.foldl (fun s m =>
      let q := s.rem.pseq
      let s1 := sendPace (paceOperand (odv s oNODE_ID) m (ownDuty s) q) (dimsOf m)
        { s with rem := { s.rem with pseq := (q + 1) % 256 } }
      trace 5 0x13 (srcHalf 0) 0 0 (odv s oNODE_ID + (ownDuty s - 1) * 2 ^ 16) q s1) s
  else s
def execPaceSend (s : State) : Host.Outcome State Fault Refusal := .next (paceSend s)

/-- R269, R273: PACE_DUTY is the lowest DUTY held. -/
def setPaceHeld (l : List PaceSt) (s : State) : State :=
  odSet { s with rem := { s.rem with pace := l } } oPACE_DUTY (lminD 16 (l.map (·.duty)))

/-- R267 to R269: a pace message is taken once, held or released, and forwarded over the mask dimensions above. -/
def paceIn (p : Pkt) (s : State) : State :=
  let o := p.operand
  let origin := o % 65536
  let mask := bitsOf o 31 16
  let duty := bitsOf o 35 32 + 1
  let seq := bitsOf o 43 36
  let seen := s.rem.seen.filter fun e => decide (s.now < e.2.2 + 5000000)
  if origin = odv s oNODE_ID ∨ seen.any fun e => e.1 == origin && e.2.1 == seq then s
  else
    let held := s.rem.pace.filter fun h => !(h.origin == origin && (duty == 16 || h.mask == mask))
    let s1 := setPaceHeld (if duty = 16 then held else held ++ [⟨origin, mask, duty, s.now⟩])
      { s with rem := { s.rem with seen := (origin, seq, s.now) :: seen } }
    let s2 := trace 5 0x13 (srcHalf 0) 0 0 (origin + (duty - 1) * 2 ^ 16) seq (odAdd32 s1 oPACE_RECEIVED 1)
    let j := Nat.log2 (Nat.xor p.src (odv s oNODE_ID))
    sendPace o ((dimsOf mask).filter fun i => decide (j < i)) s2
def execPace (s : State) : Host.Outcome State Fault Refusal := .next (withPacket 0x50 paceIn s)

/-- R269: messages that 5 ms have passed without a refresh are no longer held. -/
def paceExpiry (origin : Nat) (s : State) : State :=
  setPaceHeld (s.rem.pace.filter fun h => h.origin != origin || decide (s.now < h.at_ + 5000000)) s
def execPaceExpiry (origin : Fin 65536) (s : State) : Host.Outcome State Fault Refusal :=
  .next (paceExpiry origin.val s)

end Sys2Proof.Machine
end

