-- ==== Sys2Proof/Machine/Command.lean ====
section
/-! DEFINITION. Commands of the host: the order in which they start, their checks, buffer sets, copies, remote operations,
collectives and tables (R286 to R292, R301 to R305). -/
namespace Sys2Proof.Machine

/-! ### The fields of an entry (R287) -/

def eOp (b : List Byte) : Nat := byteAt b 0
def eFence (b : List Byte) : Bool := bitAt (byteAt b 1) 0
def eCplIrq (b : List Byte) : Bool := bitAt (byteAt b 1) 1
def eSeedOvr (b : List Byte) : Bool := bitAt (byteAt b 1) 2
def eSet (b : List Byte) : Nat := fld b 2 2
def eTag (b : List Byte) : Nat := fld b 4 4
def eLayer (b : List Byte) : Nat := fld b 8 2
def eOpId (b : List Byte) : Nat := fld b 0x0A 2
def eSeed (b : List Byte) : Nat := fld b 0x10 8

/-- R517: the command that an event concerns. -/
def evCmdOf (b : List Byte) : EvCmd := ⟨eLayer b, eOpId b, eTag b⟩

/-- R291: whether an opcode names a buffer set, and its reserved body bytes as (first, end). -/
def opForm (op : Nat) : Option (Bool × List (Nat × Nat)) :=
  match op with
  | 0x01 => some (false, [(0x20, 0x70)])
  | 0x02 => some (false, [(0x24, 0x28), (0x38, 0x70)])
  | 0x03 => some (true, [(0x22, 0x28), (0x3D, 0x70)])
  | 0x10 => some (true, [(0x21, 0x28), (0x30, 0x70)])
  | 0x11 => some (true, [(0x24, 0x70)])
  | 0x12 => some (false, [(0x23, 0x70)])
  | 0x20 => some (true, [(0x58, 0x70)])
  | 0x21 => some (true, [(0x60, 0x70)])
  | 0x22 => some (true, [(0x21, 0x22), (0x24, 0x28), (0x30, 0x70)])
  | 0x23 => some (true, [(0x24, 0x28), (0x30, 0x70)])
  | _ => none

/-- The first nonzero byte of a range, by its offset. -/
def firstNonzero (b : List Byte) (lo : Nat) : Nat → Option Nat
  | 0 => none
  | n + 1 => if byteAt b lo = 0 then firstNonzero b (lo + 1) n else some lo

/-! ### Rings, completion rings and contexts -/

/-- R280: a command ring at reset: `RING_CTL` 0x0001_4000, every other register 0. -/
def RingSt.initial : RingSt := ⟨0, 0, 0x00014000, 0, 0, false, 0, 0⟩
def CqSt.initial : CqSt := ⟨0, 0, 0, 0, false, false, 0, 0, 0⟩
def CtxSt.initial : CtxSt := ⟨0, 0, 0, 0, 0, 0, 0, []⟩

def ringAt (s : State) (r : Nat) : RingSt := tget s.hst.rings r RingSt.initial
def cqAt (s : State) (c : Nat) : CqSt := tget s.hst.cqs c CqSt.initial
def ctxAt (s : State) (x : Nat) : CtxSt := tget s.hst.ctxs x CtxSt.initial
def setRing (r : Nat) (g : RingSt) (s : State) : State := { s with hst := { s.hst with rings := tput s.hst.rings r g } }
def setCq (c : Nat) (q : CqSt) (s : State) : State := { s with hst := { s.hst with cqs := tput s.hst.cqs c q } }
def setCtx (x : Nat) (c : CtxSt) (s : State) : State := { s with hst := { s.hst with ctxs := tput s.hst.ctxs x c } }

/-- R281: the fields of RING_CTL. -/
def rgLog2 (g : RingSt) : Nat := bitsOf g.ctl 5 1
def rgCq (g : RingSt) : Nat := bitsOf g.ctl 11 6
def rgPoll (g : RingSt) : Nat := bitsOf g.ctl 21 12
def rgConf (g : RingSt) : Bool := bitAt g.ctl 22
def rgCtx (g : RingSt) : Nat := bitsOf g.ctl 28 23

/-- R295: the fields of CQ_CTL. -/
def cqLog2 (q : CqSt) : Nat := bitsOf q.ctl 5 1
def cqWide (q : CqSt) : Bool := bitAt q.ctl 6
def cqVector (q : CqSt) : Nat := bitsOf q.ctl 12 7
def cqIrq (q : CqSt) : Bool := bitAt q.ctl 13
def cqCount (q : CqSt) : Nat := bitsOf q.ctl 21 14
def cqUs (q : CqSt) : Nat := bitsOf q.ctl 31 22
def cqConf (q : CqSt) : Bool := bitAt q.ctl 32
def cqCtx (q : CqSt) : Nat := bitsOf q.ctl 38 33

/-- R285: a running ring stops with a code; the index at which it stopped is the next to fetch. -/
def stopRing (r code : Nat) (s : State) : State :=
  let g := ringAt s r
  if g.st = 1 then setRing r { g with st := 3, code := code, err := g.cons } s else s

/-- R285, R305: a key of a context is exhausted: the context shows it, and every ring bound to it stops. A completion ring,
whose entries the module-to-host key protects, stops with that key and is then disabled; with the other key it goes on. -/
def exhaust (x : Nat) (inward : Bool) (s : State) : State :=
  let s1 := setCtx x { ctxAt s x with st := 2 } s
  let s2 := s1.hst.rings.foldl (fun s e => if rgConf e.2 ∧ rgCtx e.2 = x then stopRing e.1 0x0444 s else s) s1
  if inward then s2
  else { s2 with hst := { s2.hst with
    cqs := s2.hst.cqs.map fun e => if e.2.on ∧ cqConf e.2 ∧ cqCtx e.2 = x then (e.1, { e.2 with on := false, code := 0x0444 }) else e } }

/-- R305: a key of a context is exhausted: by its blocks, or by the indices of a ring (or 64 + a completion ring) that it
protects. -/
def keyGone (c : CtxSt) (inward : Bool) : Bool :=
  decide (2 ^ 40 ≤ (if inward then c.h2m else c.m2h))
    || c.uses.any fun e => decide (2 ^ 32 ≤ e.2) && (decide (e.1 < 64) == inward)

/-- R305: the blocks that a key of a context may still protect, host-to-module or module-to-host. -/
def ctxLeft (c : CtxSt) (inward : Bool) : Nat :=
  if c.st = 0 ∨ keyGone c inward then 0 else 2 ^ 40 - (if inward then c.h2m else c.m2h)

/-- R301, R305: the code of a block that no key is left for: the context holds none, or its key is exhausted. -/
def keyCode (c : CtxSt) : Nat := if c.st = 0 then 0x0442 else 0x0444

/-- R305: a context's key has no counter left, and is exhausted if the context holds one. -/
def ctxEnd (x : Nat) (inward : Bool) (s : State) : State := if (ctxAt s x).st = 0 then s else exhaust x inward s

/-- R305: blocks are counted under a context's key, which shows EXHAUSTED with the last of them. -/
def ctxUse (x : Nat) (inward : Bool) (n : Nat) (s : State) : State :=
  let c := ctxAt s x
  let d := if inward then { c with h2m := c.h2m + n } else { c with m2h := c.m2h + n }
  if keyGone d inward then exhaust x inward (setCtx x d s) else setCtx x d s

/-- R305: a ring or completion ring may use another index and block under a context's key. -/
def ctxOpen (c : CtxSt) (inward : Bool) : Bool := decide (1 ≤ ctxLeft c inward)

/-- R305: an entry of a ring uses an index and a block under a context's key. -/
def ctxIndex (x who : Nat) (inward : Bool) (s : State) : State :=
  let c := ctxAt s x
  let d := { c with uses := tput c.uses who (tget c.uses who 0 + 1) }
  ctxUse x inward 1 (setCtx x d s)

/-- R304: CTX_TAG_FAILS. -/
def ctxFail (x : Nat) (s : State) : State :=
  let c := ctxAt s x
  setCtx x { c with fails := (c.fails + 1) % 2 ^ 32 } s

/-- R302: the nonce of an item: CHAN_ID, USE, RING, SEQ and BLOCK. -/
def nonceOf (chan use ring seq block : Nat) : Nat :=
  chan * 2 ^ 64 + use * 2 ^ 62 + ring * 2 ^ 56 + (seq % 2 ^ 32) * 2 ^ 24 + block

/-- R275: the largest payload or read request of a configured size. -/
def tlpSize (code : Nat) : Nat := 128 * 2 ^ min code 5

/-- R275: a write of host memory as TLPs of up to `m` bytes, none across a 4 KiB boundary (log entry 134). -/
def tlpWrites (m : Nat) : Nat → Nat → List Byte → List (Nat × List Byte)
  | 0, _, _ => []
  | k + 1, a, bs =>
    if bs.isEmpty then []
    else
      let n := min m (4096 - a % 4096)
      (a, bs.take n) :: tlpWrites m k (a + n) (bs.drop n)

/-- R275: a read of `n` bytes of host memory as TLPs of up to `m` bytes, none across a 4 KiB boundary (log entry 134). -/
def tlpReads (m : Nat) : Nat → Nat → Nat → List (Nat × Nat)
  | 0, _, _ => []
  | k + 1, a, n =>
    if n = 0 then []
    else
      let x := min (min m n) (4096 - a % 4096)
      (a, x) :: tlpReads m k (a + x) (n - x)

/-- R275: the TLPs of a write under the maximum payload size in force. -/
def hostTlps (s : State) (a : Nat) (bs : List Byte) : List (Nat × List Byte) :=
  tlpWrites (tlpSize s.hst.cfg.mps) bs.length a bs

/-- R275, R298, R476: a write of host memory, with Relaxed Ordering or without. -/
def hostSend (ro : Bool) (a : Nat) (bs : List Byte) (s : State) : State :=
  pcieCount 1 bs.length ((hostTlps s a bs).foldl (fun s p => emit (.host p.1 p.2 ro) s) s)
/-- R275, R298: a write that keeps its order: completion entries, records and tags. -/
def hostWrite (a : Nat) (bs : List Byte) (s : State) : State := hostSend false a bs s
/-- R275: a data write of a copy, with Relaxed Ordering. -/
def hostData (a : Nat) (bs : List Byte) (s : State) : State := hostSend true a bs s

/-- R275, R278: a poisoned TLP is counted, and reported through AER. -/
def notePoison (r : HostRead) (s : State) : State :=
  if r = .poisoned then
    odAdd { s with hst := { s.hst with cfg := { s.hst.cfg with aer := Nat.lor s.hst.cfg.aer 4096 } } } oPOISONED_RECEIVED 1
  else s

/-- R282, R283, R303, R476: a read of host memory leaves the module. -/
def hostAsk (a n : Nat) (s : State) : State :=
  pcieCount 0 n ((tlpReads (tlpSize s.hst.cfg.mrrs) n a n).foldl (fun s p => emit (.fetch p.1 p.2) s) s)

/-! ### The command store -/

/-- A command of the store by ring and index. -/
def findCmd (s : State) (ring idx : Nat) : Option CmdEnt := s.cmds.find? fun c => c.ring == ring && c.idx == idx
def setCmd (c : CmdEnt) (s : State) : State :=
  { s with cmds := s.cmds.map fun d => if d.ring = c.ring ∧ d.idx = c.idx then c else d }

/-- R296: a command ends with a code; DETAIL carries the offset of the failing field for class 0x01. -/
def failCmd (c : CmdEnt) (code off : Nat) (s : State) : State :=
  finish c.ring c.idx ⟨code, 0, 0, if code / 256 = 1 then off else 0⟩ s

/-- A command ends with success and a RESULT. -/
def okCmd (c : CmdEnt) (result : Nat) (s : State) : State := finish c.ring c.idx ⟨0, 0, result, 0⟩ s

/-- R291: an entry that names buffer set `sid`. -/
def namesSet (b : List Byte) (sid : Nat) : Bool := (match opForm (eOp b) with | some f => f.1 | none => false) && eSet b == sid

/-- R287, steps 1 to 4: the first failure as (code, offset). `conf`: the entry came from a CONF ring. -/
def entryCheck (s : State) (conf : Bool) (b : List Byte) : Option (Nat × Nat) :=
  match opForm (eOp b) with
  | none => some (0x0190, 0)
  | some f =>
    let ranges := (0x0C, 0x10) :: (0x18, 0x20) :: f.2 ++ (if conf then [] else [(0x70, 0x80)])
    match ranges.findSome? fun r => firstNonzero b r.1 (r.2 - r.1) with
    | some o => some (0x0191, o)
    | none =>
      if 8 ≤ byteAt b 1 then some (0x0191, 1)
      else if eSeedOvr b = false ∧ eSeed b ≠ 0 then some (0x0191, 0x10)
      else if f.1 then (if (tfind s.hst.sets (eSet b)).isNone then some (0x0192, 2) else none)
      else if eSet b ≠ 0xFFFF then some (0x0192, 2)
      else none

/-! ### Order of starts (R286, R289) -/

/-- The next command of a ring to start. -/
def nextCmd (s : State) (ring : Nat) : Option CmdEnt := s.cmds.find? fun c => c.ring == ring && !c.started

/-- R286, R289, R292: what a command waits for, its place in its ring apart: a fence, a BUFSET_DEFINE of the set it names,
room in the front end, or the run in progress of its graph. -/
def mayBegin (s : State) (c : CmdEnt) : Bool :=
  let before := s.cmds.filter fun d => d.ring == c.ring && d.started
  let graph := tfind s.graphs (fld c.bytes 0x20 2)
  !(eFence c.bytes && !before.isEmpty)
    && !(before.any fun d => eOp d.bytes == 2 && namesSet c.bytes (fld d.bytes 0x20 2))
    && (eOp c.bytes != 0x20 || feTakes s 0 (zeros 16 ++ (c.bytes.drop 0x20).take 48))
    && !(eOp c.bytes == 0x11 && graph.any fun g => g.run.isSome || g.exc.isSome)

/-- R286: GRAPH_START and GRAPH_UNLOAD of one ring on one graph begin in ring order. -/
def graphTurn (s : State) (c : CmdEnt) : Bool :=
  ((s.cmds.filter fun d => d.ring == c.ring).takeWhile fun d => d.idx != c.idx).all fun d =>
    d.begun || d.done.isSome || !((eOp d.bytes == 0x11 || eOp d.bytes == 0x12) && fld d.bytes 0x20 2 == fld c.bytes 0x20 2)

/-- R286: what a command contends for: 1 the control cores, 2 a front end, 0 neither. -/
def contends (op : Nat) : Nat := if op = 0x10 ∨ op = 0x11 ∨ op = 0x12 then 1 else if op = 0x20 then 2 else 0

/-- R286: a startable command of another ring that contends and was fetched earlier (between equal times, of a lower
ring). -/
def earlier (s : State) (c : CmdEnt) : Bool :=
  contends (eOp c.bytes) != 0 && (List.range 64).any fun r =>
    r != c.ring && match nextCmd s r with
      | some d => contends (eOp d.bytes) == contends (eOp c.bytes) && mayBegin s d
          && (decide (d.at_ < c.at_) || (d.at_ == c.at_ && decide (r < c.ring)))
      | none => false

/-- R286, R287, R289: the next command of a ring starts, takes the buffer set as it stands, and is checked. -/
def commandStart (ring : Nat) (s : State) : State :=
  match nextCmd s ring with
  | none => s
  | some c =>
    if mayBegin s c = false ∨ earlier s c then s
    else
      let set := if namesSet c.bytes (eSet c.bytes) then tget s.hst.sets (eSet c.bytes) [] else []
      let c1 := { c with started := true, set := set }
      match entryCheck s (rgConf (ringAt s ring)) c.bytes with
      | some (code, off) => failCmd c1 code off (setCmd c1 s)
      | none => setCmd c1 s

def execCommandStart (ring : Fin 64) (s : State) : Host.Outcome State Fault Refusal := .next (commandStart ring.val s)

/-- The work of a started command of opcode `op`, begun once. -/
def beginCmd (op ring idx : Nat) (f : CmdEnt → State → State) (s : State) : State :=
  match findCmd s ring idx with
  | none => s
  | some c =>
    if eOp c.bytes = op ∧ c.started ∧ !c.begun ∧ c.done = none then
      let c1 := { c with begun := true }
      f c1 (setCmd c1 s)
    else s

/-! ### Buffers (R290) and data -/

/-- R290: the buffer at index `i` of a command's set, with the right. -/
def pickBuf (c : CmdEnt) (i : Nat) (wr : Bool) : Option Buf :=
  match c.set[i]? with
  | some b => if (if wr then b.wr else b.rd) then some b else none
  | none => none

/-- R301: a confidential host-buffer offset must be a multiple of 4,096. -/
def offsetBad (s : State) (b : Buf) (off : Nat) : Bool := confidential s && b.host && off % 4096 != 0

/-- R168: a module buffer's region reaches a hole, which is judged before its size. -/
def bufHole (b : Buf) (off n : Nat) : Bool := !b.host && !inMap (b.addr + off) n

/-- R182, R169: a module buffer's region may be accessed. -/
def bufRegionBad (s : State) (b : Buf) (off n : Nat) : Option Nat :=
  if b.host then none
  else if inMap (b.addr + off) n = false then some 0x0160
  else if windowOff s (b.addr + off) n then some 0x0542 else none

/-- What a command's read of its data gives: the bytes, or a code and the bytes verified before it. -/
inductive Got where
  | data (bs : List Byte)
  | fail (code : Nat) (head : List Byte)

/-- R302 to R304: the blocks of a transfer of `c` from buffer offset `off`, from block `i` on, under a context's H2M key: the
bytes verified before the first tag that fails, and whether none does. -/
def openBlocks (x : CtxSt) (c : CmdEnt) (off : Nat) : Nat → Nat → List Byte → List Byte → List Byte × Bool
  | 0, _, _, _ => ([], true)
  | k + 1, i, bs, tags =>
    let b := bs.take 4096
    match Config.openBytes x.keyIn (nonceOf x.chan 1 c.ring c.idx i) (leBytes 8 (off + 4096 * i) ++ leBytes 4 b.length) b
        (tags.take 16) with
    | none => ([], false)
    | some p =>
      let r := openBlocks x c off k (i + 1) (bs.drop 4096) (tags.drop 16)
      (padTo b.length p ++ r.1, r.2)

/-- R278, R303 to R305: `n` bytes read from host memory at `a`, offset `off` of their buffer, with their tags at `tagA`, as
context `x` decrypts them in confidential mode. -/
def hostFetch (c : CmdEnt) (x a off tagA n : Nat) (h : HostIn) (s : State) : Got × State :=
  let s1 := notePoison h.rd (hostAsk a n s)
  if h.rd ≠ .good then (.fail 0x0360 [], s1)
  else if confidential s = false then (.data (padTo n h.bytes), s1)
  else
    let k := ceilDiv n 4096
    let m := min k (ctxLeft (ctxAt s1 x) true)
    let o := openBlocks (ctxAt s1 x) c off m 0 (padTo n h.bytes) (padTo (16 * k) h.tags)
    let s2 := ctxUse x true m (hostAsk tagA (16 * k) s1)
    if o.2 = false then (.fail 0x0443 o.1, ctxFail x s2)
    else if m < k then (.fail (keyCode (ctxAt s1 x)) o.1, ctxEnd x true s2)
    else (.data o.1, s2)

/-- The bytes of a region of a buffer: host data as they arrive, module data as read (R188). -/
def fetchData (c : CmdEnt) (b : Buf) (off n : Nat) (h : HostIn) (s : State) : Got × State :=
  if b.host then hostFetch c b.ctx (b.addr + off) off (b.tagAddr + 16 * (off / 4096)) n h s
  else match readMod ⟨none, 0⟩ (b.addr + off) n s with
    | .ok bs s1 => (.data bs, s1)
    | .ue m s1 => (.fail (ueCode m.level) [], ueRecord m (evCmdOf c.bytes) s1)

/-! ### NOP and BUFSET_DEFINE -/

def execNop (ring : Fin 64) (idx : Nat) (s : State) : Host.Outcome State Fault Refusal :=
  .next (beginCmd 0x01 ring.val idx (fun c s => okCmd c 0 s) s)

/-- R288, R301: a buffer entry, in field order; what ADDR and SIZE reach together is judged with SIZE. -/
def bufEntry (s : State) (e : List Byte) : Buf × Nat :=
  let addr := fld e 0 8
  let sk := fld e 8 8
  let size := sk % 2 ^ 42
  let host := bitAt sk 42
  let tagA := fld e 0x10 8
  let ctx := byteAt e 0x18
  let sealed := host && confidential s
  let code :=
    if host ∧ addr % 4 ≠ 0 then 0x0195
    else if size = 0 then 0x0102
    else if 2 ^ 45 ≤ sk then 0x0193
    else if host ∧ 2 ^ 64 < addr + size then 0x0193
    else if !host ∧ inMap addr size = false then 0x0160
    else if sealed then
      (if tagA = 0 then 0x0442
       else if tagA % 16 ≠ 0 then 0x0195
       else if (ctxAt s ctx).st ≠ 1 then 0x0442
       else if zeroIn e 0x19 7 then 0 else 0x0193)
    else if zeroIn e 0x10 16 then 0 else 0x0193
  (⟨addr, size, host, bitAt sk 43, bitAt sk 44, tagA, ctx⟩, code)

/-- R288: the entries of a list in order: the buffers, or the first failing entry's number and code. -/
def bufList (s : State) (bs : List Byte) (i : Nat) : Nat → Except (Nat × Nat) (List Buf)
  | 0 => .ok []
  | n + 1 =>
    let (b, code) := bufEntry s ((bs.drop (32 * i)).take 32)
    if code ≠ 0 then .error (code, 0x80 + 32 * i)
    else match bufList s bs (i + 1) n with
      | .ok r => .ok (b :: r)
      | .error e => .error e

/-- R289: a set is named by a fetched command of another ring. -/
def setInUse (s : State) (ring sid : Nat) : Bool := s.cmds.any fun c => c.ring != ring && namesSet c.bytes sid

/-- R288 to R291: the set is read, checked and held until the command completes. -/
def bufsetDefine (h : HostIn) (c : CmdEnt) (s : State) : State :=
  let b := c.bytes
  let sid := fld b 0x20 2
  let n := fld b 0x22 2
  let g := ringAt s c.ring
  if 1023 < sid then failCmd c 0x0191 0x20 s
  else if n = 0 then failCmd c 0x0102 0x22 s
  else if 64 < n then failCmd c 0x0103 0x22 s
  else if fld b 0x28 8 % 32 ≠ 0 then failCmd c 0x0195 0x28 s
  else if rgConf g = false ∧ fld b 0x30 8 ≠ 0 then failCmd c 0x0191 0x30 s
  else if fld b 0x30 8 % 16 ≠ 0 then failCmd c 0x0195 0x30 s
  else match hostFetch c (rgCtx g) (fld b 0x28 8) 0 (fld b 0x30 8) (32 * n) h s with
    | (.fail code _, s1) => failCmd c code 0x28 s1
    | (.data bs, s1) =>
      match bufList s1 bs 0 n with
      | .error e => failCmd c e.1 e.2 s1
      | .ok l =>
        if setInUse s1 c.ring sid then failCmd c 0x0560 0 s1
        else okCmd c 0 (setCmd { c with set := l } s1)

def execBufsetDefine (ring : Fin 64) (idx : Nat) (h : HostIn) (s : State) : Host.Outcome State Fault Refusal :=
  .next (beginCmd 0x02 ring.val idx (bufsetDefine h) s)

/-! ### DMA_COPY (R292, R300 to R304) -/

/-- R303: the module writes one sealed block and its tag. -/
def sealBlock (c : CmdEnt) (b : Buf) (off i : Nat) (bs : List Byte) (s : State) : State :=
  let x := ctxAt s b.ctx
  let o := off + 4096 * i
  let e := Config.sealBytes x.keyOut (nonceOf x.chan 1 c.ring c.idx i) (leBytes 8 o ++ leBytes 4 bs.length) bs
  hostWrite (b.tagAddr + 16 * (o / 4096)) (padTo 16 (e.drop bs.length)) (hostData (b.addr + o) (padTo bs.length e) s)

/-- R303: every block of a transfer to a confidential host buffer. -/
def sealBlocks (c : CmdEnt) (b : Buf) (off : Nat) : Nat → Nat → List Byte → State → State
  | 0, _, _, s => s
  | k + 1, i, bs, s => sealBlocks c b off k (i + 1) (bs.drop 4096) (sealBlock c b off i (bs.take 4096) s)

/-- R292: what a failed copy leaves: bytes of verified blocks as written (R304), the rest of the destination range
undefined. -/
def copyFail (c : CmdEnt) (b : Buf) (off n code : Nat) (head : List Byte) (s : State) : State :=
  if b.host then failCmd c code 0x38 s
  else
    let a := b.addr + off
    let k := head.length
    match writeMod ⟨none, 0⟩ a head s with
    | .ok _ s1 => failCmd c code 0x38 (undefine (a + k) (n - k) s1)
    | .ue _ s1 => failCmd c code 0x38 (undefine a n s1)

/-- R292: the copied bytes reach the destination, and RESULT is their number. -/
def copyOut (c : CmdEnt) (b : Buf) (off : Nat) (bs : List Byte) (s : State) : State :=
  let n := bs.length
  if b.host then
    if confidential s then
      let k := ceilDiv n 4096
      let m := min k (ctxLeft (ctxAt s b.ctx) false)
      let s1 := ctxUse b.ctx false m (sealBlocks c b off m 0 bs s)
      if m < k then failCmd c (keyCode (ctxAt s b.ctx)) 0 (ctxEnd b.ctx false s1) else okCmd c n s1
    else okCmd c n (hostData (b.addr + off) bs s)
  else match writeMod ⟨none, 0⟩ (b.addr + off) bs s with
    | .ok _ s1 => okCmd c n s1
    | .ue m s1 => copyFail c b off n (ueCode m.level) [] (ueRecord m (evCmdOf c.bytes) s1)

/-- R287, R290, R292, R301: the checks of a copy, in field order and then by region. -/
def copyCheck (s : State) (src dst : Buf) (so do_ n : Nat) : Option (Nat × Nat) :=
  let sealed := confidential s && (src.host || dst.host)
  if src.host ∧ dst.host then some (0x0194, 0x21)
  else if offsetBad s src so then some (0x0195, 0x28)
  else if offsetBad s dst do_ then some (0x0195, 0x30)
  else if n = 0 then some (0x0102, 0x38)
  else if sealed ∧ 2 ^ 36 < n then some (0x0103, 0x38)
  else if bufHole src so n then some (0x0160, 0x28)
  else if bufHole dst do_ n then some (0x0160, 0x30)
  else if src.size < so + n ∨ dst.size < do_ + n then some (0x0101, 0x38)
  else if !src.host ∧ !dst.host ∧ src.addr + so < dst.addr + do_ + n ∧ dst.addr + do_ < src.addr + so + n then
    some (0x0196, 0x38)
  else ((bufRegionBad s src so n).map fun c => (c, 0x28)) <|> ((bufRegionBad s dst do_ n).map fun c => (c, 0x30))

/-- R292: a copy. -/
def dmaCopy (h : HostIn) (c : CmdEnt) (s : State) : State :=
  let b := c.bytes
  let so := fld b 0x28 8
  let do_ := fld b 0x30 8
  let n := fld b 0x38 5
  match pickBuf c (byteAt b 0x20) false, pickBuf c (byteAt b 0x21) true with
  | none, _ => failCmd c 0x0194 0x20 s
  | _, none => failCmd c 0x0194 0x21 s
  | some src, some dst =>
    match copyCheck s src dst so do_ n with
    | some (code, o) => failCmd c code o s
    | none =>
      match fetchData c src so n h s with
      | (.fail code head, s1) => copyFail c dst do_ n code head s1
      | (.data bs, s1) => copyOut c dst do_ bs s1

def execDmaCopy (ring : Fin 64) (idx : Nat) (h : HostIn) (s : State) : Host.Outcome State Fault Refusal :=
  .next (beginCmd 0x03 ring.val idx (dmaCopy h) s)

/-! ### REMOTE_OP and COLLECTIVE -/

/-- R291, R292: the fields of REMOTE_OP's body that a ROB of a tile does not have, in offset order. -/
def remoteBodyBad (b : List Byte) : Option Nat :=
  let hash := opHash (byteAt b 0x20)
  if hash ∧ fld b 0x40 8 % 2 ^ 22 ≠ 0 then some 0x40
  else if hash ∧ fld b 0x50 8 % 8 ≠ 0 then some 0x50
  else if !hash ∧ fld b 0x50 8 ≠ 0 then some 0x50 else none

/-- R287, R292: the checks of REMOTE_OP: the fields of its ROB by steps 1 to 5 of R248, then the fields beyond it, then the
regions. -/
def remoteCheck (s : State) (c : CmdEnt) (rob : List Byte) : Option (Nat × Nat) :=
  let la := fld rob 0x20 8
  ((robFieldCheck s none la rob).map fun e => (e.1, 0x10 + e.2))
  <|> ((remoteBodyBad c.bytes).map fun o => (0x0191, o))
  <|> ((robRegionCheck s none c.set 0 la (fld c.bytes 0x50 8) rob).map fun e => (e.1, 0x10 + e.2))

/-- R247, R250, R292: a remote operation of the host, issued by the front end of control core 0 of die 0, which it waits for. -/
def remoteOp (c : CmdEnt) (s : State) : State :=
  let b := c.bytes
  let rob := zeros 16 ++ (b.drop 0x20).take 48
  let la := fld rob 0x20 8
  let res := fld b 0x50 8
  if feTakes s 0 rob = false then setCmd { c with begun := false } s
  else match remoteCheck s c rob with
    | some (code, o) => failCmd c code o s
    | none =>
      startRob 0 ⟨none, c.ring, c.idx, 0, rob, la, res, eOpId b, eLayer b, [], [], [], [], 0, 0, s.now, false, 0, eTag b⟩
        (trace 4 0x10 (srcCore 0 0) (eOpId b) (eLayer b) (rOp rob) (rGaddr rob) s)

def execRemoteOp (ring : Fin 64) (idx : Nat) (s : State) : Host.Outcome State Fault Refusal :=
  .next (beginCmd 0x20 ring.val idx remoteOp s)

/-- R260, R292: a collective of the host. -/
def collective (c : CmdEnt) (s : State) : State :=
  let d := (c.bytes.drop 0x20).take 64
  match collCheck s d (hostRegionBad s c.set) with
  | some (code, o) => failCmd c code (0x20 + o) s
  | none => startColl c.ring c.idx (evCmdOf c.bytes) d s

def execCollective (ring : Fin 64) (idx : Nat) (s : State) : Host.Outcome State Fault Refusal :=
  .next (beginCmd 0x21 ring.val idx collective s)

/-! ### WINDOWS_LOAD and SHARD_MAP_LOAD (R243, R255) -/

/-- R243, R291: a window entry is legal. -/
def windowEntryOk (e : List Byte) : Bool :=
  let w := leNat e
  bitsOf w 63 42 == 0 && bitsOf w 127 106 == 0 && decide (w < 2 ^ 132) && w % 4096 == 0 && bitsOf w 105 64 % 4096 == 0

/-- R243: the windows of a list; one of size zero is unused. -/
def windowList (bs : List Byte) (n : Nat) : List (Nat × Nat × Nat) :=
  (List.range n).filterMap fun i =>
    let w := leNat ((bs.drop (32 * i)).take 32)
    if bitsOf w 105 64 = 0 then none else some (w % 2 ^ 42, bitsOf w 105 64, bitsOf w 131 128)

/-- R254: the members of a shard map's entry. -/
def shardMembers (e : List Byte) : List Nat := (List.range (byteAt e 0x10)).map fun j => fld e (2 * j) 2

/-- A list without repeats. -/
def noRepeats : List Nat → Bool
  | [] => true
  | x :: r => !r.contains x && noRepeats r

/-- R255: one entry, given the domains of the entries before it. -/
def shardEntryBad (s : State) (doms : List Nat) (e : List Byte) : Option Nat :=
  let n := byteAt e 0x10
  let ms := shardMembers e
  let d := ms.headD 0 / 32
  if n = 0 then some 0x0102
  else if 8 < n then some 0x0103
  else if zeroIn e 0x11 15 = false then some 0x0182
  else if noRepeats ms = false ∨ ms.any fun m => decide (2 ^ odv s oFABRIC_DIMS ≤ m) then some 0x0182
  else if ms.any fun m => m / 32 != d then some 0x0121
  else if doms.contains d then some 0x0183
  else none

/-- R255: the entries in order: the map, or the first failure. -/
def shardList (s : State) (bs : List Byte) (doms : List Nat) : Nat → Nat → Except Nat (List (List Nat))
  | 0, _ => .ok []
  | n + 1, i =>
    let e := (bs.drop (32 * i)).take 32
    match shardEntryBad s doms e with
    | some c => .error c
    | none => match shardList s bs ((shardMembers e).headD 0 / 32 :: doms) n (i + 1) with
      | .ok r => .ok (shardMembers e :: r)
      | .error c => .error c

/-- R287, R290: the list that a table command names: its bytes, or the failure. -/
def tableData (hi : Nat) (h : HostIn) (c : CmdEnt) (s : State) : Except (Nat × Nat) (List Byte) × State :=
  let b := c.bytes
  let n := fld b 0x22 2
  let off := fld b 0x28 8
  match pickBuf c (byteAt b 0x20) false with
  | none => (.error (0x0194, 0x20), s)
  | some f =>
    if 3 < byteAt b 0x21 then (.error (0x0191, 0x21), s)
    else if n = 0 then (.error (0x0102, 0x22), s)
    else if hi < n then (.error (0x0103, 0x22), s)
    else if offsetBad s f off then (.error (0x0195, 0x28), s)
    else if bufHole f off (32 * n) then (.error (0x0160, 0x28), s)
    else if f.size < off + 32 * n then (.error (0x0101, 0x28), s)
    else match bufRegionBad s f off (32 * n) with
      | some code => (.error (code, 0x28), s)
      | none =>
        match fetchData c f off (32 * n) h s with
        | (.fail code _, s1) => (.error (code, 0x28), s1)
        | (.data bs, s1) => (.ok bs, s1)

/-- R243: the window table is replaced. -/
def windowsLoad (h : HostIn) (c : CmdEnt) (s : State) : State :=
  match tableData 64 h c s with
  | (.error e, s1) => failCmd c e.1 e.2 s1
  | (.ok bs, s1) =>
    let n := fld c.bytes 0x22 2
    if (List.range n).all fun i => windowEntryOk ((bs.drop (32 * i)).take 32) then
      okCmd c 0 { s1 with rem := { s1.rem with windows := windowList bs n } }
    else failCmd c 0x0191 0x28 s1

def execWindowsLoad (ring : Fin 64) (idx : Nat) (h : HostIn) (s : State) : Host.Outcome State Fault Refusal :=
  .next (beginCmd 0x22 ring.val idx (windowsLoad h) s)

/-- R255: a shard map is checked and replaced. -/
def shardMapLoad (h : HostIn) (c : CmdEnt) (s : State) : State :=
  match tableData 2048 h c s with
  | (.error e, s1) => failCmd c e.1 e.2 s1
  | (.ok bs, s1) =>
    match shardList s1 bs [] (fld c.bytes 0x22 2) 0 with
    | .error code => failCmd c code 0x28 s1
    | .ok m => okCmd c 0 { s1 with rem := { s1.rem with maps := tput s1.rem.maps (byteAt c.bytes 0x21) m } }

def execShardMapLoad (ring : Fin 64) (idx : Nat) (h : HostIn) (s : State) : Host.Outcome State Fault Refusal :=
  .next (beginCmd 0x23 ring.val idx (shardMapLoad h) s)

end Sys2Proof.Machine
end

