-- ==== Sys2Proof/Machine/Graph.lean ====
section
/-! DEFINITION. Graph images and their checks, and the host's graph commands (R98 to R103, R111, R124 to R126, R292). -/
namespace Sys2Proof.Machine

/-! ### The image (R124, R125) -/

/-- R124: the largest image. -/
def maxImage : Nat := 75502144

/-- A check that fails with a code, or passes. -/
def must (b : Bool) (code : Nat) : Option Nat := if b then none else some code

/-- R8 to R10: a value between 1 and `hi`. -/
def judgeLen (v lo hi : Nat) : Option Nat :=
  if v = 0 then some 0x0102 else if v < lo then some 0x0104 else if hi < v then some 0x0103 else none

/-- The first failure of a list of checks. -/
def firstOf (l : List (Option Nat)) : Option Nat := l.findSome? id

/-- A tile field of an image: die, row and column in range. -/
def tileOk (die row col : Nat) : Bool := decide (die ≤ 1 ∧ row ≤ 11 ∧ col ≤ 11)

/-- R124: the START entries used, as (tile, input queue). -/
def imgStarts (img : List Byte) : List (Nat × Nat) :=
  (List.range (min 8 (byteAt img 0x30))).map fun i =>
    let o := 0x10 + 4 * i
    (byteAt img o * 144 + byteAt img (o + 1) * 12 + byteAt img (o + 2), byteAt img (o + 3))

/-- R124: the START entries used are in range. -/
def imgStartsOk (img : List Byte) : Bool :=
  (List.range (min 8 (byteAt img 0x30))).all fun i =>
    let o := 0x10 + 4 * i
    tileOk (byteAt img o) (byteAt img (o + 1)) (byteAt img (o + 2)) && decide (byteAt img (o + 3) ≤ 15)

/-- R125: the header, in layout order; `reach` judges the region of IMAGE_BYTES bytes (R11, R168). -/
def headerCheck (img : List Byte) (avail : Nat) (reach : Nat → Option Nat) : Option Nat :=
  firstOf [must (decide (64 ≤ avail)) 0x0101, must (fld img 0 4 == 0x4652475A && fld img 4 2 == 1) 0x0147,
    judgeLen (fld img 6 2) 1 288, judgeLen (fld img 8 4) 1 maxImage, reach (fld img 8 4), must (fld img 0x0E 2 == 0) 0x0147,
    must (imgStartsOk img) 0x0147, judgeLen (byteAt img 0x30) 1 8, must (zeroIn img 0x31 15) 0x0147]

/-- R125: the section headers in order from offset `off`: the sections as (tile, offset of the bytes, length) and the end
of the last, or the first failure. -/
def sectionHeads (img : List Byte) (avail : Nat) (seen : List Nat) :
    Nat → Nat → Except Nat (List (Nat × Nat × Nat) × Nat)
  | 0, off => .ok ([], off)
  | n + 1, off =>
    let t := byteAt img off * 144 + byteAt img (off + 1) * 12 + byteAt img (off + 2)
    let size := fld img (off + 4) 4
    match firstOf [must (decide (off + 16 ≤ avail)) 0x0101,
        must (tileOk (byteAt img off) (byteAt img (off + 1)) (byteAt img (off + 2)) && byteAt img (off + 3) == 0) 0x0147,
        judgeLen size 32 262144, must (size % 32 == 0 && zeroIn img (off + 8) 8 && !seen.contains t) 0x0147] with
    | some c => .error c
    | none =>
      match sectionHeads img avail (t :: seen) n (off + 16 + size) with
      | .ok (l, e) => .ok ((t, off + 16, size) :: l, e)
      | .error c => .error c

/-! ### Sections (R98 to R102, R105) -/

/-- A word of a section. -/
def secWord (sec : List Byte) (off n : Nat) : Nat := fld sec off n

/-- R105: an entry list of a task: `n` used entries with a count, naming queues that `ok` accepts, the rest zero. -/
def entriesOk (w base n : Nat) (ok : Nat → Bool) : Bool :=
  (List.range 4).all fun k =>
    let b := bitsOf w (base + 7 + 8 * k) (base + 8 * k)
    if n ≤ k then b == 0 else b / 16 != 0 && ok (b % 16)

/-- R105, R121, R125: a task descriptor. A zero descriptor, which never fires, is no breach; every other is held to R105,
with or without VALID (log entry 111), and every breach has the one code of R121 (log entry 110). -/
def taskCheck (sec : List Byte) (i : Nat) : Option Nat :=
  let w := secWord sec (0x3C000 + 16 * i) 16
  let nin := bitsOf w 18 16
  let nout := bitsOf w 21 19
  must (w == 0 || (decide (w % 2 ^ 13 ≤ 7679) && bitsOf w 15 14 == 0 && decide (1 ≤ nin ∧ nin ≤ 4 ∧ nout ≤ 4)
    && bitsOf w 31 22 == 0 && entriesOk w 32 nin (fun q => secWord sec (0x3CB40 + 4 * q) 4 % 128 != 0)
    && entriesOk w 64 nout (fun q => secWord sec (0x3CA40 + 16 * q) 16 % 2 == 1) && bitsOf w 127 112 == 0)) 0x0144

/-- R101, R125: a destination: a tile, or a control core 0 to 7. -/
def destOk (d : Nat) : Bool :=
  decide (d < 2 ^ 13) && (if bitsOf d 11 8 = 15 then decide (bitsOf d 7 4 ≤ 7) else decide (bitsOf d 11 8 ≤ 11 ∧ bitsOf d 7 4 ≤ 11))

/-- R101, R125: an output queue's binding, with or without VALID; the destinations beyond FANOUT are zero (log
entry 111). -/
def outQCheck (sec : List Byte) (q : Nat) : Option Nat :=
  let w := secWord sec (0x3CA40 + 16 * q) 16
  must (bitsOf w 15 3 == 0 && bitsOf w 127 80 == 0 && (List.range 4).all fun k =>
    let d := bitsOf w (31 + 16 * k) (16 + 16 * k)
    if bitsOf w 2 1 < k then d == 0 else destOk d) 0x0145

/-- R100, R121: an input queue's configuration. -/
def inQCheck (sec : List Byte) (q : Nat) : Option Nat := must (decide (secWord sec (0x3CB40 + 4 * q) 4 ≤ 64)) 0x0145

/-- R57, R98: an arithmetic context; its bytes 4 to 7 have the code of ARITH_CTL's reserved bits (log entry 110). -/
def contextCheck (sec : List Byte) (c : Nat) : Option Nat :=
  let o := 0x3CA00 + 16 * c
  firstOf [arithCheck (secWord sec o 4) true, must (secWord sec (o + 4) 4 == 0) 0x0134]

/-- R11, R98, R125: a section in layout order: its tasks, its contexts and its queues. -/
def sectionCheck (sec : List Byte) : Option Nat :=
  firstOf ((List.range 32).map (taskCheck sec) ++ (List.range 4).map (contextCheck sec) ++ (List.range 16).map (outQCheck sec)
    ++ (List.range 16).map (inQCheck sec)
    ++ [must (decide (lsum ((List.range 16).map fun q => secWord sec (0x3CB40 + 4 * q) 4) ≤ 512)) 0x0145])

/-- R101: the tile queues that a section's output queues feed, as (tile, input queue). -/
def sectionDests (sec : List Byte) : List (Nat × Nat) :=
  (List.range 16).flatMap fun q =>
    let w := secWord sec (0x3CA40 + 16 * q) 16
    if w % 2 = 0 then []
    else (oqDests w).filterMap fun d => if destCore d then none else some (destTile d, destQ d)

/-- R102: each fed queue is in use by a tile of the graph, and fed once. -/
def linksOk (secs : List (Nat × List Byte)) : List (Nat × Nat) → Bool
  | [] => true
  | d :: r =>
    !r.contains d
      && (match secs.find? fun e => e.1 == d.1 with
        | some e => secWord e.2 (0x3CB40 + 4 * d.2) 4 != 0
        | none => false)
      && linksOk secs r

/-- R101, R247: a section binds an output queue to a control core, whose front end then feeds its reply queues. -/
def bindsCore (sec : List Byte) : Bool :=
  (List.range 16).any fun q =>
    let w := secWord sec (0x3CA40 + 16 * q) 16
    w % 2 == 1 && (oqDests w).any destCore

/-- R102, R247: every used input queue has a producer, a START entry, or a front end that can reply to it (log
entry 116). -/
def fedOk (secs : List (Nat × List Byte)) (fed starts : List (Nat × Nat)) : Bool :=
  secs.all fun e => (List.range 16).all fun q =>
    secWord e.2 (0x3CB40 + 4 * q) 4 == 0 || fed.contains (e.1, q) || starts.contains (e.1, q) || bindsCore e.2

/-- R102, R103: START entries name queues of the graph, each no more times than its DEPTH. -/
def startsOk (secs : List (Nat × List Byte)) (starts : List (Nat × Nat)) : Bool :=
  starts.all fun d => match secs.find? fun e => e.1 == d.1 with
    | some e => decide ((starts.filter (· == d)).length ≤ secWord e.2 (0x3CB40 + 4 * d.2) 4)
    | none => false

/-- R125: an image of which `avail` bytes are read, `reach` judging the region that it names: its sections, or the first
failure. -/
def imageCheck (s : State) (img : List Byte) (avail : Nat) (reach : Nat → Option Nat) : Except Nat (List (Nat × List Byte)) :=
  match headerCheck img avail reach with
  | some c => .error c
  | none =>
    match sectionHeads img avail [] (fld img 6 2) 64 with
    | .error c => .error c
    | .ok (heads, e) =>
      let total := fld img 8 4
      let secs := heads.map fun h => (h.1, (img.drop h.2.1).take h.2.2)
      let fed := secs.flatMap fun e => sectionDests e.2
      let fail := firstOf ([must (total == e) 0x0147]
        ++ secs.map (fun e => sectionCheck e.2)
        ++ [must (linksOk secs fed) 0x0145, must (fedOk secs fed (imgStarts img)) 0x0145, must (startsOk secs (imgStarts img)) 0x0147]
        ++ secs.map fun e => firstOf [must ((tileSt s e.1).mode != .off) 0x0540, must ((tileSt s e.1).graph == 0) 0x0220])
      match fail with
      | some c => .error c
      | none => .ok secs

/-- R292: the lowest free handle from `h`. -/
def freeHandle (s : State) : Nat → Nat → Nat
  | 0, h => h
  | n + 1, h => if (tfind s.graphs h).isNone then h else freeHandle s n (h + 1)

/-- R123: the leading control core of a set of tiles (die × 8 + core). -/
def leaderOf (ts : List Nat) : Nat := lminD 15 (ts.map fun t => 8 * dieOf t + t % 144 / 18)

/-- R126: the tiles of an image take its handle; its sections follow until the load completes. -/
def beginLoad (c : CmdEnt) (img : List Byte) (secs : List (Nat × List Byte)) (s : State) : State :=
  let h := freeHandle s 288 1
  let ts := secs.map (·.1)
  let g : GraphSt := ⟨fld img 0x0C 2, img.take 64, leaderOf ts, secs, imgStarts img, some (c.ring, c.idx), none, none, none, [], [], []⟩
  ts.foldl (fun s t => setTile s t { tileSt s t with graph := h }) { s with graphs := tput s.graphs h g }

/-- R124: the end of `n` sections of which the first has its header at `off`, by the lengths that `rd` reads. -/
def sectionsEnd (rd : Nat → Nat → Nat) : Nat → Nat → Nat
  | 0, off => off
  | n + 1, off => sectionsEnd rd n (off + 16 + min 262144 (rd (off + 4) 4))

/-- R124, R125: how far the control cores read an image: through IMAGE_BYTES and through its last section. -/
def imageSpan (rd : Nat → Nat → Nat) : Nat :=
  min maxImage (max (rd 8 4) (max 64 (sectionsEnd rd (min 288 (rd 6 2)) 64)))

/-- R303: the image in host memory as the module reads it. -/
def imageBytes (c : CmdEnt) (f : Buf) (off : Nat) (h : HostIn) (s : State) : List Byte :=
  if confidential s then (openBlocks (ctxAt s f.ctx) c off (ceilDiv h.bytes.length 4096) 0 h.bytes h.tags).1 else h.bytes

/-- R125, R168, R292: an image of `n` bytes at a buffer's offset: the map and the tiles' windows judge it before the declared
buffer does. -/
def imageReach (s : State) (f : Buf) (off n : Nat) : Option Nat :=
  match bufRegionBad s f off n with
  | some code => some code
  | none => must (decide (n ≤ f.size - off)) 0x0101

/-- R168: the bytes of an image that are read: `n`, or its header alone where what lies beyond may not be read. -/
def imageRead (s : State) (f : Buf) (off n : Nat) : Nat := if (bufRegionBad s f off n).isNone then n else 64

/-- R292: GRAPH_LOAD. Failures of the image name IMG_BUF, whose bytes they judge. -/
def graphLoad (hin : HostIn) (c : CmdEnt) (s : State) : State :=
  let b := c.bytes
  let off := fld b 0x28 8
  match pickBuf c (byteAt b 0x20) false with
  | none => failCmd c 0x0194 0x20 s
  | some f =>
    if offsetBad s f off then failCmd c 0x0195 0x28 s
    else match bufRegionBad s f off 64 with
    | some code => failCmd c code 0x28 s
    | none =>
      if f.size < off then failCmd c 0x0101 0x28 s
      else
        let n := imageRead s f off (min (f.size - off) (imageSpan fun o k =>
          if f.host then fld (imageBytes c f off hin s) o k else leNat (memRead s.mem (f.addr + off + o) k)))
        match fetchData c f off n hin s with
        | (.fail code _, s1) => failCmd c code 0x20 s1
        | (.data img, s1) =>
          match imageCheck s1 img n (imageReach s1 f off) with
          | .error code => failCmd c code 0x20 s1
          | .ok secs => beginLoad c img secs s1

def execGraphLoad (ring : Fin 64) (idx : Nat) (h : HostIn) (s : State) : Host.Outcome State Fault Refusal :=
  .next (beginCmd 0x10 ring.val idx (graphLoad h) s)

/-! ### GRAPH_START and GRAPH_UNLOAD (R292) -/

/-- R292: a handle that names a loaded graph. -/
def loadedGraph (s : State) (h : Nat) : Option GraphSt :=
  match tfind s.graphs h with
  | some g => if g.loading.isNone then some g else none
  | none => none

/-- R126, R292: one run of a graph begins. -/
def graphStart (c : CmdEnt) (s : State) : State :=
  let b := c.bytes
  let h := fld b 0x20 2
  let n := fld b 0x22 2
  if h = 0 then failCmd c 0x0191 0x20 s
  else match loadedGraph s h with
    | none => failCmd c 0x0197 0x20 s
    | some g =>
    if n = 0 then failCmd c 0x0102 0x22 s
    else
      let r : RunG := ⟨c.ring, c.idx, eTag b, eLayer b, eOpId b, c.set, if eSeedOvr b then some (eSeed b) else none,
        n, 0, 0, s.now, false, []⟩
      let s1 := modGraph s h fun g => { g with run := some r }
      let s2 := trace 6 0x20 (srcCore (g.leader / 8) (g.leader % 8)) r.opId r.layer h r.tag s1
      feedStarts h r.tag g.starts s2

/-- R122, R286, R292: a start on a graph whose run is in progress, or which is still to be stopped for an exception, waits, and
so does one that follows another command of its ring on the same graph that has not begun. -/
def startGraph (c : CmdEnt) (s : State) : State :=
  if graphTurn s c = false then setCmd { c with begun := false } s
  else match loadedGraph s (fld c.bytes 0x20 2) with
  | some g => if g.run.isSome || g.exc.isSome then setCmd { c with begun := false } s else graphStart c s
  | none => graphStart c s

def execGraphStart (ring : Fin 64) (idx : Nat) (s : State) : Host.Outcome State Fault Refusal :=
  .next (beginCmd 0x11 ring.val idx startGraph s)

/-- R292: an unload at once: a run in progress ends as a discard, an unload that waits for it completes. -/
def forceUnload (h : Nat) (g : GraphSt) (c : CmdEnt) (s : State) : State :=
  let s1 := if g.run.isSome then stopGraph h 0x0561 s else s
  let s2 := match g.unload with
    | some (r, i) => finish r i (resOf 0) s1
    | none => s1
  unloadNow h c.ring c.idx s2

/-- R286, R292: GRAPH_UNLOAD. -/
def graphUnload (c : CmdEnt) (s : State) : State :=
  let b := c.bytes
  let h := fld b 0x20 2
  if graphTurn s c = false then setCmd { c with begun := false } s
  else if h = 0 then failCmd c 0x0191 0x20 s
  else match loadedGraph s h with
    | none => failCmd c 0x0197 0x20 s
    | some g =>
      if 1 < byteAt b 0x22 then failCmd c 0x0191 0x22 s
      else if byteAt b 0x22 = 1 then forceUnload h g c s
      else if g.run.isNone then unloadNow h c.ring c.idx s
      else if g.unload.isSome then setCmd { c with begun := false } s
      else modGraph s h fun g => { g with unload := some (c.ring, c.idx) }

def execGraphUnload (ring : Fin 64) (idx : Nat) (s : State) : Host.Outcome State Fault Refusal :=
  .next (beginCmd 0x12 ring.val idx graphUnload s)

end Sys2Proof.Machine
end

