-- ==== Sys2Proof/Machine/Host.lean ====
section
/-! DEFINITION. The PCI Express function: its resets and power states, command rings and completion rings, and how commands
are fetched and completed (R275 to R285, R293 to R298, R301 to R305, R504, R529). -/
namespace Sys2Proof.Machine

/-! ### Resets of the host interface (R278) -/

/-- R43, R292: what the commands in progress would have written is undefined: remote reads and collectives. -/
def dropHostWork (s : State) : State :=
  let hostRob (r : RobSt) : Bool := r.tile.isNone
  let rds := (s.rem.fes.flatMap fun e => e.2.robs.filter hostRob).filterMap fun r =>
    if rOp r.rob = 1 then some (r.laddr, rBytes r.rob) else none
  let outs := s.rem.colls.map fun x => (cOut x.desc, outBytes s x.desc)
  undefineAll (rds ++ outs) { s with rem := { s.rem with
    fes := s.rem.fes.map fun e => (e.1, { e.2 with robs := e.2.robs.filter (!hostRob ·) }), colls := [] } }

/-- R126, R278: a load that has not completed is discarded with its command; a running graph stops and stays loaded; an
unload that waits is discarded. -/
def dropGraphWork (h : Nat) (s : State) : State :=
  match tfind s.graphs h with
  | none => s
  | some g =>
    if g.loading.isSome then freeGraph h s
    else
      let s1 := modGraph s h fun g => { g with unload := none, run := none }
      if g.run.isSome then stopGraph h 0 s1 else s1

/-- R278: the host interface as after its reset. The MSI-X table and the power state follow the standard. -/
def hostReset (s : State) : State :=
  let s1 := dropHostWork { s with cmds := [] }
  let s2 := (s1.graphs.map (·.1)).foldl (fun s h => dropGraphWork h s) s1
  { s2 with hst := { s2.hst with bar2 := 0, rings := [], cqs := [], ctxs := [], sets := [], msix := [], d3 := false,
                                      cfg := CfgSt.initial } }

/-- R308: the link is down. -/
def linkDown (s : State) : State :=
  odSet (odSet (odSet { s with hst := { s.hst with linkUp := false } } oPCIE_LINK_SPEED 0) oPCIE_LINK_WIDTH 0) oPCIE_FLIT_MODE 0

def execFunctionLevelReset (s : State) : Host.Outcome State Fault Refusal :=
  .next (if s.hst.linkUp then hostReset s else s)
def execHotReset (s : State) : Host.Outcome State Fault Refusal := .next (if s.hst.linkUp then hostReset s else s)

/-- R278: the link goes down. -/
def pcieDown (s : State) : State := if s.hst.linkUp then linkDown (hostReset s) else s
def execPcieLinkDown (s : State) : Host.Outcome State Fault Refusal := .next (pcieDown s)

/-- R529: PERST_N at a level: low holds the host interface in the reset of R278. -/
def perst (n : Bool) (s : State) : State :=
  let s1 := { s with mod := { s.mod with pins := { s.mod.pins with perstN := n } } }
  if n then s1 else linkDown (hostReset s1)
def execPerstAssert (level : Bool) (s : State) : Host.Outcome State Fault Refusal := .next (perst level s)

/-- R275, R308: the link trains at no more than PCIE_SPEED_LIMIT, at x8, x4 or x1; Flit mode is in use at 64 GT/s, and
below where the partner supports it. -/
def pcieUp (speed width : Nat) (flit : Bool) (s : State) : State :=
  if s.mod.pins.perstN = false ∨ pllsUp s = false ∨ s.hst.linkUp ∨ speed = 0 ∨ (width ≠ 8 ∧ width ≠ 4 ∧ width ≠ 1) then s
  else
    let v := min speed (odv s oPCIE_SPEED_LIMIT)
    odSet (odSet (odSet { s with hst := { s.hst with linkUp := true } } oPCIE_LINK_SPEED v) oPCIE_LINK_WIDTH width)
      oPCIE_FLIT_MODE (b2n (v == 6 || flit))
def execPcieLinkUp (speed : Fin 7) (width : Fin 9) (flit : Bool) (s : State) : Host.Outcome State Fault Refusal :=
  .next (pcieUp speed.val width.val flit s)

/-- R275: D3hot. -/
def d3Entry (s : State) : State := if s.hst.linkUp then { s with hst := { s.hst with d3 := true } } else s
def execPcieD3hotEntry (s : State) : Host.Outcome State Fault Refusal := .next (d3Entry s)

/-! ### Interrupts (R276, R298) -/

/-- R276: an MSI-X entry; at reset it is masked, as the standard has it. -/
def msixAt (s : State) (v : Nat) : MsixSt := tget s.hst.msix v ⟨0, 0, 1, false⟩
def setMsix (v : Nat) (m : MsixSt) (s : State) : State := { s with hst := { s.hst with msix := tput s.hst.msix v m } }

/-- R275, R276, R464: a vector is held back: masked, by itself or as a whole, in D3hot or during Primer. -/
def msixHeld (s : State) (v : Nat) : Bool :=
  s.hst.d3 || modState s == 3 || s.hst.cfg.msixMask || (msixAt s v).ctrl % 2 == 1

/-- R298: the vector's message, or its pending bit while it is held back; none while MSI-X is not enabled. -/
def sendMsix (v : Nat) (s : State) : State :=
  if s.hst.linkUp = false ∨ s.hst.cfg.msixOn = false then s
  else if msixHeld s v then setMsix v { msixAt s v with pending := true } s
  else pcieCount 1 4 (emit (.msix v) s)

/-- R276: pending vectors that are no longer held back send their messages. -/
def flushMsix (s : State) : State :=
  (s.hst.msix.filter fun e => e.2.pending).foldl (fun s e =>
    if msixHeld s e.1 ∨ s.hst.cfg.msixOn = false then s else sendMsix e.1 (setMsix e.1 { msixAt s e.1 with pending := false } s)) s

/-- R298: the message of a completion ring. -/
def cqFire (c : Nat) (s : State) : State :=
  let q := cqAt s c
  sendMsix (cqVector q) (setCq c { q with since := 0 } s)

/-- R298: after a completion entry: COAL_COUNT reached, or CPL_IRQ. -/
def cqSignal (c : Nat) (cpl : Bool) (s : State) : State :=
  let q := cqAt s c
  if cqIrq q = false then s
  else if cpl ∨ cqCount q ≤ q.since + 1 then cqFire c s
  else setCq c { q with since := q.since + 1 } s

/-- R298: COAL_US have passed since the first completion not yet signalled. -/
def coalExpiry (c : Nat) (s : State) : State :=
  let q := cqAt s c
  if q.on ∧ cqIrq q ∧ 0 < q.since then cqFire c s else s
def execCoalTimerExpiry (c : Fin 64) (s : State) : Host.Outcome State Fault Refusal := .next (coalExpiry c.val s)

/-! ### Completion (R293 to R298) -/

/-- R285: a draining ring whose fetched commands have completed is disabled. -/
def drained (r : Nat) (s : State) : State :=
  let g := ringAt s r
  if g.st = 2 ∧ (s.cmds.all fun c => c.ring != r) then setRing r { g with st := 0 } s else s

/-- R296: a completion entry's first 32 bytes. -/
def cplEntry (q : CqSt) (c : CmdEnt) (r : CmdRes) : List Byte :=
  let phase := 1 - q.prod / 2 ^ cqLog2 q % 2
  leBytes 4 (eTag c.bytes) ++ leBytes 2 r.status ++ leBytes 1 r.flags ++ leBytes 1 (c.ring + 128 * phase)
    ++ leBytes 8 r.result ++ leBytes 8 c.doneAt ++ leBytes 2 (eLayer c.bytes) ++ leBytes 2 (eOpId c.bytes) ++ leBytes 4 r.detail

/-- R296, R303: the entry as written: 32 bytes, or 64 with PHASE in clear at byte 0x20, sealed on a CONF ring. -/
def cplBytes (q : CqSt) (c : Nat) (x : CtxSt) (e : List Byte) : List Byte :=
  let clear := leBytes 1 (128 * (byteAt e 7 / 128)) ++ zeros 15
  if cqConf q then
    let w := Config.sealBytes x.keyOut (nonceOf x.chan 2 c q.prod 0) clear e
    padTo 32 w ++ clear ++ padTo 16 (w.drop 32)
  else if cqWide q then e ++ clear ++ zeros 16 else e

/-- R298, R498: writes a completion entry, raises CQ_PROD and counts it; a key without room for it exhausts first (R305). A ring
that is not enabled takes none. -/
def writeCpl (n : Nat) (c : CmdEnt) (r : CmdRes) (s : State) : State :=
  let q := cqAt s n
  if q.on = false then s
  else if cqConf q ∧ ctxOpen (ctxAt s (cqCtx q)) false = false then exhaust (cqCtx q) false s
  else
    let w := cplBytes q n (ctxAt s (cqCtx q)) (cplEntry q c r)
    let s0 := odAdd s oCOMMANDS_COMPLETED 1
    let s1 := hostWrite (q.base + q.prod % 2 ^ cqLog2 q * w.length) w
      (if class3 r.status then odAdd s0 oCOMMANDS_DISCARDED 1 else s0)
    let s2 := cqSignal n (eCplIrq c.bytes) (setCq n { q with prod := (q.prod + 1) % 2 ^ 32 } s1)
    if cqConf q then ctxIndex (cqCtx q) (64 + n) false s2 else s2

/-- R43, R289, R298: a finished command completes: a set that it defines takes effect, its entry is written, and it leaves
the command store. -/
def completeCmd (c : CmdEnt) (r : CmdRes) (s : State) : State :=
  let s1 := if eOp c.bytes = 2 ∧ r.status = 0 then
      { s with hst := { s.hst with sets := tput s.hst.sets (fld c.bytes 0x20 2) c.set } } else s
  let s2 := { s1 with cmds := s1.cmds.filter fun d => !(d.ring == c.ring && d.idx == c.idx) }
  drained c.ring (writeCpl (rgCq (ringAt s c.ring)) c r s2)

/-- R275, R298: completions are written in D0, and not during Primer. -/
def mayComplete (s : State) : Bool := barOpen s && modState s != 3

/-- R298: commands in the order in which they finished. -/
def byFinish (l : List CmdEnt) : List CmdEnt := lsort (fun a b => decide (a.doneOrd ≤ b.doneOrd)) l

/-- Every finished command of a list completes. -/
def completeAll : List CmdEnt → State → State
  | [], s => s
  | c :: r, s => completeAll r (match c.done with | some d => completeCmd c d s | none => s)

/-- R298: the finished commands of a command's completion ring that finished no later than it. -/
def dueWith (s : State) (c : CmdEnt) : List CmdEnt :=
  s.cmds.filter fun d => d.done.isSome && rgCq (ringAt s d.ring) == rgCq (ringAt s c.ring) && decide (d.doneOrd ≤ c.doneOrd)

/-- R298: a command's completion is written, after those of its completion ring that finished before it. -/
def commandComplete (ring idx : Nat) (s : State) : State :=
  match findCmd s ring idx with
  | none => s
  | some c => if c.done.isSome ∧ mayComplete s then completeAll (byFinish (dueWith s c)) s else s
def execCommandComplete (ring : Fin 64) (idx : Nat) (s : State) : Host.Outcome State Fault Refusal :=
  .next (commandComplete ring.val idx s)

/-- R275, R298: return to D0: the deferred completions are written, in the order in which their commands finished, and the
messages held back leave. -/
def d0Return (s : State) : State :=
  if s.hst.d3 then
    let s1 := { s with hst := { s.hst with d3 := false } }
    flushMsix (if mayComplete s1 then completeAll (byFinish s1.cmds) s1 else s1)
  else s
def execPcieD0Return (s : State) : Host.Outcome State Fault Refusal := .next (d0Return s)

/-! ### Polling and fetching (R282 to R284, R297) -/

/-- R297: entries written and not consumed, and fetched commands bound to a completion ring. -/
def cqLoad (s : State) (c : Nat) : Nat :=
  let q := cqAt s c
  (q.prod + 2 ^ 32 - q.cons) % 2 ^ 32 + (s.cmds.filter fun d => rgCq (ringAt s d.ring) == c).length

/-- R297: the completion ring is full. -/
def cqFull (s : State) (c : Nat) : Bool := decide (2 ^ cqLog2 (cqAt s c) ≤ cqLoad s c)

/-- R293, R297: the consumer record is read. -/
def readCons (c cons : Nat) (s : State) : State :=
  setCq c { cqAt s c with cons := cons } (hostAsk (cqAt s c).rec_ 64 s)

/-- R297: while a completion ring is full, its consumer record is read again. -/
def consRead (c : Nat) (rd : HostRead) (cons : Nat) (s : State) : State :=
  if (cqAt s c).on ∧ cqFull s c ∧ isReady s ∧ barOpen s then
    if rd = .good then readCons c cons s else notePoison rd s
  else s
def execConsRecordRead (c : Fin 64) (rd : HostRead) (cons : Fin 4294967296) (s : State) : Host.Outcome State Fault Refusal :=
  .next (consRead c.val rd cons.val s)

/-- R303: an entry of index `n` of a ring as the module takes it: on a CONF ring decrypted under the context's H2M key, `none`
where its tag fails. -/
def openEntry (r : Nat) (g : RingSt) (x : CtxSt) (e : List Byte) : Option (List Byte) :=
  let b := padTo 128 e
  if rgConf g then
    (Config.openBytes x.keyIn (nonceOf x.chan 0 r g.cons 0) (b.take 0x20) ((b.drop 0x20).take 0x50) (b.drop 0x70)).map fun p =>
      b.take 0x20 ++ padTo 0x50 p ++ b.drop 0x70
  else some b

/-- R283, R303 to R305: the entries of a fetch enter the command store in order, until one stops the ring. -/
def fetchEntries (r : Nat) : List (List Byte) → State → State
  | [], s => s
  | e :: es, s =>
    let g := ringAt s r
    let x := rgCtx g
    if g.st ≠ 1 then s
    else if rgConf g ∧ ctxOpen (ctxAt s x) true = false then stopRing r 0x0444 (ctxEnd x true s)
    else match openEntry r g (ctxAt s x) e with
    | none => stopRing r 0x0443 (ctxFail x s)
    | some b =>
      let s1 := odAdd (setRing r { g with cons := (g.cons + 1) % 2 ^ 32 } s) oCMDS_FETCHED 1
      let s2 := { s1 with cmds := s1.cmds ++ [⟨r, g.cons, s.now, b, [], false, false, none, 0, 0⟩] }
      fetchEntries r es (if rgConf g then ctxIndex x r true s2 else s2)

/-- R283, R284: what a poll that finds `prod` fetches. -/
def ringFetch (r : Nat) (p : PollIn) (s : State) : State :=
  let g := ringAt s r
  let n := 2 ^ rgLog2 g
  let diff := (p.prod.val + 2 ^ 32 - g.cons) % 2 ^ 32
  let c := rgCq g
  let s1 := if cqFull s c then readCons c p.cons.val s else s
  let k := min (min diff 32) (min (n - g.cons % n) (min (2 ^ cqLog2 (cqAt s1 c) - cqLoad s1 c) (4096 - s1.cmds.length)))
  if diff = 0 then s1
  else if n < diff then stopRing r 0x0563 s1
  else if k = 0 then s1
  else
    let s2 := notePoison p.fetch (hostAsk (g.base + g.cons % n * 128) (128 * k) s1)
    if p.fetch ≠ .good then stopRing r 0x0360 s2
    else
      let s3 := fetchEntries r ((List.range k).map fun i => p.entries.getD i []) s2
      hostWrite (g.rec_ + 0x20) (leBytes 4 (ringAt s3 r).cons) s3

/-- R282: a poll of a running ring. -/
def ringPoll (r : Nat) (p : PollIn) (s : State) : State :=
  if (ringAt s r).st ≠ 1 ∨ isReady s = false ∨ barOpen s = false then s
  else
    let s1 := odSet (odAdd (notePoison p.rec_ (hostAsk (ringAt s r).rec_ 64 s)) oPOLL_READS 1) oHOST_RD_RTT_NS (p.rtt % 2 ^ 32)
    if p.rec_ ≠ .good then stopRing r 0x0360 s1 else ringFetch r p s1
def execRingPoll (r : Fin 64) (p : PollIn) (s : State) : Host.Outcome State Fault Refusal := .next (ringPoll r.val p s)

/-! ### Enabling and disabling rings (R281, R285, R294, R295, R301, R504) -/

/-- R301: CONF and CTX of a ring: set and keyed in confidential mode, zero outside it. -/
def confOk (s : State) (conf : Bool) (ctx : Nat) : Bool :=
  if confidential s then conf && (ctxAt s ctx).st == 1 else !conf && ctx == 0

/-- R281, R285, R295: the configuration of a command ring is valid. -/
def ringOk (s : State) (g : RingSt) : Bool :=
  decide (6 ≤ rgLog2 g ∧ rgLog2 g ≤ 16 ∧ 1 ≤ rgPoll g ∧ rgPoll g ≤ 1000) && g.base % 4096 == 0 && g.rec_ % 64 == 0
    && g.ctl / 2 ^ 29 == 0 && (cqAt s (rgCq g)).on && confOk s (rgConf g) (rgCtx g)

/-- R285: the ENABLE bit as it reads. -/
def ringOn (g : RingSt) : Bool := g.st == 1 || g.st == 3

/-- R460, R463, R504: whether rings may be enabled: not during Primer, before READY, or after a Primer that failed. -/
def readyCode (s : State) : Nat :=
  if modState s = 3 then 0x0581 else if isReady s = false then 0x0590 else if s.sec.last = 2 then 0x0581 else 0

/-- R285, R504: a disabled ring is enabled. -/
def ringEnable (r : Nat) (s : State) : State :=
  let g := ringAt s r
  if readyCode s ≠ 0 then setRing r { g with code := readyCode s } s
  else if ringOk s g = false then setRing r { g with code := 0x0562 } s
  else hostWrite (g.rec_ + 0x20) (leBytes 4 0) (setRing r { g with code := 0, st := 1, cons := 0 } s)

/-- R281, R285: `v` is written to RING_CTL. A field counts as written when the write changes it. -/
def wRingCtl (r v : Nat) (s : State) : State :=
  let g := ringAt s r
  if g.st = 0 then
    let s1 := setRing r { g with ctl := v / 2 * 2 } s
    if v % 2 = 1 then ringEnable r s1 else s1
  else
    let g1 := if v / 2 = g.ctl / 2 then g else { g with ign := true }
    if v % 2 = 0 ∧ ringOn g then drained r (setRing r { g1 with st := 2 } s) else setRing r g1 s

def execRingEnable (r : Fin 64) (fields : Fin 2147483648) (s : State) : Host.Outcome State Fault Refusal :=
  .next (if barOpen s then wRingCtl r.val (2 * fields.val + 1) (pcieCount 0 4 s) else s)
def execRingDisable (r : Fin 64) (fields : Fin 2147483648) (s : State) : Host.Outcome State Fault Refusal :=
  .next (if barOpen s then wRingCtl r.val (2 * fields.val) (pcieCount 0 4 s) else s)

/-- R295, R301: the configuration of a completion ring is valid. -/
def cqOk (s : State) (q : CqSt) : Bool :=
  decide (6 ≤ cqLog2 q ∧ cqLog2 q ≤ 16 ∧ 1 ≤ cqCount q ∧ 1 ≤ cqUs q ∧ cqUs q ≤ 1000) && q.base % 4096 == 0
    && q.rec_ % 64 == 0 && q.ctl / 2 ^ 39 == 0 && (!cqConf q || cqWide q) && confOk s (cqConf q) (cqCtx q)

/-- R295, R504: a disabled completion ring is enabled. -/
def cqEnable (c : Nat) (s : State) : State :=
  let q := cqAt s c
  if readyCode s ≠ 0 then setCq c { q with code := readyCode s } s
  else if cqOk s q = false then setCq c { q with code := 0x0562 } s
  else setCq c { q with code := 0, on := true, prod := 0, cons := 0, since := 0 } s

/-- R294: a command ring bound to a completion ring is not DISABLED. -/
def cqBound (s : State) (c : Nat) : Bool := s.hst.rings.any fun e => e.2.st != 0 && rgCq e.2 == c

/-- R294, R295: `v` is written to CQ_CTL. A field counts as written when the write changes it. -/
def wCqCtl (c v : Nat) (s : State) : State :=
  let q := cqAt s c
  if q.on then
    let q1 := if v / 2 = q.ctl / 2 then q else { q with ign := true }
    if v % 2 = 1 then setCq c q1 s
    else if cqBound s c then setCq c { q1 with ign := true } s
    else setCq c { q1 with on := false } s
  else
    let s1 := setCq c { q with ctl := v / 2 * 2 } s
    if v % 2 = 1 then cqEnable c s1 else s1

def execCqEnable (c : Fin 64) (fields : Fin 9223372036854775808) (s : State) : Host.Outcome State Fault Refusal :=
  .next (if barOpen s then wCqCtl c.val (2 * fields.val + 1) (pcieCount 0 8 s) else s)
def execCqDisable (c : Fin 64) (fields : Fin 9223372036854775808) (s : State) : Host.Outcome State Fault Refusal :=
  .next (if barOpen s then wCqCtl c.val (2 * fields.val) (pcieCount 0 8 s) else s)

end Sys2Proof.Machine
end

