-- ==== Sys2Proof/Machine/Power.lean ====
section
/-! DEFINITION. The power envelope: estimation, caps, the power limit and its actions, frequency, sharing, temperatures,
coolant, brake, droops and step tests (R310 to R350). Powers are in nW. -/
namespace Sys2Proof.Machine

/-- A bit of CAP_STATUS (R355). -/
def capBit (s : State) (b : Nat) : Bool := bitAt (odv s oCAP_STATUS) b
def setCapBit (b : Nat) (v : Bool) (s : State) : State := odBit s oCAP_STATUS b v

/-- R423: a generic condition of CAP_STATUS comes into force or clears. -/
def capCond (v : Bool) (event : Nat) (s : State) : State := emcyWhile v 0xFF00 0 event s

/-! ### Energy counters -/

/-- Adds `e` units of 10⁻¹⁸ J to a counter in mJ: the new remainder, and the whole mJ. -/
def energyStep (rem e : Nat) : Nat × Nat := ((rem + e) % 10 ^ 15, (rem + e) / 10 ^ 15)

/-! ### The estimate (R311 to R313) -/

/-- R311: the number of an event class. -/
def evCode : EvClass → Nat
  | .matrix g => g.val
  | .vector => 9
  | .bundle => 10
  | .tileSram => 11
  | .irregular => 12
  | .filler l => 13 + l.val
  | .mesh => 29
  | .stacked => 30
  | .lpddr => 31
  | .slots => 32
  | .optics => 33

/-- R311: the LPDDR5X and optics weights are not scaled by the voltage. -/
def coreScaled : EvClass → Bool
  | .lpddr | .optics => false
  | .matrix _ | .vector | .bundle | .tileSram | .irregular | .filler _ | .mesh | .stacked | .slots => true

/-- R337: the Filler cycles. -/
def isFillerClass : EvClass → Bool
  | .filler _ => true
  | .matrix _ | .vector | .bundle | .tileSram | .irregular | .mesh | .stacked | .lpddr | .slots | .optics => false

/-- R311: the classes whose events the state counts: what its tiles run. -/
def counted : EvClass → Bool
  | .matrix _ | .vector | .bundle => true
  | .tileSram | .irregular | .filler _ | .mesh | .stacked | .lpddr | .slots | .optics => false

/-- R311: the events of a window: those that the state counted, and of the other classes those that the update brings (log
entry 104). Filler cycles carry no OP_ID. -/
def windowEvents (s : State) (evs : List EvCount) : List EvCount :=
  s.flt.evs ++ (evs.filter fun e => !counted e.cls).map fun e => if isFillerClass e.cls then { e with op := 0 } else e

/-- R311: the sum of w_u × n_d,u over 2.048 µs, for the counts that `p` takes: 10⁻¹⁸ J over 1 ns is 1 nW. -/
def evPower (evs : List EvCount) (p : EvCount → Bool) : Nat :=
  lsum ((evs.filter p).map fun e => Config.eventWeight (evCode e.cls) * e.n) / 2048

/-- R311: the dynamic power of the counts that `p` takes, times c: core-scaled classes at each die's setpoint. -/
def dynPower (s : State) (evs : List EvCount) (p : EvCount → Bool) : Nat :=
  let core (d : Nat) : Nat := vScale (odv s (oDIE_VCORE + d)) (evPower evs fun e => e.die.val == d && coreScaled e.cls && p e)
  calibrated s (core 0 + core 1 + evPower evs fun e => !coreScaled e.cls && p e)

/-- R311: P_fix: its blocks, and the conversion loss at the present load, for which the estimate in force stands (log entry
101). -/
def fixedPower (s : State) : Nat :=
  lsum ((List.range 4).map Config.fixPower) + Config.conversionLoss s.flt.pEst

/-- R311: P_raw, and the two dies' parts of it. -/
def rawDie (s : State) (evs : List EvCount) (d : Nat) : Nat :=
  vScale (odv s (oDIE_VCORE + d)) (evPower evs fun e => e.die.val == d && coreScaled e.cls)
    + evPower evs fun e => e.die.val == d && !coreScaled e.cls
def rawPower (s : State) (evs : List EvCount) : Nat :=
  fixedPower s + rawDie s evs 0 + leakAt s 0 (odv s oDIE_VCORE) + rawDie s evs 1 + leakAt s 1 (odv s (oDIE_VCORE + 1))

/-- R340: the pace falls that have begun and not yet taken effect. -/
def fallsBegun (s : State) : Nat := lsum ((s.flt.steps.filter fun x => x.kind == 1 && !x.up && begun x).map (·.size))

/-- R311, R313, R331: the estimate of an update; the grants since the last one are in it. -/
def estimate (evs : List EvCount) (s : State) : State :=
  let raw := rawPower s evs
  let est := if capBit s 7 then s.flt.pIn + s.flt.sinceIn else calibrated s raw
  let core (d : Nat) : Nat := evPower evs fun e => e.die.val == d && coreScaled e.cls
  let other (d : Nat) : Nat := evPower evs fun e => e.die.val == d && !coreScaled e.cls
  modFlt (fun f => { f with
    pRaw := raw, pEst := est, proj := 0, fell := fallsBegun s, rawSum := f.rawSum + raw, rawN := f.rawN + 1
    pFix := fixedPower s, core0 := core 0, core1 := core 1, other0 := other 0, other1 := other 1
    dyn0 := calibrated s (rawDie s evs 0), dyn1 := calibrated s (rawDie s evs 1)
    die0 := calibrated s (rawDie s evs 0 + leakAt s 0 (odv s oDIE_VCORE))
    die1 := calibrated s (rawDie s evs 1 + leakAt s 1 (odv s (oDIE_VCORE + 1))) }) s

/-- R311: the OP_IDs that a window's events carry. -/
def opsOf (evs : List EvCount) : List Nat :=
  evs.foldl (fun l e => if e.op.val = 0 ∨ e.op.val ∈ l then l else l ++ [e.op.val]) []

/-- R311: the attributed power of an OP_ID in a window. -/
def opPower (s : State) (evs : List EvCount) (op : Nat) : Nat := dynPower s evs fun e => e.op.val == op

/-- R334, R337, R477: the energy of the window's Filler cycles, of the selected operators, and of each operator since the
last share was formed. -/
def countEnergy (evs : List EvCount) (s : State) : State :=
  let (r, n) := energyStep s.flt.fillRem (dynPower s evs (fun e => isFillerClass e.cls) * 2048)
  let s1 := odAdd (modFlt (fun f => { f with fillRem := r }) s) oFILLER_ENERGY_MJ n
  let s2 := (opsOf evs).foldl (fun s op =>
    modFlt (fun f => { f with opE := tput f.opE op (tget f.opE op 0 + opPower s evs op * 2048) }) s) s1
  (List.range 16).foldl (fun s i =>
    let op := odv s (oOPC_SELECT + i)
    let (r, n) := energyStep (tget s.flt.opcRem i 0) (if op = 0 then 0 else opPower s evs op * 2048)
    odAdd (modFlt (fun f => { f with opcRem := tput f.opcRem i r }) s) (oOPC_ENERGY_MJ + i) n) s2

/-! ### Caps (R321 to R324) -/

/-- R321, R512: the cap target, in W. -/
def capTarget (s : State) : Nat :=
  let rack := if capBit s 3 then odv s oAUTONOMOUS_CAP_W else odv s oCAP_TARGET_W
  let safe := if capBit s 4 then odv s oSAFE_CAP_W else 2200
  min (min rack safe) (min (min (odv s oCOOLANT_CAP_W) s.mod.hwCap) 2200)

/-- R324: the Safe source sets the target. -/
def safeSets (s : State) : Bool := capBit s 4 && odv s oSAFE_CAP_W == capTarget s

/-- R324: the enforced cap one update later. -/
def capStep (s : State) : State :=
  let t := capTarget s * watt
  let slew := if safeSets s then max 40000 (odv s oCAP_DOWN_SLEW_WPS) else odv s oCAP_DOWN_SLEW_WPS
  let c := if s.flt.pCap ≤ t then t else max t (s.flt.pCap - slew * 2048)
  let lag := c / watt - capTarget s
  setCapBit 2 (lag != 0) (odSet (odSet (modFlt (fun f => { f with pCap := c }) s) oCAP_ENFORCED_W (c / watt)) oCAP_LAG_W lag)

/-! ### The power limit and the ramp (R318, R328) -/

/-- R328: the ramp loop's output. -/
def rampLimit (s : State) (pRef : Nat) : Nat := pRef + odv s oRAMP_BAND_W * watt

/-- R318: LIMIT_SOURCE: the loop that sets the limit, the lower number on a tie. -/
def limitSource (s : State) (lim : Nat) : Nat :=
  if odv s oBRAKE_ACTIVE = 1 then 5
  else if lim = 2400 * watt then 0
  else if lim = s.flt.pCap then 1
  else if lim = s.flt.pTh then 2
  else if lim = iinLimit s then 3 else 4

/-- R328: what waits for headroom, as (wait, power): tile requests and raising die-level steps. -/
def waitingRaises (s : State) : List (Nat × Nat) :=
  [0, 1].flatMap fun d => (raiseReqs s d).map fun r => (waitOf s r.stamp, reqPower s d r)

/-- R328: the power of those, oldest first, that a limit admits on top of `p`. -/
def admitSum (lim p : Nat) : List (Nat × Nat) → Nat
  | [] => 0
  | x :: r => if p + x.2 ≤ lim then x.2 + admitSum lim (p + x.2) r else admitSum lim p r

/-- R328: P_ref one update later, under the limit source of the limit with the old P_ref; at the first update of a cold
start with both core rails REGULATING it is P_est. -/
def rampStep (s : State) : State :=
  let est := s.flt.pEst
  let old := s.flt.pRef.getD est
  let src := limitSource s (min (limNoRamp s) (rampLimit s old))
  let up := odv s oRAIL_STATE == 2 && odv s (oRAIL_STATE + 256) == 2
  let tgt := est + admitSum (limNoRamp s) est (lsort (fun a b => decide (b.1 < a.1)) (waitingRaises s))
  let w := odv s oINPUT_RAMP_WPS * 2048
  let new :=
    if up && !s.flt.refSet then some est
    else match s.flt.pRef with
      | none => none
      | some p => if src = 1 ∨ src = 2 ∨ src = 3 ∨ src = 5 then some est else some (min (max tgt (p - w)) (p + w))
  modFlt (fun f => { f with pRef := new, refSet := f.refSet || up }) s

/-- R318, R345: the power limit; the ramp does not limit during a step test. -/
def limitStep (s : State) : State :=
  let lim := if s.flt.test.isSome then limNoRamp s else min (limNoRamp s) (rampLimit s (s.flt.pRef.getD s.flt.pEst))
  odSet (modFlt (fun f => { f with pLim := lim }) s) oLIMIT_SOURCE (limitSource s lim)

/-! ### Shares and die-level steps (R319, R326, R333, R340) -/

/-- R333: the share of a die in what a P_fix of `fix` leaves of P_lim. -/
def shareIn (s : State) (fix d : Nat) : Nat :=
  let avail := s.flt.pLim - fix
  let s0 := if odv s oSHARE_MODE = 1 then avail * s.flt.share0 / 65536 else avail * odv s oSHARE_DIE0_PCT / 100
  if d = 0 then s0 else avail - s0
def shareOf (s : State) (d : Nat) : Nat := shareIn s s.flt.pFix d

/-- R333: how much a die's power exceeds its share. -/
def excess (s : State) (d : Nat) : Int := (fDie s d : Int) - (shareOf s d : Int)

/-- R333: the die to step, of those that can: the larger excess (for a reversal the smaller), on a tie the dies alternate. -/
def pickDie (s : State) (up : Bool) (ok : Nat → Bool) : Option Nat :=
  let a := excess s 0
  let b := excess s 1
  if ok 0 && ok 1 then (if a = b then some s.flt.shareTurn else if decide (b < a) != up then some 0 else some 1)
  else if ok 0 then some 0 else if ok 1 then some 1 else none

/-- R326: a pending duty step (of R319 or of the pace limit) or frequency step of a die, a raise that settles among the
latter. -/
def stepPending (s : State) (d : Nat) (freq : Bool) : Bool :=
  s.flt.steps.any (fun x => x.die == d && (if freq then x.kind == 2 else decide (x.kind < 2)))
    || (freq && (tfind s.flt.settle d).isSome)

/-- R326: the power of one sixteenth of duty. -/
def dutyPower (s : State) (d : Nat) : Nat := fDyn s d / 16

/-- R319: raising steps that have not begun are withdrawn while the limit is exceeded. -/
def dropRaises (s : State) : State :=
  modFlt (fun f => { f with steps := f.steps.filter fun x => !(x.up && !begun x && x.kind != 3) }) s

/-- The dies alternate after a step taken on a tie (R333). -/
def tookStep (d : Nat) (s0 s : State) : State :=
  if excess s0 0 = excess s0 1 then modFlt (fun f => { f with shareTurn := 1 - d }) s else s

/-- R319: the limit is exceeded: a frequency step in dynamic mode, and a duty step once those are exhausted; a pace step
that the ramp still holds makes way for it (R320). -/
def lowerStep (s0 : State) : State :=
  let s := dropRaises s0
  if odv s oFREQ_MODE_ACTIVE == 1 && (fPoint s 0 != 0 || fPoint s 1 != 0) then
    match pickDie s false (fun d => fPoint s d != 0 && !stepPending s d true) with
    | some d => tookStep d s (queueStep d 2 false (pointGap s d (fPoint s d - 1)) s)
    | none => s
  else
    match pickDie s false (fun d => decide (1 < fDuty s d) && !stepPending (withdraw d 1 s) d false) with
    | some d => tookStep d s (queueStep d 0 false (dutyPower s d) (withdraw d 1 s))
    | none => s

/-- R319: headroom is back: a duty step is reversed when the limit, the ramp apart, has room for it; the ramp then admits
it in its turn. -/
def raiseStep (s : State) : State :=
  let fits (d : Nat) : Bool :=
    decide (pProj s + (creditsOf s d (dutyPower s d) * creditPower s d : Nat) ≤ (limNoRamp s : Int))
  match pickDie s true (fun d => decide (fDuty s d < 16) && !stepPending s d false && fits d) with
  | some d => tookStep d s (queueStep d 0 true (dutyPower s d) s)
  | none => s

/-- R315: a die that a switch to fixed mode found at another point than 12 goes there one point at a time (log entry
103). -/
def homeStep (d : Nat) (s : State) : State :=
  if odv s oFREQ_MODE_ACTIVE = 0 ∧ fPoint s d ≠ 12 ∧ stepPending s d true = false then
    if fPoint s d < 12 then queueStep d 2 true (pointGap s d (fPoint s d + 1)) s
    else queueStep d 2 false (pointGap s d (fPoint s d - 1)) s
  else s

/-- R269: the pace limit that the messages held ask for. -/
def paceTarget (s : State) : Nat := lminD 16 (s.rem.pace.map (·.duty))

/-- R340: the pace limit moves one sixteenth at a time: down as far as the ramp allows (judged when the step is taken), up
as headroom allows. -/
def paceStep (d : Nat) (s : State) : State :=
  if stepPending s d false then s
  else if paceTarget s < fPace s d then
    queueStep d 1 false (if fPace s d ≤ fDuty s d then dutyPower s d else 0) s
  else if fPace s d < paceTarget s then
    let p := if fPace s d < fDuty s d then dutyPower s d else 0
    if pProj s + (p : Int) ≤ (limNoRamp s : Int) then queueStep d 1 true p s else s
  else s

/-- R338: in APPROACH, a tile already in Filler whose level closes part of the gap to the hold level, and that level: a rise
as headroom allows, a fall as the ramp allows. -/
def holdTrim (s : State) (d : Nat) : Option (Nat × Nat) :=
  match holdLevel s with
  | none => none
  | some h =>
    let low : Int := ((s.flt.pRef.getD s.flt.pEst : Nat) : Int) - (odv s oRAMP_BAND_W * watt : Nat)
    ((List.range 144).map (d * 144 + ·)).findSome? fun t =>
      match (tileSt s t).filler with
      | none => none
      | some l =>
        let p : Int := pProj s - (levelPower s d l : Nat)
        let n := fillLevel s d ((h : Int) - p).toNat
        let q := p + (levelPower s d n : Nat)
        if (l < n ∧ q ≤ (s.flt.pLim : Int)) ∨ (n < l ∧ low ≤ q) then some (t, n) else none

/-- R338: that tile takes the level, in a slot of its rail. -/
def holdStep (d : Nat) (s : State) : State :=
  if odv s oPRIMER_STATE = 1 ∧ slotOpen s d ∧ railIdle s d then
    match holdTrim s d with
    | some (t, n) =>
      let l := (tileSt s t).filler.getD 0
      useSlot d (addProj ((levelPower s d n : Int) - (levelPower s d l : Int)) (setTile s t { tileSt s t with filler := some n }))
    | none => s
  else s

/-- R325: the die can go no lower. -/
def atFloor (s : State) (d : Nat) : Bool :=
  (odv s oFREQ_MODE_ACTIVE == 0 || fPoint s d == 0)
    && (dutyInForce s d == 1 || (s.tiles.all fun t => dieOf t.1 != d || !t.2.credit))

/-- R325: CAP_UNREACHABLE, its record and message once per setting, and CAP_SHORTFALL_W. -/
def reachStep (s : State) : State :=
  let above := decide ((s.flt.pCap : Int) < pProj s)
  let was := capBit s 1
  let s1 :=
    if above && atFloor s 0 && atFloor s 1 && !was then
      capCond true evCAP_UNREACHABLE
        (logEvent evCAP_UNREACHABLE srcModule (pProj s).toNat 0 noCmd (setCapBit 1 true s))
    else if !above && was then capCond false evCAP_UNREACHABLE (setCapBit 1 false s)
    else s
  odSet s1 oCAP_SHORTFALL_W (if capBit s1 1 then s1.flt.pEst / watt - capTarget s1 else 0)

/-- R336: the falls at Filler entry within the last second, added up by instant. -/
def unheldStep (s : State) : State :=
  let l := s.flt.unheld.filter fun u => decide (s.now < u.1 + 1000000000)
  let sums := l.map fun u => lsum ((l.filter fun v => v.1 == u.1).map (·.2))
  odSet (modFlt (fun f => { f with unheld := l }) s) oFILLER_UNHELD_W (lmax sums / watt)

/-- R335, R354: the objects that an update refreshes. -/
def showPower (s : State) : State :=
  let fill (d : Nat) : Nat := (s.tiles.filter fun t => dieOf t.1 == d && t.2.filler.isSome).length
  let l := [(oP_EST, s.flt.pEst / 100000000 % 2 ^ 32), (oSHARE_W, shareOf s 0 / watt % 65536),
    (oSHARE_W + 1, shareOf s 1 / watt % 65536), (oFILLER_TILES, fill 0), (oFILLER_TILES + 1, fill 1)]
  showDuty (l.foldl (fun s x => odSet s x.1 x.2) s)

/-- R319: Float acts on the limit; under the brake the duty is 1 already. -/
def actStep (s : State) : State :=
  if odv s oBRAKE_ACTIVE = 1 then s
  else
    let s1 := if (s.flt.pLim : Int) < pProj s then lowerStep s else raiseStep s
    let s2 := paceStep 1 (paceStep 0 (homeStep 1 (homeStep 0 s1)))
    holdStep 1 (holdStep 0 s2)

/-- R311, R318, R319, R324, R328: one estimator update. -/
def estimatorUpdate (told : List EvCount) (s : State) : State :=
  if s.mod.auxUp = false then s
  else
    let evs := windowEvents s told
    let s1 := capStep (countEnergy evs (estimate evs (modFlt (fun f => { f with evs := [] }) s)))
    showPower (unheldStep (reachStep (actStep (limitStep (rampStep s1)))))

def execEstimatorUpdate (evs : List EvCount) (s : State) : Host.Outcome State Fault Refusal := .next (estimatorUpdate evs s)

/-! ### Calibration (R310, R312, R313, R353) -/

/-- R313: the runs of r out of 0.70 to 1.40, and the flag. -/
def plausible (r : Nat) (s : State) : State :=
  let inRange := decide (7 * 2 ^ 32 ≤ 10 * r ∧ 10 * r ≤ 14 * 2 ^ 32)
  let s1 := modFlt (fun f => { f with
    outRun := if inRange then 0 else f.outRun + 1, inRun := if inRange then f.inRun + 1 else 0 }) s
  if capBit s1 7 = false ∧ 10 ≤ s1.flt.outRun then logSimple evESTIMATOR_IMPLAUSIBLE srcModule (setCapBit 7 true s1)
  else if capBit s1 7 ∧ 100 ≤ s1.flt.inRun then setCapBit 7 false s1
  else s1

/-- R312: c ← c + (r − c) / 8, within 0.80 to 1.25. -/
def corrStep (c r : Nat) : Nat := min (5 * 2 ^ 32 / 4) (max (4 * 2 ^ 32 / 5) ((7 * c + r) / 8))

/-- The mean of the first `n` of a list. -/
def meanOf (l : List Nat) (n : Nat) : Nat := lsum (l.take n) / max 1 (min n l.length)

/-- R310, R353: P_IN is the mean of 10 ms, in confidential mode of 100 ms. -/
def showIn (s : State) : State :=
  let n := if coarse s then 100 else 10
  if s.flt.cals % n = 0 then odSet s oP_IN (meanOf s.flt.pinHist10 n / 100000000 % 2 ^ 32) else s

/-- R423, R501: V_IN against 44 to 59.5 V. -/
def vinStep (vin : Nat) (s : State) : State :=
  let ok := decide (4400 ≤ vin ∧ vin ≤ 5950)
  let was := (2, evINPUT_OUT_OF_RANGE) ∈ s.can.conds
  let s1 := if ok ∨ was then s else logEvent evINPUT_OUT_OF_RANGE srcModule vin 0 noCmd s
  let s2 := emcyWhile (!ok) 0x3100 2 evINPUT_OUT_OF_RANGE s1
  odSet { s2 with mod := { s2.mod with vinAt := if ok then some (s2.mod.vinAt.getD s2.now) else none } } oV_IN vin

/-- R310: the input power in nW of the periods since the last calibration, and their mean voltage; `p` and `v` where no
period of the interval was told (log entry 104). -/
def measuredIn (s : State) (p : Nat) : Nat := if s.flt.inN = 0 then p else s.flt.inSum * 10000000 / 65536 / s.flt.inN
def measuredVin (s : State) (v : Nat) : Nat := if s.flt.inN = 0 then v else s.flt.vSum / s.flt.inN

/-- R310, R312: one calibration with the measured 1 ms means of input power and voltage. -/
def calibrate (p v : Nat) (s : State) : State :=
  if s.mod.auxUp = false then s
  else
    let f := s.flt
    let pIn := measuredIn s p
    let (r, n) := energyStep f.enRem (pIn * 1000000)
    let s1 := odAdd (modFlt (fun f => { f with
      pIn := pIn, inSum := 0, vSum := 0, inN := 0, sinceIn := 0, enRem := r, cals := f.cals + 1
      pInHist := (pIn :: f.pInHist).take 1000, pinHist10 := (pIn :: f.pinHist10).take 100 }) s) oENERGY_IN_MJ n
    let s2 := if f.rawSum = 0 then s1
      else
        let q := pIn * 2 ^ 32 * f.rawN / f.rawSum
        plausible q (modFlt (fun f => { f with corr := corrStep f.corr q, rawSum := 0, rawN := 0 }) s1)
    vinStep (measuredVin s v) (showIn (odSet s2 oEST_CORR (s2.flt.corr / 2 ^ 18)))

def execCalibration (pIn : Nat) (vin : Fin 65536) (s : State) : Host.Outcome State Fault Refusal :=
  .next (calibrate pIn vin.val s)

/-! ### Learned sharing (R334) -/

/-- R334: what an operator's entry learns from its power per tile-millisecond. -/
def learnOp (t : Table (Nat × Nat)) (op p : Nat) : Table (Nat × Nat) :=
  match tfind t (op % 1024) with
  | some (tag, d) => if tag = op then tput t (op % 1024) (op, (15 * d + p) / 16) else tput t (op % 1024) (op, p)
  | none => tput t (op % 1024) (op, p)

/-- R334: a tile's demand. -/
def tileDemand (s : State) (x : TileSt) : Nat :=
  let op := match x.run with | some r => r.opId | none => x.lastOp
  match tfind s.flt.learned (op % 1024) with
  | some (tag, d) => if tag = op then d else 6 * watt
  | none => 6 * watt

/-- R334: a die's demand. -/
def dieDemand (s : State) (d : Nat) : Nat :=
  lsum ((s.tiles.filter fun t => dieOf t.1 == d && (t.2.credit || t.2.req.isSome)).map fun t => tileDemand s t.2)

/-- R334: the power per active tile of each operator that ran: its attributed energy over its running time; of one of which
no window told events, that of `ops` (log entry 104). -/
def observed (s : State) (ops : List (Nat × Nat)) : List (Nat × Nat) :=
  (s.flt.opT.filter fun e => e.1 != 0 && e.2 != 0).map fun e =>
    (e.1, match tfind s.flt.opE e.1 with | some n => n / e.2 | none => tget ops e.1 0)

/-- R334: every 1 ms, the table and the split; with no demand the split stays. -/
def shareRecompute (ops : List (Nat × Nat)) (s : State) : State :=
  if mainUp s = false then s
  else
    let s0 := (s.tiles.map (·.1)).foldl (fun s t => countRan t s) s
    let s1 := modFlt (fun f => { f with
      learned := (observed s0 ops).foldl (fun t x => learnOp t x.1 x.2) f.learned, opE := [], opT := [] }) s0
    let a := dieDemand s1 0
    let b := dieDemand s1 1
    if a + b = 0 then s1
    else modFlt (fun f => { f with share0 := min 58982 (max 6554 (65536 * a / (a + b))) }) s1

def execShareRecompute (ops : List (Nat × Nat)) (s : State) : Host.Outcome State Fault Refusal := .next (shareRecompute ops s)

/-! ### Frequency (R315 to R317) -/

/-- R341: the brake takes dynamic dies to 0.6 GHz, point 0. -/
def brakePoints (s : State) : State :=
  showVolt 1 (showVolt 0 (showFreq 1 (showFreq 0 (setPoint 1 0 (setPoint 0 0 s)))))

/-- R315, R341: the written mode takes effect with no graph loaded; in fixed mode the dies go to 1.8 GHz, point 12, in dynamic
mode under the brake to 0.6 GHz. -/
def freqModeSwitch (s : State) : State :=
  if s.graphs ≠ [] ∨ odv s oFREQ_MODE = odv s oFREQ_MODE_ACTIVE then s
  else
    let s1 := odSet s oFREQ_MODE_ACTIVE (odv s oFREQ_MODE)
    if odv s oFREQ_MODE = 1 then
      (if odv s oBRAKE_ACTIVE = 1 then brakePoints (withdraw 1 2 (withdraw 0 2 (modFlt (fun f => { f with settle := [] }) s1))) else s1)
    else homeStep 1 (homeStep 0 (withdraw 1 2 (withdraw 0 2 s1)))

def execFreqModeSwitch (s : State) : Host.Outcome State Fault Refusal := .next (freqModeSwitch s)

/-- R317: the estimated power of a raise; `p` where the state holds no estimate (log entry 104). -/
def raisePower (s : State) (d p : Nat) : Nat := if untold s then p else pointGap s d (fPoint s d + 1)

/-- R317: whether a die may rise one point by a power of `p`, P_fix being `fix` where the state holds no estimate. -/
def mayRise (s : State) (d p fix : Nat) : Bool :=
  odv s oFREQ_MODE_ACTIVE == 1 && odv s oBRAKE_ACTIVE == 0 && dutyInForce s d == 16
    && decide (fPoint s d < odv s oFMAX_POINT) && !stepPending s d true && admits s p
    && decide (fDie s d + p ≤ shareIn s (if untold s then fix else s.flt.pFix) d)

/-- R317: every 100 µs, raises of the dies by the powers that the estimator projects for them. -/
def freqRaise (p0 p1 fix : Nat) (s : State) : State :=
  let up (d p : Nat) (s : State) : State := if mayRise s d p fix then queueStep d 2 true p s else s
  up 1 (raisePower s 1 p1) (up 0 (raisePower s 0 p0) s)

def execFreqRaiseDecision (p0 p1 fix : Nat) (s : State) : Host.Outcome State Fault Refusal := .next (freqRaise p0 p1 fix s)

/-- R317, R377: Trowel reports the new voltage settled on the die's core rail, and the frequency rises. -/
def raiseSettled (d : Nat) (s : State) : State :=
  match tfind s.flt.settle d with
  | some p =>
    if bitAt (odv s (oRAIL_FLAGS + 256 * d)) 1 then
      showFreq d (setPoint d p (modFlt (fun f => { f with settle := tdel f.settle d }) s))
    else s
  | none => s

def execFreqRaiseAfterSettle (die : Fin 2) (s : State) : Host.Outcome State Fault Refusal := .next (raiseSettled die.val s)

/-! ### Tiles on and off (R110, R111, R316) -/

/-- R110, R111, R316: TILE_ENABLE, with the voltage change it may cause, of a power of `power` where the state holds no
estimate (log entry 104). -/
def wTileEnable (t v power : Nat) (s : State) : Nat × State :=
  let x := tileSt s t
  let gap (u : Nat) : Nat := if untold s then power else voltGap s (dieOf t) u
  let s1 := odSet s (enableKey t) v
  if v = 0 ∧ x.graph ≠ 0 then (0x0541, s)
  else if mainUp s = false then (0, s1)
  else if v = 0 ∧ (x.mode = .rest ∨ x.mode = .pupa) ∧ x.waking = false then (0, voltStepBy (dieOf t) gap (tileOff t s1))
  else if v = 1 ∧ x.mode = .off then (0, voltStepBy (dieOf t) gap (setMode t .rest s1))
  else (0, s1)

def execTileEnableWrite (path : Fin 4) (t : TileId) (v power : Nat) (s : State) : Host.Outcome State Fault Refusal :=
  .next (namedWrite path.val (enableKey t.val) v (wTileEnable t.val v power) s)

/-! ### Cap objects (R322, R323) -/

/-- R322, R323: a cap value below 400 W is clamped. -/
def wCap (k v : Nat) (s : State) : Nat × State :=
  if v < 400 then (0x0011, setCapBit 0 true (odSet s k 400)) else (0, odSet s k v)

/-- R322: a write of CAP_TARGET_W ends the Autonomous source. -/
def wCapTarget (v : Nat) (s : State) : Nat × State := wCap oCAP_TARGET_W v (setCapBit 3 false s)

def execCapTargetWrite (path : Fin 4) (v : Nat) (s : State) : Host.Outcome State Fault Refusal :=
  .next (namedWrite path.val oCAP_TARGET_W v (wCapTarget v) s)
def execAutonomousCapWrite (path : Fin 4) (v : Nat) (s : State) : Host.Outcome State Fault Refusal :=
  .next (namedWrite path.val oAUTONOMOUS_CAP_W v (wCap oAUTONOMOUS_CAP_W v) s)
def execSafeCapWrite (path : Fin 4) (v : Nat) (s : State) : Host.Outcome State Fault Refusal :=
  .next (namedWrite path.val oSAFE_CAP_W v (wCap oSAFE_CAP_W v) s)

/-! ### Temperatures and coolant (R346 to R350) -/

/-- R386, R398: a power stage is above its warning temperature. -/
def stageWarn (s : State) : Bool := (List.range 11).any fun n => bitAt (odv s (oRAIL_FLAGS + 256 * n)) 7

/-- R347: e in 0.1 K. -/
def thermalError (s : State) : Int :=
  let e : Int := 10 * (odv s oT_TARGET_C : Int) - sxt 16 (odv s oT_MAX)
  if capBit s 12 || stageWarn s then min e (-50) else e

/-- R347: the thermal loop's update. -/
def thermalUpdate (s : State) : State :=
  if s.mod.auxUp = false ∨ s.mod.owner = none then s
  else
    let e := thermalError s
    let prev := s.flt.ePrev.getD e
    let p : Int := (s.flt.pTh : Int) + 2000000000 * (e - prev) + 200000000 * e
    let q := min (2400 * watt) (max (400 * watt) p.toNat)
    odSet (modFlt (fun f => { f with pTh := q, ePrev := some e }) s) oTHERMAL_LIMIT_W (q / watt)

def execThermalLoopUpdate (s : State) : Host.Outcome State Fault Refusal := .next (thermalUpdate s)

/-- R350: the Safe source becomes active. -/
def safeOn (s : State) : State :=
  if capBit s 4 then s
  else capCond true evSAFE_CAP_ACTIVE (logSimple evSAFE_CAP_ACTIVE srcModule (setCapBit 4 true s))

/-- The first index of the largest of a list of integers. -/
def hottest : List Int → Nat → Int → Nat → Nat × Int
  | [], _, m, at_ => (at_, m)
  | t :: r, i, m, at_ => if m < t then hottest r (i + 1) t i else hottest r (i + 1) m at_

/-- R348: JUNCTION_WARN at 100 °C, off below 98 °C. -/
def junctionWarn (tmax : Int) (src : Nat) (s : State) : State :=
  if capBit s 6 = false ∧ 1000 ≤ tmax then
    emcyRaise 0x4200 3 evJUNCTION_WARN (logEvent evJUNCTION_WARN src (uxt 16 tmax) 0 noCmd (setCapBit 6 true s))
  else if capBit s 6 ∧ tmax < 980 then emcyClear 3 evJUNCTION_WARN (setCapBit 6 false s)
  else s

/-- R350: T_outlet has risen by more than 2.0 °C within 50 ms while P_in is above 400 W. -/
def outletStep (outlet : Int) (s : State) : State :=
  let l := (s.now, outlet) :: s.flt.outlets.filter fun x => decide (s.now ≤ x.1 + 50000000)
  let s1 := modFlt (fun f => { f with outlets := l }) s
  if (l.any fun x => decide (20 < outlet - x.2)) ∧ 400 * watt < s1.flt.pIn then safeOn s1 else s1

/-- R346: the sensors are read, sensor 1 first, in 0.1 °C, and with them the coolant at the inlet and outlet. -/
def sensorRead (ts : List Int) (inlet outlet : Int) (s : State) : State :=
  if s.mod.auxUp = false then s
  else
    let t (i : Nat) : Int := ts.getD i 0
    let all := (List.range 40).map t
    let (i, m) := hottest all 0 (t 0) 0
    let s1 := (List.range 40).foldl (fun s i => odSet s (oT_SENSOR + i) (uxt 16 (t i))) s
    let s2 := odSet (odSet s1 oT_MAX (uxt 16 m)) oHOTTEST_SENSOR (i + 1)
    let s3 := odSet (odSet s2 oT_INLET (uxt 16 inlet)) oT_OUTLET (uxt 16 outlet)
    outletStep outlet (junctionWarn m (0x3000 + i + 1) s3)

def execSensorRead (ts : List Int) (inlet outlet : Int) (s : State) : Host.Outcome State Fault Refusal :=
  .next (sensorRead ts inlet outlet s)

/-- R349: the flow that the rack manager has refreshed within 1 s, else 2.1 L/min, in 0.01 L/min. -/
def flowNow (s : State) : Nat := if s.now < s.flt.flowAt + 1000000000 then odv s oFLOW_LPM else 210

/-- R349: COOLANT_CAP_W and COOLANT_DERATE. -/
def coolantUpdate (s : State) : State :=
  if s.mod.auxUp = false ∨ s.mod.owner = none then s
  else
    let t := sxt 16 (odv s oT_INLET)
    let num : Int := 2200 * (flowNow s : Int) * (600 - t)
    let cap := min 2200 (max 400 (num / (210 * 150)).toNat)
    let derate := decide (450 < t ∨ num < 2200 * 210 * 150)
    let s1 := if derate && !capBit s 8 then logEvent evCOOLANT_DERATE srcModule cap 0 noCmd s else s
    odSet (setCapBit 8 derate s1) oCOOLANT_CAP_W cap

def execCoolantCapUpdate (s : State) : Host.Outcome State Fault Refusal := .next (coolantUpdate s)

/-- R350: FLOW_LOSS. -/
def wFlowLoss (v : Nat) (s : State) : Nat × State :=
  let s1 := odSet s oFLOW_LOSS v
  (0, if v = 1 then safeOn s1 else s1)
def execFlowLossWrite (path : Fin 4) (v : Nat) (s : State) : Host.Outcome State Fault Refusal :=
  .next (namedWrite path.val oFLOW_LOSS v (wFlowLoss v) s)

/-- R349, R350: FLOW_LPM. -/
def wFlowLpm (v : Nat) (s : State) : Nat × State :=
  let s1 := modFlt (fun f => { f with flowAt := s.now }) (odSet s oFLOW_LPM v)
  (0, if v < 50 then safeOn s1 else s1)
def execFlowLpmWrite (path : Fin 4) (v : Nat) (s : State) : Host.Outcome State Fault Refusal :=
  .next (namedWrite path.val oFLOW_LPM v (wFlowLpm v) s)

/-- R350: SAFE_CAP_CLEAR, ignored unless FLOW_LOSS reads 0. -/
def wSafeClear (v : Nat) (s : State) : Nat × State :=
  if v = 1 ∧ odv s oFLOW_LOSS = 0 then (0, capCond false evSAFE_CAP_ACTIVE (setCapBit 4 false s)) else (0, s)
def execSafeCapClear (path : Fin 4) (v : Nat) (s : State) : Host.Outcome State Fault Refusal :=
  .next (namedWrite path.val oSAFE_CAP_CLEAR v (wSafeClear v) s)

/-! ### Brake (R341) -/

/-- R318, R327, R341: the brake acts: BRAKE, no grants, duty 1/16 on both dies, in dynamic mode 0.6 GHz, and the limit's
source is 5. -/
def brakeAssert (s : State) : State :=
  let s0 := { s with mod := { s.mod with pins := { s.mod.pins with brakeN := false } } }
  if s.mod.auxUp = false ∨ odv s oBRAKE_ACTIVE = 1 then s0
  else
    let s1 := odAdd32 (odSet (setCapBit 5 true s0) oBRAKE_ACTIVE 1) oBRAKE_COUNT 1
    let s2 := modFlt (fun f => { f with
      duty0 := 1, duty1 := 1, settle := [], steps := f.steps.filter fun x => x.kind != 0 && x.kind != 2 }) s1
    let s3 := if odv s oFREQ_MODE_ACTIVE = 1 then
        brakePoints s2
      else s2
    capCond true evBRAKE (logSimple evBRAKE srcModule (limitStep (showDuty s3)))

def execBrakeAssert (s : State) : Host.Outcome State Fault Refusal := .next (brakeAssert s)

/-- R341, R343: the brake clears: P_ref = P_est, and recovery begins. -/
def brakeRelease (s : State) : State :=
  let s0 := { s with mod := { s.mod with pins := { s.mod.pins with brakeN := true } } }
  if odv s oBRAKE_ACTIVE = 0 then s0
  else
    let s1 := odSet (setCapBit 5 false s0) oBRAKE_ACTIVE 0
    capCond false evBRAKE (limitStep (showDuty (modFlt (fun f => { f with
      pRef := some f.pEst, expectTo := max f.expectTo (s.now + 10000000) }) s1)))

def execBrakeRelease (s : State) : Host.Outcome State Fault Refusal := .next (brakeRelease s)

/-! ### Droops (R342, R343) -/

/-- R343: the module expects droops now. -/
def droopExpected (s : State) : Bool := decide (s.flt.cals < 10) || s.flt.test.isSome || decide (s.now < s.flt.expectTo)

/-- R342, R343: a detector of die `d` reads below its threshold. -/
def droop (d : Nat) (s : State) : State :=
  if mainUp s = false ∨ d ∈ s.flt.stretch then s
  else
    let s1 := odAdd (modFlt (fun f => { f with stretch := d :: f.stretch }) s) (oDROOP_EVENTS + d) 1
    if droopExpected s1 then s1
    else
      let s2 := setCapBit 10 true s1
      match tfind s2.flt.droopLog d with
      | some t => if s.now < t + 1000000000 then s2
        else logEvent evDROOP_IN_SERVICE srcModule d 0 noCmd (modFlt (fun f => { f with droopLog := tput f.droopLog d s.now }) s2)
      | none => logEvent evDROOP_IN_SERVICE srcModule d 0 noCmd (modFlt (fun f => { f with droopLog := tput f.droopLog d s.now }) s2)

def execDroopDetected (die : Fin 2) (s : State) : Host.Outcome State Fault Refusal := .next (droop die.val s)

/-- R342, R343: the stretch ends after `cycles` stretched cycles. -/
def stretchEnd (d cycles : Nat) (s : State) : State :=
  if d ∈ s.flt.stretch then
    odAdd (modFlt (fun f => { f with stretch := f.stretch.filter (· ≠ d) }) s) (oSTRETCH_CYCLES + d) cycles
  else s

def execStretchEnd (die : Fin 2) (cycles : Nat) (s : State) : Host.Outcome State Fault Refusal :=
  .next (stretchEnd die.val cycles s)

/-! ### The step test (R345) -/

/-- R345: STEP_TEST: n in bits [7:0], the die in bit 8. -/
def wStepTest (v : Nat) (s : State) : Nat × State :=
  let n := v % 256
  let d := bitsOf v 8 8
  if n = 0 then (0x0102, s)
  else if 144 < n ∨ 512 ≤ v then (0x0103, s)
  else if s.graphs.any fun g => g.2.tiles.any fun t => dieOf t.1 == d then (0x05A0, s)
  else if s.flt.test.isSome then (0, s)
  else (0, modFlt (fun f => { f with test := some ⟨d, n, [], false⟩ }) s)
def execStepTest (path : Fin 4) (v : Nat) (s : State) : Host.Outcome State Fault Refusal :=
  .next (namedWrite path.val oSTEP_TEST v (wStepTest v) s)

/-- R345: after 1 ms at level 15 the credits are taken back. -/
def stepTestEnd (s : State) : State :=
  modFlt (fun f => { f with test := match f.test with
    | some e => if e.ts = [] then none else some { e with left := 0, back := true }
    | none => none }) s

def execStepTestHoldEnd (s : State) : Host.Outcome State Fault Refusal := .next (stepTestEnd s)

end Sys2Proof.Machine
end

