-- ==== Sys2Proof/Machine/Stop.lean ====
section
/-! DEFINITION. Losing the main domain: the rails as they stop, fault stops, input stops and the hardware thermal trip
(R178, R351, R352, R382, R385 to R387, R500). -/
namespace Sys2Proof.Machine

/-! ### The rails -/

/-- R358, R397: an object of rail `n`. -/
def railKey (base n : Nat) : Nat := base + 256 * n
def railV (s : State) (base n : Nat) : Nat := odv s (railKey base n)
def railPut (base n v : Nat) (s : State) : State := odSet s (railKey base n) v
def railState (s : State) (n : Nat) : Nat := railV s oRAIL_STATE n

/-- R398: a bit of RAIL_FLAGS. -/
def railFlag (n b : Nat) (v : Bool) (s : State) : State := odBit s (railKey oRAIL_FLAGS n) b v

/-- R382: the start group of a rail, from 0. -/
def railGroup (n : Nat) : Nat :=
  match n with | 10 => 0 | 6 => 0 | 8 => 1 | 4 => 1 | 9 => 2 | 5 => 2 | 7 => 3 | 0 => 4 | 1 => 4 | _ => 5

/-- R382: the rails of a group. -/
def groupRails (g : Nat) : List Nat := (List.range 11).filter fun n => railGroup n == g

/-- R358, R399: the phases of a rail, and PHASE_STATE of a phase. -/
def phasesOf (n : Nat) : List Nat := keyRun (railFirst n) (railPhases n)
def phaseSt (s : State) (p : Nat) : Nat := odv s (oPHASE_STATE + p)
def setPhase (p v : Nat) (s : State) : State := odSet s (oPHASE_STATE + p) v

/-- The phases of a rail that drive: active or shedding. -/
def activePhases (s : State) (n : Nat) : List Nat := (phasesOf n).filter fun p => phaseSt s p == 2 || phaseSt s p == 3

/-- R397: PHASES_ACTIVE follows the phases. -/
def showPhases (n : Nat) (s : State) : State := railPut oPHASES_ACTIVE n (activePhases s n).length s

/-- Every phase of a rail that is not retired goes to a state. -/
def phasesTo (n v : Nat) (s : State) : State :=
  showPhases n ((phasesOf n).foldl (fun s p => if phaseSt s p = 4 ∨ phaseSt s p = 0 then s else setPhase p v s) s)

def modTrw (f : TrwSt → TrwSt) (s : State) : State := { s with trw := f s.trw }
def railSt (s : State) (n : Nat) : RailSt := tget s.trw.rails n RailSt.initial
def modRail (n : Nat) (f : RailSt → RailSt) (s : State) : State :=
  modTrw (fun t => { t with rails := tput t.rails n (f (railSt s n)) }) s

/-- R388, R398: what a start or stop of a rail leaves: the running 1 ms and the flags that show for 1 ms. -/
def RailSt.afresh (r : RailSt) : RailSt :=
  { RailSt.initial with
    tgt := r.tgt, fresh := r.fresh, vSum := r.vSum, iSum := r.iSum, cnt := r.cnt, phSum := r.phSum, ocTo := r.ocTo
    iinTo := r.iinTo, peakTo := r.peakTo, ssUs := r.ssUs }

/-- R385: a rail stops driving and takes a state: its phases off, POWER_GOOD and SETTLED clear. -/
def railStop (n st : Nat) (s : State) : State :=
  railFlag n 2 false (railFlag n 1 false (modRail n RailSt.afresh (phasesTo n 1 (railPut oRAIL_STATE n st s))))

/-- R385: a soft stop begins: the setpoint ramps to 0. -/
def softStop (n : Nat) (s : State) : State :=
  railFlag n 2 false (railFlag n 1 false (railPut oRAIL_STATE n 5 (modRail n (fun r =>
    { r with ramp0 := r.set_, ramp := 0, add := 0, shed := none, abort := false }) s)))

/-- R382, R387: the next group stops, in reverse order, once no rail is in SOFT_STOP; a rail that waits for a retry goes off
at once. -/
def softStopGroup (s : State) : State :=
  if s.trw.stopping = false ∨ ((List.range 11).any fun n => railState s n == 5) then s
  else
    let up := (List.range 11).filter fun n => railState s n == 1 || railState s n == 2 || railState s n == 3
    match up with
    | [] => modTrw (fun t => { t with stopping := false }) s
    | _ :: _ =>
      let g := lmax (up.map railGroup)
      up.foldl (fun s n =>
        if railGroup n ≠ g then s else if railState s n = 3 then railStop n 0 s else softStop n s) s

/-- R382, R387: as `softStopGroup`; a group of which every rail goes off at once is followed by the next. -/
def softStopNext (s : State) : State := (List.range 7).foldl (fun s _ => softStopGroup s) s

/-- R387: the rails stop in reverse group order. -/
def stopRails (s : State) : State := softStopNext (modTrw (fun t => { t with stopping := true }) s)

/-- R351, R387: every rail goes off; a latched rail stays latched. -/
def railsOff (s : State) : State :=
  (List.range 11).foldl (fun s n => if railState s n = 4 ∨ railState s n = 0 then s else railStop n 0 s)
    (modTrw (fun t => { t with stopping := false, swap := t.swap }) s)

/-! ### The main domain -/

/-- R457, R463: a Primer in progress ends without passing. -/
def primerAbort (s : State) : State :=
  if odv s oPRIMER_STATE = 0 then s
  else
    let s1 := modFlt (fun f => { f with hold := none }) { s with sec := { s.sec with check := none, keyed := [] } }
    let s2 := if 2 ≤ odv s oSEC_MODE then odSet s1 oSEC_MODE s.sec.prev else s1
    setCapBit 9 (confidential s2) (setCapBit 11 false (odSet s2 oPRIMER_STATE 0))

/-- R178: nothing is left of what the main domain held; the measured weights went with it. Without the fabric's PLL the
time base is COARSE (R468). -/
def mainLost (s0 : State) : State :=
  let s := primerAbort s0
  let s1 := (List.range 16).foldl (fun s p => toDisabled p s)
    { s with fab := { s.fab with sw := [], ej := [], feedLow := [] } }
  let s2 := modFlt (fun f => { f with steps := [], settle := [], stretch := [], test := none, pRef := none, unheld := [] })
    { s1 with
      tiles := [], mesh := ⟨[], []⟩, graphs := [], cmds := []
      rem := ⟨[], [], [], [], [], [], [], [], [], [], [], s1.rem.pseq⟩
      obs := { ObsSt.initial with }
      tim := { s1.tim with collect := false, cands := [], step := none, resid := [] }
      meas := { s1.meas with gen := (s1.meas.gen + 1) % 2 ^ 32, progAt := [], w := [], recs := [], measuring := [] }
      ecc := { s1.ecc with channels := [], trained := [], scrubPos := [] } }
  let l := [(oBRK_STATE, 0), (oTRACE_STATE, 0), (oREGION_STATE, 0), (oREGION_STATE + 1, 0), (oWEIGHT_RANGES, 0),
    (oWEIGHT_RANGES + 1, 0)]
  odBit (loseMemory (l.foldl (fun s x => odSet s x.1 x.2) s2)) oTIME_FLAGS 0 true

/-- R500: the main domain goes down: the host interface resets and its link falls, no completion is written, and
everything the domain held is lost. -/
def mainDown (s : State) : State := mainLost (linkDown (hostReset s))

/-- R500: MODULE_STATE changes; LASER_EN follows it (R201). -/
def setModState (v : Nat) (s : State) : State := laserUpdate (odSet s oMODULE_STATE v)

/-- R500: FAULT_N is low. -/
def faultLow (s : State) : Bool := modState s == 5 || modState s == 6 || s.mod.pins.faultHeld

/-! ### Front LEDs (R539) -/

/-- R539: a colour of a front LED, dark for off. -/
inductive LedColour where
  | dark | red | green | blue | amber | white
  deriving DecidableEq, Repr

/-- R539: a pattern: a colour, steady (0) or flashing, in half flashes a second. -/
structure LedPattern where
  colour : LedColour
  half   : Nat
  deriving DecidableEq, Repr

/-- R539: READY with something that wants attention: JUNCTION_WARN, SAFE_CAP, CAP_UNREACHABLE or a port. -/
def attention (s : State) : Bool :=
  let c := odv s oCAP_STATUS
  bitAt c 6 || bitAt c 4 || bitAt c 1 || odLive s 0 oPORTS_ATTENTION != 0

/-- R512, R539: no core has owned the module for so long that the interlock acts. -/
def ownerless (s : State) : Bool := s.mod.owner.isNone && s.mod.pins.faultHeld

/-- R539: what the STATUS LED shows. -/
def statusLed (s : State) : LedPattern :=
  let m := modState s
  if s.mod.auxUp = false then ⟨.dark, 0⟩
  else if m = 6 then ⟨.red, 0⟩
  else if m = 5 ∨ ownerless s then ⟨.red, 4⟩
  else if m = 3 then ⟨.white, 2⟩
  else if odv s oLOCATE_ALL = 1 then ⟨.blue, 4⟩
  else if m = 1 then ⟨.green, 4⟩
  else if m = 4 then ⟨.green, 1⟩
  else if m = 2 then (if attention s then ⟨.amber, 2⟩ else ⟨.green, 0⟩)
  else ⟨.amber, 0⟩

/-- R539: what the POWER LED shows. -/
def powerLed (s : State) : LedPattern := if s.mod.auxUp then ⟨.green, 0⟩ else ⟨.dark, 0⟩

/-- R500, R503: a failed start: its step, its code and its record. -/
def startFailed (step code src : Nat) (s : State) : State :=
  odSet (logEvent evSTART_FAILED src step code noCmd s) oSTART_FAIL_CODE code

/-- R503: the start ends in FAULT: the rails that have started stop. -/
def startFail (code src : Nat) (s : State) : State :=
  let step := odv s oSTART_STEP
  closeOpen (setModState 5 (mainDown (stopRails (odSet (startFailed step code src s) oSTART_STEP 0))))

/-- R387: a fault stop: the faulty rails stop at once, the others softly, and the module goes to FAULT. -/
def faultStop (bad : List Nat) (src : Nat) (s : State) : State :=
  let s1 := stopRails (bad.foldl (fun s n => railStop n 0 s) s)
  let s2 := logSimple evRAIL_FAULT src s1
  let s3 := if modState s = 1 then odSet (startFailed (odv s oSTART_STEP) evRAIL_FAULT src s2) oSTART_STEP 0 else s2
  emcyEvent 0x3200 2 evRAIL_FAULT (closeOpen (setModState 5 (mainDown s3)))

/-- R386, R500: a rail fault of rail `n`. Where the module stops already, the stop goes on and ends in FAULT. -/
def railFault (n : Nat) (s : State) : State :=
  if mainUp s then faultStop [n] (0x1000 + n) s
  else softStopNext (railStop n 0 s)

/-- R386, R387: an input stop. -/
def inputStop (s : State) : State :=
  if mainUp s then
    let s1 := odSet (logSimple evINPUT_STOP srcModule s) oSTART_STEP 0
    let s2 := odAdd32 { s1 with mod := { s1.mod with nextCause := 2, inStop := true } } oINPUT_STOPS 1
    emcyEvent 0x3100 2 evINPUT_STOP (closeOpen (setModState 0 (mainDown (railsOff s2))))
  else railsOff s

/-- R386, R501: the input leaves its range. -/
def inputOut (s : State) : State := inputStop { s with mod := { s.mod with vinAt := none } }

def execInputUndervoltage (s : State) : Host.Outcome State Fault Refusal := .next (inputOut s)
def execInputOvervoltage (s : State) : Host.Outcome State Fault Refusal := .next (inputOut s)

/-! ### The hardware trip (R351, R352) -/

/-- R351, R385: every rail is off, latched or not. -/
def tripRails (s : State) : State :=
  (List.range 11).foldl (fun s n => railFlag n 10 false (railStop n 0 s))
    (modTrw (fun t => { t with stopping := false }) s)

/-- R351: the comparator of sensor `n` trips first. -/
def thermalTrip (n : Nat) (s : State) : State :=
  if s.mod.auxUp = false ∨ s.mod.tripLatch then s
  else
    let s0 := odSet s oTHERM_TRIP_SENSOR n
    let s1 := logSimple evTHERMAL_TRIP (0x3000 + n) s0
    let s2 := tripRails { s1 with mod := { s1.mod with tripLatch := true, pins := { s1.mod.pins with tripN := false } } }
    emcyRaise 0x4200 3 evTHERMAL_TRIP (closeOpen (setModState 6 (mainDown (odSet s2 oSTART_STEP 0))))

/-- R351: of the comparators that trip within one cycle of the always-on clock the lowest-numbered is recorded. -/
def thermalTrips (ns : List Nat) (s : State) : State := if ns = [] then s else thermalTrip (lminD 40 ns) s

def execThermalTrip (sensors : List (Fin 40)) (s : State) : Host.Outcome State Fault Refusal :=
  .next (thermalTrips (sensors.map (·.val + 1)) s)

/-- R352, R519: CODE of the record of a comparator that fails in READY: the manual names none, so it is left open (log
entry 16). -/
def evTripTestFailed : Nat := Config.freeWord 0 2 % 2 ^ 16

/-- R352: the comparator test in READY, with the sensors whose comparators fail, in the order of the test. Recovery follows
it (R343). -/
def wTripTest (v : Nat) (failed : List Nat) (s : State) : Nat × State :=
  if isReady s = false then (0x0590, s)
  else if v = 0 then (0, s)
  else
    let s1 := modFlt (fun f => { f with expectTo := max f.expectTo (s.now + 10000000) }) s
    (0, failed.foldl (fun s n => logSimple evTripTestFailed (0x3000 + n) (odSet s oTRIP_TEST_FAILED n))
      (odSet s1 oTRIP_TEST_FAILED 0))

def execTripTest (path : Fin 4) (v : Nat) (failed : List (Fin 40)) (s : State) : Host.Outcome State Fault Refusal :=
  .next (namedWrite path.val oTRIP_TEST v (wTripTest v (failed.map (·.val + 1))) s)

end Sys2Proof.Machine
end

