-- ==== Sys2Proof/Machine/Gain.lean ====
section
/-! DEFINITION. Gain banks and the slew they support, setpoint and slew-limit writes, and Trowel's fixed-point arithmetic
(R33 to R36, R363, R366 to R373, R377). -/
namespace Sys2Proof.Machine

/-! ### Fixed point (R363) -/

/-- R363: rounding of `num / den` to nearest, ties to even. -/
def roundEven (num : Int) (den : Nat) : Int :=
  let q := num / (den : Int)
  let r := num % (den : Int)
  if 2 * r < (den : Int) then q
  else if (den : Int) < 2 * r then q + 1
  else if q % 2 = 0 then q else q + 1

/-- R363: saturation to 32 bits. -/
def sat32 (x : Int) : Int := max (-(2 ^ 31)) (min (2 ^ 31 - 1) x)

/-- R363: a sum of products with coefficients of LSB 2^-24, rounded once and saturated. -/
def fix24 (num : Int) : Int := sat32 (roundEven num (2 ^ 24))

/-- R364: the clamp to `[lo, hi]`. -/
def clampI (lo hi x : Int) : Int := max lo (min hi x)

/-! ### Banks (R368 to R371) -/

/-- R369: the size of a bank image. -/
def gainSize : Nat := 67616

/-- R369: the offset of a gain set in its image. -/
def gainOff (n r : Nat) : Nat := 32 + 192 * (32 * n + r)

/-- R372: a word of the shipped image: the crossover of the core rails' sets is given, the rest is factory content. -/
def shippedWord (n r off : Nat) : Nat :=
  if off = 0x70 ∧ n < 2 then (if r / 8 < 2 then 800 else 1000) else Config.gainWord n r off

/-- R368: an unsigned field of a gain set. -/
def gainN (s : State) (b n r off len : Nat) : Nat :=
  match tfind s.trw.banks b with
  | some img => fld img (gainOff n r + off) len
  | none => shippedWord n r off

/-- R363, R368: a coefficient or limit of a gain set. -/
def gainI (s : State) (b n r off : Nat) : Int := sxt 32 (gainN s b n r off 4)

/-- R372: the bank is active, or the bank of an accepted swap. -/
def bankLive (s : State) (b : Nat) : Bool := b == odv s oGAIN_BANK_ACTIVE || s.trw.swap

/-- R400: a bank is valid. -/
def bankValid (s : State) (b : Nat) : Bool := bitAt (odv s oGAIN_BANK_VALID) b
def setBankValid (b : Nat) (v : Bool) (s : State) : State := odBit s oGAIN_BANK_VALID b v

/-- R400: what the inactive bank supports. -/
def setInactive (a b : Nat) (s : State) : State :=
  odSet (odSet s oSLEW_SUPPORTED_INACTIVE a) (oSLEW_SUPPORTED_INACTIVE + 1) b

/-- R370: an image write; R369's header is judged at commit, but for its bank. -/
def wGainImage (bs : List Byte) (s : State) : Nat × State :=
  if bs.length = 0 then (0x0102, s)
  else if gainSize < bs.length then (0x0103, s)
  else if bs.length ≠ gainSize ∨ 1 < byteAt bs 6 then (0x01B0, s)
  else if bankLive s (byteAt bs 6) then (0x05B1, s)
  else
    let b := byteAt bs 6
    let s1 := modTrw (fun t => { t with banks := tput t.banks b bs }) (setBankValid b false s)
    (0, setInactive 0 0 (odSet s1 (oGAIN_BANK_CRC + b) (crc32c (bs.drop 32))))

def execGainBankImage (path : Fin 4) (bs : List Byte) (s : State) : Host.Outcome State Fault Refusal :=
  .next (namedBytes path.val oGAIN_BANK_IMAGE bs (wGainImage bs) s)

/-- R369, R371: the header of a stored image is right. -/
def gainHeaderOk (b : Nat) (img : List Byte) : Bool :=
  fld img 0 4 == 0x54574B47 && fld img 4 2 == 1 && byteAt img 6 == b && byteAt img 7 == 0 && fld img 8 2 == 352
    && fld img 10 2 == 0 && zeroIn img 16 16 && fld img 12 4 == crc32c (img.drop 32)

/-- R368: a gain set is legal. -/
def gainSetOk (img : List Byte) (n r : Nat) : Bool :=
  let w (off : Nat) : Int := sxt 32 (fld img (gainOff n r + off) 4)
  let fc := fld img (gainOff n r + 0x70) 2
  decide (w 0x58 < w 0x5C ∧ 0 ≤ w 0x60 ∧ w 0x60 < w 0x64 ∧ w 0x64 ≤ 7549747 ∧ 0 < w 0x68 ∧ 0 < w 0x6C ∧ 1 ≤ fc ∧ fc ≤ 1000)
    && zeroIn img (gainOff n r + 0x72) 78

/-- R371: the first set, in set order, that is not legal, as rail × 32 + region. -/
def gainBadSet (img : List Byte) : Option Nat := (List.range 352).find? fun i => !gainSetOk img (i / 32) (i % 32)

/-- R373: the supported slew of a crossover F_C (0.1 kHz) on a core rail, in 0.1 A/µs: 0.025 V × 6.0 mF × (2π F_C)²,
rounded down, at most 400. -/
def slewOf (fc : Nat) : Nat := min 400 (fc * fc * 59217626406536 / 10 ^ 17)

/-- R373: the supported slew of a bank on a core rail: the lowest over its 32 sets. -/
def bankSlew (s : State) (b n : Nat) : Nat := lminD 400 ((List.range 32).map fun r => slewOf (gainN s b n r 0x70 2))

/-- R371: the outcome of a commit. -/
def gainResult (code detail : Nat) (s : State) : State :=
  odSet (odSet s oGAIN_COMMIT_STATUS code) oGAIN_COMMIT_DETAIL detail

/-- R371: a bank is validated; the shipped image is valid. -/
def wGainCommit (b : Nat) (s : State) : Nat × State :=
  if 1 < b then (0x0103, s)
  else if bankLive s b then (0x05B1, s)
  else
    let done := setInactive (bankSlew s b 0) (bankSlew s b 1) (setBankValid b true (gainResult 0 0 s))
    match tfind s.trw.banks b with
    | none => (0, done)
    | some img =>
      if gainHeaderOk b img = false then (0x01B0, gainResult 0x01B0 0xFFFF s)
      else match gainBadSet img with
        | some i => (0x01B1, gainResult 0x01B1 (i / 32 * 256 + i % 32) s)
        | none => (0, done)

def execGainBankCommit (path : Fin 4) (v : Nat) (s : State) : Host.Outcome State Fault Refusal :=
  .next (namedWrite path.val oGAIN_BANK_COMMIT v (wGainCommit v) s)

/-- R34, R372: the slew that a limit must not exceed on a core rail. -/
def slewCap (s : State) (d : Nat) : Nat :=
  let a := odv s (oSLEW_SUPPORTED_CORE0 + d)
  if s.trw.swap then min a (odv s (oSLEW_SUPPORTED_INACTIVE + d)) else a

/-- R35, R372: a swap to the inactive bank. -/
def wGainSwap (v : Nat) (s : State) : Nat × State :=
  let conflict (d : Nat) : Bool := decide (odv s (oSLEW_SUPPORTED_INACTIVE + d) < odv s (oSLEW_LIMIT_CORE0 + d))
  if v = 0 ∨ s.trw.swap then (0, s)
  else if bankValid s (1 - odv s oGAIN_BANK_ACTIVE) = false then (0x05B2, s)
  else if conflict 0 || conflict 1 then (0x0510, s)
  else (0, modTrw (fun t => { t with swap := true }) s)

def execGainBankSwap (path : Fin 4) (v : Nat) (s : State) : Host.Outcome State Fault Refusal :=
  .next (namedWrite path.val oGAIN_BANK_SWAP v (wGainSwap v) s)

/-- R34: a slew limit. -/
def wSlewLimit (d v : Nat) (s : State) : Nat × State :=
  if slewCap s d < v then (0x0120, s) else (0, odSet s (oSLEW_LIMIT_CORE0 + d) v)

def execSlewLimitWrite (path : Fin 4) (die : Fin 2) (v : Nat) (s : State) : Host.Outcome State Fault Refusal :=
  .next (namedWrite path.val (oSLEW_LIMIT_CORE0 + die.val) v (wSlewLimit die.val v) s)

/-- R372: an accepted swap takes effect. -/
def swapBanks (s : State) : State :=
  let a := 1 - odv s oGAIN_BANK_ACTIVE
  let old (d : Nat) : Nat := odv s (oSLEW_SUPPORTED_CORE0 + d)
  let new (d : Nat) : Nat := odv s (oSLEW_SUPPORTED_INACTIVE + d)
  let s1 := setInactive (old 0) (old 1) (odSet (modTrw (fun t => { t with swap := false }) s) oGAIN_BANK_ACTIVE a)
  logEvent evGAIN_BANK_SWAPPED srcModule a 0 noCmd
    (odSet (odSet s1 oSLEW_SUPPORTED_CORE0 (new 0)) oSLEW_SUPPORTED_CORE1 (new 1))

/-! ### Setpoints and peaks (R377, R388) -/

/-- R377: the target of a rail, in 0.1 mV: Float's for a core rail. -/
def targetOf (s : State) (n : Nat) : Nat := if n < 2 then odv s (oDIE_VCORE + n) else railV s oVSET n

/-- R377: VSET of a rail; zero lies below every margin range. A new target clears SETTLED. -/
def wVset (n v : Nat) (s : State) : Nat × State :=
  if n < 2 then (0x05B0, s)
  else if 103 * railNominal n < 100 * v then (0x0103, s)
  else if 100 * v < 97 * railNominal n then (0x01B2, s)
  else if v = railV s oVSET n then (0, s)
  else (0, railFlag n 1 false (modRail n (fun r => { r with settle := 0 }) (railPut oVSET n v s)))

def execVsetWrite (path : Fin 4) (rail : Fin 11) (v : Nat) (s : State) : Host.Outcome State Fault Refusal :=
  .next (namedWrite path.val (railKey oVSET rail.val) v (wVset rail.val v) s)

/-- R388: the peak holds of a rail restart. -/
def wPeakClear (n v : Nat) (s : State) : Nat × State :=
  if v = 0 then (0, s)
  else
    let l := [oI_PEAK, oV_MIN, oV_MAX]
    (0, modRail n (fun r => { r with fresh := true }) (l.foldl (fun s k => railPut k n 0 s) s))

def execPeakClear (path : Fin 4) (rail : Fin 11) (v : Nat) (s : State) : Host.Outcome State Fault Refusal :=
  .next (namedWrite path.val (railKey oPEAK_CLEAR rail.val) v (wPeakClear rail.val v) s)

end Sys2Proof.Machine
end

