-- ==== Sys2Proof/Machine/Profile.lean ====
section
/-! DEFINITION. Stored profiles: their fields, selection at run time and at a cold start, saving and restoring
(R428 to R431). -/
namespace Sys2Proof.Machine

/-- R428: the fields that wait for the next cold start. -/
def profReset : List Nat := [oRM_NODE_ID, oNMT_AUTOSTART]

/-- R428: the fields that a selection at run time applies. -/
def profNow : List Nat :=
  [oPRODUCER_HB_MS, oFREQ_MODE, oFMAX_POINT, oCAP_DOWN_SLEW_WPS, oAUTONOMOUS_CAP_W, oSAFE_CAP_W, oSLEW_LIMIT_CORE0,
   oSLEW_LIMIT_CORE1, oINPUT_RAMP_WPS, oRAMP_BAND_W, oIIN_LIMIT, oCAP_PROPAGATE, oSHARE_MODE, oSHARE_DIE0_PCT,
   oFILLER_FLOOR_PCT, oFILLER_HOLD_W, oT_TARGET_C, oPCIE_SPEED_LIMIT, oPUPA_DWELL_US, oPUPA_DWELL_US + 1]

/-- R431: the shipped value of a field. -/
def shipped (n k : Nat) : Nat :=
  if n = 1 ∧ (k = oFREQ_MODE ∨ k = oSHARE_MODE) then 1
  else if n = 2 ∧ k = oINPUT_RAMP_WPS then 5000
  else if n = 2 ∧ k = oRAMP_BAND_W then 50
  else if n = 3 ∧ k = oT_TARGET_C then 95
  else if n = 3 ∧ k = oCAP_PROPAGATE then 1
  else if n = 3 ∧ k = oFILLER_FLOOR_PCT then 70
  else odDefault k

/-- R430: the value that profile `n` holds for a field. -/
def profVal (s : State) (n k : Nat) : Nat := tget (tget s.can.profiles n []) k (shipped n k)

/-- R429: how a field's rules judge a value, R34 included. -/
def profCode (s : State) (k v : Nat) : Nat :=
  let c := match odRow k with | some r => valueCode r v | none => 0x01C1
  if c ≠ 0 then c
  else if k = oSLEW_LIMIT_CORE0 ∧ slewCap s 0 < v then 0x0120
  else if k = oSLEW_LIMIT_CORE1 ∧ slewCap s 1 < v then 0x0120
  else 0

/-- R429: PROFILE_RESET_PENDING. -/
def showPending (s : State) : State :=
  let n := odv s oPROFILE_ACTIVE
  odSet s oPROFILE_RESET_PENDING (b2n (profReset.any fun k => odv s k != profVal s n k))

/-- R429: every field of a list takes the profile's value. -/
def putFields (n : Nat) (ks : List Nat) (s : State) : State := ks.foldl (fun a k => odSet a k (profVal s n k)) s

/-- R429: a selection at run time. -/
def wProfile (n : Nat) (s : State) : Nat × State :=
  match profNow.find? fun k => profCode s k (profVal s n k) != 0 with
  | some k => (profCode s k (profVal s n k), s)
  | none => (0, showPending (odSet (putFields n profNow s) oPROFILE_ACTIVE n))

/-- R429: the profile of a cold start: a field that fails takes its default, with a record that names it. -/
def coldProfile (n : Nat) (s : State) : State :=
  let s1 := odSet (odSet s oPROFILE_ACTIVE n) oPROFILE_RESET_PENDING 0
  (profReset ++ profNow).foldl (fun a k =>
    if profCode a k (profVal a n k) = 0 then odSet a k (profVal a n k)
    else logEvent evPROFILE_FIELD_DEFAULTED 0xFFFF 0 k noCmd (odSet a k (odDefault k))) s1

/-- R430: both copies of a profile lost: the shipped values, with a record. -/
def profLost (n : Nat) (s : State) : State :=
  logEvent evPROFILE_COPY_LOST 0xFFFF 0 n noCmd
    { s with can := { s.can with profiles := tdel s.can.profiles n } }

/-- R430: a save or a restore begins; it completes with the flash write. -/
def wProfSave (path n : Nat) (s : State) : Nat × State :=
  if s.can.profBusy.isSome then (0x0570, s)
  else (0, { s with can := { s.can with
    profBusy := some (path, n, (profReset ++ profNow).foldl (fun t k => tput t k (odv s k)) []) } })
def wProfFactory (path n : Nat) (s : State) : Nat × State :=
  if s.can.profBusy.isSome then (0x0570, s)
  else (0, { s with can := { s.can with profBusy := some (path, n, []) } })

/-- R430: a write that completes only when the flash write is done. -/
def waitsFlash (k code : Nat) : Bool := code == 0 && (k == oPROFILE_SAVE || k == oPROFILE_FACTORY)

/-- R405, R430: a named write whose status follows the flash write. -/
def flashWrite (path k v : Nat) (eff : State → Nat × State) (s : State) : State :=
  if s.mod.owner = none then s
  else
    let (c, s1) := odTry path k 1 v eff s
    if waitsFlash k c then { s1 with resp := 0 } else tell path c s1

/-- R430: the flash write is done: the profile is stored, the write's path is told. -/
def flashDone (s : State) : State :=
  match s.can.profBusy with
  | none => s
  | some (path, n, vals) =>
    let ps := if vals = [] then tdel s.can.profiles n else tput s.can.profiles n vals
    tell path 0 (showPending { s with can := { s.can with profiles := ps, profBusy := none } })

/-- R413: INITIALISATION is done: the boot-up message on both buses, and the node is PRE-OPERATIONAL, or OPERATIONAL with
NMT_AUTOSTART. -/
def nmtBoot (auto : Bool) (s : State) : State :=
  canSend (0x700 + nodeId s) [0]
    (odSet s oNMT_STATE (if auto && odv s oNMT_AUTOSTART == 1 then 5 else 0x7F))

def execProfileActiveWrite (path : Fin 4) (n : Nat) (s : State) : Host.Outcome State Fault Refusal :=
  .next (namedWrite path.val oPROFILE_ACTIVE n (wProfile n) s)
def execProfileSave (path : Fin 4) (n : Nat) (s : State) : Host.Outcome State Fault Refusal :=
  .next (flashWrite path.val oPROFILE_SAVE n (wProfSave path.val n) s)
def execProfileFactory (path : Fin 4) (n : Nat) (s : State) : Host.Outcome State Fault Refusal :=
  .next (flashWrite path.val oPROFILE_FACTORY n (wProfFactory path.val n) s)

end Sys2Proof.Machine
end

