-- ==== Sys2Proof/Machine/Observe.lean ====
section
/-! DEFINITION. Observation: the alignment of the time base, freezes, the trace's states, breaks, hangs, wait-for graphs
and operator counters (R467 to R499). -/
namespace Sys2Proof.Machine

/-! ### The time base (R468 to R474) -/

def modTim (f : TimeSt → TimeSt) (s : State) : State := { s with tim := f s.tim }

/-- R471: no graph is loaded, no ROB or collective of the module is outstanding, and REF25 is in lock. -/
def mayAlign (s : State) : Bool :=
  s.graphs.isEmpty && (s.rem.fes.all fun e => e.2.robs.isEmpty) && s.rem.colls.isEmpty
    && !bitAt (odv s oTIME_FLAGS) 1

/-- R470: of the peers collected, the one of lowest depth, on the lowest port. -/
def alignChoice : List (Nat × Nat × Int) → Option (Nat × Nat × Int)
  | [] => none
  | c :: r =>
    match alignChoice r with
    | none => some c
    | some b => if b.2.1 < c.2.1 ∨ (b.2.1 = c.2.1 ∧ b.1 < c.1) then some b else some c

/-- R470: the second of collecting peers ends: the step and its depth are known. -/
def alignWindowEnd (s : State) : State :=
  if s.tim.collect = false then s
  else
    modTim (fun t => { t with
      collect := false, cands := [], step := (alignChoice t.cands).map fun c => (c.2.2, c.1, c.2.1 + 1) }) s

/-- R471, R472, R482: the module is aligned by a step from a port, at a depth; a step is no time that has passed, so that the
pacing of R26 and the operating seconds do not count it. -/
def aligned (step : Int) (port depth : Nat) (s : State) : State :=
  let n := step.toNat
  let s1 := modFlt (fun f => { f with slot0 := f.slot0.map (· + n), slot1 := f.slot1.map (· + n) })
    { s with now := (s.now + n) % 2 ^ 64, mod := { s.mod with secAt := s.mod.secAt + n } }
  let s2 := modTim (fun t => { t with step := none, hold := t.hold + (-step).toNat }) s1
  let s3 := odSet (odSet s2 oTIME_ALIGN_STEP (uxt 64 step)) oTIME_ALIGN_PORT port
  let s4 := odSet (odSet s3 oTIME_ALIGN_DEPTH depth) oTIME_ALIGN_ERR_NS (5 * depth)
  let s5 := odBit s4 oTIME_FLAGS 2 false
  let rec_ (d : Nat) (s : State) : State := traceAlways 0x33 (srcHalf d) port (uxt 64 step) s
  logEvent evTIME_ALIGNED srcModule port (uxt 64 step) noCmd (rec_ 1 (rec_ 0 s5))

/-- R20, R468: what a tick adds to the time base: with the fabric reference's interpolation 1 ns, and without it (COARSE)
the 40 ns of a REF25 tick. -/
def tickSize (s : State) : Nat := if bitAt (odv s oTIME_FLAGS) 0 then 40 else 1

/-- R20, R468, R471: a tick of the time base, a 64-bit count, less what a negative step still holds back. -/
def timeTick (s : State) : State :=
  let h := min (tickSize s) s.tim.hold
  modTim (fun t => { t with hold := t.hold - h }) { s with now := (s.now + (tickSize s - h)) % 2 ^ 64 }

/-- R38: every request that reaches 2,047 units while it waits is logged. -/
def ageWatch (s : State) : State := switchSat (stepSat ((s.tiles.map (·.1)).foldl (fun s t => tileSat t s) s))

/-- R20, R38, R253, R480: with no command waiting, the time base ticks, packets for which a tag has become free leave, and
trace records reach the buffers. -/
def idleTick (s : State) : State :=
  if s.mod.auxUp = false then s
  else
    let s1 := timeTick s
    traceMoves 1 s.now s1.now (traceMoves 0 s.now s1.now (pumpAll (ageWatch s1)))

/-- R471: the step is applied. -/
def timeAlign (s : State) : State :=
  match s.tim.step with
  | some (d, p, depth) => if mayAlign s then aligned d p depth s else s
  | none => s

/-- R474: REF25 is lost. -/
def refLoss (s : State) : State :=
  if s.mod.auxUp = false ∨ s.tim.lostAt.isSome then s
  else
    let s2 := modTim (fun t => { t with lostAt := some s.now }) s
    let s3 := { s2 with mod := { s2.mod with pins := { s2.mod.pins with ref25 := false } } }
    logSimple evTIME_UNLOCKED srcModule (odBit (odBit s3 oTIME_FLAGS 1 true) oTIME_FLAGS 3 true)

/-- R474: REF25 is back. -/
def refRelock (s : State) : State :=
  if s.tim.lostAt.isNone then s
  else
    let s1 := odSet s oTIME_UNLOCKED_NS (unlockedNs s)
    let s2 := modTim (fun t => { t with lostAt := none }) s1
    odBit { s2 with mod := { s2.mod with pins := { s2.mod.pins with ref25 := true } } } oTIME_FLAGS 1 false

def execAlignCollectWindowEnd (s : State) : Host.Outcome State Fault Refusal := .next (alignWindowEnd s)
def execTimeAlign (s : State) : Host.Outcome State Fault Refusal := .next (timeAlign s)
def execRef25Loss (s : State) : Host.Outcome State Fault Refusal := .next (refLoss s)
def execRef25Relock (s : State) : Host.Outcome State Fault Refusal := .next (refRelock s)

/-- R433: TIME_REFERENCE is locked while a port is up. -/
def wTimeRef (v : Nat) (s : State) : Nat × State :=
  if (List.range 16).all fun p => portState s p == 0 then (0, odSet s oTIME_REFERENCE v) else (0x0550, s)

/-! ### Freezes (R478, R479) -/

def wFreezeNow (v : Nat) (s : State) : Nat × State :=
  if frozen s then (0x05C4, s) else (0, if v = 1 then freeze 1 s else s)

/-- R479: FREEZE_AT; a time already past freezes at once, late. One written in the cycle of another trigger joins that
freeze, and a later time stays in force for the release. -/
def wFreezeAt (v : Nat) (s : State) : Nat × State :=
  if frozen s then (0x05C4, s)
  else
    let s1 := odSet s oFREEZE_AT v
    (0, if odv s oFREEZE_STATE = 2 then (if v ≠ 0 ∧ v < s.now then freeze 3 s1 else s1)
      else if v = 0 then odSet s1 oFREEZE_STATE 0 else if v < s.now then freeze 3 s1 else odSet s1 oFREEZE_STATE 1)

/-- R479: the time base has reached FREEZE_AT. -/
def freezeReached (s : State) : State :=
  if odv s oFREEZE_STATE = 1 ∧ odv s oFREEZE_AT ≤ s.now then freeze 2 s else s

def wFreezeRelease (v : Nat) (s : State) : Nat × State :=
  (0, if v = 0 then s
      else odSet { s with frz := [] } oFREEZE_STATE (if s.now < odv s oFREEZE_AT then 1 else 0))

def execFreezeNow (path : Fin 4) (v : Nat) (s : State) : Host.Outcome State Fault Refusal :=
  .next (namedWrite path.val oFREEZE_NOW v (wFreezeNow v) s)
def execFreezeAtWrite (path : Fin 4) (v : Nat) (s : State) : Host.Outcome State Fault Refusal :=
  .next (namedWrite path.val oFREEZE_AT v (wFreezeAt v) s)
def execFreezeAtReached (s : State) : Host.Outcome State Fault Refusal := .next (freezeReached s)
def execFreezeRelease (path : Fin 4) (v : Nat) (s : State) : Host.Outcome State Fault Refusal :=
  .next (namedWrite path.val oFREEZE_RELEASE v (wFreezeRelease v) s)

/-! ### The trace (R483 to R486) -/

/-- R483: TRACE_CTL. -/
def wTraceCtl (v : Nat) (s : State) : Nat × State :=
  if 2 ^ 24 ≤ v ∨ (v % 4 = 3 ∧ (bitsOf v 8 2 = 0 ∨ 99 < bitsOf v 8 2)) then (0x01E0, s)
  else if capturing s then (0x05C0, s)
  else (0, odSet s oTRACE_CTL v)

/-- R484: both buffers empty, with their counts. -/
def traceEmpty (s : State) : State :=
  let s1 := { s with obs := { s.obs with
    fifos := [], drops := [], trace0 := TraceDie.initial, trace1 := TraceDie.initial, trig := false, gap0 := none, gap1 := none } }
  [0, 1].foldl (fun s d => odClear (odClear (odSet (odSet s (oTRACE_RECORDS + d) 0) (oTRACE_LOST + d) 0)
    (oTRACE_TRIGGER_SLOT + d)) (oTRACE_OLDEST_SLOT + d)) s1

/-- R484: a capture begins. -/
def wTraceArm (v : Nat) (s : State) : Nat × State :=
  (0, if v = 0 ∨ capturing s ∨ traceMode s = 0 then s else odSet (traceEmpty s) oTRACE_STATE 1)

/-- R484: the capture stops; the closing GAP records are written. -/
def traceStop (s : State) : State :=
  if capturing s then
    odSet { s with obs := { s.obs with gap0 := some (traceGap s 0), gap1 := some (traceGap s 1) } } oTRACE_STATE 3
  else s

def wTraceStop (v : Nat) (s : State) : Nat × State := (0, if v = 0 then s else traceStop s)
def wTraceTrigger (v : Nat) (s : State) : Nat × State := (0, if v = 0 then s else traceEvent 0 s)

/-- R484: mode 1 has written slot N − 2. -/
def traceFilled (s : State) : State :=
  if odv s oTRACE_STATE = 1 ∧ traceMode s = 1 ∧ (s.obs.trace0.wrapped ∨ s.obs.trace1.wrapped) then traceStop s else s

/-- R484: P_post records have followed the trigger. -/
def tracePostDone (s : State) : State :=
  if odv s oTRACE_STATE = 2 ∧ (s.obs.trace0.post = some 0 ∨ s.obs.trace1.post = some 0) then traceStop s else s

/-- R481: the 32 bytes of a record. -/
def traceBytes (r : TraceRec) : List Byte :=
  leBytes 8 r.time ++ leBytes 1 r.typ ++ leBytes 1 r.flags ++ leBytes 2 r.source ++ leBytes 2 r.opId
    ++ leBytes 2 r.layer ++ leBytes 4 r.seq ++ leBytes 4 r.arg0 ++ leBytes 8 r.arg1

/-- R484: what a slot holds; an emptied slot reads as zeros. -/
def slotBytes (s : State) (d n : Nat) : List Byte :=
  match (if n = traceN - 1 then (if d = 0 then s.obs.gap0 else s.obs.gap1) else tfind (traceDie s d).slots n) with
  | some r => traceBytes r
  | none => zeros 32

/-- R486: the window of TRACE_DATA at TRACE_READ_OFFSET. -/
def traceWindow (s : State) : List Byte :=
  let o := odv s oTRACE_READ_OFFSET
  (List.range 8192).flatMap fun i => slotBytes s (bitsOf o 24 24) (o % 2 ^ 24 / 32 + i)

/-- R467, R486, R498: TRACE_DATA as a path reads it. -/
def traceData (path : Nat) (s : State) : Nat × List Byte :=
  if odFind s oTRACE_DATA ≠ 0 then (odFind s oTRACE_DATA, [])
  else if pathMayRead path oTRACE_DATA = false then (0x0450, [])
  else if confidential s then (0, [])
  else if capturing s then (0x05C0, [])
  else (0, traceWindow s)

/-- R486: one window is read. -/
def traceRead (path : Nat) (s : State) : State :=
  if s.mod.owner = none then s
  else
    let (c, bs) := traceData path s
    tell path c (if c = 0 then emit (.object oTRACE_DATA bs) s else s)

/-- R498: TRACE_READ_OFFSET. -/
def wTraceOffset (v : Nat) (s : State) : Nat × State :=
  if 2 ^ 25 ≤ v ∨ v % 262144 ≠ 0 then (0x0103, s) else (0, odSet s oTRACE_READ_OFFSET v)

def execTraceCtlWrite (path : Fin 4) (v : Nat) (s : State) : Host.Outcome State Fault Refusal :=
  .next (namedWrite path.val oTRACE_CTL v (wTraceCtl v) s)
def execTraceArm (path : Fin 4) (v : Nat) (s : State) : Host.Outcome State Fault Refusal :=
  .next (namedWrite path.val oTRACE_ARM v (wTraceArm v) s)
def execTraceStop (path : Fin 4) (v : Nat) (s : State) : Host.Outcome State Fault Refusal :=
  .next (namedWrite path.val oTRACE_STOP v (wTraceStop v) s)
def execTraceTrigger (path : Fin 4) (v : Nat) (s : State) : Host.Outcome State Fault Refusal :=
  .next (namedWrite path.val oTRACE_TRIGGER v (wTraceTrigger v) s)
def execTraceBufferFull (s : State) : Host.Outcome State Fault Refusal := .next (traceFilled s)
def execTracePostComplete (s : State) : Host.Outcome State Fault Refusal := .next (tracePostDone s)
def execTraceDataRead (path : Fin 4) (s : State) : Host.Outcome State Fault Refusal := .next (traceRead path.val s)

/-! ### Breaks (R487 to R492) -/

/-- R495: the party of a SOURCE on this module. -/
def party (s : State) (src : Nat) : Nat := odv s oNODE_ID * 65536 + src

/-- R487, R489, R491: a tile about to issue a bundle that a valid entry names stops before it, and will not hit the entry
again in this firing. A tile that a break of its graph stopped earlier hits nothing. -/
def addrHit (t : Nat) (s : State) : State :=
  let x := tileSt s t
  match x.run with
  | some r =>
    match brkAddrHitOf s t r.pc r.passed with
    | some i =>
      let w := bundleAt x r.pc
      if x.mode = .active ∧ x.stopped = none ∧ r.held ∧ r.ending = false ∧ (bundleOn x w && bundleWaits x w) = false
          ∧ (match breakOf s x.graph with | some b => b.at_ == s.now && !b.broken | none => true) = true then
        brkHit t 2 (i + 1) (setTile s t { x with run := some { r with passed := i :: r.passed } })
      else s
    | none => s
  | none => s

/-- R488: what the tile has issued has completed, and it stands at a bundle boundary. -/
def tileDrained (x : TileSt) : Bool :=
  x.mats.isEmpty && x.dmas.isEmpty && x.irrs.isEmpty && x.adds.isEmpty
    && (match x.run with | some r => r.held || r.ending | none => true)

/-- R488: the graph has drained: its tiles, its ROBs and its tokens in flight. -/
def graphDrained (s : State) (h : Nat) : Bool :=
  match tfind s.graphs h with
  | none => true
  | some g =>
    let ts := graphTiles g
    (ts.all fun t => tileDrained (tileSt s t))
      && (s.rem.fes.all fun e => e.2.robs.all fun r => match r.tile with | some t => !ts.contains t | none => true)
      && s.mesh.toks.all fun m =>
        !ts.contains m.src || destCore ((oqDests (oqWord (tileSt s m.src) m.oq)).getD m.k 0)

/-- R99: a token's 16 bytes. -/
def tokBytes (k : Token) : List Byte :=
  leBytes 8 k.payload ++ leBytes 2 (k.age % 4096 + 4096 * (k.kind % 16)) ++ leBytes 2 k.seq ++ zeros 4

/-- R490: the dump of the reported tile. -/
def breakDump (s : State) (b : BreakSt) : List Byte :=
  let x := tileSt s b.tile
  let (pc, task, win, op) := match x.run with
    | some r => (r.pc, r.task, r.window, r.opId)
    | none => (0, 0, [], x.lastOp)
  leBytes 8 b.at_ ++ leBytes 4 (party s (srcTile b.tile)) ++ leBytes 2 pc ++ leBytes 1 task ++ leBytes 1 b.cause
    ++ leBytes 1 b.id ++ leBytes 1 win.length ++ leBytes 2 op ++ leBytes 2 b.graph ++ zeros 42
    ++ (List.range 64).flatMap (fun r => (List.range 64).flatMap fun i => leBytes 4 (laneAt (vreg x r) i).toNat)
    ++ (List.range 32).flatMap (fun r => leBytes 8 (sreg x r))
    ++ (List.range 8).flatMap (fun r => leBytes 8 (mreg x r))
    ++ padTo 64 (leBytes 2 (lsum ((List.range 16).map fun i => b2n (preg x i) * 2 ^ i)))
    ++ (List.range 64).flatMap (fun r => eaBytes (lacc x r))
    ++ padTo 1024 (win.flatMap tokBytes)

/-- R488: the reported graph is BROKEN: the dump, the BREAK record, and a freeze where enabled. -/
def breakDone (b : BreakSt) (s : State) : State :=
  let g := tfind s.graphs b.graph
  let lead := match g with | some g => srcCore (g.leader / 8) (g.leader % 8) | none => srcTile b.tile
  let op := match (tileSt s b.tile).run with | some r => r.opId | none => (tileSt s b.tile).lastOp
  let s1 := { s with
    obs := { s.obs with brk := some { b with broken := true } }
    dom := tput s.dom oBRK_DUMP (breakDump s b) }
  freezeSource 0 (trace 6 0x23 lead op (tileLayer s b.tile) b.graph (party s (srcTile b.tile)) (odSet s1 oBRK_STATE 2))

def drainComplete (s : State) : State :=
  match s.obs.brk with
  | some b => if b.broken = false ∧ graphDrained s b.graph then breakDone b s else s
  | none => s

/-- R488, R110: the drain has taken too long: the graph is discarded. -/
def drainLate (s : State) : State :=
  match s.obs.brk with
  | some b =>
    if b.broken then s
    else
      let w := match tfind s.graphs b.graph with | some g => g.wrote | none => []
      afterRun b.graph (dropBreak b.graph (undefineAll w (stopGraph b.graph 0x05C1 s)))
  | none => s

/-- R491: the graph of a break issues again from its boundaries; a run whose last sink report came while it was broken
completes (R489). -/
def resume (b : BreakSt) (s : State) : State :=
  let s1 := dropBreak b.graph s
  match tfind s1.graphs b.graph with
  | none => s1
  | some g => runReported b.graph ((graphTiles g).foldl (fun s t =>
      raiseReq t (if (tileSt s t).run.isSome then endFiller t s else s)) s1)

def wBrkResume (v : Nat) (s : State) : Nat × State :=
  if v = 0 then (0, s)
  else match s.obs.brk with
    | some b => if b.broken then (0, resume b s) else (0x05C2, s)
    | none => (0x05C2, s)

/-- R488, R489: with no break reported, the oldest held one is taken up. -/
def takeUpBreak (s : State) : State :=
  match s.obs.brk, s.obs.held with
  | none, b :: r =>
    let s1 := { s with obs := { s.obs with brk := some b, held := r } }
    let s2 := odSet (odSet (odSet s1 oBRK_STATE 1) oBRK_HANDLE b.graph) oBRK_SOURCE (party s (srcTile b.tile))
    if graphDrained s2 b.graph then breakDone b s2 else s2
  | _, _ => s

/-- R489: an entry of BRK_ADDR. -/
def wBrkAddr (i v : Nat) (s : State) : Nat × State :=
  if 2 ^ 23 ≤ v ∨ 7679 < v % 8192 ∨ 143 < bitsOf v 20 13 then (0x01E1, s) else (0, odSet s (oBRK_ADDR + i) v)

def execBrkAddrHit (t : TileId) (s : State) : Host.Outcome State Fault Refusal := .next (addrHit t.val s)
def execBrkDrainComplete (s : State) : Host.Outcome State Fault Refusal := .next (drainComplete s)
def execBrkDrainTimeout (s : State) : Host.Outcome State Fault Refusal := .next (drainLate s)
def execBrkResume (path : Fin 4) (v : Nat) (s : State) : Host.Outcome State Fault Refusal :=
  .next (namedWrite path.val oBRK_RESUME v (wBrkResume v) s)
def execHeldBreakTakeUp (s : State) : Host.Outcome State Fault Refusal := .next (takeUpBreak s)

/-! ### Wait-for graphs (R494 to R496) -/

/-- R495: the further SOURCEs of parties. -/
def srcIssuer (d : Nat) : Nat := d * 256 + 0xE0
def srcEngine (d : Nat) : Nat := d * 256 + 0xC0

/-- R247, R495: what feeds input queue `q` of a tile: a tile, the graph's leader, or for a REPLY_Q the control core that the
tile's output queue names. -/
def feeder (s : State) (g : GraphSt) (t q : Nat) : Nat :=
  match producerOf s (graphTiles g) t q with
  | some p => srcTile p.1
  | none =>
    if (t, q) ∈ g.starts then srcCore (g.leader / 8) (g.leader % 8)
    else match ((List.range 16).flatMap fun o => oqDests (oqWord (tileSt s t) o)).find? destCore with
      | some w => srcCore (destDie w) (destCol w)
      | none => srcCore (dieOf t) (t % 144 / 18)

/-- R494: the first input entry of a task that is not met. -/
def edgeIn (s : State) (g : GraphSt) (t task : Nat) (ins : List (Nat × Nat)) : Option WfgEdge :=
  let x := tileSt s t
  (ins.find? fun e => decide ((iqToks x e.1).length < countFor ins e.1)).map fun e =>
    ⟨party s (srcTile t), party s (feeder s g t e.1), 1, task, e.1, countFor ins e.1, (iqToks x e.1).length⟩

/-- R102, R495: the destination of an output queue with the smallest count. -/
def leastDest (x : TileSt) (q : Nat) : Nat :=
  let cs := match tfind x.oqs q with | some o => o.credits | none => []
  let ds := oqDests (oqWord x q)
  ds.getD ((lfindIdx (fun c => decide (c = oqCredit x q)) cs).getD 0) 0

/-- The party that a destination word names. -/
def destSrc (w : Nat) : Nat := if destCore w then srcCore (destDie w) (destCol w) else srcTile (destTile w)

/-- R494: the first output entry of a task that is not met. -/
def edgeOut (s : State) (t task : Nat) (outs : List (Nat × Nat)) : Option WfgEdge :=
  let x := tileSt s t
  (outs.find? fun e => decide (oqCredit x e.1 < countFor outs e.1)).map fun e =>
    ⟨party s (srcTile t), party s (destSrc (leastDest x e.1)), 2, task, e.1, countFor outs e.1, oqCredit x e.1⟩

/-- R494: the edge of a VALID task: its first condition that is not met. -/
def taskEdge (s : State) (g : GraphSt) (t task : Nat) : Option WfgEdge :=
  let x := tileSt s t
  let w := taskAt x task
  if taskValid w = false then none
  else
    (edgeIn s g t task (taskIns w)) <|> (edgeOut s t task (taskOuts w))
      <|> (if x.credit then none
           else some ⟨party s (srcTile t), party s (srcIssuer (dieOf t)), 3, task, 0, 1, 0⟩)

/-- R494, R495: the edge of an outstanding ROB of the graph, held by front end `fe`. -/
def robEdge (s : State) (fe : Nat) (r : RobSt) : Option WfgEdge :=
  match (r.outs ++ r.todo).head? with
  | none => none
  | some p => some ⟨party s (srcCore (fe / 8) (fe % 8)), p.node * 65536 + srcHalf (b2n (!inMap p.addr 1 || addrDie p.addr == 1)), 4, 0xFF,
      rReply r.rob, min 65535 (r.outs.length + r.todo.length), 0⟩

/-- R494: the edge of a collective that waits on a peer. NEED and HAVE have no meaning that the manual gives
(log entry 17): they are left open. -/
def collEdge (s : State) (x : CollSt) : Option WfgEdge :=
  let d := x.desc
  ((List.range (cN d)).find? fun c => decide (x.steps.getD c 0 < endStep d)).map fun c =>
    let j := (cDims d).getD (stepDim d c (x.steps.getD c 0)) 0
    ⟨party s (srcEngine 0), Nat.xor (odv s oNODE_ID) (2 ^ j) * 65536 + srcEngine 0, 5, 0xFF, 0,
      Config.freeWord 0 (100 + 2 * cId d) % 65536, Config.freeWord 0 (101 + 2 * cId d) % 65536⟩

/-- R494: every edge of a graph. -/
def wfgEdges (s : State) (h : Nat) : List WfgEdge :=
  match tfind s.graphs h with
  | none => []
  | some g =>
    let ts := graphTiles g
    (ts.flatMap fun t => (List.range 32).filterMap (taskEdge s g t))
      ++ (s.rem.fes.flatMap fun e => (e.2.robs.filter fun r =>
            match r.tile with | some t => ts.contains t | none => false).filterMap (robEdge s e.1))
      ++ s.rem.colls.filterMap (collEdge s)

/-- R475: the firings of a graph's tiles. -/
def graphFirings (s : State) (h : Nat) : Nat :=
  match tfind s.graphs h with
  | some g => lsum ((graphTiles g).map fun t => odv s (tileKey oTILE_FIRINGS t))
  | none => 0

/-- R494: an assembly starts with the first read. -/
def wfgStart (h : Nat) (hang : Bool) (s : State) : State :=
  odSet { s with obs := { s.obs with wfg := some ⟨h, hang, wfgEdges s h, s.now, graphFirings s h⟩ } } oWFG_STATE 1

def wWfgRequest (h : Nat) (s : State) : Nat × State :=
  if (loadedGraph s h).isNone then (0x0197, s)
  else if s.obs.wfg.isSome then (0x05C3, s)
  else (0, wfgStart h false s)

/-- R496: a search for a path back to `goal`: paths of edges by their places, newest edge first. -/
def findCycle (es : List WfgEdge) (goal : Nat) : Nat → List Nat → List (List Nat) → Option (List Nat)
  | 0, _, _ => none
  | _ + 1, _, [] => none
  | fuel + 1, seen, p :: r =>
    match p.head?.bind (es[·]?) with
    | none => findCycle es goal fuel seen r
    | some e =>
      if e.dst = goal then some p
      else if e.dst ∈ seen then findCycle es goal fuel seen r
      else
        let next := ((List.range es.length).filter fun i => match es[i]? with | some f => f.src == e.dst | none => false)
        findCycle es goal fuel (e.dst :: seen) (next.map (· :: p) ++ r)

/-- R496: the first cycle found from the parties in ascending order. -/
def firstCycle (es : List WfgEdge) : List Nat → List Nat
  | [] => []
  | p :: r =>
    let own := (List.range es.length).filter fun i => match es[i]? with | some e => e.src == p | none => false
    match findCycle es p (es.length + 1) [p] (own.map fun i => [i]) with
    | some c => c
    | none => firstCycle es r

/-- R495: the 16 bytes of an edge. -/
def edgeBytes (e : WfgEdge) (inCycle : Bool) : List Byte :=
  leBytes 4 e.src ++ leBytes 4 e.dst ++ leBytes 1 e.kind ++ leBytes 1 e.task ++ leBytes 1 e.queue
    ++ leBytes 1 (b2n inCycle) ++ leBytes 2 e.need ++ leBytes 2 e.have_

/-- R496: edges ordered by FROM and then by TASK. -/
def edgeBefore (a b : WfgEdge) : Bool := decide (a.src < b.src ∨ (a.src = b.src ∧ a.task < b.task))

/-- R496: WFG_DATA. -/
def wfgData (w : WfgSt) (es : List WfgEdge) (unstable : Bool) (time2 : Nat) : List Byte :=
  let q := lsort edgeBefore es
  let c := firstCycle q (q.map (·.src))
  leBytes 2 w.handle ++ leBytes 1 (b2n (!c.isEmpty) + 2 * b2n unstable + 4 * b2n w.hang) ++ zeros 1
    ++ leBytes 4 q.length ++ leBytes 4 c.length ++ zeros 4 ++ leBytes 8 w.time1 ++ leBytes 8 time2
    ++ (List.range q.length).flatMap fun i => match q[i]? with | some e => edgeBytes e (c.contains i) | none => []

/-- R494: the second read: the edges that appear in both, with the same NEED and HAVE, make the graph. -/
def wfgSecond (s : State) : State :=
  match s.obs.wfg with
  | none => s
  | some w =>
    let now := wfgEdges s w.handle
    let es := w.edges.filter fun e => now.contains e
    let bs := wfgData w es (graphFirings s w.handle != w.fired) s.now
    odSet { s with obs := { s.obs with wfg := none }, dom := tput s.dom oWFG_DATA bs } oWFG_STATE 2

/-- R493: a run without progress is declared hung, once until it progresses. -/
def hang (h : Nat) (s : State) : State :=
  match tfind s.graphs h with
  | none => s
  | some g =>
    match g.run with
    | none => s
    | some r =>
      if r.hung ∨ (breakOf s h).isSome ∨ odv s oHANG_TIMEOUT_MS = 0
          ∨ s.now < r.lastAt + odv s oHANG_TIMEOUT_MS * 1000000 then s
      else
        let s1 := odSet (odAdd32 (modRunG s h fun r => { r with hung := true }) oHANG_COUNT 1) oHANG_HANDLE h
        let s2 := logEvent evHANG (srcCore (g.leader / 8) (g.leader % 8)) 0 h ⟨r.layer, r.opId, r.tag⟩ s1
        let s3 := freezeSource 2 (traceEvent 4 s2)
        if confidential s ∨ s3.obs.wfg.isSome then s3 else wfgStart h true s3

def execHangDetected (h : Nat) (s : State) : Host.Outcome State Fault Refusal := .next (hang h s)
def execWfgRequest (path : Fin 4) (h : Nat) (s : State) : Host.Outcome State Fault Refusal :=
  .next (namedWrite path.val oWFG_REQUEST h (wWfgRequest h) s)
def execWfgSecondRead (s : State) : Host.Outcome State Fault Refusal := .next (wfgSecond s)

/-! ### Operator counters and the classes (R467, R477) -/

/-- R477: an entry follows an OP_ID, from zero. -/
def wOpc (i v : Nat) (s : State) : Nat × State :=
  let s1 := modFlt (fun f => { f with opcRem := tdel f.opcRem i }) s
  (0, odSet (odSet (odSet (odSet s1 (oOPC_SELECT + i) v) (oOPC_TASK_CYCLES + i) 0) (oOPC_FIRINGS + i) 0)
    (oOPC_ENERGY_MJ + i) 0)

def execOpcSelectWrite (path : Fin 4) (i : Fin 16) (v : Nat) (s : State) : Host.Outcome State Fault Refusal :=
  .next (namedWrite path.val (oOPC_SELECT + i.val) v (wOpc i.val v) s)

/-- R467, R475: the entries of class T, which go to 0, as a freeze in force holds them too. -/
def clearTenant (s : State) : State :=
  modFlt (fun f => { f with opcRem := [] }) { s with
    od := s.od.filter fun e => diagClass e.1 != .tenant
    frz := s.frz.filter fun e => diagClass e.1 != .tenant }

/-- R467: trace, breakpoint and wait-for state idle and empty; the settings stay. -/
def clearDiag (s : State) : State :=
  let s1 := traceEmpty { s with
    obs := { s.obs with brk := none, held := [], wfg := none }
    dom := tdel (tdel s.dom oBRK_DUMP) oWFG_DATA }
  [oTRACE_STATE, oBRK_STATE, oBRK_HANDLE, oBRK_SOURCE, oWFG_STATE, oHANG_HANDLE].foldl (fun s k => odClear s k) s1

end Sys2Proof.Machine
end

