-- ==== Sys2Proof/Machine/Security.lean ====
section
/-! DEFINITION. Identity and attestation: firmware slots and secure boot, measurements, the measurement log, SPDM and the
vendor requests, and the link authentication mode (R435 to R456). The wire forms of SPDM messages are those of DMTF DSP0274
version 1.3, which R449 names (log entry 18). -/
namespace Sys2Proof.Machine

def modSec (f : SecSt → SecSt) (s : State) : State := { s with sec := f s.sec }

/-- R433: the order code's variant. -/
def isAC (s : State) : Bool := odv s oPRODUCT_CODE / 65536 == 1

/-! ### Firmware images (R438 to R442) -/

/-- R438: a byte of a slot. -/
def slotByte (slot off : Nat) (cs : List (Nat × List Byte)) : Byte :=
  match cs.find? fun c => decide (c.1 ≤ off ∧ off < c.1 + c.2.length) with
  | some c => c.2.getD (off - c.1) 0
  | none => Config.fwByte slot off

/-- `n` bytes of a slot. -/
def fwBytes (s : State) (slot off n : Nat) : List Byte :=
  (List.range n).map fun i => slotByte slot (off + i) (tget s.sec.slots slot ⟨false, [], true⟩).chunks

/-- A field of a slot's header. -/
def fwHdr (s : State) (slot off n : Nat) : Nat := leNat (fwBytes s slot off n)

/-- R438: the header's legal values, and the zero fill behind the certificate. -/
def fwHeaderOk (s : State) (slot : Nat) : Bool :=
  fwHdr s slot 0 4 == 0x50494755 && fwHdr s slot 4 2 == 1 && fwHdr s slot 6 2 == 0 && decide (fwHdr s slot 0x0C 4 ≤ 63)
    && decide (1 ≤ fwHdr s slot 0x10 4 ∧ fwHdr s slot 0x10 4 ≤ 16773120)
    && decide (1 ≤ fwHdr s slot 0x14 4 ∧ fwHdr s slot 0x14 4 ≤ 3488) && fwHdr s slot 0x18 8 == 0
    && (fwBytes s slot (0x260 + fwHdr s slot 0x14 4) (3488 - fwHdr s slot 0x14 4)).all (· == 0)

/-- R439, R441: the slot that takes an image: the one that does not run, or with none running the one not preferred. -/
def stageSlot (s : State) : Nat := 1 - (s.sec.running.getD s.sec.pref)

/-- R441 to R443: the slot that FW_STAGE_STATE speaks of. -/
def stagedSlot (s : State) : Nat := if odv s oFW_STAGE_STATE = 0 then stageSlot s else s.sec.into

/-- R441: FW_STAGE_OFFSET. -/
def wStageOffset (v : Nat) (s : State) : Nat × State :=
  if v % 4096 ≠ 0 then (0x0103, s) else (0, odSet s oFW_STAGE_OFFSET v)

/-- R441: a chunk; the first one invalidates the slot. -/
def wStageChunk (bs : List Byte) (s : State) : Nat × State :=
  let o := odv s oFW_STAGE_OFFSET
  if bs.length = 0 then (0x0102, s)
  else if 65536 < bs.length then (0x0103, s)
  else if 16777216 < o + bs.length then (0x0101, s)
  else if s.sec.commit then (0x0584, s)
  else
    let more := odv s oFW_STAGE_STATE == 1
    let k := if more then s.sec.into else stageSlot s
    let old := if more then (tget s.sec.slots k ⟨false, [], true⟩).chunks else []
    (0, odSet (modSec (fun c => { c with into := k, slots := tput c.slots k ⟨true, (o, bs) :: old, false⟩ }) s)
      oFW_STAGE_STATE 1)

/-- R441: a commit starts. -/
def wStageCommit (v : Nat) (s : State) : Nat × State :=
  if s.sec.commit then (0x0584, s)
  else (0, if v = 0 then s else modSec (fun c => { c with commit := true }) s)

/-- R441: the code of a commit, by the checks of R439: `cert`, `sig` and `digest` are what the certificate, the signature
and the body digest verify to. -/
def commitCode (s : State) (cert sig digest : Bool) : Nat :=
  if fwHeaderOk s (stagedSlot s) = false then 0x01D0
  else if !cert || !sig || !digest then 0x0461
  else if fwHdr s (stagedSlot s) 0x0C 4 < odv s oFW_SVN_MIN then 0x0462
  else 0

/-- R441: verification ends: the slot is valid again where it passes. -/
def commitDone (cert sig digest : Bool) (s : State) : State :=
  if s.sec.commit = false then s
  else
    let c := commitCode s cert sig digest
    let k := stagedSlot s
    let slot := tget s.sec.slots k ⟨false, [], true⟩
    let s1 := odSet (modSec (fun x => { x with
      commit := false, into := k, slots := if c = 0 then tput x.slots k { slot with ok := true } else x.slots }) s)
      oFW_STAGE_STATUS c
    if c = 0 then logEvent evFW_STAGED srcModule k (fwHdr s k 8 4) noCmd (odSet s1 oFW_STAGE_STATE 2)
    else odSet s1 oFW_STAGE_STATE 3

/-- R439: the slot that a core boots: the preferred one, or else the other. -/
def bootSlot (pref : Nat) (ok : Bool × Bool) : Option Nat :=
  let v (k : Nat) : Bool := if k = 0 then ok.1 else ok.2
  if v pref then some pref else if v (1 - pref) then some (1 - pref) else none

/-- R439 to R441: the checks of a slot that need no cryptography: its image is not invalidated, the header of a staged one,
and the SVN against the fuses. -/
def slotPasses (s : State) (k : Nat) : Bool :=
  let x := tget s.sec.slots k ⟨false, [], true⟩
  x.ok && (!x.staged || fwHeaderOk s k)
    && (odv s oFW_SVN_MIN == 0 || decide (odv s oFW_SVN_MIN ≤ fwHdr s k 0x0C 4))

/-- R439: the slots that a core finds valid: `v` is what certificates, signatures and digests verify to. -/
def slotsOk (s : State) (v : Bool × Bool) : Bool × Bool := (v.1 && slotPasses s 0, v.2 && slotPasses s 1)

/-- R511: MGMT_STATE of a core. -/
def coreKey (c : Nat) : Nat := if c = 0 then oMGMT_STATE_A else oMGMT_STATE_B
def coreState (s : State) (c : Nat) : Nat := odv s (coreKey c)
def setCore (c v : Nat) (s : State) : State := odSet s (coreKey c) v

/-- R511, R512: a core takes ownership, which ends what the interlock did while there was none. -/
def ownBy (c v : Nat) (s : State) : State :=
  odSet (setCore c v { s with mod := { s.mod with
    owner := some c, hwCap := 2200, pins := { s.mod.pins with faultHeld := false } } }) oMGMT_OWNER c

/-- R439: the image that a core runs is the running image. -/
def runSlot (k : Nat) (bad : Nat) (s : State) : State :=
  let s1 := modSec (fun c => { c with running := some k }) s
  let s2 := odSet (odSet s1 oFW_ACTIVE_SLOT k) oFW_VERSION (fwHdr s k 8 4)
  odSet s2 oBOOT_STATUS (b2n (k != s.sec.pref) + bad)

/-- R439: the slots that a core tried and found invalid, as bits 1 and 2 of BOOT_STATUS. -/
def badSlots (pref : Nat) (ok : Bool × Bool) : Nat :=
  let v (k : Nat) : Bool := if k = 0 then ok.1 else ok.2
  let bit (k : Nat) : Nat := if v k then 0 else 2 * (k + 1)
  if v pref then 0 else bit pref + bit (1 - pref)

/-- R440: the fuses rise to the running image's SVN. -/
def wCommitSvn (v : Nat) (s : State) : Nat × State :=
  match s.sec.running with
  | some k => (0, if v = 0 then s else odSet s oFW_SVN_MIN (max (odv s oFW_SVN_MIN) (fwHdr s k 0x0C 4 % 64)))
  | none => (0, s)

def execFwStageChunk (path : Fin 4) (bs : List Byte) (s : State) : Host.Outcome State Fault Refusal :=
  .next (namedBytes path.val oFW_STAGE_CHUNK bs (wStageChunk bs) s)
def execFwStageCommit (path : Fin 4) (v : Nat) (s : State) : Host.Outcome State Fault Refusal :=
  .next (namedWrite path.val oFW_STAGE_COMMIT v (wStageCommit v) s)
def execFwStageCommitDone (cert sig digest : Bool) (s : State) : Host.Outcome State Fault Refusal :=
  .next (commitDone cert sig digest s)
def execFwCommitSvn (path : Fin 4) (v : Nat) (s : State) : Host.Outcome State Fault Refusal :=
  .next (namedWrite path.val oFW_COMMIT_SVN v (wCommitSvn v) s)

/-- R437: a ZLM-1640-AS has generated its DIK. -/
def dikDone (s : State) : State := if isAC s then s else modSec (fun c => { c with dik := true }) s
def execDikGenerationDone (s : State) : Host.Outcome State Fault Refusal := .next (dikDone s)

/-! ### Measurements (R443 to R448) -/

/-- A digest of 64 bytes. -/
def sha (bs : List Byte) : List Byte := padTo 64 (Config.sha512 bs)

/-- R445: one level of a hash tree. -/
def treeUp : List (List Byte) → List (List Byte)
  | a :: b :: r => sha (1 :: (a ++ b)) :: treeUp r
  | l => l

/-- R445, R446: the root of a hash tree of `2 ^ n` leaves. -/
def treeRoot : Nat → List (List Byte) → List Byte
  | 0, l => l.headD (zeros 64)
  | n + 1, l => treeRoot n (treeUp l)

/-- R445: the section of a tile in its graph. -/
def tileSection (s : State) (t : Nat) : Option (GraphSt × List Byte) :=
  match tileGraph s t with
  | some g => if g.loading.isSome then none else (g.tiles.find? fun e => e.1 == t).map fun e => (g, e.2)
  | none => none

/-- R445: the leaf of a tile. -/
def progLeaf (s : State) (t : Nat) : List Byte :=
  match tileSection s t with
  | some (g, sec) =>
    let place := leBytes 1 (dieOf t) ++ leBytes 1 (t % 144 / 12) ++ leBytes 1 (t % 12)
    sha ([0] ++ place ++ g.header ++ (place ++ [0] ++ leBytes 4 sec.length ++ zeros 8) ++ sec)
  | none => zeros 64

/-- R445: the tiles of a die that hold a graph. -/
def progTiles (s : State) (d : Nat) : List Nat :=
  ((List.range 144).map (d * 144 + ·)).filter fun t => (tileSection s t).isSome

/-- R445, R447: the program tree digest of a die. -/
def progDigest (s : State) (d : Nat) : List Byte :=
  if regionState s d = 2 ∨ progTiles s d = [] then zeros 64
  else treeRoot 8 ((List.range 144).map (fun i => progLeaf s (d * 144 + i)) ++ List.replicate 112 (zeros 64))

/-- R446, R447: the weight tree digest of a die. -/
def weightDigest (s : State) (d : Nat) : List Byte :=
  if regionState s d = 2 then zeros 64 else tget s.meas.w d (zeros 64)

/-- R443: the digest of the active gain bank's image. -/
def bankDigest (s : State) : List Byte :=
  match tfind s.trw.banks (odv s oGAIN_BANK_ACTIVE) with
  | some img => sha img
  | none => padTo 64 Config.gainDigest

/-- R443: FW_VERSION, SVN and BODY_DIGEST of a slot. -/
def slotIdent (s : State) (k : Nat) : List Byte := fwBytes s k 8 8
def slotDigest (s : State) (k : Nat) : List Byte := fwBytes s k 0x20 64

/-- R444: block 4. -/
def block4 (s : State) : List Byte :=
  leBytes 1 (odv s oSEC_MODE) ++ leBytes 1 (odv s oLINK_AUTH_MODE) ++ leBytes 1 (b2n (isAC s)) ++ leBytes 1 s.sec.last
    ++ leBytes 4 (odv s oPRIMER_COUNT) ++ leBytes 1 (b2n s.meas.since) ++ leBytes 1 (odv s oFW_SVN_MIN) ++ zeros 22

/-- R443: block 6. -/
def block6 (s : State) : List Byte :=
  if odv s oFW_STAGE_STATE = 0 then zeros 76
  else leBytes 1 (odv s oFW_STAGE_STATE) ++ zeros 3 ++ slotIdent s (stagedSlot s) ++ slotDigest s (stagedSlot s)

/-- R444: block 20. -/
def block20 (s : State) : List Byte :=
  let two (f : Nat → Nat) : List Byte := leBytes 2 (f 0) ++ leBytes 2 (f 1)
  leBytes 1 (regionState s 0) ++ leBytes 1 (regionState s 1)
    ++ leBytes 1 (b2n (tfind s.meas.measuring 0).isSome + 2 * b2n (tfind s.meas.measuring 1).isSome) ++ [0]
    ++ leBytes 4 s.meas.gen ++ two (fun d => odv s (oWEIGHT_RANGES + d)) ++ two (fun d => (progTiles s d).length) ++ zeros 16

/-- R443: a measurement: its value, its value type, and whether it is raw. -/
def measValue (s : State) (i : Nat) : Option (List Byte × Nat × Bool) :=
  match i with
  | 1 => some (padTo 64 Config.romDigest, 0x00, false)
  | 2 => some (match s.sec.running with | some k => slotDigest s k | none => zeros 64, 0x01, false)
  | 3 => some (match s.sec.running with | some k => slotIdent s k | none => zeros 8, 0x06, true)
  | 4 => some (block4 s, 0x05, true)
  | 5 => some (bankDigest s, 0x03, false)
  | 6 => some (block6 s, 0x09, true)
  | 16 => some (progDigest s 0, 0x04, false)
  | 17 => some (weightDigest s 0, 0x08, false)
  | 18 => some (progDigest s 1, 0x04, false)
  | 19 => some (weightDigest s 1, 0x08, false)
  | 20 => some (block20 s, 0x09, true)
  | _ => none

/-- R443: the indices. -/
def measIndices : List Nat := [1, 2, 3, 4, 5, 6, 16, 17, 18, 19, 20]

/-- R443: a measurement block in the DMTF format. -/
def measBlock (s : State) (i : Nat) : List Byte :=
  match measValue s i with
  | some (v, ty, raw) =>
    leBytes 1 i ++ [1] ++ leBytes 2 (v.length + 3) ++ leBytes 1 (ty + 128 * b2n raw) ++ leBytes 2 v.length ++ v
  | none => []

/-- R453: blocks 1 to 6. -/
def bootBlocks (s : State) : List Byte := [1, 2, 3, 4, 5, 6].flatMap (measBlock s)

/-- R448: a record of the measurement log. -/
def melRecord (kind index die item addr len time : Nat) (digest : List Byte) : List Byte :=
  leBytes 1 kind ++ leBytes 1 index ++ leBytes 1 die ++ [0] ++ leBytes 2 item ++ zeros 2 ++ leBytes 8 addr ++ leBytes 8 len
    ++ leBytes 8 time ++ padTo 64 digest ++ zeros 32

/-- R448: DIGEST of the boot record of an index: the manual gives none for the blocks that are no digest (log entry 19). -/
def bootDigest (s : State) (i : Nat) : List Byte :=
  match measValue s i with
  | some (v, _, false) => v
  | _ => if i = 6 then slotDigest s (stagedSlot s) else (List.range 64).map fun j => Config.freeByte 0 (64 * i + j)

/-- R448: the records of a die. -/
def melDie (s : State) (d : Nat) : List (List Byte) :=
  if regionState s d = 2 then []
  else
    (progTiles s d).map (fun t => melRecord 2 (16 + 2 * d) d (t % 144) 0
        (match tileSection s t with | some e => e.2.length | none => 0) (tget s.meas.progAt t 0) (progLeaf s t))
      ++ (List.range (tget s.meas.recs d []).length).map fun n =>
        match (tget s.meas.recs d [])[n]? with
        | some r => melRecord 3 (17 + 2 * d) d n r.addr r.len r.time r.root
        | none => []

/-- R448: the measurement log. -/
def melRecords (s : State) : List (List Byte) :=
  ([1, 2, 3, 4, 5, 6].map fun i => melRecord 1 i 0xFF i 0 0 s.sec.bootAt (s.sec.boot.getD (i - 1) [])) ++ melDie s 0
    ++ melDie s 1

/-- R450: the log as SPDM carries it: one entry to a record. -/
def melBytes (s : State) : List Byte :=
  let rs := melRecords s
  let es := (List.range rs.length).flatMap fun n =>
    leBytes 4 (n + 1) ++ leBytes 1 (byteAt (rs.getD n []) 1) ++ zeros 3 ++ leBytes 1 0x89 ++ leBytes 2 128 ++ rs.getD n []
  leBytes 4 rs.length ++ leBytes 4 es.length ++ zeros 8 ++ es

/-! ### The boot (R439, R442) -/

/-- R448: the boot records of the measurement log. -/
def bootRecords (s : State) : State :=
  modSec (fun c => { c with bootAt := s.now, boot := [1, 2, 3, 4, 5, 6].map (bootDigest s) }) s

/-- R439, R509, R511: both cores leave the boot ROM: the first to claim with a valid image owns. -/
def bootCores (b : BootIn) (s : State) : State :=
  let p := s.sec.pref
  let okOf (c : Nat) : Bool × Bool := slotsOk s (if c = 0 then b.coreA else b.coreB)
  let sl (c : Nat) : Option Nat := bootSlot p (okOf c)
  let c := if (sl b.first.val).isSome then b.first.val else 1 - b.first.val
  let ok := okOf c
  let sn := odSet (odSet s oPROFILE_PINS s.mod.pins.profSel) oSLOT_ID s.mod.pins.slotId
  let s0 := modSec (fun x => { x with running := none }) { sn with mod := { sn.mod with owner := none } }
  match sl c with
  | none => bootRecords (odSet (setCore 0 4 (setCore 1 4 s0)) oBOOT_STATUS (badSlots p ok))
  | some k =>
    let s1 := ownBy c 2 (setCore (1 - c) (if (sl (1 - c)).isSome then 1 else 4) s0)
    let s2 := runSlot k (badSlots p ok) { s1 with mod := { s1.mod with everOwned := true } }
    let s3 := if k ≠ p then logEvent evBOOT_FALLBACK (0x4010 + c) 0 k noCmd s2 else s2
    nmtBoot true (coldProfile s.mod.pins.profSel (bootRecords s3))

/-- R442: the staged slot becomes the preferred one; in RECOVERY both cores boot again at once. -/
def wActivate (v : Nat) (b : BootIn) (s : State) : Nat × State :=
  if v = 0 then (0, s)
  else if odv s oFW_STAGE_STATE ≠ 2 then (0x0585, s)
  else
    let s1 := modSec (fun c => { c with pref := stagedSlot s }) s
    (0, if inRecovery s then measChange (bootCores b s1) else s1)

def execFwActivate (path : Fin 4) (v : Nat) (b : BootIn) (s : State) : Host.Outcome State Fault Refusal :=
  .next (namedWrite path.val oFW_ACTIVATE v (wActivate v b) s)

/-! ### Measuring a range (R446) -/

/-- R446: the code of a MEASURE_RANGE request. -/
def rangeCode (s : State) (a n : Nat) : Nat :=
  if a % 64 ≠ 0 ∨ n % 64 ≠ 0 ∨ n < 64 ∨ 618475290624 < n then 0x01D1
  else if inMap a n = false then 0x0160
  else if addrLevel a ≠ addrLevel (a + n - 1) ∨ addrDie a ≠ addrDie (a + n - 1) then 0x01D1
  else if isReady s = false ∨ regionState s (addrDie a) = 2 then 0x0590
  else if windowOff s a n then 0x0542
  else if (tfind s.meas.measuring (addrDie a)).isSome then 0x0586
  else if 1024 ≤ (tget s.meas.recs (addrDie a) []).length then 0x0587
  else 0

/-- R446, R447: a range is accepted for measurement. -/
def rangeStart (a n : Nat) (s : State) : State :=
  regionLoaded (addrDie a) { s with meas := { s.meas with measuring := tput s.meas.measuring (addrDie a) (a, n) } }

/-- R446: the leaves of a range: blocks of 64 KiB. -/
def rangeLeaves : Nat → List Byte → List (List Byte)
  | 0, _ => []
  | n + 1, bs => sha (0 :: bs.take 65536) :: rangeLeaves n (bs.drop 65536)

/-- The least `n` with `m ≤ 2 ^ n`. -/
def log2Up (m : Nat) : Nat := if m ≤ 1 then 0 else (m - 1).log2 + 1

/-- R446: the root of a range. -/
def rangeRoot (bs : List Byte) : List Byte :=
  let m := ceilDiv bs.length 65536
  treeRoot (log2Up m) (rangeLeaves m bs ++ List.replicate (2 ^ log2Up m - m) (zeros 64))

/-- R187, R188: the read of a range by the tree-hash engine, which belongs to no command: corrections, and a record of each
uncorrectable error; the digest is of what the memory holds. -/
def rangeRead (a n : Nat) (s : State) : State :=
  let s1 := touchChannel a n (correctIn a n s)
  match ueRead s a n with
  | some m => ueRecord m noCmd s1
  | none => s1

/-- R446, R448: the engine of a die has read its range: W is extended and the log has a record. -/
def rangeDone (d : Nat) (s : State) : State :=
  match tfind s.meas.measuring d with
  | none => s
  | some (a, n) =>
    let root := rangeRoot (memRead s.mem a n)
    let w := sha (tget s.meas.w d (zeros 64) ++ sha ([2] ++ leBytes 8 a ++ leBytes 8 n ++ root))
    let s0 := rangeRead a n s
    let s1 := { s0 with meas := { s.meas with
      since := true, measuring := tdel s.meas.measuring d, w := tput s.meas.w d w
      recs := tput s.meas.recs d (tget s.meas.recs d [] ++ [⟨a, n, s.now, root⟩]) } }
    measChange (odAdd s1 (oWEIGHT_RANGES + d) 1)

def execMeasureRangeComplete (die : Fin 2) (s : State) : Host.Outcome State Fault Refusal := .next (rangeDone die.val s)

/-! ### SPDM (R449 to R451) -/

def connOf (s : State) (tr : Nat) : ConnSt := tget s.sec.conns tr ⟨0, none, 0, []⟩
def setConn (tr : Nat) (c : ConnSt) (s : State) : State := modSec (fun x => { x with conns := tput x.conns tr c }) s

/-- R449: an answer leaves on its transport. -/
def spdmSend (tr : Nat) (bs : List Byte) (s : State) : State :=
  let s1 := emit (.spdm tr bs) s
  if tr = 1 then { s1 with dom := tput s1.dom oSPDM_RESPONSE bs } else s1

/-- An ERROR response: 1 InvalidRequest, 4 UnexpectedRequest, 5 Unspecified, 7 UnsupportedRequest. -/
def spdmError (tr code : Nat) (s : State) : State := spdmSend tr [0x13, 0x7F, BitVec.ofNat 8 code, 0] s

/-- R451, R504: the transport reaches a management core that answers. -/
def spdmOpen (s : State) (tr : Nat) : Bool :=
  s.mod.owner.isSome && (if tr = 0 then s.hst.linkUp else !inRecovery s)

/-- A request that its connection's state admits, or an UnexpectedRequest. -/
def spdmDo (tr need : Nat) (f : State → State) (s : State) : State :=
  if spdmOpen s tr = false then s
  else if (connOf s tr).stage ≠ need then spdmError tr 4 s
  else f s

/-- R449: GET_VERSION: 1.3 only; the connection starts afresh. -/
def spdmVersion (tr : Nat) (s : State) : State :=
  if spdmOpen s tr = false then s
  else spdmSend tr [0x10, 0x04, 0, 0, 0, 1, 0x00, 0x13] (setConn tr ⟨1, none, 0, []⟩ s)

/-- R449, R450: CAPABILITIES: CTExponent 16, and CERT, CHAL, MEAS signed, SET_CERT, CSR and MEL. -/
def spdmCaps (tr : Nat) (s : State) : State :=
  spdmSend tr ([0x13, 0x61, 0, 0, 0, 16, 0, 0] ++ leBytes 4 0x01180016 ++ leBytes 4 262144 ++ leBytes 4 262144)
    (setConn tr { connOf s tr with stage := 2 } s)

/-- R449: ALGORITHMS: RSAPSS-4096, SHA-512 twice and DMTF, where the requester offers them. -/
def spdmAlgs (tr asym hash mhash : Nat) (s : State) : State :=
  if bitAt asym 6 && bitAt hash 2 && bitAt mhash 3 then
    spdmSend tr ([0x13, 0x63, 0, 0] ++ leBytes 2 36 ++ [1, 0] ++ leBytes 4 8 ++ leBytes 4 0x40 ++ leBytes 4 4 ++ zeros 11
      ++ [1, 0, 0, 0, 0]) (setConn tr { connOf s tr with stage := 3 } s)
  else spdmError tr 1 s

/-- R435, R450: the chain of a slot, empty for none. -/
def slotChain (s : State) (k : Nat) : List Byte :=
  if k = 0 then (if isAC s then Config.chain0 else []) else if k = 1 then s.sec.slot1 else []
/-- Whether a slot holds a chain. -/
def hasChain (s : State) (k : Nat) : Bool := if k = 0 then isAC s else k == 1 && !s.sec.slot1.isEmpty
def slotMask (s : State) : Nat := b2n (hasChain s 0) + 2 * b2n (hasChain s 1)

/-- R450: DIGESTS. -/
def spdmDigests (tr : Nat) (s : State) : State :=
  spdmSend tr ([0x13, 0x01, 3] ++ leBytes 1 (slotMask s)
    ++ ([0, 1].filter (hasChain s)).flatMap fun k => sha (slotChain s k)) s

/-- R450: CERTIFICATE: a part of a chain. -/
def spdmCert (tr slot off len : Nat) (s : State) : State :=
  let ch := slotChain s slot
  if hasChain s slot = false ∨ ch.length < off then spdmError tr 1 s
  else
    let n := min len (ch.length - off)
    spdmSend tr ([0x13, 0x02] ++ leBytes 1 slot ++ [0] ++ leBytes 2 n ++ leBytes 2 (ch.length - off - n)
      ++ (ch.drop off).take n) s

/-- R436, R450: a response waits for its signature, which covers the requester's nonce before it. -/
def spdmSign (tr : Nat) (req body : List Byte) (q : Option (List Byte × List Byte)) (s : State) : State :=
  if s.sec.dik then secAdd (.spdm tr req body q) s else spdmError tr 5 s

/-- A fresh random of 32 bytes. -/
def nonce32 (k : Nat) : List Byte := leBytes 32 (Config.freeWord k 0)

/-- R450: CHALLENGE, with the digest of every measurement where one is asked for. -/
def spdmChallenge (tr slot : Nat) (summary : Bool) (c : ChalReq) (s : State) : State :=
  if hasChain s slot = false then spdmError tr 1 s
  else
    let (k, s1) := freeNext s
    spdmSign tr c.nonce ([0x13, 0x03] ++ leBytes 1 slot ++ leBytes 1 (slotMask s) ++ sha (slotChain s slot) ++ nonce32 k
      ++ (if summary then sha (measIndices.flatMap (measBlock s)) else []) ++ zeros 2 ++ padTo 8 c.ctx) none s1

/-- R443, R450: MEASUREMENTS. -/
def spdmMeas (tr : Nat) (r : MeasReq) (s : State) : State :=
  let i := r.index.val
  let is := if i = 255 then measIndices else measIndices.filter (· == i)
  if i ≠ 0 ∧ is = [] then spdmError tr 1 s
  else if r.sign ∧ hasChain s r.slot.val = false then spdmError tr 1 s
  else
    let rec_ := is.flatMap (measBlock s)
    let (k, s1) := freeNext s
    let body := [0x13, 0x60] ++ leBytes 1 (if i = 0 then measIndices.length else 0) ++ leBytes 1 r.slot.val
      ++ leBytes 1 is.length ++ leBytes 3 rec_.length ++ rec_ ++ nonce32 k ++ zeros 2 ++ padTo 8 r.ctx
    if r.sign then spdmSign tr r.nonce body (some (r.nonce, bootBlocks s)) s1 else spdmSend tr body s1

/-- R448, R450: the measurement log. -/
def spdmMel (tr off len : Nat) (s : State) : State :=
  let b := melBytes s
  if b.length < off then spdmError tr 1 s
  else
    let n := min len (b.length - off)
    spdmSend tr ([0x13, 0x6F, 0, 0] ++ leBytes 4 n ++ leBytes 4 (b.length - off - n) ++ (b.drop off).take n) s

/-- R450: a CSR for the DIK. -/
def spdmCsr (tr : Nat) (s : State) : State :=
  spdmSign tr [] ([0x13, 0x6D, 0, 0] ++ leBytes 2 (Config.csrBody.length + 512) ++ zeros 2 ++ Config.csrBody) none s

/-- R450: the engine has verified the chain for slot 1, whose leaf holds the DIK public key. -/
def certSet (tr : Nat) (chain : List Byte) (ok : Bool) (anchor : List Byte) (s : State) : State :=
  if ok = false then { spdmError tr 1 s with resp := 0x0467 }
  else
    let s1 := modSec (fun c => { c with slot1 := chain }) s
    let s2 := { s1 with dom := tput s1.dom oSITE_ANCHOR_DIGEST (padTo 64 anchor), resp := 0 }
    spdmSend tr [0x13, 0x6E, 1, 0] (logSimple evCERT_SET srcModule s2)

/-- R436, R450: SET_CERTIFICATE: slot 1 only; the chain waits for its check. -/
def spdmSetCert (tr slot : Nat) (chain : List Byte) (ok : Bool) (anchor : List Byte) (s : State) : State :=
  if slot ≠ 1 ∨ chain = [] then spdmError tr 1 s else secAdd (.setCert tr chain ok anchor) s

/-- R450, R453: a signed answer leaves, its signature over the requester's nonce and the answer; measurements become the
transport's last quote. -/
def spdmSigned (tr : Nat) (req body : List Byte) (q : Option (List Byte × List Byte)) (s : State) : State :=
  let s1 := match q with
    | some (n, b) => setConn tr { connOf s tr with nonce := some n, at_ := s.now, blocks := b } s
    | none => s
  spdmSend tr (body ++ padTo 512 (Config.sign 0 (req ++ body))) s1

/-! ### Vendor requests (R452, R453) -/

/-- R452: a vendor response: CMD, the status code, and the fields after it. -/
def vendorSend (tr cmd code : Nat) (fields : List Byte) (s : State) : State :=
  spdmSend tr ([0x13, 0x7E, 0, 0] ++ leBytes 2 4 ++ [4] ++ leBytes 4 0xF1C5 ++ leBytes 2 (4 + fields.length)
    ++ leBytes 2 cmd ++ leBytes 2 code ++ fields) { s with resp := code }

/-- R453: a ring or completion ring bound to a context is not DISABLED. -/
def ctxInUse (s : State) (x : Nat) : Bool :=
  (s.hst.rings.any fun e => e.2.st != 0 && rgConf e.2 && rgCtx e.2 == x)
    || (s.hst.cqs.any fun e => e.2.on && cqConf e.2 && cqCtx e.2 == x)

/-- R453: QUOTE_NONCE names the last quote of the transport, which is current. -/
def quoteFresh (s : State) (tr : Nat) (nonce : List Byte) : Bool :=
  let c := connOf s tr
  c.nonce == some nonce && decide (s.now ≤ c.at_ + 60000000000) && c.blocks == bootBlocks s

/-- R453: the code of CONTEXT_SET before its keys are unwrapped. -/
def ctxEarly (s : State) (tr : Nat) (r : CtxReq) : Nat :=
  if confidential s = false then 0x0588
  else if 63 < r.ctx ∨ r.rsv ≠ 0 then 0x01D2
  else if ctxInUse s r.ctx then 0x0583
  else if quoteFresh s tr r.nonce = false then 0x0464
  else 0

/-- R453: the code of CONTEXT_SET. -/
def ctxCode (s : State) (tr : Nat) (r : CtxReq) : Nat :=
  if ctxEarly s tr r ≠ 0 then ctxEarly s tr r else if r.keys = none then 0x0463 else 0

/-- R452: the answer of CONTEXT_SET. -/
def ctxAnswer (tr code : Nat) (r : CtxReq) (s : State) : State :=
  vendorSend tr 1 code (leBytes 1 r.ctx ++ leBytes 1 (ctxAt s r.ctx).st) s

/-- R305, R453: CONTEXT_SET with its keys unwrapped: new keys, whose blocks and indices count from 0. -/
def contextKeyed (tr : Nat) (r : CtxReq) (s : State) : State :=
  let c := ctxCode s tr r
  if c ≠ 0 then ctxAnswer tr c r s
  else
    let ks := r.keys.getD (0, 0)
    let s1 := setCtx r.ctx ⟨1, r.chan % 2 ^ 32, ks.1, ks.2, 0, 0, (ctxAt s r.ctx).fails, []⟩ s
    ctxAnswer tr 0 r { s1 with meas := { s1.meas with since := true } }

/-- R436, R453: CONTEXT_SET: refused, or it waits for the engine to unwrap its keys. -/
def contextSet (tr : Nat) (r : CtxReq) (s : State) : State :=
  if ctxEarly s tr r ≠ 0 then ctxAnswer tr (ctxEarly s tr r) r s else secAdd (.context tr r) s

/-- R453: CONTEXT_CLEAR. -/
def contextClear (tr ctx rsv : Nat) (s : State) : State :=
  let c := if 63 < ctx ∨ rsv ≠ 0 then 0x01D2 else if ctxInUse s ctx then 0x0583 else 0
  let s1 := if c = 0 then setCtx ctx { ctxAt s ctx with st := 0, keyIn := 0, keyOut := 0 } s else s
  vendorSend tr 2 c (leBytes 1 ctx ++ leBytes 1 (ctxAt s1 ctx).st) s1

/-- R446, R452: MEASURE_RANGE. -/
def measureRange (tr a n : Nat) (s : State) : State :=
  let c := rangeCode s a n
  if c = 0 then
    vendorSend tr 3 0 (leBytes 1 (addrDie a) ++ leBytes 2 (tget s.meas.recs (addrDie a) []).length) (rangeStart a n s)
  else vendorSend tr 3 c (zeros 3) s

/-! ### Requests as they arrive, and the engine's results (R436, R451) -/

/-- R451: the ERROR code of a request that cannot be served. -/
def flawCode (f : SpdmFlaw) : Nat :=
  match f with | .code => 7 | .form => 1 | .version => 0x41

/-- R449 to R453: a request is served. -/
def spdmServe (tr : Nat) (r : SpdmReq) (s : State) : State :=
  match r with
  | .version => spdmVersion tr s
  | .caps => spdmDo tr 1 (spdmCaps tr) s
  | .algs asym hash mhash => spdmDo tr 2 (spdmAlgs tr asym hash mhash) s
  | .digests => spdmDo tr 3 (spdmDigests tr) s
  | .cert slot off len => spdmDo tr 3 (spdmCert tr slot off len) s
  | .chal slot summary c => spdmDo tr 3 (spdmChallenge tr slot summary c) s
  | .meas q => spdmDo tr 3 (spdmMeas tr q) s
  | .mel off len => spdmDo tr 3 (spdmMel tr off len) s
  | .csr => spdmDo tr 3 (spdmCsr tr) s
  | .setCert slot chain ok anchor => spdmDo tr 3 (spdmSetCert tr slot chain ok anchor) s
  | .ctxSet q => spdmDo tr 3 (contextSet tr q) s
  | .ctxClear ctx rsv => spdmDo tr 3 (contextClear tr ctx rsv) s
  | .range a n => spdmDo tr 3 (measureRange tr a n) s
  | .bad f => if spdmOpen s tr then spdmError tr (flawCode f) s else s

/-- R451, R510: while no core owns, a request waits in its transport's buffer. -/
def spdmWaits (s : State) (tr : Nat) : Bool := s.mod.auxUp && s.mod.owner.isNone && (tr != 0 || s.hst.linkUp)
def spdmArrive (tr : Nat) (r : SpdmReq) (s : State) : State :=
  if spdmWaits s tr then modSec (fun c => { c with held := c.held ++ [(tr, r)] }) s else spdmServe tr r s

/-- R451: a core that has come to own answers the requests that wait, oldest first. -/
def drainSpdm (s : State) : State :=
  if s.mod.owner = none then s
  else s.sec.held.foldl (fun s x => spdmServe x.1 x.2 s) (modSec (fun c => { c with held := [] }) s)

/-- What an operation of the engine gives. -/
def opDone (o : SecOp) (s : State) : State :=
  match o with
  | .spdm tr req body q => spdmSigned tr req body q s
  | .setCert tr chain ok anchor => certSet tr chain ok anchor s
  | .context tr r => contextKeyed tr r s
  | .cert p nonce ok => certDone p nonce ok s
  | .offer p phase nonce effective => offerNow p phase nonce effective s
  | .install p o => installKey p o s

/-- R436: the engine's oldest operation is done, and the next begins. -/
def engineDone (s : State) : State :=
  match s.sec.ops with
  | [] => s
  | o :: r => opDone o (secFill r s.sec.wait s)

def execGetVersion (tr : Fin 2) (s : State) : Host.Outcome State Fault Refusal := .next (spdmArrive tr.val .version s)
def execGetCapabilities (tr : Fin 2) (s : State) : Host.Outcome State Fault Refusal := .next (spdmArrive tr.val .caps s)
def execNegotiateAlgorithms (tr : Fin 2) (asym hash mhash : Fin 4294967296) (s : State) :
    Host.Outcome State Fault Refusal := .next (spdmArrive tr.val (.algs asym.val hash.val mhash.val) s)
def execGetDigests (tr : Fin 2) (s : State) : Host.Outcome State Fault Refusal := .next (spdmArrive tr.val .digests s)
def execGetCertificate (tr : Fin 2) (slot : Fin 16) (off len : Fin 65536) (s : State) : Host.Outcome State Fault Refusal :=
  .next (spdmArrive tr.val (.cert slot.val off.val len.val) s)
def execChallenge (tr : Fin 2) (slot : Fin 16) (summary : Bool) (c : ChalReq) (s : State) :
    Host.Outcome State Fault Refusal := .next (spdmArrive tr.val (.chal slot.val summary c) s)
def execGetMeasurements (tr : Fin 2) (r : MeasReq) (s : State) : Host.Outcome State Fault Refusal :=
  .next (spdmArrive tr.val (.meas r) s)
def execGetMeasurementExtensionLog (tr : Fin 2) (off len : Fin 4294967296) (s : State) : Host.Outcome State Fault Refusal :=
  .next (spdmArrive tr.val (.mel off.val len.val) s)
def execGetCsr (tr : Fin 2) (s : State) : Host.Outcome State Fault Refusal := .next (spdmArrive tr.val .csr s)
def execSetCertificate (tr : Fin 2) (slot : Fin 16) (chain : List Byte) (ok : Bool) (anchor : List Byte) (s : State) :
    Host.Outcome State Fault Refusal := .next (spdmArrive tr.val (.setCert slot.val chain ok anchor) s)
def execSpdmUnsupportedRequest (e : SpdmBad) (s : State) : Host.Outcome State Fault Refusal :=
  .next (spdmArrive e.tr.val (.bad e.flaw) s)
def execContextSet (tr : Fin 2) (r : CtxReq) (s : State) : Host.Outcome State Fault Refusal :=
  .next (spdmArrive tr.val (.ctxSet r) s)
def execContextClear (tr : Fin 2) (ctx rsv : Nat) (s : State) : Host.Outcome State Fault Refusal :=
  .next (spdmArrive tr.val (.ctxClear ctx rsv) s)
def execMeasureRange (tr : Fin 2) (addr len : Nat) (s : State) : Host.Outcome State Fault Refusal :=
  .next (spdmArrive tr.val (.range addr len) s)
def execSecurityEngineOpComplete (s : State) : Host.Outcome State Fault Refusal := .next (engineDone s)

/-! ### Link authentication (R454) -/

/-- R454: LINK_AUTH_MODE. -/
def wLinkAuth (v : Nat) (s : State) : Nat × State :=
  if (v = 0 ∧ isAC s = false) ∨ (v = 1 ∧ s.sec.slot1 = []) ∨ (v = 2 ∧ (confidential s ∨ odv s oSEC_MODE = 2)) then
    (0x0465, s)
  else if (List.range 16).all fun p => portState s p == 0 then (0, odSet s oLINK_AUTH_MODE v)
  else (0x0550, s)

def execLinkAuthModeWrite (path : Fin 4) (v : Nat) (s : State) : Host.Outcome State Fault Refusal :=
  .next (namedWrite path.val oLINK_AUTH_MODE v (wLinkAuth v) s)

end Sys2Proof.Machine
end

