-- ==== Sys2Proof/Machine/Primer.lean ====
section
/-! DEFINITION. Primer and the change of confidential mode (R457, R460 to R464). -/
namespace Sys2Proof.Machine

/-- R444, R460: every graph is discarded and unloaded, with its records of the measurement log; a run completes with a code. -/
def dropGraphs (code : Nat) (s : State) : State :=
  let s1 := s.graphs.foldl (fun s e =>
    let s1 := freeGraph e.1 (stopGraph e.1 code s)
    if e.2.loading.isSome then s1 else measUnload (graphTiles e.2) s1) s
  { s1 with mesh := ⟨[], []⟩ }

/-- R298, R460, R508: every fetched command is discarded with a code and completes, under the context in force; outside D0
its completion waits. -/
def dropCommands (code : Nat) (s : State) : State :=
  let s1 := dropHostWork s
  let s2 := s1.cmds.foldl (fun s c => if c.done = none then finish c.ring c.idx (resOf code) s else s) s1
  let s3 := if mayComplete s2 then completeAll (byFinish s2.cmds) s2 else s2
  if mayComplete s2 then { s3 with cmds := [] } else s3

/-- R460: every command ring and completion ring is DISABLED. -/
def ringsOff (s : State) : State :=
  { s with hst := { s.hst with
    rings := s.hst.rings.map fun e => (e.1, { e.2 with st := 0 })
    cqs := s.hst.cqs.map fun e => (e.1, { e.2 with on := false }) } }

/-- R444, R447, R448: a region begins to reset: its program leaves, W and its log section are cleared at once. -/
def regionClear (d : Nat) (s0 : State) : State :=
  let s := if melDie s0 d = [] then s0 else measChange s0
  odSet (odSet { s with meas := { s.meas with
    progAt := s.meas.progAt.filter fun e => dieOf e.1 != d
    w := tdel s.meas.w d, recs := tdel s.meas.recs d, measuring := tdel s.meas.measuring d } }
    (oREGION_STATE + d) 2) (oWEIGHT_RANGES + d) 0

/-- R447: a region's reset is complete. -/
def regionDone (d : Nat) (s : State) : State := measChange (odSet s (oREGION_STATE + d) 0)

/-- R334: the learned table is cleared, with what has been attributed since the last recompute. -/
def forgetShares (f : FloatSt) : FloatSt := { f with learned := [], opE := [], opT := [] }

/-- R338, R461: the level that Primer holds. -/
def primerLevel (s : State) : Nat :=
  let h := odv s oFILLER_HOLD_W
  max (odv s oPRIMER_MIN_W * 1000000000) (if h = 0 then s.flt.pRef.getD s.flt.pEst else h * 1000000000)

/-- R460: Primer is requested. -/
def primerBegin (s : State) : State :=
  let s1 := { ringsOff (dropCommands 0x0580 (dropGraphs 0x0580 s)) with cmds := [] }
  let s2 := disarm (regionClear 1 (regionClear 0 s1))
  let s3 := modFlt (fun f => { f with hold := some (primerLevel s) }) (modSec (fun c => { c with check := none, keyed := [] }) s2)
  odSet (setModState 3 (setCapBit 11 true s3)) oPRIMER_STATE 1

/-- R460: PRIMER_START. -/
def wPrimerStart (v : Nat) (s : State) : Nat × State :=
  if v = 0 then (0, s)
  else if modState s = 3 then (0x0581, s)
  else if isReady s = false then (0x0590, s)
  else (0, primerBegin s)

/-- R457: CONF_MODE_REQUEST. -/
def wConfMode (v : Nat) (s : State) : Nat × State :=
  if v = 1 ∧ isAC s = false then (0x0460, s)
  else if v = 1 ∧ odv s oLINK_AUTH_MODE = 2 then (0x0466, s)
  else if modState s = 3 then (0x0581, s)
  else if v = odv s oSEC_MODE then (0, s)
  else if isReady s = false then (0x0590, s)
  else
    let s1 := primerBegin s
    (0, odSet (modSec (fun c => { c with prev := odv s oSEC_MODE }) s1) oSEC_MODE (if v = 1 then 2 else 3))

/-- R462: a tile erased: what it holds of power stays. -/
def tileErased (x : TileSt) : TileSt :=
  { TileSt.initial with
    mode := x.mode, credit := x.credit, waking := x.waking, filler := x.filler, fillAt := x.fillAt, pLast := x.pLast }

/-- R462: a packet that this module sent or that is addressed to it; others are in transit, and stay. -/
def ownPacket (s : State) (q : QPkt) : Bool := q.pkt.src == odv s oNODE_ID || q.pkt.dst == odv s oNODE_ID

/-- R212, R462: the buffers of the switch and of the remote operations are erased, and their slots given back. -/
def eraseSwitch (s : State) : State :=
  (s.fab.sw.filter (ownPacket s) ++ s.fab.ej).foldl (fun s q => freeSlots q s)
    { s with fab := { s.fab with sw := s.fab.sw.filter fun q => !ownPacket s q, ej := [] } }

/-- R462: the approach ends and Primer proper begins: tile SRAM, program stores, queues, stacked SRAM and the buffers of the
switch and the engines are erased, and every live port changes its keys. -/
def primerRun (s : State) : State :=
  if odv s oPRIMER_STATE ≠ 1 then s
  else
    let s1 := setCapBit 9 true (odSet (clearTenant s) oPRIMER_STATE 2)
    let s2 := eraseSwitch { s1 with
      tiles := s1.tiles.map fun e => (e.1, tileErased e.2)
      rem := { s1.rem with fes := [], slots := [], replies := [], repSeq := [], colls := [], early := [] } }
    let up := (List.range 16).filter fun p => portState s p == 6
    let s3 := modSec (fun c => { c with keyed := up.map fun p => (p, pv s oKEY_CHANGES p) }) s2
    clearDiag (forceKeys (dropCells (storeCell 0 0) (288 * 2 ^ 20) (zeroFill 0 0x10000000000 s3)))

/-- R462, R463: the erase check, with whether every level's erase count is whole: LPDDR5X is zero, the regions are EMPTY and
what the tenant set up is gone. -/
def primerCheck (whole : Bool) (s : State) : State :=
  if odv s oPRIMER_STATE ≠ 2 ∨ s.sec.check.isSome then s
  else
    let stale := s.sec.keyed.any fun e => pv s oKEY_CHANGES e.1 == e.2
    let c := if whole = false then 1 else if stale then 2 else 0
    let s1 := modSec (fun x => { x with check := some c, keyed := [] }) (zeroFill 0x10000000000 0x12000000000 s)
    let s2 := modFlt forgetShares { s1 with
      hst := { s1.hst with ctxs := [], sets := [] }
      rem := { s1.rem with windows := [], maps := [] } }
    regionDone 1 (regionDone 0 (setStale [] s2))

/-- R466: the code of a cause for which Primer fails: the manual names none, so it is left open (log entry 20). -/
def primerCause (c : Nat) : Nat := if c = 0 then 0 else Config.freeWord 0 (20 + c) % 2 ^ 16

/-- R457, R462, R463: Primer ends: its result is recorded, SEC_MODE takes its value and the module is READY. -/
def primerFinish (s : State) : State :=
  match s.sec.check with
  | none => s
  | some c =>
    let m := odv s oSEC_MODE
    let m1 := if m < 2 then m else if c = 0 then 3 - m else s.sec.prev
    let s1 := modSec (fun x => { x with check := none, last := if c = 0 then 1 else 2 }) (odSet s oSEC_MODE m1)
    let s2 := odSet (odAdd32 s1 oPRIMER_COUNT 1) oPRIMER_LAST_RESULT (primerCause c)
    let s3 := if c = 0 then { s2 with meas := { s2.meas with since := false } } else s2
    let s4 := logEvent evPRIMER_RESULT srcModule c (primerCause c) noCmd s3
    let s5 := modFlt (fun f => { f with hold := none }) (setCapBit 9 (m1 == 1) (setCapBit 11 false s4))
    flushMsix (setModState 2 (odSet s5 oPRIMER_STATE 0))

def execPrimerStart (path : Fin 4) (v : Nat) (s : State) : Host.Outcome State Fault Refusal :=
  .next (namedWrite path.val oPRIMER_START v (wPrimerStart v) s)
def execConfModeRequest (path : Fin 4) (v : Nat) (s : State) : Host.Outcome State Fault Refusal :=
  .next (namedWrite path.val oCONF_MODE_REQUEST v (wConfMode v) s)
def execPrimerApproachEnd (s : State) : Host.Outcome State Fault Refusal := .next (primerRun s)
def execPrimerEraseCheck (whole : Bool) (s : State) : Host.Outcome State Fault Refusal := .next (primerCheck whole s)
def execPrimerEnd (s : State) : Host.Outcome State Fault Refusal := .next (primerFinish s)

end Sys2Proof.Machine
end

