-- ==== Sys2Proof/Machine/Trowel.lean ====
section
/-! DEFINITION. Trowel: the switching period, the control law, phases, soft start, protection, telemetry and the two engines
(R360 to R367, R374 to R396). -/
namespace Sys2Proof.Machine

/-! ### The engines -/

/-- R395: an engine's state: 0 OFF, 1 RESYNC, 2 STANDBY, 3 OWNER, 4 FAILED. -/
def engState (s : State) (e : Nat) : Nat := odv s (oTROWEL_STATE_A + e)
def setEng (e v : Nat) (s : State) : State := odSet s (oTROWEL_STATE_A + e) v

/-- R395: the engine that drives. -/
def trwOwner (s : State) : Nat := odv s oTROWEL_OWNER

/-- R389: an engine computes in RESYNC, STANDBY and OWNER. -/
def engComputes (s : State) (e : Nat) : Bool := decide (1 ≤ engState s e ∧ engState s e ≤ 3)

def engRail (s : State) (e n : Nat) : ERail := tget (if e = 0 then s.trw.railsA else s.trw.railsB) n ERail.initial
def setEngRail (e n : Nat) (x : ERail) (s : State) : State :=
  modTrw (fun t => if e = 0 then { t with railsA := tput t.railsA n x } else { t with railsB := tput t.railsB n x }) s

/-- R395: the rails that an engine fault without a standby takes down: all of them. -/
def allRailsFault (src : Nat) (s : State) : State :=
  let bad := (List.range 11).filter fun n => railState s n == 1 || railState s n == 2 || railState s n == 5
  if mainUp s then faultStop bad src s else bad.foldl (fun s n => railStop n 0 s) s

/-- R395: an engine goes to FAILED; within 3,600 s of its automatic restart it stays there. -/
def engFailed (e : Nat) (s : State) : State :=
  let again : Bool := match tfind s.trw.autoAt e with | some t => decide (s.now < t + 3600000000000) | none => false
  modTrw (fun t => { t with held := if again ∧ e ∉ t.held then e :: t.held else t.held }) (setEng e 4 s)

/-- R391, R395: an engine's own fault. -/
def engineFault (e : Nat) (s : State) : State :=
  if engState s e = 3 then
    if engState s (1 - e) = 2 then modTrw (fun t => { t with due := true, handover := false }) (engFailed e s)
    else allRailsFault (0x4000 + e) (engFailed e s)
  else if engState s e = 2 then
    let s1 := logSimple evTROWEL_ENGINE_FAILED (0x4000 + e) (engFailed e s)
    if s.trw.due then allRailsFault (0x4000 + e) (modTrw (fun t => { t with due := false }) s1)
    else modTrw (fun t => { t with handover := false }) s1
  else if engState s e = 1 then engFailed e s
  else s

def execEngineSelfCheckFault (engine : Fin 2) (s : State) : Host.Outcome State Fault Refusal :=
  .next (engineFault engine.val s)

/-- R389: what is not mirrored restarts with a new owner: peak holds, averaging windows, shed timers, the hold-off and the
plausibility counts. -/
def restartWindows (e : Nat) (s : State) : State :=
  (List.range 11).foldl (fun s n =>
    setEngRail e n { engRail s e n with fails := 0 }
      (modRail n (fun r => { r with
        hold := false, low := false, hist := [], vSum := 0, iSum := 0, cnt := 0, phSum := [], fresh := true }) s))
    (modTrw (fun t => { t with busSum := 0, iinSum := 0, cnt := 0 }) s)

/-- R385: a rail is driven: SOFT_START, REGULATING or SOFT_STOP. -/
def drivenState (st : Nat) : Bool := st == 1 || st == 2 || st == 5

/-- R389: a new owner goes on from its own copy of what was mirrored to it: setpoint, target, ramp, attempts and active phases,
and the state of a rail that is driven in both. Phases that are retired stay so. -/
def adoptOwn (e n : Nat) (s : State) : State :=
  match (engRail s e n).mir with
  | none => s
  | some m =>
    let s1 := modRail n (fun r => { r with set_ := m.set_, tgt := m.tgt, ramp := m.ramp }) s
    if drivenState m.st && drivenState (railState s n) then
      let s2 := railPut oSTART_ATTEMPTS n m.tries (railPut oRAIL_STATE n m.st s1)
      showPhases n ((phasesOf n).foldl (fun s p =>
        if phaseSt s p = 4 ∨ phaseSt s p = 0 then s else setPhase p (if p ∈ m.act then 2 else 1) s) s2)
    else s1

/-- R391, R392: the standby takes over at the boundary and owns the stages with the old owner for up to 2 periods. Whether a
failed old owner goes on emitting is a free value. -/
def takeover (s : State) : State :=
  let old := trwOwner s
  let e := 1 - old
  if s.trw.due = false ∨ engState s e ≠ 2 then s
  else
    let (k, s0) := freeNext s
    let s1 := (List.range 11).foldl (fun s n => adoptOwn e n s)
      (restartWindows e (modTrw (fun t => { t with due := false, claim := some old, claimNo := k }) s0))
    let s2 := odAdd32 (odSet (setEng e 3 s1) oTROWEL_OWNER e) oTAKEOVERS 1
    let s3 := modFlt (fun f => { f with expectTo := max f.expectTo (s.now + 10000000) }) s2
    emcyEvent 0x5000 7 evTROWEL_TAKEOVER (logEvent evTROWEL_TAKEOVER (0x4000 + e) old 0 noCmd s3)

def execEngineTakeover (s : State) : Host.Outcome State Fault Refusal := .next (takeover s)

/-- R392: the stages block the old owner. -/
def execClaimOverlapEnd (s : State) : Host.Outcome State Fault Refusal :=
  .next (modTrw (fun t => { t with claim := none }) s)

/-- R395: the owning management core resets a failed engine, once within 3,600 s. -/
def engineRestart (e : Nat) (s : State) : State :=
  let recent : Bool := match tfind s.trw.autoAt e with | some t => decide (s.now < t + 3600000000000) | none => false
  if engState s e ≠ 4 ∨ e ∈ s.trw.held ∨ recent ∨ s.mod.owner = none then s
  else setEng e 1 (modTrw (fun t =>
    let u := { t with adopt := 0, autoAt := tput t.autoAt e s.now }
    if e = 0 then { u with railsA := [] } else { u with railsB := [] }) s)

def execEngineRestart (engine : Fin 2) (s : State) : Host.Outcome State Fault Refusal := .next (engineRestart engine.val s)

/-- R396: a planned handover, at the next boundary. -/
def wHandover (v : Nat) (s : State) : Nat × State :=
  if v = 0 then (0, s)
  else if engState s (1 - trwOwner s) ≠ 2 then (0x05B3, s)
  else (0, modTrw (fun t => { t with handover := true }) s)

def execTrowelHandover (path : Fin 4) (v : Nat) (s : State) : Host.Outcome State Fault Refusal :=
  .next (namedWrite path.val oTROWEL_HANDOVER v (wHandover v) s)

/-- R396: the accepted handover takes effect, without overlap. -/
def handOver (s : State) : State :=
  let o := trwOwner s
  if s.trw.handover = false then s
  else
    let s1 := modTrw (fun t => { t with handover := false }) s
    if engState s o = 3 ∧ engState s (1 - o) = 2 then
      (List.range 11).foldl (fun s n => adoptOwn (1 - o) n s)
        (restartWindows (1 - o) (odSet (setEng (1 - o) 3 (setEng o 2 s1)) oTROWEL_OWNER (1 - o)))
    else s1

/-! ### Tolerances (R375) -/

/-- A voltage in mV as a bound on 1,000 × a difference in 2^-24 V. -/
def mvBound (mv : Nat) : Int := (mv : Int) * 2 ^ 24

/-- R375: `|y − t|` within a band: in mV for the core and SRAM rails, in percent of the target for the others. -/
def within (n : Nat) (y t : Int) (core sram pct : Nat) : Bool :=
  let d : Int := if y < t then t - y else y - t
  if n < 2 then decide (1000 * d ≤ mvBound core) else if n < 4 then decide (1000 * d ≤ mvBound sram)
  else decide (100 * d ≤ (pct : Int) * t)

def staticOk (n : Nat) (y t : Int) : Bool := within n y t 5 5 1
def dynamicOk (n : Nat) (y t : Int) : Bool := within n y t 30 25 3

/-- R375: under-voltage. -/
def underVolt (n : Nat) (y t : Int) : Bool :=
  if n < 2 then decide (mvBound 60 < 1000 * (t - y)) else if n < 4 then decide (mvBound 50 < 1000 * (t - y))
  else decide (8 * t < 100 * (t - y))

/-- R376: the engines' readings differ by more than 10 mV on a core rail, 2 % on another. -/
def sensesDiffer (n : Nat) (a b t : Int) : Bool :=
  let d : Int := if a < b then b - a else a - b
  if n < 2 then decide (mvBound 10 < 1000 * d) else decide (2 * t < 100 * d)

/-- R363: 0.1 mV in 2^-24 V, to nearest. -/
def voltLsb (v : Nat) : Int := ((v * 2 ^ 24 + 5000) / 10000 : Nat)

/-- R361, R363: the length of a switching period, in ns. -/
def periodNs (s : State) : Nat := 1000000000 / max 1 (odv s oPWM_FREQ_HZ)

/-- R377: a setpoint moves toward its target by at most `d`. -/
def slewTo (d x t : Int) : Int := if x < t then min t (x + d) else max t (x - d)

/-! ### Regions (R366, R367) -/

/-- R366: band P. -/
def bandP (inst act : Nat) : Nat := if inst = 1 then 3 else ceilDiv (4 * act) inst - 1

/-- R366: band C from the rail current and the active phases, with 1 A of hysteresis downward; 0 with no phase active. -/
def bandC (c act : Nat) (yi : Int) : Nat :=
  let a : Int := act
  if act = 0 then 0 else ([1, 2, 3].filter fun (i : Nat) =>
    if i ≤ c then decide ((8 * (i : Int) - 1) * 65536 * a ≤ yi) else decide (8 * (i : Int) * 65536 * a ≤ yi)).length

/-- R366: band V. -/
def bandV (v vin : Nat) : Nat := if 5100 ≤ vin then 1 else if vin < 5050 then 0 else v

/-- R367: an engine's rail changes to the set of a bank and region, its integrator re-seeded; whether the clamp changed
it. -/
def reseed (s : State) (b n reg : Nat) (set_ : Int) (x : ERail) : ERail × Bool :=
  let g := gainI s b n reg
  let z := fix24 (x.dv * 2 ^ 24 - g 0x48 * (set_ - x.vhat) + g 0x4C * x.ihl)
  let c := clampI (g 0x58) (g 0x5C) z
  ({ x with z := c, reg := reg }, c != z)

/-- R364, R389: the setpoint and the bank that an engine computes with: the standby with those of its own copy. -/
def engSet (s : State) (e n : Nat) : Int :=
  if e = trwOwner s then (railSt s n).set_ else match (engRail s e n).mir with | some m => m.set_ | none => (railSt s n).set_
def engBank (s : State) (e n : Nat) : Nat :=
  if e = trwOwner s then odv s oGAIN_BANK_ACTIVE
  else match (engRail s e n).mir with | some m => m.bank | none => odv s oGAIN_BANK_ACTIVE

/-- R389, R390: the standby's own copy moves on in a period: to the bank of a swap, and its setpoint toward its target. -/
def standbyStep (n : Nat) (swapped : Bool) (s : State) : State :=
  let e := 1 - trwOwner s
  let x := engRail s e n
  match x.mir with
  | none => s
  | some m =>
    let d : Int := (railV s oVSLEW n * 100 * 2 ^ 24 / max 1 (odv s oPWM_FREQ_HZ) : Nat)
    setEngRail e n { x with mir := some { m with
      bank := if swapped then odv s oGAIN_BANK_ACTIVE else m.bank
      set_ := if m.st = 2 then slewTo d m.set_ (voltLsb m.tgt) else m.set_ } } s

/-- R367: at a boundary, the gain set of one rail in one engine. -/
def regionStep (e n : Nat) (swapped : Bool) (s : State) : State :=
  let x := engRail s e n
  let reg := 8 * bandP (railPhases n) (activePhases s n).length + 2 * x.cNext + x.vNext
  if engComputes s e = false ∨ (reg = x.reg ∧ swapped = false) then s
  else
    let (y, cl) := reseed s (engBank s e n) n reg (engSet s e n) x
    let s1 := setEngRail e n y s
    if e = trwOwner s ∧ cl then odAdd32 (railFlag n 0 true s1) (railKey oSWAP_CLAMP_COUNT n) 1 else s1

/-! ### The control law (R364, R365) -/

/-- R364: one row of Φ applied to the six quantities. -/
def phiRow (s : State) (b n reg row : Nat) (q : List Int) : Int :=
  fix24 (((List.range 6).map fun c => gainI s b n reg (4 * (6 * row + c)) * q.getD c 0).foldl (· + ·) 0)

/-- R365: the duty of the slow over-current loop, where it is present: OC_SLOW_A in 0.1 A, the mean of 10 currents. -/
def ocDuty (koc dPrev : Int) (oc : Nat) (hist : List Int) : Option Int :=
  let sum := hist.foldl (· + ·) 0
  let excess := sum - (oc : Int) * 65536
  if hist.length = 10 ∧ 0 < excess then some (sat32 (roundEven (dPrev * (10 * 2 ^ 24) - koc * excess) (10 * 2 ^ 24))) else none

/-- R365: the duty of the input-current loop on the core rails. -/
def iinDuty (n : Nat) (dPrev iin : Int) : Option Int :=
  if n < 2 ∧ 60 * 65536 < iin then some (sat32 (roundEven (dPrev * (60 * 65536)) iin.toNat)) else none

/-- R365: the lowest candidate wins; on a tie the loop listed first. The loops: 0 voltage, 1 slow over-current, 2 input
current. -/
def lowestDuty (d : Int × Nat) : List (Option Int × Nat) → Int × Nat
  | [] => d
  | (some x, k) :: r => lowestDuty (if x < d.1 then (x, k) else d) r
  | (none, _) :: r => lowestDuty d r

/-- R364, R365: one engine's computation for one rail at a boundary, and the loop that set the duty. -/
def computeRail (s : State) (e n : Nat) (m : RailMean) (iin : Int) (x : ERail) : ERail × Nat :=
  let b := engBank s e n
  let g := gainI s b n x.reg
  let r := railSt s n
  let sp := engSet s e n
  let yv := if e = 0 then m.yvA else m.yvB
  let q := [x.vhat, x.ihl, x.iho, yv, m.yi, m.echo]
  let v := phiRow s b n x.reg 0 q
  let il := phiRow s b n x.reg 1 q
  let io := phiRow s b n x.reg 2 q
  let z := if x.vCur then clampI (g 0x58) (g 0x5C) (fix24 (x.z * 2 ^ 24 + g 0x50 * (sp - yv))) else x.z
  let dv := fix24 (z * 2 ^ 24 + g 0x48 * (sp - v) - g 0x4C * il)
  let (d, loop) := lowestDuty (dv, 0)
    [(ocDuty (g 0x54) x.dCur (railV s oOC_SLOW_A n) r.hist, 1), (iinDuty n x.dCur iin, 2)]
  ({ x with
      vhat := v, ihl := il, iho := io, z := z, dv := dv, dCur := x.dNext, vCur := x.vNextL
      dNext := clampI (g 0x60) (g 0x64) d, vNextL := loop == 0, yv := yv, yi := m.yi }, loop)

/-- R376: the check of one engine on one rail against the predictions of one period earlier. -/
def implausible (s : State) (e n : Nat) (m : RailMean) (x : ERail) : Bool :=
  let g := gainI s (engBank s e n) n x.reg
  let yv := if e = 0 then m.yvA else m.yvB
  decide (g 0x68 < yv - x.vhat ∨ g 0x68 < x.vhat - yv ∨ g 0x6C < m.yi - x.ihl ∨ g 0x6C < x.ihl - m.yi)

/-- R376: every rail is checked in every period, but while its check is suspended. -/
def checked (s : State) (n : Nat) : Bool := (railSt s n).skip == 0

/-- R365: the trims of the active phases, each 1/64 nearer to balance and at most 2 % of the duty. -/
def trimStep (d : Int) (first : Nat) (ps : List Nat) (m : RailMean) (t : Table Int) : Table Int :=
  let mean := roundEven m.yi (max 1 ps.length)
  ps.foldl (fun t p =>
    let x := tget t p 0
    let b := Config.balanceTrim d (m.phI.getD (p - first) 0 - mean)
    tput t p (clampI (-(d / 50)) (d / 50) (x + roundEven (b - x) 64))) t

/-- R362, R364, R366, R376: one engine's period on one rail, whose plausibility is judged where `chk`; `ps` were the active
phases of the period that the means are of. -/
def engineStep (e n vin : Nat) (m : RailMean) (iin : Int) (chk : Bool) (ps : List Nat) (s : State) : State :=
  if engComputes s e = false then s
  else
    let x := engRail s e n
    let f := if chk then (if implausible s e n m x then x.fails + 1 else 0) else 0
    let (y, loop) := computeRail s e n m iin x
    let c := bandC (x.reg / 2 % 4) ps.length m.yi
    let tr := trimStep y.dNext (railFirst n) ps m x.trims
    let s1 := setEngRail e n { y with fails := f, cNext := c, vNext := bandV (x.reg % 2) vin, trims := tr } s
    let s2 := if 3 ≤ f then railFlag n 9 true s1 else s1
    if e = trwOwner s then
      let s3 := railPut oREGION n x.reg s2
      if loop = 1 then modRail n (fun r => { r with ocTo := s.now + 1000000, ocN := r.ocN + periodNs s }) s3
      else modRail n (fun r => { r with ocN := 0, iinTo := if loop = 2 then s.now + 1000000 else r.iinTo }) s3
    else s2

/-- R358: the rail of a phase. -/
def railOfPhase (p : Nat) : Nat := ((List.range 11).find? fun n => (phasesOf n).contains p).getD 0

/-- R364, R365, R379, R386: the on-time with which an engine drives a phase in this period (2^-24 of a period): the rail's duty
and the phase's trim while it is active, half of that in the first period of its shed, none once it has left, is off or the
fast comparator has acted. An owner that has failed drives until the boundary, and within the claim overlap, with its last
duty, where it does not comply (R392). -/
def phaseDuty (s : State) (e p : Nat) : Int :=
  let n := railOfPhase p
  let x := engRail s e n
  let d := x.dCur + clampI (-(x.dCur / 50)) (x.dCur / 50) (tget x.trims p 0)
  let emits := engComputes s e || (s.trw.due && e == trwOwner s)
    || (s.trw.claim == some e && Config.freeWord s.trw.claimNo 0 % 2 == 1)
  if emits = false ∨ (railSt s n).ovAct then 0
  else if phaseSt s p = 2 then d
  else if phaseSt s p = 3 ∧ (railSt s n).shed = some (p, 1) then roundEven d 2
  else 0

/-- R391, R392: the engines whose pulses the stages accept, ORed: the owner, and the old owner within a claim overlap. -/
def acceptedEngines (s : State) : List Nat := trwOwner s :: s.trw.claim.toList

/-- R359: the on-time of a pulse that a stage delivers: at least 20 ns and at most 450 ns. -/
def stageOnTime (s : State) (d : Int) : Int :=
  let ns (t : Nat) : Int := ((t * 2 ^ 24 / max 1 (periodNs s) : Nat) : Int)
  if d ≤ 0 then 0 else min (ns 450) (max (ns 20) d)

/-- R392: the on-time of a phase: the longest of the accepted pulses, for periods from one boundary. -/
def phaseOnTime (s : State) (p : Nat) : Int :=
  stageOnTime s ((acceptedEngines s).foldl (fun m e => max m (phaseDuty s e p)) 0)

/-! ### Phases (R378 to R381) -/

/-- R376: the check is suspended for 3 periods. -/
def suspend (n : Nat) (s : State) : State := modRail n (fun r => { r with skip := 3 }) s

/-- R378 to R380: the phase changes decided in the last period take effect: an aborted shed, the shed's next stage, and the
phases to add, lowest number first. -/
def phaseEffects (n : Nat) (s : State) : State :=
  let r := railSt s n
  let s1 :=
    match r.shed with
    | none => s
    | some (p, k) =>
      if r.abort then
        suspend n (odAdd32 (modRail n (fun r => { r with shed := none, abort := false, hold := true }) (setPhase p 2 s))
          (railKey oSHED_ABORTS n) 1)
      else if k = 0 then modRail n (fun r => { r with shed := some (p, 1) }) (setPhase p 3 s)
      else if k = 1 then modRail n (fun r => { r with shed := some (p, 2) }) s
      else if k = 2 then suspend n (modRail n (fun r => { r with shed := some (p, 3), low := false }) (setPhase p 1 s))
      else modRail n (fun r => { r with shed := none }) s
  let ps := ((phasesOf n).filter fun p => phaseSt s1 p == 1).take r.add
  let s2 :=
    if ps = [] then s1
    else suspend n (modRail n (fun r => { r with hold := true }) (ps.foldl (fun s p => setPhase p 2 s) s1))
  showPhases n (modRail n (fun r => { r with add := 0 }) s2)

/-- R378: how many phases bring the mean per phase to 24 A or less, of `k` that may be added. -/
def addCount (yi : Int) (act : Nat) : Nat → Nat → Nat
  | 0, m => m
  | k + 1, m => if yi ≤ 24 * 65536 * ((act + m : Nat) : Int) then m else addCount yi act k (m + 1)

/-- R378 to R380: the decisions of a period in REGULATING or SOFT_STOP, over which `was` phases were active: with a shed in
progress its abort, which returns its phase, and in any case the phases to add. -/
def phaseDecide (n was : Nat) (yi : Int) (s : State) : State :=
  let r := railSt s n
  let act := (activePhases s n).length
  let heavy (k : Nat) : Bool := decide (30 * 65536 * (k : Int) < yi)
  let idle := ((phasesOf n).filter fun p => phaseSt s p == 1).length
  let low := decide (yi < 12 * 65536 * (was : Int))
  if railState s n ≠ 2 ∧ railState s n ≠ 5 then s
  else match r.shed with
    | some (_, k) =>
      let ab := if k = 2 then heavy (act - 1) else k == 3 && heavy act
      let back := if k = 3 ∧ ab then 1 else 0
      let more := if heavy was then addCount yi (act + back) (idle - back) 0 else 0
      modRail n (fun r => { r with low := low, abort := ab, add := more }) s
    | none => modRail n (fun r => { r with low := low, add := if heavy was then addCount yi act idle 0 else 0 }) s

/-- R358, R381: a phase is retired for a reason. A rail with too few healthy phases has a fault, or latches off while it
waits for a retry (R385). -/
def latchOff (n : Nat) (s : State) : State :=
  let s1 := railFlag n 10 true (railStop n 4 s)
  let s2 := logSimple evRAIL_LATCHED_OFF (0x1000 + n) s1
  startFail evRAIL_LATCHED_OFF (0x1000 + n) (emcyRaise 0x3200 2 evRAIL_LATCHED_OFF s2)

def retire (n p reason : Nat) (s : State) : State :=
  if phaseSt s p = 4 then s
  else
    let s1 := odSet (setPhase p 4 s) (oPHASE_RETIRE_REASON + p) reason
    let s2 := railFlag n 6 true (railPut oPHASES_HEALTHY n (railV s1 oPHASES_HEALTHY n - 1) s1)
    let s3 := showPhases n (suspend n (modRail n (fun r =>
      let gone := match r.shed with | some (q, _) => q == p | none => false
      { r with shed := if gone then none else r.shed, abort := r.abort && !gone }) s2))
    let s4 := emcyEvent 0x5000 7 evPHASE_RETIRED (logEvent evPHASE_RETIRED (0x1100 + p) reason 0 noCmd s3)
    if railNeeded n ≤ railV s4 oPHASES_HEALTHY n then s4
    else if railState s4 n = 1 ∨ railState s4 n = 2 ∨ railState s4 n = 5 then railFault n s4
    else if railState s4 n = 3 then latchOff n s4
    else s4

/-- R381: periods in a row of a condition, by phase. -/
def countRuns (t : Table Nat) (ps : List Nat) (c : Nat → Bool) : Table Nat :=
  ps.foldl (fun t p => if c p then tput t p (tget t p 0 + 1) else tdel t p) t

/-- R381: imbalance in 100 active periods in a row, and the peak limit in 100 periods in a row, of the phases `ps` that were
active over the period; a phase that was not has met no limit, and its active periods go on counting later (log entry 137). -/
def phaseSupervise (n : Nat) (m : RailMean) (ps : List Nat) (s : State) : State :=
  let a : Int := ps.length
  let f := railFirst n
  let cur (p : Nat) : Int := m.phI.getD (p - f) 0
  let off (p : Nat) : Bool := decide (15 * 65536 * a < a * cur p - m.yi ∨ 15 * 65536 * a < m.yi - a * cur p)
  let r := railSt s n
  let imb := countRuns r.imb ps off
  let pk := countRuns r.pk (phasesOf n) fun p => ps.contains p && m.peaks.contains (p - f) && decide (m.yi < 30 * 65536 * a)
  let s1 := modRail n (fun r => { r with imb := imb, pk := pk }) s
  let s2 := (imb.filter fun x => 100 ≤ x.2).foldl (fun s x => retire n x.1 2 s) s1
  (pk.filter fun x => 100 ≤ x.2).foldl (fun s x => retire n x.1 3 s) s2

/-- R379: the issuer of a die has reported no waiting request and no grant for 10 µs. -/
def issuerQuiet (s : State) (d : Nat) : Bool :=
  (tileReqs s d).isEmpty && (s.flt.steps.all fun x => x.die != d) && decide (tget s.flt.busyAt d 0 + 10000 ≤ s.now)

/-- R379: 200 µs below 12 A per phase: a shed begins at the next boundary, unless the hold-off runs, the minimum is reached
or, on the rails of a die's tiles, the issuer is not quiet. -/
def shedTimer (n : Nat) (s : State) : State :=
  let r := railSt s n
  let ps := activePhases s n
  let least := if n < 2 then 4 else 1
  let busy := decide (n < 4) && !issuerQuiet s (n % 2)
  if (railState s n = 2 ∨ railState s n = 5) ∧ r.low ∧ r.hold = false ∧ r.shed = none ∧ r.add = 0 ∧ least < ps.length ∧ busy = false then
    modRail n (fun r => { r with shed := some (lmax ps, 0) }) s
  else s

def execShedTimerExpiry (rail : Fin 11) (s : State) : Host.Outcome State Fault Refusal := .next (shedTimer rail.val s)

/-- R378: the hold-off ends. -/
def execAddHoldoffExpiry (rail : Fin 11) (s : State) : Host.Outcome State Fault Refusal :=
  .next (modRail rail.val (fun r => { r with hold := false }) s)

/-! ### Setpoint, soft start and protection (R377, R383 to R386) -/

/-- R377, R383, R385: the setpoint of this period. A new target clears SETTLED. -/
def setpointStep (n : Nat) (s : State) : State :=
  let t := targetOf s n
  let r := railSt s n
  let st := railState s n
  let s1 := if t = r.tgt then s else railFlag n 1 false (modRail n (fun r => { r with tgt := t, settle := 0 }) s)
  let goal := voltLsb t
  if st = 1 then
    let ns := 1000 * r.ssUs
    let k := min ns (r.ramp + periodNs s)
    modRail n (fun r =>
      { r with ramp := r.ramp + periodNs s, set_ := r.ramp0 + roundEven ((goal - r.ramp0) * (k : Int)) (max 1 ns) }) s1
  else if st = 2 then
    let d : Int := (railV s oVSLEW n * 100 * 2 ^ 24 / max 1 (odv s oPWM_FREQ_HZ) : Nat)
    modRail n (fun r => { r with set_ := slewTo d r.set_ goal }) s1
  else if st = 5 then
    modRail n (fun r => { r with
      ramp := r.ramp + periodNs s, set_ := roundEven (r.ramp0 * ((200000 - (r.ramp + periodNs s) : Nat) : Int)) 200000 }) s1
  else s1

/-- R343, R383, R397: a rail starts: every healthy phase drives, with the low-side switches in diode emulation, and the ramp
begins at the measured output and takes SS_TIME_US as it stands. With a core rail the calibrations of the start-up phase begin
to count. -/
def softStart (n : Nat) (s : State) : State :=
  let y := (engRail s (trwOwner s) n).yv
  let s1 := phasesTo n 2 (railPut oSTART_ATTEMPTS n ((railV s oSTART_ATTEMPTS n + 1) % 256) (railPut oRAIL_STATE n 1 s))
  suspend n (modRail n (fun r =>
    { r.afresh with ramp0 := y, set_ := y, tgt := targetOf s n, ssUs := railV s oSS_TIME_US n, diode := true })
      (if n < 2 then modFlt (fun f => { f with cals := 0 }) s1 else s1))

/-- R383: power-good: the rail leaves diode emulation. -/
def powerGood (n : Nat) (s : State) : State :=
  railFlag n 2 true (railPut oRAIL_STATE n 2 (modRail n (fun r => { r with diode := false }) s))

/-- R384, R385: a start attempt ends: the rail waits for a retry, or latches off after the fourth. -/
def stopAttempt (n : Nat) (s : State) : State :=
  if 4 ≤ railV s oSTART_ATTEMPTS n then latchOff n s else railStop n 3 s

/-- R383, R384: a rail in SOFT_START after a period; towards power-good count the periods that began after the ramp's end. -/
def softStartStep (n : Nat) (m : RailMean) (y : Int) (s : State) : State :=
  let r := railSt s n
  let good := if 1000 * r.ssUs + periodNs s ≤ r.ramp ∧ dynamicOk n y (voltLsb r.tgt) then r.good + 1 else 0
  let peaks := (phasesOf n).filter fun p => phaseSt s p != 4 && m.peaks.contains (p - railFirst n)
  let short := decide (railV s oPHASES_HEALTHY n ≤ 2 * peaks.length ∧ 2 * y < r.set_)
  let k := if short then r.shortN + periodNs s else 0
  let s1 := modRail n (fun r => { r with good := good, shortN := k }) s
  if 20000 ≤ k then stopAttempt n s1 else if 10 ≤ good then powerGood n s1 else s1

/-- R377, R386: a rail in REGULATING after a period: SETTLED and under-voltage. -/
def regulatingStep (n : Nat) (y : Int) (s : State) : State :=
  let r := railSt s n
  let goal := voltLsb r.tgt
  let k := if r.set_ = goal ∧ staticOk n y goal then r.settle + 1 else 0
  let u := if underVolt n y r.set_ then r.uvN + periodNs s else 0
  let s1 := modRail n (fun r => { r with settle := min 10 k, uvN := u }) s
  let s2 := if 10 ≤ k then railFlag n 1 true s1 else s1
  if 20000 ≤ u then railFault n s2 else s2

/-- R386, R398: OC_LIMITING, IIN_LIMITING and PEAK_LIMITING show for 1 ms. -/
def limitFlags (n : Nat) (s : State) : State :=
  let r := railSt s n
  railFlag n 5 (decide (s.now < r.peakTo)) (railFlag n 4 (decide (s.now < r.iinTo)) (railFlag n 3 (decide (s.now < r.ocTo)) s))

/-- R376, R386: the protections of a driven rail: fast over-voltage for 10 µs, slow over-current for 10 ms, and the peak
limit. -/
def protectStep (n : Nat) (m : RailMean) (s : State) : State :=
  let r := railSt s n
  let ov := if r.ovAct then r.ovN + periodNs s else 0
  let until_ := if m.peaks = [] then r.peakTo else s.now + 1000000
  let s1 := modRail n (fun r => { r with
    ovN := ov, ovAct := false, peakTo := until_, skip := if r.ovAct then 3 else r.skip }) s
  if drivenState (railState s n) ∧ (10000 ≤ ov ∨ 10000000 ≤ r.ocN) then railFault n s1 else s1

/-- R388: the sums of the running 1 ms, and the peak holds, in the objects' units. -/
def meansStep (n : Nat) (m : RailMean) (y : Int) (s : State) : State :=
  let ps := phasesOf n
  let f := railFirst n
  let v := (y * 10000 / 2 ^ 24).toNat
  let i := (m.yi * 100 / 2 ^ 16).toNat
  let r := railSt s n
  let s1 := modRail n (fun r => { r with
    vSum := r.vSum + y, iSum := r.iSum + m.yi, cnt := r.cnt + 1, fresh := false
    hist := (m.yi :: r.hist).take 10
    phSum := ps.foldl (fun t p => tput t p (tget t p 0 + m.phI.getD (p - f) 0)) r.phSum }) s
  let hi (k x : Nat) (s : State) : State := railPut k n (if r.fresh then x else max x (railV s k n)) s
  let lo := if r.fresh then v else min v (railV s1 oV_MIN n)
  hi oI_PEAK i (hi oV_MAX v (railPut oV_MIN n lo s1))

/-- R376: SENSE_DISAGREE after 10 periods. -/
def senseStep (n : Nat) (m : RailMean) (chk : Bool) (s : State) : State :=
  let both := engComputes s 0 && engComputes s 1 && (engRail s 0 n).fails == 0 && (engRail s 1 n).fails == 0
  let k := if both && chk && sensesDiffer n m.yvA m.yvB (voltLsb (railSt s n).tgt) then (railSt s n).disN + 1 else 0
  let s1 := modRail n (fun r => { r with disN := min 11 k }) s
  if k = 10 then logSimple evSENSE_DISAGREE (0x1000 + n) (railFlag n 8 true s1) else s1

/-- R362: one rail at a boundary. -/
def railPeriod (n : Nat) (e : PeriodIn) (swapped : Bool) (s : State) : State :=
  let m := e.rails.getD n ⟨0, 0, 0, 0, [], []⟩
  let chk := checked s n
  let s0 := modRail n (fun r => { r with skip := r.skip - 1 }) s
  let ps := activePhases s n
  let s1 := regionStep 1 n swapped (regionStep 0 n swapped (standbyStep n swapped (phaseEffects n s0)))
  let s2 := meansStep n m (if trwOwner s = 0 then m.yvA else m.yvB) (setpointStep n s1)
  let s3 := engineStep 1 n e.vinB m e.iinB chk ps (engineStep 0 n e.vinA m e.iinA chk ps s2)
  let s4 := phaseDecide n ps.length m.yi (senseStep n m chk s3)
  let y := if trwOwner s = 0 then m.yvA else m.yvB
  let s5 := limitFlags n (protectStep n m (phaseSupervise n m ps s4))
  if railState s5 n = 1 then softStartStep n m y s5
  else if railState s5 n = 2 then regulatingStep n y s5 else s5

/-! ### The boundary (R361, R362) -/

/-- R361: the frequency of the next period, at most 2 %/ms nearer to `f`. -/
def glide (now f : Nat) : Nat :=
  let d := 20000000 / max 1 now
  if now < f then min f (now + d) else max f (now - d)

/-- R361: within 0.1 %. -/
def nearFreq (a f : Nat) : Bool := decide (1000 * a ≤ 1001 * f ∧ 999 * f ≤ 1000 * a)

/-- R361: an edge is in range. -/
def syncInRange (sync : Option (Nat × Int)) : Option (Nat × Int) :=
  sync.filter fun e => decide (900000 ≤ e.1 ∧ e.1 ≤ 1100000)

/-- R361: the period boundary and REG_SYNC. An edge out of range moves no boundary; in GLIDE_SYNC it ends the approach. -/
def syncStep (sync : Option (Nat × Int)) (s : State) : State :=
  let f := odv s oPWM_FREQ_HZ
  let st := odv s oREG_SYNC_STATE
  if st = 3 ∧ sync.isSome ∧ (syncInRange sync).isNone then
    odSet { s with mod := { s.mod with pins := { s.mod.pins with regSync := false } } } oREG_SYNC_STATE 1
  else match st, syncInRange sync with
  | 0, some (g, _) => odSet s oPWM_FREQ_HZ g
  | 1, _ =>
    if nearFreq f 1000000 then odSet (odSet s oREG_SYNC_STATE 2) oPWM_FREQ_HZ 1000000
    else odSet s oPWM_FREQ_HZ (glide f 1000000)
  | 2, _ => if s.mod.pins.regSync then odSet s oREG_SYNC_STATE 3 else s
  | 3, some (g, off) =>
    if nearFreq f g then
      odSet (odSet s oPWM_FREQ_HZ g) oREG_SYNC_STATE (if -10 ≤ off ∧ off ≤ 10 then 0 else 3)
    else odSet s oPWM_FREQ_HZ (glide f g)
  | _, _ => s

/-- R376, R391: an engine with three failures in a row on a rail has a fault of its own. -/
def plausFault (e : Nat) (s : State) : State :=
  if engComputes s e && (List.range 11).any (fun n => decide (3 ≤ (engRail s e n).fails)) then engineFault e s else s

/-- R310, R362: a switching period's boundary. -/
def periodBoundary (e : PeriodIn) (s : State) : State :=
  if s.mod.auxUp = false then s
  else
    let swapped := s.trw.swap
    let s1 := handOver (syncStep e.sync s)
    let s2 := if swapped then swapBanks s1 else s1
    let s3 := modTrw (fun t => { t with
      mirrored := false, busSum := t.busSum + e.vbus, cnt := t.cnt + 1
      iinSum := t.iinSum + (if trwOwner s2 = 0 then e.iinA else e.iinB) }) s2
    let i := if trwOwner s2 = 0 then e.iinA else e.iinB
    let v := if trwOwner s2 = 0 then e.vinA else e.vinB
    let s3 := modFlt (fun f => { f with
      vin := v, inSum := f.inSum + v * i.toNat, vSum := f.vSum + v, inN := f.inN + 1 }) s3
    let s4 := (List.range 11).foldl (fun s n => railPeriod n e swapped s) s3
    let o := trwOwner s4
    plausFault o (plausFault (1 - o) s4)

def execSwitchingPeriodBoundary (e : PeriodIn) (s : State) : Host.Outcome State Fault Refusal :=
  .next (periodBoundary e s)

/-- R361: REG_SYNC is lost or out of range. -/
def regSyncLoss (s : State) : State :=
  let s1 := { s with mod := { s.mod with pins := { s.mod.pins with regSync := false } } }
  let st := odv s oREG_SYNC_STATE
  if s.mod.auxUp = false then s1
  else if st = 0 then logSimple evREG_SYNC_LOST srcModule (odSet s1 oREG_SYNC_STATE 1)
  else if st = 3 then odSet s1 oREG_SYNC_STATE 1 else s1

def execRegSyncLoss (s : State) : Host.Outcome State Fault Refusal := .next (regSyncLoss s)

/-- R361: 100 consecutive edges in range. -/
def regSyncRecovered (s : State) : State :=
  let s1 := { s with mod := { s.mod with pins := { s.mod.pins with regSync := true } } }
  if s.mod.auxUp ∧ odv s oREG_SYNC_STATE = 2 then odSet s1 oREG_SYNC_STATE 3 else s1

def execRegSyncRecovered (s : State) : Host.Outcome State Fault Refusal := .next (regSyncRecovered s)

/-! ### The mirror frame (R389, R390) -/

/-- R390: the frame's observer state passes the standby's own check against its own measurements. -/
def frameFits (s : State) (n : Nat) (x y : ERail) : Bool :=
  let g := gainI s (odv s oGAIN_BANK_ACTIVE) n x.reg
  decide (-(g 0x68) ≤ y.yv - x.vhat ∧ y.yv - x.vhat ≤ g 0x68 ∧ -(g 0x6C) ≤ y.yi - x.ihl ∧ y.yi - x.ihl ≤ g 0x6C)

/-- R389: what the owner mirrors of a rail beside its observer, its integrator and its region. -/
def mirrorOf (s : State) (n : Nat) : Mirror :=
  let r := railSt s n
  ⟨r.tgt, r.set_, odv s oGAIN_BANK_ACTIVE, activePhases s n, (phasesOf n).filter fun p => phaseSt s p == 4, railState s n,
    railV s oSTART_ATTEMPTS n, r.ramp⟩

/-- R389, R390: engine `e` adopts the owner's frame for rail `n`, or keeps its own state. -/
def adoptRail (e n : Nat) (s : State) : State :=
  let x := engRail s (1 - e) n
  let y := engRail s e n
  if frameFits s n x y then
    setEngRail e n
      { y with z := x.z, vhat := x.vhat, ihl := x.ihl, iho := x.iho, reg := x.reg, mir := some (mirrorOf s n) } s
  else s

/-- R389, R390, R395: a mirror frame; after 1,000 periods in a row of adopting them, RESYNC ends. -/
def mirrorFrame (s : State) : State :=
  let e := 1 - trwOwner s
  if engState s (1 - e) ≠ 3 ∨ (engState s e ≠ 1 ∧ engState s e ≠ 2) then s
  else
    let all := (List.range 11).all fun n => frameFits s n (engRail s (1 - e) n) (engRail s e n)
    let s1 := modTrw (fun t => { t with mirrored := true, adopt := if all then t.adopt + 1 else 0 })
      ((List.range 11).foldl (fun s n => adoptRail e n s) s)
    if engState s e = 1 ∧ 1000 ≤ s1.trw.adopt then setEng e 2 s1 else s1

def execMirrorFrame (s : State) : Host.Outcome State Fault Refusal := .next (mirrorFrame s)

/-- R362, R391: no frame by 800 ns: the standby takes over. -/
def mirrorDeadline (s : State) : State :=
  let o := trwOwner s
  if s.trw.mirrored ∨ engState s o ≠ 3 then s
  else if engState s (1 - o) = 2 then engineFault o s
  else modTrw (fun t => { t with adopt := 0 }) s

def execMirrorDeadline (s : State) : Host.Outcome State Fault Refusal := .next (mirrorDeadline s)

/-! ### Starting, stopping and events of the rails -/

/-- R382, R385: a group starts, rail by rail, while none has a fault. -/
def groupRailStart (s : State) (n : Nat) : State :=
  if modState s ≠ 1 ∨ s.trw.stopping then s
  else
    let s1 := softStart n (railPut oSTART_ATTEMPTS n 0 s)
    if railV s oPHASES_HEALTHY n < railNeeded n then railFault n s1 else s1

/-- R382: a group's turn: every rail of the earlier groups regulates, and its own are off. -/
def groupMayStart (s : State) (g : Nat) : Bool :=
  modState s == 1 && odv s oSTART_STEP == 3 && !s.trw.stopping
    && (List.range 11).all fun n =>
      if railGroup n < g then railState s n == 2 else railGroup n != g || railState s n == 0

def groupStart (g : Nat) (s : State) : State :=
  if groupMayStart s g then
    (groupRails g).foldl groupRailStart s
  else s

def execRailGroupStart (g : Fin 6) (s : State) : Host.Outcome State Fault Refusal := .next (groupStart g.val s)

/-- R384: no power-good within SS_TIME_US + 1 ms. -/
def powerGoodTimeout (n : Nat) (s : State) : State := if railState s n = 1 then stopAttempt n s else s
def execPowerGoodTimeout (rail : Fin 11) (s : State) : Host.Outcome State Fault Refusal :=
  .next (powerGoodTimeout rail.val s)

/-- R385: 100 ms after turn-off. -/
def retryExpiry (n : Nat) (s : State) : State :=
  if railState s n ≠ 3 then s
  else if railV s oSTART_ATTEMPTS n < 4 then softStart n s else latchOff n s
def execRetryWaitExpiry (rail : Fin 11) (s : State) : Host.Outcome State Fault Refusal := .next (retryExpiry rail.val s)

/-- R385: a soft stop ends. -/
def softStopDone (n : Nat) (s : State) : State :=
  if railState s n = 5 then softStopNext (railStop n 0 s) else s
def execSoftStopComplete (rail : Fin 11) (s : State) : Host.Outcome State Fault Refusal := .next (softStopDone rail.val s)

/-- R386: the fast comparator acts: the rail's high-side pulses end for this period, and the period's boundary counts it. -/
def execFastOvervoltage (rail : Fin 11) (s : State) : Host.Outcome State Fault Refusal :=
  .next (modRail rail.val (fun r => { r with ovAct := true }) s)

/-- R386, R423: a bus converter is shut off. -/
def busConverterOff (c : Nat) (s : State) : State :=
  if bitAt (odv s oBUSCONV_STATE) c = false then s
  else
    let s1 := logSimple evBUSCONV_OFF (0x4020 + c) (odBit s oBUSCONV_STATE c false)
    if (7, evBUSCONV_OFF) ∈ s1.can.conds then emcyMsg 0x5000 (odv s1 oERROR_REGISTER) evBUSCONV_OFF s1
    else emcyRaise 0x5000 7 evBUSCONV_OFF s1
def execBusConverterFault (conv : Fin 4) (s : State) : Host.Outcome State Fault Refusal :=
  .next (busConverterOff conv.val s)

/-- R386, R398: STAGE_WARN of a rail follows its stages; a record at its rise. -/
def stageWarnStep (ts : List Int) (n : Nat) (s : State) : State :=
  let hot := (phasesOf n).filter fun p => decide (1150 < ts.getD p 0)
  let was := bitAt (railV s oRAIL_FLAGS n) 7
  let s1 := railFlag n 7 (!hot.isEmpty) s
  match hot with
  | p :: _ => if was then s1 else logEvent evSTAGE_WARN (0x1100 + p) (uxt 16 (ts.getD p 0)) 0 noCmd s1
  | [] => s1

/-- R381, R386: the stage temperatures, in 0.1 °C, PH0 first. -/
def stageTempRead (ts : List Int) (s : State) : State :=
  if s.mod.auxUp = false then s
  else
    let s1 := modTrw (fun t => { t with temps := (List.range 108).map fun p => (p, ts.getD p 0) }) s
    let s2 := (List.range 11).foldl (fun s n => stageWarnStep ts n s) s1
    let s3 := emcyWhile (stageWarn s2) 0x4200 3 evSTAGE_WARN s2
    (List.range 11).foldl (fun s n => (phasesOf n).foldl (fun s p =>
      if 1350 ≤ ts.getD p 0 then retire n p 1 s else s) s) s3

def execStageTempRead (ts : List Int) (s : State) : Host.Outcome State Fault Refusal := .next (stageTempRead ts s)

/-- R388: a mean over `k` periods, scaled by `num / den`, not below 0. -/
def meanNat (sum : Int) (k num den : Nat) : Nat := (sum * (num : Int) / ((max 1 k * den : Nat) : Int)).toNat

/-- R388: the telemetry of a rail. -/
def railTelemetry (n : Nat) (s : State) : State :=
  let r := railSt s n
  let temp (p : Nat) : Int := tget s.trw.temps p 0
  let s1 := railPut oV_OUT n (meanNat r.vSum r.cnt 10000 (2 ^ 24)) s
  let s2 := railPut oI_OUT n (meanNat r.iSum r.cnt 100 (2 ^ 16)) s1
  let s3 := (phasesOf n).foldl (fun s p =>
    odSet (odSet s (oPHASE_I + p) (uxt 16 (tget r.phSum p 0 * 100 / ((max 1 r.cnt * 2 ^ 16 : Nat) : Int))))
      (oPHASE_T + p) (uxt 16 (temp p))) s2
  let hot := (phasesOf n).foldl (fun m p => max m (temp p)) (temp (railFirst n))
  modRail n (fun r => { r with vSum := 0, iSum := 0, cnt := 0, phSum := [] }) (railPut oT_STAGE_MAX n (uxt 16 hot) s3)

/-- R388: every 1 ms. -/
def telemetryUpdate (s : State) : State :=
  if s.mod.auxUp = false then s
  else
    let t := s.trw
    let s1 := (List.range 11).foldl (fun s n => railTelemetry n s) s
    let s2 := odSet (odSet s1 oV_BUS (t.busSum / max 1 t.cnt)) oI_IN (meanNat t.iinSum t.cnt 100 (2 ^ 16))
    modTrw (fun t => { t with busSum := 0, iinSum := 0, cnt := 0 }) s2

def execRailTelemetryUpdate (s : State) : Host.Outcome State Fault Refusal := .next (telemetryUpdate s)

end Sys2Proof.Machine
end

