-- ==== Sys2Proof/Machine/Startup.lean ====
section
/-! DEFINITION. Power-on, cold starts, resets, stops, the two management cores and the logbook (R500 to R513, R516 to R524,
R531, R535). -/
namespace Sys2Proof.Machine

def modMod (f : ModSt → ModSt) (s : State) : State := { s with mod := f s.mod }
def modLog (f : LogSt → LogSt) (s : State) : State := { s with log := f s.log }
def modPins (f : Pins → Pins) (s : State) : State := modMod (fun m => { m with pins := f m.pins }) s

/-! ### Committing and reading the logbook (R516, R522, R523) -/

/-- R516: the write position moves to the next slot; entering a sector starts the erase of the one after the next. -/
def advanceSlot (l : LogSt) : LogSt :=
  let w := (l.wslot + 1) % 16384
  if w % 16 ≠ 0 then { l with wslot := w }
  else
    let e := (w / 16 + 2) % 1024
    { l with
      wslot := w
      ring := l.ring.filter fun x => x.1 / 16 != e
      erased := l.erased.filter fun x => x != l.wslot / 16 && x != e
      erasing := e :: l.erasing.filter (· ≠ e) }

/-- R522: the oldest entry is committed, where an erased slot remains. -/
def commitOldest (l : LogSt) : LogSt :=
  match l.queue with
  | [] => l
  | r :: q =>
    if (l.wslot / 16) ∉ l.erased then l
    else
      let m := { l with queue := q, isOpen := l.isOpen && !q.isEmpty, ring := tput l.ring l.wslot (closeRec r, true) }
      advanceSlot m

/-- R509, R522: a commit: of an entry that is not the open one, or of the open one after 1 s; only an owner's writes reach the
flash. -/
def logCommit (s : State) : State :=
  let due := !s.log.isOpen || decide (2 ≤ s.log.queue.length ∨ s.log.openedAt + 1000000000 ≤ s.now)
  if s.mod.owner = none ∨ due = false then s else modLog commitOldest s

/-- R513: the whole queue is committed. -/
def commitAll : Nat → LogSt → LogSt
  | 0, l => l
  | n + 1, l => commitAll n (commitOldest l)

/-- R516: an erase ends. -/
def eraseDone (k : Nat) (s : State) : State :=
  if k ∈ s.log.erasing then
    modLog (fun l => { l with erasing := l.erasing.filter (· ≠ k), erased := k :: l.erased.filter (· ≠ k) }) s
  else s

def execLogCommit (s : State) : Host.Outcome State Fault Refusal := .next (logCommit s)
def execLogSectorEraseDone (sector : Fin 1024) (s : State) : Host.Outcome State Fault Refusal :=
  .next (eraseDone sector.val s)

/-- R523: the slot and the record of a SEQ, if it is held. -/
def heldRec (s : State) (q : Nat) : Option (Nat × LogRec × Bool) := s.log.ring.find? fun e => e.2.1.seq == q

/-- R523: the bytes of a held record: what flash holds of a corrupt one is left open. -/
def storedBytes (slot : Nat) (r : LogRec) (ok : Bool) : List Byte :=
  if ok then recBytes r true else (List.range 256).map fun i => Config.freeByte 0 (1000000 + 256 * slot + i)

/-- R523: a read of LOG_RECORD on a path. -/
def logRecord (path : Nat) (s : State) : Nat × List Byte × State :=
  let q := tget s.log.readSeq path (logTail s)
  match heldRec s q with
  | none => (0x0595, [], s)
  | some (slot, r, ok) =>
    (if ok then 0 else 0x0012, storedBytes slot r ok,
      modLog (fun l => { l with readSeq := tput l.readSeq path ((q + 1) % 2 ^ 32) }) s)

/-- R523: LOG_OPEN_RECORD. -/
def openRecord (s : State) : List Byte := match newest s.log.queue with | some r => recBytes r false | none => []

/-- R514: the flash has lost the record that a path reads next. -/
def loseRecord (path : Nat) (s : State) : State :=
  match heldRec s (tget s.log.readSeq path (logTail s)) with
  | none => s
  | some (slot, _, _) => modLog (fun l => { l with
      ring := l.ring.map fun e => if e.1 = slot then (e.1, e.2.1, false) else e }) s

/-- R405, R514, R523: a path reads LOG_RECORD. -/
def logRecordRead (path : Nat) (lost : Bool) (s0 : State) : State :=
  let s := if lost then loseRecord path s0 else s0
  if s.mod.owner = none then s0
  else if odFind s0 oLOG_RECORD ≠ 0 then tell path (odFind s0 oLOG_RECORD) s0
  else
    let (c, bs, s1) := logRecord path s
    tell path c (if c = 0x0595 then s1 else emit (.object oLOG_RECORD bs) s1)

def execLogRecordRead (e : LogRead) (s : State) : Host.Outcome State Fault Refusal :=
  .next (logRecordRead e.path.val e.lost s)

/-- R524: OPERATING_SECONDS is saved. -/
def saveSeconds (s : State) : State :=
  let n := (s.now - s.mod.secAt) / 1000000000
  modMod (fun m => { m with secAt := m.secAt + n * 1000000000 }) (odSet s oOPERATING_SECONDS (opSeconds s))

def execOperatingSecondsSave (s : State) : Host.Outcome State Fault Refusal :=
  .next (if s.mod.auxUp then saveSeconds s else s)

/-! ### AUX power-on and loss (R439, R502, R505, R513, R524, R535) -/

/-- R505: the objects that live in flash or fuses. -/
def flashKeys : List Nat :=
  [oLOG_LOST_TOTAL, oOPERATING_SECONDS, oPOWER_CYCLES, oFW_SVN_MIN, oPRODUCT_CODE, oSERIAL, oSPARES_USED, oSPARES_USED + 1,
   oPPR_PENDING]

/-- R524: the logbook after the scan: the head is the latest valid record. -/
def scanLog (bad : List Nat) (l : LogSt) : LogSt :=
  let ring := l.ring.map fun e => (e.1, e.2.1, e.2.2 && !bad.contains e.1)
  let ok := ring.filter fun e => e.2.2
  let later (a b : Nat × LogRec × Bool) : Bool := decide ((b.2.1.seq + 2 ^ 32 - a.2.1.seq) % 2 ^ 32 < 2 ^ 31)
  match ok with
  | [] => { LogSt.initial with ring := ring, wslot := l.wslot, erased := l.erased, erasing := l.erasing }
  | x :: r =>
    let h := r.foldl (fun a b => if later a b then b else a) x
    { LogSt.initial with
      ring := ring, wslot := l.wslot, erased := l.erased, erasing := l.erasing, nextSeq := (h.2.1.seq + 1) % 2 ^ 32 }

/-- R351, R385, R505: the module as AUX rises, before a core has booted. A thermal-trip latch and latched rails outlive AUX
while the 54 V input stays. -/
def auxRise (e : AuxIn) (s : State) : State :=
  let trip := s.mod.tripLatch && !e.inputOff
  let latched := if e.inputOff then [] else (List.range 11).filter fun n => railState s n == 4
  let conds := (if trip then [(3, evTHERMAL_TRIP)] else []) ++ (if latched = [] then [] else [(2, evRAIL_LATCHED_OFF)])
  let log := scanLog e.bad s.log
  let pins : Pins := { Pins.initial with
    slotId := e.slotId.val, profSel := e.profSel.val, ref25 := e.ref25, tripN := !trip
    mateN := s.mod.pins.mateN, inSwitch := s.mod.pins.inSwitch && !e.inputOff }
  let s1 : State := { State.reset with
    pending := s.pending, out := s.out, resp := s.resp, freeCtr := s.freeCtr, mem := s.mem
    od := s.od.filter fun x => flashKeys.contains x.1
    dom := s.dom.filter fun x => x.1 == oSITE_ANCHOR_DIGEST
    ecc := { EccSt.initial with
      retired := s.ecc.retired, exhausted := s.ecc.exhausted, pprRows := s.ecc.pprRows }
    sec := { SecSt.initial with slot1 := s.sec.slot1, dik := s.sec.dik, slots := s.sec.slots, pref := s.sec.pref }
    can := { CanSt.initial with profiles := s.can.profiles, conds := conds }
    log := log
    mod := { ModSt.initial with tripLatch := trip, pins := pins, vinAt := if pins.inSwitch then some 0 else none } }
  let s2 := odSet (odAdd32 s1 oPOWER_CYCLES 1) oLOG_CRC_ERRORS (log.ring.filter fun x => !x.2.2).length
  let s3 := odSet (odSet s2 oMODULE_STATE (if trip then 6 else 0)) oERROR_REGISTER (errorReg conds none)
  latched.foldl (fun s n => railFlag n 10 true (railPut oRAIL_STATE n 4 s)) s3

/-- R439, R474, R502, R505, R524: AUX rises, the logbook is scanned and the cores boot. -/
def auxPowerOn (e : AuxIn) (s : State) : State :=
  let booting := s.mod.owner == none && !s.mod.everOwned && coreState s 0 == 0 && coreState s 1 == 0
  if s.mod.auxUp ∧ booting = false then s
  else
    let s1 := bootCores e.boot (auxRise e s)
    if e.ref25 then s1 else refLoss s1

def execAuxPowerOn (e : AuxIn) (s : State) : Host.Outcome State Fault Refusal := .next (auxPowerOn e s)

/-- R439, R511: 30 ms after AUX with no core that runs a valid image, a core in RECOVERY takes ownership. -/
def recoveryClaim (s : State) : State :=
  if s.mod.auxUp = false ∨ s.mod.owner ≠ none ∨ s.mod.everOwned then s
  else if coreState s 0 = 4 then nmtBoot false (ownBy 0 4 s)
  else if coreState s 1 = 4 then nmtBoot false (ownBy 1 4 s)
  else s

/-- R178, R193, R513, R535: AUX is lost: the main domain and the rails go down, the queue is committed and the seconds are
saved while VAON is held, and every output is released. -/
def auxLoss (s : State) : State :=
  if s.mod.auxUp = false then s
  else
    let s1 := closeOpen (mainDown (railsOff s))
    let s2 := if s1.mod.owner = none then s1 else saveSeconds (modLog (fun l => commitAll l.queue.length l) s1)
    let s3 := setCore 1 0 (setCore 0 0 (odSet s2 oMODULE_STATE (if s.mod.tripLatch then 6 else 0)))
    modPins (fun p => { p with laserEn := false, faultHeld := false, tripN := true })
      (modMod (fun m => { m with auxUp := false, owner := none, everOwned := false })
        (odSet { s3 with ecc := { s3.ecc with armed := none } } oSTART_STEP 0))

def execAuxLoss (s : State) : Host.Outcome State Fault Refusal := .next (auxLoss s)

/-! ### The input stage (R531) -/

def mateRise (s : State) : State :=
  modPins (fun p => { p with mateN := true, inSwitch := false }) (if s.mod.auxUp then inputOut s else s)
def execMateNRise (s : State) : Host.Outcome State Fault Refusal := .next (mateRise s)

def execInputSwitchOn (s : State) : Host.Outcome State Fault Refusal :=
  .next (modPins (fun p => { p with mateN := false, inSwitch := true }) s)

/-! ### Cold start (R394, R501 to R503) -/

/-- R385, R507: a rail is latched off. -/
def anyLatched (s : State) : Bool := (List.range 11).any fun n => railState s n == 4

/-- R501: V_IN has stayed in its range for 100 ms, and for 1 s after an input stop. -/
def inputSteady (s : State) : Bool :=
  match s.mod.vinAt with
  | some t => decide (t + (if s.mod.inStop then 1000000000 else 100000000) ≤ s.now)
  | none => false

/-- R437, R501: the conditions of a cold start. -/
def mayColdStart (s : State) : Bool :=
  s.mod.auxUp && modState s == 0 && (match s.mod.owner with | some c => coreState s c == 2 | none => false)
    && odv s oSTART_HOLD == 0 && !s.mod.tripLatch && !anyLatched s && (s.sec.dik || isAC s)
    && inputSteady s

/-- R475: the counters of chapter 13 start at 0; OPC_SELECT is a setting and stays. -/
def clearCounters (s : State) : State :=
  let gone (k : Nat) : Bool :=
    (diagClass k == .tenant && keyIdx k != 0x2780) || (keyIdx k == 0x2710 && keySub k != 0) || k == oHANG_COUNT
      || k == oTIME_UNLOCKED_NS
  let s1 := { s with od := s.od.filter fun e => !gone e.1 }
  modTim (fun t => { t with lostAt := t.lostAt.map fun _ => s.now }) (modFlt (fun f => { f with opcRem := [] }) s1)

/-- R471, R474: the alignment starts afresh. -/
def clearAlign (s : State) : State :=
  let s1 := [oTIME_ALIGN_STEP, oTIME_ALIGN_PORT, oTIME_ALIGN_DEPTH, oTIME_ALIGN_ERR_NS].foldl (fun s k => odClear s k)
    { s with od := s.od.filter fun e => keyIdx e.1 != 0x2701 }
  odBit (odBit s1 oTIME_FLAGS 2 true) oTIME_FLAGS 3 s1.tim.lostAt.isSome

/-- R312, R316, R319, R327, R334, R341, R343, R505: the envelope's own state in the main domain; while the brake acts, at
its duty and, in dynamic mode, its frequency. -/
def clearFloat (s : State) : State :=
  let brake := odv s oBRAKE_ACTIVE == 1
  let point := if brake && odv s oFREQ_MODE_ACTIVE == 1 then 0 else 12
  let s1 := modFlt (fun f => { f with
    duty0 := if brake then 1 else 16, duty1 := if brake then 1 else 16, pace0 := 16, pace1 := 16, point0 := point
    point1 := point, steps := [], settle := [], learned := [], opE := [], opT := [], share0 := 32768, cals := 0, outRun := 0
    inRun := 0, proj := 0, fell := 0, pRef := none, refSet := false, evs := [] }) s
  showDuty (showFreq 1 (showFreq 0 (showVolt 1 (showVolt 0 s1))))

/-- R394, R395: an engine is reset; one that had failed has had its automatic restart with it. -/
def engineReset (e : Nat) (s : State) : State :=
  if e ∈ s.trw.held then s
  else
    let s1 := if engState s e = 4 then modTrw (fun t => { t with autoAt := tput t.autoAt e s.now }) s else s
    setEng e 0 (modTrw (fun t =>
      let u := { t with adopt := 0, claim := none, due := false, handover := false }
      if e = 0 then { u with railsA := [] } else { u with railsB := [] }) s1)

/-- R410, R429, R471, R475, R501, R502, R505: a cold start begins, with the pins sampled and the profiles whose copies are
both lost. -/
def coldStart (slot prof : Nat) (lost : List Nat) (s : State) : State :=
  if mayColdStart s = false then s
  else
    let s1 := modPins (fun p => { p with slotId := slot, profSel := prof }) (modMod (fun m => { m with inStop := false }) s)
    let s2 := odSet (odSet s1 oSLOT_ID slot) oPROFILE_PINS prof
    let s3 := clearFloat (clearAlign (clearDiag (clearCounters (loseMemory { s2 with tiles := [] }))))
    let s4 := odSet (odSet (setCapBit 9 false s3) oSEC_MODE 0) oPRIMER_COUNT 0
    let s5 := modSec (fun c => { c with last := 0, prev := 0 }) { s4 with meas := { s4.meas with since := false } }
    let s6 := coldProfile prof (lost.foldl (fun s n => profLost n s) s5)
    let s7 := engineReset 1 (engineReset 0 (odSet (odSet s6 oLAST_START_CAUSE s.mod.nextCause) oSTART_FAIL_CODE 0))
    let s8 := odSet (setModState 1 (odSet s7 oSTART_STEP 1)) oPRIMER_LAST_RESULT 0
    let s9 := logEvent evCOLD_START srcModule s.mod.nextCause 0 noCmd s8
    if isReference s9 then aligned 0 0xFE 0 s9 else s9

def execColdStart (slot : Fin 64) (prof : Fin 4) (lost : List (Fin 4)) (s : State) : Host.Outcome State Fault Refusal :=
  .next (coldStart slot.val prof.val (lost.map (·.val)) s)

/-- R394: an engine's pulse test: more than 4 stages failing makes it FAILED. -/
def pulseTest (e : Nat) (fails : List Nat) (s : State) : State :=
  if e ∈ s.trw.held then s else if 4 < fails.length then engFailed e s else setEng e 2 s

/-- R395, R503: the code of a start abandoned because no engine passed its test, and of one whose control-core code has a
wrong digest: the manual names none (log entry 20). -/
def codeNoEngine : Nat := Config.freeWord 0 30 % 2 ^ 16
def codeDigest : Nat := Config.freeWord 0 31 % 2 ^ 16

/-- R352, R354, R394: step 1: the pulse tests, then the comparator test. -/
def startStep1 (e : StartIn) (s : State) : State :=
  let a := e.failsA.map (·.val)
  let b := e.failsB.map (·.val)
  let s1 := pulseTest 1 b (pulseTest 0 a s)
  let both := if 0 ∈ s.trw.held ∨ 1 ∈ s.trw.held then [] else (List.range 108).filter fun p => a.contains p && b.contains p
  let s2 := both.foldl (fun s p => retire (railOfPhase p) p 4 s) s1
  let o := if engState s2 0 = 2 then 0 else 1
  if engState s2 0 ≠ 2 ∧ engState s2 1 ≠ 2 then startFail codeNoEngine srcModule s2
  else
    let s3 := odSet (setEng o 3 s2) oTROWEL_OWNER o
    match e.trip with
    | some n => startFail evTripTestFailed (0x3000 + n.val + 1) (odSet s3 oTRIP_TEST_FAILED (n.val + 1))
    | none =>
      odSet (odSet (modFlt (fun f => { f with expectTo := max f.expectTo (s3.now + 10000000) }) s3) oTRIP_TEST_FAILED 0)
        oSTART_STEP 2

/-- R191: the LPDDR5X rows that were repaired. -/
def repairRows (rows : List Nat) (s : State) : State :=
  let done := s.ecc.pprRows.filter fun r => rows.contains r
  let s1 := done.foldl (fun s r => logEvent evPPR_APPLIED (0x5000 + (lpChannel (r * 2048)).1) 0 (r * 2048) noCmd s) s
  let left := s.ecc.pprRows.filter fun r => !rows.contains r
  odSet { s1 with ecc := { s1.ecc with pprRows := left } } oPPR_PENDING (left.length % 2 ^ 16)

/-- R177, R191: step 6: repairs and training. -/
def startStep6 (e : StartIn) (s : State) : State :=
  let s1 := repairRows e.repaired s
  match e.training with
  | some (k, c, t) =>
    let s2 := logEvent evLPDDR_TRAIN_FAILED (0x5000 + k.val) c.val (t.val + 1) noCmd s1
    startFail evLPDDR_TRAIN_FAILED (0x5000 + k.val) s2
  | none => odSet { s1 with ecc := { s1.ecc with trained := List.range 64 } } oSTART_STEP 7

/-- R127, R502: the tiles as step 8 leaves them: zeroed, at rest where TILE_ENABLE is 1. -/
def freshTiles (s : State) : State :=
  (List.range 288).foldl (fun s t =>
    if odv s (enableKey t) = 0 then s else setTile s t { TileSt.initial with mode := .rest })
    (zeroFill 0x40000000 0x24000000 (zeroFill 0 0x24000000 { s with tiles := [], mesh := ⟨[], []⟩ }))

/-- R316, R502, R503: step 8: tiles, the voltage that they ask for, and the control cores' code. -/
def startStep8 (e : StartIn) (s : State) : State :=
  if e.digestOk = false then startFail codeDigest srcModule s
  else logSimple evSTART_DONE srcModule (setModState 2 (odSet (voltStep 1 (voltStep 0 (freshTiles s))) oSTART_STEP 0))

/-- R468, R502: step 4: the PLLs are locked; LASER_EN may rise and the ports come up. -/
def startStep4 (s : State) : State :=
  raisePorts (laserUpdate (odSet s oSTART_STEP 5))

/-- R502: the step in progress is done. -/
def startStep (e : StartIn) (s : State) : State :=
  if modState s ≠ 1 then s
  else match odv s oSTART_STEP with
    | 1 => startStep1 e s
    | 2 => odSet s oSTART_STEP 3
    | 3 => if (List.range 11).all fun n => railState s n == 2 then odSet s oSTART_STEP 4 else s
    | 4 => startStep4 s
    | 5 => odSet (zeroFill 0x100000000 0x200000000 s) oSTART_STEP 6
    | 6 => startStep6 e s
    | 7 => odSet (zeroFill 0x10000000000 0x12000000000 s) oSTART_STEP 8
    | 8 => startStep8 e s
    | _ => s

def execStartStepComplete (e : StartIn) (s : State) : Host.Outcome State Fault Refusal := .next (startStep e s)

/-! ### Resets and stops (R506 to R508) -/

/-- R508: a port still drains. -/
def draining (s : State) : Bool :=
  (List.range 16).any fun p => (portOf s p).drain && (portState s p == 6 || portState s p == 7)

/-- R508: the rails soft-stop once every port's drain has ended and every tile rests. -/
def stopWhenRest (s : State) : State :=
  if modState s = 4 ∧ s.trw.stopping = false ∧ draining s = false ∧ s.tiles.all (fun e => !e.2.credit) then stopRails s else s

/-! ### Events that may end a port's drain (R214, R219, R231 to R234, R508) -/

/-- R221, R508: a write of PORT_ENABLE may take a draining port out of service. -/
def wPortEnable (p v : Nat) (s : State) : Nat × State := let r := wEnable p v s; (r.1, stopWhenRest r.2)

def execPortEnableWrite (path : Fin 4) (p : Fin 16) (v : Nat) (s : State) : Host.Outcome State Fault Refusal :=
  .next (namedWrite path.val (pKey oPORT_ENABLE p.val) v (wPortEnable p.val v) s)
def execKeyChange (p : Fin 16) (s : State) : Host.Outcome State Fault Refusal := .next (stopWhenRest (keyChange p.val s))
def execLaserOkFall (s : State) : Host.Outcome State Fault Refusal := .next (stopWhenRest (laserOkFall s))
def execLossOfLight (p : Fin 16) (s : State) : Host.Outcome State Fault Refusal :=
  .next (stopWhenRest (lossOfLight p.val s))
def execRetrainComplete (p : Fin 16) (ok : Fin 256) (s : State) : Host.Outcome State Fault Refusal :=
  .next (stopWhenRest (retrainComplete p.val ok.val s))
def execRetrainTimeout (p : Fin 16) (s : State) : Host.Outcome State Fault Refusal :=
  .next (stopWhenRest (retrainTimeout p.val s))
def execGoingDownNotice (p : Fin 16) (s : State) : Host.Outcome State Fault Refusal :=
  .next (stopWhenRest (goingDown p.val s))
def execPeerFailureNotice (p : Fin 16) (s : State) : Host.Outcome State Fault Refusal :=
  .next (stopWhenRest (portLoss p.val false s))
def execFlitReceive (p : Fin 16) (f : FlitIn) (s : State) : Host.Outcome State Fault Refusal :=
  .next (stopWhenRest (flitReceive p.val f s))
def execDrainTimeout (p : Fin 16) (s : State) : Host.Outcome State Fault Refusal :=
  .next (stopWhenRest (drainTimeout p.val s))
def execPortLost (p : Fin 16) (s : State) : Host.Outcome State Fault Refusal :=
  .next (stopWhenRest (portLoss p.val false s))

/-- R31, R508: a take-back, with what follows in an ordered stop. -/
def execCreditTakeBack (t : TileId) (s : State) : Host.Outcome State Fault Refusal :=
  .next (stopWhenRest (takeBack t.val s))

/-- R508: an ordered stop begins, for a request. -/
def orderedStop (req : Nat) (s : State) : State :=
  let s1 := dropCommands 0x0592 (dropGraphs 0x0592 s)
  let s2 := logEvent evSTOP srcModule req 0 noCmd (setModState 4 (modMod (fun m => { m with stopReq := req, nextCause := 1 }) s1))
  stopWhenRest ((List.range 16).foldl (fun s p => if portState s p = 6 ∨ portState s p = 7 then startDrain p s else portOff p s) s2)

/-- R500: every rail is OFF: the module is in STANDBY. -/
def stopDone (s : State) : State :=
  if modState s ≠ 4 ∨ ((List.range 11).any fun n => railState s n != 0) then s
  else odSet (setModState 0 (mainDown s)) oSTART_HOLD (b2n (s.mod.stopReq == 2))

def execOrderedStopComplete (s : State) : Host.Outcome State Fault Refusal := .next (stopDone s)

/-- R500, R507: RESET_REQUEST 1 or 2. -/
def wResetMain (v : Nat) (s : State) : Nat × State :=
  let st := modState s
  if st = 1 ∨ st = 4 then (0x0592, s)
  else if st = 3 then (0x0581, s)
  else if anyLatched s ∨ s.mod.tripLatch then (0x0594, s)
  else if st = 2 then (0, orderedStop v s)
  else
    let c := if st = 5 then 3 else if v = 1 then 1 else s.mod.nextCause
    (0, setModState 0 (odSet (modMod (fun m => { m with nextCause := c }) s) oSTART_HOLD (v - 1)))

/-- R506: the ROBs that tiles have in a front end complete with a code. -/
def dropTileRobs (fe code : Nat) : Nat → State → State
  | 0, s => s
  | n + 1, s =>
    match robAt s fe 0 with
    | none => s
    | some r => dropTileRobs fe code n (finishRob fe 0 (setRob fe 0 { r with todo := [], outs := [], fails := [(0, code)] } s))

/-- R506: ROBs and collectives that the host issued through a die's control cores end. -/
def dropHostIssued (d code : Nat) (s : State) : State :=
  let mine (e : Nat × FeSt) : List RobSt := if e.1 / 8 = d then e.2.robs.filter (·.tile.isNone) else []
  let rs := s.rem.fes.flatMap mine
  let cs := if d = 0 then s.rem.colls else []
  let lost := rs.filterMap (fun r => if rOp r.rob = 1 then some (r.laddr, rBytes r.rob) else none)
    ++ cs.map fun x => (cOut x.desc, outBytes s x.desc)
  let s1 := rs.foldl (fun s r => finish r.ring r.idx (resOf code) s) s
  let s2 := cs.foldl (fun s x => finish x.ring x.idx (resOf code) s) s1
  undefineAll lost { s2 with rem := { s2.rem with
    fes := s2.rem.fes.map fun e => if e.1 / 8 = d then (e.1, { e.2 with robs := e.2.robs.filter (!·.tile.isNone) }) else e
    colls := if d = 0 then [] else s2.rem.colls } }

/-- R506: every ROB and collective issued by a die's control cores ends, those of the host and those of tiles. -/
def dropIssued (d code : Nat) (s : State) : State :=
  let s1 := dropHostIssued d code s
  ((List.range 8).map (8 * d + ·)).foldl (fun s fe => dropTileRobs fe code (feSt s fe).robs.length s) s1

/-- R506: a graph of the region is discarded; a load of it ends too, and an unload that waits for it is done. -/
def dropRegionGraph (h code : Nat) (s : State) : State :=
  match tfind s.graphs h with
  | none => s
  | some g =>
    let s1 := freeGraph h (stopGraph h code s)
    let s2 := match g.loading with | some (r, i) => finish r i (resOf code) s1 | none => measUnload (graphTiles g) s1
    match g.unload with | some (r, i) => finish r i (resOf 0) s2 | none => s2

/-- R506: the region of a die resets. -/
def regionReset (d : Nat) (s : State) : State :=
  let hs := (s.graphs.filter fun e => (graphTiles e.2).any fun t => dieOf t == d).map (·.1)
  let s1 := dropIssued d 0x0591 (hs.foldl (fun s h => dropRegionGraph h 0x0591 s) s)
  let s2 := regionClear d s1
  let lo := d * 0x40000000
  let s3 := dropCells (storeCell (144 * d) 0) (144 * 2 ^ 20) (disarmIn lo 0x24000000 (zeroFill lo 0x24000000 { s2 with
    tiles := s2.tiles.map fun e => if dieOf e.1 = d then (e.1, tileErased e.2) else e }))
  logEvent evREGION_RESET srcModule d 0 noCmd (modFlt forgetShares s3)

/-- R507: RESET_REQUEST 3 or 4. -/
def wResetRegion (d : Nat) (s : State) : Nat × State :=
  let st := modState s
  if st = 1 ∨ st = 4 then (0x0592, s)
  else if st = 3 then (0x0581, s)
  else if st ≠ 2 then (0x0590, s)
  else if regionState s d = 2 then (0x0592, s)
  else (0, regionReset d s)

def execRegionResetComplete (die : Fin 2) (s : State) : Host.Outcome State Fault Refusal :=
  .next (if regionState s die.val = 2 ∧ modState s = 2 then regionDone die.val s else s)

/-! ### Management cores (R408, R509 to R512) -/

/-- R412 to R414: a USDO frame leaves on its bus, on 0x580 plus the node ID (a request comes on 0x600 plus it); none does
without an owning core or in STOPPED. -/
def usdoSend (bus : Nat) (bs : List Byte) (s : State) : State :=
  if s.mod.owner = none ∨ odv s oNMT_STATE = 4 then s
  else emit (.usdo bus (0x580 + nodeId s) bs) (busSent bus s)

/-- R415, R416: a USDO abort on a bus: the object and the abort code. -/
def usdoAbort (bus key abort : Nat) (s : State) : State :=
  usdoSend bus (leBytes 1 0x7F ++ leBytes 2 (keyIdx key) ++ leBytes 1 (keySub key) ++ leBytes 4 abort) s

/-- R415: a bus's session ends with an abort code; the status recorded is that of the cause. -/
def endSession (bus abort code : Nat) (s : State) : State :=
  match tfind s.can.usdo bus with
  | none => s
  | some u =>
    tell bus code (usdoAbort bus u.key abort { s with can := { s.can with usdo := tdel s.can.usdo bus } })

/-- R426, R427: the mailbox command completes with a code; RESULT_LEN is of the last read. -/
def mailDone (code : Nat) (s : State) : State :=
  let m := s.can.mail
  let len := if m.cmd = 1 ∨ m.cmd = 4 then m.len else m.resLen
  let s1 := tell 2 code { s with can := { s.can with
    mail := { m with busy := false, done := true, status := code, resLen := len } } }
  if odv s1 oOD_MSIX_VECTOR < 64 then sendMsix (odv s1 oOD_MSIX_VECTOR) s1 else s1

/-- R408, R510: core `c` takes over from the other: the management requests in progress end, every service goes on from the
shared state. -/
def mgmtTakeover (c : Nat) (s : State) : State :=
  let s1 := endSession 1 0x08000000 0x0571 (endSession 0 0x08000000 0x0571 (ownBy c 2 s))
  let s2 := if s1.can.mail.busy then mailDone 0x0571 s1 else s1
  let s3 := { s2 with can := { s2.can with profBusy := s2.can.profBusy.map fun b => (3, b.2) } }
  emcyEvent 0x5000 7 evMGMT_TAKEOVER
    (logEvent evMGMT_TAKEOVER (0x4010 + c) (1 - c) 0 noCmd (odAdd32 s3 oMGMT_TAKEOVERS 1))

/-- R511: a core fails; within 3,600 s of its automatic restart, for good. -/
def coreFails (c : Nat) (s : State) : State :=
  let again : Bool := match tfind s.mod.autoAt c with | some t => decide (s.now < t + 3600000000000) | none => false
  setCore c 3 (if again then modMod (fun m => { m with dead := c :: m.dead }) s else s)

/-- R510, R511: the owning core fails: a standby takes over, or no core owns. -/
def ownerFails (c : Nat) (s : State) : State :=
  let s1 := modMod (fun m => { m with owner := none }) (coreFails c s)
  if coreState s (1 - c) = 1 then mgmtTakeover (1 - c) s1 else s1

def heartbeatLost (s : State) : State :=
  match s.mod.owner with
  | some c => if coreState s c = 2 then ownerFails c s else s
  | none => s

/-- R511: a core's self-check fault. -/
def coreFault (c : Nat) (s : State) : State :=
  if s.mod.owner = some c ∧ coreState s c = 2 then ownerFails c s
  else if coreState s c = 1 then logSimple evMGMT_CORE_FAILED (0x4010 + c) (coreFails c s)
  else s

def execMgmtHeartbeatTimeout (s : State) : Host.Outcome State Fault Refusal := .next (heartbeatLost s)
def execMgmtSelfCheckFault (core : Fin 2) (s : State) : Host.Outcome State Fault Refusal := .next (coreFault core.val s)

/-- R511: a core leaves the boot ROM with a valid image, or without one. -/
def coreBoots (c : Nat) (ok : Bool) (s : State) : State :=
  if ok = false then setCore c 4 s
  else if s.mod.owner = none then nmtBoot true (modMod (fun m => { m with everOwned := true }) (ownBy c 2 s))
  else setCore c 1 s

/-- R511: 1 s after its failure a core is reset, unless that has happened within 3,600 s or it stays FAILED for good. -/
def coreRestart (c : Nat) (ok : Bool) (s : State) : State :=
  let recent : Bool := match tfind s.mod.autoAt c with | some t => decide (s.now < t + 3600000000000) | none => false
  if s.mod.auxUp = false ∨ coreState s c ≠ 3 ∨ recent ∨ c ∈ s.mod.dead then s
  else coreBoots c ok (modMod (fun m => { m with autoAt := tput m.autoAt c s.now }) (setCore c 0 s))

/-- R507, R511: RESET_REQUEST 5: the standby takes over and the old owner boots again. -/
def wHandMgmt (ok : Bool) (s : State) : Nat × State :=
  let st := modState s
  if st = 1 ∨ st = 4 then (0x0592, s)
  else if st = 3 then (0x0581, s)
  else match s.mod.owner with
    | none => (0x0593, s)
    | some c =>
      if coreState s (1 - c) ≠ 1 then (0x0593, s)
      else (0, coreBoots c ok (mgmtTakeover (1 - c) (setCore c 0 s)))

/-- R512: 10 ms without an owner. -/
def noOwner (s : State) : State :=
  if s.mod.auxUp = false ∨ s.mod.owner ≠ none then s
  else modPins (fun p => { p with faultHeld := true })
    (modMod (fun m => { m with hwCap := min m.hwCap (odv s oAUTONOMOUS_CAP_W) }) s)

def execNoOwnerTimeout (s : State) : Host.Outcome State Fault Refusal := .next (noOwner s)

/-- R507: a write of RESET_REQUEST; `ok` says whether the image verifies for a core that boots again. -/
def wReset (v : Nat) (ok : Bool) (s : State) : Nat × State :=
  if v = 1 ∨ v = 2 then wResetMain v s
  else if v = 3 ∨ v = 4 then wResetRegion (v - 3) s
  else wHandMgmt ok s

def execResetRequestColdStart (path : Fin 4) (s : State) : Host.Outcome State Fault Refusal :=
  .next (namedWrite path.val oRESET_REQUEST 1 (wReset 1 true) s)
def execResetRequestStandby (path : Fin 4) (s : State) : Host.Outcome State Fault Refusal :=
  .next (namedWrite path.val oRESET_REQUEST 2 (wReset 2 true) s)
def execRegionReset (path : Fin 4) (die : Fin 2) (s : State) : Host.Outcome State Fault Refusal :=
  .next (namedWrite path.val oRESET_REQUEST (3 + die.val) (wReset (3 + die.val) true) s)
def execMgmtHandover (path : Fin 4) (imageOk : Bool) (s : State) : Host.Outcome State Fault Refusal :=
  .next (namedWrite path.val oRESET_REQUEST 5 (wReset 5 imageOk) s)

end Sys2Proof.Machine
end

