-- ==== Sys2Proof/Machine/Dict.lean ====
section
/-! DEFINITION. Reading and writing any object of the dictionary: the effect of every writable object, and what a read of each
gives (R403 to R407, R418, R432, and the object tables of every chapter). -/
namespace Sys2Proof.Machine

/-! ### Effects of writes without a row of their own -/

/-- R355, R398: a write of 1 clears a W1C bit; the other bits stay. -/
def wClearBits (k : Nat) (bits : List Nat) (v : Nat) (s : State) : Nat × State :=
  (0, odSet s k (bits.foldl (fun w b => if bitAt v b then setBits w b 1 0 else w) (odv s k)))

/-- R397: OC_SLOW_A: a quarter of the rated current to 40 A for each installed phase, in 0.1 A. -/
def wOcSlow (n v : Nat) (s : State) : Nat × State :=
  if v = 0 then (0x0102, s)
  else if v < ceilDiv (railRated n * 10) 4 then (0x0104, s)
  else if 400 * railPhases n < v then (0x0103, s)
  else wStore (railKey oOC_SLOW_A n) v s

/-- R224: LOCATE of a port, which its link carries to the peer. -/
def wLocate (p v : Nat) (s : State) : Nat × State :=
  let s1 := odSet s (oLOCATE + 256 * p) v
  (0, sendLocate p s1)

/-- R433: OD_MSIX_VECTOR: 0 to 63, or 0xFF for none. -/
def wMsixVector (v : Nat) (s : State) : Nat × State :=
  if 63 < v ∧ v ≠ 255 then (0x0103, s) else wStore oOD_MSIX_VECTOR v s

/-- R419: a transmission type: 1 to 240, or 0xFE. -/
def wTxType (k v : Nat) (s : State) : Nat × State := if 240 < v ∧ v ≠ 254 then (0x0103, s) else wStore k v s

/-- R429: a field that waits for the next cold start. -/
def wResetField (k v : Nat) (s : State) : Nat × State := (0, showPending (odSet s k v))

/-- R449: SPDM_REQUEST: its length; the request itself acts by its own row. -/
def wSpdm (n : Nat) (s : State) : Nat × State :=
  if n = 0 then (0x0102, s) else if n < 4 then (0x0104, s) else if 262144 < n then (0x0103, s) else (0, s)

/-- R523: LOG_READ_SEQ has one value per path. -/
def wReadSeq (path v : Nat) (s : State) : Nat × State := (0, modLog (fun l => { l with readSeq := tput l.readSeq path v }) s)

/-! ### PDO mappings (R418) -/

/-- R418: the mapping entries of a PDO, as far as its count. -/
def mapEntries (s : State) (idx n : Nat) : List Nat := (List.range n).map fun i => odv s (idx * 256 + i + 1)

/-- R418: the bits of an entry. -/
def entryBits (e : Nat) : Nat := e % 256
def entryKey (e : Nat) : Nat := e / 65536 * 256 + e / 256 % 256

/-- R418: a filler byte. -/
def isFiller (e : Nat) : Bool := e / 65536 == 5 && e % 256 == 8

/-- R418: an entry may stand in a TPDO, or in an RPDO. -/
def mappable (rpdo : Bool) (e : Nat) : Bool :=
  isFiller e || match odRow (entryKey e) with
    | none => false
    | some r =>
      r.ty != .dom && r.ty != .str && entryBits e == 8 * odSize r.ty
        && (if rpdo then r.acc != .ro && pathMayWrite 0 (entryKey e) else pathMayRead 0 (entryKey e))

/-- R418: the code of a mapping count. -/
def mapCode (s : State) (idx n : Nat) : Nat :=
  let es := mapEntries s idx n
  if 64 < n then 0x0103
  else if es.any fun e => !mappable (idx == 0x1600) e then 0x01C4
  else if 64 < lsum (es.map fun e => entryBits e / 8) then 0x0103
  else 0

/-- R418: a mapping count is judged; a refused one leaves the mapping empty. -/
def wMapCount (idx n : Nat) (s : State) : Nat × State :=
  let c := mapCode s idx n
  (c, odSet s (idx * 256) (if c = 0 then n else 0))

/-! ### Every write -/

/-- R404, R405 step 8: the effect of a write that has passed steps 1 to 7, first of the objects of a port or a rail. -/
def wIndexed (k v : Nat) (env : WriteEnv) (s : State) : Option (Nat × State) :=
  let i := keyIdx k
  let j := keySub k
  if 0x2400 ≤ i ∧ i ≤ 0x240F then
    let p := i - 0x2400
    if j = 2 then some (wPortEnable p v s)
    else if j = 9 then some (wFecMode p v s)
    else if j = 0xD then some (wLocate p v s)
    else if j = 0xE then some (wRetrainNow p v s)
    else none
  else if 0x2200 ≤ i ∧ i ≤ 0x220A then
    let n := i - 0x2200
    if j = 2 then some (wVset n v s)
    else if j = 5 then some (wOcSlow n v s)
    else if j = 0xB then some (wPeakClear n v s)
    else if j = 0xF then some (wClearBits k [0, 8, 9] v s)
    else none
  else if i = 0x3002 ∨ i = 0x3003 then some (wTileEnable (objTile 0x3002 k) v env.power s)
  else if isPdoMap i ∧ j = 0 then some (wMapCount i v s)
  else if 0x1800 ≤ i ∧ i ≤ 0x1802 ∧ j = 2 then some (wTxType k v s)
  else if i = 0x2751 then some (wBrkAddr (j - 1) v s)
  else if i = 0x2780 then some (wOpc (j - 1) v s)
  else none

/-- The effect of a write of an object of the power envelope or of Trowel. -/
def wPower (k v : Nat) (env : WriteEnv) (s : State) : Option (Nat × State) :=
  if k = oCAP_TARGET_W then some (wCapTarget v s)
  else if k = oAUTONOMOUS_CAP_W ∨ k = oSAFE_CAP_W then some (wCap k v s)
  else if k = oCAP_STATUS then some (wClearBits k [0, 10] v s)
  else if k = oSAFE_CAP_CLEAR then some (wSafeClear v s)
  else if k = oSLEW_LIMIT_CORE0 then some (wSlewLimit 0 v s)
  else if k = oSLEW_LIMIT_CORE1 then some (wSlewLimit 1 v s)
  else if k = oSTEP_TEST then some (wStepTest v s)
  else if k = oTROWEL_HANDOVER then some (wHandover v s)
  else if k = oFLOW_LPM then some (wFlowLpm v s)
  else if k = oFLOW_LOSS then some (wFlowLoss v s)
  else if k = oTRIP_TEST then some (wTripTest v (env.failed.map (·.val + 1)) s)
  else if k = oGAIN_BANK_COMMIT then some (wGainCommit v s)
  else if k = oGAIN_BANK_SWAP then some (wGainSwap v s)
  else none

/-- The effect of a write of an object of the fabric, of memory or of security. -/
def wUnits (k v : Nat) (env : WriteEnv) (s : State) : Option (Nat × State) :=
  if k = oNODE_ID then some (wNodeId v s)
  else if k = oMACHINE_ID then some (wMachineId v s)
  else if k = oFABRIC_DIMS then some (wFabricDims v s)
  else if k = oREKEY_ALL then some (wRekeyAll v s)
  else if k = oLASER_RESTART then some (wLaserRestart v s)
  else if k = oMEMBER_REVIVE then some (wMemberRevive v s)
  else if k = oERR_INJECT_ARM then some (wInjectArm v s)
  else if k = oCONF_MODE_REQUEST then some (wConfMode v s)
  else if k = oLINK_AUTH_MODE then some (wLinkAuth v s)
  else if k = oPRIMER_START then some (wPrimerStart v s)
  else if k = oFW_STAGE_OFFSET then some (wStageOffset v s)
  else if k = oFW_STAGE_COMMIT then some (wStageCommit v s)
  else if k = oFW_ACTIVATE then some (wActivate v env.boot s)
  else if k = oFW_COMMIT_SVN then some (wCommitSvn v s)
  else none

/-- The effect of a write of an object of observation, start-up or the field network. -/
def wLife (path k v : Nat) (env : WriteEnv) (s : State) : Option (Nat × State) :=
  if k = oTIME_REFERENCE then some (wTimeRef v s)
  else if k = oTRACE_CTL then some (wTraceCtl v s)
  else if k = oTRACE_ARM then some (wTraceArm v s)
  else if k = oTRACE_STOP then some (wTraceStop v s)
  else if k = oTRACE_TRIGGER then some (wTraceTrigger v s)
  else if k = oTRACE_READ_OFFSET then some (wTraceOffset v s)
  else if k = oBRK_RESUME then some (wBrkResume v s)
  else if k = oWFG_REQUEST then some (wWfgRequest v s)
  else if k = oFREEZE_NOW then some (wFreezeNow v s)
  else if k = oFREEZE_AT then some (wFreezeAt v s)
  else if k = oFREEZE_RELEASE then some (wFreezeRelease v s)
  else if k = oLOG_READ_SEQ then some (wReadSeq path v s)
  else if k = oRESET_REQUEST then some (wReset v env.imageOk s)
  else if k = oOD_MSIX_VECTOR then some (wMsixVector v s)
  else if k = oRM_NODE_ID ∨ k = oNMT_AUTOSTART then some (wResetField k v s)
  else if k = oPROFILE_ACTIVE then some (wProfile v s)
  else if k = oPROFILE_SAVE then some (wProfSave path v s)
  else if k = oPROFILE_FACTORY then some (wProfFactory path v s)
  else none

/-- The first of some effects that applies, or the plain store of a setting. -/
def firstEff (k v : Nat) (s : State) : List (Option (Nat × State)) → Nat × State
  | [] => wStore k v s
  | some r :: _ => r
  | none :: l => firstEff k v s l

/-- R405: the effect of a write of bytes to an object. -/
def wAny (path k : Nat) (bs : List Byte) (env : WriteEnv) (s : State) : Nat × State :=
  let v := leNat bs
  if k = oGAIN_BANK_IMAGE then wGainImage bs s
  else if k = oFW_STAGE_CHUNK then wStageChunk bs s
  else if k = oSPDM_REQUEST then wSpdm bs.length s
  else firstEff k v s [wIndexed k v env s, wPower k v env s, wUnits k v env s, wLife path k v env s]

/-- R405, R407: a write of bytes to an object on a path. -/
def odWrite (path k : Nat) (bs : List Byte) (env : WriteEnv) (s : State) : Nat × State :=
  odTry path k bs.length (leNat bs) (fun s => if isDomain k && domBusy s path k then (0x0570, s) else wAny path k bs env s) s

/-- R405: a write by a row: told to its path, unless it waits for flash. -/
def objectWrite (path k : Nat) (bs : List Byte) (env : WriteEnv) (s : State) : State :=
  if s.mod.owner = none then s
  else
    let (c, s1) := odWrite path k bs env s
    if waitsFlash k c then { s1 with resp := 0 } else tell path c s1

def objKey (idx : Fin 65536) (sub : Fin 256) : Nat := idx.val * 256 + sub.val

def execObjectWrite (path : Fin 4) (idx : Fin 65536) (sub : Fin 256) (bs : List Byte) (env : WriteEnv) (s : State) :
    Host.Outcome State Fault Refusal :=
  .next (objectWrite path.val (objKey idx sub) bs env s)

/-- R418: the index of a PDO's mapping: RPDO1, then TPDO1 to TPDO3. -/
def pdoMapIdx (n : Nat) : Nat := if n = 0 then 0x1600 else 0x1A00 + (n - 1)

def execPdoMappingWrite (path : Fin 4) (pdo : Fin 4) (n : Fin 256) (s : State) : Host.Outcome State Fault Refusal :=
  .next (namedWrite path.val (pdoMapIdx pdo.val * 256) n.val (wMapCount (pdoMapIdx pdo.val) n.val) s)

/-! ### Every read -/

/-- R433: ORDER_CODE. -/
def orderCode (s : State) : List Byte :=
  [90, 76, 77, 45, 49, 54, 52, 48, 45, 65, if isAC s then 67 else 83]

/-- R405, R406, R478: the number that an object reads as: a frozen one as it was latched. -/
def odNumber (s : State) (path k : Nat) : Nat :=
  readAs s k (if frozen s && accumulates k then tget s.frz k (odDefault k) else odLive s path k)

/-- R405: a read of an object on a path: its code, its bytes and the state after it. A WO object reads 0. -/
def odRead (path k : Nat) (s : State) : Nat × List Byte × State :=
  if odFind s k ≠ 0 then (odFind s k, [], s)
  else if pathMayRead path k = false then (0x0450, [], s)
  else match odRow k with
    | none => (0x01C1, [], s)
    | some r =>
      if k = oLOG_RECORD then logRecord path s
      else if k = oLOG_OPEN_RECORD then (0, openRecord s, s)
      else if k = oTRACE_DATA then ((traceData path s).1, (traceData path s).2, s)
      else if k = oORDER_CODE then (0, orderCode s, s)
      else if r.ty = .dom then
        (0, if r.acc = .wo ∨ (confidential s ∧ diagClass k = .diagnostic) then [] else tget s.dom k [], s)
      else (0, leBytes (odSize r.ty) (if r.acc = .wo then 0 else odNumber s path k), s)

/-- A code of class 0x00: the request succeeded (R13). -/
def isSuccess (c : Nat) : Bool := decide (c < 0x100)

end Sys2Proof.Machine
end

