-- ==== Sys2Proof/Machine/Can.lean ====
section
/-! DEFINITION. The field network and the mailbox: USDO, NMT, PDOs, SYNC, heartbeats, emergency messages and the mailbox's
commands (R408 to R427, R430). -/
namespace Sys2Proof.Machine

def modCan (f : CanSt → CanSt) (s : State) : State := { s with can := f s.can }

/-- R409: a frame received takes one off the receive errors, and brings a count above 127 down to it. -/
def busHeard (bus : Nat) (s : State) : State :=
  let e := canErr s bus
  if e.rx = 0 then s
  else modCan (fun c => { c with errs := tput c.errs bus { e with rx := min 127 (e.rx - 1) } }) s

/-- R411: a frame arrives on a bus. -/
def busAlive (bus : Nat) (s0 : State) : State :=
  let s := busHeard bus s0
  if odv s (oCAN_BUS_STATE + bus) = 3 then odSet s (oCAN_BUS_STATE + bus) 0 else s

/-- R509, R512: an owning core serves the field network. -/
def canUp (s : State) : Bool := s.mod.auxUp && s.mod.owner.isSome

def nmtState (s : State) : Nat := odv s oNMT_STATE

/-! ### USDO (R414 to R416) -/

/-- R416: the abort code of a status code. -/
def abortCode (k c : Nat) : Nat :=
  if c = 0x0571 then 0x05040000
  else if c / 256 = 4 then 0x06010000
  else if c = 0x01C2 then 0x06010002
  else if c = 0x01C0 then 0x06020000
  else if c = 0x01C4 then 0x06040041
  else if c = 0x0103 ∧ isPdoMap (keyIdx k) then 0x06040042
  else if c = 0x01C3 ∨ c = 0x0101 then 0x06070010
  else if c = 0x01C1 then 0x06090011
  else if c = 0x0102 ∨ c = 0x0103 then 0x06090030
  else if c = 0x01B2 ∨ c = 0x0104 then 0x06090032
  else if c = 0x0570 then 0x08000020
  else if c / 256 = 5 then 0x08000022
  else 0x08000000

/-- R414: an answer: its kind (1 initiate, 2 segment, 3 expedited data), the object and its bytes. -/
def usdoAnswer (bus kind key : Nat) (bs : List Byte) (s : State) : State :=
  usdoSend bus (leBytes 1 kind ++ leBytes 2 (keyIdx key) ++ leBytes 1 (keySub key) ++ bs) s

/-- R416: an abort for a status code, which the bus records. -/
def usdoRefuse (bus key code : Nat) (s : State) : State := tell bus code (usdoAbort bus key (abortCode key code) s)

def openSession (bus : Nat) (u : UsdoSt) (s : State) : State := modCan (fun c => { c with usdo := tput c.usdo bus u }) s
def closeSession (bus : Nat) (s : State) : State := modCan (fun c => { c with usdo := tdel c.usdo bus }) s

/-- R414, R416, R430: a write by USDO ends: confirmed, aborted, or left until flash is written. -/
def usdoWrite (bus kind key : Nat) (bs : List Byte) (env : WriteEnv) (s : State) : State :=
  let (c, s1) := odWrite bus key bs env s
  if waitsFlash key c then openSession bus ⟨key, 0, [], true, true⟩ { s1 with resp := 0 }
  else if isSuccess c then tell bus c (usdoAnswer bus kind key [] s1)
  else usdoRefuse bus key c s1

/-- R403, R415: the largest size of an object. -/
def largest (k : Nat) : Nat :=
  if k = oGAIN_BANK_IMAGE then gainSize else if k = oFW_STAGE_CHUNK then 65536
  else match odRow k with
    | some r => if r.ty = .dom then 262144 else odSize r.ty
    | none => 262144

/-- R370, R407, R415: the code of a segmented write at its start. -/
def sizeCode (s : State) (bus key : Nat) (size : Option Nat) : Nat :=
  let n := size.getD 0
  let c := odJudge s bus key n 1
  if c ≠ 0 ∧ c ≠ 0x01C3 ∧ c ≠ 0x0102 ∧ c ≠ 0x0103 ∧ c ≠ 0x0104 then c
  else if n = 0 then 0x0102
  else if largest key < n then 0x0103
  else if c = 0x01C3 then c
  else if key = oGAIN_BANK_IMAGE ∧ n ≠ gainSize then 0x01B0
  else if key = oSPDM_REQUEST ∧ n < 4 then 0x0104
  else if isDomain key && domBusy s bus key then 0x0570
  else 0

/-- R414: a read by USDO: expedited up to 60 bytes, else a session. -/
def usdoRead (bus key : Nat) (s : State) : State :=
  let (c, bs, s1) := odRead bus key s
  if isSuccess c = false then usdoRefuse bus key c s1
  else if bs.length ≤ 60 then tell bus c (usdoAnswer bus 3 key bs s1)
  else tell bus c (usdoAnswer bus 1 key (leBytes 4 bs.length) (openSession bus ⟨key, bs.length, bs, false, false⟩ s1))

def reqKey (r : UsdoReq) : Nat :=
  match r with | .read i j => objKey i j | .expedited i j _ => objKey i j | .segmented i j _ => objKey i j

/-- R413 to R415: an initiate on a bus. -/
def usdoInitiate (bus : Nat) (r : UsdoReq) (env : WriteEnv) (s0 : State) : State :=
  let s := busAlive bus s0
  if canUp s = false ∨ nmtState s = 4 then s
  else if (tfind s.can.usdo bus).isSome then usdoRefuse bus (reqKey r) 0x0570 s
  else match r with
    | .read _ _ => usdoRead bus (reqKey r) s
    | .expedited _ _ bs =>
      if 60 < bs.length then usdoRefuse bus (reqKey r) 0x01C3 s else usdoWrite bus 1 (reqKey r) bs env s
    | .segmented _ _ n =>
      let c := sizeCode s bus (reqKey r) n
      if c ≠ 0 then usdoRefuse bus (reqKey r) c s
      else usdoAnswer bus 1 (reqKey r) [] (openSession bus ⟨reqKey r, n.getD 0, [], true, false⟩ s)

/-- R369, R372: the shipped image of a bank, as bytes. -/
def shippedImage (b : Nat) : List Byte :=
  leBytes 4 0x54574B47 ++ leBytes 2 1 ++ leBytes 1 b ++ [0] ++ leBytes 2 352 ++ leBytes 2 0 ++ leBytes 4 Config.gainCrc
    ++ zeros 16 ++ (List.range 352).flatMap fun i => (List.range 48).flatMap fun w => leBytes 4 (shippedWord (i / 32) (i % 32) (4 * w))

/-- R370: the bytes of a gain image as they arrive: judged once the header is there, then stored. -/
def gainPart (bs : List Byte) (s : State) : Nat × State :=
  let b := byteAt bs 6
  if bs.length < 32 then (0, s)
  else if 1 < b then (0x01B0, s)
  else if bankLive s b then (0x05B1, s)
  else
    let old := (tfind s.trw.banks b).getD (shippedImage b)
    let img := spliceAt old 0 bs
    let s1 := modTrw (fun t => { t with banks := tput t.banks b img }) (setBankValid b false s)
    (0, setInactive 0 0 (odSet s1 (oGAIN_BANK_CRC + b) (crc32c (img.drop 32))))

/-- R415: a segment of a write. -/
def segmentIn (bus : Nat) (u : UsdoSt) (bs : List Byte) (last : Bool) (env : WriteEnv) (s : State) : State :=
  let all := u.bytes ++ bs
  if u.size < all.length then usdoRefuse bus u.key 0x0101 (closeSession bus s)
  else
    let (c, s1) := if u.key = oGAIN_BANK_IMAGE then gainPart all s else (0, s)
    if c ≠ 0 then usdoRefuse bus u.key c (closeSession bus s1)
    else if last = false then usdoAnswer bus 2 u.key [] (openSession bus { u with bytes := all } s1)
    else if all.length < u.size then usdoRefuse bus u.key 0x01C3 (closeSession bus s1)
    else usdoWrite bus 2 u.key all env (closeSession bus s1)

/-- R413 to R415: a segment: of a write, received and confirmed; of a read, the next 60 bytes. -/
def usdoSegment (bus : Nat) (bs : List Byte) (last : Bool) (env : WriteEnv) (s0 : State) : State :=
  let s := busAlive bus s0
  if canUp s = false ∨ nmtState s = 4 then s
  else match tfind s.can.usdo bus with
    | none => s
    | some u =>
      if u.flash then s
      else if u.write then segmentIn bus u (bs.take 60) last env s
      else
        let rest := u.bytes.drop 60
        usdoAnswer bus 2 u.key (u.bytes.take 60)
          (if rest = [] then closeSession bus s else openSession bus { u with bytes := rest } s)

/-- R415: a gap of more than 1 s between the frames of a session. -/
def usdoTimeout (bus : Nat) (s : State) : State :=
  match tfind s.can.usdo bus with
  | some u => if u.flash then s else endSession bus 0x05040000 0x0571 s
  | none => s

def execUsdoSessionTimeout (bus : Fin 2) (s : State) : Host.Outcome State Fault Refusal := .next (usdoTimeout bus.val s)

/-! ### NMT (R411, R413) -/

/-- R411: the other bus has executed the same command within the last 100 ms. -/
def nmtRepeat (s : State) (bus cmd : Nat) : Bool :=
  match tfind s.can.nmtLast ((1 - bus) * 256 + cmd) with
  | some t => decide (s.now ≤ t + 100000000)
  | none => false

/-- R411, R413: an NMT command on a bus; a core in RECOVERY stays PRE-OPERATIONAL (R439). -/
def nmtCommand (bus cmd : Nat) (f : State → State) (s0 : State) : State :=
  let s := busAlive bus s0
  if canUp s = false ∨ inRecovery s ∨ nmtRepeat s bus cmd then s
  else f (modCan (fun c => { c with nmtLast := tput c.nmtLast (bus * 256 + cmd) s.now }) s)

def setNmt (v : Nat) (s : State) : State := odSet s oNMT_STATE v

/-- R413: the communication objects return to their defaults (the identity of the part is none of them to set), the sessions end, and the node boots. -/
def resetComm (s : State) : State :=
  let comm (k : Nat) : Bool := decide (0x1000 ≤ keyIdx k ∧ keyIdx k < 0x2000 ∧ keyIdx k ≠ 0x1018) && k != oERROR_REGISTER
  let s1 := { s with od := s.od.filter fun e => !comm e.1 }
  nmtBoot true (showPending (modCan (fun c => { c with usdo := [], syncAt := none, syncCnt := [] }) s1))

/-- R413: reset node: the profile in force is applied again first. -/
def resetNode (s : State) : State := resetComm (wProfile (odv s oPROFILE_ACTIVE) s).2

/-- R413: what an NMT command does. -/
def nmtEffect (cmd : Nat) (s : State) : State :=
  if cmd = 1 then setNmt 5 s
  else if cmd = 2 then setNmt 4 s
  else if cmd = 0x80 then setNmt 0x7F s
  else if cmd = 0x82 then resetComm s
  else if cmd = 0x81 then resetNode s
  else s

/-! ### Heartbeats and silence (R422) -/

/-- R422: a sign of life of the rack manager. -/
def rmAlive (s : State) : State :=
  let s1 := modCan (fun c => { c with rmAt := s.now }) s
  if odv s oRM_SILENT = 1 then emcyClear 4 evRM_SILENT (odSet s1 oRM_SILENT 0) else s1

def rmHeartbeat (bus node : Nat) (s0 : State) : State :=
  let s := busAlive bus s0
  if canUp s ∧ node = odv s oRM_NODE_ID then rmAlive s else s

/-- R322, R422: silence: the Autonomous source takes over. -/
def rmSilence (s : State) : State :=
  if canUp s = false ∨ odv s oRM_SILENT = 1 then s
  else emcyRaise 0x8130 4 evRM_SILENT (logSimple evRM_SILENT srcModule (setCapBit 3 true (odSet s oRM_SILENT 1)))
def execRmSilenceTimeout (s : State) : Host.Outcome State Fault Refusal := .next (rmSilence s)

/-- R422: the module's own heartbeat. -/
def heartbeat (s : State) : State :=
  if canUp s = false then s
  else canSend (0x700 + nodeId s) (leBytes 1 (nmtState s)) (modCan (fun c => { c with hbAt := s.now }) s)
def execHeartbeatTimer (s : State) : Host.Outcome State Fault Refusal := .next (heartbeat s)

/-! ### PDOs and SYNC (R417 to R421) -/

/-- R417, R433: a PDO's COB-ID; bit 31 disables the PDO. -/
def pdoCob (s : State) (k : Nat) : Option Nat :=
  if bitAt (odLive s 0 k) 31 then none else some (odLive s 0 k % 2048)

/-- R419: the mapped values, read on path C; a filler byte is 0. -/
def pdoBytes (s : State) (idx : Nat) : List Byte :=
  (mapEntries s idx (odv s (idx * 256))).flatMap fun e =>
    if isFiller e then [0] else padTo (entryBits e / 8) (odRead 0 (entryKey e) s).2.1

/-- R417: a frame of CAN FD holds 0 to 8, 12, 16, 20, 24, 32, 48 or 64 bytes. -/
def fdLength (n : Nat) : Nat :=
  if n ≤ 8 then n else if n ≤ 24 then alignUp n 4 else if n ≤ 32 then 32 else if n ≤ 48 then 48 else 64

/-- R413, R418, R419: TPDO `n` (0 to 2) is sent on both buses, unless it is disabled or empty. -/
def sendTpdo (n : Nat) (s : State) : State :=
  let bs := pdoBytes s (0x1A00 + n)
  match pdoCob s ((0x1800 + n) * 256 + 1) with
  | none => s
  | some cob => if bs = [] then s else canSend cob (padTo (fdLength bs.length) bs) s

def tpdoType (s : State) (n : Nat) : Nat := odv s ((0x1800 + n) * 256 + 2)

/-- R419: a TPDO's event timer expires. -/
def tpdoTimer (n : Nat) (s : State) : State :=
  if canUp s = false ∨ nmtState s ≠ 5 ∨ tpdoType s n ≠ 254 then s
  else sendTpdo n (modCan (fun c => { c with tpdoAt := tput c.tpdoAt n s.now }) s)
def execTpdoTimer (n : Fin 3) (s : State) : Host.Outcome State Fault Refusal := .next (tpdoTimer n.val s)

/-- R419: one SYNC for one TPDO. -/
def syncTpdo (n : Nat) (s : State) : State :=
  let t := tpdoType s n
  if t < 1 ∨ 240 < t then s
  else
    let k := tget s.can.syncCnt n 0 + 1
    if k < t then modCan (fun c => { c with syncCnt := tput c.syncCnt n k }) s
    else sendTpdo n (modCan (fun c => { c with syncCnt := tput c.syncCnt n 0 }) s)

/-- R421: a SYNC on a bus; one that arrives on both buses within 100 µs counts once. -/
def sync (bus : Nat) (s0 : State) : State :=
  let s := busAlive bus s0
  let twice : Bool := match s.can.syncAt with | some (b, t) => b != bus && decide (s.now ≤ t + 100000) | none => false
  if canUp s = false ∨ nmtState s ≠ 5 ∨ twice then s
  else [0, 1, 2].foldl (fun s n => syncTpdo n s) (modCan (fun c => { c with syncAt := some (bus, s.now) }) s)

/-- R420: the mapped objects of an RPDO, each judged as a write on its bus. -/
def rpdoApply (bus : Nat) (env : WriteEnv) : List Nat → List Byte → State → State
  | [], _, s => s
  | e :: es, bs, s =>
    let n := entryBits e / 8
    if isFiller e then rpdoApply bus env es (bs.drop n) s
    else
      let (c, s1) := odWrite bus (entryKey e) (bs.take n) env s
      let s2 := if c = 0 then s1 else tell bus c s1
      rpdoApply bus env es (bs.drop n) (if isSuccess c then s2 else odAdd32 s2 oRPDO_REFUSED 1)

/-- R420: RPDO1 on a bus. -/
def rpdo (bus : Nat) (bs : List Byte) (env : WriteEnv) (s0 : State) : State :=
  let s := busAlive bus s0
  if canUp s = false ∨ (pdoCob s 0x140001).isNone then s
  else
    let s1 := rmAlive s
    let es := mapEntries s 0x1600 (odv s 0x160000)
    if nmtState s ≠ 5 then s1
    else if bs.length < lsum (es.map fun e => entryBits e / 8) then
      emcyEvent 0x8210 4 (Config.busEventCode 1) (logSimple (Config.busEventCode 1) srcModule s1)
    else rpdoApply bus env es bs s1

/-! ### Receive buffers (R408, R409) -/

/-- R411: what a frame of a bus does once a core serves it. -/
def serveFrame (bus : Nat) (f : CanFrame) (s : State) : State :=
  match f with
  | .usdo r env => usdoInitiate bus r env s
  | .segment bs last env => usdoSegment bus bs last env s
  | .nmt cmd => nmtCommand bus cmd (nmtEffect cmd) s
  | .heartbeat node => rmHeartbeat bus node s
  | .sync => sync bus s
  | .rpdo bs env => rpdo bus bs env s

/-- R408, R409: a frame arrives on a bus: it waits in the receive buffer while no core owns, and is lost beyond 32. A
controller in bus-off receives none. -/
def rxFrame (bus : Nat) (f : CanFrame) (s : State) : State :=
  if busOff s bus then s
  else if s.mod.auxUp ∧ s.mod.owner = none then
    let q := tget s.can.rx bus []
    if 32 ≤ q.length then odAdd32 (busAlive bus s) (oCAN_RX_OVERFLOW + bus) 1
    else modCan (fun c => { c with rx := tput c.rx bus (q ++ [f]) }) (busAlive bus s)
  else serveFrame bus f s

/-- R408, R451: a core that has come to own processes the frames that wait, bus A first, and the SPDM requests. -/
def drainRx (s : State) : State :=
  if s.mod.owner = none then s
  else
    let wait := [0, 1].flatMap fun b => (tget s.can.rx b []).map fun f => (b, f)
    drainSpdm (wait.foldl (fun s x => serveFrame x.1 x.2 s) (modCan (fun c => { c with rx := [] }) s))

def execUsdoInitiate (bus : Fin 2) (r : UsdoReq) (env : WriteEnv) (s : State) : Host.Outcome State Fault Refusal :=
  .next (rxFrame bus.val (.usdo r env) s)
def execUsdoSegment (bus : Fin 2) (bs : List Byte) (last : Bool) (env : WriteEnv) (s : State) :
    Host.Outcome State Fault Refusal :=
  .next (rxFrame bus.val (.segment bs last env) s)
def execNmtStart (bus : Fin 2) (s : State) : Host.Outcome State Fault Refusal := .next (rxFrame bus.val (.nmt 1) s)
def execNmtStop (bus : Fin 2) (s : State) : Host.Outcome State Fault Refusal := .next (rxFrame bus.val (.nmt 2) s)
def execNmtEnterPreOperational (bus : Fin 2) (s : State) : Host.Outcome State Fault Refusal :=
  .next (rxFrame bus.val (.nmt 0x80) s)
def execNmtResetCommunication (bus : Fin 2) (s : State) : Host.Outcome State Fault Refusal :=
  .next (rxFrame bus.val (.nmt 0x82) s)
def execNmtResetNode (bus : Fin 2) (s : State) : Host.Outcome State Fault Refusal := .next (rxFrame bus.val (.nmt 0x81) s)
def execRmHeartbeat (bus : Fin 2) (node : Fin 128) (s : State) : Host.Outcome State Fault Refusal :=
  .next (rxFrame bus.val (.heartbeat node.val) s)
def execSyncFrame (bus : Fin 2) (s : State) : Host.Outcome State Fault Refusal := .next (rxFrame bus.val .sync s)
def execRpdo1 (bus : Fin 2) (bs : List Byte) (env : WriteEnv) (s : State) : Host.Outcome State Fault Refusal :=
  .next (rxFrame bus.val (.rpdo bs env) s)

def execMgmtCoreRestart (core : Fin 2) (imageOk : Bool) (s : State) : Host.Outcome State Fault Refusal :=
  .next (drainRx (coreRestart core.val imageOk s))
def execRecoveryClaim (s : State) : Host.Outcome State Fault Refusal := .next (drainRx (recoveryClaim s))

/-! ### Emergency messages and the buses (R409, R411, R423) -/

/-- R423: the inhibit time ends: the next waiting message is sent. -/
def inhibitEnd (s : State) : State :=
  if canUp s = false ∨ nmtState s = 4 then s
  else match s.can.emcyQ with
    | [] => modCan (fun c => { c with inhibitTo := s.now }) s
    | m :: q => canSend (0x80 + nodeId s) m
        (modCan (fun c => { c with emcyQ := q, inhibitTo := s.now + odv s oINHIBIT_EMCY * 100000 }) s)
def execEmcyInhibitExpiry (s : State) : Host.Outcome State Fault Refusal := .next (inhibitEnd s)

/-- R409, R423: a bus recovers from bus-off: its counters are 0, and the owning core reports it. -/
def busOffEnd (bus : Nat) (s : State) : State :=
  if busOff s bus = false then s
  else
    let s1 := odSet (modCan (fun c => { c with errs := tdel c.errs bus }) s) (oCAN_BUS_STATE + bus) 0
    if canUp s = false then s1
    else emcyEvent 0x8140 4 (Config.busEventCode 0) (logSimple (Config.busEventCode 0) srcModule s1)
def execCanBusOffRecovery (bus : Fin 2) (s : State) : Host.Outcome State Fault Refusal := .next (busOffEnd bus.val s)

/-- R409, R411: a bus has delivered no frame for 1 s; bus-off lasts until it recovers. -/
def busLost (e : BusLoss) (s : State) : State :=
  if s.mod.auxUp = false then s
  else
    let s1 := if busOff s e.bus.val then s
      else modCan (fun c => { c with errs := tput c.errs e.bus.val ⟨e.tx, e.rx⟩ }) s
    odSet s1 (oCAN_BUS_STATE + e.bus.val) 3
def execCanBusNoFrame (e : BusLoss) (s : State) : Host.Outcome State Fault Refusal := .next (busLost e s)

/-! ### Profiles in flash (R430) -/

/-- R430: the flash write ends; a bus that waits for it has its answer. -/
def profileDone (s : State) : State :=
  match s.can.profBusy with
  | none => s
  | some (path, _, _) =>
    let s1 := flashDone s
    match tfind s1.can.usdo path with
    | some u => if u.flash then usdoAnswer path 1 u.key [] (closeSession path s1) else s1
    | none => s1
def execProfileFlashDone (s : State) : Host.Outcome State Fault Refusal := .next (profileDone s)

/-! ### The mailbox (R424 to R427) -/

def modMail (f : MailSt → MailSt) (s : State) : State := modCan (fun c => { c with mail := f c.mail }) s

/-- R425: LENGTH. -/
def mailLen (m : MailSt) : Nat := bitsOf m.addr 50 32

/-- R425, R427: what is judged before the object: LENGTH, then the reserved bits. -/
def mailCode (m : MailSt) : Nat :=
  if bitsOf m.addr 31 24 ≠ 0 then 0x0191
  else if mailLen m = 0 then 0x0102
  else if 262144 < mailLen m then 0x0103
  else if m.addr / 2 ^ 51 ≠ 0 then 0x0191
  else 0

/-- R427: a read: the object's bytes go to OD_DATA where LENGTH has room. -/
def mailReadNow (s : State) : State :=
  let m := s.can.mail
  if mailCode m ≠ 0 then modMail (fun m => { m with code := mailCode m, len := 0 }) s
  else
    let (c, bs, s1) := odRead 2 (mailKey m) s
    if isSuccess c = false then modMail (fun m => { m with code := c, len := 0 }) s1
    else if mailLen m < bs.length then modMail (fun m => { m with code := 0x0101, len := 0 }) s
    else modMail (fun m => { m with code := c, len := bs.length, data := bs ++ m.data.drop bs.length }) s1

/-- R407, R427: CMD 1 or 2: ignored while BUSY, else the command starts: a read at once where a core owns; a write of a DOMAIN
object that a session writes is refused here. -/
def mailStart (cmd : Nat) (s : State) : State :=
  if s.can.mail.busy then modMail (fun m => { m with ignored := true }) s
  else
    let code := if cmd = 2 ∧ isDomain (mailKey s.can.mail) ∧ domBusy s 2 (mailKey s.can.mail) then 0x0570 else 0
    let begin_ := if cmd = 1 ∧ s.mod.owner = none then 4 else cmd
    let s1 := modMail (fun m => { m with busy := true, done := false, cmd := begin_, code := code, len := 0 }) s
    if begin_ = 1 then mailReadNow s1 else s1

/-- R408, R427: a write is judged and applied as the command completes. -/
def mailWriteNow (env : WriteEnv) (s : State) : State :=
  let m := s.can.mail
  if mailCode m ≠ 0 then mailDone (mailCode m) s
  else if m.code ≠ 0 ∧ odJudge s 2 (mailKey m) (mailLen m) 1 = 0 then mailDone m.code s
  else
    let (c, s1) := odWrite 2 (mailKey m) (padTo (mailLen m) m.data) env s
    if s1.can.mail.busy = false then s1
    else if waitsFlash (mailKey m) c then modMail (fun m => { m with cmd := 3 }) s1
    else mailDone c s1

/-- R427: the command in progress completes; a write that waits for flash completes after it (R430). -/
def mailComplete (env : WriteEnv) (s : State) : State :=
  let m := s.can.mail
  if m.busy = false ∨ s.mod.owner = none then s
  else if m.cmd = 2 then mailWriteNow env s
  else if m.cmd = 3 then (if s.can.profBusy.isSome then s else mailDone 0 s)
  else if m.cmd = 4 then
    let s1 := mailReadNow s
    mailDone s1.can.mail.code s1
  else mailDone m.code s

/-- R276: a write of BAR0 reaches its registers. -/
def execMailboxRead (s : State) : Host.Outcome State Fault Refusal :=
  .next (if barOpen s then mailStart 1 (pcieCount 0 8 s) else s)
def execMailboxWrite (s : State) : Host.Outcome State Fault Refusal :=
  .next (if barOpen s then mailStart 2 (pcieCount 0 8 s) else s)
def execMailboxComplete (env : WriteEnv) (s : State) : Host.Outcome State Fault Refusal := .next (mailComplete env s)

end Sys2Proof.Machine
end

