-- ==== Sys2Proof/Machine/Bar0.lean ====
section
/-! DEFINITION. Host accesses to BAR0 and to the configuration space: the mailbox, the ring blocks, BAR2_BASE and the MSI-X table (R276, R277, R280, R281, R294,
R424 to R427). -/
namespace Sys2Proof.Machine

/-- R276: the 32-bit half `hi` of a 64-bit register takes a value. -/
def setHalf (w hi v : Nat) : Nat := setBits w (32 * hi) 32 v

/-! ### The mailbox (R424 to R427) -/

/-- R427: a register of the mailbox, which a command in progress keeps. -/
def mailPut (f : MailSt → MailSt) (s : State) : State :=
  if s.can.mail.busy then modMail (fun m => { m with ignored := true }) s else modMail f s

/-- R426: the low half of OD_CTRL: DONE and CMD_IGNORED clear on 1, and CMD starts a command. -/
def mailCtrl (v : Nat) (s : State) : State :=
  let s1 := modMail (fun m => { m with done := m.done && !bitAt v 3, ignored := m.ignored && !bitAt v 4 }) s
  if v % 4 = 1 ∨ v % 4 = 2 then mailStart (v % 4) s1 else s1

/-- R424: a 32-bit write in the mailbox's region. -/
def mailDword (off v : Nat) (s : State) : State :=
  if off < 8 then mailPut (fun m => { m with addr := setHalf m.addr (off / 4) v }) s
  else if off = 8 then mailCtrl v s
  else if 0x10000 ≤ off ∧ off < 0x50000 then
    let o := off - 0x10000
    mailPut (fun m => { m with data := spliceAt (m.data ++ zeros (o - m.data.length)) o (leBytes 4 v) }) s
  else s

/-! ### Ring blocks (R280, R281, R294) -/

/-- R280, R281: a 32-bit write of command ring `r`'s block. -/
def ringDword (r o v : Nat) (s : State) : State :=
  let g := ringAt s r
  let cfg (f : RingSt → RingSt) : State := setRing r (if g.st = 0 then f g else { g with ign := true }) s
  if o < 8 then cfg fun g => { g with base := setHalf g.base (o / 4) v }
  else if o < 0x10 then cfg fun g => { g with rec_ := setHalf g.rec_ (o / 4 - 2) v }
  else if o = 0x10 then wRingCtl r v s
  else if o = 0x14 then setRing r { g with ign := g.ign && !bitAt v 18 } s
  else s

/-- R295: CQ_CTL as it reads. -/
def cqCtlOf (q : CqSt) : Nat := q.ctl / 2 * 2 + b2n q.on

/-- R294: a 32-bit write of completion ring `c`'s block. -/
def cqDword (c o v : Nat) (s : State) : State :=
  let q := cqAt s c
  let cfg (f : CqSt → CqSt) : State := setCq c (if q.on then { q with ign := true } else f q) s
  if o < 8 then cfg fun q => { q with base := setHalf q.base (o / 4) v }
  else if o < 0x10 then cfg fun q => { q with rec_ := setHalf q.rec_ (o / 4 - 2) v }
  else if o < 0x18 then wCqCtl c (setHalf (cqCtlOf q) (o / 4 - 4) v) s
  else if o = 0x18 then setCq c { q with ign := q.ign && !bitAt v 17 } s
  else s

/-! ### MSI-X and BAR2_BASE (R276, R277) -/

/-- R276: a 32-bit write of the MSI-X table; an entry unmasked with its bit pending sends its message. -/
def msixDword (o v : Nat) (s : State) : State :=
  let n := o / 16
  let m := msixAt s n
  match o % 16 / 4 with
  | 0 => setMsix n { m with addr := setHalf m.addr 0 v } s
  | 1 => setMsix n { m with addr := setHalf m.addr 1 v } s
  | 2 => setMsix n { m with data := v } s
  | _ =>
    let s1 := setMsix n { m with ctrl := v } s
    flushMsix s1

/-- R277: bits [41:34] of BAR2_BASE. -/
def bar2Half (hi v : Nat) (s : State) : State :=
  let w := setHalf s.hst.bar2 hi v
  { s with hst := { s.hst with bar2 := bitsOf w 41 34 * 2 ^ 34 } }

/-- R276: a 32-bit write of BAR0; writes to other offsets are ignored. -/
def bar0Dword (off v : Nat) (s : State) : State :=
  if off < 0x1000000 then mailDword off v s
  else if off < 0x1001000 then ringDword ((off - 0x1000000) / 64) (off % 64) v s
  else if off < 0x1002000 then cqDword ((off - 0x1001000) / 64) (off % 64) v s
  else if off = 0x1004000 then bar2Half 0 v s
  else if off = 0x1004004 then bar2Half 1 v s
  else if 0x3000000 ≤ off ∧ off < 0x3000400 then msixDword (off - 0x3000000) v s
  else s

/-- R276: a write of 4 or 8 bytes, naturally aligned; any other access is an Unsupported Request, and so is every access in
D3hot. CQ_CTL takes 8 bytes at once. -/
def bar0Write (off : Nat) (bs : List Byte) (s : State) : State :=
  let n := bs.length
  let v := leNat bs
  if s.hst.linkUp = false then s
  else if s.hst.d3 ∨ (n ≠ 4 ∧ n ≠ 8) ∨ off % n ≠ 0 then unsupported s
  else
    let s1 := pcieCount 0 n s
    if n = 4 then bar0Dword off v s1
    else if 0x1001000 ≤ off ∧ off < 0x1002000 ∧ off % 64 = 0x10 then wCqCtl ((off - 0x1001000) / 64) v s1
    else bar0Dword (off + 4) (v / 2 ^ 32) (bar0Dword off (v % 2 ^ 32) s1)

/-! ### Reads of BAR0 (R276, R280, R294, R306, R424 to R426) -/

/-- The 32-bit part of a register at offset `o` within it. -/
def dwordOf (w o : Nat) : Nat := w / 2 ^ (8 * o) % 2 ^ 32

/-- R426: OD_CTRL as it reads. -/
def mailWord (m : MailSt) : Nat :=
  4 * b2n m.busy + 8 * b2n m.done + 16 * b2n m.ignored + m.status % 65536 * 2 ^ 16 + m.resLen % 2 ^ 19 * 2 ^ 32

/-- R424: the mailbox's region. -/
def mailRead (m : MailSt) (off : Nat) : Nat :=
  if off < 8 then dwordOf m.addr off
  else if off < 0x10 then dwordOf (mailWord m) (off - 8)
  else if 0x10000 ≤ off ∧ off < 0x50000 then fld m.data (off - 0x10000) 4
  else 0

/-- R280, R281, R285: RING_CTL and RING_STATUS as they read, and the ring's block. -/
def ringRead (g : RingSt) (o : Nat) : Nat :=
  if o < 8 then dwordOf g.base o
  else if o < 0x10 then dwordOf g.rec_ (o - 8)
  else if o = 0x10 then g.ctl / 2 * 2 + b2n (ringOn g)
  else if o = 0x14 then g.code + g.st * 2 ^ 16 + b2n g.ign * 2 ^ 18
  else if o = 0x18 then g.cons
  else if o = 0x1C then g.err
  else 0

/-- R294: a completion ring's block. -/
def cqRead (q : CqSt) (o : Nat) : Nat :=
  if o < 8 then dwordOf q.base o
  else if o < 0x10 then dwordOf q.rec_ (o - 8)
  else if o < 0x18 then dwordOf (cqCtlOf q) (o - 0x10)
  else if o = 0x18 then q.code + b2n q.on * 2 ^ 16 + b2n q.ign * 2 ^ 17
  else if o = 0x1C then q.prod
  else 0

/-- R306: a bounce-buffer context's registers; no key is readable. -/
def ctxRead (x : CtxSt) (o : Nat) : Nat :=
  if o = 0 then x.st
  else if o = 4 then x.chan
  else if o < 0x10 then dwordOf x.h2m (o - 8)
  else if o < 0x18 then dwordOf x.m2h (o - 0x10)
  else if o = 0x18 then x.fails
  else 0

/-- R276: an entry of the MSI-X table. -/
def msixRead (m : MsixSt) (o : Nat) : Nat :=
  if o < 8 then dwordOf m.addr o else if o = 8 then m.data else m.ctrl

/-- R276: the MSI-X pending-bit array. -/
def msixPba (s : State) : Nat := lsum ((List.range 64).map fun v => if (msixAt s v).pending then 2 ^ v else 0)

/-- R276: 32 bits of BAR0; unlisted offsets read zero. -/
def bar0Val (s : State) (off : Nat) : Nat :=
  (if off < 0x1000000 then mailRead s.can.mail off
   else if off < 0x1001000 then ringRead (ringAt s ((off - 0x1000000) / 64)) (off % 64)
   else if off < 0x1002000 then cqRead (cqAt s ((off - 0x1001000) / 64)) (off % 64)
   else if off = 0x1004000 ∨ off = 0x1004004 then dwordOf s.hst.bar2 (off - 0x1004000)
   else if 0x2000000 ≤ off ∧ off < 0x2001000 then ctxRead (ctxAt s ((off - 0x2000000) / 64)) (off % 64)
   else if 0x3000000 ≤ off ∧ off < 0x3000400 then msixRead (msixAt s ((off - 0x3000000) / 16)) (off % 16)
   else if off = 0x3001000 ∨ off = 0x3001004 then dwordOf (msixPba s) (off - 0x3001000)
   else 0) % 2 ^ 32

/-- R276: a read of 4 or 8 bytes, naturally aligned; any other access is an Unsupported Request, and so is every access in
D3hot. -/
def bar0Read (off n : Nat) (s : State) : State :=
  if s.hst.linkUp = false then s
  else if s.hst.d3 ∨ (n ≠ 4 ∧ n ≠ 8) ∨ off % n ≠ 0 then unsupported s
  else pcieCount 1 n (emit (.hostRead ((List.range (n / 4)).flatMap fun i => leBytes 4 (bar0Val s (off + 4 * i)))) s)

/-! ### The configuration space (R275) -/

/-- R275: what a register of the configuration space holds. -/
def cfgVal (c : CfgSt) : CfgField → Nat
  | .maxPayload => c.mps
  | .maxReadReq => c.mrrs
  | .msixEnable => b2n c.msixOn
  | .msixMask => b2n c.msixMask
  | .aerStatus => c.aer

/-- R275: a write of one: payloads of up to 512 bytes and read requests of up to 4,096; AER status bits clear on 1. -/
def cfgPut (f : CfgField) (v : Nat) (c : CfgSt) : CfgSt :=
  match f with
  | .maxPayload => if v ≤ 2 then { c with mps := v } else c
  | .maxReadReq => if v ≤ 5 then { c with mrrs := v } else c
  | .msixEnable => { c with msixOn := bitAt v 0 }
  | .msixMask => { c with msixMask := bitAt v 0 }
  | .aerStatus => { c with aer := c.aer - Nat.land c.aer v }

/-- R275: an access to the configuration space, which answers in D3hot too. -/
def cfgAccess (f : CfgField) (v : Option Nat) (s : State) : State :=
  if s.hst.linkUp = false then s
  else match v with
    | some v => flushMsix { s with hst := { s.hst with cfg := cfgPut f v s.hst.cfg } }
    | none => emit (.hostRead (leBytes 4 (cfgVal s.hst.cfg f))) s

/-- R275, R276: a host access. -/
def hostAccess (off : Nat) (a : HostAccess) (s : State) : State :=
  match a with
  | .write bs => bar0Write off bs s
  | .read n => bar0Read off n s
  | .cfgWrite f v => cfgAccess f (some v) s
  | .cfgRead f => cfgAccess f none s
  | .cfgClass => if s.hst.linkUp then emit (.hostRead (leBytes 3 0x120000)) s else s

def execBar0RegisterWrite (off : Fin 67108864) (a : HostAccess) (s : State) : Host.Outcome State Fault Refusal :=
  .next (hostAccess off.val a s)

end Sys2Proof.Machine
end

