-- ==== Sys2Proof/Machine/Ctl.lean ====
section
/-! DEFINITION. The CTL slot: scalars, branches, loops, tokens, waits and breakpoints (R96, R99, R107, R487). -/
namespace Sys2Proof.Machine

/-- R96: S[DST] = IMM20, sign-extended. -/
def execSli (t : TileId) (f : ImmForm) (s : State) : Host.Outcome State Fault Refusal :=
  .next (issueImm t 5 0x01 f (sclOp f.dst.val fun _ _ => uxt 64 (sxt 20 f.imm.val)) s)

def execSaddi (t : TileId) (f : ImmForm) (s : State) : Host.Outcome State Fault Refusal :=
  .next (issueImm t 5 0x02 f (sclOp f.dst.val fun _ x => sreg x f.sa.val + uxt 64 (sxt 20 f.imm.val)) s)

/-- R96: S[DST] = S[SA] op S[SB] modulo 2^64. -/
def sclBin (f : RegForm) (g : Nat → Nat → Nat) : State → TileSt → SlotRes :=
  sclOp f.dst.val fun _ x => g (sreg x f.sa.val) (sreg x f.sb.val)

def execSadd (t : TileId) (f : RegForm) (s : State) : Host.Outcome State Fault Refusal :=
  .next (issueReg t 5 0x03 f (sclBin f (· + ·)) s)

def execSsub (t : TileId) (f : RegForm) (s : State) : Host.Outcome State Fault Refusal :=
  .next (issueReg t 5 0x04 f (sclBin f fun a b => a + 2 ^ 64 - b) s)

def execSmul (t : TileId) (f : RegForm) (s : State) : Host.Outcome State Fault Refusal :=
  .next (issueReg t 5 0x05 f (sclBin f (· * ·)) s)

def execSand (t : TileId) (f : RegForm) (s : State) : Host.Outcome State Fault Refusal :=
  .next (issueReg t 5 0x06 f (sclBin f Nat.land) s)

def execSor (t : TileId) (f : RegForm) (s : State) : Host.Outcome State Fault Refusal :=
  .next (issueReg t 5 0x07 f (sclBin f Nat.lor) s)

def execSxor (t : TileId) (f : RegForm) (s : State) : Host.Outcome State Fault Refusal :=
  .next (issueReg t 5 0x08 f (sclBin f Nat.xor) s)

/-- R96: the count is the whole of S[SB] (log entry 14). -/
def execSshl (t : TileId) (f : RegForm) (s : State) : Host.Outcome State Fault Refusal :=
  .next (issueReg t 5 0x09 f (sclBin f fun a b => if b < 64 then a <<< b else 0) s)

/-- R96: the count is the whole of S[SB], and zeros enter at the top (log entry 14). -/
def execSshr (t : TileId) (f : RegForm) (s : State) : Host.Outcome State Fault Refusal :=
  .next (issueReg t 5 0x0A f (sclBin f fun a b => if b < 64 then a >>> b else 0) s)

def execScmplt (t : TileId) (f : RegForm) (s : State) : Host.Outcome State Fault Refusal :=
  .next (issueReg t 5 0x0B f (sclCmp f fun a b => decide (a < b)) s)

def execScmpeq (t : TileId) (f : RegForm) (s : State) : Host.Outcome State Fault Refusal :=
  .next (issueReg t 5 0x0C f (sclCmp f fun a b => decide (a = b)) s)

/-- R96: continue at bundle IMM20. -/
def execBr (t : TileId) (f : ImmForm) (s : State) : Host.Outcome State Fault Refusal :=
  .next (issueImm t 5 0x10 f (fun s _ => .ok [.jump f.imm.val] s) s)

/-- R96: the bundles from the next one through IMM20, S[SA] bits [31:0] times; none for a count of zero. -/
def execLoop (t : TileId) (f : ImmForm) (s : State) : Host.Outcome State Fault Refusal :=
  .next (issueImm t 5 0x11 f (fun s x => .ok [.loop f.imm.val (sreg x f.sa.val % 2 ^ 32)] s) s)

/-- R107: a field of window token IMM20. -/
def windowOp (f : ImmForm) (g : Token → Nat) (s : State) (x : TileSt) : SlotRes :=
  match (x.run.map (·.window)).bind (·[f.imm.val]?) with
  | some k => .ok [.sreg f.dst.val (g k)] s
  | none => .exc 0x0141 s

def execTget (t : TileId) (f : ImmForm) (s : State) : Host.Outcome State Fault Refusal :=
  .next (issueImm t 5 0x12 f (windowOp f (·.payload)) s)

def execTkind (t : TileId) (f : ImmForm) (s : State) : Host.Outcome State Fault Refusal :=
  .next (issueImm t 5 0x13 f (windowOp f (·.kind)) s)

/-- R99, R107: a token on an output queue, within the task's reservation. -/
def execTput (t : TileId) (f : ImmForm) (s : State) : Host.Outcome State Fault Refusal :=
  .next (issueImm t 5 0x14 f (fun s x =>
    let q := f.imm.val % 16
    let left : Nat := match x.run with
      | some r => match r.resv.find? fun e => e.1 == q with | some e => e.2 | none => 0
      | none => 0
    if left = 0 then .exc 0x0141 s else .ok [.put q (f.imm.val / 16) (sreg x f.sa.val)] s) s)

/-- R96: the bundle that holds a WAIT has issued, so what it waits for has completed. -/
def execWait (t : TileId) (f : ImmForm) (s : State) : Host.Outcome State Fault Refusal :=
  .next (issueImm t 5 0x16 f (fun s _ => .ok [] s) s)

/-- R96: ADDR of descriptor IMM20[5:0] = S[SA] bits [21:0]. -/
def execDseta (t : TileId) (f : ImmForm) (s : State) : Host.Outcome State Fault Refusal :=
  .next (issueImm t 5 0x17 f (fun s x => .ok [.dseta f.imm.val (sreg x f.sa.val % 2 ^ 22)] s) s)

/-- R96, R20: the time base. -/
def execRdtime (t : TileId) (f : ImmForm) (s : State) : Host.Outcome State Fault Refusal :=
  .next (issueImm t 5 0x18 f (sclOp f.dst.val fun s _ => s.now) s)

/-- R96, R487: a breakpoint, which stops the tile after its bundle when it is enabled. -/
def execBrk (t : TileId) (f : ImmForm) (s : State) : Host.Outcome State Fault Refusal :=
  .next (issueImm t 5 0x19 f (fun s _ => .ok [.brk f.imm.val] s) s)

/-- R90, R120, R130: a held bundle issues once what it waits for is done. -/
def execBundleStallRelease (t : TileId) (s : State) : Host.Outcome State Fault Refusal :=
  .next (releaseBundle t.val s)

/-- R326: a slot of the admission frame in which the tile may issue has come. -/
def execAdmissionDutySlot (t : TileId) (s : State) : Host.Outcome State Fault Refusal :=
  .next (if dutyOpen s t.val then releaseBundle t.val s else s)

end Sys2Proof.Machine
end

