-- ==== Sys2Proof/Machine/Matrix.lean ====
section
/-! DEFINITION. The matrix unit: MMA, MMOUT, MLDACC, MCLR and their completion (R66, R69, R91, R112 to R114). -/
namespace Sys2Proof.Machine

/-- R112: operand pairs of MMA, and those admitted to exact mode. -/
def mmaPair (a b : Nat) : Bool :=
  (fmtIsMX a && fmtIsMX b) || (a == fmtINT8 && b == fmtINT8)
  || ((a == fmtE4M3 || a == fmtE5M2) && (b == fmtE4M3 || b == fmtE5M2))
  || (a == fmtBF16 && b == fmtBF16) || (a == fmtFP16 && b == fmtFP16) || (a == fmtFP32 && b == fmtFP32)
def mmaExact (a b : Nat) : Bool :=
  mmaPair a b && a != fmtFP32 && a != fmtE4M3 && a != fmtE5M2

/-- R97, R112, R113: the checks of an MMA when it issues. -/
def mmaCheck (da db : Nat) (ex : Bool) : Option Nat :=
  if dRows da = 0 ∨ dCols db = 0 ∨ (dCols da ≠ dRows db ∧ (dCols da = 0 ∨ dRows db = 0)) then some 0x0143
  else match descCheck da (dFmt da) (rowBytes (dFmt da) (dCols da)) with
  | some c => some c
  | none =>
    match descCheck db (dFmt db) (rowBytes (dFmt db) (dCols db)) with
    | some c => some c
    | none =>
      if !mmaPair (dFmt da) (dFmt db) || (ex && !mmaExact (dFmt da) (dFmt db)) then some 0x0146
      else if (if ex then 16 else 64) < dRows da ∨ dCols da ≠ dRows db ∨ 64 < dCols db then some 0x0143
      else none

/-- R97, R113: the checks of MMOUT and MLDACC, whose tensor must fit the bank, with the format in use (log
entry 106). -/
def bankCheck (d fmt : Nat) (ex : Bool) : Option Nat :=
  if dRows d = 0 ∨ dCols d = 0 then some 0x0143
  else match descCheck d fmt (rowBytes fmt (dCols d)) with
  | some c => some c
  | none => if (if ex then 16 else 64) < dRows d ∨ 64 < dCols d then some 0x0143 else none

/-- The element of an accumulator bank, and of the exact file; one never written is undefined (R85). -/
def bankElem (x : TileSt) (b i : Nat) : Nat :=
  match tfind x.banks b with
  | some k => (tfind k.cells i).getD (if k.clear then 0 else Config.freeWord (seedOf x) (10000 + b * 4096 + i) % 2 ^ 32)
  | none => Config.freeWord (seedOf x) (10000 + b * 4096 + i) % 2 ^ 32
def exactElem (x : TileSt) (i : Nat) : Ea :=
  (tfind x.exact.cells i).getD
    (if x.exact.clear then Ea.zero
     else
      let tag := Config.freeWord (seedOf x) (30000 + i) % 4
      ⟨if tag = 0 then Config.freeWord (seedOf x) (40000 + i) % 2 ^ 640 else 0, tag⟩)

/-- The column of a tensor. -/
def column (rows : List (List XVal)) (j : Nat) : List XVal := rows.map fun r => r.getD j (.fin ⟨false, 0, 0⟩)

/-- The exact products of a row of A and a column of B. -/
def products : List XVal → List XVal → List XVal × Nat
  | a :: r, b :: q =>
    let (p, f) := xMul a b
    let (ps, fs) := products r q
    (p :: ps, fOr f fs)
  | _, _ => ([], 0)

/-- Addition of values that are no inputs: a NaN among them sets no flag again (R80). -/
def xAddQ (x y : XVal) : XVal × Nat :=
  let (z, f) := xAdd x y
  (z, if x = .nan ∨ y = .nan then 0 else f)

/-- The exact sum of products; the first is taken as it stands. -/
def xSum : List XVal → XVal × Nat
  | [] => (.fin ⟨false, 0, 0⟩, 0)
  | [x] => (x, 0)
  | x :: r => let (y, f) := xSum r; let (z, g) := xAddQ x y; (z, fOr f g)

/-- R112: the K per cycle of an operand pair outside exact mode; two different MX formats run at the row of the wider
element. -/
def kChunk (a b : Nat) : Nat :=
  if a = fmtFP32 then 4
  else if a = fmtBF16 ∨ a = fmtFP16 then 32
  else if fmtBits a ≤ 4 ∧ fmtBits b ≤ 4 then 128
  else 64

/-- R113: the products of a K that is no multiple of the chunk, with the zeros that pad its final chunk. -/
def padChunk (c : Nat) (ps : List XVal) : List XVal :=
  ps ++ List.replicate (alignUp ps.length c - ps.length) (.fin ⟨false, 0, 0⟩)

/-- R66: one element of a bank: the sum of each group of 32 products rounded once to FP32, then added to the
accumulator in ascending order of group. -/
def accGroups : List (List XVal) → Lane → Lane × Nat
  | [], acc => (acc, 0)
  | g :: r, acc =>
    let (p, f1) := toFp32 (xSum g)
    let (a, f2) := toFp32 (xAddQ (fp32 acc) (fp32 p))
    let (b, f3) := accGroups r a
    (b, fOr f1 (fOr f2 f3))

/-- The integer that a finite value is. -/
def xInt (x : XVal) : Int := match x with | .fin d => dyAt d 0 | _ => 0

/-- R114: one element of an INT32 bank, group by group, saturating. -/
def accInts : List (List XVal) → Int → Int × Nat
  | [], acc => (acc, 0)
  | g :: r, acc =>
    let v := acc + g.foldl (fun a x => a + xInt x) 0
    let w := max (-2147483648) (min 2147483647 v)
    let (b, f) := accInts r w
    (b, if w = v then f else fOr f fSaturated)

/-- R68, R78: one element of the exact file. -/
def accExact (ps : List XVal) (acc : Ea) : Ea × Nat := eaSum acc (ps.map fun p => (eaOfX p).1)

/-- The element indices `row × 64 + column` of an M × N result. -/
def bankCells (m n : Nat) : List Nat := (List.range m).flatMap fun i => (List.range n).map fun j => i * 64 + j

/-- R69: a block scale below the floor of exact mode. -/
def scaleBelow (scs : List (List Byte)) : Bool := scs.any fun r => r.any fun b => decide (b.toNat < 7)

/-- R66, R68, R91, R114: the new element `i` of the bank or the exact file, with flags. -/
def mmaElem (x : TileSt) (m : MatOp) (ex int : Bool) (as bs : List (List XVal)) (i : Nat) : (Nat × Ea) × Nat :=
  let zero := bitAt m.md 2
  let (ps, f1) := products (as.getD (i / 64) []) (column bs (i % 64))
  if ex then
    let (e, f2) := accExact ps (if zero then Ea.zero else exactElem x i)
    ((0, e), fOr f1 f2)
  else
    let acc := if zero then 0 else bankElem x m.dst i
    let ps := padChunk (kChunk (dFmt m.da) (dFmt m.db)) ps
    if int then
      let (v, f2) := accInts (groups32 ps.length ps) (sxt 32 acc)
      ((uxt 32 v, Ea.zero), fOr f1 f2)
    else
      let (v, f2) := accGroups (groups32 ps.length ps) (BitVec.ofNat 32 acc)
      ((v.toNat, Ea.zero), fOr f1 f2)

/-- Stores elements into a bank, and into the exact file. -/
def putBank (x : TileSt) (b : Nat) (clear int : Bool) (es : List (Nat × Nat)) : TileSt :=
  let k := (tfind x.banks b).getD ⟨false, int, []⟩
  let k0 : BankSt := if clear then ⟨true, int, []⟩ else { k with int32 := int }
  { x with banks := tput x.banks b { k0 with cells := es.foldl (fun c e => tput c e.1 e.2) k0.cells } }
def putExact (x : TileSt) (clear : Bool) (es : List (Nat × Ea)) : TileSt :=
  let k : ExactSt := if clear then ⟨true, []⟩ else x.exact
  { x with exact := { k with cells := es.foldl (fun c e => tput c e.1 e.2) k.cells } }

/-- R91: an MMA completes. -/
def doMma (t : Nat) (m : MatOp) (s : State) : State :=
  let ex := bitAt m.ctl 7
  match readTensor t m.da s with
  | .ue e z => ueTile t e z
  | .ok (as, sa) s1 =>
    match readTensor t m.db s1 with
    | .ue e z => ueTile t e z
    | .ok (bs, sb) s2 =>
      if ex && (scaleBelow sa || scaleBelow sb) then tileExc t 0x0131 none s2
      else
        let int := dFmt m.da == fmtINT8
        let x := tileSt s2 t
        let cells := bankCells (dRows m.da) (dCols m.db)
        let rs := cells.map fun i => (i, mmaElem x m ex int as bs i)
        let fl := rs.foldl (fun a r => fOr a r.2.2) 0
        let zero := bitAt m.md 2
        let x1 := if ex then putExact x zero (rs.map fun r => (r.1, r.2.1.2))
          else putBank x m.dst zero int (rs.map fun r => (r.1, r.2.1.1))
        addFlags t fl (setTile s2 t x1)

/-- R77, R59, R60: the exact value that an element of a bank or the exact file converts from. -/
def outVal (x : TileSt) (m : MatOp) (i : Nat) : XVal :=
  if bitAt m.ctl 7 then eaToX (exactElem x i)
  else
    let k := (tfind x.banks m.sa).getD ⟨false, false, []⟩
    decodeElem (if k.int32 then fmtINT32 else fmtFP32) (bankElem x m.sa i)

/-- R62: the index k of element (i, j) of an output descriptor. -/
def outIndex (d i j : Nat) : Nat := (dGidx d + i * dGidxRow d + j) % 2 ^ 64

/-- R80: NAN_INPUT of reading a bank's elements; a tag of the exact file is no element. -/
def bankNaN (m : MatOp) (vs : List XVal) : Nat := if !bitAt m.ctl 7 && vs.contains .nan then fNanInput else 0

/-- R77: one output row in a scalar format: its elements' patterns and flags. -/
def outRow (x : TileSt) (m : MatOp) (a : Arith) (i : Nat) : Nat → Nat → List Nat × Nat
  | 0, _ => ([], 0)
  | n + 1, j =>
    let v := outVal x m (i * 64 + j)
    let (b, f) := convOut a (outIndex m.da i j) v
    let (bs, fs) := outRow x m a i n (j + 1)
    (b :: bs, fOr (fOr f (bankNaN m [v])) fs)

/-- R54: one output row in an MX format, block by block: element patterns, scale bytes and flags. -/
def outRowMx (x : TileSt) (m : MatOp) (a : Arith) (i : Nat) : Nat → Nat → List Nat × List Nat × Nat
  | 0, _ => ([], [], 0)
  | n + 1, b =>
    let vs := (List.range 32).map fun j => outVal x m (i * 64 + 32 * b + j)
    let (es, sc, f) := mxQuantise a (outIndex m.da i (32 * b)) vs
    let (r, scs, fs) := outRowMx x m a i n (b + 1)
    (es ++ r, sc :: scs, fOr (fOr f (bankNaN m vs)) fs)

/-- R77: the EA640 value of an element. -/
def outEa (x : TileSt) (m : MatOp) (i : Nat) : Ea :=
  if bitAt m.ctl 7 then exactElem x i else (eaOfX (outVal x m i)).1

/-- R91: an MMOUT completes. -/
def doMmout (t : Nat) (m : MatOp) (s : State) : State :=
  let x := tileSt s t
  let a : Arith := { arithOf m.ctl m.seed with exact := bitAt m.ctl 7 }
  let d := m.da
  let put (rows : List (List Byte)) (s : State) (k : State → State) : State :=
    match writeRows t (dAddr d) (dStride d) rows s with
    | .ue e z => ueTile t e z
    | .ok _ s1 => k s1
  if a.outFmt = fmtEA640 then
    let fl := bankNaN m ((List.range (dRows d)).flatMap fun i => (List.range (dCols d)).map fun j => outVal x m (i * 64 + j))
    put ((List.range (dRows d)).map fun i => (List.range (dCols d)).flatMap fun j => eaBytes (outEa x m (i * 64 + j)))
      s (addFlags t fl)
  else if fmtIsMX a.outFmt then
    let rs := (List.range (dRows d)).map fun i => outRowMx x m a i (dCols d / 32) 0
    let fl := rs.foldl (fun f r => fOr f r.2.2) 0
    put (rs.map fun r => packElems (fmtBits a.outFmt) r.1) s fun s1 =>
      match writeRows t (dScale d) (dCols d / 32) (rs.map fun r => r.2.1.map (BitVec.ofNat 8)) s1 with
      | .ue e z => ueTile t e z
      | .ok _ s2 => addFlags t fl s2
  else
    let rs := (List.range (dRows d)).map fun i => outRow x m a i (dCols d) 0
    let fl := rs.foldl (fun f r => fOr f r.2) 0
    put (rs.map fun r => packElems (fmtBits a.outFmt) r.1) s (addFlags t fl)

/-- R91: an MLDACC completes. -/
def doMldacc (t : Nat) (m : MatOp) (s : State) : State :=
  let d := m.da
  match readRows t (dAddr d) (dStride d) (rowBytes (dFmt d) (dCols d)) (dRows d) s with
  | .ue e z => ueTile t e z
  | .ok rows s1 =>
    let x := tileSt s1 t
    let cells := bankCells (dRows d) (dCols d)
    if bitAt m.ctl 7 then
      let es := cells.map fun i => (i, eaOfBytes ((rows.getD (i / 64) []).drop (96 * (i % 64))))
      addFlags t (if es.any fun e => e.2.tag == 3 then fNanInput else 0) (setTile s1 t (putExact x false es))
    else
      let es := cells.map fun i => (i, fld (rows.getD (i / 64) []) (4 * (i % 64)) 4)
      addFlags t (if es.any fun e => decide (decodeElem fmtFP32 e.2 = .nan) then fNanInput else 0)
        (setTile s1 t (putBank x m.dst false false es))

/-- R91: an MCLR completes. -/
def doMclr (t : Nat) (m : MatOp) (s : State) : State :=
  let x := tileSt s t
  setTile s t (if bitAt m.ctl 7 then putExact x true [] else putBank x m.dst true false [])

/-- R91: an operation of the matrix unit issues once its checks pass: its descriptors and its context are as they
stand then. -/
def matIssue (t : TileId) (op : Nat) (f : RegForm) (da db : TileSt → Nat) (chk : TileSt → Bool → Nat → Option Nat)
    (s : State) (x : TileSt) : SlotRes :=
  let c := f.md.val % 4
  let ctl := ctxCtl x c
  match chk x (bitAt ctl 7) ctl with
  | some code => .exc code s
  | none => .ok [.matrix ⟨op, f.dst.val, f.sa.val, f.md.val, da x, db x, ctl, ctxSeed s t.val c⟩] s

/-- R91: bank += A × B, or A × B with ZERO. -/
def execMma (t : TileId) (f : RegForm) (s : State) : Host.Outcome State Fault Refusal :=
  .next (issueReg t 0 0x01 f (matIssue t 0x01 f (descAt · f.sa.val) (descAt · f.sb.val)
    fun x ex _ => mmaCheck (descAt x f.sa.val) (descAt x f.sb.val) ex) s)

/-- R91: the bank converted into the tensor of descriptor DST, in the context's OUT_FMT (log entry 13). -/
def execMmout (t : TileId) (f : RegForm) (s : State) : Host.Outcome State Fault Refusal :=
  .next (issueReg t 0 0x02 f (matIssue t 0x02 f (descAt · f.dst.val) (fun _ => 0)
    fun x ex ctl => bankCheck (descAt x f.dst.val) (ctl % 16) ex) s)

/-- R91: a bank loaded from an FP32 tensor, or the exact file from an EA640 tensor in memory form; another format is
refused as R112 refuses an operand pair (log entry 106). -/
def execMldacc (t : TileId) (f : RegForm) (s : State) : Host.Outcome State Fault Refusal :=
  .next (issueReg t 0 0x03 f (matIssue t 0x03 f (descAt · f.sa.val) (fun _ => 0)
    fun x ex _ =>
      let d := descAt x f.sa.val
      match bankCheck d (dFmt d) ex with
      | some c => some c
      | none => if dFmt d = (if ex then fmtEA640 else fmtFP32) then none else some 0x0146) s)

/-- R91: the bank set to zero. -/
def execMclr (t : TileId) (f : RegForm) (s : State) : Host.Outcome State Fault Refusal :=
  .next (issueReg t 0 0x04 f (matIssue t 0x04 f (fun _ => 0) (fun _ => 0) fun _ _ _ => none) s)

/-- R112: the row of a format's pairs; a pair of two MX formats runs at the row of the wider element. -/
def matrixRow (f : Nat) : Nat :=
  match f with
  | 0x9 => 0 | 0x7 => 1 | 0x8 => 1 | 0x5 => 2 | 0x6 => 2 | 0xA => 3 | 0xB => 4 | 0x3 => 5 | 0x4 => 5 | 0x1 => 6 | 0x2 => 7 | _ => 8

/-- R311, R476: the cycles in which the array advanced an MMA are counted. -/
def countMatrix (t busy : Nat) (m : MatOp) (s : State) : State :=
  noteEvents t (.matrix (Fin.ofNat 9 (max (matrixRow (dFmt m.da)) (matrixRow (dFmt m.db))))) (tileOpId (tileSt s t)) busy
    (odAdd s (oMATRIX_BUSY_CYCLES + dieOf t) busy)

/-- R115, R120, R476: the oldest outstanding matrix operation of a tile completes; `busy` are the cycles in which the
array advanced it, as counted. One that raises an exception stays outstanding, so that the stop makes what it would have
written undefined (R122). -/
def matComplete (t busy : Nat) (s0 : State) : State :=
  let x := tileSt s0 t
  let s := match x.mats with
    | m :: _ => if m.op = 1 ∧ x.stopped = none then countMatrix t busy m s0 else s0
    | [] => s0
  if x.stopped.isSome then s
  else match x.mats with
    | [] => s
    | m :: r =>
      let s1 := setTile s t { x with mats := r }
      let s2 := if m.op = 1 then doMma t m s1
        else if m.op = 2 then doMmout t m s1
        else if m.op = 3 then doMldacc t m s1
        else doMclr t m s1
      let y := tileSt s2 t
      if y.stopped.isSome then setTile s2 t { y with mats := m :: r } else s2

def execMatrixOpComplete (t : TileId) (busy : Nat) (s : State) : Host.Outcome State Fault Refusal :=
  .next (matComplete t.val busy s)

end Sys2Proof.Machine
end

