-- ==== Sys2Proof/Machine/Vector.lean ====
section
/-! DEFINITION. The VEC slot (R92, R117 to R119). -/
namespace Sys2Proof.Machine

/-! ### Scans and reductions (R118) -/

/-- A running value of a scan or reduction of one kind: SCANF and REDF sum in EA640, SCANI and REDI modulo 2^32,
SCANMAX, SCANMIN, REDMAX and REDMIN keep the extreme of FP32 lanes (log entry 12). `none` before any lane. -/
def carryStep (kind : Nat) (c : Option Carry) (x : Lane) : Carry × Nat :=
  match kind with
  | 0 =>
    let (e, f) := eaOfX (fp32 x)
    match c with
    | some (.fsum a) => let (r, f1) := eaAdd a e; (.fsum r, fOr f f1)
    | _ => (.fsum e, f)
  | 1 =>
    match c with
    | some (.isum n) => (.isum ((n + x.toNat) % 2 ^ 32), 0)
    | _ => (.isum x.toNat, 0)
  | _ =>
    match c with
    | some (.fext a) => let (r, f) := fp32MinMax (kind == 2) a x; (.fext r, f)
    | _ => (.fext x, nanFlag (fp32 x))

/-- R118: the lane that a running value gives: an exact sum rounds once to FP32. -/
def carryLane (c : Carry) : Lane × Nat :=
  match c with
  | .fsum e => let (b, f) := eaOut arithRNE 0 e; (BitVec.ofNat 32 b, f)
  | .isum n => (BitVec.ofNat 32 n, 0)
  | .fext x => (x, 0)

/-- R118: a segmented inclusive scan of lanes from lane `i`, with the running value before it. -/
def scanFrom (kind marks : Nat) : List Lane → Nat → Option Carry → List Lane × Option Carry × Nat
  | [], _, c => ([], c, 0)
  | x :: r, i, c =>
    let (c1, f1) := carryStep kind (if bitAt marks i then none else c) x
    let (y, f2) := carryLane c1
    let (ys, c2, f3) := scanFrom kind marks r (i + 1) (some c1)
    (y :: ys, c2, fOr f1 (fOr f2 f3))

/-- R118: the totals of the segments of lanes from lane `i`, in order. -/
def segTotals (kind marks : Nat) : List Lane → Nat → Option Carry → List Carry × Nat
  | [], _, none => ([], 0)
  | [], _, some c => ([c], 0)
  | x :: r, i, c =>
    let start := bitAt marks i || c.isNone
    let (c1, f1) := carryStep kind (if start then none else c) x
    let (ts, f2) := segTotals kind marks r (i + 1) (some c1)
    match c with
    | some d => if start then (d :: ts, fOr f1 f2) else (ts, fOr f1 f2)
    | none => (ts, fOr f1 f2)

/-- R118: SCANF (0), SCANI (1), SCANMAX (2), SCANMIN (3). With CHAIN, lane 0 goes on from the last chained scan of the
kind; without, the carry of the kind is cleared. The mask of MOD[2:0] chooses the lanes written (log entry 12). -/
def vecScan (kind : Nat) (f : RegForm) (s : State) (x : TileSt) : SlotRes :=
  let mask := mreg x (f.md.val % 8)
  let chain := bitAt f.md.val 3
  let c0 := if chain then tfind x.carries kind else none
  let (ys, c, fl) := scanFrom kind (mreg x f.sb.val) (lanes64 (vreg x f.sa.val)) 0 c0
  .ok (withFlags fl [.vreg f.dst.val (mergeLanes mask (vreg x f.dst.val) ys), .carry kind (if chain then c else none)]) s

/-- R118: REDF, REDI, REDMAX, REDMIN: segment totals in lanes 0 to n − 1, zero elsewhere, and n in S[SC]. -/
def vecRed (kind : Nat) (f : RegForm) (s : State) (x : TileSt) : SlotRes :=
  let mask := mreg x (f.md.val % 8)
  let (ts, f1) := segTotals kind (mreg x f.sb.val) (lanes64 (vreg x f.sa.val)) 0 none
  let ys := ts.map fun c => (carryLane c).1
  let f2 := ts.foldl (fun a c => fOr a (carryLane c).2) f1
  .ok (withFlags f2 [.vreg f.dst.val (mergeLanes mask (vreg x f.dst.val) ys), .sreg f.sc.val ts.length]) s

/-! ### Lane accumulators (R119) -/

/-- R119: EAADD on the lanes of the mask, from lane `i`. -/
def eaAddLanes (x : TileSt) (mask : Nat) (int : Bool) (v : List Lane) : Nat → Nat → List TEff × Nat
  | 0, _ => ([], 0)
  | n + 1, i =>
    let (r, f) := eaAddLanes x mask int v n (i + 1)
    if bitAt mask i then
      let (e, f1) := eaOfX (decodeElem (if int then fmtINT32 else fmtFP32) (laneAt v i).toNat)
      let (a, f2) := eaAdd (lacc x i) e
      (.lacc i a :: r, fOr f1 (fOr f2 f))
    else (r, f)

/-- R119: the sum of a segment of EARED lands in its first masked lane. -/
def eaRedClose : Option (Nat × List Ea) → List TEff × Nat
  | none => ([], 0)
  | some (k, as) => let (e, f) := eaSum Ea.zero as; ([.lacc k e], f)

/-- R119: EARED from lane `i`: `opened` is the segment's first masked lane and the accumulators of its masked lanes so
far. -/
def eaRedLanes (x : TileSt) (mask marks : Nat) : Nat → Nat → Option (Nat × List Ea) → List TEff × Nat
  | 0, _, opened => eaRedClose opened
  | n + 1, i, opened =>
    let start := bitAt marks i
    let (out, f) := if start then eaRedClose opened else ([], 0)
    let cur := if start then none else opened
    if bitAt mask i then
      match cur with
      | none =>
        let (r, g) := eaRedLanes x mask marks n (i + 1) (some (i, [lacc x i]))
        (out ++ r, fOr f g)
      | some (k, as) =>
        let (r, g) := eaRedLanes x mask marks n (i + 1) (some (k, as ++ [lacc x i]))
        (out ++ .lacc i Ea.zero :: r, fOr f g)
    else
      let (r, g) := eaRedLanes x mask marks n (i + 1) cur
      (out ++ r, fOr f g)

/-! ### The rows -/

def execFadd (t : TileId) (f : RegForm) (s : State) : Host.Outcome State Fault Refusal :=
  .next (issueReg t 1 0x01 f (vecBin f fp32Add) s)

def execFsub (t : TileId) (f : RegForm) (s : State) : Host.Outcome State Fault Refusal :=
  .next (issueReg t 1 0x02 f (vecBin f fp32Sub) s)

def execFmul (t : TileId) (f : RegForm) (s : State) : Host.Outcome State Fault Refusal :=
  .next (issueReg t 1 0x03 f (vecBin f fp32Mul) s)

/-- R92: V[SA] × V[SB] + V[SC] with one rounding. -/
def execFfma (t : TileId) (f : RegForm) (s : State) : Host.Outcome State Fault Refusal :=
  .next (issueReg t 1 0x04 f (lanesOp f fun x i =>
    fp32Fma (laneAt (vreg x f.sa.val) i) (laneAt (vreg x f.sb.val) i) (laneAt (vreg x f.sc.val) i)) s)

/-- R117. -/
def execFmin (t : TileId) (f : RegForm) (s : State) : Host.Outcome State Fault Refusal :=
  .next (issueReg t 1 0x05 f (vecBin f (fp32MinMax false)) s)

/-- R117. -/
def execFmax (t : TileId) (f : RegForm) (s : State) : Host.Outcome State Fault Refusal :=
  .next (issueReg t 1 0x06 f (vecBin f (fp32MinMax true)) s)

/-- R92, R47: the sign bit only. -/
def execFabs (t : TileId) (f : RegForm) (s : State) : Host.Outcome State Fault Refusal :=
  .next (issueReg t 1 0x07 f (vecUn f fun a => (a &&& 0x7FFFFFFF#32, 0)) s)

/-- R92, R47: the sign bit only. -/
def execFneg (t : TileId) (f : RegForm) (s : State) : Host.Outcome State Fault Refusal :=
  .next (issueReg t 1 0x08 f (vecUn f fun a => (a ^^^ 0x80000000#32, 0)) s)

def execFdiv (t : TileId) (f : RegForm) (s : State) : Host.Outcome State Fault Refusal :=
  .next (issueReg t 1 0x09 f (vecBin f fp32Div) s)

def execFsqrt (t : TileId) (f : RegForm) (s : State) : Host.Outcome State Fault Refusal :=
  .next (issueReg t 1 0x0A f (vecUn f fp32Sqrt) s)

/-- R66: a fixed result for each input, which the manual does not give. -/
def execFrcp (t : TileId) (f : RegForm) (s : State) : Host.Outcome State Fault Refusal :=
  .next (issueReg t 1 0x0B f (vecUn f (fp32Fixed 0)) s)

/-- R66. -/
def execFrsq (t : TileId) (f : RegForm) (s : State) : Host.Outcome State Fault Refusal :=
  .next (issueReg t 1 0x0C f (vecUn f (fp32Fixed 1)) s)

/-- R66. -/
def execFexp2 (t : TileId) (f : RegForm) (s : State) : Host.Outcome State Fault Refusal :=
  .next (issueReg t 1 0x0D f (vecUn f (fp32Fixed 2)) s)

/-- R66. -/
def execFlog2 (t : TileId) (f : RegForm) (s : State) : Host.Outcome State Fault Refusal :=
  .next (issueReg t 1 0x0E f (vecUn f (fp32Fixed 3)) s)

/-- R66. -/
def execFtanh (t : TileId) (f : RegForm) (s : State) : Host.Outcome State Fault Refusal :=
  .next (issueReg t 1 0x0F f (vecUn f (fp32Fixed 4)) s)

def execIadd (t : TileId) (f : RegForm) (s : State) : Host.Outcome State Fault Refusal :=
  .next (issueReg t 1 0x10 f (vecInt 0x10 f) s)

def execIsub (t : TileId) (f : RegForm) (s : State) : Host.Outcome State Fault Refusal :=
  .next (issueReg t 1 0x11 f (vecInt 0x11 f) s)

def execImul (t : TileId) (f : RegForm) (s : State) : Host.Outcome State Fault Refusal :=
  .next (issueReg t 1 0x12 f (vecInt 0x12 f) s)

def execImin (t : TileId) (f : RegForm) (s : State) : Host.Outcome State Fault Refusal :=
  .next (issueReg t 1 0x13 f (vecInt 0x13 f) s)

def execImax (t : TileId) (f : RegForm) (s : State) : Host.Outcome State Fault Refusal :=
  .next (issueReg t 1 0x14 f (vecInt 0x14 f) s)

def execAndV (t : TileId) (f : RegForm) (s : State) : Host.Outcome State Fault Refusal :=
  .next (issueReg t 1 0x15 f (vecInt 0x15 f) s)

def execOrV (t : TileId) (f : RegForm) (s : State) : Host.Outcome State Fault Refusal :=
  .next (issueReg t 1 0x16 f (vecInt 0x16 f) s)

def execXorV (t : TileId) (f : RegForm) (s : State) : Host.Outcome State Fault Refusal :=
  .next (issueReg t 1 0x17 f (vecInt 0x17 f) s)

def execShl (t : TileId) (f : RegForm) (s : State) : Host.Outcome State Fault Refusal :=
  .next (issueReg t 1 0x18 f (vecInt 0x18 f) s)

def execShr (t : TileId) (f : RegForm) (s : State) : Host.Outcome State Fault Refusal :=
  .next (issueReg t 1 0x19 f (vecInt 0x19 f) s)

def execSra (t : TileId) (f : RegForm) (s : State) : Host.Outcome State Fault Refusal :=
  .next (issueReg t 1 0x1A f (vecInt 0x1A f) s)

def execScanf (t : TileId) (f : RegForm) (s : State) : Host.Outcome State Fault Refusal :=
  .next (issueReg t 1 0x20 f (vecScan 0 f) s)

def execScani (t : TileId) (f : RegForm) (s : State) : Host.Outcome State Fault Refusal :=
  .next (issueReg t 1 0x21 f (vecScan 1 f) s)

def execScanmax (t : TileId) (f : RegForm) (s : State) : Host.Outcome State Fault Refusal :=
  .next (issueReg t 1 0x22 f (vecScan 2 f) s)

def execScanmin (t : TileId) (f : RegForm) (s : State) : Host.Outcome State Fault Refusal :=
  .next (issueReg t 1 0x23 f (vecScan 3 f) s)

def execRedf (t : TileId) (f : RegForm) (s : State) : Host.Outcome State Fault Refusal :=
  .next (issueReg t 1 0x24 f (vecRed 0 f) s)

def execRedi (t : TileId) (f : RegForm) (s : State) : Host.Outcome State Fault Refusal :=
  .next (issueReg t 1 0x25 f (vecRed 1 f) s)

def execRedmax (t : TileId) (f : RegForm) (s : State) : Host.Outcome State Fault Refusal :=
  .next (issueReg t 1 0x26 f (vecRed 2 f) s)

def execRedmin (t : TileId) (f : RegForm) (s : State) : Host.Outcome State Fault Refusal :=
  .next (issueReg t 1 0x27 f (vecRed 3 f) s)

/-- R119, R68: LA[i] += lane i of V[SA], exactly; MOD[6] reads INT32. -/
def execEaadd (t : TileId) (f : RegForm) (s : State) : Host.Outcome State Fault Refusal :=
  .next (issueReg t 1 0x30 f (fun s x =>
    let (es, fl) := eaAddLanes x (mreg x (f.md.val % 8)) (bitAt f.md.val 6) (vreg x f.sa.val) 64 0
    .ok (withFlags fl es) s) s)

/-- R119: segmented sum of the masked lane accumulators. -/
def execEared (t : TileId) (f : RegForm) (s : State) : Host.Outcome State Fault Refusal :=
  .next (issueReg t 1 0x31 f (fun s x =>
    let (es, fl) := eaRedLanes x (mreg x (f.md.val % 8)) (mreg x f.sb.val) 64 0 none
    .ok (withFlags fl es) s) s)

/-- R92, R119, R77: LA[i] converted under context MOD[5:4]; a narrow result lands in the low bits of its lane. An MX
format is formed over lanes 0 to 31 and 32 to 63, of which lanes outside the mask count as zero; no register holds the
scales (log entry 113). -/
def execEaout (t : TileId) (f : RegForm) (s : State) : Host.Outcome State Fault Refusal :=
  .next (issueReg t 1 0x32 f (fun s x =>
    let mask := mreg x (f.md.val % 8)
    let a := ctxArith s t.val (f.md.val / 16 % 4)
    if fmtIsMX a.outFmt then
      let (r, fl) := eaOutList a (sreg x f.sb.val)
        ((List.range 64).map fun i => if bitAt mask i then lacc x i else Ea.zero)
      .ok (withFlags fl [.vreg f.dst.val (mergeLanes mask (vreg x f.dst.val) (natLanes r))]) s
    else
      let (r, fl) := laneMap mask (fun i =>
        let (b, g) := eaOut a ((sreg x f.sb.val + i) % 2 ^ 64) (lacc x i)
        (BitVec.ofNat 32 b, g)) 64 0
      .ok (withFlags fl [.vreg f.dst.val (mergeLanes mask (vreg x f.dst.val) r)]) s) s)

/-- R92: LA[i] = 0 with tag finite. -/
def execEaclr (t : TileId) (f : RegForm) (s : State) : Host.Outcome State Fault Refusal :=
  .next (issueReg t 1 0x33 f (fun s x =>
    .ok (((List.range 64).filter (bitAt (mreg x (f.md.val % 8)))).map fun i => .lacc i Ea.zero) s) s)

end Sys2Proof.Machine
end

