-- ==== Sys2Proof/Machine/Vmov.lean ====
section
/-! DEFINITION. The VMOV slot (R93). -/
namespace Sys2Proof.Machine

/-- R93: the value of a narrow element; an MX element stands for its value under a scale of one (log entry 113). -/
def cvtIn (fin raw : Nat) : XVal := decodeElem fin (raw % 2 ^ fmtBits fin)

/-- R93: the conversions of a list of elements under a context, from element index `k`. -/
def cvtList (fin : Nat) (a : Arith) (k : Nat) (raws : List Nat) : List Nat × Nat :=
  let xs := raws.map (cvtIn fin)
  let (r, f) := convList a k xs
  (r, fOr (if xs.contains .nan then fNanInput else 0) f)

/-- R93: packed element `p` of `w` bits of a vector value. -/
def packedElem (bs : List Byte) (w p : Nat) : Nat := fld bs (w / 8 * p) (w / 8)

/-- R93: VCVT, VPACK and VUNPACK: `src` gives the input values, `dst` the bytes of V[DST]. -/
def cvtOp (t : TileId) (f : RegForm) (src : TileSt → List Nat) (k0 : TileSt → Nat) (dst : Nat → List Nat → List Lane)
    (s : State) (x : TileSt) : SlotRes :=
  let fin := f.md.val % 16
  let a := ctxArith s t.val (f.md.val / 16 % 4)
  let (r, fl) := cvtList fin a (k0 x) (src x)
  .ok (withFlags fl [.vreg f.dst.val (dst (fmtBits a.outFmt) r)]) s

/-- Lanes as numbers. -/
def lanesNat (v : List Lane) : List Nat := (List.range 64).map fun i => (laneAt v i).toNat

/-- A value of no flags for each lane of the mask. -/
def moveOp (f : RegForm) (g : TileSt → Nat → Lane) : State → TileSt → SlotRes := lanesOp f fun x i => (g x i, 0)

def execVmov (t : TileId) (f : RegForm) (s : State) : Host.Outcome State Fault Refusal :=
  .next (issueReg t 2 0x01 f (moveOp f fun x i => laneAt (vreg x f.sa.val) i) s)

def execVbcast (t : TileId) (f : RegForm) (s : State) : Host.Outcome State Fault Refusal :=
  .next (issueReg t 2 0x02 f (moveOp f fun x _ => BitVec.ofNat 32 (sreg x f.sa.val)) s)

def execViota (t : TileId) (f : RegForm) (s : State) : Host.Outcome State Fault Refusal :=
  .next (issueReg t 2 0x03 f (moveOp f fun _ i => BitVec.ofNat 32 i) s)

def execVperm (t : TileId) (f : RegForm) (s : State) : Host.Outcome State Fault Refusal :=
  .next (issueReg t 2 0x04 f (moveOp f fun x i =>
    laneAt (vreg x f.sa.val) ((laneAt (vreg x f.sb.val) i).toNat % 64)) s)

def execVsel (t : TileId) (f : RegForm) (s : State) : Host.Outcome State Fault Refusal :=
  .next (issueReg t 2 0x05 f (moveOp f fun x i =>
    if bitAt (mreg x f.sc.val) i then laneAt (vreg x f.sa.val) i else laneAt (vreg x f.sb.val) i) s)

/-- R93: each lane converted from MOD[3:0] to OUT_FMT of context MOD[5:4]; all lanes. -/
def execVcvt (t : TileId) (f : RegForm) (s : State) : Host.Outcome State Fault Refusal :=
  .next (issueReg t 2 0x06 f (cvtOp t f (fun x => lanesNat (vreg x f.sa.val)) (fun x => sreg x f.sb.val)
    fun _ r => natLanes r) s)

/-- R93: 128 lanes converted and packed; for an 8-bit format bytes 128 to 255 are zero. -/
def execVpack (t : TileId) (f : RegForm) (s : State) : Host.Outcome State Fault Refusal :=
  .next (issueReg t 2 0x07 f (cvtOp t f (fun x => lanesNat (vreg x f.sa.val) ++ lanesNat (vreg x f.sb.val))
    (fun x => sreg x f.sc.val) fun w r => bytesLanes (padTo 256 (r.flatMap fun v => leBytes (w / 8) v))) s)

/-- R93: packed elements 64h to 64h + 63, h = MOD[7]; element 64h + i is converted into lane i. -/
def execVunpack (t : TileId) (f : RegForm) (s : State) : Host.Outcome State Fault Refusal :=
  .next (issueReg t 2 0x08 f (cvtOp t f (fun x =>
    let bs := lanesBytes (vreg x f.sa.val)
    (List.range 64).map fun i => packedElem bs (fmtBits (f.md.val % 16)) (64 * (f.md.val / 128) + i))
    (fun x => sreg x f.sb.val) fun _ r => natLanes r) s)

def execFcmpeq (t : TileId) (f : RegForm) (s : State) : Host.Outcome State Fault Refusal :=
  .next (issueReg t 2 0x10 f (cmpOp f (fp32Cmp 0)) s)

def execFcmplt (t : TileId) (f : RegForm) (s : State) : Host.Outcome State Fault Refusal :=
  .next (issueReg t 2 0x11 f (cmpOp f (fp32Cmp 1)) s)

def execFcmple (t : TileId) (f : RegForm) (s : State) : Host.Outcome State Fault Refusal :=
  .next (issueReg t 2 0x12 f (cmpOp f (fp32Cmp 2)) s)

def execIcmpeq (t : TileId) (f : RegForm) (s : State) : Host.Outcome State Fault Refusal :=
  .next (issueReg t 2 0x13 f (cmpOp f fun a b => (a == b, 0)) s)

def execIcmplt (t : TileId) (f : RegForm) (s : State) : Host.Outcome State Fault Refusal :=
  .next (issueReg t 2 0x14 f (cmpOp f fun a b => (decide (a.toInt < b.toInt), 0)) s)

def execMand (t : TileId) (f : RegForm) (s : State) : Host.Outcome State Fault Refusal :=
  .next (issueReg t 2 0x18 f (maskOp f fun x => Nat.land (mreg x f.sa.val) (mreg x f.sb.val)) s)

def execMor (t : TileId) (f : RegForm) (s : State) : Host.Outcome State Fault Refusal :=
  .next (issueReg t 2 0x19 f (maskOp f fun x => Nat.lor (mreg x f.sa.val) (mreg x f.sb.val)) s)

def execMnot (t : TileId) (f : RegForm) (s : State) : Host.Outcome State Fault Refusal :=
  .next (issueReg t 2 0x1A f (maskOp f fun x => 2 ^ 64 - 1 - mreg x f.sa.val) s)

/-- R93: the number of set bits of M[SA]; a scalar result has no lane that the mask could keep (log entry 8). -/
def execMpop (t : TileId) (f : RegForm) (s : State) : Host.Outcome State Fault Refusal :=
  .next (issueReg t 2 0x1B f (sclOp f.dst.val fun _ x => popcount 64 (mreg x f.sa.val)) s)

/-- R93: one lane, zero-extended. -/
def execVext (t : TileId) (f : RegForm) (s : State) : Host.Outcome State Fault Refusal :=
  .next (issueReg t 2 0x1C f (sclOp f.dst.val fun _ x =>
    (laneAt (vreg x f.sa.val) (sreg x f.sb.val % 64)).toNat) s)

/-- R93: one lane of V[DST] = S[SA] bits [31:0]; a lane outside the mask keeps its old value. -/
def execVins (t : TileId) (f : RegForm) (s : State) : Host.Outcome State Fault Refusal :=
  .next (issueReg t 2 0x1D f (fun s x =>
    .ok [.vreg f.dst.val (mergeLanes (Nat.land (2 ^ (sreg x f.sb.val % 64)) (mreg x (f.md.val % 8))) (vreg x f.dst.val)
      (List.replicate 64 (BitVec.ofNat 32 (sreg x f.sa.val))))] s) s)

end Sys2Proof.Machine
end

