-- ==== Sys2Proof/Machine/Dispatch.lean ====
section
/-! DEFINITION. The meaning of each command: one direct call per row of the table of operations and events. -/
namespace Sys2Proof.Machine

/-- One command on the state. -/
def exec (i : Instr) (s : State) : Host.Outcome State Fault Refusal :=
  match i with
  | .mma t f => Sys2Proof.Machine.execMma t f s
  | .mmout t f => Sys2Proof.Machine.execMmout t f s
  | .mldacc t f => Sys2Proof.Machine.execMldacc t f s
  | .mclr t f => Sys2Proof.Machine.execMclr t f s
  | .matrixOpComplete t busy => Sys2Proof.Machine.execMatrixOpComplete t busy s
  | .fadd t f => Sys2Proof.Machine.execFadd t f s
  | .fsub t f => Sys2Proof.Machine.execFsub t f s
  | .fmul t f => Sys2Proof.Machine.execFmul t f s
  | .ffma t f => Sys2Proof.Machine.execFfma t f s
  | .fmin t f => Sys2Proof.Machine.execFmin t f s
  | .fmax t f => Sys2Proof.Machine.execFmax t f s
  | .fabs t f => Sys2Proof.Machine.execFabs t f s
  | .fneg t f => Sys2Proof.Machine.execFneg t f s
  | .fdiv t f => Sys2Proof.Machine.execFdiv t f s
  | .fsqrt t f => Sys2Proof.Machine.execFsqrt t f s
  | .frcp t f => Sys2Proof.Machine.execFrcp t f s
  | .frsq t f => Sys2Proof.Machine.execFrsq t f s
  | .fexp2 t f => Sys2Proof.Machine.execFexp2 t f s
  | .flog2 t f => Sys2Proof.Machine.execFlog2 t f s
  | .ftanh t f => Sys2Proof.Machine.execFtanh t f s
  | .iadd t f => Sys2Proof.Machine.execIadd t f s
  | .isub t f => Sys2Proof.Machine.execIsub t f s
  | .imul t f => Sys2Proof.Machine.execImul t f s
  | .imin t f => Sys2Proof.Machine.execImin t f s
  | .imax t f => Sys2Proof.Machine.execImax t f s
  | .andV t f => Sys2Proof.Machine.execAndV t f s
  | .orV t f => Sys2Proof.Machine.execOrV t f s
  | .xorV t f => Sys2Proof.Machine.execXorV t f s
  | .shl t f => Sys2Proof.Machine.execShl t f s
  | .shr t f => Sys2Proof.Machine.execShr t f s
  | .sra t f => Sys2Proof.Machine.execSra t f s
  | .scanf t f => Sys2Proof.Machine.execScanf t f s
  | .scani t f => Sys2Proof.Machine.execScani t f s
  | .scanmax t f => Sys2Proof.Machine.execScanmax t f s
  | .scanmin t f => Sys2Proof.Machine.execScanmin t f s
  | .redf t f => Sys2Proof.Machine.execRedf t f s
  | .redi t f => Sys2Proof.Machine.execRedi t f s
  | .redmax t f => Sys2Proof.Machine.execRedmax t f s
  | .redmin t f => Sys2Proof.Machine.execRedmin t f s
  | .eaadd t f => Sys2Proof.Machine.execEaadd t f s
  | .eared t f => Sys2Proof.Machine.execEared t f s
  | .eaout t f => Sys2Proof.Machine.execEaout t f s
  | .eaclr t f => Sys2Proof.Machine.execEaclr t f s
  | .vmov t f => Sys2Proof.Machine.execVmov t f s
  | .vbcast t f => Sys2Proof.Machine.execVbcast t f s
  | .viota t f => Sys2Proof.Machine.execViota t f s
  | .vperm t f => Sys2Proof.Machine.execVperm t f s
  | .vsel t f => Sys2Proof.Machine.execVsel t f s
  | .vcvt t f => Sys2Proof.Machine.execVcvt t f s
  | .vpack t f => Sys2Proof.Machine.execVpack t f s
  | .vunpack t f => Sys2Proof.Machine.execVunpack t f s
  | .fcmpeq t f => Sys2Proof.Machine.execFcmpeq t f s
  | .fcmplt t f => Sys2Proof.Machine.execFcmplt t f s
  | .fcmple t f => Sys2Proof.Machine.execFcmple t f s
  | .icmpeq t f => Sys2Proof.Machine.execIcmpeq t f s
  | .icmplt t f => Sys2Proof.Machine.execIcmplt t f s
  | .mand t f => Sys2Proof.Machine.execMand t f s
  | .mor t f => Sys2Proof.Machine.execMor t f s
  | .mnot t f => Sys2Proof.Machine.execMnot t f s
  | .mpop t f => Sys2Proof.Machine.execMpop t f s
  | .vext t f => Sys2Proof.Machine.execVext t f s
  | .vins t f => Sys2Proof.Machine.execVins t f s
  | .vld t f => Sys2Proof.Machine.execVld t f s
  | .vst t f => Sys2Proof.Machine.execVst t f s
  | .sld t f => Sys2Proof.Machine.execSld t f s
  | .sst t f => Sys2Proof.Machine.execSst t f s
  | .eald t f => Sys2Proof.Machine.execEald t f s
  | .east t f => Sys2Proof.Machine.execEast t f s
  | .dmain t f => Sys2Proof.Machine.execDmain t f s
  | .dmaout t f => Sys2Proof.Machine.execDmaout t f s
  | .dmaComplete t => Sys2Proof.Machine.execDmaComplete t s
  | .gather t f => Sys2Proof.Machine.execGather t f s
  | .scatter t f => Sys2Proof.Machine.execScatter t f s
  | .scadd t f => Sys2Proof.Machine.execScadd t f s
  | .setisect t f => Sys2Proof.Machine.execSetisect t f s
  | .setunion t f => Sys2Proof.Machine.execSetunion t f s
  | .setdiff t f => Sys2Proof.Machine.execSetdiff t f s
  | .mjoin t f => Sys2Proof.Machine.execMjoin t f s
  | .hinsert t f => Sys2Proof.Machine.execHinsert t f s
  | .hprobe t f => Sys2Proof.Machine.execHprobe t f s
  | .sort t f => Sys2Proof.Machine.execSort t f s
  | .selectk t f => Sys2Proof.Machine.execSelectk t f s
  | .irrOpDequeue t u => Sys2Proof.Machine.execIrrOpDequeue t u s
  | .irrOpComplete t u => Sys2Proof.Machine.execIrrOpComplete t u s
  | .scaddAccept t k => Sys2Proof.Machine.execScaddAccept t k s
  | .sli t f => Sys2Proof.Machine.execSli t f s
  | .saddi t f => Sys2Proof.Machine.execSaddi t f s
  | .sadd t f => Sys2Proof.Machine.execSadd t f s
  | .ssub t f => Sys2Proof.Machine.execSsub t f s
  | .smul t f => Sys2Proof.Machine.execSmul t f s
  | .sand t f => Sys2Proof.Machine.execSand t f s
  | .sor t f => Sys2Proof.Machine.execSor t f s
  | .sxor t f => Sys2Proof.Machine.execSxor t f s
  | .sshl t f => Sys2Proof.Machine.execSshl t f s
  | .sshr t f => Sys2Proof.Machine.execSshr t f s
  | .scmplt t f => Sys2Proof.Machine.execScmplt t f s
  | .scmpeq t f => Sys2Proof.Machine.execScmpeq t f s
  | .br t f => Sys2Proof.Machine.execBr t f s
  | .loop t f => Sys2Proof.Machine.execLoop t f s
  | .tget t f => Sys2Proof.Machine.execTget t f s
  | .tkind t f => Sys2Proof.Machine.execTkind t f s
  | .tput t f => Sys2Proof.Machine.execTput t f s
  | .wait t f => Sys2Proof.Machine.execWait t f s
  | .dseta t f => Sys2Proof.Machine.execDseta t f s
  | .rdtime t f => Sys2Proof.Machine.execRdtime t f s
  | .brk t f => Sys2Proof.Machine.execBrk t f s
  | .bundleStallRelease t => Sys2Proof.Machine.execBundleStallRelease t s
  | .graphExceptionStop h => Sys2Proof.Machine.execGraphExceptionStop h s
  | .tokenArrival t oq k => Sys2Proof.Machine.execTokenArrival t oq k s
  | .queueCreditReturn t oq k => Sys2Proof.Machine.execQueueCreditReturn t oq k s
  | .taskFire t => Sys2Proof.Machine.execTaskFire t s
  | .taskEnd t cyc p => Sys2Proof.Machine.execTaskEnd t cyc p s
  | .powerCreditGrant die => Sys2Proof.Machine.execPowerCreditGrant die s
  | .tileWake t => Sys2Proof.Machine.execTileWake t s
  | .dieStepSlot die => Sys2Proof.Machine.execDieStepSlot die s
  | .creditTakeBack t => Sys2Proof.Machine.execCreditTakeBack t s
  | .pupaDwellExpiry t => Sys2Proof.Machine.execPupaDwellExpiry t s
  | .pupaEntryCommit t => Sys2Proof.Machine.execPupaEntryCommit t s
  | .tileEnableWrite path t v power => Sys2Proof.Machine.execTileEnableWrite path t v power s
  | .slewLimitWrite path die v => Sys2Proof.Machine.execSlewLimitWrite path die v s
  | .sinkReport t oq k => Sys2Proof.Machine.execSinkReport t oq k s
  | .graphLoadComplete h => Sys2Proof.Machine.execGraphLoadComplete h s
  | .scrubRead e => Sys2Proof.Machine.execScrubRead e s
  | .mr4Poll dev rate hot => Sys2Proof.Machine.execMr4Poll dev rate hot s
  | .channelPowerDown c => Sys2Proof.Machine.execChannelPowerDown c s
  | .channelSelfRefresh c => Sys2Proof.Machine.execChannelSelfRefresh c s
  | .wck2dqOscillatorRun c => Sys2Proof.Machine.execWck2dqOscillatorRun c s
  | .zqCalibrationLatch c => Sys2Proof.Machine.execZqCalibrationLatch c s
  | .errInjectArm path v => Sys2Proof.Machine.execErrInjectArm path v s
  | .bar2Read off n => Sys2Proof.Machine.execBar2Read off n s
  | .bar2Write off bs => Sys2Proof.Machine.execBar2Write off bs s
  | .fabricDimsWrite path v => Sys2Proof.Machine.execFabricDimsWrite path v s
  | .nodeIdWrite path v => Sys2Proof.Machine.execNodeIdWrite path v s
  | .machineIdWrite path v => Sys2Proof.Machine.execMachineIdWrite path v s
  | .portEnableWrite path p v => Sys2Proof.Machine.execPortEnableWrite path p v s
  | .fecModeWrite path p v => Sys2Proof.Machine.execFecModeWrite path p v s
  | .retrainNow path p v => Sys2Proof.Machine.execRetrainNow path p v s
  | .rekeyAll path v => Sys2Proof.Machine.execRekeyAll path v s
  | .laserRestart path v => Sys2Proof.Machine.execLaserRestart path v s
  | .laserOkRise => Sys2Proof.Machine.execLaserOkRise s
  | .laserOkFall => Sys2Proof.Machine.execLaserOkFall s
  | .laserOkTimeout => Sys2Proof.Machine.execLaserOkTimeout s
  | .feedOpen e => Sys2Proof.Machine.execFeedOpen e s
  | .laserFeedLow e power => Sys2Proof.Machine.execLaserFeedLow e power s
  | .portProbe p => Sys2Proof.Machine.execPortProbe p s
  | .lightDetected p => Sys2Proof.Machine.execLightDetected p s
  | .lossOfLight p => Sys2Proof.Machine.execLossOfLight p s
  | .trainingComplete p ok => Sys2Proof.Machine.execTrainingComplete p ok s
  | .trainingTimeout p => Sys2Proof.Machine.execTrainingTimeout p s
  | .identExchange p k => Sys2Proof.Machine.execIdentExchange p k s
  | .identRepeat p k => Sys2Proof.Machine.execIdentRepeat p k s
  | .keyingTimeout p => Sys2Proof.Machine.execKeyingTimeout p s
  | .failedPortTimeout p => Sys2Proof.Machine.execFailedPortTimeout p s
  | .laneFailure p lane => Sys2Proof.Machine.execLaneFailure p lane s
  | .retrainComplete p ok => Sys2Proof.Machine.execRetrainComplete p ok s
  | .retrainTimeout p => Sys2Proof.Machine.execRetrainTimeout p s
  | .portLost p => Sys2Proof.Machine.execPortLost p s
  | .drainTimeout p => Sys2Proof.Machine.execDrainTimeout p s
  | .flitTransmit p crVc crCount => Sys2Proof.Machine.execFlitTransmit p crVc crCount s
  | .flitReceive p f => Sys2Proof.Machine.execFlitReceive p f s
  | .nakRepeat p => Sys2Proof.Machine.execNakRepeat p s
  | .keyChange p => Sys2Proof.Machine.execKeyChange p s
  | .keyRequestDue p => Sys2Proof.Machine.execKeyRequestDue p s
  | .cert p mode sec nonce len chainOk => Sys2Proof.Machine.execCert p mode sec nonce len chainOk s
  | .keyRequest p phase nonce => Sys2Proof.Machine.execKeyRequest p phase nonce s
  | .keyOffer p o => Sys2Proof.Machine.execKeyOffer p o s
  | .keyAck p phase effective => Sys2Proof.Machine.execKeyAck p phase effective s
  | .goingDownNotice p => Sys2Proof.Machine.execGoingDownNotice p s
  | .peerFailureNotice p => Sys2Proof.Machine.execPeerFailureNotice p s
  | .locateForward p on => Sys2Proof.Machine.execLocateForward p on s
  | .connHealthUpdate p k => Sys2Proof.Machine.execConnHealthUpdate p k s
  | .packetArrival port => Sys2Proof.Machine.execPacketArrival port s
  | .outputArbitrationGrant out => Sys2Proof.Machine.execOutputArbitrationGrant out s
  | .robFetch t oq k => Sys2Proof.Machine.execRobFetch t oq k s
  | .rd => Sys2Proof.Machine.execRd s
  | .wr => Sys2Proof.Machine.execWr s
  | .atAdd => Sys2Proof.Machine.execAtAdd s
  | .atAnd => Sys2Proof.Machine.execAtAnd s
  | .atOr => Sys2Proof.Machine.execAtOr s
  | .atXor => Sys2Proof.Machine.execAtXor s
  | .atMin => Sys2Proof.Machine.execAtMin s
  | .atMax => Sys2Proof.Machine.execAtMax s
  | .atSwap => Sys2Proof.Machine.execAtSwap s
  | .atCas => Sys2Proof.Machine.execAtCas s
  | .remoteEaadd => Sys2Proof.Machine.execRemoteEaadd s
  | .remoteHprobe => Sys2Proof.Machine.execRemoteHprobe s
  | .remoteHinsert => Sys2Proof.Machine.execRemoteHinsert s
  | .collStep => Sys2Proof.Machine.execCollStep s
  | .pace => Sys2Proof.Machine.execPace s
  | .discard => Sys2Proof.Machine.execDiscard s
  | .rdRsp => Sys2Proof.Machine.execRdRsp s
  | .wrAck => Sys2Proof.Machine.execWrAck s
  | .atRsp => Sys2Proof.Machine.execAtRsp s
  | .eaAck => Sys2Proof.Machine.execEaAck s
  | .htRsp => Sys2Proof.Machine.execHtRsp s
  | .remoteTimeout fe tag => Sys2Proof.Machine.execRemoteTimeout fe tag s
  | .eaSlotFlush a => Sys2Proof.Machine.execEaSlotFlush a s
  | .memberRevive path v => Sys2Proof.Machine.execMemberRevive path v s
  | .collTimeout id mask => Sys2Proof.Machine.execCollTimeout id mask s
  | .paceSend => Sys2Proof.Machine.execPaceSend s
  | .paceExpiry origin => Sys2Proof.Machine.execPaceExpiry origin s
  | .functionLevelReset => Sys2Proof.Machine.execFunctionLevelReset s
  | .hotReset => Sys2Proof.Machine.execHotReset s
  | .pcieLinkDown => Sys2Proof.Machine.execPcieLinkDown s
  | .perstAssert level => Sys2Proof.Machine.execPerstAssert level s
  | .pcieD3hotEntry => Sys2Proof.Machine.execPcieD3hotEntry s
  | .pcieD0Return => Sys2Proof.Machine.execPcieD0Return s
  | .ringPoll r p => Sys2Proof.Machine.execRingPoll r p s
  | .ringEnable r fields => Sys2Proof.Machine.execRingEnable r fields s
  | .ringDisable r fields => Sys2Proof.Machine.execRingDisable r fields s
  | .cqEnable c fields => Sys2Proof.Machine.execCqEnable c fields s
  | .cqDisable c fields => Sys2Proof.Machine.execCqDisable c fields s
  | .bar0RegisterWrite off a => Sys2Proof.Machine.execBar0RegisterWrite off a s
  | .commandStart ring => Sys2Proof.Machine.execCommandStart ring s
  | .nop ring idx => Sys2Proof.Machine.execNop ring idx s
  | .bufsetDefine ring idx h => Sys2Proof.Machine.execBufsetDefine ring idx h s
  | .dmaCopy ring idx h => Sys2Proof.Machine.execDmaCopy ring idx h s
  | .graphLoad ring idx h => Sys2Proof.Machine.execGraphLoad ring idx h s
  | .graphStart ring idx => Sys2Proof.Machine.execGraphStart ring idx s
  | .graphUnload ring idx => Sys2Proof.Machine.execGraphUnload ring idx s
  | .remoteOp ring idx => Sys2Proof.Machine.execRemoteOp ring idx s
  | .collective ring idx => Sys2Proof.Machine.execCollective ring idx s
  | .windowsLoad ring idx h => Sys2Proof.Machine.execWindowsLoad ring idx h s
  | .shardMapLoad ring idx h => Sys2Proof.Machine.execShardMapLoad ring idx h s
  | .commandComplete ring idx => Sys2Proof.Machine.execCommandComplete ring idx s
  | .coalTimerExpiry c => Sys2Proof.Machine.execCoalTimerExpiry c s
  | .consRecordRead c rd cons => Sys2Proof.Machine.execConsRecordRead c rd cons s
  | .estimatorUpdate evs => Sys2Proof.Machine.execEstimatorUpdate evs s
  | .calibration pIn vin => Sys2Proof.Machine.execCalibration pIn vin s
  | .shareRecompute ops => Sys2Proof.Machine.execShareRecompute ops s
  | .freqModeSwitch => Sys2Proof.Machine.execFreqModeSwitch s
  | .freqRaiseDecision p0 p1 fix => Sys2Proof.Machine.execFreqRaiseDecision p0 p1 fix s
  | .freqRaiseAfterSettle die => Sys2Proof.Machine.execFreqRaiseAfterSettle die s
  | .capTargetWrite path v => Sys2Proof.Machine.execCapTargetWrite path v s
  | .autonomousCapWrite path v => Sys2Proof.Machine.execAutonomousCapWrite path v s
  | .safeCapWrite path v => Sys2Proof.Machine.execSafeCapWrite path v s
  | .thermalLoopUpdate => Sys2Proof.Machine.execThermalLoopUpdate s
  | .sensorRead ts inlet outlet => Sys2Proof.Machine.execSensorRead ts inlet outlet s
  | .coolantCapUpdate => Sys2Proof.Machine.execCoolantCapUpdate s
  | .flowLossWrite path v => Sys2Proof.Machine.execFlowLossWrite path v s
  | .flowLpmWrite path v => Sys2Proof.Machine.execFlowLpmWrite path v s
  | .safeCapClear path v => Sys2Proof.Machine.execSafeCapClear path v s
  | .brakeAssert => Sys2Proof.Machine.execBrakeAssert s
  | .brakeRelease => Sys2Proof.Machine.execBrakeRelease s
  | .droopDetected die => Sys2Proof.Machine.execDroopDetected die s
  | .stretchEnd die cycles => Sys2Proof.Machine.execStretchEnd die cycles s
  | .stepTest path v => Sys2Proof.Machine.execStepTest path v s
  | .stepTestHoldEnd => Sys2Proof.Machine.execStepTestHoldEnd s
  | .thermalTrip sensors => Sys2Proof.Machine.execThermalTrip sensors s
  | .tripTest path v failed => Sys2Proof.Machine.execTripTest path v failed s
  | .switchingPeriodBoundary e => Sys2Proof.Machine.execSwitchingPeriodBoundary e s
  | .shedTimerExpiry rail => Sys2Proof.Machine.execShedTimerExpiry rail s
  | .addHoldoffExpiry rail => Sys2Proof.Machine.execAddHoldoffExpiry rail s
  | .mirrorFrame => Sys2Proof.Machine.execMirrorFrame s
  | .mirrorDeadline => Sys2Proof.Machine.execMirrorDeadline s
  | .engineTakeover => Sys2Proof.Machine.execEngineTakeover s
  | .claimOverlapEnd => Sys2Proof.Machine.execClaimOverlapEnd s
  | .engineRestart engine => Sys2Proof.Machine.execEngineRestart engine s
  | .trowelHandover path v => Sys2Proof.Machine.execTrowelHandover path v s
  | .gainBankImage path bs => Sys2Proof.Machine.execGainBankImage path bs s
  | .gainBankCommit path v => Sys2Proof.Machine.execGainBankCommit path v s
  | .gainBankSwap path v => Sys2Proof.Machine.execGainBankSwap path v s
  | .vsetWrite path rail v => Sys2Proof.Machine.execVsetWrite path rail v s
  | .peakClear path rail v => Sys2Proof.Machine.execPeakClear path rail v s
  | .railTelemetryUpdate => Sys2Proof.Machine.execRailTelemetryUpdate s
  | .railGroupStart g => Sys2Proof.Machine.execRailGroupStart g s
  | .powerGoodTimeout rail => Sys2Proof.Machine.execPowerGoodTimeout rail s
  | .retryWaitExpiry rail => Sys2Proof.Machine.execRetryWaitExpiry rail s
  | .softStopComplete rail => Sys2Proof.Machine.execSoftStopComplete rail s
  | .fastOvervoltage rail => Sys2Proof.Machine.execFastOvervoltage rail s
  | .inputUndervoltage => Sys2Proof.Machine.execInputUndervoltage s
  | .inputOvervoltage => Sys2Proof.Machine.execInputOvervoltage s
  | .busConverterFault conv => Sys2Proof.Machine.execBusConverterFault conv s
  | .stageTempRead ts => Sys2Proof.Machine.execStageTempRead ts s
  | .regSyncLoss => Sys2Proof.Machine.execRegSyncLoss s
  | .regSyncRecovered => Sys2Proof.Machine.execRegSyncRecovered s
  | .usdoInitiate bus r env => Sys2Proof.Machine.execUsdoInitiate bus r env s
  | .usdoSegment bus bs last env => Sys2Proof.Machine.execUsdoSegment bus bs last env s
  | .usdoSessionTimeout bus => Sys2Proof.Machine.execUsdoSessionTimeout bus s
  | .objectWrite path idx sub bs env => Sys2Proof.Machine.execObjectWrite path idx sub bs env s
  | .mailboxRead => Sys2Proof.Machine.execMailboxRead s
  | .mailboxWrite => Sys2Proof.Machine.execMailboxWrite s
  | .mailboxComplete env => Sys2Proof.Machine.execMailboxComplete env s
  | .nmtStart bus => Sys2Proof.Machine.execNmtStart bus s
  | .nmtStop bus => Sys2Proof.Machine.execNmtStop bus s
  | .nmtEnterPreOperational bus => Sys2Proof.Machine.execNmtEnterPreOperational bus s
  | .nmtResetCommunication bus => Sys2Proof.Machine.execNmtResetCommunication bus s
  | .nmtResetNode bus => Sys2Proof.Machine.execNmtResetNode bus s
  | .pdoMappingWrite path pdo n => Sys2Proof.Machine.execPdoMappingWrite path pdo n s
  | .rpdo1 bus bs env => Sys2Proof.Machine.execRpdo1 bus bs env s
  | .syncFrame bus => Sys2Proof.Machine.execSyncFrame bus s
  | .tpdoTimer n => Sys2Proof.Machine.execTpdoTimer n s
  | .heartbeatTimer => Sys2Proof.Machine.execHeartbeatTimer s
  | .rmHeartbeat bus node => Sys2Proof.Machine.execRmHeartbeat bus node s
  | .rmSilenceTimeout => Sys2Proof.Machine.execRmSilenceTimeout s
  | .emcyInhibitExpiry => Sys2Proof.Machine.execEmcyInhibitExpiry s
  | .canBusOffRecovery bus => Sys2Proof.Machine.execCanBusOffRecovery bus s
  | .profileActiveWrite path n => Sys2Proof.Machine.execProfileActiveWrite path n s
  | .profileSave path n => Sys2Proof.Machine.execProfileSave path n s
  | .profileFactory path n => Sys2Proof.Machine.execProfileFactory path n s
  | .profileFlashDone => Sys2Proof.Machine.execProfileFlashDone s
  | .getVersion tr => Sys2Proof.Machine.execGetVersion tr s
  | .getCapabilities tr => Sys2Proof.Machine.execGetCapabilities tr s
  | .negotiateAlgorithms tr asym hash mhash => Sys2Proof.Machine.execNegotiateAlgorithms tr asym hash mhash s
  | .getDigests tr => Sys2Proof.Machine.execGetDigests tr s
  | .getCertificate tr slot off len => Sys2Proof.Machine.execGetCertificate tr slot off len s
  | .challenge tr slot summary c => Sys2Proof.Machine.execChallenge tr slot summary c s
  | .getMeasurements tr r => Sys2Proof.Machine.execGetMeasurements tr r s
  | .getMeasurementExtensionLog tr off len => Sys2Proof.Machine.execGetMeasurementExtensionLog tr off len s
  | .getCsr tr => Sys2Proof.Machine.execGetCsr tr s
  | .setCertificate tr slot chain ok anchor => Sys2Proof.Machine.execSetCertificate tr slot chain ok anchor s
  | .spdmUnsupportedRequest e => Sys2Proof.Machine.execSpdmUnsupportedRequest e s
  | .contextSet tr r => Sys2Proof.Machine.execContextSet tr r s
  | .contextClear tr ctx rsv => Sys2Proof.Machine.execContextClear tr ctx rsv s
  | .measureRange tr addr len => Sys2Proof.Machine.execMeasureRange tr addr len s
  | .measureRangeComplete die => Sys2Proof.Machine.execMeasureRangeComplete die s
  | .securityEngineOpComplete => Sys2Proof.Machine.execSecurityEngineOpComplete s
  | .linkAuthModeWrite path v => Sys2Proof.Machine.execLinkAuthModeWrite path v s
  | .confModeRequest path v => Sys2Proof.Machine.execConfModeRequest path v s
  | .fwStageChunk path bs => Sys2Proof.Machine.execFwStageChunk path bs s
  | .fwStageCommit path v => Sys2Proof.Machine.execFwStageCommit path v s
  | .fwStageCommitDone cert sig digest => Sys2Proof.Machine.execFwStageCommitDone cert sig digest s
  | .fwActivate path v b => Sys2Proof.Machine.execFwActivate path v b s
  | .fwCommitSvn path v => Sys2Proof.Machine.execFwCommitSvn path v s
  | .dikGenerationDone => Sys2Proof.Machine.execDikGenerationDone s
  | .primerStart path v => Sys2Proof.Machine.execPrimerStart path v s
  | .primerApproachEnd => Sys2Proof.Machine.execPrimerApproachEnd s
  | .primerEraseCheck whole => Sys2Proof.Machine.execPrimerEraseCheck whole s
  | .primerEnd => Sys2Proof.Machine.execPrimerEnd s
  | .alignCollectWindowEnd => Sys2Proof.Machine.execAlignCollectWindowEnd s
  | .timeAlign => Sys2Proof.Machine.execTimeAlign s
  | .ref25Loss => Sys2Proof.Machine.execRef25Loss s
  | .ref25Relock => Sys2Proof.Machine.execRef25Relock s
  | .freezeNow path v => Sys2Proof.Machine.execFreezeNow path v s
  | .freezeAtWrite path v => Sys2Proof.Machine.execFreezeAtWrite path v s
  | .freezeAtReached => Sys2Proof.Machine.execFreezeAtReached s
  | .freezeRelease path v => Sys2Proof.Machine.execFreezeRelease path v s
  | .traceCtlWrite path v => Sys2Proof.Machine.execTraceCtlWrite path v s
  | .traceArm path v => Sys2Proof.Machine.execTraceArm path v s
  | .traceStop path v => Sys2Proof.Machine.execTraceStop path v s
  | .traceTrigger path v => Sys2Proof.Machine.execTraceTrigger path v s
  | .traceBufferFull => Sys2Proof.Machine.execTraceBufferFull s
  | .tracePostComplete => Sys2Proof.Machine.execTracePostComplete s
  | .traceDataRead path => Sys2Proof.Machine.execTraceDataRead path s
  | .brkAddrHit t => Sys2Proof.Machine.execBrkAddrHit t s
  | .brkDrainComplete => Sys2Proof.Machine.execBrkDrainComplete s
  | .brkDrainTimeout => Sys2Proof.Machine.execBrkDrainTimeout s
  | .brkResume path v => Sys2Proof.Machine.execBrkResume path v s
  | .heldBreakTakeUp => Sys2Proof.Machine.execHeldBreakTakeUp s
  | .hangDetected h => Sys2Proof.Machine.execHangDetected h s
  | .wfgRequest path h => Sys2Proof.Machine.execWfgRequest path h s
  | .wfgSecondRead => Sys2Proof.Machine.execWfgSecondRead s
  | .opcSelectWrite path k v => Sys2Proof.Machine.execOpcSelectWrite path k v s
  | .auxPowerOn e => Sys2Proof.Machine.execAuxPowerOn e s
  | .recoveryClaim => Sys2Proof.Machine.execRecoveryClaim s
  | .auxLoss => Sys2Proof.Machine.execAuxLoss s
  | .coldStart slot prof lost => Sys2Proof.Machine.execColdStart slot prof lost s
  | .startStepComplete e => Sys2Proof.Machine.execStartStepComplete e s
  | .resetRequestColdStart path => Sys2Proof.Machine.execResetRequestColdStart path s
  | .resetRequestStandby path => Sys2Proof.Machine.execResetRequestStandby path s
  | .regionReset path die => Sys2Proof.Machine.execRegionReset path die s
  | .regionResetComplete die => Sys2Proof.Machine.execRegionResetComplete die s
  | .mgmtHandover path imageOk => Sys2Proof.Machine.execMgmtHandover path imageOk s
  | .orderedStopComplete => Sys2Proof.Machine.execOrderedStopComplete s
  | .mgmtHeartbeatTimeout => Sys2Proof.Machine.execMgmtHeartbeatTimeout s
  | .mgmtCoreRestart core imageOk => Sys2Proof.Machine.execMgmtCoreRestart core imageOk s
  | .noOwnerTimeout => Sys2Proof.Machine.execNoOwnerTimeout s
  | .mateNRise => Sys2Proof.Machine.execMateNRise s
  | .inputSwitchOn => Sys2Proof.Machine.execInputSwitchOn s
  | .logCommit => Sys2Proof.Machine.execLogCommit s
  | .logSectorEraseDone sector => Sys2Proof.Machine.execLogSectorEraseDone sector s
  | .logRecordRead e => Sys2Proof.Machine.execLogRecordRead e s
  | .operatingSecondsSave => Sys2Proof.Machine.execOperatingSecondsSave s
  | .engineSelfCheckFault engine => Sys2Proof.Machine.execEngineSelfCheckFault engine s
  | .mgmtSelfCheckFault core => Sys2Proof.Machine.execMgmtSelfCheckFault core s
  | .pcieLinkUp speed width flit => Sys2Proof.Machine.execPcieLinkUp speed width flit s
  | .admissionDutySlot t => Sys2Proof.Machine.execAdmissionDutySlot t s
  | .canBusNoFrame e => Sys2Proof.Machine.execCanBusNoFrame e s

end Sys2Proof.Machine
end

