-- ==== Sys2Proof/Safety.lean ====
section
/-! DEFINITION. What a safe run is, and the terms that the statements use. -/
namespace Sys2Proof.Machine

/-- A run of `k` steps that meets neither a fault nor a refusal. -/
def SafeRun (k : Nat) (s : State) : Prop := ∃ t, Host.Core.run Sys2Proof.core k s = .next t

/-- R89: what the issue of slot `k` of a tile's bundle leaves, with `es` the effects of its operation: while other slots of
the bundle have still to issue, the effects wait with those of the slots before it; with the last slot they all happen. -/
def issued (t k : Nat) (r : Run) (es : List TEff) (s : State) : State :=
  if r.todo.filter (· ≠ k) = [] then commitBundle t r (r.effs ++ es) s
  else setTile s t { tileSt s t with
    run := some { r with todo := r.todo.filter (· ≠ k), effs := r.effs ++ es } }

/-- Memory is in its canonical form and the commands that wait are `q`. -/
def Tidy (q : List Instr) (s : State) : Prop := s.mem.wf = true ∧ s.pending = q

/-- An access to module memory leaves a tidy state, whether or not it meets an uncorrectable error. -/
def TidyRes {α : Type} (q : List Instr) : MemRes α → Prop
  | .ok _ s => Tidy q s
  | .ue _ s => Tidy q s

/-- Serving a packet gives a tidy state, whether or not its accesses end well. -/
def TidyServe (q : List Instr) : MemRes State → Prop
  | .ok t _ => Tidy q t
  | .ue _ s => Tidy q s

/-- An operation of a slot leaves a tidy state, also where it raises an exception. -/
def TidySlot (q : List Instr) : SlotRes → Prop
  | .ok _ s => Tidy q s
  | .exc _ s => Tidy q s
  | .ue _ s => Tidy q s

/-- A state, if there is one, is tidy. -/
def TidyOpt (q : List Instr) : Option State → Prop
  | some s => Tidy q s
  | none => True

/-- The state of an answer, if there is one, is tidy. -/
def TidyAns {α : Type} (q : List Instr) : Option (α × State) → Prop
  | some r => Tidy q r.2
  | none => True

/-- `s` differs from `o` at most in the dictionary, what was sent, the status last told, the observation unit, the frozen
values, the logbook and the field network. -/
def Told (o s : State) : Prop :=
  s.pending = o.pending ∧ s.now = o.now ∧ s.freeCtr = o.freeCtr ∧ s.mem = o.mem ∧ s.ecc = o.ecc ∧ s.tiles =
    o.tiles ∧ s.mesh = o.mesh ∧ s.graphs = o.graphs ∧ s.cmds = o.cmds ∧ s.hst = o.hst ∧ s.fab = o.fab ∧ s.rem
    = o.rem ∧ s.flt = o.flt ∧ s.trw = o.trw ∧ s.sec = o.sec ∧ s.meas = o.meas ∧ s.tim = o.tim ∧ s.mod = o.mod

/-! ### Named writes -/

/-- R405: the size of an object's value. -/
def objSize (k : Nat) : Nat := match odRow k with | some r => odSize r.ty | none => 0

/-- R405, R433, R512: a named write of `len` bytes of value `v` to object `k` does nothing without an owner, is told the first
check it fails and then changes nothing else, and has what `P` says where it fails none. -/
def writes (path k len v : Nat) (c : Instr) (P : Prop) (s : State) : Prop :=
  (s.mod.owner = none → exec c s = .next s) ∧
  (s.mod.owner ≠ none → odJudge s path k len v ≠ 0 → exec c s = .next (tell path (odJudge s path k len v) s)) ∧
  (s.mod.owner ≠ none → odJudge s path k len v = 0 → P)

/-- R405: a write that is judged further is told `code`: an error changes nothing else, and a success leaves what `Q` says. -/
def tells (path : Nat) (c : Instr) (code : Nat) (Q : State → Prop) (s : State) : Prop :=
  (0x100 ≤ code → exec c s = .next (tell path code s)) ∧
  (code < 0x100 → ∃ z, exec c s = .next z ∧ z.resp = code ∧ Q z)

/-- A named write of an object's own size, with the code that its own rule gives it and what it leaves on success. -/
def writesOwn (path k v : Nat) (c : Instr) (code : Nat) (Q : State → Prop) (s : State) : Prop :=
  writes path k (objSize k) v c (tells path c code Q s) s

/-! ### What a command may touch -/

/-- The parts of the state, one per field. -/
inductive Part where
  | pending | now | od | dom | out | resp | freeCtr | mem | ecc | tiles | mesh | graphs | cmds | hst | fab
  | rem | flt | trw | sec | meas | tim | obs | log | frz | can | mod
  deriving DecidableEq, Repr

/-- Two states agree on a part. -/
def samePart : Part → State → State → Prop
  | .pending, a, b => a.pending = b.pending
  | .now, a, b => a.now = b.now
  | .od, a, b => a.od = b.od
  | .dom, a, b => a.dom = b.dom
  | .out, a, b => a.out = b.out
  | .resp, a, b => a.resp = b.resp
  | .freeCtr, a, b => a.freeCtr = b.freeCtr
  | .mem, a, b => a.mem = b.mem
  | .ecc, a, b => a.ecc = b.ecc
  | .tiles, a, b => a.tiles = b.tiles
  | .mesh, a, b => a.mesh = b.mesh
  | .graphs, a, b => a.graphs = b.graphs
  | .cmds, a, b => a.cmds = b.cmds
  | .hst, a, b => a.hst = b.hst
  | .fab, a, b => a.fab = b.fab
  | .rem, a, b => a.rem = b.rem
  | .flt, a, b => a.flt = b.flt
  | .trw, a, b => a.trw = b.trw
  | .sec, a, b => a.sec = b.sec
  | .meas, a, b => a.meas = b.meas
  | .tim, a, b => a.tim = b.tim
  | .obs, a, b => a.obs = b.obs
  | .log, a, b => a.log = b.log
  | .frz, a, b => a.frz = b.frz
  | .can, a, b => a.can = b.can
  | .mod, a, b => a.mod = b.mod

/-- `s` differs from `o` at most in the parts `T`. -/
def Within (T : List Part) (o s : State) : Prop := ∀ p, T.contains p = false → samePart p s o

/-- The parts of the state that a command may change; it leaves every other part as it is. -/
def touched : Instr → List Part
  | .mma .. | .mmout .. | .mldacc .. | .mclr .. | .fadd .. | .fsub .. | .fmul .. | .ffma .. | .fmin .. | .fmax ..
  | .fabs .. | .fneg .. | .fdiv .. | .fsqrt .. | .frcp .. | .frsq .. | .fexp2 .. | .flog2 .. | .ftanh ..
  | .iadd .. | .isub .. | .imul .. | .imin .. | .imax .. | .andV .. | .orV .. | .xorV .. | .shl .. | .shr ..
  | .sra .. | .scanf .. | .scani .. | .scanmax .. | .scanmin .. | .redf .. | .redi .. | .redmax .. | .redmin ..
  | .eaadd .. | .eared .. | .eaout .. | .eaclr .. | .vmov .. | .vbcast .. | .viota .. | .vperm .. | .vsel ..
  | .vcvt .. | .vpack .. | .vunpack .. | .fcmpeq .. | .fcmplt .. | .fcmple .. | .icmpeq .. | .icmplt ..
  | .mand .. | .mor .. | .mnot .. | .mpop .. | .vext .. | .vins .. | .vld .. | .vst .. | .sld .. | .sst ..
  | .eald .. | .east .. | .dmain .. | .dmaout .. | .gather .. | .scatter .. | .scadd .. | .setisect ..
  | .setunion .. | .setdiff .. | .mjoin .. | .hinsert .. | .hprobe .. | .sort .. | .selectk .. | .sli ..
  | .saddi .. | .sadd .. | .ssub .. | .smul .. | .sand .. | .sor .. | .sxor .. | .sshl .. | .sshr .. | .scmplt ..
  | .scmpeq .. | .br .. | .loop .. | .tget .. | .tkind .. | .tput .. | .wait .. | .dseta .. | .rdtime ..
  | .brk .. =>
      [.od, .out, .freeCtr, .mem, .ecc, .tiles, .mesh, .graphs, .flt, .obs, .log, .frz, .can]
  | .matrixOpComplete .. =>
      [.od, .out, .mem, .ecc, .tiles, .graphs, .flt, .obs, .log, .frz, .can]
  | .dmaComplete .. | .scaddAccept .. =>
      [.od, .out, .mem, .ecc, .tiles, .graphs, .obs, .log, .frz, .can]
  | .irrOpDequeue .. =>
      [.od, .out, .ecc, .tiles, .graphs, .obs, .log, .frz, .can]
  | .irrOpComplete .. =>
      [.od, .out, .freeCtr, .mem, .ecc, .tiles, .graphs, .obs, .log, .frz, .can]
  | .bundleStallRelease .. | .tileWake .. | .admissionDutySlot .. =>
      [.od, .out, .freeCtr, .ecc, .tiles, .graphs, .flt, .obs, .log, .frz, .can]
  | .graphExceptionStop .. | .sinkReport .. | .graphUnload .. | .brkDrainTimeout .. =>
      [.od, .freeCtr, .mem, .ecc, .tiles, .mesh, .graphs, .cmds, .rem, .flt, .meas, .obs, .log, .frz]
  | .tokenArrival .. | .queueCreditReturn .. =>
      [.od, .tiles, .mesh, .graphs, .obs, .frz]
  | .taskFire .. =>
      [.od, .out, .freeCtr, .ecc, .tiles, .mesh, .graphs, .rem, .flt, .obs, .log, .frz, .can]
  | .taskEnd .. =>
      [.od, .freeCtr, .tiles, .graphs, .flt, .obs, .frz]
  | .powerCreditGrant .. =>
      [.od, .tiles, .graphs, .flt, .obs, .log, .frz]
  | .dieStepSlot .. | .droopDetected .. =>
      [.od, .flt, .obs, .log, .frz]
  | .creditTakeBack .. =>
      [.od, .freeCtr, .mem, .ecc, .tiles, .flt, .trw, .obs, .frz]
  | .pupaDwellExpiry .. =>
      [.tiles]
  | .pupaEntryCommit .. =>
      [.od, .tiles, .obs, .frz]
  | .tileEnableWrite .. =>
      [.od, .resp, .freeCtr, .mem, .ecc, .tiles, .flt, .obs, .frz]
  | .slewLimitWrite .. | .machineIdWrite .. | .capTargetWrite .. | .autonomousCapWrite .. | .safeCapWrite ..
  | .gainBankCommit .. | .pdoMappingWrite .. | .profileActiveWrite .. | .linkAuthModeWrite .. | .fwCommitSvn ..
  | .traceCtlWrite .. =>
      [.od, .resp]
  | .graphLoadComplete .. =>
      [.od, .ecc, .tiles, .graphs, .cmds, .meas]
  | .scrubRead .. =>
      [.od, .out, .ecc, .obs, .log, .frz, .can]
  | .mr4Poll .. =>
      [.od, .ecc, .obs, .log, .frz]
  | .channelPowerDown .. | .channelSelfRefresh .. | .wck2dqOscillatorRun .. | .zqCalibrationLatch .. =>
      [.ecc]
  | .errInjectArm .. =>
      [.od, .resp, .ecc]
  | .bar2Read .. =>
      [.od, .out, .ecc, .hst, .obs, .log, .frz, .can]
  | .bar2Write .. =>
      [.od, .out, .mem, .ecc, .hst, .obs, .log, .frz, .can]
  | .fabricDimsWrite .. =>
      [.od, .resp, .fab, .sec, .obs, .log, .frz, .mod]
  | .nodeIdWrite .. =>
      [.od, .resp, .fab, .sec, .obs, .log, .frz]
  | .portEnableWrite .. =>
      [.od, .out, .resp, .fab, .trw, .sec, .obs, .log, .frz, .can, .mod]
  | .fecModeWrite .. | .retrainNow .. =>
      [.od, .resp, .fab, .sec]
  | .rekeyAll .. =>
      [.od, .resp, .freeCtr, .fab]
  | .laserRestart .. =>
      [.od, .resp, .fab, .mod]
  | .laserOkRise .. =>
      [.od, .fab, .sec, .obs, .log, .frz, .mod]
  | .laserOkFall .. =>
      [.od, .out, .fab, .trw, .sec, .obs, .log, .frz, .can, .mod]
  | .laserOkTimeout .. | .coolantCapUpdate .. =>
      [.od, .obs, .log, .frz]
  | .feedOpen .. =>
      [.od, .fab, .obs, .log, .frz, .mod]
  | .laserFeedLow .. | .packetArrival .. =>
      [.od, .fab, .obs, .log, .frz]
  | .portProbe .. | .nakRepeat .. | .locateForward .. =>
      [.fab]
  | .lightDetected .. | .trainingTimeout .. | .failedPortTimeout .. | .laneFailure .. | .cert .. =>
      [.od, .fab, .sec]
  | .lossOfLight .. | .retrainComplete .. | .retrainTimeout .. | .portLost .. | .drainTimeout ..
  | .flitReceive .. | .keyChange .. | .peerFailureNotice .. =>
      [.od, .out, .fab, .trw, .sec, .obs, .log, .frz, .can]
  | .trainingComplete .. =>
      [.od, .out, .sec]
  | .identExchange .. =>
      [.od, .freeCtr, .fab, .sec, .tim, .obs, .log, .frz]
  | .identRepeat .. =>
      [.od, .out, .freeCtr, .fab, .sec, .obs, .log, .frz]
  | .keyingTimeout .. =>
      [.od, .fab, .sec, .obs, .log, .frz]
  | .flitTransmit .. | .keyAck .. =>
      [.od, .out, .fab, .sec]
  | .keyRequestDue .. =>
      [.freeCtr, .fab]
  | .keyRequest .. =>
      [.freeCtr, .fab, .sec]
  | .keyOffer .. | .dikGenerationDone .. =>
      [.sec]
  | .goingDownNotice .. =>
      [.od, .fab, .trw, .sec, .obs, .log, .frz]
  | .connHealthUpdate .. =>
      [.od, .out]
  | .outputArbitrationGrant .. | .rd .. =>
      [.od, .out, .ecc, .fab, .obs, .log, .frz, .can]
  | .robFetch .. =>
      [.od, .out, .freeCtr, .mem, .ecc, .tiles, .mesh, .graphs, .cmds, .fab, .rem, .obs, .log, .frz, .can]
  | .wr .. | .atAdd .. | .atAnd .. | .atOr .. | .atXor .. | .atMin .. | .atMax .. | .atSwap .. | .atCas .. =>
      [.od, .out, .mem, .ecc, .fab, .obs, .log, .frz, .can]
  | .remoteEaadd .. | .eaSlotFlush .. =>
      [.od, .out, .mem, .ecc, .graphs, .fab, .rem, .obs, .log, .frz, .can]
  | .remoteHprobe .. | .remoteHinsert .. =>
      [.od, .out, .freeCtr, .mem, .ecc, .fab, .obs, .log, .frz, .can]
  | .collStep .. | .collective .. =>
      [.od, .out, .freeCtr, .mem, .ecc, .graphs, .cmds, .fab, .rem, .obs, .log, .frz, .can]
  | .pace .. | .paceSend .. =>
      [.od, .fab, .rem, .obs, .frz]
  | .discard .. | .rdRsp .. | .wrAck .. | .atRsp .. | .eaAck .. | .htRsp .. | .remoteTimeout .. | .remoteOp .. =>
      [.od, .out, .freeCtr, .mem, .ecc, .tiles, .graphs, .cmds, .fab, .rem, .obs, .log, .frz, .can]
  | .memberRevive .. =>
      [.od, .resp, .rem]
  | .collTimeout .. =>
      [.freeCtr, .mem, .graphs, .cmds, .rem]
  | .paceExpiry .. =>
      [.od, .rem]
  | .functionLevelReset .. | .hotReset .. | .pcieLinkDown .. =>
      [.od, .freeCtr, .mem, .ecc, .tiles, .mesh, .graphs, .cmds, .hst, .rem, .flt, .obs, .log, .frz]
  | .perstAssert .. =>
      [.od, .freeCtr, .mem, .ecc, .tiles, .mesh, .graphs, .cmds, .hst, .rem, .flt, .obs, .log, .frz, .mod]
  | .pcieD3hotEntry .. =>
      [.hst]
  | .pcieD0Return .. | .ringPoll .. | .bufsetDefine .. | .commandComplete .. =>
      [.od, .out, .cmds, .hst]
  | .ringEnable .. | .ringDisable .. | .coalTimerExpiry .. | .consRecordRead .. =>
      [.od, .out, .hst]
  | .cqEnable .. | .cqDisable .. | .pcieLinkUp .. =>
      [.od, .hst]
  | .bar0RegisterWrite .. =>
      [.od, .out, .hst, .log, .can]
  | .commandStart .. | .nop .. =>
      [.cmds]
  | .dmaCopy .. =>
      [.od, .out, .freeCtr, .mem, .ecc, .cmds, .hst, .obs, .log, .frz, .can]
  | .graphLoad .. =>
      [.od, .out, .ecc, .tiles, .graphs, .cmds, .hst, .obs, .log, .frz, .can]
  | .graphStart .. =>
      [.od, .tiles, .graphs, .cmds, .obs, .frz]
  | .windowsLoad .. | .shardMapLoad .. =>
      [.od, .out, .ecc, .cmds, .hst, .rem, .obs, .log, .frz, .can]
  | .estimatorUpdate .. =>
      [.od, .out, .tiles, .flt, .obs, .log, .frz, .can]
  | .calibration .. | .brakeAssert .. =>
      [.od, .out, .flt, .obs, .log, .frz, .can, .mod]
  | .shareRecompute .. =>
      [.tiles, .flt]
  | .freqModeSwitch .. | .freqRaiseDecision .. | .freqRaiseAfterSettle .. | .thermalLoopUpdate ..
  | .stretchEnd .. =>
      [.od, .flt]
  | .sensorRead .. =>
      [.od, .out, .flt, .obs, .log, .frz, .can]
  | .flowLossWrite .. =>
      [.od, .out, .resp, .obs, .log, .frz, .can]
  | .flowLpmWrite .. =>
      [.od, .out, .resp, .flt, .obs, .log, .frz, .can]
  | .safeCapClear .. | .usdoSessionTimeout .. | .profileFlashDone .. =>
      [.od, .out, .resp, .can]
  | .brakeRelease .. =>
      [.od, .out, .flt, .can, .mod]
  | .stepTest .. | .opcSelectWrite .. =>
      [.od, .resp, .flt]
  | .stepTestHoldEnd .. =>
      [.flt]
  | .thermalTrip .. | .switchingPeriodBoundary .. | .mirrorDeadline .. | .railGroupStart ..
  | .powerGoodTimeout .. | .retryWaitExpiry .. | .inputUndervoltage .. | .inputOvervoltage .. | .stageTempRead ..
  | .startStepComplete .. | .mateNRise .. | .engineSelfCheckFault .. =>
      [.od, .out, .freeCtr, .mem, .ecc, .tiles, .mesh, .graphs, .cmds, .hst, .fab, .rem, .flt, .trw, .sec,
       .meas, .tim, .obs, .log, .frz, .can, .mod]
  | .tripTest .. =>
      [.od, .resp, .flt, .obs, .log, .frz]
  | .shedTimerExpiry .. | .addHoldoffExpiry .. | .claimOverlapEnd .. | .fastOvervoltage .. =>
      [.trw]
  | .mirrorFrame .. | .engineRestart .. | .railTelemetryUpdate .. | .softStopComplete .. =>
      [.od, .trw]
  | .engineTakeover .. =>
      [.od, .out, .freeCtr, .flt, .trw, .obs, .log, .frz, .can]
  | .trowelHandover .. | .gainBankImage .. | .gainBankSwap .. | .vsetWrite .. | .peakClear .. =>
      [.od, .resp, .trw]
  | .busConverterFault .. | .rmSilenceTimeout .. | .canBusOffRecovery .. =>
      [.od, .out, .obs, .log, .frz, .can]
  | .regSyncLoss .. =>
      [.od, .obs, .log, .frz, .mod]
  | .regSyncRecovered .. | .operatingSecondsSave .. =>
      [.od, .mod]
  | .usdoInitiate .. | .usdoSegment .. | .objectWrite .. | .mailboxComplete .. | .nmtStart .. | .nmtStop ..
  | .nmtEnterPreOperational .. | .nmtResetCommunication .. | .nmtResetNode .. | .rpdo1 .. | .syncFrame ..
  | .rmHeartbeat .. | .resetRequestColdStart .. | .resetRequestStandby .. | .regionReset .. | .mgmtHandover .. =>
      [.od, .out, .resp, .freeCtr, .mem, .ecc, .tiles, .mesh, .graphs, .cmds, .hst, .fab, .rem, .flt, .trw,
       .sec, .meas, .obs, .log, .frz, .can, .mod]
  | .mailboxRead .. | .mailboxWrite .. =>
      [.od, .log, .can]
  | .tpdoTimer .. | .heartbeatTimer .. | .emcyInhibitExpiry .. =>
      [.out, .can]
  | .profileSave .. | .profileFactory .. =>
      [.od, .resp, .can]
  | .getVersion .. | .getCapabilities .. | .negotiateAlgorithms .. | .getDigests .. | .getCertificate ..
  | .challenge .. | .getMeasurements .. | .getMeasurementExtensionLog .. | .getCsr .. | .setCertificate ..
  | .spdmUnsupportedRequest .. | .contextSet .. | .contextClear .. | .measureRange .. =>
      [.od, .dom, .out, .resp, .freeCtr, .hst, .sec, .meas]
  | .measureRangeComplete .. =>
      [.od, .out, .ecc, .meas, .obs, .log, .frz, .can]
  | .securityEngineOpComplete .. =>
      [.od, .dom, .out, .resp, .freeCtr, .hst, .fab, .sec, .meas, .obs, .log, .frz]
  | .confModeRequest .. | .primerStart .. =>
      [.od, .out, .resp, .freeCtr, .mem, .ecc, .tiles, .mesh, .graphs, .cmds, .hst, .rem, .flt, .sec, .meas,
       .obs, .log, .frz, .mod]
  | .fwStageChunk .. | .fwStageCommit .. =>
      [.od, .resp, .sec]
  | .fwStageCommitDone .. =>
      [.od, .sec, .obs, .log, .frz]
  | .fwActivate .. =>
      [.od, .out, .resp, .sec, .meas, .obs, .log, .frz, .can, .mod]
  | .primerApproachEnd .. =>
      [.od, .dom, .freeCtr, .mem, .ecc, .tiles, .fab, .rem, .flt, .sec, .obs, .log, .frz]
  | .primerEraseCheck .. =>
      [.od, .mem, .ecc, .hst, .rem, .flt, .sec, .meas, .obs, .log, .frz]
  | .primerEnd .. =>
      [.od, .out, .hst, .flt, .sec, .meas, .obs, .log, .frz, .mod]
  | .alignCollectWindowEnd .. =>
      [.tim]
  | .timeAlign .. =>
      [.now, .od, .flt, .tim, .obs, .log, .frz, .mod]
  | .ref25Loss .. =>
      [.od, .tim, .obs, .log, .frz, .mod]
  | .ref25Relock .. =>
      [.od, .tim, .mod]
  | .freezeNow .. | .freezeAtWrite .. | .traceTrigger .. =>
      [.od, .resp, .obs, .frz]
  | .freezeAtReached .. =>
      [.od, .obs, .frz]
  | .freezeRelease .. =>
      [.od, .resp, .frz]
  | .traceArm .. | .traceStop .. | .wfgRequest .. =>
      [.od, .resp, .obs]
  | .traceBufferFull .. | .tracePostComplete .. =>
      [.od, .obs]
  | .traceDataRead .. =>
      [.od, .out, .resp]
  | .brkAddrHit .. =>
      [.od, .freeCtr, .tiles, .flt, .obs, .frz]
  | .brkDrainComplete .. | .heldBreakTakeUp .. =>
      [.od, .dom, .obs, .frz]
  | .brkResume .. =>
      [.od, .resp, .freeCtr, .mem, .ecc, .tiles, .mesh, .graphs, .cmds, .rem, .flt, .meas, .obs, .log, .frz]
  | .hangDetected .. =>
      [.od, .graphs, .obs, .log, .frz]
  | .wfgSecondRead .. =>
      [.od, .dom, .obs]
  | .auxPowerOn .. =>
      [.now, .od, .dom, .out, .ecc, .tiles, .mesh, .graphs, .cmds, .hst, .fab, .rem, .flt, .trw, .sec, .meas,
       .tim, .obs, .log, .frz, .can, .mod]
  | .recoveryClaim .. | .mgmtCoreRestart .. =>
      [.od, .dom, .out, .resp, .freeCtr, .mem, .ecc, .tiles, .mesh, .graphs, .cmds, .hst, .fab, .rem, .flt,
       .trw, .sec, .meas, .obs, .log, .frz, .can, .mod]
  | .auxLoss .. =>
      [.od, .freeCtr, .mem, .ecc, .tiles, .mesh, .graphs, .cmds, .hst, .fab, .rem, .flt, .trw, .sec, .meas,
       .tim, .obs, .log, .frz, .mod]
  | .coldStart .. =>
      [.now, .od, .dom, .freeCtr, .mem, .ecc, .tiles, .flt, .trw, .sec, .meas, .tim, .obs, .log, .frz, .can,
       .mod]
  | .regionResetComplete .. =>
      [.od, .meas]
  | .orderedStopComplete .. =>
      [.od, .freeCtr, .mem, .ecc, .tiles, .mesh, .graphs, .cmds, .hst, .fab, .rem, .flt, .sec, .meas, .tim,
       .obs, .log, .frz, .mod]
  | .mgmtHeartbeatTimeout .. | .mgmtSelfCheckFault .. =>
      [.od, .out, .resp, .hst, .obs, .log, .frz, .can, .mod]
  | .noOwnerTimeout .. | .inputSwitchOn .. =>
      [.mod]
  | .logCommit .. | .logSectorEraseDone .. =>
      [.log]
  | .logRecordRead .. =>
      [.od, .out, .resp, .log]
  | .canBusNoFrame .. =>
      [.od, .can]

end Sys2Proof.Machine
end

