-- ==== Sys2Proof/WellFormed.lean ====
section
/-! DEFINITION. Which commands are well formed: the widths and lengths of the operands that their types do not bound. -/
namespace Sys2Proof

/-- R223: an IDENT exchange carries eight probes. -/
def IdentIn.wf (i : IdentIn) : Bool :=
  decide (i.machine < 2 ^ 32) && decide (i.dims < 2 ^ 32) && decide (i.node < 2 ^ 16) && decide (i.port < 16) &&
    i.probes.length == 8

/-- R206, R208: at most 16 slots of 32 bytes, as many as the header counts; corrections and lost codewords by lane. -/
def FlitIn.wf (f : FlitIn) : Bool :=
  (f.ftype == 1 || (f.slots.length == f.count.val && f.slots.all (·.length == 32))) && f.fixed.length ≤ 8

/-- R203, R225: at most eight lanes, each with its reflectance and launch power. -/
def LaneIn.wf (i : LaneIn) : Bool := i.rx.length ≤ 8 && i.refl.length ≤ 8 && i.launch.length ≤ 8

/-- R455: the fields of a KEY_OFFER. -/
def OfferIn.wf (o : OfferIn) : Bool :=
  decide (o.node < 2 ^ 16) && decide (o.port < 16) && decide (o.machine < 2 ^ 32) && decide (o.effective < 2 ^ 64) &&
    decide (o.nonce < 2 ^ 64) && o.key.all (· < 2 ^ 256)

/-- R283, R287: a poll fetches entries of 64 bytes, with a tag in the blocks of a CONF ring. -/
def PollIn.wf (p : PollIn) : Bool := p.entries.all (64 ≤ ·.length)

/-- R276: an access of a size and alignment that BAR0 accepts. -/
def HostAccess.wf (off : Nat) : HostAccess → Bool
  | .write bs => (bs.length == 4 || bs.length == 8) && off % bs.length == 0
  | .read n => (n == 4 || n == 8) && off % n == 0
  | _ => true

/-- R358, R360: one period's means of the eleven rails. -/
def PeriodIn.wf (e : PeriodIn) : Bool := e.rails.length == 11 && decide (e.vinA < 2 ^ 16) && decide (e.vinB < 2 ^ 16)

/-- R414: an expedited value has 1 to 60 bytes. -/
def UsdoReq.wf : UsdoReq → Bool
  | .expedited _ _ bs => decide (0 < bs.length) && decide (bs.length ≤ 60)
  | .read _ _ | .segmented _ _ _ => true

/-- R453: the fields of a CONTEXT_SET. -/
def CtxReq.wf (r : CtxReq) : Bool :=
  decide (r.ctx < 2 ^ 8) && decide (r.chan < 2 ^ 32) && decide (r.rsv < 2 ^ 24) && r.nonce.length == 32 &&
    r.keys.all (fun k => decide (k.1 < 2 ^ 256) && decide (k.2 < 2 ^ 256))

/-- The command's operands have the widths and lengths the spec gives them. Every constructor is named. -/
def Instr.wf : Instr → Bool
  | .mma _ _ | .mmout _ _ | .mldacc _ _ | .mclr _ _ | .matrixOpComplete _ _ | .fadd _ _ | .fsub _ _ | .fmul _ _
  | .ffma _ _ | .fmin _ _ | .fmax _ _ | .fabs _ _ | .fneg _ _ | .fdiv _ _ | .fsqrt _ _ | .frcp _ _ | .frsq _ _
  | .fexp2 _ _ | .flog2 _ _ | .ftanh _ _ | .iadd _ _ | .isub _ _ | .imul _ _ | .imin _ _ | .imax _ _ | .andV _ _
  | .orV _ _ | .xorV _ _ | .shl _ _ | .shr _ _ | .sra _ _ | .scanf _ _ | .scani _ _ | .scanmax _ _ | .scanmin _ _
  | .redf _ _ | .redi _ _ | .redmax _ _ | .redmin _ _ | .eaadd _ _ | .eared _ _ | .eaout _ _ | .eaclr _ _
  | .vmov _ _ | .vbcast _ _ | .viota _ _ | .vperm _ _ | .vsel _ _ | .vcvt _ _ | .vpack _ _ | .vunpack _ _
  | .fcmpeq _ _ | .fcmplt _ _ | .fcmple _ _ | .icmpeq _ _ | .icmplt _ _ | .mand _ _ | .mor _ _ | .mnot _ _
  | .mpop _ _ | .vext _ _ | .vins _ _ | .vld _ _ | .vst _ _ | .sld _ _ | .sst _ _ | .eald _ _ | .east _ _
  | .dmain _ _ | .dmaout _ _ | .dmaComplete _ | .gather _ _ | .scatter _ _ | .scadd _ _ | .setisect _ _
  | .setunion _ _ | .setdiff _ _ | .mjoin _ _ | .hinsert _ _ | .hprobe _ _ | .sort _ _ | .selectk _ _
  | .irrOpDequeue _ _ | .irrOpComplete _ _ | .scaddAccept _ _ | .sli _ _ | .saddi _ _ | .sadd _ _ | .ssub _ _
  | .smul _ _ | .sand _ _ | .sor _ _ | .sxor _ _ | .sshl _ _ | .sshr _ _ | .scmplt _ _ | .scmpeq _ _ | .br _ _
  | .loop _ _ | .tget _ _ | .tkind _ _ | .tput _ _ | .wait _ _ | .dseta _ _ | .rdtime _ _ | .brk _ _
  | .bundleStallRelease _ | .tokenArrival _ _ _ | .queueCreditReturn _ _ _ | .taskFire _ | .powerCreditGrant _
  | .tileWake _ | .dieStepSlot _ | .creditTakeBack _ | .pupaDwellExpiry _ | .pupaEntryCommit _ | .sinkReport _ _ _
  | .channelPowerDown _ | .channelSelfRefresh _ | .wck2dqOscillatorRun _ | .zqCalibrationLatch _
  | .laserOkRise | .laserOkFall | .laserOkTimeout | .feedOpen _ | .laserFeedLow _ _ | .portProbe _
  | .lightDetected _ | .lossOfLight _ | .trainingComplete _ _ | .trainingTimeout _ | .keyingTimeout _
  | .failedPortTimeout _ | .laneFailure _ _ | .retrainComplete _ _ | .retrainTimeout _ | .portLost _
  | .drainTimeout _ | .flitTransmit _ _ _ | .nakRepeat _ | .keyChange _ | .keyRequestDue _ | .goingDownNotice _
  | .peerFailureNotice _ | .locateForward _ _ | .packetArrival _ | .outputArbitrationGrant _ | .robFetch _ _ _ | .rd
  | .wr | .atAdd | .atAnd | .atOr | .atXor | .atMin | .atMax | .atSwap | .atCas | .remoteEaadd | .remoteHprobe
  | .remoteHinsert | .collStep | .pace | .discard | .rdRsp | .wrAck | .atRsp | .eaAck | .htRsp | .remoteTimeout _ _
  | .eaSlotFlush _ | .collTimeout _ _ | .paceSend | .paceExpiry _ | .functionLevelReset | .hotReset | .pcieLinkDown
  | .perstAssert _ | .pcieD3hotEntry | .pcieD0Return | .ringEnable _ _ | .ringDisable _ _ | .cqEnable _ _
  | .cqDisable _ _ | .commandStart _ | .coalTimerExpiry _ | .consRecordRead _ _ _ | .estimatorUpdate _ | .calibration _ _
  | .shareRecompute _ | .freqModeSwitch | .freqRaiseDecision _ _ _ | .freqRaiseAfterSettle _ | .thermalLoopUpdate
  | .coolantCapUpdate | .brakeAssert | .brakeRelease | .droopDetected _ | .stepTestHoldEnd | .thermalTrip _
  | .shedTimerExpiry _ | .addHoldoffExpiry _ | .mirrorFrame | .mirrorDeadline | .engineTakeover | .claimOverlapEnd
  | .engineRestart _ | .railTelemetryUpdate | .railGroupStart _ | .powerGoodTimeout _ | .retryWaitExpiry _
  | .softStopComplete _ | .fastOvervoltage _ | .inputUndervoltage | .inputOvervoltage | .busConverterFault _
  | .regSyncLoss | .regSyncRecovered | .usdoSessionTimeout _ | .mailboxRead | .mailboxWrite | .mailboxComplete _
  | .nmtStart _ | .nmtStop _ | .nmtEnterPreOperational _ | .nmtResetCommunication _ | .nmtResetNode _
  | .pdoMappingWrite _ _ _ | .syncFrame _ | .tpdoTimer _ | .heartbeatTimer | .rmHeartbeat _ _ | .rmSilenceTimeout
  | .emcyInhibitExpiry | .canBusOffRecovery _ | .profileFlashDone | .getVersion _ | .getCapabilities _
  | .negotiateAlgorithms _ _ _ _ | .getDigests _ | .getCertificate _ _ _ _ | .getMeasurementExtensionLog _ _ _
  | .getCsr _ | .setCertificate _ _ _ _ _ | .spdmUnsupportedRequest _ | .measureRangeComplete _
  | .securityEngineOpComplete | .fwStageCommitDone _ _ _ | .dikGenerationDone | .primerApproachEnd
  | .primerEraseCheck _ | .primerEnd | .alignCollectWindowEnd | .timeAlign | .ref25Loss | .ref25Relock
  | .freezeAtReached | .traceBufferFull | .tracePostComplete | .traceDataRead _ | .brkAddrHit _ | .brkDrainComplete
  | .brkDrainTimeout | .heldBreakTakeUp | .wfgSecondRead | .recoveryClaim | .auxLoss | .coldStart _ _ _
  | .resetRequestColdStart _ | .resetRequestStandby _ | .regionReset _ _ | .regionResetComplete _
  | .mgmtHandover _ _ | .orderedStopComplete | .mgmtHeartbeatTimeout | .mgmtCoreRestart _ _ | .noOwnerTimeout
  | .mateNRise | .inputSwitchOn | .logCommit | .logSectorEraseDone _ | .logRecordRead _ | .operatingSecondsSave
  | .engineSelfCheckFault _ | .mgmtSelfCheckFault _ | .pcieLinkUp _ _ _ | .admissionDutySlot _ | .canBusNoFrame _ => true
  | .graphExceptionStop h | .graphLoadComplete h | .hangDetected h | .wfgRequest _ h => decide (h < 2 ^ 32)
  | .taskEnd _ cyc p => decide (cyc < 2 ^ 64) && decide (p < 2 ^ 64)
  | .tileEnableWrite _ _ v _ | .slewLimitWrite _ _ v | .errInjectArm _ v | .fabricDimsWrite _ v | .nodeIdWrite _ v
  | .machineIdWrite _ v | .portEnableWrite _ _ v | .fecModeWrite _ _ v | .retrainNow _ _ v | .rekeyAll _ v
  | .laserRestart _ v | .memberRevive _ v | .capTargetWrite _ v | .autonomousCapWrite _ v | .safeCapWrite _ v
  | .flowLossWrite _ v | .flowLpmWrite _ v | .safeCapClear _ v | .stepTest _ v | .tripTest _ v _
  | .trowelHandover _ v | .gainBankCommit _ v | .gainBankSwap _ v | .vsetWrite _ _ v | .peakClear _ _ v
  | .linkAuthModeWrite _ v | .confModeRequest _ v | .fwStageCommit _ v | .fwActivate _ v _ | .fwCommitSvn _ v
  | .primerStart _ v | .freezeNow _ v | .freezeAtWrite _ v | .freezeRelease _ v | .traceCtlWrite _ v | .traceArm _ v
  | .traceStop _ v | .traceTrigger _ v | .brkResume _ v | .opcSelectWrite _ _ v => decide (v < 2 ^ 64)
  | .mr4Poll _ rate _ => rate < 8
  | .bar2Read off n => 0 < n && off.val + n ≤ 2 ^ 34
  | .bar2Write off bs => 0 < bs.length && off.val + bs.length ≤ 2 ^ 34
  | .identExchange _ k | .identRepeat _ k | .connHealthUpdate _ k => k.wf
  | .flitReceive _ f => f.wf
  | .cert _ mode sec nonce len _ => decide (mode < 2 ^ 8) && decide (sec < 2 ^ 8) && decide (nonce < 2 ^ 64) && decide (len < 2 ^ 32)
  | .keyRequest _ _ nonce => decide (nonce < 2 ^ 64)
  | .keyOffer _ o => o.wf
  | .keyAck _ _ effective => decide (effective < 2 ^ 64)
  | .ringPoll _ p => p.wf
  | .bar0RegisterWrite off a => a.wf off.val
  | .nop _ idx | .bufsetDefine _ idx _ | .dmaCopy _ idx _ | .graphLoad _ idx _ | .graphStart _ idx
  | .graphUnload _ idx | .remoteOp _ idx | .collective _ idx | .windowsLoad _ idx _ | .shardMapLoad _ idx _
  | .commandComplete _ idx => decide (idx < 2 ^ 32)
  | .sensorRead ts _ _ => ts.length == 40
  | .stretchEnd _ cycles => decide (0 < cycles)
  | .switchingPeriodBoundary e => e.wf
  | .gainBankImage _ bs | .objectWrite _ _ _ bs _ | .fwStageChunk _ bs => decide (0 < bs.length)
  | .stageTempRead ts => ts.length == 108
  | .usdoInitiate _ r _ | .contextSet _ r => r.wf
  | .usdoSegment _ bs _ _ | .rpdo1 _ bs _ => bs.length ≤ 64
  | .profileActiveWrite _ n | .profileSave _ n | .profileFactory _ n => decide (n < 2 ^ 64)
  | .challenge _ _ _ c => c.nonce.length == 32 && c.ctx.length == 8
  | .getMeasurements _ r => r.nonce.length == 32 && r.ctx.length == 8
  | .contextClear _ ctx rsv => decide (ctx < 2 ^ 8) && decide (rsv < 2 ^ 24)
  | .measureRange _ addr len => decide (addr < 2 ^ 64) && decide (len < 2 ^ 64)
  | .scrubRead e => e.upsets.all fun m => decide (1 ≤ m.level ∧ m.level ≤ 5)
  | .auxPowerOn e => e.bad.all (· < 65536)
  | .startStepComplete e => e.repaired.all (fun x => decide (x < 2 ^ 32))

end Sys2Proof
end

