-- ==== Sys2Proof/Certificates/Slice0/Obligations.lean ====
section
/-! DEFINITION. The statements for the provers. -/
open Sys2Proof Sys2Proof.Machine

/-! ### The vector unit -/

/-- R92: the integer and logical operations of the VEC slot, with the value of one lane. -/
def intLaneOps : List (Nat × (TileId → RegForm → Instr) × (Lane → Lane → Lane)) :=
  [(0x10, .iadd, fun a b => a + b), (0x11, .isub, fun a b => a - b), (0x12, .imul, fun a b => a * b),
   (0x13, .imin, fun a b => if a.toInt ≤ b.toInt then a else b),
   (0x14, .imax, fun a b => if b.toInt ≤ a.toInt then a else b),
   (0x15, .andV, fun a b => a &&& b), (0x16, .orV, fun a b => a ||| b), (0x17, .xorV, fun a b => a ^^^ b),
   (0x18, .shl, fun a b => a <<< (b.toNat % 32)), (0x19, .shr, fun a b => a >>> (b.toNat % 32)),
   (0x1A, .sra, fun a b => a.sshiftRight (b.toNat % 32))]

/-- R89, R92: an integer or logical operation of the VEC slot, standing at the bundle that holds it, completes: it writes
V[DST] alone, in each lane of the mask the operation on the lanes of V[SA] and V[SB], and in every other lane the old
value. -/
def Obligations.IntegerLanes : Prop :=
  ∀ (op : Nat) (c : TileId → RegForm → Instr) (g : Lane → Lane → Lane), (op, c, g) ∈ intLaneOps →
  ∀ (t : TileId) (f : RegForm) (s : State) (r : Run), slotReady s t 1 (regBits op f) = some r →
  ∃ v, exec (c t f) s = .next (issued t 1 r [.vreg f.dst v] s) ∧ v.length = 64 ∧
    ∀ i, i < 64 → laneAt v i =
      if bitAt (mreg (tileSt s t) (f.md % 8)) i
      then g (laneAt (vreg (tileSt s t) f.sa) i) (laneAt (vreg (tileSt s t) f.sb) i)
      else laneAt (vreg (tileSt s t) f.dst) i

/-- R92, R47, R93: the operations that move lanes or change their sign: slot, opcode, and the value of lane `i`. -/
def moveLaneOps : List (Nat × Nat × (TileId → RegForm → Instr) × (TileSt → RegForm → Nat → Lane)) :=
  [(1, 0x07, .fabs, fun x f i => laneAt (vreg x f.sa) i &&& 0x7FFFFFFF#32),
   (1, 0x08, .fneg, fun x f i => laneAt (vreg x f.sa) i ^^^ 0x80000000#32),
   (2, 0x01, .vmov, fun x f i => laneAt (vreg x f.sa) i),
   (2, 0x02, .vbcast, fun x f _ => BitVec.ofNat 32 (sreg x f.sa)),
   (2, 0x03, .viota, fun _ _ i => BitVec.ofNat 32 i),
   (2, 0x04, .vperm, fun x f i => laneAt (vreg x f.sa) ((laneAt (vreg x f.sb) i).toNat % 64)),
   (2, 0x05, .vsel, fun x f i => if bitAt (mreg x f.sc) i then laneAt (vreg x f.sa) i else laneAt (vreg x f.sb) i)]

/-- R47, R92, R93: the sign operations and the lane moves write V[DST] alone and raise no flag; lanes outside the mask keep
their value. -/
def Obligations.MoveLanes : Prop :=
  ∀ (k op : Nat) (c : TileId → RegForm → Instr) (g : TileSt → RegForm → Nat → Lane), (k, op, c, g) ∈ moveLaneOps →
  ∀ (t : TileId) (f : RegForm) (s : State) (r : Run), slotReady s t k (regBits op f) = some r →
  ∃ v, exec (c t f) s = .next (issued t k r [.vreg f.dst v] s) ∧ v.length = 64 ∧
    ∀ i, i < 64 → laneAt v i =
      if bitAt (mreg (tileSt s t) (f.md % 8)) i then g (tileSt s t) f i else laneAt (vreg (tileSt s t) f.dst) i

/-- R92, R66, R117: the floating-point operations of the VEC slot: the lane and its flags. The results of FRCP, FRSQ,
FEXP2, FLOG2 and FTANH are the open values of log entry 1. -/
def floatLaneOps : List (Nat × (TileId → RegForm → Instr) × (Lane → Lane → Lane → Lane × Nat)) :=
  [(0x01, .fadd, fun a b _ => fp32Add a b), (0x02, .fsub, fun a b _ => fp32Sub a b),
   (0x03, .fmul, fun a b _ => fp32Mul a b), (0x04, .ffma, fp32Fma),
   (0x05, .fmin, fun a b _ => fp32MinMax false a b), (0x06, .fmax, fun a b _ => fp32MinMax true a b),
   (0x09, .fdiv, fun a b _ => fp32Div a b), (0x0A, .fsqrt, fun a _ _ => fp32Sqrt a),
   (0x0B, .frcp, fun a _ _ => fp32Fixed 0 a), (0x0C, .frsq, fun a _ _ => fp32Fixed 1 a),
   (0x0D, .fexp2, fun a _ _ => fp32Fixed 2 a), (0x0E, .flog2, fun a _ _ => fp32Fixed 3 a),
   (0x0F, .ftanh, fun a _ _ => fp32Fixed 4 a)]

/-- R80, R89, R92: a floating-point operation of the VEC slot completes: it writes V[DST] in the lanes of the mask, and the
flags of those lanes, and no others, join the run's flags. -/
def Obligations.FloatLanes : Prop :=
  ∀ (op : Nat) (c : TileId → RegForm → Instr) (g : Lane → Lane → Lane → Lane × Nat), (op, c, g) ∈ floatLaneOps →
  ∀ (t : TileId) (f : RegForm) (s : State) (r : Run), slotReady s t 1 (regBits op f) = some r →
  let x := tileSt s t
  let at_ := fun i => g (laneAt (vreg x f.sa) i) (laneAt (vreg x f.sb) i) (laneAt (vreg x f.sc) i)
  ∃ v fl, exec (c t f) s = .next (issued t 1 r (withFlags fl [.vreg f.dst v]) s) ∧ v.length = 64 ∧
    (∀ i, i < 64 → laneAt v i = if bitAt (mreg x (f.md % 8)) i then (at_ i).1 else laneAt (vreg x f.dst) i) ∧
    ∀ n, bitAt fl n = true ↔ ∃ i, i < 64 ∧ bitAt (mreg x (f.md % 8)) i = true ∧ bitAt (at_ i).2 n = true

/-- R118: the running value after each lane of a segmented scan or reduction, from the value before lane 0. -/
def carryAfter (kind marks : Nat) (lanes : List Lane) (c0 : Option Carry) : Nat → Option Carry
  | 0 => c0
  | i + 1 => some (carryStep kind (if bitAt marks i then none else carryAfter kind marks lanes c0 i) (laneAt lanes i)).1

/-- R118: the scans, by kind. -/
def scanOps : List (Nat × Nat × (TileId → RegForm → Instr)) :=
  [(0, 0x20, .scanf), (1, 0x21, .scani), (2, 0x22, .scanmax), (3, 0x23, .scanmin)]

/-- R118: the reductions, by kind. -/
def redOps : List (Nat × Nat × (TileId → RegForm → Instr)) :=
  [(0, 0x24, .redf), (1, 0x25, .redi), (2, 0x26, .redmax), (3, 0x27, .redmin)]

/-- R118: a scan completes: lane `i` of V[DST] holds the running value after lane `i`, a mark of M[SB] starts a new
segment, CHAIN goes on from the last chained scan of the kind and leaves its carry, and a scan without it clears it. A
reduction completes: S[SC] is the number of segments, one and one more for each mark after lane 0; the masked lanes of
V[DST] hold the segments' totals in order, and zero past the last. -/
def Obligations.ScansAndReductions : Prop :=
  (∀ (kind op : Nat) (c : TileId → RegForm → Instr), (kind, op, c) ∈ scanOps →
   ∀ (t : TileId) (f : RegForm) (s : State) (r : Run), slotReady s t 1 (regBits op f) = some r →
   let x := tileSt s t
   let chain := bitAt f.md 3
   let run := carryAfter kind (mreg x f.sb) (vreg x f.sa) (if chain then tfind x.carries kind else none)
   ∃ v fl, exec (c t f) s = .next (issued t 1 r
       (withFlags fl [.vreg f.dst v, .carry kind (if chain then run 64 else none)]) s) ∧
     ∀ i, i < 64 → ∃ y, run (i + 1) = some y ∧
       laneAt v i = if bitAt (mreg x (f.md % 8)) i then (carryLane y).1 else laneAt (vreg x f.dst) i) ∧
  ∀ (kind op : Nat) (c : TileId → RegForm → Instr), (kind, op, c) ∈ redOps →
  ∀ (t : TileId) (f : RegForm) (s : State) (r : Run), slotReady s t 1 (regBits op f) = some r →
  let x := tileSt s t
  let marks := (List.range 64).filter fun i => bitAt (mreg x f.sb) i && i != 0
  ∃ v fl tot, exec (c t f) s = .next (issued t 1 r (withFlags fl [.vreg f.dst v, .sreg f.sc tot.length]) s) ∧
    tot = (segTotals kind (mreg x f.sb) (lanes64 (vreg x f.sa)) 0 none).1 ∧ tot.length = marks.length + 1 ∧
    ∀ i, i < 64 → laneAt v i =
      if bitAt (mreg x (f.md % 8)) i then (match tot[i]? with | some y => (carryLane y).1 | none => 0#32)
      else laneAt (vreg x f.dst) i

/-- R68, R119, R92: EAADD, EARED, EAOUT and EACLR complete. EAADD adds to LA[i] of each masked lane the exact value of that
lane of V[SA]; EARED leaves each segment's sum in its first masked lane; EACLR sets LA[i] of each masked lane to zero;
EAOUT writes LA[i], converted under the context, to each masked lane: by itself, or in an MX format in the block of its 32
lanes, of which those outside the mask count as zero (log entry 113). -/
def Obligations.LaneAccumulators : Prop :=
  ∀ (t : TileId) (f : RegForm) (s : State) (r : Run),
  let x := tileSt s t
  let mask := mreg x (f.md % 8)
  let lanes := (List.range 64).filter (bitAt mask)
  let val := fun i => (eaOfX (decodeElem (if bitAt f.md 6 then fmtINT32 else fmtFP32) (laneAt (vreg x f.sa) i).toNat)).1
  let a := ctxArith s t (f.md / 16 % 4)
  (slotReady s t 1 (regBits 0x30 f) = some r → ∃ fl,
    exec (.eaadd t f) s = .next (issued t 1 r
      (withFlags fl (lanes.map fun i => .lacc i (eaAdd (lacc x i) (val i)).1)) s)) ∧
  (slotReady s t 1 (regBits 0x31 f) = some r →
    exec (.eared t f) s = .next (issued t 1 r
      (withFlags (eaRedLanes x mask (mreg x f.sb) 64 0 none).2 (eaRedLanes x mask (mreg x f.sb) 64 0 none).1) s)) ∧
  (slotReady s t 1 (regBits 0x33 f) = some r →
    exec (.eaclr t f) s = .next (issued t 1 r (lanes.map fun i => .lacc i Ea.zero) s)) ∧
  (slotReady s t 1 (regBits 0x32 f) = some r → fmtIsMX a.outFmt = false → ∃ v fl,
    exec (.eaout t f) s = .next (issued t 1 r (withFlags fl [.vreg f.dst v]) s) ∧
    ∀ i, i < 64 → laneAt v i =
      if bitAt mask i then BitVec.ofNat 32 (eaOut a ((sreg x f.sb + i) % 2 ^ 64) (lacc x i)).1
      else laneAt (vreg x f.dst) i) ∧
  (slotReady s t 1 (regBits 0x32 f) = some r → fmtIsMX a.outFmt = true → ∃ v fl,
    exec (.eaout t f) s = .next (issued t 1 r (withFlags fl [.vreg f.dst v]) s) ∧
    ∀ b i, b < 2 → i < 32 → laneAt v (32 * b + i) =
      if bitAt mask (32 * b + i) then BitVec.ofNat 32 ((mxQuantise { a with exact := true }
        ((sreg x f.sb + 32 * b) % 2 ^ 64) ((List.range 32).map fun j =>
          eaToX (if bitAt mask (32 * b + j) then lacc x (32 * b + j) else Ea.zero))).1.getD i 0)
      else laneAt (vreg x f.dst) (32 * b + i))

/-- R93: the comparisons and mask operations of the VMOV slot, with bit `i` of M[DST]. -/
def maskOps : List (Nat × (TileId → RegForm → Instr) × (TileSt → RegForm → Nat → Bool)) :=
  [(0x10, .fcmpeq, fun x f i => (fp32Cmp 0 (laneAt (vreg x f.sa) i) (laneAt (vreg x f.sb) i)).1),
   (0x11, .fcmplt, fun x f i => (fp32Cmp 1 (laneAt (vreg x f.sa) i) (laneAt (vreg x f.sb) i)).1),
   (0x12, .fcmple, fun x f i => (fp32Cmp 2 (laneAt (vreg x f.sa) i) (laneAt (vreg x f.sb) i)).1),
   (0x13, .icmpeq, fun x f i => laneAt (vreg x f.sa) i == laneAt (vreg x f.sb) i),
   (0x14, .icmplt, fun x f i => decide ((laneAt (vreg x f.sa) i).toInt < (laneAt (vreg x f.sb) i).toInt)),
   (0x18, .mand, fun x f i => bitAt (mreg x f.sa) i && bitAt (mreg x f.sb) i),
   (0x19, .mor, fun x f i => bitAt (mreg x f.sa) i || bitAt (mreg x f.sb) i),
   (0x1A, .mnot, fun x f i => !bitAt (mreg x f.sa) i)]

/-- R93: a comparison or mask operation completes: bit `i` of M[DST] is the result in the lanes of the mask and keeps its
value elsewhere. -/
def Obligations.MaskResults : Prop :=
  ∀ (op : Nat) (c : TileId → RegForm → Instr) (g : TileSt → RegForm → Nat → Bool), (op, c, g) ∈ maskOps →
  ∀ (t : TileId) (f : RegForm) (s : State) (r : Run), slotReady s t 2 (regBits op f) = some r →
  let x := tileSt s t
  ∃ m fl, exec (c t f) s = .next (issued t 2 r (withFlags fl [.mask f.dst m]) s) ∧
    ∀ i, i < 64 → bitAt m i = if bitAt (mreg x (f.md % 8)) i then g x f i else bitAt (mreg x f.dst) i

/-! ### Conversions, scalars and control of the tile -/

/-- R93, R54: VCVT, VPACK and VUNPACK complete: V[DST] takes the conversions, from FORMAT IN to the OUT_FMT of the context,
of each lane of V[SA], of the 128 lanes of V[SA] and V[SB] packed into bytes, and of packed elements 64h to 64h + 63 of
V[SA]; the element index counts on from the scalar the rule names. An MX format is formed in blocks of 32 elements, and an
MX input element stands for its value under a scale of one (log entry 113). -/
def Obligations.Conversions : Prop :=
  ∀ (t : TileId) (f : RegForm) (s : State) (r : Run),
  let x := tileSt s t
  let fin := f.md.val % 16
  let a := ctxArith s t (f.md / 16 % 4)
  let w := fmtBits a.outFmt
  let mx := fmtIsMX a.outFmt
  let val := fun (raw : Nat) => decodeElem fin (raw % 2 ^ fmtBits fin)
  let one := fun (k raw : Nat) => (convOut a (k % 2 ^ 64) (val raw)).1
  let block := fun (k : Nat) (raw : Nat → Nat) (b : Nat) =>
    (mxQuantise a ((k + 32 * b) % 2 ^ 64) ((List.range 32).map fun j => val (raw (32 * b + j)))).1
  (slotReady s t 2 (regBits 0x06 f) = some r → ∃ v fl,
    exec (.vcvt t f) s = .next (issued t 2 r (withFlags fl [.vreg f.dst v]) s) ∧ v.length = 64 ∧
    if mx then ∀ b, b < 2 → ∀ i, i < 32 → laneAt v (32 * b + i) =
      BitVec.ofNat 32 ((block (sreg x f.sb) (fun i => (laneAt (vreg x f.sa) i).toNat) b).getD i 0)
    else ∀ i, i < 64 → laneAt v i = BitVec.ofNat 32 (one (sreg x f.sb + i) (laneAt (vreg x f.sa) i).toNat)) ∧
  (slotReady s t 2 (regBits 0x07 f) = some r → ∃ (vs : List Nat) (fl : Nat),
    exec (.vpack t f) s = .next (issued t 2 r
      (withFlags fl [.vreg f.dst (bytesLanes (padTo 256 (vs.flatMap fun v => leBytes (w / 8) v)))]) s) ∧
    let raw := fun i => (if i < 64 then laneAt (vreg x f.sa) i else laneAt (vreg x f.sb) (i - 64)).toNat
    vs.length = 128 ∧
    if mx then ∀ b, b < 4 → ∀ i, i < 32 → vs[32 * b + i]? = (block (sreg x f.sc) raw b)[i]?
    else ∀ i, i < 128 → vs[i]? = some (one (sreg x f.sc + i) (raw i))) ∧
  (slotReady s t 2 (regBits 0x08 f) = some r → ∃ v fl,
    exec (.vunpack t f) s = .next (issued t 2 r (withFlags fl [.vreg f.dst v]) s) ∧ v.length = 64 ∧
    let raw := fun i => packedElem (lanesBytes (vreg x f.sa)) (fmtBits fin) (64 * (f.md / 128) + i)
    if mx then ∀ b, b < 2 → ∀ i, i < 32 → laneAt v (32 * b + i) =
      BitVec.ofNat 32 ((block (sreg x f.sb) raw b).getD i 0)
    else ∀ i, i < 64 → laneAt v i = BitVec.ofNat 32 (one (sreg x f.sb + i) (raw i)))

/-- R93, R96: the scalar operations in register form: slot, opcode, and the value that S[DST] takes. -/
def scalarOps : List (Nat × Nat × (TileId → RegForm → Instr) × (TileSt → RegForm → Nat)) :=
  [(5, 0x03, .sadd, fun x f => (sreg x f.sa + sreg x f.sb) % 2 ^ 64),
   (5, 0x04, .ssub, fun x f => (sreg x f.sa + 2 ^ 64 - sreg x f.sb) % 2 ^ 64),
   (5, 0x05, .smul, fun x f => sreg x f.sa * sreg x f.sb % 2 ^ 64),
   (5, 0x06, .sand, fun x f => Nat.land (sreg x f.sa) (sreg x f.sb)),
   (5, 0x07, .sor, fun x f => Nat.lor (sreg x f.sa) (sreg x f.sb)),
   (5, 0x08, .sxor, fun x f => Nat.xor (sreg x f.sa) (sreg x f.sb)),
   (2, 0x1B, .mpop, fun x f => ((List.range 64).filter (bitAt (mreg x f.sa))).length),
   (2, 0x1C, .vext, fun x f => (laneAt (vreg x f.sa) (sreg x f.sb % 64)).toNat)]

/-- R93, R96: a scalar operation completes and writes S[DST] alone: sums, differences and products modulo 2^64, the bit
operations, the number of set bits of a mask, one lane; SSHL and SSHR shift by the whole of S[SB] (log entry 14); SLI and
SADDI extend IMM20 by its sign; RDTIME reads the time base; SCMPLT and SCMPEQ write P[DST] from signed comparisons; VINS
writes lane S[SB] modulo 64 of V[DST], where the mask has it, from the low bits of S[SA]. -/
def Obligations.Scalars : Prop :=
  (∀ (k op : Nat) (c : TileId → RegForm → Instr) (g : TileSt → RegForm → Nat), (k, op, c, g) ∈ scalarOps →
    ∀ (t : TileId) (f : RegForm) (s : State) (r : Run), slotReady s t k (regBits op f) = some r →
    exec (c t f) s = .next (issued t k r [.sreg f.dst (g (tileSt s t) f)] s)) ∧
  ∀ (t : TileId) (f : RegForm) (m : ImmForm) (s : State) (r : Run),
  let x := tileSt s t
  (slotReady s t 5 (regBits 0x09 f) = some r → exec (.sshl t f) s = .next (issued t 5 r
    [.sreg f.dst (if sreg x f.sb < 64 then sreg x f.sa * 2 ^ sreg x f.sb % 2 ^ 64 else 0)] s)) ∧
  (slotReady s t 5 (regBits 0x0A f) = some r → exec (.sshr t f) s = .next (issued t 5 r
    [.sreg f.dst (if sreg x f.sb < 64 then sreg x f.sa / 2 ^ sreg x f.sb else 0)] s)) ∧
  (slotReady s t 5 (regBits 0x0B f) = some r → exec (.scmplt t f) s = .next (issued t 5 r
    [.pred f.dst (decide (sxt 64 (sreg x f.sa) < sxt 64 (sreg x f.sb)))] s)) ∧
  (slotReady s t 5 (regBits 0x0C f) = some r → exec (.scmpeq t f) s = .next (issued t 5 r
    [.pred f.dst (decide (sreg x f.sa = sreg x f.sb))] s)) ∧
  (slotReady s t 5 (immBits 0x01 m) = some r → exec (.sli t m) s = .next (issued t 5 r
    [.sreg m.dst (sxt 20 m.imm % 2 ^ 64).toNat] s)) ∧
  (slotReady s t 5 (immBits 0x02 m) = some r → exec (.saddi t m) s = .next (issued t 5 r
    [.sreg m.dst ((sreg x m.sa + sxt 20 m.imm) % 2 ^ 64).toNat] s)) ∧
  (slotReady s t 5 (immBits 0x18 m) = some r → exec (.rdtime t m) s = .next (issued t 5 r
    [.sreg m.dst (s.now % 2 ^ 64)] s)) ∧
  (slotReady s t 2 (regBits 0x1D f) = some r → ∃ v, exec (.vins t f) s = .next (issued t 2 r [.vreg f.dst v] s) ∧
    ∀ i, i < 64 → laneAt v i =
      if i = sreg x f.sb % 64 ∧ bitAt (mreg x (f.md % 8)) i then BitVec.ofNat 32 (sreg x f.sa) else laneAt (vreg x f.dst) i)

/-- R96, R99, R107, R487: the control operations of the CTL slot complete: BR gives its target, LOOP its last bundle and
count, WAIT nothing, DSETA the new ADDR of a descriptor, BRK its identifier, TGET and TKIND a field of the window token they
name, and TPUT a token within the task's reservation; a token that the window does not hold, or a reservation used up, is
the exception 0x0141. -/
def Obligations.ControlSlots : Prop :=
  ∀ (t : TileId) (m : ImmForm) (s : State) (r : Run),
  let x := tileSt s t
  let left : Nat := ((r.resv.find? fun e => e.1 == m.imm.val % 16).map (·.2)).getD 0
  (slotReady s t 5 (immBits 0x10 m) = some r → exec (.br t m) s = .next (issued t 5 r [.jump m.imm] s)) ∧
  (slotReady s t 5 (immBits 0x11 m) = some r →
    exec (.loop t m) s = .next (issued t 5 r [.loop m.imm (sreg x m.sa % 2 ^ 32)] s)) ∧
  (slotReady s t 5 (immBits 0x16 m) = some r → exec (.wait t m) s = .next (issued t 5 r [] s)) ∧
  (slotReady s t 5 (immBits 0x17 m) = some r →
    exec (.dseta t m) s = .next (issued t 5 r [.dseta m.imm (sreg x m.sa % 2 ^ 22)] s)) ∧
  (slotReady s t 5 (immBits 0x19 m) = some r → exec (.brk t m) s = .next (issued t 5 r [.brk m.imm] s)) ∧
  (slotReady s t 5 (immBits 0x12 m) = some r → exec (.tget t m) s = .next (match r.window[m.imm.val]? with
    | some k => issued t 5 r [.sreg m.dst k.payload] s
    | none => tileExc t 0x0141 none s)) ∧
  (slotReady s t 5 (immBits 0x13 m) = some r → exec (.tkind t m) s = .next (match r.window[m.imm.val]? with
    | some k => issued t 5 r [.sreg m.dst k.kind] s
    | none => tileExc t 0x0141 none s)) ∧
  (slotReady s t 5 (immBits 0x14 m) = some r → exec (.tput t m) s = .next (if left = 0 then tileExc t 0x0141 none s
    else issued t 5 r [.put (m.imm % 16) (m.imm / 16) (sreg x m.sa)] s))

/-- R94: the loads and stores of the MEM slot: opcode, alignment, width. -/
def memOps : List (Nat × Nat × Nat × (TileId → ImmForm → Instr)) :=
  [(0x01, 64, 256, .vld), (0x02, 64, 256, .vst), (0x03, 8, 8, .sld), (0x04, 8, 8, .sst), (0x05, 32, 96, .eald),
   (0x06, 32, 96, .east)]

/-- R94: the address of a MEM operation is S[SA] plus IMM20; aligned and within tile SRAM, a load takes its bytes from there
into its register and a store sends its register there when the bundle ends. The bytes are read with single errors
corrected, and no error that cannot be corrected stands in them. -/
def Obligations.LoadsAndStores : Prop :=
  ∀ (t : TileId) (m : ImmForm) (s : State) (r : Run),
  let x := tileSt s t
  let a := sreg x m.sa + m.imm
  let ok := fun (al n : Nat) => a % al = 0 ∧ a + n ≤ 4194304
  let clean := fun (n : Nat) => ueRead s (tileBase t + a) n = none
  let bytes := fun (n : Nat) => memRead s.mem (tileBase t + a) n
  let s1 := fun (n : Nat) => correctIn (tileBase t + a) n s
  (slotReady s t 3 (immBits 0x01 m) = some r → ok 64 256 → clean 256 → ∃ v,
    exec (.vld t m) s = .next (issued t 3 r [.vreg m.dst v] (s1 256)) ∧
    ∀ i, i < 64 → laneAt v i = BitVec.ofNat 32 (leNat (memRead s.mem (tileBase t + a + 4 * i) 4))) ∧
  (slotReady s t 3 (immBits 0x03 m) = some r → ok 8 8 → clean 8 →
    exec (.sld t m) s = .next (issued t 3 r [.sreg m.dst (leNat (bytes 8))] (s1 8))) ∧
  (slotReady s t 3 (immBits 0x05 m) = some r → ok 32 96 → clean 96 →
    exec (.eald t m) s = .next (issued t 3 r [.lacc m.dst (eaOfBytes (bytes 96))] (s1 96))) ∧
  (slotReady s t 3 (immBits 0x02 m) = some r → ok 64 256 →
    exec (.vst t m) s = .next (issued t 3 r [.store a (lanesBytes (vreg x m.dst))] s)) ∧
  (slotReady s t 3 (immBits 0x04 m) = some r → ok 8 8 →
    exec (.sst t m) s = .next (issued t 3 r [.store a (leBytes 8 (sreg x m.dst))] s)) ∧
  (slotReady s t 3 (immBits 0x06 m) = some r → ok 32 96 →
    exec (.east t m) s = .next (issued t 3 r [.store a (eaBytes (lacc x m.dst))] s))

/-- R94, R121, R188: a MEM operation whose address is misaligned or reaches beyond tile SRAM raises 0x0142, and a load that
meets an error it cannot correct raises the code of the error, 0x0340 for one of tile SRAM and 0x0343 for one of a data path,
while it corrects the others; the tile stops at its bundle and nothing of the bundle takes effect. -/
def Obligations.MemoryTraps : Prop :=
  ∀ (op al n : Nat) (c : TileId → ImmForm → Instr), (op, al, n, c) ∈ memOps →
  ∀ (t : TileId) (m : ImmForm) (s : State) (r : Run), slotReady s t 3 (immBits op m) = some r →
  let a := sreg (tileSt s t) m.sa + m.imm
  (a % al ≠ 0 ∨ 4194304 < a + n → exec (c t m) s = .next (tileExc t 0x0142 none s)) ∧
  (a % al = 0 → a + n ≤ 4194304 → op % 2 = 1 → ∀ e, ueRead s (tileBase t + a) n = some e →
    exec (c t m) s = .next (tileExc t (ueCode e.level) (some e) (correctIn (tileBase t + a) n s))) ∧
  ueCode 1 = 0x0340 ∧ ueCode 4 = 0x0343 ∧
  ∀ code ue, (tileSt (tileExc t code ue s) t).stopped = some code ∧ (tileExc t code ue s).mem = s.mem ∧
    (tileSt (tileExc t code ue s) t).vregs = (tileSt s t).vregs ∧
    (tileSt (tileExc t code ue s) t).sregs = (tileSt s t).sregs ∧
    (tileSt (tileExc t code ue s) t).masks = (tileSt s t).masks ∧
    (tileSt (tileExc t code ue s) t).preds = (tileSt s t).preds ∧
    (tileSt (tileExc t code ue s) t).laccs = (tileSt s t).laccs

/-- R181 to R184: DMAIN and DMAOUT issue with the descriptor and S[SA] as they stand once their checks pass, and raise the
code of the first that fails; on completion the oldest leaves the queue with every row copied between tile SRAM and the
module address, or raises the code of the error met and stays outstanding, with the rows before it copied. -/
def Obligations.TileDma : Prop :=
  ∀ (t : TileId) (m : ImmForm) (s : State) (r : Run),
  let x := tileSt s t
  let d := descAt x m.dst
  let v := sreg x m.sa
  (slotReady s t 3 (immBits 0x10 m) = some r → exec (.dmain t m) s = .next (match dmaCheck s t d v true with
    | none => issued t 3 r [.dma ⟨true, d, v⟩] s
    | some code => tileExc t code none s)) ∧
  (slotReady s t 3 (immBits 0x11 m) = some r → exec (.dmaout t m) s = .next (match dmaCheck s t d v false with
    | none => issued t 3 r [.dma ⟨false, d, v⟩] s
    | some code => tileExc t code none s)) ∧
  ∀ (o : DmaOp) (l : List DmaOp), x.stopped = none → x.dmas = o :: l →
    let s1 := setTile s t { x with dmas := l }
    let row := dmaRow o.desc
    let tile := tileBase t + dAddr o.desc
    let out := maddr o.addr
    exec (.dmaComplete t) s = .next (match (if o.inbound
        then copyRows t out (mstride o.addr row) tile (dStride o.desc) row (dRows o.desc) s1
        else copyRows t tile (dStride o.desc) out (mstride o.addr row) row (dRows o.desc) s1) with
      | .ok _ s2 => s2
      | .ue e s2 => tileExc t (ueCode e.level) (some e) (setTile s2 t { tileSt s2 t with dmas := o :: (tileSt s2 t).dmas }))

/-- R91, R114, R120: a MAT operation that passes its checks waits with its descriptors, context and seed as they stand at
issue; the oldest of them completes as its opcode says, or stops its tile and stays outstanding, and an MCLR leaves its
bank, or in exact mode the exact file, zero. -/
def Obligations.MatrixUnit : Prop :=
  ∀ (t : TileId) (f : RegForm) (s : State) (r : Run),
  let x := tileSt s t
  let ctl := ctxCtl x (f.md % 4)
  let ex := bitAt ctl 7
  let m := fun (op da db : Nat) =>
    TEff.matrix ⟨op, f.dst, f.sa, f.md, da, db, ctl, ctxSeed s t (f.md % 4)⟩
  let out := fun (c : Option Nat) (e : TEff) => match c with
    | none => issued t 0 r [e] s
    | some code => tileExc t code none s
  (slotReady s t 0 (regBits 0x01 f) = some r → exec (.mma t f) s = .next (out
    (mmaCheck (descAt x f.sa) (descAt x f.sb) ex) (m 1 (descAt x f.sa) (descAt x f.sb)))) ∧
  (slotReady s t 0 (regBits 0x02 f) = some r → exec (.mmout t f) s = .next (out
    (bankCheck (descAt x f.dst) (ctl % 16) ex) (m 2 (descAt x f.dst) 0))) ∧
  (slotReady s t 0 (regBits 0x03 f) = some r → exec (.mldacc t f) s = .next (out
    ((bankCheck (descAt x f.sa) (dFmt (descAt x f.sa)) ex).or
      (if dFmt (descAt x f.sa) = (if ex then fmtEA640 else fmtFP32) then none else some 0x0146))
    (m 3 (descAt x f.sa) 0))) ∧
  (slotReady s t 0 (regBits 0x04 f) = some r → exec (.mclr t f) s = .next (issued t 0 r [m 4 0 0] s)) ∧
  ∀ (busy : Nat) (o : MatOp) (l : List MatOp), x.stopped = none → x.mats = o :: l →
    let s0 := if o.op = 1 then countMatrix t busy o s else s
    let s1 := setTile s0 t { x with mats := l }
    let done := fun (y : State) =>
      if (tileSt y t).stopped.isSome then setTile y t { tileSt y t with mats := o :: l } else y
    ∃ z, exec (.matrixOpComplete t busy) s = .next z ∧
      (o.op = 1 → z = done (doMma t o s1)) ∧ (o.op = 2 → z = done (doMmout t o s1)) ∧
      (o.op = 3 → z = done (doMldacc t o s1)) ∧
      (o.op = 4 → ∀ i, (bitAt o.ctl 7 = true → exactElem (tileSt z t) i = Ea.zero) ∧
        (bitAt o.ctl 7 = false → bankElem (tileSt z t) o.dst i = 0))

/-- R95, R128: the irregular operations by opcode. -/
def irrOps : List (Nat × (TileId → RegForm → Instr)) :=
  [(0x01, .gather), (0x02, .scatter), (0x03, .scadd), (0x10, .setisect), (0x11, .setunion), (0x12, .setdiff),
   (0x13, .mjoin), (0x20, .hinsert), (0x21, .hprobe), (0x30, .sort), (0x31, .selectk)]

/-- R128 to R131: an irregular operation issues into its unit's queue with the fields of its block as read at issue; an
illegal MOD raises 0x0151, a block that is misaligned or beyond tile SRAM 0x0150, an error of the block that cannot be
corrected its code, and otherwise the first check that fails its code. -/
def Obligations.IrregularIssue : Prop :=
  ∀ (op : Nat) (c : TileId → RegForm → Instr), (op, c) ∈ irrOps →
  ∀ (t : TileId) (f : RegForm) (s : State) (r : Run), slotReady s t 4 (regBits op f) = some r →
  let a := sreg (tileSt s t) f.sa
  let b := zeros 16 ++ memRead s.mem (tileBase t + a + 16) 48
  (irrModOk op f.md = false → exec (c t f) s = .next (tileExc t 0x0151 none s)) ∧
  (irrModOk op f.md = true → a % 64 ≠ 0 ∨ 4194304 ≤ a → exec (c t f) s = .next (tileExc t 0x0150 none s)) ∧
  let s1 := correctIn (tileBase t + a + 16) 48 s
  (irrModOk op f.md = true → a % 64 = 0 → a < 4194304 → ∀ e, ueRead s (tileBase t + a + 16) 48 = some e →
    exec (c t f) s = .next (tileExc t (ueCode e.level) (some e) s1)) ∧
  (irrModOk op f.md = true → a % 64 = 0 → a < 4194304 → ueRead s (tileBase t + a + 16) 48 = none →
    exec (c t f) s = .next (match firstCode [irrFields op f.md (dieOf t) b, irrDeps op f.md (dieOf t) b,
        irrRegionCheck s t op f.md a b] with
      | some code => tileExc t code none s1
      | none => issued t 4 r [.irr ⟨op, f.md, a, b, false, 0, 0, 0⟩] s1))

/-- R130, R141, R143: the oldest operation of a unit starts, one at a time, a SCADD of adds with the additions it owes; a
started one completes with its results in its block, its flags in the run's, and its place in the queue free; an addition
that waits is accepted by the engine of its line. -/
def Obligations.IrregularRun : Prop :=
  ∀ (t : TileId) (u : Fin 4) (s : State),
  let x := tileSt s t
  x.stopped = none →
  (∀ o, x.irrs.find? (fun y => irrUnit y.op == u) = some o → o.started = false → ¬(o.op = 3 ∧ o.md % 4 = 0) →
    exec (.irrOpDequeue t u) s = .next (setTile s t { x with
      irrs := { o with started := true } :: leraseFirst (fun y => irrUnit y.op == u) x.irrs
      adds := if u = 0 then [] else x.adds })) ∧
  (∀ o o2 as s1, u = 0 → x.irrs.find? (fun y => irrUnit y.op == 0) = some o → o.started = false → o.op = 3 → o.md % 4 = 0 →
    scaddStart t o s = .ok (o2, as) s1 →
    exec (.irrOpDequeue t u) s = .next (setTile s1 t { tileSt s1 t with
      irrs := o2 :: leraseFirst (fun y => irrUnit y.op == 0) (tileSt s1 t).irrs, adds := as })) ∧
  (∀ o r s1 s2, x.irrs.find? (fun y => irrUnit y.op == u && y.started) = some o →
    irrRun t o x.adds (setTile s t { x with
      irrs := leraseFirst (fun y => irrUnit y.op == u && y.started) x.irrs }) = .ok r s1 →
    iobWrite t o r s1 = .ok () s2 →
    exec (.irrOpComplete t u) s = .next (noteAll t (iobWrote t o ++ r.wrote) (addFlags t r.flags s2))) ∧
  ∀ i e fl s1, x.adds[i]? = some e → engineAdd ⟨some t, dieOf t⟩ e s = .ok fl s1 → ∃ z,
    exec (.scaddAccept t i) s = .next z ∧ (tileSt z t).adds = x.adds.eraseIdx i ∧ z.mem = s1.mem

/-- R89, R92, R93, R96: what each register file reads after a list of effects. -/
def lastV (n : Nat) (old : Option (List Lane)) : List TEff → Option (List Lane)
  | [] => old
  | .vreg k v :: l => lastV n (if k = n then some v else old) l
  | _ :: l => lastV n old l
def lastS (n : Nat) (old : Option Nat) : List TEff → Option Nat
  | [] => old
  | .sreg k v :: l => lastS n (if k = n then some (v % 2 ^ 64) else old) l
  | _ :: l => lastS n old l
def lastM (n : Nat) (old : Option Nat) : List TEff → Option Nat
  | [] => old
  | .mask k v :: l => lastM n (if k = n then some (v % 2 ^ 64) else old) l
  | _ :: l => lastM n old l
def lastP (n : Nat) (old : Option Bool) : List TEff → Option Bool
  | [] => old
  | .pred k v :: l => lastP n (if k = n then some v else old) l
  | _ :: l => lastP n old l
def lastL (n : Nat) (old : Option Ea) : List TEff → Option Ea
  | [] => old
  | .lacc k v :: l => lastL n (if k = n then some v else old) l
  | _ :: l => lastL n old l

/-- R84: an effect on a register file of the tile. -/
def regEff : TEff → Bool
  | .vreg _ _ | .sreg _ _ | .mask _ _ | .pred _ _ | .lacc _ _ => true
  | _ => false

/-- R89: when the last slot of a bundle whose effects are register writes issues, each register holds what was last written
to it, every other register keeps its value, and no other tile, no byte of memory and no queue of the tile changes. -/
def Obligations.BundleWritesRegisters : Prop :=
  ∀ (t : TileId) (r : Run) (es : List TEff) (s : State), es.all regEff = true → (tileSt s t).run.isSome = true →
  (tileSt s t).stopped = none →
  let x := tileSt s t
  let z := tileSt (commitBundle t r es s) t
  (∀ n, tfind z.vregs n = lastV n (tfind x.vregs n) es ∧ tfind z.sregs n = lastS n (tfind x.sregs n) es ∧
    tfind z.masks n = lastM n (tfind x.masks n) es ∧ tfind z.preds n = lastP n (tfind x.preds n) es ∧
    tfind z.laccs n = lastL n (tfind x.laccs n) es) ∧
  z.banks = x.banks ∧ z.exact = x.exact ∧ z.iqs = x.iqs ∧ z.oqs = x.oqs ∧ z.store = x.store ∧ z.mats = x.mats ∧
  z.dmas = x.dmas ∧ z.irrs = x.irrs ∧ (commitBundle t r es s).mem = s.mem ∧
  ∀ u, u ≠ t.val → tileSt (commitBundle t r es s) u = tileSt s u

/-- R89, R94: when a store is the last slot of its bundle to issue and its bytes hold no error it must first read, every
byte stored reads as stored and every other byte of memory reads as before. -/
def Obligations.StoreLands : Prop :=
  ∀ (t : TileId) (r : Run) (off : Nat) (bs : List Byte) (s : State), (tileSt s t).run.isSome = true →
  (tileSt s t).stopped = none → ueWrite s (tileBase t + off) bs.length = none →
  ∀ a, memByte (commitBundle t r [.store off bs] s).mem a =
    if tileBase t + off ≤ a ∧ a < tileBase t + off + bs.length then bs.getD (a - (tileBase t + off)) 0
    else memByte s.mem a

/-- R96: what follows a bundle: a taken branch goes to its target and leaves the loops; a LOOP of count 0 goes on as its
last bundle would, and any other count opens a level that begins at the next bundle; a bundle that ends the innermost loop goes
back to its first while passes remain, and falls through when none do; any other bundle is followed by the next. -/
def Obligations.BundleFollows : Prop :=
  ∀ (r : Run) (es : List TEff),
  (∀ b, jumpOf es = some b → nextBundle r es = (r.loops, b)) ∧
  (jumpOf es = none → ∀ last n, loopOf es = some (last, n) →
    nextBundle r es = if n = 0 then nextBundle { r with pc := last } [] else (⟨r.pc + 1, last, n⟩ :: r.loops, r.pc + 1)) ∧
  (jumpOf es = none → loopOf es = none →
    (r.loops = [] → nextBundle r es = ([], r.pc + 1)) ∧
    ∀ l o, r.loops = l :: o →
      (l.last ≠ r.pc → nextBundle r es = (r.loops, r.pc + 1)) ∧
      (l.last = r.pc → 1 < l.left → nextBundle r es = ({ l with left := l.left - 1 } :: o, l.first)) ∧
      (l.last = r.pc → l.left ≤ 1 → nextBundle r es = nextBundle { r with loops := o } es))

/-! ### Issue, tokens, firing and power credits -/

/-- R89, R90, R121, R187, R326, R487, R488: a held bundle is taken up when its wait is over, or when a slot of the admission
frame comes in which the duty lets its tile issue: in a break, or where an address entry names it, it stays held; it raises
the code of an error that cannot be corrected in the program store words it reads, and 0x0140 where it breaks a rule of the
bundle; it stays held while anything it must wait for remains, and else
its enabled slots are about to issue; with nothing to issue in it, the task ends or the next bundle is taken up. The errors
of the words it reads that can be corrected are. -/
def Obligations.HeldBundles : Prop :=
  ∀ (t : TileId) (s : State) (r : Run) (c : Instr),
  c = .bundleStallRelease t ∨ (c = .admissionDutySlot t ∧ dutyOpen s t = true) →
  let x := tileSt s t
  let w := bundleAt x r.pc
  let on := preg x (bitsOf w 11 8) != bitAt w 12
  let cells := bundleCells t r.pc w
  let s1 := correctAll cells s
  let bad := on = true ∧ bundleOk x w r.pc r.loops.length = false
  let ks := if on then (enabledSlots w).filter fun k => slotOp (slotBits w k) != 0 else []
  let put := fun (q : Run) => setTile s1 t { x with run := some q }
  x.mode = .active → x.stopped = none → x.run = some r →
  (r.held = false ∨ r.ending = true → exec c s = .next s) ∧
  (r.held = true → r.ending = false → breakHeld s t r = true →
    exec c s = .next (breakFill t (setTile s t { x with run := some { r with held := true, todo := [] } }))) ∧
  (r.held = true → r.ending = false → breakHeld s t r = false →
    (7679 < r.pc → exec c s = .next (tileExc t 0x0140 none s)) ∧
    (r.pc ≤ 7679 → ∀ m, ueIn s cells = some m → exec c s = .next (tileExc t (ueCode m.level) (some m) s1)) ∧
    (r.pc ≤ 7679 → ueIn s cells = none → bitsOf w 15 13 ≠ 0 → exec c s = .next (tileExc t 0x0140 none s)) ∧
    (r.pc ≤ 7679 → ueIn s cells = none → bitsOf w 15 13 = 0 → bad → exec c s = .next (tileExc t 0x0140 none s1)) ∧
    (r.pc ≤ 7679 → ueIn s cells = none → bitsOf w 15 13 = 0 → ¬bad → issueHeld s1 t r w = true →
      exec c s = .next (put { r with held := true, todo := [] })) ∧
    (r.pc ≤ 7679 → ueIn s cells = none → bitsOf w 15 13 = 0 → ¬bad → issueHeld s1 t r w = false →
      (ks ≠ [] → exec c s = .next (put { r with held := false, todo := ks })) ∧
      (ks = [] → bitAt w 6 = true → exec c s = .next (put { r with held := false, todo := [], ending := true })) ∧
      (ks = [] → bitAt w 6 = false → exec c s = .next (settle 63 t (put { r with
        held := false, loops := (loopNext r.loops r.pc).1, pc := (loopNext r.loops r.pc).2 }))))) ∧
  (dutyOpen s t = false → exec (.admissionDutySlot t) s = .next s)

/-- R104, R126: a token that arrives joins the end of the input queue that its destination word names, and its tile abandons
pupa entry; a returned credit raises its count by one, which a start token that waits for it takes; a token for a control
core reports to the run, which ends with the last report it awaits, in a break of its graph with the break, and returns its
credit. -/
def Obligations.TokensOnTheMesh : Prop :=
  ∀ (t : TileId) (oq : Fin 16) (k : Fin 4) (s : State),
  let p := fun (m : MeshTok) => m.src == t.val && m.oq == oq.val && m.k == k.val
  let x := tileSt s t
  let w := (oqDests (oqWord x oq)).getD k 0
  let u := destTile w
  let o := tget x.oqs oq ⟨[], 0⟩
  let o1 := { o with credits := lset o.credits k (o.credits.getD k 0 + 1) }
  (∀ m q, destCore w = false → s.mesh.toks.find? p = some m → tfind (tileSt s u).iqs (destQ w) = some q →
    ∃ z, exec (.tokenArrival t oq k) s = .next z ∧ z.mesh = ⟨leraseFirst p s.mesh.toks, s.mesh.credits⟩ ∧
      tfind (tileSt z u).iqs (destQ w) = some { q with toks := q.toks ++ [m.tok] } ∧
      (∀ j, j ≠ destQ w → tfind (tileSt z u).iqs j = tfind (tileSt s u).iqs j) ∧ (tileSt z u).entry = false ∧
      (tileSt z u).run = (tileSt s u).run ∧ z.mem = s.mem ∧ ∀ v, v ≠ u → tileSt z v = tileSt s v) ∧
  ((t.val, oq.val, k.val) ∈ s.mesh.credits →
    ∃ z, exec (.queueCreditReturn t oq k) s = .next z ∧
      z.mesh = ⟨s.mesh.toks, leraseFirst (· == (t.val, oq.val, k.val)) s.mesh.credits⟩ ∧
      (tileSt z t).run = x.run ∧ z.mem = s.mem ∧ ((∀ g, tfind s.graphs x.graph = some g → g.pend = []) →
        (tileSt z t).oqs = tput x.oqs oq o1 ∧ (tileSt z t).iqs = x.iqs ∧ ∀ v, v ≠ t.val → tileSt z v = tileSt s v)) ∧
  ∀ g r, destCore w = true → s.mesh.toks.any p = true → tfind s.graphs x.graph = some g → g.run = some r →
    ∃ z, exec (.sinkReport t oq k) s = .next z ∧ (g.unload = none → z.mesh = ⟨leraseFirst p s.mesh.toks, s.mesh.credits⟩ ∧
      (tileSt z t).oqs = tput x.oqs oq o1 ∧ (tileSt z t).iqs = x.iqs ∧ (tileSt z t).run = x.run ∧ z.mem = s.mem ∧
      (r.reports + 1 ≠ r.sinks ∨ breakOf s x.graph ≠ none → z.cmds = s.cmds ∧
        tfind z.graphs x.graph = some { g with run := some { r with reports := r.reports + 1 } }) ∧
      (r.reports + 1 = r.sinks → breakOf s x.graph = none → z.cmds = (finish r.ring r.idx ⟨0, r.flags % 256, 0, 0⟩ s).cmds ∧
        tfind z.graphs x.graph = some { g with run := none, pend := [] }))

/-- R24, R85, R106 to R108: a tile with a credit fires, of its ready tasks, the one whose head tokens have waited longest,
and of those the lowest-numbered: its window is the tokens taken from its input queues in order, and every register reads
the open value; an uncorrectable error of its descriptor or of a queue that it reads stops it instead. It ends once all
that it issued has completed, and gives back the credits that it did not use. -/
def Obligations.TaskFiresAndEnds : Prop :=
  (∀ (s : State) (x : TileSt) (i w : Nat), pickTask s x = some (i, w) → i < 32 ∧ taskReady x i = true ∧
    w = taskWait s x i ∧ ∀ j, j < 32 → taskReady x j = true → taskWait s x j ≤ w ∧ (taskWait s x j = w → i ≤ j)) ∧
  ∀ (t : TileId) (s : State),
  let x := tileSt s t
  (∀ i wt, x.mode = .active → x.credit = true → x.run = none → mayStart s t = true → pickTask s x = some (i, wt) →
    let w := taskAt x i
    let cells := (storeCell t (0x3C000 + 16 * i), 16) :: (taskIns w).map fun e => (queueCell t e.1, 4)
    (∀ m, ueIn s cells = some m →
      exec (.taskFire t) s = .next (tileExc t (ueCode m.level) (some m) (correctAll cells s))) ∧
    (ueIn s cells = none → ∃ z r, exec (.taskFire t) s = .next z ∧ (tileSt z t).run = some r ∧ r.task = i ∧ r.opId = taskOpId w ∧
      (((taskIns w).map (·.1)).Nodup → r.window = (taskIns w).flatMap fun e => (iqToks x e.1).take e.2) ∧
      (tileSt z t).vregs = [] ∧ (tileSt z t).sregs = [] ∧ (tileSt z t).masks = [] ∧ (tileSt z t).preds = [] ∧
      (tileSt z t).laccs = [] ∧ (tileSt z t).carries = [] ∧ (tileSt z t).banks = [] ∧ z.mem = s.mem)) ∧
  ∀ (cyc p : Nat) (r : Run), x.run = some r → r.ending = true → x.stopped = none → x.mats = [] → x.dmas = [] → x.irrs = [] →
    ∃ z, exec (.taskEnd t cyc p) s = .next z ∧ (tileSt z t).run = none ∧ (tileSt z t).pLast = some p ∧
      (tileSt z t).lastOp = r.opId ∧ z.mem = s.mem ∧
      ((r.resv.map (·.1)).Nodup → (∀ g, tfind s.graphs x.graph = some g → g.pend = []) → ∀ e o, e ∈ r.resv → tfind x.oqs e.1 = some o →
        tfind (tileSt z t).oqs e.1 = some { o with credits := o.credits.map (· + e.2) })

/-- R21, R26 to R31, R109, R329, R330: in a slot of its rail and with the brake released, the requester served first gets a
credit and wakes; a slot that is used closes the rail for T_g; a granted tile becomes active; a tile that runs Filler gives
its credit back where no task is fireable, and else declines. -/
def Obligations.PowerCredits : Prop :=
  (∀ (d : Fin 2) (s : State),
    (odv s oBRAKE_ACTIVE = 1 ∨ slotOpen s d = false → exec (.powerCreditGrant d) s = .next s) ∧
    (∀ t, fSlot s d = some t → slotOpen s d = decide (t + grantGap (odv s (oSLEW_LIMIT_CORE0 + d)) ≤ s.now)) ∧
    ∀ r, odv s oBRAKE_ACTIVE ≠ 1 → slotOpen s d = true → s.flt.test = none → railHead s d = some r → r.place = none →
      yields s d r = false → let t := d.val * 144 + r.inp
      ∃ z, exec (.powerCreditGrant d) s = .next z ∧ tileSt z t = { tileSt s t with credit := true, waking := true, req := none } ∧
        fSlot z d = some s.now ∧ z.flt.proj = s.flt.proj + creditPower s d ∧ z.mem = s.mem ∧ ∀ v, v ≠ t → tileSt z v = tileSt s v) ∧
  ∀ (t : TileId) (s : State),
  let x := tileSt s t
  let d := dieOf t
  (x.waking = true → ∃ z, exec (.tileWake t) s = .next z ∧ (tileSt z t).mode = .active ∧ (tileSt z t).waking = false ∧
    (tileSt z t).credit = x.credit ∧ z.mem = s.mem ∧ ∀ v, v ≠ t.val → tileSt z v = tileSt s v) ∧
  (x.mode = .active → x.credit = true → runsFiller x = true → slotOpen s d = true → s.flt.test = none → railIdle s d = true →
    releaseOk s d false = true → holdRelease s d = true → fDeclined s d = false ∨ longestFiller s t = true →
    (fireable s t = true → ∃ z, exec (.creditTakeBack t) s = .next z ∧ z.tiles = s.tiles ∧ fDeclined z d = true ∧
      z.mem = s.mem ∧ z.flt.proj = s.flt.proj) ∧
    (fireable s t = false → ∃ z, exec (.creditTakeBack t) s = .next z ∧ (tileSt z t).credit = false ∧
      (tileSt z t).filler = none ∧ ((tileSt z t).mode = .rest ∨ (tileSt z t).mode = .off) ∧
      fSlot z d = some s.now ∧ z.flt.proj = s.flt.proj - creditPower s d ∧
      fDeclined z d = false))

/-- R29, R316, R319, R340: a die-level step at the head of its rail uses a slot for each of its credits and takes effect
with its last: the duty or the pace limit moves by one, within 1 and 16, or the die goes down one frequency point with the
voltage of that point, or up to its next point's voltage. -/
def Obligations.DieSteps : Prop :=
  ∀ (d : Fin 2) (s : State) (r : Req) (i : Nat) (x : DieStep), slotOpen s d = true → railHead s d = some r →
  r.place = some i → s.flt.steps[i]? = some x → x.up = false ∨ begun x = true ∨ yields s d r = false → x.die = d →
  let e := x.die
  ∃ z, exec (.dieStepSlot d) s = .next z ∧ fSlot z d = some s.now ∧
    z.flt.proj = s.flt.proj + (if x.up then (creditPower s d : Int) else 0) ∧ z.mem = s.mem ∧ z.tiles = s.tiles ∧
    (1 < x.left → z.flt.steps = lset s.flt.steps i { x with left := x.left - 1 } ∧ fDuty z e = fDuty s e ∧
      fPace z e = fPace s e ∧ fPoint z e = fPoint s e) ∧
    (x.left ≤ 1 → z.flt.steps = s.flt.steps.eraseIdx i ∧
      (x.kind = 0 → fDuty z e = if x.up then min 16 (fDuty s e + 1) else max 1 (fDuty s e - 1)) ∧
      (x.kind = 1 → fPace z e = if x.up then min 16 (fPace s e + 1) else max 1 (fPace s e - 1)) ∧
      (x.kind = 2 → x.up = false → fPoint z e = fPoint s e - 1 ∧
        odv z (oDIE_VCORE + e) = voltAt s e ((tfind s.flt.settle e).getD (fPoint s e - 1)) ∧ odv z (oDIE_FREQ_MHZ + e) = 600 + 100 * (fPoint s e - 1)) ∧
      (x.kind = 2 → x.up = true → fPoint z e = fPoint s e ∧ odv z (oDIE_VCORE + e) = voltAt s e (min 15 (fPoint s e + 1))))

/-- R110, R122, R124: a resting tile with empty queues begins pupa entry when its dwell runs out, and entry commits unless
it has been abandoned; a load completes with each section in its program store and zeros beyond it; an exception ends the
run with its code and leaves the graph loaded, every task of it stopped. -/
def Obligations.PupaLoadsAndExceptions : Prop :=
  ∀ (t : TileId) (s : State),
  let x := tileSt s t
  (x.mode = .rest → x.waking = false → x.req = none → x.run = none → queuesEmpty x = true →
    odv s (oPUPA_DWELL_US + dieOf t) ≠ 0 → exec (.pupaDwellExpiry t) s = .next (setTile s t { x with entry := true })) ∧
  (odv s (oPUPA_DWELL_US + dieOf t) = 0 ∨ queuesEmpty x = false → exec (.pupaDwellExpiry t) s = .next s) ∧
  (x.entry = false ∨ queuesEmpty x = false ∨ x.req ≠ none → exec (.pupaEntryCommit t) s = .next s) ∧
  (x.entry = true → x.mode = .rest → x.waking = false → x.req = none → queuesEmpty x = true → ∃ z, exec (.pupaEntryCommit t) s = .next z ∧
    tileSt z t = { x with mode := .pupa, entry := false } ∧ z.mem = s.mem ∧ ∀ v, v ≠ t.val → tileSt z v = tileSt s v) ∧
  ∀ (h : Nat) (g : GraphSt), tfind s.graphs h = some g →
  (∀ ring idx, g.loading = some (ring, idx) → (graphTiles g).Nodup → ∃ z, exec (.graphLoadComplete h) s = .next z ∧
    tfind z.graphs h = some { g with loading := none } ∧ z.cmds = (finish ring idx ⟨0, 0, h, 0⟩ s).cmds ∧
    z.mem = s.mem ∧ z.meas.gen = (s.meas.gen + 1) % 2 ^ 32 ∧
    ∀ e, e ∈ g.tiles → ∀ a, memByte (tileSt z e.1).store a = if a < 0x3CB80 ∧ a < e.2.length then e.2.getD a 0 else 0) ∧
  (∀ u code, g.exc = some (u, code) → g.unload = none → ∃ z, exec (.graphExceptionStop h) s = .next z ∧
    tfind z.graphs h = some { g with run := none, exc := none, wrote := [], ueTiles := [], pend := [] } ∧
    (∀ r, g.run = some r → z.cmds = (finish r.ring r.idx ⟨code, r.flags % 256, 0, 0⟩ s).cmds) ∧
    ∀ v, v ∈ graphTiles g → (tileSt z v).run = none ∧ (tileSt z v).mats = [] ∧ (tileSt z v).dmas = [] ∧
      (tileSt z v).irrs = [] ∧ (tileSt z v).stopped = none)

/-! ### Memory upkeep and the host's window -/

/-- R175 to R177, R192: with the main domain down none of these does anything; with it up, a channel idle for 100 ns powers
down and one idle for LP_SR_IDLE_US refreshes itself, and a channel runs its oscillator and latches its calibration; a
device's refresh multiplier and its heat are recorded, and the largest of its package is shown; a scrub read goes to the next
address of its level and corrects what it finds there, among the errors that have struck since the last one, and records the
rest, of which those of a data path are gone (log entry 41). -/
def Obligations.MemoryUpkeep : Prop :=
  ∀ (c : Fin 64) (dev : Fin 128) (rate : Nat) (hot : Bool) (e : ScrubIn) (s : State),
  (mainUp s = false → exec (.channelPowerDown c) s = .next s ∧ exec (.channelSelfRefresh c) s = .next s ∧
    exec (.wck2dqOscillatorRun c) s = .next s ∧ exec (.zqCalibrationLatch c) s = .next s ∧
    exec (.mr4Poll dev rate hot) s = .next s ∧ exec (.scrubRead e) s = .next s) ∧
  (mainUp s = true →
    (exec (.channelPowerDown c) s = .next (if channelSt s c = 0 ∧ chanIdle s c 100 = true then setChannel c 1 s else s)) ∧
    (exec (.channelSelfRefresh c) s = .next (if channelSt s c ≠ 2 ∧ odv s oLP_SR_IDLE_US ≠ 0 ∧
      chanIdle s c (1000 * odv s oLP_SR_IDLE_US) = true then setChannel c 2 s else s)) ∧
    (exec (.wck2dqOscillatorRun c) s = .next { s with ecc := { s.ecc with wckLast := tput s.ecc.wckLast c s.now } }) ∧
    (exec (.zqCalibrationLatch c) s = .next { s with ecc := { s.ecc with zqLast := tput s.ecc.zqLast c s.now } }) ∧
    (∃ z, exec (.mr4Poll dev rate hot) s = .next z ∧ z.ecc.mr4 = tput s.ecc.mr4 dev rate ∧
      (dev.val ∈ z.ecc.hotDevs ↔ hot = true) ∧ (∀ d, d ≠ dev.val → (d ∈ z.ecc.hotDevs ↔ d ∈ s.ecc.hotDevs)) ∧
      odv z (oLPDDR_MR4_RATE + dev / 8) =
        lmax ((List.range 8).map fun i => tget z.ecc.mr4 (8 * (dev / 8) + i) 0) % 256) ∧
    (scrubPeriod s (e.level + 1) = 0 → exec (.scrubRead e) s = .next (strike e.upsets s)) ∧
    (scrubPeriod s (e.level + 1) ≠ 0 →
      let l := e.level.val + 1
      let a := tget s.ecc.scrubPos l ((levelAreas l).headD (0, 0)).1
      ∃ z, exec (.scrubRead e) s = .next z ∧ z.ecc.scrubPos = tput s.ecc.scrubPos l (scrubNext l a) ∧ z.mem = s.mem ∧
        ∀ m, m ∈ z.ecc.marks ↔ (m ∈ e.upsets ∨ m ∈ s.ecc.marks) ∧
          ¬(markIn m a (scrubLine l) = true ∧ (m.correct = true ∨ m.level = 4))))

/-- R275, R277: a host access through BAR2 reaches the module address that BAR2_BASE and its offset give: it is answered as
unsupported, which AER records (log entry 122), in D3hot and in confidential mode; where the window is closed a read is, and a
write is dropped and counted; else a read is answered with the bytes there, and every byte written reads as written and every
other as before. -/
def Obligations.HostWindow : Prop :=
  ∀ (off : Fin 17179869184) (n : Nat) (bs : List Byte) (s : State),
  (unsupported s).out = .hostUr :: s.out ∧ bitAt (unsupported s).hst.cfg.aer 20 = true ∧
  let a := s.hst.bar2 + off
  let up := s.hst.linkUp = true ∧ s.hst.d3 = false ∧ confidential s = false
  (s.hst.linkUp = false → exec (.bar2Read off n) s = .next s ∧ exec (.bar2Write off bs) s = .next s) ∧
  (s.hst.linkUp = true → s.hst.d3 = true ∨ confidential s = true →
    exec (.bar2Read off n) s = .next (unsupported s) ∧ exec (.bar2Write off bs) s = .next (unsupported s)) ∧
  (up → bar2Closed s a n = true → exec (.bar2Read off n) s = .next (unsupported s)) ∧
  (up → bar2Closed s a n = false → ∀ m, ueRead s a n = some m →
    exec (.bar2Read off n) s = .next (unsupported (ueRecord m noCmd (touchChannel a n (correctIn a n s))))) ∧
  (up → bar2Closed s a n = false → ueRead s a n = none → ∃ z, exec (.bar2Read off n) s = .next z ∧
    z.out = .hostRead (memRead s.mem a n) :: s.out ∧ z.mem = s.mem) ∧
  (up → bar2Closed s a bs.length = true → ∃ z, exec (.bar2Write off bs) s = .next z ∧ z.mem = s.mem ∧ z.out = s.out ∧
    odv z oBAR2_DROPPED = (odv s oBAR2_DROPPED + 1) % 2 ^ 64) ∧
  (up → bar2Closed s a bs.length = false → ueWrite s a bs.length = none → ∃ z, exec (.bar2Write off bs) s = .next z ∧
    ∀ x, memByte z.mem x = if a ≤ x ∧ x < a + bs.length then bs.getD (x - a) 0 else memByte s.mem x)

/-! ### Packets and the switch -/

/-- R210: every header field of a packet within its width is read back from the packet's header slot. -/
def Obligations.HeaderRoundTrip : Prop :=
  ∀ p : Pkt, p.dst < 2 ^ 16 → p.src < 2 ^ 16 → p.vc < 8 → p.last < 32 → p.age < 2 ^ 12 → p.op < 256 → p.pslots < 32 →
  p.lastBytes < 64 → p.rsv < 256 → p.rtag < 2 ^ 16 → p.ea < 2 ^ 16 → p.opId < 2 ^ 16 → p.gaddr < 2 ^ 64 →
  p.operand < 2 ^ 64 → pktOfHeader (headerOf p) = { p with data := [] }

/-- R211, R229: a whole packet that arrives goes to the switch, or where its header breaks the rules is answered with the
notice of 0x0352; an output grants a packet that no other candidate has waited longer than: it leaves its switch half for
the other half over the die bridge, for a die or an engine of the module, or for its port, whose credit on the packet's
channel falls by the packet's slots; one whose buffer holds an error that cannot be corrected goes nowhere. Which half and
which input of the module a packet goes by is log entry 120's choice. -/
def Obligations.PacketsInTheSwitch : Prop :=
  (∀ (port : Fin 16) (s : State),
    (takePacket (portOf s port).rxs = none → exec (.packetArrival port) s = .next s) ∧
    ∀ p rest, takePacket (portOf s port).rxs = some (p, rest) → ∃ z, exec (.packetArrival port) s = .next z ∧
      (portOf z port).rxs = rest ∧ z.mem = s.mem ∧ z.fab.ej = s.fab.ej ∧
      z.fab.sw = s.fab.sw ++
        [if pktBad s p then ⟨32, none, false, noticePkt 0x0352 p s⟩ else ⟨port, some (port.val, p.vc), false, p⟩]) ∧
  ∀ (out : Fin 24) (s : State), (∀ q, q ∈ s.fab.sw → outputOf s q.pkt ≠ none) →
  let cs := candsOf s out 0 s.fab.sw []
  (cs = [] → exec (.outputArbitrationGrant out) s = .next s) ∧
  ∀ c, bestCand s (tget s.fab.rot out 0) cs = some c →
    (∀ b, b ∈ cs → waitOf s b.q.pkt.age ≤ waitOf s c.q.pkt.age) ∧
    let q := { c.q with sat := c.q.sat || waitOf s c.q.pkt.age == 2047 }
    let across : Bool := out.val == 18 || out.val == 19
    (∀ m, ueRead s (switchCell c.q.inp) 4 = some m → ∃ z, exec (.outputArbitrationGrant out) s = .next z ∧
      z.fab.ej = s.fab.ej ∧ ∀ p, p < 16 → (portOf z p).txq = (portOf s p).txq) ∧
    (ueRead s (switchCell c.q.inp) 4 = none → ∃ z, exec (.outputArbitrationGrant out) s = .next z ∧ z.mem = s.mem ∧
      z.fab.sw = s.fab.sw.eraseIdx c.at_ ++ (if across then [{ q with inp := 34 + (1 - out.val % 2) }] else []) ∧
      z.fab.ej = s.fab.ej ++ (if 16 ≤ out.val && !across then [{ q with pkt := c.out }] else []) ∧
      (out.val < 16 →
        (portOf z out).txq = (portOf s out).txq ++ [⟨{ q with from_ := none }, c.out, 0⟩] ∧
        portCredit z out c.out.vc = portCredit s out c.out.vc - pktLen c.out))

/-! ### The ports -/

/-- R202, R221, R223: how a port comes up: light in DARK starts training, training gives its widest group of lanes, the
exchange of identities holds it or starts the keys, and each phase that runs out leaves it DARK, FAILED or DISABLED. -/
def Obligations.PortBringUp : Prop :=
  ∀ (p : Fin 16) (ok : Fin 256) (i : IdentIn) (s : State),
  let st := portState s p
  let reason := holdReason s p i (fibreLen (pv s oFEC_ACTIVE p) i.probes)
  (st = 1 → s.mod.pins.laserOk = true → ∃ z, exec (.lightDetected p) s = .next z ∧ portState z p = 2 ∧
    (portOf z p).txOn = 2 ∧ (portOf z p).replay = []) ∧
  (st ≠ 1 ∨ s.mod.pins.laserOk = false → exec (.lightDetected p) s = .next s) ∧
  (st = 1 → s.mod.pins.laserOk = true → (portOf s p).txOn = 0 ∨ (portOf s p).probeAt + 250000000 ≤ s.now →
    exec (.portProbe p) s = .next (setPort p { portOf s p with txOn := 1, probeAt := s.now } s)) ∧
  (st = 2 → ∀ g, pickGroup ok 8 = some g → ∃ z, exec (.trainingComplete p ok) s = .next z ∧ portState z p = 3 ∧
    pv z oLANE_SET p = g ∧ pv z oLANES_ACTIVE p = popcount 8 g ∧ pv z oFEC_ACTIVE p = pv s oFEC_MODE p) ∧
  (st ≠ 2 → exec (.trainingComplete p ok) s = .next s ∧ exec (.trainingTimeout p) s = .next s) ∧
  (st = 2 → ∃ z, exec (.trainingTimeout p) s = .next z ∧ portState z p = 1 ∧ (portOf z p).txOn = 0) ∧
  (st = 3 → i.aligned = false → ∃ z, exec (.identExchange p i) s = .next z ∧
    portState z p = (if reason = 0 then 5 else 4) ∧ pv z oHOLD_REASON p = reason ∧ pv z oNEIGHBOUR_NODE p = i.node ∧
    pv z oNEIGHBOUR_MACHINE p = i.machine) ∧
  (st ≠ 3 → exec (.identExchange p i) s = .next s) ∧
  (st = 4 → ∃ z, exec (.identRepeat p i) s = .next z ∧ portState z p = (if reason = 0 then 5 else 4) ∧
    pv z oHOLD_REASON p = reason) ∧
  (st ≠ 4 → exec (.identRepeat p i) s = .next s) ∧
  (st = 5 → ∃ z, exec (.keyingTimeout p) s = .next z ∧ portState z p = 8) ∧
  (st ≠ 5 → exec (.keyingTimeout p) s = .next s) ∧
  (st = 8 → ∃ z, exec (.failedPortTimeout p) s = .next z ∧ portState z p =
    (if pv s oPORT_ENABLE p = 1 ∧ inDims s p = true ∧ s.mod.pins.laserOk = true ∧ pllsUp s = true ∧ modState s ≠ 4
      then 1 else 0)) ∧
  (st ≠ 8 → exec (.failedPortTimeout p) s = .next s)

/-- R231 to R234: how a port leaves service: a loss makes it FAILED, counts it and forgets its flits, whether light, a
retrain, a drain or the peer fails it; a retrain leaves it UP on the widest healthy group, its unacknowledged flits to be
sent again, unless its drain ends with it; a lane that fails starts a retrain; a peer that goes down leaves it DARK. An
ordered stop that waits for the port goes on (R508). -/
def Obligations.PortLossAndRetrain : Prop :=
  ∀ (p : Fin 16) (ok : Fin 256) (lane : Fin 8) (s : State),
  let st := portState s p
  let x := portOf s p
  let good := (List.range 8).foldl (fun a n => if bitAt ok n ∧ n ∉ x.lanesBad then a + 2 ^ n else a) 0
  let g := pickGroup good (if x.widen then 8 else pv s oLANES_ACTIVE p)
  let lossBy := fun (c : Instr) => c = .portLost p ∨ c = .peerFailureNotice p ∨ (c = .lossOfLight p ∧ 6 ≤ st ∧ st ≤ 7) ∨
    (c = .retrainTimeout p ∧ st = 7) ∨ (c = .drainTimeout p ∧ x.drain = true) ∨
    (c = .retrainComplete p ok ∧ st = 7 ∧ g = none)
  (∀ c, lossBy c → (st = 6 ∨ st = 7 → ∃ z, exec c s = .next z ∧ portState z p = 8 ∧
      pv z oPORT_LOSSES p = (pv s oPORT_LOSSES p + 1) % 2 ^ 64 ∧ (portOf z p).replay = [] ∧ (portOf z p).txq = [] ∧
      (portOf z p).txOn = 0 ∧ z.mem = s.mem) ∧ (st ≠ 6 → st ≠ 7 → exec c s = .next (stopWhenRest s))) ∧
  (2 ≤ st → st ≤ 5 → ∃ z, exec (.lossOfLight p) s = .next z ∧ portState z p = 1 ∧ (portOf z p).txOn = 0) ∧
  (st ≠ 7 → exec (.retrainTimeout p) s = .next (stopWhenRest s) ∧
    exec (.retrainComplete p ok) s = .next (stopWhenRest s)) ∧
  (x.drain = false → exec (.drainTimeout p) s = .next (stopWhenRest s)) ∧
  (st = 7 → ∀ k, g = some k → x.drain = true → x.replay = [] → x.txq = [] → ∃ z, exec (.retrainComplete p ok) s = .next z ∧
    (portState z p = 0 ∨ portState z p = 1)) ∧
  (st = 7 → ∀ k, g = some k → x.drain = false ∨ x.replay ≠ [] ∨ x.txq ≠ [] → ∃ z, exec (.retrainComplete p ok) s = .next z ∧ portState z p = 6 ∧
    pv z oLANE_SET p = k ∧ pv z oFEC_ACTIVE p = x.fecNext ∧
    portOf z p = { x with again := if x.replay = [] then none else some 0, widen := false, corr := [] }) ∧
  (st = 6 → ∃ z, exec (.laneFailure p (some lane)) s = .next z ∧ portState z p = 7 ∧
    lane.val ∈ (portOf z p).lanesBad ∧ (portOf z p).fecNext = pv s oFEC_ACTIVE p ∧ (portOf z p).replay = x.replay) ∧
  (st = 6 → ∃ z, exec (.laneFailure p none) s = .next z ∧ portState z p = 7 ∧ (portOf z p).fecNext = 0) ∧
  (st = 6 ∨ st = 7 → ∃ z, exec (.goingDownNotice p) s = .next z ∧ portState z p = 1 ∧ (portOf z p).replay = []) ∧
  (st ≠ 6 → st ≠ 7 → exec (.goingDownNotice p) s = .next (stopWhenRest s))

/-- R201, R224, R225, R238, R539: the front LEDs show the first pattern that applies (no management owner is read as R512's
condition: log entry 130); LASER_OK's fall disables every port; a feed that opens is latched and takes LASER_EN down until
LASER_RESTART; a low feed is reported; the peer's LOCATE and the class of a port's connector are kept. -/
def Obligations.LaserFeedAndConnectors : Prop :=
  ∀ (e : Fin 8) (power : Int) (p : Fin 16) (on : Bool) (i : LaneIn) (s : State),
  let m := modState s
  let led := fun (c : LedColour) (h : Nat) => statusLed s = ⟨c, h⟩
  (s.mod.auxUp = false → led .dark 0 ∧ powerLed s = ⟨.dark, 0⟩) ∧
  (s.mod.auxUp = true → powerLed s = ⟨.green, 0⟩ ∧ (m = 6 → led .red 0) ∧ (m ≠ 6 → m = 5 ∨ ownerless s = true → led .red 4) ∧
    (m ≠ 5 → m ≠ 6 → ownerless s = false → (m = 3 → led .white 2) ∧
      (m ≠ 3 → odv s oLOCATE_ALL = 1 → led .blue 4) ∧
      (odv s oLOCATE_ALL ≠ 1 → (m = 1 → led .green 4) ∧ (m = 4 → led .green 1) ∧
        (m = 2 → if attention s = true then led .amber 2 else led .green 0) ∧ (m = 0 → led .amber 0)))) ∧
  (∃ z, exec .laserOkRise s = .next z ∧ z.mod.pins.laserOk = true ∧ z.mem = s.mem) ∧
  (∃ z, exec .laserOkFall s = .next z ∧ z.mod.pins.laserOk = false ∧ ∀ q, q < 16 → portState z q = 0) ∧
  (s.mod.pins.laserEn = true → s.mod.pins.laserOk = false →
    exec .laserOkTimeout s = .next (logSimple evLASER_OK_TIMEOUT srcModule s)) ∧
  (s.mod.pins.laserEn = false ∨ s.mod.pins.laserOk = true → exec .laserOkTimeout s = .next s) ∧
  (mainUp s = true → s.fab.latch = false → ∃ z, exec (.feedOpen e) s = .next z ∧ z.fab.latch = true ∧
    z.mod.pins.laserEn = false ∧ odv z oLASER_STATE = 3) ∧
  (∃ z, exec (.laserFeedLow e power) s = .next z ∧ odv z (oFEED_POWER + e) = uxt 16 power ∧ e.val ∈ z.fab.feedLow) ∧
  (exec (.locateForward p on) s = .next (setPort p { portOf s p with peerLoc := on } s)) ∧
  ∃ z, exec (.connHealthUpdate p i) s = .next z ∧ (3 ≤ portState s p → portState s p ≤ 6 →
    pv z oCONN_HEALTH p = healthClass i) ∧ (portState s p = 0 ∨ portState s p = 2 → pv z oCONN_HEALTH p = 6)

/-- R206, R207, R212, R214, R216: a port sends its next flit, new or again, and keeps it until it is acknowledged; it sends no
new one while its replay buffer is full or a key change is due. A flit in order is taken, with its acknowledgement, its credit
and its slots, and may end the port's drain; any other is dropped, and a NAK falls due for the first of them and for each
that is not whole; the eighth failure of the expected flit loses the port. -/
def Obligations.Flits : Prop :=
  ∀ (p : Fin 16) (vc : Fin 8) (cnt : Fin 1024) (f : FlitIn) (s : State),
  let x := portOf s p
  let st := portState s p
  let wait := x.again = none ∧ (1024 ≤ x.replay.length ∨ keyDue s p = true)
  let ctl := x.tx % 1024 = 1023
  let n := if st = 6 ∧ creditFits x vc cnt = true then cnt.val else 0
  let new := if ctl then ([], [], x.txq) else takeSlots (decide (st = 6)) 16 x.txq
  let bs := flitBytes s p x x.tx (if ctl then 1 else 0) new.1.length (if n = 0 then 0 else vc.val) n
    (if ctl then x.ctlq.headD [] else new.1.flatten)
  let whole := f.lost = 0 ∧ f.tagOk = true
  let next := f.fseq.val = x.rx % 65536
  let left := if f.ackV then ackTo f.ackSeq.val x.replay else x.replay
  let ends := x.drain = true ∧ st = 6 ∧ left = [] ∧ x.txq = []
  (portSends s p = false ∨ wait → exec (.flitTransmit p vc cnt) s = .next s) ∧
  (portSends s p = true → ¬wait → x.again = none → ∃ z, exec (.flitTransmit p vc cnt) s = .next z ∧
    z.out = .flit p bs :: s.out ∧ (portOf z p).tx = x.tx + 1 ∧ (portOf z p).replay = x.replay ++ [⟨x.tx, bs, new.2.1⟩] ∧
    (portOf z p).nak = false ∧ (portOf z p).rx = x.rx ∧ z.mem = s.mem) ∧
  (portSends s p = true → ∀ k g, x.again = some k → x.replay[k]? = some g →
    ∃ z, exec (.flitTransmit p vc cnt) s = .next z ∧ z.out = .flit p g.bytes :: s.out ∧ (portOf z p).tx = x.tx ∧
      (portOf z p).replay = x.replay ∧ (portOf z p).again = (if k + 1 < x.replay.length then some (k + 1) else none) ∧
      pv z oFLITS_RESENT p = (pv s oFLITS_RESENT p + 1) % 2 ^ 64 ∧ z.mem = s.mem) ∧
  (st < 2 ∨ 6 < st → exec (.flitReceive p f) s = .next (stopWhenRest s)) ∧
  (2 ≤ st → st ≤ 6 → ∃ z, exec (.flitReceive p f) s = .next z ∧ z.mem = s.mem ∧
    (whole → next → ¬ends → portState z p = st ∧ (portOf z p).rx = x.rx + 1 ∧ (portOf z p).bad = 0 ∧
      (portOf z p).gap = false ∧ (portOf z p).replay = left ∧
      (f.crCnt.val ≠ 0 → tget (portOf z p).credit f.crVc.val 0 = tget x.credit f.crVc.val 0 + f.crCnt.val) ∧
      (portOf z p).rxs = x.rxs ++ if f.ftype.val = 0 then (f.slots.take f.count.val).map (padTo 32) else []) ∧
    (whole → next → ends → portState z p = 0 ∨ portState z p = 1) ∧
    (whole → ¬next → x.bad < 8 → portState z p = st ∧ (portOf z p).rx = x.rx ∧ (portOf z p).rxs = x.rxs ∧
      (portOf z p).replay = x.replay ∧ (portOf z p).gap = true ∧ (portOf z p).nak = (x.nak || !x.gap)) ∧
    (¬whole → x.bad < 7 ∨ (¬next ∧ x.bad < 8) → portState z p = st ∧ (portOf z p).rx = x.rx ∧ (portOf z p).rxs = x.rxs ∧
      (portOf z p).replay = x.replay ∧ (portOf z p).gap = true ∧ (portOf z p).nak = true) ∧
    (st = 6 → ¬whole → next → 7 ≤ x.bad → portState z p = 8)) ∧
  exec (.nakRepeat p) s = .next (if x.gap then setPort p { x with nak := true } s else s)

/-- R217, R219, R454, R455: the keys of a port: at a frame where a change falls due the sender goes over to the key it has
installed, and a port without one is lost; past the midpoint of an interval it requests the next key; a certificate to
check, an offer to sign and an offer that answers a request (the first of an interval's second half is its scheduled change,
any other a forced one: log entry 139) wait for the security engine, which then lets the peer in, sends
the offer, or installs the key and acknowledges it; the receiver's key is installed as acknowledged; and the first keys of
both directions bring the port UP. The engine's queue is log entry 128's reading. -/
def Obligations.LinkKeys : Prop :=
  ∀ (p : Fin 16) (mode sec nonce len eff : Nat) (ok : Bool) (ph : Fin 2) (o : OfferIn) (s : State),
  let x := portOf s p
  let st := portState s p
  let i := 2 ^ odv s oREKEY_LOG2
  (keyDue s p = false → exec (.keyChange p) s = .next (stopWhenRest s)) ∧
  (keyDue s p = true → (x.txNext = none ∨ ∃ k f, x.txNext = some (k, f) ∧ x.tx < f) →
    exec (.keyChange p) s = .next (stopWhenRest (portLoss p false s))) ∧
  (keyDue s p = true → ∀ k f, x.txNext = some (k, f) → f ≤ x.tx → ∃ z, exec (.keyChange p) s = .next z ∧
    portOf z p = { x with txKey := k, txNext := none, keyAt := x.tx, phase := 1 - x.phase, asked := false,
                          forced := false } ∧
    pv z oKEY_CHANGES p = (pv s oKEY_CHANGES p + 1) % 2 ^ 64) ∧
  (st = 6 → x.asked = false → i / 2 ≤ x.tx % i → ∃ z, exec (.keyRequestDue p) s = .next z ∧ (portOf z p).asked = true ∧
    (portOf z p).nonce.isSome = true ∧ x.ctlq.length < (portOf z p).ctlq.length) ∧
  (st ≠ 6 ∨ x.asked = true ∨ x.tx % i < i / 2 → exec (.keyRequestDue p) s = .next s) ∧
  (2 ≤ st → st ≤ 4 → 1 ≤ len → len ≤ 8192 → ∃ z, exec (.cert p mode sec nonce len ok) s = .next z ∧
    odv z (oPEER_SEC_MODE + p) = sec % 256 ∧ let mine := mode = odv s oLINK_AUTH_MODE
    ((portOf z p).peerNonce = if mine ∧ mode = 2 then some nonce else x.peerNonce) ∧
    (mine → mode ≠ 2 → z.sec = (secAdd (.cert p nonce ok) s).sec) ∧ (¬mine ∨ mode = 2 → z.sec = s.sec)) ∧
  (st < 2 ∨ 5 < st ∨ len = 0 ∨ 8192 < len → exec (.cert p mode sec nonce len ok) s = .next s) ∧
  (st ≠ 6 → exec (.keyRequest p ph nonce) s = .next s) ∧
  (st = 6 → x.forced = false → i / 2 ≤ x.rx % i → x.sched ≠ nextInterval s x.rx → exec (.keyRequest p ph nonce) s =
    .next (secAdd (.offer p ph nonce (nextInterval s x.rx)) (setPort p { x with sched := nextInterval s x.rx } s))) ∧
  (st = 6 → x.forced = true → exec (.keyRequest p ph nonce) s = .next (secAdd (.offer p ph nonce 0) s)) ∧
  (st = 6 → x.forced = false → x.rx % i < i / 2 ∨ x.sched = nextInterval s x.rx → ∃ z, exec (.keyRequest p ph nonce) s = .next z ∧
    z.sec = (secAdd (.offer p ph nonce 0) s).sec ∧ (portOf z p).forced = true ∧ (portOf z p).asked = true) ∧
  (exec (.keyOffer p o) s =
    .next (if (st = 5 ∨ st = 6) ∧ offerOk s p o = true then secAdd (.install p o) s else s)) ∧
  (∀ r, s.sec.ops = .cert p nonce ok :: r → st ≠ 5 → ∃ z, exec .securityEngineOpComplete s = .next z ∧
    (portOf z p).peerNonce = if ok then some nonce else x.peerNonce) ∧
  (∀ r, s.sec.ops = .offer p ph nonce eff :: r → ∃ z k, exec .securityEngineOpComplete s = .next z ∧
    (portOf z p).rxNext = some (k, eff) ∧ x.ctlq.length < (portOf z p).ctlq.length) ∧
  (∀ r, s.sec.ops = .install p o :: r →
    (o.key = none ∨ o.sigOk = false ∨ offerOk s p o = false →
      exec .securityEngineOpComplete s = .next (secFill r s.sec.wait s)) ∧
    ∀ k, o.key = some k → o.sigOk = true → offerOk s p o = true →
      (st = 5 → ∃ z, exec .securityEngineOpComplete s = .next z ∧ (portOf z p).txKey = k ∧ (portOf z p).tx = 0 ∧
        portState z p = if x.ackRx then 6 else 5) ∧
      (st = 6 → ∃ z, exec .securityEngineOpComplete s = .next z ∧
        (portOf z p).txNext = some (k, if o.effective = 0 then next64k x.tx else o.effective) ∧
        (portOf z p).txKey = x.txKey)) ∧
  (x.rxNext = none → exec (.keyAck p ph eff) s = .next s) ∧
  ∀ k f, x.rxNext = some (k, f) →
    (st = 5 → ∃ z, exec (.keyAck p ph eff) s = .next z ∧ (portOf z p).rxKey = k ∧ (portOf z p).rx = 0 ∧
      portState z p = if x.ackTx then 6 else 5) ∧
    (st = 6 → exec (.keyAck p ph eff) s = .next (setPort p { x with rxNext := some (k, eff) } s))

/-! ### Remote operations and collectives -/

/-- R242 to R245, R250, R251: of each kind of request the oldest at its target is served, or, where no window allows it,
answered with a discard notice: a read with the bytes there; a write once its bytes stand in memory; an atomic with the old
value, the new one in its place; a hash packet with one result slot a key. An uncorrectable error is recorded, with what this
module knows of the packet's command (log entry 131), and noticed. -/
def Obligations.RemoteRequests : Prop :=
  ∀ s : State,
  let ats : List (Instr × Nat × (Nat → Nat → Nat → Nat)) :=
    [(.atAdd, 0x10, fun o x _ => (o + x) % 2 ^ 64), (.atAnd, 0x11, fun o x _ => o &&& x), (.atOr, 0x12, fun o x _ => o ||| x),
     (.atXor, 0x13, fun o x _ => o ^^^ x), (.atMin, 0x14, fun o x _ => if sxt 64 o ≤ sxt 64 x then o else x),
     (.atMax, 0x15, fun o x _ => if sxt 64 x ≤ sxt 64 o then o else x), (.atSwap, 0x16, fun _ x _ => x),
     (.atCas, 0x17, fun o x c => if o = c then x else o)]
  let hashes : List (Instr × Nat) := [(.remoteHprobe, 0x30), (.remoteHinsert, 0x31)]
  let rows := [(.rd, 1), (.wr, 2)] ++ ats.map (fun e => (e.1, e.2.1)) ++ hashes
  let took := fun (op : Nat) (p : Pkt) (s1 : State) => takeEjected (fun q => q.op == op) s = some (p, s1)
  let failed := fun (m : UeMet) (p : Pkt) (s1 y : State) => notice (ueCode m.level) p (ueRecord m (pktCmd s1 p) y)
  let reply := fun (z : State) (p : Pkt) (op : Nat) (bs : List Byte) => ∃ k : Pkt,
    z.fab.sw = s.fab.sw ++ [⟨32 + addrDie (gMaddr p.gaddr), none, false, k⟩] ∧ k.op = op ∧ k.dst = p.src ∧ k.rtag = p.rtag ∧ k.data = bs
  (∀ e, e ∈ rows → (takeEjected (fun q => q.op == e.2) s = none → exec e.1 s = .next s) ∧
    ∀ p s1, took e.2 p s1 → windowJudge s1 p ≠ 0 → exec e.1 s = .next (notice (windowJudge s1 p) p s1)) ∧
  (∀ p s1, took 1 p s1 → windowJudge s1 p = 0 →
    let a := gMaddr p.gaddr
    let n := p.operand % 1024
    (∀ m, ueRead s1 a n = some m → exec .rd s = .next (failed m p s1 (touchChannel a n (correctIn a n s1)))) ∧
    (ueRead s1 a n = none → ∃ z, exec .rd s = .next z ∧ reply z p 0x81 (memRead s.mem a n) ∧ z.mem = s.mem)) ∧
  (∀ p s1, took 2 p s1 → windowJudge s1 p = 0 →
    let a := gMaddr p.gaddr
    let n := p.data.length
    (∀ m, ueWrite s1 a n = some m → exec .wr s = .next (failed m p s1 (touchChannel a n (correctPart a n s1)))) ∧
    (ueWrite s1 a p.data.length = none → ∃ z, exec .wr s = .next z ∧ reply z p 0x82 [] ∧
      ∀ x, memByte z.mem x = if a ≤ x ∧ x < a + p.data.length then p.data.getD (x - a) 0 else memByte s.mem x)) ∧
  (∀ c op g, (c, op, g) ∈ ats → ∀ p s1, took op p s1 → windowJudge s1 p = 0 →
    let a := gMaddr p.gaddr
    let old := leNat (memRead s.mem a 8)
    let new := leBytes 8 (g old p.operand (fld p.data 0 8))
    (∀ m, ueRead s1 a 8 = some m → exec c s = .next (failed m p s1 (touchChannel a 8 (correctIn a 8 s1)))) ∧
    (ueRead s1 a 8 = none → ∃ z, exec c s = .next z ∧ (∃ k : Pkt, z.fab.sw = s.fab.sw ++ [⟨32 + addrDie a, none, false, k⟩] ∧ k.op = 0x90 ∧
      k.dst = p.src ∧ k.rtag = p.rtag ∧ k.operand = old) ∧
      ∀ x, memByte z.mem x = if a ≤ x ∧ x < a + 8 then new.getD (x - a) 0 else memByte s.mem x)) ∧
  ∀ c op, (c, op) ∈ hashes → ∀ p s1, took op p s1 → windowJudge s1 p = 0 →
    (∀ m y, serveHash (op == 0x31) p (gMaddr p.gaddr) s1 = .ue m y → exec c s = .next (failed m p s1 y)) ∧
    ((∀ m y, serveHash (op == 0x31) p (gMaddr p.gaddr) s1 ≠ .ue m y) → ∃ z k, exec c s = .next z ∧
      z.fab.sw = s.fab.sw ++ [⟨32 + addrDie (gMaddr p.gaddr), none, false, k⟩] ∧ k.op = 0xB0 ∧ k.dst = p.src ∧ k.rtag = p.rtag ∧
      k.data.length = 8 * ((p.data.length - 32) / if bitAt (fld p.data 0 8) 38 then 8 else 4))

/-- R143, R252: an addition that may be taken joins the exact sum of its accumulator's slot; when its slot is passed on, the
sum is added to the accumulator by its memory engine, which has it open, opens it in a free slot, or first writes another one
back, and every addition in it is acknowledged (the engines as log entry 117 reads them). -/
def Obligations.RemoteAdditions : Prop :=
  ∀ (a : Nat) (s : State),
  let can := fun (p : Pkt) => p.op == 0x20 && (windowJudge s p != 0 || (eaUnwire p.ea p.data).isNone
    || (tfind s.rem.slots (gMaddr p.gaddr)).isSome || decide (slotsUsed s (addrDie (gMaddr p.gaddr)) < 1024))
  (takeEjected can s = none → exec .remoteEaadd s = .next s) ∧
  (∀ p s1, takeEjected can s = some (p, s1) →
    let x := gMaddr p.gaddr
    let e := tget s1.rem.slots x ⟨Ea.zero, 0, s.now, []⟩
    (windowJudge s1 p ≠ 0 → exec .remoteEaadd s = .next (notice (windowJudge s1 p) p s1)) ∧
    (windowJudge s1 p = 0 → eaUnwire p.ea p.data = none → exec .remoteEaadd s = .next (notice 0x0330 p s1)) ∧
    (∀ v, windowJudge s1 p = 0 → eaUnwire p.ea p.data = some v → e.n < 63 → ∃ z, exec .remoteEaadd s = .next z ∧
      z.rem.slots = tput s1.rem.slots x { e with sum := (eaAdd e.sum v).1, n := e.n + 1, acks := e.acks ++ [(p, (eaAdd e.sum v).2)] } ∧
      z.mem = s.mem ∧ z.fab.sw = s.fab.sw) ∧
    (∀ v, windowJudge s1 p = 0 → eaUnwire p.ea p.data = some v → 63 ≤ e.n → ∃ z, exec .remoteEaadd s = .next z ∧
      tfind z.rem.slots x = none)) ∧
  (tfind s.rem.slots a = none → exec (.eaSlotFlush a) s = .next s) ∧
  ∀ e, tfind s.rem.slots a = some e →
    let opened := tget s.ecc.engines (engineOf a) []
    (ueRead s a 96 = none ∧ (opened.contains a = true ∨ opened.length < engineSlots a))
      ∨ (∀ m, m ∈ s.ecc.marks → m.correct = true) → ∃ z, exec (.eaSlotFlush a) s = .next z ∧
    z.rem.slots = tdel s.rem.slots a ∧ z.fab.sw.length = s.fab.sw.length + e.acks.length ∧
    ∀ x, memByte z.mem x = if a ≤ x ∧ x < a + 96
      then (eaBytes (eaAdd (eaOfBytes (memRead s.mem a 96)) e.sum).1).getD (x - a) 0 else memByte s.mem x

/-- R247 to R249, R251 to R253: a ROB's token reaches its front end, which reads the ROB, returns the token's credit and,
where a check fails, writes that code into it, and else sends its packets: of a read of one packet, one request to its node
under a free tag; a response or a notice without an outstanding packet is counted and dropped; one that answers a packet takes
it off its ROB, frees its tag twice REMOTE_TIMEOUT_US later, stores the data of a read or a hash packet and keeps an
atomic's old value, which the ROB's RESULT then shows; a notice or a timeout fails the packet with its code. -/
def Obligations.RemoteResponses : Prop :=
  (∀ (t : TileId) (oq : Fin 16) (k : Fin 4) (s : State),
    let p := fun (m : MeshTok) => m.src == t.val && m.oq == oq.val && m.k == k.val && m.tok.kind == 0
    let w := (oqDests (oqWord (tileSt s t) oq)).getD k 0
    (destCore w = false ∨ s.mesh.toks.find? p = none → exec (.robFetch t oq k) s = .next s) ∧
    ∀ m, destCore w = true → s.mesh.toks.find? p = some m →
      let off := m.tok.payload
      let fe := destDie w * 8 + destCol w
      let b := zeros 16 ++ memRead s.mem (tileBase t + off + 16) 48
      (feTakes s fe b = false → exec (.robFetch t oq k) s = .next s) ∧
      (feTakes s fe b = true → off % 64 = 0 → off < 4194304 → (∀ e, e ∈ s.ecc.marks → markIn e (tileBase t + off) 64 = false) →
        ∀ code o, robCheck s (some t) [] off (fld b 0x20 4) (rOp2 b % 2 ^ 22) b = some (code, o) →
        ∃ z, exec (.robFetch t oq k) s = .next z ∧ z.mesh.toks = leraseFirst p s.mesh.toks ∧
          memRead z.mem (tileBase t + off) 4 = leBytes 4 code) ∧
      (feTakes s fe b = true → ∃ z, exec (.robFetch t oq k) s = .next z ∧ z.mesh = ⟨leraseFirst p s.mesh.toks, s.mesh.credits⟩) ∧
      (feTakes s fe b = true → off % 64 = 0 → off < 4194304 → (∀ e, e ∈ s.ecc.marks → markIn e (tileBase t + off) 64 = false) →
        robCheck s (some t) [] off (fld b 0x20 4) (rOp2 b % 2 ^ 22) b = none → rOp b = 1 → gSpace (rGaddr b) = 0 →
        rBytes b ≤ 512 → (feSt s fe).robs = [] → (feSt s fe).tags = [] →
        ∃ z j, exec (.robFetch t oq k) s = .next z ∧ z.fab.sw = s.fab.sw ++ [⟨16 + fe, none, false, j⟩] ∧ j.op = 1 ∧
          j.dst = gNode (rGaddr b) ∧ j.gaddr = gNode (rGaddr b) * 2 ^ 42 + gMaddr (rGaddr b) ∧ j.operand = rBytes b ∧
          j.rtag = fe * 4096 + (feSt s fe).next % 4096 ∧ (feSt z fe).robs.length = 1 ∧ z.mem = s.mem)) ∧
  ∀ s : State,
  let took := fun (op : Nat) (p : Pkt) (s1 : State) => takeEjected (fun q => q.op == op) s = some (p, s1)
  let busy := fun (s1 : State) (fe : Nat) => ∀ q, q ∈ (feSt s1 fe).robs → q.todo = [] ∧ q.outs ≠ []
  let kept := fun (z : State) (fe i tag : Nat) (r : RobSt) => robAt z fe i = some r ∧
    tget (feSt z fe).tags tag 0 = s.now + 2 * (odv s oREMOTE_TIMEOUT_US * 1000)
  (∀ c op, (c, op) ∈ [(Instr.rdRsp, 0x81), (.wrAck, 0x82), (.atRsp, 0x90), (.eaAck, 0xA0), (.htRsp, 0xB0), (.discard, 0xF0)] →
    (takeEjected (fun q => q.op == op) s = none → exec c s = .next s) ∧
    ∀ p s1, took op p s1 → (c = .discard → p.gaddr = 0) → findOut s1 (p.rtag / 4096 % 16) (p.rtag % 4096) = none →
      exec c s = .next (odAdd s1 oLATE_RESPONSES 1)) ∧
  (∀ op p s1, took op p s1 → ∀ i q r,
    let fe := p.rtag / 4096 % 16
    let left := r.outs.filter (·.tag != q.tag)
    findOut s1 fe (p.rtag % 4096) = some (i, q) → robAt s1 fe i = some r → busy s1 fe →
    (left ≠ [] →
      (op = 0x81 → ueWrite s1 (pktLocal r q) q.len = none → ∃ z, exec .rdRsp s = .next z ∧
        kept z fe i q.tag { r with outs := left } ∧ memRead z.mem (pktLocal r q) q.len = padTo q.len p.data) ∧
      (op = 0x82 → ∃ z, exec .wrAck s = .next z ∧ kept z fe i q.tag { r with outs := left } ∧ z.mem = s.mem) ∧
      (op = 0xA0 → ∃ z, exec .eaAck s = .next z ∧ z.mem = s.mem ∧
        kept z fe i q.tag { r with outs := left, flags := fOr r.flags (p.operand % 256) }) ∧
      (op = 0xB0 → let n := q.len / rKeySize r.rob
        ueWrite s1 (r.res + 480 * q.n) (8 * n) = none → ∃ z c, exec .htRsp s = .next z ∧ c ≤ n ∧
        kept z fe i q.tag { r with outs := left, count := r.count + c } ∧
        memRead z.mem (r.res + 480 * q.n) (8 * n) = padTo (8 * n) p.data) ∧
      (op = 0xF0 → p.gaddr = 0 → p.operand % 65536 ≠ 0 → r.mems = [] → gSpace (rGaddr r.rob) ≠ 1 →
        ∃ z, exec .discard s = .next z ∧
          kept z fe i q.tag { r with outs := left, fails := r.fails ++ [(q.addr, p.operand % 65536)] })) ∧
    (op = 0x90 → left = [] → r.fails = [] → ∀ t, r.tile = some t →
      ueWrite s1 (tileBase t + r.off) 16 = none → ∃ z, exec .atRsp s = .next z ∧
        (feSt z fe).robs = (feSt s1 fe).robs.eraseIdx i ∧
        memRead z.mem (tileBase t + r.off) 16 = leBytes 4 0 ++ leBytes 4 r.count ++ leBytes 8 p.operand)) ∧
  (∀ p s1, took 0xF0 p s1 → p.gaddr ≠ 0 → findColl s1 (p.gaddr % 65536) (bitsOf p.gaddr 31 16) = none →
    exec .discard s = .next s1) ∧
  ∀ (fe : Fin 16) (tag : Fin 4096),
    (findOut s fe tag = none → exec (.remoteTimeout fe tag) s = .next s) ∧
    ∀ i q r, findOut s fe tag = some (i, q) → robAt s fe i = some r → busy s fe → r.mems = [] → gSpace (rGaddr r.rob) ≠ 1 →
      r.outs.filter (·.tag != q.tag) ≠ [] → ∃ z, exec (.remoteTimeout fe tag) s = .next z ∧
        kept z fe i q.tag { r with outs := r.outs.filter (·.tag != q.tag), fails := r.fails ++ [(q.addr, 0x0354)] }

/-- R263 to R269, R460: a step packet without a collective is held while the collective store of its switch half has room, one
with another signature ends its collective with 0x0520, one whose sums are malformed with 0x0330, one behind an uncorrectable
error of the store without its elements, and any other brings its elements to it, as many of a packed payload as its sender
sends one after the other and no more, for the bits that fill its last byte are no element. The collective waits on while
every chunk has passed its last step or lacks elements of its step, and not when all have; silence ends it with 0x0357. A
pace message already seen does nothing, a new one is held as its origin's duty for its group, or released at duty 16, and
expires after 5 ms; PACE_DUTY is the lowest held; this module tells each group of its collectives its own duty once, over
every dimension of the group's mask and under a number of its own. -/
def Obligations.CollectivesAndPace : Prop :=
  ∀ (id mask o : Fin 65536) (s : State),
  let know := fun (p : Pkt) => findColl s (p.gaddr % 65536) (bitsOf p.gaddr 31 16)
  let takes := fun (p : Pkt) => p.op == 0x40 && ((know p).isSome || decide (earlyBytes s (collHalf p) + p.data.length ≤ 2097152))
  let noted := fun (x : CollSt) (p : Pkt) (n : Nat) =>
    let slot := bitsOf p.gaddr 40 37 * 32 + bitsOf p.gaddr 36 32
    { x with got := tput x.got slot (tget x.got slot 0 + n), at_ := s.now }
  let waits := fun (x : CollSt) => (∃ k, k ∈ x.steps ∧ k < endStep x.desc) ∧ ∀ c, c < cN x.desc →
    endStep x.desc ≤ x.steps.getD c 0 ∨
      tget x.got (c * 32 + x.steps.getD c 0) 0 < expected x.desc (myRank s x.desc) c (x.steps.getD c 0)
  let done := fun (x : CollSt) => ∀ k, k ∈ x.steps → endStep x.desc ≤ k
  let gone := fun (z : State) (x : CollSt) => z.rem.colls = leraseFirst (collIs (cId x.desc) (cMask x.desc)) s.rem.colls ∧
    z.rem.early = s.rem.early ∧ z.fab.sw = s.fab.sw
  let ended := fun (z : State) (x : CollSt) (code : Nat) =>
    gone z x ∧ z.cmds = (finish x.ring x.idx ⟨code, x.flags % 256, 0, 0⟩ s).cmds
  (modState s ≠ 3 → takeEjected takes s = none → exec .collStep s = .next s) ∧
  (modState s = 3 → ∀ p s1, takeEjected (fun p => p.op == 0x40) s = some (p, s1) →
    exec .collStep s = .next (notice 0x0581 p s1)) ∧
  (modState s ≠ 3 → ∀ p s1, takeEjected takes s = some (p, s1) →
    (know p = none → ∃ z, exec .collStep s = .next z ∧ z.rem.early = s.rem.early ++ [p] ∧ z.mem = s.mem) ∧
    ∀ x, know p = some x →
      (bitsOf p.gaddr 63 41 ≠ collSig x.desc → ∃ z, exec .collStep s = .next z ∧ ended z x 0x0520) ∧
      (bitsOf p.gaddr 63 41 = collSig x.desc → ueIn s [(collCell (collHalf p), 2 ^ 24)] ≠ none →
        ∃ z, exec .collStep s = .next z ∧ gone z x)) ∧
  (modState s ≠ 3 → ∀ p s1, takeEjected takes s = some (p, s1) → ∀ x, know p = some x →
    bitsOf p.gaddr 63 41 = collSig x.desc → ueIn s [(collCell (collHalf p), 2 ^ 24)] = none →
    let k := bitsOf p.gaddr 36 32
    let c := bitsOf p.gaddr 40 37
    let e := p.operand
    (decide (k < cN x.desc) && cExact x.desc → (unwireAll 256 p.data = none → ∃ z, exec .collStep s = .next z ∧ ended z x 0x0330) ∧
      ∀ es, unwireAll 256 p.data = some es →
        let y := noted (foldSums x e es) p es.length
        (waits y → exec .collStep s = .next (setColl y s1)) ∧
        (done y → ueWrite s (cOut x.desc) (outBytes s x.desc) = none → ∃ z, exec .collStep s = .next z ∧ gone z x ∧
          z.cmds = (finish x.ring x.idx ⟨0, y.flags % 256, 0, 0⟩ s).cmds ∧ memRead z.mem (cOut x.desc) (outBytes s x.desc) = outData s y)) ∧
    (cN x.desc ≤ k ∨ cExact x.desc = false →
      let w := elemW (cOutFmt x.desc)
      let vs := (List.range (8 * p.data.length / w)).map fun i => (leNat p.data >>> (w * i)) % 2 ^ w
      let sent := fun (i : Nat) => e + i < cTotal x.desc ∧ sends x.desc (stepPeer x.desc (myRank s x.desc) c k) c k (e + i) = true
      ∀ n, n ≤ vs.length → (∀ i, i < n → sent i) → n = vs.length ∨ ¬sent n →
        let y := noted (foldVals (decide (k < cN x.desc)) x e (vs.take n)) p n
        (waits y → exec .collStep s = .next (setColl y s1)) ∧
        (done y → ueWrite s (cOut x.desc) (outBytes s x.desc) = none → ∃ z, exec .collStep s = .next z ∧ gone z x ∧
          z.cmds = (finish x.ring x.idx ⟨0, y.flags % 256, 0, 0⟩ s).cmds ∧ memRead z.mem (cOut x.desc) (outBytes s x.desc) = outData s y))) ∧
  (findColl s id mask = none → exec (.collTimeout id mask) s = .next s) ∧
  (∀ x, findColl s id mask = some x → ∃ z, exec (.collTimeout id mask) s = .next z ∧ ended z x 0x0357) ∧
  (odv s oCAP_PROPAGATE ≠ 1 ∨ s.rem.colls = [] → exec .paceSend s = .next s) ∧
  (odv s oCAP_PROPAGATE = 1 → ∃ z, exec .paceSend s = .next z ∧ z.rem.colls = s.rem.colls ∧
    z.rem.pace = s.rem.pace ∧ z.mem = s.mem ∧ ∃ ms : List Nat, ms.Nodup ∧ (∀ m, m ∈ ms ↔ ∃ x, x ∈ s.rem.colls ∧ cMask x.desc = m) ∧
      z.fab.sw = s.fab.sw ++ (List.range ms.length).flatMap fun i => (dimsOf (ms.getD i 0)).map fun j =>
        ⟨32, none, false, pacePacket s (paceOperand (odv s oNODE_ID) (ms.getD i 0) (ownDuty s) (s.rem.pseq + i)) j⟩) ∧
  (takeEjected (fun p => p.op == 0x50) s = none → exec .pace s = .next s) ∧
  (∀ p s1, takeEjected (fun p => p.op == 0x50) s = some (p, s1) →
    let from_ := p.operand % 65536
    let grp := bitsOf p.operand 31 16
    let duty := bitsOf p.operand 35 32 + 1
    let seq := bitsOf p.operand 43 36
    let again := s.rem.seen.any fun e => decide (s.now < e.2.2 + 5000000) && e.1 == from_ && e.2.1 == seq
    (from_ = odv s oNODE_ID ∨ again = true → exec .pace s = .next s1) ∧
    (from_ ≠ odv s oNODE_ID → again = false → ∃ z, exec .pace s = .next z ∧
      odv z oPACE_DUTY = lminD 16 (z.rem.pace.map (·.duty)) ∧ (from_, seq, s.now) ∈ z.rem.seen ∧
      z.fab.sw = s.fab.sw ++ ((dimsOf grp).filter fun j => decide (Nat.log2 (Nat.xor p.src (odv s oNODE_ID)) < j)).map
        (fun j => ⟨32, none, false, pacePacket s p.operand j⟩) ∧
      (duty ≠ 16 → ⟨from_, grp, duty, s.now⟩ ∈ z.rem.pace) ∧ (duty = 16 → ∀ h, h ∈ z.rem.pace → h.origin ≠ from_))) ∧
  ∃ z, exec (.paceExpiry o) s = .next z ∧ z.rem.seen = s.rem.seen ∧ z.fab = s.fab ∧ odv z oPACE_DUTY = lminD 16 (z.rem.pace.map (·.duty)) ∧
    ∀ h, h ∈ z.rem.pace ↔ h ∈ s.rem.pace ∧ (h.origin ≠ o.val ∨ s.now < h.at_ + 5000000)

/-! ### The host interface -/

/-- R275 to R278, R529: with the link down nothing but PERST_N and training moves the function; a reset of the host interface
ends every command, returns rings, contexts, buffer sets and BAR2_BASE to their reset values, and a lost link shows no speed
or width; D3hot holds completions, and D0 writes those held; an access of BAR0 that is not 4 or 8 bytes at its own alignment
is unsupported and stands in AER, a read is answered with the register, and a ring's base takes a write only while the ring is
disabled; the configuration space answers in D3hot too (the standard's fields as log entry 122 takes them). -/
def Obligations.HostFunctionStates : Prop :=
  ∀ (lvl flit : Bool) (sp : Fin 7) (w : Fin 9) (off : Fin 67108864) (bs : List Byte) (n : Nat) (s : State),
  let wiped := fun (h : HostSt) =>
    { h with bar2 := 0, rings := [], cqs := [], ctxs := [], sets := [], msix := [], d3 := false, cfg := CfgSt.initial }
  let dark := fun (z : State) => odv z oPCIE_LINK_SPEED = 0 ∧ odv z oPCIE_LINK_WIDTH = 0 ∧ odv z oPCIE_FLIT_MODE = 0
  let up := s.hst.linkUp
  (up = false → exec .functionLevelReset s = .next s ∧ exec .hotReset s = .next s ∧ exec .pcieLinkDown s = .next s ∧
    exec .pcieD3hotEntry s = .next s ∧ exec (.bar0RegisterWrite off (.write bs)) s = .next s) ∧
  (up = true → ∀ c, c = .functionLevelReset ∨ c = .hotReset → ∃ z, exec c s = .next z ∧ z.cmds = [] ∧ z.hst = wiped s.hst) ∧
  (up = true → ∃ z, exec .pcieLinkDown s = .next z ∧ z.cmds = [] ∧ z.hst = { wiped s.hst with linkUp := false } ∧ dark z) ∧
  (∃ z, exec (.perstAssert lvl) s = .next z ∧ z.mod.pins = { s.mod.pins with perstN := lvl } ∧
    (lvl = true → z.hst = s.hst ∧ z.cmds = s.cmds) ∧
    (lvl = false → z.hst = { wiped s.hst with linkUp := false } ∧ z.cmds = [] ∧ dark z)) ∧
  (up = true → exec .pcieD3hotEntry s = .next { s with hst := { s.hst with d3 := true } }) ∧
  (s.hst.d3 = false → exec .pcieD0Return s = .next s) ∧
  (s.hst.d3 = true → up = true → modState s ≠ 3 → ∃ z, exec .pcieD0Return s = .next z ∧ z.hst.d3 = false ∧
    ∀ c, c ∈ z.cmds ↔ c ∈ s.cmds ∧ c.done = none ∧ ∀ d, d ∈ s.cmds → d.done ≠ none → d.ring ≠ c.ring ∨ d.idx ≠ c.idx) ∧
  (s.hst.d3 = true → modState s = 3 → exec .pcieD0Return s = .next { s with hst := { s.hst with d3 := false } }) ∧
  (s.hst.d3 = true → up = false → ∃ z, exec .pcieD0Return s = .next z ∧ z.hst.d3 = false ∧ z.cmds = s.cmds ∧ z.out = s.out) ∧
  (s.mod.pins.perstN = false ∨ pllsUp s = false ∨ up = true ∨ sp.val = 0 ∨ (w.val ≠ 8 ∧ w.val ≠ 4 ∧ w.val ≠ 1) →
    exec (.pcieLinkUp sp w flit) s = .next s) ∧
  (s.mod.pins.perstN = true → pllsUp s = true → up = false → sp.val ≠ 0 → w.val = 8 ∨ w.val = 4 ∨ w.val = 1 →
    ∃ z, exec (.pcieLinkUp sp w flit) s = .next z ∧ z.hst = { s.hst with linkUp := true } ∧
      odv z oPCIE_LINK_SPEED = min sp.val (odv s oPCIE_SPEED_LIMIT) ∧ odv z oPCIE_LINK_WIDTH = w.val ∧
      odv z oPCIE_FLIT_MODE = if min sp.val (odv s oPCIE_SPEED_LIMIT) = 6 ∨ flit = true then 1 else 0) ∧
  (up = true → s.hst.d3 = true ∨ (bs.length ≠ 4 ∧ bs.length ≠ 8) ∨ off.val % bs.length ≠ 0 →
    exec (.bar0RegisterWrite off (.write bs)) s = .next (unsupported s)) ∧
  (up = true → s.hst.d3 = true ∨ (n ≠ 4 ∧ n ≠ 8) ∨ off.val % n ≠ 0 →
    exec (.bar0RegisterWrite off (.read n)) s = .next (unsupported s)) ∧
  (up = true → s.hst.d3 = false → off.val % 4 = 0 → ∃ z, exec (.bar0RegisterWrite off (.read 4)) s = .next z ∧
    z.out = .hostRead (leBytes 4 (bar0Val s off)) :: s.out ∧ z.hst = s.hst ∧ z.can = s.can) ∧
  (up = true → ∃ z, exec (.bar0RegisterWrite off (.cfgWrite .maxPayload n)) s = .next z ∧
    z.hst.cfg.mps = if n ≤ 2 then n else s.hst.cfg.mps) ∧
  (up = true → s.hst.d3 = false → bs.length = 4 →
    (off.val = 0x1004000 ∨ off.val = 0x1004004 → ∃ z, exec (.bar0RegisterWrite off (.write bs)) s = .next z ∧
      z.hst.bar2 = bitsOf (setHalf s.hst.bar2 ((off.val - 0x1004000) / 4) (leNat bs)) 41 34 * 2 ^ 34) ∧
    ∀ r : Fin 64, off.val = 0x1000000 + 64 * r.val → ∃ z, exec (.bar0RegisterWrite off (.write bs)) s = .next z ∧
      ringAt z r = if (ringAt s r).st = 0 then { ringAt s r with base := setHalf (ringAt s r).base 0 (leNat bs) }
        else { ringAt s r with ign := true })

/-- R281 to R285, R293 to R298, R504: a valid ring starts at index 0, an invalid or early one is refused with its code; a
poll fetches as many entries as the rules leave, in order, and a bad record or index stops the ring; a ring that is disabled
drains; a finished command's completion entry is written, after those of its completion ring that finished before it, and it
leaves the command store; a message goes out as counted. -/
def Obligations.RingsAndCompletions : Prop :=
  ∀ (r c : Fin 64) (p : PollIn) (f : Fin 2147483648) (h : Fin 9223372036854775808) (rd : HostRead)
    (cons : Fin 4294967296) (idx : Nat) (s : State),
  let g := ringAt s r
  let q := cqAt s c
  let bound := rgCq g
  let n := 2 ^ rgLog2 g
  let diff := (p.prod.val + 2 ^ 32 - g.cons) % 2 ^ 32
  let k := min (min diff 32) (min (n - g.cons % n) (min (2 ^ cqLog2 (cqAt s bound) - cqLoad s bound) (4096 - s.cmds.length)))
  let runs := g.st = 1 ∧ isReady s = true ∧ barOpen s = true
  let full := { q with ctl := h.val * 2 }
  let ring0 := { g with ctl := f.val * 2 }
  (¬runs → exec (.ringPoll r p) s = .next s) ∧
  (runs → p.rec_ ≠ .good ∨ n < diff → ∃ z, exec (.ringPoll r p) s = .next z ∧ z.cmds = s.cmds ∧
    ringAt z r = { g with st := 3, code := if p.rec_ ≠ .good then 0x0360 else 0x0563, err := g.cons }) ∧
  (runs → p.rec_ = .good → diff ≤ n → cqFull s bound = false → k ≠ 0 → rgConf g = false → p.fetch = .good →
    ∃ z, exec (.ringPoll r p) s = .next z ∧ ringAt z r = { g with cons := (g.cons + k) % 2 ^ 32 } ∧
      z.cmds.map (·.bytes) = s.cmds.map (·.bytes) ++
        (List.range k).map fun i => padTo 128 (p.entries.getD i [])) ∧
  (barOpen s = false → exec (.ringEnable r f) s = .next s ∧ exec (.ringDisable r f) s = .next s ∧
    exec (.cqEnable c h) s = .next s ∧ exec (.cqDisable c h) s = .next s) ∧
  (barOpen s = true →
    (g.st = 0 → ∃ z, exec (.ringEnable r f) s = .next z ∧ ringAt z r =
      if readyCode s ≠ 0 then { ring0 with code := readyCode s } else if ringOk s ring0 = false then { ring0 with code := 0x0562 }
      else { ring0 with code := 0, st := 1, cons := 0 }) ∧
    (g.st ≠ 0 → ∃ z, exec (.ringEnable r f) s = .next z ∧
      ringAt z r = if f.val = g.ctl / 2 then g else { g with ign := true }) ∧
    (g.st = 1 ∨ g.st = 3 → f.val = g.ctl / 2 → ∃ z, exec (.ringDisable r f) s = .next z ∧
      ringAt z r = { g with st := if (s.cmds.all fun c => c.ring != r.val) then 0 else 2 }) ∧
    (q.on = false → ∃ z, exec (.cqEnable c h) s = .next z ∧ cqAt z c =
      if readyCode s ≠ 0 then { full with code := readyCode s } else if cqOk s full = false then { full with code := 0x0562 }
      else { full with code := 0, on := true, prod := 0, cons := 0, since := 0 }) ∧
    (q.on = true → h.val = q.ctl / 2 → ∃ z, exec (.cqDisable c h) s = .next z ∧
      cqAt z c = if cqBound s c then { q with ign := true } else { q with on := false })) ∧
  (findCmd s r idx = none ∨ mayComplete s = false → exec (.commandComplete r idx) s = .next s) ∧
  (∀ e x, findCmd s r idx = some e → e.done = some x → mayComplete s = true → ∃ z, exec (.commandComplete r idx) s = .next z ∧
    let due := fun (d : CmdEnt) => d ∈ s.cmds ∧ d.done ≠ none ∧ rgCq (ringAt s d.ring) = bound ∧ d.doneOrd ≤ e.doneOrd
    (∀ d, d ∈ z.cmds ↔ d ∈ s.cmds ∧ ∀ u, due u → u.ring ≠ d.ring ∨ u.idx ≠ d.idx) ∧
    ((cqAt s bound).on = true → cqConf (cqAt s bound) = false → (cqAt z bound).prod =
      ((cqAt s bound).prod + (dueWith s e).length) % 2 ^ 32 ∧
      ((∀ u, due u → u = e) → (dueWith s e).length = 1 → ∃ w, w.take 4 = leBytes 4 (eTag e.bytes) ∧
        ∀ p, p ∈ hostTlps s ((cqAt s bound).base + (cqAt s bound).prod % 2 ^ cqLog2 (cqAt s bound) * w.length) w →
          .host p.1 p.2 false ∈ z.out))) ∧
  (q.on = false ∨ cqIrq q = false ∨ q.since = 0 → exec (.coalTimerExpiry c) s = .next s) ∧
  (q.on = true → cqIrq q = true → 0 < q.since → ∃ z, exec (.coalTimerExpiry c) s = .next z ∧ cqAt z c = { q with since := 0 } ∧
    (s.hst.linkUp = true → s.hst.cfg.msixOn = true → msixHeld s (cqVector q) = false → z.out = .msix (cqVector q) :: s.out)) ∧
  (q.on = false ∨ cqFull s c = false → exec (.consRecordRead c rd cons) s = .next s) ∧
  (q.on = true → cqFull s c = true → isReady s = true → barOpen s = true →
    ∃ z, exec (.consRecordRead c rd cons) s = .next z ∧ cqAt z c = if rd = .good then { q with cons := cons.val } else q)

/-- R286 to R292: a command that has started and whose work has not begun is done by its own row, and by no other; the next
command of a ring starts when nothing holds it, and ends at once with the first check that fails. NOP succeeds; a buffer
set, a window table and a shard map take effect once they pass their checks; a copy moves its bytes and returns their
number. -/
def Obligations.HostCommands : Prop :=
  ∀ (ring : Fin 64) (idx : Nat) (h : HostIn) (s : State),
  let rows : List (Nat × Instr) :=
    [(0x01, .nop ring idx), (0x02, .bufsetDefine ring idx h), (0x03, .dmaCopy ring idx h), (0x10, .graphLoad ring idx h),
     (0x11, .graphStart ring idx), (0x12, .graphUnload ring idx), (0x20, .remoteOp ring idx), (0x21, .collective ring idx),
     (0x22, .windowsLoad ring idx h), (0x23, .shardMapLoad ring idx h)]
  let bad := fun (code off : Nat) => (⟨code, 0, 0, if code / 256 = 1 then off else 0⟩ : CmdRes)
  let ends := fun (z : State) (c : CmdEnt) (x : CmdRes) => ∃ e, findCmd z ring idx = some e ∧ e.bytes = c.bytes ∧
    e.set = c.set ∧ e.begun = true ∧ e.done = some x ∧ e.doneAt = s.now
  (∀ op i, (op, i) ∈ rows → findCmd s ring idx = none ∨ (∃ c, findCmd s ring idx = some c ∧
    (eOp c.bytes ≠ op ∨ c.started = false ∨ c.begun = true ∨ c.done ≠ none)) → exec i s = .next s) ∧
  (nextCmd s ring = none → exec (.commandStart ring) s = .next s) ∧
  (∀ c, nextCmd s ring = some c →
    let set := if namesSet c.bytes (eSet c.bytes) then tget s.hst.sets (eSet c.bytes) [] else []
    (mayBegin s c = false ∨ earlier s c = true → exec (.commandStart ring) s = .next s) ∧
    (mayBegin s c = true → earlier s c = false → c.done = none → findCmd s ring c.idx = some c →
      ∃ z e, exec (.commandStart ring) s = .next z ∧ findCmd z ring c.idx = some e ∧ e.bytes = c.bytes ∧
      e.started = true ∧ e.set = set ∧
      e.done = (entryCheck s (rgConf (ringAt s ring)) c.bytes).map fun e => bad e.1 e.2)) ∧
  ∀ c, findCmd s ring idx = some c → c.started = true → c.begun = false → c.done = none →
    let b := c.bytes
    let c1 := { c with begun := true }
    let t := setCmd c1 s
    (eOp b = 0x01 → ∃ z, exec (.nop ring idx) s = .next z ∧ ends z c ⟨0, 0, 0, 0⟩ ∧ z.mem = s.mem) ∧
    (eOp b = 0x02 →
      (1023 < fld b 0x20 2 → ∃ z, exec (.bufsetDefine ring idx h) s = .next z ∧ ends z c (bad 0x0191 0x20)) ∧
      (fld b 0x20 2 ≤ 1023 → 1 ≤ fld b 0x22 2 → fld b 0x22 2 ≤ 64 → fld b 0x28 8 % 32 = 0 → fld b 0x30 8 = 0 →
        ∀ bs s1, hostFetch c1 (rgCtx (ringAt s ring)) (fld b 0x28 8) 0 (fld b 0x30 8) (32 * fld b 0x22 2) h t = (.data bs, s1) →
        (∀ e, bufList s1 bs 0 (fld b 0x22 2) = .error e → ∃ z, exec (.bufsetDefine ring idx h) s = .next z ∧
          ends z c (bad e.1 e.2)) ∧
        ∀ l, bufList s1 bs 0 (fld b 0x22 2) = .ok l → ∃ z, exec (.bufsetDefine ring idx h) s = .next z ∧
          if setInUse s ring (fld b 0x20 2) then ends z c (bad 0x0560 0) else ends z { c with set := l } ⟨0, 0, 0, 0⟩)) ∧
    (eOp b = 0x03 →
      let so := fld b 0x28 8
      let toff := fld b 0x30 8
      let n := fld b 0x38 5
      (pickBuf c (byteAt b 0x20) false = none → ∃ z, exec (.dmaCopy ring idx h) s = .next z ∧ ends z c (bad 0x0194 0x20)) ∧
      ∀ src dst, pickBuf c (byteAt b 0x20) false = some src → pickBuf c (byteAt b 0x21) true = some dst →
        (∀ e, copyCheck s src dst so toff n = some e → ∃ z, exec (.dmaCopy ring idx h) s = .next z ∧ ends z c (bad e.1 e.2)) ∧
        (copyCheck s src dst so toff n = none → src.host = false → ueRead s (src.addr + so) n = none →
          (dst.host = false → ueWrite s (dst.addr + toff) n = none → ∃ z, exec (.dmaCopy ring idx h) s = .next z ∧
            ends z c ⟨0, 0, n, 0⟩ ∧ ∀ x, memByte z.mem x =
              if dst.addr + toff ≤ x ∧ x < dst.addr + toff + n then memByte s.mem (x - (dst.addr + toff) + (src.addr + so))
              else memByte s.mem x) ∧
          (dst.host = true → confidential s = false → ∃ z, exec (.dmaCopy ring idx h) s = .next z ∧ ends z c ⟨0, 0, n, 0⟩ ∧
            (∀ p, p ∈ hostTlps s (dst.addr + toff) (memRead s.mem (src.addr + so) n) → .host p.1 p.2 true ∈ z.out) ∧
            z.mem = s.mem)) ∧
        (copyCheck s src dst so toff n = none → src.host = true → confidential s = false → h.rd = .good →
          dst.host = false → ueWrite s (dst.addr + toff) n = none → ∃ z, exec (.dmaCopy ring idx h) s = .next z ∧
            ends z c ⟨0, 0, n, 0⟩ ∧ memRead z.mem (dst.addr + toff) n = padTo n h.bytes)) ∧
    (eOp b = 0x22 → ∀ s1,
      (∀ e, tableData 64 h c1 t = (.error e, s1) → ∃ z, exec (.windowsLoad ring idx h) s = .next z ∧ ends z c (bad e.1 e.2) ∧
        z.rem.windows = s.rem.windows) ∧
      ∀ bs, tableData 64 h c1 t = (.ok bs, s1) → ∃ z, exec (.windowsLoad ring idx h) s = .next z ∧
        if ((List.range (fld b 0x22 2)).all fun i => windowEntryOk ((bs.drop (32 * i)).take 32))
        then ends z c ⟨0, 0, 0, 0⟩ ∧ z.rem.windows = windowList bs (fld b 0x22 2)
        else ends z c (bad 0x0191 0x28) ∧ z.rem.windows = s.rem.windows) ∧
    (eOp b = 0x23 → ∀ s1,
      (∀ e, tableData 2048 h c1 t = (.error e, s1) → ∃ z, exec (.shardMapLoad ring idx h) s = .next z ∧ ends z c (bad e.1 e.2)) ∧
      ∀ bs, tableData 2048 h c1 t = (.ok bs, s1) →
        (∀ code, shardList s1 bs [] (fld b 0x22 2) 0 = .error code → ∃ z, exec (.shardMapLoad ring idx h) s = .next z ∧
          ends z c (bad code 0x28) ∧ z.rem.maps = s.rem.maps) ∧
        ∀ m, shardList s1 bs [] (fld b 0x22 2) 0 = .ok m → ∃ z, exec (.shardMapLoad ring idx h) s = .next z ∧
          ends z c ⟨0, 0, 0, 0⟩ ∧ z.rem.maps = tput s.rem.maps (byteAt b 0x21) m)

/-- R103, R125, R126, R247, R248, R260, R286, R292: a graph image that passes its checks takes a handle and its tiles; a start
or an unload waits for those of its ring on its graph that come before it; a start puts its run on an idle graph, and waits
for one in progress or still to be stopped; an unload frees one at once, ending its run where it is forced, or waits for the
run; a remote atomic leaves the front end of core 0 of die 0 as one request under a free tag; a collective sends nothing but
its own step packets; each ends with the first check that fails. -/
def Obligations.HostWork : Prop :=
  ∀ (ring : Fin 64) (idx : Nat) (h : HostIn) (s : State) (c : CmdEnt),
  findCmd s ring idx = some c → c.started = true → c.begun = false → c.done = none →
    let b := c.bytes
    let c1 := { c with begun := true }
    let t := setCmd c1 s
    let bad := fun (code off : Nat) => (⟨code, 0, 0, if code / 256 = 1 then off else 0⟩ : CmdRes)
    let ends := fun (z : State) (x : CmdRes) => ∃ e, findCmd z ring idx = some e ∧ e.bytes = c.bytes ∧ e.set = c.set ∧
      e.begun = true ∧ e.done = some x ∧ e.doneAt = s.now
    let hd := fld b 0x20 2
    let turn := graphTurn t c1
    let rob := zeros 16 ++ (b.drop 0x20).take 48
    let d := (b.drop 0x20).take 64
    (eOp b = 0x10 →
      let off := fld b 0x28 8
      (pickBuf c (byteAt b 0x20) false = none → ∃ z, exec (.graphLoad ring idx h) s = .next z ∧ ends z (bad 0x0194 0x20)) ∧
      ∀ f, pickBuf c (byteAt b 0x20) false = some f →
        (offsetBad s f off = true → ∃ z, exec (.graphLoad ring idx h) s = .next z ∧ ends z (bad 0x0195 0x28)) ∧
        (offsetBad s f off = false →
          (∀ code, bufRegionBad s f off 64 = some code → ∃ z, exec (.graphLoad ring idx h) s = .next z ∧ ends z (bad code 0x28)) ∧
          (bufRegionBad s f off 64 = none → f.size < off → ∃ z, exec (.graphLoad ring idx h) s = .next z ∧
            ends z (bad 0x0101 0x28)) ∧
          (bufRegionBad s f off 64 = none → off ≤ f.size →
            let word := fun (o k : Nat) =>
              if f.host then fld (imageBytes c1 f off h t) o k else leNat (memRead s.mem (f.addr + off + o) k)
            let n := imageRead s f off (min (f.size - off) (imageSpan word))
            ∀ img s1, fetchData c1 f off n h t = (.data img, s1) →
            (∀ code, imageCheck s1 img n (imageReach s1 f off) = .error code → ∃ z, exec (.graphLoad ring idx h) s = .next z ∧
              ends z (bad code 0x20)) ∧
            ∀ secs, imageCheck s1 img n (imageReach s1 f off) = .ok secs → ∃ z k g,
              exec (.graphLoad ring idx h) s = .next z ∧ tfind z.graphs k = some g ∧ g.loading = some (ring.val, idx) ∧
              g.tiles = secs ∧ g.run = none ∧ (∀ e, e ∈ secs → (tileSt z e.1).graph = k) ∧ findCmd z ring idx = some c1))) ∧
    (eOp b = 0x11 →
      (turn = false → exec (.graphStart ring idx) s = .next (setCmd c t)) ∧
      (turn = true →
        (hd = 0 → loadedGraph s hd = none → ∃ z, exec (.graphStart ring idx) s = .next z ∧ ends z (bad 0x0191 0x20)) ∧
        (hd ≠ 0 → loadedGraph s hd = none → ∃ z, exec (.graphStart ring idx) s = .next z ∧ ends z (bad 0x0197 0x20)) ∧
        ∀ g, loadedGraph s hd = some g →
          (g.run ≠ none ∨ g.exc ≠ none → exec (.graphStart ring idx) s = .next (setCmd c t)) ∧
          (hd ≠ 0 → g.run = none → g.exc = none →
            (fld b 0x22 2 = 0 → ∃ z, exec (.graphStart ring idx) s = .next z ∧ ends z (bad 0x0102 0x22)) ∧
            (fld b 0x22 2 ≠ 0 → ∃ z wait, exec (.graphStart ring idx) s = .next z ∧
              tfind z.graphs hd = some { g with run := some ⟨ring, idx, eTag b, eLayer b, eOpId b, c.set,
                if eSeedOvr b then some (eSeed b) else none, fld b 0x22 2, 0, 0, s.now, false, []⟩, pend := wait } ∧
              findCmd z ring idx = some c1)))) ∧
    (eOp b = 0x12 →
      (turn = false → exec (.graphUnload ring idx) s = .next (setCmd c t)) ∧
      (turn = true →
        (hd = 0 → ∃ z, exec (.graphUnload ring idx) s = .next z ∧ ends z (bad 0x0191 0x20)) ∧
        (hd ≠ 0 → loadedGraph s hd = none → ∃ z, exec (.graphUnload ring idx) s = .next z ∧ ends z (bad 0x0197 0x20)) ∧
        ∀ g, hd ≠ 0 → loadedGraph s hd = some g →
          (1 < byteAt b 0x22 → ∃ z, exec (.graphUnload ring idx) s = .next z ∧ ends z (bad 0x0191 0x22)) ∧
          (g.run = none → byteAt b 0x22 = 0 → ∃ z, exec (.graphUnload ring idx) s = .next z ∧ ends z ⟨0, 0, 0, 0⟩ ∧
            tfind z.graphs hd = none) ∧
          (g.run ≠ none → g.unload = none → byteAt b 0x22 = 0 → ∃ z, exec (.graphUnload ring idx) s = .next z ∧
            tfind z.graphs hd = some { g with unload := some (ring.val, idx) } ∧ findCmd z ring idx = some c1) ∧
          (∀ r, g.run = some r → g.unload = none → byteAt b 0x22 = 1 → r.ring ≠ ring.val ∨ r.idx ≠ idx →
            ∃ z, exec (.graphUnload ring idx) s = .next z ∧ ends z ⟨0, 0, 0, 0⟩ ∧ tfind z.graphs hd = none))) ∧
    (eOp b = 0x20 →
      (feTakes s 0 rob = false → exec (.remoteOp ring idx) s = .next (setCmd c t)) ∧
      (feTakes s 0 rob = true →
        (∀ e, remoteCheck s c rob = some e → ∃ z, exec (.remoteOp ring idx) s = .next z ∧ ends z (bad e.1 e.2)) ∧
        (remoteCheck s c rob = none → opAtomic (rOp rob) = true →
          (feOuts s 0).length < 4096 → ∀ tag, freeTag s 0 = some tag → ∃ z k, exec (.remoteOp ring idx) s = .next z ∧
            z.fab.sw = s.fab.sw ++ [⟨16, none, false, k⟩] ∧ k.op = rOp rob ∧ k.dst = gNode (rGaddr rob) ∧ k.rtag = tag ∧
            k.operand = rOperand rob ∧ (feSt z 0).robs.length = (feSt s 0).robs.length + 1 ∧
            findCmd z ring idx = some c1))) ∧
    (eOp b = 0x21 →
      (∀ e, collCheck s d (hostRegionBad s c.set) = some e → ∃ z, exec (.collective ring idx) s = .next z ∧
        ends z (bad e.1 (0x20 + e.2))) ∧
      (collCheck s d (hostRegionBad s c.set) = none → ueRead s (cIn d) (inBytes d) = none → s.rem.early = [] →
        ∃ z l, exec (.collective ring idx) s = .next z ∧ z.fab.sw = s.fab.sw ++ l ∧
          ∀ q, q ∈ l → q.pkt.op = 0x40 ∧ q.pkt.gaddr % 65536 = cId d))

/-! ### The power envelope -/

/-- R310 to R319, R324, R334, R345: without auxiliary power nothing is estimated; with it an update forms the estimate from
the events that the state counted and those that the update brings of the other classes, the fixed blocks and the leakage,
moves the enforced cap down no faster than its slew, and limits power by every loop; a calibration takes the mean input power
of its periods and moves the correction factor an eighth of the way, within its bounds; the split follows the dies' demands
within its bounds; a frequency mode waits for an empty module; in fixed mode a die goes towards point 12 in die-level steps,
and in dynamic mode under the brake to 0.6 GHz (R341); a raise is queued as such a step and takes effect when the core rail
has settled. The leakage table between its points, a point's power and the switch to fixed mode are choices (log entries 101
to 103); where no command told a period or a window, the measurement is the operand (log entry 104). -/
def Obligations.PowerUpdates : Prop :=
  ∀ (evs : List EvCount) (p : Nat) (v : Fin 65536) (ops : List (Nat × Nat)) (p0 p1 fix : Nat) (die : Fin 2) (s : State),
  let seen := s.flt.evs ++ evs.filter fun e => !counted e.cls
  let weight := fun (p : EvCount → Bool) => lsum ((seen.filter p).map fun e => Config.eventWeight (evCode e.cls) * e.n) / 2048
  let die_ := fun (d : Nat) => let v := odv s (oDIE_VCORE + d)
    weight (fun e => e.die.val == d && coreScaled e.cls) * v * v / (7500 * 7500)
      + weight (fun e => e.die.val == d && !coreScaled e.cls) + leakAt s d v
  let raw := lsum ((List.range 4).map Config.fixPower) + Config.conversionLoss s.flt.pEst + die_ 0 + die_ 1
  let goal := capTarget s * 1000000000
  let slew := if safeSets s then max 40000 (odv s oCAP_DOWN_SLEW_WPS) else odv s oCAP_DOWN_SLEW_WPS
  let pIn := if s.flt.inN = 0 then p else s.flt.inSum * 10000000 / 65536 / s.flt.inN
  let vIn := if s.flt.inN = 0 then v.val else s.flt.vSum / s.flt.inN
  let q := pIn * 2 ^ 32 * s.flt.rawN / s.flt.rawSum
  let ran := (s.tiles.map (·.1)).foldl (fun s t => countRan t s) s
  let learnt := { ran with flt := { ran.flt with
    learned := (observed ran ops).foldl (fun t x => learnOp t x.1 x.2) ran.flt.learned, opE := [], opT := [] } }
  let a := dieDemand learnt 0
  let b := dieDemand learnt 1
  let r0 := if s.flt.pRaw = 0 then p0 else pointGap s 0 (fPoint s 0 + 1)
  let r1 := if s.flt.pRaw = 0 then p1 else pointGap s 1 (fPoint s 1 + 1)
  let toward := fun (d : Nat) => pointGap s d (if fPoint s d < 12 then fPoint s d + 1 else fPoint s d - 1)
  (s.mod.auxUp = false → exec (.estimatorUpdate evs) s = .next s ∧ exec (.calibration p v) s = .next s) ∧
  (s.mod.auxUp = true → ∃ z, exec (.estimatorUpdate evs) s = .next z ∧ z.flt.pRaw = raw ∧ z.flt.evs = [] ∧
    z.flt.pEst = (if bitAt (odv s oCAP_STATUS) 7 then s.flt.pIn + s.flt.sinceIn else raw * s.flt.corr / 2 ^ 32) ∧
    z.flt.pCap = (if s.flt.pCap ≤ goal then goal else max goal (s.flt.pCap - slew * 2048)) ∧
    z.flt.pLim ≤ z.flt.pCap ∧ z.flt.pLim ≤ s.flt.pTh ∧ z.flt.pLim ≤ 2400000000000 ∧ z.mem = s.mem) ∧
  (s.mod.auxUp = true → ∃ z, exec (.calibration p v) s = .next z ∧ z.flt.pIn = pIn ∧ z.flt.sinceIn = 0 ∧ z.flt.inN = 0 ∧
    odv z oV_IN = vIn ∧ z.flt.corr = if s.flt.rawSum = 0 then s.flt.corr
      else min (5 * 2 ^ 32 / 4) (max (4 * 2 ^ 32 / 5) ((7 * s.flt.corr + q) / 8))) ∧
  (mainUp s = false → exec (.shareRecompute ops) s = .next s) ∧
  (mainUp s = true → exec (.shareRecompute ops) s = .next { learnt with flt := { learnt.flt with
    share0 := if a + b = 0 then learnt.flt.share0 else min 58982 (max 6554 (65536 * a / (a + b))) } }) ∧
  (s.graphs ≠ [] ∨ odv s oFREQ_MODE = odv s oFREQ_MODE_ACTIVE → exec .freqModeSwitch s = .next s) ∧
  (s.graphs = [] → odv s oFREQ_MODE ≠ odv s oFREQ_MODE_ACTIVE → ∃ z, exec .freqModeSwitch s = .next z ∧
    odv z oFREQ_MODE_ACTIVE = odv s oFREQ_MODE ∧ (odv s oFREQ_MODE = 1 → odv s oBRAKE_ACTIVE ≠ 1 → z.flt = s.flt) ∧
    (odv s oFREQ_MODE = 1 → odv s oBRAKE_ACTIVE = 1 → fPoint z die = 0 ∧ odv z (oDIE_FREQ_MHZ + die) = 600) ∧
    (odv s oFREQ_MODE = 0 → fPoint s die ≠ 12 → tfind s.flt.settle die = none → creditsOf s die (toward die) ≠ 0 →
      (∀ x, x ∈ s.flt.steps → x.die = die.val → x.kind = 2 → begun x = false) →
      ∃ x, x ∈ z.flt.steps ∧ x.die = die.val ∧ x.kind = 2 ∧ x.up = decide (fPoint s die < 12) ∧
        x.left = creditsOf s die (toward die))) ∧
  (mayRise s 0 r0 fix = false → mayRise s 1 r1 fix = false → exec (.freqRaiseDecision p0 p1 fix) s = .next s) ∧
  (mayRise s 0 r0 fix = true → let n := creditsOf s 0 r0
    n ≠ 0 → ∃ z l, exec (.freqRaiseDecision p0 p1 fix) s = .next z ∧
      z.flt.steps = s.flt.steps ++ ⟨0, 2, true, stampNow s, n, n, n * creditPower s 0, false⟩ :: l) ∧
  (tfind s.flt.settle die = none ∨ bitAt (odv s (oRAIL_FLAGS + 256 * die)) 1 = false →
    exec (.freqRaiseAfterSettle die) s = .next s) ∧
  (∀ p, tfind s.flt.settle die = some p → bitAt (odv s (oRAIL_FLAGS + 256 * die)) 1 = true →
    ∃ z, exec (.freqRaiseAfterSettle die) s = .next z ∧ fPoint z die = p ∧
      odv z (oDIE_FREQ_MHZ + die) = 600 + 100 * p ∧ z.flt.settle = tdel s.flt.settle die) ∧
  (s.flt.test = none → exec .stepTestHoldEnd s = .next s) ∧
  ∀ x, s.flt.test = some x → ∃ z, exec .stepTestHoldEnd s = .next z ∧
    z.flt.test = if x.ts = [] then none else some { x with left := 0, back := true }

/-- R327, R341 to R343, R346 to R350: the thermal loop moves its limit by the error in T_MAX, within 400 W and 2,400 W; the
sensors show the hottest, and JUNCTION_WARN from 100.0 °C until below 98.0 °C; the coolant cap follows flow and inlet; the
brake holds both dies at 1/16 from its assertion to its release, and is the limit's source; a droop is counted, stretches its
die, and in service is flagged. -/
def Obligations.ThermalBrakeAndDroop : Prop :=
  ∀ (ts : List Int) (inl outl : Int) (die : Fin 2) (cyc : Nat) (s : State),
  let owned := s.mod.auxUp = true ∧ s.mod.owner ≠ none
  let err := thermalError s
  let pid := (s.flt.pTh : Int) + 2000000000 * (err - s.flt.ePrev.getD err) + 200000000 * err
  let num : Int := 2200 * (flowNow s : Int) * (600 - sxt 16 (odv s oT_INLET))
  let t := fun (i : Nat) => ts.getD i 0
  (¬owned → exec .thermalLoopUpdate s = .next s ∧ exec .coolantCapUpdate s = .next s) ∧
  (owned → ∃ z, exec .thermalLoopUpdate s = .next z ∧ z.flt.ePrev = some err ∧
    z.flt.pTh = min 2400000000000 (max 400000000000 pid.toNat) ∧ odv z oTHERMAL_LIMIT_W = z.flt.pTh / 1000000000) ∧
  (owned → ∃ z, exec .coolantCapUpdate s = .next z ∧
    odv z oCOOLANT_CAP_W = min 2200 (max 400 (num / (210 * 150)).toNat) ∧
    bitAt (odv z oCAP_STATUS) 8 = decide (450 < sxt 16 (odv s oT_INLET) ∨ num < 2200 * 210 * 150)) ∧
  (s.mod.auxUp = false → exec (.sensorRead ts inl outl) s = .next s) ∧
  (s.mod.auxUp = true → ∃ z i, exec (.sensorRead ts inl outl) s = .next z ∧ i < 40 ∧ (∀ j, j < 40 → t j ≤ t i) ∧
    (∀ j, j < 40 → odv z (oT_SENSOR + j) = uxt 16 (t j)) ∧ odv z oT_MAX = uxt 16 (t i) ∧ odv z oHOTTEST_SENSOR = i + 1 ∧
    odv z oT_INLET = uxt 16 inl ∧ odv z oT_OUTLET = uxt 16 outl ∧
    (1000 ≤ t i → bitAt (odv z oCAP_STATUS) 6 = true) ∧ (t i < 980 → bitAt (odv z oCAP_STATUS) 6 = false) ∧
    (980 ≤ t i → t i < 1000 → bitAt (odv z oCAP_STATUS) 6 = bitAt (odv s oCAP_STATUS) 6)) ∧
  (s.mod.auxUp = true → odv s oBRAKE_ACTIVE ≠ 1 → ∃ z, exec .brakeAssert s = .next z ∧ z.mod.pins.brakeN = false ∧
    odv z oBRAKE_ACTIVE = 1 ∧ odv z oBRAKE_COUNT = (odv s oBRAKE_COUNT + 1) % 2 ^ 32 ∧ z.flt.duty0 = 1 ∧ z.flt.duty1 = 1 ∧
    odv z oDUTY = 1 ∧ odv z (oDUTY + 1) = 1 ∧ odv z oLIMIT_SOURCE = 5 ∧
    (odv s oFREQ_MODE_ACTIVE = 1 → odv z oDIE_FREQ_MHZ = 600 ∧ odv z (oDIE_FREQ_MHZ + 1) = 600)) ∧
  (s.mod.auxUp = false ∨ odv s oBRAKE_ACTIVE = 1 →
    exec .brakeAssert s = .next { s with mod := { s.mod with pins := { s.mod.pins with brakeN := false } } }) ∧
  (odv s oBRAKE_ACTIVE = 0 →
    exec .brakeRelease s = .next { s with mod := { s.mod with pins := { s.mod.pins with brakeN := true } } }) ∧
  (odv s oBRAKE_ACTIVE ≠ 0 → ∃ z, exec .brakeRelease s = .next z ∧ z.mod.pins.brakeN = true ∧ odv z oBRAKE_ACTIVE = 0 ∧
    z.flt.pRef = some s.flt.pEst ∧ z.flt.expectTo = max s.flt.expectTo (s.now + 10000000)) ∧
  (mainUp s = false ∨ die.val ∈ s.flt.stretch → exec (.droopDetected die) s = .next s) ∧
  (mainUp s = true → die.val ∉ s.flt.stretch → ∃ z, exec (.droopDetected die) s = .next z ∧
    z.flt.stretch = die.val :: s.flt.stretch ∧ odv z (oDROOP_EVENTS + die) = (odv s (oDROOP_EVENTS + die) + 1) % 2 ^ 64 ∧
    bitAt (odv z oCAP_STATUS) 10 = (bitAt (odv s oCAP_STATUS) 10 || !droopExpected s)) ∧
  (die.val ∉ s.flt.stretch → exec (.stretchEnd die cyc) s = .next s) ∧
  (die.val ∈ s.flt.stretch → ∃ z, exec (.stretchEnd die cyc) s = .next z ∧ die.val ∉ z.flt.stretch ∧
    odv z (oSTRETCH_CYCLES + die) = (odv s (oSTRETCH_CYCLES + die) + cyc) % 2 ^ 64)

/-- R178, R351, R385 to R387, R500: a thermal trip latches, shows its sensor, of several at once the lowest-numbered, takes
every rail to OFF, latched or not (a reading of R385's "Any": log entry 126), and the module to TRIPPED; an input stop takes
the module to STANDBY and counts, and leaves latched rails latched; either loses all that the main domain held. Where nothing
is up, or the trip has latched, nothing more is lost. -/
def Obligations.ProtectionStops : Prop :=
  ∀ (ns : List (Fin 40)) (c : Instr) (s : State), c = .inputUndervoltage ∨ c = .inputOvervoltage →
  let lost := fun (z : State) => z.tiles = [] ∧ z.graphs = [] ∧ z.cmds = [] ∧ z.fab.sw = [] ∧ z.fab.ej = [] ∧ z.rem.colls = [] ∧
    z.hst.linkUp = false ∧ z.mem.cells = [] ∧ ∃ k, z.mem.undef = mapAreas.map fun r => (r.1, r.2 - r.1, k)
  let off := fun (z : State) => ∀ r, r < 11 → railState z r = if railState s r = 4 then 4 else 0
  (ns = [] ∨ s.mod.auxUp = false ∨ s.mod.tripLatch = true → exec (.thermalTrip ns) s = .next s) ∧
  (s.mod.auxUp = true → s.mod.tripLatch = false → ∀ n, n ∈ ns → (∀ m, m ∈ ns → n ≤ m) →
    ∃ z, exec (.thermalTrip ns) s = .next z ∧ modState z = 6 ∧
    z.mod.tripLatch = true ∧ z.mod.pins.tripN = false ∧ odv z oTHERM_TRIP_SENSOR = n.val + 1 ∧ odv z oSTART_STEP = 0 ∧
    (∀ r, r < 11 → railState z r = 0) ∧ lost z) ∧
  (mainUp s = true → ∃ z, exec c s = .next z ∧ modState z = 0 ∧ z.mod.nextCause = 2 ∧
    odv z oINPUT_STOPS = (odv s oINPUT_STOPS + 1) % 2 ^ 32 ∧ odv z oSTART_STEP = 0 ∧ off z ∧ lost z) ∧
  (mainUp s = false → ∃ z, exec c s = .next z ∧ off z ∧ z.tiles = s.tiles ∧ z.mem = s.mem ∧ z.log = s.log)

/-! ### Trowel -/

/-- R361, R362, R364, R372, R389 to R396: a boundary follows REG_SYNC, or glides away from it or back to it, by its state;
takes an accepted swap and an accepted handover; adds to the running means; and moves every rail's observer on in each engine
that computes, in its region. The standby adopts each rail of the owner's frame that passes its own check, keeps its own
state for any other, and leaves RESYNC after 1,000 frames; without a frame in time, or at an owner's own fault, the owner is
FAILED and drives on until the boundary at which the standby takes over, going on from its own copies, while the stages take
both for a claim overlap; a failed engine is restarted once within 3,600 s; an owner that fails without a standby stops the
module; and REG_SYNC is lost and found again. -/
def Obligations.TrowelEngines : Prop :=
  ∀ (e : Fin 2) (b : PeriodIn) (s : State),
  let o := trwOwner s
  let t := 1 - o
  let fits := (List.range 11).all fun n => frameFits s n (engRail s (1 - t) n) (engRail s t n)
  let lately := ∃ x, tfind s.trw.autoAt e = some x ∧ s.now < x + 3600000000000
  let st := odv s oREG_SYNC_STATE
  let f := odv s oPWM_FREQ_HZ
  let edge := fun (g : Nat) (d : Int) => b.sync = some (g, d) ∧ 900000 ≤ g ∧ g ≤ 1100000
  let sync := fun (z : State) (x v : Nat) => odv z oREG_SYNC_STATE = x ∧ odv z oPWM_FREQ_HZ = v
  let handed := s.trw.handover = true ∧ engState s o = 3 ∧ engState s t = 2
  (s.mod.auxUp = false → exec (.switchingPeriodBoundary b) s = .next s) ∧
  (s.mod.auxUp = true → ∃ z, exec (.switchingPeriodBoundary b) s = .next z ∧ z.trw.mirrored = false ∧ z.trw.swap = false ∧
    z.trw.handover = false ∧ z.trw.banks = s.trw.banks ∧
    odv z oGAIN_BANK_ACTIVE = (if s.trw.swap then 1 - odv s oGAIN_BANK_ACTIVE else odv s oGAIN_BANK_ACTIVE) ∧
    (handed → trwOwner z = t) ∧ (¬handed → trwOwner z = o) ∧
    (s.trw.handover = false → z.trw.busSum = s.trw.busSum + b.vbus ∧ z.trw.cnt = s.trw.cnt + 1) ∧
    (st = 0 → (∀ g d, edge g d → sync z 0 g) ∧ ((∀ g d, ¬edge g d) → sync z 0 f)) ∧
    (st = 1 → if nearFreq f 1000000 then sync z 2 1000000 else sync z 1 (glide f 1000000)) ∧
    (st = 2 → sync z (if s.mod.pins.regSync then 3 else 2) f) ∧
    (st = 3 → (b.sync = none → sync z 3 f) ∧ (b.sync ≠ none → (∀ g d, ¬edge g d) → sync z 1 f ∧ z.mod.pins.regSync = false) ∧
      ∀ g d, edge g d →
        if nearFreq f g then sync z (if -10 ≤ d ∧ d ≤ 10 then 0 else 3) g else sync z 3 (glide f g)) ∧
    (s.trw.swap = false → s.trw.handover = false → ∀ n, n < 11 → engComputes s e = true →
      let x := engRail s e n
      let y := engRail z e n
      let m := b.rails.getD n ⟨0, 0, 0, 0, [], []⟩
      let yv := if e.val = 0 then m.yvA else m.yvB
      let row := fun (k : Nat) => phiRow s (engBank s e n) n x.reg k [x.vhat, x.ihl, x.iho, yv, m.yi, m.echo]
      y.dCur = x.dNext ∧ y.yv = yv ∧ y.yi = m.yi ∧
      y.vNext = bandV (y.reg % 2) (if e.val = 0 then b.vinA else b.vinB) ∧
      (y.reg = x.reg → y.vhat = row 0 ∧ y.ihl = row 1 ∧ y.iho = row 2))) ∧
  (engState s (1 - t) ≠ 3 ∨ (engState s t ≠ 1 ∧ engState s t ≠ 2) → exec .mirrorFrame s = .next s) ∧
  (engState s (1 - t) = 3 → engState s t = 1 ∨ engState s t = 2 → ∃ z, exec .mirrorFrame s = .next z ∧ z.trw.mirrored = true ∧
    z.trw.adopt = (if fits then s.trw.adopt + 1 else 0) ∧
    engState z t = (if engState s t = 1 ∧ 1000 ≤ z.trw.adopt then 2 else engState s t) ∧
    ∀ n, n < 11 → let x := engRail s (1 - t) n
      engRail z (1 - t) n = x ∧ engRail z t n = if frameFits s n x (engRail s t n)
        then { engRail s t n with z := x.z, vhat := x.vhat, ihl := x.ihl, iho := x.iho, reg := x.reg, mir := some (mirrorOf s n) }
        else engRail s t n) ∧
  (s.trw.mirrored = true ∨ engState s o ≠ 3 → exec .mirrorDeadline s = .next s) ∧
  (s.trw.mirrored = false → engState s o = 3 → ∃ z, exec .mirrorDeadline s = .next z ∧
    (engState s t = 2 → engState z o = 4 ∧ z.trw.due = true ∧ trwOwner z = o) ∧
    (engState s t ≠ 2 → z.trw = { s.trw with adopt := 0 } ∧ z.od = s.od)) ∧
  (s.trw.due = false ∨ engState s t ≠ 2 → exec .engineTakeover s = .next s) ∧
  (s.trw.due = true → engState s t = 2 → ∃ z, exec .engineTakeover s = .next z ∧ trwOwner z = t ∧ engState z t = 3 ∧
    z.trw.due = false ∧ z.trw.claim = some o ∧ acceptedEngines z = [t, o] ∧
    odv z oTAKEOVERS = (odv s oTAKEOVERS + 1) % 2 ^ 32 ∧ z.flt.expectTo = max s.flt.expectTo (s.now + 10000000) ∧
    ∀ n, n < 11 → let r := railSt z n
      r.hist = [] ∧ r.vSum = 0 ∧ r.iSum = 0 ∧ r.cnt = 0 ∧ r.hold = false ∧ r.fresh = true ∧ (engRail z t n).fails = 0 ∧
      ∀ m, (engRail s t n).mir = some m → r.set_ = m.set_ ∧ r.tgt = m.tgt ∧ r.ramp = m.ramp ∧
        (drivenState m.st = true → drivenState (railState s n) = true → railState z n = m.st ∧
          railV z oSTART_ATTEMPTS n = m.tries ∧ ∀ p, p ∈ phasesOf n →
            phaseSt z p = if phaseSt s p = 4 ∨ phaseSt s p = 0 then phaseSt s p else if p ∈ m.act then 2 else 1)) ∧
  (∃ z, exec .claimOverlapEnd s = .next z ∧ z.trw = { s.trw with claim := none } ∧ z.od = s.od ∧ acceptedEngines z = [o]) ∧
  (engState s e ≠ 4 ∨ e.val ∈ s.trw.held ∨ lately ∨ s.mod.owner = none → exec (.engineRestart e) s = .next s) ∧
  (engState s e = 4 → e.val ∉ s.trw.held → ¬lately → s.mod.owner ≠ none → ∃ z, exec (.engineRestart e) s = .next z ∧
    engState z e = 1 ∧ z.trw.autoAt = tput s.trw.autoAt e s.now ∧ z.trw.adopt = 0 ∧ ∀ n, engRail z e n = ERail.initial) ∧
  (engState s e = 0 ∨ 4 ≤ engState s e → exec (.engineSelfCheckFault e) s = .next s) ∧
  (engState s e = 1 ∨ (engState s e = 2 ∧ s.trw.due = false) ∨ (engState s e = 3 ∧ engState s (1 - e) = 2) →
    ∃ z, exec (.engineSelfCheckFault e) s = .next z ∧ engState z e = 4 ∧ (engState s e = 3 → z.trw.due = true ∧
      z.trw.handover = false ∧ (o = e.val → s.trw.claim = none → ∀ p, phaseOnTime z p = phaseOnTime s p))) ∧
  (engState s e = 3 ∧ engState s (1 - e) ≠ 2 ∨ engState s e = 2 ∧ s.trw.due = true →
    ∃ z, exec (.engineSelfCheckFault e) s = .next z ∧ engState z e = 4 ∧ (mainUp s = true → modState z = 5) ∧
      ∀ n, n < 11 → railState s n = 1 ∨ railState s n = 2 ∨ railState s n = 5 → railState z n = 0) ∧
  (∃ z, exec .regSyncLoss s = .next z ∧ z.mod.pins = { s.mod.pins with regSync := false } ∧
    odv z oREG_SYNC_STATE = if s.mod.auxUp = true ∧ (st = 0 ∨ st = 3) then 1 else st) ∧
  ∃ z, exec .regSyncRecovered s = .next z ∧ z.mod.pins = { s.mod.pins with regSync := true } ∧
    odv z oREG_SYNC_STATE = if s.mod.auxUp = true ∧ st = 2 then 3 else st

/-- R378, R379, R382 to R388: a lightly loaded rail sheds its highest phase; a group whose turn it is starts every rail of
it; a start that shows no power-good, and a wait for a retry, lead to another attempt or, after the fourth, to FAULT; a soft
stop ends off; the means of the last 1 ms are shown and start again; a converter that shuts off shows it; the stages'
temperatures are kept. -/
def Obligations.TrowelRails : Prop :=
  ∀ (r : Fin 11) (g : Fin 6) (c : Fin 4) (ts : List Int) (s : State),
  let x := railSt s r
  let ps := activePhases s r
  let quiet := (railState s r = 2 ∨ railState s r = 5) ∧ x.low = true ∧ x.hold = false ∧ x.shed = none ∧ x.add = 0 ∧
    (if r.val < 2 then 4 else 1) < ps.length ∧ (r.val < 4 → issuerQuiet s (r.val % 2) = true)
  let tries := railV s oSTART_ATTEMPTS r
  (¬quiet → exec (.shedTimerExpiry r) s = .next s) ∧
  (quiet → ∃ z, exec (.shedTimerExpiry r) s = .next z ∧ railSt z r = { x with shed := some (lmax ps, 0) } ∧ z.od = s.od) ∧
  (∃ z, exec (.addHoldoffExpiry r) s = .next z ∧ railSt z r = { x with hold := false } ∧ z.od = s.od) ∧
  (∃ z, exec (.fastOvervoltage r) s = .next z ∧ railSt z r = { x with ovAct := true } ∧ z.od = s.od) ∧
  (s.mod.auxUp = false → exec .railTelemetryUpdate s = .next s ∧ exec (.stageTempRead ts) s = .next s) ∧
  (s.mod.auxUp = true → ∃ z, exec .railTelemetryUpdate s = .next z ∧
    odv z oV_BUS = s.trw.busSum / max 1 s.trw.cnt ∧ z.trw.busSum = 0 ∧ z.trw.cnt = 0 ∧
    railV z oV_OUT r = meanNat x.vSum x.cnt 10000 (2 ^ 24) ∧ railV z oI_OUT r = meanNat x.iSum x.cnt 100 (2 ^ 16) ∧
    (railSt z r).vSum = 0 ∧ (railSt z r).iSum = 0 ∧ (railSt z r).cnt = 0) ∧
  (groupMayStart s g = false → exec (.railGroupStart g) s = .next s) ∧
  (groupMayStart s g = true → (∀ n, n ∈ groupRails g → railNeeded n ≤ railV s oPHASES_HEALTHY n) →
    ∃ z, exec (.railGroupStart g) s = .next z ∧
      ∀ n, n ∈ groupRails g → railState z n = 1 ∧ railV z oSTART_ATTEMPTS n = 1) ∧
  (railState s r ≠ 1 → exec (.powerGoodTimeout r) s = .next s) ∧
  (railState s r = 1 → ∃ z, exec (.powerGoodTimeout r) s = .next z ∧
    (tries < 4 → railState z r = 3) ∧ (4 ≤ tries → modState z = 5)) ∧
  (railState s r ≠ 3 → exec (.retryWaitExpiry r) s = .next s) ∧
  (railState s r = 3 → ∃ z, exec (.retryWaitExpiry r) s = .next z ∧
    (tries < 4 → railState z r = 1 ∧ railV z oSTART_ATTEMPTS r = tries + 1) ∧ (4 ≤ tries → modState z = 5)) ∧
  (railState s r ≠ 5 → exec (.softStopComplete r) s = .next s) ∧
  (railState s r = 5 → ∃ z, exec (.softStopComplete r) s = .next z ∧ railState z r = 0) ∧
  (bitAt (odv s oBUSCONV_STATE) c = false → exec (.busConverterFault c) s = .next s) ∧
  (bitAt (odv s oBUSCONV_STATE) c = true → ∃ z, exec (.busConverterFault c) s = .next z ∧
    ∀ d, d < 4 → bitAt (odv z oBUSCONV_STATE) d = (bitAt (odv s oBUSCONV_STATE) d && d != c.val)) ∧
  (s.mod.auxUp = true → ∃ z, exec (.stageTempRead ts) s = .next z ∧
    z.trw.temps = ((List.range 108).map fun p => (p, ts.getD p 0)) ∧
    ((∀ p, p < 108 → ts.getD p 0 ≤ 1150) → bitAt (railV z oRAIL_FLAGS r) 7 = false))

/-! ### The field network, the mailbox and the dictionary -/

/-- R409, R411, R413, R419, R421 to R423, R430: an NMT command takes effect once for the two buses; the module answers with
its own state; a reset returns the communication objects to their defaults and boots the node; a sign of life of the rack
manager ends its silence, whose onset hands the cap to the Autonomous source; heartbeats, PDOs and emergency messages leave
only while a core owns; a bus without frames shows it until one arrives, and its error counters, which come with that event,
may put it in bus-off, where it receives nothing until it recovers (log entry 138); with no owning core the frames wait in the
buffer of their bus, 32 at most (log entry 127). -/
def Obligations.FieldNetwork : Prop :=
  ∀ (bus : Fin 2) (lost : BusLoss) (node : Fin 128) (n : Fin 3) (s : State),
  let u := busAlive bus s
  let on := busOff s bus = false
  let held := s.mod.auxUp = true ∧ s.mod.owner = none
  let wait := tget s.can.rx bus []
  let frames : List (Instr × CanFrame) := [(.nmtStart bus, .nmt 1), (.nmtStop bus, .nmt 2),
    (.nmtEnterPreOperational bus, .nmt 0x80), (.nmtResetCommunication bus, .nmt 0x82), (.nmtResetNode bus, .nmt 0x81),
    (.rmHeartbeat bus node, .heartbeat node), (.syncFrame bus, .sync)]
  let refused := fun (cmd : Nat) => canUp s = false ∨ inRecovery s = true ∨ nmtRepeat s bus cmd = true
  let boots := fun (z : State) => odv z oNMT_STATE = if odv s oNMT_AUTOSTART = 1 then 5 else 0x7F
  let twice := ∃ b t, s.can.syncAt = some (b, t) ∧ b ≠ bus.val ∧ s.now ≤ t + 100000
  let cmds : List (Instr × Nat × Nat) :=
    [(.nmtStart bus, 1, 5), (.nmtStop bus, 2, 4), (.nmtEnterPreOperational bus, 0x80, 0x7F)]
  (¬on → ∀ c f, (c, f) ∈ frames → exec c s = .next s) ∧
  (on → held → ∀ c f, (c, f) ∈ frames → ∃ z, exec c s = .next z ∧
    (32 ≤ wait.length → z.can = u.can ∧ odv z (oCAN_RX_OVERFLOW + bus) = (odv s (oCAN_RX_OVERFLOW + bus) + 1) % 2 ^ 32) ∧
    (wait.length < 32 → tget z.can.rx bus [] = wait ++ [f] ∧ z.od = u.od)) ∧
  (∀ c cmd v, (c, cmd, v) ∈ cmds → (on → ¬held → refused cmd → exec c s = .next u) ∧
    (on → ¬refused cmd → ∃ z, exec c s = .next z ∧ odv z oNMT_STATE = v ∧ tfind z.can.nmtLast (bus * 256 + cmd) = some s.now)) ∧
  (on → ¬held → refused 0x82 → exec (.nmtResetCommunication bus) s = .next u) ∧
  (on → ¬refused 0x82 → ∃ z, exec (.nmtResetCommunication bus) s = .next z ∧ boots z ∧
    (∀ k, 0x1000 ≤ k / 256 → k / 256 < 0x2000 → k / 256 ≠ 0x1018 → k ≠ oERROR_REGISTER → odv z k = odDefault k) ∧
    z.out = .can (0x701 + odv s oSLOT_ID) [0] :: s.out) ∧
  (on → ¬held → refused 0x81 → exec (.nmtResetNode bus) s = .next u) ∧
  (on → ¬refused 0x81 → ∃ z, exec (.nmtResetNode bus) s = .next z ∧ boots z) ∧
  (on → ¬held → canUp s = false ∨ node.val ≠ odv s oRM_NODE_ID → exec (.rmHeartbeat bus node) s = .next u) ∧
  (on → canUp s = true → node.val = odv s oRM_NODE_ID → ∃ z, exec (.rmHeartbeat bus node) s = .next z ∧ z.can.rmAt = s.now ∧
    odv z oRM_SILENT ≠ 1) ∧
  (canUp s = false ∨ odv s oRM_SILENT = 1 → exec .rmSilenceTimeout s = .next s) ∧
  (canUp s = true → odv s oRM_SILENT ≠ 1 → ∃ z, exec .rmSilenceTimeout s = .next z ∧ odv z oRM_SILENT = 1 ∧
    bitAt (odv z oCAP_STATUS) 3 = true) ∧
  (canUp s = false → exec .heartbeatTimer s = .next s ∧ exec .emcyInhibitExpiry s = .next s) ∧
  (canUp s = true → ∃ z, exec .heartbeatTimer s = .next z ∧ z.can.hbAt = s.now ∧
    z.out = .can (0x701 + odv s oSLOT_ID) (leBytes 1 (odv s oNMT_STATE)) :: s.out) ∧
  (canUp s = false ∨ odv s oNMT_STATE ≠ 5 ∨ tpdoType s n ≠ 254 → exec (.tpdoTimer n) s = .next s) ∧
  (canUp s = true → odv s oNMT_STATE = 5 → tpdoType s n = 254 → ∃ z, exec (.tpdoTimer n) s = .next z ∧
    z.can.tpdoAt = tput s.can.tpdoAt n s.now ∧ z.od = s.od) ∧
  (on → ¬held → canUp s = false ∨ odv s oNMT_STATE ≠ 5 ∨ twice → exec (.syncFrame bus) s = .next u) ∧
  (on → canUp s = true → odv s oNMT_STATE = 5 → ¬twice → ∃ z, exec (.syncFrame bus) s = .next z ∧
    z.can.syncAt = some (bus.val, s.now) ∧ z.od = u.od) ∧
  (canUp s = true → odv s oNMT_STATE ≠ 4 → ∃ z, exec .emcyInhibitExpiry s = .next z ∧ z.can.emcyQ = s.can.emcyQ.drop 1 ∧
    ∀ m q, s.can.emcyQ = m :: q → z.out = .can (0x81 + odv s oSLOT_ID) m :: s.out) ∧
  (on → exec (.canBusOffRecovery bus) s = .next s) ∧
  (¬on → ∃ z, exec (.canBusOffRecovery bus) s = .next z ∧ canErr z bus = ⟨0, 0⟩ ∧ canBusState z bus = 0) ∧
  (s.mod.auxUp = false → exec (.canBusNoFrame lost) s = .next s) ∧
  (s.mod.auxUp = true → ∃ z, exec (.canBusNoFrame lost) s = .next z ∧
    canErr z lost.bus = (if busOff s lost.bus = true then canErr s lost.bus else ⟨lost.tx, lost.rx⟩) ∧
    canBusState z lost.bus = if 255 < (canErr z lost.bus).tx then 2 else 3) ∧
  (s.can.profBusy = none → exec .profileFlashDone s = .next s) ∧
  ∀ p k vals, s.can.profBusy = some (p, k, vals) → ∃ z, exec .profileFlashDone s = .next z ∧ z.can.profBusy = none ∧
    z.can.profiles = if vals = [] then tdel s.can.profiles k else tput s.can.profiles k vals

/-- R405, R408, R409, R412, R414 to R416, R420, R424 to R427: a write by row is told its first failing check and then changes
nothing else; one session is open on a bus at a time, ends when it stays silent or grows past its size, and gives its bytes in
pieces of 60; the mailbox takes one command at a time and completes it with a status; an RPDO is a sign of life and writes the
objects mapped to it; a bus in bus-off receives nothing; with no owning core the frames wait in the buffer of their bus (log
entry 127). -/
def Obligations.UsdoMailboxAndObjects : Prop :=
  ∀ (bus : Fin 2) (path : Fin 4) (idx : Fin 65536) (sub : Fin 256) (r : UsdoReq) (bs : List Byte) (last : Bool)
    (env : WriteEnv) (s : State),
  let u := busAlive bus s
  let k := idx.val * 256 + sub.val
  let code := odJudge s path k bs.length (leNat bs)
  let m := s.can.mail
  let on := busOff s bus = false
  let held := s.mod.auxUp = true ∧ s.mod.owner = none
  let wait := tget s.can.rx bus []
  let frames : List (Instr × CanFrame) :=
    [(.usdoInitiate bus r env, .usdo r env), (.usdoSegment bus bs last env, .segment bs last env), (.rpdo1 bus bs env, .rpdo bs env)]
  let silent := on ∧ ¬held ∧ (canUp s = false ∨ odv s oNMT_STATE = 4)
  let serves := on ∧ canUp s = true ∧ odv s oNMT_STATE ≠ 4
  let taken := isDomain k = true ∧ domBusy s path k = true
  let maps := mapEntries u 0x1600 (odv s 0x160000)
  let full := lsum (maps.map fun e => entryBits e / 8) ≤ bs.length
  let room := barOpen s = true
  (s.mod.owner = none → exec (.objectWrite path idx sub bs env) s = .next s ∧ exec (.mailboxComplete env) s = .next s) ∧
  (s.mod.owner ≠ none → code ≠ 0 ∨ taken → ∃ z, exec (.objectWrite path idx sub bs env) s = .next z ∧
    z.resp = (if code ≠ 0 then code else 0x0570) ∧ z.mem = s.mem ∧
    (path.val < 3 → odv z (oOD_LAST_STATUS + path) = z.resp) ∧
    (∀ j, j ≠ oOD_LAST_STATUS + path.val → odv z j = odv s j)) ∧
  (s.mod.owner ≠ none → code = 0 → ¬taken → ∃ z, exec (.objectWrite path idx sub bs env) s = .next z ∧
    z.resp = (wAny path k bs env s).1 ∧ z.mem = (wAny path k bs env s).2.mem ∧
    ∀ j, j ≠ oOD_LAST_STATUS + path.val → odv z j = odv (wAny path k bs env s).2 j) ∧
  (¬on → ∀ c f, (c, f) ∈ frames → exec c s = .next s) ∧
  (on → held → ∀ c f, (c, f) ∈ frames → ∃ z, exec c s = .next z ∧
    (32 ≤ wait.length → z.can = u.can ∧ odv z (oCAN_RX_OVERFLOW + bus) = (odv s (oCAN_RX_OVERFLOW + bus) + 1) % 2 ^ 32) ∧
    (wait.length < 32 → tget z.can.rx bus [] = wait ++ [f] ∧ z.od = u.od)) ∧
  (silent → exec (.usdoInitiate bus r env) s = .next u ∧ exec (.usdoSegment bus bs last env) s = .next u) ∧
  (serves → tfind s.can.usdo bus ≠ none → ∃ z, exec (.usdoInitiate bus r env) s = .next z ∧ z.resp = 0x0570 ∧
    z.can.usdo = s.can.usdo) ∧
  (serves → tfind s.can.usdo bus = none → ∀ c b t, r = .read idx sub → odRead bus k u = (c, b, t) → c < 0x100 →
    ∃ z, exec (.usdoInitiate bus r env) s = .next z ∧ z.resp = c ∧
      (b.length ≤ 60 → .usdo bus (0x580 + nodeId s) (leBytes 1 3 ++ leBytes 2 idx.val ++ leBytes 1 sub.val ++ b) ∈ z.out) ∧
      (60 < b.length → tfind z.can.usdo bus = some ⟨k, b.length, b, false, false⟩)) ∧
  (serves → tfind s.can.usdo bus = none → exec (.usdoSegment bus bs last env) s = .next u) ∧
  (serves → ∀ x, tfind s.can.usdo bus = some x →
    (x.flash = true → exec (.usdoSegment bus bs last env) s = .next u ∧ exec (.usdoSessionTimeout bus) s = .next s) ∧
    (x.flash = false → x.write = false → ∃ z, exec (.usdoSegment bus bs last env) s = .next z ∧
      z.out = .usdo bus (0x580 + nodeId s) (leBytes 1 2 ++ leBytes 2 (x.key / 256) ++ leBytes 1 (x.key % 256) ++ x.bytes.take 60) :: s.out ∧
      tfind z.can.usdo bus = if x.bytes.length ≤ 60 then none else some { x with bytes := x.bytes.drop 60 }) ∧
    (x.flash = false → x.write = true → x.size < x.bytes.length + (bs.take 60).length →
      ∃ z, exec (.usdoSegment bus bs last env) s = .next z ∧ z.resp = 0x0101 ∧ tfind z.can.usdo bus = none) ∧
    (x.flash = false → x.write = true → x.bytes.length + (bs.take 60).length ≤ x.size → last = false →
      x.key ≠ oGAIN_BANK_IMAGE → ∃ z, exec (.usdoSegment bus bs last env) s = .next z ∧
        tfind z.can.usdo bus = some { x with bytes := x.bytes ++ bs.take 60 }) ∧
    (x.flash = false → ∃ z, exec (.usdoSessionTimeout bus) s = .next z ∧ z.resp = 0x0571 ∧ tfind z.can.usdo bus = none)) ∧
  (tfind s.can.usdo bus = none → exec (.usdoSessionTimeout bus) s = .next s) ∧
  (on → ¬held → canUp s = false ∨ pdoCob u 0x140001 = none → exec (.rpdo1 bus bs env) s = .next u) ∧
  (on → canUp s = true → pdoCob u 0x140001 ≠ none → odv s oNMT_STATE ≠ 5 ∨ ¬full → ∃ z, exec (.rpdo1 bus bs env) s = .next z ∧
    z.can.rmAt = s.now ∧ odv z oRM_SILENT ≠ 1 ∧ z.mem = s.mem) ∧
  (on → canUp s = true → pdoCob u 0x140001 ≠ none → odv s oNMT_STATE = 5 → full →
    exec (.rpdo1 bus bs env) s = .next (rpdoApply bus env maps bs (rmAlive u)) ∧
    ∀ e, maps = [e] → isFiller e = false →
      let w := odWrite bus (entryKey e) (bs.take (entryBits e / 8)) env (rmAlive u)
      ∃ z, exec (.rpdo1 bus bs env) s = .next z ∧ z.mem = w.2.mem ∧
        odv z oRPDO_REFUSED = (if isSuccess w.1 then odv w.2 oRPDO_REFUSED else (odv w.2 oRPDO_REFUSED + 1) % 2 ^ 32) ∧
        ∀ j, j ≠ oRPDO_REFUSED → j ≠ oOD_LAST_STATUS + bus.val → odv z j = odv w.2 j) ∧
  (¬room → exec .mailboxRead s = .next s ∧ exec .mailboxWrite s = .next s) ∧
  (room → ∀ c, c = .mailboxRead ∨ c = .mailboxWrite → ∃ z, exec c s = .next z ∧ z.can.mail.busy = true ∧
    (m.busy = true → z.can.mail = { m with ignored := true }) ∧
    (m.busy = false → z.can.mail.done = false ∧ z.can.mail.cmd = if c = .mailboxWrite then 2 else if s.mod.owner = none then 4 else 1)) ∧
  (m.busy = false → exec (.mailboxComplete env) s = .next s) ∧
  (m.busy = true → s.mod.owner ≠ none → (m.cmd ≠ 2 → m.cmd ≠ 3 → m.cmd ≠ 4 → ∃ z, exec (.mailboxComplete env) s = .next z ∧
      z.can.mail = { m with busy := false, done := true, status := m.code, resLen := if m.cmd = 1 then m.len else m.resLen } ∧ z.resp = m.code) ∧
    (m.cmd = 2 → mailCode m ≠ 0 → ∃ z, exec (.mailboxComplete env) s = .next z ∧
      z.can.mail = { m with busy := false, done := true, status := mailCode m } ∧ z.mem = s.mem) ∧
    (m.cmd = 2 → mailCode m = 0 → m.code ≠ 0 → odJudge s 2 (mailKey m) (mailLen m) 1 = 0 →
      ∃ z, exec (.mailboxComplete env) s = .next z ∧
        z.can.mail = { m with busy := false, done := true, status := m.code } ∧ z.mem = s.mem) ∧
    (m.cmd = 4 → mailCode m ≠ 0 → ∃ z, exec (.mailboxComplete env) s = .next z ∧ z.can.mail.busy = false ∧
      z.can.mail.done = true ∧ z.can.mail.status = mailCode m ∧ z.can.mail.resLen = 0) ∧
    (m.cmd = 4 → mailCode m = 0 → ∀ c b t, odRead 2 (mailKey m) s = (c, b, t) → c < 0x100 → b.length ≤ mailLen m →
      ∃ z, exec (.mailboxComplete env) s = .next z ∧ z.can.mail.busy = false ∧ z.can.mail.done = true ∧
        z.can.mail.status = c ∧ z.can.mail.resLen = b.length ∧ z.can.mail.data.take b.length = b) ∧
    (m.cmd = 3 → s.can.profBusy ≠ none → exec (.mailboxComplete env) s = .next s))

/-! ### Identity and attestation -/

/-- R436, R437, R439 to R441, R446, R449 to R453: while no core owns a request waits, and with no answering core a transport is
silent; a request that cannot be served gets its ERROR, one out of its connection's order UnexpectedRequest and one that names
nothing InvalidRequest; each other request gets the answer of its kind, and one that is signed waits for the engine, which
signs it with the requester's nonce before it, in turn; a site chain and a context wait for the engine's check, and they and a
range enter only after their checks; a commit ends with the first check that fails, and makes its slot valid where none does.
The wire forms are the model's (log entry 18). -/
def Obligations.Attestation : Prop :=
  ∀ (tr : Fin 2) (asym hash mhash off len : Fin 4294967296) (slot : Fin 16) (o l : Fin 65536) (sum ok c g d : Bool)
    (ch : ChalReq) (flaw : SpdmFlaw) (chain anchor : List Byte) (r : MeasReq) (x : CtxReq) (cid rsv a n : Nat) (die : Fin 2) (s : State),
  let opn := spdmOpen s tr
  let stage := (connOf s tr).stage
  let staged : List (Instr × SpdmReq) := [(.getDigests tr, .digests), (.getCertificate tr slot o l, .cert slot o l),
    (.challenge tr slot sum ch, .chal slot sum ch), (.getMeasurements tr r, .meas r),
    (.getMeasurementExtensionLog tr off len, .mel off len), (.getCsr tr, .csr),
    (.setCertificate tr slot chain ok anchor, .setCert slot chain ok anchor), (.contextSet tr x, .ctxSet x),
    (.contextClear tr cid rsv, .ctxClear cid rsv), (.measureRange tr a n, .range a n)]
  let all : List (Instr × SpdmReq) := staged ++ [(.getVersion tr, .version), (.getCapabilities tr, .caps),
    (.negotiateAlgorithms tr asym hash mhash, .algs asym hash mhash), (.spdmUnsupportedRequest ⟨tr, flaw⟩, .bad flaw)]
  let queued := s.mod.auxUp = true ∧ s.mod.owner = none ∧ (tr.val = 0 → s.hst.linkUp = true)
  let err := fun (k : Byte) (z : State) => z.out = .spdm tr [0x13, 0x7F, k, 0] :: s.out ∧ z.sec = s.sec ∧ z.hst = s.hst
  let sent := fun (h : List Byte) (z : State) => ∃ t, z.out = .spdm tr (h ++ t) :: s.out
  let waits := fun (nonce : List Byte) (z : State) => z.out = s.out ∧ ∃ b q, z.sec = (secAdd (.spdm tr nonce b q) s).sec
  let ready := opn = true ∧ stage = 3
  (∀ i y, (i, y) ∈ all →
    (queued → exec i s = .next { s with sec := { s.sec with held := s.sec.held ++ [(tr.val, y)] } }) ∧
    (opn = false → ¬queued → exec i s = .next s)) ∧
  (opn = true → (∃ z, exec (.spdmUnsupportedRequest ⟨tr, flaw⟩) s = .next z ∧
      err (match flaw with | .code => 7 | .form => 1 | .version => 0x41) z) ∧
    (∃ z, exec (.getVersion tr) s = .next z ∧ connOf z tr = ⟨1, none, 0, []⟩ ∧ sent [0x10, 0x04] z) ∧
    (stage ≠ 1 → ∃ z, exec (.getCapabilities tr) s = .next z ∧ err 4 z) ∧
    (stage ≠ 2 → ∃ z, exec (.negotiateAlgorithms tr asym hash mhash) s = .next z ∧ err 4 z) ∧
    (stage ≠ 3 → ∀ i y, (i, y) ∈ staged → ∃ z, exec i s = .next z ∧ err 4 z) ∧
    (stage = 1 → ∃ z, exec (.getCapabilities tr) s = .next z ∧ connOf z tr = { connOf s tr with stage := 2 } ∧
      sent [0x13, 0x61] z) ∧
    (stage = 2 → ∃ z, exec (.negotiateAlgorithms tr asym hash mhash) s = .next z ∧
      if bitAt asym 6 = true ∧ bitAt hash 2 = true ∧ bitAt mhash 3 = true then
        connOf z tr = { connOf s tr with stage := 3 } ∧ sent [0x13, 0x63] z
      else err 1 z)) ∧
  (ready →
    (∃ z, exec (.getDigests tr) s = .next z ∧ z.sec = s.sec ∧ sent [0x13, 0x01, 3, BitVec.ofNat 8 (slotMask s)] z) ∧
    (∃ z, exec (.getCertificate tr slot o l) s = .next z ∧
      if hasChain s slot = true ∧ o.val ≤ (slotChain s slot).length then
        ∃ h, h.length = 8 ∧ z.out = .spdm tr (h ++ ((slotChain s slot).drop o).take l) :: s.out
      else err 1 z) ∧
    (∃ z, exec (.challenge tr slot sum ch) s = .next z ∧
      if hasChain s slot = false then err 1 z else if s.sec.dik = true then waits ch.nonce z else err 5 z) ∧
    (∃ z, exec (.getCsr tr) s = .next z ∧ if s.sec.dik = true then waits [] z else err 5 z) ∧
    (∃ z, exec (.getMeasurements tr r) s = .next z ∧
      if (r.index.val ≠ 0 ∧ r.index.val ≠ 255 ∧ r.index.val ∉ measIndices) ∨
        (r.sign = true ∧ hasChain s r.slot = false) then err 1 z
      else if r.sign = true then (if s.sec.dik = true then waits r.nonce z else err 5 z)
      else z.sec = s.sec ∧ sent [0x13, 0x60] z) ∧
    (∃ z, exec (.getMeasurementExtensionLog tr off len) s = .next z ∧
      if (melBytes s).length < off.val then err 1 z
      else ∃ h, h.length = 12 ∧ z.out = .spdm tr (h ++ ((melBytes s).drop off).take len) :: s.out) ∧
    (∃ z, exec (.setCertificate tr slot chain ok anchor) s = .next z ∧
      if slot.val ≠ 1 ∨ chain = [] then err 1 z
      else z.sec = (secAdd (.setCert tr chain ok anchor) s).sec ∧ z.out = s.out) ∧
    (∃ z, exec (.contextSet tr x) s = .next z ∧ z.hst = s.hst ∧
      if ctxEarly s tr x = 0 then z.sec = (secAdd (.context tr x) s).sec ∧ z.out = s.out
      else z.resp = ctxEarly s tr x ∧ z.sec = s.sec) ∧
    (∃ z, exec (.contextClear tr cid rsv) s = .next z ∧
      (63 < cid ∨ rsv ≠ 0 → z.resp = 0x01D2 ∧ z.hst = s.hst) ∧
      (cid ≤ 63 → rsv = 0 → ctxInUse s cid = true → z.resp = 0x0583 ∧ z.hst = s.hst) ∧
      (cid ≤ 63 → rsv = 0 → ctxInUse s cid = false → z.resp = 0 ∧
        ctxAt z cid = { ctxAt s cid with st := 0, keyIn := 0, keyOut := 0 })) ∧
    ∃ z, exec (.measureRange tr a n) s = .next z ∧ z.resp = rangeCode s a n ∧
      if rangeCode s a n = 0 then tfind z.meas.measuring (addrDie a) = some (a, n) ∧ regionState z (addrDie a) ≠ 0
      else z.meas = s.meas ∧ z.od = s.od) ∧
  (s.sec.ops = [] → exec .securityEngineOpComplete s = .next s) ∧
  (∀ t p l, s.sec.ops = p :: l →
    (∀ q b w, p = .spdm t q b w → ∃ z, exec .securityEngineOpComplete s = .next z ∧
      z.sec.ops = (secFill l s.sec.wait s).sec.ops ∧ z.out = .spdm t (b ++ padTo 512 (Config.sign 0 (q ++ b))) :: s.out ∧
      ∀ v k, w = some (v, k) → connOf z t = { connOf s t with nonce := some v, at_ := s.now, blocks := k }) ∧
    (p = .setCert t chain ok anchor → ∃ z, exec .securityEngineOpComplete s = .next z ∧
      z.sec.ops = (secFill l s.sec.wait s).sec.ops ∧
      if ok = true then z.sec.slot1 = chain ∧ tfind z.dom oSITE_ANCHOR_DIGEST = some (padTo 64 anchor)
      else z.sec.slot1 = s.sec.slot1 ∧ z.resp = 0x0467) ∧
    (p = .context t x → ∃ z, exec .securityEngineOpComplete s = .next z ∧ z.resp = ctxCode s t x ∧
      z.sec.ops = (secFill l s.sec.wait s).sec.ops ∧ (ctxCode s t x ≠ 0 → z.hst = s.hst) ∧
      ∀ h m, x.keys = some (h, m) → ctxCode s t x = 0 → z.meas.since = true ∧
        ctxAt z x.ctx = ⟨1, x.chan % 2 ^ 32, h, m, 0, 0, (ctxAt s x.ctx).fails, []⟩)) ∧
  (tfind s.meas.measuring die = none → exec (.measureRangeComplete die) s = .next s) ∧
  (∀ b m, tfind s.meas.measuring die = some (b, m) → ∃ z, exec (.measureRangeComplete die) s = .next z ∧
    tfind z.meas.measuring die = none ∧ z.meas.since = true ∧ z.meas.gen = (s.meas.gen + 1) % 2 ^ 32 ∧
    tget z.meas.recs die [] = tget s.meas.recs die [] ++ [⟨b, m, s.now, rangeRoot (memRead s.mem b m)⟩]) ∧
  (s.sec.commit = false → exec (.fwStageCommitDone c g d) s = .next s) ∧
  (s.sec.commit = true → let k := stagedSlot s
    ∃ z, exec (.fwStageCommitDone c g d) s = .next z ∧ z.sec.commit = false ∧ z.sec.into = k ∧
    odv z oFW_STAGE_STATUS = (if fwHeaderOk s k = false then 0x01D0 else if c = false ∨ g = false ∨ d = false then 0x0461
      else if fwHdr s k 0x0C 4 < odv s oFW_SVN_MIN then 0x0462 else 0) ∧
    (odv z oFW_STAGE_STATUS = 0 → odv z oFW_STAGE_STATE = 2 ∧ (tget z.sec.slots k ⟨false, [], true⟩).ok = true) ∧
    (odv z oFW_STAGE_STATUS ≠ 0 → odv z oFW_STAGE_STATE = 3 ∧ z.sec.slots = s.sec.slots)) ∧
  ∃ z, exec .dikGenerationDone s = .next z ∧ z.sec.dik = (s.sec.dik || !isAC s) ∧ z.od = s.od

/-! ### Observation -/

/-- R26, R470 to R474, R478, R479, R484, R486: the collected peer of lowest depth gives the step; a step is applied only while
nothing that measures time runs, shortens no slot gap, and what a negative step asks for is held back; a lost reference is
flagged and its time adds up; FREEZE_AT freezes once reached; a full or post-complete trace stops with its closing GAP
records; TRACE_DATA is refused to a CAN bus and while a capture runs, is empty in confidential mode, and else shows its
window. -/
def Obligations.TimeAndTrace : Prop :=
  ∀ (path : Fin 4) (s : State),
  let stops := fun (z : State) =>
    z.obs = { s.obs with gap0 := some (traceGap s 0), gap1 := some (traceGap s 1) } ∧ odv z oTRACE_STATE = 3
  let full := odv s oTRACE_STATE = 1 ∧ traceMode s = 1 ∧ (s.obs.trace0.wrapped = true ∨ s.obs.trace1.wrapped = true)
  let post := odv s oTRACE_STATE = 2 ∧ (s.obs.trace0.post = some 0 ∨ s.obs.trace1.post = some 0)
  let read := fun (code : Nat) (bs : List Byte) => ∃ z, exec (.traceDataRead path) s = .next z ∧ z.resp = code ∧
    z.out = if code = 0 then .object oTRACE_DATA bs :: s.out else s.out
  (s.tim.collect = false → exec .alignCollectWindowEnd s = .next s) ∧
  (s.tim.collect = true → ∃ z, exec .alignCollectWindowEnd s = .next z ∧ z.tim.collect = false ∧ z.tim.cands = [] ∧
    (s.tim.cands = [] → z.tim.step = none) ∧
    ∀ c, c ∈ s.tim.cands → ∃ b, b ∈ s.tim.cands ∧ z.tim.step = some (b.2.2, b.1, b.2.1 + 1) ∧
      (b.2.1 < c.2.1 ∨ (b.2.1 = c.2.1 ∧ b.1 ≤ c.1))) ∧
  (s.tim.step = none ∨ mayAlign s = false → exec .timeAlign s = .next s) ∧
  (∀ d p k, s.tim.step = some (d, p, k) → s.graphs = [] → (∀ e, e ∈ s.rem.fes → e.2.robs = []) → s.rem.colls = [] →
    bitAt (odv s oTIME_FLAGS) 1 = false → ∃ z, exec .timeAlign s = .next z ∧ z.now = (s.now + d.toNat) % 2 ^ 64 ∧
      z.tim = { s.tim with step := none, hold := s.tim.hold + (-d).toNat } ∧ odv z oTIME_ALIGN_STEP = uxt 64 d ∧
      z.flt = { s.flt with slot0 := s.flt.slot0.map (· + d.toNat), slot1 := s.flt.slot1.map (· + d.toNat) } ∧
      z.mod = { s.mod with secAt := s.mod.secAt + d.toNat } ∧
      odv z oTIME_ALIGN_PORT = p ∧ odv z oTIME_ALIGN_DEPTH = k ∧ odv z oTIME_ALIGN_ERR_NS = 5 * k ∧
      bitAt (odv z oTIME_FLAGS) 2 = false) ∧
  (s.mod.auxUp = false ∨ s.tim.lostAt ≠ none → exec .ref25Loss s = .next s) ∧
  (s.mod.auxUp = true → s.tim.lostAt = none → ∃ z, exec .ref25Loss s = .next z ∧ z.tim.lostAt = some s.now ∧
    z.mod.pins = { s.mod.pins with ref25 := false } ∧ bitAt (odv z oTIME_FLAGS) 1 = true ∧
    bitAt (odv z oTIME_FLAGS) 3 = true) ∧
  (s.tim.lostAt = none → exec .ref25Relock s = .next s) ∧
  (∀ a, s.tim.lostAt = some a → ∃ z, exec .ref25Relock s = .next z ∧ z.tim.lostAt = none ∧
    z.mod.pins = { s.mod.pins with ref25 := true } ∧ bitAt (odv z oTIME_FLAGS) 1 = false ∧
    odv z oTIME_UNLOCKED_NS = odv s oTIME_UNLOCKED_NS + (s.now - a)) ∧
  (odv s oFREEZE_STATE ≠ 1 ∨ s.now < odv s oFREEZE_AT → exec .freezeAtReached s = .next s) ∧
  (odv s oFREEZE_STATE = 1 → odv s oFREEZE_AT ≤ s.now → ∃ z, exec .freezeAtReached s = .next z ∧ odv z oFREEZE_STATE = 2 ∧
    odv z oFREEZE_CAUSE = 2 ∧ odv z oFREEZE_TIME = s.now ∧ z.frz = s.od.filter fun e => accumulates e.1) ∧
  (¬full → exec .traceBufferFull s = .next s) ∧ (full → ∃ z, exec .traceBufferFull s = .next z ∧ stops z) ∧
  (¬post → exec .tracePostComplete s = .next s) ∧ (post → ∃ z, exec .tracePostComplete s = .next z ∧ stops z) ∧
  (s.mod.owner = none → exec (.traceDataRead path) s = .next s) ∧
  (s.mod.owner ≠ none → (inRecovery s = true → read 0x0590 []) ∧
    (inRecovery s = false → (path.val < 2 → read 0x0450 []) ∧
      (2 ≤ path.val → (confidential s = true → read 0 []) ∧
        (confidential s = false → (capturing s = true → read 0x05C0 []) ∧ (capturing s = false → read 0 (traceWindow s))))))

/-- R110, R487 to R494, R496: a break begins its graph's drain, or waits behind the one reported, its tiles at a boundary run
Filler, and the tile that hit an entry has passed it; a drained graph is BROKEN and its tile dumped; one that does not drain
is discarded; the oldest waiting break comes next; a hang is told once and starts an assembly outside confidential mode; the
second read keeps the edges found twice. -/
def Obligations.BreaksAndHangs : Prop :=
  ∀ (t : TileId) (h : Nat) (s : State),
  let x := tileSt s t
  let broken := fun (b : BreakSt) (z : State) => z.obs.brk = some { b with broken := true } ∧ odv z oBRK_STATE = 2
  let quiet := fun (g : GraphSt) => (∀ r, g.run = some r → r.hung = true ∨
      s.now < r.lastAt + odv s oHANG_TIMEOUT_MS * 1000000) ∨ (breakOf s h).isSome = true ∨ odv s oHANG_TIMEOUT_MS = 0
  let waits := fun (r : Run) => bundleOn x (bundleAt x r.pc) && bundleWaits x (bundleAt x r.pc)
  (x.run = none ∨ x.mode ≠ .active ∨ x.stopped ≠ none → exec (.brkAddrHit t) s = .next s) ∧
  (∀ r, x.run = some r →
    (r.held = false ∨ r.ending = true ∨ waits r = true ∨ brkAddrHitOf s t r.pc r.passed = none →
      exec (.brkAddrHit t) s = .next s) ∧
    ∀ i, brkAddrHitOf s t r.pc r.passed = some i → r.held = true → r.ending = false → x.mode = .active → x.stopped = none →
      waits r = false → breakOf s x.graph = none →
      ∃ z, exec (.brkAddrHit t) s = .next z ∧ (tileSt z t).run = some { r with passed := i :: r.passed } ∧
        (∀ g e, tfind s.graphs x.graph = some g → e ∈ g.tiles → (tileSt s e.1).graph = x.graph →
          (tileSt s e.1).mode = .active → (tileSt s e.1).credit = true →
          (∀ q, (tileSt s e.1).run = some q → q.held = true ∧ q.ending = false) → (tileSt z e.1).filler ≠ none) ∧
        (s.obs.brk = none → z.obs.brk = some ⟨x.graph, t, 2, i + 1, s.now, false⟩ ∧ odv z oBRK_STATE = 1 ∧
          odv z oBRK_HANDLE = x.graph) ∧
        (s.obs.brk ≠ none → z.obs.brk = s.obs.brk ∧
          z.obs.held = s.obs.held ++ [⟨x.graph, t, 2, i + 1, s.now, false⟩])) ∧
  (s.obs.brk = none → exec .brkDrainComplete s = .next s ∧ exec .brkDrainTimeout s = .next s) ∧
  (∀ b, s.obs.brk = some b →
    (b.broken = true → exec .brkDrainComplete s = .next s ∧ exec .brkDrainTimeout s = .next s) ∧
    (graphDrained s b.graph = false → exec .brkDrainComplete s = .next s) ∧
    (b.broken = false → graphDrained s b.graph = true → ∃ z, exec .brkDrainComplete s = .next z ∧ broken b z ∧
      tfind z.dom oBRK_DUMP = some (breakDump s b)) ∧
    (b.broken = false → ∃ z, exec .brkDrainTimeout s = .next z ∧ z.obs.brk = none ∧
      ∀ g r, tfind s.graphs b.graph = some g → g.run = some r → g.unload = none →
        (∃ g', tfind z.graphs b.graph = some g' ∧ g'.run = none ∧ g'.tiles = g.tiles) ∧
        z.cmds = s.cmds.map fun c => if c.ring = r.ring ∧ c.idx = r.idx ∧ c.done = none then
          { c with done := some ⟨0x05C1, r.flags % 256, 0, 0⟩, doneAt := s.now, doneOrd := nextOrd s } else c)) ∧
  (s.obs.brk ≠ none ∨ s.obs.held = [] → exec .heldBreakTakeUp s = .next s) ∧
  (∀ b q, s.obs.brk = none → s.obs.held = b :: q → ∃ z, exec .heldBreakTakeUp s = .next z ∧ z.obs.held = q ∧
    (graphDrained s b.graph = true → broken b z) ∧
    (graphDrained s b.graph = false → z.obs.brk = some b ∧ odv z oBRK_STATE = 1 ∧ odv z oBRK_HANDLE = b.graph)) ∧
  (tfind s.graphs h = none → exec (.hangDetected h) s = .next s) ∧
  (∀ g, tfind s.graphs h = some g → (quiet g → exec (.hangDetected h) s = .next s) ∧
    ∀ r, g.run = some r → ¬quiet g → ∃ z, exec (.hangDetected h) s = .next z ∧ odv z oHANG_HANDLE = h ∧
      odv z oHANG_COUNT = (odv s oHANG_COUNT + 1) % 2 ^ 32 ∧
      tfind z.graphs h = some { g with run := some { r with hung := true } } ∧
      (confidential s = true ∨ s.obs.wfg ≠ none → z.obs.wfg = s.obs.wfg) ∧
      (confidential s = false → s.obs.wfg = none → odv z oWFG_STATE = 1 ∧
        ∃ w, z.obs.wfg = some w ∧ w.handle = h ∧ w.hang = true)) ∧
  (s.obs.wfg = none → exec .wfgSecondRead s = .next s) ∧
  ∀ w, s.obs.wfg = some w → ∃ z, exec .wfgSecondRead s = .next z ∧ z.obs = { s.obs with wfg := none } ∧
    odv z oWFG_STATE = 2 ∧ tfind z.dom oWFG_DATA = some (wfgData w
      (w.edges.filter fun e => (wfgEdges s w.handle).contains e) (graphFirings s w.handle != w.fired) s.now)

/-! ### Power-on, starts, stops and the management cores -/

/-- R394, R439, R500 to R503, R505, R508, R512, R531: AUX boots the cores, and the first with a valid image owns; without one a
core in RECOVERY claims; a cold start begins only when its conditions hold and goes through its steps in order, with both
on-package memories zeroed and the tiles at rest at its end; a step that fails ends in FAULT; the module is in STANDBY once
every rail is off; MATE_N turns the input off at once. -/
def Obligations.LifeCycle : Prop :=
  ∀ (a : AuxIn) (e : StartIn) (slot : Fin 64) (prof : Fin 4) (lost : List (Fin 4)) (s : State),
  let valid := fun (c : Nat) => let v := slotsOk s (if c = 0 then a.boot.coreA else a.boot.coreB); v.1 || v.2
  let f := a.boot.first.val
  let owner := if valid f = true then some f else if valid (1 - f) = true then some (1 - f) else none
  let booting := s.mod.owner = none ∧ s.mod.everOwned = false ∧ coreState s 0 = 0 ∧ coreState s 1 = 0
  let unclaimed := s.mod.auxUp = true ∧ s.mod.owner = none ∧ s.mod.everOwned = false
  let off := fun (z : State) => ∀ n, n < 11 → railState z n = 0 ∨ railState z n = 4
  let bare := fun (z : State) => z.tiles = [] ∧ z.graphs = [] ∧ z.cmds = [] ∧ z.hst.linkUp = false
  let at_ := fun (k : Nat) => modState s = 1 ∧ odv s oSTART_STEP = k
  let zeroed := fun (z : State) (lo hi : Nat) => ∀ x, memByte z.mem x = if lo ≤ x ∧ x < hi then 0 else memByte s.mem x
  let start := exec (.startStepComplete e) s
  let fault := ∃ z, start = .next z ∧ modState z = 5 ∧ odv z oSTART_STEP = 0 ∧ bare z
  let free := 0 ∉ s.trw.held ∧ 1 ∉ s.trw.held ∧ ∀ p, p ∈ e.failsA → p ∉ e.failsB
  (s.mod.auxUp = true → ¬booting → exec (.auxPowerOn a) s = .next s) ∧
  (s.mod.auxUp = false ∨ booting → ∃ z, exec (.auxPowerOn a) s = .next z ∧ z.mod.auxUp = true ∧ z.mod.owner = owner ∧
    (∀ c, c < 2 → coreState z c = if owner = some c then 2 else if valid c = true ∧ owner ≠ none then 1 else 4) ∧
    odv z oPOWER_CYCLES = (odv s oPOWER_CYCLES + 1) % 2 ^ 32 ∧ z.now = 0 ∧ z.mem = s.mem ∧ z.pending = s.pending ∧ bare z ∧
    z.mod.pins.slotId = a.slotId ∧ z.mod.pins.ref25 = a.ref25) ∧
  (¬unclaimed ∨ (coreState s 0 ≠ 4 ∧ coreState s 1 ≠ 4) → exec .recoveryClaim s = .next (drainRx s)) ∧
  (unclaimed → ∀ c, coreState s c = 4 → c = 0 ∨ (c = 1 ∧ coreState s 0 ≠ 4) → ∃ z, exec .recoveryClaim s = .next (drainRx z) ∧
    z.can.rx = s.can.rx ∧ z.mod.owner = some c ∧ odv z oMGMT_OWNER = c ∧ coreState z c = 4 ∧ z.mod.hwCap = 2200 ∧
    z.mod.pins = { s.mod.pins with faultHeld := false }) ∧
  (s.mod.auxUp = false → exec .auxLoss s = .next s) ∧
  (s.mod.auxUp = true → ∃ z, exec .auxLoss s = .next z ∧ z.mod.auxUp = false ∧ z.mod.owner = none ∧ bare z ∧ off z ∧
    z.mod.pins.laserEn = false ∧ z.mod.pins.tripN = true ∧ coreState z 0 = 0 ∧ coreState z 1 = 0 ∧
    modState z = if s.mod.tripLatch = true then 6 else 0) ∧
  (mayColdStart s = false → exec (.coldStart slot prof lost) s = .next s) ∧
  (mayColdStart s = true → ∃ z, exec (.coldStart slot prof lost) s = .next z ∧ modState z = 1 ∧ odv z oSTART_STEP = 1 ∧
    odv z oLAST_START_CAUSE = s.mod.nextCause ∧ odv z oSLOT_ID = slot ∧ odv z oPROFILE_ACTIVE = prof ∧ odv z oSEC_MODE = 0 ∧
    odv z oPRIMER_COUNT = 0 ∧ bitAt (odv z oCAP_STATUS) 9 = false ∧ z.tiles = [] ∧ (s.now < 2 ^ 64 → z.now = s.now) ∧ z.mod.pins.slotId = slot ∧
    z.mod.inStop = false ∧
    ∀ g, g < 2 → g ∉ s.trw.held → engState z g = 0) ∧
  (modState s ≠ 1 ∨ odv s oSTART_STEP = 0 ∨ 9 ≤ odv s oSTART_STEP → start = .next s) ∧
  (at_ 1 → free → e.failsA.length ≤ 4 → (e.trip = none → ∃ z, start = .next z ∧ engState z 0 = 3 ∧ odv z oTROWEL_OWNER = 0 ∧ odv z oTRIP_TEST_FAILED = 0 ∧
      engState z 1 = (if e.failsB.length ≤ 4 then 2 else 4) ∧ odv z oSTART_STEP = 2) ∧
    (∀ n, e.trip = some n → fault ∧ ∀ z, start = .next z → odv z oTRIP_TEST_FAILED = n + 1)) ∧
  (at_ 1 → free → 4 < e.failsA.length → 4 < e.failsB.length → fault) ∧
  (at_ 2 → ∃ z, start = .next z ∧ odv z oSTART_STEP = 3 ∧ z.trw = s.trw) ∧
  (at_ 3 → ((∃ n, n < 11 ∧ railState s n ≠ 2) → start = .next s) ∧
    ((∀ n, n < 11 → railState s n = 2) → ∃ z, start = .next z ∧ odv z oSTART_STEP = 4)) ∧
  (at_ 4 → ∃ z, start = .next z ∧ odv z oSTART_STEP = 5 ∧ z.mod.pins.laserEn = laserWanted (odSet s oSTART_STEP 5)) ∧
  (at_ 5 → ∃ z, start = .next z ∧ odv z oSTART_STEP = 6 ∧ zeroed z 0x100000000 0x300000000) ∧
  (at_ 6 → (e.training = none → ∃ z, start = .next z ∧ odv z oSTART_STEP = 7 ∧ z.ecc.trained = List.range 64) ∧
    (e.training ≠ none → fault)) ∧
  (at_ 7 → ∃ z, start = .next z ∧ odv z oSTART_STEP = 8 ∧ zeroed z 0x10000000000 0x22000000000) ∧
  (at_ 8 → (e.digestOk = false → fault) ∧ (e.digestOk = true → ∃ z, start = .next z ∧ modState z = 2 ∧
    odv z oSTART_STEP = 0 ∧ z.mesh = ⟨[], []⟩ ∧ (∀ t, t < 288 → tileSt z t = if odv s (enableKey t) = 0 then TileSt.initial
      else { TileSt.initial with mode := .rest }) ∧
    ∀ x, memByte z.mem x = if x < 0x24000000 ∨ (0x40000000 ≤ x ∧ x < 0x64000000) then 0 else memByte s.mem x)) ∧
  (modState s ≠ 4 ∨ (∃ n, n < 11 ∧ railState s n ≠ 0) → exec .orderedStopComplete s = .next s) ∧
  (modState s = 4 → (∀ n, n < 11 → railState s n = 0) → ∃ z, exec .orderedStopComplete s = .next z ∧ modState z = 0 ∧
    bare z ∧ odv z oSTART_HOLD = if s.mod.stopReq = 2 then 1 else 0) ∧
  (∃ z, exec .mateNRise s = .next z ∧ z.mod.pins.mateN = true ∧ z.mod.pins.inSwitch = false ∧
    (s.mod.auxUp = true → off z) ∧
    (s.mod.auxUp = true → z.mod.vinAt = none) ∧
    (s.mod.auxUp = true → mainUp s = true → modState z = 0 ∧ bare z ∧ z.mod.nextCause = 2 ∧ z.mod.inStop = true ∧
      odv z oINPUT_STOPS = (odv s oINPUT_STOPS + 1) % 2 ^ 32)) ∧
  exec .inputSwitchOn s =
    .next { s with mod := { s.mod with pins := { s.mod.pins with mateN := false, inSwitch := true } } }

/-- R447, R457, R462, R463, R506: Primer proper erases the tiles, both on-package levels and the buffers, and asks every live
port for new keys; its check erases LPDDR5X and ends what the tenant set up; its end records the result and settles the
security mode; a region's reset ends EMPTY. -/
def Obligations.PrimerRuns : Prop :=
  ∀ (whole : Bool) (die : Fin 2) (s : State),
  let zeroed := fun (z : State) (lo hi : Nat) => ∀ x, memByte z.mem x = if lo ≤ x ∧ x < hi then 0 else memByte s.mem x
  let stale := ∃ p n, (p, n) ∈ s.sec.keyed ∧ pv s oKEY_CHANGES p = n
  let m := odv s oSEC_MODE
  (odv s oPRIMER_STATE ≠ 1 → exec .primerApproachEnd s = .next s) ∧
  (odv s oPRIMER_STATE = 1 → ∃ z, exec .primerApproachEnd s = .next z ∧ odv z oPRIMER_STATE = 2 ∧
    (∀ t, tileSt z t = tileErased (tileSt s t)) ∧ zeroed z 0 0x10000000000 ∧ z.rem.fes = [] ∧ z.rem.colls = [] ∧
    z.fab.ej = [] ∧ z.fab.sw = (s.fab.sw.filter fun q => !ownPacket s q) ∧
    z.obs.brk = none ∧ z.obs.held = [] ∧ z.obs.wfg = none ∧ z.sec.keyed.map (·.1) = (List.range 16).filter fun p => portState s p == 6) ∧
  (odv s oPRIMER_STATE ≠ 2 ∨ s.sec.check ≠ none → exec (.primerEraseCheck whole) s = .next s) ∧
  (odv s oPRIMER_STATE = 2 → s.sec.check = none → ∃ z, exec (.primerEraseCheck whole) s = .next z ∧
    zeroed z 0x10000000000 0x22000000000 ∧ z.hst.ctxs = [] ∧ z.hst.sets = [] ∧ z.rem.windows = [] ∧ z.rem.maps = [] ∧
    z.rem.stale = [] ∧ odv z oSTALE_MEMBERS = 0 ∧ regionState z 0 = 0 ∧ regionState z 1 = 0 ∧ z.flt.learned = [] ∧
    (whole = false → z.sec.check = some 1) ∧ (whole = true → stale → z.sec.check = some 2) ∧
    (whole = true → ¬stale → z.sec.check = some 0)) ∧
  (s.sec.check = none → exec .primerEnd s = .next s) ∧
  (∀ c, s.sec.check = some c → ∃ z, exec .primerEnd s = .next z ∧ odv z oPRIMER_STATE = 0 ∧ modState z = 2 ∧
    odv z oPRIMER_COUNT = (odv s oPRIMER_COUNT + 1) % 2 ^ 32 ∧ z.sec.check = none ∧ z.flt.hold = none ∧
    z.sec.last = (if c = 0 then 1 else 2) ∧ (c = 0 → odv z oPRIMER_LAST_RESULT = 0 ∧ z.meas.since = false) ∧
    odv z oSEC_MODE = if m < 2 then m else if c = 0 then 3 - m else s.sec.prev) ∧
  (regionState s die ≠ 2 ∨ modState s ≠ 2 → exec (.regionResetComplete die) s = .next s) ∧
  (regionState s die = 2 → modState s = 2 → ∃ z, exec (.regionResetComplete die) s = .next z ∧ regionState z die = 0 ∧
    z.meas = { s.meas with gen := (s.meas.gen + 1) % 2 ^ 32 })

/-- R405, R509 to R512, R514, R516, R522 to R524: a standby takes over from an owner that fails, and ends the requests in
progress; without one no core owns, which after 10 ms lowers FAULT_N and caps the module in hardware; a failed core is
restarted once, and one that fails again within 3,600 s never;
the oldest entry of the logbook is committed where a slot is erased, and the sector after the next erased in time; a record
read by path moves on to the next, and one that flash has lost reads as corrupt. -/
def Obligations.ManagementAndLogbook : Prop :=
  ∀ (path : Fin 4) (lost : Bool) (c : Fin 2) (ok : Bool) (k : Fin 1024) (s : State),
  let owns := s.mod.owner = some c.val ∧ coreState s c = 2
  let recent := ∃ t, tfind s.mod.autoAt c = some t ∧ s.now < t + 3600000000000
  let restarts := s.mod.auxUp = true ∧ coreState s c = 3 ∧ ¬recent ∧ c.val ∉ s.mod.dead
  let failed := fun (m z : ModSt) => (¬recent → z = m) ∧ (recent → z = { m with dead := c.val :: m.dead })
  let due := s.mod.owner ≠ none ∧ (s.log.isOpen = false ∨ 2 ≤ s.log.queue.length ∨ s.log.openedAt + 1000000000 ≤ s.now)
  let w := (s.log.wslot + 1) % 16384
  let n := (s.now - s.mod.secAt) / 1000000000
  let q := tget s.log.readSeq path (logTail s)
  let read := fun (code : Nat) (z : State) => exec (.logRecordRead ⟨path, lost⟩) s = .next z ∧ z.resp = code
  (owns → ∀ i, i = .mgmtHeartbeatTimeout ∨ i = .mgmtSelfCheckFault c →
    (coreState s (1 - c) ≠ 1 → ∃ z, exec i s = .next z ∧ failed { s.mod with owner := none } z.mod ∧ coreState z c = 3 ∧
      z.out = s.out ∧ z.log = s.log) ∧
    (coreState s (1 - c) = 1 → ∃ z, exec i s = .next z ∧ z.mod.owner = some (1 - c.val) ∧ coreState z c = 3 ∧
      coreState z (1 - c) = 2 ∧ odv z oMGMT_OWNER = 1 - c.val ∧ odv z oMGMT_TAKEOVERS = (odv s oMGMT_TAKEOVERS + 1) % 2 ^ 32 ∧
      tfind z.can.usdo 0 = none ∧ tfind z.can.usdo 1 = none ∧ z.can.mail.busy = false ∧ z.graphs = s.graphs ∧
      z.tiles = s.tiles)) ∧
  (s.mod.owner = none → exec .mgmtHeartbeatTimeout s = .next s) ∧
  (s.mod.owner = some c.val → coreState s c ≠ 2 → exec .mgmtHeartbeatTimeout s = .next s) ∧
  (¬owns → coreState s c ≠ 1 → exec (.mgmtSelfCheckFault c) s = .next s) ∧
  (¬owns → coreState s c = 1 → ∃ z, exec (.mgmtSelfCheckFault c) s = .next z ∧ coreState z c = 3 ∧ failed s.mod z.mod) ∧
  (¬restarts → exec (.mgmtCoreRestart c ok) s = .next (drainRx s)) ∧
  (s.mod.owner = none ∨ (s.can.rx = [] ∧ s.sec.held = []) → drainRx s = s) ∧
  (restarts → ∃ z, exec (.mgmtCoreRestart c ok) s = .next (drainRx z) ∧ z.can.rx = s.can.rx ∧ tfind z.mod.autoAt c = some s.now ∧
    (ok = false → coreState z c = 4 ∧ z.mod.owner = s.mod.owner) ∧
    (ok = true → s.mod.owner ≠ none → coreState z c = 1 ∧ z.mod.owner = s.mod.owner) ∧
    (ok = true → s.mod.owner = none → coreState z c = 2 ∧ z.mod.owner = some c.val ∧ z.mod.everOwned = true)) ∧
  (s.mod.auxUp = false ∨ s.mod.owner ≠ none → exec .noOwnerTimeout s = .next s) ∧
  (s.mod.auxUp = true → s.mod.owner = none → exec .noOwnerTimeout s = .next { s with mod := { s.mod with
    hwCap := min s.mod.hwCap (odv s oAUTONOMOUS_CAP_W), pins := { s.mod.pins with faultHeld := true } } }) ∧
  (¬due ∨ s.log.queue = [] ∨ (s.log.wslot / 16) ∉ s.log.erased → exec .logCommit s = .next s) ∧
  (due → (s.log.wslot / 16) ∈ s.log.erased → ∀ r t, s.log.queue = r :: t → ∃ z, exec .logCommit s = .next z ∧
    z.log.queue = t ∧ z.log.wslot = w ∧ tfind z.log.ring s.log.wslot = some (closeRec r, true) ∧
    (∀ j, j ≠ s.log.wslot → w % 16 ≠ 0 ∨ j / 16 ≠ (w / 16 + 2) % 1024 → tfind z.log.ring j = tfind s.log.ring j) ∧
    (w % 16 = 0 → (w / 16 + 2) % 1024 ∈ z.log.erasing ∧ (w / 16 + 2) % 1024 ∉ z.log.erased)) ∧
  (k.val ∉ s.log.erasing → exec (.logSectorEraseDone k) s = .next s) ∧
  (k.val ∈ s.log.erasing → ∃ z, exec (.logSectorEraseDone k) s = .next z ∧ k.val ∉ z.log.erasing ∧ k.val ∈ z.log.erased ∧
    z.log.ring = s.log.ring) ∧
  (s.mod.owner = none → exec (.logRecordRead ⟨path, lost⟩) s = .next s) ∧
  (s.mod.owner ≠ none → (inRecovery s = true → ∃ z, read 0x0590 z ∧ z.log = s.log) ∧
    (inRecovery s = false → (heldRec s q = none → ∃ z, read 0x0595 z ∧ z.out = s.out ∧ z.log = s.log) ∧
      ∀ i r g, heldRec s q = some (i, r, g) → let good := g && !lost
        ∃ z, read (if good = true then 0 else 0x0012) z ∧ z.out = .object oLOG_RECORD (storedBytes i r good) :: s.out ∧
        z.log = { s.log with
          readSeq := tput s.log.readSeq path ((q + 1) % 2 ^ 32)
          ring := if lost = true then s.log.ring.map fun e => if e.1 = i then (e.1, e.2.1, false) else e else s.log.ring })) ∧
  (s.mod.auxUp = false → exec .operatingSecondsSave s = .next s) ∧
  (s.mod.auxUp = true → ∃ z, exec .operatingSecondsSave s = .next z ∧
    odv z oOPERATING_SECONDS = (odv s oOPERATING_SECONDS + n) % 2 ^ 32 ∧
    z.mod = { s.mod with secAt := s.mod.secAt + n * 1000000000 })

/-! ### Named writes -/

/-- R34, R35, R110, R193, R197, R205, R219, R221, R232, R237, R258, R322, R323, R345, R349, R350, R352, R370 to R372, R377,
R388, R396, R405: each named write of the power envelope, the rails, the tiles and the fabric is judged as R405 orders, then
by its own rule, and leaves what that rule gives. -/
def Obligations.WritesOfPowerAndFabric : Prop :=
  ∀ (path : Fin 4) (v power : Nat) (bs : List Byte) (t : TileId) (die : Fin 2) (p : Fin 16) (rail : Fin 11)
    (failed : List (Fin 40)) (s : State),
  let w := fun (k : Nat) (c : Instr) (code : Nat) (Q : State → Prop) => writesOwn path k v c code Q s
  let bit := fun (z : State) (i : Nat) => bitAt (odv z oCAP_STATUS) i
  let floor := fun (k : Nat) (c : Instr) => w k c (if v < 400 then 0x0011 else 0) fun z =>
    odv z k = max v 400 ∧ (v < 400 → bit z 0 = true)
  let img := byteAt bs 6
  let o := trwOwner s
  let spare := 1 - odv s oGAIN_BANK_ACTIVE
  let ovr := fun (d : Nat) => odv s (oSLEW_SUPPORTED_INACTIVE + d) < odv s (oSLEW_LIMIT_CORE0 + d)
  let nom := railNominal rail
  let commit := if 1 < v then 0x0103 else if bankLive s v = true then 0x05B1 else match tfind s.trw.banks v with
    | none => 0
    | some g => if gainHeaderOk v g = false then 0x01B0 else if (gainBadSet g).isSome = true then 0x01B1 else 0
  let on := anyPortOn s = true
  let a := odv s oERR_INJECT_ADDR
  let kind := odv s oERR_INJECT_KIND
  let x := tileSt s t
  w oCAP_TARGET_W (.capTargetWrite path v) (if v < 400 then 0x0011 else 0) (fun z =>
    odv z oCAP_TARGET_W = max v 400 ∧ bit z 3 = false ∧ (v < 400 → bit z 0 = true)) ∧
  floor oAUTONOMOUS_CAP_W (.autonomousCapWrite path v) ∧
  floor oSAFE_CAP_W (.safeCapWrite path v) ∧
  w oFLOW_LOSS (.flowLossWrite path v) 0 (fun z => odv z oFLOW_LOSS = v ∧ (v = 1 → bit z 4 = true)) ∧
  w oFLOW_LPM (.flowLpmWrite path v) 0 (fun z => odv z oFLOW_LPM = v ∧ z.flt.flowAt = s.now ∧ (v < 50 → bit z 4 = true)) ∧
  w oSAFE_CAP_CLEAR (.safeCapClear path v) 0 (fun z =>
    bit z 4 = if v = 1 ∧ odv s oFLOW_LOSS = 0 then false else bit s 4) ∧
  w oSTEP_TEST (.stepTest path v) (if v % 256 = 0 then 0x0102 else if 144 < v % 256 ∨ 512 ≤ v then 0x0103
    else if (s.graphs.any fun g => g.2.tiles.any fun e => dieOf e.1 == bitsOf v 8 8) = true then 0x05A0 else 0) (fun z =>
    s.flt.test = none → z.flt = { s.flt with test := some ⟨bitsOf v 8 8, v % 256, [], false⟩ }) ∧
  w oTRIP_TEST (.tripTest path v failed) (if isReady s = false then 0x0590 else 0) (fun z => z.tiles = s.tiles ∧
    (v ≠ 0 → odv z oTRIP_TEST_FAILED = match failed.getLast? with | some n => n.val + 1 | none => 0)) ∧
  w oTROWEL_HANDOVER (.trowelHandover path v)
    (if v = 0 then 0 else if engState s (1 - o) ≠ 2 then 0x05B3 else 0)
    (fun z => z.trw = if v = 0 then s.trw else { s.trw with handover := true }) ∧
  writes path oGAIN_BANK_IMAGE bs.length 0 (.gainBankImage path bs) (tells path (.gainBankImage path bs)
    (if domBusy s path oGAIN_BANK_IMAGE = true then 0x0570 else if bs.length = 0 then 0x0102 else if gainSize < bs.length then 0x0103
      else if bs.length ≠ gainSize ∨ 1 < img then 0x01B0 else if bankLive s img = true then 0x05B1 else 0)
    (fun z => tfind z.trw.banks img = some bs ∧ bankValid z img = false ∧
      odv z (oGAIN_BANK_CRC + img) = crc32c (bs.drop 32)) s) s ∧
  writes path oGAIN_BANK_COMMIT (objSize oGAIN_BANK_COMMIT) v (.gainBankCommit path v)
    (∃ z, exec (.gainBankCommit path v) s = .next z ∧ z.resp = commit ∧ z.trw = s.trw ∧
      (commit = 0 → bankValid z v = true) ∧
      (commit = 0 ∨ commit = 0x01B0 ∨ commit = 0x01B1 → odv z oGAIN_COMMIT_STATUS = commit)) s ∧
  w oGAIN_BANK_SWAP (.gainBankSwap path v) (if v = 0 ∨ s.trw.swap = true then 0
    else if bankValid s spare = false then 0x05B2 else if ovr 0 ∨ ovr 1 then 0x0510 else 0)
    (fun z => z.trw = if v = 0 then s.trw else { s.trw with swap := true }) ∧
  w (oSLEW_LIMIT_CORE0 + die) (.slewLimitWrite path die v) (if slewCap s die < v then 0x0120 else 0)
    (fun z => odv z (oSLEW_LIMIT_CORE0 + die) = v) ∧
  w (railKey oVSET rail) (.vsetWrite path rail v)
    (if rail.val < 2 then 0x05B0 else if 103 * nom < 100 * v then 0x0103 else if 100 * v < 97 * nom then 0x01B2 else 0)
    (fun z => railV z oVSET rail = v ∧
      bitAt (railV z oRAIL_FLAGS rail) 1 = (bitAt (railV s oRAIL_FLAGS rail) 1 && v == railV s oVSET rail)) ∧
  w (railKey oPEAK_CLEAR rail) (.peakClear path rail v) 0 (fun z => (v = 0 → z.trw = s.trw) ∧
    (v ≠ 0 → railV z oI_PEAK rail = 0 ∧ railV z oV_MIN rail = 0 ∧ railV z oV_MAX rail = 0 ∧ (railSt z rail).fresh = true)) ∧
  w (enableKey t) (.tileEnableWrite path t v power) (if v = 0 ∧ x.graph ≠ 0 then 0x0541 else 0) (fun z =>
    odv z (enableKey t) = v ∧ (mainUp s = false → z.tiles = s.tiles) ∧
    (mainUp s = true → v = 0 → x.mode = .rest ∨ x.mode = .pupa → x.waking = false → (tileSt z t).mode = .off) ∧
    (mainUp s = true → v = 1 → x.mode = .off → tileSt z t = { x with mode := .rest })) ∧
  w oFABRIC_DIMS (.fabricDimsWrite path v)
    (if on then 0x0550 else if 16 < v then 0x0103 else if 2 ^ v ≤ odv s oNODE_ID then 0x0172 else 0)
    (fun z => odv z oFABRIC_DIMS = v) ∧
  w oNODE_ID (.nodeIdWrite path v) (if on then 0x0550 else if slotFits s (odv s oFABRIC_DIMS) v = false then 0x0170
    else if 2 ^ odv s oFABRIC_DIMS ≤ v then 0x0172 else 0) (fun z => odv z oNODE_ID = v) ∧
  w oMACHINE_ID (.machineIdWrite path v) (if on then 0x0550 else 0) (fun z => odv z oMACHINE_ID = v ∧ z.fab = s.fab) ∧
  w (pKey oPORT_ENABLE p) (.portEnableWrite path p v) 0 (fun z => pv z oPORT_ENABLE p = v ∧
    (v = 0 → portState s p ≠ 6 → portState z p = 0) ∧ (v ≠ 0 → portState s p ≠ 0 → portState z p = portState s p)) ∧
  w (pKey oFEC_MODE p) (.fecModeWrite path p v) (if v = 1 ∧ 20 ≤ pv s oFIBRE_LENGTH p then 0x0171 else 0) (fun z =>
    pv z oFEC_MODE p = v ∧ portState z p = if portState s p = 6 then 7 else portState s p) ∧
  w (pKey oRETRAIN_NOW p) (.retrainNow path p v) 0 (fun z =>
    portState z p = if v ≠ 0 ∧ portState s p = 6 then 7 else portState s p) ∧
  w oREKEY_ALL (.rekeyAll path v) 0 (fun z => (v = 0 → z.fab = s.fab) ∧
    (v ≠ 0 → portState s p = 6 → (portOf z p).forced = true)) ∧
  w oLASER_RESTART (.laserRestart path v) 0 (fun z => z.fab = if v = 0 then s.fab else { s.fab with latch := false }) ∧
  w oERR_INJECT_ARM (.errInjectArm path v) (if v = 0 then 0 else if confidential s = true then 0x0440
    else if kind = 0 then 0x0102 else if inMap a 1 = false then 0x0160 else if injectFits kind a = false then 0x0163 else 0)
    (fun z => z.ecc = if v = 0 then s.ecc else { s.ecc with armed := some (a, kind) }) ∧
  w oMEMBER_REVIVE (.memberRevive path v) 0 (fun z => z.rem.stale = s.rem.stale.filter (· ≠ v))

/-- R405, R418, R428 to R430, R439 to R442, R454, R457, R460, R475, R477 to R479, R483 to R485, R491, R494, R506 to R508, R511:
each named write of the dictionary, the profiles, the firmware, the security mode, the observation unit and the resets is
judged as R405 orders, then by its own rule, and leaves what that rule gives. -/
def Obligations.WritesOfTheModule : Prop :=
  ∀ (path : Fin 4) (v : Nat) (n : Fin 256) (pdo : Fin 4) (bs : List Byte) (b : BootIn) (i : Fin 16) (die : Fin 2)
    (ok : Bool) (s : State),
  let w := fun (k : Nat) (c : Instr) (code : Nat) (Q : State → Prop) => writesOwn path k v c code Q s
  let st := modState s
  let primes := fun (z : State) => modState z = 3 ∧ odv z oPRIMER_STATE = 1 ∧ z.graphs = [] ∧ z.cmds = [] ∧
    regionState z 0 = 2 ∧ regionState z 1 = 2
  let flash := fun (c : Instr) (k : Nat) (vals : Table Nat) => writes path k 1 v c
    (if s.can.profBusy ≠ none then exec c s = .next (tell path 0x0570 s)
     else ∃ z, exec c s = .next z ∧ z.resp = 0 ∧ z.can.profBusy = some (path.val, v, vals) ∧ z.od = s.od) s
  let map := pdoMapIdx pdo
  let unprof := profNow.find? fun k => profCode s k (profVal s v k) != 0
  let o := odv s oFW_STAGE_OFFSET
  let more := odv s oFW_STAGE_STATE = 1
  let into := if more then s.sec.into else stageSlot s
  let held0 := if more then (tget s.sec.slots into ⟨false, [], true⟩).chunks else []
  let held := if frozen s = true then 0x05C4 else 0
  let latched := odv s oFREEZE_STATE = 2
  let busy := if st = 1 ∨ st = 4 then 0x0592 else if st = 3 then 0x0581 else 0
  let main := fun (c : Instr) (r : Nat) => writesOwn path oRESET_REQUEST r c
    (if busy ≠ 0 then busy else if anyLatched s = true ∨ s.mod.tripLatch = true then 0x0594 else 0) (fun z =>
    if st = 2 then modState z = 4 ∧ z.graphs = [] ∧ (mayComplete s = true → z.cmds = []) ∧
      (∀ c, c ∈ z.cmds → c.done ≠ none) ∧ z.mod.stopReq = r ∧ z.mod.nextCause = 1
    else modState z = 0 ∧ odv z oSTART_HOLD = r - 1 ∧
      z.mod.nextCause = if st = 5 then 3 else if r = 1 then 1 else s.mod.nextCause) s
  writes path (map * 256) (objSize (map * 256)) n (.pdoMappingWrite path pdo n)
    (∃ z, exec (.pdoMappingWrite path pdo n) s = .next z ∧ z.resp = mapCode s map n ∧
      odv z (map * 256) = if mapCode s map n = 0 then n.val else 0) s ∧
  w oPROFILE_ACTIVE (.profileActiveWrite path v)
    (match unprof with | some k => profCode s k (profVal s v k) | none => 0)
    (fun z => odv z oPROFILE_ACTIVE = v ∧ ∀ k, k ∈ profNow → odv z k = profVal s v k) ∧
  flash (.profileSave path v) oPROFILE_SAVE ((profReset ++ profNow).foldl (fun t k => tput t k (odv s k)) []) ∧
  flash (.profileFactory path v) oPROFILE_FACTORY [] ∧
  w oLINK_AUTH_MODE (.linkAuthModeWrite path v)
    (if (v = 0 ∧ isAC s = false) ∨ (v = 1 ∧ s.sec.slot1 = []) ∨ (v = 2 ∧ (confidential s = true ∨ odv s oSEC_MODE = 2)) then 0x0465
      else if anyPortOn s = true then 0x0550 else 0) (fun z => odv z oLINK_AUTH_MODE = v) ∧
  w oCONF_MODE_REQUEST (.confModeRequest path v) (if v = 1 ∧ isAC s = false then 0x0460
    else if v = 1 ∧ odv s oLINK_AUTH_MODE = 2 then 0x0466 else if st = 3 then 0x0581
    else if v = odv s oSEC_MODE then 0 else if isReady s = false then 0x0590 else 0) (fun z =>
    (v = odv s oSEC_MODE → z.graphs = s.graphs ∧ odv z oSEC_MODE = v) ∧
    (v ≠ odv s oSEC_MODE → primes z ∧ odv z oSEC_MODE = (if v = 1 then 2 else 3) ∧ z.sec.prev = odv s oSEC_MODE)) ∧
  w oPRIMER_START (.primerStart path v)
    (if v = 0 then 0 else if st = 3 then 0x0581 else if isReady s = false then 0x0590 else 0)
    (fun z => (v = 0 → z.graphs = s.graphs) ∧ (v ≠ 0 → primes z)) ∧
  writes path oFW_STAGE_CHUNK bs.length 0 (.fwStageChunk path bs) (tells path (.fwStageChunk path bs)
    (if domBusy s path oFW_STAGE_CHUNK = true then 0x0570 else if bs.length = 0 then 0x0102 else if 65536 < bs.length then 0x0103 else if 16777216 < o + bs.length then 0x0101
      else if s.sec.commit = true then 0x0584 else 0)
    (fun z => odv z oFW_STAGE_STATE = 1 ∧ z.sec.into = into ∧ tfind z.sec.slots into = some ⟨true, (o, bs) :: held0, false⟩) s) s ∧
  w oFW_STAGE_COMMIT (.fwStageCommit path v) (if s.sec.commit = true then 0x0584 else 0)
    (fun z => z.sec = if v = 0 then s.sec else { s.sec with commit := true }) ∧
  w oFW_ACTIVATE (.fwActivate path v b) (if v = 0 then 0 else if odv s oFW_STAGE_STATE ≠ 2 then 0x0585 else 0)
    (fun z => z.sec.pref = if v = 0 then s.sec.pref else s.sec.into) ∧
  w oFW_COMMIT_SVN (.fwCommitSvn path v) 0 (fun z => odv z oFW_SVN_MIN = match s.sec.running with
    | some k => if v = 0 then odv s oFW_SVN_MIN else max (odv s oFW_SVN_MIN) (fwHdr s k 0x0C 4 % 64)
    | none => odv s oFW_SVN_MIN) ∧
  w oFREEZE_NOW (.freezeNow path v) held (fun z => (v ≠ 1 → z.frz = s.frz) ∧
    (v = 1 → odv z oFREEZE_STATE = 2 ∧ odv z oFREEZE_CAUSE = (if latched then min 1 (odv s oFREEZE_CAUSE) else 1) ∧
      odv z oFREEZE_TIME = if latched then odv s oFREEZE_TIME else s.now)) ∧
  w oFREEZE_AT (.freezeAtWrite path v) held (fun z => odv z oFREEZE_AT = v ∧
    odv z oFREEZE_STATE = if latched then 2 else if v = 0 then 0 else if v < s.now then 2 else 1) ∧
  w oFREEZE_RELEASE (.freezeRelease path v) 0 (fun z => (v = 0 → z.frz = s.frz) ∧
    (v ≠ 0 → z.frz = [] ∧ odv z oFREEZE_STATE = if s.now < odv s oFREEZE_AT then 1 else 0)) ∧
  w oTRACE_CTL (.traceCtlWrite path v)
    (if 2 ^ 24 ≤ v ∨ (v % 4 = 3 ∧ (bitsOf v 8 2 = 0 ∨ 99 < bitsOf v 8 2)) then 0x01E0
      else if capturing s = true then 0x05C0 else 0) (fun z => odv z oTRACE_CTL = v) ∧
  w oTRACE_ARM (.traceArm path v) 0 (fun z => (v = 0 ∨ capturing s = true ∨ traceMode s = 0 → z.obs = s.obs) ∧
    (v ≠ 0 → capturing s = false → traceMode s ≠ 0 → odv z oTRACE_STATE = 1 ∧ z.obs.trig = false ∧
      z.obs.fifos = [] ∧ z.obs.drops = [] ∧ z.obs.trace0 = TraceDie.initial ∧ z.obs.trace1 = TraceDie.initial)) ∧
  w oTRACE_STOP (.traceStop path v) 0 (fun z => (v = 0 ∨ capturing s = false → z.obs = s.obs) ∧
    (v ≠ 0 → capturing s = true → odv z oTRACE_STATE = 3)) ∧
  w oTRACE_TRIGGER (.traceTrigger path v) 0 (fun z =>
    (v = 0 ∨ (capturing s = false ∧ odv s oTRACE_STATE ≠ 3) → z.obs = s.obs) ∧
    (v ≠ 0 → odv s oTRACE_STATE = 3 → traceSrcOn s 0 = true → traceMode s ≠ 0 → ∀ d, d < 2 →
      odv z (oTRACE_LOST + d) = (odv s (oTRACE_LOST + d) + 1) % 2 ^ 64) ∧
    (v ≠ 0 → capturing s = true → traceSrcOn s 0 = true → z.obs.trig = true)) ∧
  w oBRK_RESUME (.brkResume path v) (if v = 0 then 0 else match s.obs.brk with
    | some d => if d.broken = true then 0 else 0x05C2
    | none => 0x05C2) (fun z => (v = 0 → z.obs = s.obs) ∧ (v ≠ 0 → z.obs.brk = none)) ∧
  w oWFG_REQUEST (.wfgRequest path v)
    (if loadedGraph s v = none then 0x0197 else if s.obs.wfg ≠ none then 0x05C3 else 0) (fun z =>
    odv z oWFG_STATE = 1 ∧ z.obs.wfg = some ⟨v, false, wfgEdges s v, s.now, graphFirings s v⟩) ∧
  w (oOPC_SELECT + i) (.opcSelectWrite path i v) 0 (fun z => odv z (oOPC_SELECT + i) = v ∧
    odv z (oOPC_TASK_CYCLES + i) = 0 ∧ odv z (oOPC_FIRINGS + i) = 0 ∧ odv z (oOPC_ENERGY_MJ + i) = 0) ∧
  main (.resetRequestColdStart path) 1 ∧ main (.resetRequestStandby path) 2 ∧
  writesOwn path oRESET_REQUEST (3 + die) (.regionReset path die)
    (if busy ≠ 0 then busy else if st ≠ 2 then 0x0590 else if regionState s die = 2 then 0x0592 else 0) (fun z =>
    regionState z die = 2 ∧ ∀ h g, tfind s.graphs h = some g → (∃ t, t ∈ graphTiles g ∧ dieOf t = die) →
      tfind z.graphs h = none) s ∧
  ∀ c, c < 2 → s.mod.owner = some c → writesOwn path oRESET_REQUEST 5 (.mgmtHandover path ok)
    (if busy ≠ 0 then busy else if coreState s (1 - c) ≠ 1 then 0x0593 else 0) (fun z =>
    z.mod.owner = some (1 - c) ∧ coreState z (1 - c) = 2 ∧ coreState z c = if ok = true then 1 else 4) s

/-! ### The block -/

/-- The cut of this row: a step runs the command at the front of the queue on the state with the queue's rest; with an empty
queue the time base ticks, by 40 ns in COARSE and else by 1 ns, less what a negative step holds back, and what waits for a
tag of a front end may leave and trace records reach the buffers (log entry 21, the model's choice). -/
def Obligations.StepRunsFront : Prop :=
  ∀ (c : Instr) (q : List Instr) (s : State),
  (s.pending = c :: q → step s = exec c { s with pending := q }) ∧
  (s.pending = [] → s.mod.auxUp = false → step s = .next s) ∧
  (s.pending = [] → s.mod.auxUp = true →
    let k := if bitAt (odv s oTIME_FLAGS) 0 then 40 else 1
    let h := min k s.tim.hold
    (∃ z, step s = .next z ∧ z.now = (s.now + (k - h)) % 2 ^ 64 ∧ z.tim = { s.tim with hold := s.tim.hold - h }) ∧
    (s.tiles = [] → s.flt.steps = [] → s.fab.sw = [] → s.rem.fes = [] → s.obs.fifos = [] → step s =
      .next { s with now := (s.now + (k - h)) % 2 ^ 64, tim := { s.tim with hold := s.tim.hold - h } }))

/-- R178, R500, R505, R511: what reset leaves: nothing waits, no core owns and both are in the boot ROM, the module is in
STANDBY with every rail OFF, no tile runs, no graph is loaded, every port is DISABLED; an object reads its default; and the
state is tidy, its memory listing nothing. -/
def Obligations.ResetState : Prop :=
  let s := State.reset
  Tidy [] s ∧ s.mem.cells = [] ∧ s.mod.owner = none ∧ coreState s 0 = 0 ∧ coreState s 1 = 0 ∧ modState s = 0 ∧
  s.tiles = [] ∧ s.graphs = [] ∧ s.cmds = [] ∧ s.hst.linkUp = false ∧ s.log.queue = [] ∧ s.out = [] ∧
  (∀ k, odv s k = odDefault k) ∧ (∀ n, n < 11 → railState s n = 0) ∧ ∀ p, p < 16 → portState s p = 0

/-- Every step keeps memory in its canonical form and takes exactly the command at the front of the queue. -/
def Obligations.StepKeepsTidy : Prop :=
  ∀ (s z : State), s.mem.wf = true → step s = .next z → Tidy s.pending.tail z

/-- A command changes only the parts of the state that its row names; every other part is as it was. -/
def Obligations.CommandsTouchOnly : Prop :=
  ∀ (c : Instr) (s z : State) (p : Part), exec c s = .next z → (touched c).contains p = false → samePart p z s
end

