-- ==== Sys2Proof/Laws/Memory.lean ====
section
/-! SUPPORT. The laws of sparse tables and of module memory: a read after a write, and the canonical form. -/
namespace Sys2Proof.Machine

/-! ### Sparse tables -/

@[simp] theorem tfind_nil {α : Type} (k : Nat) : tfind ([] : Table α) k = none := rfl

theorem tfind_tput {α : Type} (t : Table α) (k j : Nat) (v : α) :
    tfind (tput t k v) j = if k = j then some v else tfind t j := by
  induction t with
  | nil => simp [tput, tfind]
  | cons x r ih =>
    obtain ⟨a, u⟩ := x
    simp only [tput]
    split
    · simp [tfind]
    · split
      · subst_vars; simp only [tfind]; split <;> simp_all
      · simp only [tfind, ih]; split <;> split <;> simp_all

@[simp] theorem tfind_tput_same {α : Type} (t : Table α) (k : Nat) (v : α) : tfind (tput t k v) k = some v := by
  simp [tfind_tput]

theorem tfind_tput_other {α : Type} (t : Table α) {k j : Nat} (v : α) (h : k ≠ j) :
    tfind (tput t k v) j = tfind t j := by simp [tfind_tput, h]

theorem tfind_tdel {α : Type} (t : Table α) (k j : Nat) :
    tfind (tdel t k) j = if k = j then none else tfind t j := by
  induction t with
  | nil => simp [tdel, tfind]
  | cons x r ih =>
    obtain ⟨a, u⟩ := x
    simp only [tdel]
    split
    · subst_vars; rw [ih]; simp only [tfind]; split <;> simp_all
    · simp only [tfind, ih]; split <;> split <;> simp_all

theorem tget_tput {α : Type} (t : Table α) (k j : Nat) (v d : α) :
    tget (tput t k v) j d = if k = j then v else tget t j d := by
  unfold tget; rw [tfind_tput]; split <;> rfl

@[simp] theorem tget_tput_same {α : Type} (t : Table α) (k : Nat) (v d : α) : tget (tput t k v) k d = v := by
  simp [tget_tput]

/-! ### A byte after a write -/

/-- A byte just written reads as written. -/
@[simp] theorem memByte_memSet_same (m : Memory) (a : Nat) (b : Byte) : memByte (memSet m a b) a = b := by
  by_cases h : b = 0 ∧ undefOf m.undef a = none
  · rw [memSet, if_pos h]; simp [memByte, tfind_tdel, h.1, h.2]
  · rw [memSet, if_neg h]; simp [memByte]

/-- Every other byte reads as before. -/
theorem memByte_memSet_other (m : Memory) {a j : Nat} (b : Byte) (h : a ≠ j) :
    memByte (memSet m a b) j = memByte m j := by
  by_cases h1 : b = 0 ∧ undefOf m.undef a = none
  · rw [memSet, if_pos h1]; simp [memByte, tfind_tdel, h]
  · rw [memSet, if_neg h1]; simp [memByte, tfind_tput, h]

/-- What memory reads as after bytes are written from an address. -/
theorem memByte_memWrite (bs : List Byte) : ∀ (m : Memory) (a j : Nat),
    memByte (memWrite m a bs) j = if a ≤ j ∧ j < a + bs.length then bs.getD (j - a) 0 else memByte m j := by
  induction bs with
  | nil => intro m a j; rw [if_neg (by simp)]; rfl
  | cons b r ih =>
    intro m a j
    simp only [memWrite, ih, List.length_cons]
    by_cases h : a = j
    · subst h
      rw [if_neg (by omega), if_pos (by omega), memByte_memSet_same, Nat.sub_self]; rfl
    · rw [memByte_memSet_other m b h]
      by_cases h2 : a + 1 ≤ j ∧ j < a + 1 + r.length
      · rw [if_pos h2, if_pos (by omega)]
        obtain ⟨k, rfl⟩ : ∃ k, j = a + 1 + k := ⟨j - a - 1, by omega⟩
        rw [show a + 1 + k - (a + 1) = k by omega, show a + 1 + k - a = k + 1 by omega]; simp
      · rw [if_neg h2, if_neg (by omega)]

/-! ### The canonical form -/

/-- Rising addresses, as a bound from below. -/
def risesFrom : Nat → List Host.Cell → Bool
  | _, [] => true
  | n, c :: r => decide (n ≤ c.1) && risesFrom (c.1 + 1) r

theorem cellsRise_cons (c : Host.Cell) (r : List Host.Cell) : cellsRise (c :: r) = risesFrom (c.1 + 1) r := by
  induction r generalizing c with
  | nil => rfl
  | cons d t ih => simp only [cellsRise, ih, risesFrom]; rfl

theorem cellsRise_iff (cs : List Host.Cell) : cellsRise cs = risesFrom 0 cs := by
  cases cs with
  | nil => rfl
  | cons c r => rw [cellsRise_cons]; simp [risesFrom]

theorem risesFrom_mono {n k : Nat} (h : k ≤ n) : ∀ {cs : List Host.Cell}, risesFrom n cs = true → risesFrom k cs = true
  | [], _ => rfl
  | c :: r, hr => by simp only [risesFrom, Bool.and_eq_true, decide_eq_true_eq] at hr ⊢; exact ⟨by omega, hr.2⟩

theorem risesFrom_tput {n a : Nat} (b : Byte) (ha : n ≤ a) (cs : List Host.Cell) (h : risesFrom n cs = true) :
    risesFrom n (tput cs a b) = true := by
  induction cs generalizing n with
  | nil => simp [tput, risesFrom, ha]
  | cons c r ih =>
    obtain ⟨j, u⟩ := c
    simp only [risesFrom, Bool.and_eq_true, decide_eq_true_eq] at h
    simp only [tput]
    split
    · simp only [risesFrom, Bool.and_eq_true, decide_eq_true_eq]
      exact ⟨ha, by omega, h.2⟩
    · split
      · subst_vars; simp only [risesFrom, Bool.and_eq_true, decide_eq_true_eq]; exact h
      · simp only [risesFrom, Bool.and_eq_true, decide_eq_true_eq]; exact ⟨h.1, ih (by omega) h.2⟩

theorem risesFrom_filter (p : Host.Cell → Bool) (cs : List Host.Cell) : ∀ {n : Nat}, risesFrom n cs = true →
    risesFrom n (cs.filter p) = true := by
  induction cs with
  | nil => intro n h; rfl
  | cons c r ih =>
    intro n h
    simp only [risesFrom, Bool.and_eq_true, decide_eq_true_eq] at h
    simp only [List.filter_cons]
    split
    · simp only [risesFrom, Bool.and_eq_true, decide_eq_true_eq]; exact ⟨h.1, ih h.2⟩
    · exact risesFrom_mono (by omega) (ih h.2)

theorem tdel_eq_filter (cs : List Host.Cell) (a : Nat) : tdel cs a = cs.filter fun c => c.1 != a := by
  induction cs with
  | nil => rfl
  | cons c r ih => obtain ⟨j, u⟩ := c; simp only [tdel, List.filter_cons, ih]; split <;> simp_all

/-- A cell of a table after a write is the one written or an old one. -/
theorem mem_tput {α : Type} {x : Nat × α} (t : Table α) (k : Nat) (v : α) (h : x ∈ tput t k v) : x = (k, v) ∨ x ∈ t := by
  induction t with
  | nil => simpa [tput] using h
  | cons y r ih =>
    obtain ⟨j, u⟩ := y
    simp only [tput] at h
    split at h
    · simpa using h
    · split at h
      · simp only [List.mem_cons] at h ⊢; exact h.imp id .inr
      · simp only [List.mem_cons] at h ⊢; rcases h with h | h
        · exact .inr (.inl h)
        · exact (ih h).imp id .inr

/-- The two parts of the canonical form. -/
theorem Memory.wf_iff (m : Memory) :
    m.wf = true ↔ risesFrom 0 m.cells = true ∧ ∀ c ∈ m.cells, c.2 ≠ 0 ∨ (undefOf m.undef c.1).isSome = true := by
  simp [Memory.wf, cellsRise_iff]

/-- Writing one byte keeps the canonical form. -/
theorem memSet_wf (m : Memory) (a : Nat) (b : Byte) (h : m.wf = true) : (memSet m a b).wf = true := by
  rw [Memory.wf_iff] at h ⊢
  unfold memSet
  split
  · rw [tdel_eq_filter]
    exact ⟨risesFrom_filter _ _ h.1, fun c hc => h.2 c (List.mem_filter.1 hc).1⟩
  · rename_i hb
    refine ⟨risesFrom_tput b (Nat.zero_le a) _ h.1, fun c hc => ?_⟩
    rcases mem_tput _ _ _ hc with rfl | hc
    · by_cases h0 : b = 0
      · right; simp only [h0, true_and] at hb; exact Option.isSome_iff_ne_none.2 hb
      · exact .inl h0
    · exact h.2 c hc

/-- Writing bytes keeps the canonical form. -/
theorem memWrite_wf (bs : List Byte) : ∀ (m : Memory) (a : Nat), m.wf = true → (memWrite m a bs).wf = true := by
  induction bs with
  | nil => intro m a h; exact h
  | cons b r ih => intro m a h; exact ih _ _ (memSet_wf m a b h)

/-- Outside a range that is cut out, an address stays undefined or not. -/
theorem undefOf_undefCut (a n j : Nat) (hj : j < a ∨ a + n ≤ j) (u : List (Nat × Nat × Nat)) :
    undefOf (undefCut a n u) j = undefOf u j := by
  induction u with
  | nil => rfl
  | cons x r ih =>
    obtain ⟨lo, len, seed⟩ := x
    simp only [undefCut]
    split
    · simp only [undefOf, ih]
    · by_cases h1 : lo < a <;> by_cases h2 : a + n < lo + len <;>
        simp only [h1, h2, if_true, if_false, List.nil_append, List.cons_append, undefOf, ih] <;> split <;> grind

/-- Zeroing a range keeps the canonical form. -/
theorem memZero_wf (m : Memory) (a n : Nat) (h : m.wf = true) : (memZero m a n).wf = true := by
  rw [Memory.wf_iff] at h ⊢
  refine ⟨risesFrom_filter _ _ h.1, fun c hc => ?_⟩
  simp only [memZero, cellsCut, List.mem_filter, decide_eq_true_eq] at hc ⊢
  rw [undefOf_undefCut _ _ _ (by omega)]
  exact h.2 c hc.1

/-- Making a range undefined keeps the canonical form. -/
theorem memUndef_wf (m : Memory) (a n seed : Nat) (h : m.wf = true) : (memUndef m a n seed).wf = true := by
  rw [Memory.wf_iff] at h ⊢
  refine ⟨risesFrom_filter _ _ h.1, fun c hc => ?_⟩
  simp only [memUndef, cellsCut, List.mem_filter, decide_eq_true_eq] at hc
  simp only [memUndef, undefOf]
  split
  · right; rfl
  · rw [undefOf_undefCut _ _ _ (by omega)]
    exact h.2 c hc.1

end Sys2Proof.Machine
end

