-- ==== Sys2Proof/Laws/TidyTile.lean ====
section
/-! SUPPORT. Each operation keeps memory canonical and the queue as it is: the objects, the trace, the logbook, memory and the tiles. -/
namespace Sys2Proof.Machine
open Sys2Proof

theorem tidy_foldl {α : Type} (q : List Instr) (f : State → α → State) (l : List α) (s : State) (h : Tidy q s)
    (hf : ∀ s x, Tidy q s → Tidy q (f s x)) : Tidy q (l.foldl f s) := by
  induction l generalizing s with
  | nil => exact h
  | cons x r ih => exact ih _ (hf _ _ h)

theorem tidy_mk (q : List Instr) (pending : List Instr) (now : Nat) (od : Table Nat) (dom : Table (List Byte)) (out : List Output) (resp : Nat) (freeCtr : Nat) (mem : Memory) (ecc : EccSt) (tiles : Table TileSt) (mesh : Mesh) (graphs : Table GraphSt) (cmds : List CmdEnt) (hst : HostSt) (fab : FabSt) (rem : RemSt) (flt : FloatSt) (trw : TrwSt) (sec : SecSt) (meas : MeasSt) (tim : TimeSt) (obs : ObsSt) (log : LogSt) (frz : Table Nat) (can : CanSt) (mod : ModSt) :
    Tidy q ⟨pending, now, od, dom, out, resp, freeCtr, mem, ecc, tiles, mesh, graphs, cmds, hst, fab, rem, flt, trw, sec, meas, tim, obs, log, frz, can, mod⟩ = (mem.wf = true ∧ pending = q) := rfl

theorem tidy_back (q : List Instr) (s : State) (h : Tidy q s) : s.mem.wf = true ∧ s.pending = q := h

theorem tidy_ite (q : List Instr) (c : Prop) [Decidable c] (s t : State) (hs : Tidy q s) (ht : Tidy q t) :
    Tidy q (if c then s else t) := by split <;> assumption

theorem tidyRes_ite {α : Type} (q : List Instr) (c : Prop) [Decidable c] (s t : MemRes α) (hs : TidyRes q s)
    (ht : TidyRes q t) : TidyRes q (if c then s else t) := by split <;> assumption

theorem tidyRes_ok {α : Type} (q : List Instr) (x : α) (s : State) (hs : Tidy q s) : TidyRes q (.ok x s) := hs

theorem tidyServe_ok (q : List Instr) (t s : State) (h : Tidy q t) : TidyServe q (.ok t s) := h

theorem tidyServe_of (q : List Instr) (r : MemRes State) (t s : State) (e : r = .ok t s) (h : TidyServe q r) :
    Tidy q t := by subst e; exact h

theorem tidyRes_of {α : Type} (q : List Instr) (r : MemRes α) (x : α) (s : State) (e : r = .ok x s) (h : TidyRes q r) :
    Tidy q s := by subst e; exact h

theorem tidySlot_of (q : List Instr) (r : SlotRes) (x : List TEff) (s : State) (e : r = .ok x s) (h : TidySlot q r) :
    Tidy q s := by subst e; exact h

theorem tidyPair_of {α : Type} (q : List Instr) (r : α × State) (x : α) (s : State) (e : r = (x, s)) (h : Tidy q r.2) :
    Tidy q s := by subst e; exact h

theorem tidyTriple_of {α β : Type} (q : List Instr) (r : α × β × State) (x : α) (y : β) (s : State) (e : r = (x, y, s))
    (h : Tidy q r.2.2) : Tidy q s := by subst e; exact h

theorem tidyOpt_of (q : List Instr) (r : Option State) (s : State) (e : r = some s) (h : TidyOpt q r) : Tidy q s := by
  subst e; exact h

theorem tidyAns_of {α : Type} (q : List Instr) (r : Option (α × State)) (x : α) (s : State) (e : r = some (x, s))
    (h : TidyAns q r) : Tidy q s := by subst e; exact h

theorem tidyOpt_ite (q : List Instr) (c : Prop) [Decidable c] (s t : Option State) (hs : TidyOpt q s) (ht : TidyOpt q t) :
    TidyOpt q (if c then s else t) := by split <;> assumption

theorem tidyAns_ite {α : Type} (q : List Instr) (c : Prop) [Decidable c] (s t : Option (α × State)) (hs : TidyAns q s)
    (ht : TidyAns q t) : TidyAns q (if c then s else t) := by split <;> assumption

theorem tidyRes_ue {α : Type} (q : List Instr) (m : UeMet) (s : State) (hs : Tidy q s) : TidyRes (α := α) q (.ue m s) := hs

theorem tidyRes_ofUe {α : Type} (q : List Instr) (r : MemRes α) (m : UeMet) (s : State) (e : r = .ue m s) (h : TidyRes q r) :
    Tidy q s := by subst e; exact h

theorem tidyServe_ue (q : List Instr) (m : UeMet) (s : State) (hs : Tidy q s) : TidyServe q (.ue m s) := hs

theorem tidyServe_ofUe (q : List Instr) (r : MemRes State) (m : UeMet) (s : State) (e : r = .ue m s) (h : TidyServe q r) :
    Tidy q s := by subst e; exact h

theorem tidySlot_exc (q : List Instr) (c : Nat) (s : State) (hs : Tidy q s) : TidySlot q (.exc c s) := hs

theorem tidySlot_ue (q : List Instr) (m : UeMet) (s : State) (hs : Tidy q s) : TidySlot q (.ue m s) := hs

theorem tidySlot_ofExc (q : List Instr) (r : SlotRes) (c : Nat) (s : State) (e : r = .exc c s) (h : TidySlot q r) :
    Tidy q s := by subst e; exact h

theorem tidySlot_ofUe (q : List Instr) (r : SlotRes) (m : UeMet) (s : State) (e : r = .ue m s) (h : TidySlot q r) :
    Tidy q s := by subst e; exact h

theorem tidyOpt_none (q : List Instr) : TidyOpt q none := True.intro

theorem tidyAns_none {α : Type} (q : List Instr) : TidyAns (α := α) q none := True.intro

theorem tidyOpt_some (q : List Instr) (s : State) (h : Tidy q s) : TidyOpt q (some s) := h

theorem tidyAns_some {α : Type} (q : List Instr) (r : α × State) (h : Tidy q r.2) : TidyAns q (some r) := h

theorem tidy_snd_ite {α : Type} (q : List Instr) (c : Prop) [Decidable c] (s t : α × State) (hs : Tidy q s.2)
    (ht : Tidy q t.2) : Tidy q (if c then s else t).2 := by split <;> assumption

theorem tidySlot_ok (q : List Instr) (x : List TEff) (s : State) (hs : Tidy q s) : TidySlot q (.ok x s) := hs

theorem tidy_odSet (q : List Instr) (s : State) (k : Nat) (v : Nat) (h1 : Tidy q s) :
    Tidy q (odSet s k v) := by
  unfold odSet
  try dsimp only
  with_reducible repeat' first | (intro _) | assumption | (simp only [tidy_mk]; apply tidy_back) | split | dsimp only

theorem tidy_odBit (q : List Instr) (s : State) (k : Nat) (i : Nat) (b : Bool) (h1 : Tidy q s) :
    Tidy q (odBit s k i b) := by
  unfold odBit
  try dsimp only
  with_reducible repeat' first
    | (intro _) | assumption | apply tidy_odSet | (simp only [tidy_mk]; apply tidy_back) | split | dsimp only

theorem tidy_setTile (q : List Instr) (s : State) (t : Nat) (x : TileSt) (h1 : Tidy q s) :
    Tidy q (setTile s t x) := by
  unfold setTile
  try dsimp only
  with_reducible repeat' first | (intro _) | assumption | (simp only [tidy_mk]; apply tidy_back) | split | dsimp only

theorem tidy_odAdd (q : List Instr) (s : State) (k : Nat) (n : Nat) (h1 : Tidy q s) :
    Tidy q (odAdd s k n) := by
  unfold odAdd
  try dsimp only
  with_reducible repeat' first
    | (intro _) | assumption | apply tidy_odSet | (simp only [tidy_mk]; apply tidy_back) | split | dsimp only

theorem tidy_odAdd32 (q : List Instr) (s : State) (k : Nat) (n : Nat) (h1 : Tidy q s) :
    Tidy q (odAdd32 s k n) := by
  unfold odAdd32
  try dsimp only
  with_reducible repeat' first
    | (intro _) | assumption | apply tidy_odSet | (simp only [tidy_mk]; apply tidy_back) | split | dsimp only

theorem tidy_odClear (q : List Instr) (s : State) (k : Nat) (h1 : Tidy q s) :
    Tidy q (odClear s k) := by
  unfold odClear
  try dsimp only
  with_reducible repeat' first | (intro _) | assumption | (simp only [tidy_mk]; apply tidy_back) | split | dsimp only

theorem tidy_freeNext (q : List Instr) (s : State) (h1 : Tidy q s) :
    Tidy q (freeNext s).2 := by
  unfold freeNext
  try dsimp only
  with_reducible repeat' first
    | (intro _) | assumption | (apply tidyPair_of; assumption) | (simp only [tidy_mk]; apply tidy_back) | split
    | dsimp only

theorem tidy_freezeMerge (q : List Instr) (cause : Nat) (s : State) (h1 : Tidy q s) :
    Tidy q (freezeMerge cause s) := by
  unfold freezeMerge
  try dsimp only
  with_reducible repeat' first
    | (intro _) | assumption | apply tidy_odSet | apply tidy_ite | (simp only [tidy_mk]; apply tidy_back) | split
    | dsimp only

theorem tidy_freezeLatch (q : List Instr) (cause : Nat) (s : State) (h1 : Tidy q s) :
    Tidy q (freezeLatch cause s) := by
  unfold freezeLatch
  try dsimp only
  with_reducible repeat' first
    | (intro _) | assumption | apply tidy_odSet | (simp only [tidy_mk]; apply tidy_back) | split | dsimp only

theorem tidy_traceLose (q : List Instr) (d : Nat) (s : State) (h1 : Tidy q s) :
    Tidy q (traceLose d s) := by
  unfold traceLose
  try dsimp only
  with_reducible repeat' first
    | (intro _) | assumption | apply tidy_odAdd | apply tidy_ite | (simp only [tidy_mk]; apply tidy_back) | split
    | dsimp only

theorem tidy_traceMiss (q : List Instr) (d : Nat) (s : State) (h1 : Tidy q s) :
    Tidy q (traceMiss d s) := by
  unfold traceMiss
  try dsimp only
  with_reducible repeat' first
    | (intro _) | assumption | apply tidy_traceLose | apply tidy_ite | (simp only [tidy_mk]; apply tidy_back) | split
    | dsimp only

theorem tidy_setTraceDie (q : List Instr) (s : State) (d : Nat) (x : TraceDie) (h1 : Tidy q s) :
    Tidy q (setTraceDie s d x) := by
  unfold setTraceDie
  try dsimp only
  with_reducible repeat' first
    | (intro _) | assumption | apply tidy_ite | (simp only [tidy_mk]; apply tidy_back) | split | dsimp only

theorem tidy_traceWrite (q : List Instr) (d : Nat) (r : TraceRec) (protect : Bool) (s : State) (h1 : Tidy q s) :
    Tidy q (traceWrite d r protect s) := by
  unfold traceWrite
  try dsimp only
  with_reducible repeat' first
    | (intro _) | assumption | apply tidy_traceMiss | apply tidy_traceLose | apply tidy_odAdd | apply tidy_setTraceDie
    | apply tidy_odSet | apply tidy_ite | (simp only [tidy_mk]; apply tidy_back) | split | dsimp only

theorem tidy_traceTrig (q : List Instr) (b : Nat) (s : State) (h1 : Tidy q s) :
    Tidy q (traceTrig b s) := by
  unfold traceTrig
  try dsimp only
  with_reducible repeat' first
    | (intro _) | assumption | apply tidy_traceWrite | apply tidy_odSet | apply tidy_traceMiss | apply tidy_ite
    | (simp only [tidy_mk]; apply tidy_back) | split | dsimp only

theorem tidy_freeze (q : List Instr) (cause : Nat) (s : State) (h1 : Tidy q s) :
    Tidy q (freeze cause s) := by
  unfold freeze
  try dsimp only
  with_reducible repeat' first
    | (intro _) | assumption | apply tidy_freezeMerge | apply tidy_freezeLatch | apply tidy_traceWrite
    | apply tidy_traceTrig | apply tidy_ite | (simp only [tidy_mk]; apply tidy_back) | split | dsimp only

theorem tidy_freezeSource (q : List Instr) (bit : Nat) (s : State) (h1 : Tidy q s) :
    Tidy q (freezeSource bit s) := by
  unfold freezeSource
  try dsimp only
  with_reducible repeat' first
    | (intro _) | assumption | apply tidy_freeze | apply tidy_ite | (simp only [tidy_mk]; apply tidy_back) | split
    | dsimp only

theorem tidy_traceEvent (q : List Instr) (b : Nat) (s : State) (h1 : Tidy q s) :
    Tidy q (traceEvent b s) := by
  unfold traceEvent
  try dsimp only
  with_reducible repeat' first
    | (intro _) | assumption | apply tidy_freezeSource | apply tidy_traceTrig | apply tidy_ite
    | (simp only [tidy_mk]; apply tidy_back) | split | dsimp only

theorem tidy_traceAccept (q : List Instr) (r : TraceRec) (s : State) (h1 : Tidy q s) :
    Tidy q (traceAccept r s) := by
  unfold traceAccept
  try dsimp only
  with_reducible repeat' first
    | (intro _) | assumption | apply tidy_traceMiss | apply tidy_traceLose | apply tidy_ite
    | (simp only [tidy_mk]; apply tidy_back) | split | dsimp only

theorem tidy_tracePut (q : List Instr) (typ : Nat) (src : Nat) (opId : Nat) (layer : Nat) (arg0 : Nat) (arg1 : Nat) (s
    : State) (h1 : Tidy q s) :
    Tidy q (tracePut typ src opId layer arg0 arg1 s) := by
  unfold tracePut
  try dsimp only
  with_reducible repeat' first
    | (intro _) | assumption | apply tidy_traceAccept | apply tidy_traceEvent | apply tidy_ite
    | (simp only [tidy_mk]; apply tidy_back) | split | dsimp only

theorem tidy_trace (q : List Instr) (group : Nat) (typ : Nat) (src : Nat) (opId : Nat) (layer : Nat) (arg0 : Nat)
    (arg1 : Nat) (s : State) (h1 : Tidy q s) :
    Tidy q (trace group typ src opId layer arg0 arg1 s) := by
  unfold trace
  try dsimp only
  with_reducible repeat' first
    | (intro _) | assumption | apply tidy_tracePut | apply tidy_ite | (simp only [tidy_mk]; apply tidy_back) | split
    | dsimp only

theorem tidy_emit (q : List Instr) (o : Output) (s : State) (h1 : Tidy q s) :
    Tidy q (emit o s) := by
  unfold emit
  try dsimp only
  with_reducible repeat' first | (intro _) | assumption | (simp only [tidy_mk]; apply tidy_back) | split | dsimp only

theorem tidy_traceAlways (q : List Instr) (typ : Nat) (src : Nat) (arg0 : Nat) (arg1 : Nat) (s : State) (h1 : Tidy q
    s) :
    Tidy q (traceAlways typ src arg0 arg1 s) := by
  unfold traceAlways
  try dsimp only
  with_reducible repeat' first
    | (intro _) | assumption | apply tidy_tracePut | (simp only [tidy_mk]; apply tidy_back) | split | dsimp only

theorem tidy_traceCollect (q : List Instr) (d : Nat) (s : State) (h1 : Tidy q s) :
    Tidy q (traceCollect d s) := by
  unfold traceCollect
  try dsimp only
  with_reducible repeat' first
    | (intro _) | assumption | apply tidy_traceWrite | apply tidy_ite | (simp only [tidy_mk]; apply tidy_back) | split
    | dsimp only

theorem tidy_traceDrain (q : List Instr) (d : Nat) (a1 : Nat) (s : State) (h1 : Tidy q s) :
    Tidy q (traceDrain d a1 s) := by
  revert h1
  fun_induction traceDrain d a1 s <;> intro h1
  all_goals (try dsimp only)
  with_reducible repeat' first
    | (intro _) | assumption | apply tidy_traceCollect | apply tidy_ite | (simp only [tidy_mk]; apply tidy_back)
    | split | apply_assumption | dsimp only

theorem tidy_traceMoves (q : List Instr) (d : Nat) (a : Nat) (b : Nat) (s : State) (h1 : Tidy q s) :
    Tidy q (traceMoves d a b s) := by
  unfold traceMoves
  try dsimp only
  with_reducible repeat' first
    | (intro _) | assumption | apply tidy_traceDrain | (simp only [tidy_mk]; apply tidy_back) | split | dsimp only

theorem tidy_logEvent (q : List Instr) (code : Nat) (src : Nat) (arg0 : Nat) (arg1 : Nat) (c : EvCmd) (s : State) (h1
    : Tidy q s) :
    Tidy q (logEvent code src arg0 arg1 c s) := by
  unfold logEvent
  try dsimp only
  with_reducible repeat' first
    | (intro _) | assumption | apply tidy_odAdd | apply tidy_freezeSource | apply tidy_traceEvent | apply tidy_ite
    | (simp only [tidy_mk]; apply tidy_back) | split | dsimp only

theorem tidy_busSent (q : List Instr) (bus : Nat) (s : State) (h1 : Tidy q s) :
    Tidy q (busSent bus s) := by
  unfold busSent
  try dsimp only
  with_reducible repeat' first
    | (intro _) | assumption | apply tidy_ite | (simp only [tidy_mk]; apply tidy_back) | split | dsimp only

theorem tidy_canSend (q : List Instr) (cob : Nat) (bs : List Byte) (s : State) (h1 : Tidy q s) :
    Tidy q (canSend cob bs s) := by
  unfold canSend
  try dsimp only
  with_reducible repeat' first
    | (intro _) | assumption | apply tidy_emit | apply tidy_busSent | apply tidy_ite
    | (simp only [tidy_mk]; apply tidy_back) | split | dsimp only

theorem tidy_emcyMsg (q : List Instr) (code : Nat) (reg : Nat) (event : Nat) (s : State) (h1 : Tidy q s) :
    Tidy q (emcyMsg code reg event s) := by
  unfold emcyMsg
  try dsimp only
  with_reducible repeat' first
    | (intro _) | assumption | apply tidy_odAdd32 | apply tidy_canSend | apply tidy_ite
    | (simp only [tidy_mk]; apply tidy_back) | split | dsimp only

theorem tidy_emcyEvent (q : List Instr) (code : Nat) (bit : Nat) (event : Nat) (s : State) (h1 : Tidy q s) :
    Tidy q (emcyEvent code bit event s) := by
  unfold emcyEvent
  try dsimp only
  with_reducible repeat' first
    | (intro _) | assumption | apply tidy_emcyMsg | (simp only [tidy_mk]; apply tidy_back) | split | dsimp only

theorem tidy_logSimple (q : List Instr) (code : Nat) (src : Nat) (s : State) (h1 : Tidy q s) :
    Tidy q (logSimple code src s) := by
  unfold logSimple
  try dsimp only
  with_reducible repeat' first
    | (intro _) | assumption | apply tidy_logEvent | (simp only [tidy_mk]; apply tidy_back) | split | dsimp only

theorem tidy_closeOpen (q : List Instr) (s : State) (h1 : Tidy q s) :
    Tidy q (closeOpen s) := by
  unfold closeOpen
  try dsimp only
  with_reducible repeat' first | (intro _) | assumption | (simp only [tidy_mk]; apply tidy_back) | split | dsimp only

theorem tidy_emcyRaise (q : List Instr) (code : Nat) (bit : Nat) (event : Nat) (s : State) (h1 : Tidy q s) :
    Tidy q (emcyRaise code bit event s) := by
  unfold emcyRaise
  try dsimp only
  with_reducible repeat' first
    | (intro _) | assumption | apply tidy_odSet | apply tidy_emcyMsg | apply tidy_ite
    | (simp only [tidy_mk]; apply tidy_back) | split | dsimp only

theorem tidy_emcyClear (q : List Instr) (bit : Nat) (event : Nat) (s : State) (h1 : Tidy q s) :
    Tidy q (emcyClear bit event s) := by
  unfold emcyClear
  try dsimp only
  with_reducible repeat' first
    | (intro _) | assumption | apply tidy_odSet | apply tidy_emcyMsg | apply tidy_ite
    | (simp only [tidy_mk]; apply tidy_back) | split | dsimp only

theorem tidy_wakeChannel (q : List Instr) (k : Nat) (s : State) (h1 : Tidy q s) :
    Tidy q (wakeChannel k s) := by
  unfold wakeChannel
  try dsimp only
  with_reducible repeat' first | (intro _) | assumption | (simp only [tidy_mk]; apply tidy_back) | split | dsimp only

theorem tidy_touchChannel (q : List Instr) (a : Nat) (n : Nat) (s : State) (h1 : Tidy q s) :
    Tidy q (touchChannel a n s) := by
  unfold touchChannel
  try dsimp only
  with_reducible repeat' first
    | (intro _) | assumption | apply tidy_wakeChannel | apply tidy_ite | apply tidy_foldl
    | (simp only [tidy_mk]; apply tidy_back) | split | dsimp only

theorem tidy_retireLine (q : List Instr) (a : Nat) (s : State) (h1 : Tidy q s) :
    Tidy q (retireLine a s) := by
  unfold retireLine
  try dsimp only
  with_reducible repeat' first
    | (intro _) | assumption | apply tidy_logEvent | apply tidy_odAdd32 | apply tidy_ite
    | (simp only [tidy_mk]; apply tidy_back) | split | dsimp only

theorem tidy_scheduleRepair (q : List Instr) (a : Nat) (s : State) (h1 : Tidy q s) :
    Tidy q (scheduleRepair a s) := by
  unfold scheduleRepair
  try dsimp only
  with_reducible repeat' first
    | (intro _) | assumption | apply tidy_odSet | apply tidy_ite | (simp only [tidy_mk]; apply tidy_back) | split
    | dsimp only

theorem tidy_retireAt (q : List Instr) (level : Nat) (a : Nat) (s : State) (h1 : Tidy q s) :
    Tidy q (retireAt level a s) := by
  unfold retireAt
  try dsimp only
  with_reducible repeat' first
    | (intro _) | assumption | apply tidy_retireLine | apply tidy_scheduleRepair | apply tidy_ite
    | (simp only [tidy_mk]; apply tidy_back) | split | dsimp only

theorem tidy_correct1 (q : List Instr) (m : EccMark) (s : State) (h1 : Tidy q s) :
    Tidy q (correct1 m s) := by
  unfold correct1
  try dsimp only
  with_reducible repeat' first
    | (intro _) | assumption | apply tidy_odAdd | apply tidy_retireAt | apply tidy_ite
    | (simp only [tidy_mk]; apply tidy_back) | split | dsimp only

theorem tidy_correctPart (q : List Instr) (a : Nat) (n : Nat) (s : State) (h1 : Tidy q s) :
    Tidy q (correctPart a n s) := by
  unfold correctPart
  try dsimp only
  with_reducible repeat' first
    | (intro _) | assumption | apply tidy_correct1 | apply tidy_foldl | (simp only [tidy_mk]; apply tidy_back) | split
    | dsimp only

theorem tidy_lpCount (q : List Instr) (base : Nat) (a1 : Nat) (a2 : Nat) (a3 : Nat) (s : State) (h1 : Tidy q s) :
    Tidy q (lpCount base a1 a2 a3 s) := by
  revert h1
  fun_induction lpCount base a1 a2 a3 s <;> intro h1
  all_goals (try dsimp only)
  with_reducible repeat' first
    | (intro _) | assumption | apply tidy_odAdd | apply tidy_ite | (simp only [tidy_mk]; apply tidy_back) | split
    | apply_assumption | dsimp only

theorem tidy_countBytes (q : List Instr) (wr : Bool) (who : Acc) (a : Nat) (n : Nat) (s : State) (h1 : Tidy q s) :
    Tidy q (countBytes wr who a n s) := by
  unfold countBytes
  try dsimp only
  with_reducible repeat' first
    | (intro _) | assumption | apply tidy_odAdd | apply tidy_lpCount | apply tidy_ite
    | (simp only [tidy_mk]; apply tidy_back) | split | dsimp only

theorem tidy_clearCovered (q : List Instr) (a : Nat) (n : Nat) (s : State) (h1 : Tidy q s) :
    Tidy q (clearCovered a n s) := by
  unfold clearCovered
  try dsimp only
  with_reducible repeat' first
    | (intro _) | assumption | apply tidy_retireAt | apply tidy_foldl | (simp only [tidy_mk]; apply tidy_back) | split
    | dsimp only

theorem tidy_landInjection (q : List Instr) (a : Nat) (n : Nat) (s : State) (h1 : Tidy q s) :
    Tidy q (landInjection a n s) := by
  unfold landInjection
  try dsimp only
  with_reducible repeat' first
    | (intro _) | assumption | apply tidy_ite | (simp only [tidy_mk]; apply tidy_back) | split | dsimp only

theorem tidy_putBytes (q : List Instr) (a : Nat) (bs : List Byte) (s : State) (h1 : Tidy q s) :
    Tidy q (putBytes a bs s) := by
  unfold putBytes
  apply tidy_landInjection
  have h2 := tidy_clearCovered q a bs.length s h1
  exact ⟨memWrite_wf _ _ _ h2.1, h2.2⟩

theorem tidy_writeMod (q : List Instr) (who : Acc) (a : Nat) (bs : List Byte) (s : State) (h1 : Tidy q s) :
    TidyRes q (writeMod who a bs s) := by
  unfold writeMod
  try dsimp only
  with_reducible repeat' first
    | (intro _) | assumption | apply tidy_touchChannel | apply tidy_correctPart | apply tidy_countBytes
    | apply tidy_putBytes | apply tidyRes_ok | apply tidyRes_ue | (apply tidyRes_of; assumption)
    | (apply tidyRes_ofUe; assumption) | (simp only [tidy_mk]; apply tidy_back) | split | dsimp only

theorem tidy_undefine (q : List Instr) (a : Nat) (n : Nat) (s : State) (h1 : Tidy q s) :
    Tidy q (undefine a n s) := by
  unfold undefine
  split
  · exact h1
  · have h2 := tidy_freeNext q s h1
    exact ⟨memUndef_wf _ _ _ _ h2.1, h2.2⟩

theorem tidy_ueRecord1 (q : List Instr) (level : Nat) (a : Nat) (c : EvCmd) (s : State) (h1 : Tidy q s) :
    Tidy q (ueRecord1 level a c s) := by
  unfold ueRecord1
  try dsimp only
  with_reducible repeat' first
    | (intro _) | assumption | apply tidy_odAdd | apply tidy_odSet | apply tidy_emcyEvent | apply tidy_logEvent
    | (simp only [tidy_mk]; apply tidy_back) | split | dsimp only

theorem tidy_ueRecord (q : List Instr) (m : UeMet) (c : EvCmd) (s : State) (h1 : Tidy q s) :
    Tidy q (ueRecord m c s) := by
  unfold ueRecord
  try dsimp only
  with_reducible repeat' first
    | (intro _) | assumption | apply tidy_ueRecord1 | apply tidy_foldl | (simp only [tidy_mk]; apply tidy_back)
    | split | dsimp only

theorem tidy_correctIn (q : List Instr) (a : Nat) (n : Nat) (s : State) (h1 : Tidy q s) :
    Tidy q (correctIn a n s) := by
  unfold correctIn
  try dsimp only
  with_reducible repeat' first
    | (intro _) | assumption | apply tidy_correct1 | apply tidy_foldl | (simp only [tidy_mk]; apply tidy_back) | split
    | dsimp only

theorem tidy_readMod (q : List Instr) (who : Acc) (a : Nat) (n : Nat) (s : State) (h1 : Tidy q s) :
    TidyRes q (readMod who a n s) := by
  unfold readMod
  try dsimp only
  with_reducible repeat' first
    | (intro _) | assumption | apply tidy_touchChannel | apply tidy_correctIn | apply tidy_countBytes
    | apply tidyRes_ok | apply tidyRes_ue | (apply tidyRes_of; assumption) | (apply tidyRes_ofUe; assumption)
    | (simp only [tidy_mk]; apply tidy_back) | split | dsimp only

theorem tidy_loseMemory (q : List Instr) (s : State) (h1 : Tidy q s) :
    Tidy q (loseMemory s) := by
  exact ⟨rfl, (tidy_freeNext q s h1).2⟩

theorem tidy_disarm (q : List Instr) (s : State) (h1 : Tidy q s) :
    Tidy q (disarm s) := by
  unfold disarm
  try dsimp only
  with_reducible repeat' first | (intro _) | assumption | (simp only [tidy_mk]; apply tidy_back) | split | dsimp only

theorem tidy_disarmIn (q : List Instr) (a : Nat) (n : Nat) (s : State) (h1 : Tidy q s) :
    Tidy q (disarmIn a n s) := by
  unfold disarmIn
  try dsimp only
  with_reducible repeat' first
    | (intro _) | assumption | apply tidy_disarm | apply tidy_ite | (simp only [tidy_mk]; apply tidy_back) | split
    | dsimp only

theorem tidy_dropCells (q : List Instr) (a : Nat) (n : Nat) (s : State) (h1 : Tidy q s) :
    Tidy q (dropCells a n s) := by
  unfold dropCells
  try dsimp only
  with_reducible repeat' first | (intro _) | assumption | (simp only [tidy_mk]; apply tidy_back) | split | dsimp only

theorem tidy_zeroFill (q : List Instr) (a : Nat) (n : Nat) (s : State) (h1 : Tidy q s) :
    Tidy q (zeroFill a n s) := by
  unfold zeroFill
  apply tidy_dropCells
  exact ⟨memZero_wf _ _ _ h1.1, (tidy_clearCovered q a n s h1).2⟩

theorem tidy_modFlt (q : List Instr) (f : FloatSt → FloatSt) (s : State) (h1 : Tidy q s) :
    Tidy q (modFlt f s) := by
  unfold modFlt
  try dsimp only
  with_reducible repeat' first
    | (intro _) | assumption | (simp only [tidy_mk]; apply tidy_back) | split | apply_assumption | dsimp only

theorem tidy_lastPower (q : List Instr) (x : TileSt) (s : State) (h1 : Tidy q s) :
    Tidy q (lastPower x s).2 := by
  unfold lastPower
  try dsimp only
  with_reducible repeat' first
    | (intro _) | assumption | apply tidy_freeNext | (apply tidyPair_of; assumption)
    | (simp only [tidy_mk]; apply tidy_back) | split | dsimp only

theorem tidy_startFiller (q : List Instr) (t : Nat) (s : State) (h1 : Tidy q s) :
    Tidy q (startFiller t s) := by
  unfold startFiller
  try dsimp only
  with_reducible repeat' first
    | (intro _) | assumption | apply tidy_lastPower | apply tidy_setTile | apply tidy_modFlt | apply tidy_ite
    | (apply tidyPair_of; assumption) | (simp only [tidy_mk]; apply tidy_back) | split | dsimp only

theorem tidy_cyclesSince (q : List Instr) (from_ : Nat) (s : State) (h1 : Tidy q s) :
    Tidy q (cyclesSince from_ s).2 := by
  unfold cyclesSince
  try dsimp only
  with_reducible repeat' first
    | (intro _) | assumption | apply tidy_freeNext | (apply tidyPair_of; assumption)
    | (simp only [tidy_mk]; apply tidy_back) | split | dsimp only

theorem tidy_opcCount (q : List Instr) (base : Nat) (opId : Nat) (n : Nat) (s : State) (h1 : Tidy q s) :
    Tidy q (opcCount base opId n s) := by
  unfold opcCount
  try dsimp only
  with_reducible repeat' first
    | (intro _) | assumption | apply tidy_odAdd | apply tidy_ite | apply tidy_foldl
    | (simp only [tidy_mk]; apply tidy_back) | split | dsimp only

theorem tidy_countTask (q : List Instr) (t : Nat) (opId : Nat) (n : Nat) (s : State) (h1 : Tidy q s) :
    Tidy q (countTask t opId n s) := by
  unfold countTask
  try dsimp only
  with_reducible repeat' first
    | (intro _) | assumption | apply tidy_opcCount | apply tidy_odAdd | (simp only [tidy_mk]; apply tidy_back) | split
    | dsimp only

theorem tidy_noteEvents (q : List Instr) (t : Nat) (c : EvClass) (op : Nat) (n : Nat) (s : State) (h1 : Tidy q s) :
    Tidy q (noteEvents t c op n s) := by
  unfold noteEvents
  try dsimp only
  with_reducible repeat' first
    | (intro _) | assumption | apply tidy_modFlt | apply tidy_ite | (simp only [tidy_mk]; apply tidy_back) | split
    | dsimp only

theorem tidy_endFiller (q : List Instr) (t : Nat) (s : State) (h1 : Tidy q s) :
    Tidy q (endFiller t s) := by
  unfold endFiller
  try dsimp only
  with_reducible repeat' first
    | (intro _) | assumption | apply tidy_cyclesSince | apply tidy_setTile | apply tidy_odAdd | apply tidy_ite
    | (apply tidyPair_of; assumption) | (simp only [tidy_mk]; apply tidy_back) | split | dsimp only

theorem tidy_modGraph (q : List Instr) (s : State) (h : Nat) (f : GraphSt → GraphSt) (h1 : Tidy q s) :
    Tidy q (modGraph s h f) := by
  unfold modGraph
  try dsimp only
  with_reducible repeat' first
    | (intro _) | assumption | (simp only [tidy_mk]; apply tidy_back) | split | apply_assumption | dsimp only

theorem tidy_modRunG (q : List Instr) (s : State) (h : Nat) (f : RunG → RunG) (h1 : Tidy q s) :
    Tidy q (modRunG s h f) := by
  unfold modRunG
  try dsimp only
  with_reducible repeat' first
    | (intro _) | assumption | apply tidy_modGraph | (simp only [tidy_mk]; apply tidy_back) | split | apply_assumption
    | dsimp only

theorem tidy_addFlags (q : List Instr) (t : Nat) (f : Nat) (s : State) (h1 : Tidy q s) :
    Tidy q (addFlags t f s) := by
  unfold addFlags
  try dsimp only
  with_reducible repeat' first
    | (intro _) | assumption | apply tidy_modRunG | (simp only [tidy_mk]; apply tidy_back) | split | dsimp only

theorem tidy_breakFill (q : List Instr) (t : Nat) (s : State) (h1 : Tidy q s) :
    Tidy q (breakFill t s) := by
  unfold breakFill
  try dsimp only
  with_reducible repeat' first
    | (intro _) | assumption | apply tidy_startFiller | apply tidy_ite | (simp only [tidy_mk]; apply tidy_back)
    | split | dsimp only

theorem tidy_breakFillAll (q : List Instr) (h : Nat) (s : State) (h1 : Tidy q s) :
    Tidy q (breakFillAll h s) := by
  unfold breakFillAll
  try dsimp only
  with_reducible repeat' first
    | (intro _) | assumption | apply tidy_breakFill | apply tidy_foldl | (simp only [tidy_mk]; apply tidy_back)
    | split | dsimp only

theorem tidy_brkHit (q : List Instr) (t : Nat) (cause : Nat) (id : Nat) (s : State) (h1 : Tidy q s) :
    Tidy q (brkHit t cause id s) := by
  unfold brkHit
  try dsimp only
  with_reducible repeat' first
    | (intro _) | assumption | apply tidy_odSet | apply tidy_breakFillAll | apply tidy_traceEvent | apply tidy_ite
    | (simp only [tidy_mk]; apply tidy_back) | split | dsimp only

theorem tidy_progress (q : List Instr) (h : Nat) (s : State) (h1 : Tidy q s) :
    Tidy q (progress h s) := by
  unfold progress
  try dsimp only
  with_reducible repeat' first
    | (intro _) | assumption | apply tidy_modRunG | (simp only [tidy_mk]; apply tidy_back) | split | dsimp only

theorem tidy_noteWrote (q : List Instr) (t : Nat) (a : Nat) (n : Nat) (s : State) (h1 : Tidy q s) :
    Tidy q (noteWrote t a n s) := by
  unfold noteWrote
  try dsimp only
  with_reducible repeat' first
    | (intro _) | assumption | apply tidy_modGraph | apply tidy_ite | (simp only [tidy_mk]; apply tidy_back) | split
    | dsimp only

theorem tidy_tileExc (q : List Instr) (t : Nat) (code : Nat) (ue : Option UeMet) (s : State) (h1 : Tidy q s) :
    Tidy q (tileExc t code ue s) := by
  unfold tileExc
  try dsimp only
  with_reducible repeat' first
    | (intro _) | assumption | apply tidy_ueRecord | apply tidy_setTile | apply tidy_modGraph
    | apply tidy_freezeSource | apply tidy_traceEvent | apply tidy_trace | apply tidy_ite
    | (simp only [tidy_mk]; apply tidy_back) | split | dsimp only

theorem tidy_ueTile (q : List Instr) (t : Nat) (m : UeMet) (s : State) (h1 : Tidy q s) :
    Tidy q (ueTile t m s) := by
  unfold ueTile
  try dsimp only
  with_reducible repeat' first
    | (intro _) | assumption | apply tidy_tileExc | (simp only [tidy_mk]; apply tidy_back) | split | dsimp only

theorem tidy_putToken (q : List Instr) (t : Nat) (oq : Nat) (kind : Nat) (payload : Nat) (s : State) (h1 : Tidy q s) :
    Tidy q (putToken t oq kind payload s) := by
  unfold putToken
  try dsimp only
  with_reducible repeat' first
    | (intro _) | assumption | apply tidy_setTile | apply tidy_trace | apply tidy_ite
    | (simp only [tidy_mk]; apply tidy_back) | split | dsimp only

theorem tidy_applyEff (q : List Instr) (t : Nat) (e : TEff) (s : State) (h1 : Tidy q s) :
    Tidy q (applyEff t e s) := by
  unfold applyEff
  try dsimp only
  with_reducible repeat' first
    | (intro _) | assumption | apply tidy_setTile | apply tidy_writeMod | apply tidy_noteWrote | apply tidy_ueTile
    | apply tidy_putToken | apply tidy_addFlags | (apply tidyRes_of; assumption) | (apply tidyRes_ofUe; assumption)
    | (simp only [tidy_mk]; apply tidy_back) | split | dsimp only

theorem tidy_countBundle (q : List Instr) (t : Nat) (w : Nat) (op : Nat) (s : State) (h1 : Tidy q s) :
    Tidy q (countBundle t w op s) := by
  unfold countBundle
  try dsimp only
  with_reducible repeat' first
    | (intro _) | assumption | apply tidy_noteEvents | apply tidy_ite | (simp only [tidy_mk]; apply tidy_back) | split
    | dsimp only

theorem tidy_correctAll (q : List Instr) (rs : List (Nat × Nat)) (s : State) (h1 : Tidy q s) :
    Tidy q (correctAll rs s) := by
  unfold correctAll
  try dsimp only
  with_reducible repeat' first
    | (intro _) | assumption | apply tidy_correctIn | apply tidy_foldl | (simp only [tidy_mk]; apply tidy_back)
    | split | dsimp only

theorem tidy_settle (q : List Instr) (a0 : Nat) (a1 : Nat) (s : State) (h1 : Tidy q s) :
    Tidy q (settle a0 a1 s) := by
  revert h1
  fun_induction settle a0 a1 s <;> intro h1
  all_goals (try dsimp only)
  with_reducible repeat' first
    | (intro _) | assumption | apply tidy_setTile | apply tidy_breakFill | apply tidy_tileExc | apply tidy_ueTile
    | apply tidy_correctAll | apply tidy_ite | (simp only [tidy_mk]; apply tidy_back) | split | apply_assumption
    | dsimp only

theorem tidy_commitBundle (q : List Instr) (t : Nat) (r : Run) (effs : List TEff) (s : State) (h1 : Tidy q s) :
    Tidy q (commitBundle t r effs s) := by
  unfold commitBundle
  try dsimp only
  with_reducible repeat' first
    | (intro _) | assumption | apply tidy_applyEff | apply tidy_countBundle | apply tidy_setTile | apply tidy_brkHit
    | apply tidy_settle | apply tidy_ite | apply tidy_foldl | (simp only [tidy_mk]; apply tidy_back) | split
    | dsimp only

theorem tidy_issueSlot (q : List Instr) (t : Nat) (k : Nat) (bits : Nat) (sem : State → TileSt → SlotRes) (s : State)
    (hf : ∀ x0 x1, Tidy q x0 → TidySlot q (sem x0 x1)) (h1 : Tidy q s) :
    Tidy q (issueSlot t k bits sem s) := by
  unfold issueSlot
  try dsimp only
  with_reducible repeat' first
    | (intro _) | assumption | apply tidy_tileExc | apply tidy_ueTile | apply tidy_commitBundle | apply tidy_setTile
    | apply tidy_ite | (apply tidySlot_of; assumption) | (apply tidySlot_ofExc; assumption)
    | (apply tidySlot_ofUe; assumption) | (simp only [tidy_mk]; apply tidy_back) | split | apply_assumption
    | dsimp only

theorem tidy_issueImm (q : List Instr) (t : TileId) (k : Nat) (op : Nat) (f : ImmForm) (sem : State → TileSt →
    SlotRes) (s : State) (hf : ∀ x0 x1, Tidy q x0 → TidySlot q (sem x0 x1)) (h1 : Tidy q s) :
    Tidy q (issueImm t k op f sem s) := by
  unfold issueImm
  try dsimp only
  with_reducible repeat' first
    | (intro _) | assumption | apply tidy_issueSlot | (apply tidySlot_of; assumption)
    | (apply tidySlot_ofExc; assumption) | (apply tidySlot_ofUe; assumption) | (simp only [tidy_mk]; apply tidy_back)
    | split | apply_assumption | dsimp only

theorem tidy_issueReg (q : List Instr) (t : TileId) (k : Nat) (op : Nat) (f : RegForm) (sem : State → TileSt →
    SlotRes) (s : State) (hf : ∀ x0 x1, Tidy q x0 → TidySlot q (sem x0 x1)) (h1 : Tidy q s) :
    Tidy q (issueReg t k op f sem s) := by
  unfold issueReg
  try dsimp only
  with_reducible repeat' first
    | (intro _) | assumption | apply tidy_issueSlot | (apply tidySlot_of; assumption)
    | (apply tidySlot_ofExc; assumption) | (apply tidySlot_ofUe; assumption) | (simp only [tidy_mk]; apply tidy_back)
    | split | apply_assumption | dsimp only

theorem tidy_releaseBundle (q : List Instr) (t : Nat) (s : State) (h1 : Tidy q s) :
    Tidy q (releaseBundle t s) := by
  unfold releaseBundle
  try dsimp only
  with_reducible repeat' first
    | (intro _) | assumption | apply tidy_settle | apply tidy_ite | (simp only [tidy_mk]; apply tidy_back) | split
    | dsimp only

theorem tidy_cmpOp (q : List Instr) (f : RegForm) (g : Lane → Lane → Bool × Nat) (s : State) (x : TileSt) (h1 : Tidy q
    s) :
    TidySlot q (cmpOp f g s x) := by
  unfold cmpOp
  try dsimp only
  with_reducible repeat' first
    | (intro _) | assumption | apply tidySlot_ok | apply tidySlot_exc | apply tidySlot_ue
    | (simp only [tidy_mk]; apply tidy_back) | split | apply_assumption | dsimp only

theorem tidy_lanesOp (q : List Instr) (f : RegForm) (g : TileSt → Nat → Lane × Nat) (s : State) (x : TileSt) (h1 :
    Tidy q s) :
    TidySlot q (lanesOp f g s x) := by
  unfold lanesOp
  try dsimp only
  with_reducible repeat' first
    | (intro _) | assumption | apply tidySlot_ok | apply tidySlot_exc | apply tidySlot_ue
    | (simp only [tidy_mk]; apply tidy_back) | split | apply_assumption | dsimp only

theorem tidy_maskOp (q : List Instr) (f : RegForm) (g : TileSt → Nat) (s : State) (x : TileSt) (h1 : Tidy q s) :
    TidySlot q (maskOp f g s x) := by
  unfold maskOp
  try dsimp only
  with_reducible repeat' first
    | (intro _) | assumption | apply tidySlot_ok | apply tidySlot_exc | apply tidySlot_ue
    | (simp only [tidy_mk]; apply tidy_back) | split | apply_assumption | dsimp only

theorem tidy_memLoad (q : List Instr) (t : TileId) (f : ImmForm) (align : Nat) (width : Nat) (g : List Byte → TEff) (s
    : State) (x : TileSt) (h1 : Tidy q s) :
    TidySlot q (memLoad t f align width g s x) := by
  unfold memLoad
  try dsimp only
  with_reducible repeat' first
    | (intro _) | assumption | apply tidy_readMod | apply tidySlot_ok | apply tidySlot_exc | apply tidySlot_ue
    | (apply tidyRes_of; assumption) | (apply tidyRes_ofUe; assumption) | (simp only [tidy_mk]; apply tidy_back)
    | split | apply_assumption | dsimp only

theorem tidy_memStore (q : List Instr) (f : ImmForm) (align : Nat) (width : Nat) (g : TileSt → List Byte) (s : State)
    (x : TileSt) (h1 : Tidy q s) :
    TidySlot q (memStore f align width g s x) := by
  unfold memStore
  try dsimp only
  with_reducible repeat' first
    | (intro _) | assumption | apply tidySlot_ok | apply tidySlot_exc | apply tidySlot_ue
    | (simp only [tidy_mk]; apply tidy_back) | split | apply_assumption | dsimp only

theorem tidy_sclOp (q : List Instr) (dst : Nat) (g : State → TileSt → Nat) (s : State) (x : TileSt) (h1 : Tidy q s) :
    TidySlot q (sclOp dst g s x) := by
  unfold sclOp
  try dsimp only
  with_reducible repeat' first
    | (intro _) | assumption | apply tidySlot_ok | apply tidySlot_exc | apply tidySlot_ue
    | (simp only [tidy_mk]; apply tidy_back) | split | apply_assumption | dsimp only

theorem tidy_sclCmp (q : List Instr) (f : RegForm) (g : Int → Int → Bool) (s : State) (x : TileSt) (h1 : Tidy q s) :
    TidySlot q (sclCmp f g s x) := by
  unfold sclCmp
  try dsimp only
  with_reducible repeat' first
    | (intro _) | assumption | apply tidySlot_ok | apply tidySlot_exc | apply tidySlot_ue
    | (simp only [tidy_mk]; apply tidy_back) | split | apply_assumption | dsimp only

theorem tidy_vecBin (q : List Instr) (f : RegForm) (g : Lane → Lane → Lane × Nat) (s : State) (a3 : TileSt) (h1 : Tidy
    q s) :
    TidySlot q (vecBin f g s a3) := by
  unfold vecBin
  try dsimp only
  with_reducible repeat' first
    | (intro _) | assumption | apply tidy_lanesOp | apply tidySlot_ok | apply tidySlot_exc | apply tidySlot_ue
    | (apply tidySlot_of; assumption) | (apply tidySlot_ofExc; assumption) | (apply tidySlot_ofUe; assumption)
    | (simp only [tidy_mk]; apply tidy_back) | split | apply_assumption | dsimp only

theorem tidy_vecInt (q : List Instr) (op : Nat) (f : RegForm) (s : State) (a3 : TileSt) (h1 : Tidy q s) :
    TidySlot q (vecInt op f s a3) := by
  unfold vecInt
  try dsimp only
  with_reducible repeat' first
    | (intro _) | assumption | apply tidy_vecBin | apply tidySlot_ok | apply tidySlot_exc | apply tidySlot_ue
    | (apply tidySlot_of; assumption) | (apply tidySlot_ofExc; assumption) | (apply tidySlot_ofUe; assumption)
    | (simp only [tidy_mk]; apply tidy_back) | split | dsimp only

theorem tidy_vecUn (q : List Instr) (f : RegForm) (g : Lane → Lane × Nat) (s : State) (a3 : TileSt) (h1 : Tidy q s) :
    TidySlot q (vecUn f g s a3) := by
  unfold vecUn
  try dsimp only
  with_reducible repeat' first
    | (intro _) | assumption | apply tidy_lanesOp | apply tidySlot_ok | apply tidySlot_exc | apply tidySlot_ue
    | (apply tidySlot_of; assumption) | (apply tidySlot_ofExc; assumption) | (apply tidySlot_ofUe; assumption)
    | (simp only [tidy_mk]; apply tidy_back) | split | apply_assumption | dsimp only

theorem tidy_readRows (q : List Instr) (t : Nat) (off : Nat) (stride : Nat) (row : Nat) (a4 : Nat) (s : State) (h1 :
    Tidy q s) :
    TidyRes q (readRows t off stride row a4 s) := by
  revert h1
  fun_induction readRows t off stride row a4 s <;> intro h1
  all_goals (try dsimp only)
  with_reducible repeat' first
    | (intro _) | assumption | apply tidy_readMod | apply tidyRes_ok | apply tidyRes_ue
    | (apply tidyRes_of; assumption) | (apply tidyRes_ofUe; assumption) | (simp only [tidy_mk]; apply tidy_back)
    | split | apply_assumption | dsimp only

theorem tidy_readTensor (q : List Instr) (t : Nat) (d : Nat) (s : State) (h1 : Tidy q s) :
    TidyRes q (readTensor t d s) := by
  unfold readTensor
  try dsimp only
  with_reducible repeat' first
    | (intro _) | assumption | apply tidy_readRows | apply tidy_ite | apply tidyRes_ite | apply tidyRes_ok
    | apply tidyRes_ue | (apply tidyRes_of; assumption) | (apply tidyRes_ofUe; assumption)
    | (simp only [tidy_mk]; apply tidy_back) | split | dsimp only

theorem tidy_writeRows (q : List Instr) (t : Nat) (off : Nat) (stride : Nat) (a3 : List (List Byte)) (s : State) (h1 :
    Tidy q s) :
    TidyRes q (writeRows t off stride a3 s) := by
  revert h1
  fun_induction writeRows t off stride a3 s <;> intro h1
  all_goals (try dsimp only)
  with_reducible repeat' first
    | (intro _) | assumption | apply tidy_writeMod | apply tidy_noteWrote | apply tidyRes_ok | apply tidyRes_ue
    | (apply tidyRes_of; assumption) | (apply tidyRes_ofUe; assumption) | (simp only [tidy_mk]; apply tidy_back)
    | split | apply_assumption | dsimp only

theorem tidy_copyRows (q : List Instr) (t : Nat) (src : Nat) (ss : Nat) (dst : Nat) (ds : Nat) (row : Nat) (a6 : Nat)
    (s : State) (h1 : Tidy q s) :
    TidyRes q (copyRows t src ss dst ds row a6 s) := by
  induction a6 generalizing src dst s with
  | zero => exact h1
  | succ n ih =>
    unfold copyRows
    with_reducible repeat' first
      | (intro _) | assumption | apply tidy_readMod | apply tidy_writeMod | apply tidy_noteWrote | apply tidy_ite
      | apply tidyRes_ite | apply tidyRes_ok | apply tidyRes_ue | (apply tidyRes_of; assumption)
      | (apply tidyRes_ofUe; assumption) | (simp only [tidy_mk]; apply tidy_back) | split | apply_assumption
      | dsimp only

theorem tidy_dmaComplete (q : List Instr) (t : Nat) (s : State) (h1 : Tidy q s) :
    Tidy q (dmaComplete t s) := by
  unfold dmaComplete
  try dsimp only
  with_reducible repeat' first
    | (intro _) | assumption | apply tidy_setTile | apply tidy_copyRows | apply tidy_ueTile | apply tidy_ite
    | (apply tidyRes_of; assumption) | (apply tidyRes_ofUe; assumption) | (simp only [tidy_mk]; apply tidy_back)
    | split | dsimp only

theorem tidy_dmaIssue (q : List Instr) (t : TileId) (inbound : Bool) (f : ImmForm) (s : State) (x : TileSt) (h1 : Tidy
    q s) :
    TidySlot q (dmaIssue t inbound f s x) := by
  unfold dmaIssue
  try dsimp only
  with_reducible repeat' first
    | (intro _) | assumption | apply tidySlot_ok | apply tidySlot_exc | apply tidySlot_ue
    | (simp only [tidy_mk]; apply tidy_back) | split | dsimp only

theorem tidy_faultless (q : List Instr) (s : State) (h1 : Tidy q s) :
    Tidy q (faultless s) := by
  unfold faultless
  try dsimp only
  with_reducible repeat' first | (intro _) | assumption | (simp only [tidy_mk]; apply tidy_back) | split | dsimp only

theorem tidy_noteInfs (q : List Instr) (who : Acc) (a : Nat) (e : Ea) (s : State) (h1 : Tidy q s) :
    Tidy q (noteInfs who a e s) := by
  unfold noteInfs
  try dsimp only
  with_reducible repeat' first
    | (intro _) | assumption | apply tidy_modRunG | apply tidy_ite | (simp only [tidy_mk]; apply tidy_back) | split
    | dsimp only

theorem tidy_slotAdd (q : List Instr) (who : Acc) (a : Addition) (opened : List Nat) (s : State) (h1 : Tidy q s) :
    TidyRes q (slotAdd who a opened s) := by
  unfold slotAdd
  have h2 := tidy_correctIn q a.addr 96 s h1
  dsimp only
  split
  · exact h2
  · apply tidyRes_ok
    apply tidy_noteInfs
    simp only [tidy_mk]
    exact ⟨memWrite_wf _ _ _ h2.1, h2.2⟩

theorem tidy_slotEvict (q : List Instr) (who : Acc) (a : Nat) (opened : List Nat) (s : State) (h1 : Tidy q s) :
    TidyRes q (slotEvict who a opened s) := by
  unfold slotEvict
  try dsimp only
  with_reducible repeat' first
    | (intro _) | assumption | apply tidy_correctIn | apply tidy_writeMod | apply tidy_ite | apply tidyRes_ite
    | apply tidyRes_ok | apply tidyRes_ue | (apply tidyRes_of; assumption) | (apply tidyRes_ofUe; assumption)
    | (simp only [tidy_mk]; apply tidy_back) | split | dsimp only

theorem tidy_engineAdd (q : List Instr) (who : Acc) (a : Addition) (s : State) (h1 : Tidy q s) :
    TidyRes q (engineAdd who a s) := by
  unfold engineAdd
  try dsimp only
  with_reducible repeat' first
    | (intro _) | assumption | apply tidy_slotAdd | apply tidy_slotEvict | apply tidy_readMod | apply tidy_ite
    | apply tidyRes_ite | apply tidyRes_ok | apply tidyRes_ue | (apply tidyRes_of; assumption)
    | (apply tidyRes_ofUe; assumption) | (simp only [tidy_mk]; apply tidy_back) | split | dsimp only

theorem tidy_someAdds (q : List Instr) (t : Nat) (k : Nat) (a2 : Nat) (a3 : List Addition) (s : State) (h1 : Tidy q s)
    :
    Tidy q (someAdds t k a2 a3 s) := by
  induction a3 generalizing a2 s with
  | nil => exact h1
  | cons a r ih =>
    unfold someAdds
    apply ih
    with_reducible repeat' first
      | (intro _) | assumption | apply tidy_engineAdd | apply tidy_ite | (apply tidyRes_of; assumption)
      | (apply tidyRes_ofUe; assumption) | (simp only [tidy_mk]; apply tidy_back) | split | apply_assumption
      | dsimp only

theorem tidy_engineAll (q : List Instr) (t : Nat) (a1 : List Addition) (s : State) (h1 : Tidy q s) :
    TidyRes q (engineAll t a1 s) := by
  revert h1
  fun_induction engineAll t a1 s <;> intro h1
  all_goals (try dsimp only)
  with_reducible repeat' first
    | (intro _) | assumption | apply tidy_engineAdd | apply tidy_setTile | apply tidyRes_ok | apply tidyRes_ue
    | (apply tidyRes_of; assumption) | (apply tidyRes_ofUe; assumption) | (simp only [tidy_mk]; apply tidy_back)
    | split | apply_assumption | dsimp only

theorem tidy_readGranule (q : List Instr) (who : Acc) (a : Nat) (e : Nat) (s : State) (h1 : Tidy q s) :
    TidyRes q (readGranule who a e s) := by
  unfold readGranule
  try dsimp only
  with_reducible repeat' first
    | (intro _) | assumption | apply tidy_readMod | apply tidy_ite | apply tidyRes_ite | apply tidyRes_ok
    | apply tidyRes_ue | (apply tidyRes_of; assumption) | (apply tidyRes_ofUe; assumption)
    | (simp only [tidy_mk]; apply tidy_back) | split | dsimp only

theorem tidy_gatherLoop (q : List Instr) (t : Nat) (base : Nat) (lim : Nat) (e : Nat) (a4 : List Nat) (a5 : Nat) (s :
    State) (h1 : Tidy q s) :
    TidyRes q (gatherLoop t base lim e a4 a5 s) := by
  revert h1
  fun_induction gatherLoop t base lim e a4 a5 s <;> intro h1
  all_goals (try dsimp only)
  with_reducible repeat' first
    | (intro _) | assumption | apply tidy_readGranule | apply tidy_writeMod | apply tidy_ite | apply tidyRes_ite
    | apply tidyRes_ok | apply tidyRes_ue | (apply tidyRes_of; assumption) | (apply tidyRes_ofUe; assumption)
    | (simp only [tidy_mk]; apply tidy_back) | split | apply_assumption | dsimp only

theorem tidy_hashVisit (q : List Instr) (who : Acc) (tab : Nat) (nb : Nat) (k64 : Bool) (k : Nat) (a5 : Nat) (a6 :
    Nat) (s : State) (h1 : Tidy q s) :
    TidyRes q (hashVisit who tab nb k64 k a5 a6 s) := by
  revert h1
  fun_induction hashVisit who tab nb k64 k a5 a6 s <;> intro h1
  all_goals (try dsimp only)
  with_reducible repeat' first
    | (intro _) | assumption | apply tidy_readMod | apply tidyRes_ok | apply tidyRes_ue
    | (apply tidyRes_of; assumption) | (apply tidyRes_ofUe; assumption) | (simp only [tidy_mk]; apply tidy_back)
    | split | apply_assumption | dsimp only

theorem tidy_hashKey (q : List Instr) (who : Acc) (tab : Nat) (lb : Nat) (p : Nat) (seed : Nat) (k64 : Bool) (ins :
    Bool) (imode : Nat) (dflt : Nat) (k : Nat) (v : Nat) (s : State) (h1 : Tidy q s) :
    TidyRes q (hashKey who tab lb p seed k64 ins imode dflt k v s) := by
  unfold hashKey
  try dsimp only
  with_reducible repeat' first
    | (intro _) | assumption | apply tidy_hashVisit | apply tidy_writeMod | apply tidy_ite | apply tidyRes_ite
    | apply tidyRes_ok | apply tidyRes_ue | (apply tidyRes_of; assumption) | (apply tidyRes_ofUe; assumption)
    | (simp only [tidy_mk]; apply tidy_back) | split | dsimp only

theorem tidy_hashKeys (q : List Instr) (who : Acc) (tab : Nat) (lb : Nat) (p : Nat) (seed : Nat) (k64 : Bool) (ins :
    Bool) (imode : Nat) (dflt : Nat) (a9 : List (Nat × Nat)) (s : State) (h1 : Tidy q s) :
    TidyRes q (hashKeys who tab lb p seed k64 ins imode dflt a9 s) := by
  revert h1
  fun_induction hashKeys who tab lb p seed k64 ins imode dflt a9 s <;> intro h1
  all_goals (try dsimp only)
  with_reducible repeat' first
    | (intro _) | assumption | apply tidy_hashKey | apply tidyRes_ok | apply tidyRes_ue
    | (apply tidyRes_of; assumption) | (apply tidyRes_ofUe; assumption) | (simp only [tidy_mk]; apply tidy_back)
    | split | apply_assumption | dsimp only

theorem tidy_irrWrites (q : List Instr) (t : Nat) (a1 : List (Nat × List Byte)) (s : State) (h1 : Tidy q s) :
    TidyRes q (irrWrites t a1 s) := by
  revert h1
  fun_induction irrWrites t a1 s <;> intro h1
  all_goals (try dsimp only)
  with_reducible repeat' first
    | (intro _) | assumption | apply tidy_writeMod | apply tidyRes_ok | apply tidyRes_ue
    | (apply tidyRes_of; assumption) | (apply tidyRes_ofUe; assumption) | (simp only [tidy_mk]; apply tidy_back)
    | split | apply_assumption | dsimp only

theorem tidy_iobWrite (q : List Instr) (t : Nat) (o : IrrOp) (r : IrrOut) (s : State) (h1 : Tidy q s) :
    TidyRes q (iobWrite t o r s) := by
  unfold iobWrite
  try dsimp only
  with_reducible repeat' first
    | (intro _) | assumption | apply tidy_irrWrites | apply tidyRes_ok | apply tidyRes_ue
    | (apply tidyRes_of; assumption) | (apply tidyRes_ofUe; assumption) | (simp only [tidy_mk]; apply tidy_back)
    | split | dsimp only

theorem tidy_irrRead (q : List Instr) (t : Nat) (a : Nat) (n : Nat) (s : State) (h1 : Tidy q s) :
    TidyRes q (irrRead t a n s) := by
  unfold irrRead
  try dsimp only
  with_reducible repeat' first
    | (intro _) | assumption | apply tidy_readMod | apply tidy_ite | apply tidyRes_ite | apply tidyRes_ok
    | apply tidyRes_ue | (apply tidyRes_of; assumption) | (apply tidyRes_ofUe; assumption)
    | (simp only [tidy_mk]; apply tidy_back) | split | dsimp only

theorem tidy_runGather (q : List Instr) (t : Nat) (o : IrrOp) (s : State) (h1 : Tidy q s) :
    TidyRes q (runGather t o s) := by
  unfold runGather
  try dsimp only
  with_reducible repeat' first
    | (intro _) | assumption | apply tidy_irrRead | apply tidy_gatherLoop | apply tidyRes_ok | apply tidyRes_ue
    | (apply tidyRes_of; assumption) | (apply tidyRes_ofUe; assumption) | (simp only [tidy_mk]; apply tidy_back)
    | split | dsimp only

theorem tidy_runScatter (q : List Instr) (t : Nat) (o : IrrOp) (s : State) (h1 : Tidy q s) :
    TidyRes q (runScatter t o s) := by
  unfold runScatter
  try dsimp only
  with_reducible repeat' first
    | (intro _) | assumption | apply tidy_irrRead | apply tidy_irrWrites | apply tidyRes_ok | apply tidyRes_ue
    | (apply tidyRes_of; assumption) | (apply tidyRes_ofUe; assumption) | (simp only [tidy_mk]; apply tidy_back)
    | split | dsimp only

theorem tidy_runScadd (q : List Instr) (t : Nat) (o : IrrOp) (adds : List Addition) (s : State) (h1 : Tidy q s) :
    TidyRes q (runScadd t o adds s) := by
  unfold runScadd
  try dsimp only
  with_reducible repeat' first
    | (intro _) | assumption | apply tidy_writeMod | apply tidy_engineAll | apply tidy_ite | apply tidyRes_ite
    | apply tidyRes_ok | apply tidyRes_ue | (apply tidyRes_of; assumption) | (apply tidyRes_ofUe; assumption)
    | (simp only [tidy_mk]; apply tidy_back) | split | dsimp only

theorem tidy_runSet (q : List Instr) (t : Nat) (o : IrrOp) (s : State) (h1 : Tidy q s) :
    TidyRes q (runSet t o s) := by
  unfold runSet
  try dsimp only
  with_reducible repeat' first
    | (intro _) | assumption | apply tidy_irrRead | apply tidy_irrWrites | apply tidy_ite | apply tidyRes_ite
    | apply tidyRes_ok | apply tidyRes_ue | (apply tidyRes_of; assumption) | (apply tidyRes_ofUe; assumption)
    | (simp only [tidy_mk]; apply tidy_back) | split | dsimp only

theorem tidy_runHash (q : List Instr) (t : Nat) (o : IrrOp) (s : State) (h1 : Tidy q s) :
    TidyRes q (runHash t o s) := by
  unfold runHash
  try dsimp only
  with_reducible repeat' first
    | (intro _) | assumption | apply tidy_irrRead | apply tidy_hashKeys | apply tidy_irrWrites | apply tidy_ite
    | apply tidyRes_ite | apply tidyRes_ok | apply tidyRes_ue | (apply tidyRes_of; assumption)
    | (apply tidyRes_ofUe; assumption) | (simp only [tidy_mk]; apply tidy_back) | split | dsimp only

theorem tidy_runSort (q : List Instr) (t : Nat) (o : IrrOp) (s : State) (h1 : Tidy q s) :
    TidyRes q (runSort t o s) := by
  unfold runSort
  try dsimp only
  with_reducible repeat' first
    | (intro _) | assumption | apply tidy_irrRead | apply tidy_irrWrites | apply tidy_undefine | apply tidy_ite
    | apply tidyRes_ite | apply tidyRes_ok | apply tidyRes_ue | (apply tidyRes_of; assumption)
    | (apply tidyRes_ofUe; assumption) | (simp only [tidy_mk]; apply tidy_back) | split | dsimp only

theorem tidy_runSelectk (q : List Instr) (t : Nat) (o : IrrOp) (s : State) (h1 : Tidy q s) :
    TidyRes q (runSelectk t o s) := by
  unfold runSelectk
  try dsimp only
  with_reducible repeat' first
    | (intro _) | assumption | apply tidy_irrRead | apply tidy_irrWrites | apply tidy_ite | apply tidyRes_ite
    | apply tidyRes_ok | apply tidyRes_ue | (apply tidyRes_of; assumption) | (apply tidyRes_ofUe; assumption)
    | (simp only [tidy_mk]; apply tidy_back) | split | dsimp only

theorem tidy_irrRun (q : List Instr) (t : Nat) (o : IrrOp) (adds : List Addition) (s : State) (h1 : Tidy q s) :
    TidyRes q (irrRun t o adds s) := by
  unfold irrRun
  try dsimp only
  with_reducible repeat' first
    | (intro _) | assumption | apply tidy_runGather | apply tidy_runScatter | apply tidy_runScadd | apply tidy_runSet
    | apply tidy_runHash | apply tidy_runSort | apply tidy_runSelectk | apply tidy_ite | apply tidyRes_ite
    | apply tidyRes_ok | apply tidyRes_ue | (apply tidyRes_of; assumption) | (apply tidyRes_ofUe; assumption)
    | (simp only [tidy_mk]; apply tidy_back) | split | dsimp only

theorem tidy_noteAll (q : List Instr) (t : Nat) (a1 : List (Nat × Nat)) (s : State) (h1 : Tidy q s) :
    Tidy q (noteAll t a1 s) := by
  induction a1 generalizing s with
  | nil => exact h1
  | cons x r ih =>
    unfold noteAll
    apply ih
    with_reducible repeat' first
      | (intro _) | assumption | apply tidy_noteWrote | apply tidy_ite | (simp only [tidy_mk]; apply tidy_back)
      | split | apply_assumption | dsimp only

theorem tidy_irrComplete (q : List Instr) (t : Nat) (u : Nat) (s : State) (h1 : Tidy q s) :
    Tidy q (irrComplete t u s) := by
  unfold irrComplete
  try dsimp only
  with_reducible repeat' first
    | (intro _) | assumption | apply tidy_setTile | apply tidy_irrRun | apply tidy_ueTile | apply tidy_iobWrite
    | apply tidy_noteAll | apply tidy_addFlags | apply tidy_ite | (apply tidyRes_of; assumption)
    | (apply tidyRes_ofUe; assumption) | (simp only [tidy_mk]; apply tidy_back) | split | dsimp only

theorem tidy_scaddStart (q : List Instr) (t : Nat) (o : IrrOp) (s : State) (h1 : Tidy q s) :
    TidyRes q (scaddStart t o s) := by
  unfold scaddStart
  try dsimp only
  with_reducible repeat' first
    | (intro _) | assumption | apply tidy_irrRead | apply tidyRes_ok | apply tidyRes_ue
    | (apply tidyRes_of; assumption) | (apply tidyRes_ofUe; assumption) | (simp only [tidy_mk]; apply tidy_back)
    | split | dsimp only

theorem tidy_irrDequeue (q : List Instr) (t : Nat) (u : Nat) (s : State) (h1 : Tidy q s) :
    Tidy q (irrDequeue t u s) := by
  unfold irrDequeue
  try dsimp only
  with_reducible repeat' first
    | (intro _) | assumption | apply tidy_setTile | apply tidy_scaddStart | apply tidy_ueTile | apply tidy_ite
    | (apply tidyRes_of; assumption) | (apply tidyRes_ofUe; assumption) | (simp only [tidy_mk]; apply tidy_back)
    | split | dsimp only

theorem tidy_irrIssue (q : List Instr) (t : TileId) (op : Nat) (f : RegForm) (s : State) (x : TileSt) (h1 : Tidy q s)
    :
    TidySlot q (irrIssue t op f s x) := by
  unfold irrIssue
  try dsimp only
  with_reducible repeat' first
    | (intro _) | assumption | apply tidy_readMod | apply tidy_ite | apply tidySlot_ok | apply tidySlot_exc
    | apply tidySlot_ue | (apply tidyRes_of; assumption) | (apply tidyRes_ofUe; assumption)
    | (simp only [tidy_mk]; apply tidy_back) | split | dsimp only

theorem tidy_scaddAccept (q : List Instr) (t : Nat) (i : Nat) (s : State) (h1 : Tidy q s) :
    Tidy q (scaddAccept t i s) := by
  unfold scaddAccept
  try dsimp only
  with_reducible repeat' first
    | (intro _) | assumption | apply tidy_engineAdd | apply tidy_ueTile | apply tidy_noteWrote | apply tidy_setTile
    | apply tidy_ite | apply tidyRes_ite | apply tidyRes_ok | apply tidyRes_ue | apply tidyServe_ok
    | apply tidyServe_ue | apply tidySlot_ok | apply tidySlot_exc | apply tidySlot_ue | apply tidyOpt_ite
    | apply tidyOpt_some | apply tidyOpt_none | apply tidyAns_ite | apply tidyAns_some | apply tidyAns_none
    | apply tidy_snd_ite | (apply tidyRes_of; assumption) | (apply tidyRes_ofUe; assumption)
    | (apply tidyServe_of; assumption) | (apply tidyServe_ofUe; assumption) | (apply tidySlot_of; assumption)
    | (apply tidySlot_ofExc; assumption) | (apply tidySlot_ofUe; assumption) | (apply tidyPair_of; assumption)
    | (apply tidyTriple_of; assumption) | (apply tidyOpt_of; assumption) | (apply tidyAns_of; assumption)
    | apply tidy_foldl | (simp only [tidy_mk]; apply tidy_back) | split | (simp only [id_eq]) | apply_assumption
    | dsimp only

theorem tidy_sclBin (q : List Instr) (f : RegForm) (g : Nat → Nat → Nat) (s : State) (a3 : TileSt) (h1 : Tidy q s) :
    TidySlot q (sclBin f g s a3) := by
  unfold sclBin
  try dsimp only
  with_reducible repeat' first
    | (intro _) | assumption | apply tidy_sclOp | apply tidySlot_ok | apply tidySlot_exc | apply tidySlot_ue
    | (apply tidySlot_of; assumption) | (apply tidySlot_ofExc; assumption) | (apply tidySlot_ofUe; assumption)
    | (simp only [tidy_mk]; apply tidy_back) | split | apply_assumption | dsimp only

theorem tidy_windowOp (q : List Instr) (f : ImmForm) (g : Token → Nat) (s : State) (x : TileSt) (h1 : Tidy q s) :
    TidySlot q (windowOp f g s x) := by
  unfold windowOp
  try dsimp only
  with_reducible repeat' first
    | (intro _) | assumption | apply tidySlot_ok | apply tidySlot_exc | apply tidySlot_ue
    | (simp only [tidy_mk]; apply tidy_back) | split | apply_assumption | dsimp only

theorem tidy_countMatrix (q : List Instr) (t : Nat) (busy : Nat) (m : MatOp) (s : State) (h1 : Tidy q s) :
    Tidy q (countMatrix t busy m s) := by
  unfold countMatrix
  try dsimp only
  with_reducible repeat' first
    | (intro _) | assumption | apply tidy_noteEvents | apply tidy_odAdd | (simp only [tidy_mk]; apply tidy_back)
    | split | dsimp only

theorem tidy_doMclr (q : List Instr) (t : Nat) (m : MatOp) (s : State) (h1 : Tidy q s) :
    Tidy q (doMclr t m s) := by
  unfold doMclr
  try dsimp only
  with_reducible repeat' first
    | (intro _) | assumption | apply tidy_setTile | apply tidy_ite | (simp only [tidy_mk]; apply tidy_back) | split
    | dsimp only

theorem tidy_doMldacc (q : List Instr) (t : Nat) (m : MatOp) (s : State) (h1 : Tidy q s) :
    Tidy q (doMldacc t m s) := by
  unfold doMldacc
  try dsimp only
  with_reducible repeat' first
    | (intro _) | assumption | apply tidy_readRows | apply tidy_ueTile | apply tidy_addFlags | apply tidy_setTile
    | apply tidy_ite | (apply tidyRes_of; assumption) | (apply tidyRes_ofUe; assumption)
    | (simp only [tidy_mk]; apply tidy_back) | split | dsimp only

theorem tidy_doMma (q : List Instr) (t : Nat) (m : MatOp) (s : State) (h1 : Tidy q s) :
    Tidy q (doMma t m s) := by
  unfold doMma
  try dsimp only
  with_reducible repeat' first
    | (intro _) | assumption | apply tidy_readTensor | apply tidy_ueTile | apply tidy_tileExc | apply tidy_addFlags
    | apply tidy_setTile | apply tidy_ite | (apply tidyRes_of; assumption) | (apply tidyRes_ofUe; assumption)
    | apply tidy_foldl | (simp only [tidy_mk]; apply tidy_back) | split | dsimp only

theorem tidy_doMmout (q : List Instr) (t : Nat) (m : MatOp) (s : State) (h1 : Tidy q s) :
    Tidy q (doMmout t m s) := by
  unfold doMmout
  try dsimp only
  with_reducible repeat' first
    | (intro _) | assumption | apply tidy_writeRows | apply tidy_ueTile | apply tidy_addFlags | apply tidy_ite
    | (apply tidyRes_of; assumption) | (apply tidyRes_ofUe; assumption) | apply tidy_foldl
    | (simp only [tidy_mk]; apply tidy_back) | split | (simp only [id_eq]) | dsimp only

theorem tidy_matComplete (q : List Instr) (t : Nat) (busy : Nat) (s0 : State) (h1 : Tidy q s0) :
    Tidy q (matComplete t busy s0) := by
  unfold matComplete
  try dsimp only
  with_reducible repeat' first
    | (intro _) | assumption | apply tidy_countMatrix | apply tidy_setTile | apply tidy_doMma | apply tidy_doMmout
    | apply tidy_doMldacc | apply tidy_doMclr | apply tidy_ite | (simp only [tidy_mk]; apply tidy_back) | split
    | dsimp only

theorem tidy_matIssue (q : List Instr) (t : TileId) (op : Nat) (f : RegForm) (da : TileSt → Nat) (db : TileSt → Nat)
    (chk : TileSt → Bool → Nat → Option Nat) (s : State) (x : TileSt) (h1 : Tidy q s) :
    TidySlot q (matIssue t op f da db chk s x) := by
  unfold matIssue
  try dsimp only
  with_reducible repeat' first
    | (intro _) | assumption | apply tidySlot_ok | apply tidySlot_exc | apply tidySlot_ue
    | (simp only [tidy_mk]; apply tidy_back) | split | apply_assumption | dsimp only

theorem tidy_vecRed (q : List Instr) (kind : Nat) (f : RegForm) (s : State) (x : TileSt) (h1 : Tidy q s) :
    TidySlot q (vecRed kind f s x) := by
  unfold vecRed
  try dsimp only
  with_reducible repeat' first
    | (intro _) | assumption | apply tidySlot_ok | apply tidySlot_exc | apply tidySlot_ue | apply tidy_foldl
    | (simp only [tidy_mk]; apply tidy_back) | split | dsimp only

theorem tidy_vecScan (q : List Instr) (kind : Nat) (f : RegForm) (s : State) (x : TileSt) (h1 : Tidy q s) :
    TidySlot q (vecScan kind f s x) := by
  unfold vecScan
  try dsimp only
  with_reducible repeat' first
    | (intro _) | assumption | apply tidy_ite | apply tidySlot_ok | apply tidySlot_exc | apply tidySlot_ue
    | (simp only [tidy_mk]; apply tidy_back) | split | dsimp only

theorem tidy_cvtOp (q : List Instr) (t : TileId) (f : RegForm) (src : TileSt → List Nat) (k0 : TileSt → Nat) (dst :
    Nat → List Nat → List Lane) (s : State) (x : TileSt) (h1 : Tidy q s) :
    TidySlot q (cvtOp t f src k0 dst s x) := by
  unfold cvtOp
  try dsimp only
  with_reducible repeat' first
    | (intro _) | assumption | apply tidySlot_ok | apply tidySlot_exc | apply tidySlot_ue
    | (simp only [tidy_mk]; apply tidy_back) | split | apply_assumption | dsimp only

theorem tidy_moveOp (q : List Instr) (f : RegForm) (g : TileSt → Nat → Lane) (s : State) (a3 : TileSt) (h1 : Tidy q s)
    :
    TidySlot q (moveOp f g s a3) := by
  unfold moveOp
  try dsimp only
  with_reducible repeat' first
    | (intro _) | assumption | apply tidy_lanesOp | apply tidySlot_ok | apply tidySlot_exc | apply tidySlot_ue
    | (apply tidySlot_of; assumption) | (apply tidySlot_ofExc; assumption) | (apply tidySlot_ofUe; assumption)
    | (simp only [tidy_mk]; apply tidy_back) | split | apply_assumption | dsimp only

end Sys2Proof.Machine
end

