-- ==== Sys2Proof/Laws/TidySched.lean ====
section
/-! SUPPORT. Each operation keeps memory canonical and the queue as it is: the credits, the judged writes, memory upkeep, the switch and the links. -/
namespace Sys2Proof.Machine
open Sys2Proof

theorem tidy_showDuty (q : List Instr) (s : State) (h1 : Tidy q s) :
    Tidy q (showDuty s) := by
  unfold showDuty
  try dsimp only
  with_reducible repeat' first
    | (intro _) | assumption | apply tidy_odSet | (simp only [tidy_mk]; apply tidy_back) | split | dsimp only

theorem tidy_setDuty (q : List Instr) (d : Nat) (v : Nat) (s : State) (h1 : Tidy q s) :
    Tidy q (setDuty d v s) := by
  unfold setDuty
  try dsimp only
  with_reducible repeat' first
    | (intro _) | assumption | apply tidy_modFlt | apply tidy_ite | (simp only [tidy_mk]; apply tidy_back) | split
    | dsimp only

theorem tidy_setPace (q : List Instr) (d : Nat) (v : Nat) (s : State) (h1 : Tidy q s) :
    Tidy q (setPace d v s) := by
  unfold setPace
  try dsimp only
  with_reducible repeat' first
    | (intro _) | assumption | apply tidy_modFlt | apply tidy_ite | (simp only [tidy_mk]; apply tidy_back) | split
    | dsimp only

theorem tidy_showVolt (q : List Instr) (d : Nat) (s : State) (h1 : Tidy q s) :
    Tidy q (showVolt d s) := by
  unfold showVolt
  try dsimp only
  with_reducible repeat' first
    | (intro _) | assumption | apply tidy_odBit | apply tidy_odSet | apply tidy_ite
    | (simp only [tidy_mk]; apply tidy_back) | split | dsimp only

theorem tidy_showFreq (q : List Instr) (d : Nat) (s : State) (h1 : Tidy q s) :
    Tidy q (showFreq d s) := by
  unfold showFreq
  try dsimp only
  with_reducible repeat' first
    | (intro _) | assumption | apply tidy_odSet | (simp only [tidy_mk]; apply tidy_back) | split | dsimp only

theorem tidy_setPoint (q : List Instr) (d : Nat) (v : Nat) (s : State) (h1 : Tidy q s) :
    Tidy q (setPoint d v s) := by
  unfold setPoint
  try dsimp only
  with_reducible repeat' first
    | (intro _) | assumption | apply tidy_modFlt | apply tidy_ite | (simp only [tidy_mk]; apply tidy_back) | split
    | dsimp only

theorem tidy_noteIssuer (q : List Instr) (d : Nat) (s : State) (h1 : Tidy q s) :
    Tidy q (noteIssuer d s) := by
  unfold noteIssuer
  try dsimp only
  with_reducible repeat' first
    | (intro _) | assumption | apply tidy_modFlt | (simp only [tidy_mk]; apply tidy_back) | split | dsimp only

theorem tidy_setSlot (q : List Instr) (d : Nat) (t : Nat) (s : State) (h1 : Tidy q s) :
    Tidy q (setSlot d t s) := by
  unfold setSlot
  try dsimp only
  with_reducible repeat' first
    | (intro _) | assumption | apply tidy_modFlt | apply tidy_ite | (simp only [tidy_mk]; apply tidy_back) | split
    | dsimp only

theorem tidy_useSlot (q : List Instr) (d : Nat) (s : State) (h1 : Tidy q s) :
    Tidy q (useSlot d s) := by
  unfold useSlot
  try dsimp only
  with_reducible repeat' first
    | (intro _) | assumption | apply tidy_setSlot | (simp only [tidy_mk]; apply tidy_back) | split | dsimp only

theorem tidy_addProj (q : List Instr) (p : Int) (s : State) (h1 : Tidy q s) :
    Tidy q (addProj p s) := by
  unfold addProj
  try dsimp only
  with_reducible repeat' first
    | (intro _) | assumption | apply tidy_modFlt | (simp only [tidy_mk]; apply tidy_back) | split | dsimp only

theorem tidy_finish (q : List Instr) (ring : Nat) (idx : Nat) (r : CmdRes) (s : State) (h1 : Tidy q s) :
    Tidy q (finish ring idx r s) := by
  unfold finish
  try dsimp only
  with_reducible repeat' first
    | (intro _) | assumption | apply tidy_ite | (simp only [tidy_mk]; apply tidy_back) | split | dsimp only

theorem tidy_countStop (q : List Instr) (t : Nat) (s : State) (h1 : Tidy q s) :
    Tidy q (countStop t s) := by
  unfold countStop
  try dsimp only
  with_reducible repeat' first
    | (intro _) | assumption | apply tidy_cyclesSince | apply tidy_countTask | (apply tidyPair_of; assumption)
    | (simp only [tidy_mk]; apply tidy_back) | split | dsimp only

theorem tidy_countRan (q : List Instr) (t : Nat) (s : State) (h1 : Tidy q s) :
    Tidy q (countRan t s) := by
  unfold countRan
  try dsimp only
  with_reducible repeat' first
    | (intro _) | assumption | apply tidy_modFlt | apply tidy_setTile | (simp only [tidy_mk]; apply tidy_back) | split
    | dsimp only

theorem tidy_undefineAll (q : List Instr) (a0 : List (Nat × Nat)) (s : State) (h1 : Tidy q s) :
    Tidy q (undefineAll a0 s) := by
  revert h1
  fun_induction undefineAll a0 s <;> intro h1
  all_goals (try dsimp only)
  with_reducible repeat' first
    | (intro _) | assumption | apply tidy_undefine | (simp only [tidy_mk]; apply tidy_back) | split | apply_assumption
    | dsimp only

theorem tidy_dropRobs (q : List Instr) (t : Nat) (s : State) (h1 : Tidy q s) :
    Tidy q (dropRobs t s) := by
  unfold dropRobs
  try dsimp only
  with_reducible repeat' first
    | (intro _) | assumption | apply tidy_undefineAll | apply tidy_ite | (simp only [tidy_mk]; apply tidy_back)
    | split | dsimp only

theorem tidy_initQueues (q : List Instr) (ts : List Nat) (t : Nat) (s : State) (h1 : Tidy q s) :
    Tidy q (initQueues ts t s) := by
  unfold initQueues
  try dsimp only
  with_reducible repeat' first
    | (intro _) | assumption | apply tidy_setTile | apply tidy_ite | (simp only [tidy_mk]; apply tidy_back) | split
    | dsimp only

theorem tidy_setMode (q : List Instr) (t : Nat) (m : TileMode) (s : State) (h1 : Tidy q s) :
    Tidy q (setMode t m s) := by
  unfold setMode
  try dsimp only
  with_reducible repeat' first
    | (intro _) | assumption | apply tidy_setTile | apply tidy_trace | apply tidy_ite
    | (simp only [tidy_mk]; apply tidy_back) | split | dsimp only

theorem tidy_stopTile (q : List Instr) (ts : List Nat) (t : Nat) (s0 : State) (h1 : Tidy q s0) :
    Tidy q (stopTile ts t s0) := by
  unfold stopTile
  try dsimp only
  with_reducible repeat' first
    | (intro _) | assumption | apply tidy_countStop | apply tidy_countRan | apply tidy_faultless | apply tidy_setTile
    | apply tidy_freeNext | apply tidy_dropRobs | apply tidy_undefineAll | apply tidy_initQueues
    | apply tidy_noteIssuer | apply tidy_someAdds | apply tidy_setMode | apply tidy_ite
    | (apply tidyPair_of; assumption) | (simp only [tidy_mk]; apply tidy_back) | split | dsimp only

theorem tidy_dropBreak (q : List Instr) (h : Nat) (s : State) (h1 : Tidy q s) :
    Tidy q (dropBreak h s) := by
  unfold dropBreak
  try dsimp only
  with_reducible repeat' first
    | (intro _) | assumption | apply tidy_odSet | apply tidy_ite | (simp only [tidy_mk]; apply tidy_back) | split
    | dsimp only

theorem tidy_enterFiller (q : List Instr) (t : Nat) (s : State) (h1 : Tidy q s) :
    Tidy q (enterFiller t s) := by
  unfold enterFiller
  try dsimp only
  with_reducible repeat' first
    | (intro _) | assumption | apply tidy_startFiller | apply tidy_ite | (simp only [tidy_mk]; apply tidy_back)
    | split | dsimp only

theorem tidy_freeGraph (q : List Instr) (h : Nat) (s : State) (h1 : Tidy q s) :
    Tidy q (freeGraph h s) := by
  unfold freeGraph
  try dsimp only
  with_reducible repeat' first
    | (intro _) | assumption | apply tidy_stopTile | apply tidy_setTile | apply tidy_dropBreak
    | apply tidy_enterFiller | apply tidy_foldl | (simp only [tidy_mk]; apply tidy_back) | split | dsimp only

theorem tidy_ageLog (q : List Instr) (r : Req) (sat : Bool) (src : Nat) (c : EvCmd) (s0 : State) (s : State) (h1 :
    Tidy q s0) (h2 : Tidy q s) :
    Tidy q (ageLog r sat src c s0 s) := by
  unfold ageLog
  try dsimp only
  with_reducible repeat' first
    | (intro _) | assumption | apply tidy_logEvent | apply tidy_ite | (simp only [tidy_mk]; apply tidy_back) | split
    | dsimp only

theorem tidy_traceDone (q : List Instr) (h : Nat) (code : Nat) (g : GraphSt) (r : RunG) (s : State) (h1 : Tidy q s) :
    Tidy q (traceDone h code g r s) := by
  unfold traceDone
  try dsimp only
  with_reducible repeat' first
    | (intro _) | assumption | apply tidy_trace | (simp only [tidy_mk]; apply tidy_back) | split | dsimp only

theorem tidy_stopGraph (q : List Instr) (h : Nat) (code : Nat) (s : State) (h1 : Tidy q s) :
    Tidy q (stopGraph h code s) := by
  unfold stopGraph
  try dsimp only
  with_reducible repeat' first
    | (intro _) | assumption | apply tidy_stopTile | apply tidy_traceDone | apply tidy_finish | apply tidy_modGraph
    | apply tidy_dropBreak | apply tidy_enterFiller | apply tidy_foldl | (simp only [tidy_mk]; apply tidy_back)
    | split | dsimp only

theorem tidy_raiseReq (q : List Instr) (t : Nat) (s : State) (h1 : Tidy q s) :
    Tidy q (raiseReq t s) := by
  unfold raiseReq
  try dsimp only
  with_reducible repeat' first
    | (intro _) | assumption | apply tidy_trace | apply tidy_setTile | apply tidy_ite
    | (simp only [tidy_mk]; apply tidy_back) | split | dsimp only

theorem tidy_setRot (q : List Instr) (d : Nat) (v : Nat) (s : State) (h1 : Tidy q s) :
    Tidy q (setRot d v s) := by
  unfold setRot
  try dsimp only
  with_reducible repeat' first
    | (intro _) | assumption | apply tidy_modFlt | apply tidy_ite | (simp only [tidy_mk]; apply tidy_back) | split
    | dsimp only

theorem tidy_turnRail (q : List Instr) (d : Nat) (r : Req) (s0 : State) (s : State) (h1 : Tidy q s0) (h2 : Tidy q s) :
    Tidy q (turnRail d r s0 s) := by
  unfold turnRail
  try dsimp only
  with_reducible repeat' first
    | (intro _) | assumption | apply tidy_setRot | apply tidy_ite | (simp only [tidy_mk]; apply tidy_back) | split
    | dsimp only

theorem tidy_flipTurn (q : List Instr) (d : Nat) (r : Req) (s0 : State) (s : State) (h1 : Tidy q s0) (h2 : Tidy q s) :
    Tidy q (flipTurn d r s0 s) := by
  unfold flipTurn
  try dsimp only
  with_reducible repeat' first
    | (intro _) | assumption | apply tidy_modFlt | apply tidy_ite | (simp only [tidy_mk]; apply tidy_back) | split
    | dsimp only

theorem tidy_setDeclined (q : List Instr) (d : Nat) (v : Bool) (s : State) (h1 : Tidy q s) :
    Tidy q (setDeclined d v s) := by
  unfold setDeclined
  try dsimp only
  with_reducible repeat' first
    | (intro _) | assumption | apply tidy_modFlt | apply tidy_ite | (simp only [tidy_mk]; apply tidy_back) | split
    | dsimp only

theorem tidy_stepEffect (q : List Instr) (x : DieStep) (s : State) (h1 : Tidy q s) :
    Tidy q (stepEffect x s) := by
  unfold stepEffect
  try dsimp only
  with_reducible repeat' first
    | (intro _) | assumption | apply tidy_showDuty | apply tidy_setDuty | apply tidy_setPace | apply tidy_showVolt
    | apply tidy_modFlt | apply tidy_showFreq | apply tidy_setPoint | apply tidy_ite
    | (simp only [tidy_mk]; apply tidy_back) | split | dsimp only

theorem tidy_queueStep (q : List Instr) (d : Nat) (kind : Nat) (up : Bool) (p : Nat) (s : State) (h1 : Tidy q s) :
    Tidy q (queueStep d kind up p s) := by
  unfold queueStep
  try dsimp only
  with_reducible repeat' first
    | (intro _) | assumption | apply tidy_stepEffect | apply tidy_modFlt | apply tidy_ite
    | (simp only [tidy_mk]; apply tidy_back) | split | dsimp only

theorem tidy_withdraw (q : List Instr) (d : Nat) (kind : Nat) (s : State) (h1 : Tidy q s) :
    Tidy q (withdraw d kind s) := by
  unfold withdraw
  try dsimp only
  with_reducible repeat' first
    | (intro _) | assumption | apply tidy_modFlt | apply tidy_noteIssuer | apply tidy_ite
    | (simp only [tidy_mk]; apply tidy_back) | split | dsimp only

theorem tidy_regionEmpty (q : List Instr) (d : Nat) (s : State) (h1 : Tidy q s) :
    Tidy q (regionEmpty d s) := by
  unfold regionEmpty
  try dsimp only
  with_reducible repeat' first
    | (intro _) | assumption | apply tidy_odSet | apply tidy_ite | (simp only [tidy_mk]; apply tidy_back) | split
    | dsimp only

theorem tidy_measChange (q : List Instr) (s : State) (h1 : Tidy q s) :
    Tidy q (measChange s) := by
  unfold measChange
  try dsimp only
  with_reducible repeat' first | (intro _) | assumption | (simp only [tidy_mk]; apply tidy_back) | split | dsimp only

theorem tidy_measUnload (q : List Instr) (ts : List Nat) (s : State) (h1 : Tidy q s) :
    Tidy q (measUnload ts s) := by
  unfold measUnload
  try dsimp only
  with_reducible repeat' first
    | (intro _) | assumption | apply tidy_regionEmpty | apply tidy_measChange | apply tidy_foldl
    | (simp only [tidy_mk]; apply tidy_back) | split | dsimp only

theorem tidy_unloadNow (q : List Instr) (h : Nat) (ring : Nat) (idx : Nat) (s : State) (h1 : Tidy q s) :
    Tidy q (unloadNow h ring idx s) := by
  unfold unloadNow
  try dsimp only
  with_reducible repeat' first
    | (intro _) | assumption | apply tidy_finish | apply tidy_measUnload | apply tidy_freeGraph
    | (simp only [tidy_mk]; apply tidy_back) | split | dsimp only

theorem tidy_afterRun (q : List Instr) (h : Nat) (s : State) (h1 : Tidy q s) :
    Tidy q (afterRun h s) := by
  unfold afterRun
  try dsimp only
  with_reducible repeat' first
    | (intro _) | assumption | apply tidy_unloadNow | (simp only [tidy_mk]; apply tidy_back) | split | dsimp only

theorem tidy_stepSat (q : List Instr) (s : State) (h1 : Tidy q s) :
    Tidy q (stepSat s) := by
  unfold stepSat
  try dsimp only
  with_reducible repeat' first
    | (intro _) | assumption | apply tidy_logEvent | apply tidy_modFlt | apply tidy_ite | apply tidy_foldl
    | (simp only [tidy_mk]; apply tidy_back) | split | dsimp only

theorem tidy_tileSat (q : List Instr) (t : Nat) (s : State) (h1 : Tidy q s) :
    Tidy q (tileSat t s) := by
  unfold tileSat
  try dsimp only
  with_reducible repeat' first
    | (intro _) | assumption | apply tidy_logEvent | apply tidy_setTile | apply tidy_ite
    | (simp only [tidy_mk]; apply tidy_back) | split | dsimp only

theorem tidy_giveReply (q : List Instr) (t : Nat) (a1 : Nat) (k : Token) (s : State) (h1 : Tidy q s) :
    TidyOpt q (giveReply t a1 k s) := by
  unfold giveReply
  try dsimp only
  with_reducible repeat' first
    | (intro _) | assumption | apply tidy_setTile | apply tidy_ite | apply tidyOpt_ite | apply tidyOpt_some
    | apply tidyOpt_none | (simp only [tidy_mk]; apply tidy_back) | split | dsimp only

theorem tidy_beginStep (q : List Instr) (d : Nat) (r : Req) (x : DieStep) (s : State) (h1 : Tidy q s) :
    Tidy q (beginStep d r x s) := by
  unfold beginStep
  try dsimp only
  with_reducible repeat' first
    | (intro _) | assumption | apply tidy_turnRail | apply tidy_flipTurn | apply tidy_modFlt | apply tidy_ageLog
    | apply tidy_ite | (simp only [tidy_mk]; apply tidy_back) | split | dsimp only

theorem tidy_grant (q : List Instr) (d : Nat) (t : Nat) (s : State) (h1 : Tidy q s) :
    Tidy q (grant d t s) := by
  unfold grant
  try dsimp only
  with_reducible repeat' first
    | (intro _) | assumption | apply tidy_noteIssuer | apply tidy_useSlot | apply tidy_addProj | apply tidy_setTile
    | (simp only [tidy_mk]; apply tidy_back) | split | dsimp only

theorem tidy_creditGrant (q : List Instr) (d : Nat) (s : State) (h1 : Tidy q s) :
    Tidy q (creditGrant d s) := by
  unfold creditGrant
  try dsimp only
  with_reducible repeat' first
    | (intro _) | assumption | apply tidy_modFlt | apply tidy_grant | apply tidy_flipTurn | apply tidy_turnRail
    | apply tidy_odAdd | apply tidy_trace | apply tidy_progress | apply tidy_ageLog | apply tidy_ite
    | (simp only [tidy_mk]; apply tidy_back) | split | dsimp only

theorem tidy_startToken (q : List Instr) (tag : Nat) (t : Nat) (a2 : Nat) (s : State) (h1 : Tidy q s) :
    TidyOpt q (startToken tag t a2 s) := by
  unfold startToken
  try dsimp only
  with_reducible repeat' first
    | (intro _) | assumption | apply tidy_raiseReq | apply tidy_progress | apply tidy_setTile | apply tidy_ite
    | apply tidyOpt_ite | apply tidyOpt_some | apply tidyOpt_none | (simp only [tidy_mk]; apply tidy_back) | split
    | dsimp only

theorem tidy_feedStarts (q : List Instr) (h : Nat) (tag : Nat) (a2 : List (Nat × Nat)) (s : State) (h1 : Tidy q s) :
    Tidy q (feedStarts h tag a2 s) := by
  revert h1
  fun_induction feedStarts h tag a2 s <;> intro h1
  all_goals (try dsimp only)
  with_reducible repeat' first
    | (intro _) | assumption | apply tidy_startToken | apply tidy_modGraph | (apply tidyOpt_of; assumption)
    | (simp only [tidy_mk]; apply tidy_back) | split | apply_assumption | dsimp only

theorem tidy_flushStarts (q : List Instr) (h : Nat) (s : State) (h1 : Tidy q s) :
    Tidy q (flushStarts h s) := by
  unfold flushStarts
  try dsimp only
  with_reducible repeat' first
    | (intro _) | assumption | apply tidy_feedStarts | apply tidy_modGraph | (simp only [tidy_mk]; apply tidy_back)
    | split | dsimp only

theorem tidy_creditReturn (q : List Instr) (t : Nat) (oq : Nat) (k : Nat) (s : State) (h1 : Tidy q s) :
    Tidy q (creditReturn t oq k s) := by
  unfold creditReturn
  try dsimp only
  with_reducible repeat' first
    | (intro _) | assumption | apply tidy_setTile | apply tidy_raiseReq | apply tidy_flushStarts | apply tidy_ite
    | (simp only [tidy_mk]; apply tidy_back) | split | dsimp only

theorem tidy_dieStepSlot (q : List Instr) (d : Nat) (s : State) (h1 : Tidy q s) :
    Tidy q (dieStepSlot d s) := by
  unfold dieStepSlot
  try dsimp only
  with_reducible repeat' first
    | (intro _) | assumption | apply tidy_beginStep | apply tidy_noteIssuer | apply tidy_useSlot | apply tidy_addProj
    | apply tidy_stepEffect | apply tidy_modFlt | apply tidy_ite | (simp only [tidy_mk]; apply tidy_back) | split
    | dsimp only

theorem tidy_regionLoaded (q : List Instr) (d : Nat) (s : State) (h1 : Tidy q s) :
    Tidy q (regionLoaded d s) := by
  unfold regionLoaded
  try dsimp only
  with_reducible repeat' first
    | (intro _) | assumption | apply tidy_odSet | apply tidy_ite | (simp only [tidy_mk]; apply tidy_back) | split
    | dsimp only

theorem tidy_voltStepBy (q : List Instr) (d : Nat) (gap : Nat → Nat) (s0 : State) (h1 : Tidy q s0) :
    Tidy q (voltStepBy d gap s0) := by
  unfold voltStepBy
  try dsimp only
  with_reducible repeat' first
    | (intro _) | assumption | apply tidy_withdraw | apply tidy_queueStep | apply tidy_ite
    | (simp only [tidy_mk]; apply tidy_back) | split | apply_assumption | dsimp only

theorem tidy_tileOff (q : List Instr) (t : Nat) (s : State) (h1 : Tidy q s) :
    Tidy q (tileOff t s) := by
  unfold tileOff
  try dsimp only
  with_reducible repeat' first
    | (intro _) | assumption | apply tidy_setMode | apply tidy_setTile | apply tidy_undefine | apply tidy_dropCells
    | (simp only [tidy_mk]; apply tidy_back) | split | dsimp only

theorem tidy_runDone (q : List Instr) (h : Nat) (g : GraphSt) (r : RunG) (s : State) (h1 : Tidy q s) :
    Tidy q (runDone h g r s) := by
  unfold runDone
  try dsimp only
  with_reducible repeat' first
    | (intro _) | assumption | apply tidy_traceDone | apply tidy_finish | apply tidy_afterRun | apply tidy_modGraph
    | (simp only [tidy_mk]; apply tidy_back) | split | dsimp only

theorem tidy_runReported (q : List Instr) (h : Nat) (s : State) (h1 : Tidy q s) :
    Tidy q (runReported h s) := by
  unfold runReported
  try dsimp only
  with_reducible repeat' first
    | (intro _) | assumption | apply tidy_runDone | apply tidy_ite | (simp only [tidy_mk]; apply tidy_back) | split
    | dsimp only

theorem tidy_dwellExpiry (q : List Instr) (t : Nat) (s : State) (h1 : Tidy q s) :
    Tidy q (dwellExpiry t s) := by
  unfold dwellExpiry
  try dsimp only
  with_reducible repeat' first
    | (intro _) | assumption | apply tidy_setTile | apply tidy_ite | (simp only [tidy_mk]; apply tidy_back) | split
    | dsimp only

theorem tidy_entryCommit (q : List Instr) (t : Nat) (s : State) (h1 : Tidy q s) :
    Tidy q (entryCommit t s) := by
  unfold entryCommit
  try dsimp only
  with_reducible repeat' first
    | (intro _) | assumption | apply tidy_setMode | apply tidy_setTile | apply tidy_ite
    | (simp only [tidy_mk]; apply tidy_back) | split | dsimp only

theorem tidy_reloadTile (q : List Instr) (t : Nat) (sec : List Byte) (s : State) (h1 : Tidy q s) :
    Tidy q (reloadTile t sec s) := by
  unfold reloadTile
  try dsimp only
  with_reducible repeat' first
    | (intro _) | assumption | apply tidy_dropCells | apply tidy_setTile | (simp only [tidy_mk]; apply tidy_back)
    | split | dsimp only

theorem tidy_reloadTiles (q : List Instr) (ts : List Nat) (secs : List (Nat × List Byte)) (s : State) (h1 : Tidy q s)
    :
    Tidy q (reloadTiles ts secs s) := by
  unfold reloadTiles
  try dsimp only
  with_reducible repeat' first
    | (intro _) | assumption | apply tidy_reloadTile | apply tidy_foldl | (simp only [tidy_mk]; apply tidy_back)
    | split | dsimp only

theorem tidy_exceptionStop (q : List Instr) (h : Nat) (s : State) (h1 : Tidy q s) :
    Tidy q (exceptionStop h s) := by
  unfold exceptionStop
  try dsimp only
  with_reducible repeat' first
    | (intro _) | assumption | apply tidy_afterRun | apply tidy_reloadTiles | apply tidy_undefineAll
    | apply tidy_stopGraph | (simp only [tidy_mk]; apply tidy_back) | split | dsimp only

theorem tidy_giveReplies (q : List Instr) (t : Nat) (a1 : List (Nat × Nat × Token)) (s : State) (h1 : Tidy q s) :
    Tidy q (giveReplies t a1 s) := by
  revert h1
  fun_induction giveReplies t a1 s <;> intro h1
  all_goals (try dsimp only)
  with_reducible repeat' first
    | (intro _) | assumption | apply tidy_giveReply | apply tidy_progress | apply tidy_ite
    | (apply tidyOpt_of; assumption) | (simp only [tidy_mk]; apply tidy_back) | split | apply_assumption | dsimp only

theorem tidy_flushReplies (q : List Instr) (t : Nat) (s : State) (h1 : Tidy q s) :
    Tidy q (flushReplies t s) := by
  unfold flushReplies
  try dsimp only
  with_reducible repeat' first
    | (intro _) | assumption | apply tidy_giveReplies | (simp only [tidy_mk]; apply tidy_back) | split | dsimp only

theorem tidy_measLoad (q : List Instr) (ts : List Nat) (s : State) (h1 : Tidy q s) :
    Tidy q (measLoad ts s) := by
  unfold measLoad
  try dsimp only
  with_reducible repeat' first
    | (intro _) | assumption | apply tidy_measChange | apply tidy_regionLoaded | apply tidy_foldl
    | (simp only [tidy_mk]; apply tidy_back) | split | dsimp only

theorem tidy_loadComplete (q : List Instr) (h : Nat) (s : State) (h1 : Tidy q s) :
    Tidy q (loadComplete h s) := by
  unfold loadComplete
  try dsimp only
  with_reducible repeat' first
    | (intro _) | assumption | apply tidy_reloadTile | apply tidy_initQueues | apply tidy_modGraph
    | apply tidy_measLoad | apply tidy_finish | apply tidy_foldl | (simp only [tidy_mk]; apply tidy_back) | split
    | dsimp only

theorem tidy_moveCredits (q : List Instr) (t : Nat) (a1 : Nat) (n : Nat) (give : Bool) (s : State) (h1 : Tidy q s) :
    Tidy q (moveCredits t a1 n give s) := by
  unfold moveCredits
  try dsimp only
  with_reducible repeat' first
    | (intro _) | assumption | apply tidy_setTile | apply tidy_ite | (simp only [tidy_mk]; apply tidy_back) | split
    | dsimp only

theorem tidy_sinkReport (q : List Instr) (t : Nat) (oq : Nat) (k : Nat) (s : State) (h1 : Tidy q s) :
    Tidy q (sinkReport t oq k s) := by
  unfold sinkReport
  try dsimp only
  with_reducible repeat' first
    | (intro _) | assumption | apply tidy_setTile | apply tidy_raiseReq | apply tidy_runReported | apply tidy_modRunG
    | apply tidy_ite | (simp only [tidy_mk]; apply tidy_back) | split | dsimp only

theorem tidy_voltStep (q : List Instr) (d : Nat) (s : State) (h1 : Tidy q s) :
    Tidy q (voltStep d s) := by
  unfold voltStep
  try dsimp only
  with_reducible repeat' first
    | (intro _) | assumption | apply tidy_voltStepBy | (simp only [tidy_mk]; apply tidy_back) | split | dsimp only

theorem tidy_takeTokens (q : List Instr) (t : Nat) (a1 : Nat) (n : Nat) (s : State) (h1 : Tidy q s) :
    Tidy q (takeTokens t a1 n s).2 := by
  unfold takeTokens
  try dsimp only
  with_reducible repeat' first
    | (intro _) | assumption | apply tidy_setTile | (apply tidyPair_of; assumption)
    | (simp only [tidy_mk]; apply tidy_back) | split | dsimp only

theorem tidy_takeAll (q : List Instr) (t : Nat) (a1 : List (Nat × Nat)) (s : State) (h1 : Tidy q s) :
    Tidy q (takeAll t a1 s).2 := by
  revert h1
  fun_induction takeAll t a1 s <;> intro h1
  all_goals (try dsimp only)
  with_reducible repeat' first
    | (intro _) | assumption | apply tidy_takeTokens | (apply tidyPair_of; assumption)
    | (simp only [tidy_mk]; apply tidy_back) | split | apply_assumption | dsimp only

theorem tidy_toRest (q : List Instr) (t : Nat) (s : State) (h1 : Tidy q s) :
    Tidy q (toRest t s) := by
  unfold toRest
  try dsimp only
  with_reducible repeat' first
    | (intro _) | assumption | apply tidy_setMode | apply tidy_voltStep | apply tidy_tileOff | apply tidy_ite
    | (simp only [tidy_mk]; apply tidy_back) | split | dsimp only

theorem tidy_takeBack (q : List Instr) (t : Nat) (s : State) (h1 : Tidy q s) :
    Tidy q (takeBack t s) := by
  unfold takeBack
  try dsimp only
  with_reducible repeat' first
    | (intro _) | assumption | apply tidy_trace | apply tidy_setDeclined | apply tidy_endFiller | apply tidy_setTile
    | apply tidy_modFlt | apply tidy_toRest | apply tidy_useSlot | apply tidy_addProj | apply tidy_ite
    | (simp only [tidy_mk]; apply tidy_back) | split | dsimp only

theorem tidy_taskEnd (q : List Instr) (t : Nat) (cyc : Nat) (p : Nat) (s0 : State) (h1 : Tidy q s0) :
    Tidy q (taskEnd t cyc p s0) := by
  unfold taskEnd
  try dsimp only
  with_reducible repeat' first
    | (intro _) | assumption | apply tidy_countRan | apply tidy_moveCredits | apply tidy_flushStarts
    | apply tidy_setTile | apply tidy_enterFiller | apply tidy_raiseReq | apply tidy_trace | apply tidy_countTask
    | apply tidy_ite | apply tidy_foldl | (simp only [tidy_mk]; apply tidy_back) | split | dsimp only

theorem tidy_taskFire (q : List Instr) (t : Nat) (s : State) (h1 : Tidy q s) :
    Tidy q (taskFire t s) := by
  unfold taskFire
  try dsimp only
  with_reducible repeat' first
    | (intro _) | assumption | apply tidy_ueTile | apply tidy_correctAll | apply tidy_takeAll | apply tidy_flushStarts
    | apply tidy_flushReplies | apply tidy_moveCredits | apply tidy_freeNext | apply tidy_endFiller
    | apply tidy_setTile | apply tidy_opcCount | apply tidy_odAdd | apply tidy_trace | apply tidy_settle
    | apply tidy_progress | apply tidy_ite | (apply tidyPair_of; assumption) | apply tidy_foldl
    | (simp only [tidy_mk]; apply tidy_back) | split | dsimp only

theorem tidy_tileWake (q : List Instr) (t : Nat) (s : State) (h1 : Tidy q s) :
    Tidy q (tileWake t s) := by
  unfold tileWake
  try dsimp only
  with_reducible repeat' first
    | (intro _) | assumption | apply tidy_setMode | apply tidy_setTile | apply tidy_enterFiller | apply tidy_settle
    | apply tidy_ite | (simp only [tidy_mk]; apply tidy_back) | split | dsimp only

theorem tidy_tokenArrival (q : List Instr) (t : Nat) (oq : Nat) (k : Nat) (s : State) (h1 : Tidy q s) :
    Tidy q (tokenArrival t oq k s) := by
  unfold tokenArrival
  try dsimp only
  with_reducible repeat' first
    | (intro _) | assumption | apply tidy_setTile | apply tidy_raiseReq | apply tidy_progress | apply tidy_ite
    | (simp only [tidy_mk]; apply tidy_back) | split | dsimp only

theorem tidy_emcyWhile (q : List Instr) (b : Bool) (code : Nat) (bit : Nat) (event : Nat) (s : State) (h1 : Tidy q s)
    :
    Tidy q (emcyWhile b code bit event s) := by
  unfold emcyWhile
  try dsimp only
  with_reducible repeat' first
    | (intro _) | assumption | apply tidy_emcyRaise | apply tidy_emcyClear | apply tidy_ite
    | (simp only [tidy_mk]; apply tidy_back) | split | dsimp only

theorem tidy_tell (q : List Instr) (path : Nat) (code : Nat) (s : State) (h1 : Tidy q s) :
    Tidy q (tell path code s) := by
  unfold tell
  try dsimp only
  with_reducible repeat' first
    | (intro _) | assumption | apply tidy_odSet | apply tidy_ite | (simp only [tidy_mk]; apply tidy_back) | split
    | dsimp only

theorem tidy_odTry (q : List Instr) (path : Nat) (k : Nat) (len : Nat) (v : Nat) (eff : State → Nat × State) (s :
    State) (hf : ∀ x0, Tidy q x0 → Tidy q (eff x0).2) (h1 : Tidy q s) :
    Tidy q (odTry path k len v eff s).2 := by
  unfold odTry
  try dsimp only
  with_reducible repeat' first
    | (intro _) | assumption | apply tidy_ite | apply tidy_snd_ite | (apply tidyPair_of; assumption)
    | (simp only [tidy_mk]; apply tidy_back) | split | apply_assumption | dsimp only

theorem tidy_wStore (q : List Instr) (k : Nat) (v : Nat) (s : State) (h1 : Tidy q s) :
    Tidy q (wStore k v s).2 := by
  unfold wStore
  try dsimp only
  with_reducible repeat' first
    | (intro _) | assumption | apply tidy_odSet | (apply tidyPair_of; assumption)
    | (simp only [tidy_mk]; apply tidy_back) | split | dsimp only

theorem tidy_namedBytes (q : List Instr) (path : Nat) (k : Nat) (bs : List Byte) (eff : State → Nat × State) (s :
    State) (hf : ∀ x0, Tidy q x0 → Tidy q (eff x0).2) (h1 : Tidy q s) :
    Tidy q (namedBytes path k bs eff s) := by
  unfold namedBytes
  try dsimp only
  with_reducible repeat' first
    | (intro _) | assumption | apply tidy_odTry | apply tidy_tell | apply tidy_ite | (apply tidyPair_of; assumption)
    | (simp only [tidy_mk]; apply tidy_back) | split | apply_assumption | dsimp only

theorem tidy_namedWrite (q : List Instr) (path : Nat) (k : Nat) (v : Nat) (eff : State → Nat × State) (s : State) (hf
    : ∀ x0, Tidy q x0 → Tidy q (eff x0).2) (h1 : Tidy q s) :
    Tidy q (namedWrite path k v eff s) := by
  unfold namedWrite
  try dsimp only
  with_reducible repeat' first
    | (intro _) | assumption | apply tidy_odTry | apply tidy_tell | apply tidy_ite | (apply tidyPair_of; assumption)
    | (simp only [tidy_mk]; apply tidy_back) | split | apply_assumption | dsimp only

theorem tidy_wRefuse (q : List Instr) (code : Nat) (s : State) (h1 : Tidy q s) :
    Tidy q (wRefuse code s).2 := by
  unfold wRefuse
  try dsimp only
  with_reducible repeat' first
    | (intro _) | assumption | (apply tidyPair_of; assumption) | (simp only [tidy_mk]; apply tidy_back) | split
    | dsimp only

theorem tidy_pcieCount (q : List Instr) (dir : Nat) (n : Nat) (s : State) (h1 : Tidy q s) :
    Tidy q (pcieCount dir n s) := by
  unfold pcieCount
  try dsimp only
  with_reducible repeat' first
    | (intro _) | assumption | apply tidy_odAdd | (simp only [tidy_mk]; apply tidy_back) | split | dsimp only

theorem tidy_unsupported (q : List Instr) (s : State) (h1 : Tidy q s) :
    Tidy q (unsupported s) := by
  unfold unsupported
  try dsimp only
  with_reducible repeat' first
    | (intro _) | assumption | apply tidy_emit | (simp only [tidy_mk]; apply tidy_back) | split | dsimp only

theorem tidy_bar2Read (q : List Instr) (off : Nat) (n : Nat) (s : State) (h1 : Tidy q s) :
    Tidy q (bar2Read off n s) := by
  unfold bar2Read
  try dsimp only
  with_reducible repeat' first
    | (intro _) | assumption | apply tidy_unsupported | apply tidy_touchChannel | apply tidy_correctIn
    | apply tidy_ueRecord | apply tidy_pcieCount | apply tidy_emit | apply tidy_ite
    | (simp only [tidy_mk]; apply tidy_back) | split | dsimp only

theorem tidy_bar2Write (q : List Instr) (off : Nat) (bs : List Byte) (s : State) (h1 : Tidy q s) :
    Tidy q (bar2Write off bs s) := by
  unfold bar2Write
  try dsimp only
  with_reducible repeat' first
    | (intro _) | assumption | apply tidy_unsupported | apply tidy_pcieCount | apply tidy_odAdd
    | apply tidy_touchChannel | apply tidy_correctPart | apply tidy_ueRecord | apply tidy_putBytes | apply tidy_ite
    | (simp only [tidy_mk]; apply tidy_back) | split | dsimp only

theorem tidy_wInjectArm (q : List Instr) (v : Nat) (s : State) (h1 : Tidy q s) :
    Tidy q (wInjectArm v s).2 := by
  unfold wInjectArm
  try dsimp only
  with_reducible repeat' first
    | (intro _) | assumption | apply tidy_ite | apply tidy_snd_ite | (apply tidyPair_of; assumption)
    | (simp only [tidy_mk]; apply tidy_back) | split | dsimp only

theorem tidy_mr4Poll (q : List Instr) (dev : Nat) (rate : Nat) (hot : Bool) (s : State) (h1 : Tidy q s) :
    Tidy q (mr4Poll dev rate hot s) := by
  unfold mr4Poll
  try dsimp only
  with_reducible repeat' first
    | (intro _) | assumption | apply tidy_odSet | apply tidy_odBit | apply tidy_logEvent | apply tidy_ite
    | (simp only [tidy_mk]; apply tidy_back) | split | dsimp only

theorem tidy_oscRun (q : List Instr) (c : Nat) (s : State) (h1 : Tidy q s) :
    Tidy q (oscRun c s) := by
  unfold oscRun
  try dsimp only
  with_reducible repeat' first
    | (intro _) | assumption | apply tidy_ite | (simp only [tidy_mk]; apply tidy_back) | split | dsimp only

theorem tidy_setChannel (q : List Instr) (c : Nat) (v : Nat) (s : State) (h1 : Tidy q s) :
    Tidy q (setChannel c v s) := by
  unfold setChannel
  try dsimp only
  with_reducible repeat' first | (intro _) | assumption | (simp only [tidy_mk]; apply tidy_back) | split | dsimp only

theorem tidy_powerDown (q : List Instr) (c : Nat) (s : State) (h1 : Tidy q s) :
    Tidy q (powerDown c s) := by
  unfold powerDown
  try dsimp only
  with_reducible repeat' first
    | (intro _) | assumption | apply tidy_setChannel | apply tidy_ite | (simp only [tidy_mk]; apply tidy_back) | split
    | dsimp only

theorem tidy_strike (q : List Instr) (ms : List EccMark) (s : State) (h1 : Tidy q s) :
    Tidy q (strike ms s) := by
  unfold strike
  try dsimp only
  with_reducible repeat' first | (intro _) | assumption | (simp only [tidy_mk]; apply tidy_back) | split | dsimp only

theorem tidy_scrubUe (q : List Instr) (m : EccMark) (s : State) (h1 : Tidy q s) :
    Tidy q (scrubUe m s) := by
  unfold scrubUe
  try dsimp only
  with_reducible repeat' first
    | (intro _) | assumption | apply tidy_odAdd | apply tidy_odSet | apply tidy_emcyEvent | apply tidy_logEvent
    | (simp only [tidy_mk]; apply tidy_back) | split | dsimp only

theorem tidy_scrubRead (q : List Instr) (level : Nat) (ms : List EccMark) (s0 : State) (h1 : Tidy q s0) :
    Tidy q (scrubRead level ms s0) := by
  unfold scrubRead
  try dsimp only
  with_reducible repeat' first
    | (intro _) | assumption | apply tidy_strike | apply tidy_touchChannel | apply tidy_scrubUe | apply tidy_correctIn
    | apply tidy_ite | apply tidy_foldl | (simp only [tidy_mk]; apply tidy_back) | split | dsimp only

theorem tidy_selfRefresh (q : List Instr) (c : Nat) (s : State) (h1 : Tidy q s) :
    Tidy q (selfRefresh c s) := by
  unfold selfRefresh
  try dsimp only
  with_reducible repeat' first
    | (intro _) | assumption | apply tidy_setChannel | apply tidy_ite | (simp only [tidy_mk]; apply tidy_back) | split
    | dsimp only

theorem tidy_zqLatch (q : List Instr) (c : Nat) (s : State) (h1 : Tidy q s) :
    Tidy q (zqLatch c s) := by
  unfold zqLatch
  try dsimp only
  with_reducible repeat' first
    | (intro _) | assumption | apply tidy_ite | (simp only [tidy_mk]; apply tidy_back) | split | dsimp only

theorem tidy_inject (q : List Instr) (inp : Nat) (p : Pkt) (s : State) (h1 : Tidy q s) :
    Tidy q (inject inp p s) := by
  unfold inject
  try dsimp only
  with_reducible repeat' first | (intro _) | assumption | (simp only [tidy_mk]; apply tidy_back) | split | dsimp only

theorem tidy_pktSat (q : List Instr) (half : Nat) (a1 : QPkt) (s : State) (h1 : Tidy q s) :
    Tidy q (pktSat half a1 s) := by
  unfold pktSat
  try dsimp only
  with_reducible repeat' first
    | (intro _) | assumption | apply tidy_logEvent | apply tidy_ite | (simp only [tidy_mk]; apply tidy_back) | split
    | dsimp only

theorem tidy_switchSat (q : List Instr) (s : State) (h1 : Tidy q s) :
    Tidy q (switchSat s) := by
  unfold switchSat
  try dsimp only
  with_reducible repeat' first
    | (intro _) | assumption | apply tidy_pktSat | apply tidy_foldl | (simp only [tidy_mk]; apply tidy_back) | split
    | dsimp only

theorem tidy_setPort (q : List Instr) (p : Nat) (x : PortSt) (s : State) (h1 : Tidy q s) :
    Tidy q (setPort p x s) := by
  unfold setPort
  try dsimp only
  with_reducible repeat' first | (intro _) | assumption | (simp only [tidy_mk]; apply tidy_back) | split | dsimp only

theorem tidy_notice (q : List Instr) (code : Nat) (p : Pkt) (s : State) (h1 : Tidy q s) :
    Tidy q (notice code p s) := by
  unfold notice
  try dsimp only
  with_reducible repeat' first
    | (intro _) | assumption | apply tidy_inject | apply tidy_ite | (simp only [tidy_mk]; apply tidy_back) | split
    | dsimp only

theorem tidy_freeSlots (q : List Instr) (a0 : QPkt) (s : State) (h1 : Tidy q s) :
    Tidy q (freeSlots a0 s) := by
  unfold freeSlots
  try dsimp only
  with_reducible repeat' first
    | (intro _) | assumption | apply tidy_setPort | (simp only [tidy_mk]; apply tidy_back) | split | dsimp only

theorem tidy_dropUnreachable (q : List Instr) (a0 : List QPkt) (s : State) (h1 : Tidy q s) :
    Tidy q (dropUnreachable a0 s) := by
  induction a0 generalizing s with
  | nil => exact h1
  | cons x r ih =>
    unfold dropUnreachable
    apply ih
    dsimp only
    with_reducible repeat' first
      | (intro _) | assumption | apply tidy_notice | apply tidy_freeSlots | apply tidy_odAdd
      | (simp only [tidy_mk]; apply tidy_back) | split | apply_assumption | dsimp only

theorem tidy_countSent (q : List Instr) (out : Nat) (a1 : QPkt) (s : State) (h1 : Tidy q s) :
    Tidy q (countSent out a1 s) := by
  unfold countSent
  try dsimp only
  with_reducible repeat' first
    | (intro _) | assumption | apply tidy_odAdd | apply tidy_ite | (simp only [tidy_mk]; apply tidy_back) | split
    | dsimp only

theorem tidy_leaveBy (q : List Instr) (out : Nat) (c : Cand) (s : State) (h1 : Tidy q s) :
    Tidy q (leaveBy out c s) := by
  unfold leaveBy
  try dsimp only
  with_reducible repeat' first
    | (intro _) | assumption | apply tidy_countSent | apply tidy_freeSlots | apply tidy_setPort | apply tidy_ite
    | (simp only [tidy_mk]; apply tidy_back) | split | dsimp only

theorem tidy_readOut (q : List Instr) (out : Nat) (c : Cand) (s : State) (h1 : Tidy q s) :
    Tidy q (readOut out c s) := by
  unfold readOut
  try dsimp only
  with_reducible repeat' first
    | (intro _) | assumption | apply tidy_notice | apply tidy_freeSlots | apply tidy_ueRecord | apply tidy_leaveBy
    | apply tidy_correctIn | (simp only [tidy_mk]; apply tidy_back) | split | dsimp only

theorem tidy_arbitrate (q : List Instr) (out : Nat) (s : State) (h1 : Tidy q s) :
    Tidy q (arbitrate out s) := by
  unfold arbitrate
  try dsimp only
  with_reducible repeat' first
    | (intro _) | assumption | apply tidy_dropUnreachable | apply tidy_readOut | apply tidy_pktSat | apply tidy_ite
    | (simp only [tidy_mk]; apply tidy_back) | split | dsimp only

theorem tidy_takeEjected (q : List Instr) (p : Pkt → Bool) (s : State) (h1 : Tidy q s) :
    TidyAns q (takeEjected p s) := by
  unfold takeEjected
  try dsimp only
  with_reducible repeat' first
    | (intro _) | assumption | apply tidy_freeSlots | apply tidyAns_some | apply tidyAns_none
    | (simp only [tidy_mk]; apply tidy_back) | split | apply_assumption | dsimp only

theorem tidy_packetArrival (q : List Instr) (port : Nat) (s : State) (h1 : Tidy q s) :
    Tidy q (packetArrival port s) := by
  unfold packetArrival
  try dsimp only
  with_reducible repeat' first
    | (intro _) | assumption | apply tidy_setPort | apply tidy_logEvent | apply tidy_notice | apply tidy_freeSlots
    | apply tidy_odAdd | apply tidy_ite | (simp only [tidy_mk]; apply tidy_back) | split | dsimp only

theorem tidy_alignPeer (q : List Instr) (p : Nat) (i : IdentIn) (s : State) (h1 : Tidy q s) :
    Tidy q (alignPeer p i s) := by
  unfold alignPeer
  try dsimp only
  with_reducible repeat' first
    | (intro _) | assumption | apply tidy_odSet | apply tidy_ite | (simp only [tidy_mk]; apply tidy_back) | split
    | dsimp only

theorem tidy_laserUpdate (q : List Instr) (s : State) (h1 : Tidy q s) :
    Tidy q (laserUpdate s) := by
  unfold laserUpdate
  try dsimp only
  with_reducible repeat' first
    | (intro _) | assumption | apply tidy_odSet | apply tidy_ite | (simp only [tidy_mk]; apply tidy_back) | split
    | dsimp only

theorem tidy_coarseUpdate (q : List Instr) (s : State) (h1 : Tidy q s) :
    Tidy q (coarseUpdate s) := by
  unfold coarseUpdate
  try dsimp only
  with_reducible repeat' first
    | (intro _) | assumption | apply tidy_odBit | (simp only [tidy_mk]; apply tidy_back) | split | dsimp only

theorem tidy_pSet (q : List Instr) (base : Nat) (p : Nat) (v : Nat) (s : State) (h1 : Tidy q s) :
    Tidy q (pSet base p v s) := by
  unfold pSet
  try dsimp only
  with_reducible repeat' first
    | (intro _) | assumption | apply tidy_odSet | (simp only [tidy_mk]; apply tidy_back) | split | dsimp only

theorem tidy_dropKeyOps (q : List Instr) (p : Nat) (s : State) (h1 : Tidy q s) :
    Tidy q (dropKeyOps p s) := by
  unfold dropKeyOps
  try dsimp only
  with_reducible repeat' first | (intro _) | assumption | (simp only [tidy_mk]; apply tidy_back) | split | dsimp only

theorem tidy_setPState (q : List Instr) (p : Nat) (v : Nat) (s : State) (h1 : Tidy q s) :
    Tidy q (setPState p v s) := by
  unfold setPState
  try dsimp only
  with_reducible repeat' first
    | (intro _) | assumption | apply tidy_coarseUpdate | apply tidy_pSet | apply tidy_dropKeyOps | apply tidy_ite
    | (simp only [tidy_mk]; apply tidy_back) | split | dsimp only

theorem tidy_forgetPeer (q : List Instr) (p : Nat) (s : State) (h1 : Tidy q s) :
    Tidy q (forgetPeer p s) := by
  unfold forgetPeer
  try dsimp only
  with_reducible repeat' first
    | (intro _) | assumption | apply tidy_pSet | (simp only [tidy_mk]; apply tidy_back) | split | dsimp only

theorem tidy_clearLink (q : List Instr) (p : Nat) (s : State) (h1 : Tidy q s) :
    Tidy q (clearLink p s) := by
  unfold clearLink
  try dsimp only
  with_reducible repeat' first
    | (intro _) | assumption | apply tidy_pSet | (simp only [tidy_mk]; apply tidy_back) | split | dsimp only

theorem tidy_toDisabled (q : List Instr) (p : Nat) (s : State) (h1 : Tidy q s) :
    Tidy q (toDisabled p s) := by
  unfold toDisabled
  try dsimp only
  with_reducible repeat' first
    | (intro _) | assumption | apply tidy_setPort | apply tidy_setPState | apply tidy_forgetPeer
    | apply tidy_clearLink | (simp only [tidy_mk]; apply tidy_back) | split | dsimp only

theorem tidy_modPort (q : List Instr) (p : Nat) (f : PortSt → PortSt) (s : State) (h1 : Tidy q s) :
    Tidy q (modPort p f s) := by
  unfold modPort
  try dsimp only
  with_reducible repeat' first
    | (intro _) | assumption | apply tidy_setPort | (simp only [tidy_mk]; apply tidy_back) | split | apply_assumption
    | dsimp only

theorem tidy_secFill (q : List Instr) (ops : List SecOp) (wait : List SecOp) (s : State) (h1 : Tidy q s) :
    Tidy q (secFill ops wait s) := by
  unfold secFill
  try dsimp only
  with_reducible repeat' first | (intro _) | assumption | (simp only [tidy_mk]; apply tidy_back) | split | dsimp only

theorem tidy_secAdd (q : List Instr) (o : SecOp) (s : State) (h1 : Tidy q s) :
    Tidy q (secAdd o s) := by
  unfold secAdd
  try dsimp only
  with_reducible repeat' first
    | (intro _) | assumption | apply tidy_secFill | (simp only [tidy_mk]; apply tidy_back) | split | dsimp only

theorem tidy_sendOffer (q : List Instr) (p : Nat) (phase : Nat) (nonce : Nat) (effective : Nat) (s : State) (h1 : Tidy
    q s) :
    Tidy q (sendOffer p phase nonce effective s) := by
  unfold sendOffer
  try dsimp only
  with_reducible repeat' first
    | (intro _) | assumption | apply tidy_secAdd | (simp only [tidy_mk]; apply tidy_back) | split | dsimp only

theorem tidy_keyingOffer (q : List Instr) (p : Nat) (s : State) (h1 : Tidy q s) :
    Tidy q (keyingOffer p s) := by
  unfold keyingOffer
  try dsimp only
  with_reducible repeat' first
    | (intro _) | assumption | apply tidy_modPort | apply tidy_sendOffer | (simp only [tidy_mk]; apply tidy_back)
    | split | dsimp only

theorem tidy_certDone (q : List Instr) (p : Nat) (nonce : Nat) (ok : Bool) (s : State) (h1 : Tidy q s) :
    Tidy q (certDone p nonce ok s) := by
  unfold certDone
  try dsimp only
  with_reducible repeat' first
    | (intro _) | assumption | apply tidy_keyingOffer | apply tidy_modPort | apply tidy_ite
    | (simp only [tidy_mk]; apply tidy_back) | split | dsimp only

theorem tidy_certIn (q : List Instr) (p : Nat) (mode : Nat) (sec : Nat) (nonce : Nat) (len : Nat) (chainOk : Bool) (s
    : State) (h1 : Tidy q s) :
    Tidy q (certIn p mode sec nonce len chainOk s) := by
  unfold certIn
  try dsimp only
  with_reducible repeat' first
    | (intro _) | assumption | apply tidy_odSet | apply tidy_certDone | apply tidy_secAdd | apply tidy_ite
    | (simp only [tidy_mk]; apply tidy_back) | split | dsimp only

theorem tidy_requeue (q : List Instr) (p : Nat) (s : State) (h1 : Tidy q s) :
    Tidy q (requeue p s) := by
  unfold requeue
  try dsimp only
  with_reducible repeat' first
    | (intro _) | assumption | apply tidy_setPort | apply tidy_foldl | (simp only [tidy_mk]; apply tidy_back) | split
    | dsimp only

theorem tidy_startRetrain (q : List Instr) (p : Nat) (fec : Nat) (widen : Bool) (s : State) (h1 : Tidy q s) :
    Tidy q (startRetrain p fec widen s) := by
  unfold startRetrain
  try dsimp only
  with_reducible repeat' first
    | (intro _) | assumption | apply tidy_modPort | apply tidy_requeue | apply tidy_setPState | apply tidy_ite
    | (simp only [tidy_mk]; apply tidy_back) | split | dsimp only

theorem tidy_checkRate (q : List Instr) (p : Nat) (s : State) (h1 : Tidy q s) :
    Tidy q (checkRate p s) := by
  unfold checkRate
  try dsimp only
  with_reducible repeat' first
    | (intro _) | assumption | apply tidy_startRetrain | apply tidy_setPort | apply tidy_ite
    | (simp only [tidy_mk]; apply tidy_back) | split | dsimp only

theorem tidy_laneObjs (q : List Instr) (base : Nat) (p : Nat) (l : List Int) (s : State) (h1 : Tidy q s) :
    Tidy q (laneObjs base p l s) := by
  unfold laneObjs
  try dsimp only
  with_reducible repeat' first
    | (intro _) | assumption | apply tidy_odSet | apply tidy_foldl | (simp only [tidy_mk]; apply tidy_back) | split
    | dsimp only

theorem tidy_linkNote (q : List Instr) (p : Nat) (kind : Nat) (bs : List Byte) (s : State) (h1 : Tidy q s) :
    Tidy q (linkNote p kind bs s) := by
  unfold linkNote
  try dsimp only
  with_reducible repeat' first
    | (intro _) | assumption | apply tidy_emit | (simp only [tidy_mk]; apply tidy_back) | split | dsimp only

theorem tidy_connHealth (q : List Instr) (p : Nat) (i : LaneIn) (s : State) (h1 : Tidy q s) :
    Tidy q (connHealth p i s) := by
  unfold connHealth
  try dsimp only
  with_reducible repeat' first
    | (intro _) | assumption | apply tidy_laneObjs | apply tidy_odSet | apply tidy_linkNote | apply tidy_pSet
    | apply tidy_ite | (simp only [tidy_mk]; apply tidy_back) | split | dsimp only

theorem tidy_pAdd (q : List Instr) (base : Nat) (p : Nat) (n : Nat) (s : State) (h1 : Tidy q s) :
    Tidy q (pAdd base p n s) := by
  unfold pAdd
  try dsimp only
  with_reducible repeat' first
    | (intro _) | assumption | apply tidy_odAdd | (simp only [tidy_mk]; apply tidy_back) | split | dsimp only

theorem tidy_countFec (q : List Instr) (p : Nat) (f : FlitIn) (s : State) (h1 : Tidy q s) :
    Tidy q (countFec p f s) := by
  unfold countFec
  try dsimp only
  with_reducible repeat' first
    | (intro _) | assumption | apply tidy_modPort | apply tidy_pAdd | (simp only [tidy_mk]; apply tidy_back) | split
    | dsimp only

theorem tidy_countFlit (q : List Instr) (p : Nat) (re : Nat) (s : State) (h1 : Tidy q s) :
    Tidy q (countFlit p re s) := by
  unfold countFlit
  try dsimp only
  with_reducible repeat' first
    | (intro _) | assumption | apply tidy_modPort | apply tidy_ite | (simp only [tidy_mk]; apply tidy_back) | split
    | dsimp only

theorem tidy_toDark (q : List Instr) (p : Nat) (s : State) (h1 : Tidy q s) :
    Tidy q (toDark p s) := by
  unfold toDark
  try dsimp only
  with_reducible repeat' first
    | (intro _) | assumption | apply tidy_setPort | apply tidy_setPState | apply tidy_forgetPeer
    | apply tidy_clearLink | (simp only [tidy_mk]; apply tidy_back) | split | dsimp only

theorem tidy_raisePort (q : List Instr) (p : Nat) (s : State) (h1 : Tidy q s) :
    Tidy q (raisePort p s) := by
  unfold raisePort
  try dsimp only
  with_reducible repeat' first
    | (intro _) | assumption | apply tidy_toDark | apply tidy_logSimple | apply tidy_ite
    | (simp only [tidy_mk]; apply tidy_back) | split | dsimp only

theorem tidy_takeWhole (q : List Instr) (p : Nat) (a1 : Nat) (s : State) (h1 : Tidy q s) :
    Tidy q (takeWhole p a1 s) := by
  revert h1
  fun_induction takeWhole p a1 s <;> intro h1
  all_goals (try dsimp only)
  with_reducible repeat' first
    | (intro _) | assumption | apply tidy_packetArrival | (simp only [tidy_mk]; apply tidy_back) | split
    | apply_assumption | dsimp only

theorem tidy_drainCheck (q : List Instr) (p : Nat) (s : State) (h1 : Tidy q s) :
    Tidy q (drainCheck p s) := by
  unfold drainCheck
  try dsimp only
  with_reducible repeat' first
    | (intro _) | assumption | apply tidy_raisePort | apply tidy_toDisabled | apply tidy_takeWhole
    | apply tidy_linkNote | apply tidy_ite | (simp only [tidy_mk]; apply tidy_back) | split | dsimp only

theorem tidy_startDrain (q : List Instr) (p : Nat) (s : State) (h1 : Tidy q s) :
    Tidy q (startDrain p s) := by
  unfold startDrain
  try dsimp only
  with_reducible repeat' first
    | (intro _) | assumption | apply tidy_drainCheck | apply tidy_modPort | apply tidy_requeue
    | (simp only [tidy_mk]; apply tidy_back) | split | dsimp only

theorem tidy_portLoss (q : List Instr) (p : Nat) (auth : Bool) (s : State) (h1 : Tidy q s) :
    Tidy q (portLoss p auth s) := by
  unfold portLoss
  try dsimp only
  with_reducible repeat' first
    | (intro _) | assumption | apply tidy_requeue | apply tidy_takeWhole | apply tidy_pAdd | apply tidy_clearLink
    | apply tidy_setPState | apply tidy_setPort | apply tidy_notice | apply tidy_linkNote | apply tidy_logSimple
    | apply tidy_emcyEvent | apply tidy_ite | apply tidy_foldl | (simp only [tidy_mk]; apply tidy_back) | split
    | dsimp only

theorem tidy_portOff (q : List Instr) (p : Nat) (s : State) (h1 : Tidy q s) :
    Tidy q (portOff p s) := by
  unfold portOff
  try dsimp only
  with_reducible repeat' first
    | (intro _) | assumption | apply tidy_toDisabled | apply tidy_portLoss | apply tidy_ite
    | (simp only [tidy_mk]; apply tidy_back) | split | dsimp only

theorem tidy_wEnable (q : List Instr) (p : Nat) (v : Nat) (s : State) (h1 : Tidy q s) :
    Tidy q (wEnable p v s).2 := by
  unfold wEnable
  try dsimp only
  with_reducible repeat' first
    | (intro _) | assumption | apply tidy_laserUpdate | apply tidy_pSet | apply tidy_startDrain | apply tidy_portOff
    | apply tidy_raisePort | apply tidy_ite | apply tidy_snd_ite | (apply tidyPair_of; assumption)
    | (simp only [tidy_mk]; apply tidy_back) | split | dsimp only

theorem tidy_wFecMode (q : List Instr) (p : Nat) (v : Nat) (s : State) (h1 : Tidy q s) :
    Tidy q (wFecMode p v s).2 := by
  unfold wFecMode
  try dsimp only
  with_reducible repeat' first
    | (intro _) | assumption | apply tidy_startRetrain | apply tidy_pSet | apply tidy_ite | apply tidy_snd_ite
    | (apply tidyPair_of; assumption) | (simp only [tidy_mk]; apply tidy_back) | split | dsimp only

theorem tidy_sendLocate (q : List Instr) (p : Nat) (s : State) (h1 : Tidy q s) :
    Tidy q (sendLocate p s) := by
  unfold sendLocate
  try dsimp only
  with_reducible repeat' first
    | (intro _) | assumption | apply tidy_linkNote | apply tidy_ite | (simp only [tidy_mk]; apply tidy_back) | split
    | dsimp only

theorem tidy_wRetrainNow (q : List Instr) (p : Nat) (v : Nat) (s : State) (h1 : Tidy q s) :
    Tidy q (wRetrainNow p v s).2 := by
  unfold wRetrainNow
  try dsimp only
  with_reducible repeat' first
    | (intro _) | assumption | apply tidy_startRetrain | apply tidy_modPort | apply tidy_ite | apply tidy_snd_ite
    | (apply tidyPair_of; assumption) | (simp only [tidy_mk]; apply tidy_back) | split | dsimp only

theorem tidy_raisePorts (q : List Instr) (s : State) (h1 : Tidy q s) :
    Tidy q (raisePorts s) := by
  unfold raisePorts
  try dsimp only
  with_reducible repeat' first
    | (intro _) | assumption | apply tidy_raisePort | apply tidy_ite | apply tidy_foldl
    | (simp only [tidy_mk]; apply tidy_back) | split | dsimp only

theorem tidy_wNodeId (q : List Instr) (v : Nat) (s : State) (h1 : Tidy q s) :
    Tidy q (wNodeId v s).2 := by
  unfold wNodeId
  try dsimp only
  with_reducible repeat' first
    | (intro _) | assumption | apply tidy_raisePorts | apply tidy_odSet | apply tidy_ite | apply tidy_snd_ite
    | (apply tidyPair_of; assumption) | (simp only [tidy_mk]; apply tidy_back) | split | dsimp only

theorem tidy_wMachineId (q : List Instr) (v : Nat) (s : State) (h1 : Tidy q s) :
    Tidy q (wMachineId v s).2 := by
  unfold wMachineId
  try dsimp only
  with_reducible repeat' first
    | (intro _) | assumption | apply tidy_odSet | apply tidy_ite | apply tidy_snd_ite
    | (apply tidyPair_of; assumption) | (simp only [tidy_mk]; apply tidy_back) | split | dsimp only

theorem tidy_wFabricDims (q : List Instr) (v : Nat) (s : State) (h1 : Tidy q s) :
    Tidy q (wFabricDims v s).2 := by
  unfold wFabricDims
  try dsimp only
  with_reducible repeat' first
    | (intro _) | assumption | apply tidy_raisePorts | apply tidy_laserUpdate | apply tidy_odSet | apply tidy_ite
    | apply tidy_snd_ite | (apply tidyPair_of; assumption) | (simp only [tidy_mk]; apply tidy_back) | split
    | dsimp only

theorem tidy_sendLink (q : List Instr) (p : Nat) (typ : Nat) (body : List Byte) (s : State) (h1 : Tidy q s) :
    Tidy q (sendLink p typ body s) := by
  unfold sendLink
  try dsimp only
  with_reducible repeat' first
    | (intro _) | assumption | apply tidy_modPort | (simp only [tidy_mk]; apply tidy_back) | split | dsimp only

theorem tidy_sendRequest (q : List Instr) (p : Nat) (s : State) (h1 : Tidy q s) :
    Tidy q (sendRequest p s) := by
  unfold sendRequest
  try dsimp only
  with_reducible repeat' first
    | (intro _) | assumption | apply tidy_freeNext | apply tidy_sendLink | apply tidy_modPort
    | (apply tidyPair_of; assumption) | (simp only [tidy_mk]; apply tidy_back) | split | dsimp only

theorem tidy_forceKeys (q : List Instr) (s : State) (h1 : Tidy q s) :
    Tidy q (forceKeys s) := by
  unfold forceKeys
  try dsimp only
  with_reducible repeat' first
    | (intro _) | assumption | apply tidy_modPort | apply tidy_sendRequest | apply tidy_ite | apply tidy_foldl
    | (simp only [tidy_mk]; apply tidy_back) | split | dsimp only

theorem tidy_wRekeyAll (q : List Instr) (v : Nat) (s : State) (h1 : Tidy q s) :
    Tidy q (wRekeyAll v s).2 := by
  unfold wRekeyAll
  try dsimp only
  with_reducible repeat' first
    | (intro _) | assumption | apply tidy_forceKeys | apply tidy_ite | apply tidy_snd_ite
    | (apply tidyPair_of; assumption) | (simp only [tidy_mk]; apply tidy_back) | split | dsimp only

theorem tidy_wLaserRestart (q : List Instr) (v : Nat) (s : State) (h1 : Tidy q s) :
    Tidy q (wLaserRestart v s).2 := by
  unfold wLaserRestart
  try dsimp only
  with_reducible repeat' first
    | (intro _) | assumption | apply tidy_laserUpdate | apply tidy_ite | apply tidy_snd_ite
    | (apply tidyPair_of; assumption) | (simp only [tidy_mk]; apply tidy_back) | split | dsimp only

theorem tidy_drainTimeout (q : List Instr) (p : Nat) (s : State) (h1 : Tidy q s) :
    Tidy q (drainTimeout p s) := by
  unfold drainTimeout
  try dsimp only
  with_reducible repeat' first
    | (intro _) | assumption | apply tidy_portLoss | apply tidy_ite | (simp only [tidy_mk]; apply tidy_back) | split
    | dsimp only

theorem tidy_offerNow (q : List Instr) (p : Nat) (phase : Nat) (nonce : Nat) (effective : Nat) (s : State) (h1 : Tidy
    q s) :
    Tidy q (offerNow p phase nonce effective s) := by
  unfold offerNow
  try dsimp only
  with_reducible repeat' first
    | (intro _) | assumption | apply tidy_freeNext | apply tidy_sendLink | apply tidy_modPort
    | (apply tidyPair_of; assumption) | (simp only [tidy_mk]; apply tidy_back) | split | dsimp only

theorem tidy_reachUp (q : List Instr) (p : Nat) (s : State) (h1 : Tidy q s) :
    Tidy q (reachUp p s) := by
  unfold reachUp
  try dsimp only
  with_reducible repeat' first
    | (intro _) | assumption | apply tidy_sendLocate | apply tidy_setPort | apply tidy_pSet | apply tidy_setPState
    | apply tidy_ite | (simp only [tidy_mk]; apply tidy_back) | split | dsimp only

theorem tidy_installKey (q : List Instr) (p : Nat) (o : OfferIn) (s : State) (h1 : Tidy q s) :
    Tidy q (installKey p o s) := by
  unfold installKey
  try dsimp only
  with_reducible repeat' first
    | (intro _) | assumption | apply tidy_reachUp | apply tidy_setPort | apply tidy_sendLink | apply tidy_ite
    | (simp only [tidy_mk]; apply tidy_back) | split | dsimp only

theorem tidy_failedTimeout (q : List Instr) (p : Nat) (s : State) (h1 : Tidy q s) :
    Tidy q (failedTimeout p s) := by
  unfold failedTimeout
  try dsimp only
  with_reducible repeat' first
    | (intro _) | assumption | apply tidy_toDark | apply tidy_toDisabled | apply tidy_ite
    | (simp only [tidy_mk]; apply tidy_back) | split | dsimp only

theorem tidy_feedLow (q : List Instr) (e : Nat) (power : Int) (s : State) (h1 : Tidy q s) :
    Tidy q (feedLow e power s) := by
  unfold feedLow
  try dsimp only
  with_reducible repeat' first
    | (intro _) | assumption | apply tidy_odSet | apply tidy_logSimple | apply tidy_ite
    | (simp only [tidy_mk]; apply tidy_back) | split | dsimp only

theorem tidy_feedOpen (q : List Instr) (e : Nat) (s : State) (h1 : Tidy q s) :
    Tidy q (feedOpen e s) := by
  unfold feedOpen
  try dsimp only
  with_reducible repeat' first
    | (intro _) | assumption | apply tidy_logSimple | apply tidy_laserUpdate | apply tidy_ite
    | (simp only [tidy_mk]; apply tidy_back) | split | dsimp only

theorem tidy_flitAccept (q : List Instr) (p : Nat) (f : FlitIn) (s : State) (h1 : Tidy q s) :
    Tidy q (flitAccept p f s) := by
  unfold flitAccept
  try dsimp only
  with_reducible repeat' first
    | (intro _) | assumption | apply tidy_drainCheck | apply tidy_setPort | apply tidy_ite
    | (simp only [tidy_mk]; apply tidy_back) | split | dsimp only

theorem tidy_flitDrop (q : List Instr) (p : Nat) (f : FlitIn) (s : State) (h1 : Tidy q s) :
    Tidy q (flitDrop p f s) := by
  unfold flitDrop
  try dsimp only
  with_reducible repeat' first
    | (intro _) | assumption | apply tidy_pAdd | apply tidy_modPort | apply tidy_portLoss | apply tidy_ite
    | (simp only [tidy_mk]; apply tidy_back) | split | dsimp only

theorem tidy_flitReceive (q : List Instr) (p : Nat) (f : FlitIn) (s : State) (h1 : Tidy q s) :
    Tidy q (flitReceive p f s) := by
  unfold flitReceive
  try dsimp only
  with_reducible repeat' first
    | (intro _) | assumption | apply tidy_countFec | apply tidy_flitAccept | apply tidy_flitDrop | apply tidy_ite
    | (simp only [tidy_mk]; apply tidy_back) | split | dsimp only

theorem tidy_flitTransmit (q : List Instr) (p : Nat) (crVc : Nat) (crCount : Nat) (s : State) (h1 : Tidy q s) :
    Tidy q (flitTransmit p crVc crCount s) := by
  unfold flitTransmit
  try dsimp only
  with_reducible repeat' first
    | (intro _) | assumption | apply tidy_setPort | apply tidy_checkRate | apply tidy_countFlit | apply tidy_pAdd
    | apply tidy_emit | apply tidy_ite | (simp only [tidy_mk]; apply tidy_back) | split | dsimp only

theorem tidy_goingDown (q : List Instr) (p : Nat) (s : State) (h1 : Tidy q s) :
    Tidy q (goingDown p s) := by
  unfold goingDown
  try dsimp only
  with_reducible repeat' first
    | (intro _) | assumption | apply tidy_modPort | apply tidy_toDark | apply tidy_requeue | apply tidy_takeWhole
    | apply tidy_ite | (simp only [tidy_mk]; apply tidy_back) | split | dsimp only

theorem tidy_judgeFec (q : List Instr) (p : Nat) (len : Nat) (s : State) (h1 : Tidy q s) :
    Tidy q (judgeFec p len s) := by
  unfold judgeFec
  try dsimp only
  with_reducible repeat' first
    | (intro _) | assumption | apply tidy_logSimple | apply tidy_pSet | apply tidy_ite
    | (simp only [tidy_mk]; apply tidy_back) | split | dsimp only

theorem tidy_identChecks (q : List Instr) (p : Nat) (i : IdentIn) (s : State) (h1 : Tidy q s) :
    Tidy q (identChecks p i s).2 := by
  unfold identChecks
  try dsimp only
  with_reducible repeat' first
    | (intro _) | assumption | apply tidy_pSet | apply tidy_judgeFec | apply tidy_ite | apply tidy_snd_ite
    | (apply tidyPair_of; assumption) | (simp only [tidy_mk]; apply tidy_back) | split | dsimp only

theorem tidy_sendCert (q : List Instr) (p : Nat) (s : State) (h1 : Tidy q s) :
    Tidy q (sendCert p s) := by
  unfold sendCert
  try dsimp only
  with_reducible repeat' first
    | (intro _) | assumption | apply tidy_freeNext | apply tidy_sendLink | apply tidy_modPort
    | (apply tidyPair_of; assumption) | (simp only [tidy_mk]; apply tidy_back) | split | dsimp only

theorem tidy_toKeying (q : List Instr) (p : Nat) (s : State) (h1 : Tidy q s) :
    Tidy q (toKeying p s) := by
  unfold toKeying
  try dsimp only
  with_reducible repeat' first
    | (intro _) | assumption | apply tidy_keyingOffer | apply tidy_sendCert | apply tidy_pSet | apply tidy_setPState
    | (simp only [tidy_mk]; apply tidy_back) | split | dsimp only

theorem tidy_identExchange (q : List Instr) (p : Nat) (i : IdentIn) (s : State) (h1 : Tidy q s) :
    Tidy q (identExchange p i s) := by
  unfold identExchange
  try dsimp only
  with_reducible repeat' first
    | (intro _) | assumption | apply tidy_identChecks | apply tidy_alignPeer | apply tidy_toKeying
    | apply tidy_logEvent | apply tidy_pSet | apply tidy_setPState | apply tidy_ite | (apply tidyPair_of; assumption)
    | (simp only [tidy_mk]; apply tidy_back) | split | dsimp only

theorem tidy_sendProbes (q : List Instr) (p : Nat) (s : State) (h1 : Tidy q s) :
    Tidy q (sendProbes p s) := by
  unfold sendProbes
  try dsimp only
  with_reducible repeat' first
    | (intro _) | assumption | apply tidy_linkNote | apply tidy_foldl | (simp only [tidy_mk]; apply tidy_back) | split
    | dsimp only

theorem tidy_sendIdent (q : List Instr) (p : Nat) (s : State) (h1 : Tidy q s) :
    Tidy q (sendIdent p s) := by
  unfold sendIdent
  try dsimp only
  with_reducible repeat' first
    | (intro _) | assumption | apply tidy_sendProbes | apply tidy_linkNote | (simp only [tidy_mk]; apply tidy_back)
    | split | dsimp only

theorem tidy_identRepeat (q : List Instr) (p : Nat) (i : IdentIn) (s : State) (h1 : Tidy q s) :
    Tidy q (identRepeat p i s) := by
  unfold identRepeat
  try dsimp only
  with_reducible repeat' first
    | (intro _) | assumption | apply tidy_identChecks | apply tidy_sendIdent | apply tidy_toKeying | apply tidy_pSet
    | apply tidy_ite | (apply tidyPair_of; assumption) | (simp only [tidy_mk]; apply tidy_back) | split | dsimp only

theorem tidy_keyAckIn (q : List Instr) (p : Nat) (effective : Nat) (s : State) (h1 : Tidy q s) :
    Tidy q (keyAckIn p effective s) := by
  unfold keyAckIn
  try dsimp only
  with_reducible repeat' first
    | (intro _) | assumption | apply tidy_reachUp | apply tidy_setPort | apply tidy_ite
    | (simp only [tidy_mk]; apply tidy_back) | split | dsimp only

theorem tidy_keyChange (q : List Instr) (p : Nat) (s : State) (h1 : Tidy q s) :
    Tidy q (keyChange p s) := by
  unfold keyChange
  try dsimp only
  with_reducible repeat' first
    | (intro _) | assumption | apply tidy_portLoss | apply tidy_pAdd | apply tidy_setPort | apply tidy_ite
    | (simp only [tidy_mk]; apply tidy_back) | split | dsimp only

theorem tidy_keyOfferIn (q : List Instr) (p : Nat) (o : OfferIn) (s : State) (h1 : Tidy q s) :
    Tidy q (keyOfferIn p o s) := by
  unfold keyOfferIn
  try dsimp only
  with_reducible repeat' first
    | (intro _) | assumption | apply tidy_secAdd | apply tidy_ite | (simp only [tidy_mk]; apply tidy_back) | split
    | dsimp only

theorem tidy_keyRequestDue (q : List Instr) (p : Nat) (s : State) (h1 : Tidy q s) :
    Tidy q (keyRequestDue p s) := by
  unfold keyRequestDue
  try dsimp only
  with_reducible repeat' first
    | (intro _) | assumption | apply tidy_sendRequest | apply tidy_ite | (simp only [tidy_mk]; apply tidy_back)
    | split | dsimp only

theorem tidy_keyRequestIn (q : List Instr) (p : Nat) (phase : Nat) (nonce : Nat) (s : State) (h1 : Tidy q s) :
    Tidy q (keyRequestIn p phase nonce s) := by
  unfold keyRequestIn
  try dsimp only
  with_reducible repeat' first
    | (intro _) | assumption | apply tidy_sendOffer | apply tidy_modPort | apply tidy_sendRequest | apply tidy_ite
    | (simp only [tidy_mk]; apply tidy_back) | split | dsimp only

theorem tidy_toFailed (q : List Instr) (p : Nat) (s : State) (h1 : Tidy q s) :
    Tidy q (toFailed p s) := by
  unfold toFailed
  try dsimp only
  with_reducible repeat' first
    | (intro _) | assumption | apply tidy_setPort | apply tidy_setPState | apply tidy_clearLink
    | (simp only [tidy_mk]; apply tidy_back) | split | dsimp only

theorem tidy_keyingTimeout (q : List Instr) (p : Nat) (s : State) (h1 : Tidy q s) :
    Tidy q (keyingTimeout p s) := by
  unfold keyingTimeout
  try dsimp only
  with_reducible repeat' first
    | (intro _) | assumption | apply tidy_logSimple | apply tidy_toFailed | apply tidy_ite
    | (simp only [tidy_mk]; apply tidy_back) | split | dsimp only

theorem tidy_laneFailure (q : List Instr) (p : Nat) (lane : Option Nat) (s : State) (h1 : Tidy q s) :
    Tidy q (laneFailure p lane s) := by
  unfold laneFailure
  try dsimp only
  with_reducible repeat' first
    | (intro _) | assumption | apply tidy_modPort | apply tidy_startRetrain | apply tidy_ite
    | (simp only [tidy_mk]; apply tidy_back) | split | dsimp only

theorem tidy_setLaserOk (q : List Instr) (b : Bool) (s : State) (h1 : Tidy q s) :
    Tidy q (setLaserOk b s) := by
  unfold setLaserOk
  try dsimp only
  with_reducible repeat' first | (intro _) | assumption | (simp only [tidy_mk]; apply tidy_back) | split | dsimp only

theorem tidy_laserOkFall (q : List Instr) (s : State) (h1 : Tidy q s) :
    Tidy q (laserOkFall s) := by
  unfold laserOkFall
  try dsimp only
  with_reducible repeat' first
    | (intro _) | assumption | apply tidy_portOff | apply tidy_laserUpdate | apply tidy_setLaserOk | apply tidy_foldl
    | (simp only [tidy_mk]; apply tidy_back) | split | dsimp only

theorem tidy_laserOkRise (q : List Instr) (s : State) (h1 : Tidy q s) :
    Tidy q (laserOkRise s) := by
  unfold laserOkRise
  try dsimp only
  with_reducible repeat' first
    | (intro _) | assumption | apply tidy_raisePorts | apply tidy_laserUpdate | apply tidy_setLaserOk
    | (simp only [tidy_mk]; apply tidy_back) | split | dsimp only

theorem tidy_laserOkTimeout (q : List Instr) (s : State) (h1 : Tidy q s) :
    Tidy q (laserOkTimeout s) := by
  unfold laserOkTimeout
  try dsimp only
  with_reducible repeat' first
    | (intro _) | assumption | apply tidy_logSimple | apply tidy_ite | (simp only [tidy_mk]; apply tidy_back) | split
    | dsimp only

theorem tidy_lightDetected (q : List Instr) (p : Nat) (s : State) (h1 : Tidy q s) :
    Tidy q (lightDetected p s) := by
  unfold lightDetected
  try dsimp only
  with_reducible repeat' first
    | (intro _) | assumption | apply tidy_setPort | apply tidy_setPState | apply tidy_ite
    | (simp only [tidy_mk]; apply tidy_back) | split | dsimp only

theorem tidy_locateForward (q : List Instr) (p : Nat) (on : Bool) (s : State) (h1 : Tidy q s) :
    Tidy q (locateForward p on s) := by
  unfold locateForward
  try dsimp only
  with_reducible repeat' first
    | (intro _) | assumption | apply tidy_modPort | (simp only [tidy_mk]; apply tidy_back) | split | dsimp only

theorem tidy_lossOfLight (q : List Instr) (p : Nat) (s : State) (h1 : Tidy q s) :
    Tidy q (lossOfLight p s) := by
  unfold lossOfLight
  try dsimp only
  with_reducible repeat' first
    | (intro _) | assumption | apply tidy_toDark | apply tidy_portLoss | apply tidy_ite
    | (simp only [tidy_mk]; apply tidy_back) | split | dsimp only

theorem tidy_nakRepeat (q : List Instr) (p : Nat) (s : State) (h1 : Tidy q s) :
    Tidy q (nakRepeat p s) := by
  unfold nakRepeat
  try dsimp only
  with_reducible repeat' first
    | (intro _) | assumption | apply tidy_modPort | apply tidy_ite | (simp only [tidy_mk]; apply tidy_back) | split
    | dsimp only

theorem tidy_portProbe (q : List Instr) (p : Nat) (s : State) (h1 : Tidy q s) :
    Tidy q (portProbe p s) := by
  unfold portProbe
  try dsimp only
  with_reducible repeat' first
    | (intro _) | assumption | apply tidy_setPort | apply tidy_ite | (simp only [tidy_mk]; apply tidy_back) | split
    | dsimp only

theorem tidy_setLanes (q : List Instr) (p : Nat) (g : Nat) (s : State) (h1 : Tidy q s) :
    Tidy q (setLanes p g s) := by
  unfold setLanes
  try dsimp only
  with_reducible repeat' first
    | (intro _) | assumption | apply tidy_pSet | (simp only [tidy_mk]; apply tidy_back) | split | dsimp only

theorem tidy_retrainComplete (q : List Instr) (p : Nat) (ok : Nat) (s : State) (h1 : Tidy q s) :
    Tidy q (retrainComplete p ok s) := by
  unfold retrainComplete
  try dsimp only
  with_reducible repeat' first
    | (intro _) | assumption | apply tidy_portLoss | apply tidy_drainCheck | apply tidy_sendLocate
    | apply tidy_setPort | apply tidy_pSet | apply tidy_setLanes | apply tidy_setPState | apply tidy_ite
    | apply tidy_foldl | (simp only [tidy_mk]; apply tidy_back) | split | dsimp only

theorem tidy_retrainTimeout (q : List Instr) (p : Nat) (s : State) (h1 : Tidy q s) :
    Tidy q (retrainTimeout p s) := by
  unfold retrainTimeout
  try dsimp only
  with_reducible repeat' first
    | (intro _) | assumption | apply tidy_portLoss | apply tidy_ite | (simp only [tidy_mk]; apply tidy_back) | split
    | dsimp only

theorem tidy_trainingComplete (q : List Instr) (p : Nat) (ok : Nat) (s : State) (h1 : Tidy q s) :
    Tidy q (trainingComplete p ok s) := by
  unfold trainingComplete
  try dsimp only
  with_reducible repeat' first
    | (intro _) | assumption | apply tidy_sendIdent | apply tidy_pSet | apply tidy_setLanes | apply tidy_setPState
    | apply tidy_sendLocate | apply tidy_ite | (simp only [tidy_mk]; apply tidy_back) | split | dsimp only

theorem tidy_trainingTimeout (q : List Instr) (p : Nat) (s : State) (h1 : Tidy q s) :
    Tidy q (trainingTimeout p s) := by
  unfold trainingTimeout
  try dsimp only
  with_reducible repeat' first
    | (intro _) | assumption | apply tidy_toDark | apply tidy_ite | (simp only [tidy_mk]; apply tidy_back) | split
    | dsimp only

end Sys2Proof.Machine
end

