-- ==== Sys2Proof/Laws/TidyRemote.lean ====
section
/-! SUPPORT. Each operation keeps memory canonical and the queue as it is: remote operations, collectives, the commands and the host interface. -/
namespace Sys2Proof.Machine
open Sys2Proof

theorem tidy_answer (q : List Instr) (op : Nat) (operand : Nat) (bs : List Byte) (p : Pkt) (s : State) (h1 : Tidy q s)
    :
    Tidy q (answer op operand bs p s) := by
  unfold answer
  try dsimp only
  with_reducible repeat' first
    | (intro _) | assumption | apply tidy_inject | (simp only [tidy_mk]; apply tidy_back) | split | dsimp only

theorem tidy_setFe (q : List Instr) (fe : Nat) (x : FeSt) (s : State) (h1 : Tidy q s) :
    Tidy q (setFe fe x s) := by
  unfold setFe
  try dsimp only
  with_reducible repeat' first | (intro _) | assumption | (simp only [tidy_mk]; apply tidy_back) | split | dsimp only

theorem tidy_setRob (q : List Instr) (fe : Nat) (i : Nat) (r : RobSt) (s : State) (h1 : Tidy q s) :
    Tidy q (setRob fe i r s) := by
  unfold setRob
  try dsimp only
  with_reducible repeat' first
    | (intro _) | assumption | apply tidy_setFe | (simp only [tidy_mk]; apply tidy_back) | split | dsimp only

theorem tidy_setStale (q : List Instr) (l : List Nat) (s : State) (h1 : Tidy q s) :
    Tidy q (setStale l s) := by
  unfold setStale
  try dsimp only
  with_reducible repeat' first
    | (intro _) | assumption | apply tidy_odSet | (simp only [tidy_mk]; apply tidy_back) | split | dsimp only

theorem tidy_markStale (q : List Instr) (n : Nat) (s : State) (h1 : Tidy q s) :
    Tidy q (markStale n s) := by
  unfold markStale
  try dsimp only
  with_reducible repeat' first
    | (intro _) | assumption | apply tidy_setStale | apply tidy_ite | (simp only [tidy_mk]; apply tidy_back) | split
    | dsimp only

theorem tidy_failPacket (q : List Instr) (fe : Nat) (i : Nat) (p : RPkt) (code : Nat) (s : State) (h1 : Tidy q s) :
    Tidy q (failPacket fe i p code s) := by
  unfold failPacket
  try dsimp only
  with_reducible repeat' first
    | (intro _) | assumption | apply tidy_markStale | apply tidy_setRob | apply tidy_ite | apply tidyRes_ite
    | apply tidyRes_ok | apply tidyRes_ue | apply tidyServe_ok | apply tidyServe_ue | apply tidySlot_ok
    | apply tidySlot_exc | apply tidySlot_ue | apply tidyOpt_ite | apply tidyOpt_some | apply tidyOpt_none
    | apply tidyAns_ite | apply tidyAns_some | apply tidyAns_none | apply tidy_snd_ite
    | (apply tidyRes_of; assumption) | (apply tidyRes_ofUe; assumption) | (apply tidyServe_of; assumption)
    | (apply tidyServe_ofUe; assumption) | (apply tidySlot_of; assumption) | (apply tidySlot_ofExc; assumption)
    | (apply tidySlot_ofUe; assumption) | (apply tidyPair_of; assumption) | (apply tidyTriple_of; assumption)
    | (apply tidyOpt_of; assumption) | (apply tidyAns_of; assumption) | apply tidy_foldl
    | (simp only [tidy_mk]; apply tidy_back) | split | (simp only [id_eq]) | apply_assumption | dsimp only

theorem tidy_failLocal (q : List Instr) (fe : Nat) (i : Nat) (p : RPkt) (code : Nat) (s : State) (h1 : Tidy q s) :
    Tidy q (failLocal fe i p code s) := by
  unfold failLocal
  try dsimp only
  with_reducible repeat' first
    | (intro _) | assumption | apply tidy_setRob | (simp only [tidy_mk]; apply tidy_back) | split | dsimp only

theorem tidy_replyToken (q : List Instr) (t : Nat) (a1 : Nat) (off : Nat) (s : State) (h1 : Tidy q s) :
    Tidy q (replyToken t a1 off s) := by
  unfold replyToken
  try dsimp only
  with_reducible repeat' first
    | (intro _) | assumption | apply tidy_progress | apply tidy_giveReply | apply tidy_raiseReq
    | (apply tidyOpt_of; assumption) | (simp only [tidy_mk]; apply tidy_back) | split | dsimp only

theorem tidy_noteRob (q : List Instr) (r : RobSt) (a : Nat) (n : Nat) (s : State) (h1 : Tidy q s) :
    Tidy q (noteRob r a n s) := by
  unfold noteRob
  try dsimp only
  with_reducible repeat' first
    | (intro _) | assumption | apply tidy_noteWrote | (simp only [tidy_mk]; apply tidy_back) | split | dsimp only

theorem tidy_finishRob (q : List Instr) (fe : Nat) (i : Nat) (s : State) (h1 : Tidy q s) :
    Tidy q (finishRob fe i s) := by
  unfold finishRob
  try dsimp only
  with_reducible repeat' first
    | (intro _) | assumption | apply tidy_setFe | apply tidy_undefine | apply tidy_trace | apply tidy_finish
    | apply tidy_addFlags | apply tidy_writeMod | apply tidy_ueTile | apply tidy_replyToken | apply tidy_noteRob
    | apply tidy_ite | (apply tidyRes_of; assumption) | (apply tidyRes_ofUe; assumption)
    | (simp only [tidy_mk]; apply tidy_back) | split | dsimp only

theorem tidy_pktBody (q : List Instr) (fe : Nat) (r : RobSt) (p : RPkt) (s : State) (h1 : Tidy q s) :
    TidyRes q (pktBody fe r p s) := by
  unfold pktBody
  try dsimp only
  with_reducible repeat' first
    | (intro _) | assumption | apply tidy_readMod | apply tidy_ite | apply tidyRes_ite | apply tidyRes_ok
    | apply tidyRes_ue | (apply tidyRes_of; assumption) | (apply tidyRes_ofUe; assumption)
    | (simp only [tidy_mk]; apply tidy_back) | split | dsimp only

theorem tidy_sendRob (q : List Instr) (fe : Nat) (i : Nat) (a2 : Nat) (s : State) (h1 : Tidy q s) :
    Tidy q (sendRob fe i a2 s) := by
  induction a2 generalizing s with
  | zero => exact h1
  | succ n ih =>
    unfold sendRob
    dsimp only
    with_reducible repeat' first
      | (intro _) | assumption | apply tidy_setRob | apply tidy_pktBody | apply tidy_failLocal | apply tidy_ueRecord
      | apply tidy_inject | apply tidy_setFe | apply tidy_ite | (apply tidyRes_of; assumption)
      | (apply tidyRes_ofUe; assumption) | (simp only [tidy_mk]; apply tidy_back) | split | apply_assumption
      | dsimp only

theorem tidy_runRob (q : List Instr) (fe : Nat) (i : Nat) (s : State) (h1 : Tidy q s) :
    Tidy q (runRob fe i s) := by
  unfold runRob
  try dsimp only
  with_reducible repeat' first
    | (intro _) | assumption | apply tidy_finishRob | apply tidy_sendRob | (simp only [tidy_mk]; apply tidy_back)
    | split | dsimp only

theorem tidy_pumpFe (q : List Instr) (fe : Nat) (a1 : Nat) (a2 : Nat) (s : State) (h1 : Tidy q s) :
    Tidy q (pumpFe fe a1 a2 s) := by
  induction a2 generalizing a1 s with
  | zero => exact h1
  | succ n ih =>
    unfold pumpFe
    split
    · exact h1
    · dsimp only
      apply ih
      with_reducible repeat' first
        | (intro _) | assumption | apply tidy_runRob | apply tidy_ite | (simp only [tidy_mk]; apply tidy_back) | split
        | apply_assumption | dsimp only

theorem tidy_respond (q : List Instr) (rtag : Nat) (code : Nat) (eff : Nat →   RobSt →     RPkt → State → MemRes
    RobSt) (s : State) (hf : ∀ x0 x1 x2 x3, Tidy q x3 → TidyRes q (eff x0 x1 x2 x3)) (h1 : Tidy q s) :
    Tidy q (respond rtag code eff s) := by
  unfold respond
  try dsimp only
  with_reducible repeat' first
    | (intro _) | assumption | apply tidy_odAdd | apply tidy_setRob | apply tidy_setFe | apply tidy_failPacket
    | apply tidy_failLocal | apply tidy_ueRecord | apply tidy_pumpFe | apply tidy_ite | (apply tidyRes_of; assumption)
    | (apply tidyRes_ofUe; assumption) | (apply tidyServe_of; assumption) | (apply tidyServe_ofUe; assumption)
    | (simp only [tidy_mk]; apply tidy_back) | split | apply_assumption | dsimp only

theorem tidy_atRsp (q : List Instr) (p : Pkt) (s : State) (h1 : Tidy q s) :
    Tidy q (atRsp p s) := by
  unfold atRsp
  try dsimp only
  with_reducible repeat' first
    | (intro _) | assumption | apply tidy_respond | apply tidyRes_ok | apply tidyRes_ue
    | (simp only [tidy_mk]; apply tidy_back) | split | dsimp only

theorem tidy_wMemberRevive (q : List Instr) (v : Nat) (s : State) (h1 : Tidy q s) :
    Tidy q (wMemberRevive v s).2 := by
  unfold wMemberRevive
  try dsimp only
  with_reducible repeat' first
    | (intro _) | assumption | apply tidy_setStale | (apply tidyPair_of; assumption)
    | (simp only [tidy_mk]; apply tidy_back) | split | dsimp only

theorem tidy_eaAck (q : List Instr) (p : Pkt) (s : State) (h1 : Tidy q s) :
    Tidy q (eaAck p s) := by
  unfold eaAck
  try dsimp only
  with_reducible repeat' first
    | (intro _) | assumption | apply tidy_respond | apply tidyRes_ok | apply tidyRes_ue
    | (simp only [tidy_mk]; apply tidy_back) | split | dsimp only

theorem tidy_startRob (q : List Instr) (fe : Nat) (r0 : RobSt) (s : State) (h1 : Tidy q s) :
    Tidy q (startRob fe r0 s) := by
  unfold startRob
  try dsimp only
  with_reducible repeat' first
    | (intro _) | assumption | apply tidy_runRob | apply tidy_setFe | apply tidy_ite
    | (simp only [tidy_mk]; apply tidy_back) | split | dsimp only

theorem tidy_fetchRob (q : List Instr) (fe : Nat) (t : Nat) (off : Nat) (s : State) (h1 : Tidy q s) :
    Tidy q (fetchRob fe t off s) := by
  unfold fetchRob
  try dsimp only
  with_reducible repeat' first
    | (intro _) | assumption | apply tidy_tileExc | apply tidy_readMod | apply tidy_ueTile | apply tidy_trace
    | apply tidy_startRob | apply tidy_finishRob | apply tidy_setFe | apply tidy_ite | (apply tidyRes_of; assumption)
    | (apply tidyRes_ofUe; assumption) | (simp only [tidy_mk]; apply tidy_back) | split | dsimp only

theorem tidy_htRsp (q : List Instr) (p : Pkt) (s : State) (h1 : Tidy q s) :
    Tidy q (htRsp p s) := by
  unfold htRsp
  try dsimp only
  with_reducible repeat' first
    | (intro _) | assumption | apply tidy_respond | apply tidy_writeMod | apply tidy_noteRob | apply tidy_ite
    | apply tidyRes_ite | apply tidyRes_ok | apply tidyRes_ue | (apply tidyRes_of; assumption)
    | (apply tidyRes_ofUe; assumption) | (simp only [tidy_mk]; apply tidy_back) | split | dsimp only

theorem tidy_pumpAll (q : List Instr) (s : State) (h1 : Tidy q s) :
    Tidy q (pumpAll s) := by
  unfold pumpAll
  try dsimp only
  with_reducible repeat' first
    | (intro _) | assumption | apply tidy_pumpFe | apply tidy_foldl | (simp only [tidy_mk]; apply tidy_back) | split
    | dsimp only

theorem tidy_rdRsp (q : List Instr) (p : Pkt) (s : State) (h1 : Tidy q s) :
    Tidy q (rdRsp p s) := by
  unfold rdRsp
  try dsimp only
  with_reducible repeat' first
    | (intro _) | assumption | apply tidy_respond | apply tidy_writeMod | apply tidy_noteRob | apply tidyRes_ok
    | apply tidyRes_ue | (apply tidyRes_of; assumption) | (apply tidyRes_ofUe; assumption)
    | (simp only [tidy_mk]; apply tidy_back) | split | dsimp only

theorem tidy_slotFlush (q : List Instr) (a : Nat) (s : State) (h1 : Tidy q s) :
    Tidy q (slotFlush a s) := by
  unfold slotFlush
  try dsimp only
  with_reducible repeat' first
    | (intro _) | assumption | apply tidy_engineAdd | apply tidy_answer | apply tidy_notice | apply tidy_ueRecord
    | (apply tidyRes_of; assumption) | (apply tidyRes_ofUe; assumption) | apply tidy_foldl
    | (simp only [tidy_mk]; apply tidy_back) | split | dsimp only

theorem tidy_remoteEaadd (q : List Instr) (s : State) (h1 : Tidy q s) :
    Tidy q (remoteEaadd s) := by
  unfold remoteEaadd
  try dsimp only
  with_reducible repeat' first
    | (intro _) | assumption | apply tidy_takeEjected | apply tidy_notice | apply tidy_slotFlush | apply tidy_ite
    | (apply tidyAns_of; assumption) | (simp only [tidy_mk]; apply tidy_back) | split | dsimp only

theorem tidy_remoteTimeoutAt (q : List Instr) (fe : Nat) (tag : Nat) (s : State) (h1 : Tidy q s) :
    Tidy q (remoteTimeoutAt fe tag s) := by
  unfold remoteTimeoutAt
  try dsimp only
  with_reducible repeat' first
    | (intro _) | assumption | apply tidy_respond | apply tidy_ite | apply tidyRes_ite | apply tidyRes_ok
    | apply tidyRes_ue | (simp only [tidy_mk]; apply tidy_back) | split | dsimp only

theorem tidy_robFetch (q : List Instr) (t : Nat) (oq : Nat) (k : Nat) (s : State) (h1 : Tidy q s) :
    Tidy q (robFetch t oq k s) := by
  unfold robFetch
  try dsimp only
  with_reducible repeat' first
    | (intro _) | assumption | apply tidy_fetchRob | apply tidy_raiseReq | apply tidy_setTile | apply tidy_ite
    | (simp only [tidy_mk]; apply tidy_back) | split | dsimp only

theorem tidy_withPacket (q : List Instr) (op : Nat) (f : Pkt → State → State) (s : State) (hf : ∀ x0 x1, Tidy q x1 →
    Tidy q (f x0 x1)) (h1 : Tidy q s) :
    Tidy q (withPacket op f s) := by
  unfold withPacket
  try dsimp only
  with_reducible repeat' first
    | (intro _) | assumption | apply tidy_takeEjected | (apply tidyAns_of; assumption)
    | (simp only [tidy_mk]; apply tidy_back) | split | apply_assumption | dsimp only

theorem tidy_serve (q : List Instr) (op : Nat) (f : Pkt → Nat → State → MemRes State) (s : State) (hf : ∀ x0 x1 x2,
    Tidy q x2 → TidyServe q (f x0 x1 x2)) (h1 : Tidy q s) :
    Tidy q (serve op f s) := by
  unfold serve
  try dsimp only
  with_reducible repeat' first
    | (intro _) | assumption | apply tidy_withPacket | apply tidy_notice | apply tidy_ueRecord | apply tidy_ite
    | (apply tidyServe_of; assumption) | (apply tidyServe_ofUe; assumption) | (simp only [tidy_mk]; apply tidy_back)
    | split | apply_assumption | dsimp only

theorem tidy_serveAt (q : List Instr) (g : Nat → Nat → Nat → Nat) (p : Pkt) (a : Nat) (s : State) (h1 : Tidy q s) :
    TidyServe q (serveAt g p a s) := by
  unfold serveAt
  try dsimp only
  with_reducible repeat' first
    | (intro _) | assumption | apply tidy_readMod | apply tidy_writeMod | apply tidy_answer | apply tidyServe_ok
    | apply tidyServe_ue | (apply tidyRes_of; assumption) | (apply tidyRes_ofUe; assumption)
    | (simp only [tidy_mk]; apply tidy_back) | split | apply_assumption | dsimp only

theorem tidy_serveHash (q : List Instr) (ins : Bool) (p : Pkt) (a : Nat) (s : State) (h1 : Tidy q s) :
    TidyServe q (serveHash ins p a s) := by
  unfold serveHash
  try dsimp only
  with_reducible repeat' first
    | (intro _) | assumption | apply tidy_freeNext | apply tidy_hashKeys | apply tidy_answer | apply tidy_ite
    | apply tidyServe_ok | apply tidyServe_ue | (apply tidyRes_of; assumption) | (apply tidyRes_ofUe; assumption)
    | (apply tidyPair_of; assumption) | (simp only [tidy_mk]; apply tidy_back) | split | dsimp only

theorem tidy_serveRd (q : List Instr) (p : Pkt) (a : Nat) (s : State) (h1 : Tidy q s) :
    TidyServe q (serveRd p a s) := by
  unfold serveRd
  try dsimp only
  with_reducible repeat' first
    | (intro _) | assumption | apply tidy_readMod | apply tidy_answer | apply tidyServe_ok | apply tidyServe_ue
    | (apply tidyRes_of; assumption) | (apply tidyRes_ofUe; assumption) | (simp only [tidy_mk]; apply tidy_back)
    | split | dsimp only

theorem tidy_serveWr (q : List Instr) (p : Pkt) (a : Nat) (s : State) (h1 : Tidy q s) :
    TidyServe q (serveWr p a s) := by
  unfold serveWr
  try dsimp only
  with_reducible repeat' first
    | (intro _) | assumption | apply tidy_writeMod | apply tidy_answer | apply tidyServe_ok | apply tidyServe_ue
    | (apply tidyRes_of; assumption) | (apply tidyRes_ofUe; assumption) | (simp only [tidy_mk]; apply tidy_back)
    | split | dsimp only

theorem tidy_wrAck (q : List Instr) (p : Pkt) (s : State) (h1 : Tidy q s) :
    Tidy q (wrAck p s) := by
  unfold wrAck
  try dsimp only
  with_reducible repeat' first
    | (intro _) | assumption | apply tidy_respond | apply tidyRes_ok | apply tidyRes_ue
    | (simp only [tidy_mk]; apply tidy_back) | split | dsimp only

theorem tidy_sendStep (q : List Instr) (x : CollSt) (c : Nat) (k : Nat) (s : State) (h1 : Tidy q s) :
    Tidy q (sendStep x c k s) := by
  unfold sendStep
  try dsimp only
  with_reducible repeat' first
    | (intro _) | assumption | apply tidy_inject | apply tidy_trace | apply tidy_ite | apply tidy_foldl
    | (simp only [tidy_mk]; apply tidy_back) | split | dsimp only

theorem tidy_advanceChunk (q : List Instr) (c : Nat) (a1 : Nat) (a2 : CollSt) (s : State) (h1 : Tidy q s) :
    Tidy q (advanceChunk c a1 a2 s).2 := by
  induction a1 generalizing a2 s with
  | zero => exact h1
  | succ n ih =>
    unfold advanceChunk
    dsimp only
    split
    · exact h1
    · apply ih
      with_reducible repeat' first
        | (intro _) | assumption | apply tidy_sendStep | apply tidy_ite | apply tidy_snd_ite
        | (apply tidyPair_of; assumption) | (simp only [tidy_mk]; apply tidy_back) | split | apply_assumption
        | dsimp only

theorem tidy_advanceAll (q : List Instr) (a0 : Nat) (a1 : CollSt) (s : State) (h1 : Tidy q s) :
    Tidy q (advanceAll a0 a1 s).2 := by
  revert h1
  fun_induction advanceAll a0 a1 s <;> intro h1
  all_goals (try dsimp only)
  with_reducible repeat' first
    | (intro _) | assumption | apply tidy_advanceChunk | (apply tidyPair_of; assumption)
    | (simp only [tidy_mk]; apply tidy_back) | split | apply_assumption | dsimp only

theorem tidy_dropColl (q : List Instr) (x : CollSt) (s : State) (h1 : Tidy q s) :
    Tidy q (dropColl x s) := by
  unfold dropColl
  try dsimp only
  with_reducible repeat' first | (intro _) | assumption | (simp only [tidy_mk]; apply tidy_back) | split | dsimp only

theorem tidy_endColl (q : List Instr) (x : CollSt) (code : Nat) (s : State) (h1 : Tidy q s) :
    Tidy q (endColl x code s) := by
  unfold endColl
  try dsimp only
  with_reducible repeat' first
    | (intro _) | assumption | apply tidy_progress | apply tidy_dropColl | apply tidy_undefine | apply tidy_finish
    | apply tidy_ite | apply tidy_foldl | (simp only [tidy_mk]; apply tidy_back) | split | dsimp only

theorem tidy_setColl (q : List Instr) (x : CollSt) (s : State) (h1 : Tidy q s) :
    Tidy q (setColl x s) := by
  unfold setColl
  try dsimp only
  with_reducible repeat' first
    | (intro _) | assumption | apply tidy_ite | (simp only [tidy_mk]; apply tidy_back) | split | dsimp only

theorem tidy_finishColl (q : List Instr) (x : CollSt) (s : State) (h1 : Tidy q s) :
    Tidy q (finishColl x s) := by
  unfold finishColl
  try dsimp only
  with_reducible repeat' first
    | (intro _) | assumption | apply tidy_writeMod | apply tidy_endColl | apply tidy_ueRecord | apply tidy_setColl
    | apply tidy_ite | (apply tidyRes_of; assumption) | (apply tidyRes_ofUe; assumption)
    | (simp only [tidy_mk]; apply tidy_back) | split | dsimp only

theorem tidy_advance (q : List Instr) (x : CollSt) (s : State) (h1 : Tidy q s) :
    Tidy q (advance x s) := by
  unfold advance
  try dsimp only
  with_reducible repeat' first
    | (intro _) | assumption | apply tidy_advanceAll | apply tidy_finishColl | (apply tidyPair_of; assumption)
    | (simp only [tidy_mk]; apply tidy_back) | split | dsimp only

theorem tidy_collPacket (q : List Instr) (x : CollSt) (p : Pkt) (s : State) (h1 : Tidy q s) :
    Tidy q (collPacket x p s) := by
  unfold collPacket
  try dsimp only
  with_reducible repeat' first
    | (intro _) | assumption | apply tidy_endColl | apply tidy_ueRecord | apply tidy_advance | apply tidy_ite
    | (simp only [tidy_mk]; apply tidy_back) | split | dsimp only

theorem tidy_collStep (q : List Instr) (s : State) (h1 : Tidy q s) :
    Tidy q (collStep s) := by
  unfold collStep
  try dsimp only
  with_reducible repeat' first
    | (intro _) | assumption | apply tidy_takeEjected | apply tidy_notice | apply tidy_collPacket | apply tidy_ite
    | (apply tidyAns_of; assumption) | (simp only [tidy_mk]; apply tidy_back) | split | dsimp only

theorem tidy_collTimeout (q : List Instr) (id : Nat) (mask : Nat) (s : State) (h1 : Tidy q s) :
    Tidy q (collTimeout id mask s) := by
  unfold collTimeout
  try dsimp only
  with_reducible repeat' first
    | (intro _) | assumption | apply tidy_endColl | (simp only [tidy_mk]; apply tidy_back) | split | dsimp only

theorem tidy_takeEarly (q : List Instr) (id : Nat) (mask : Nat) (a2 : List Pkt) (s : State) (h1 : Tidy q s) :
    Tidy q (takeEarly id mask a2 s) := by
  revert h1
  fun_induction takeEarly id mask a2 s <;> intro h1
  all_goals (try dsimp only)
  with_reducible repeat' first
    | (intro _) | assumption | apply tidy_collPacket | apply tidy_ite | (simp only [tidy_mk]; apply tidy_back) | split
    | apply_assumption | dsimp only

theorem tidy_startColl (q : List Instr) (ring : Nat) (idx : Nat) (c : EvCmd) (d : List Byte) (s : State) (h1 : Tidy q
    s) :
    Tidy q (startColl ring idx c d s) := by
  unfold startColl
  try dsimp only
  with_reducible repeat' first
    | (intro _) | assumption | apply tidy_readMod | apply tidy_finish | apply tidy_ueRecord | apply tidy_sendStep
    | apply tidy_advance | apply tidy_takeEarly | (apply tidyRes_of; assumption) | (apply tidyRes_ofUe; assumption)
    | apply tidy_foldl | (simp only [tidy_mk]; apply tidy_back) | split | dsimp only

theorem tidy_discardIn (q : List Instr) (p : Pkt) (s : State) (h1 : Tidy q s) :
    Tidy q (discardIn p s) := by
  unfold discardIn
  try dsimp only
  with_reducible repeat' first
    | (intro _) | assumption | apply tidy_endColl | apply tidy_respond | apply tidy_ite | apply tidyRes_ite
    | apply tidyRes_ok | apply tidyRes_ue | (simp only [tidy_mk]; apply tidy_back) | split | dsimp only

theorem tidy_setPaceHeld (q : List Instr) (l : List PaceSt) (s : State) (h1 : Tidy q s) :
    Tidy q (setPaceHeld l s) := by
  unfold setPaceHeld
  try dsimp only
  with_reducible repeat' first
    | (intro _) | assumption | apply tidy_odSet | (simp only [tidy_mk]; apply tidy_back) | split | dsimp only

theorem tidy_paceExpiry (q : List Instr) (origin : Nat) (s : State) (h1 : Tidy q s) :
    Tidy q (paceExpiry origin s) := by
  unfold paceExpiry
  try dsimp only
  with_reducible repeat' first
    | (intro _) | assumption | apply tidy_setPaceHeld | (simp only [tidy_mk]; apply tidy_back) | split | dsimp only

theorem tidy_sendPace (q : List Instr) (operand : Nat) (js : List Nat) (s : State) (h1 : Tidy q s) :
    Tidy q (sendPace operand js s) := by
  unfold sendPace
  try dsimp only
  with_reducible repeat' first
    | (intro _) | assumption | apply tidy_inject | apply tidy_foldl | (simp only [tidy_mk]; apply tidy_back) | split
    | dsimp only

theorem tidy_paceIn (q : List Instr) (p : Pkt) (s : State) (h1 : Tidy q s) :
    Tidy q (paceIn p s) := by
  unfold paceIn
  try dsimp only
  with_reducible repeat' first
    | (intro _) | assumption | apply tidy_setPaceHeld | apply tidy_trace | apply tidy_odAdd32 | apply tidy_sendPace
    | apply tidy_ite | (simp only [tidy_mk]; apply tidy_back) | split | dsimp only

theorem tidy_paceSend (q : List Instr) (s : State) (h1 : Tidy q s) :
    Tidy q (paceSend s) := by
  unfold paceSend
  try dsimp only
  with_reducible repeat' first
    | (intro _) | assumption | apply tidy_sendPace | apply tidy_trace | apply tidy_ite | apply tidy_foldl
    | (simp only [tidy_mk]; apply tidy_back) | split | dsimp only

theorem tidy_setRing (q : List Instr) (r : Nat) (g : RingSt) (s : State) (h1 : Tidy q s) :
    Tidy q (setRing r g s) := by
  unfold setRing
  try dsimp only
  with_reducible repeat' first | (intro _) | assumption | (simp only [tidy_mk]; apply tidy_back) | split | dsimp only

theorem tidy_hostSend (q : List Instr) (ro : Bool) (a : Nat) (bs : List Byte) (s : State) (h1 : Tidy q s) :
    Tidy q (hostSend ro a bs s) := by
  unfold hostSend
  try dsimp only
  with_reducible repeat' first
    | (intro _) | assumption | apply tidy_pcieCount | apply tidy_emit | apply tidy_foldl
    | (simp only [tidy_mk]; apply tidy_back) | split | dsimp only

theorem tidy_hostWrite (q : List Instr) (a : Nat) (bs : List Byte) (s : State) (h1 : Tidy q s) :
    Tidy q (hostWrite a bs s) := by
  unfold hostWrite
  try dsimp only
  with_reducible repeat' first
    | (intro _) | assumption | apply tidy_hostSend | (simp only [tidy_mk]; apply tidy_back) | split | dsimp only

theorem tidy_setCq (q : List Instr) (c : Nat) (a1 : CqSt) (s : State) (h1 : Tidy q s) :
    Tidy q (setCq c a1 s) := by
  unfold setCq
  try dsimp only
  with_reducible repeat' first | (intro _) | assumption | (simp only [tidy_mk]; apply tidy_back) | split | dsimp only

theorem tidy_setCmd (q : List Instr) (c : CmdEnt) (s : State) (h1 : Tidy q s) :
    Tidy q (setCmd c s) := by
  unfold setCmd
  try dsimp only
  with_reducible repeat' first
    | (intro _) | assumption | apply tidy_ite | (simp only [tidy_mk]; apply tidy_back) | split | dsimp only

theorem tidy_beginCmd (q : List Instr) (op : Nat) (ring : Nat) (idx : Nat) (f : CmdEnt → State → State) (s : State)
    (hf : ∀ x0 x1, Tidy q x1 → Tidy q (f x0 x1)) (h1 : Tidy q s) :
    Tidy q (beginCmd op ring idx f s) := by
  unfold beginCmd
  try dsimp only
  with_reducible repeat' first
    | (intro _) | assumption | apply tidy_setCmd | apply tidy_ite | (simp only [tidy_mk]; apply tidy_back) | split
    | apply_assumption | dsimp only

theorem tidy_failCmd (q : List Instr) (c : CmdEnt) (code : Nat) (off : Nat) (s : State) (h1 : Tidy q s) :
    Tidy q (failCmd c code off s) := by
  unfold failCmd
  try dsimp only
  with_reducible repeat' first
    | (intro _) | assumption | apply tidy_finish | apply tidy_ite | (simp only [tidy_mk]; apply tidy_back) | split
    | dsimp only

theorem tidy_notePoison (q : List Instr) (r : HostRead) (s : State) (h1 : Tidy q s) :
    Tidy q (notePoison r s) := by
  unfold notePoison
  try dsimp only
  with_reducible repeat' first
    | (intro _) | assumption | apply tidy_odAdd | apply tidy_ite | (simp only [tidy_mk]; apply tidy_back) | split
    | dsimp only

theorem tidy_hostAsk (q : List Instr) (a : Nat) (n : Nat) (s : State) (h1 : Tidy q s) :
    Tidy q (hostAsk a n s) := by
  unfold hostAsk
  try dsimp only
  with_reducible repeat' first
    | (intro _) | assumption | apply tidy_pcieCount | apply tidy_emit | apply tidy_foldl
    | (simp only [tidy_mk]; apply tidy_back) | split | dsimp only

theorem tidy_setCtx (q : List Instr) (x : Nat) (c : CtxSt) (s : State) (h1 : Tidy q s) :
    Tidy q (setCtx x c s) := by
  unfold setCtx
  try dsimp only
  with_reducible repeat' first | (intro _) | assumption | (simp only [tidy_mk]; apply tidy_back) | split | dsimp only

theorem tidy_stopRing (q : List Instr) (r : Nat) (code : Nat) (s : State) (h1 : Tidy q s) :
    Tidy q (stopRing r code s) := by
  unfold stopRing
  try dsimp only
  with_reducible repeat' first
    | (intro _) | assumption | apply tidy_setRing | apply tidy_ite | (simp only [tidy_mk]; apply tidy_back) | split
    | dsimp only

theorem tidy_exhaust (q : List Instr) (x : Nat) (inward : Bool) (s : State) (h1 : Tidy q s) :
    Tidy q (exhaust x inward s) := by
  unfold exhaust
  try dsimp only
  with_reducible repeat' first
    | (intro _) | assumption | apply tidy_setCtx | apply tidy_stopRing | apply tidy_ite | apply tidy_foldl
    | (simp only [tidy_mk]; apply tidy_back) | split | dsimp only

theorem tidy_ctxUse (q : List Instr) (x : Nat) (inward : Bool) (n : Nat) (s : State) (h1 : Tidy q s) :
    Tidy q (ctxUse x inward n s) := by
  unfold ctxUse
  try dsimp only
  with_reducible repeat' first
    | (intro _) | assumption | apply tidy_exhaust | apply tidy_setCtx | apply tidy_ite
    | (simp only [tidy_mk]; apply tidy_back) | split | dsimp only

theorem tidy_ctxFail (q : List Instr) (x : Nat) (s : State) (h1 : Tidy q s) :
    Tidy q (ctxFail x s) := by
  unfold ctxFail
  try dsimp only
  with_reducible repeat' first
    | (intro _) | assumption | apply tidy_setCtx | (simp only [tidy_mk]; apply tidy_back) | split | dsimp only

theorem tidy_ctxEnd (q : List Instr) (x : Nat) (inward : Bool) (s : State) (h1 : Tidy q s) :
    Tidy q (ctxEnd x inward s) := by
  unfold ctxEnd
  try dsimp only
  with_reducible repeat' first
    | (intro _) | assumption | apply tidy_exhaust | apply tidy_ite | (simp only [tidy_mk]; apply tidy_back) | split
    | dsimp only

theorem tidy_hostFetch (q : List Instr) (c : CmdEnt) (x : Nat) (a : Nat) (off : Nat) (tagA : Nat) (n : Nat) (h :
    HostIn) (s : State) (h1 : Tidy q s) :
    Tidy q (hostFetch c x a off tagA n h s).2 := by
  unfold hostFetch
  try dsimp only
  with_reducible repeat' first
    | (intro _) | assumption | apply tidy_notePoison | apply tidy_hostAsk | apply tidy_ctxUse | apply tidy_ctxFail
    | apply tidy_ctxEnd | apply tidy_ite | apply tidy_snd_ite | (apply tidyPair_of; assumption)
    | (simp only [tidy_mk]; apply tidy_back) | split | dsimp only

theorem tidy_okCmd (q : List Instr) (c : CmdEnt) (result : Nat) (s : State) (h1 : Tidy q s) :
    Tidy q (okCmd c result s) := by
  unfold okCmd
  try dsimp only
  with_reducible repeat' first
    | (intro _) | assumption | apply tidy_finish | (simp only [tidy_mk]; apply tidy_back) | split | dsimp only

theorem tidy_bufsetDefine (q : List Instr) (h : HostIn) (c : CmdEnt) (s : State) (h1 : Tidy q s) :
    Tidy q (bufsetDefine h c s) := by
  unfold bufsetDefine
  try dsimp only
  with_reducible repeat' first
    | (intro _) | assumption | apply tidy_failCmd | apply tidy_hostFetch | apply tidy_okCmd | apply tidy_setCmd
    | apply tidy_ite | (apply tidyPair_of; assumption) | (simp only [tidy_mk]; apply tidy_back) | split | dsimp only

theorem tidy_collective (q : List Instr) (c : CmdEnt) (s : State) (h1 : Tidy q s) :
    Tidy q (collective c s) := by
  unfold collective
  try dsimp only
  with_reducible repeat' first
    | (intro _) | assumption | apply tidy_failCmd | apply tidy_startColl | (simp only [tidy_mk]; apply tidy_back)
    | split | dsimp only

theorem tidy_ctxIndex (q : List Instr) (x : Nat) (who : Nat) (inward : Bool) (s : State) (h1 : Tidy q s) :
    Tidy q (ctxIndex x who inward s) := by
  unfold ctxIndex
  try dsimp only
  with_reducible repeat' first
    | (intro _) | assumption | apply tidy_ctxUse | apply tidy_setCtx | (simp only [tidy_mk]; apply tidy_back) | split
    | dsimp only

theorem tidy_commandStart (q : List Instr) (ring : Nat) (s : State) (h1 : Tidy q s) :
    Tidy q (commandStart ring s) := by
  unfold commandStart
  try dsimp only
  with_reducible repeat' first
    | (intro _) | assumption | apply tidy_failCmd | apply tidy_setCmd | apply tidy_ite
    | (simp only [tidy_mk]; apply tidy_back) | split | dsimp only

theorem tidy_copyFail (q : List Instr) (c : CmdEnt) (b : Buf) (off : Nat) (n : Nat) (code : Nat) (head : List Byte) (s
    : State) (h1 : Tidy q s) :
    Tidy q (copyFail c b off n code head s) := by
  unfold copyFail
  try dsimp only
  with_reducible repeat' first
    | (intro _) | assumption | apply tidy_failCmd | apply tidy_writeMod | apply tidy_undefine | apply tidy_ite
    | (apply tidyRes_of; assumption) | (apply tidyRes_ofUe; assumption) | (simp only [tidy_mk]; apply tidy_back)
    | split | dsimp only

theorem tidy_hostData (q : List Instr) (a : Nat) (bs : List Byte) (s : State) (h1 : Tidy q s) :
    Tidy q (hostData a bs s) := by
  unfold hostData
  try dsimp only
  with_reducible repeat' first
    | (intro _) | assumption | apply tidy_hostSend | (simp only [tidy_mk]; apply tidy_back) | split | dsimp only

theorem tidy_sealBlock (q : List Instr) (c : CmdEnt) (b : Buf) (off : Nat) (i : Nat) (bs : List Byte) (s : State) (h1
    : Tidy q s) :
    Tidy q (sealBlock c b off i bs s) := by
  unfold sealBlock
  try dsimp only
  with_reducible repeat' first
    | (intro _) | assumption | apply tidy_hostWrite | apply tidy_hostData | (simp only [tidy_mk]; apply tidy_back)
    | split | dsimp only

theorem tidy_sealBlocks (q : List Instr) (c : CmdEnt) (b : Buf) (off : Nat) (a3 : Nat) (a4 : Nat) (a5 : List Byte) (s
    : State) (h1 : Tidy q s) :
    Tidy q (sealBlocks c b off a3 a4 a5 s) := by
  revert h1
  fun_induction sealBlocks c b off a3 a4 a5 s <;> intro h1
  all_goals (try dsimp only)
  with_reducible repeat' first
    | (intro _) | assumption | apply tidy_sealBlock | (simp only [tidy_mk]; apply tidy_back) | split
    | apply_assumption | dsimp only

theorem tidy_copyOut (q : List Instr) (c : CmdEnt) (b : Buf) (off : Nat) (bs : List Byte) (s : State) (h1 : Tidy q s)
    :
    Tidy q (copyOut c b off bs s) := by
  unfold copyOut
  try dsimp only
  with_reducible repeat' first
    | (intro _) | assumption | apply tidy_ctxUse | apply tidy_sealBlocks | apply tidy_failCmd | apply tidy_ctxEnd
    | apply tidy_okCmd | apply tidy_hostData | apply tidy_writeMod | apply tidy_copyFail | apply tidy_ueRecord
    | apply tidy_ite | (apply tidyRes_of; assumption) | (apply tidyRes_ofUe; assumption)
    | (simp only [tidy_mk]; apply tidy_back) | split | dsimp only

theorem tidy_fetchData (q : List Instr) (c : CmdEnt) (b : Buf) (off : Nat) (n : Nat) (h : HostIn) (s : State) (h1 :
    Tidy q s) :
    Tidy q (fetchData c b off n h s).2 := by
  unfold fetchData
  try dsimp only
  with_reducible repeat' first
    | (intro _) | assumption | apply tidy_hostFetch | apply tidy_readMod | apply tidy_ueRecord | apply tidy_ite
    | apply tidy_snd_ite | (apply tidyRes_of; assumption) | (apply tidyRes_ofUe; assumption)
    | (apply tidyPair_of; assumption) | (simp only [tidy_mk]; apply tidy_back) | split | dsimp only

theorem tidy_dmaCopy (q : List Instr) (h : HostIn) (c : CmdEnt) (s : State) (h1 : Tidy q s) :
    Tidy q (dmaCopy h c s) := by
  unfold dmaCopy
  try dsimp only
  with_reducible repeat' first
    | (intro _) | assumption | apply tidy_failCmd | apply tidy_fetchData | apply tidy_copyFail | apply tidy_copyOut
    | (apply tidyPair_of; assumption) | (simp only [tidy_mk]; apply tidy_back) | split | dsimp only

theorem tidy_remoteOp (q : List Instr) (c : CmdEnt) (s : State) (h1 : Tidy q s) :
    Tidy q (remoteOp c s) := by
  unfold remoteOp
  try dsimp only
  with_reducible repeat' first
    | (intro _) | assumption | apply tidy_setCmd | apply tidy_failCmd | apply tidy_startRob | apply tidy_trace
    | apply tidy_ite | (simp only [tidy_mk]; apply tidy_back) | split | dsimp only

theorem tidy_tableData (q : List Instr) (hi : Nat) (h : HostIn) (c : CmdEnt) (s : State) (h1 : Tidy q s) :
    Tidy q (tableData hi h c s).2 := by
  unfold tableData
  try dsimp only
  with_reducible repeat' first
    | (intro _) | assumption | apply tidy_fetchData | apply tidy_ite | apply tidy_snd_ite
    | (apply tidyPair_of; assumption) | (simp only [tidy_mk]; apply tidy_back) | split | dsimp only

theorem tidy_shardMapLoad (q : List Instr) (h : HostIn) (c : CmdEnt) (s : State) (h1 : Tidy q s) :
    Tidy q (shardMapLoad h c s) := by
  unfold shardMapLoad
  try dsimp only
  with_reducible repeat' first
    | (intro _) | assumption | apply tidy_tableData | apply tidy_failCmd | apply tidy_okCmd
    | (apply tidyPair_of; assumption) | (simp only [tidy_mk]; apply tidy_back) | split | dsimp only

theorem tidy_windowsLoad (q : List Instr) (h : HostIn) (c : CmdEnt) (s : State) (h1 : Tidy q s) :
    Tidy q (windowsLoad h c s) := by
  unfold windowsLoad
  try dsimp only
  with_reducible repeat' first
    | (intro _) | assumption | apply tidy_tableData | apply tidy_failCmd | apply tidy_okCmd | apply tidy_ite
    | (apply tidyPair_of; assumption) | (simp only [tidy_mk]; apply tidy_back) | split | dsimp only

theorem tidy_beginLoad (q : List Instr) (c : CmdEnt) (img : List Byte) (secs : List (Nat × List Byte)) (s : State) (h1
    : Tidy q s) :
    Tidy q (beginLoad c img secs s) := by
  unfold beginLoad
  try dsimp only
  with_reducible repeat' first
    | (intro _) | assumption | apply tidy_setTile | apply tidy_foldl | (simp only [tidy_mk]; apply tidy_back) | split
    | dsimp only

theorem tidy_forceUnload (q : List Instr) (h : Nat) (g : GraphSt) (c : CmdEnt) (s : State) (h1 : Tidy q s) :
    Tidy q (forceUnload h g c s) := by
  unfold forceUnload
  try dsimp only
  with_reducible repeat' first
    | (intro _) | assumption | apply tidy_stopGraph | apply tidy_finish | apply tidy_unloadNow | apply tidy_ite
    | (simp only [tidy_mk]; apply tidy_back) | split | dsimp only

theorem tidy_graphLoad (q : List Instr) (hin : HostIn) (c : CmdEnt) (s : State) (h1 : Tidy q s) :
    Tidy q (graphLoad hin c s) := by
  unfold graphLoad
  try dsimp only
  with_reducible repeat' first
    | (intro _) | assumption | apply tidy_failCmd | apply tidy_fetchData | apply tidy_beginLoad | apply tidy_ite
    | (apply tidyPair_of; assumption) | (simp only [tidy_mk]; apply tidy_back) | split | dsimp only

theorem tidy_graphStart (q : List Instr) (c : CmdEnt) (s : State) (h1 : Tidy q s) :
    Tidy q (graphStart c s) := by
  unfold graphStart
  try dsimp only
  with_reducible repeat' first
    | (intro _) | assumption | apply tidy_failCmd | apply tidy_modGraph | apply tidy_trace | apply tidy_feedStarts
    | apply tidy_ite | (simp only [tidy_mk]; apply tidy_back) | split | dsimp only

theorem tidy_graphUnload (q : List Instr) (c : CmdEnt) (s : State) (h1 : Tidy q s) :
    Tidy q (graphUnload c s) := by
  unfold graphUnload
  try dsimp only
  with_reducible repeat' first
    | (intro _) | assumption | apply tidy_setCmd | apply tidy_failCmd | apply tidy_forceUnload | apply tidy_unloadNow
    | apply tidy_modGraph | apply tidy_ite | (simp only [tidy_mk]; apply tidy_back) | split | dsimp only

theorem tidy_startGraph (q : List Instr) (c : CmdEnt) (s : State) (h1 : Tidy q s) :
    Tidy q (startGraph c s) := by
  unfold startGraph
  try dsimp only
  with_reducible repeat' first
    | (intro _) | assumption | apply tidy_setCmd | apply tidy_graphStart | apply tidy_ite
    | (simp only [tidy_mk]; apply tidy_back) | split | dsimp only

theorem tidy_linkDown (q : List Instr) (s : State) (h1 : Tidy q s) :
    Tidy q (linkDown s) := by
  unfold linkDown
  try dsimp only
  with_reducible repeat' first
    | (intro _) | assumption | apply tidy_odSet | (simp only [tidy_mk]; apply tidy_back) | split | dsimp only

theorem tidy_dropHostWork (q : List Instr) (s : State) (h1 : Tidy q s) :
    Tidy q (dropHostWork s) := by
  unfold dropHostWork
  try dsimp only
  with_reducible repeat' first
    | (intro _) | assumption | apply tidy_undefineAll | apply tidy_ite | (simp only [tidy_mk]; apply tidy_back)
    | split | dsimp only

theorem tidy_dropGraphWork (q : List Instr) (h : Nat) (s : State) (h1 : Tidy q s) :
    Tidy q (dropGraphWork h s) := by
  unfold dropGraphWork
  try dsimp only
  with_reducible repeat' first
    | (intro _) | assumption | apply tidy_freeGraph | apply tidy_modGraph | apply tidy_stopGraph | apply tidy_ite
    | (simp only [tidy_mk]; apply tidy_back) | split | dsimp only

theorem tidy_hostReset (q : List Instr) (s : State) (h1 : Tidy q s) :
    Tidy q (hostReset s) := by
  unfold hostReset
  try dsimp only
  with_reducible repeat' first
    | (intro _) | assumption | apply tidy_dropHostWork | apply tidy_dropGraphWork | apply tidy_foldl
    | (simp only [tidy_mk]; apply tidy_back) | split | dsimp only

theorem tidy_ringEnable (q : List Instr) (r : Nat) (s : State) (h1 : Tidy q s) :
    Tidy q (ringEnable r s) := by
  unfold ringEnable
  try dsimp only
  with_reducible repeat' first
    | (intro _) | assumption | apply tidy_setRing | apply tidy_hostWrite | apply tidy_ite
    | (simp only [tidy_mk]; apply tidy_back) | split | dsimp only

theorem tidy_drained (q : List Instr) (r : Nat) (s : State) (h1 : Tidy q s) :
    Tidy q (drained r s) := by
  unfold drained
  try dsimp only
  with_reducible repeat' first
    | (intro _) | assumption | apply tidy_setRing | apply tidy_ite | (simp only [tidy_mk]; apply tidy_back) | split
    | dsimp only

theorem tidy_wRingCtl (q : List Instr) (r : Nat) (v : Nat) (s : State) (h1 : Tidy q s) :
    Tidy q (wRingCtl r v s) := by
  unfold wRingCtl
  try dsimp only
  with_reducible repeat' first
    | (intro _) | assumption | apply tidy_setRing | apply tidy_ringEnable | apply tidy_drained | apply tidy_ite
    | (simp only [tidy_mk]; apply tidy_back) | split | dsimp only

theorem tidy_cqEnable (q : List Instr) (c : Nat) (s : State) (h1 : Tidy q s) :
    Tidy q (cqEnable c s) := by
  unfold cqEnable
  try dsimp only
  with_reducible repeat' first
    | (intro _) | assumption | apply tidy_setCq | apply tidy_ite | (simp only [tidy_mk]; apply tidy_back) | split
    | dsimp only

theorem tidy_wCqCtl (q : List Instr) (c : Nat) (v : Nat) (s : State) (h1 : Tidy q s) :
    Tidy q (wCqCtl c v s) := by
  unfold wCqCtl
  try dsimp only
  with_reducible repeat' first
    | (intro _) | assumption | apply tidy_setCq | apply tidy_cqEnable | apply tidy_ite
    | (simp only [tidy_mk]; apply tidy_back) | split | dsimp only

theorem tidy_setMsix (q : List Instr) (v : Nat) (m : MsixSt) (s : State) (h1 : Tidy q s) :
    Tidy q (setMsix v m s) := by
  unfold setMsix
  try dsimp only
  with_reducible repeat' first | (intro _) | assumption | (simp only [tidy_mk]; apply tidy_back) | split | dsimp only

theorem tidy_sendMsix (q : List Instr) (v : Nat) (s : State) (h1 : Tidy q s) :
    Tidy q (sendMsix v s) := by
  unfold sendMsix
  try dsimp only
  with_reducible repeat' first
    | (intro _) | assumption | apply tidy_setMsix | apply tidy_pcieCount | apply tidy_emit | apply tidy_ite
    | (simp only [tidy_mk]; apply tidy_back) | split | dsimp only

theorem tidy_flushMsix (q : List Instr) (s : State) (h1 : Tidy q s) :
    Tidy q (flushMsix s) := by
  unfold flushMsix
  try dsimp only
  with_reducible repeat' first
    | (intro _) | assumption | apply tidy_sendMsix | apply tidy_setMsix | apply tidy_ite | apply tidy_foldl
    | (simp only [tidy_mk]; apply tidy_back) | split | dsimp only

theorem tidy_cqFire (q : List Instr) (c : Nat) (s : State) (h1 : Tidy q s) :
    Tidy q (cqFire c s) := by
  unfold cqFire
  try dsimp only
  with_reducible repeat' first
    | (intro _) | assumption | apply tidy_sendMsix | apply tidy_setCq | (simp only [tidy_mk]; apply tidy_back) | split
    | dsimp only

theorem tidy_coalExpiry (q : List Instr) (c : Nat) (s : State) (h1 : Tidy q s) :
    Tidy q (coalExpiry c s) := by
  unfold coalExpiry
  try dsimp only
  with_reducible repeat' first
    | (intro _) | assumption | apply tidy_cqFire | apply tidy_ite | (simp only [tidy_mk]; apply tidy_back) | split
    | dsimp only

theorem tidy_cqSignal (q : List Instr) (c : Nat) (cpl : Bool) (s : State) (h1 : Tidy q s) :
    Tidy q (cqSignal c cpl s) := by
  unfold cqSignal
  try dsimp only
  with_reducible repeat' first
    | (intro _) | assumption | apply tidy_cqFire | apply tidy_setCq | apply tidy_ite
    | (simp only [tidy_mk]; apply tidy_back) | split | dsimp only

theorem tidy_writeCpl (q : List Instr) (n : Nat) (c : CmdEnt) (r : CmdRes) (s : State) (h1 : Tidy q s) :
    Tidy q (writeCpl n c r s) := by
  unfold writeCpl
  try dsimp only
  with_reducible repeat' first
    | (intro _) | assumption | apply tidy_exhaust | apply tidy_odAdd | apply tidy_hostWrite | apply tidy_cqSignal
    | apply tidy_setCq | apply tidy_ctxIndex | apply tidy_ite | (simp only [tidy_mk]; apply tidy_back) | split
    | dsimp only

theorem tidy_completeCmd (q : List Instr) (c : CmdEnt) (r : CmdRes) (s : State) (h1 : Tidy q s) :
    Tidy q (completeCmd c r s) := by
  unfold completeCmd
  try dsimp only
  with_reducible repeat' first
    | (intro _) | assumption | apply tidy_drained | apply tidy_writeCpl | apply tidy_ite
    | (simp only [tidy_mk]; apply tidy_back) | split | dsimp only

theorem tidy_completeAll (q : List Instr) (a0 : List CmdEnt) (s : State) (h1 : Tidy q s) :
    Tidy q (completeAll a0 s) := by
  induction a0 generalizing s with
  | nil => exact h1
  | cons x r ih =>
    unfold completeAll
    apply ih
    with_reducible repeat' first
      | (intro _) | assumption | apply tidy_completeCmd | (simp only [tidy_mk]; apply tidy_back) | split
      | apply_assumption | dsimp only

theorem tidy_commandComplete (q : List Instr) (ring : Nat) (idx : Nat) (s : State) (h1 : Tidy q s) :
    Tidy q (commandComplete ring idx s) := by
  unfold commandComplete
  try dsimp only
  with_reducible repeat' first
    | (intro _) | assumption | apply tidy_completeAll | apply tidy_ite | (simp only [tidy_mk]; apply tidy_back)
    | split | dsimp only

theorem tidy_readCons (q : List Instr) (c : Nat) (cons : Nat) (s : State) (h1 : Tidy q s) :
    Tidy q (readCons c cons s) := by
  unfold readCons
  try dsimp only
  with_reducible repeat' first
    | (intro _) | assumption | apply tidy_setCq | apply tidy_hostAsk | (simp only [tidy_mk]; apply tidy_back) | split
    | dsimp only

theorem tidy_consRead (q : List Instr) (c : Nat) (rd : HostRead) (cons : Nat) (s : State) (h1 : Tidy q s) :
    Tidy q (consRead c rd cons s) := by
  unfold consRead
  try dsimp only
  with_reducible repeat' first
    | (intro _) | assumption | apply tidy_readCons | apply tidy_notePoison | apply tidy_ite
    | (simp only [tidy_mk]; apply tidy_back) | split | dsimp only

theorem tidy_d0Return (q : List Instr) (s : State) (h1 : Tidy q s) :
    Tidy q (d0Return s) := by
  unfold d0Return
  try dsimp only
  with_reducible repeat' first
    | (intro _) | assumption | apply tidy_flushMsix | apply tidy_completeAll | apply tidy_ite
    | (simp only [tidy_mk]; apply tidy_back) | split | dsimp only

theorem tidy_d3Entry (q : List Instr) (s : State) (h1 : Tidy q s) :
    Tidy q (d3Entry s) := by
  unfold d3Entry
  try dsimp only
  with_reducible repeat' first
    | (intro _) | assumption | apply tidy_ite | (simp only [tidy_mk]; apply tidy_back) | split | dsimp only

theorem tidy_fetchEntries (q : List Instr) (r : Nat) (a1 : List (List Byte)) (s : State) (h1 : Tidy q s) :
    Tidy q (fetchEntries r a1 s) := by
  induction a1 generalizing s with
  | nil => exact h1
  | cons e es ih =>
    unfold fetchEntries
    dsimp only
    split
    · exact h1
    · split
      · with_reducible repeat' first
        | (intro _) | assumption | apply tidy_stopRing | apply tidy_ctxEnd | apply tidy_ctxFail | apply tidy_odAdd
        | apply tidy_setRing | apply tidy_ctxIndex | apply tidy_ite | (simp only [tidy_mk]; apply tidy_back) | split
        | apply_assumption | dsimp only
      · split
        · with_reducible repeat' first
          | (intro _) | assumption | apply tidy_stopRing | apply tidy_ctxEnd | apply tidy_ctxFail | apply tidy_odAdd
          | apply tidy_setRing | apply tidy_ctxIndex | apply tidy_ite | (simp only [tidy_mk]; apply tidy_back) | split
          | apply_assumption | dsimp only
        · have h2 := tidy_odAdd q _ oCMDS_FETCHED 1 (tidy_setRing q r { ringAt s r with
            cons := ((ringAt s r).cons + 1) % 2 ^ 32 } s h1)
          apply ih
          split
          · exact tidy_ctxIndex q _ _ _ _ h2
          · exact h2

theorem tidy_pcieDown (q : List Instr) (s : State) (h1 : Tidy q s) :
    Tidy q (pcieDown s) := by
  unfold pcieDown
  try dsimp only
  with_reducible repeat' first
    | (intro _) | assumption | apply tidy_linkDown | apply tidy_hostReset | apply tidy_ite
    | (simp only [tidy_mk]; apply tidy_back) | split | dsimp only

theorem tidy_pcieUp (q : List Instr) (speed : Nat) (width : Nat) (flit : Bool) (s : State) (h1 : Tidy q s) :
    Tidy q (pcieUp speed width flit s) := by
  unfold pcieUp
  try dsimp only
  with_reducible repeat' first
    | (intro _) | assumption | apply tidy_odSet | apply tidy_ite | (simp only [tidy_mk]; apply tidy_back) | split
    | dsimp only

theorem tidy_perst (q : List Instr) (n : Bool) (s : State) (h1 : Tidy q s) :
    Tidy q (perst n s) := by
  unfold perst
  try dsimp only
  with_reducible repeat' first
    | (intro _) | assumption | apply tidy_linkDown | apply tidy_hostReset | apply tidy_ite
    | (simp only [tidy_mk]; apply tidy_back) | split | dsimp only

theorem tidy_ringFetch (q : List Instr) (r : Nat) (p : PollIn) (s : State) (h1 : Tidy q s) :
    Tidy q (ringFetch r p s) := by
  unfold ringFetch
  try dsimp only
  with_reducible repeat' first
    | (intro _) | assumption | apply tidy_readCons | apply tidy_stopRing | apply tidy_notePoison | apply tidy_hostAsk
    | apply tidy_fetchEntries | apply tidy_hostWrite | apply tidy_ite | (simp only [tidy_mk]; apply tidy_back) | split
    | dsimp only

theorem tidy_ringPoll (q : List Instr) (r : Nat) (p : PollIn) (s : State) (h1 : Tidy q s) :
    Tidy q (ringPoll r p s) := by
  unfold ringPoll
  try dsimp only
  with_reducible repeat' first
    | (intro _) | assumption | apply tidy_odSet | apply tidy_odAdd | apply tidy_notePoison | apply tidy_hostAsk
    | apply tidy_stopRing | apply tidy_ringFetch | apply tidy_ite | (simp only [tidy_mk]; apply tidy_back) | split
    | dsimp only

end Sys2Proof.Machine
end

