-- ==== Sys2Proof/Laws/TidyPower.lean ====
section
/-! SUPPORT. Each operation keeps memory canonical and the queue as it is: the envelope, stops, gains, profiles, observation and security. -/
namespace Sys2Proof.Machine
open Sys2Proof

theorem tidy_dropRaises (q : List Instr) (s : State) (h1 : Tidy q s) :
    Tidy q (dropRaises s) := by
  unfold dropRaises
  try dsimp only
  with_reducible repeat' first
    | (intro _) | assumption | apply tidy_modFlt | (simp only [tidy_mk]; apply tidy_back) | split | dsimp only

theorem tidy_tookStep (q : List Instr) (d : Nat) (s0 : State) (s : State) (h1 : Tidy q s0) (h2 : Tidy q s) :
    Tidy q (tookStep d s0 s) := by
  unfold tookStep
  try dsimp only
  with_reducible repeat' first
    | (intro _) | assumption | apply tidy_modFlt | apply tidy_ite | (simp only [tidy_mk]; apply tidy_back) | split
    | dsimp only

theorem tidy_lowerStep (q : List Instr) (s0 : State) (h1 : Tidy q s0) :
    Tidy q (lowerStep s0) := by
  unfold lowerStep
  try dsimp only
  with_reducible repeat' first
    | (intro _) | assumption | apply tidy_dropRaises | apply tidy_tookStep | apply tidy_queueStep
    | apply tidy_withdraw | apply tidy_ite | (simp only [tidy_mk]; apply tidy_back) | split | dsimp only

theorem tidy_raiseStep (q : List Instr) (s : State) (h1 : Tidy q s) :
    Tidy q (raiseStep s) := by
  unfold raiseStep
  try dsimp only
  with_reducible repeat' first
    | (intro _) | assumption | apply tidy_tookStep | apply tidy_queueStep | (simp only [tidy_mk]; apply tidy_back)
    | split | dsimp only

theorem tidy_paceStep (q : List Instr) (d : Nat) (s : State) (h1 : Tidy q s) :
    Tidy q (paceStep d s) := by
  unfold paceStep
  try dsimp only
  with_reducible repeat' first
    | (intro _) | assumption | apply tidy_queueStep | apply tidy_ite | (simp only [tidy_mk]; apply tidy_back) | split
    | dsimp only

theorem tidy_homeStep (q : List Instr) (d : Nat) (s : State) (h1 : Tidy q s) :
    Tidy q (homeStep d s) := by
  unfold homeStep
  try dsimp only
  with_reducible repeat' first
    | (intro _) | assumption | apply tidy_queueStep | apply tidy_ite | (simp only [tidy_mk]; apply tidy_back) | split
    | dsimp only

theorem tidy_holdStep (q : List Instr) (d : Nat) (s : State) (h1 : Tidy q s) :
    Tidy q (holdStep d s) := by
  unfold holdStep
  try dsimp only
  with_reducible repeat' first
    | (intro _) | assumption | apply tidy_useSlot | apply tidy_addProj | apply tidy_setTile | apply tidy_ite
    | (simp only [tidy_mk]; apply tidy_back) | split | dsimp only

theorem tidy_actStep (q : List Instr) (s : State) (h1 : Tidy q s) :
    Tidy q (actStep s) := by
  unfold actStep
  try dsimp only
  with_reducible repeat' first
    | (intro _) | assumption | apply tidy_lowerStep | apply tidy_raiseStep | apply tidy_paceStep | apply tidy_homeStep
    | apply tidy_holdStep | apply tidy_ite | (simp only [tidy_mk]; apply tidy_back) | split | dsimp only

theorem tidy_setCapBit (q : List Instr) (b : Nat) (v : Bool) (s : State) (h1 : Tidy q s) :
    Tidy q (setCapBit b v s) := by
  unfold setCapBit
  try dsimp only
  with_reducible repeat' first
    | (intro _) | assumption | apply tidy_odBit | (simp only [tidy_mk]; apply tidy_back) | split | dsimp only

theorem tidy_brakePoints (q : List Instr) (s : State) (h1 : Tidy q s) :
    Tidy q (brakePoints s) := by
  unfold brakePoints
  try dsimp only
  with_reducible repeat' first
    | (intro _) | assumption | apply tidy_showVolt | apply tidy_showFreq | apply tidy_setPoint
    | (simp only [tidy_mk]; apply tidy_back) | split | dsimp only

theorem tidy_capCond (q : List Instr) (v : Bool) (event : Nat) (s : State) (h1 : Tidy q s) :
    Tidy q (capCond v event s) := by
  unfold capCond
  try dsimp only
  with_reducible repeat' first
    | (intro _) | assumption | apply tidy_emcyWhile | (simp only [tidy_mk]; apply tidy_back) | split | dsimp only

theorem tidy_limitStep (q : List Instr) (s : State) (h1 : Tidy q s) :
    Tidy q (limitStep s) := by
  unfold limitStep
  try dsimp only
  with_reducible repeat' first
    | (intro _) | assumption | apply tidy_odSet | apply tidy_modFlt | apply tidy_ite
    | (simp only [tidy_mk]; apply tidy_back) | split | dsimp only

theorem tidy_brakeAssert (q : List Instr) (s : State) (h1 : Tidy q s) :
    Tidy q (brakeAssert s) := by
  unfold brakeAssert
  try dsimp only
  with_reducible repeat' first
    | (intro _) | assumption | apply tidy_odAdd32 | apply tidy_odSet | apply tidy_setCapBit | apply tidy_modFlt
    | apply tidy_brakePoints | apply tidy_capCond | apply tidy_logSimple | apply tidy_limitStep | apply tidy_showDuty
    | apply tidy_ite | (simp only [tidy_mk]; apply tidy_back) | split | dsimp only

theorem tidy_brakeRelease (q : List Instr) (s : State) (h1 : Tidy q s) :
    Tidy q (brakeRelease s) := by
  unfold brakeRelease
  try dsimp only
  with_reducible repeat' first
    | (intro _) | assumption | apply tidy_odSet | apply tidy_setCapBit | apply tidy_capCond | apply tidy_limitStep
    | apply tidy_showDuty | apply tidy_modFlt | apply tidy_ite | (simp only [tidy_mk]; apply tidy_back) | split
    | dsimp only

theorem tidy_plausible (q : List Instr) (r : Nat) (s : State) (h1 : Tidy q s) :
    Tidy q (plausible r s) := by
  unfold plausible
  try dsimp only
  with_reducible repeat' first
    | (intro _) | assumption | apply tidy_modFlt | apply tidy_logSimple | apply tidy_setCapBit | apply tidy_ite
    | (simp only [tidy_mk]; apply tidy_back) | split | dsimp only

theorem tidy_vinStep (q : List Instr) (vin : Nat) (s : State) (h1 : Tidy q s) :
    Tidy q (vinStep vin s) := by
  unfold vinStep
  try dsimp only
  with_reducible repeat' first
    | (intro _) | assumption | apply tidy_logEvent | apply tidy_emcyWhile | apply tidy_odSet | apply tidy_ite
    | (simp only [tidy_mk]; apply tidy_back) | split | dsimp only

theorem tidy_showIn (q : List Instr) (s : State) (h1 : Tidy q s) :
    Tidy q (showIn s) := by
  unfold showIn
  try dsimp only
  with_reducible repeat' first
    | (intro _) | assumption | apply tidy_odSet | apply tidy_ite | (simp only [tidy_mk]; apply tidy_back) | split
    | dsimp only

theorem tidy_calibrate (q : List Instr) (p : Nat) (v : Nat) (s : State) (h1 : Tidy q s) :
    Tidy q (calibrate p v s) := by
  unfold calibrate
  try dsimp only
  with_reducible repeat' first
    | (intro _) | assumption | apply tidy_odAdd | apply tidy_modFlt | apply tidy_plausible | apply tidy_vinStep
    | apply tidy_showIn | apply tidy_odSet | apply tidy_ite | (simp only [tidy_mk]; apply tidy_back) | split
    | dsimp only

theorem tidy_capStep (q : List Instr) (s : State) (h1 : Tidy q s) :
    Tidy q (capStep s) := by
  unfold capStep
  try dsimp only
  with_reducible repeat' first
    | (intro _) | assumption | apply tidy_setCapBit | apply tidy_odSet | apply tidy_modFlt | apply tidy_ite
    | (simp only [tidy_mk]; apply tidy_back) | split | dsimp only

theorem tidy_coolantUpdate (q : List Instr) (s : State) (h1 : Tidy q s) :
    Tidy q (coolantUpdate s) := by
  unfold coolantUpdate
  try dsimp only
  with_reducible repeat' first
    | (intro _) | assumption | apply tidy_logEvent | apply tidy_odSet | apply tidy_setCapBit | apply tidy_ite
    | (simp only [tidy_mk]; apply tidy_back) | split | dsimp only

theorem tidy_countEnergy (q : List Instr) (evs : List EvCount) (s : State) (h1 : Tidy q s) :
    Tidy q (countEnergy evs s) := by
  unfold countEnergy
  try dsimp only
  with_reducible repeat' first
    | (intro _) | assumption | apply tidy_odAdd | apply tidy_modFlt | apply tidy_ite | apply tidy_foldl
    | (simp only [tidy_mk]; apply tidy_back) | split | dsimp only

theorem tidy_wTileEnable (q : List Instr) (t : Nat) (v : Nat) (power : Nat) (s : State) (h1 : Tidy q s) :
    Tidy q (wTileEnable t v power s).2 := by
  unfold wTileEnable
  try dsimp only
  with_reducible repeat' first
    | (intro _) | assumption | apply tidy_odSet | apply tidy_voltStepBy | apply tidy_tileOff | apply tidy_setMode
    | apply tidy_ite | apply tidy_snd_ite | (apply tidyPair_of; assumption) | (simp only [tidy_mk]; apply tidy_back)
    | split | dsimp only

theorem tidy_wCap (q : List Instr) (k : Nat) (v : Nat) (s : State) (h1 : Tidy q s) :
    Tidy q (wCap k v s).2 := by
  unfold wCap
  try dsimp only
  with_reducible repeat' first
    | (intro _) | assumption | apply tidy_setCapBit | apply tidy_odSet | apply tidy_ite | apply tidy_snd_ite
    | (apply tidyPair_of; assumption) | (simp only [tidy_mk]; apply tidy_back) | split | dsimp only

theorem tidy_wCapTarget (q : List Instr) (v : Nat) (s : State) (h1 : Tidy q s) :
    Tidy q (wCapTarget v s).2 := by
  unfold wCapTarget
  try dsimp only
  with_reducible repeat' first
    | (intro _) | assumption | apply tidy_wCap | apply tidy_setCapBit | (apply tidyPair_of; assumption)
    | (simp only [tidy_mk]; apply tidy_back) | split | dsimp only

theorem tidy_wSafeClear (q : List Instr) (v : Nat) (s : State) (h1 : Tidy q s) :
    Tidy q (wSafeClear v s).2 := by
  unfold wSafeClear
  try dsimp only
  with_reducible repeat' first
    | (intro _) | assumption | apply tidy_capCond | apply tidy_setCapBit | apply tidy_ite | apply tidy_snd_ite
    | (apply tidyPair_of; assumption) | (simp only [tidy_mk]; apply tidy_back) | split | dsimp only

theorem tidy_wStepTest (q : List Instr) (v : Nat) (s : State) (h1 : Tidy q s) :
    Tidy q (wStepTest v s).2 := by
  unfold wStepTest
  try dsimp only
  with_reducible repeat' first
    | (intro _) | assumption | apply tidy_modFlt | apply tidy_ite | apply tidy_snd_ite
    | (apply tidyPair_of; assumption) | (simp only [tidy_mk]; apply tidy_back) | split | dsimp only

theorem tidy_safeOn (q : List Instr) (s : State) (h1 : Tidy q s) :
    Tidy q (safeOn s) := by
  unfold safeOn
  try dsimp only
  with_reducible repeat' first
    | (intro _) | assumption | apply tidy_capCond | apply tidy_logSimple | apply tidy_setCapBit | apply tidy_ite
    | (simp only [tidy_mk]; apply tidy_back) | split | dsimp only

theorem tidy_wFlowLpm (q : List Instr) (v : Nat) (s : State) (h1 : Tidy q s) :
    Tidy q (wFlowLpm v s).2 := by
  unfold wFlowLpm
  try dsimp only
  with_reducible repeat' first
    | (intro _) | assumption | apply tidy_modFlt | apply tidy_odSet | apply tidy_safeOn | apply tidy_ite
    | apply tidy_snd_ite | (apply tidyPair_of; assumption) | (simp only [tidy_mk]; apply tidy_back) | split
    | dsimp only

theorem tidy_wFlowLoss (q : List Instr) (v : Nat) (s : State) (h1 : Tidy q s) :
    Tidy q (wFlowLoss v s).2 := by
  unfold wFlowLoss
  try dsimp only
  with_reducible repeat' first
    | (intro _) | assumption | apply tidy_odSet | apply tidy_safeOn | apply tidy_ite | apply tidy_snd_ite
    | (apply tidyPair_of; assumption) | (simp only [tidy_mk]; apply tidy_back) | split | dsimp only

theorem tidy_droop (q : List Instr) (d : Nat) (s : State) (h1 : Tidy q s) :
    Tidy q (droop d s) := by
  unfold droop
  try dsimp only
  with_reducible repeat' first
    | (intro _) | assumption | apply tidy_odAdd | apply tidy_modFlt | apply tidy_setCapBit | apply tidy_logEvent
    | apply tidy_ite | (simp only [tidy_mk]; apply tidy_back) | split | dsimp only

theorem tidy_estimate (q : List Instr) (evs : List EvCount) (s : State) (h1 : Tidy q s) :
    Tidy q (estimate evs s) := by
  unfold estimate
  try dsimp only
  with_reducible repeat' first
    | (intro _) | assumption | apply tidy_modFlt | apply tidy_ite | (simp only [tidy_mk]; apply tidy_back) | split
    | dsimp only

theorem tidy_showPower (q : List Instr) (s : State) (h1 : Tidy q s) :
    Tidy q (showPower s) := by
  unfold showPower
  try dsimp only
  with_reducible repeat' first
    | (intro _) | assumption | apply tidy_showDuty | apply tidy_odSet | apply tidy_foldl
    | (simp only [tidy_mk]; apply tidy_back) | split | dsimp only

theorem tidy_unheldStep (q : List Instr) (s : State) (h1 : Tidy q s) :
    Tidy q (unheldStep s) := by
  unfold unheldStep
  try dsimp only
  with_reducible repeat' first
    | (intro _) | assumption | apply tidy_odSet | apply tidy_modFlt | (simp only [tidy_mk]; apply tidy_back) | split
    | dsimp only

theorem tidy_reachStep (q : List Instr) (s : State) (h1 : Tidy q s) :
    Tidy q (reachStep s) := by
  unfold reachStep
  try dsimp only
  with_reducible repeat' first
    | (intro _) | assumption | apply tidy_capCond | apply tidy_logEvent | apply tidy_setCapBit | apply tidy_odSet
    | apply tidy_ite | (simp only [tidy_mk]; apply tidy_back) | split | dsimp only

theorem tidy_rampStep (q : List Instr) (s : State) (h1 : Tidy q s) :
    Tidy q (rampStep s) := by
  unfold rampStep
  try dsimp only
  with_reducible repeat' first
    | (intro _) | assumption | apply tidy_modFlt | apply tidy_ite | (simp only [tidy_mk]; apply tidy_back) | split
    | dsimp only

theorem tidy_estimatorUpdate (q : List Instr) (told : List EvCount) (s : State) (h1 : Tidy q s) :
    Tidy q (estimatorUpdate told s) := by
  unfold estimatorUpdate
  try dsimp only
  with_reducible repeat' first
    | (intro _) | assumption | apply tidy_capStep | apply tidy_countEnergy | apply tidy_estimate | apply tidy_modFlt
    | apply tidy_showPower | apply tidy_unheldStep | apply tidy_reachStep | apply tidy_actStep | apply tidy_limitStep
    | apply tidy_rampStep | apply tidy_ite | (simp only [tidy_mk]; apply tidy_back) | split | dsimp only

theorem tidy_freqModeSwitch (q : List Instr) (s : State) (h1 : Tidy q s) :
    Tidy q (freqModeSwitch s) := by
  unfold freqModeSwitch
  try dsimp only
  with_reducible repeat' first
    | (intro _) | assumption | apply tidy_odSet | apply tidy_brakePoints | apply tidy_withdraw | apply tidy_modFlt
    | apply tidy_homeStep | apply tidy_ite | (simp only [tidy_mk]; apply tidy_back) | split | dsimp only

theorem tidy_freqRaise (q : List Instr) (p0 : Nat) (p1 : Nat) (fix : Nat) (s : State) (h1 : Tidy q s) :
    Tidy q (freqRaise p0 p1 fix s) := by
  unfold freqRaise
  try dsimp only
  with_reducible repeat' first
    | (intro _) | assumption | apply tidy_queueStep | apply tidy_ite | (simp only [tidy_mk]; apply tidy_back) | split
    | dsimp only

theorem tidy_junctionWarn (q : List Instr) (tmax : Int) (src : Nat) (s : State) (h1 : Tidy q s) :
    Tidy q (junctionWarn tmax src s) := by
  unfold junctionWarn
  try dsimp only
  with_reducible repeat' first
    | (intro _) | assumption | apply tidy_emcyRaise | apply tidy_logEvent | apply tidy_setCapBit
    | apply tidy_emcyClear | apply tidy_ite | (simp only [tidy_mk]; apply tidy_back) | split | dsimp only

theorem tidy_outletStep (q : List Instr) (outlet : Int) (s : State) (h1 : Tidy q s) :
    Tidy q (outletStep outlet s) := by
  unfold outletStep
  try dsimp only
  with_reducible repeat' first
    | (intro _) | assumption | apply tidy_modFlt | apply tidy_safeOn | apply tidy_ite
    | (simp only [tidy_mk]; apply tidy_back) | split | dsimp only

theorem tidy_raiseSettled (q : List Instr) (d : Nat) (s : State) (h1 : Tidy q s) :
    Tidy q (raiseSettled d s) := by
  unfold raiseSettled
  try dsimp only
  with_reducible repeat' first
    | (intro _) | assumption | apply tidy_showFreq | apply tidy_setPoint | apply tidy_modFlt | apply tidy_ite
    | (simp only [tidy_mk]; apply tidy_back) | split | dsimp only

theorem tidy_sensorRead (q : List Instr) (ts : List Int) (inlet : Int) (outlet : Int) (s : State) (h1 : Tidy q s) :
    Tidy q (sensorRead ts inlet outlet s) := by
  unfold sensorRead
  try dsimp only
  with_reducible repeat' first
    | (intro _) | assumption | apply tidy_odSet | apply tidy_outletStep | apply tidy_junctionWarn | apply tidy_ite
    | apply tidy_foldl | (simp only [tidy_mk]; apply tidy_back) | split | dsimp only

theorem tidy_shareRecompute (q : List Instr) (ops : List (Nat × Nat)) (s : State) (h1 : Tidy q s) :
    Tidy q (shareRecompute ops s) := by
  unfold shareRecompute
  try dsimp only
  with_reducible repeat' first
    | (intro _) | assumption | apply tidy_countRan | apply tidy_modFlt | apply tidy_ite | apply tidy_foldl
    | (simp only [tidy_mk]; apply tidy_back) | split | dsimp only

theorem tidy_stepTestEnd (q : List Instr) (s : State) (h1 : Tidy q s) :
    Tidy q (stepTestEnd s) := by
  unfold stepTestEnd
  try dsimp only
  with_reducible repeat' first
    | (intro _) | assumption | apply tidy_modFlt | apply tidy_ite | (simp only [tidy_mk]; apply tidy_back) | split
    | dsimp only

theorem tidy_stretchEnd (q : List Instr) (d : Nat) (cycles : Nat) (s : State) (h1 : Tidy q s) :
    Tidy q (stretchEnd d cycles s) := by
  unfold stretchEnd
  try dsimp only
  with_reducible repeat' first
    | (intro _) | assumption | apply tidy_odAdd | apply tidy_modFlt | apply tidy_ite
    | (simp only [tidy_mk]; apply tidy_back) | split | dsimp only

theorem tidy_thermalUpdate (q : List Instr) (s : State) (h1 : Tidy q s) :
    Tidy q (thermalUpdate s) := by
  unfold thermalUpdate
  try dsimp only
  with_reducible repeat' first
    | (intro _) | assumption | apply tidy_odSet | apply tidy_modFlt | apply tidy_ite
    | (simp only [tidy_mk]; apply tidy_back) | split | dsimp only

theorem tidy_modTrw (q : List Instr) (f : TrwSt → TrwSt) (s : State) (h1 : Tidy q s) :
    Tidy q (modTrw f s) := by
  unfold modTrw
  try dsimp only
  with_reducible repeat' first
    | (intro _) | assumption | (simp only [tidy_mk]; apply tidy_back) | split | apply_assumption | dsimp only

theorem tidy_modRail (q : List Instr) (n : Nat) (f : RailSt → RailSt) (s : State) (h1 : Tidy q s) :
    Tidy q (modRail n f s) := by
  unfold modRail
  try dsimp only
  with_reducible repeat' first
    | (intro _) | assumption | apply tidy_modTrw | (simp only [tidy_mk]; apply tidy_back) | split | apply_assumption
    | dsimp only

theorem tidy_railPut (q : List Instr) (base : Nat) (n : Nat) (v : Nat) (s : State) (h1 : Tidy q s) :
    Tidy q (railPut base n v s) := by
  unfold railPut
  try dsimp only
  with_reducible repeat' first
    | (intro _) | assumption | apply tidy_odSet | (simp only [tidy_mk]; apply tidy_back) | split | dsimp only

theorem tidy_showPhases (q : List Instr) (n : Nat) (s : State) (h1 : Tidy q s) :
    Tidy q (showPhases n s) := by
  unfold showPhases
  try dsimp only
  with_reducible repeat' first
    | (intro _) | assumption | apply tidy_railPut | (simp only [tidy_mk]; apply tidy_back) | split | dsimp only

theorem tidy_setPhase (q : List Instr) (p : Nat) (v : Nat) (s : State) (h1 : Tidy q s) :
    Tidy q (setPhase p v s) := by
  unfold setPhase
  try dsimp only
  with_reducible repeat' first
    | (intro _) | assumption | apply tidy_odSet | (simp only [tidy_mk]; apply tidy_back) | split | dsimp only

theorem tidy_railFlag (q : List Instr) (n : Nat) (b : Nat) (v : Bool) (s : State) (h1 : Tidy q s) :
    Tidy q (railFlag n b v s) := by
  unfold railFlag
  try dsimp only
  with_reducible repeat' first
    | (intro _) | assumption | apply tidy_odBit | (simp only [tidy_mk]; apply tidy_back) | split | dsimp only

theorem tidy_phasesTo (q : List Instr) (n : Nat) (v : Nat) (s : State) (h1 : Tidy q s) :
    Tidy q (phasesTo n v s) := by
  unfold phasesTo
  try dsimp only
  with_reducible repeat' first
    | (intro _) | assumption | apply tidy_showPhases | apply tidy_setPhase | apply tidy_ite | apply tidy_foldl
    | (simp only [tidy_mk]; apply tidy_back) | split | dsimp only

theorem tidy_railStop (q : List Instr) (n : Nat) (st : Nat) (s : State) (h1 : Tidy q s) :
    Tidy q (railStop n st s) := by
  unfold railStop
  try dsimp only
  with_reducible repeat' first
    | (intro _) | assumption | apply tidy_railFlag | apply tidy_modRail | apply tidy_phasesTo | apply tidy_railPut
    | (simp only [tidy_mk]; apply tidy_back) | split | dsimp only

theorem tidy_softStop (q : List Instr) (n : Nat) (s : State) (h1 : Tidy q s) :
    Tidy q (softStop n s) := by
  unfold softStop
  try dsimp only
  with_reducible repeat' first
    | (intro _) | assumption | apply tidy_railFlag | apply tidy_railPut | apply tidy_modRail
    | (simp only [tidy_mk]; apply tidy_back) | split | dsimp only

theorem tidy_softStopGroup (q : List Instr) (s : State) (h1 : Tidy q s) :
    Tidy q (softStopGroup s) := by
  unfold softStopGroup
  try dsimp only
  with_reducible repeat' first
    | (intro _) | assumption | apply tidy_modTrw | apply tidy_railStop | apply tidy_softStop | apply tidy_ite
    | apply tidy_foldl | (simp only [tidy_mk]; apply tidy_back) | split | dsimp only

theorem tidy_softStopNext (q : List Instr) (s : State) (h1 : Tidy q s) :
    Tidy q (softStopNext s) := by
  unfold softStopNext
  try dsimp only
  with_reducible repeat' first
    | (intro _) | assumption | apply tidy_softStopGroup | apply tidy_foldl | (simp only [tidy_mk]; apply tidy_back)
    | split | dsimp only

theorem tidy_stopRails (q : List Instr) (s : State) (h1 : Tidy q s) :
    Tidy q (stopRails s) := by
  unfold stopRails
  try dsimp only
  with_reducible repeat' first
    | (intro _) | assumption | apply tidy_softStopNext | apply tidy_modTrw | (simp only [tidy_mk]; apply tidy_back)
    | split | dsimp only

theorem tidy_startFailed (q : List Instr) (step : Nat) (code : Nat) (src : Nat) (s : State) (h1 : Tidy q s) :
    Tidy q (startFailed step code src s) := by
  unfold startFailed
  try dsimp only
  with_reducible repeat' first
    | (intro _) | assumption | apply tidy_odSet | apply tidy_logEvent | (simp only [tidy_mk]; apply tidy_back) | split
    | dsimp only

theorem tidy_setModState (q : List Instr) (v : Nat) (s : State) (h1 : Tidy q s) :
    Tidy q (setModState v s) := by
  unfold setModState
  try dsimp only
  with_reducible repeat' first
    | (intro _) | assumption | apply tidy_laserUpdate | apply tidy_odSet | (simp only [tidy_mk]; apply tidy_back)
    | split | dsimp only

theorem tidy_primerAbort (q : List Instr) (s : State) (h1 : Tidy q s) :
    Tidy q (primerAbort s) := by
  unfold primerAbort
  try dsimp only
  with_reducible repeat' first
    | (intro _) | assumption | apply tidy_modFlt | apply tidy_odSet | apply tidy_setCapBit | apply tidy_ite
    | (simp only [tidy_mk]; apply tidy_back) | split | dsimp only

theorem tidy_mainLost (q : List Instr) (s0 : State) (h1 : Tidy q s0) :
    Tidy q (mainLost s0) := by
  unfold mainLost
  try dsimp only
  with_reducible repeat' first
    | (intro _) | assumption | apply tidy_primerAbort | apply tidy_toDisabled | apply tidy_modFlt | apply tidy_odBit
    | apply tidy_loseMemory | apply tidy_odSet | apply tidy_foldl | (simp only [tidy_mk]; apply tidy_back) | split
    | dsimp only

theorem tidy_mainDown (q : List Instr) (s : State) (h1 : Tidy q s) :
    Tidy q (mainDown s) := by
  unfold mainDown
  try dsimp only
  with_reducible repeat' first
    | (intro _) | assumption | apply tidy_mainLost | apply tidy_linkDown | apply tidy_hostReset
    | (simp only [tidy_mk]; apply tidy_back) | split | dsimp only

theorem tidy_faultStop (q : List Instr) (bad : List Nat) (src : Nat) (s : State) (h1 : Tidy q s) :
    Tidy q (faultStop bad src s) := by
  unfold faultStop
  try dsimp only
  with_reducible repeat' first
    | (intro _) | assumption | apply tidy_stopRails | apply tidy_railStop | apply tidy_logSimple | apply tidy_odSet
    | apply tidy_startFailed | apply tidy_emcyEvent | apply tidy_closeOpen | apply tidy_setModState
    | apply tidy_mainDown | apply tidy_ite | apply tidy_foldl | (simp only [tidy_mk]; apply tidy_back) | split
    | dsimp only

theorem tidy_railsOff (q : List Instr) (s : State) (h1 : Tidy q s) :
    Tidy q (railsOff s) := by
  unfold railsOff
  try dsimp only
  with_reducible repeat' first
    | (intro _) | assumption | apply tidy_railStop | apply tidy_modTrw | apply tidy_ite | apply tidy_foldl
    | (simp only [tidy_mk]; apply tidy_back) | split | dsimp only

theorem tidy_wTripTest (q : List Instr) (v : Nat) (failed : List Nat) (s : State) (h1 : Tidy q s) :
    Tidy q (wTripTest v failed s).2 := by
  unfold wTripTest
  try dsimp only
  with_reducible repeat' first
    | (intro _) | assumption | apply tidy_modFlt | apply tidy_logSimple | apply tidy_odSet | apply tidy_ite
    | apply tidy_snd_ite | (apply tidyPair_of; assumption) | apply tidy_foldl | (simp only [tidy_mk]; apply tidy_back)
    | split | dsimp only

theorem tidy_railFault (q : List Instr) (n : Nat) (s : State) (h1 : Tidy q s) :
    Tidy q (railFault n s) := by
  unfold railFault
  try dsimp only
  with_reducible repeat' first
    | (intro _) | assumption | apply tidy_faultStop | apply tidy_softStopNext | apply tidy_railStop | apply tidy_ite
    | (simp only [tidy_mk]; apply tidy_back) | split | dsimp only

theorem tidy_inputStop (q : List Instr) (s : State) (h1 : Tidy q s) :
    Tidy q (inputStop s) := by
  unfold inputStop
  try dsimp only
  with_reducible repeat' first
    | (intro _) | assumption | apply tidy_odSet | apply tidy_logSimple | apply tidy_odAdd32 | apply tidy_emcyEvent
    | apply tidy_closeOpen | apply tidy_setModState | apply tidy_mainDown | apply tidy_railsOff | apply tidy_ite
    | (simp only [tidy_mk]; apply tidy_back) | split | dsimp only

theorem tidy_inputOut (q : List Instr) (s : State) (h1 : Tidy q s) :
    Tidy q (inputOut s) := by
  unfold inputOut
  try dsimp only
  with_reducible repeat' first
    | (intro _) | assumption | apply tidy_inputStop | (simp only [tidy_mk]; apply tidy_back) | split | dsimp only

theorem tidy_startFail (q : List Instr) (code : Nat) (src : Nat) (s : State) (h1 : Tidy q s) :
    Tidy q (startFail code src s) := by
  unfold startFail
  try dsimp only
  with_reducible repeat' first
    | (intro _) | assumption | apply tidy_closeOpen | apply tidy_setModState | apply tidy_mainDown
    | apply tidy_stopRails | apply tidy_odSet | apply tidy_startFailed | (simp only [tidy_mk]; apply tidy_back)
    | split | dsimp only

theorem tidy_tripRails (q : List Instr) (s : State) (h1 : Tidy q s) :
    Tidy q (tripRails s) := by
  unfold tripRails
  try dsimp only
  with_reducible repeat' first
    | (intro _) | assumption | apply tidy_railFlag | apply tidy_railStop | apply tidy_modTrw | apply tidy_foldl
    | (simp only [tidy_mk]; apply tidy_back) | split | dsimp only

theorem tidy_thermalTrip (q : List Instr) (n : Nat) (s : State) (h1 : Tidy q s) :
    Tidy q (thermalTrip n s) := by
  unfold thermalTrip
  try dsimp only
  with_reducible repeat' first
    | (intro _) | assumption | apply tidy_odSet | apply tidy_logSimple | apply tidy_tripRails | apply tidy_emcyRaise
    | apply tidy_closeOpen | apply tidy_setModState | apply tidy_mainDown | apply tidy_ite
    | (simp only [tidy_mk]; apply tidy_back) | split | dsimp only

theorem tidy_thermalTrips (q : List Instr) (ns : List Nat) (s : State) (h1 : Tidy q s) :
    Tidy q (thermalTrips ns s) := by
  unfold thermalTrips
  try dsimp only
  with_reducible repeat' first
    | (intro _) | assumption | apply tidy_thermalTrip | apply tidy_ite | (simp only [tidy_mk]; apply tidy_back)
    | split | dsimp only

theorem tidy_setBankValid (q : List Instr) (b : Nat) (v : Bool) (s : State) (h1 : Tidy q s) :
    Tidy q (setBankValid b v s) := by
  unfold setBankValid
  try dsimp only
  with_reducible repeat' first
    | (intro _) | assumption | apply tidy_odBit | (simp only [tidy_mk]; apply tidy_back) | split | dsimp only

theorem tidy_setInactive (q : List Instr) (a : Nat) (b : Nat) (s : State) (h1 : Tidy q s) :
    Tidy q (setInactive a b s) := by
  unfold setInactive
  try dsimp only
  with_reducible repeat' first
    | (intro _) | assumption | apply tidy_odSet | (simp only [tidy_mk]; apply tidy_back) | split | dsimp only

theorem tidy_wGainImage (q : List Instr) (bs : List Byte) (s : State) (h1 : Tidy q s) :
    Tidy q (wGainImage bs s).2 := by
  unfold wGainImage
  try dsimp only
  with_reducible repeat' first
    | (intro _) | assumption | apply tidy_modTrw | apply tidy_setBankValid | apply tidy_setInactive | apply tidy_odSet
    | apply tidy_ite | apply tidy_snd_ite | (apply tidyPair_of; assumption) | (simp only [tidy_mk]; apply tidy_back)
    | split | dsimp only

theorem tidy_wVset (q : List Instr) (n : Nat) (v : Nat) (s : State) (h1 : Tidy q s) :
    Tidy q (wVset n v s).2 := by
  unfold wVset
  try dsimp only
  with_reducible repeat' first
    | (intro _) | assumption | apply tidy_railFlag | apply tidy_modRail | apply tidy_railPut | apply tidy_ite
    | apply tidy_snd_ite | (apply tidyPair_of; assumption) | (simp only [tidy_mk]; apply tidy_back) | split
    | dsimp only

theorem tidy_wPeakClear (q : List Instr) (n : Nat) (v : Nat) (s : State) (h1 : Tidy q s) :
    Tidy q (wPeakClear n v s).2 := by
  unfold wPeakClear
  try dsimp only
  with_reducible repeat' first
    | (intro _) | assumption | apply tidy_modRail | apply tidy_railPut | apply tidy_ite | apply tidy_snd_ite
    | (apply tidyPair_of; assumption) | apply tidy_foldl | (simp only [tidy_mk]; apply tidy_back) | split | dsimp only

theorem tidy_wSlewLimit (q : List Instr) (d : Nat) (v : Nat) (s : State) (h1 : Tidy q s) :
    Tidy q (wSlewLimit d v s).2 := by
  unfold wSlewLimit
  try dsimp only
  with_reducible repeat' first
    | (intro _) | assumption | apply tidy_odSet | apply tidy_ite | apply tidy_snd_ite
    | (apply tidyPair_of; assumption) | (simp only [tidy_mk]; apply tidy_back) | split | dsimp only

theorem tidy_gainResult (q : List Instr) (code : Nat) (detail : Nat) (s : State) (h1 : Tidy q s) :
    Tidy q (gainResult code detail s) := by
  unfold gainResult
  try dsimp only
  with_reducible repeat' first
    | (intro _) | assumption | apply tidy_odSet | (simp only [tidy_mk]; apply tidy_back) | split | dsimp only

theorem tidy_wGainCommit (q : List Instr) (b : Nat) (s : State) (h1 : Tidy q s) :
    Tidy q (wGainCommit b s).2 := by
  unfold wGainCommit
  try dsimp only
  with_reducible repeat' first
    | (intro _) | assumption | apply tidy_setInactive | apply tidy_setBankValid | apply tidy_gainResult
    | apply tidy_ite | apply tidy_snd_ite | (apply tidyPair_of; assumption) | (simp only [tidy_mk]; apply tidy_back)
    | split | dsimp only

theorem tidy_wGainSwap (q : List Instr) (v : Nat) (s : State) (h1 : Tidy q s) :
    Tidy q (wGainSwap v s).2 := by
  unfold wGainSwap
  try dsimp only
  with_reducible repeat' first
    | (intro _) | assumption | apply tidy_modTrw | apply tidy_ite | apply tidy_snd_ite
    | (apply tidyPair_of; assumption) | (simp only [tidy_mk]; apply tidy_back) | split | dsimp only

theorem tidy_swapBanks (q : List Instr) (s : State) (h1 : Tidy q s) :
    Tidy q (swapBanks s) := by
  unfold swapBanks
  try dsimp only
  with_reducible repeat' first
    | (intro _) | assumption | apply tidy_setInactive | apply tidy_odSet | apply tidy_modTrw | apply tidy_logEvent
    | (simp only [tidy_mk]; apply tidy_back) | split | dsimp only

theorem tidy_nmtBoot (q : List Instr) (auto : Bool) (s : State) (h1 : Tidy q s) :
    Tidy q (nmtBoot auto s) := by
  unfold nmtBoot
  try dsimp only
  with_reducible repeat' first
    | (intro _) | assumption | apply tidy_canSend | apply tidy_odSet | apply tidy_ite
    | (simp only [tidy_mk]; apply tidy_back) | split | dsimp only

theorem tidy_coldProfile (q : List Instr) (n : Nat) (s : State) (h1 : Tidy q s) :
    Tidy q (coldProfile n s) := by
  unfold coldProfile
  try dsimp only
  with_reducible repeat' first
    | (intro _) | assumption | apply tidy_odSet | apply tidy_logEvent | apply tidy_ite | apply tidy_foldl
    | (simp only [tidy_mk]; apply tidy_back) | split | dsimp only

theorem tidy_profLost (q : List Instr) (n : Nat) (s : State) (h1 : Tidy q s) :
    Tidy q (profLost n s) := by
  unfold profLost
  try dsimp only
  with_reducible repeat' first
    | (intro _) | assumption | apply tidy_logEvent | (simp only [tidy_mk]; apply tidy_back) | split | dsimp only

theorem tidy_showPending (q : List Instr) (s : State) (h1 : Tidy q s) :
    Tidy q (showPending s) := by
  unfold showPending
  try dsimp only
  with_reducible repeat' first
    | (intro _) | assumption | apply tidy_odSet | (simp only [tidy_mk]; apply tidy_back) | split | dsimp only

theorem tidy_putFields (q : List Instr) (n : Nat) (ks : List Nat) (s : State) (h1 : Tidy q s) :
    Tidy q (putFields n ks s) := by
  unfold putFields
  try dsimp only
  with_reducible repeat' first
    | (intro _) | assumption | apply tidy_odSet | apply tidy_foldl | (simp only [tidy_mk]; apply tidy_back) | split
    | dsimp only

theorem tidy_wProfile (q : List Instr) (n : Nat) (s : State) (h1 : Tidy q s) :
    Tidy q (wProfile n s).2 := by
  unfold wProfile
  try dsimp only
  with_reducible repeat' first
    | (intro _) | assumption | apply tidy_showPending | apply tidy_odSet | apply tidy_putFields
    | (apply tidyPair_of; assumption) | (simp only [tidy_mk]; apply tidy_back) | split | dsimp only

theorem tidy_wProfSave (q : List Instr) (path : Nat) (n : Nat) (s : State) (h1 : Tidy q s) :
    Tidy q (wProfSave path n s).2 := by
  unfold wProfSave
  try dsimp only
  with_reducible repeat' first
    | (intro _) | assumption | apply tidy_ite | apply tidy_snd_ite | (apply tidyPair_of; assumption)
    | apply tidy_foldl | (simp only [tidy_mk]; apply tidy_back) | split | dsimp only

theorem tidy_wProfFactory (q : List Instr) (path : Nat) (n : Nat) (s : State) (h1 : Tidy q s) :
    Tidy q (wProfFactory path n s).2 := by
  unfold wProfFactory
  try dsimp only
  with_reducible repeat' first
    | (intro _) | assumption | apply tidy_ite | apply tidy_snd_ite | (apply tidyPair_of; assumption)
    | (simp only [tidy_mk]; apply tidy_back) | split | dsimp only

theorem tidy_flashDone (q : List Instr) (s : State) (h1 : Tidy q s) :
    Tidy q (flashDone s) := by
  unfold flashDone
  try dsimp only
  with_reducible repeat' first
    | (intro _) | assumption | apply tidy_tell | apply tidy_showPending | apply tidy_ite
    | (simp only [tidy_mk]; apply tidy_back) | split | dsimp only

theorem tidy_flashWrite (q : List Instr) (path : Nat) (k : Nat) (v : Nat) (eff : State → Nat × State) (s : State) (hf
    : ∀ x0, Tidy q x0 → Tidy q (eff x0).2) (h1 : Tidy q s) :
    Tidy q (flashWrite path k v eff s) := by
  unfold flashWrite
  try dsimp only
  with_reducible repeat' first
    | (intro _) | assumption | apply tidy_odTry | apply tidy_tell | apply tidy_ite | (apply tidyPair_of; assumption)
    | (simp only [tidy_mk]; apply tidy_back) | split | apply_assumption | dsimp only

theorem tidy_addrHit (q : List Instr) (t : Nat) (s : State) (h1 : Tidy q s) :
    Tidy q (addrHit t s) := by
  unfold addrHit
  try dsimp only
  with_reducible repeat' first
    | (intro _) | assumption | apply tidy_brkHit | apply tidy_setTile | apply tidy_ite
    | (simp only [tidy_mk]; apply tidy_back) | split | dsimp only

theorem tidy_ageWatch (q : List Instr) (s : State) (h1 : Tidy q s) :
    Tidy q (ageWatch s) := by
  unfold ageWatch
  try dsimp only
  with_reducible repeat' first
    | (intro _) | assumption | apply tidy_switchSat | apply tidy_stepSat | apply tidy_tileSat | apply tidy_foldl
    | (simp only [tidy_mk]; apply tidy_back) | split | dsimp only

theorem tidy_modTim (q : List Instr) (f : TimeSt → TimeSt) (s : State) (h1 : Tidy q s) :
    Tidy q (modTim f s) := by
  unfold modTim
  try dsimp only
  with_reducible repeat' first
    | (intro _) | assumption | (simp only [tidy_mk]; apply tidy_back) | split | apply_assumption | dsimp only

theorem tidy_alignWindowEnd (q : List Instr) (s : State) (h1 : Tidy q s) :
    Tidy q (alignWindowEnd s) := by
  unfold alignWindowEnd
  try dsimp only
  with_reducible repeat' first
    | (intro _) | assumption | apply tidy_modTim | apply tidy_ite | (simp only [tidy_mk]; apply tidy_back) | split
    | dsimp only

theorem tidy_aligned (q : List Instr) (step : Int) (port : Nat) (depth : Nat) (s : State) (h1 : Tidy q s) :
    Tidy q (aligned step port depth s) := by
  unfold aligned
  try dsimp only
  with_reducible repeat' first
    | (intro _) | assumption | apply tidy_modFlt | apply tidy_modTim | apply tidy_odSet | apply tidy_odBit
    | apply tidy_traceAlways | apply tidy_logEvent | (simp only [tidy_mk]; apply tidy_back) | split | dsimp only

theorem tidy_refLoss (q : List Instr) (s : State) (h1 : Tidy q s) :
    Tidy q (refLoss s) := by
  unfold refLoss
  try dsimp only
  with_reducible repeat' first
    | (intro _) | assumption | apply tidy_modTim | apply tidy_logSimple | apply tidy_odBit | apply tidy_ite
    | (simp only [tidy_mk]; apply tidy_back) | split | dsimp only

theorem tidy_breakDone (q : List Instr) (b : BreakSt) (s : State) (h1 : Tidy q s) :
    Tidy q (breakDone b s) := by
  unfold breakDone
  try dsimp only
  with_reducible repeat' first
    | (intro _) | assumption | apply tidy_freezeSource | apply tidy_trace | apply tidy_odSet
    | (simp only [tidy_mk]; apply tidy_back) | split | dsimp only

theorem tidy_traceEmpty (q : List Instr) (s : State) (h1 : Tidy q s) :
    Tidy q (traceEmpty s) := by
  unfold traceEmpty
  try dsimp only
  with_reducible repeat' first
    | (intro _) | assumption | apply tidy_odClear | apply tidy_odSet | apply tidy_foldl
    | (simp only [tidy_mk]; apply tidy_back) | split | dsimp only

theorem tidy_clearDiag (q : List Instr) (s : State) (h1 : Tidy q s) :
    Tidy q (clearDiag s) := by
  unfold clearDiag
  try dsimp only
  with_reducible repeat' first
    | (intro _) | assumption | apply tidy_traceEmpty | apply tidy_odClear | apply tidy_foldl
    | (simp only [tidy_mk]; apply tidy_back) | split | dsimp only

theorem tidy_clearTenant (q : List Instr) (s : State) (h1 : Tidy q s) :
    Tidy q (clearTenant s) := by
  unfold clearTenant
  try dsimp only
  with_reducible repeat' first
    | (intro _) | assumption | apply tidy_modFlt | (simp only [tidy_mk]; apply tidy_back) | split | dsimp only

theorem tidy_drainComplete (q : List Instr) (s : State) (h1 : Tidy q s) :
    Tidy q (drainComplete s) := by
  unfold drainComplete
  try dsimp only
  with_reducible repeat' first
    | (intro _) | assumption | apply tidy_breakDone | apply tidy_ite | (simp only [tidy_mk]; apply tidy_back) | split
    | dsimp only

theorem tidy_drainLate (q : List Instr) (s : State) (h1 : Tidy q s) :
    Tidy q (drainLate s) := by
  unfold drainLate
  try dsimp only
  with_reducible repeat' first
    | (intro _) | assumption | apply tidy_afterRun | apply tidy_dropBreak | apply tidy_undefineAll
    | apply tidy_stopGraph | apply tidy_ite | (simp only [tidy_mk]; apply tidy_back) | split | dsimp only

theorem tidy_wBrkAddr (q : List Instr) (i : Nat) (v : Nat) (s : State) (h1 : Tidy q s) :
    Tidy q (wBrkAddr i v s).2 := by
  unfold wBrkAddr
  try dsimp only
  with_reducible repeat' first
    | (intro _) | assumption | apply tidy_odSet | apply tidy_ite | apply tidy_snd_ite
    | (apply tidyPair_of; assumption) | (simp only [tidy_mk]; apply tidy_back) | split | dsimp only

theorem tidy_wOpc (q : List Instr) (i : Nat) (v : Nat) (s : State) (h1 : Tidy q s) :
    Tidy q (wOpc i v s).2 := by
  unfold wOpc
  try dsimp only
  with_reducible repeat' first
    | (intro _) | assumption | apply tidy_modFlt | apply tidy_odSet | (apply tidyPair_of; assumption)
    | (simp only [tidy_mk]; apply tidy_back) | split | dsimp only

theorem tidy_wTimeRef (q : List Instr) (v : Nat) (s : State) (h1 : Tidy q s) :
    Tidy q (wTimeRef v s).2 := by
  unfold wTimeRef
  try dsimp only
  with_reducible repeat' first
    | (intro _) | assumption | apply tidy_odSet | apply tidy_ite | apply tidy_snd_ite
    | (apply tidyPair_of; assumption) | (simp only [tidy_mk]; apply tidy_back) | split | dsimp only

theorem tidy_wTraceCtl (q : List Instr) (v : Nat) (s : State) (h1 : Tidy q s) :
    Tidy q (wTraceCtl v s).2 := by
  unfold wTraceCtl
  try dsimp only
  with_reducible repeat' first
    | (intro _) | assumption | apply tidy_odSet | apply tidy_ite | apply tidy_snd_ite
    | (apply tidyPair_of; assumption) | (simp only [tidy_mk]; apply tidy_back) | split | dsimp only

theorem tidy_wTraceArm (q : List Instr) (v : Nat) (s : State) (h1 : Tidy q s) :
    Tidy q (wTraceArm v s).2 := by
  unfold wTraceArm
  try dsimp only
  with_reducible repeat' first
    | (intro _) | assumption | apply tidy_odSet | apply tidy_traceEmpty | apply tidy_ite | apply tidy_snd_ite
    | (apply tidyPair_of; assumption) | (simp only [tidy_mk]; apply tidy_back) | split | dsimp only

theorem tidy_traceStop (q : List Instr) (s : State) (h1 : Tidy q s) :
    Tidy q (traceStop s) := by
  unfold traceStop
  try dsimp only
  with_reducible repeat' first
    | (intro _) | assumption | apply tidy_odSet | apply tidy_ite | (simp only [tidy_mk]; apply tidy_back) | split
    | dsimp only

theorem tidy_wTraceStop (q : List Instr) (v : Nat) (s : State) (h1 : Tidy q s) :
    Tidy q (wTraceStop v s).2 := by
  unfold wTraceStop
  try dsimp only
  with_reducible repeat' first
    | (intro _) | assumption | apply tidy_traceStop | apply tidy_ite | apply tidy_snd_ite
    | (apply tidyPair_of; assumption) | (simp only [tidy_mk]; apply tidy_back) | split | dsimp only

theorem tidy_wTraceTrigger (q : List Instr) (v : Nat) (s : State) (h1 : Tidy q s) :
    Tidy q (wTraceTrigger v s).2 := by
  unfold wTraceTrigger
  try dsimp only
  with_reducible repeat' first
    | (intro _) | assumption | apply tidy_traceEvent | apply tidy_ite | apply tidy_snd_ite
    | (apply tidyPair_of; assumption) | (simp only [tidy_mk]; apply tidy_back) | split | dsimp only

theorem tidy_wTraceOffset (q : List Instr) (v : Nat) (s : State) (h1 : Tidy q s) :
    Tidy q (wTraceOffset v s).2 := by
  unfold wTraceOffset
  try dsimp only
  with_reducible repeat' first
    | (intro _) | assumption | apply tidy_odSet | apply tidy_ite | apply tidy_snd_ite
    | (apply tidyPair_of; assumption) | (simp only [tidy_mk]; apply tidy_back) | split | dsimp only

theorem tidy_resume (q : List Instr) (b : BreakSt) (s : State) (h1 : Tidy q s) :
    Tidy q (resume b s) := by
  unfold resume
  try dsimp only
  with_reducible repeat' first
    | (intro _) | assumption | apply tidy_dropBreak | apply tidy_runReported | apply tidy_raiseReq
    | apply tidy_endFiller | apply tidy_ite | apply tidy_foldl | (simp only [tidy_mk]; apply tidy_back) | split
    | dsimp only

theorem tidy_wBrkResume (q : List Instr) (v : Nat) (s : State) (h1 : Tidy q s) :
    Tidy q (wBrkResume v s).2 := by
  unfold wBrkResume
  try dsimp only
  with_reducible repeat' first
    | (intro _) | assumption | apply tidy_resume | apply tidy_ite | apply tidy_snd_ite
    | (apply tidyPair_of; assumption) | (simp only [tidy_mk]; apply tidy_back) | split | dsimp only

theorem tidy_wfgStart (q : List Instr) (h : Nat) (hang : Bool) (s : State) (h1 : Tidy q s) :
    Tidy q (wfgStart h hang s) := by
  unfold wfgStart
  try dsimp only
  with_reducible repeat' first
    | (intro _) | assumption | apply tidy_odSet | (simp only [tidy_mk]; apply tidy_back) | split | dsimp only

theorem tidy_wWfgRequest (q : List Instr) (h : Nat) (s : State) (h1 : Tidy q s) :
    Tidy q (wWfgRequest h s).2 := by
  unfold wWfgRequest
  try dsimp only
  with_reducible repeat' first
    | (intro _) | assumption | apply tidy_wfgStart | apply tidy_ite | apply tidy_snd_ite
    | (apply tidyPair_of; assumption) | (simp only [tidy_mk]; apply tidy_back) | split | dsimp only

theorem tidy_wFreezeNow (q : List Instr) (v : Nat) (s : State) (h1 : Tidy q s) :
    Tidy q (wFreezeNow v s).2 := by
  unfold wFreezeNow
  try dsimp only
  with_reducible repeat' first
    | (intro _) | assumption | apply tidy_freeze | apply tidy_ite | apply tidy_snd_ite
    | (apply tidyPair_of; assumption) | (simp only [tidy_mk]; apply tidy_back) | split | dsimp only

theorem tidy_wFreezeAt (q : List Instr) (v : Nat) (s : State) (h1 : Tidy q s) :
    Tidy q (wFreezeAt v s).2 := by
  unfold wFreezeAt
  try dsimp only
  with_reducible repeat' first
    | (intro _) | assumption | apply tidy_odSet | apply tidy_freeze | apply tidy_ite | apply tidy_snd_ite
    | (apply tidyPair_of; assumption) | (simp only [tidy_mk]; apply tidy_back) | split | dsimp only

theorem tidy_wFreezeRelease (q : List Instr) (v : Nat) (s : State) (h1 : Tidy q s) :
    Tidy q (wFreezeRelease v s).2 := by
  unfold wFreezeRelease
  try dsimp only
  with_reducible repeat' first
    | (intro _) | assumption | apply tidy_odSet | apply tidy_ite | apply tidy_snd_ite
    | (apply tidyPair_of; assumption) | (simp only [tidy_mk]; apply tidy_back) | split | dsimp only

theorem tidy_freezeReached (q : List Instr) (s : State) (h1 : Tidy q s) :
    Tidy q (freezeReached s) := by
  unfold freezeReached
  try dsimp only
  with_reducible repeat' first
    | (intro _) | assumption | apply tidy_freeze | apply tidy_ite | (simp only [tidy_mk]; apply tidy_back) | split
    | dsimp only

theorem tidy_hang (q : List Instr) (h : Nat) (s : State) (h1 : Tidy q s) :
    Tidy q (hang h s) := by
  unfold hang
  try dsimp only
  with_reducible repeat' first
    | (intro _) | assumption | apply tidy_odSet | apply tidy_odAdd32 | apply tidy_modRunG | apply tidy_logEvent
    | apply tidy_freezeSource | apply tidy_traceEvent | apply tidy_wfgStart | apply tidy_ite
    | (simp only [tidy_mk]; apply tidy_back) | split | dsimp only

theorem tidy_timeTick (q : List Instr) (s : State) (h1 : Tidy q s) :
    Tidy q (timeTick s) := by
  unfold timeTick
  try dsimp only
  with_reducible repeat' first
    | (intro _) | assumption | apply tidy_modTim | (simp only [tidy_mk]; apply tidy_back) | split | dsimp only

theorem tidy_idleTick (q : List Instr) (s : State) (h1 : Tidy q s) :
    Tidy q (idleTick s) := by
  unfold idleTick
  try dsimp only
  with_reducible repeat' first
    | (intro _) | assumption | apply tidy_timeTick | apply tidy_traceMoves | apply tidy_pumpAll | apply tidy_ageWatch
    | apply tidy_ite | (simp only [tidy_mk]; apply tidy_back) | split | dsimp only

theorem tidy_refRelock (q : List Instr) (s : State) (h1 : Tidy q s) :
    Tidy q (refRelock s) := by
  unfold refRelock
  try dsimp only
  with_reducible repeat' first
    | (intro _) | assumption | apply tidy_odSet | apply tidy_modTim | apply tidy_odBit | apply tidy_ite
    | (simp only [tidy_mk]; apply tidy_back) | split | dsimp only

theorem tidy_takeUpBreak (q : List Instr) (s : State) (h1 : Tidy q s) :
    Tidy q (takeUpBreak s) := by
  unfold takeUpBreak
  try dsimp only
  with_reducible repeat' first
    | (intro _) | assumption | apply tidy_odSet | apply tidy_breakDone | apply tidy_ite
    | (simp only [tidy_mk]; apply tidy_back) | split | dsimp only

theorem tidy_timeAlign (q : List Instr) (s : State) (h1 : Tidy q s) :
    Tidy q (timeAlign s) := by
  unfold timeAlign
  try dsimp only
  with_reducible repeat' first
    | (intro _) | assumption | apply tidy_aligned | apply tidy_ite | (simp only [tidy_mk]; apply tidy_back) | split
    | dsimp only

theorem tidy_traceFilled (q : List Instr) (s : State) (h1 : Tidy q s) :
    Tidy q (traceFilled s) := by
  unfold traceFilled
  try dsimp only
  with_reducible repeat' first
    | (intro _) | assumption | apply tidy_traceStop | apply tidy_ite | (simp only [tidy_mk]; apply tidy_back) | split
    | dsimp only

theorem tidy_tracePostDone (q : List Instr) (s : State) (h1 : Tidy q s) :
    Tidy q (tracePostDone s) := by
  unfold tracePostDone
  try dsimp only
  with_reducible repeat' first
    | (intro _) | assumption | apply tidy_traceStop | apply tidy_ite | (simp only [tidy_mk]; apply tidy_back) | split
    | dsimp only

theorem tidy_traceRead (q : List Instr) (path : Nat) (s : State) (h1 : Tidy q s) :
    Tidy q (traceRead path s) := by
  unfold traceRead
  try dsimp only
  with_reducible repeat' first
    | (intro _) | assumption | apply tidy_tell | apply tidy_emit | apply tidy_ite
    | (simp only [tidy_mk]; apply tidy_back) | split | dsimp only

theorem tidy_wfgSecond (q : List Instr) (s : State) (h1 : Tidy q s) :
    Tidy q (wfgSecond s) := by
  unfold wfgSecond
  try dsimp only
  with_reducible repeat' first
    | (intro _) | assumption | apply tidy_odSet | (simp only [tidy_mk]; apply tidy_back) | split | dsimp only

theorem tidy_setCore (q : List Instr) (c : Nat) (v : Nat) (s : State) (h1 : Tidy q s) :
    Tidy q (setCore c v s) := by
  unfold setCore
  try dsimp only
  with_reducible repeat' first
    | (intro _) | assumption | apply tidy_odSet | (simp only [tidy_mk]; apply tidy_back) | split | dsimp only

theorem tidy_modSec (q : List Instr) (f : SecSt → SecSt) (s : State) (h1 : Tidy q s) :
    Tidy q (modSec f s) := by
  unfold modSec
  try dsimp only
  with_reducible repeat' first
    | (intro _) | assumption | (simp only [tidy_mk]; apply tidy_back) | split | apply_assumption | dsimp only

theorem tidy_bootRecords (q : List Instr) (s : State) (h1 : Tidy q s) :
    Tidy q (bootRecords s) := by
  unfold bootRecords
  try dsimp only
  with_reducible repeat' first
    | (intro _) | assumption | apply tidy_modSec | (simp only [tidy_mk]; apply tidy_back) | split | dsimp only

theorem tidy_ownBy (q : List Instr) (c : Nat) (v : Nat) (s : State) (h1 : Tidy q s) :
    Tidy q (ownBy c v s) := by
  unfold ownBy
  try dsimp only
  with_reducible repeat' first
    | (intro _) | assumption | apply tidy_odSet | apply tidy_setCore | (simp only [tidy_mk]; apply tidy_back) | split
    | dsimp only

theorem tidy_runSlot (q : List Instr) (k : Nat) (bad : Nat) (s : State) (h1 : Tidy q s) :
    Tidy q (runSlot k bad s) := by
  unfold runSlot
  try dsimp only
  with_reducible repeat' first
    | (intro _) | assumption | apply tidy_modSec | apply tidy_odSet | (simp only [tidy_mk]; apply tidy_back) | split
    | dsimp only

theorem tidy_bootCores (q : List Instr) (b : BootIn) (s : State) (h1 : Tidy q s) :
    Tidy q (bootCores b s) := by
  unfold bootCores
  try dsimp only
  with_reducible repeat' first
    | (intro _) | assumption | apply tidy_odSet | apply tidy_modSec | apply tidy_bootRecords | apply tidy_setCore
    | apply tidy_ownBy | apply tidy_runSlot | apply tidy_logEvent | apply tidy_nmtBoot | apply tidy_coldProfile
    | apply tidy_ite | (simp only [tidy_mk]; apply tidy_back) | split | dsimp only

theorem tidy_spdmSend (q : List Instr) (tr : Nat) (bs : List Byte) (s : State) (h1 : Tidy q s) :
    Tidy q (spdmSend tr bs s) := by
  unfold spdmSend
  try dsimp only
  with_reducible repeat' first
    | (intro _) | assumption | apply tidy_emit | apply tidy_ite | (simp only [tidy_mk]; apply tidy_back) | split
    | dsimp only

theorem tidy_spdmError (q : List Instr) (tr : Nat) (code : Nat) (s : State) (h1 : Tidy q s) :
    Tidy q (spdmError tr code s) := by
  unfold spdmError
  try dsimp only
  with_reducible repeat' first
    | (intro _) | assumption | apply tidy_spdmSend | (simp only [tidy_mk]; apply tidy_back) | split | dsimp only

theorem tidy_certSet (q : List Instr) (tr : Nat) (chain : List Byte) (ok : Bool) (anchor : List Byte) (s : State) (h1
    : Tidy q s) :
    Tidy q (certSet tr chain ok anchor s) := by
  unfold certSet
  try dsimp only
  with_reducible repeat' first
    | (intro _) | assumption | apply tidy_spdmError | apply tidy_modSec | apply tidy_spdmSend | apply tidy_logSimple
    | apply tidy_ite | (simp only [tidy_mk]; apply tidy_back) | split | dsimp only

theorem tidy_commitDone (q : List Instr) (cert : Bool) (sig : Bool) (digest : Bool) (s : State) (h1 : Tidy q s) :
    Tidy q (commitDone cert sig digest s) := by
  unfold commitDone
  try dsimp only
  with_reducible repeat' first
    | (intro _) | assumption | apply tidy_odSet | apply tidy_modSec | apply tidy_logEvent | apply tidy_ite
    | (simp only [tidy_mk]; apply tidy_back) | split | dsimp only

theorem tidy_vendorSend (q : List Instr) (tr : Nat) (cmd : Nat) (code : Nat) (fields : List Byte) (s : State) (h1 :
    Tidy q s) :
    Tidy q (vendorSend tr cmd code fields s) := by
  unfold vendorSend
  try dsimp only
  with_reducible repeat' first
    | (intro _) | assumption | apply tidy_spdmSend | (simp only [tidy_mk]; apply tidy_back) | split | dsimp only

theorem tidy_contextClear (q : List Instr) (tr : Nat) (ctx : Nat) (rsv : Nat) (s : State) (h1 : Tidy q s) :
    Tidy q (contextClear tr ctx rsv s) := by
  unfold contextClear
  try dsimp only
  with_reducible repeat' first
    | (intro _) | assumption | apply tidy_setCtx | apply tidy_vendorSend | apply tidy_ite
    | (simp only [tidy_mk]; apply tidy_back) | split | dsimp only

theorem tidy_ctxAnswer (q : List Instr) (tr : Nat) (code : Nat) (r : CtxReq) (s : State) (h1 : Tidy q s) :
    Tidy q (ctxAnswer tr code r s) := by
  unfold ctxAnswer
  try dsimp only
  with_reducible repeat' first
    | (intro _) | assumption | apply tidy_vendorSend | (simp only [tidy_mk]; apply tidy_back) | split | dsimp only

theorem tidy_contextKeyed (q : List Instr) (tr : Nat) (r : CtxReq) (s : State) (h1 : Tidy q s) :
    Tidy q (contextKeyed tr r s) := by
  unfold contextKeyed
  try dsimp only
  with_reducible repeat' first
    | (intro _) | assumption | apply tidy_ctxAnswer | apply tidy_setCtx | apply tidy_ite
    | (simp only [tidy_mk]; apply tidy_back) | split | dsimp only

theorem tidy_contextSet (q : List Instr) (tr : Nat) (r : CtxReq) (s : State) (h1 : Tidy q s) :
    Tidy q (contextSet tr r s) := by
  unfold contextSet
  try dsimp only
  with_reducible repeat' first
    | (intro _) | assumption | apply tidy_ctxAnswer | apply tidy_secAdd | apply tidy_ite
    | (simp only [tidy_mk]; apply tidy_back) | split | dsimp only

theorem tidy_dikDone (q : List Instr) (s : State) (h1 : Tidy q s) :
    Tidy q (dikDone s) := by
  unfold dikDone
  try dsimp only
  with_reducible repeat' first
    | (intro _) | assumption | apply tidy_modSec | apply tidy_ite | (simp only [tidy_mk]; apply tidy_back) | split
    | dsimp only

theorem tidy_setConn (q : List Instr) (tr : Nat) (c : ConnSt) (s : State) (h1 : Tidy q s) :
    Tidy q (setConn tr c s) := by
  unfold setConn
  try dsimp only
  with_reducible repeat' first
    | (intro _) | assumption | apply tidy_modSec | (simp only [tidy_mk]; apply tidy_back) | split | dsimp only

theorem tidy_spdmVersion (q : List Instr) (tr : Nat) (s : State) (h1 : Tidy q s) :
    Tidy q (spdmVersion tr s) := by
  unfold spdmVersion
  try dsimp only
  with_reducible repeat' first
    | (intro _) | assumption | apply tidy_spdmSend | apply tidy_setConn | apply tidy_ite
    | (simp only [tidy_mk]; apply tidy_back) | split | dsimp only

theorem tidy_spdmDo (q : List Instr) (tr : Nat) (need : Nat) (f : State → State) (s : State) (hf : ∀ x0, Tidy q x0 →
    Tidy q (f x0)) (h1 : Tidy q s) :
    Tidy q (spdmDo tr need f s) := by
  unfold spdmDo
  try dsimp only
  with_reducible repeat' first
    | (intro _) | assumption | apply tidy_spdmError | apply tidy_ite | (simp only [tidy_mk]; apply tidy_back) | split
    | apply_assumption | dsimp only

theorem tidy_spdmCaps (q : List Instr) (tr : Nat) (s : State) (h1 : Tidy q s) :
    Tidy q (spdmCaps tr s) := by
  unfold spdmCaps
  try dsimp only
  with_reducible repeat' first
    | (intro _) | assumption | apply tidy_spdmSend | apply tidy_setConn | (simp only [tidy_mk]; apply tidy_back)
    | split | dsimp only

theorem tidy_spdmAlgs (q : List Instr) (tr : Nat) (asym : Nat) (hash : Nat) (mhash : Nat) (s : State) (h1 : Tidy q s)
    :
    Tidy q (spdmAlgs tr asym hash mhash s) := by
  unfold spdmAlgs
  try dsimp only
  with_reducible repeat' first
    | (intro _) | assumption | apply tidy_spdmSend | apply tidy_setConn | apply tidy_spdmError | apply tidy_ite
    | (simp only [tidy_mk]; apply tidy_back) | split | dsimp only

theorem tidy_spdmDigests (q : List Instr) (tr : Nat) (s : State) (h1 : Tidy q s) :
    Tidy q (spdmDigests tr s) := by
  unfold spdmDigests
  try dsimp only
  with_reducible repeat' first
    | (intro _) | assumption | apply tidy_spdmSend | (simp only [tidy_mk]; apply tidy_back) | split | dsimp only

theorem tidy_spdmCert (q : List Instr) (tr : Nat) (slot : Nat) (off : Nat) (len : Nat) (s : State) (h1 : Tidy q s) :
    Tidy q (spdmCert tr slot off len s) := by
  unfold spdmCert
  try dsimp only
  with_reducible repeat' first
    | (intro _) | assumption | apply tidy_spdmError | apply tidy_spdmSend | apply tidy_ite
    | (simp only [tidy_mk]; apply tidy_back) | split | dsimp only

theorem tidy_spdmSign (q : List Instr) (tr : Nat) (req : List Byte) (body : List Byte) (a3 : Option (List Byte × List
    Byte)) (s : State) (h1 : Tidy q s) :
    Tidy q (spdmSign tr req body a3 s) := by
  unfold spdmSign
  try dsimp only
  with_reducible repeat' first
    | (intro _) | assumption | apply tidy_secAdd | apply tidy_spdmError | apply tidy_ite
    | (simp only [tidy_mk]; apply tidy_back) | split | dsimp only

theorem tidy_spdmChallenge (q : List Instr) (tr : Nat) (slot : Nat) (summary : Bool) (c : ChalReq) (s : State) (h1 :
    Tidy q s) :
    Tidy q (spdmChallenge tr slot summary c s) := by
  unfold spdmChallenge
  try dsimp only
  with_reducible repeat' first
    | (intro _) | assumption | apply tidy_spdmError | apply tidy_freeNext | apply tidy_spdmSign | apply tidy_ite
    | (apply tidyPair_of; assumption) | (simp only [tidy_mk]; apply tidy_back) | split | dsimp only

theorem tidy_spdmMeas (q : List Instr) (tr : Nat) (r : MeasReq) (s : State) (h1 : Tidy q s) :
    Tidy q (spdmMeas tr r s) := by
  unfold spdmMeas
  try dsimp only
  with_reducible repeat' first
    | (intro _) | assumption | apply tidy_spdmError | apply tidy_freeNext | apply tidy_spdmSign | apply tidy_spdmSend
    | apply tidy_ite | (apply tidyPair_of; assumption) | (simp only [tidy_mk]; apply tidy_back) | split | dsimp only

theorem tidy_spdmMel (q : List Instr) (tr : Nat) (off : Nat) (len : Nat) (s : State) (h1 : Tidy q s) :
    Tidy q (spdmMel tr off len s) := by
  unfold spdmMel
  try dsimp only
  with_reducible repeat' first
    | (intro _) | assumption | apply tidy_spdmError | apply tidy_spdmSend | apply tidy_ite
    | (simp only [tidy_mk]; apply tidy_back) | split | dsimp only

theorem tidy_spdmCsr (q : List Instr) (tr : Nat) (s : State) (h1 : Tidy q s) :
    Tidy q (spdmCsr tr s) := by
  unfold spdmCsr
  try dsimp only
  with_reducible repeat' first
    | (intro _) | assumption | apply tidy_spdmSign | (simp only [tidy_mk]; apply tidy_back) | split | dsimp only

theorem tidy_spdmSetCert (q : List Instr) (tr : Nat) (slot : Nat) (chain : List Byte) (ok : Bool) (anchor : List Byte)
    (s : State) (h1 : Tidy q s) :
    Tidy q (spdmSetCert tr slot chain ok anchor s) := by
  unfold spdmSetCert
  try dsimp only
  with_reducible repeat' first
    | (intro _) | assumption | apply tidy_spdmError | apply tidy_secAdd | apply tidy_ite
    | (simp only [tidy_mk]; apply tidy_back) | split | dsimp only

theorem tidy_rangeStart (q : List Instr) (a : Nat) (n : Nat) (s : State) (h1 : Tidy q s) :
    Tidy q (rangeStart a n s) := by
  unfold rangeStart
  try dsimp only
  with_reducible repeat' first
    | (intro _) | assumption | apply tidy_regionLoaded | (simp only [tidy_mk]; apply tidy_back) | split | dsimp only

theorem tidy_measureRange (q : List Instr) (tr : Nat) (a : Nat) (n : Nat) (s : State) (h1 : Tidy q s) :
    Tidy q (measureRange tr a n s) := by
  unfold measureRange
  try dsimp only
  with_reducible repeat' first
    | (intro _) | assumption | apply tidy_vendorSend | apply tidy_rangeStart | apply tidy_ite
    | (simp only [tidy_mk]; apply tidy_back) | split | dsimp only

theorem tidy_spdmServe (q : List Instr) (tr : Nat) (r : SpdmReq) (s : State) (h1 : Tidy q s) :
    Tidy q (spdmServe tr r s) := by
  unfold spdmServe
  try dsimp only
  with_reducible repeat' first
    | (intro _) | assumption | apply tidy_spdmVersion | apply tidy_spdmDo | apply tidy_spdmCaps | apply tidy_spdmAlgs
    | apply tidy_spdmDigests | apply tidy_spdmCert | apply tidy_spdmChallenge | apply tidy_spdmMeas
    | apply tidy_spdmMel | apply tidy_spdmCsr | apply tidy_spdmSetCert | apply tidy_contextSet
    | apply tidy_contextClear | apply tidy_measureRange | apply tidy_spdmError | apply tidy_ite
    | (simp only [tidy_mk]; apply tidy_back) | split | dsimp only

theorem tidy_drainSpdm (q : List Instr) (s : State) (h1 : Tidy q s) :
    Tidy q (drainSpdm s) := by
  unfold drainSpdm
  try dsimp only
  with_reducible repeat' first
    | (intro _) | assumption | apply tidy_spdmServe | apply tidy_modSec | apply tidy_ite | apply tidy_foldl
    | (simp only [tidy_mk]; apply tidy_back) | split | dsimp only

theorem tidy_wStageChunk (q : List Instr) (bs : List Byte) (s : State) (h1 : Tidy q s) :
    Tidy q (wStageChunk bs s).2 := by
  unfold wStageChunk
  try dsimp only
  with_reducible repeat' first
    | (intro _) | assumption | apply tidy_odSet | apply tidy_modSec | apply tidy_ite | apply tidy_snd_ite
    | (apply tidyPair_of; assumption) | (simp only [tidy_mk]; apply tidy_back) | split | dsimp only

theorem tidy_wLinkAuth (q : List Instr) (v : Nat) (s : State) (h1 : Tidy q s) :
    Tidy q (wLinkAuth v s).2 := by
  unfold wLinkAuth
  try dsimp only
  with_reducible repeat' first
    | (intro _) | assumption | apply tidy_odSet | apply tidy_ite | apply tidy_snd_ite
    | (apply tidyPair_of; assumption) | (simp only [tidy_mk]; apply tidy_back) | split | dsimp only

theorem tidy_wStageOffset (q : List Instr) (v : Nat) (s : State) (h1 : Tidy q s) :
    Tidy q (wStageOffset v s).2 := by
  unfold wStageOffset
  try dsimp only
  with_reducible repeat' first
    | (intro _) | assumption | apply tidy_odSet | apply tidy_ite | apply tidy_snd_ite
    | (apply tidyPair_of; assumption) | (simp only [tidy_mk]; apply tidy_back) | split | dsimp only

theorem tidy_wStageCommit (q : List Instr) (v : Nat) (s : State) (h1 : Tidy q s) :
    Tidy q (wStageCommit v s).2 := by
  unfold wStageCommit
  try dsimp only
  with_reducible repeat' first
    | (intro _) | assumption | apply tidy_modSec | apply tidy_ite | apply tidy_snd_ite
    | (apply tidyPair_of; assumption) | (simp only [tidy_mk]; apply tidy_back) | split | dsimp only

theorem tidy_wActivate (q : List Instr) (v : Nat) (b : BootIn) (s : State) (h1 : Tidy q s) :
    Tidy q (wActivate v b s).2 := by
  unfold wActivate
  try dsimp only
  with_reducible repeat' first
    | (intro _) | assumption | apply tidy_modSec | apply tidy_measChange | apply tidy_bootCores | apply tidy_ite
    | apply tidy_snd_ite | (apply tidyPair_of; assumption) | (simp only [tidy_mk]; apply tidy_back) | split
    | dsimp only

theorem tidy_wCommitSvn (q : List Instr) (v : Nat) (s : State) (h1 : Tidy q s) :
    Tidy q (wCommitSvn v s).2 := by
  unfold wCommitSvn
  try dsimp only
  with_reducible repeat' first
    | (intro _) | assumption | apply tidy_odSet | apply tidy_ite | apply tidy_snd_ite
    | (apply tidyPair_of; assumption) | (simp only [tidy_mk]; apply tidy_back) | split | dsimp only

theorem tidy_spdmSigned (q : List Instr) (tr : Nat) (req : List Byte) (body : List Byte) (a3 : Option (List Byte ×
    List Byte)) (s : State) (h1 : Tidy q s) :
    Tidy q (spdmSigned tr req body a3 s) := by
  unfold spdmSigned
  try dsimp only
  with_reducible repeat' first
    | (intro _) | assumption | apply tidy_setConn | apply tidy_spdmSend | (simp only [tidy_mk]; apply tidy_back)
    | split | dsimp only

theorem tidy_opDone (q : List Instr) (o : SecOp) (s : State) (h1 : Tidy q s) :
    Tidy q (opDone o s) := by
  unfold opDone
  try dsimp only
  with_reducible repeat' first
    | (intro _) | assumption | apply tidy_spdmSigned | apply tidy_certSet | apply tidy_contextKeyed
    | apply tidy_certDone | apply tidy_offerNow | apply tidy_installKey | (simp only [tidy_mk]; apply tidy_back)
    | split | dsimp only

theorem tidy_engineDone (q : List Instr) (s : State) (h1 : Tidy q s) :
    Tidy q (engineDone s) := by
  unfold engineDone
  try dsimp only
  with_reducible repeat' first
    | (intro _) | assumption | apply tidy_opDone | apply tidy_secFill | (simp only [tidy_mk]; apply tidy_back) | split
    | dsimp only

theorem tidy_rangeRead (q : List Instr) (a : Nat) (n : Nat) (s : State) (h1 : Tidy q s) :
    Tidy q (rangeRead a n s) := by
  unfold rangeRead
  try dsimp only
  with_reducible repeat' first
    | (intro _) | assumption | apply tidy_touchChannel | apply tidy_correctIn | apply tidy_ueRecord
    | (simp only [tidy_mk]; apply tidy_back) | split | dsimp only

theorem tidy_rangeDone (q : List Instr) (d : Nat) (s : State) (h1 : Tidy q s) :
    Tidy q (rangeDone d s) := by
  unfold rangeDone
  try dsimp only
  with_reducible repeat' first
    | (intro _) | assumption | apply tidy_rangeRead | apply tidy_measChange | apply tidy_odAdd
    | (simp only [tidy_mk]; apply tidy_back) | split | dsimp only

theorem tidy_spdmArrive (q : List Instr) (tr : Nat) (r : SpdmReq) (s : State) (h1 : Tidy q s) :
    Tidy q (spdmArrive tr r s) := by
  unfold spdmArrive
  try dsimp only
  with_reducible repeat' first
    | (intro _) | assumption | apply tidy_modSec | apply tidy_spdmServe | apply tidy_ite
    | (simp only [tidy_mk]; apply tidy_back) | split | dsimp only

theorem tidy_ringsOff (q : List Instr) (s : State) (h1 : Tidy q s) :
    Tidy q (ringsOff s) := by
  unfold ringsOff
  try dsimp only
  with_reducible repeat' first | (intro _) | assumption | (simp only [tidy_mk]; apply tidy_back) | split | dsimp only

theorem tidy_dropCommands (q : List Instr) (code : Nat) (s : State) (h1 : Tidy q s) :
    Tidy q (dropCommands code s) := by
  unfold dropCommands
  try dsimp only
  with_reducible repeat' first
    | (intro _) | assumption | apply tidy_dropHostWork | apply tidy_finish | apply tidy_completeAll | apply tidy_ite
    | apply tidy_foldl | (simp only [tidy_mk]; apply tidy_back) | split | dsimp only

theorem tidy_dropGraphs (q : List Instr) (code : Nat) (s : State) (h1 : Tidy q s) :
    Tidy q (dropGraphs code s) := by
  unfold dropGraphs
  try dsimp only
  with_reducible repeat' first
    | (intro _) | assumption | apply tidy_freeGraph | apply tidy_stopGraph | apply tidy_measUnload | apply tidy_ite
    | apply tidy_foldl | (simp only [tidy_mk]; apply tidy_back) | split | dsimp only

theorem tidy_regionClear (q : List Instr) (d : Nat) (s0 : State) (h1 : Tidy q s0) :
    Tidy q (regionClear d s0) := by
  unfold regionClear
  try dsimp only
  with_reducible repeat' first
    | (intro _) | assumption | apply tidy_measChange | apply tidy_odSet | apply tidy_ite
    | (simp only [tidy_mk]; apply tidy_back) | split | dsimp only

theorem tidy_primerBegin (q : List Instr) (s : State) (h1 : Tidy q s) :
    Tidy q (primerBegin s) := by
  unfold primerBegin
  try dsimp only
  with_reducible repeat' first
    | (intro _) | assumption | apply tidy_ringsOff | apply tidy_dropCommands | apply tidy_dropGraphs
    | apply tidy_disarm | apply tidy_regionClear | apply tidy_modFlt | apply tidy_modSec | apply tidy_odSet
    | apply tidy_setModState | apply tidy_setCapBit | (simp only [tidy_mk]; apply tidy_back) | split | dsimp only

theorem tidy_wConfMode (q : List Instr) (v : Nat) (s : State) (h1 : Tidy q s) :
    Tidy q (wConfMode v s).2 := by
  unfold wConfMode
  try dsimp only
  with_reducible repeat' first
    | (intro _) | assumption | apply tidy_primerBegin | apply tidy_odSet | apply tidy_modSec | apply tidy_ite
    | apply tidy_snd_ite | (apply tidyPair_of; assumption) | (simp only [tidy_mk]; apply tidy_back) | split
    | dsimp only

theorem tidy_wPrimerStart (q : List Instr) (v : Nat) (s : State) (h1 : Tidy q s) :
    Tidy q (wPrimerStart v s).2 := by
  unfold wPrimerStart
  try dsimp only
  with_reducible repeat' first
    | (intro _) | assumption | apply tidy_primerBegin | apply tidy_ite | apply tidy_snd_ite
    | (apply tidyPair_of; assumption) | (simp only [tidy_mk]; apply tidy_back) | split | dsimp only

theorem tidy_eraseSwitch (q : List Instr) (s : State) (h1 : Tidy q s) :
    Tidy q (eraseSwitch s) := by
  unfold eraseSwitch
  try dsimp only
  with_reducible repeat' first
    | (intro _) | assumption | apply tidy_freeSlots | apply tidy_foldl | (simp only [tidy_mk]; apply tidy_back)
    | split | dsimp only

theorem tidy_regionDone (q : List Instr) (d : Nat) (s : State) (h1 : Tidy q s) :
    Tidy q (regionDone d s) := by
  unfold regionDone
  try dsimp only
  with_reducible repeat' first
    | (intro _) | assumption | apply tidy_measChange | apply tidy_odSet | (simp only [tidy_mk]; apply tidy_back)
    | split | dsimp only

theorem tidy_primerCheck (q : List Instr) (whole : Bool) (s : State) (h1 : Tidy q s) :
    Tidy q (primerCheck whole s) := by
  unfold primerCheck
  try dsimp only
  with_reducible repeat' first
    | (intro _) | assumption | apply tidy_modSec | apply tidy_zeroFill | apply tidy_modFlt | apply tidy_regionDone
    | apply tidy_setStale | apply tidy_ite | (simp only [tidy_mk]; apply tidy_back) | split | dsimp only

theorem tidy_primerFinish (q : List Instr) (s : State) (h1 : Tidy q s) :
    Tidy q (primerFinish s) := by
  unfold primerFinish
  try dsimp only
  with_reducible repeat' first
    | (intro _) | assumption | apply tidy_modSec | apply tidy_odSet | apply tidy_odAdd32 | apply tidy_logEvent
    | apply tidy_modFlt | apply tidy_setCapBit | apply tidy_flushMsix | apply tidy_setModState | apply tidy_ite
    | (simp only [tidy_mk]; apply tidy_back) | split | dsimp only

theorem tidy_primerRun (q : List Instr) (s : State) (h1 : Tidy q s) :
    Tidy q (primerRun s) := by
  unfold primerRun
  try dsimp only
  with_reducible repeat' first
    | (intro _) | assumption | apply tidy_setCapBit | apply tidy_odSet | apply tidy_clearTenant
    | apply tidy_eraseSwitch | apply tidy_modSec | apply tidy_clearDiag | apply tidy_forceKeys | apply tidy_dropCells
    | apply tidy_zeroFill | apply tidy_ite | (simp only [tidy_mk]; apply tidy_back) | split | dsimp only

end Sys2Proof.Machine
end

