-- ==== Sys2Proof/Laws/TidyModule.lean ====
section
/-! SUPPORT. Each operation keeps memory canonical and the queue as it is: Trowel, start and stop, the dictionary, the field network and BAR 0. -/
namespace Sys2Proof.Machine
open Sys2Proof

theorem tidy_adoptOwn (q : List Instr) (e : Nat) (n : Nat) (s : State) (h1 : Tidy q s) :
    Tidy q (adoptOwn e n s) := by
  unfold adoptOwn
  try dsimp only
  with_reducible repeat' first
    | (intro _) | assumption | apply tidy_modRail | apply tidy_railPut | apply tidy_showPhases | apply tidy_setPhase
    | apply tidy_ite | apply tidy_foldl | (simp only [tidy_mk]; apply tidy_back) | split | dsimp only

theorem tidy_setEngRail (q : List Instr) (e : Nat) (n : Nat) (x : ERail) (s : State) (h1 : Tidy q s) :
    Tidy q (setEngRail e n x s) := by
  unfold setEngRail
  try dsimp only
  with_reducible repeat' first
    | (intro _) | assumption | apply tidy_modTrw | apply tidy_ite | (simp only [tidy_mk]; apply tidy_back) | split
    | dsimp only

theorem tidy_adoptRail (q : List Instr) (e : Nat) (n : Nat) (s : State) (h1 : Tidy q s) :
    Tidy q (adoptRail e n s) := by
  unfold adoptRail
  try dsimp only
  with_reducible repeat' first
    | (intro _) | assumption | apply tidy_setEngRail | apply tidy_ite | (simp only [tidy_mk]; apply tidy_back) | split
    | dsimp only

theorem tidy_allRailsFault (q : List Instr) (src : Nat) (s : State) (h1 : Tidy q s) :
    Tidy q (allRailsFault src s) := by
  unfold allRailsFault
  try dsimp only
  with_reducible repeat' first
    | (intro _) | assumption | apply tidy_faultStop | apply tidy_railStop | apply tidy_ite | apply tidy_foldl
    | (simp only [tidy_mk]; apply tidy_back) | split | dsimp only

theorem tidy_busConverterOff (q : List Instr) (c : Nat) (s : State) (h1 : Tidy q s) :
    Tidy q (busConverterOff c s) := by
  unfold busConverterOff
  try dsimp only
  with_reducible repeat' first
    | (intro _) | assumption | apply tidy_logSimple | apply tidy_odBit | apply tidy_emcyMsg | apply tidy_emcyRaise
    | apply tidy_ite | (simp only [tidy_mk]; apply tidy_back) | split | dsimp only

theorem tidy_setEng (q : List Instr) (e : Nat) (v : Nat) (s : State) (h1 : Tidy q s) :
    Tidy q (setEng e v s) := by
  unfold setEng
  try dsimp only
  with_reducible repeat' first
    | (intro _) | assumption | apply tidy_odSet | (simp only [tidy_mk]; apply tidy_back) | split | dsimp only

theorem tidy_wHandover (q : List Instr) (v : Nat) (s : State) (h1 : Tidy q s) :
    Tidy q (wHandover v s).2 := by
  unfold wHandover
  try dsimp only
  with_reducible repeat' first
    | (intro _) | assumption | apply tidy_modTrw | apply tidy_ite | apply tidy_snd_ite
    | (apply tidyPair_of; assumption) | (simp only [tidy_mk]; apply tidy_back) | split | dsimp only

theorem tidy_engFailed (q : List Instr) (e : Nat) (s : State) (h1 : Tidy q s) :
    Tidy q (engFailed e s) := by
  unfold engFailed
  try dsimp only
  with_reducible repeat' first
    | (intro _) | assumption | apply tidy_modTrw | apply tidy_setEng | apply tidy_ite
    | (simp only [tidy_mk]; apply tidy_back) | split | dsimp only

theorem tidy_engineFault (q : List Instr) (e : Nat) (s : State) (h1 : Tidy q s) :
    Tidy q (engineFault e s) := by
  unfold engineFault
  try dsimp only
  with_reducible repeat' first
    | (intro _) | assumption | apply tidy_modTrw | apply tidy_engFailed | apply tidy_allRailsFault
    | apply tidy_logSimple | apply tidy_ite | (simp only [tidy_mk]; apply tidy_back) | split | dsimp only

theorem tidy_engineRestart (q : List Instr) (e : Nat) (s : State) (h1 : Tidy q s) :
    Tidy q (engineRestart e s) := by
  unfold engineRestart
  try dsimp only
  with_reducible repeat' first
    | (intro _) | assumption | apply tidy_setEng | apply tidy_modTrw | apply tidy_ite
    | (simp only [tidy_mk]; apply tidy_back) | split | dsimp only

theorem tidy_engineStep (q : List Instr) (e : Nat) (n : Nat) (vin : Nat) (m : RailMean) (iin : Int) (chk : Bool) (ps :
    List Nat) (s : State) (h1 : Tidy q s) :
    Tidy q (engineStep e n vin m iin chk ps s) := by
  unfold engineStep
  try dsimp only
  with_reducible repeat' first
    | (intro _) | assumption | apply tidy_setEngRail | apply tidy_railFlag | apply tidy_railPut | apply tidy_modRail
    | apply tidy_ite | (simp only [tidy_mk]; apply tidy_back) | split | dsimp only

theorem tidy_suspend (q : List Instr) (n : Nat) (s : State) (h1 : Tidy q s) :
    Tidy q (suspend n s) := by
  unfold suspend
  try dsimp only
  with_reducible repeat' first
    | (intro _) | assumption | apply tidy_modRail | (simp only [tidy_mk]; apply tidy_back) | split | dsimp only

theorem tidy_softStart (q : List Instr) (n : Nat) (s : State) (h1 : Tidy q s) :
    Tidy q (softStart n s) := by
  unfold softStart
  try dsimp only
  with_reducible repeat' first
    | (intro _) | assumption | apply tidy_phasesTo | apply tidy_railPut | apply tidy_suspend | apply tidy_modRail
    | apply tidy_modFlt | apply tidy_ite | (simp only [tidy_mk]; apply tidy_back) | split | dsimp only

theorem tidy_groupRailStart (q : List Instr) (s : State) (n : Nat) (h1 : Tidy q s) :
    Tidy q (groupRailStart s n) := by
  unfold groupRailStart
  try dsimp only
  with_reducible repeat' first
    | (intro _) | assumption | apply tidy_softStart | apply tidy_railPut | apply tidy_railFault | apply tidy_ite
    | (simp only [tidy_mk]; apply tidy_back) | split | dsimp only

theorem tidy_groupStart (q : List Instr) (g : Nat) (s : State) (h1 : Tidy q s) :
    Tidy q (groupStart g s) := by
  unfold groupStart
  try dsimp only
  with_reducible repeat' first
    | (intro _) | assumption | apply tidy_groupRailStart | apply tidy_ite | apply tidy_foldl
    | (simp only [tidy_mk]; apply tidy_back) | split | dsimp only

theorem tidy_restartWindows (q : List Instr) (e : Nat) (s : State) (h1 : Tidy q s) :
    Tidy q (restartWindows e s) := by
  unfold restartWindows
  try dsimp only
  with_reducible repeat' first
    | (intro _) | assumption | apply tidy_setEngRail | apply tidy_modRail | apply tidy_modTrw | apply tidy_foldl
    | (simp only [tidy_mk]; apply tidy_back) | split | dsimp only

theorem tidy_handOver (q : List Instr) (s : State) (h1 : Tidy q s) :
    Tidy q (handOver s) := by
  unfold handOver
  try dsimp only
  with_reducible repeat' first
    | (intro _) | assumption | apply tidy_modTrw | apply tidy_adoptOwn | apply tidy_restartWindows | apply tidy_odSet
    | apply tidy_setEng | apply tidy_ite | apply tidy_foldl | (simp only [tidy_mk]; apply tidy_back) | split
    | dsimp only

theorem tidy_latchOff (q : List Instr) (n : Nat) (s : State) (h1 : Tidy q s) :
    Tidy q (latchOff n s) := by
  unfold latchOff
  try dsimp only
  with_reducible repeat' first
    | (intro _) | assumption | apply tidy_railFlag | apply tidy_railStop | apply tidy_logSimple | apply tidy_startFail
    | apply tidy_emcyRaise | (simp only [tidy_mk]; apply tidy_back) | split | dsimp only

theorem tidy_limitFlags (q : List Instr) (n : Nat) (s : State) (h1 : Tidy q s) :
    Tidy q (limitFlags n s) := by
  unfold limitFlags
  try dsimp only
  with_reducible repeat' first
    | (intro _) | assumption | apply tidy_railFlag | (simp only [tidy_mk]; apply tidy_back) | split | dsimp only

theorem tidy_meansStep (q : List Instr) (n : Nat) (m : RailMean) (y : Int) (s : State) (h1 : Tidy q s) :
    Tidy q (meansStep n m y s) := by
  unfold meansStep
  try dsimp only
  with_reducible repeat' first
    | (intro _) | assumption | apply tidy_modRail | apply tidy_railPut | apply tidy_ite | apply tidy_foldl
    | (simp only [tidy_mk]; apply tidy_back) | split | dsimp only

theorem tidy_mirrorDeadline (q : List Instr) (s : State) (h1 : Tidy q s) :
    Tidy q (mirrorDeadline s) := by
  unfold mirrorDeadline
  try dsimp only
  with_reducible repeat' first
    | (intro _) | assumption | apply tidy_engineFault | apply tidy_modTrw | apply tidy_ite
    | (simp only [tidy_mk]; apply tidy_back) | split | dsimp only

theorem tidy_mirrorFrame (q : List Instr) (s : State) (h1 : Tidy q s) :
    Tidy q (mirrorFrame s) := by
  unfold mirrorFrame
  try dsimp only
  with_reducible repeat' first
    | (intro _) | assumption | apply tidy_modTrw | apply tidy_adoptRail | apply tidy_setEng | apply tidy_ite
    | apply tidy_foldl | (simp only [tidy_mk]; apply tidy_back) | split | dsimp only

theorem tidy_syncStep (q : List Instr) (sync : Option (Nat × Int)) (s : State) (h1 : Tidy q s) :
    Tidy q (syncStep sync s) := by
  unfold syncStep
  try dsimp only
  with_reducible repeat' first
    | (intro _) | assumption | apply tidy_odSet | apply tidy_ite | (simp only [tidy_mk]; apply tidy_back) | split
    | dsimp only

theorem tidy_regionStep (q : List Instr) (e : Nat) (n : Nat) (swapped : Bool) (s : State) (h1 : Tidy q s) :
    Tidy q (regionStep e n swapped s) := by
  unfold regionStep
  try dsimp only
  with_reducible repeat' first
    | (intro _) | assumption | apply tidy_setEngRail | apply tidy_odAdd32 | apply tidy_railFlag | apply tidy_ite
    | (simp only [tidy_mk]; apply tidy_back) | split | dsimp only

theorem tidy_standbyStep (q : List Instr) (n : Nat) (swapped : Bool) (s : State) (h1 : Tidy q s) :
    Tidy q (standbyStep n swapped s) := by
  unfold standbyStep
  try dsimp only
  with_reducible repeat' first
    | (intro _) | assumption | apply tidy_setEngRail | apply tidy_ite | (simp only [tidy_mk]; apply tidy_back) | split
    | dsimp only

theorem tidy_phaseEffects (q : List Instr) (n : Nat) (s : State) (h1 : Tidy q s) :
    Tidy q (phaseEffects n s) := by
  unfold phaseEffects
  try dsimp only
  with_reducible repeat' first
    | (intro _) | assumption | apply tidy_suspend | apply tidy_odAdd32 | apply tidy_modRail | apply tidy_setPhase
    | apply tidy_showPhases | apply tidy_ite | apply tidy_foldl | (simp only [tidy_mk]; apply tidy_back) | split
    | dsimp only

theorem tidy_setpointStep (q : List Instr) (n : Nat) (s : State) (h1 : Tidy q s) :
    Tidy q (setpointStep n s) := by
  unfold setpointStep
  try dsimp only
  with_reducible repeat' first
    | (intro _) | assumption | apply tidy_railFlag | apply tidy_modRail | apply tidy_ite
    | (simp only [tidy_mk]; apply tidy_back) | split | dsimp only

theorem tidy_phaseDecide (q : List Instr) (n : Nat) (was : Nat) (yi : Int) (s : State) (h1 : Tidy q s) :
    Tidy q (phaseDecide n was yi s) := by
  unfold phaseDecide
  try dsimp only
  with_reducible repeat' first
    | (intro _) | assumption | apply tidy_modRail | apply tidy_ite | (simp only [tidy_mk]; apply tidy_back) | split
    | dsimp only

theorem tidy_senseStep (q : List Instr) (n : Nat) (m : RailMean) (chk : Bool) (s : State) (h1 : Tidy q s) :
    Tidy q (senseStep n m chk s) := by
  unfold senseStep
  try dsimp only
  with_reducible repeat' first
    | (intro _) | assumption | apply tidy_modRail | apply tidy_logSimple | apply tidy_railFlag | apply tidy_ite
    | (simp only [tidy_mk]; apply tidy_back) | split | dsimp only

theorem tidy_protectStep (q : List Instr) (n : Nat) (m : RailMean) (s : State) (h1 : Tidy q s) :
    Tidy q (protectStep n m s) := by
  unfold protectStep
  try dsimp only
  with_reducible repeat' first
    | (intro _) | assumption | apply tidy_modRail | apply tidy_railFault | apply tidy_ite
    | (simp only [tidy_mk]; apply tidy_back) | split | dsimp only

theorem tidy_retire (q : List Instr) (n : Nat) (p : Nat) (reason : Nat) (s : State) (h1 : Tidy q s) :
    Tidy q (retire n p reason s) := by
  unfold retire
  try dsimp only
  with_reducible repeat' first
    | (intro _) | assumption | apply tidy_odSet | apply tidy_setPhase | apply tidy_railFlag | apply tidy_railPut
    | apply tidy_showPhases | apply tidy_suspend | apply tidy_modRail | apply tidy_emcyEvent | apply tidy_logEvent
    | apply tidy_railFault | apply tidy_latchOff | apply tidy_ite | (simp only [tidy_mk]; apply tidy_back) | split
    | dsimp only

theorem tidy_phaseSupervise (q : List Instr) (n : Nat) (m : RailMean) (ps : List Nat) (s : State) (h1 : Tidy q s) :
    Tidy q (phaseSupervise n m ps s) := by
  unfold phaseSupervise
  try dsimp only
  with_reducible repeat' first
    | (intro _) | assumption | apply tidy_modRail | apply tidy_retire | apply tidy_foldl
    | (simp only [tidy_mk]; apply tidy_back) | split | dsimp only

theorem tidy_stopAttempt (q : List Instr) (n : Nat) (s : State) (h1 : Tidy q s) :
    Tidy q (stopAttempt n s) := by
  unfold stopAttempt
  try dsimp only
  with_reducible repeat' first
    | (intro _) | assumption | apply tidy_latchOff | apply tidy_railStop | apply tidy_ite
    | (simp only [tidy_mk]; apply tidy_back) | split | dsimp only

theorem tidy_powerGood (q : List Instr) (n : Nat) (s : State) (h1 : Tidy q s) :
    Tidy q (powerGood n s) := by
  unfold powerGood
  try dsimp only
  with_reducible repeat' first
    | (intro _) | assumption | apply tidy_railFlag | apply tidy_railPut | apply tidy_modRail
    | (simp only [tidy_mk]; apply tidy_back) | split | dsimp only

theorem tidy_softStartStep (q : List Instr) (n : Nat) (m : RailMean) (y : Int) (s : State) (h1 : Tidy q s) :
    Tidy q (softStartStep n m y s) := by
  unfold softStartStep
  try dsimp only
  with_reducible repeat' first
    | (intro _) | assumption | apply tidy_modRail | apply tidy_stopAttempt | apply tidy_powerGood | apply tidy_ite
    | (simp only [tidy_mk]; apply tidy_back) | split | dsimp only

theorem tidy_regulatingStep (q : List Instr) (n : Nat) (y : Int) (s : State) (h1 : Tidy q s) :
    Tidy q (regulatingStep n y s) := by
  unfold regulatingStep
  try dsimp only
  with_reducible repeat' first
    | (intro _) | assumption | apply tidy_modRail | apply tidy_railFlag | apply tidy_railFault | apply tidy_ite
    | (simp only [tidy_mk]; apply tidy_back) | split | dsimp only

theorem tidy_railPeriod (q : List Instr) (n : Nat) (e : PeriodIn) (swapped : Bool) (s : State) (h1 : Tidy q s) :
    Tidy q (railPeriod n e swapped s) := by
  unfold railPeriod
  try dsimp only
  with_reducible repeat' first
    | (intro _) | assumption | apply tidy_modRail | apply tidy_regionStep | apply tidy_standbyStep
    | apply tidy_phaseEffects | apply tidy_meansStep | apply tidy_setpointStep | apply tidy_engineStep
    | apply tidy_phaseDecide | apply tidy_senseStep | apply tidy_limitFlags | apply tidy_protectStep
    | apply tidy_phaseSupervise | apply tidy_softStartStep | apply tidy_regulatingStep | apply tidy_ite
    | (simp only [tidy_mk]; apply tidy_back) | split | dsimp only

theorem tidy_plausFault (q : List Instr) (e : Nat) (s : State) (h1 : Tidy q s) :
    Tidy q (plausFault e s) := by
  unfold plausFault
  try dsimp only
  with_reducible repeat' first
    | (intro _) | assumption | apply tidy_engineFault | apply tidy_ite | (simp only [tidy_mk]; apply tidy_back)
    | split | dsimp only

theorem tidy_periodBoundary (q : List Instr) (e : PeriodIn) (s : State) (h1 : Tidy q s) :
    Tidy q (periodBoundary e s) := by
  unfold periodBoundary
  try dsimp only
  with_reducible repeat' first
    | (intro _) | assumption | apply tidy_handOver | apply tidy_syncStep | apply tidy_swapBanks | apply tidy_modTrw
    | apply tidy_modFlt | apply tidy_railPeriod | apply tidy_plausFault | apply tidy_ite | apply tidy_foldl
    | (simp only [tidy_mk]; apply tidy_back) | split | dsimp only

theorem tidy_powerGoodTimeout (q : List Instr) (n : Nat) (s : State) (h1 : Tidy q s) :
    Tidy q (powerGoodTimeout n s) := by
  unfold powerGoodTimeout
  try dsimp only
  with_reducible repeat' first
    | (intro _) | assumption | apply tidy_stopAttempt | apply tidy_ite | (simp only [tidy_mk]; apply tidy_back)
    | split | dsimp only

theorem tidy_railTelemetry (q : List Instr) (n : Nat) (s : State) (h1 : Tidy q s) :
    Tidy q (railTelemetry n s) := by
  unfold railTelemetry
  try dsimp only
  with_reducible repeat' first
    | (intro _) | assumption | apply tidy_railPut | apply tidy_odSet | apply tidy_modRail | apply tidy_foldl
    | (simp only [tidy_mk]; apply tidy_back) | split | dsimp only

theorem tidy_regSyncLoss (q : List Instr) (s : State) (h1 : Tidy q s) :
    Tidy q (regSyncLoss s) := by
  unfold regSyncLoss
  try dsimp only
  with_reducible repeat' first
    | (intro _) | assumption | apply tidy_logSimple | apply tidy_odSet | apply tidy_ite
    | (simp only [tidy_mk]; apply tidy_back) | split | dsimp only

theorem tidy_regSyncRecovered (q : List Instr) (s : State) (h1 : Tidy q s) :
    Tidy q (regSyncRecovered s) := by
  unfold regSyncRecovered
  try dsimp only
  with_reducible repeat' first
    | (intro _) | assumption | apply tidy_odSet | apply tidy_ite | (simp only [tidy_mk]; apply tidy_back) | split
    | dsimp only

theorem tidy_retryExpiry (q : List Instr) (n : Nat) (s : State) (h1 : Tidy q s) :
    Tidy q (retryExpiry n s) := by
  unfold retryExpiry
  try dsimp only
  with_reducible repeat' first
    | (intro _) | assumption | apply tidy_softStart | apply tidy_latchOff | apply tidy_ite
    | (simp only [tidy_mk]; apply tidy_back) | split | dsimp only

theorem tidy_shedTimer (q : List Instr) (n : Nat) (s : State) (h1 : Tidy q s) :
    Tidy q (shedTimer n s) := by
  unfold shedTimer
  try dsimp only
  with_reducible repeat' first
    | (intro _) | assumption | apply tidy_modRail | apply tidy_ite | (simp only [tidy_mk]; apply tidy_back) | split
    | dsimp only

theorem tidy_softStopDone (q : List Instr) (n : Nat) (s : State) (h1 : Tidy q s) :
    Tidy q (softStopDone n s) := by
  unfold softStopDone
  try dsimp only
  with_reducible repeat' first
    | (intro _) | assumption | apply tidy_softStopNext | apply tidy_railStop | apply tidy_ite
    | (simp only [tidy_mk]; apply tidy_back) | split | dsimp only

theorem tidy_stageWarnStep (q : List Instr) (ts : List Int) (n : Nat) (s : State) (h1 : Tidy q s) :
    Tidy q (stageWarnStep ts n s) := by
  unfold stageWarnStep
  try dsimp only
  with_reducible repeat' first
    | (intro _) | assumption | apply tidy_railFlag | apply tidy_logEvent | apply tidy_ite
    | (simp only [tidy_mk]; apply tidy_back) | split | dsimp only

theorem tidy_stageTempRead (q : List Instr) (ts : List Int) (s : State) (h1 : Tidy q s) :
    Tidy q (stageTempRead ts s) := by
  unfold stageTempRead
  try dsimp only
  with_reducible repeat' first
    | (intro _) | assumption | apply tidy_modTrw | apply tidy_stageWarnStep | apply tidy_emcyWhile | apply tidy_retire
    | apply tidy_ite | apply tidy_foldl | (simp only [tidy_mk]; apply tidy_back) | split | dsimp only

theorem tidy_takeover (q : List Instr) (s : State) (h1 : Tidy q s) :
    Tidy q (takeover s) := by
  unfold takeover
  try dsimp only
  with_reducible repeat' first
    | (intro _) | assumption | apply tidy_freeNext | apply tidy_adoptOwn | apply tidy_restartWindows
    | apply tidy_modTrw | apply tidy_odAdd32 | apply tidy_odSet | apply tidy_setEng | apply tidy_modFlt
    | apply tidy_emcyEvent | apply tidy_logEvent | apply tidy_ite | (apply tidyPair_of; assumption) | apply tidy_foldl
    | (simp only [tidy_mk]; apply tidy_back) | split | dsimp only

theorem tidy_telemetryUpdate (q : List Instr) (s : State) (h1 : Tidy q s) :
    Tidy q (telemetryUpdate s) := by
  unfold telemetryUpdate
  try dsimp only
  with_reducible repeat' first
    | (intro _) | assumption | apply tidy_railTelemetry | apply tidy_odSet | apply tidy_modTrw | apply tidy_ite
    | apply tidy_foldl | (simp only [tidy_mk]; apply tidy_back) | split | dsimp only

theorem tidy_modMod (q : List Instr) (f : ModSt → ModSt) (s : State) (h1 : Tidy q s) :
    Tidy q (modMod f s) := by
  unfold modMod
  try dsimp only
  with_reducible repeat' first
    | (intro _) | assumption | (simp only [tidy_mk]; apply tidy_back) | split | apply_assumption | dsimp only

theorem tidy_saveSeconds (q : List Instr) (s : State) (h1 : Tidy q s) :
    Tidy q (saveSeconds s) := by
  unfold saveSeconds
  try dsimp only
  with_reducible repeat' first
    | (intro _) | assumption | apply tidy_modMod | apply tidy_odSet | (simp only [tidy_mk]; apply tidy_back) | split
    | dsimp only

theorem tidy_modLog (q : List Instr) (f : LogSt → LogSt) (s : State) (h1 : Tidy q s) :
    Tidy q (modLog f s) := by
  unfold modLog
  try dsimp only
  with_reducible repeat' first
    | (intro _) | assumption | (simp only [tidy_mk]; apply tidy_back) | split | apply_assumption | dsimp only

theorem tidy_modPins (q : List Instr) (f : Pins → Pins) (s : State) (h1 : Tidy q s) :
    Tidy q (modPins f s) := by
  unfold modPins
  try dsimp only
  with_reducible repeat' first
    | (intro _) | assumption | apply tidy_modMod | (simp only [tidy_mk]; apply tidy_back) | split | apply_assumption
    | dsimp only

theorem tidy_auxLoss (q : List Instr) (s : State) (h1 : Tidy q s) :
    Tidy q (auxLoss s) := by
  unfold auxLoss
  try dsimp only
  with_reducible repeat' first
    | (intro _) | assumption | apply tidy_closeOpen | apply tidy_mainDown | apply tidy_railsOff
    | apply tidy_saveSeconds | apply tidy_modLog | apply tidy_setCore | apply tidy_odSet | apply tidy_modPins
    | apply tidy_modMod | apply tidy_ite | (simp only [tidy_mk]; apply tidy_back) | split | dsimp only

theorem tidy_auxRise (q : List Instr) (e : AuxIn) (s : State) (h1 : Tidy q s) :
    Tidy q (auxRise e s) := by
  unfold auxRise
  try dsimp only
  with_reducible repeat' first
    | (intro _) | assumption | apply tidy_odSet | apply tidy_odAdd32 | apply tidy_railFlag | apply tidy_railPut
    | apply tidy_ite | apply tidy_foldl | (simp only [tidy_mk]; apply tidy_back) | split | dsimp only

theorem tidy_auxPowerOn (q : List Instr) (e : AuxIn) (s : State) (h1 : Tidy q s) :
    Tidy q (auxPowerOn e s) := by
  unfold auxPowerOn
  try dsimp only
  with_reducible repeat' first
    | (intro _) | assumption | apply tidy_bootCores | apply tidy_auxRise | apply tidy_refLoss | apply tidy_ite
    | (simp only [tidy_mk]; apply tidy_back) | split | dsimp only

theorem tidy_logRecord (q : List Instr) (path : Nat) (s : State) (h1 : Tidy q s) :
    Tidy q (logRecord path s).2.2 := by
  unfold logRecord
  try dsimp only
  with_reducible repeat' first
    | (intro _) | assumption | apply tidy_modLog | apply tidy_ite | apply tidy_snd_ite
    | (simp only [tidy_mk]; apply tidy_back) | split | dsimp only

theorem tidy_clearAlign (q : List Instr) (s : State) (h1 : Tidy q s) :
    Tidy q (clearAlign s) := by
  unfold clearAlign
  try dsimp only
  with_reducible repeat' first
    | (intro _) | assumption | apply tidy_odClear | apply tidy_odBit | apply tidy_foldl
    | (simp only [tidy_mk]; apply tidy_back) | split | dsimp only

theorem tidy_clearCounters (q : List Instr) (s : State) (h1 : Tidy q s) :
    Tidy q (clearCounters s) := by
  unfold clearCounters
  try dsimp only
  with_reducible repeat' first
    | (intro _) | assumption | apply tidy_modTim | apply tidy_modFlt | (simp only [tidy_mk]; apply tidy_back) | split
    | dsimp only

theorem tidy_clearFloat (q : List Instr) (s : State) (h1 : Tidy q s) :
    Tidy q (clearFloat s) := by
  unfold clearFloat
  try dsimp only
  with_reducible repeat' first
    | (intro _) | assumption | apply tidy_modFlt | apply tidy_showDuty | apply tidy_showFreq | apply tidy_showVolt
    | apply tidy_ite | (simp only [tidy_mk]; apply tidy_back) | split | dsimp only

theorem tidy_engineReset (q : List Instr) (e : Nat) (s : State) (h1 : Tidy q s) :
    Tidy q (engineReset e s) := by
  unfold engineReset
  try dsimp only
  with_reducible repeat' first
    | (intro _) | assumption | apply tidy_modTrw | apply tidy_setEng | apply tidy_ite
    | (simp only [tidy_mk]; apply tidy_back) | split | dsimp only

theorem tidy_coldStart (q : List Instr) (slot : Nat) (prof : Nat) (lost : List Nat) (s : State) (h1 : Tidy q s) :
    Tidy q (coldStart slot prof lost s) := by
  unfold coldStart
  try dsimp only
  with_reducible repeat' first
    | (intro _) | assumption | apply tidy_modPins | apply tidy_modMod | apply tidy_odSet | apply tidy_clearFloat
    | apply tidy_clearAlign | apply tidy_clearDiag | apply tidy_clearCounters | apply tidy_loseMemory
    | apply tidy_setCapBit | apply tidy_modSec | apply tidy_coldProfile | apply tidy_profLost | apply tidy_engineReset
    | apply tidy_setModState | apply tidy_logEvent | apply tidy_aligned | apply tidy_ite | apply tidy_foldl
    | (simp only [tidy_mk]; apply tidy_back) | split | dsimp only

theorem tidy_coreBoots (q : List Instr) (c : Nat) (ok : Bool) (s : State) (h1 : Tidy q s) :
    Tidy q (coreBoots c ok s) := by
  unfold coreBoots
  try dsimp only
  with_reducible repeat' first
    | (intro _) | assumption | apply tidy_setCore | apply tidy_nmtBoot | apply tidy_modMod | apply tidy_ownBy
    | apply tidy_ite | (simp only [tidy_mk]; apply tidy_back) | split | dsimp only

theorem tidy_coreFails (q : List Instr) (c : Nat) (s : State) (h1 : Tidy q s) :
    Tidy q (coreFails c s) := by
  unfold coreFails
  try dsimp only
  with_reducible repeat' first
    | (intro _) | assumption | apply tidy_setCore | apply tidy_modMod | apply tidy_ite
    | (simp only [tidy_mk]; apply tidy_back) | split | dsimp only

theorem tidy_usdoSend (q : List Instr) (bus : Nat) (bs : List Byte) (s : State) (h1 : Tidy q s) :
    Tidy q (usdoSend bus bs s) := by
  unfold usdoSend
  try dsimp only
  with_reducible repeat' first
    | (intro _) | assumption | apply tidy_emit | apply tidy_busSent | apply tidy_ite
    | (simp only [tidy_mk]; apply tidy_back) | split | dsimp only

theorem tidy_usdoAbort (q : List Instr) (bus : Nat) (key : Nat) (abort : Nat) (s : State) (h1 : Tidy q s) :
    Tidy q (usdoAbort bus key abort s) := by
  unfold usdoAbort
  try dsimp only
  with_reducible repeat' first
    | (intro _) | assumption | apply tidy_usdoSend | (simp only [tidy_mk]; apply tidy_back) | split | dsimp only

theorem tidy_endSession (q : List Instr) (bus : Nat) (abort : Nat) (code : Nat) (s : State) (h1 : Tidy q s) :
    Tidy q (endSession bus abort code s) := by
  unfold endSession
  try dsimp only
  with_reducible repeat' first
    | (intro _) | assumption | apply tidy_tell | apply tidy_usdoAbort | (simp only [tidy_mk]; apply tidy_back) | split
    | dsimp only

theorem tidy_mailDone (q : List Instr) (code : Nat) (s : State) (h1 : Tidy q s) :
    Tidy q (mailDone code s) := by
  unfold mailDone
  try dsimp only
  with_reducible repeat' first
    | (intro _) | assumption | apply tidy_tell | apply tidy_sendMsix | apply tidy_ite
    | (simp only [tidy_mk]; apply tidy_back) | split | dsimp only

theorem tidy_mgmtTakeover (q : List Instr) (c : Nat) (s : State) (h1 : Tidy q s) :
    Tidy q (mgmtTakeover c s) := by
  unfold mgmtTakeover
  try dsimp only
  with_reducible repeat' first
    | (intro _) | assumption | apply tidy_endSession | apply tidy_ownBy | apply tidy_mailDone | apply tidy_emcyEvent
    | apply tidy_logEvent | apply tidy_odAdd32 | apply tidy_ite | (simp only [tidy_mk]; apply tidy_back) | split
    | dsimp only

theorem tidy_ownerFails (q : List Instr) (c : Nat) (s : State) (h1 : Tidy q s) :
    Tidy q (ownerFails c s) := by
  unfold ownerFails
  try dsimp only
  with_reducible repeat' first
    | (intro _) | assumption | apply tidy_modMod | apply tidy_coreFails | apply tidy_mgmtTakeover | apply tidy_ite
    | (simp only [tidy_mk]; apply tidy_back) | split | dsimp only

theorem tidy_coreFault (q : List Instr) (c : Nat) (s : State) (h1 : Tidy q s) :
    Tidy q (coreFault c s) := by
  unfold coreFault
  try dsimp only
  with_reducible repeat' first
    | (intro _) | assumption | apply tidy_ownerFails | apply tidy_logSimple | apply tidy_coreFails | apply tidy_ite
    | (simp only [tidy_mk]; apply tidy_back) | split | dsimp only

theorem tidy_coreRestart (q : List Instr) (c : Nat) (ok : Bool) (s : State) (h1 : Tidy q s) :
    Tidy q (coreRestart c ok s) := by
  unfold coreRestart
  try dsimp only
  with_reducible repeat' first
    | (intro _) | assumption | apply tidy_coreBoots | apply tidy_modMod | apply tidy_setCore | apply tidy_ite
    | (simp only [tidy_mk]; apply tidy_back) | split | dsimp only

theorem tidy_stopWhenRest (q : List Instr) (s : State) (h1 : Tidy q s) :
    Tidy q (stopWhenRest s) := by
  unfold stopWhenRest
  try dsimp only
  with_reducible repeat' first
    | (intro _) | assumption | apply tidy_stopRails | apply tidy_ite | (simp only [tidy_mk]; apply tidy_back) | split
    | dsimp only

theorem tidy_wPortEnable (q : List Instr) (p : Nat) (v : Nat) (s : State) (h1 : Tidy q s) :
    Tidy q (wPortEnable p v s).2 := by
  unfold wPortEnable
  try dsimp only
  with_reducible repeat' first
    | (intro _) | assumption | apply tidy_wEnable | apply tidy_stopWhenRest | (apply tidyPair_of; assumption)
    | (simp only [tidy_mk]; apply tidy_back) | split | dsimp only

theorem tidy_orderedStop (q : List Instr) (req : Nat) (s : State) (h1 : Tidy q s) :
    Tidy q (orderedStop req s) := by
  unfold orderedStop
  try dsimp only
  with_reducible repeat' first
    | (intro _) | assumption | apply tidy_dropCommands | apply tidy_dropGraphs | apply tidy_logEvent
    | apply tidy_setModState | apply tidy_modMod | apply tidy_stopWhenRest | apply tidy_startDrain
    | apply tidy_portOff | apply tidy_ite | apply tidy_foldl | (simp only [tidy_mk]; apply tidy_back) | split
    | dsimp only

theorem tidy_wResetMain (q : List Instr) (v : Nat) (s : State) (h1 : Tidy q s) :
    Tidy q (wResetMain v s).2 := by
  unfold wResetMain
  try dsimp only
  with_reducible repeat' first
    | (intro _) | assumption | apply tidy_orderedStop | apply tidy_setModState | apply tidy_odSet | apply tidy_modMod
    | apply tidy_ite | apply tidy_snd_ite | (apply tidyPair_of; assumption) | (simp only [tidy_mk]; apply tidy_back)
    | split | dsimp only

theorem tidy_dropHostIssued (q : List Instr) (d : Nat) (code : Nat) (s : State) (h1 : Tidy q s) :
    Tidy q (dropHostIssued d code s) := by
  unfold dropHostIssued
  try dsimp only
  with_reducible repeat' first
    | (intro _) | assumption | apply tidy_finish | apply tidy_undefineAll | apply tidy_ite | apply tidy_foldl
    | (simp only [tidy_mk]; apply tidy_back) | split | dsimp only

theorem tidy_dropTileRobs (q : List Instr) (fe : Nat) (code : Nat) (a2 : Nat) (s : State) (h1 : Tidy q s) :
    Tidy q (dropTileRobs fe code a2 s) := by
  revert h1
  fun_induction dropTileRobs fe code a2 s <;> intro h1
  all_goals (try dsimp only)
  with_reducible repeat' first
    | (intro _) | assumption | apply tidy_finishRob | apply tidy_setRob | (simp only [tidy_mk]; apply tidy_back)
    | split | apply_assumption | dsimp only

theorem tidy_dropIssued (q : List Instr) (d : Nat) (code : Nat) (s : State) (h1 : Tidy q s) :
    Tidy q (dropIssued d code s) := by
  unfold dropIssued
  try dsimp only
  with_reducible repeat' first
    | (intro _) | assumption | apply tidy_dropHostIssued | apply tidy_dropTileRobs | apply tidy_foldl
    | (simp only [tidy_mk]; apply tidy_back) | split | dsimp only

theorem tidy_dropRegionGraph (q : List Instr) (h : Nat) (code : Nat) (s : State) (h1 : Tidy q s) :
    Tidy q (dropRegionGraph h code s) := by
  unfold dropRegionGraph
  try dsimp only
  with_reducible repeat' first
    | (intro _) | assumption | apply tidy_freeGraph | apply tidy_stopGraph | apply tidy_finish | apply tidy_measUnload
    | (simp only [tidy_mk]; apply tidy_back) | split | dsimp only

theorem tidy_regionReset (q : List Instr) (d : Nat) (s : State) (h1 : Tidy q s) :
    Tidy q (regionReset d s) := by
  unfold regionReset
  try dsimp only
  with_reducible repeat' first
    | (intro _) | assumption | apply tidy_dropIssued | apply tidy_dropRegionGraph | apply tidy_regionClear
    | apply tidy_dropCells | apply tidy_disarmIn | apply tidy_zeroFill | apply tidy_logEvent | apply tidy_modFlt
    | apply tidy_ite | apply tidy_foldl | (simp only [tidy_mk]; apply tidy_back) | split | dsimp only

theorem tidy_wResetRegion (q : List Instr) (d : Nat) (s : State) (h1 : Tidy q s) :
    Tidy q (wResetRegion d s).2 := by
  unfold wResetRegion
  try dsimp only
  with_reducible repeat' first
    | (intro _) | assumption | apply tidy_regionReset | apply tidy_ite | apply tidy_snd_ite
    | (apply tidyPair_of; assumption) | (simp only [tidy_mk]; apply tidy_back) | split | dsimp only

theorem tidy_wHandMgmt (q : List Instr) (ok : Bool) (s : State) (h1 : Tidy q s) :
    Tidy q (wHandMgmt ok s).2 := by
  unfold wHandMgmt
  try dsimp only
  with_reducible repeat' first
    | (intro _) | assumption | apply tidy_coreBoots | apply tidy_mgmtTakeover | apply tidy_setCore | apply tidy_ite
    | apply tidy_snd_ite | (apply tidyPair_of; assumption) | (simp only [tidy_mk]; apply tidy_back) | split
    | dsimp only

theorem tidy_wReset (q : List Instr) (v : Nat) (ok : Bool) (s : State) (h1 : Tidy q s) :
    Tidy q (wReset v ok s).2 := by
  unfold wReset
  try dsimp only
  with_reducible repeat' first
    | (intro _) | assumption | apply tidy_wResetMain | apply tidy_wResetRegion | apply tidy_wHandMgmt | apply tidy_ite
    | apply tidy_snd_ite | (apply tidyPair_of; assumption) | (simp only [tidy_mk]; apply tidy_back) | split
    | dsimp only

theorem tidy_eraseDone (q : List Instr) (k : Nat) (s : State) (h1 : Tidy q s) :
    Tidy q (eraseDone k s) := by
  unfold eraseDone
  try dsimp only
  with_reducible repeat' first
    | (intro _) | assumption | apply tidy_modLog | apply tidy_ite | (simp only [tidy_mk]; apply tidy_back) | split
    | dsimp only

theorem tidy_freshTiles (q : List Instr) (s : State) (h1 : Tidy q s) :
    Tidy q (freshTiles s) := by
  unfold freshTiles
  try dsimp only
  with_reducible repeat' first
    | (intro _) | assumption | apply tidy_setTile | apply tidy_zeroFill | apply tidy_ite | apply tidy_foldl
    | (simp only [tidy_mk]; apply tidy_back) | split | dsimp only

theorem tidy_heartbeatLost (q : List Instr) (s : State) (h1 : Tidy q s) :
    Tidy q (heartbeatLost s) := by
  unfold heartbeatLost
  try dsimp only
  with_reducible repeat' first
    | (intro _) | assumption | apply tidy_ownerFails | apply tidy_ite | (simp only [tidy_mk]; apply tidy_back) | split
    | dsimp only

theorem tidy_logCommit (q : List Instr) (s : State) (h1 : Tidy q s) :
    Tidy q (logCommit s) := by
  unfold logCommit
  try dsimp only
  with_reducible repeat' first
    | (intro _) | assumption | apply tidy_modLog | apply tidy_ite | (simp only [tidy_mk]; apply tidy_back) | split
    | dsimp only

theorem tidy_loseRecord (q : List Instr) (path : Nat) (s : State) (h1 : Tidy q s) :
    Tidy q (loseRecord path s) := by
  unfold loseRecord
  try dsimp only
  with_reducible repeat' first
    | (intro _) | assumption | apply tidy_modLog | apply tidy_ite | (simp only [tidy_mk]; apply tidy_back) | split
    | dsimp only

theorem tidy_logRecordRead (q : List Instr) (path : Nat) (lost : Bool) (s0 : State) (h1 : Tidy q s0) :
    Tidy q (logRecordRead path lost s0) := by
  unfold logRecordRead
  try dsimp only
  with_reducible repeat' first
    | (intro _) | assumption | apply tidy_loseRecord | apply tidy_tell | apply tidy_logRecord | apply tidy_emit
    | apply tidy_ite | (apply tidyTriple_of; assumption) | (simp only [tidy_mk]; apply tidy_back) | split | dsimp only

theorem tidy_mateRise (q : List Instr) (s : State) (h1 : Tidy q s) :
    Tidy q (mateRise s) := by
  unfold mateRise
  try dsimp only
  with_reducible repeat' first
    | (intro _) | assumption | apply tidy_modPins | apply tidy_inputOut | apply tidy_ite
    | (simp only [tidy_mk]; apply tidy_back) | split | dsimp only

theorem tidy_noOwner (q : List Instr) (s : State) (h1 : Tidy q s) :
    Tidy q (noOwner s) := by
  unfold noOwner
  try dsimp only
  with_reducible repeat' first
    | (intro _) | assumption | apply tidy_modPins | apply tidy_modMod | apply tidy_ite
    | (simp only [tidy_mk]; apply tidy_back) | split | dsimp only

theorem tidy_pulseTest (q : List Instr) (e : Nat) (fails : List Nat) (s : State) (h1 : Tidy q s) :
    Tidy q (pulseTest e fails s) := by
  unfold pulseTest
  try dsimp only
  with_reducible repeat' first
    | (intro _) | assumption | apply tidy_engFailed | apply tidy_setEng | apply tidy_ite
    | (simp only [tidy_mk]; apply tidy_back) | split | dsimp only

theorem tidy_recoveryClaim (q : List Instr) (s : State) (h1 : Tidy q s) :
    Tidy q (recoveryClaim s) := by
  unfold recoveryClaim
  try dsimp only
  with_reducible repeat' first
    | (intro _) | assumption | apply tidy_nmtBoot | apply tidy_ownBy | apply tidy_ite
    | (simp only [tidy_mk]; apply tidy_back) | split | dsimp only

theorem tidy_repairRows (q : List Instr) (rows : List Nat) (s : State) (h1 : Tidy q s) :
    Tidy q (repairRows rows s) := by
  unfold repairRows
  try dsimp only
  with_reducible repeat' first
    | (intro _) | assumption | apply tidy_logEvent | apply tidy_odSet | apply tidy_foldl
    | (simp only [tidy_mk]; apply tidy_back) | split | dsimp only

theorem tidy_startStep1 (q : List Instr) (e : StartIn) (s : State) (h1 : Tidy q s) :
    Tidy q (startStep1 e s) := by
  unfold startStep1
  try dsimp only
  with_reducible repeat' first
    | (intro _) | assumption | apply tidy_pulseTest | apply tidy_retire | apply tidy_startFail | apply tidy_odSet
    | apply tidy_setEng | apply tidy_modFlt | apply tidy_ite | apply tidy_foldl
    | (simp only [tidy_mk]; apply tidy_back) | split | dsimp only

theorem tidy_startStep4 (q : List Instr) (s : State) (h1 : Tidy q s) :
    Tidy q (startStep4 s) := by
  unfold startStep4
  try dsimp only
  with_reducible repeat' first
    | (intro _) | assumption | apply tidy_raisePorts | apply tidy_laserUpdate | apply tidy_odSet
    | (simp only [tidy_mk]; apply tidy_back) | split | dsimp only

theorem tidy_startStep6 (q : List Instr) (e : StartIn) (s : State) (h1 : Tidy q s) :
    Tidy q (startStep6 e s) := by
  unfold startStep6
  try dsimp only
  with_reducible repeat' first
    | (intro _) | assumption | apply tidy_repairRows | apply tidy_logEvent | apply tidy_startFail | apply tidy_odSet
    | (simp only [tidy_mk]; apply tidy_back) | split | dsimp only

theorem tidy_startStep8 (q : List Instr) (e : StartIn) (s : State) (h1 : Tidy q s) :
    Tidy q (startStep8 e s) := by
  unfold startStep8
  try dsimp only
  with_reducible repeat' first
    | (intro _) | assumption | apply tidy_startFail | apply tidy_logSimple | apply tidy_setModState | apply tidy_odSet
    | apply tidy_voltStep | apply tidy_freshTiles | apply tidy_ite | (simp only [tidy_mk]; apply tidy_back) | split
    | dsimp only

theorem tidy_startStep (q : List Instr) (e : StartIn) (s : State) (h1 : Tidy q s) :
    Tidy q (startStep e s) := by
  unfold startStep
  try dsimp only
  with_reducible repeat' first
    | (intro _) | assumption | apply tidy_startStep1 | apply tidy_odSet | apply tidy_startStep4 | apply tidy_zeroFill
    | apply tidy_startStep6 | apply tidy_startStep8 | apply tidy_ite | (simp only [tidy_mk]; apply tidy_back) | split
    | dsimp only

theorem tidy_stopDone (q : List Instr) (s : State) (h1 : Tidy q s) :
    Tidy q (stopDone s) := by
  unfold stopDone
  try dsimp only
  with_reducible repeat' first
    | (intro _) | assumption | apply tidy_odSet | apply tidy_setModState | apply tidy_mainDown | apply tidy_ite
    | (simp only [tidy_mk]; apply tidy_back) | split | dsimp only

theorem tidy_odRead (q : List Instr) (path : Nat) (k : Nat) (s : State) (h1 : Tidy q s) :
    Tidy q (odRead path k s).2.2 := by
  unfold odRead
  try dsimp only
  with_reducible repeat' first
    | (intro _) | assumption | apply tidy_logRecord | apply tidy_ite | apply tidy_snd_ite
    | (apply tidyTriple_of; assumption) | (simp only [tidy_mk]; apply tidy_back) | split | dsimp only

theorem tidy_wSpdm (q : List Instr) (n : Nat) (s : State) (h1 : Tidy q s) :
    Tidy q (wSpdm n s).2 := by
  unfold wSpdm
  try dsimp only
  with_reducible repeat' first
    | (intro _) | assumption | apply tidy_ite | apply tidy_snd_ite | (apply tidyPair_of; assumption)
    | (simp only [tidy_mk]; apply tidy_back) | split | dsimp only

theorem tidy_firstEff (q : List Instr) (k : Nat) (v : Nat) (s : State) (a3 : List (Option (Nat × State))) (hl : ∀ o ∈
    a3, TidyAns q o) (h1 : Tidy q s) :
    Tidy q (firstEff k v s a3).2 := by
  induction a3 with
  | nil => exact tidy_wStore q k v s h1
  | cons o l ih =>
    cases o with
    | none => exact ih fun o ho => hl o (List.mem_cons_of_mem _ ho)
    | some r => exact hl (some r) List.mem_cons_self

theorem tidy_wLocate (q : List Instr) (p : Nat) (v : Nat) (s : State) (h1 : Tidy q s) :
    Tidy q (wLocate p v s).2 := by
  unfold wLocate
  try dsimp only
  with_reducible repeat' first
    | (intro _) | assumption | apply tidy_odSet | apply tidy_sendLocate | (apply tidyPair_of; assumption)
    | (simp only [tidy_mk]; apply tidy_back) | split | dsimp only

theorem tidy_wOcSlow (q : List Instr) (n : Nat) (v : Nat) (s : State) (h1 : Tidy q s) :
    Tidy q (wOcSlow n v s).2 := by
  unfold wOcSlow
  try dsimp only
  with_reducible repeat' first
    | (intro _) | assumption | apply tidy_wStore | apply tidy_ite | apply tidy_snd_ite
    | (apply tidyPair_of; assumption) | (simp only [tidy_mk]; apply tidy_back) | split | dsimp only

theorem tidy_wClearBits (q : List Instr) (k : Nat) (bits : List Nat) (v : Nat) (s : State) (h1 : Tidy q s) :
    Tidy q (wClearBits k bits v s).2 := by
  unfold wClearBits
  try dsimp only
  with_reducible repeat' first
    | (intro _) | assumption | apply tidy_odSet | apply tidy_ite | apply tidy_snd_ite
    | (apply tidyPair_of; assumption) | apply tidy_foldl | (simp only [tidy_mk]; apply tidy_back) | split | dsimp only

theorem tidy_wMapCount (q : List Instr) (idx : Nat) (n : Nat) (s : State) (h1 : Tidy q s) :
    Tidy q (wMapCount idx n s).2 := by
  unfold wMapCount
  try dsimp only
  with_reducible repeat' first
    | (intro _) | assumption | apply tidy_odSet | apply tidy_ite | apply tidy_snd_ite
    | (apply tidyPair_of; assumption) | (simp only [tidy_mk]; apply tidy_back) | split | dsimp only

theorem tidy_wTxType (q : List Instr) (k : Nat) (v : Nat) (s : State) (h1 : Tidy q s) :
    Tidy q (wTxType k v s).2 := by
  unfold wTxType
  try dsimp only
  with_reducible repeat' first
    | (intro _) | assumption | apply tidy_wStore | apply tidy_ite | apply tidy_snd_ite
    | (apply tidyPair_of; assumption) | (simp only [tidy_mk]; apply tidy_back) | split | dsimp only

theorem tidy_wIndexed (q : List Instr) (k : Nat) (v : Nat) (env : WriteEnv) (s : State) (h1 : Tidy q s) :
    TidyAns q (wIndexed k v env s) := by
  unfold wIndexed
  try dsimp only
  with_reducible repeat' first
    | (intro _) | assumption | apply tidy_wPortEnable | apply tidy_wFecMode | apply tidy_wLocate
    | apply tidy_wRetrainNow | apply tidy_wVset | apply tidy_wOcSlow | apply tidy_wPeakClear | apply tidy_wClearBits
    | apply tidy_wTileEnable | apply tidy_wMapCount | apply tidy_wTxType | apply tidy_wBrkAddr | apply tidy_wOpc
    | apply tidy_ite | apply tidyAns_ite | apply tidyAns_some | apply tidyAns_none | (apply tidyPair_of; assumption)
    | (simp only [tidy_mk]; apply tidy_back) | split | dsimp only

theorem tidy_wPower (q : List Instr) (k : Nat) (v : Nat) (env : WriteEnv) (s : State) (h1 : Tidy q s) :
    TidyAns q (wPower k v env s) := by
  unfold wPower
  try dsimp only
  with_reducible repeat' first
    | (intro _) | assumption | apply tidy_wCapTarget | apply tidy_wCap | apply tidy_wClearBits | apply tidy_wSafeClear
    | apply tidy_wSlewLimit | apply tidy_wStepTest | apply tidy_wHandover | apply tidy_wFlowLpm | apply tidy_wFlowLoss
    | apply tidy_wTripTest | apply tidy_wGainCommit | apply tidy_wGainSwap | apply tidy_ite | apply tidyAns_ite
    | apply tidyAns_some | apply tidyAns_none | (apply tidyPair_of; assumption)
    | (simp only [tidy_mk]; apply tidy_back) | split | dsimp only

theorem tidy_wUnits (q : List Instr) (k : Nat) (v : Nat) (env : WriteEnv) (s : State) (h1 : Tidy q s) :
    TidyAns q (wUnits k v env s) := by
  unfold wUnits
  try dsimp only
  with_reducible repeat' first
    | (intro _) | assumption | apply tidy_wNodeId | apply tidy_wMachineId | apply tidy_wFabricDims
    | apply tidy_wRekeyAll | apply tidy_wLaserRestart | apply tidy_wMemberRevive | apply tidy_wInjectArm
    | apply tidy_wConfMode | apply tidy_wLinkAuth | apply tidy_wPrimerStart | apply tidy_wStageOffset
    | apply tidy_wStageCommit | apply tidy_wActivate | apply tidy_wCommitSvn | apply tidy_ite | apply tidyAns_ite
    | apply tidyAns_some | apply tidyAns_none | (apply tidyPair_of; assumption)
    | (simp only [tidy_mk]; apply tidy_back) | split | dsimp only

theorem tidy_wReadSeq (q : List Instr) (path : Nat) (v : Nat) (s : State) (h1 : Tidy q s) :
    Tidy q (wReadSeq path v s).2 := by
  unfold wReadSeq
  try dsimp only
  with_reducible repeat' first
    | (intro _) | assumption | apply tidy_modLog | (apply tidyPair_of; assumption)
    | (simp only [tidy_mk]; apply tidy_back) | split | dsimp only

theorem tidy_wMsixVector (q : List Instr) (v : Nat) (s : State) (h1 : Tidy q s) :
    Tidy q (wMsixVector v s).2 := by
  unfold wMsixVector
  try dsimp only
  with_reducible repeat' first
    | (intro _) | assumption | apply tidy_wStore | apply tidy_ite | apply tidy_snd_ite
    | (apply tidyPair_of; assumption) | (simp only [tidy_mk]; apply tidy_back) | split | dsimp only

theorem tidy_wResetField (q : List Instr) (k : Nat) (v : Nat) (s : State) (h1 : Tidy q s) :
    Tidy q (wResetField k v s).2 := by
  unfold wResetField
  try dsimp only
  with_reducible repeat' first
    | (intro _) | assumption | apply tidy_showPending | apply tidy_odSet | (apply tidyPair_of; assumption)
    | (simp only [tidy_mk]; apply tidy_back) | split | dsimp only

theorem tidy_wLife (q : List Instr) (path : Nat) (k : Nat) (v : Nat) (env : WriteEnv) (s : State) (h1 : Tidy q s) :
    TidyAns q (wLife path k v env s) := by
  unfold wLife
  try dsimp only
  with_reducible repeat' first
    | (intro _) | assumption | apply tidy_wTimeRef | apply tidy_wTraceCtl | apply tidy_wTraceArm
    | apply tidy_wTraceStop | apply tidy_wTraceTrigger | apply tidy_wTraceOffset | apply tidy_wBrkResume
    | apply tidy_wWfgRequest | apply tidy_wFreezeNow | apply tidy_wFreezeAt | apply tidy_wFreezeRelease
    | apply tidy_wReadSeq | apply tidy_wReset | apply tidy_wMsixVector | apply tidy_wResetField | apply tidy_wProfile
    | apply tidy_wProfSave | apply tidy_wProfFactory | apply tidy_ite | apply tidyAns_ite | apply tidyAns_some
    | apply tidyAns_none | (apply tidyPair_of; assumption) | (simp only [tidy_mk]; apply tidy_back) | split
    | dsimp only

theorem tidy_wAny (q : List Instr) (path : Nat) (k : Nat) (bs : List Byte) (env : WriteEnv) (s : State) (h1 : Tidy q
    s) :
    Tidy q (wAny path k bs env s).2 := by
  unfold wAny
  dsimp only
  with_reducible repeat' first
    | (intro _) | assumption | apply tidy_wGainImage | apply tidy_wStageChunk | apply tidy_wSpdm | apply tidy_firstEff
    | apply tidy_wIndexed | apply tidy_wPower | apply tidy_wUnits | apply tidy_wLife | apply tidy_ite
    | apply tidy_snd_ite | (apply tidyPair_of; assumption) | (apply tidyAns_of; assumption)
    | (simp only [tidy_mk]; apply tidy_back) | split | dsimp only
  rename_i o ho
  simp only [List.mem_cons, List.not_mem_nil, or_false] at ho
  rcases ho with rfl | rfl | rfl | rfl
  · exact tidy_wIndexed q _ _ _ _ h1
  · exact tidy_wPower q _ _ _ _ h1
  · exact tidy_wUnits q _ _ _ _ h1
  · exact tidy_wLife q _ _ _ _ _ h1

theorem tidy_odWrite (q : List Instr) (path : Nat) (k : Nat) (bs : List Byte) (env : WriteEnv) (s : State) (h1 : Tidy
    q s) :
    Tidy q (odWrite path k bs env s).2 := by
  unfold odWrite
  try dsimp only
  with_reducible repeat' first
    | (intro _) | assumption | apply tidy_odTry | apply tidy_wAny | apply tidy_ite | apply tidy_snd_ite
    | (apply tidyPair_of; assumption) | (simp only [tidy_mk]; apply tidy_back) | split | dsimp only

theorem tidy_objectWrite (q : List Instr) (path : Nat) (k : Nat) (bs : List Byte) (env : WriteEnv) (s : State) (h1 :
    Tidy q s) :
    Tidy q (objectWrite path k bs env s) := by
  unfold objectWrite
  try dsimp only
  with_reducible repeat' first
    | (intro _) | assumption | apply tidy_odWrite | apply tidy_tell | apply tidy_ite | (apply tidyPair_of; assumption)
    | (simp only [tidy_mk]; apply tidy_back) | split | dsimp only

theorem tidy_modCan (q : List Instr) (f : CanSt → CanSt) (s : State) (h1 : Tidy q s) :
    Tidy q (modCan f s) := by
  unfold modCan
  try dsimp only
  with_reducible repeat' first
    | (intro _) | assumption | (simp only [tidy_mk]; apply tidy_back) | split | apply_assumption | dsimp only

theorem tidy_modMail (q : List Instr) (f : MailSt → MailSt) (s : State) (h1 : Tidy q s) :
    Tidy q (modMail f s) := by
  unfold modMail
  try dsimp only
  with_reducible repeat' first
    | (intro _) | assumption | apply tidy_modCan | (simp only [tidy_mk]; apply tidy_back) | split | apply_assumption
    | dsimp only

theorem tidy_mailReadNow (q : List Instr) (s : State) (h1 : Tidy q s) :
    Tidy q (mailReadNow s) := by
  unfold mailReadNow
  try dsimp only
  with_reducible repeat' first
    | (intro _) | assumption | apply tidy_modMail | apply tidy_odRead | apply tidy_ite
    | (apply tidyTriple_of; assumption) | (simp only [tidy_mk]; apply tidy_back) | split | dsimp only

theorem tidy_mailStart (q : List Instr) (cmd : Nat) (s : State) (h1 : Tidy q s) :
    Tidy q (mailStart cmd s) := by
  unfold mailStart
  try dsimp only
  with_reducible repeat' first
    | (intro _) | assumption | apply tidy_modMail | apply tidy_mailReadNow | apply tidy_ite
    | (simp only [tidy_mk]; apply tidy_back) | split | dsimp only

theorem tidy_busHeard (q : List Instr) (bus : Nat) (s : State) (h1 : Tidy q s) :
    Tidy q (busHeard bus s) := by
  unfold busHeard
  try dsimp only
  with_reducible repeat' first
    | (intro _) | assumption | apply tidy_modCan | apply tidy_ite | (simp only [tidy_mk]; apply tidy_back) | split
    | dsimp only

theorem tidy_busAlive (q : List Instr) (bus : Nat) (s0 : State) (h1 : Tidy q s0) :
    Tidy q (busAlive bus s0) := by
  unfold busAlive
  try dsimp only
  with_reducible repeat' first
    | (intro _) | assumption | apply tidy_busHeard | apply tidy_odSet | apply tidy_ite
    | (simp only [tidy_mk]; apply tidy_back) | split | dsimp only

theorem tidy_busLost (q : List Instr) (e : BusLoss) (s : State) (h1 : Tidy q s) :
    Tidy q (busLost e s) := by
  unfold busLost
  try dsimp only
  with_reducible repeat' first
    | (intro _) | assumption | apply tidy_modCan | apply tidy_odSet | apply tidy_ite
    | (simp only [tidy_mk]; apply tidy_back) | split | dsimp only

theorem tidy_busOffEnd (q : List Instr) (bus : Nat) (s : State) (h1 : Tidy q s) :
    Tidy q (busOffEnd bus s) := by
  unfold busOffEnd
  try dsimp only
  with_reducible repeat' first
    | (intro _) | assumption | apply tidy_odSet | apply tidy_modCan | apply tidy_emcyEvent | apply tidy_logSimple
    | apply tidy_ite | (simp only [tidy_mk]; apply tidy_back) | split | dsimp only

theorem tidy_closeSession (q : List Instr) (bus : Nat) (s : State) (h1 : Tidy q s) :
    Tidy q (closeSession bus s) := by
  unfold closeSession
  try dsimp only
  with_reducible repeat' first
    | (intro _) | assumption | apply tidy_modCan | (simp only [tidy_mk]; apply tidy_back) | split | dsimp only

theorem tidy_usdoRefuse (q : List Instr) (bus : Nat) (key : Nat) (code : Nat) (s : State) (h1 : Tidy q s) :
    Tidy q (usdoRefuse bus key code s) := by
  unfold usdoRefuse
  try dsimp only
  with_reducible repeat' first
    | (intro _) | assumption | apply tidy_tell | apply tidy_usdoAbort | (simp only [tidy_mk]; apply tidy_back) | split
    | dsimp only

theorem tidy_usdoAnswer (q : List Instr) (bus : Nat) (kind : Nat) (key : Nat) (bs : List Byte) (s : State) (h1 : Tidy
    q s) :
    Tidy q (usdoAnswer bus kind key bs s) := by
  unfold usdoAnswer
  try dsimp only
  with_reducible repeat' first
    | (intro _) | assumption | apply tidy_usdoSend | (simp only [tidy_mk]; apply tidy_back) | split | dsimp only

theorem tidy_openSession (q : List Instr) (bus : Nat) (u : UsdoSt) (s : State) (h1 : Tidy q s) :
    Tidy q (openSession bus u s) := by
  unfold openSession
  try dsimp only
  with_reducible repeat' first
    | (intro _) | assumption | apply tidy_modCan | (simp only [tidy_mk]; apply tidy_back) | split | dsimp only

theorem tidy_usdoRead (q : List Instr) (bus : Nat) (key : Nat) (s : State) (h1 : Tidy q s) :
    Tidy q (usdoRead bus key s) := by
  unfold usdoRead
  try dsimp only
  with_reducible repeat' first
    | (intro _) | assumption | apply tidy_odRead | apply tidy_usdoRefuse | apply tidy_tell | apply tidy_usdoAnswer
    | apply tidy_openSession | apply tidy_ite | (apply tidyTriple_of; assumption)
    | (simp only [tidy_mk]; apply tidy_back) | split | dsimp only

theorem tidy_usdoWrite (q : List Instr) (bus : Nat) (kind : Nat) (key : Nat) (bs : List Byte) (env : WriteEnv) (s :
    State) (h1 : Tidy q s) :
    Tidy q (usdoWrite bus kind key bs env s) := by
  unfold usdoWrite
  try dsimp only
  with_reducible repeat' first
    | (intro _) | assumption | apply tidy_odWrite | apply tidy_openSession | apply tidy_tell | apply tidy_usdoAnswer
    | apply tidy_usdoRefuse | apply tidy_ite | (apply tidyPair_of; assumption)
    | (simp only [tidy_mk]; apply tidy_back) | split | dsimp only

theorem tidy_usdoInitiate (q : List Instr) (bus : Nat) (r : UsdoReq) (env : WriteEnv) (s0 : State) (h1 : Tidy q s0) :
    Tidy q (usdoInitiate bus r env s0) := by
  unfold usdoInitiate
  try dsimp only
  with_reducible repeat' first
    | (intro _) | assumption | apply tidy_busAlive | apply tidy_usdoRefuse | apply tidy_usdoRead
    | apply tidy_usdoWrite | apply tidy_usdoAnswer | apply tidy_openSession | apply tidy_ite
    | (simp only [tidy_mk]; apply tidy_back) | split | dsimp only

theorem tidy_gainPart (q : List Instr) (bs : List Byte) (s : State) (h1 : Tidy q s) :
    Tidy q (gainPart bs s).2 := by
  unfold gainPart
  try dsimp only
  with_reducible repeat' first
    | (intro _) | assumption | apply tidy_modTrw | apply tidy_setBankValid | apply tidy_setInactive | apply tidy_odSet
    | apply tidy_ite | apply tidy_snd_ite | (apply tidyPair_of; assumption) | (simp only [tidy_mk]; apply tidy_back)
    | split | dsimp only

theorem tidy_segmentIn (q : List Instr) (bus : Nat) (u : UsdoSt) (bs : List Byte) (last : Bool) (env : WriteEnv) (s :
    State) (h1 : Tidy q s) :
    Tidy q (segmentIn bus u bs last env s) := by
  unfold segmentIn
  try dsimp only
  with_reducible repeat' first
    | (intro _) | assumption | apply tidy_usdoRefuse | apply tidy_closeSession | apply tidy_gainPart
    | apply tidy_usdoAnswer | apply tidy_openSession | apply tidy_usdoWrite | apply tidy_ite
    | (apply tidyPair_of; assumption) | (simp only [tidy_mk]; apply tidy_back) | split | dsimp only

theorem tidy_usdoSegment (q : List Instr) (bus : Nat) (bs : List Byte) (last : Bool) (env : WriteEnv) (s0 : State) (h1
    : Tidy q s0) :
    Tidy q (usdoSegment bus bs last env s0) := by
  unfold usdoSegment
  try dsimp only
  with_reducible repeat' first
    | (intro _) | assumption | apply tidy_busAlive | apply tidy_segmentIn | apply tidy_usdoAnswer
    | apply tidy_closeSession | apply tidy_openSession | apply tidy_ite | (simp only [tidy_mk]; apply tidy_back)
    | split | dsimp only

theorem tidy_nmtCommand (q : List Instr) (bus : Nat) (cmd : Nat) (f : State → State) (s0 : State) (hf : ∀ x0, Tidy q
    x0 → Tidy q (f x0)) (h1 : Tidy q s0) :
    Tidy q (nmtCommand bus cmd f s0) := by
  unfold nmtCommand
  try dsimp only
  with_reducible repeat' first
    | (intro _) | assumption | apply tidy_busAlive | apply tidy_modCan | apply tidy_ite
    | (simp only [tidy_mk]; apply tidy_back) | split | apply_assumption | dsimp only

theorem tidy_setNmt (q : List Instr) (v : Nat) (s : State) (h1 : Tidy q s) :
    Tidy q (setNmt v s) := by
  unfold setNmt
  try dsimp only
  with_reducible repeat' first
    | (intro _) | assumption | apply tidy_odSet | (simp only [tidy_mk]; apply tidy_back) | split | dsimp only

theorem tidy_resetComm (q : List Instr) (s : State) (h1 : Tidy q s) :
    Tidy q (resetComm s) := by
  unfold resetComm
  try dsimp only
  with_reducible repeat' first
    | (intro _) | assumption | apply tidy_nmtBoot | apply tidy_showPending | apply tidy_modCan
    | (simp only [tidy_mk]; apply tidy_back) | split | dsimp only

theorem tidy_resetNode (q : List Instr) (s : State) (h1 : Tidy q s) :
    Tidy q (resetNode s) := by
  unfold resetNode
  try dsimp only
  with_reducible repeat' first
    | (intro _) | assumption | apply tidy_resetComm | apply tidy_wProfile | (apply tidyPair_of; assumption)
    | (simp only [tidy_mk]; apply tidy_back) | split | dsimp only

theorem tidy_nmtEffect (q : List Instr) (cmd : Nat) (s : State) (h1 : Tidy q s) :
    Tidy q (nmtEffect cmd s) := by
  unfold nmtEffect
  try dsimp only
  with_reducible repeat' first
    | (intro _) | assumption | apply tidy_setNmt | apply tidy_resetComm | apply tidy_resetNode | apply tidy_ite
    | (simp only [tidy_mk]; apply tidy_back) | split | dsimp only

theorem tidy_rmAlive (q : List Instr) (s : State) (h1 : Tidy q s) :
    Tidy q (rmAlive s) := by
  unfold rmAlive
  try dsimp only
  with_reducible repeat' first
    | (intro _) | assumption | apply tidy_modCan | apply tidy_emcyClear | apply tidy_odSet | apply tidy_ite
    | (simp only [tidy_mk]; apply tidy_back) | split | dsimp only

theorem tidy_rmHeartbeat (q : List Instr) (bus : Nat) (node : Nat) (s0 : State) (h1 : Tidy q s0) :
    Tidy q (rmHeartbeat bus node s0) := by
  unfold rmHeartbeat
  try dsimp only
  with_reducible repeat' first
    | (intro _) | assumption | apply tidy_busAlive | apply tidy_rmAlive | apply tidy_ite
    | (simp only [tidy_mk]; apply tidy_back) | split | dsimp only

theorem tidy_sendTpdo (q : List Instr) (n : Nat) (s : State) (h1 : Tidy q s) :
    Tidy q (sendTpdo n s) := by
  unfold sendTpdo
  try dsimp only
  with_reducible repeat' first
    | (intro _) | assumption | apply tidy_canSend | apply tidy_ite | (simp only [tidy_mk]; apply tidy_back) | split
    | dsimp only

theorem tidy_syncTpdo (q : List Instr) (n : Nat) (s : State) (h1 : Tidy q s) :
    Tidy q (syncTpdo n s) := by
  unfold syncTpdo
  try dsimp only
  with_reducible repeat' first
    | (intro _) | assumption | apply tidy_modCan | apply tidy_sendTpdo | apply tidy_ite
    | (simp only [tidy_mk]; apply tidy_back) | split | dsimp only

theorem tidy_sync (q : List Instr) (bus : Nat) (s0 : State) (h1 : Tidy q s0) :
    Tidy q (sync bus s0) := by
  unfold sync
  try dsimp only
  with_reducible repeat' first
    | (intro _) | assumption | apply tidy_busAlive | apply tidy_syncTpdo | apply tidy_modCan | apply tidy_ite
    | apply tidy_foldl | (simp only [tidy_mk]; apply tidy_back) | split | dsimp only

theorem tidy_rpdoApply (q : List Instr) (bus : Nat) (env : WriteEnv) (a2 : List Nat) (a3 : List Byte) (s : State) (h1
    : Tidy q s) :
    Tidy q (rpdoApply bus env a2 a3 s) := by
  induction a2 generalizing a3 s with
  | nil => exact h1
  | cons e es ih =>
    unfold rpdoApply
    dsimp only
    split
    · exact ih _ _ h1
    · apply ih
      with_reducible repeat' first
        | (intro _) | assumption | apply tidy_odWrite | apply tidy_tell | apply tidy_odAdd32 | apply tidy_ite
        | (apply tidyPair_of; assumption) | (simp only [tidy_mk]; apply tidy_back) | split | apply_assumption
        | dsimp only

theorem tidy_rpdo (q : List Instr) (bus : Nat) (bs : List Byte) (env : WriteEnv) (s0 : State) (h1 : Tidy q s0) :
    Tidy q (rpdo bus bs env s0) := by
  unfold rpdo
  try dsimp only
  with_reducible repeat' first
    | (intro _) | assumption | apply tidy_busAlive | apply tidy_rmAlive | apply tidy_emcyEvent | apply tidy_logSimple
    | apply tidy_rpdoApply | apply tidy_ite | (simp only [tidy_mk]; apply tidy_back) | split | dsimp only

theorem tidy_serveFrame (q : List Instr) (bus : Nat) (f : CanFrame) (s : State) (h1 : Tidy q s) :
    Tidy q (serveFrame bus f s) := by
  unfold serveFrame
  try dsimp only
  with_reducible repeat' first
    | (intro _) | assumption | apply tidy_usdoInitiate | apply tidy_usdoSegment | apply tidy_nmtCommand
    | apply tidy_nmtEffect | apply tidy_rmHeartbeat | apply tidy_sync | apply tidy_rpdo
    | (simp only [tidy_mk]; apply tidy_back) | split | dsimp only

theorem tidy_drainRx (q : List Instr) (s : State) (h1 : Tidy q s) :
    Tidy q (drainRx s) := by
  unfold drainRx
  try dsimp only
  with_reducible repeat' first
    | (intro _) | assumption | apply tidy_drainSpdm | apply tidy_serveFrame | apply tidy_modCan | apply tidy_ite
    | apply tidy_foldl | (simp only [tidy_mk]; apply tidy_back) | split | dsimp only

theorem tidy_heartbeat (q : List Instr) (s : State) (h1 : Tidy q s) :
    Tidy q (heartbeat s) := by
  unfold heartbeat
  try dsimp only
  with_reducible repeat' first
    | (intro _) | assumption | apply tidy_canSend | apply tidy_modCan | apply tidy_ite
    | (simp only [tidy_mk]; apply tidy_back) | split | dsimp only

theorem tidy_inhibitEnd (q : List Instr) (s : State) (h1 : Tidy q s) :
    Tidy q (inhibitEnd s) := by
  unfold inhibitEnd
  try dsimp only
  with_reducible repeat' first
    | (intro _) | assumption | apply tidy_modCan | apply tidy_canSend | apply tidy_ite
    | (simp only [tidy_mk]; apply tidy_back) | split | dsimp only

theorem tidy_mailWriteNow (q : List Instr) (env : WriteEnv) (s : State) (h1 : Tidy q s) :
    Tidy q (mailWriteNow env s) := by
  unfold mailWriteNow
  try dsimp only
  with_reducible repeat' first
    | (intro _) | assumption | apply tidy_mailDone | apply tidy_odWrite | apply tidy_modMail | apply tidy_ite
    | (apply tidyPair_of; assumption) | (simp only [tidy_mk]; apply tidy_back) | split | dsimp only

theorem tidy_mailComplete (q : List Instr) (env : WriteEnv) (s : State) (h1 : Tidy q s) :
    Tidy q (mailComplete env s) := by
  unfold mailComplete
  try dsimp only
  with_reducible repeat' first
    | (intro _) | assumption | apply tidy_mailWriteNow | apply tidy_mailDone | apply tidy_mailReadNow | apply tidy_ite
    | (simp only [tidy_mk]; apply tidy_back) | split | dsimp only

theorem tidy_profileDone (q : List Instr) (s : State) (h1 : Tidy q s) :
    Tidy q (profileDone s) := by
  unfold profileDone
  try dsimp only
  with_reducible repeat' first
    | (intro _) | assumption | apply tidy_flashDone | apply tidy_usdoAnswer | apply tidy_closeSession | apply tidy_ite
    | (simp only [tidy_mk]; apply tidy_back) | split | dsimp only

theorem tidy_rmSilence (q : List Instr) (s : State) (h1 : Tidy q s) :
    Tidy q (rmSilence s) := by
  unfold rmSilence
  try dsimp only
  with_reducible repeat' first
    | (intro _) | assumption | apply tidy_emcyRaise | apply tidy_logSimple | apply tidy_setCapBit | apply tidy_odSet
    | apply tidy_ite | (simp only [tidy_mk]; apply tidy_back) | split | dsimp only

theorem tidy_rxFrame (q : List Instr) (bus : Nat) (f : CanFrame) (s : State) (h1 : Tidy q s) :
    Tidy q (rxFrame bus f s) := by
  unfold rxFrame
  try dsimp only
  with_reducible repeat' first
    | (intro _) | assumption | apply tidy_odAdd32 | apply tidy_busAlive | apply tidy_modCan | apply tidy_serveFrame
    | apply tidy_ite | (simp only [tidy_mk]; apply tidy_back) | split | dsimp only

theorem tidy_tpdoTimer (q : List Instr) (n : Nat) (s : State) (h1 : Tidy q s) :
    Tidy q (tpdoTimer n s) := by
  unfold tpdoTimer
  try dsimp only
  with_reducible repeat' first
    | (intro _) | assumption | apply tidy_sendTpdo | apply tidy_modCan | apply tidy_ite
    | (simp only [tidy_mk]; apply tidy_back) | split | dsimp only

theorem tidy_usdoTimeout (q : List Instr) (bus : Nat) (s : State) (h1 : Tidy q s) :
    Tidy q (usdoTimeout bus s) := by
  unfold usdoTimeout
  try dsimp only
  with_reducible repeat' first
    | (intro _) | assumption | apply tidy_endSession | apply tidy_ite | (simp only [tidy_mk]; apply tidy_back) | split
    | dsimp only

theorem tidy_mailPut (q : List Instr) (f : MailSt → MailSt) (s : State) (h1 : Tidy q s) :
    Tidy q (mailPut f s) := by
  unfold mailPut
  try dsimp only
  with_reducible repeat' first
    | (intro _) | assumption | apply tidy_modMail | apply tidy_ite | (simp only [tidy_mk]; apply tidy_back) | split
    | apply_assumption | dsimp only

theorem tidy_mailCtrl (q : List Instr) (v : Nat) (s : State) (h1 : Tidy q s) :
    Tidy q (mailCtrl v s) := by
  unfold mailCtrl
  try dsimp only
  with_reducible repeat' first
    | (intro _) | assumption | apply tidy_modMail | apply tidy_mailStart | apply tidy_ite
    | (simp only [tidy_mk]; apply tidy_back) | split | dsimp only

theorem tidy_mailDword (q : List Instr) (off : Nat) (v : Nat) (s : State) (h1 : Tidy q s) :
    Tidy q (mailDword off v s) := by
  unfold mailDword
  try dsimp only
  with_reducible repeat' first
    | (intro _) | assumption | apply tidy_mailPut | apply tidy_mailCtrl | apply tidy_ite
    | (simp only [tidy_mk]; apply tidy_back) | split | dsimp only

theorem tidy_ringDword (q : List Instr) (r : Nat) (o : Nat) (v : Nat) (s : State) (h1 : Tidy q s) :
    Tidy q (ringDword r o v s) := by
  unfold ringDword
  try dsimp only
  with_reducible repeat' first
    | (intro _) | assumption | apply tidy_setRing | apply tidy_wRingCtl | apply tidy_ite
    | (simp only [tidy_mk]; apply tidy_back) | split | dsimp only

theorem tidy_cqDword (q : List Instr) (c : Nat) (o : Nat) (v : Nat) (s : State) (h1 : Tidy q s) :
    Tidy q (cqDword c o v s) := by
  unfold cqDword
  try dsimp only
  with_reducible repeat' first
    | (intro _) | assumption | apply tidy_setCq | apply tidy_wCqCtl | apply tidy_ite
    | (simp only [tidy_mk]; apply tidy_back) | split | dsimp only

theorem tidy_bar2Half (q : List Instr) (hi : Nat) (v : Nat) (s : State) (h1 : Tidy q s) :
    Tidy q (bar2Half hi v s) := by
  unfold bar2Half
  try dsimp only
  with_reducible repeat' first | (intro _) | assumption | (simp only [tidy_mk]; apply tidy_back) | split | dsimp only

theorem tidy_msixDword (q : List Instr) (o : Nat) (v : Nat) (s : State) (h1 : Tidy q s) :
    Tidy q (msixDword o v s) := by
  unfold msixDword
  try dsimp only
  with_reducible repeat' first
    | (intro _) | assumption | apply tidy_setMsix | apply tidy_flushMsix | (simp only [tidy_mk]; apply tidy_back)
    | split | dsimp only

theorem tidy_bar0Dword (q : List Instr) (off : Nat) (v : Nat) (s : State) (h1 : Tidy q s) :
    Tidy q (bar0Dword off v s) := by
  unfold bar0Dword
  try dsimp only
  with_reducible repeat' first
    | (intro _) | assumption | apply tidy_mailDword | apply tidy_ringDword | apply tidy_cqDword | apply tidy_bar2Half
    | apply tidy_msixDword | apply tidy_ite | (simp only [tidy_mk]; apply tidy_back) | split | dsimp only

theorem tidy_bar0Read (q : List Instr) (off : Nat) (n : Nat) (s : State) (h1 : Tidy q s) :
    Tidy q (bar0Read off n s) := by
  unfold bar0Read
  try dsimp only
  with_reducible repeat' first
    | (intro _) | assumption | apply tidy_unsupported | apply tidy_pcieCount | apply tidy_emit | apply tidy_ite
    | (simp only [tidy_mk]; apply tidy_back) | split | dsimp only

theorem tidy_bar0Write (q : List Instr) (off : Nat) (bs : List Byte) (s : State) (h1 : Tidy q s) :
    Tidy q (bar0Write off bs s) := by
  unfold bar0Write
  try dsimp only
  with_reducible repeat' first
    | (intro _) | assumption | apply tidy_unsupported | apply tidy_pcieCount | apply tidy_bar0Dword
    | apply tidy_wCqCtl | apply tidy_ite | (simp only [tidy_mk]; apply tidy_back) | split | dsimp only

theorem tidy_cfgAccess (q : List Instr) (f : CfgField) (v : Option Nat) (s : State) (h1 : Tidy q s) :
    Tidy q (cfgAccess f v s) := by
  unfold cfgAccess
  try dsimp only
  with_reducible repeat' first
    | (intro _) | assumption | apply tidy_flushMsix | apply tidy_emit | apply tidy_ite
    | (simp only [tidy_mk]; apply tidy_back) | split | dsimp only

theorem tidy_hostAccess (q : List Instr) (off : Nat) (a : HostAccess) (s : State) (h1 : Tidy q s) :
    Tidy q (hostAccess off a s) := by
  unfold hostAccess
  try dsimp only
  with_reducible repeat' first
    | (intro _) | assumption | apply tidy_bar0Write | apply tidy_bar0Read | apply tidy_cfgAccess | apply tidy_emit
    | apply tidy_ite | (simp only [tidy_mk]; apply tidy_back) | split | dsimp only

end Sys2Proof.Machine
end

