-- ==== Sys2Proof/Laws/WithinTile.lean ====
section
/-! SUPPORT. The parts of the state that each operation may change: the objects, the trace, the logbook, memory and the tiles. -/
namespace Sys2Proof.Machine
open Sys2Proof

/-- Every part of `A` is one of `B`. -/
def subP (A B : List Part) : Bool := A.all fun f => B.contains f

/-- An access to module memory, a packet served, a slot, an answer: its state, if it gives one, differs at most in `T`. -/
def WithinRes {α : Type} (T : List Part) (o : State) : MemRes α → Prop
  | .ok _ s => Within T o s
  | .ue _ s => Within T o s

def WithinServe (T : List Part) (o : State) : MemRes State → Prop
  | .ok t _ => Within T o t
  | .ue _ s => Within T o s

def WithinSlot (T : List Part) (o : State) : SlotRes → Prop
  | .ok _ s => Within T o s
  | .exc _ s => Within T o s
  | .ue _ s => Within T o s

def WithinOpt (T : List Part) (o : State) : Option State → Prop
  | some s => Within T o s
  | none => True

def WithinAns {α : Type} (T : List Part) (o : State) : Option (α × State) → Prop
  | some r => Within T o r.2
  | none => True

theorem subP_trans {A B C : List Part} (h : subP A B = true) (g : subP B C = true) : subP A C = true := by
  simp only [subP, List.all_eq_true, List.contains_iff_mem] at *
  exact fun f hf => g f (h f hf)

theorem subP_mem {A B : List Part} (h : subP A B = true) {f : Part} (hf : B.contains f = false) : A.contains f = false
    := by
  simp only [subP, List.all_eq_true] at h
  cases ha : A.contains f with
  | false => rfl
  | true => rw [h f (List.contains_iff_mem.mp ha)] at hf; cases hf

theorem within_f_pending {T : List Part} {o s : State} (h : Within T o s) (hf : T.contains .pending = false) :
    s.pending = o.pending := h _ hf

theorem within_f_now {T : List Part} {o s : State} (h : Within T o s) (hf : T.contains .now = false) : s.now = o.now
    := h _ hf

theorem within_f_od {T : List Part} {o s : State} (h : Within T o s) (hf : T.contains .od = false) : s.od = o.od := h
    _ hf

theorem within_f_dom {T : List Part} {o s : State} (h : Within T o s) (hf : T.contains .dom = false) : s.dom = o.dom
    := h _ hf

theorem within_f_out {T : List Part} {o s : State} (h : Within T o s) (hf : T.contains .out = false) : s.out = o.out
    := h _ hf

theorem within_f_resp {T : List Part} {o s : State} (h : Within T o s) (hf : T.contains .resp = false) : s.resp =
    o.resp := h _ hf

theorem within_f_freeCtr {T : List Part} {o s : State} (h : Within T o s) (hf : T.contains .freeCtr = false) :
    s.freeCtr = o.freeCtr := h _ hf

theorem within_f_mem {T : List Part} {o s : State} (h : Within T o s) (hf : T.contains .mem = false) : s.mem = o.mem
    := h _ hf

theorem within_f_ecc {T : List Part} {o s : State} (h : Within T o s) (hf : T.contains .ecc = false) : s.ecc = o.ecc
    := h _ hf

theorem within_f_tiles {T : List Part} {o s : State} (h : Within T o s) (hf : T.contains .tiles = false) : s.tiles =
    o.tiles := h _ hf

theorem within_f_mesh {T : List Part} {o s : State} (h : Within T o s) (hf : T.contains .mesh = false) : s.mesh =
    o.mesh := h _ hf

theorem within_f_graphs {T : List Part} {o s : State} (h : Within T o s) (hf : T.contains .graphs = false) : s.graphs
    = o.graphs := h _ hf

theorem within_f_cmds {T : List Part} {o s : State} (h : Within T o s) (hf : T.contains .cmds = false) : s.cmds =
    o.cmds := h _ hf

theorem within_f_hst {T : List Part} {o s : State} (h : Within T o s) (hf : T.contains .hst = false) : s.hst = o.hst
    := h _ hf

theorem within_f_fab {T : List Part} {o s : State} (h : Within T o s) (hf : T.contains .fab = false) : s.fab = o.fab
    := h _ hf

theorem within_f_rem {T : List Part} {o s : State} (h : Within T o s) (hf : T.contains .rem = false) : s.rem = o.rem
    := h _ hf

theorem within_f_flt {T : List Part} {o s : State} (h : Within T o s) (hf : T.contains .flt = false) : s.flt = o.flt
    := h _ hf

theorem within_f_trw {T : List Part} {o s : State} (h : Within T o s) (hf : T.contains .trw = false) : s.trw = o.trw
    := h _ hf

theorem within_f_sec {T : List Part} {o s : State} (h : Within T o s) (hf : T.contains .sec = false) : s.sec = o.sec
    := h _ hf

theorem within_f_meas {T : List Part} {o s : State} (h : Within T o s) (hf : T.contains .meas = false) : s.meas =
    o.meas := h _ hf

theorem within_f_tim {T : List Part} {o s : State} (h : Within T o s) (hf : T.contains .tim = false) : s.tim = o.tim
    := h _ hf

theorem within_f_obs {T : List Part} {o s : State} (h : Within T o s) (hf : T.contains .obs = false) : s.obs = o.obs
    := h _ hf

theorem within_f_log {T : List Part} {o s : State} (h : Within T o s) (hf : T.contains .log = false) : s.log = o.log
    := h _ hf

theorem within_f_frz {T : List Part} {o s : State} (h : Within T o s) (hf : T.contains .frz = false) : s.frz = o.frz
    := h _ hf

theorem within_f_can {T : List Part} {o s : State} (h : Within T o s) (hf : T.contains .can = false) : s.can = o.can
    := h _ hf

theorem within_f_mod {T : List Part} {o s : State} (h : Within T o s) (hf : T.contains .mod = false) : s.mod = o.mod
    := h _ hf

theorem within_refl (T : List Part) (s : State) : Within T s s := fun f _ => by cases f <;> rfl

theorem within_foldl {α : Type} (T : List Part) (orig : State) (f : State → α → State) (l : List α) (s : State) (h :
    Within T orig s)
    (hf : ∀ s x, Within T orig s → Within T orig (f s x)) : Within T orig (l.foldl f s) := by
  induction l generalizing s with
  | nil => exact h
  | cons x r ih => exact ih _ (hf _ _ h)

theorem within_ite (T : List Part) (orig : State) (c : Prop) [Decidable c] (s t : State) (hs : Within T orig s) (ht :
    Within T orig t) :
    Within T orig (if c then s else t) := by split <;> assumption

theorem withinRes_ite {α : Type} (T : List Part) (orig : State) (c : Prop) [Decidable c] (s t : MemRes α) (hs :
    WithinRes T orig s)
    (ht : WithinRes T orig t) : WithinRes T orig (if c then s else t) := by split <;> assumption

theorem withinRes_ok {α : Type} (T : List Part) (orig : State) (x : α) (s : State) (hs : Within T orig s) : WithinRes
    T orig (.ok x s) := hs

theorem withinServe_ok (T : List Part) (orig : State) (t s : State) (h : Within T orig t) : WithinServe T orig (.ok t
    s) := h

theorem withinServe_of (T : List Part) (orig : State) (r : MemRes State) (t s : State) (e : r = .ok t s) (h :
    WithinServe T orig r) :
    Within T orig t := by subst e; exact h

theorem withinRes_of {α : Type} (T : List Part) (orig : State) (r : MemRes α) (x : α) (s : State) (e : r = .ok x s) (h
    : WithinRes T orig r) :
    Within T orig s := by subst e; exact h

theorem withinSlot_of (T : List Part) (orig : State) (r : SlotRes) (x : List TEff) (s : State) (e : r = .ok x s) (h :
    WithinSlot T orig r) :
    Within T orig s := by subst e; exact h

theorem withinPair_of {α : Type} (T : List Part) (orig : State) (r : α × State) (x : α) (s : State) (e : r = (x, s))
    (h : Within T orig r.2) :
    Within T orig s := by subst e; exact h

theorem withinTriple_of {α β : Type} (T : List Part) (orig : State) (r : α × β × State) (x : α) (y : β) (s : State) (e
    : r = (x, y, s))
    (h : Within T orig r.2.2) : Within T orig s := by subst e; exact h

theorem withinOpt_of (T : List Part) (orig : State) (r : Option State) (s : State) (e : r = some s) (h : WithinOpt T
    orig r) : Within T orig s := by
  subst e; exact h

theorem withinAns_of {α : Type} (T : List Part) (orig : State) (r : Option (α × State)) (x : α) (s : State) (e : r =
    some (x, s))
    (h : WithinAns T orig r) : Within T orig s := by subst e; exact h

theorem withinOpt_ite (T : List Part) (orig : State) (c : Prop) [Decidable c] (s t : Option State) (hs : WithinOpt T
    orig s) (ht : WithinOpt T orig t) :
    WithinOpt T orig (if c then s else t) := by split <;> assumption

theorem withinAns_ite {α : Type} (T : List Part) (orig : State) (c : Prop) [Decidable c] (s t : Option (α × State))
    (hs : WithinAns T orig s)
    (ht : WithinAns T orig t) : WithinAns T orig (if c then s else t) := by split <;> assumption

theorem withinRes_ue {α : Type} (T : List Part) (orig : State) (m : UeMet) (s : State) (hs : Within T orig s) :
    WithinRes (α := α) T orig (.ue m s) := hs

theorem withinRes_ofUe {α : Type} (T : List Part) (orig : State) (r : MemRes α) (m : UeMet) (s : State) (e : r = .ue m
    s) (h : WithinRes T orig r) :
    Within T orig s := by subst e; exact h

theorem withinServe_ue (T : List Part) (orig : State) (m : UeMet) (s : State) (hs : Within T orig s) : WithinServe T
    orig (.ue m s) := hs

theorem withinServe_ofUe (T : List Part) (orig : State) (r : MemRes State) (m : UeMet) (s : State) (e : r = .ue m s)
    (h : WithinServe T orig r) :
    Within T orig s := by subst e; exact h

theorem withinSlot_exc (T : List Part) (orig : State) (c : Nat) (s : State) (hs : Within T orig s) : WithinSlot T orig
    (.exc c s) := hs

theorem withinSlot_ue (T : List Part) (orig : State) (m : UeMet) (s : State) (hs : Within T orig s) : WithinSlot T
    orig (.ue m s) := hs

theorem withinSlot_ofExc (T : List Part) (orig : State) (r : SlotRes) (c : Nat) (s : State) (e : r = .exc c s) (h :
    WithinSlot T orig r) :
    Within T orig s := by subst e; exact h

theorem withinSlot_ofUe (T : List Part) (orig : State) (r : SlotRes) (m : UeMet) (s : State) (e : r = .ue m s) (h :
    WithinSlot T orig r) :
    Within T orig s := by subst e; exact h

theorem withinOpt_none (T : List Part) (orig : State) : WithinOpt T orig none := True.intro

theorem withinAns_none {α : Type} (T : List Part) (orig : State) : WithinAns (α := α) T orig none := True.intro

theorem withinOpt_some (T : List Part) (orig : State) (s : State) (h : Within T orig s) : WithinOpt T orig (some s) :=
    h

theorem withinAns_some {α : Type} (T : List Part) (orig : State) (r : α × State) (h : Within T orig r.2) : WithinAns T
    orig (some r) := h

theorem within_snd_ite {α : Type} (T : List Part) (orig : State) (c : Prop) [Decidable c] (s t : α × State) (hs :
    Within T orig s.2)
    (ht : Within T orig t.2) : Within T orig (if c then s else t).2 := by split <;> assumption

theorem withinSlot_ok (T : List Part) (orig : State) (x : List TEff) (s : State) (hs : Within T orig s) : WithinSlot T
    orig (.ok x s) := hs

theorem within_set_can (T : List Part) (orig : State)
    (hT : subP [.can] T = true)
    (s : State) (x0 : CanSt) (h : Within T orig s) :
    Within T orig { s with
      can := x0 } := by
  intro f hf
  have hn := subP_mem hT hf
  cases f <;> first | exact absurd hn (by decide) | exact h _ hf

theorem within_set_cmds (T : List Part) (orig : State)
    (hT : subP [.cmds] T = true)
    (s : State) (x0 : List CmdEnt) (h : Within T orig s) :
    Within T orig { s with
      cmds := x0 } := by
  intro f hf
  have hn := subP_mem hT hf
  cases f <;> first | exact absurd hn (by decide) | exact h _ hf

theorem within_set_dom (T : List Part) (orig : State)
    (hT : subP [.dom] T = true)
    (s : State) (x0 : Table (List Byte)) (h : Within T orig s) :
    Within T orig { s with
      dom := x0 } := by
  intro f hf
  have hn := subP_mem hT hf
  cases f <;> first | exact absurd hn (by decide) | exact h _ hf

theorem within_set_ecc (T : List Part) (orig : State)
    (hT : subP [.ecc] T = true)
    (s : State) (x0 : EccSt) (h : Within T orig s) :
    Within T orig { s with
      ecc := x0 } := by
  intro f hf
  have hn := subP_mem hT hf
  cases f <;> first | exact absurd hn (by decide) | exact h _ hf

theorem within_set_fab (T : List Part) (orig : State)
    (hT : subP [.fab] T = true)
    (s : State) (x0 : FabSt) (h : Within T orig s) :
    Within T orig { s with
      fab := x0 } := by
  intro f hf
  have hn := subP_mem hT hf
  cases f <;> first | exact absurd hn (by decide) | exact h _ hf

theorem within_set_flt (T : List Part) (orig : State)
    (hT : subP [.flt] T = true)
    (s : State) (x0 : FloatSt) (h : Within T orig s) :
    Within T orig { s with
      flt := x0 } := by
  intro f hf
  have hn := subP_mem hT hf
  cases f <;> first | exact absurd hn (by decide) | exact h _ hf

theorem within_set_freeCtr (T : List Part) (orig : State)
    (hT : subP [.freeCtr] T = true)
    (s : State) (x0 : Nat) (h : Within T orig s) :
    Within T orig { s with
      freeCtr := x0 } := by
  intro f hf
  have hn := subP_mem hT hf
  cases f <;> first | exact absurd hn (by decide) | exact h _ hf

theorem within_set_frz (T : List Part) (orig : State)
    (hT : subP [.frz] T = true)
    (s : State) (x0 : Table Nat) (h : Within T orig s) :
    Within T orig { s with
      frz := x0 } := by
  intro f hf
  have hn := subP_mem hT hf
  cases f <;> first | exact absurd hn (by decide) | exact h _ hf

theorem within_set_graphs (T : List Part) (orig : State)
    (hT : subP [.graphs] T = true)
    (s : State) (x0 : Table GraphSt) (h : Within T orig s) :
    Within T orig { s with
      graphs := x0 } := by
  intro f hf
  have hn := subP_mem hT hf
  cases f <;> first | exact absurd hn (by decide) | exact h _ hf

theorem within_set_hst (T : List Part) (orig : State)
    (hT : subP [.hst] T = true)
    (s : State) (x0 : HostSt) (h : Within T orig s) :
    Within T orig { s with
      hst := x0 } := by
  intro f hf
  have hn := subP_mem hT hf
  cases f <;> first | exact absurd hn (by decide) | exact h _ hf

theorem within_set_log (T : List Part) (orig : State)
    (hT : subP [.log] T = true)
    (s : State) (x0 : LogSt) (h : Within T orig s) :
    Within T orig { s with
      log := x0 } := by
  intro f hf
  have hn := subP_mem hT hf
  cases f <;> first | exact absurd hn (by decide) | exact h _ hf

theorem within_set_meas (T : List Part) (orig : State)
    (hT : subP [.meas] T = true)
    (s : State) (x0 : MeasSt) (h : Within T orig s) :
    Within T orig { s with
      meas := x0 } := by
  intro f hf
  have hn := subP_mem hT hf
  cases f <;> first | exact absurd hn (by decide) | exact h _ hf

theorem within_set_mem (T : List Part) (orig : State)
    (hT : subP [.mem] T = true)
    (s : State) (x0 : Memory) (h : Within T orig s) :
    Within T orig { s with
      mem := x0 } := by
  intro f hf
  have hn := subP_mem hT hf
  cases f <;> first | exact absurd hn (by decide) | exact h _ hf

theorem within_set_mesh (T : List Part) (orig : State)
    (hT : subP [.mesh] T = true)
    (s : State) (x0 : Mesh) (h : Within T orig s) :
    Within T orig { s with
      mesh := x0 } := by
  intro f hf
  have hn := subP_mem hT hf
  cases f <;> first | exact absurd hn (by decide) | exact h _ hf

theorem within_set_mod (T : List Part) (orig : State)
    (hT : subP [.mod] T = true)
    (s : State) (x0 : ModSt) (h : Within T orig s) :
    Within T orig { s with
      mod := x0 } := by
  intro f hf
  have hn := subP_mem hT hf
  cases f <;> first | exact absurd hn (by decide) | exact h _ hf

theorem within_set_now (T : List Part) (orig : State)
    (hT : subP [.now] T = true)
    (s : State) (x0 : Nat) (h : Within T orig s) :
    Within T orig { s with
      now := x0 } := by
  intro f hf
  have hn := subP_mem hT hf
  cases f <;> first | exact absurd hn (by decide) | exact h _ hf

theorem within_set_obs (T : List Part) (orig : State)
    (hT : subP [.obs] T = true)
    (s : State) (x0 : ObsSt) (h : Within T orig s) :
    Within T orig { s with
      obs := x0 } := by
  intro f hf
  have hn := subP_mem hT hf
  cases f <;> first | exact absurd hn (by decide) | exact h _ hf

theorem within_set_od (T : List Part) (orig : State)
    (hT : subP [.od] T = true)
    (s : State) (x0 : Table Nat) (h : Within T orig s) :
    Within T orig { s with
      od := x0 } := by
  intro f hf
  have hn := subP_mem hT hf
  cases f <;> first | exact absurd hn (by decide) | exact h _ hf

theorem within_set_out (T : List Part) (orig : State)
    (hT : subP [.out] T = true)
    (s : State) (x0 : List Output) (h : Within T orig s) :
    Within T orig { s with
      out := x0 } := by
  intro f hf
  have hn := subP_mem hT hf
  cases f <;> first | exact absurd hn (by decide) | exact h _ hf

theorem within_set_rem (T : List Part) (orig : State)
    (hT : subP [.rem] T = true)
    (s : State) (x0 : RemSt) (h : Within T orig s) :
    Within T orig { s with
      rem := x0 } := by
  intro f hf
  have hn := subP_mem hT hf
  cases f <;> first | exact absurd hn (by decide) | exact h _ hf

theorem within_set_resp (T : List Part) (orig : State)
    (hT : subP [.resp] T = true)
    (s : State) (x0 : Nat) (h : Within T orig s) :
    Within T orig { s with
      resp := x0 } := by
  intro f hf
  have hn := subP_mem hT hf
  cases f <;> first | exact absurd hn (by decide) | exact h _ hf

theorem within_set_sec (T : List Part) (orig : State)
    (hT : subP [.sec] T = true)
    (s : State) (x0 : SecSt) (h : Within T orig s) :
    Within T orig { s with
      sec := x0 } := by
  intro f hf
  have hn := subP_mem hT hf
  cases f <;> first | exact absurd hn (by decide) | exact h _ hf

theorem within_set_tiles (T : List Part) (orig : State)
    (hT : subP [.tiles] T = true)
    (s : State) (x0 : Table TileSt) (h : Within T orig s) :
    Within T orig { s with
      tiles := x0 } := by
  intro f hf
  have hn := subP_mem hT hf
  cases f <;> first | exact absurd hn (by decide) | exact h _ hf

theorem within_set_tim (T : List Part) (orig : State)
    (hT : subP [.tim] T = true)
    (s : State) (x0 : TimeSt) (h : Within T orig s) :
    Within T orig { s with
      tim := x0 } := by
  intro f hf
  have hn := subP_mem hT hf
  cases f <;> first | exact absurd hn (by decide) | exact h _ hf

theorem within_set_trw (T : List Part) (orig : State)
    (hT : subP [.trw] T = true)
    (s : State) (x0 : TrwSt) (h : Within T orig s) :
    Within T orig { s with
      trw := x0 } := by
  intro f hf
  have hn := subP_mem hT hf
  cases f <;> first | exact absurd hn (by decide) | exact h _ hf

theorem within_set_cmds_hst (T : List Part) (orig : State)
    (hT : subP [.cmds, .hst] T = true)
    (s : State) (x0 : List CmdEnt) (x1 : HostSt) (h : Within T orig s) :
    Within T orig { s with
      cmds := x0, hst := x1 } := by
  intro f hf
  have hn := subP_mem hT hf
  cases f <;> first | exact absurd hn (by decide) | exact h _ hf

theorem within_set_dom_obs (T : List Part) (orig : State)
    (hT : subP [.dom, .obs] T = true)
    (s : State) (x0 : Table (List Byte)) (x1 : ObsSt) (h : Within T orig s) :
    Within T orig { s with
      dom := x0, obs := x1 } := by
  intro f hf
  have hn := subP_mem hT hf
  cases f <;> first | exact absurd hn (by decide) | exact h _ hf

theorem within_set_dom_resp (T : List Part) (orig : State)
    (hT : subP [.dom, .resp] T = true)
    (s : State) (x0 : Table (List Byte)) (x1 : Nat) (h : Within T orig s) :
    Within T orig { s with
      dom := x0, resp := x1 } := by
  intro f hf
  have hn := subP_mem hT hf
  cases f <;> first | exact absurd hn (by decide) | exact h _ hf

theorem within_set_hst_rem (T : List Part) (orig : State)
    (hT : subP [.hst, .rem] T = true)
    (s : State) (x0 : HostSt) (x1 : RemSt) (h : Within T orig s) :
    Within T orig { s with
      hst := x0, rem := x1 } := by
  intro f hf
  have hn := subP_mem hT hf
  cases f <;> first | exact absurd hn (by decide) | exact h _ hf

theorem within_set_mem_ecc (T : List Part) (orig : State)
    (hT : subP [.mem, .ecc] T = true)
    (s : State) (x0 : Memory) (x1 : EccSt) (h : Within T orig s) :
    Within T orig { s with
      mem := x0, ecc := x1 } := by
  intro f hf
  have hn := subP_mem hT hf
  cases f <;> first | exact absurd hn (by decide) | exact h _ hf

theorem within_set_now_mod (T : List Part) (orig : State)
    (hT : subP [.now, .mod] T = true)
    (s : State) (x0 : Nat) (x1 : ModSt) (h : Within T orig s) :
    Within T orig { s with
      now := x0, mod := x1 } := by
  intro f hf
  have hn := subP_mem hT hf
  cases f <;> first | exact absurd hn (by decide) | exact h _ hf

theorem within_set_od_frz (T : List Part) (orig : State)
    (hT : subP [.od, .frz] T = true)
    (s : State) (x0 : Table Nat) (x1 : Table Nat) (h : Within T orig s) :
    Within T orig { s with
      od := x0, frz := x1 } := by
  intro f hf
  have hn := subP_mem hT hf
  cases f <;> first | exact absurd hn (by decide) | exact h _ hf

theorem within_set_tiles_mesh (T : List Part) (orig : State)
    (hT : subP [.tiles, .mesh] T = true)
    (s : State) (x0 : Table TileSt) (x1 : Mesh) (h : Within T orig s) :
    Within T orig { s with
      tiles := x0, mesh := x1 } := by
  intro f hf
  have hn := subP_mem hT hf
  cases f <;> first | exact absurd hn (by decide) | exact h _ hf

theorem within_set_tiles_rem (T : List Part) (orig : State)
    (hT : subP [.tiles, .rem] T = true)
    (s : State) (x0 : Table TileSt) (x1 : RemSt) (h : Within T orig s) :
    Within T orig { s with
      tiles := x0, rem := x1 } := by
  intro f hf
  have hn := subP_mem hT hf
  cases f <;> first | exact absurd hn (by decide) | exact h _ hf

theorem within_set_ecc_tiles_mesh_graphs_cmds_rem_meas_tim_obs (T : List Part) (orig : State)
    (hT : subP [.ecc, .tiles, .mesh, .graphs, .cmds, .rem, .meas, .tim, .obs] T = true)
        (s : State) (x0 : EccSt) (x1 : Table TileSt) (x2 : Mesh) (x3 : Table GraphSt) (x4 : List CmdEnt) (x5 : RemSt)
        (x6 : MeasSt) (x7 : TimeSt) (x8 : ObsSt) (h : Within T orig s) :
    Within T orig { s with
      ecc := x0, tiles := x1, mesh := x2, graphs := x3, cmds := x4, rem := x5,
      meas := x6, tim := x7, obs := x8 } := by
  intro f hf
  have hn := subP_mem hT hf
  cases f <;> first | exact absurd hn (by decide) | exact h _ hf

theorem within_set_now_od_dom_ecc_tiles_mesh_graphs_cmds_hst_fab_rem_flt_trw_sec_meas_tim_obs_log_frz_can_mod (T :
    List Part) (orig : State)
        (hT : subP [.now, .od, .dom, .ecc, .tiles, .mesh, .graphs, .cmds, .hst, .fab, .rem, .flt, .trw, .sec, .meas,
        .tim, .obs, .log, .frz, .can, .mod] T = true)
        (s : State) (x0 : Nat) (x1 : Table Nat) (x2 : Table (List Byte)) (x3 : EccSt) (x4 : Table TileSt) (x5 : Mesh)
        (x6 : Table GraphSt) (x7 : List CmdEnt) (x8 : HostSt) (x9 : FabSt) (x10 : RemSt) (x11 : FloatSt) (x12 : TrwSt)
        (x13 : SecSt) (x14 : MeasSt) (x15 : TimeSt) (x16 : ObsSt) (x17 : LogSt) (x18 : Table Nat) (x19 : CanSt) (x20 :
        ModSt) (h : Within T orig s) :
    Within T orig { s with
      now := x0, od := x1, dom := x2, ecc := x3, tiles := x4, mesh := x5,
      graphs := x6, cmds := x7, hst := x8, fab := x9, rem := x10, flt := x11,
      trw := x12, sec := x13, meas := x14, tim := x15, obs := x16, log := x17,
      frz := x18, can := x19, mod := x20 } := by
  intro f hf
  have hn := subP_mem hT hf
  cases f <;> first | exact absurd hn (by decide) | exact h _ hf

theorem within_odSet (T : List Part) (orig : State) (hT : subP [.od] T = true) (s : State) (k : Nat) (v : Nat) (h1 :
    Within T orig s) :
    Within T orig (odSet s k v) := by
  unfold odSet
  try dsimp only
  with_reducible repeat' first
    | (intro _) | assumption | (exact subP_trans (by decide) hT) | split | dsimp only | apply within_set_od

theorem within_odBit (T : List Part) (orig : State) (hT : subP [.od] T = true) (s : State) (k : Nat) (i : Nat) (b :
    Bool) (h1 : Within T orig s) :
    Within T orig (odBit s k i b) := by
  unfold odBit
  try dsimp only
  with_reducible repeat' first
    | (intro _) | assumption | (exact subP_trans (by decide) hT) | apply within_odSet | split | dsimp only

theorem within_setTile (T : List Part) (orig : State) (hT : subP [.tiles] T = true) (s : State) (t : Nat) (x : TileSt)
    (h1 : Within T orig s) :
    Within T orig (setTile s t x) := by
  unfold setTile
  try dsimp only
  with_reducible repeat' first
    | (intro _) | assumption | (exact subP_trans (by decide) hT) | split | dsimp only | apply within_set_tiles

theorem within_odAdd (T : List Part) (orig : State) (hT : subP [.od] T = true) (s : State) (k : Nat) (n : Nat) (h1 :
    Within T orig s) :
    Within T orig (odAdd s k n) := by
  unfold odAdd
  try dsimp only
  with_reducible repeat' first
    | (intro _) | assumption | (exact subP_trans (by decide) hT) | apply within_odSet | split | dsimp only

theorem within_odAdd32 (T : List Part) (orig : State) (hT : subP [.od] T = true) (s : State) (k : Nat) (n : Nat) (h1 :
    Within T orig s) :
    Within T orig (odAdd32 s k n) := by
  unfold odAdd32
  try dsimp only
  with_reducible repeat' first
    | (intro _) | assumption | (exact subP_trans (by decide) hT) | apply within_odSet | split | dsimp only

theorem within_odClear (T : List Part) (orig : State) (hT : subP [.od] T = true) (s : State) (k : Nat) (h1 : Within T
    orig s) :
    Within T orig (odClear s k) := by
  unfold odClear
  try dsimp only
  with_reducible repeat' first
    | (intro _) | assumption | (exact subP_trans (by decide) hT) | split | dsimp only | apply within_set_od

theorem within_freeNext (T : List Part) (orig : State) (hT : subP [.freeCtr] T = true) (s : State) (h1 : Within T orig
    s) :
    Within T orig (freeNext s).2 := by
  unfold freeNext
  try dsimp only
  with_reducible repeat' first
    | (intro _) | assumption | (exact subP_trans (by decide) hT) | (apply withinPair_of; assumption) | split
    | dsimp only | apply within_set_freeCtr

theorem within_freezeMerge (T : List Part) (orig : State) (hT : subP [.od, .obs] T = true) (cause : Nat) (s : State)
    (h1 : Within T orig s) :
    Within T orig (freezeMerge cause s) := by
  unfold freezeMerge
  try dsimp only
  with_reducible repeat' first
    | (intro _) | assumption | (exact subP_trans (by decide) hT) | apply within_odSet | apply within_ite | split
    | dsimp only | apply within_set_obs

theorem within_freezeLatch (T : List Part) (orig : State) (hT : subP [.od, .frz] T = true) (cause : Nat) (s : State)
    (h1 : Within T orig s) :
    Within T orig (freezeLatch cause s) := by
  unfold freezeLatch
  try dsimp only
  with_reducible repeat' first
    | (intro _) | assumption | (exact subP_trans (by decide) hT) | apply within_odSet | split | dsimp only
    | apply within_set_frz

theorem within_traceLose (T : List Part) (orig : State) (hT : subP [.od, .obs] T = true) (d : Nat) (s : State) (h1 :
    Within T orig s) :
    Within T orig (traceLose d s) := by
  unfold traceLose
  try dsimp only
  with_reducible repeat' first
    | (intro _) | assumption | (exact subP_trans (by decide) hT) | apply within_odAdd | apply within_ite | split
    | dsimp only | apply within_set_obs

theorem within_traceMiss (T : List Part) (orig : State) (hT : subP [.od, .obs] T = true) (d : Nat) (s : State) (h1 :
    Within T orig s) :
    Within T orig (traceMiss d s) := by
  unfold traceMiss
  try dsimp only
  with_reducible repeat' first
    | (intro _) | assumption | (exact subP_trans (by decide) hT) | apply within_traceLose | apply within_ite | split
    | dsimp only

theorem within_setTraceDie (T : List Part) (orig : State) (hT : subP [.obs] T = true) (s : State) (d : Nat) (x :
    TraceDie) (h1 : Within T orig s) :
    Within T orig (setTraceDie s d x) := by
  unfold setTraceDie
  try dsimp only
  with_reducible repeat' first
    | (intro _) | assumption | (exact subP_trans (by decide) hT) | apply within_ite | split | dsimp only
    | apply within_set_obs

theorem within_traceWrite (T : List Part) (orig : State) (hT : subP [.od, .obs] T = true) (d : Nat) (r : TraceRec)
    (protect : Bool) (s : State) (h1 : Within T orig s) :
    Within T orig (traceWrite d r protect s) := by
  unfold traceWrite
  try dsimp only
  with_reducible repeat' first
    | (intro _) | assumption | (exact subP_trans (by decide) hT) | apply within_traceMiss | apply within_traceLose
    | apply within_odAdd | apply within_setTraceDie | apply within_odSet | apply within_ite | split | dsimp only

theorem within_traceTrig (T : List Part) (orig : State) (hT : subP [.od, .obs] T = true) (b : Nat) (s : State) (h1 :
    Within T orig s) :
    Within T orig (traceTrig b s) := by
  unfold traceTrig
  try dsimp only
  with_reducible repeat' first
    | (intro _) | assumption | (exact subP_trans (by decide) hT) | apply within_traceWrite | apply within_odSet
    | apply within_traceMiss | apply within_ite | split | dsimp only | apply within_set_obs

theorem within_freeze (T : List Part) (orig : State) (hT : subP [.od, .obs, .frz] T = true) (cause : Nat) (s : State)
    (h1 : Within T orig s) :
    Within T orig (freeze cause s) := by
  unfold freeze
  try dsimp only
  with_reducible repeat' first
    | (intro _) | assumption | (exact subP_trans (by decide) hT) | apply within_freezeMerge | apply within_freezeLatch
    | apply within_traceWrite | apply within_traceTrig | apply within_ite | split | dsimp only

theorem within_freezeSource (T : List Part) (orig : State) (hT : subP [.od, .obs, .frz] T = true) (bit : Nat) (s :
    State) (h1 : Within T orig s) :
    Within T orig (freezeSource bit s) := by
  unfold freezeSource
  try dsimp only
  with_reducible repeat' first
    | (intro _) | assumption | (exact subP_trans (by decide) hT) | apply within_freeze | apply within_ite | split
    | dsimp only

theorem within_traceEvent (T : List Part) (orig : State) (hT : subP [.od, .obs, .frz] T = true) (b : Nat) (s : State)
    (h1 : Within T orig s) :
    Within T orig (traceEvent b s) := by
  unfold traceEvent
  try dsimp only
  with_reducible repeat' first
    | (intro _) | assumption | (exact subP_trans (by decide) hT) | apply within_freezeSource | apply within_traceTrig
    | apply within_ite | split | dsimp only

theorem within_traceAccept (T : List Part) (orig : State) (hT : subP [.od, .obs] T = true) (r : TraceRec) (s : State)
    (h1 : Within T orig s) :
    Within T orig (traceAccept r s) := by
  unfold traceAccept
  try dsimp only
  with_reducible repeat' first
    | (intro _) | assumption | (exact subP_trans (by decide) hT) | apply within_traceMiss | apply within_traceLose
    | apply within_ite | split | dsimp only | apply within_set_obs

theorem within_tracePut (T : List Part) (orig : State) (hT : subP [.od, .obs, .frz] T = true) (typ : Nat) (src : Nat)
    (opId : Nat) (layer : Nat) (arg0 : Nat) (arg1 : Nat) (s : State) (h1 : Within T orig s) :
    Within T orig (tracePut typ src opId layer arg0 arg1 s) := by
  unfold tracePut
  try dsimp only
  with_reducible repeat' first
    | (intro _) | assumption | (exact subP_trans (by decide) hT) | apply within_traceAccept | apply within_traceEvent
    | apply within_ite | split | dsimp only

theorem within_trace (T : List Part) (orig : State) (hT : subP [.od, .obs, .frz] T = true) (group : Nat) (typ : Nat)
    (src : Nat) (opId : Nat) (layer : Nat) (arg0 : Nat) (arg1 : Nat) (s : State) (h1 : Within T orig s) :
    Within T orig (trace group typ src opId layer arg0 arg1 s) := by
  unfold trace
  try dsimp only
  with_reducible repeat' first
    | (intro _) | assumption | (exact subP_trans (by decide) hT) | apply within_tracePut | apply within_ite | split
    | dsimp only

theorem within_emit (T : List Part) (orig : State) (hT : subP [.out] T = true) (o : Output) (s : State) (h1 : Within T
    orig s) :
    Within T orig (emit o s) := by
  unfold emit
  try dsimp only
  with_reducible repeat' first
    | (intro _) | assumption | (exact subP_trans (by decide) hT) | split | dsimp only | apply within_set_out

theorem within_traceAlways (T : List Part) (orig : State) (hT : subP [.od, .obs, .frz] T = true) (typ : Nat) (src :
    Nat) (arg0 : Nat) (arg1 : Nat) (s : State) (h1 : Within T orig s) :
    Within T orig (traceAlways typ src arg0 arg1 s) := by
  unfold traceAlways
  try dsimp only
  with_reducible repeat' first
    | (intro _) | assumption | (exact subP_trans (by decide) hT) | apply within_tracePut | split | dsimp only

theorem within_traceCollect (T : List Part) (orig : State) (hT : subP [.od, .obs] T = true) (d : Nat) (s : State) (h1
    : Within T orig s) :
    Within T orig (traceCollect d s) := by
  unfold traceCollect
  try dsimp only
  with_reducible repeat' first
    | (intro _) | assumption | (exact subP_trans (by decide) hT) | apply within_traceWrite | apply within_ite | split
    | dsimp only | apply within_set_obs

theorem within_traceDrain (T : List Part) (orig : State) (hT : subP [.od, .obs] T = true) (d : Nat) (a1 : Nat) (s :
    State) (h1 : Within T orig s) :
    Within T orig (traceDrain d a1 s) := by
  revert h1
  fun_induction traceDrain d a1 s <;> intro h1
  all_goals (try dsimp only)
  with_reducible repeat' first
    | (intro _) | assumption | (exact subP_trans (by decide) hT) | apply within_traceCollect | apply within_ite
    | split | apply_assumption | dsimp only

theorem within_traceMoves (T : List Part) (orig : State) (hT : subP [.od, .obs] T = true) (d : Nat) (a : Nat) (b :
    Nat) (s : State) (h1 : Within T orig s) :
    Within T orig (traceMoves d a b s) := by
  unfold traceMoves
  try dsimp only
  with_reducible repeat' first
    | (intro _) | assumption | (exact subP_trans (by decide) hT) | apply within_traceDrain | split | dsimp only

theorem within_logEvent (T : List Part) (orig : State) (hT : subP [.od, .obs, .log, .frz] T = true) (code : Nat) (src
    : Nat) (arg0 : Nat) (arg1 : Nat) (c : EvCmd) (s : State) (h1 : Within T orig s) :
    Within T orig (logEvent code src arg0 arg1 c s) := by
  unfold logEvent
  try dsimp only
  with_reducible repeat' first
    | (intro _) | assumption | (exact subP_trans (by decide) hT) | apply within_odAdd | apply within_freezeSource
    | apply within_traceEvent | apply within_ite | split | dsimp only | apply within_set_log

theorem within_busSent (T : List Part) (orig : State) (hT : subP [.can] T = true) (bus : Nat) (s : State) (h1 : Within
    T orig s) :
    Within T orig (busSent bus s) := by
  unfold busSent
  try dsimp only
  with_reducible repeat' first
    | (intro _) | assumption | (exact subP_trans (by decide) hT) | apply within_ite | split | dsimp only
    | apply within_set_can

theorem within_canSend (T : List Part) (orig : State) (hT : subP [.out, .can] T = true) (cob : Nat) (bs : List Byte)
    (s : State) (h1 : Within T orig s) :
    Within T orig (canSend cob bs s) := by
  unfold canSend
  try dsimp only
  with_reducible repeat' first
    | (intro _) | assumption | (exact subP_trans (by decide) hT) | apply within_emit | apply within_busSent
    | apply within_ite | split | dsimp only

theorem within_emcyMsg (T : List Part) (orig : State) (hT : subP [.od, .out, .can] T = true) (code : Nat) (reg : Nat)
    (event : Nat) (s : State) (h1 : Within T orig s) :
    Within T orig (emcyMsg code reg event s) := by
  unfold emcyMsg
  try dsimp only
  with_reducible repeat' first
    | (intro _) | assumption | (exact subP_trans (by decide) hT) | apply within_odAdd32 | apply within_canSend
    | apply within_ite | split | dsimp only | apply within_set_can

theorem within_emcyEvent (T : List Part) (orig : State) (hT : subP [.od, .out, .can] T = true) (code : Nat) (bit :
    Nat) (event : Nat) (s : State) (h1 : Within T orig s) :
    Within T orig (emcyEvent code bit event s) := by
  unfold emcyEvent
  try dsimp only
  with_reducible repeat' first
    | (intro _) | assumption | (exact subP_trans (by decide) hT) | apply within_emcyMsg | split | dsimp only

theorem within_logSimple (T : List Part) (orig : State) (hT : subP [.od, .obs, .log, .frz] T = true) (code : Nat) (src
    : Nat) (s : State) (h1 : Within T orig s) :
    Within T orig (logSimple code src s) := by
  unfold logSimple
  try dsimp only
  with_reducible repeat' first
    | (intro _) | assumption | (exact subP_trans (by decide) hT) | apply within_logEvent | split | dsimp only

theorem within_closeOpen (T : List Part) (orig : State) (hT : subP [.log] T = true) (s : State) (h1 : Within T orig s)
    :
    Within T orig (closeOpen s) := by
  unfold closeOpen
  try dsimp only
  with_reducible repeat' first
    | (intro _) | assumption | (exact subP_trans (by decide) hT) | split | dsimp only | apply within_set_log

theorem within_emcyRaise (T : List Part) (orig : State) (hT : subP [.od, .out, .can] T = true) (code : Nat) (bit :
    Nat) (event : Nat) (s : State) (h1 : Within T orig s) :
    Within T orig (emcyRaise code bit event s) := by
  unfold emcyRaise
  try dsimp only
  with_reducible repeat' first
    | (intro _) | assumption | (exact subP_trans (by decide) hT) | apply within_odSet | apply within_emcyMsg
    | apply within_ite | split | dsimp only | apply within_set_can

theorem within_emcyClear (T : List Part) (orig : State) (hT : subP [.od, .out, .can] T = true) (bit : Nat) (event :
    Nat) (s : State) (h1 : Within T orig s) :
    Within T orig (emcyClear bit event s) := by
  unfold emcyClear
  try dsimp only
  with_reducible repeat' first
    | (intro _) | assumption | (exact subP_trans (by decide) hT) | apply within_odSet | apply within_emcyMsg
    | apply within_ite | split | dsimp only | apply within_set_can

theorem within_wakeChannel (T : List Part) (orig : State) (hT : subP [.ecc] T = true) (k : Nat) (s : State) (h1 :
    Within T orig s) :
    Within T orig (wakeChannel k s) := by
  unfold wakeChannel
  try dsimp only
  with_reducible repeat' first
    | (intro _) | assumption | (exact subP_trans (by decide) hT) | split | dsimp only | apply within_set_ecc

theorem within_touchChannel (T : List Part) (orig : State) (hT : subP [.ecc] T = true) (a : Nat) (n : Nat) (s : State)
    (h1 : Within T orig s) :
    Within T orig (touchChannel a n s) := by
  unfold touchChannel
  try dsimp only
  with_reducible repeat' first
    | (intro _) | assumption | (exact subP_trans (by decide) hT) | apply within_wakeChannel | apply within_ite
    | apply within_foldl | split | dsimp only

theorem within_retireLine (T : List Part) (orig : State) (hT : subP [.od, .ecc, .obs, .log, .frz] T = true) (a : Nat)
    (s : State) (h1 : Within T orig s) :
    Within T orig (retireLine a s) := by
  unfold retireLine
  try dsimp only
  with_reducible repeat' first
    | (intro _) | assumption | (exact subP_trans (by decide) hT) | apply within_logEvent | apply within_odAdd32
    | apply within_ite | split | dsimp only | apply within_set_ecc

theorem within_scheduleRepair (T : List Part) (orig : State) (hT : subP [.od, .ecc] T = true) (a : Nat) (s : State)
    (h1 : Within T orig s) :
    Within T orig (scheduleRepair a s) := by
  unfold scheduleRepair
  try dsimp only
  with_reducible repeat' first
    | (intro _) | assumption | (exact subP_trans (by decide) hT) | apply within_odSet | apply within_ite | split
    | dsimp only | apply within_set_ecc

theorem within_retireAt (T : List Part) (orig : State) (hT : subP [.od, .ecc, .obs, .log, .frz] T = true) (level :
    Nat) (a : Nat) (s : State) (h1 : Within T orig s) :
    Within T orig (retireAt level a s) := by
  unfold retireAt
  try dsimp only
  with_reducible repeat' first
    | (intro _) | assumption | (exact subP_trans (by decide) hT) | apply within_retireLine
    | apply within_scheduleRepair | apply within_ite | split | dsimp only

theorem within_correct1 (T : List Part) (orig : State) (hT : subP [.od, .ecc, .obs, .log, .frz] T = true) (m :
    EccMark) (s : State) (h1 : Within T orig s) :
    Within T orig (correct1 m s) := by
  unfold correct1
  try dsimp only
  with_reducible repeat' first
    | (intro _) | assumption | (exact subP_trans (by decide) hT) | apply within_odAdd | apply within_retireAt
    | apply within_ite | split | dsimp only | apply within_set_ecc

theorem within_correctPart (T : List Part) (orig : State) (hT : subP [.od, .ecc, .obs, .log, .frz] T = true) (a : Nat)
    (n : Nat) (s : State) (h1 : Within T orig s) :
    Within T orig (correctPart a n s) := by
  unfold correctPart
  try dsimp only
  with_reducible repeat' first
    | (intro _) | assumption | (exact subP_trans (by decide) hT) | apply within_correct1 | apply within_foldl | split
    | dsimp only

theorem within_lpCount (T : List Part) (orig : State) (hT : subP [.od] T = true) (base : Nat) (a1 : Nat) (a2 : Nat)
    (a3 : Nat) (s : State) (h1 : Within T orig s) :
    Within T orig (lpCount base a1 a2 a3 s) := by
  revert h1
  fun_induction lpCount base a1 a2 a3 s <;> intro h1
  all_goals (try dsimp only)
  with_reducible repeat' first
    | (intro _) | assumption | (exact subP_trans (by decide) hT) | apply within_odAdd | apply within_ite | split
    | apply_assumption | dsimp only

theorem within_countBytes (T : List Part) (orig : State) (hT : subP [.od] T = true) (wr : Bool) (who : Acc) (a : Nat)
    (n : Nat) (s : State) (h1 : Within T orig s) :
    Within T orig (countBytes wr who a n s) := by
  unfold countBytes
  try dsimp only
  with_reducible repeat' first
    | (intro _) | assumption | (exact subP_trans (by decide) hT) | apply within_odAdd | apply within_lpCount
    | apply within_ite | split | dsimp only

theorem within_clearCovered (T : List Part) (orig : State) (hT : subP [.od, .ecc, .obs, .log, .frz] T = true) (a :
    Nat) (n : Nat) (s : State) (h1 : Within T orig s) :
    Within T orig (clearCovered a n s) := by
  unfold clearCovered
  try dsimp only
  with_reducible repeat' first
    | (intro _) | assumption | (exact subP_trans (by decide) hT) | apply within_retireAt | apply within_foldl | split
    | dsimp only | apply within_set_ecc

theorem within_landInjection (T : List Part) (orig : State) (hT : subP [.ecc] T = true) (a : Nat) (n : Nat) (s :
    State) (h1 : Within T orig s) :
    Within T orig (landInjection a n s) := by
  unfold landInjection
  try dsimp only
  with_reducible repeat' first
    | (intro _) | assumption | (exact subP_trans (by decide) hT) | apply within_ite | split | dsimp only
    | apply within_set_ecc

theorem within_putBytes (T : List Part) (orig : State) (hT : subP [.od, .mem, .ecc, .obs, .log, .frz] T = true) (a :
    Nat) (bs : List Byte) (s : State) (h1 : Within T orig s) :
    Within T orig (putBytes a bs s) := by
  unfold putBytes
  try dsimp only
  with_reducible repeat' first
    | (intro _) | assumption | (exact subP_trans (by decide) hT) | apply within_clearCovered
    | apply within_landInjection | split | dsimp only | apply within_set_mem

theorem within_writeMod (T : List Part) (orig : State) (hT : subP [.od, .mem, .ecc, .obs, .log, .frz] T = true) (who :
    Acc) (a : Nat) (bs : List Byte) (s : State) (h1 : Within T orig s) :
    WithinRes T orig (writeMod who a bs s) := by
  unfold writeMod
  try dsimp only
  with_reducible repeat' first
    | (intro _) | assumption | (exact subP_trans (by decide) hT) | apply within_touchChannel
    | apply within_correctPart | apply within_countBytes | apply within_putBytes | apply withinRes_ok
    | apply withinRes_ue | (apply withinRes_of; assumption) | (apply withinRes_ofUe; assumption) | split | dsimp only

theorem within_undefine (T : List Part) (orig : State) (hT : subP [.freeCtr, .mem] T = true) (a : Nat) (n : Nat) (s :
    State) (h1 : Within T orig s) :
    Within T orig (undefine a n s) := by
  unfold undefine
  try dsimp only
  with_reducible repeat' first
    | (intro _) | assumption | (exact subP_trans (by decide) hT) | apply within_freeNext | apply within_ite
    | (apply withinPair_of; assumption) | split | dsimp only | apply within_set_mem

theorem within_ueRecord1 (T : List Part) (orig : State) (hT : subP [.od, .out, .ecc, .obs, .log, .frz, .can] T = true)
    (level : Nat) (a : Nat) (c : EvCmd) (s : State) (h1 : Within T orig s) :
    Within T orig (ueRecord1 level a c s) := by
  unfold ueRecord1
  try dsimp only
  with_reducible repeat' first
    | (intro _) | assumption | (exact subP_trans (by decide) hT) | apply within_odAdd | apply within_odSet
    | apply within_emcyEvent | apply within_logEvent | split | dsimp only | apply within_set_ecc

theorem within_ueRecord (T : List Part) (orig : State) (hT : subP [.od, .out, .ecc, .obs, .log, .frz, .can] T = true)
    (m : UeMet) (c : EvCmd) (s : State) (h1 : Within T orig s) :
    Within T orig (ueRecord m c s) := by
  unfold ueRecord
  try dsimp only
  with_reducible repeat' first
    | (intro _) | assumption | (exact subP_trans (by decide) hT) | apply within_ueRecord1 | apply within_foldl | split
    | dsimp only

theorem within_correctIn (T : List Part) (orig : State) (hT : subP [.od, .ecc, .obs, .log, .frz] T = true) (a : Nat)
    (n : Nat) (s : State) (h1 : Within T orig s) :
    Within T orig (correctIn a n s) := by
  unfold correctIn
  try dsimp only
  with_reducible repeat' first
    | (intro _) | assumption | (exact subP_trans (by decide) hT) | apply within_correct1 | apply within_foldl | split
    | dsimp only

theorem within_readMod (T : List Part) (orig : State) (hT : subP [.od, .ecc, .obs, .log, .frz] T = true) (who : Acc)
    (a : Nat) (n : Nat) (s : State) (h1 : Within T orig s) :
    WithinRes T orig (readMod who a n s) := by
  unfold readMod
  try dsimp only
  with_reducible repeat' first
    | (intro _) | assumption | (exact subP_trans (by decide) hT) | apply within_touchChannel | apply within_correctIn
    | apply within_countBytes | apply withinRes_ok | apply withinRes_ue | (apply withinRes_of; assumption)
    | (apply withinRes_ofUe; assumption) | split | dsimp only

theorem within_loseMemory (T : List Part) (orig : State) (hT : subP [.freeCtr, .mem, .ecc] T = true) (s : State) (h1 :
    Within T orig s) :
    Within T orig (loseMemory s) := by
  unfold loseMemory
  try dsimp only
  with_reducible repeat' first
    | (intro _) | assumption | (exact subP_trans (by decide) hT) | apply within_freeNext
    | (apply withinPair_of; assumption) | split | dsimp only | apply within_set_mem_ecc

theorem within_disarm (T : List Part) (orig : State) (hT : subP [.ecc] T = true) (s : State) (h1 : Within T orig s) :
    Within T orig (disarm s) := by
  unfold disarm
  try dsimp only
  with_reducible repeat' first
    | (intro _) | assumption | (exact subP_trans (by decide) hT) | split | dsimp only | apply within_set_ecc

theorem within_disarmIn (T : List Part) (orig : State) (hT : subP [.ecc] T = true) (a : Nat) (n : Nat) (s : State) (h1
    : Within T orig s) :
    Within T orig (disarmIn a n s) := by
  unfold disarmIn
  try dsimp only
  with_reducible repeat' first
    | (intro _) | assumption | (exact subP_trans (by decide) hT) | apply within_disarm | apply within_ite | split
    | dsimp only

theorem within_dropCells (T : List Part) (orig : State) (hT : subP [.ecc] T = true) (a : Nat) (n : Nat) (s : State)
    (h1 : Within T orig s) :
    Within T orig (dropCells a n s) := by
  unfold dropCells
  try dsimp only
  with_reducible repeat' first
    | (intro _) | assumption | (exact subP_trans (by decide) hT) | split | dsimp only | apply within_set_ecc

theorem within_zeroFill (T : List Part) (orig : State) (hT : subP [.od, .mem, .ecc, .obs, .log, .frz] T = true) (a :
    Nat) (n : Nat) (s : State) (h1 : Within T orig s) :
    Within T orig (zeroFill a n s) := by
  unfold zeroFill
  try dsimp only
  with_reducible repeat' first
    | (intro _) | assumption | (exact subP_trans (by decide) hT) | apply within_dropCells | apply within_clearCovered
    | split | dsimp only | apply within_set_mem

theorem within_modFlt (T : List Part) (orig : State) (hT : subP [.flt] T = true) (f : FloatSt → FloatSt) (s : State)
    (h1 : Within T orig s) :
    Within T orig (modFlt f s) := by
  unfold modFlt
  try dsimp only
  with_reducible repeat' first
    | (intro _) | assumption | (exact subP_trans (by decide) hT) | split | apply_assumption | dsimp only
    | apply within_set_flt

theorem within_lastPower (T : List Part) (orig : State) (hT : subP [.freeCtr] T = true) (x : TileSt) (s : State) (h1 :
    Within T orig s) :
    Within T orig (lastPower x s).2 := by
  unfold lastPower
  try dsimp only
  with_reducible repeat' first
    | (intro _) | assumption | (exact subP_trans (by decide) hT) | apply within_freeNext
    | (apply withinPair_of; assumption) | split | dsimp only

theorem within_startFiller (T : List Part) (orig : State) (hT : subP [.freeCtr, .tiles, .flt] T = true) (t : Nat) (s :
    State) (h1 : Within T orig s) :
    Within T orig (startFiller t s) := by
  unfold startFiller
  try dsimp only
  with_reducible repeat' first
    | (intro _) | assumption | (exact subP_trans (by decide) hT) | apply within_lastPower | apply within_setTile
    | apply within_modFlt | apply within_ite | (apply withinPair_of; assumption) | split | dsimp only

theorem within_cyclesSince (T : List Part) (orig : State) (hT : subP [.freeCtr] T = true) (from_ : Nat) (s : State)
    (h1 : Within T orig s) :
    Within T orig (cyclesSince from_ s).2 := by
  unfold cyclesSince
  try dsimp only
  with_reducible repeat' first
    | (intro _) | assumption | (exact subP_trans (by decide) hT) | apply within_freeNext
    | (apply withinPair_of; assumption) | split | dsimp only

theorem within_opcCount (T : List Part) (orig : State) (hT : subP [.od] T = true) (base : Nat) (opId : Nat) (n : Nat)
    (s : State) (h1 : Within T orig s) :
    Within T orig (opcCount base opId n s) := by
  unfold opcCount
  try dsimp only
  with_reducible repeat' first
    | (intro _) | assumption | (exact subP_trans (by decide) hT) | apply within_odAdd | apply within_ite
    | apply within_foldl | split | dsimp only

theorem within_countTask (T : List Part) (orig : State) (hT : subP [.od] T = true) (t : Nat) (opId : Nat) (n : Nat) (s
    : State) (h1 : Within T orig s) :
    Within T orig (countTask t opId n s) := by
  unfold countTask
  try dsimp only
  with_reducible repeat' first
    | (intro _) | assumption | (exact subP_trans (by decide) hT) | apply within_opcCount | apply within_odAdd | split
    | dsimp only

theorem within_noteEvents (T : List Part) (orig : State) (hT : subP [.flt] T = true) (t : Nat) (c : EvClass) (op :
    Nat) (n : Nat) (s : State) (h1 : Within T orig s) :
    Within T orig (noteEvents t c op n s) := by
  unfold noteEvents
  try dsimp only
  with_reducible repeat' first
    | (intro _) | assumption | (exact subP_trans (by decide) hT) | apply within_modFlt | apply within_ite | split
    | dsimp only

theorem within_endFiller (T : List Part) (orig : State) (hT : subP [.od, .freeCtr, .tiles] T = true) (t : Nat) (s :
    State) (h1 : Within T orig s) :
    Within T orig (endFiller t s) := by
  unfold endFiller
  try dsimp only
  with_reducible repeat' first
    | (intro _) | assumption | (exact subP_trans (by decide) hT) | apply within_cyclesSince | apply within_setTile
    | apply within_odAdd | apply within_ite | (apply withinPair_of; assumption) | split | dsimp only

theorem within_modGraph (T : List Part) (orig : State) (hT : subP [.graphs] T = true) (s : State) (h : Nat) (f :
    GraphSt → GraphSt) (h1 : Within T orig s) :
    Within T orig (modGraph s h f) := by
  unfold modGraph
  try dsimp only
  with_reducible repeat' first
    | (intro _) | assumption | (exact subP_trans (by decide) hT) | split | apply_assumption | dsimp only
    | apply within_set_graphs

theorem within_modRunG (T : List Part) (orig : State) (hT : subP [.graphs] T = true) (s : State) (h : Nat) (f : RunG →
    RunG) (h1 : Within T orig s) :
    Within T orig (modRunG s h f) := by
  unfold modRunG
  try dsimp only
  with_reducible repeat' first
    | (intro _) | assumption | (exact subP_trans (by decide) hT) | apply within_modGraph | split | apply_assumption
    | dsimp only

theorem within_addFlags (T : List Part) (orig : State) (hT : subP [.graphs] T = true) (t : Nat) (f : Nat) (s : State)
    (h1 : Within T orig s) :
    Within T orig (addFlags t f s) := by
  unfold addFlags
  try dsimp only
  with_reducible repeat' first
    | (intro _) | assumption | (exact subP_trans (by decide) hT) | apply within_modRunG | split | dsimp only

theorem within_breakFill (T : List Part) (orig : State) (hT : subP [.freeCtr, .tiles, .flt] T = true) (t : Nat) (s :
    State) (h1 : Within T orig s) :
    Within T orig (breakFill t s) := by
  unfold breakFill
  try dsimp only
  with_reducible repeat' first
    | (intro _) | assumption | (exact subP_trans (by decide) hT) | apply within_startFiller | apply within_ite | split
    | dsimp only

theorem within_breakFillAll (T : List Part) (orig : State) (hT : subP [.freeCtr, .tiles, .flt] T = true) (h : Nat) (s
    : State) (h1 : Within T orig s) :
    Within T orig (breakFillAll h s) := by
  unfold breakFillAll
  try dsimp only
  with_reducible repeat' first
    | (intro _) | assumption | (exact subP_trans (by decide) hT) | apply within_breakFill | apply within_foldl | split
    | dsimp only

theorem within_brkHit (T : List Part) (orig : State) (hT : subP [.od, .freeCtr, .tiles, .flt, .obs, .frz] T = true) (t
    : Nat) (cause : Nat) (id : Nat) (s : State) (h1 : Within T orig s) :
    Within T orig (brkHit t cause id s) := by
  unfold brkHit
  try dsimp only
  with_reducible repeat' first
    | (intro _) | assumption | (exact subP_trans (by decide) hT) | apply within_odSet | apply within_breakFillAll
    | apply within_traceEvent | apply within_ite | split | dsimp only | apply within_set_obs

theorem within_progress (T : List Part) (orig : State) (hT : subP [.graphs] T = true) (h : Nat) (s : State) (h1 :
    Within T orig s) :
    Within T orig (progress h s) := by
  unfold progress
  try dsimp only
  with_reducible repeat' first
    | (intro _) | assumption | (exact subP_trans (by decide) hT) | apply within_modRunG | split | dsimp only

theorem within_noteWrote (T : List Part) (orig : State) (hT : subP [.graphs] T = true) (t : Nat) (a : Nat) (n : Nat)
    (s : State) (h1 : Within T orig s) :
    Within T orig (noteWrote t a n s) := by
  unfold noteWrote
  try dsimp only
  with_reducible repeat' first
    | (intro _) | assumption | (exact subP_trans (by decide) hT) | apply within_modGraph | apply within_ite | split
    | dsimp only

theorem within_tileExc (T : List Part) (orig : State) (hT : subP [.od, .out, .ecc, .tiles, .graphs, .obs, .log, .frz,
    .can] T = true) (t : Nat) (code : Nat) (ue : Option UeMet) (s : State) (h1 : Within T orig s) :
    Within T orig (tileExc t code ue s) := by
  unfold tileExc
  try dsimp only
  with_reducible repeat' first
    | (intro _) | assumption | (exact subP_trans (by decide) hT) | apply within_ueRecord | apply within_setTile
    | apply within_modGraph | apply within_freezeSource | apply within_traceEvent | apply within_trace
    | apply within_ite | split | dsimp only

theorem within_ueTile (T : List Part) (orig : State) (hT : subP [.od, .out, .ecc, .tiles, .graphs, .obs, .log, .frz,
    .can] T = true) (t : Nat) (m : UeMet) (s : State) (h1 : Within T orig s) :
    Within T orig (ueTile t m s) := by
  unfold ueTile
  try dsimp only
  with_reducible repeat' first
    | (intro _) | assumption | (exact subP_trans (by decide) hT) | apply within_tileExc | split | dsimp only

theorem within_putToken (T : List Part) (orig : State) (hT : subP [.od, .tiles, .mesh, .obs, .frz] T = true) (t : Nat)
    (oq : Nat) (kind : Nat) (payload : Nat) (s : State) (h1 : Within T orig s) :
    Within T orig (putToken t oq kind payload s) := by
  unfold putToken
  try dsimp only
  with_reducible repeat' first
    | (intro _) | assumption | (exact subP_trans (by decide) hT) | apply within_setTile | apply within_trace
    | apply within_ite | split | dsimp only | apply within_set_mesh

theorem within_applyEff (T : List Part) (orig : State) (hT : subP [.od, .out, .mem, .ecc, .tiles, .mesh, .graphs,
    .obs, .log, .frz, .can] T = true) (t : Nat) (e : TEff) (s : State) (h1 : Within T orig s) :
    Within T orig (applyEff t e s) := by
  unfold applyEff
  try dsimp only
  with_reducible repeat' first
    | (intro _) | assumption | (exact subP_trans (by decide) hT) | apply within_setTile | apply within_writeMod
    | apply within_noteWrote | apply within_ueTile | apply within_putToken | apply within_addFlags
    | (apply withinRes_of; assumption) | (apply withinRes_ofUe; assumption) | split | dsimp only

theorem within_countBundle (T : List Part) (orig : State) (hT : subP [.flt] T = true) (t : Nat) (w : Nat) (op : Nat)
    (s : State) (h1 : Within T orig s) :
    Within T orig (countBundle t w op s) := by
  unfold countBundle
  try dsimp only
  with_reducible repeat' first
    | (intro _) | assumption | (exact subP_trans (by decide) hT) | apply within_noteEvents | apply within_ite | split
    | dsimp only

theorem within_correctAll (T : List Part) (orig : State) (hT : subP [.od, .ecc, .obs, .log, .frz] T = true) (rs : List
    (Nat × Nat)) (s : State) (h1 : Within T orig s) :
    Within T orig (correctAll rs s) := by
  unfold correctAll
  try dsimp only
  with_reducible repeat' first
    | (intro _) | assumption | (exact subP_trans (by decide) hT) | apply within_correctIn | apply within_foldl | split
    | dsimp only

theorem within_settle (T : List Part) (orig : State) (hT : subP [.od, .out, .freeCtr, .ecc, .tiles, .graphs, .flt,
    .obs, .log, .frz, .can] T = true) (a0 : Nat) (a1 : Nat) (s : State) (h1 : Within T orig s) :
    Within T orig (settle a0 a1 s) := by
  revert h1
  fun_induction settle a0 a1 s <;> intro h1
  all_goals (try dsimp only)
  with_reducible repeat' first
    | (intro _) | assumption | (exact subP_trans (by decide) hT) | apply within_setTile | apply within_breakFill
    | apply within_tileExc | apply within_ueTile | apply within_correctAll | apply within_ite | split
    | apply_assumption | dsimp only

theorem within_commitBundle (T : List Part) (orig : State) (hT : subP [.od, .out, .freeCtr, .mem, .ecc, .tiles, .mesh,
    .graphs, .flt, .obs, .log, .frz, .can] T = true) (t : Nat) (r : Run) (effs : List TEff) (s : State) (h1 : Within T
    orig s) :
    Within T orig (commitBundle t r effs s) := by
  unfold commitBundle
  try dsimp only
  with_reducible repeat' first
    | (intro _) | assumption | (exact subP_trans (by decide) hT) | apply within_applyEff | apply within_countBundle
    | apply within_setTile | apply within_brkHit | apply within_settle | apply within_ite | apply within_foldl | split
    | dsimp only

theorem within_issueSlot (T : List Part) (orig : State) (hT : subP [.od, .out, .freeCtr, .mem, .ecc, .tiles, .mesh,
    .graphs, .flt, .obs, .log, .frz, .can] T = true) (t : Nat) (k : Nat) (bits : Nat) (sem : State → TileSt → SlotRes)
    (s : State) (hf : ∀ x0 x1, Within T orig x0 → WithinSlot T orig (sem x0 x1)) (h1 : Within T orig s) :
    Within T orig (issueSlot t k bits sem s) := by
  unfold issueSlot
  try dsimp only
  with_reducible repeat' first
    | (intro _) | assumption | (exact subP_trans (by decide) hT) | apply within_tileExc | apply within_ueTile
    | apply within_commitBundle | apply within_setTile | apply within_ite | (apply withinSlot_of; assumption)
    | (apply withinSlot_ofExc; assumption) | (apply withinSlot_ofUe; assumption) | split | apply_assumption
    | dsimp only

theorem within_issueImm (T : List Part) (orig : State) (hT : subP [.od, .out, .freeCtr, .mem, .ecc, .tiles, .mesh,
    .graphs, .flt, .obs, .log, .frz, .can] T = true) (t : TileId) (k : Nat) (op : Nat) (f : ImmForm) (sem : State →
    TileSt → SlotRes) (s : State) (hf : ∀ x0 x1, Within T orig x0 → WithinSlot T orig (sem x0 x1)) (h1 : Within T orig
    s) :
    Within T orig (issueImm t k op f sem s) := by
  unfold issueImm
  try dsimp only
  with_reducible repeat' first
    | (intro _) | assumption | (exact subP_trans (by decide) hT) | apply within_issueSlot
    | (apply withinSlot_of; assumption) | (apply withinSlot_ofExc; assumption) | (apply withinSlot_ofUe; assumption)
    | split | apply_assumption | dsimp only

theorem within_issueReg (T : List Part) (orig : State) (hT : subP [.od, .out, .freeCtr, .mem, .ecc, .tiles, .mesh,
    .graphs, .flt, .obs, .log, .frz, .can] T = true) (t : TileId) (k : Nat) (op : Nat) (f : RegForm) (sem : State →
    TileSt → SlotRes) (s : State) (hf : ∀ x0 x1, Within T orig x0 → WithinSlot T orig (sem x0 x1)) (h1 : Within T orig
    s) :
    Within T orig (issueReg t k op f sem s) := by
  unfold issueReg
  try dsimp only
  with_reducible repeat' first
    | (intro _) | assumption | (exact subP_trans (by decide) hT) | apply within_issueSlot
    | (apply withinSlot_of; assumption) | (apply withinSlot_ofExc; assumption) | (apply withinSlot_ofUe; assumption)
    | split | apply_assumption | dsimp only

theorem within_releaseBundle (T : List Part) (orig : State) (hT : subP [.od, .out, .freeCtr, .ecc, .tiles, .graphs,
    .flt, .obs, .log, .frz, .can] T = true) (t : Nat) (s : State) (h1 : Within T orig s) :
    Within T orig (releaseBundle t s) := by
  unfold releaseBundle
  try dsimp only
  with_reducible repeat' first
    | (intro _) | assumption | (exact subP_trans (by decide) hT) | apply within_settle | apply within_ite | split
    | dsimp only

theorem within_cmpOp (T : List Part) (orig : State) (_hT : subP [] T = true) (f : RegForm) (g : Lane → Lane → Bool ×
    Nat) (s : State) (x : TileSt) (h1 : Within T orig s) :
    WithinSlot T orig (cmpOp f g s x) := by
  unfold cmpOp
  try dsimp only
  with_reducible repeat' first
    | (intro _) | assumption | (exact subP_trans (by decide) hT) | apply withinSlot_ok | apply withinSlot_exc
    | apply withinSlot_ue | split | apply_assumption | dsimp only

theorem within_lanesOp (T : List Part) (orig : State) (_hT : subP [] T = true) (f : RegForm) (g : TileSt → Nat → Lane
    × Nat) (s : State) (x : TileSt) (h1 : Within T orig s) :
    WithinSlot T orig (lanesOp f g s x) := by
  unfold lanesOp
  try dsimp only
  with_reducible repeat' first
    | (intro _) | assumption | (exact subP_trans (by decide) hT) | apply withinSlot_ok | apply withinSlot_exc
    | apply withinSlot_ue | split | apply_assumption | dsimp only

theorem within_maskOp (T : List Part) (orig : State) (_hT : subP [] T = true) (f : RegForm) (g : TileSt → Nat) (s :
    State) (x : TileSt) (h1 : Within T orig s) :
    WithinSlot T orig (maskOp f g s x) := by
  unfold maskOp
  try dsimp only
  with_reducible repeat' first
    | (intro _) | assumption | (exact subP_trans (by decide) hT) | apply withinSlot_ok | apply withinSlot_exc
    | apply withinSlot_ue | split | apply_assumption | dsimp only

theorem within_memLoad (T : List Part) (orig : State) (hT : subP [.od, .ecc, .obs, .log, .frz] T = true) (t : TileId)
    (f : ImmForm) (align : Nat) (width : Nat) (g : List Byte → TEff) (s : State) (x : TileSt) (h1 : Within T orig s) :
    WithinSlot T orig (memLoad t f align width g s x) := by
  unfold memLoad
  try dsimp only
  with_reducible repeat' first
    | (intro _) | assumption | (exact subP_trans (by decide) hT) | apply within_readMod | apply withinSlot_ok
    | apply withinSlot_exc | apply withinSlot_ue | (apply withinRes_of; assumption)
    | (apply withinRes_ofUe; assumption) | split | apply_assumption | dsimp only

theorem within_memStore (T : List Part) (orig : State) (_hT : subP [] T = true) (f : ImmForm) (align : Nat) (width :
    Nat) (g : TileSt → List Byte) (s : State) (x : TileSt) (h1 : Within T orig s) :
    WithinSlot T orig (memStore f align width g s x) := by
  unfold memStore
  try dsimp only
  with_reducible repeat' first
    | (intro _) | assumption | (exact subP_trans (by decide) hT) | apply withinSlot_ok | apply withinSlot_exc
    | apply withinSlot_ue | split | apply_assumption | dsimp only

theorem within_sclOp (T : List Part) (orig : State) (_hT : subP [] T = true) (dst : Nat) (g : State → TileSt → Nat) (s
    : State) (x : TileSt) (h1 : Within T orig s) :
    WithinSlot T orig (sclOp dst g s x) := by
  unfold sclOp
  try dsimp only
  with_reducible repeat' first
    | (intro _) | assumption | (exact subP_trans (by decide) hT) | apply withinSlot_ok | apply withinSlot_exc
    | apply withinSlot_ue | split | apply_assumption | dsimp only

theorem within_sclCmp (T : List Part) (orig : State) (_hT : subP [] T = true) (f : RegForm) (g : Int → Int → Bool) (s
    : State) (x : TileSt) (h1 : Within T orig s) :
    WithinSlot T orig (sclCmp f g s x) := by
  unfold sclCmp
  try dsimp only
  with_reducible repeat' first
    | (intro _) | assumption | (exact subP_trans (by decide) hT) | apply withinSlot_ok | apply withinSlot_exc
    | apply withinSlot_ue | split | apply_assumption | dsimp only

theorem within_vecBin (T : List Part) (orig : State) (_hT : subP [] T = true) (f : RegForm) (g : Lane → Lane → Lane ×
    Nat) (s : State) (a3 : TileSt) (h1 : Within T orig s) :
    WithinSlot T orig (vecBin f g s a3) := by
  unfold vecBin
  try dsimp only
  with_reducible repeat' first
    | (intro _) | assumption | (exact subP_trans (by decide) hT) | apply within_lanesOp | apply withinSlot_ok
    | apply withinSlot_exc | apply withinSlot_ue | (apply withinSlot_of; assumption)
    | (apply withinSlot_ofExc; assumption) | (apply withinSlot_ofUe; assumption) | split | apply_assumption
    | dsimp only

theorem within_vecInt (T : List Part) (orig : State) (_hT : subP [] T = true) (op : Nat) (f : RegForm) (s : State) (a3
    : TileSt) (h1 : Within T orig s) :
    WithinSlot T orig (vecInt op f s a3) := by
  unfold vecInt
  try dsimp only
  with_reducible repeat' first
    | (intro _) | assumption | (exact subP_trans (by decide) hT) | apply within_vecBin | apply withinSlot_ok
    | apply withinSlot_exc | apply withinSlot_ue | (apply withinSlot_of; assumption)
    | (apply withinSlot_ofExc; assumption) | (apply withinSlot_ofUe; assumption) | split | dsimp only

theorem within_vecUn (T : List Part) (orig : State) (_hT : subP [] T = true) (f : RegForm) (g : Lane → Lane × Nat) (s
    : State) (a3 : TileSt) (h1 : Within T orig s) :
    WithinSlot T orig (vecUn f g s a3) := by
  unfold vecUn
  try dsimp only
  with_reducible repeat' first
    | (intro _) | assumption | (exact subP_trans (by decide) hT) | apply within_lanesOp | apply withinSlot_ok
    | apply withinSlot_exc | apply withinSlot_ue | (apply withinSlot_of; assumption)
    | (apply withinSlot_ofExc; assumption) | (apply withinSlot_ofUe; assumption) | split | apply_assumption
    | dsimp only

theorem within_readRows (T : List Part) (orig : State) (hT : subP [.od, .ecc, .obs, .log, .frz] T = true) (t : Nat)
    (off : Nat) (stride : Nat) (row : Nat) (a4 : Nat) (s : State) (h1 : Within T orig s) :
    WithinRes T orig (readRows t off stride row a4 s) := by
  revert h1
  fun_induction readRows t off stride row a4 s <;> intro h1
  all_goals (try dsimp only)
  with_reducible repeat' first
    | (intro _) | assumption | (exact subP_trans (by decide) hT) | apply within_readMod | apply withinRes_ok
    | apply withinRes_ue | (apply withinRes_of; assumption) | (apply withinRes_ofUe; assumption) | split
    | apply_assumption | dsimp only

theorem within_readTensor (T : List Part) (orig : State) (hT : subP [.od, .ecc, .obs, .log, .frz] T = true) (t : Nat)
    (d : Nat) (s : State) (h1 : Within T orig s) :
    WithinRes T orig (readTensor t d s) := by
  unfold readTensor
  try dsimp only
  with_reducible repeat' first
    | (intro _) | assumption | (exact subP_trans (by decide) hT) | apply within_readRows | apply within_ite
    | apply withinRes_ite | apply withinRes_ok | apply withinRes_ue | (apply withinRes_of; assumption)
    | (apply withinRes_ofUe; assumption) | split | dsimp only

theorem within_writeRows (T : List Part) (orig : State) (hT : subP [.od, .mem, .ecc, .graphs, .obs, .log, .frz] T =
    true) (t : Nat) (off : Nat) (stride : Nat) (a3 : List (List Byte)) (s : State) (h1 : Within T orig s) :
    WithinRes T orig (writeRows t off stride a3 s) := by
  revert h1
  fun_induction writeRows t off stride a3 s <;> intro h1
  all_goals (try dsimp only)
  with_reducible repeat' first
    | (intro _) | assumption | (exact subP_trans (by decide) hT) | apply within_writeMod | apply within_noteWrote
    | apply withinRes_ok | apply withinRes_ue | (apply withinRes_of; assumption) | (apply withinRes_ofUe; assumption)
    | split | apply_assumption | dsimp only

theorem within_copyRows (T : List Part) (orig : State) (hT : subP [.od, .mem, .ecc, .graphs, .obs, .log, .frz] T =
    true) (t : Nat) (src : Nat) (ss : Nat) (dst : Nat) (ds : Nat) (row : Nat) (a6 : Nat) (s : State) (h1 : Within T
    orig s) :
    WithinRes T orig (copyRows t src ss dst ds row a6 s) := by
  induction a6 generalizing src dst s with
  | zero => exact h1
  | succ n ih =>
    unfold copyRows
    with_reducible repeat' first
      | (intro _) | assumption | (exact subP_trans (by decide) hT) | apply within_readMod | apply within_writeMod
      | apply within_noteWrote | apply within_ite | apply withinRes_ite | apply withinRes_ok | apply withinRes_ue
      | (apply withinRes_of; assumption) | (apply withinRes_ofUe; assumption) | split | apply_assumption | dsimp only

theorem within_dmaComplete (T : List Part) (orig : State) (hT : subP [.od, .out, .mem, .ecc, .tiles, .graphs, .obs,
    .log, .frz, .can] T = true) (t : Nat) (s : State) (h1 : Within T orig s) :
    Within T orig (dmaComplete t s) := by
  unfold dmaComplete
  try dsimp only
  with_reducible repeat' first
    | (intro _) | assumption | (exact subP_trans (by decide) hT) | apply within_setTile | apply within_copyRows
    | apply within_ueTile | apply within_ite | (apply withinRes_of; assumption) | (apply withinRes_ofUe; assumption)
    | split | dsimp only

theorem within_dmaIssue (T : List Part) (orig : State) (_hT : subP [] T = true) (t : TileId) (inbound : Bool) (f :
    ImmForm) (s : State) (x : TileSt) (h1 : Within T orig s) :
    WithinSlot T orig (dmaIssue t inbound f s x) := by
  unfold dmaIssue
  try dsimp only
  with_reducible repeat' first
    | (intro _) | assumption | (exact subP_trans (by decide) hT) | apply withinSlot_ok | apply withinSlot_exc
    | apply withinSlot_ue | split | dsimp only

theorem within_faultless (T : List Part) (orig : State) (hT : subP [.ecc] T = true) (s : State) (h1 : Within T orig s)
    :
    Within T orig (faultless s) := by
  unfold faultless
  try dsimp only
  with_reducible repeat' first
    | (intro _) | assumption | (exact subP_trans (by decide) hT) | split | dsimp only | apply within_set_ecc

theorem within_noteInfs (T : List Part) (orig : State) (hT : subP [.graphs] T = true) (who : Acc) (a : Nat) (e : Ea)
    (s : State) (h1 : Within T orig s) :
    Within T orig (noteInfs who a e s) := by
  unfold noteInfs
  try dsimp only
  with_reducible repeat' first
    | (intro _) | assumption | (exact subP_trans (by decide) hT) | apply within_modRunG | apply within_ite | split
    | dsimp only

theorem within_slotAdd (T : List Part) (orig : State) (hT : subP [.od, .mem, .ecc, .graphs, .obs, .log, .frz] T =
    true) (who : Acc) (a : Addition) (opened : List Nat) (s : State) (h1 : Within T orig s) :
    WithinRes T orig (slotAdd who a opened s) := by
  unfold slotAdd
  try dsimp only
  with_reducible repeat' first
    | (intro _) | assumption | (exact subP_trans (by decide) hT) | apply within_correctIn | apply within_noteInfs
    | apply withinRes_ok | apply withinRes_ue | (apply withinRes_of; assumption) | (apply withinRes_ofUe; assumption)
    | split | dsimp only | apply within_set_mem_ecc

theorem within_slotEvict (T : List Part) (orig : State) (hT : subP [.od, .mem, .ecc, .obs, .log, .frz] T = true) (who
    : Acc) (a : Nat) (opened : List Nat) (s : State) (h1 : Within T orig s) :
    WithinRes T orig (slotEvict who a opened s) := by
  unfold slotEvict
  try dsimp only
  with_reducible repeat' first
    | (intro _) | assumption | (exact subP_trans (by decide) hT) | apply within_correctIn | apply within_writeMod
    | apply within_ite | apply withinRes_ite | apply withinRes_ok | apply withinRes_ue
    | (apply withinRes_of; assumption) | (apply withinRes_ofUe; assumption) | split | dsimp only

theorem within_engineAdd (T : List Part) (orig : State) (hT : subP [.od, .mem, .ecc, .graphs, .obs, .log, .frz] T =
    true) (who : Acc) (a : Addition) (s : State) (h1 : Within T orig s) :
    WithinRes T orig (engineAdd who a s) := by
  unfold engineAdd
  try dsimp only
  with_reducible repeat' first
    | (intro _) | assumption | (exact subP_trans (by decide) hT) | apply within_slotAdd | apply within_slotEvict
    | apply within_readMod | apply within_ite | apply withinRes_ite | apply withinRes_ok | apply withinRes_ue
    | (apply withinRes_of; assumption) | (apply withinRes_ofUe; assumption) | split | dsimp only

theorem within_someAdds (T : List Part) (orig : State) (hT : subP [.od, .mem, .ecc, .graphs, .obs, .log, .frz] T =
    true) (t : Nat) (k : Nat) (a2 : Nat) (a3 : List Addition) (s : State) (h1 : Within T orig s) :
    Within T orig (someAdds t k a2 a3 s) := by
  induction a3 generalizing a2 s with
  | nil => exact h1
  | cons a r ih =>
    unfold someAdds
    apply ih
    with_reducible repeat' first
      | (intro _) | assumption | (exact subP_trans (by decide) hT) | apply within_engineAdd | apply within_ite
      | (apply withinRes_of; assumption) | (apply withinRes_ofUe; assumption) | split | apply_assumption | dsimp only

theorem within_engineAll (T : List Part) (orig : State) (hT : subP [.od, .mem, .ecc, .tiles, .graphs, .obs, .log,
    .frz] T = true) (t : Nat) (a1 : List Addition) (s : State) (h1 : Within T orig s) :
    WithinRes T orig (engineAll t a1 s) := by
  revert h1
  fun_induction engineAll t a1 s <;> intro h1
  all_goals (try dsimp only)
  with_reducible repeat' first
    | (intro _) | assumption | (exact subP_trans (by decide) hT) | apply within_engineAdd | apply within_setTile
    | apply withinRes_ok | apply withinRes_ue | (apply withinRes_of; assumption) | (apply withinRes_ofUe; assumption)
    | split | apply_assumption | dsimp only

theorem within_readGranule (T : List Part) (orig : State) (hT : subP [.od, .ecc, .obs, .log, .frz] T = true) (who :
    Acc) (a : Nat) (e : Nat) (s : State) (h1 : Within T orig s) :
    WithinRes T orig (readGranule who a e s) := by
  unfold readGranule
  try dsimp only
  with_reducible repeat' first
    | (intro _) | assumption | (exact subP_trans (by decide) hT) | apply within_readMod | apply within_ite
    | apply withinRes_ite | apply withinRes_ok | apply withinRes_ue | (apply withinRes_of; assumption)
    | (apply withinRes_ofUe; assumption) | split | dsimp only

theorem within_gatherLoop (T : List Part) (orig : State) (hT : subP [.od, .mem, .ecc, .obs, .log, .frz] T = true) (t :
    Nat) (base : Nat) (lim : Nat) (e : Nat) (a4 : List Nat) (a5 : Nat) (s : State) (h1 : Within T orig s) :
    WithinRes T orig (gatherLoop t base lim e a4 a5 s) := by
  revert h1
  fun_induction gatherLoop t base lim e a4 a5 s <;> intro h1
  all_goals (try dsimp only)
  with_reducible repeat' first
    | (intro _) | assumption | (exact subP_trans (by decide) hT) | apply within_readGranule | apply within_writeMod
    | apply within_ite | apply withinRes_ite | apply withinRes_ok | apply withinRes_ue
    | (apply withinRes_of; assumption) | (apply withinRes_ofUe; assumption) | split | apply_assumption | dsimp only

theorem within_hashVisit (T : List Part) (orig : State) (hT : subP [.od, .ecc, .obs, .log, .frz] T = true) (who : Acc)
    (tab : Nat) (nb : Nat) (k64 : Bool) (k : Nat) (a5 : Nat) (a6 : Nat) (s : State) (h1 : Within T orig s) :
    WithinRes T orig (hashVisit who tab nb k64 k a5 a6 s) := by
  revert h1
  fun_induction hashVisit who tab nb k64 k a5 a6 s <;> intro h1
  all_goals (try dsimp only)
  with_reducible repeat' first
    | (intro _) | assumption | (exact subP_trans (by decide) hT) | apply within_readMod | apply withinRes_ok
    | apply withinRes_ue | (apply withinRes_of; assumption) | (apply withinRes_ofUe; assumption) | split
    | apply_assumption | dsimp only

theorem within_hashKey (T : List Part) (orig : State) (hT : subP [.od, .mem, .ecc, .obs, .log, .frz] T = true) (who :
    Acc) (tab : Nat) (lb : Nat) (p : Nat) (seed : Nat) (k64 : Bool) (ins : Bool) (imode : Nat) (dflt : Nat) (k : Nat)
    (v : Nat) (s : State) (h1 : Within T orig s) :
    WithinRes T orig (hashKey who tab lb p seed k64 ins imode dflt k v s) := by
  unfold hashKey
  try dsimp only
  with_reducible repeat' first
    | (intro _) | assumption | (exact subP_trans (by decide) hT) | apply within_hashVisit | apply within_writeMod
    | apply within_ite | apply withinRes_ite | apply withinRes_ok | apply withinRes_ue
    | (apply withinRes_of; assumption) | (apply withinRes_ofUe; assumption) | split | dsimp only

theorem within_hashKeys (T : List Part) (orig : State) (hT : subP [.od, .mem, .ecc, .obs, .log, .frz] T = true) (who :
    Acc) (tab : Nat) (lb : Nat) (p : Nat) (seed : Nat) (k64 : Bool) (ins : Bool) (imode : Nat) (dflt : Nat) (a9 : List
    (Nat × Nat)) (s : State) (h1 : Within T orig s) :
    WithinRes T orig (hashKeys who tab lb p seed k64 ins imode dflt a9 s) := by
  revert h1
  fun_induction hashKeys who tab lb p seed k64 ins imode dflt a9 s <;> intro h1
  all_goals (try dsimp only)
  with_reducible repeat' first
    | (intro _) | assumption | (exact subP_trans (by decide) hT) | apply within_hashKey | apply withinRes_ok
    | apply withinRes_ue | (apply withinRes_of; assumption) | (apply withinRes_ofUe; assumption) | split
    | apply_assumption | dsimp only

theorem within_irrWrites (T : List Part) (orig : State) (hT : subP [.od, .mem, .ecc, .obs, .log, .frz] T = true) (t :
    Nat) (a1 : List (Nat × List Byte)) (s : State) (h1 : Within T orig s) :
    WithinRes T orig (irrWrites t a1 s) := by
  revert h1
  fun_induction irrWrites t a1 s <;> intro h1
  all_goals (try dsimp only)
  with_reducible repeat' first
    | (intro _) | assumption | (exact subP_trans (by decide) hT) | apply within_writeMod | apply withinRes_ok
    | apply withinRes_ue | (apply withinRes_of; assumption) | (apply withinRes_ofUe; assumption) | split
    | apply_assumption | dsimp only

theorem within_iobWrite (T : List Part) (orig : State) (hT : subP [.od, .mem, .ecc, .obs, .log, .frz] T = true) (t :
    Nat) (o : IrrOp) (r : IrrOut) (s : State) (h1 : Within T orig s) :
    WithinRes T orig (iobWrite t o r s) := by
  unfold iobWrite
  try dsimp only
  with_reducible repeat' first
    | (intro _) | assumption | (exact subP_trans (by decide) hT) | apply within_irrWrites | apply withinRes_ok
    | apply withinRes_ue | (apply withinRes_of; assumption) | (apply withinRes_ofUe; assumption) | split | dsimp only

theorem within_irrRead (T : List Part) (orig : State) (hT : subP [.od, .ecc, .obs, .log, .frz] T = true) (t : Nat) (a
    : Nat) (n : Nat) (s : State) (h1 : Within T orig s) :
    WithinRes T orig (irrRead t a n s) := by
  unfold irrRead
  try dsimp only
  with_reducible repeat' first
    | (intro _) | assumption | (exact subP_trans (by decide) hT) | apply within_readMod | apply within_ite
    | apply withinRes_ite | apply withinRes_ok | apply withinRes_ue | (apply withinRes_of; assumption)
    | (apply withinRes_ofUe; assumption) | split | dsimp only

theorem within_runGather (T : List Part) (orig : State) (hT : subP [.od, .mem, .ecc, .obs, .log, .frz] T = true) (t :
    Nat) (o : IrrOp) (s : State) (h1 : Within T orig s) :
    WithinRes T orig (runGather t o s) := by
  unfold runGather
  try dsimp only
  with_reducible repeat' first
    | (intro _) | assumption | (exact subP_trans (by decide) hT) | apply within_irrRead | apply within_gatherLoop
    | apply withinRes_ok | apply withinRes_ue | (apply withinRes_of; assumption) | (apply withinRes_ofUe; assumption)
    | split | dsimp only

theorem within_runScatter (T : List Part) (orig : State) (hT : subP [.od, .mem, .ecc, .obs, .log, .frz] T = true) (t :
    Nat) (o : IrrOp) (s : State) (h1 : Within T orig s) :
    WithinRes T orig (runScatter t o s) := by
  unfold runScatter
  try dsimp only
  with_reducible repeat' first
    | (intro _) | assumption | (exact subP_trans (by decide) hT) | apply within_irrRead | apply within_irrWrites
    | apply withinRes_ok | apply withinRes_ue | (apply withinRes_of; assumption) | (apply withinRes_ofUe; assumption)
    | split | dsimp only

theorem within_runScadd (T : List Part) (orig : State) (hT : subP [.od, .mem, .ecc, .tiles, .graphs, .obs, .log, .frz]
    T = true) (t : Nat) (o : IrrOp) (adds : List Addition) (s : State) (h1 : Within T orig s) :
    WithinRes T orig (runScadd t o adds s) := by
  unfold runScadd
  try dsimp only
  with_reducible repeat' first
    | (intro _) | assumption | (exact subP_trans (by decide) hT) | apply within_writeMod | apply within_engineAll
    | apply within_ite | apply withinRes_ite | apply withinRes_ok | apply withinRes_ue
    | (apply withinRes_of; assumption) | (apply withinRes_ofUe; assumption) | split | dsimp only

theorem within_runSet (T : List Part) (orig : State) (hT : subP [.od, .mem, .ecc, .obs, .log, .frz] T = true) (t :
    Nat) (o : IrrOp) (s : State) (h1 : Within T orig s) :
    WithinRes T orig (runSet t o s) := by
  unfold runSet
  try dsimp only
  with_reducible repeat' first
    | (intro _) | assumption | (exact subP_trans (by decide) hT) | apply within_irrRead | apply within_irrWrites
    | apply within_ite | apply withinRes_ite | apply withinRes_ok | apply withinRes_ue
    | (apply withinRes_of; assumption) | (apply withinRes_ofUe; assumption) | split | dsimp only

theorem within_runHash (T : List Part) (orig : State) (hT : subP [.od, .mem, .ecc, .obs, .log, .frz] T = true) (t :
    Nat) (o : IrrOp) (s : State) (h1 : Within T orig s) :
    WithinRes T orig (runHash t o s) := by
  unfold runHash
  try dsimp only
  with_reducible repeat' first
    | (intro _) | assumption | (exact subP_trans (by decide) hT) | apply within_irrRead | apply within_hashKeys
    | apply within_irrWrites | apply within_ite | apply withinRes_ite | apply withinRes_ok | apply withinRes_ue
    | (apply withinRes_of; assumption) | (apply withinRes_ofUe; assumption) | split | dsimp only

theorem within_runSort (T : List Part) (orig : State) (hT : subP [.od, .freeCtr, .mem, .ecc, .obs, .log, .frz] T =
    true) (t : Nat) (o : IrrOp) (s : State) (h1 : Within T orig s) :
    WithinRes T orig (runSort t o s) := by
  unfold runSort
  try dsimp only
  with_reducible repeat' first
    | (intro _) | assumption | (exact subP_trans (by decide) hT) | apply within_irrRead | apply within_irrWrites
    | apply within_undefine | apply within_ite | apply withinRes_ite | apply withinRes_ok | apply withinRes_ue
    | (apply withinRes_of; assumption) | (apply withinRes_ofUe; assumption) | split | dsimp only

theorem within_runSelectk (T : List Part) (orig : State) (hT : subP [.od, .mem, .ecc, .obs, .log, .frz] T = true) (t :
    Nat) (o : IrrOp) (s : State) (h1 : Within T orig s) :
    WithinRes T orig (runSelectk t o s) := by
  unfold runSelectk
  try dsimp only
  with_reducible repeat' first
    | (intro _) | assumption | (exact subP_trans (by decide) hT) | apply within_irrRead | apply within_irrWrites
    | apply within_ite | apply withinRes_ite | apply withinRes_ok | apply withinRes_ue
    | (apply withinRes_of; assumption) | (apply withinRes_ofUe; assumption) | split | dsimp only

theorem within_irrRun (T : List Part) (orig : State) (hT : subP [.od, .freeCtr, .mem, .ecc, .tiles, .graphs, .obs,
    .log, .frz] T = true) (t : Nat) (o : IrrOp) (adds : List Addition) (s : State) (h1 : Within T orig s) :
    WithinRes T orig (irrRun t o adds s) := by
  unfold irrRun
  try dsimp only
  with_reducible repeat' first
    | (intro _) | assumption | (exact subP_trans (by decide) hT) | apply within_runGather | apply within_runScatter
    | apply within_runScadd | apply within_runSet | apply within_runHash | apply within_runSort
    | apply within_runSelectk | apply within_ite | apply withinRes_ite | apply withinRes_ok | apply withinRes_ue
    | (apply withinRes_of; assumption) | (apply withinRes_ofUe; assumption) | split | dsimp only

theorem within_noteAll (T : List Part) (orig : State) (hT : subP [.graphs] T = true) (t : Nat) (a1 : List (Nat × Nat))
    (s : State) (h1 : Within T orig s) :
    Within T orig (noteAll t a1 s) := by
  induction a1 generalizing s with
  | nil => exact h1
  | cons x r ih =>
    unfold noteAll
    apply ih
    with_reducible repeat' first
      | (intro _) | assumption | (exact subP_trans (by decide) hT) | apply within_noteWrote | apply within_ite | split
      | apply_assumption | dsimp only

theorem within_irrComplete (T : List Part) (orig : State) (hT : subP [.od, .out, .freeCtr, .mem, .ecc, .tiles,
    .graphs, .obs, .log, .frz, .can] T = true) (t : Nat) (u : Nat) (s : State) (h1 : Within T orig s) :
    Within T orig (irrComplete t u s) := by
  unfold irrComplete
  try dsimp only
  with_reducible repeat' first
    | (intro _) | assumption | (exact subP_trans (by decide) hT) | apply within_setTile | apply within_irrRun
    | apply within_ueTile | apply within_iobWrite | apply within_noteAll | apply within_addFlags | apply within_ite
    | (apply withinRes_of; assumption) | (apply withinRes_ofUe; assumption) | split | dsimp only

theorem within_scaddStart (T : List Part) (orig : State) (hT : subP [.od, .ecc, .obs, .log, .frz] T = true) (t : Nat)
    (o : IrrOp) (s : State) (h1 : Within T orig s) :
    WithinRes T orig (scaddStart t o s) := by
  unfold scaddStart
  try dsimp only
  with_reducible repeat' first
    | (intro _) | assumption | (exact subP_trans (by decide) hT) | apply within_irrRead | apply withinRes_ok
    | apply withinRes_ue | (apply withinRes_of; assumption) | (apply withinRes_ofUe; assumption) | split | dsimp only

theorem within_irrDequeue (T : List Part) (orig : State) (hT : subP [.od, .out, .ecc, .tiles, .graphs, .obs, .log,
    .frz, .can] T = true) (t : Nat) (u : Nat) (s : State) (h1 : Within T orig s) :
    Within T orig (irrDequeue t u s) := by
  unfold irrDequeue
  try dsimp only
  with_reducible repeat' first
    | (intro _) | assumption | (exact subP_trans (by decide) hT) | apply within_setTile | apply within_scaddStart
    | apply within_ueTile | apply within_ite | (apply withinRes_of; assumption) | (apply withinRes_ofUe; assumption)
    | split | dsimp only

theorem within_irrIssue (T : List Part) (orig : State) (hT : subP [.od, .ecc, .obs, .log, .frz] T = true) (t : TileId)
    (op : Nat) (f : RegForm) (s : State) (x : TileSt) (h1 : Within T orig s) :
    WithinSlot T orig (irrIssue t op f s x) := by
  unfold irrIssue
  try dsimp only
  with_reducible repeat' first
    | (intro _) | assumption | (exact subP_trans (by decide) hT) | apply within_readMod | apply within_ite
    | apply withinSlot_ok | apply withinSlot_exc | apply withinSlot_ue | (apply withinRes_of; assumption)
    | (apply withinRes_ofUe; assumption) | split | dsimp only

theorem within_scaddAccept (T : List Part) (orig : State) (hT : subP [.od, .out, .mem, .ecc, .tiles, .graphs, .obs,
    .log, .frz, .can] T = true) (t : Nat) (i : Nat) (s : State) (h1 : Within T orig s) :
    Within T orig (scaddAccept t i s) := by
  unfold scaddAccept
  try dsimp only
  with_reducible repeat' first
    | (intro _) | assumption | (exact subP_trans (by decide) hT) | apply within_engineAdd | apply within_ueTile
    | apply within_noteWrote | apply within_setTile | apply within_ite | apply withinRes_ite | apply withinRes_ok
    | apply withinRes_ue | apply withinServe_ok | apply withinServe_ue | apply withinSlot_ok | apply withinSlot_exc
    | apply withinSlot_ue | apply withinOpt_ite | apply withinOpt_some | apply withinOpt_none | apply withinAns_ite
    | apply withinAns_some | apply withinAns_none | apply within_snd_ite | (apply withinRes_of; assumption)
    | (apply withinRes_ofUe; assumption) | (apply withinServe_of; assumption) | (apply withinServe_ofUe; assumption)
    | (apply withinSlot_of; assumption) | (apply withinSlot_ofExc; assumption) | (apply withinSlot_ofUe; assumption)
    | (apply withinPair_of; assumption) | (apply withinTriple_of; assumption) | (apply withinOpt_of; assumption)
    | (apply withinAns_of; assumption) | apply within_foldl | split | (simp only [id_eq]) | apply_assumption
    | dsimp only

theorem within_sclBin (T : List Part) (orig : State) (_hT : subP [] T = true) (f : RegForm) (g : Nat → Nat → Nat) (s :
    State) (a3 : TileSt) (h1 : Within T orig s) :
    WithinSlot T orig (sclBin f g s a3) := by
  unfold sclBin
  try dsimp only
  with_reducible repeat' first
    | (intro _) | assumption | (exact subP_trans (by decide) hT) | apply within_sclOp | apply withinSlot_ok
    | apply withinSlot_exc | apply withinSlot_ue | (apply withinSlot_of; assumption)
    | (apply withinSlot_ofExc; assumption) | (apply withinSlot_ofUe; assumption) | split | apply_assumption
    | dsimp only

theorem within_windowOp (T : List Part) (orig : State) (_hT : subP [] T = true) (f : ImmForm) (g : Token → Nat) (s :
    State) (x : TileSt) (h1 : Within T orig s) :
    WithinSlot T orig (windowOp f g s x) := by
  unfold windowOp
  try dsimp only
  with_reducible repeat' first
    | (intro _) | assumption | (exact subP_trans (by decide) hT) | apply withinSlot_ok | apply withinSlot_exc
    | apply withinSlot_ue | split | apply_assumption | dsimp only

theorem within_countMatrix (T : List Part) (orig : State) (hT : subP [.od, .flt] T = true) (t : Nat) (busy : Nat) (m :
    MatOp) (s : State) (h1 : Within T orig s) :
    Within T orig (countMatrix t busy m s) := by
  unfold countMatrix
  try dsimp only
  with_reducible repeat' first
    | (intro _) | assumption | (exact subP_trans (by decide) hT) | apply within_noteEvents | apply within_odAdd
    | split | dsimp only

theorem within_doMclr (T : List Part) (orig : State) (hT : subP [.tiles] T = true) (t : Nat) (m : MatOp) (s : State)
    (h1 : Within T orig s) :
    Within T orig (doMclr t m s) := by
  unfold doMclr
  try dsimp only
  with_reducible repeat' first
    | (intro _) | assumption | (exact subP_trans (by decide) hT) | apply within_setTile | apply within_ite | split
    | dsimp only

theorem within_doMldacc (T : List Part) (orig : State) (hT : subP [.od, .out, .ecc, .tiles, .graphs, .obs, .log, .frz,
    .can] T = true) (t : Nat) (m : MatOp) (s : State) (h1 : Within T orig s) :
    Within T orig (doMldacc t m s) := by
  unfold doMldacc
  try dsimp only
  with_reducible repeat' first
    | (intro _) | assumption | (exact subP_trans (by decide) hT) | apply within_readRows | apply within_ueTile
    | apply within_addFlags | apply within_setTile | apply within_ite | (apply withinRes_of; assumption)
    | (apply withinRes_ofUe; assumption) | split | dsimp only

theorem within_doMma (T : List Part) (orig : State) (hT : subP [.od, .out, .ecc, .tiles, .graphs, .obs, .log, .frz,
    .can] T = true) (t : Nat) (m : MatOp) (s : State) (h1 : Within T orig s) :
    Within T orig (doMma t m s) := by
  unfold doMma
  try dsimp only
  with_reducible repeat' first
    | (intro _) | assumption | (exact subP_trans (by decide) hT) | apply within_readTensor | apply within_ueTile
    | apply within_tileExc | apply within_addFlags | apply within_setTile | apply within_ite
    | (apply withinRes_of; assumption) | (apply withinRes_ofUe; assumption) | apply within_foldl | split | dsimp only

theorem within_doMmout (T : List Part) (orig : State) (hT : subP [.od, .out, .mem, .ecc, .tiles, .graphs, .obs, .log,
    .frz, .can] T = true) (t : Nat) (m : MatOp) (s : State) (h1 : Within T orig s) :
    Within T orig (doMmout t m s) := by
  unfold doMmout
  try dsimp only
  with_reducible repeat' first
    | (intro _) | assumption | (exact subP_trans (by decide) hT) | apply within_writeRows | apply within_ueTile
    | apply within_addFlags | apply within_ite | (apply withinRes_of; assumption) | (apply withinRes_ofUe; assumption)
    | apply within_foldl | split | (simp only [id_eq]) | dsimp only

theorem within_matComplete (T : List Part) (orig : State) (hT : subP [.od, .out, .mem, .ecc, .tiles, .graphs, .flt,
    .obs, .log, .frz, .can] T = true) (t : Nat) (busy : Nat) (s0 : State) (h1 : Within T orig s0) :
    Within T orig (matComplete t busy s0) := by
  unfold matComplete
  try dsimp only
  with_reducible repeat' first
    | (intro _) | assumption | (exact subP_trans (by decide) hT) | apply within_countMatrix | apply within_setTile
    | apply within_doMma | apply within_doMmout | apply within_doMldacc | apply within_doMclr | apply within_ite
    | split | dsimp only

theorem within_matIssue (T : List Part) (orig : State) (_hT : subP [] T = true) (t : TileId) (op : Nat) (f : RegForm)
    (da : TileSt → Nat) (db : TileSt → Nat) (chk : TileSt → Bool → Nat → Option Nat) (s : State) (x : TileSt) (h1 :
    Within T orig s) :
    WithinSlot T orig (matIssue t op f da db chk s x) := by
  unfold matIssue
  try dsimp only
  with_reducible repeat' first
    | (intro _) | assumption | (exact subP_trans (by decide) hT) | apply withinSlot_ok | apply withinSlot_exc
    | apply withinSlot_ue | split | apply_assumption | dsimp only

theorem within_vecRed (T : List Part) (orig : State) (_hT : subP [] T = true) (kind : Nat) (f : RegForm) (s : State)
    (x : TileSt) (h1 : Within T orig s) :
    WithinSlot T orig (vecRed kind f s x) := by
  unfold vecRed
  try dsimp only
  with_reducible repeat' first
    | (intro _) | assumption | (exact subP_trans (by decide) hT) | apply withinSlot_ok | apply withinSlot_exc
    | apply withinSlot_ue | apply within_foldl | split | dsimp only

theorem within_vecScan (T : List Part) (orig : State) (_hT : subP [] T = true) (kind : Nat) (f : RegForm) (s : State)
    (x : TileSt) (h1 : Within T orig s) :
    WithinSlot T orig (vecScan kind f s x) := by
  unfold vecScan
  try dsimp only
  with_reducible repeat' first
    | (intro _) | assumption | (exact subP_trans (by decide) hT) | apply within_ite | apply withinSlot_ok
    | apply withinSlot_exc | apply withinSlot_ue | split | dsimp only

theorem within_cvtOp (T : List Part) (orig : State) (_hT : subP [] T = true) (t : TileId) (f : RegForm) (src : TileSt
    → List Nat) (k0 : TileSt → Nat) (dst : Nat → List Nat → List Lane) (s : State) (x : TileSt) (h1 : Within T orig s)
    :
    WithinSlot T orig (cvtOp t f src k0 dst s x) := by
  unfold cvtOp
  try dsimp only
  with_reducible repeat' first
    | (intro _) | assumption | (exact subP_trans (by decide) hT) | apply withinSlot_ok | apply withinSlot_exc
    | apply withinSlot_ue | split | apply_assumption | dsimp only

theorem within_moveOp (T : List Part) (orig : State) (_hT : subP [] T = true) (f : RegForm) (g : TileSt → Nat → Lane)
    (s : State) (a3 : TileSt) (h1 : Within T orig s) :
    WithinSlot T orig (moveOp f g s a3) := by
  unfold moveOp
  try dsimp only
  with_reducible repeat' first
    | (intro _) | assumption | (exact subP_trans (by decide) hT) | apply within_lanesOp | apply withinSlot_ok
    | apply withinSlot_exc | apply withinSlot_ue | (apply withinSlot_of; assumption)
    | (apply withinSlot_ofExc; assumption) | (apply withinSlot_ofUe; assumption) | split | apply_assumption
    | dsimp only

end Sys2Proof.Machine
end

