-- ==== Sys2Proof/Laws/WithinSched.lean ====
section
/-! SUPPORT. The parts of the state that each operation may change: the credits, the judged writes, memory upkeep, the switch and the links. -/
namespace Sys2Proof.Machine
open Sys2Proof

theorem within_showDuty (T : List Part) (orig : State) (hT : subP [.od] T = true) (s : State) (h1 : Within T orig s) :
    Within T orig (showDuty s) := by
  unfold showDuty
  try dsimp only
  with_reducible repeat' first
    | (intro _) | assumption | (exact subP_trans (by decide) hT) | apply within_odSet | split | dsimp only

theorem within_setDuty (T : List Part) (orig : State) (hT : subP [.flt] T = true) (d : Nat) (v : Nat) (s : State) (h1
    : Within T orig s) :
    Within T orig (setDuty d v s) := by
  unfold setDuty
  try dsimp only
  with_reducible repeat' first
    | (intro _) | assumption | (exact subP_trans (by decide) hT) | apply within_modFlt | apply within_ite | split
    | dsimp only

theorem within_setPace (T : List Part) (orig : State) (hT : subP [.flt] T = true) (d : Nat) (v : Nat) (s : State) (h1
    : Within T orig s) :
    Within T orig (setPace d v s) := by
  unfold setPace
  try dsimp only
  with_reducible repeat' first
    | (intro _) | assumption | (exact subP_trans (by decide) hT) | apply within_modFlt | apply within_ite | split
    | dsimp only

theorem within_showVolt (T : List Part) (orig : State) (hT : subP [.od] T = true) (d : Nat) (s : State) (h1 : Within T
    orig s) :
    Within T orig (showVolt d s) := by
  unfold showVolt
  try dsimp only
  with_reducible repeat' first
    | (intro _) | assumption | (exact subP_trans (by decide) hT) | apply within_odBit | apply within_odSet
    | apply within_ite | split | dsimp only

theorem within_showFreq (T : List Part) (orig : State) (hT : subP [.od] T = true) (d : Nat) (s : State) (h1 : Within T
    orig s) :
    Within T orig (showFreq d s) := by
  unfold showFreq
  try dsimp only
  with_reducible repeat' first
    | (intro _) | assumption | (exact subP_trans (by decide) hT) | apply within_odSet | split | dsimp only

theorem within_setPoint (T : List Part) (orig : State) (hT : subP [.flt] T = true) (d : Nat) (v : Nat) (s : State) (h1
    : Within T orig s) :
    Within T orig (setPoint d v s) := by
  unfold setPoint
  try dsimp only
  with_reducible repeat' first
    | (intro _) | assumption | (exact subP_trans (by decide) hT) | apply within_modFlt | apply within_ite | split
    | dsimp only

theorem within_noteIssuer (T : List Part) (orig : State) (hT : subP [.flt] T = true) (d : Nat) (s : State) (h1 :
    Within T orig s) :
    Within T orig (noteIssuer d s) := by
  unfold noteIssuer
  try dsimp only
  with_reducible repeat' first
    | (intro _) | assumption | (exact subP_trans (by decide) hT) | apply within_modFlt | split | dsimp only

theorem within_setSlot (T : List Part) (orig : State) (hT : subP [.flt] T = true) (d : Nat) (t : Nat) (s : State) (h1
    : Within T orig s) :
    Within T orig (setSlot d t s) := by
  unfold setSlot
  try dsimp only
  with_reducible repeat' first
    | (intro _) | assumption | (exact subP_trans (by decide) hT) | apply within_modFlt | apply within_ite | split
    | dsimp only

theorem within_useSlot (T : List Part) (orig : State) (hT : subP [.flt] T = true) (d : Nat) (s : State) (h1 : Within T
    orig s) :
    Within T orig (useSlot d s) := by
  unfold useSlot
  try dsimp only
  with_reducible repeat' first
    | (intro _) | assumption | (exact subP_trans (by decide) hT) | apply within_setSlot | split | dsimp only

theorem within_addProj (T : List Part) (orig : State) (hT : subP [.flt] T = true) (p : Int) (s : State) (h1 : Within T
    orig s) :
    Within T orig (addProj p s) := by
  unfold addProj
  try dsimp only
  with_reducible repeat' first
    | (intro _) | assumption | (exact subP_trans (by decide) hT) | apply within_modFlt | split | dsimp only

theorem within_finish (T : List Part) (orig : State) (hT : subP [.cmds] T = true) (ring : Nat) (idx : Nat) (r :
    CmdRes) (s : State) (h1 : Within T orig s) :
    Within T orig (finish ring idx r s) := by
  unfold finish
  try dsimp only
  with_reducible repeat' first
    | (intro _) | assumption | (exact subP_trans (by decide) hT) | apply within_ite | split | dsimp only
    | apply within_set_cmds

theorem within_countStop (T : List Part) (orig : State) (hT : subP [.od, .freeCtr] T = true) (t : Nat) (s : State) (h1
    : Within T orig s) :
    Within T orig (countStop t s) := by
  unfold countStop
  try dsimp only
  with_reducible repeat' first
    | (intro _) | assumption | (exact subP_trans (by decide) hT) | apply within_cyclesSince | apply within_countTask
    | (apply withinPair_of; assumption) | split | dsimp only

theorem within_countRan (T : List Part) (orig : State) (hT : subP [.tiles, .flt] T = true) (t : Nat) (s : State) (h1 :
    Within T orig s) :
    Within T orig (countRan t s) := by
  unfold countRan
  try dsimp only
  with_reducible repeat' first
    | (intro _) | assumption | (exact subP_trans (by decide) hT) | apply within_modFlt | apply within_setTile | split
    | dsimp only

theorem within_undefineAll (T : List Part) (orig : State) (hT : subP [.freeCtr, .mem] T = true) (a0 : List (Nat ×
    Nat)) (s : State) (h1 : Within T orig s) :
    Within T orig (undefineAll a0 s) := by
  revert h1
  fun_induction undefineAll a0 s <;> intro h1
  all_goals (try dsimp only)
  with_reducible repeat' first
    | (intro _) | assumption | (exact subP_trans (by decide) hT) | apply within_undefine | split | apply_assumption
    | dsimp only

theorem within_dropRobs (T : List Part) (orig : State) (hT : subP [.freeCtr, .mem, .rem] T = true) (t : Nat) (s :
    State) (h1 : Within T orig s) :
    Within T orig (dropRobs t s) := by
  unfold dropRobs
  try dsimp only
  with_reducible repeat' first
    | (intro _) | assumption | (exact subP_trans (by decide) hT) | apply within_undefineAll | apply within_ite | split
    | dsimp only | apply within_set_rem

theorem within_initQueues (T : List Part) (orig : State) (hT : subP [.tiles] T = true) (ts : List Nat) (t : Nat) (s :
    State) (h1 : Within T orig s) :
    Within T orig (initQueues ts t s) := by
  unfold initQueues
  try dsimp only
  with_reducible repeat' first
    | (intro _) | assumption | (exact subP_trans (by decide) hT) | apply within_setTile | apply within_ite | split
    | dsimp only

theorem within_setMode (T : List Part) (orig : State) (hT : subP [.od, .tiles, .obs, .frz] T = true) (t : Nat) (m :
    TileMode) (s : State) (h1 : Within T orig s) :
    Within T orig (setMode t m s) := by
  unfold setMode
  try dsimp only
  with_reducible repeat' first
    | (intro _) | assumption | (exact subP_trans (by decide) hT) | apply within_setTile | apply within_trace
    | apply within_ite | split | dsimp only

theorem within_stopTile (T : List Part) (orig : State) (hT : subP [.od, .freeCtr, .mem, .ecc, .tiles, .graphs, .rem,
    .flt, .obs, .log, .frz] T = true) (ts : List Nat) (t : Nat) (s0 : State) (h1 : Within T orig s0) :
    Within T orig (stopTile ts t s0) := by
  unfold stopTile
  try dsimp only
  with_reducible repeat' first
    | (intro _) | assumption | (exact subP_trans (by decide) hT) | apply within_countStop | apply within_countRan
    | apply within_faultless | apply within_setTile | apply within_freeNext | apply within_dropRobs
    | apply within_undefineAll | apply within_initQueues | apply within_noteIssuer | apply within_someAdds
    | apply within_setMode | apply within_ite | (apply withinPair_of; assumption) | split | dsimp only

theorem within_dropBreak (T : List Part) (orig : State) (hT : subP [.od, .obs] T = true) (h : Nat) (s : State) (h1 :
    Within T orig s) :
    Within T orig (dropBreak h s) := by
  unfold dropBreak
  try dsimp only
  with_reducible repeat' first
    | (intro _) | assumption | (exact subP_trans (by decide) hT) | apply within_odSet | apply within_ite | split
    | dsimp only | apply within_set_obs

theorem within_enterFiller (T : List Part) (orig : State) (hT : subP [.freeCtr, .tiles, .flt] T = true) (t : Nat) (s :
    State) (h1 : Within T orig s) :
    Within T orig (enterFiller t s) := by
  unfold enterFiller
  try dsimp only
  with_reducible repeat' first
    | (intro _) | assumption | (exact subP_trans (by decide) hT) | apply within_startFiller | apply within_ite | split
    | dsimp only

theorem within_freeGraph (T : List Part) (orig : State) (hT : subP [.od, .freeCtr, .mem, .ecc, .tiles, .mesh, .graphs,
    .rem, .flt, .obs, .log, .frz] T = true) (h : Nat) (s : State) (h1 : Within T orig s) :
    Within T orig (freeGraph h s) := by
  unfold freeGraph
  try dsimp only
  with_reducible repeat' first
    | (intro _) | assumption | (exact subP_trans (by decide) hT) | apply within_stopTile | apply within_setTile
    | apply within_dropBreak | apply within_enterFiller | apply within_foldl | split | dsimp only
    | apply within_set_mesh | apply within_set_graphs

theorem within_ageLog (T : List Part) (orig : State) (hT : subP [.od, .obs, .log, .frz] T = true) (r : Req) (sat :
    Bool) (src : Nat) (c : EvCmd) (s0 : State) (s : State) (h1 : Within T orig s0) (h2 : Within T orig s) :
    Within T orig (ageLog r sat src c s0 s) := by
  unfold ageLog
  try dsimp only
  with_reducible repeat' first
    | (intro _) | assumption | (exact subP_trans (by decide) hT) | apply within_logEvent | apply within_ite | split
    | dsimp only

theorem within_traceDone (T : List Part) (orig : State) (hT : subP [.od, .obs, .frz] T = true) (h : Nat) (code : Nat)
    (g : GraphSt) (r : RunG) (s : State) (h1 : Within T orig s) :
    Within T orig (traceDone h code g r s) := by
  unfold traceDone
  try dsimp only
  with_reducible repeat' first
    | (intro _) | assumption | (exact subP_trans (by decide) hT) | apply within_trace | split | dsimp only

theorem within_stopGraph (T : List Part) (orig : State) (hT : subP [.od, .freeCtr, .mem, .ecc, .tiles, .mesh, .graphs,
    .cmds, .rem, .flt, .obs, .log, .frz] T = true) (h : Nat) (code : Nat) (s : State) (h1 : Within T orig s) :
    Within T orig (stopGraph h code s) := by
  unfold stopGraph
  try dsimp only
  with_reducible repeat' first
    | (intro _) | assumption | (exact subP_trans (by decide) hT) | apply within_stopTile | apply within_traceDone
    | apply within_finish | apply within_modGraph | apply within_dropBreak | apply within_enterFiller
    | apply within_foldl | split | dsimp only | apply within_set_mesh

theorem within_raiseReq (T : List Part) (orig : State) (hT : subP [.od, .tiles, .obs, .frz] T = true) (t : Nat) (s :
    State) (h1 : Within T orig s) :
    Within T orig (raiseReq t s) := by
  unfold raiseReq
  try dsimp only
  with_reducible repeat' first
    | (intro _) | assumption | (exact subP_trans (by decide) hT) | apply within_trace | apply within_setTile
    | apply within_ite | split | dsimp only

theorem within_setRot (T : List Part) (orig : State) (hT : subP [.flt] T = true) (d : Nat) (v : Nat) (s : State) (h1 :
    Within T orig s) :
    Within T orig (setRot d v s) := by
  unfold setRot
  try dsimp only
  with_reducible repeat' first
    | (intro _) | assumption | (exact subP_trans (by decide) hT) | apply within_modFlt | apply within_ite | split
    | dsimp only

theorem within_turnRail (T : List Part) (orig : State) (hT : subP [.flt] T = true) (d : Nat) (r : Req) (s0 : State) (s
    : State) (h1 : Within T orig s0) (h2 : Within T orig s) :
    Within T orig (turnRail d r s0 s) := by
  unfold turnRail
  try dsimp only
  with_reducible repeat' first
    | (intro _) | assumption | (exact subP_trans (by decide) hT) | apply within_setRot | apply within_ite | split
    | dsimp only

theorem within_flipTurn (T : List Part) (orig : State) (hT : subP [.flt] T = true) (d : Nat) (r : Req) (s0 : State) (s
    : State) (h1 : Within T orig s0) (h2 : Within T orig s) :
    Within T orig (flipTurn d r s0 s) := by
  unfold flipTurn
  try dsimp only
  with_reducible repeat' first
    | (intro _) | assumption | (exact subP_trans (by decide) hT) | apply within_modFlt | apply within_ite | split
    | dsimp only

theorem within_setDeclined (T : List Part) (orig : State) (hT : subP [.flt] T = true) (d : Nat) (v : Bool) (s : State)
    (h1 : Within T orig s) :
    Within T orig (setDeclined d v s) := by
  unfold setDeclined
  try dsimp only
  with_reducible repeat' first
    | (intro _) | assumption | (exact subP_trans (by decide) hT) | apply within_modFlt | apply within_ite | split
    | dsimp only

theorem within_stepEffect (T : List Part) (orig : State) (hT : subP [.od, .flt] T = true) (x : DieStep) (s : State)
    (h1 : Within T orig s) :
    Within T orig (stepEffect x s) := by
  unfold stepEffect
  try dsimp only
  with_reducible repeat' first
    | (intro _) | assumption | (exact subP_trans (by decide) hT) | apply within_showDuty | apply within_setDuty
    | apply within_setPace | apply within_showVolt | apply within_modFlt | apply within_showFreq
    | apply within_setPoint | apply within_ite | split | dsimp only

theorem within_queueStep (T : List Part) (orig : State) (hT : subP [.od, .flt] T = true) (d : Nat) (kind : Nat) (up :
    Bool) (p : Nat) (s : State) (h1 : Within T orig s) :
    Within T orig (queueStep d kind up p s) := by
  unfold queueStep
  try dsimp only
  with_reducible repeat' first
    | (intro _) | assumption | (exact subP_trans (by decide) hT) | apply within_stepEffect | apply within_modFlt
    | apply within_ite | split | dsimp only

theorem within_withdraw (T : List Part) (orig : State) (hT : subP [.flt] T = true) (d : Nat) (kind : Nat) (s : State)
    (h1 : Within T orig s) :
    Within T orig (withdraw d kind s) := by
  unfold withdraw
  try dsimp only
  with_reducible repeat' first
    | (intro _) | assumption | (exact subP_trans (by decide) hT) | apply within_modFlt | apply within_noteIssuer
    | apply within_ite | split | dsimp only

theorem within_regionEmpty (T : List Part) (orig : State) (hT : subP [.od] T = true) (d : Nat) (s : State) (h1 :
    Within T orig s) :
    Within T orig (regionEmpty d s) := by
  unfold regionEmpty
  try dsimp only
  with_reducible repeat' first
    | (intro _) | assumption | (exact subP_trans (by decide) hT) | apply within_odSet | apply within_ite | split
    | dsimp only

theorem within_measChange (T : List Part) (orig : State) (hT : subP [.meas] T = true) (s : State) (h1 : Within T orig
    s) :
    Within T orig (measChange s) := by
  unfold measChange
  try dsimp only
  with_reducible repeat' first
    | (intro _) | assumption | (exact subP_trans (by decide) hT) | split | dsimp only | apply within_set_meas

theorem within_measUnload (T : List Part) (orig : State) (hT : subP [.od, .meas] T = true) (ts : List Nat) (s : State)
    (h1 : Within T orig s) :
    Within T orig (measUnload ts s) := by
  unfold measUnload
  try dsimp only
  with_reducible repeat' first
    | (intro _) | assumption | (exact subP_trans (by decide) hT) | apply within_regionEmpty | apply within_measChange
    | apply within_foldl | split | dsimp only | apply within_set_meas

theorem within_unloadNow (T : List Part) (orig : State) (hT : subP [.od, .freeCtr, .mem, .ecc, .tiles, .mesh, .graphs,
    .cmds, .rem, .flt, .meas, .obs, .log, .frz] T = true) (h : Nat) (ring : Nat) (idx : Nat) (s : State) (h1 : Within
    T orig s) :
    Within T orig (unloadNow h ring idx s) := by
  unfold unloadNow
  try dsimp only
  with_reducible repeat' first
    | (intro _) | assumption | (exact subP_trans (by decide) hT) | apply within_finish | apply within_measUnload
    | apply within_freeGraph | split | dsimp only

theorem within_afterRun (T : List Part) (orig : State) (hT : subP [.od, .freeCtr, .mem, .ecc, .tiles, .mesh, .graphs,
    .cmds, .rem, .flt, .meas, .obs, .log, .frz] T = true) (h : Nat) (s : State) (h1 : Within T orig s) :
    Within T orig (afterRun h s) := by
  unfold afterRun
  try dsimp only
  with_reducible repeat' first
    | (intro _) | assumption | (exact subP_trans (by decide) hT) | apply within_unloadNow | split | dsimp only

theorem within_stepSat (T : List Part) (orig : State) (hT : subP [.od, .flt, .obs, .log, .frz] T = true) (s : State)
    (h1 : Within T orig s) :
    Within T orig (stepSat s) := by
  unfold stepSat
  try dsimp only
  with_reducible repeat' first
    | (intro _) | assumption | (exact subP_trans (by decide) hT) | apply within_logEvent | apply within_modFlt
    | apply within_ite | apply within_foldl | split | dsimp only

theorem within_tileSat (T : List Part) (orig : State) (hT : subP [.od, .tiles, .obs, .log, .frz] T = true) (t : Nat)
    (s : State) (h1 : Within T orig s) :
    Within T orig (tileSat t s) := by
  unfold tileSat
  try dsimp only
  with_reducible repeat' first
    | (intro _) | assumption | (exact subP_trans (by decide) hT) | apply within_logEvent | apply within_setTile
    | apply within_ite | split | dsimp only

theorem within_giveReply (T : List Part) (orig : State) (hT : subP [.tiles] T = true) (t : Nat) (a1 : Nat) (k : Token)
    (s : State) (h1 : Within T orig s) :
    WithinOpt T orig (giveReply t a1 k s) := by
  unfold giveReply
  try dsimp only
  with_reducible repeat' first
    | (intro _) | assumption | (exact subP_trans (by decide) hT) | apply within_setTile | apply within_ite
    | apply withinOpt_ite | apply withinOpt_some | apply withinOpt_none | split | dsimp only

theorem within_beginStep (T : List Part) (orig : State) (hT : subP [.od, .flt, .obs, .log, .frz] T = true) (d : Nat)
    (r : Req) (x : DieStep) (s : State) (h1 : Within T orig s) :
    Within T orig (beginStep d r x s) := by
  unfold beginStep
  try dsimp only
  with_reducible repeat' first
    | (intro _) | assumption | (exact subP_trans (by decide) hT) | apply within_turnRail | apply within_flipTurn
    | apply within_modFlt | apply within_ageLog | apply within_ite | split | dsimp only

theorem within_grant (T : List Part) (orig : State) (hT : subP [.tiles, .flt] T = true) (d : Nat) (t : Nat) (s :
    State) (h1 : Within T orig s) :
    Within T orig (grant d t s) := by
  unfold grant
  try dsimp only
  with_reducible repeat' first
    | (intro _) | assumption | (exact subP_trans (by decide) hT) | apply within_noteIssuer | apply within_useSlot
    | apply within_addProj | apply within_setTile | split | dsimp only

theorem within_creditGrant (T : List Part) (orig : State) (hT : subP [.od, .tiles, .graphs, .flt, .obs, .log, .frz] T
    = true) (d : Nat) (s : State) (h1 : Within T orig s) :
    Within T orig (creditGrant d s) := by
  unfold creditGrant
  try dsimp only
  with_reducible repeat' first
    | (intro _) | assumption | (exact subP_trans (by decide) hT) | apply within_modFlt | apply within_grant
    | apply within_flipTurn | apply within_turnRail | apply within_odAdd | apply within_trace | apply within_progress
    | apply within_ageLog | apply within_ite | split | dsimp only

theorem within_startToken (T : List Part) (orig : State) (hT : subP [.od, .tiles, .graphs, .obs, .frz] T = true) (tag
    : Nat) (t : Nat) (a2 : Nat) (s : State) (h1 : Within T orig s) :
    WithinOpt T orig (startToken tag t a2 s) := by
  unfold startToken
  try dsimp only
  with_reducible repeat' first
    | (intro _) | assumption | (exact subP_trans (by decide) hT) | apply within_raiseReq | apply within_progress
    | apply within_setTile | apply within_ite | apply withinOpt_ite | apply withinOpt_some | apply withinOpt_none
    | split | dsimp only

theorem within_feedStarts (T : List Part) (orig : State) (hT : subP [.od, .tiles, .graphs, .obs, .frz] T = true) (h :
    Nat) (tag : Nat) (a2 : List (Nat × Nat)) (s : State) (h1 : Within T orig s) :
    Within T orig (feedStarts h tag a2 s) := by
  revert h1
  fun_induction feedStarts h tag a2 s <;> intro h1
  all_goals (try dsimp only)
  with_reducible repeat' first
    | (intro _) | assumption | (exact subP_trans (by decide) hT) | apply within_startToken | apply within_modGraph
    | (apply withinOpt_of; assumption) | split | apply_assumption | dsimp only

theorem within_flushStarts (T : List Part) (orig : State) (hT : subP [.od, .tiles, .graphs, .obs, .frz] T = true) (h :
    Nat) (s : State) (h1 : Within T orig s) :
    Within T orig (flushStarts h s) := by
  unfold flushStarts
  try dsimp only
  with_reducible repeat' first
    | (intro _) | assumption | (exact subP_trans (by decide) hT) | apply within_feedStarts | apply within_modGraph
    | split | dsimp only

theorem within_creditReturn (T : List Part) (orig : State) (hT : subP [.od, .tiles, .mesh, .graphs, .obs, .frz] T =
    true) (t : Nat) (oq : Nat) (k : Nat) (s : State) (h1 : Within T orig s) :
    Within T orig (creditReturn t oq k s) := by
  unfold creditReturn
  try dsimp only
  with_reducible repeat' first
    | (intro _) | assumption | (exact subP_trans (by decide) hT) | apply within_setTile | apply within_raiseReq
    | apply within_flushStarts | apply within_ite | split | dsimp only | apply within_set_mesh

theorem within_dieStepSlot (T : List Part) (orig : State) (hT : subP [.od, .flt, .obs, .log, .frz] T = true) (d : Nat)
    (s : State) (h1 : Within T orig s) :
    Within T orig (dieStepSlot d s) := by
  unfold dieStepSlot
  try dsimp only
  with_reducible repeat' first
    | (intro _) | assumption | (exact subP_trans (by decide) hT) | apply within_beginStep | apply within_noteIssuer
    | apply within_useSlot | apply within_addProj | apply within_stepEffect | apply within_modFlt | apply within_ite
    | split | dsimp only

theorem within_regionLoaded (T : List Part) (orig : State) (hT : subP [.od] T = true) (d : Nat) (s : State) (h1 :
    Within T orig s) :
    Within T orig (regionLoaded d s) := by
  unfold regionLoaded
  try dsimp only
  with_reducible repeat' first
    | (intro _) | assumption | (exact subP_trans (by decide) hT) | apply within_odSet | apply within_ite | split
    | dsimp only

theorem within_voltStepBy (T : List Part) (orig : State) (hT : subP [.od, .flt] T = true) (d : Nat) (gap : Nat → Nat)
    (s0 : State) (h1 : Within T orig s0) :
    Within T orig (voltStepBy d gap s0) := by
  unfold voltStepBy
  try dsimp only
  with_reducible repeat' first
    | (intro _) | assumption | (exact subP_trans (by decide) hT) | apply within_withdraw | apply within_queueStep
    | apply within_ite | split | apply_assumption | dsimp only

theorem within_tileOff (T : List Part) (orig : State) (hT : subP [.od, .freeCtr, .mem, .ecc, .tiles, .obs, .frz] T =
    true) (t : Nat) (s : State) (h1 : Within T orig s) :
    Within T orig (tileOff t s) := by
  unfold tileOff
  try dsimp only
  with_reducible repeat' first
    | (intro _) | assumption | (exact subP_trans (by decide) hT) | apply within_setMode | apply within_setTile
    | apply within_undefine | apply within_dropCells | split | dsimp only

theorem within_runDone (T : List Part) (orig : State) (hT : subP [.od, .freeCtr, .mem, .ecc, .tiles, .mesh, .graphs,
    .cmds, .rem, .flt, .meas, .obs, .log, .frz] T = true) (h : Nat) (g : GraphSt) (r : RunG) (s : State) (h1 : Within
    T orig s) :
    Within T orig (runDone h g r s) := by
  unfold runDone
  try dsimp only
  with_reducible repeat' first
    | (intro _) | assumption | (exact subP_trans (by decide) hT) | apply within_traceDone | apply within_finish
    | apply within_afterRun | apply within_modGraph | split | dsimp only

theorem within_runReported (T : List Part) (orig : State) (hT : subP [.od, .freeCtr, .mem, .ecc, .tiles, .mesh,
    .graphs, .cmds, .rem, .flt, .meas, .obs, .log, .frz] T = true) (h : Nat) (s : State) (h1 : Within T orig s) :
    Within T orig (runReported h s) := by
  unfold runReported
  try dsimp only
  with_reducible repeat' first
    | (intro _) | assumption | (exact subP_trans (by decide) hT) | apply within_runDone | apply within_ite | split
    | dsimp only

theorem within_dwellExpiry (T : List Part) (orig : State) (hT : subP [.tiles] T = true) (t : Nat) (s : State) (h1 :
    Within T orig s) :
    Within T orig (dwellExpiry t s) := by
  unfold dwellExpiry
  try dsimp only
  with_reducible repeat' first
    | (intro _) | assumption | (exact subP_trans (by decide) hT) | apply within_setTile | apply within_ite | split
    | dsimp only

theorem within_entryCommit (T : List Part) (orig : State) (hT : subP [.od, .tiles, .obs, .frz] T = true) (t : Nat) (s
    : State) (h1 : Within T orig s) :
    Within T orig (entryCommit t s) := by
  unfold entryCommit
  try dsimp only
  with_reducible repeat' first
    | (intro _) | assumption | (exact subP_trans (by decide) hT) | apply within_setMode | apply within_setTile
    | apply within_ite | split | dsimp only

theorem within_reloadTile (T : List Part) (orig : State) (hT : subP [.ecc, .tiles] T = true) (t : Nat) (sec : List
    Byte) (s : State) (h1 : Within T orig s) :
    Within T orig (reloadTile t sec s) := by
  unfold reloadTile
  try dsimp only
  with_reducible repeat' first
    | (intro _) | assumption | (exact subP_trans (by decide) hT) | apply within_dropCells | apply within_setTile
    | split | dsimp only

theorem within_reloadTiles (T : List Part) (orig : State) (hT : subP [.ecc, .tiles] T = true) (ts : List Nat) (secs :
    List (Nat × List Byte)) (s : State) (h1 : Within T orig s) :
    Within T orig (reloadTiles ts secs s) := by
  unfold reloadTiles
  try dsimp only
  with_reducible repeat' first
    | (intro _) | assumption | (exact subP_trans (by decide) hT) | apply within_reloadTile | apply within_foldl
    | split | dsimp only

theorem within_exceptionStop (T : List Part) (orig : State) (hT : subP [.od, .freeCtr, .mem, .ecc, .tiles, .mesh,
    .graphs, .cmds, .rem, .flt, .meas, .obs, .log, .frz] T = true) (h : Nat) (s : State) (h1 : Within T orig s) :
    Within T orig (exceptionStop h s) := by
  unfold exceptionStop
  try dsimp only
  with_reducible repeat' first
    | (intro _) | assumption | (exact subP_trans (by decide) hT) | apply within_afterRun | apply within_reloadTiles
    | apply within_undefineAll | apply within_stopGraph | split | dsimp only

theorem within_giveReplies (T : List Part) (orig : State) (hT : subP [.tiles, .graphs, .rem] T = true) (t : Nat) (a1 :
    List (Nat × Nat × Token)) (s : State) (h1 : Within T orig s) :
    Within T orig (giveReplies t a1 s) := by
  revert h1
  fun_induction giveReplies t a1 s <;> intro h1
  all_goals (try dsimp only)
  with_reducible repeat' first
    | (intro _) | assumption | (exact subP_trans (by decide) hT) | apply within_giveReply | apply within_progress
    | apply within_ite | (apply withinOpt_of; assumption) | split | apply_assumption | dsimp only
    | apply within_set_rem

theorem within_flushReplies (T : List Part) (orig : State) (hT : subP [.tiles, .graphs, .rem] T = true) (t : Nat) (s :
    State) (h1 : Within T orig s) :
    Within T orig (flushReplies t s) := by
  unfold flushReplies
  try dsimp only
  with_reducible repeat' first
    | (intro _) | assumption | (exact subP_trans (by decide) hT) | apply within_giveReplies | split | dsimp only
    | apply within_set_rem

theorem within_measLoad (T : List Part) (orig : State) (hT : subP [.od, .meas] T = true) (ts : List Nat) (s : State)
    (h1 : Within T orig s) :
    Within T orig (measLoad ts s) := by
  unfold measLoad
  try dsimp only
  with_reducible repeat' first
    | (intro _) | assumption | (exact subP_trans (by decide) hT) | apply within_measChange | apply within_regionLoaded
    | apply within_foldl | split | dsimp only | apply within_set_meas

theorem within_loadComplete (T : List Part) (orig : State) (hT : subP [.od, .ecc, .tiles, .graphs, .cmds, .meas] T =
    true) (h : Nat) (s : State) (h1 : Within T orig s) :
    Within T orig (loadComplete h s) := by
  unfold loadComplete
  try dsimp only
  with_reducible repeat' first
    | (intro _) | assumption | (exact subP_trans (by decide) hT) | apply within_reloadTile | apply within_initQueues
    | apply within_modGraph | apply within_measLoad | apply within_finish | apply within_foldl | split | dsimp only

theorem within_moveCredits (T : List Part) (orig : State) (hT : subP [.tiles] T = true) (t : Nat) (a1 : Nat) (n : Nat)
    (give : Bool) (s : State) (h1 : Within T orig s) :
    Within T orig (moveCredits t a1 n give s) := by
  unfold moveCredits
  try dsimp only
  with_reducible repeat' first
    | (intro _) | assumption | (exact subP_trans (by decide) hT) | apply within_setTile | apply within_ite | split
    | dsimp only

theorem within_sinkReport (T : List Part) (orig : State) (hT : subP [.od, .freeCtr, .mem, .ecc, .tiles, .mesh,
    .graphs, .cmds, .rem, .flt, .meas, .obs, .log, .frz] T = true) (t : Nat) (oq : Nat) (k : Nat) (s : State) (h1 :
    Within T orig s) :
    Within T orig (sinkReport t oq k s) := by
  unfold sinkReport
  try dsimp only
  with_reducible repeat' first
    | (intro _) | assumption | (exact subP_trans (by decide) hT) | apply within_setTile | apply within_raiseReq
    | apply within_runReported | apply within_modRunG | apply within_ite | split | dsimp only | apply within_set_mesh

theorem within_voltStep (T : List Part) (orig : State) (hT : subP [.od, .flt] T = true) (d : Nat) (s : State) (h1 :
    Within T orig s) :
    Within T orig (voltStep d s) := by
  unfold voltStep
  try dsimp only
  with_reducible repeat' first
    | (intro _) | assumption | (exact subP_trans (by decide) hT) | apply within_voltStepBy | split | dsimp only

theorem within_takeTokens (T : List Part) (orig : State) (hT : subP [.tiles, .mesh] T = true) (t : Nat) (a1 : Nat) (n
    : Nat) (s : State) (h1 : Within T orig s) :
    Within T orig (takeTokens t a1 n s).2 := by
  unfold takeTokens
  try dsimp only
  with_reducible repeat' first
    | (intro _) | assumption | (exact subP_trans (by decide) hT) | apply within_setTile
    | (apply withinPair_of; assumption) | split | dsimp only | apply within_set_mesh

theorem within_takeAll (T : List Part) (orig : State) (hT : subP [.tiles, .mesh] T = true) (t : Nat) (a1 : List (Nat ×
    Nat)) (s : State) (h1 : Within T orig s) :
    Within T orig (takeAll t a1 s).2 := by
  revert h1
  fun_induction takeAll t a1 s <;> intro h1
  all_goals (try dsimp only)
  with_reducible repeat' first
    | (intro _) | assumption | (exact subP_trans (by decide) hT) | apply within_takeTokens
    | (apply withinPair_of; assumption) | split | apply_assumption | dsimp only

theorem within_toRest (T : List Part) (orig : State) (hT : subP [.od, .freeCtr, .mem, .ecc, .tiles, .flt, .obs, .frz]
    T = true) (t : Nat) (s : State) (h1 : Within T orig s) :
    Within T orig (toRest t s) := by
  unfold toRest
  try dsimp only
  with_reducible repeat' first
    | (intro _) | assumption | (exact subP_trans (by decide) hT) | apply within_setMode | apply within_voltStep
    | apply within_tileOff | apply within_ite | split | dsimp only

theorem within_takeBack (T : List Part) (orig : State) (hT : subP [.od, .freeCtr, .mem, .ecc, .tiles, .flt, .obs,
    .frz] T = true) (t : Nat) (s : State) (h1 : Within T orig s) :
    Within T orig (takeBack t s) := by
  unfold takeBack
  try dsimp only
  with_reducible repeat' first
    | (intro _) | assumption | (exact subP_trans (by decide) hT) | apply within_trace | apply within_setDeclined
    | apply within_endFiller | apply within_setTile | apply within_modFlt | apply within_toRest | apply within_useSlot
    | apply within_addProj | apply within_ite | split | dsimp only

theorem within_taskEnd (T : List Part) (orig : State) (hT : subP [.od, .freeCtr, .tiles, .graphs, .flt, .obs, .frz] T
    = true) (t : Nat) (cyc : Nat) (p : Nat) (s0 : State) (h1 : Within T orig s0) :
    Within T orig (taskEnd t cyc p s0) := by
  unfold taskEnd
  try dsimp only
  with_reducible repeat' first
    | (intro _) | assumption | (exact subP_trans (by decide) hT) | apply within_countRan | apply within_moveCredits
    | apply within_flushStarts | apply within_setTile | apply within_enterFiller | apply within_raiseReq
    | apply within_trace | apply within_countTask | apply within_ite | apply within_foldl | split | dsimp only

theorem within_taskFire (T : List Part) (orig : State) (hT : subP [.od, .out, .freeCtr, .ecc, .tiles, .mesh, .graphs,
    .rem, .flt, .obs, .log, .frz, .can] T = true) (t : Nat) (s : State) (h1 : Within T orig s) :
    Within T orig (taskFire t s) := by
  unfold taskFire
  try dsimp only
  with_reducible repeat' first
    | (intro _) | assumption | (exact subP_trans (by decide) hT) | apply within_ueTile | apply within_correctAll
    | apply within_takeAll | apply within_flushStarts | apply within_flushReplies | apply within_moveCredits
    | apply within_freeNext | apply within_endFiller | apply within_setTile | apply within_opcCount
    | apply within_odAdd | apply within_trace | apply within_settle | apply within_progress | apply within_ite
    | (apply withinPair_of; assumption) | apply within_foldl | split | dsimp only

theorem within_tileWake (T : List Part) (orig : State) (hT : subP [.od, .out, .freeCtr, .ecc, .tiles, .graphs, .flt,
    .obs, .log, .frz, .can] T = true) (t : Nat) (s : State) (h1 : Within T orig s) :
    Within T orig (tileWake t s) := by
  unfold tileWake
  try dsimp only
  with_reducible repeat' first
    | (intro _) | assumption | (exact subP_trans (by decide) hT) | apply within_setMode | apply within_setTile
    | apply within_enterFiller | apply within_settle | apply within_ite | split | dsimp only

theorem within_tokenArrival (T : List Part) (orig : State) (hT : subP [.od, .tiles, .mesh, .graphs, .obs, .frz] T =
    true) (t : Nat) (oq : Nat) (k : Nat) (s : State) (h1 : Within T orig s) :
    Within T orig (tokenArrival t oq k s) := by
  unfold tokenArrival
  try dsimp only
  with_reducible repeat' first
    | (intro _) | assumption | (exact subP_trans (by decide) hT) | apply within_setTile | apply within_raiseReq
    | apply within_progress | apply within_ite | split | dsimp only | apply within_set_mesh

theorem within_emcyWhile (T : List Part) (orig : State) (hT : subP [.od, .out, .can] T = true) (b : Bool) (code : Nat)
    (bit : Nat) (event : Nat) (s : State) (h1 : Within T orig s) :
    Within T orig (emcyWhile b code bit event s) := by
  unfold emcyWhile
  try dsimp only
  with_reducible repeat' first
    | (intro _) | assumption | (exact subP_trans (by decide) hT) | apply within_emcyRaise | apply within_emcyClear
    | apply within_ite | split | dsimp only

theorem within_tell (T : List Part) (orig : State) (hT : subP [.od, .resp] T = true) (path : Nat) (code : Nat) (s :
    State) (h1 : Within T orig s) :
    Within T orig (tell path code s) := by
  unfold tell
  try dsimp only
  with_reducible repeat' first
    | (intro _) | assumption | (exact subP_trans (by decide) hT) | apply within_odSet | apply within_ite | split
    | dsimp only | apply within_set_resp

theorem within_odTry (T : List Part) (orig : State) (_hT : subP [] T = true) (path : Nat) (k : Nat) (len : Nat) (v :
    Nat) (eff : State → Nat × State) (s : State) (hf : ∀ x0, Within T orig x0 → Within T orig (eff x0).2) (h1 : Within
    T orig s) :
    Within T orig (odTry path k len v eff s).2 := by
  unfold odTry
  try dsimp only
  with_reducible repeat' first
    | (intro _) | assumption | (exact subP_trans (by decide) hT) | apply within_ite | apply within_snd_ite
    | (apply withinPair_of; assumption) | split | apply_assumption | dsimp only

theorem within_wStore (T : List Part) (orig : State) (hT : subP [.od] T = true) (k : Nat) (v : Nat) (s : State) (h1 :
    Within T orig s) :
    Within T orig (wStore k v s).2 := by
  unfold wStore
  try dsimp only
  with_reducible repeat' first
    | (intro _) | assumption | (exact subP_trans (by decide) hT) | apply within_odSet
    | (apply withinPair_of; assumption) | split | dsimp only

theorem within_namedBytes (T : List Part) (orig : State) (hT : subP [.od, .resp] T = true) (path : Nat) (k : Nat) (bs
    : List Byte) (eff : State → Nat × State) (s : State) (hf : ∀ x0, Within T orig x0 → Within T orig (eff x0).2) (h1
    : Within T orig s) :
    Within T orig (namedBytes path k bs eff s) := by
  unfold namedBytes
  try dsimp only
  with_reducible repeat' first
    | (intro _) | assumption | (exact subP_trans (by decide) hT) | apply within_odTry | apply within_tell
    | apply within_ite | (apply withinPair_of; assumption) | split | apply_assumption | dsimp only

theorem within_namedWrite (T : List Part) (orig : State) (hT : subP [.od, .resp] T = true) (path : Nat) (k : Nat) (v :
    Nat) (eff : State → Nat × State) (s : State) (hf : ∀ x0, Within T orig x0 → Within T orig (eff x0).2) (h1 : Within
    T orig s) :
    Within T orig (namedWrite path k v eff s) := by
  unfold namedWrite
  try dsimp only
  with_reducible repeat' first
    | (intro _) | assumption | (exact subP_trans (by decide) hT) | apply within_odTry | apply within_tell
    | apply within_ite | (apply withinPair_of; assumption) | split | apply_assumption | dsimp only

theorem within_wRefuse (T : List Part) (orig : State) (_hT : subP [] T = true) (code : Nat) (s : State) (h1 : Within T
    orig s) :
    Within T orig (wRefuse code s).2 := by
  unfold wRefuse
  try dsimp only
  with_reducible repeat' first
    | (intro _) | assumption | (exact subP_trans (by decide) hT) | (apply withinPair_of; assumption) | split
    | dsimp only

theorem within_pcieCount (T : List Part) (orig : State) (hT : subP [.od] T = true) (dir : Nat) (n : Nat) (s : State)
    (h1 : Within T orig s) :
    Within T orig (pcieCount dir n s) := by
  unfold pcieCount
  try dsimp only
  with_reducible repeat' first
    | (intro _) | assumption | (exact subP_trans (by decide) hT) | apply within_odAdd | split | dsimp only

theorem within_unsupported (T : List Part) (orig : State) (hT : subP [.out, .hst] T = true) (s : State) (h1 : Within T
    orig s) :
    Within T orig (unsupported s) := by
  unfold unsupported
  try dsimp only
  with_reducible repeat' first
    | (intro _) | assumption | (exact subP_trans (by decide) hT) | apply within_emit | split | dsimp only
    | apply within_set_hst

theorem within_bar2Read (T : List Part) (orig : State) (hT : subP [.od, .out, .ecc, .hst, .obs, .log, .frz, .can] T =
    true) (off : Nat) (n : Nat) (s : State) (h1 : Within T orig s) :
    Within T orig (bar2Read off n s) := by
  unfold bar2Read
  try dsimp only
  with_reducible repeat' first
    | (intro _) | assumption | (exact subP_trans (by decide) hT) | apply within_unsupported
    | apply within_touchChannel | apply within_correctIn | apply within_ueRecord | apply within_pcieCount
    | apply within_emit | apply within_ite | split | dsimp only

theorem within_bar2Write (T : List Part) (orig : State) (hT : subP [.od, .out, .mem, .ecc, .hst, .obs, .log, .frz,
    .can] T = true) (off : Nat) (bs : List Byte) (s : State) (h1 : Within T orig s) :
    Within T orig (bar2Write off bs s) := by
  unfold bar2Write
  try dsimp only
  with_reducible repeat' first
    | (intro _) | assumption | (exact subP_trans (by decide) hT) | apply within_unsupported | apply within_pcieCount
    | apply within_odAdd | apply within_touchChannel | apply within_correctPart | apply within_ueRecord
    | apply within_putBytes | apply within_ite | split | dsimp only

theorem within_wInjectArm (T : List Part) (orig : State) (hT : subP [.ecc] T = true) (v : Nat) (s : State) (h1 :
    Within T orig s) :
    Within T orig (wInjectArm v s).2 := by
  unfold wInjectArm
  try dsimp only
  with_reducible repeat' first
    | (intro _) | assumption | (exact subP_trans (by decide) hT) | apply within_ite | apply within_snd_ite
    | (apply withinPair_of; assumption) | split | dsimp only | apply within_set_ecc

theorem within_mr4Poll (T : List Part) (orig : State) (hT : subP [.od, .ecc, .obs, .log, .frz] T = true) (dev : Nat)
    (rate : Nat) (hot : Bool) (s : State) (h1 : Within T orig s) :
    Within T orig (mr4Poll dev rate hot s) := by
  unfold mr4Poll
  try dsimp only
  with_reducible repeat' first
    | (intro _) | assumption | (exact subP_trans (by decide) hT) | apply within_odSet | apply within_odBit
    | apply within_logEvent | apply within_ite | split | dsimp only | apply within_set_ecc

theorem within_oscRun (T : List Part) (orig : State) (hT : subP [.ecc] T = true) (c : Nat) (s : State) (h1 : Within T
    orig s) :
    Within T orig (oscRun c s) := by
  unfold oscRun
  try dsimp only
  with_reducible repeat' first
    | (intro _) | assumption | (exact subP_trans (by decide) hT) | apply within_ite | split | dsimp only
    | apply within_set_ecc

theorem within_setChannel (T : List Part) (orig : State) (hT : subP [.ecc] T = true) (c : Nat) (v : Nat) (s : State)
    (h1 : Within T orig s) :
    Within T orig (setChannel c v s) := by
  unfold setChannel
  try dsimp only
  with_reducible repeat' first
    | (intro _) | assumption | (exact subP_trans (by decide) hT) | split | dsimp only | apply within_set_ecc

theorem within_powerDown (T : List Part) (orig : State) (hT : subP [.ecc] T = true) (c : Nat) (s : State) (h1 : Within
    T orig s) :
    Within T orig (powerDown c s) := by
  unfold powerDown
  try dsimp only
  with_reducible repeat' first
    | (intro _) | assumption | (exact subP_trans (by decide) hT) | apply within_setChannel | apply within_ite | split
    | dsimp only

theorem within_strike (T : List Part) (orig : State) (hT : subP [.ecc] T = true) (ms : List EccMark) (s : State) (h1 :
    Within T orig s) :
    Within T orig (strike ms s) := by
  unfold strike
  try dsimp only
  with_reducible repeat' first
    | (intro _) | assumption | (exact subP_trans (by decide) hT) | split | dsimp only | apply within_set_ecc

theorem within_scrubUe (T : List Part) (orig : State) (hT : subP [.od, .out, .ecc, .obs, .log, .frz, .can] T = true)
    (m : EccMark) (s : State) (h1 : Within T orig s) :
    Within T orig (scrubUe m s) := by
  unfold scrubUe
  try dsimp only
  with_reducible repeat' first
    | (intro _) | assumption | (exact subP_trans (by decide) hT) | apply within_odAdd | apply within_odSet
    | apply within_emcyEvent | apply within_logEvent | split | dsimp only | apply within_set_ecc

theorem within_scrubRead (T : List Part) (orig : State) (hT : subP [.od, .out, .ecc, .obs, .log, .frz, .can] T = true)
    (level : Nat) (ms : List EccMark) (s0 : State) (h1 : Within T orig s0) :
    Within T orig (scrubRead level ms s0) := by
  unfold scrubRead
  try dsimp only
  with_reducible repeat' first
    | (intro _) | assumption | (exact subP_trans (by decide) hT) | apply within_strike | apply within_touchChannel
    | apply within_scrubUe | apply within_correctIn | apply within_ite | apply within_foldl | split | dsimp only
    | apply within_set_ecc

theorem within_selfRefresh (T : List Part) (orig : State) (hT : subP [.ecc] T = true) (c : Nat) (s : State) (h1 :
    Within T orig s) :
    Within T orig (selfRefresh c s) := by
  unfold selfRefresh
  try dsimp only
  with_reducible repeat' first
    | (intro _) | assumption | (exact subP_trans (by decide) hT) | apply within_setChannel | apply within_ite | split
    | dsimp only

theorem within_zqLatch (T : List Part) (orig : State) (hT : subP [.ecc] T = true) (c : Nat) (s : State) (h1 : Within T
    orig s) :
    Within T orig (zqLatch c s) := by
  unfold zqLatch
  try dsimp only
  with_reducible repeat' first
    | (intro _) | assumption | (exact subP_trans (by decide) hT) | apply within_ite | split | dsimp only
    | apply within_set_ecc

theorem within_inject (T : List Part) (orig : State) (hT : subP [.fab] T = true) (inp : Nat) (p : Pkt) (s : State) (h1
    : Within T orig s) :
    Within T orig (inject inp p s) := by
  unfold inject
  try dsimp only
  with_reducible repeat' first
    | (intro _) | assumption | (exact subP_trans (by decide) hT) | split | dsimp only | apply within_set_fab

theorem within_pktSat (T : List Part) (orig : State) (hT : subP [.od, .obs, .log, .frz] T = true) (half : Nat) (a1 :
    QPkt) (s : State) (h1 : Within T orig s) :
    Within T orig (pktSat half a1 s) := by
  unfold pktSat
  try dsimp only
  with_reducible repeat' first
    | (intro _) | assumption | (exact subP_trans (by decide) hT) | apply within_logEvent | apply within_ite | split
    | dsimp only

theorem within_switchSat (T : List Part) (orig : State) (hT : subP [.od, .fab, .obs, .log, .frz] T = true) (s : State)
    (h1 : Within T orig s) :
    Within T orig (switchSat s) := by
  unfold switchSat
  try dsimp only
  with_reducible repeat' first
    | (intro _) | assumption | (exact subP_trans (by decide) hT) | apply within_pktSat | apply within_foldl | split
    | dsimp only | apply within_set_fab

theorem within_setPort (T : List Part) (orig : State) (hT : subP [.fab] T = true) (p : Nat) (x : PortSt) (s : State)
    (h1 : Within T orig s) :
    Within T orig (setPort p x s) := by
  unfold setPort
  try dsimp only
  with_reducible repeat' first
    | (intro _) | assumption | (exact subP_trans (by decide) hT) | split | dsimp only | apply within_set_fab

theorem within_notice (T : List Part) (orig : State) (hT : subP [.fab] T = true) (code : Nat) (p : Pkt) (s : State)
    (h1 : Within T orig s) :
    Within T orig (notice code p s) := by
  unfold notice
  try dsimp only
  with_reducible repeat' first
    | (intro _) | assumption | (exact subP_trans (by decide) hT) | apply within_inject | apply within_ite | split
    | dsimp only

theorem within_freeSlots (T : List Part) (orig : State) (hT : subP [.fab] T = true) (a0 : QPkt) (s : State) (h1 :
    Within T orig s) :
    Within T orig (freeSlots a0 s) := by
  unfold freeSlots
  try dsimp only
  with_reducible repeat' first
    | (intro _) | assumption | (exact subP_trans (by decide) hT) | apply within_setPort | split | dsimp only

theorem within_dropUnreachable (T : List Part) (orig : State) (hT : subP [.od, .fab] T = true) (a0 : List QPkt) (s :
    State) (h1 : Within T orig s) :
    Within T orig (dropUnreachable a0 s) := by
  induction a0 generalizing s with
  | nil => exact h1
  | cons x r ih =>
    unfold dropUnreachable
    apply ih
    dsimp only
    with_reducible repeat' first
      | (intro _) | assumption | (exact subP_trans (by decide) hT) | apply within_notice | apply within_freeSlots
      | apply within_odAdd | split | apply_assumption | dsimp only | apply within_set_fab

theorem within_countSent (T : List Part) (orig : State) (hT : subP [.od] T = true) (out : Nat) (a1 : QPkt) (s : State)
    (h1 : Within T orig s) :
    Within T orig (countSent out a1 s) := by
  unfold countSent
  try dsimp only
  with_reducible repeat' first
    | (intro _) | assumption | (exact subP_trans (by decide) hT) | apply within_odAdd | apply within_ite | split
    | dsimp only

theorem within_leaveBy (T : List Part) (orig : State) (hT : subP [.od, .fab] T = true) (out : Nat) (c : Cand) (s :
    State) (h1 : Within T orig s) :
    Within T orig (leaveBy out c s) := by
  unfold leaveBy
  try dsimp only
  with_reducible repeat' first
    | (intro _) | assumption | (exact subP_trans (by decide) hT) | apply within_countSent | apply within_freeSlots
    | apply within_setPort | apply within_ite | split | dsimp only | apply within_set_fab

theorem within_readOut (T : List Part) (orig : State) (hT : subP [.od, .out, .ecc, .fab, .obs, .log, .frz, .can] T =
    true) (out : Nat) (c : Cand) (s : State) (h1 : Within T orig s) :
    Within T orig (readOut out c s) := by
  unfold readOut
  try dsimp only
  with_reducible repeat' first
    | (intro _) | assumption | (exact subP_trans (by decide) hT) | apply within_notice | apply within_freeSlots
    | apply within_ueRecord | apply within_leaveBy | apply within_correctIn | split | dsimp only

theorem within_arbitrate (T : List Part) (orig : State) (hT : subP [.od, .out, .ecc, .fab, .obs, .log, .frz, .can] T =
    true) (out : Nat) (s : State) (h1 : Within T orig s) :
    Within T orig (arbitrate out s) := by
  unfold arbitrate
  try dsimp only
  with_reducible repeat' first
    | (intro _) | assumption | (exact subP_trans (by decide) hT) | apply within_dropUnreachable | apply within_readOut
    | apply within_pktSat | apply within_ite | split | dsimp only | apply within_set_fab

theorem within_takeEjected (T : List Part) (orig : State) (hT : subP [.fab] T = true) (p : Pkt → Bool) (s : State) (h1
    : Within T orig s) :
    WithinAns T orig (takeEjected p s) := by
  unfold takeEjected
  try dsimp only
  with_reducible repeat' first
    | (intro _) | assumption | (exact subP_trans (by decide) hT) | apply within_freeSlots | apply withinAns_some
    | apply withinAns_none | split | apply_assumption | dsimp only | apply within_set_fab

theorem within_packetArrival (T : List Part) (orig : State) (hT : subP [.od, .fab, .obs, .log, .frz] T = true) (port :
    Nat) (s : State) (h1 : Within T orig s) :
    Within T orig (packetArrival port s) := by
  unfold packetArrival
  try dsimp only
  with_reducible repeat' first
    | (intro _) | assumption | (exact subP_trans (by decide) hT) | apply within_setPort | apply within_logEvent
    | apply within_notice | apply within_freeSlots | apply within_odAdd | apply within_ite | split | dsimp only
    | apply within_set_fab

theorem within_alignPeer (T : List Part) (orig : State) (hT : subP [.od, .tim] T = true) (p : Nat) (i : IdentIn) (s :
    State) (h1 : Within T orig s) :
    Within T orig (alignPeer p i s) := by
  unfold alignPeer
  try dsimp only
  with_reducible repeat' first
    | (intro _) | assumption | (exact subP_trans (by decide) hT) | apply within_odSet | apply within_ite | split
    | dsimp only | apply within_set_tim

theorem within_laserUpdate (T : List Part) (orig : State) (hT : subP [.od, .mod] T = true) (s : State) (h1 : Within T
    orig s) :
    Within T orig (laserUpdate s) := by
  unfold laserUpdate
  try dsimp only
  with_reducible repeat' first
    | (intro _) | assumption | (exact subP_trans (by decide) hT) | apply within_odSet | apply within_ite | split
    | dsimp only | apply within_set_mod

theorem within_coarseUpdate (T : List Part) (orig : State) (hT : subP [.od] T = true) (s : State) (h1 : Within T orig
    s) :
    Within T orig (coarseUpdate s) := by
  unfold coarseUpdate
  try dsimp only
  with_reducible repeat' first
    | (intro _) | assumption | (exact subP_trans (by decide) hT) | apply within_odBit | split | dsimp only

theorem within_pSet (T : List Part) (orig : State) (hT : subP [.od] T = true) (base : Nat) (p : Nat) (v : Nat) (s :
    State) (h1 : Within T orig s) :
    Within T orig (pSet base p v s) := by
  unfold pSet
  try dsimp only
  with_reducible repeat' first
    | (intro _) | assumption | (exact subP_trans (by decide) hT) | apply within_odSet | split | dsimp only

theorem within_dropKeyOps (T : List Part) (orig : State) (hT : subP [.sec] T = true) (p : Nat) (s : State) (h1 :
    Within T orig s) :
    Within T orig (dropKeyOps p s) := by
  unfold dropKeyOps
  try dsimp only
  with_reducible repeat' first
    | (intro _) | assumption | (exact subP_trans (by decide) hT) | split | dsimp only | apply within_set_sec

theorem within_setPState (T : List Part) (orig : State) (hT : subP [.od, .sec] T = true) (p : Nat) (v : Nat) (s :
    State) (h1 : Within T orig s) :
    Within T orig (setPState p v s) := by
  unfold setPState
  try dsimp only
  with_reducible repeat' first
    | (intro _) | assumption | (exact subP_trans (by decide) hT) | apply within_coarseUpdate | apply within_pSet
    | apply within_dropKeyOps | apply within_ite | split | dsimp only

theorem within_forgetPeer (T : List Part) (orig : State) (hT : subP [.od] T = true) (p : Nat) (s : State) (h1 : Within
    T orig s) :
    Within T orig (forgetPeer p s) := by
  unfold forgetPeer
  try dsimp only
  with_reducible repeat' first
    | (intro _) | assumption | (exact subP_trans (by decide) hT) | apply within_pSet | split | dsimp only

theorem within_clearLink (T : List Part) (orig : State) (hT : subP [.od] T = true) (p : Nat) (s : State) (h1 : Within
    T orig s) :
    Within T orig (clearLink p s) := by
  unfold clearLink
  try dsimp only
  with_reducible repeat' first
    | (intro _) | assumption | (exact subP_trans (by decide) hT) | apply within_pSet | split | dsimp only

theorem within_toDisabled (T : List Part) (orig : State) (hT : subP [.od, .fab, .sec] T = true) (p : Nat) (s : State)
    (h1 : Within T orig s) :
    Within T orig (toDisabled p s) := by
  unfold toDisabled
  try dsimp only
  with_reducible repeat' first
    | (intro _) | assumption | (exact subP_trans (by decide) hT) | apply within_setPort | apply within_setPState
    | apply within_forgetPeer | apply within_clearLink | split | dsimp only

theorem within_modPort (T : List Part) (orig : State) (hT : subP [.fab] T = true) (p : Nat) (f : PortSt → PortSt) (s :
    State) (h1 : Within T orig s) :
    Within T orig (modPort p f s) := by
  unfold modPort
  try dsimp only
  with_reducible repeat' first
    | (intro _) | assumption | (exact subP_trans (by decide) hT) | apply within_setPort | split | apply_assumption
    | dsimp only

theorem within_secFill (T : List Part) (orig : State) (hT : subP [.sec] T = true) (ops : List SecOp) (wait : List
    SecOp) (s : State) (h1 : Within T orig s) :
    Within T orig (secFill ops wait s) := by
  unfold secFill
  try dsimp only
  with_reducible repeat' first
    | (intro _) | assumption | (exact subP_trans (by decide) hT) | split | dsimp only | apply within_set_sec

theorem within_secAdd (T : List Part) (orig : State) (hT : subP [.sec] T = true) (o : SecOp) (s : State) (h1 : Within
    T orig s) :
    Within T orig (secAdd o s) := by
  unfold secAdd
  try dsimp only
  with_reducible repeat' first
    | (intro _) | assumption | (exact subP_trans (by decide) hT) | apply within_secFill | split | dsimp only

theorem within_sendOffer (T : List Part) (orig : State) (hT : subP [.sec] T = true) (p : Nat) (phase : Nat) (nonce :
    Nat) (effective : Nat) (s : State) (h1 : Within T orig s) :
    Within T orig (sendOffer p phase nonce effective s) := by
  unfold sendOffer
  try dsimp only
  with_reducible repeat' first
    | (intro _) | assumption | (exact subP_trans (by decide) hT) | apply within_secAdd | split | dsimp only

theorem within_keyingOffer (T : List Part) (orig : State) (hT : subP [.fab, .sec] T = true) (p : Nat) (s : State) (h1
    : Within T orig s) :
    Within T orig (keyingOffer p s) := by
  unfold keyingOffer
  try dsimp only
  with_reducible repeat' first
    | (intro _) | assumption | (exact subP_trans (by decide) hT) | apply within_modPort | apply within_sendOffer
    | split | dsimp only

theorem within_certDone (T : List Part) (orig : State) (hT : subP [.fab, .sec] T = true) (p : Nat) (nonce : Nat) (ok :
    Bool) (s : State) (h1 : Within T orig s) :
    Within T orig (certDone p nonce ok s) := by
  unfold certDone
  try dsimp only
  with_reducible repeat' first
    | (intro _) | assumption | (exact subP_trans (by decide) hT) | apply within_keyingOffer | apply within_modPort
    | apply within_ite | split | dsimp only

theorem within_certIn (T : List Part) (orig : State) (hT : subP [.od, .fab, .sec] T = true) (p : Nat) (mode : Nat)
    (sec : Nat) (nonce : Nat) (len : Nat) (chainOk : Bool) (s : State) (h1 : Within T orig s) :
    Within T orig (certIn p mode sec nonce len chainOk s) := by
  unfold certIn
  try dsimp only
  with_reducible repeat' first
    | (intro _) | assumption | (exact subP_trans (by decide) hT) | apply within_odSet | apply within_certDone
    | apply within_secAdd | apply within_ite | split | dsimp only

theorem within_requeue (T : List Part) (orig : State) (hT : subP [.fab] T = true) (p : Nat) (s : State) (h1 : Within T
    orig s) :
    Within T orig (requeue p s) := by
  unfold requeue
  try dsimp only
  with_reducible repeat' first
    | (intro _) | assumption | (exact subP_trans (by decide) hT) | apply within_setPort | apply within_foldl | split
    | dsimp only | apply within_set_fab

theorem within_startRetrain (T : List Part) (orig : State) (hT : subP [.od, .fab, .sec] T = true) (p : Nat) (fec :
    Nat) (widen : Bool) (s : State) (h1 : Within T orig s) :
    Within T orig (startRetrain p fec widen s) := by
  unfold startRetrain
  try dsimp only
  with_reducible repeat' first
    | (intro _) | assumption | (exact subP_trans (by decide) hT) | apply within_modPort | apply within_requeue
    | apply within_setPState | apply within_ite | split | dsimp only

theorem within_checkRate (T : List Part) (orig : State) (hT : subP [.od, .fab, .sec] T = true) (p : Nat) (s : State)
    (h1 : Within T orig s) :
    Within T orig (checkRate p s) := by
  unfold checkRate
  try dsimp only
  with_reducible repeat' first
    | (intro _) | assumption | (exact subP_trans (by decide) hT) | apply within_startRetrain | apply within_setPort
    | apply within_ite | split | dsimp only

theorem within_laneObjs (T : List Part) (orig : State) (hT : subP [.od] T = true) (base : Nat) (p : Nat) (l : List
    Int) (s : State) (h1 : Within T orig s) :
    Within T orig (laneObjs base p l s) := by
  unfold laneObjs
  try dsimp only
  with_reducible repeat' first
    | (intro _) | assumption | (exact subP_trans (by decide) hT) | apply within_odSet | apply within_foldl | split
    | dsimp only

theorem within_linkNote (T : List Part) (orig : State) (hT : subP [.out] T = true) (p : Nat) (kind : Nat) (bs : List
    Byte) (s : State) (h1 : Within T orig s) :
    Within T orig (linkNote p kind bs s) := by
  unfold linkNote
  try dsimp only
  with_reducible repeat' first
    | (intro _) | assumption | (exact subP_trans (by decide) hT) | apply within_emit | split | dsimp only

theorem within_connHealth (T : List Part) (orig : State) (hT : subP [.od, .out] T = true) (p : Nat) (i : LaneIn) (s :
    State) (h1 : Within T orig s) :
    Within T orig (connHealth p i s) := by
  unfold connHealth
  try dsimp only
  with_reducible repeat' first
    | (intro _) | assumption | (exact subP_trans (by decide) hT) | apply within_laneObjs | apply within_odSet
    | apply within_linkNote | apply within_pSet | apply within_ite | split | dsimp only

theorem within_pAdd (T : List Part) (orig : State) (hT : subP [.od] T = true) (base : Nat) (p : Nat) (n : Nat) (s :
    State) (h1 : Within T orig s) :
    Within T orig (pAdd base p n s) := by
  unfold pAdd
  try dsimp only
  with_reducible repeat' first
    | (intro _) | assumption | (exact subP_trans (by decide) hT) | apply within_odAdd | split | dsimp only

theorem within_countFec (T : List Part) (orig : State) (hT : subP [.od, .fab] T = true) (p : Nat) (f : FlitIn) (s :
    State) (h1 : Within T orig s) :
    Within T orig (countFec p f s) := by
  unfold countFec
  try dsimp only
  with_reducible repeat' first
    | (intro _) | assumption | (exact subP_trans (by decide) hT) | apply within_modPort | apply within_pAdd | split
    | dsimp only

theorem within_countFlit (T : List Part) (orig : State) (hT : subP [.fab] T = true) (p : Nat) (re : Nat) (s : State)
    (h1 : Within T orig s) :
    Within T orig (countFlit p re s) := by
  unfold countFlit
  try dsimp only
  with_reducible repeat' first
    | (intro _) | assumption | (exact subP_trans (by decide) hT) | apply within_modPort | apply within_ite | split
    | dsimp only

theorem within_toDark (T : List Part) (orig : State) (hT : subP [.od, .fab, .sec] T = true) (p : Nat) (s : State) (h1
    : Within T orig s) :
    Within T orig (toDark p s) := by
  unfold toDark
  try dsimp only
  with_reducible repeat' first
    | (intro _) | assumption | (exact subP_trans (by decide) hT) | apply within_setPort | apply within_setPState
    | apply within_forgetPeer | apply within_clearLink | split | dsimp only

theorem within_raisePort (T : List Part) (orig : State) (hT : subP [.od, .fab, .sec, .obs, .log, .frz] T = true) (p :
    Nat) (s : State) (h1 : Within T orig s) :
    Within T orig (raisePort p s) := by
  unfold raisePort
  try dsimp only
  with_reducible repeat' first
    | (intro _) | assumption | (exact subP_trans (by decide) hT) | apply within_toDark | apply within_logSimple
    | apply within_ite | split | dsimp only | apply within_set_fab

theorem within_takeWhole (T : List Part) (orig : State) (hT : subP [.od, .fab, .obs, .log, .frz] T = true) (p : Nat)
    (a1 : Nat) (s : State) (h1 : Within T orig s) :
    Within T orig (takeWhole p a1 s) := by
  revert h1
  fun_induction takeWhole p a1 s <;> intro h1
  all_goals (try dsimp only)
  with_reducible repeat' first
    | (intro _) | assumption | (exact subP_trans (by decide) hT) | apply within_packetArrival | split
    | apply_assumption | dsimp only

theorem within_drainCheck (T : List Part) (orig : State) (hT : subP [.od, .out, .fab, .sec, .obs, .log, .frz] T =
    true) (p : Nat) (s : State) (h1 : Within T orig s) :
    Within T orig (drainCheck p s) := by
  unfold drainCheck
  try dsimp only
  with_reducible repeat' first
    | (intro _) | assumption | (exact subP_trans (by decide) hT) | apply within_raisePort | apply within_toDisabled
    | apply within_takeWhole | apply within_linkNote | apply within_ite | split | dsimp only

theorem within_startDrain (T : List Part) (orig : State) (hT : subP [.od, .out, .fab, .sec, .obs, .log, .frz] T =
    true) (p : Nat) (s : State) (h1 : Within T orig s) :
    Within T orig (startDrain p s) := by
  unfold startDrain
  try dsimp only
  with_reducible repeat' first
    | (intro _) | assumption | (exact subP_trans (by decide) hT) | apply within_drainCheck | apply within_modPort
    | apply within_requeue | split | dsimp only

theorem within_portLoss (T : List Part) (orig : State) (hT : subP [.od, .out, .fab, .sec, .obs, .log, .frz, .can] T =
    true) (p : Nat) (auth : Bool) (s : State) (h1 : Within T orig s) :
    Within T orig (portLoss p auth s) := by
  unfold portLoss
  try dsimp only
  with_reducible repeat' first
    | (intro _) | assumption | (exact subP_trans (by decide) hT) | apply within_requeue | apply within_takeWhole
    | apply within_pAdd | apply within_clearLink | apply within_setPState | apply within_setPort | apply within_notice
    | apply within_linkNote | apply within_logSimple | apply within_emcyEvent | apply within_ite | apply within_foldl
    | split | dsimp only

theorem within_portOff (T : List Part) (orig : State) (hT : subP [.od, .out, .fab, .sec, .obs, .log, .frz, .can] T =
    true) (p : Nat) (s : State) (h1 : Within T orig s) :
    Within T orig (portOff p s) := by
  unfold portOff
  try dsimp only
  with_reducible repeat' first
    | (intro _) | assumption | (exact subP_trans (by decide) hT) | apply within_toDisabled | apply within_portLoss
    | apply within_ite | split | dsimp only

theorem within_wEnable (T : List Part) (orig : State) (hT : subP [.od, .out, .fab, .sec, .obs, .log, .frz, .can, .mod]
    T = true) (p : Nat) (v : Nat) (s : State) (h1 : Within T orig s) :
    Within T orig (wEnable p v s).2 := by
  unfold wEnable
  try dsimp only
  with_reducible repeat' first
    | (intro _) | assumption | (exact subP_trans (by decide) hT) | apply within_laserUpdate | apply within_pSet
    | apply within_startDrain | apply within_portOff | apply within_raisePort | apply within_ite
    | apply within_snd_ite | (apply withinPair_of; assumption) | split | dsimp only

theorem within_wFecMode (T : List Part) (orig : State) (hT : subP [.od, .fab, .sec] T = true) (p : Nat) (v : Nat) (s :
    State) (h1 : Within T orig s) :
    Within T orig (wFecMode p v s).2 := by
  unfold wFecMode
  try dsimp only
  with_reducible repeat' first
    | (intro _) | assumption | (exact subP_trans (by decide) hT) | apply within_startRetrain | apply within_pSet
    | apply within_ite | apply within_snd_ite | (apply withinPair_of; assumption) | split | dsimp only

theorem within_sendLocate (T : List Part) (orig : State) (hT : subP [.out] T = true) (p : Nat) (s : State) (h1 :
    Within T orig s) :
    Within T orig (sendLocate p s) := by
  unfold sendLocate
  try dsimp only
  with_reducible repeat' first
    | (intro _) | assumption | (exact subP_trans (by decide) hT) | apply within_linkNote | apply within_ite | split
    | dsimp only

theorem within_wRetrainNow (T : List Part) (orig : State) (hT : subP [.od, .fab, .sec] T = true) (p : Nat) (v : Nat)
    (s : State) (h1 : Within T orig s) :
    Within T orig (wRetrainNow p v s).2 := by
  unfold wRetrainNow
  try dsimp only
  with_reducible repeat' first
    | (intro _) | assumption | (exact subP_trans (by decide) hT) | apply within_startRetrain | apply within_modPort
    | apply within_ite | apply within_snd_ite | (apply withinPair_of; assumption) | split | dsimp only

theorem within_raisePorts (T : List Part) (orig : State) (hT : subP [.od, .fab, .sec, .obs, .log, .frz] T = true) (s :
    State) (h1 : Within T orig s) :
    Within T orig (raisePorts s) := by
  unfold raisePorts
  try dsimp only
  with_reducible repeat' first
    | (intro _) | assumption | (exact subP_trans (by decide) hT) | apply within_raisePort | apply within_ite
    | apply within_foldl | split | dsimp only | apply within_set_fab

theorem within_wNodeId (T : List Part) (orig : State) (hT : subP [.od, .fab, .sec, .obs, .log, .frz] T = true) (v :
    Nat) (s : State) (h1 : Within T orig s) :
    Within T orig (wNodeId v s).2 := by
  unfold wNodeId
  try dsimp only
  with_reducible repeat' first
    | (intro _) | assumption | (exact subP_trans (by decide) hT) | apply within_raisePorts | apply within_odSet
    | apply within_ite | apply within_snd_ite | (apply withinPair_of; assumption) | split | dsimp only

theorem within_wMachineId (T : List Part) (orig : State) (hT : subP [.od] T = true) (v : Nat) (s : State) (h1 : Within
    T orig s) :
    Within T orig (wMachineId v s).2 := by
  unfold wMachineId
  try dsimp only
  with_reducible repeat' first
    | (intro _) | assumption | (exact subP_trans (by decide) hT) | apply within_odSet | apply within_ite
    | apply within_snd_ite | (apply withinPair_of; assumption) | split | dsimp only

theorem within_wFabricDims (T : List Part) (orig : State) (hT : subP [.od, .fab, .sec, .obs, .log, .frz, .mod] T =
    true) (v : Nat) (s : State) (h1 : Within T orig s) :
    Within T orig (wFabricDims v s).2 := by
  unfold wFabricDims
  try dsimp only
  with_reducible repeat' first
    | (intro _) | assumption | (exact subP_trans (by decide) hT) | apply within_raisePorts | apply within_laserUpdate
    | apply within_odSet | apply within_ite | apply within_snd_ite | (apply withinPair_of; assumption) | split
    | dsimp only

theorem within_sendLink (T : List Part) (orig : State) (hT : subP [.fab] T = true) (p : Nat) (typ : Nat) (body : List
    Byte) (s : State) (h1 : Within T orig s) :
    Within T orig (sendLink p typ body s) := by
  unfold sendLink
  try dsimp only
  with_reducible repeat' first
    | (intro _) | assumption | (exact subP_trans (by decide) hT) | apply within_modPort | split | dsimp only

theorem within_sendRequest (T : List Part) (orig : State) (hT : subP [.freeCtr, .fab] T = true) (p : Nat) (s : State)
    (h1 : Within T orig s) :
    Within T orig (sendRequest p s) := by
  unfold sendRequest
  try dsimp only
  with_reducible repeat' first
    | (intro _) | assumption | (exact subP_trans (by decide) hT) | apply within_freeNext | apply within_sendLink
    | apply within_modPort | (apply withinPair_of; assumption) | split | dsimp only

theorem within_forceKeys (T : List Part) (orig : State) (hT : subP [.freeCtr, .fab] T = true) (s : State) (h1 : Within
    T orig s) :
    Within T orig (forceKeys s) := by
  unfold forceKeys
  try dsimp only
  with_reducible repeat' first
    | (intro _) | assumption | (exact subP_trans (by decide) hT) | apply within_modPort | apply within_sendRequest
    | apply within_ite | apply within_foldl | split | dsimp only

theorem within_wRekeyAll (T : List Part) (orig : State) (hT : subP [.freeCtr, .fab] T = true) (v : Nat) (s : State)
    (h1 : Within T orig s) :
    Within T orig (wRekeyAll v s).2 := by
  unfold wRekeyAll
  try dsimp only
  with_reducible repeat' first
    | (intro _) | assumption | (exact subP_trans (by decide) hT) | apply within_forceKeys | apply within_ite
    | apply within_snd_ite | (apply withinPair_of; assumption) | split | dsimp only

theorem within_wLaserRestart (T : List Part) (orig : State) (hT : subP [.od, .fab, .mod] T = true) (v : Nat) (s :
    State) (h1 : Within T orig s) :
    Within T orig (wLaserRestart v s).2 := by
  unfold wLaserRestart
  try dsimp only
  with_reducible repeat' first
    | (intro _) | assumption | (exact subP_trans (by decide) hT) | apply within_laserUpdate | apply within_ite
    | apply within_snd_ite | (apply withinPair_of; assumption) | split | dsimp only | apply within_set_fab

theorem within_drainTimeout (T : List Part) (orig : State) (hT : subP [.od, .out, .fab, .sec, .obs, .log, .frz, .can]
    T = true) (p : Nat) (s : State) (h1 : Within T orig s) :
    Within T orig (drainTimeout p s) := by
  unfold drainTimeout
  try dsimp only
  with_reducible repeat' first
    | (intro _) | assumption | (exact subP_trans (by decide) hT) | apply within_portLoss | apply within_ite | split
    | dsimp only

theorem within_offerNow (T : List Part) (orig : State) (hT : subP [.freeCtr, .fab] T = true) (p : Nat) (phase : Nat)
    (nonce : Nat) (effective : Nat) (s : State) (h1 : Within T orig s) :
    Within T orig (offerNow p phase nonce effective s) := by
  unfold offerNow
  try dsimp only
  with_reducible repeat' first
    | (intro _) | assumption | (exact subP_trans (by decide) hT) | apply within_freeNext | apply within_sendLink
    | apply within_modPort | (apply withinPair_of; assumption) | split | dsimp only

theorem within_reachUp (T : List Part) (orig : State) (hT : subP [.od, .out, .fab, .sec] T = true) (p : Nat) (s :
    State) (h1 : Within T orig s) :
    Within T orig (reachUp p s) := by
  unfold reachUp
  try dsimp only
  with_reducible repeat' first
    | (intro _) | assumption | (exact subP_trans (by decide) hT) | apply within_sendLocate | apply within_setPort
    | apply within_pSet | apply within_setPState | apply within_ite | split | dsimp only | apply within_set_sec

theorem within_installKey (T : List Part) (orig : State) (hT : subP [.od, .out, .fab, .sec] T = true) (p : Nat) (o :
    OfferIn) (s : State) (h1 : Within T orig s) :
    Within T orig (installKey p o s) := by
  unfold installKey
  try dsimp only
  with_reducible repeat' first
    | (intro _) | assumption | (exact subP_trans (by decide) hT) | apply within_reachUp | apply within_setPort
    | apply within_sendLink | apply within_ite | split | dsimp only

theorem within_failedTimeout (T : List Part) (orig : State) (hT : subP [.od, .fab, .sec] T = true) (p : Nat) (s :
    State) (h1 : Within T orig s) :
    Within T orig (failedTimeout p s) := by
  unfold failedTimeout
  try dsimp only
  with_reducible repeat' first
    | (intro _) | assumption | (exact subP_trans (by decide) hT) | apply within_toDark | apply within_toDisabled
    | apply within_ite | split | dsimp only

theorem within_feedLow (T : List Part) (orig : State) (hT : subP [.od, .fab, .obs, .log, .frz] T = true) (e : Nat)
    (power : Int) (s : State) (h1 : Within T orig s) :
    Within T orig (feedLow e power s) := by
  unfold feedLow
  try dsimp only
  with_reducible repeat' first
    | (intro _) | assumption | (exact subP_trans (by decide) hT) | apply within_odSet | apply within_logSimple
    | apply within_ite | split | dsimp only | apply within_set_fab

theorem within_feedOpen (T : List Part) (orig : State) (hT : subP [.od, .fab, .obs, .log, .frz, .mod] T = true) (e :
    Nat) (s : State) (h1 : Within T orig s) :
    Within T orig (feedOpen e s) := by
  unfold feedOpen
  try dsimp only
  with_reducible repeat' first
    | (intro _) | assumption | (exact subP_trans (by decide) hT) | apply within_logSimple | apply within_laserUpdate
    | apply within_ite | split | dsimp only | apply within_set_fab

theorem within_flitAccept (T : List Part) (orig : State) (hT : subP [.od, .out, .fab, .sec, .obs, .log, .frz] T =
    true) (p : Nat) (f : FlitIn) (s : State) (h1 : Within T orig s) :
    Within T orig (flitAccept p f s) := by
  unfold flitAccept
  try dsimp only
  with_reducible repeat' first
    | (intro _) | assumption | (exact subP_trans (by decide) hT) | apply within_drainCheck | apply within_setPort
    | apply within_ite | split | dsimp only

theorem within_flitDrop (T : List Part) (orig : State) (hT : subP [.od, .out, .fab, .sec, .obs, .log, .frz, .can] T =
    true) (p : Nat) (f : FlitIn) (s : State) (h1 : Within T orig s) :
    Within T orig (flitDrop p f s) := by
  unfold flitDrop
  try dsimp only
  with_reducible repeat' first
    | (intro _) | assumption | (exact subP_trans (by decide) hT) | apply within_pAdd | apply within_modPort
    | apply within_portLoss | apply within_ite | split | dsimp only

theorem within_flitReceive (T : List Part) (orig : State) (hT : subP [.od, .out, .fab, .sec, .obs, .log, .frz, .can] T
    = true) (p : Nat) (f : FlitIn) (s : State) (h1 : Within T orig s) :
    Within T orig (flitReceive p f s) := by
  unfold flitReceive
  try dsimp only
  with_reducible repeat' first
    | (intro _) | assumption | (exact subP_trans (by decide) hT) | apply within_countFec | apply within_flitAccept
    | apply within_flitDrop | apply within_ite | split | dsimp only

theorem within_flitTransmit (T : List Part) (orig : State) (hT : subP [.od, .out, .fab, .sec] T = true) (p : Nat)
    (crVc : Nat) (crCount : Nat) (s : State) (h1 : Within T orig s) :
    Within T orig (flitTransmit p crVc crCount s) := by
  unfold flitTransmit
  try dsimp only
  with_reducible repeat' first
    | (intro _) | assumption | (exact subP_trans (by decide) hT) | apply within_setPort | apply within_checkRate
    | apply within_countFlit | apply within_pAdd | apply within_emit | apply within_ite | split | dsimp only

theorem within_goingDown (T : List Part) (orig : State) (hT : subP [.od, .fab, .sec, .obs, .log, .frz] T = true) (p :
    Nat) (s : State) (h1 : Within T orig s) :
    Within T orig (goingDown p s) := by
  unfold goingDown
  try dsimp only
  with_reducible repeat' first
    | (intro _) | assumption | (exact subP_trans (by decide) hT) | apply within_modPort | apply within_toDark
    | apply within_requeue | apply within_takeWhole | apply within_ite | split | dsimp only

theorem within_judgeFec (T : List Part) (orig : State) (hT : subP [.od, .obs, .log, .frz] T = true) (p : Nat) (len :
    Nat) (s : State) (h1 : Within T orig s) :
    Within T orig (judgeFec p len s) := by
  unfold judgeFec
  try dsimp only
  with_reducible repeat' first
    | (intro _) | assumption | (exact subP_trans (by decide) hT) | apply within_logSimple | apply within_pSet
    | apply within_ite | split | dsimp only

theorem within_identChecks (T : List Part) (orig : State) (hT : subP [.od, .obs, .log, .frz] T = true) (p : Nat) (i :
    IdentIn) (s : State) (h1 : Within T orig s) :
    Within T orig (identChecks p i s).2 := by
  unfold identChecks
  try dsimp only
  with_reducible repeat' first
    | (intro _) | assumption | (exact subP_trans (by decide) hT) | apply within_pSet | apply within_judgeFec
    | apply within_ite | apply within_snd_ite | (apply withinPair_of; assumption) | split | dsimp only

theorem within_sendCert (T : List Part) (orig : State) (hT : subP [.freeCtr, .fab] T = true) (p : Nat) (s : State) (h1
    : Within T orig s) :
    Within T orig (sendCert p s) := by
  unfold sendCert
  try dsimp only
  with_reducible repeat' first
    | (intro _) | assumption | (exact subP_trans (by decide) hT) | apply within_freeNext | apply within_sendLink
    | apply within_modPort | (apply withinPair_of; assumption) | split | dsimp only

theorem within_toKeying (T : List Part) (orig : State) (hT : subP [.od, .freeCtr, .fab, .sec] T = true) (p : Nat) (s :
    State) (h1 : Within T orig s) :
    Within T orig (toKeying p s) := by
  unfold toKeying
  try dsimp only
  with_reducible repeat' first
    | (intro _) | assumption | (exact subP_trans (by decide) hT) | apply within_keyingOffer | apply within_sendCert
    | apply within_pSet | apply within_setPState | split | dsimp only

theorem within_identExchange (T : List Part) (orig : State) (hT : subP [.od, .freeCtr, .fab, .sec, .tim, .obs, .log,
    .frz] T = true) (p : Nat) (i : IdentIn) (s : State) (h1 : Within T orig s) :
    Within T orig (identExchange p i s) := by
  unfold identExchange
  try dsimp only
  with_reducible repeat' first
    | (intro _) | assumption | (exact subP_trans (by decide) hT) | apply within_identChecks | apply within_alignPeer
    | apply within_toKeying | apply within_logEvent | apply within_pSet | apply within_setPState | apply within_ite
    | (apply withinPair_of; assumption) | split | dsimp only

theorem within_sendProbes (T : List Part) (orig : State) (hT : subP [.out] T = true) (p : Nat) (s : State) (h1 :
    Within T orig s) :
    Within T orig (sendProbes p s) := by
  unfold sendProbes
  try dsimp only
  with_reducible repeat' first
    | (intro _) | assumption | (exact subP_trans (by decide) hT) | apply within_linkNote | apply within_foldl | split
    | dsimp only

theorem within_sendIdent (T : List Part) (orig : State) (hT : subP [.out] T = true) (p : Nat) (s : State) (h1 : Within
    T orig s) :
    Within T orig (sendIdent p s) := by
  unfold sendIdent
  try dsimp only
  with_reducible repeat' first
    | (intro _) | assumption | (exact subP_trans (by decide) hT) | apply within_sendProbes | apply within_linkNote
    | split | dsimp only

theorem within_identRepeat (T : List Part) (orig : State) (hT : subP [.od, .out, .freeCtr, .fab, .sec, .obs, .log,
    .frz] T = true) (p : Nat) (i : IdentIn) (s : State) (h1 : Within T orig s) :
    Within T orig (identRepeat p i s) := by
  unfold identRepeat
  try dsimp only
  with_reducible repeat' first
    | (intro _) | assumption | (exact subP_trans (by decide) hT) | apply within_identChecks | apply within_sendIdent
    | apply within_toKeying | apply within_pSet | apply within_ite | (apply withinPair_of; assumption) | split
    | dsimp only

theorem within_keyAckIn (T : List Part) (orig : State) (hT : subP [.od, .out, .fab, .sec] T = true) (p : Nat)
    (effective : Nat) (s : State) (h1 : Within T orig s) :
    Within T orig (keyAckIn p effective s) := by
  unfold keyAckIn
  try dsimp only
  with_reducible repeat' first
    | (intro _) | assumption | (exact subP_trans (by decide) hT) | apply within_reachUp | apply within_setPort
    | apply within_ite | split | dsimp only

theorem within_keyChange (T : List Part) (orig : State) (hT : subP [.od, .out, .fab, .sec, .obs, .log, .frz, .can] T =
    true) (p : Nat) (s : State) (h1 : Within T orig s) :
    Within T orig (keyChange p s) := by
  unfold keyChange
  try dsimp only
  with_reducible repeat' first
    | (intro _) | assumption | (exact subP_trans (by decide) hT) | apply within_portLoss | apply within_pAdd
    | apply within_setPort | apply within_ite | split | dsimp only

theorem within_keyOfferIn (T : List Part) (orig : State) (hT : subP [.sec] T = true) (p : Nat) (o : OfferIn) (s :
    State) (h1 : Within T orig s) :
    Within T orig (keyOfferIn p o s) := by
  unfold keyOfferIn
  try dsimp only
  with_reducible repeat' first
    | (intro _) | assumption | (exact subP_trans (by decide) hT) | apply within_secAdd | apply within_ite | split
    | dsimp only

theorem within_keyRequestDue (T : List Part) (orig : State) (hT : subP [.freeCtr, .fab] T = true) (p : Nat) (s :
    State) (h1 : Within T orig s) :
    Within T orig (keyRequestDue p s) := by
  unfold keyRequestDue
  try dsimp only
  with_reducible repeat' first
    | (intro _) | assumption | (exact subP_trans (by decide) hT) | apply within_sendRequest | apply within_ite | split
    | dsimp only

theorem within_keyRequestIn (T : List Part) (orig : State) (hT : subP [.freeCtr, .fab, .sec] T = true) (p : Nat)
    (phase : Nat) (nonce : Nat) (s : State) (h1 : Within T orig s) :
    Within T orig (keyRequestIn p phase nonce s) := by
  unfold keyRequestIn
  try dsimp only
  with_reducible repeat' first
    | (intro _) | assumption | (exact subP_trans (by decide) hT) | apply within_sendOffer | apply within_modPort
    | apply within_sendRequest | apply within_ite | split | dsimp only

theorem within_toFailed (T : List Part) (orig : State) (hT : subP [.od, .fab, .sec] T = true) (p : Nat) (s : State)
    (h1 : Within T orig s) :
    Within T orig (toFailed p s) := by
  unfold toFailed
  try dsimp only
  with_reducible repeat' first
    | (intro _) | assumption | (exact subP_trans (by decide) hT) | apply within_setPort | apply within_setPState
    | apply within_clearLink | split | dsimp only

theorem within_keyingTimeout (T : List Part) (orig : State) (hT : subP [.od, .fab, .sec, .obs, .log, .frz] T = true)
    (p : Nat) (s : State) (h1 : Within T orig s) :
    Within T orig (keyingTimeout p s) := by
  unfold keyingTimeout
  try dsimp only
  with_reducible repeat' first
    | (intro _) | assumption | (exact subP_trans (by decide) hT) | apply within_logSimple | apply within_toFailed
    | apply within_ite | split | dsimp only

theorem within_laneFailure (T : List Part) (orig : State) (hT : subP [.od, .fab, .sec] T = true) (p : Nat) (lane :
    Option Nat) (s : State) (h1 : Within T orig s) :
    Within T orig (laneFailure p lane s) := by
  unfold laneFailure
  try dsimp only
  with_reducible repeat' first
    | (intro _) | assumption | (exact subP_trans (by decide) hT) | apply within_modPort | apply within_startRetrain
    | apply within_ite | split | dsimp only

theorem within_setLaserOk (T : List Part) (orig : State) (hT : subP [.mod] T = true) (b : Bool) (s : State) (h1 :
    Within T orig s) :
    Within T orig (setLaserOk b s) := by
  unfold setLaserOk
  try dsimp only
  with_reducible repeat' first
    | (intro _) | assumption | (exact subP_trans (by decide) hT) | split | dsimp only | apply within_set_mod

theorem within_laserOkFall (T : List Part) (orig : State) (hT : subP [.od, .out, .fab, .sec, .obs, .log, .frz, .can,
    .mod] T = true) (s : State) (h1 : Within T orig s) :
    Within T orig (laserOkFall s) := by
  unfold laserOkFall
  try dsimp only
  with_reducible repeat' first
    | (intro _) | assumption | (exact subP_trans (by decide) hT) | apply within_portOff | apply within_laserUpdate
    | apply within_setLaserOk | apply within_foldl | split | dsimp only

theorem within_laserOkRise (T : List Part) (orig : State) (hT : subP [.od, .fab, .sec, .obs, .log, .frz, .mod] T =
    true) (s : State) (h1 : Within T orig s) :
    Within T orig (laserOkRise s) := by
  unfold laserOkRise
  try dsimp only
  with_reducible repeat' first
    | (intro _) | assumption | (exact subP_trans (by decide) hT) | apply within_raisePorts | apply within_laserUpdate
    | apply within_setLaserOk | split | dsimp only

theorem within_laserOkTimeout (T : List Part) (orig : State) (hT : subP [.od, .obs, .log, .frz] T = true) (s : State)
    (h1 : Within T orig s) :
    Within T orig (laserOkTimeout s) := by
  unfold laserOkTimeout
  try dsimp only
  with_reducible repeat' first
    | (intro _) | assumption | (exact subP_trans (by decide) hT) | apply within_logSimple | apply within_ite | split
    | dsimp only

theorem within_lightDetected (T : List Part) (orig : State) (hT : subP [.od, .fab, .sec] T = true) (p : Nat) (s :
    State) (h1 : Within T orig s) :
    Within T orig (lightDetected p s) := by
  unfold lightDetected
  try dsimp only
  with_reducible repeat' first
    | (intro _) | assumption | (exact subP_trans (by decide) hT) | apply within_setPort | apply within_setPState
    | apply within_ite | split | dsimp only

theorem within_locateForward (T : List Part) (orig : State) (hT : subP [.fab] T = true) (p : Nat) (on : Bool) (s :
    State) (h1 : Within T orig s) :
    Within T orig (locateForward p on s) := by
  unfold locateForward
  try dsimp only
  with_reducible repeat' first
    | (intro _) | assumption | (exact subP_trans (by decide) hT) | apply within_modPort | split | dsimp only

theorem within_lossOfLight (T : List Part) (orig : State) (hT : subP [.od, .out, .fab, .sec, .obs, .log, .frz, .can] T
    = true) (p : Nat) (s : State) (h1 : Within T orig s) :
    Within T orig (lossOfLight p s) := by
  unfold lossOfLight
  try dsimp only
  with_reducible repeat' first
    | (intro _) | assumption | (exact subP_trans (by decide) hT) | apply within_toDark | apply within_portLoss
    | apply within_ite | split | dsimp only

theorem within_nakRepeat (T : List Part) (orig : State) (hT : subP [.fab] T = true) (p : Nat) (s : State) (h1 : Within
    T orig s) :
    Within T orig (nakRepeat p s) := by
  unfold nakRepeat
  try dsimp only
  with_reducible repeat' first
    | (intro _) | assumption | (exact subP_trans (by decide) hT) | apply within_modPort | apply within_ite | split
    | dsimp only

theorem within_portProbe (T : List Part) (orig : State) (hT : subP [.fab] T = true) (p : Nat) (s : State) (h1 : Within
    T orig s) :
    Within T orig (portProbe p s) := by
  unfold portProbe
  try dsimp only
  with_reducible repeat' first
    | (intro _) | assumption | (exact subP_trans (by decide) hT) | apply within_setPort | apply within_ite | split
    | dsimp only

theorem within_setLanes (T : List Part) (orig : State) (hT : subP [.od] T = true) (p : Nat) (g : Nat) (s : State) (h1
    : Within T orig s) :
    Within T orig (setLanes p g s) := by
  unfold setLanes
  try dsimp only
  with_reducible repeat' first
    | (intro _) | assumption | (exact subP_trans (by decide) hT) | apply within_pSet | split | dsimp only

theorem within_retrainComplete (T : List Part) (orig : State) (hT : subP [.od, .out, .fab, .sec, .obs, .log, .frz,
    .can] T = true) (p : Nat) (ok : Nat) (s : State) (h1 : Within T orig s) :
    Within T orig (retrainComplete p ok s) := by
  unfold retrainComplete
  try dsimp only
  with_reducible repeat' first
    | (intro _) | assumption | (exact subP_trans (by decide) hT) | apply within_portLoss | apply within_drainCheck
    | apply within_sendLocate | apply within_setPort | apply within_pSet | apply within_setLanes
    | apply within_setPState | apply within_ite | apply within_foldl | split | dsimp only

theorem within_retrainTimeout (T : List Part) (orig : State) (hT : subP [.od, .out, .fab, .sec, .obs, .log, .frz,
    .can] T = true) (p : Nat) (s : State) (h1 : Within T orig s) :
    Within T orig (retrainTimeout p s) := by
  unfold retrainTimeout
  try dsimp only
  with_reducible repeat' first
    | (intro _) | assumption | (exact subP_trans (by decide) hT) | apply within_portLoss | apply within_ite | split
    | dsimp only

theorem within_trainingComplete (T : List Part) (orig : State) (hT : subP [.od, .out, .sec] T = true) (p : Nat) (ok :
    Nat) (s : State) (h1 : Within T orig s) :
    Within T orig (trainingComplete p ok s) := by
  unfold trainingComplete
  try dsimp only
  with_reducible repeat' first
    | (intro _) | assumption | (exact subP_trans (by decide) hT) | apply within_sendIdent | apply within_pSet
    | apply within_setLanes | apply within_setPState | apply within_sendLocate | apply within_ite | split | dsimp only

theorem within_trainingTimeout (T : List Part) (orig : State) (hT : subP [.od, .fab, .sec] T = true) (p : Nat) (s :
    State) (h1 : Within T orig s) :
    Within T orig (trainingTimeout p s) := by
  unfold trainingTimeout
  try dsimp only
  with_reducible repeat' first
    | (intro _) | assumption | (exact subP_trans (by decide) hT) | apply within_toDark | apply within_ite | split
    | dsimp only

end Sys2Proof.Machine
end

