-- ==== Sys2Proof/Laws/WithinRemote.lean ====
section
/-! SUPPORT. The parts of the state that each operation may change: remote operations, collectives, the commands and the host interface. -/
namespace Sys2Proof.Machine
open Sys2Proof

theorem within_answer (T : List Part) (orig : State) (hT : subP [.fab] T = true) (op : Nat) (operand : Nat) (bs : List
    Byte) (p : Pkt) (s : State) (h1 : Within T orig s) :
    Within T orig (answer op operand bs p s) := by
  unfold answer
  try dsimp only
  with_reducible repeat' first
    | (intro _) | assumption | (exact subP_trans (by decide) hT) | apply within_inject | split | dsimp only

theorem within_setFe (T : List Part) (orig : State) (hT : subP [.rem] T = true) (fe : Nat) (x : FeSt) (s : State) (h1
    : Within T orig s) :
    Within T orig (setFe fe x s) := by
  unfold setFe
  try dsimp only
  with_reducible repeat' first
    | (intro _) | assumption | (exact subP_trans (by decide) hT) | split | dsimp only | apply within_set_rem

theorem within_setRob (T : List Part) (orig : State) (hT : subP [.rem] T = true) (fe : Nat) (i : Nat) (r : RobSt) (s :
    State) (h1 : Within T orig s) :
    Within T orig (setRob fe i r s) := by
  unfold setRob
  try dsimp only
  with_reducible repeat' first
    | (intro _) | assumption | (exact subP_trans (by decide) hT) | apply within_setFe | split | dsimp only

theorem within_setStale (T : List Part) (orig : State) (hT : subP [.od, .rem] T = true) (l : List Nat) (s : State) (h1
    : Within T orig s) :
    Within T orig (setStale l s) := by
  unfold setStale
  try dsimp only
  with_reducible repeat' first
    | (intro _) | assumption | (exact subP_trans (by decide) hT) | apply within_odSet | split | dsimp only
    | apply within_set_rem

theorem within_markStale (T : List Part) (orig : State) (hT : subP [.od, .rem] T = true) (n : Nat) (s : State) (h1 :
    Within T orig s) :
    Within T orig (markStale n s) := by
  unfold markStale
  try dsimp only
  with_reducible repeat' first
    | (intro _) | assumption | (exact subP_trans (by decide) hT) | apply within_setStale | apply within_ite | split
    | dsimp only

theorem within_failPacket (T : List Part) (orig : State) (hT : subP [.od, .rem] T = true) (fe : Nat) (i : Nat) (p :
    RPkt) (code : Nat) (s : State) (h1 : Within T orig s) :
    Within T orig (failPacket fe i p code s) := by
  unfold failPacket
  try dsimp only
  with_reducible repeat' first
    | (intro _) | assumption | (exact subP_trans (by decide) hT) | apply within_markStale | apply within_setRob
    | apply within_ite | apply withinRes_ite | apply withinRes_ok | apply withinRes_ue | apply withinServe_ok
    | apply withinServe_ue | apply withinSlot_ok | apply withinSlot_exc | apply withinSlot_ue | apply withinOpt_ite
    | apply withinOpt_some | apply withinOpt_none | apply withinAns_ite | apply withinAns_some | apply withinAns_none
    | apply within_snd_ite | (apply withinRes_of; assumption) | (apply withinRes_ofUe; assumption)
    | (apply withinServe_of; assumption) | (apply withinServe_ofUe; assumption) | (apply withinSlot_of; assumption)
    | (apply withinSlot_ofExc; assumption) | (apply withinSlot_ofUe; assumption) | (apply withinPair_of; assumption)
    | (apply withinTriple_of; assumption) | (apply withinOpt_of; assumption) | (apply withinAns_of; assumption)
    | apply within_foldl | split | (simp only [id_eq]) | apply_assumption | dsimp only

theorem within_failLocal (T : List Part) (orig : State) (hT : subP [.rem] T = true) (fe : Nat) (i : Nat) (p : RPkt)
    (code : Nat) (s : State) (h1 : Within T orig s) :
    Within T orig (failLocal fe i p code s) := by
  unfold failLocal
  try dsimp only
  with_reducible repeat' first
    | (intro _) | assumption | (exact subP_trans (by decide) hT) | apply within_setRob | split | dsimp only

theorem within_replyToken (T : List Part) (orig : State) (hT : subP [.od, .tiles, .graphs, .rem, .obs, .frz] T = true)
    (t : Nat) (a1 : Nat) (off : Nat) (s : State) (h1 : Within T orig s) :
    Within T orig (replyToken t a1 off s) := by
  unfold replyToken
  try dsimp only
  with_reducible repeat' first
    | (intro _) | assumption | (exact subP_trans (by decide) hT) | apply within_progress | apply within_giveReply
    | apply within_raiseReq | (apply withinOpt_of; assumption) | split | dsimp only | apply within_set_rem

theorem within_noteRob (T : List Part) (orig : State) (hT : subP [.graphs] T = true) (r : RobSt) (a : Nat) (n : Nat)
    (s : State) (h1 : Within T orig s) :
    Within T orig (noteRob r a n s) := by
  unfold noteRob
  try dsimp only
  with_reducible repeat' first
    | (intro _) | assumption | (exact subP_trans (by decide) hT) | apply within_noteWrote | split | dsimp only

theorem within_finishRob (T : List Part) (orig : State) (hT : subP [.od, .out, .freeCtr, .mem, .ecc, .tiles, .graphs,
    .cmds, .rem, .obs, .log, .frz, .can] T = true) (fe : Nat) (i : Nat) (s : State) (h1 : Within T orig s) :
    Within T orig (finishRob fe i s) := by
  unfold finishRob
  try dsimp only
  with_reducible repeat' first
    | (intro _) | assumption | (exact subP_trans (by decide) hT) | apply within_setFe | apply within_undefine
    | apply within_trace | apply within_finish | apply within_addFlags | apply within_writeMod | apply within_ueTile
    | apply within_replyToken | apply within_noteRob | apply within_ite | (apply withinRes_of; assumption)
    | (apply withinRes_ofUe; assumption) | split | dsimp only

theorem within_pktBody (T : List Part) (orig : State) (hT : subP [.od, .ecc, .obs, .log, .frz] T = true) (fe : Nat) (r
    : RobSt) (p : RPkt) (s : State) (h1 : Within T orig s) :
    WithinRes T orig (pktBody fe r p s) := by
  unfold pktBody
  try dsimp only
  with_reducible repeat' first
    | (intro _) | assumption | (exact subP_trans (by decide) hT) | apply within_readMod | apply within_ite
    | apply withinRes_ite | apply withinRes_ok | apply withinRes_ue | (apply withinRes_of; assumption)
    | (apply withinRes_ofUe; assumption) | split | dsimp only

theorem within_sendRob (T : List Part) (orig : State) (hT : subP [.od, .out, .ecc, .fab, .rem, .obs, .log, .frz, .can]
    T = true) (fe : Nat) (i : Nat) (a2 : Nat) (s : State) (h1 : Within T orig s) :
    Within T orig (sendRob fe i a2 s) := by
  induction a2 generalizing s with
  | zero => exact h1
  | succ n ih =>
    unfold sendRob
    dsimp only
    with_reducible repeat' first
      | (intro _) | assumption | (exact subP_trans (by decide) hT) | apply within_setRob | apply within_pktBody
      | apply within_failLocal | apply within_ueRecord | apply within_inject | apply within_setFe | apply within_ite
      | (apply withinRes_of; assumption) | (apply withinRes_ofUe; assumption) | split | apply_assumption | dsimp only

theorem within_runRob (T : List Part) (orig : State) (hT : subP [.od, .out, .freeCtr, .mem, .ecc, .tiles, .graphs,
    .cmds, .fab, .rem, .obs, .log, .frz, .can] T = true) (fe : Nat) (i : Nat) (s : State) (h1 : Within T orig s) :
    Within T orig (runRob fe i s) := by
  unfold runRob
  try dsimp only
  with_reducible repeat' first
    | (intro _) | assumption | (exact subP_trans (by decide) hT) | apply within_finishRob | apply within_sendRob
    | split | dsimp only

theorem within_pumpFe (T : List Part) (orig : State) (hT : subP [.od, .out, .freeCtr, .mem, .ecc, .tiles, .graphs,
    .cmds, .fab, .rem, .obs, .log, .frz, .can] T = true) (fe : Nat) (a1 : Nat) (a2 : Nat) (s : State) (h1 : Within T
    orig s) :
    Within T orig (pumpFe fe a1 a2 s) := by
  induction a2 generalizing a1 s with
  | zero => exact h1
  | succ n ih =>
    unfold pumpFe
    split
    · exact h1
    · dsimp only
      apply ih
      with_reducible repeat' first
        | (intro _) | assumption | (exact subP_trans (by decide) hT) | apply within_runRob | apply within_ite | split
        | apply_assumption | dsimp only

theorem within_respond (T : List Part) (orig : State) (hT : subP [.od, .out, .freeCtr, .mem, .ecc, .tiles, .graphs,
    .cmds, .fab, .rem, .obs, .log, .frz, .can] T = true) (rtag : Nat) (code : Nat) (eff : Nat →   RobSt →     RPkt →
    State → MemRes RobSt) (s : State) (hf : ∀ x0 x1 x2 x3, Within T orig x3 → WithinRes T orig (eff x0 x1 x2 x3)) (h1
    : Within T orig s) :
    Within T orig (respond rtag code eff s) := by
  unfold respond
  try dsimp only
  with_reducible repeat' first
    | (intro _) | assumption | (exact subP_trans (by decide) hT) | apply within_odAdd | apply within_setRob
    | apply within_setFe | apply within_failPacket | apply within_failLocal | apply within_ueRecord
    | apply within_pumpFe | apply within_ite | (apply withinRes_of; assumption) | (apply withinRes_ofUe; assumption)
    | (apply withinServe_of; assumption) | (apply withinServe_ofUe; assumption) | split | apply_assumption
    | dsimp only

theorem within_atRsp (T : List Part) (orig : State) (hT : subP [.od, .out, .freeCtr, .mem, .ecc, .tiles, .graphs,
    .cmds, .fab, .rem, .obs, .log, .frz, .can] T = true) (p : Pkt) (s : State) (h1 : Within T orig s) :
    Within T orig (atRsp p s) := by
  unfold atRsp
  try dsimp only
  with_reducible repeat' first
    | (intro _) | assumption | (exact subP_trans (by decide) hT) | apply within_respond | apply withinRes_ok
    | apply withinRes_ue | split | dsimp only

theorem within_wMemberRevive (T : List Part) (orig : State) (hT : subP [.od, .rem] T = true) (v : Nat) (s : State) (h1
    : Within T orig s) :
    Within T orig (wMemberRevive v s).2 := by
  unfold wMemberRevive
  try dsimp only
  with_reducible repeat' first
    | (intro _) | assumption | (exact subP_trans (by decide) hT) | apply within_setStale
    | (apply withinPair_of; assumption) | split | dsimp only

theorem within_eaAck (T : List Part) (orig : State) (hT : subP [.od, .out, .freeCtr, .mem, .ecc, .tiles, .graphs,
    .cmds, .fab, .rem, .obs, .log, .frz, .can] T = true) (p : Pkt) (s : State) (h1 : Within T orig s) :
    Within T orig (eaAck p s) := by
  unfold eaAck
  try dsimp only
  with_reducible repeat' first
    | (intro _) | assumption | (exact subP_trans (by decide) hT) | apply within_respond | apply withinRes_ok
    | apply withinRes_ue | split | dsimp only

theorem within_startRob (T : List Part) (orig : State) (hT : subP [.od, .out, .freeCtr, .mem, .ecc, .tiles, .graphs,
    .cmds, .fab, .rem, .obs, .log, .frz, .can] T = true) (fe : Nat) (r0 : RobSt) (s : State) (h1 : Within T orig s) :
    Within T orig (startRob fe r0 s) := by
  unfold startRob
  try dsimp only
  with_reducible repeat' first
    | (intro _) | assumption | (exact subP_trans (by decide) hT) | apply within_runRob | apply within_setFe
    | apply within_ite | split | dsimp only

theorem within_fetchRob (T : List Part) (orig : State) (hT : subP [.od, .out, .freeCtr, .mem, .ecc, .tiles, .graphs,
    .cmds, .fab, .rem, .obs, .log, .frz, .can] T = true) (fe : Nat) (t : Nat) (off : Nat) (s : State) (h1 : Within T
    orig s) :
    Within T orig (fetchRob fe t off s) := by
  unfold fetchRob
  try dsimp only
  with_reducible repeat' first
    | (intro _) | assumption | (exact subP_trans (by decide) hT) | apply within_tileExc | apply within_readMod
    | apply within_ueTile | apply within_trace | apply within_startRob | apply within_finishRob | apply within_setFe
    | apply within_ite | (apply withinRes_of; assumption) | (apply withinRes_ofUe; assumption) | split | dsimp only

theorem within_htRsp (T : List Part) (orig : State) (hT : subP [.od, .out, .freeCtr, .mem, .ecc, .tiles, .graphs,
    .cmds, .fab, .rem, .obs, .log, .frz, .can] T = true) (p : Pkt) (s : State) (h1 : Within T orig s) :
    Within T orig (htRsp p s) := by
  unfold htRsp
  try dsimp only
  with_reducible repeat' first
    | (intro _) | assumption | (exact subP_trans (by decide) hT) | apply within_respond | apply within_writeMod
    | apply within_noteRob | apply within_ite | apply withinRes_ite | apply withinRes_ok | apply withinRes_ue
    | (apply withinRes_of; assumption) | (apply withinRes_ofUe; assumption) | split | dsimp only

theorem within_pumpAll (T : List Part) (orig : State) (hT : subP [.od, .out, .freeCtr, .mem, .ecc, .tiles, .graphs,
    .cmds, .fab, .rem, .obs, .log, .frz, .can] T = true) (s : State) (h1 : Within T orig s) :
    Within T orig (pumpAll s) := by
  unfold pumpAll
  try dsimp only
  with_reducible repeat' first
    | (intro _) | assumption | (exact subP_trans (by decide) hT) | apply within_pumpFe | apply within_foldl | split
    | dsimp only

theorem within_rdRsp (T : List Part) (orig : State) (hT : subP [.od, .out, .freeCtr, .mem, .ecc, .tiles, .graphs,
    .cmds, .fab, .rem, .obs, .log, .frz, .can] T = true) (p : Pkt) (s : State) (h1 : Within T orig s) :
    Within T orig (rdRsp p s) := by
  unfold rdRsp
  try dsimp only
  with_reducible repeat' first
    | (intro _) | assumption | (exact subP_trans (by decide) hT) | apply within_respond | apply within_writeMod
    | apply within_noteRob | apply withinRes_ok | apply withinRes_ue | (apply withinRes_of; assumption)
    | (apply withinRes_ofUe; assumption) | split | dsimp only

theorem within_slotFlush (T : List Part) (orig : State) (hT : subP [.od, .out, .mem, .ecc, .graphs, .fab, .rem, .obs,
    .log, .frz, .can] T = true) (a : Nat) (s : State) (h1 : Within T orig s) :
    Within T orig (slotFlush a s) := by
  unfold slotFlush
  try dsimp only
  with_reducible repeat' first
    | (intro _) | assumption | (exact subP_trans (by decide) hT) | apply within_engineAdd | apply within_answer
    | apply within_notice | apply within_ueRecord | (apply withinRes_of; assumption)
    | (apply withinRes_ofUe; assumption) | apply within_foldl | split | dsimp only | apply within_set_rem

theorem within_remoteEaadd (T : List Part) (orig : State) (hT : subP [.od, .out, .mem, .ecc, .graphs, .fab, .rem,
    .obs, .log, .frz, .can] T = true) (s : State) (h1 : Within T orig s) :
    Within T orig (remoteEaadd s) := by
  unfold remoteEaadd
  try dsimp only
  with_reducible repeat' first
    | (intro _) | assumption | (exact subP_trans (by decide) hT) | apply within_takeEjected | apply within_notice
    | apply within_slotFlush | apply within_ite | (apply withinAns_of; assumption) | split | dsimp only
    | apply within_set_rem

theorem within_remoteTimeoutAt (T : List Part) (orig : State) (hT : subP [.od, .out, .freeCtr, .mem, .ecc, .tiles,
    .graphs, .cmds, .fab, .rem, .obs, .log, .frz, .can] T = true) (fe : Nat) (tag : Nat) (s : State) (h1 : Within T
    orig s) :
    Within T orig (remoteTimeoutAt fe tag s) := by
  unfold remoteTimeoutAt
  try dsimp only
  with_reducible repeat' first
    | (intro _) | assumption | (exact subP_trans (by decide) hT) | apply within_respond | apply within_ite
    | apply withinRes_ite | apply withinRes_ok | apply withinRes_ue | split | dsimp only

theorem within_robFetch (T : List Part) (orig : State) (hT : subP [.od, .out, .freeCtr, .mem, .ecc, .tiles, .mesh,
    .graphs, .cmds, .fab, .rem, .obs, .log, .frz, .can] T = true) (t : Nat) (oq : Nat) (k : Nat) (s : State) (h1 :
    Within T orig s) :
    Within T orig (robFetch t oq k s) := by
  unfold robFetch
  try dsimp only
  with_reducible repeat' first
    | (intro _) | assumption | (exact subP_trans (by decide) hT) | apply within_fetchRob | apply within_raiseReq
    | apply within_setTile | apply within_ite | split | dsimp only | apply within_set_mesh

theorem within_withPacket (T : List Part) (orig : State) (hT : subP [.fab] T = true) (op : Nat) (f : Pkt → State →
    State) (s : State) (hf : ∀ x0 x1, Within T orig x1 → Within T orig (f x0 x1)) (h1 : Within T orig s) :
    Within T orig (withPacket op f s) := by
  unfold withPacket
  try dsimp only
  with_reducible repeat' first
    | (intro _) | assumption | (exact subP_trans (by decide) hT) | apply within_takeEjected
    | (apply withinAns_of; assumption) | split | apply_assumption | dsimp only

theorem within_serve (T : List Part) (orig : State) (hT : subP [.od, .out, .ecc, .fab, .obs, .log, .frz, .can] T =
    true) (op : Nat) (f : Pkt → Nat → State → MemRes State) (s : State) (hf : ∀ x0 x1 x2, Within T orig x2 →
    WithinServe T orig (f x0 x1 x2)) (h1 : Within T orig s) :
    Within T orig (serve op f s) := by
  unfold serve
  try dsimp only
  with_reducible repeat' first
    | (intro _) | assumption | (exact subP_trans (by decide) hT) | apply within_withPacket | apply within_notice
    | apply within_ueRecord | apply within_ite | (apply withinServe_of; assumption)
    | (apply withinServe_ofUe; assumption) | split | apply_assumption | dsimp only

theorem within_serveAt (T : List Part) (orig : State) (hT : subP [.od, .mem, .ecc, .fab, .obs, .log, .frz] T = true)
    (g : Nat → Nat → Nat → Nat) (p : Pkt) (a : Nat) (s : State) (h1 : Within T orig s) :
    WithinServe T orig (serveAt g p a s) := by
  unfold serveAt
  try dsimp only
  with_reducible repeat' first
    | (intro _) | assumption | (exact subP_trans (by decide) hT) | apply within_readMod | apply within_writeMod
    | apply within_answer | apply withinServe_ok | apply withinServe_ue | (apply withinRes_of; assumption)
    | (apply withinRes_ofUe; assumption) | split | apply_assumption | dsimp only

theorem within_serveHash (T : List Part) (orig : State) (hT : subP [.od, .freeCtr, .mem, .ecc, .fab, .obs, .log, .frz]
    T = true) (ins : Bool) (p : Pkt) (a : Nat) (s : State) (h1 : Within T orig s) :
    WithinServe T orig (serveHash ins p a s) := by
  unfold serveHash
  try dsimp only
  with_reducible repeat' first
    | (intro _) | assumption | (exact subP_trans (by decide) hT) | apply within_freeNext | apply within_hashKeys
    | apply within_answer | apply within_ite | apply withinServe_ok | apply withinServe_ue
    | (apply withinRes_of; assumption) | (apply withinRes_ofUe; assumption) | (apply withinPair_of; assumption)
    | split | dsimp only

theorem within_serveRd (T : List Part) (orig : State) (hT : subP [.od, .ecc, .fab, .obs, .log, .frz] T = true) (p :
    Pkt) (a : Nat) (s : State) (h1 : Within T orig s) :
    WithinServe T orig (serveRd p a s) := by
  unfold serveRd
  try dsimp only
  with_reducible repeat' first
    | (intro _) | assumption | (exact subP_trans (by decide) hT) | apply within_readMod | apply within_answer
    | apply withinServe_ok | apply withinServe_ue | (apply withinRes_of; assumption)
    | (apply withinRes_ofUe; assumption) | split | dsimp only

theorem within_serveWr (T : List Part) (orig : State) (hT : subP [.od, .mem, .ecc, .fab, .obs, .log, .frz] T = true)
    (p : Pkt) (a : Nat) (s : State) (h1 : Within T orig s) :
    WithinServe T orig (serveWr p a s) := by
  unfold serveWr
  try dsimp only
  with_reducible repeat' first
    | (intro _) | assumption | (exact subP_trans (by decide) hT) | apply within_writeMod | apply within_answer
    | apply withinServe_ok | apply withinServe_ue | (apply withinRes_of; assumption)
    | (apply withinRes_ofUe; assumption) | split | dsimp only

theorem within_wrAck (T : List Part) (orig : State) (hT : subP [.od, .out, .freeCtr, .mem, .ecc, .tiles, .graphs,
    .cmds, .fab, .rem, .obs, .log, .frz, .can] T = true) (p : Pkt) (s : State) (h1 : Within T orig s) :
    Within T orig (wrAck p s) := by
  unfold wrAck
  try dsimp only
  with_reducible repeat' first
    | (intro _) | assumption | (exact subP_trans (by decide) hT) | apply within_respond | apply withinRes_ok
    | apply withinRes_ue | split | dsimp only

theorem within_sendStep (T : List Part) (orig : State) (hT : subP [.od, .fab, .obs, .frz] T = true) (x : CollSt) (c :
    Nat) (k : Nat) (s : State) (h1 : Within T orig s) :
    Within T orig (sendStep x c k s) := by
  unfold sendStep
  try dsimp only
  with_reducible repeat' first
    | (intro _) | assumption | (exact subP_trans (by decide) hT) | apply within_inject | apply within_trace
    | apply within_ite | apply within_foldl | split | dsimp only

theorem within_advanceChunk (T : List Part) (orig : State) (hT : subP [.od, .fab, .obs, .frz] T = true) (c : Nat) (a1
    : Nat) (a2 : CollSt) (s : State) (h1 : Within T orig s) :
    Within T orig (advanceChunk c a1 a2 s).2 := by
  induction a1 generalizing a2 s with
  | zero => exact h1
  | succ n ih =>
    unfold advanceChunk
    dsimp only
    split
    · exact h1
    · apply ih
      with_reducible repeat' first
        | (intro _) | assumption | (exact subP_trans (by decide) hT) | apply within_sendStep | apply within_ite
        | apply within_snd_ite | (apply withinPair_of; assumption) | split | apply_assumption | dsimp only

theorem within_advanceAll (T : List Part) (orig : State) (hT : subP [.od, .fab, .obs, .frz] T = true) (a0 : Nat) (a1 :
    CollSt) (s : State) (h1 : Within T orig s) :
    Within T orig (advanceAll a0 a1 s).2 := by
  revert h1
  fun_induction advanceAll a0 a1 s <;> intro h1
  all_goals (try dsimp only)
  with_reducible repeat' first
    | (intro _) | assumption | (exact subP_trans (by decide) hT) | apply within_advanceChunk
    | (apply withinPair_of; assumption) | split | apply_assumption | dsimp only

theorem within_dropColl (T : List Part) (orig : State) (hT : subP [.rem] T = true) (x : CollSt) (s : State) (h1 :
    Within T orig s) :
    Within T orig (dropColl x s) := by
  unfold dropColl
  try dsimp only
  with_reducible repeat' first
    | (intro _) | assumption | (exact subP_trans (by decide) hT) | split | dsimp only | apply within_set_rem

theorem within_endColl (T : List Part) (orig : State) (hT : subP [.freeCtr, .mem, .graphs, .cmds, .rem] T = true) (x :
    CollSt) (code : Nat) (s : State) (h1 : Within T orig s) :
    Within T orig (endColl x code s) := by
  unfold endColl
  try dsimp only
  with_reducible repeat' first
    | (intro _) | assumption | (exact subP_trans (by decide) hT) | apply within_progress | apply within_dropColl
    | apply within_undefine | apply within_finish | apply within_ite | apply within_foldl | split | dsimp only

theorem within_setColl (T : List Part) (orig : State) (hT : subP [.rem] T = true) (x : CollSt) (s : State) (h1 :
    Within T orig s) :
    Within T orig (setColl x s) := by
  unfold setColl
  try dsimp only
  with_reducible repeat' first
    | (intro _) | assumption | (exact subP_trans (by decide) hT) | apply within_ite | split | dsimp only
    | apply within_set_rem

theorem within_finishColl (T : List Part) (orig : State) (hT : subP [.od, .out, .freeCtr, .mem, .ecc, .graphs, .cmds,
    .rem, .obs, .log, .frz, .can] T = true) (x : CollSt) (s : State) (h1 : Within T orig s) :
    Within T orig (finishColl x s) := by
  unfold finishColl
  try dsimp only
  with_reducible repeat' first
    | (intro _) | assumption | (exact subP_trans (by decide) hT) | apply within_writeMod | apply within_endColl
    | apply within_ueRecord | apply within_setColl | apply within_ite | (apply withinRes_of; assumption)
    | (apply withinRes_ofUe; assumption) | split | dsimp only

theorem within_advance (T : List Part) (orig : State) (hT : subP [.od, .out, .freeCtr, .mem, .ecc, .graphs, .cmds,
    .fab, .rem, .obs, .log, .frz, .can] T = true) (x : CollSt) (s : State) (h1 : Within T orig s) :
    Within T orig (advance x s) := by
  unfold advance
  try dsimp only
  with_reducible repeat' first
    | (intro _) | assumption | (exact subP_trans (by decide) hT) | apply within_advanceAll | apply within_finishColl
    | (apply withinPair_of; assumption) | split | dsimp only

theorem within_collPacket (T : List Part) (orig : State) (hT : subP [.od, .out, .freeCtr, .mem, .ecc, .graphs, .cmds,
    .fab, .rem, .obs, .log, .frz, .can] T = true) (x : CollSt) (p : Pkt) (s : State) (h1 : Within T orig s) :
    Within T orig (collPacket x p s) := by
  unfold collPacket
  try dsimp only
  with_reducible repeat' first
    | (intro _) | assumption | (exact subP_trans (by decide) hT) | apply within_endColl | apply within_ueRecord
    | apply within_advance | apply within_ite | split | dsimp only

theorem within_collStep (T : List Part) (orig : State) (hT : subP [.od, .out, .freeCtr, .mem, .ecc, .graphs, .cmds,
    .fab, .rem, .obs, .log, .frz, .can] T = true) (s : State) (h1 : Within T orig s) :
    Within T orig (collStep s) := by
  unfold collStep
  try dsimp only
  with_reducible repeat' first
    | (intro _) | assumption | (exact subP_trans (by decide) hT) | apply within_takeEjected | apply within_notice
    | apply within_collPacket | apply within_ite | (apply withinAns_of; assumption) | split | dsimp only
    | apply within_set_rem

theorem within_collTimeout (T : List Part) (orig : State) (hT : subP [.freeCtr, .mem, .graphs, .cmds, .rem] T = true)
    (id : Nat) (mask : Nat) (s : State) (h1 : Within T orig s) :
    Within T orig (collTimeout id mask s) := by
  unfold collTimeout
  try dsimp only
  with_reducible repeat' first
    | (intro _) | assumption | (exact subP_trans (by decide) hT) | apply within_endColl | split | dsimp only

theorem within_takeEarly (T : List Part) (orig : State) (hT : subP [.od, .out, .freeCtr, .mem, .ecc, .graphs, .cmds,
    .fab, .rem, .obs, .log, .frz, .can] T = true) (id : Nat) (mask : Nat) (a2 : List Pkt) (s : State) (h1 : Within T
    orig s) :
    Within T orig (takeEarly id mask a2 s) := by
  revert h1
  fun_induction takeEarly id mask a2 s <;> intro h1
  all_goals (try dsimp only)
  with_reducible repeat' first
    | (intro _) | assumption | (exact subP_trans (by decide) hT) | apply within_collPacket | apply within_ite | split
    | apply_assumption | dsimp only | apply within_set_rem

theorem within_startColl (T : List Part) (orig : State) (hT : subP [.od, .out, .freeCtr, .mem, .ecc, .graphs, .cmds,
    .fab, .rem, .obs, .log, .frz, .can] T = true) (ring : Nat) (idx : Nat) (c : EvCmd) (d : List Byte) (s : State) (h1
    : Within T orig s) :
    Within T orig (startColl ring idx c d s) := by
  unfold startColl
  try dsimp only
  with_reducible repeat' first
    | (intro _) | assumption | (exact subP_trans (by decide) hT) | apply within_readMod | apply within_finish
    | apply within_ueRecord | apply within_sendStep | apply within_advance | apply within_takeEarly
    | (apply withinRes_of; assumption) | (apply withinRes_ofUe; assumption) | apply within_foldl | split | dsimp only
    | apply within_set_rem

theorem within_discardIn (T : List Part) (orig : State) (hT : subP [.od, .out, .freeCtr, .mem, .ecc, .tiles, .graphs,
    .cmds, .fab, .rem, .obs, .log, .frz, .can] T = true) (p : Pkt) (s : State) (h1 : Within T orig s) :
    Within T orig (discardIn p s) := by
  unfold discardIn
  try dsimp only
  with_reducible repeat' first
    | (intro _) | assumption | (exact subP_trans (by decide) hT) | apply within_endColl | apply within_respond
    | apply within_ite | apply withinRes_ite | apply withinRes_ok | apply withinRes_ue | split | dsimp only

theorem within_setPaceHeld (T : List Part) (orig : State) (hT : subP [.od, .rem] T = true) (l : List PaceSt) (s :
    State) (h1 : Within T orig s) :
    Within T orig (setPaceHeld l s) := by
  unfold setPaceHeld
  try dsimp only
  with_reducible repeat' first
    | (intro _) | assumption | (exact subP_trans (by decide) hT) | apply within_odSet | split | dsimp only
    | apply within_set_rem

theorem within_paceExpiry (T : List Part) (orig : State) (hT : subP [.od, .rem] T = true) (origin : Nat) (s : State)
    (h1 : Within T orig s) :
    Within T orig (paceExpiry origin s) := by
  unfold paceExpiry
  try dsimp only
  with_reducible repeat' first
    | (intro _) | assumption | (exact subP_trans (by decide) hT) | apply within_setPaceHeld | split | dsimp only

theorem within_sendPace (T : List Part) (orig : State) (hT : subP [.fab] T = true) (operand : Nat) (js : List Nat) (s
    : State) (h1 : Within T orig s) :
    Within T orig (sendPace operand js s) := by
  unfold sendPace
  try dsimp only
  with_reducible repeat' first
    | (intro _) | assumption | (exact subP_trans (by decide) hT) | apply within_inject | apply within_foldl | split
    | dsimp only

theorem within_paceIn (T : List Part) (orig : State) (hT : subP [.od, .fab, .rem, .obs, .frz] T = true) (p : Pkt) (s :
    State) (h1 : Within T orig s) :
    Within T orig (paceIn p s) := by
  unfold paceIn
  try dsimp only
  with_reducible repeat' first
    | (intro _) | assumption | (exact subP_trans (by decide) hT) | apply within_setPaceHeld | apply within_trace
    | apply within_odAdd32 | apply within_sendPace | apply within_ite | split | dsimp only | apply within_set_rem

theorem within_paceSend (T : List Part) (orig : State) (hT : subP [.od, .fab, .rem, .obs, .frz] T = true) (s : State)
    (h1 : Within T orig s) :
    Within T orig (paceSend s) := by
  unfold paceSend
  try dsimp only
  with_reducible repeat' first
    | (intro _) | assumption | (exact subP_trans (by decide) hT) | apply within_sendPace | apply within_trace
    | apply within_ite | apply within_foldl | split | dsimp only | apply within_set_rem

theorem within_setRing (T : List Part) (orig : State) (hT : subP [.hst] T = true) (r : Nat) (g : RingSt) (s : State)
    (h1 : Within T orig s) :
    Within T orig (setRing r g s) := by
  unfold setRing
  try dsimp only
  with_reducible repeat' first
    | (intro _) | assumption | (exact subP_trans (by decide) hT) | split | dsimp only | apply within_set_hst

theorem within_hostSend (T : List Part) (orig : State) (hT : subP [.od, .out] T = true) (ro : Bool) (a : Nat) (bs :
    List Byte) (s : State) (h1 : Within T orig s) :
    Within T orig (hostSend ro a bs s) := by
  unfold hostSend
  try dsimp only
  with_reducible repeat' first
    | (intro _) | assumption | (exact subP_trans (by decide) hT) | apply within_pcieCount | apply within_emit
    | apply within_foldl | split | dsimp only

theorem within_hostWrite (T : List Part) (orig : State) (hT : subP [.od, .out] T = true) (a : Nat) (bs : List Byte) (s
    : State) (h1 : Within T orig s) :
    Within T orig (hostWrite a bs s) := by
  unfold hostWrite
  try dsimp only
  with_reducible repeat' first
    | (intro _) | assumption | (exact subP_trans (by decide) hT) | apply within_hostSend | split | dsimp only

theorem within_setCq (T : List Part) (orig : State) (hT : subP [.hst] T = true) (c : Nat) (a1 : CqSt) (s : State) (h1
    : Within T orig s) :
    Within T orig (setCq c a1 s) := by
  unfold setCq
  try dsimp only
  with_reducible repeat' first
    | (intro _) | assumption | (exact subP_trans (by decide) hT) | split | dsimp only | apply within_set_hst

theorem within_setCmd (T : List Part) (orig : State) (hT : subP [.cmds] T = true) (c : CmdEnt) (s : State) (h1 :
    Within T orig s) :
    Within T orig (setCmd c s) := by
  unfold setCmd
  try dsimp only
  with_reducible repeat' first
    | (intro _) | assumption | (exact subP_trans (by decide) hT) | apply within_ite | split | dsimp only
    | apply within_set_cmds

theorem within_beginCmd (T : List Part) (orig : State) (hT : subP [.cmds] T = true) (op : Nat) (ring : Nat) (idx :
    Nat) (f : CmdEnt → State → State) (s : State) (hf : ∀ x0 x1, Within T orig x1 → Within T orig (f x0 x1)) (h1 :
    Within T orig s) :
    Within T orig (beginCmd op ring idx f s) := by
  unfold beginCmd
  try dsimp only
  with_reducible repeat' first
    | (intro _) | assumption | (exact subP_trans (by decide) hT) | apply within_setCmd | apply within_ite | split
    | apply_assumption | dsimp only

theorem within_failCmd (T : List Part) (orig : State) (hT : subP [.cmds] T = true) (c : CmdEnt) (code : Nat) (off :
    Nat) (s : State) (h1 : Within T orig s) :
    Within T orig (failCmd c code off s) := by
  unfold failCmd
  try dsimp only
  with_reducible repeat' first
    | (intro _) | assumption | (exact subP_trans (by decide) hT) | apply within_finish | apply within_ite | split
    | dsimp only

theorem within_notePoison (T : List Part) (orig : State) (hT : subP [.od, .hst] T = true) (r : HostRead) (s : State)
    (h1 : Within T orig s) :
    Within T orig (notePoison r s) := by
  unfold notePoison
  try dsimp only
  with_reducible repeat' first
    | (intro _) | assumption | (exact subP_trans (by decide) hT) | apply within_odAdd | apply within_ite | split
    | dsimp only | apply within_set_hst

theorem within_hostAsk (T : List Part) (orig : State) (hT : subP [.od, .out] T = true) (a : Nat) (n : Nat) (s : State)
    (h1 : Within T orig s) :
    Within T orig (hostAsk a n s) := by
  unfold hostAsk
  try dsimp only
  with_reducible repeat' first
    | (intro _) | assumption | (exact subP_trans (by decide) hT) | apply within_pcieCount | apply within_emit
    | apply within_foldl | split | dsimp only

theorem within_setCtx (T : List Part) (orig : State) (hT : subP [.hst] T = true) (x : Nat) (c : CtxSt) (s : State) (h1
    : Within T orig s) :
    Within T orig (setCtx x c s) := by
  unfold setCtx
  try dsimp only
  with_reducible repeat' first
    | (intro _) | assumption | (exact subP_trans (by decide) hT) | split | dsimp only | apply within_set_hst

theorem within_stopRing (T : List Part) (orig : State) (hT : subP [.hst] T = true) (r : Nat) (code : Nat) (s : State)
    (h1 : Within T orig s) :
    Within T orig (stopRing r code s) := by
  unfold stopRing
  try dsimp only
  with_reducible repeat' first
    | (intro _) | assumption | (exact subP_trans (by decide) hT) | apply within_setRing | apply within_ite | split
    | dsimp only

theorem within_exhaust (T : List Part) (orig : State) (hT : subP [.hst] T = true) (x : Nat) (inward : Bool) (s :
    State) (h1 : Within T orig s) :
    Within T orig (exhaust x inward s) := by
  unfold exhaust
  try dsimp only
  with_reducible repeat' first
    | (intro _) | assumption | (exact subP_trans (by decide) hT) | apply within_setCtx | apply within_stopRing
    | apply within_ite | apply within_foldl | split | dsimp only | apply within_set_hst

theorem within_ctxUse (T : List Part) (orig : State) (hT : subP [.hst] T = true) (x : Nat) (inward : Bool) (n : Nat)
    (s : State) (h1 : Within T orig s) :
    Within T orig (ctxUse x inward n s) := by
  unfold ctxUse
  try dsimp only
  with_reducible repeat' first
    | (intro _) | assumption | (exact subP_trans (by decide) hT) | apply within_exhaust | apply within_setCtx
    | apply within_ite | split | dsimp only

theorem within_ctxFail (T : List Part) (orig : State) (hT : subP [.hst] T = true) (x : Nat) (s : State) (h1 : Within T
    orig s) :
    Within T orig (ctxFail x s) := by
  unfold ctxFail
  try dsimp only
  with_reducible repeat' first
    | (intro _) | assumption | (exact subP_trans (by decide) hT) | apply within_setCtx | split | dsimp only

theorem within_ctxEnd (T : List Part) (orig : State) (hT : subP [.hst] T = true) (x : Nat) (inward : Bool) (s : State)
    (h1 : Within T orig s) :
    Within T orig (ctxEnd x inward s) := by
  unfold ctxEnd
  try dsimp only
  with_reducible repeat' first
    | (intro _) | assumption | (exact subP_trans (by decide) hT) | apply within_exhaust | apply within_ite | split
    | dsimp only

theorem within_hostFetch (T : List Part) (orig : State) (hT : subP [.od, .out, .hst] T = true) (c : CmdEnt) (x : Nat)
    (a : Nat) (off : Nat) (tagA : Nat) (n : Nat) (h : HostIn) (s : State) (h1 : Within T orig s) :
    Within T orig (hostFetch c x a off tagA n h s).2 := by
  unfold hostFetch
  try dsimp only
  with_reducible repeat' first
    | (intro _) | assumption | (exact subP_trans (by decide) hT) | apply within_notePoison | apply within_hostAsk
    | apply within_ctxUse | apply within_ctxFail | apply within_ctxEnd | apply within_ite | apply within_snd_ite
    | (apply withinPair_of; assumption) | split | dsimp only

theorem within_okCmd (T : List Part) (orig : State) (hT : subP [.cmds] T = true) (c : CmdEnt) (result : Nat) (s :
    State) (h1 : Within T orig s) :
    Within T orig (okCmd c result s) := by
  unfold okCmd
  try dsimp only
  with_reducible repeat' first
    | (intro _) | assumption | (exact subP_trans (by decide) hT) | apply within_finish | split | dsimp only

theorem within_bufsetDefine (T : List Part) (orig : State) (hT : subP [.od, .out, .cmds, .hst] T = true) (h : HostIn)
    (c : CmdEnt) (s : State) (h1 : Within T orig s) :
    Within T orig (bufsetDefine h c s) := by
  unfold bufsetDefine
  try dsimp only
  with_reducible repeat' first
    | (intro _) | assumption | (exact subP_trans (by decide) hT) | apply within_failCmd | apply within_hostFetch
    | apply within_okCmd | apply within_setCmd | apply within_ite | (apply withinPair_of; assumption) | split
    | dsimp only

theorem within_collective (T : List Part) (orig : State) (hT : subP [.od, .out, .freeCtr, .mem, .ecc, .graphs, .cmds,
    .fab, .rem, .obs, .log, .frz, .can] T = true) (c : CmdEnt) (s : State) (h1 : Within T orig s) :
    Within T orig (collective c s) := by
  unfold collective
  try dsimp only
  with_reducible repeat' first
    | (intro _) | assumption | (exact subP_trans (by decide) hT) | apply within_failCmd | apply within_startColl
    | split | dsimp only

theorem within_ctxIndex (T : List Part) (orig : State) (hT : subP [.hst] T = true) (x : Nat) (who : Nat) (inward :
    Bool) (s : State) (h1 : Within T orig s) :
    Within T orig (ctxIndex x who inward s) := by
  unfold ctxIndex
  try dsimp only
  with_reducible repeat' first
    | (intro _) | assumption | (exact subP_trans (by decide) hT) | apply within_ctxUse | apply within_setCtx | split
    | dsimp only

theorem within_commandStart (T : List Part) (orig : State) (hT : subP [.cmds] T = true) (ring : Nat) (s : State) (h1 :
    Within T orig s) :
    Within T orig (commandStart ring s) := by
  unfold commandStart
  try dsimp only
  with_reducible repeat' first
    | (intro _) | assumption | (exact subP_trans (by decide) hT) | apply within_failCmd | apply within_setCmd
    | apply within_ite | split | dsimp only

theorem within_copyFail (T : List Part) (orig : State) (hT : subP [.od, .freeCtr, .mem, .ecc, .cmds, .obs, .log, .frz]
    T = true) (c : CmdEnt) (b : Buf) (off : Nat) (n : Nat) (code : Nat) (head : List Byte) (s : State) (h1 : Within T
    orig s) :
    Within T orig (copyFail c b off n code head s) := by
  unfold copyFail
  try dsimp only
  with_reducible repeat' first
    | (intro _) | assumption | (exact subP_trans (by decide) hT) | apply within_failCmd | apply within_writeMod
    | apply within_undefine | apply within_ite | (apply withinRes_of; assumption) | (apply withinRes_ofUe; assumption)
    | split | dsimp only

theorem within_hostData (T : List Part) (orig : State) (hT : subP [.od, .out] T = true) (a : Nat) (bs : List Byte) (s
    : State) (h1 : Within T orig s) :
    Within T orig (hostData a bs s) := by
  unfold hostData
  try dsimp only
  with_reducible repeat' first
    | (intro _) | assumption | (exact subP_trans (by decide) hT) | apply within_hostSend | split | dsimp only

theorem within_sealBlock (T : List Part) (orig : State) (hT : subP [.od, .out] T = true) (c : CmdEnt) (b : Buf) (off :
    Nat) (i : Nat) (bs : List Byte) (s : State) (h1 : Within T orig s) :
    Within T orig (sealBlock c b off i bs s) := by
  unfold sealBlock
  try dsimp only
  with_reducible repeat' first
    | (intro _) | assumption | (exact subP_trans (by decide) hT) | apply within_hostWrite | apply within_hostData
    | split | dsimp only

theorem within_sealBlocks (T : List Part) (orig : State) (hT : subP [.od, .out] T = true) (c : CmdEnt) (b : Buf) (off
    : Nat) (a3 : Nat) (a4 : Nat) (a5 : List Byte) (s : State) (h1 : Within T orig s) :
    Within T orig (sealBlocks c b off a3 a4 a5 s) := by
  revert h1
  fun_induction sealBlocks c b off a3 a4 a5 s <;> intro h1
  all_goals (try dsimp only)
  with_reducible repeat' first
    | (intro _) | assumption | (exact subP_trans (by decide) hT) | apply within_sealBlock | split | apply_assumption
    | dsimp only

theorem within_copyOut (T : List Part) (orig : State) (hT : subP [.od, .out, .freeCtr, .mem, .ecc, .cmds, .hst, .obs,
    .log, .frz, .can] T = true) (c : CmdEnt) (b : Buf) (off : Nat) (bs : List Byte) (s : State) (h1 : Within T orig s)
    :
    Within T orig (copyOut c b off bs s) := by
  unfold copyOut
  try dsimp only
  with_reducible repeat' first
    | (intro _) | assumption | (exact subP_trans (by decide) hT) | apply within_ctxUse | apply within_sealBlocks
    | apply within_failCmd | apply within_ctxEnd | apply within_okCmd | apply within_hostData | apply within_writeMod
    | apply within_copyFail | apply within_ueRecord | apply within_ite | (apply withinRes_of; assumption)
    | (apply withinRes_ofUe; assumption) | split | dsimp only

theorem within_fetchData (T : List Part) (orig : State) (hT : subP [.od, .out, .ecc, .hst, .obs, .log, .frz, .can] T =
    true) (c : CmdEnt) (b : Buf) (off : Nat) (n : Nat) (h : HostIn) (s : State) (h1 : Within T orig s) :
    Within T orig (fetchData c b off n h s).2 := by
  unfold fetchData
  try dsimp only
  with_reducible repeat' first
    | (intro _) | assumption | (exact subP_trans (by decide) hT) | apply within_hostFetch | apply within_readMod
    | apply within_ueRecord | apply within_ite | apply within_snd_ite | (apply withinRes_of; assumption)
    | (apply withinRes_ofUe; assumption) | (apply withinPair_of; assumption) | split | dsimp only

theorem within_dmaCopy (T : List Part) (orig : State) (hT : subP [.od, .out, .freeCtr, .mem, .ecc, .cmds, .hst, .obs,
    .log, .frz, .can] T = true) (h : HostIn) (c : CmdEnt) (s : State) (h1 : Within T orig s) :
    Within T orig (dmaCopy h c s) := by
  unfold dmaCopy
  try dsimp only
  with_reducible repeat' first
    | (intro _) | assumption | (exact subP_trans (by decide) hT) | apply within_failCmd | apply within_fetchData
    | apply within_copyFail | apply within_copyOut | (apply withinPair_of; assumption) | split | dsimp only

theorem within_remoteOp (T : List Part) (orig : State) (hT : subP [.od, .out, .freeCtr, .mem, .ecc, .tiles, .graphs,
    .cmds, .fab, .rem, .obs, .log, .frz, .can] T = true) (c : CmdEnt) (s : State) (h1 : Within T orig s) :
    Within T orig (remoteOp c s) := by
  unfold remoteOp
  try dsimp only
  with_reducible repeat' first
    | (intro _) | assumption | (exact subP_trans (by decide) hT) | apply within_setCmd | apply within_failCmd
    | apply within_startRob | apply within_trace | apply within_ite | split | dsimp only

theorem within_tableData (T : List Part) (orig : State) (hT : subP [.od, .out, .ecc, .hst, .obs, .log, .frz, .can] T =
    true) (hi : Nat) (h : HostIn) (c : CmdEnt) (s : State) (h1 : Within T orig s) :
    Within T orig (tableData hi h c s).2 := by
  unfold tableData
  try dsimp only
  with_reducible repeat' first
    | (intro _) | assumption | (exact subP_trans (by decide) hT) | apply within_fetchData | apply within_ite
    | apply within_snd_ite | (apply withinPair_of; assumption) | split | dsimp only

theorem within_shardMapLoad (T : List Part) (orig : State) (hT : subP [.od, .out, .ecc, .cmds, .hst, .rem, .obs, .log,
    .frz, .can] T = true) (h : HostIn) (c : CmdEnt) (s : State) (h1 : Within T orig s) :
    Within T orig (shardMapLoad h c s) := by
  unfold shardMapLoad
  try dsimp only
  with_reducible repeat' first
    | (intro _) | assumption | (exact subP_trans (by decide) hT) | apply within_tableData | apply within_failCmd
    | apply within_okCmd | (apply withinPair_of; assumption) | split | dsimp only | apply within_set_rem

theorem within_windowsLoad (T : List Part) (orig : State) (hT : subP [.od, .out, .ecc, .cmds, .hst, .rem, .obs, .log,
    .frz, .can] T = true) (h : HostIn) (c : CmdEnt) (s : State) (h1 : Within T orig s) :
    Within T orig (windowsLoad h c s) := by
  unfold windowsLoad
  try dsimp only
  with_reducible repeat' first
    | (intro _) | assumption | (exact subP_trans (by decide) hT) | apply within_tableData | apply within_failCmd
    | apply within_okCmd | apply within_ite | (apply withinPair_of; assumption) | split | dsimp only
    | apply within_set_rem

theorem within_beginLoad (T : List Part) (orig : State) (hT : subP [.tiles, .graphs] T = true) (c : CmdEnt) (img :
    List Byte) (secs : List (Nat × List Byte)) (s : State) (h1 : Within T orig s) :
    Within T orig (beginLoad c img secs s) := by
  unfold beginLoad
  try dsimp only
  with_reducible repeat' first
    | (intro _) | assumption | (exact subP_trans (by decide) hT) | apply within_setTile | apply within_foldl | split
    | dsimp only | apply within_set_graphs

theorem within_forceUnload (T : List Part) (orig : State) (hT : subP [.od, .freeCtr, .mem, .ecc, .tiles, .mesh,
    .graphs, .cmds, .rem, .flt, .meas, .obs, .log, .frz] T = true) (h : Nat) (g : GraphSt) (c : CmdEnt) (s : State)
    (h1 : Within T orig s) :
    Within T orig (forceUnload h g c s) := by
  unfold forceUnload
  try dsimp only
  with_reducible repeat' first
    | (intro _) | assumption | (exact subP_trans (by decide) hT) | apply within_stopGraph | apply within_finish
    | apply within_unloadNow | apply within_ite | split | dsimp only

theorem within_graphLoad (T : List Part) (orig : State) (hT : subP [.od, .out, .ecc, .tiles, .graphs, .cmds, .hst,
    .obs, .log, .frz, .can] T = true) (hin : HostIn) (c : CmdEnt) (s : State) (h1 : Within T orig s) :
    Within T orig (graphLoad hin c s) := by
  unfold graphLoad
  try dsimp only
  with_reducible repeat' first
    | (intro _) | assumption | (exact subP_trans (by decide) hT) | apply within_failCmd | apply within_fetchData
    | apply within_beginLoad | apply within_ite | (apply withinPair_of; assumption) | split | dsimp only

theorem within_graphStart (T : List Part) (orig : State) (hT : subP [.od, .tiles, .graphs, .cmds, .obs, .frz] T =
    true) (c : CmdEnt) (s : State) (h1 : Within T orig s) :
    Within T orig (graphStart c s) := by
  unfold graphStart
  try dsimp only
  with_reducible repeat' first
    | (intro _) | assumption | (exact subP_trans (by decide) hT) | apply within_failCmd | apply within_modGraph
    | apply within_trace | apply within_feedStarts | apply within_ite | split | dsimp only

theorem within_graphUnload (T : List Part) (orig : State) (hT : subP [.od, .freeCtr, .mem, .ecc, .tiles, .mesh,
    .graphs, .cmds, .rem, .flt, .meas, .obs, .log, .frz] T = true) (c : CmdEnt) (s : State) (h1 : Within T orig s) :
    Within T orig (graphUnload c s) := by
  unfold graphUnload
  try dsimp only
  with_reducible repeat' first
    | (intro _) | assumption | (exact subP_trans (by decide) hT) | apply within_setCmd | apply within_failCmd
    | apply within_forceUnload | apply within_unloadNow | apply within_modGraph | apply within_ite | split
    | dsimp only

theorem within_startGraph (T : List Part) (orig : State) (hT : subP [.od, .tiles, .graphs, .cmds, .obs, .frz] T =
    true) (c : CmdEnt) (s : State) (h1 : Within T orig s) :
    Within T orig (startGraph c s) := by
  unfold startGraph
  try dsimp only
  with_reducible repeat' first
    | (intro _) | assumption | (exact subP_trans (by decide) hT) | apply within_setCmd | apply within_graphStart
    | apply within_ite | split | dsimp only

theorem within_linkDown (T : List Part) (orig : State) (hT : subP [.od, .hst] T = true) (s : State) (h1 : Within T
    orig s) :
    Within T orig (linkDown s) := by
  unfold linkDown
  try dsimp only
  with_reducible repeat' first
    | (intro _) | assumption | (exact subP_trans (by decide) hT) | apply within_odSet | split | dsimp only
    | apply within_set_hst

theorem within_dropHostWork (T : List Part) (orig : State) (hT : subP [.freeCtr, .mem, .rem] T = true) (s : State) (h1
    : Within T orig s) :
    Within T orig (dropHostWork s) := by
  unfold dropHostWork
  try dsimp only
  with_reducible repeat' first
    | (intro _) | assumption | (exact subP_trans (by decide) hT) | apply within_undefineAll | apply within_ite | split
    | dsimp only | apply within_set_rem

theorem within_dropGraphWork (T : List Part) (orig : State) (hT : subP [.od, .freeCtr, .mem, .ecc, .tiles, .mesh,
    .graphs, .cmds, .rem, .flt, .obs, .log, .frz] T = true) (h : Nat) (s : State) (h1 : Within T orig s) :
    Within T orig (dropGraphWork h s) := by
  unfold dropGraphWork
  try dsimp only
  with_reducible repeat' first
    | (intro _) | assumption | (exact subP_trans (by decide) hT) | apply within_freeGraph | apply within_modGraph
    | apply within_stopGraph | apply within_ite | split | dsimp only

theorem within_hostReset (T : List Part) (orig : State) (hT : subP [.od, .freeCtr, .mem, .ecc, .tiles, .mesh, .graphs,
    .cmds, .hst, .rem, .flt, .obs, .log, .frz] T = true) (s : State) (h1 : Within T orig s) :
    Within T orig (hostReset s) := by
  unfold hostReset
  try dsimp only
  with_reducible repeat' first
    | (intro _) | assumption | (exact subP_trans (by decide) hT) | apply within_dropHostWork
    | apply within_dropGraphWork | apply within_foldl | split | dsimp only | apply within_set_cmds
    | apply within_set_hst

theorem within_ringEnable (T : List Part) (orig : State) (hT : subP [.od, .out, .hst] T = true) (r : Nat) (s : State)
    (h1 : Within T orig s) :
    Within T orig (ringEnable r s) := by
  unfold ringEnable
  try dsimp only
  with_reducible repeat' first
    | (intro _) | assumption | (exact subP_trans (by decide) hT) | apply within_setRing | apply within_hostWrite
    | apply within_ite | split | dsimp only

theorem within_drained (T : List Part) (orig : State) (hT : subP [.hst] T = true) (r : Nat) (s : State) (h1 : Within T
    orig s) :
    Within T orig (drained r s) := by
  unfold drained
  try dsimp only
  with_reducible repeat' first
    | (intro _) | assumption | (exact subP_trans (by decide) hT) | apply within_setRing | apply within_ite | split
    | dsimp only

theorem within_wRingCtl (T : List Part) (orig : State) (hT : subP [.od, .out, .hst] T = true) (r : Nat) (v : Nat) (s :
    State) (h1 : Within T orig s) :
    Within T orig (wRingCtl r v s) := by
  unfold wRingCtl
  try dsimp only
  with_reducible repeat' first
    | (intro _) | assumption | (exact subP_trans (by decide) hT) | apply within_setRing | apply within_ringEnable
    | apply within_drained | apply within_ite | split | dsimp only

theorem within_cqEnable (T : List Part) (orig : State) (hT : subP [.hst] T = true) (c : Nat) (s : State) (h1 : Within
    T orig s) :
    Within T orig (cqEnable c s) := by
  unfold cqEnable
  try dsimp only
  with_reducible repeat' first
    | (intro _) | assumption | (exact subP_trans (by decide) hT) | apply within_setCq | apply within_ite | split
    | dsimp only

theorem within_wCqCtl (T : List Part) (orig : State) (hT : subP [.hst] T = true) (c : Nat) (v : Nat) (s : State) (h1 :
    Within T orig s) :
    Within T orig (wCqCtl c v s) := by
  unfold wCqCtl
  try dsimp only
  with_reducible repeat' first
    | (intro _) | assumption | (exact subP_trans (by decide) hT) | apply within_setCq | apply within_cqEnable
    | apply within_ite | split | dsimp only

theorem within_setMsix (T : List Part) (orig : State) (hT : subP [.hst] T = true) (v : Nat) (m : MsixSt) (s : State)
    (h1 : Within T orig s) :
    Within T orig (setMsix v m s) := by
  unfold setMsix
  try dsimp only
  with_reducible repeat' first
    | (intro _) | assumption | (exact subP_trans (by decide) hT) | split | dsimp only | apply within_set_hst

theorem within_sendMsix (T : List Part) (orig : State) (hT : subP [.od, .out, .hst] T = true) (v : Nat) (s : State)
    (h1 : Within T orig s) :
    Within T orig (sendMsix v s) := by
  unfold sendMsix
  try dsimp only
  with_reducible repeat' first
    | (intro _) | assumption | (exact subP_trans (by decide) hT) | apply within_setMsix | apply within_pcieCount
    | apply within_emit | apply within_ite | split | dsimp only

theorem within_flushMsix (T : List Part) (orig : State) (hT : subP [.od, .out, .hst] T = true) (s : State) (h1 :
    Within T orig s) :
    Within T orig (flushMsix s) := by
  unfold flushMsix
  try dsimp only
  with_reducible repeat' first
    | (intro _) | assumption | (exact subP_trans (by decide) hT) | apply within_sendMsix | apply within_setMsix
    | apply within_ite | apply within_foldl | split | dsimp only

theorem within_cqFire (T : List Part) (orig : State) (hT : subP [.od, .out, .hst] T = true) (c : Nat) (s : State) (h1
    : Within T orig s) :
    Within T orig (cqFire c s) := by
  unfold cqFire
  try dsimp only
  with_reducible repeat' first
    | (intro _) | assumption | (exact subP_trans (by decide) hT) | apply within_sendMsix | apply within_setCq | split
    | dsimp only

theorem within_coalExpiry (T : List Part) (orig : State) (hT : subP [.od, .out, .hst] T = true) (c : Nat) (s : State)
    (h1 : Within T orig s) :
    Within T orig (coalExpiry c s) := by
  unfold coalExpiry
  try dsimp only
  with_reducible repeat' first
    | (intro _) | assumption | (exact subP_trans (by decide) hT) | apply within_cqFire | apply within_ite | split
    | dsimp only

theorem within_cqSignal (T : List Part) (orig : State) (hT : subP [.od, .out, .hst] T = true) (c : Nat) (cpl : Bool)
    (s : State) (h1 : Within T orig s) :
    Within T orig (cqSignal c cpl s) := by
  unfold cqSignal
  try dsimp only
  with_reducible repeat' first
    | (intro _) | assumption | (exact subP_trans (by decide) hT) | apply within_cqFire | apply within_setCq
    | apply within_ite | split | dsimp only

theorem within_writeCpl (T : List Part) (orig : State) (hT : subP [.od, .out, .hst] T = true) (n : Nat) (c : CmdEnt)
    (r : CmdRes) (s : State) (h1 : Within T orig s) :
    Within T orig (writeCpl n c r s) := by
  unfold writeCpl
  try dsimp only
  with_reducible repeat' first
    | (intro _) | assumption | (exact subP_trans (by decide) hT) | apply within_exhaust | apply within_odAdd
    | apply within_hostWrite | apply within_cqSignal | apply within_setCq | apply within_ctxIndex | apply within_ite
    | split | dsimp only

theorem within_completeCmd (T : List Part) (orig : State) (hT : subP [.od, .out, .cmds, .hst] T = true) (c : CmdEnt)
    (r : CmdRes) (s : State) (h1 : Within T orig s) :
    Within T orig (completeCmd c r s) := by
  unfold completeCmd
  try dsimp only
  with_reducible repeat' first
    | (intro _) | assumption | (exact subP_trans (by decide) hT) | apply within_drained | apply within_writeCpl
    | apply within_ite | split | dsimp only | apply within_set_cmds_hst | apply within_set_cmds | apply within_set_hst

theorem within_completeAll (T : List Part) (orig : State) (hT : subP [.od, .out, .cmds, .hst] T = true) (a0 : List
    CmdEnt) (s : State) (h1 : Within T orig s) :
    Within T orig (completeAll a0 s) := by
  induction a0 generalizing s with
  | nil => exact h1
  | cons x r ih =>
    unfold completeAll
    apply ih
    with_reducible repeat' first
      | (intro _) | assumption | (exact subP_trans (by decide) hT) | apply within_completeCmd | split
      | apply_assumption | dsimp only

theorem within_commandComplete (T : List Part) (orig : State) (hT : subP [.od, .out, .cmds, .hst] T = true) (ring :
    Nat) (idx : Nat) (s : State) (h1 : Within T orig s) :
    Within T orig (commandComplete ring idx s) := by
  unfold commandComplete
  try dsimp only
  with_reducible repeat' first
    | (intro _) | assumption | (exact subP_trans (by decide) hT) | apply within_completeAll | apply within_ite | split
    | dsimp only

theorem within_readCons (T : List Part) (orig : State) (hT : subP [.od, .out, .hst] T = true) (c : Nat) (cons : Nat)
    (s : State) (h1 : Within T orig s) :
    Within T orig (readCons c cons s) := by
  unfold readCons
  try dsimp only
  with_reducible repeat' first
    | (intro _) | assumption | (exact subP_trans (by decide) hT) | apply within_setCq | apply within_hostAsk | split
    | dsimp only

theorem within_consRead (T : List Part) (orig : State) (hT : subP [.od, .out, .hst] T = true) (c : Nat) (rd :
    HostRead) (cons : Nat) (s : State) (h1 : Within T orig s) :
    Within T orig (consRead c rd cons s) := by
  unfold consRead
  try dsimp only
  with_reducible repeat' first
    | (intro _) | assumption | (exact subP_trans (by decide) hT) | apply within_readCons | apply within_notePoison
    | apply within_ite | split | dsimp only

theorem within_d0Return (T : List Part) (orig : State) (hT : subP [.od, .out, .cmds, .hst] T = true) (s : State) (h1 :
    Within T orig s) :
    Within T orig (d0Return s) := by
  unfold d0Return
  try dsimp only
  with_reducible repeat' first
    | (intro _) | assumption | (exact subP_trans (by decide) hT) | apply within_flushMsix | apply within_completeAll
    | apply within_ite | split | dsimp only | apply within_set_hst

theorem within_d3Entry (T : List Part) (orig : State) (hT : subP [.hst] T = true) (s : State) (h1 : Within T orig s) :
    Within T orig (d3Entry s) := by
  unfold d3Entry
  try dsimp only
  with_reducible repeat' first
    | (intro _) | assumption | (exact subP_trans (by decide) hT) | apply within_ite | split | dsimp only
    | apply within_set_hst

theorem within_fetchEntries (T : List Part) (orig : State) (hT : subP [.od, .cmds, .hst] T = true) (r : Nat) (a1 :
    List (List Byte)) (s : State) (h1 : Within T orig s) :
    Within T orig (fetchEntries r a1 s) := by
  induction a1 generalizing s with
  | nil => exact h1
  | cons e es ih =>
    unfold fetchEntries
    dsimp only
    split
    · with_reducible repeat' first
      | (intro _) | assumption | (exact subP_trans (by decide) hT) | apply within_stopRing | apply within_ctxEnd
      | apply within_ctxFail | apply within_odAdd | apply within_setRing | apply within_ctxIndex | apply within_ite
      | split | apply_assumption | dsimp only | apply within_set_cmds
    · split
      · with_reducible repeat' first
        | (intro _) | assumption | (exact subP_trans (by decide) hT) | apply within_stopRing | apply within_ctxEnd
        | apply within_ctxFail | apply within_odAdd | apply within_setRing | apply within_ctxIndex | apply within_ite
        | split | apply_assumption | dsimp only | apply within_set_cmds
      · split
        · with_reducible repeat' first
          | (intro _) | assumption | (exact subP_trans (by decide) hT) | apply within_stopRing | apply within_ctxEnd
          | apply within_ctxFail | apply within_odAdd | apply within_setRing | apply within_ctxIndex
          | apply within_ite | split | apply_assumption | dsimp only | apply within_set_cmds
        · apply ih
          split
          · apply within_ctxIndex _ _ (subP_trans (by decide) hT)
            apply within_set_cmds _ _ (subP_trans (by decide) hT)
            with_reducible repeat' first
              | (intro _) | assumption | (exact subP_trans (by decide) hT) | apply within_stopRing
              | apply within_ctxEnd | apply within_ctxFail | apply within_odAdd | apply within_setRing
              | apply within_ctxIndex | apply within_ite | split | apply_assumption | dsimp only
              | apply within_set_cmds
          · apply within_set_cmds _ _ (subP_trans (by decide) hT)
            with_reducible repeat' first
              | (intro _) | assumption | (exact subP_trans (by decide) hT) | apply within_stopRing
              | apply within_ctxEnd | apply within_ctxFail | apply within_odAdd | apply within_setRing
              | apply within_ctxIndex | apply within_ite | split | apply_assumption | dsimp only
              | apply within_set_cmds

theorem within_pcieDown (T : List Part) (orig : State) (hT : subP [.od, .freeCtr, .mem, .ecc, .tiles, .mesh, .graphs,
    .cmds, .hst, .rem, .flt, .obs, .log, .frz] T = true) (s : State) (h1 : Within T orig s) :
    Within T orig (pcieDown s) := by
  unfold pcieDown
  try dsimp only
  with_reducible repeat' first
    | (intro _) | assumption | (exact subP_trans (by decide) hT) | apply within_linkDown | apply within_hostReset
    | apply within_ite | split | dsimp only

theorem within_pcieUp (T : List Part) (orig : State) (hT : subP [.od, .hst] T = true) (speed : Nat) (width : Nat)
    (flit : Bool) (s : State) (h1 : Within T orig s) :
    Within T orig (pcieUp speed width flit s) := by
  unfold pcieUp
  try dsimp only
  with_reducible repeat' first
    | (intro _) | assumption | (exact subP_trans (by decide) hT) | apply within_odSet | apply within_ite | split
    | dsimp only | apply within_set_hst

theorem within_perst (T : List Part) (orig : State) (hT : subP [.od, .freeCtr, .mem, .ecc, .tiles, .mesh, .graphs,
    .cmds, .hst, .rem, .flt, .obs, .log, .frz, .mod] T = true) (n : Bool) (s : State) (h1 : Within T orig s) :
    Within T orig (perst n s) := by
  unfold perst
  try dsimp only
  with_reducible repeat' first
    | (intro _) | assumption | (exact subP_trans (by decide) hT) | apply within_linkDown | apply within_hostReset
    | apply within_ite | split | dsimp only | apply within_set_mod

theorem within_ringFetch (T : List Part) (orig : State) (hT : subP [.od, .out, .cmds, .hst] T = true) (r : Nat) (p :
    PollIn) (s : State) (h1 : Within T orig s) :
    Within T orig (ringFetch r p s) := by
  unfold ringFetch
  try dsimp only
  with_reducible repeat' first
    | (intro _) | assumption | (exact subP_trans (by decide) hT) | apply within_readCons | apply within_stopRing
    | apply within_notePoison | apply within_hostAsk | apply within_fetchEntries | apply within_hostWrite
    | apply within_ite | split | dsimp only

theorem within_ringPoll (T : List Part) (orig : State) (hT : subP [.od, .out, .cmds, .hst] T = true) (r : Nat) (p :
    PollIn) (s : State) (h1 : Within T orig s) :
    Within T orig (ringPoll r p s) := by
  unfold ringPoll
  try dsimp only
  with_reducible repeat' first
    | (intro _) | assumption | (exact subP_trans (by decide) hT) | apply within_odSet | apply within_odAdd
    | apply within_notePoison | apply within_hostAsk | apply within_stopRing | apply within_ringFetch
    | apply within_ite | split | dsimp only

end Sys2Proof.Machine
end

