-- ==== Sys2Proof/Laws/WithinPower.lean ====
section
/-! SUPPORT. The parts of the state that each operation may change: the envelope, stops, gains, profiles, observation and security. -/
namespace Sys2Proof.Machine
open Sys2Proof

theorem within_dropRaises (T : List Part) (orig : State) (hT : subP [.flt] T = true) (s : State) (h1 : Within T orig
    s) :
    Within T orig (dropRaises s) := by
  unfold dropRaises
  try dsimp only
  with_reducible repeat' first
    | (intro _) | assumption | (exact subP_trans (by decide) hT) | apply within_modFlt | split | dsimp only

theorem within_tookStep (T : List Part) (orig : State) (hT : subP [.flt] T = true) (d : Nat) (s0 : State) (s : State)
    (h1 : Within T orig s0) (h2 : Within T orig s) :
    Within T orig (tookStep d s0 s) := by
  unfold tookStep
  try dsimp only
  with_reducible repeat' first
    | (intro _) | assumption | (exact subP_trans (by decide) hT) | apply within_modFlt | apply within_ite | split
    | dsimp only

theorem within_lowerStep (T : List Part) (orig : State) (hT : subP [.od, .flt] T = true) (s0 : State) (h1 : Within T
    orig s0) :
    Within T orig (lowerStep s0) := by
  unfold lowerStep
  try dsimp only
  with_reducible repeat' first
    | (intro _) | assumption | (exact subP_trans (by decide) hT) | apply within_dropRaises | apply within_tookStep
    | apply within_queueStep | apply within_withdraw | apply within_ite | split | dsimp only

theorem within_raiseStep (T : List Part) (orig : State) (hT : subP [.od, .flt] T = true) (s : State) (h1 : Within T
    orig s) :
    Within T orig (raiseStep s) := by
  unfold raiseStep
  try dsimp only
  with_reducible repeat' first
    | (intro _) | assumption | (exact subP_trans (by decide) hT) | apply within_tookStep | apply within_queueStep
    | split | dsimp only

theorem within_paceStep (T : List Part) (orig : State) (hT : subP [.od, .flt] T = true) (d : Nat) (s : State) (h1 :
    Within T orig s) :
    Within T orig (paceStep d s) := by
  unfold paceStep
  try dsimp only
  with_reducible repeat' first
    | (intro _) | assumption | (exact subP_trans (by decide) hT) | apply within_queueStep | apply within_ite | split
    | dsimp only

theorem within_homeStep (T : List Part) (orig : State) (hT : subP [.od, .flt] T = true) (d : Nat) (s : State) (h1 :
    Within T orig s) :
    Within T orig (homeStep d s) := by
  unfold homeStep
  try dsimp only
  with_reducible repeat' first
    | (intro _) | assumption | (exact subP_trans (by decide) hT) | apply within_queueStep | apply within_ite | split
    | dsimp only

theorem within_holdStep (T : List Part) (orig : State) (hT : subP [.tiles, .flt] T = true) (d : Nat) (s : State) (h1 :
    Within T orig s) :
    Within T orig (holdStep d s) := by
  unfold holdStep
  try dsimp only
  with_reducible repeat' first
    | (intro _) | assumption | (exact subP_trans (by decide) hT) | apply within_useSlot | apply within_addProj
    | apply within_setTile | apply within_ite | split | dsimp only

theorem within_actStep (T : List Part) (orig : State) (hT : subP [.od, .tiles, .flt] T = true) (s : State) (h1 :
    Within T orig s) :
    Within T orig (actStep s) := by
  unfold actStep
  try dsimp only
  with_reducible repeat' first
    | (intro _) | assumption | (exact subP_trans (by decide) hT) | apply within_lowerStep | apply within_raiseStep
    | apply within_paceStep | apply within_homeStep | apply within_holdStep | apply within_ite | split | dsimp only

theorem within_setCapBit (T : List Part) (orig : State) (hT : subP [.od] T = true) (b : Nat) (v : Bool) (s : State)
    (h1 : Within T orig s) :
    Within T orig (setCapBit b v s) := by
  unfold setCapBit
  try dsimp only
  with_reducible repeat' first
    | (intro _) | assumption | (exact subP_trans (by decide) hT) | apply within_odBit | split | dsimp only

theorem within_brakePoints (T : List Part) (orig : State) (hT : subP [.od, .flt] T = true) (s : State) (h1 : Within T
    orig s) :
    Within T orig (brakePoints s) := by
  unfold brakePoints
  try dsimp only
  with_reducible repeat' first
    | (intro _) | assumption | (exact subP_trans (by decide) hT) | apply within_showVolt | apply within_showFreq
    | apply within_setPoint | split | dsimp only

theorem within_capCond (T : List Part) (orig : State) (hT : subP [.od, .out, .can] T = true) (v : Bool) (event : Nat)
    (s : State) (h1 : Within T orig s) :
    Within T orig (capCond v event s) := by
  unfold capCond
  try dsimp only
  with_reducible repeat' first
    | (intro _) | assumption | (exact subP_trans (by decide) hT) | apply within_emcyWhile | split | dsimp only

theorem within_limitStep (T : List Part) (orig : State) (hT : subP [.od, .flt] T = true) (s : State) (h1 : Within T
    orig s) :
    Within T orig (limitStep s) := by
  unfold limitStep
  try dsimp only
  with_reducible repeat' first
    | (intro _) | assumption | (exact subP_trans (by decide) hT) | apply within_odSet | apply within_modFlt
    | apply within_ite | split | dsimp only

theorem within_brakeAssert (T : List Part) (orig : State) (hT : subP [.od, .out, .flt, .obs, .log, .frz, .can, .mod] T
    = true) (s : State) (h1 : Within T orig s) :
    Within T orig (brakeAssert s) := by
  unfold brakeAssert
  try dsimp only
  with_reducible repeat' first
    | (intro _) | assumption | (exact subP_trans (by decide) hT) | apply within_odAdd32 | apply within_odSet
    | apply within_setCapBit | apply within_modFlt | apply within_brakePoints | apply within_capCond
    | apply within_logSimple | apply within_limitStep | apply within_showDuty | apply within_ite | split | dsimp only
    | apply within_set_mod

theorem within_brakeRelease (T : List Part) (orig : State) (hT : subP [.od, .out, .flt, .can, .mod] T = true) (s :
    State) (h1 : Within T orig s) :
    Within T orig (brakeRelease s) := by
  unfold brakeRelease
  try dsimp only
  with_reducible repeat' first
    | (intro _) | assumption | (exact subP_trans (by decide) hT) | apply within_odSet | apply within_setCapBit
    | apply within_capCond | apply within_limitStep | apply within_showDuty | apply within_modFlt | apply within_ite
    | split | dsimp only | apply within_set_mod

theorem within_plausible (T : List Part) (orig : State) (hT : subP [.od, .flt, .obs, .log, .frz] T = true) (r : Nat)
    (s : State) (h1 : Within T orig s) :
    Within T orig (plausible r s) := by
  unfold plausible
  try dsimp only
  with_reducible repeat' first
    | (intro _) | assumption | (exact subP_trans (by decide) hT) | apply within_modFlt | apply within_logSimple
    | apply within_setCapBit | apply within_ite | split | dsimp only

theorem within_vinStep (T : List Part) (orig : State) (hT : subP [.od, .out, .obs, .log, .frz, .can, .mod] T = true)
    (vin : Nat) (s : State) (h1 : Within T orig s) :
    Within T orig (vinStep vin s) := by
  unfold vinStep
  try dsimp only
  with_reducible repeat' first
    | (intro _) | assumption | (exact subP_trans (by decide) hT) | apply within_logEvent | apply within_emcyWhile
    | apply within_odSet | apply within_ite | split | dsimp only | apply within_set_mod

theorem within_showIn (T : List Part) (orig : State) (hT : subP [.od] T = true) (s : State) (h1 : Within T orig s) :
    Within T orig (showIn s) := by
  unfold showIn
  try dsimp only
  with_reducible repeat' first
    | (intro _) | assumption | (exact subP_trans (by decide) hT) | apply within_odSet | apply within_ite | split
    | dsimp only

theorem within_calibrate (T : List Part) (orig : State) (hT : subP [.od, .out, .flt, .obs, .log, .frz, .can, .mod] T =
    true) (p : Nat) (v : Nat) (s : State) (h1 : Within T orig s) :
    Within T orig (calibrate p v s) := by
  unfold calibrate
  try dsimp only
  with_reducible repeat' first
    | (intro _) | assumption | (exact subP_trans (by decide) hT) | apply within_odAdd | apply within_modFlt
    | apply within_plausible | apply within_vinStep | apply within_showIn | apply within_odSet | apply within_ite
    | split | dsimp only

theorem within_capStep (T : List Part) (orig : State) (hT : subP [.od, .flt] T = true) (s : State) (h1 : Within T orig
    s) :
    Within T orig (capStep s) := by
  unfold capStep
  try dsimp only
  with_reducible repeat' first
    | (intro _) | assumption | (exact subP_trans (by decide) hT) | apply within_setCapBit | apply within_odSet
    | apply within_modFlt | apply within_ite | split | dsimp only

theorem within_coolantUpdate (T : List Part) (orig : State) (hT : subP [.od, .obs, .log, .frz] T = true) (s : State)
    (h1 : Within T orig s) :
    Within T orig (coolantUpdate s) := by
  unfold coolantUpdate
  try dsimp only
  with_reducible repeat' first
    | (intro _) | assumption | (exact subP_trans (by decide) hT) | apply within_logEvent | apply within_odSet
    | apply within_setCapBit | apply within_ite | split | dsimp only

theorem within_countEnergy (T : List Part) (orig : State) (hT : subP [.od, .flt] T = true) (evs : List EvCount) (s :
    State) (h1 : Within T orig s) :
    Within T orig (countEnergy evs s) := by
  unfold countEnergy
  try dsimp only
  with_reducible repeat' first
    | (intro _) | assumption | (exact subP_trans (by decide) hT) | apply within_odAdd | apply within_modFlt
    | apply within_ite | apply within_foldl | split | dsimp only

theorem within_wTileEnable (T : List Part) (orig : State) (hT : subP [.od, .freeCtr, .mem, .ecc, .tiles, .flt, .obs,
    .frz] T = true) (t : Nat) (v : Nat) (power : Nat) (s : State) (h1 : Within T orig s) :
    Within T orig (wTileEnable t v power s).2 := by
  unfold wTileEnable
  try dsimp only
  with_reducible repeat' first
    | (intro _) | assumption | (exact subP_trans (by decide) hT) | apply within_odSet | apply within_voltStepBy
    | apply within_tileOff | apply within_setMode | apply within_ite | apply within_snd_ite
    | (apply withinPair_of; assumption) | split | dsimp only

theorem within_wCap (T : List Part) (orig : State) (hT : subP [.od] T = true) (k : Nat) (v : Nat) (s : State) (h1 :
    Within T orig s) :
    Within T orig (wCap k v s).2 := by
  unfold wCap
  try dsimp only
  with_reducible repeat' first
    | (intro _) | assumption | (exact subP_trans (by decide) hT) | apply within_setCapBit | apply within_odSet
    | apply within_ite | apply within_snd_ite | (apply withinPair_of; assumption) | split | dsimp only

theorem within_wCapTarget (T : List Part) (orig : State) (hT : subP [.od] T = true) (v : Nat) (s : State) (h1 : Within
    T orig s) :
    Within T orig (wCapTarget v s).2 := by
  unfold wCapTarget
  try dsimp only
  with_reducible repeat' first
    | (intro _) | assumption | (exact subP_trans (by decide) hT) | apply within_wCap | apply within_setCapBit
    | (apply withinPair_of; assumption) | split | dsimp only

theorem within_wSafeClear (T : List Part) (orig : State) (hT : subP [.od, .out, .can] T = true) (v : Nat) (s : State)
    (h1 : Within T orig s) :
    Within T orig (wSafeClear v s).2 := by
  unfold wSafeClear
  try dsimp only
  with_reducible repeat' first
    | (intro _) | assumption | (exact subP_trans (by decide) hT) | apply within_capCond | apply within_setCapBit
    | apply within_ite | apply within_snd_ite | (apply withinPair_of; assumption) | split | dsimp only

theorem within_wStepTest (T : List Part) (orig : State) (hT : subP [.flt] T = true) (v : Nat) (s : State) (h1 : Within
    T orig s) :
    Within T orig (wStepTest v s).2 := by
  unfold wStepTest
  try dsimp only
  with_reducible repeat' first
    | (intro _) | assumption | (exact subP_trans (by decide) hT) | apply within_modFlt | apply within_ite
    | apply within_snd_ite | (apply withinPair_of; assumption) | split | dsimp only

theorem within_safeOn (T : List Part) (orig : State) (hT : subP [.od, .out, .obs, .log, .frz, .can] T = true) (s :
    State) (h1 : Within T orig s) :
    Within T orig (safeOn s) := by
  unfold safeOn
  try dsimp only
  with_reducible repeat' first
    | (intro _) | assumption | (exact subP_trans (by decide) hT) | apply within_capCond | apply within_logSimple
    | apply within_setCapBit | apply within_ite | split | dsimp only

theorem within_wFlowLpm (T : List Part) (orig : State) (hT : subP [.od, .out, .flt, .obs, .log, .frz, .can] T = true)
    (v : Nat) (s : State) (h1 : Within T orig s) :
    Within T orig (wFlowLpm v s).2 := by
  unfold wFlowLpm
  try dsimp only
  with_reducible repeat' first
    | (intro _) | assumption | (exact subP_trans (by decide) hT) | apply within_modFlt | apply within_odSet
    | apply within_safeOn | apply within_ite | apply within_snd_ite | (apply withinPair_of; assumption) | split
    | dsimp only

theorem within_wFlowLoss (T : List Part) (orig : State) (hT : subP [.od, .out, .obs, .log, .frz, .can] T = true) (v :
    Nat) (s : State) (h1 : Within T orig s) :
    Within T orig (wFlowLoss v s).2 := by
  unfold wFlowLoss
  try dsimp only
  with_reducible repeat' first
    | (intro _) | assumption | (exact subP_trans (by decide) hT) | apply within_odSet | apply within_safeOn
    | apply within_ite | apply within_snd_ite | (apply withinPair_of; assumption) | split | dsimp only

theorem within_droop (T : List Part) (orig : State) (hT : subP [.od, .flt, .obs, .log, .frz] T = true) (d : Nat) (s :
    State) (h1 : Within T orig s) :
    Within T orig (droop d s) := by
  unfold droop
  try dsimp only
  with_reducible repeat' first
    | (intro _) | assumption | (exact subP_trans (by decide) hT) | apply within_odAdd | apply within_modFlt
    | apply within_setCapBit | apply within_logEvent | apply within_ite | split | dsimp only

theorem within_estimate (T : List Part) (orig : State) (hT : subP [.flt] T = true) (evs : List EvCount) (s : State)
    (h1 : Within T orig s) :
    Within T orig (estimate evs s) := by
  unfold estimate
  try dsimp only
  with_reducible repeat' first
    | (intro _) | assumption | (exact subP_trans (by decide) hT) | apply within_modFlt | apply within_ite | split
    | dsimp only

theorem within_showPower (T : List Part) (orig : State) (hT : subP [.od] T = true) (s : State) (h1 : Within T orig s)
    :
    Within T orig (showPower s) := by
  unfold showPower
  try dsimp only
  with_reducible repeat' first
    | (intro _) | assumption | (exact subP_trans (by decide) hT) | apply within_showDuty | apply within_odSet
    | apply within_foldl | split | dsimp only

theorem within_unheldStep (T : List Part) (orig : State) (hT : subP [.od, .flt] T = true) (s : State) (h1 : Within T
    orig s) :
    Within T orig (unheldStep s) := by
  unfold unheldStep
  try dsimp only
  with_reducible repeat' first
    | (intro _) | assumption | (exact subP_trans (by decide) hT) | apply within_odSet | apply within_modFlt | split
    | dsimp only

theorem within_reachStep (T : List Part) (orig : State) (hT : subP [.od, .out, .obs, .log, .frz, .can] T = true) (s :
    State) (h1 : Within T orig s) :
    Within T orig (reachStep s) := by
  unfold reachStep
  try dsimp only
  with_reducible repeat' first
    | (intro _) | assumption | (exact subP_trans (by decide) hT) | apply within_capCond | apply within_logEvent
    | apply within_setCapBit | apply within_odSet | apply within_ite | split | dsimp only

theorem within_rampStep (T : List Part) (orig : State) (hT : subP [.flt] T = true) (s : State) (h1 : Within T orig s)
    :
    Within T orig (rampStep s) := by
  unfold rampStep
  try dsimp only
  with_reducible repeat' first
    | (intro _) | assumption | (exact subP_trans (by decide) hT) | apply within_modFlt | apply within_ite | split
    | dsimp only

theorem within_estimatorUpdate (T : List Part) (orig : State) (hT : subP [.od, .out, .tiles, .flt, .obs, .log, .frz,
    .can] T = true) (told : List EvCount) (s : State) (h1 : Within T orig s) :
    Within T orig (estimatorUpdate told s) := by
  unfold estimatorUpdate
  try dsimp only
  with_reducible repeat' first
    | (intro _) | assumption | (exact subP_trans (by decide) hT) | apply within_capStep | apply within_countEnergy
    | apply within_estimate | apply within_modFlt | apply within_showPower | apply within_unheldStep
    | apply within_reachStep | apply within_actStep | apply within_limitStep | apply within_rampStep
    | apply within_ite | split | dsimp only

theorem within_freqModeSwitch (T : List Part) (orig : State) (hT : subP [.od, .flt] T = true) (s : State) (h1 : Within
    T orig s) :
    Within T orig (freqModeSwitch s) := by
  unfold freqModeSwitch
  try dsimp only
  with_reducible repeat' first
    | (intro _) | assumption | (exact subP_trans (by decide) hT) | apply within_odSet | apply within_brakePoints
    | apply within_withdraw | apply within_modFlt | apply within_homeStep | apply within_ite | split | dsimp only

theorem within_freqRaise (T : List Part) (orig : State) (hT : subP [.od, .flt] T = true) (p0 : Nat) (p1 : Nat) (fix :
    Nat) (s : State) (h1 : Within T orig s) :
    Within T orig (freqRaise p0 p1 fix s) := by
  unfold freqRaise
  try dsimp only
  with_reducible repeat' first
    | (intro _) | assumption | (exact subP_trans (by decide) hT) | apply within_queueStep | apply within_ite | split
    | dsimp only

theorem within_junctionWarn (T : List Part) (orig : State) (hT : subP [.od, .out, .obs, .log, .frz, .can] T = true)
    (tmax : Int) (src : Nat) (s : State) (h1 : Within T orig s) :
    Within T orig (junctionWarn tmax src s) := by
  unfold junctionWarn
  try dsimp only
  with_reducible repeat' first
    | (intro _) | assumption | (exact subP_trans (by decide) hT) | apply within_emcyRaise | apply within_logEvent
    | apply within_setCapBit | apply within_emcyClear | apply within_ite | split | dsimp only

theorem within_outletStep (T : List Part) (orig : State) (hT : subP [.od, .out, .flt, .obs, .log, .frz, .can] T =
    true) (outlet : Int) (s : State) (h1 : Within T orig s) :
    Within T orig (outletStep outlet s) := by
  unfold outletStep
  try dsimp only
  with_reducible repeat' first
    | (intro _) | assumption | (exact subP_trans (by decide) hT) | apply within_modFlt | apply within_safeOn
    | apply within_ite | split | dsimp only

theorem within_raiseSettled (T : List Part) (orig : State) (hT : subP [.od, .flt] T = true) (d : Nat) (s : State) (h1
    : Within T orig s) :
    Within T orig (raiseSettled d s) := by
  unfold raiseSettled
  try dsimp only
  with_reducible repeat' first
    | (intro _) | assumption | (exact subP_trans (by decide) hT) | apply within_showFreq | apply within_setPoint
    | apply within_modFlt | apply within_ite | split | dsimp only

theorem within_sensorRead (T : List Part) (orig : State) (hT : subP [.od, .out, .flt, .obs, .log, .frz, .can] T =
    true) (ts : List Int) (inlet : Int) (outlet : Int) (s : State) (h1 : Within T orig s) :
    Within T orig (sensorRead ts inlet outlet s) := by
  unfold sensorRead
  try dsimp only
  with_reducible repeat' first
    | (intro _) | assumption | (exact subP_trans (by decide) hT) | apply within_odSet | apply within_outletStep
    | apply within_junctionWarn | apply within_ite | apply within_foldl | split | dsimp only

theorem within_shareRecompute (T : List Part) (orig : State) (hT : subP [.tiles, .flt] T = true) (ops : List (Nat ×
    Nat)) (s : State) (h1 : Within T orig s) :
    Within T orig (shareRecompute ops s) := by
  unfold shareRecompute
  try dsimp only
  with_reducible repeat' first
    | (intro _) | assumption | (exact subP_trans (by decide) hT) | apply within_countRan | apply within_modFlt
    | apply within_ite | apply within_foldl | split | dsimp only

theorem within_stepTestEnd (T : List Part) (orig : State) (hT : subP [.flt] T = true) (s : State) (h1 : Within T orig
    s) :
    Within T orig (stepTestEnd s) := by
  unfold stepTestEnd
  try dsimp only
  with_reducible repeat' first
    | (intro _) | assumption | (exact subP_trans (by decide) hT) | apply within_modFlt | apply within_ite | split
    | dsimp only

theorem within_stretchEnd (T : List Part) (orig : State) (hT : subP [.od, .flt] T = true) (d : Nat) (cycles : Nat) (s
    : State) (h1 : Within T orig s) :
    Within T orig (stretchEnd d cycles s) := by
  unfold stretchEnd
  try dsimp only
  with_reducible repeat' first
    | (intro _) | assumption | (exact subP_trans (by decide) hT) | apply within_odAdd | apply within_modFlt
    | apply within_ite | split | dsimp only

theorem within_thermalUpdate (T : List Part) (orig : State) (hT : subP [.od, .flt] T = true) (s : State) (h1 : Within
    T orig s) :
    Within T orig (thermalUpdate s) := by
  unfold thermalUpdate
  try dsimp only
  with_reducible repeat' first
    | (intro _) | assumption | (exact subP_trans (by decide) hT) | apply within_odSet | apply within_modFlt
    | apply within_ite | split | dsimp only

theorem within_modTrw (T : List Part) (orig : State) (hT : subP [.trw] T = true) (f : TrwSt → TrwSt) (s : State) (h1 :
    Within T orig s) :
    Within T orig (modTrw f s) := by
  unfold modTrw
  try dsimp only
  with_reducible repeat' first
    | (intro _) | assumption | (exact subP_trans (by decide) hT) | split | apply_assumption | dsimp only
    | apply within_set_trw

theorem within_modRail (T : List Part) (orig : State) (hT : subP [.trw] T = true) (n : Nat) (f : RailSt → RailSt) (s :
    State) (h1 : Within T orig s) :
    Within T orig (modRail n f s) := by
  unfold modRail
  try dsimp only
  with_reducible repeat' first
    | (intro _) | assumption | (exact subP_trans (by decide) hT) | apply within_modTrw | split | apply_assumption
    | dsimp only

theorem within_railPut (T : List Part) (orig : State) (hT : subP [.od] T = true) (base : Nat) (n : Nat) (v : Nat) (s :
    State) (h1 : Within T orig s) :
    Within T orig (railPut base n v s) := by
  unfold railPut
  try dsimp only
  with_reducible repeat' first
    | (intro _) | assumption | (exact subP_trans (by decide) hT) | apply within_odSet | split | dsimp only

theorem within_showPhases (T : List Part) (orig : State) (hT : subP [.od] T = true) (n : Nat) (s : State) (h1 : Within
    T orig s) :
    Within T orig (showPhases n s) := by
  unfold showPhases
  try dsimp only
  with_reducible repeat' first
    | (intro _) | assumption | (exact subP_trans (by decide) hT) | apply within_railPut | split | dsimp only

theorem within_setPhase (T : List Part) (orig : State) (hT : subP [.od] T = true) (p : Nat) (v : Nat) (s : State) (h1
    : Within T orig s) :
    Within T orig (setPhase p v s) := by
  unfold setPhase
  try dsimp only
  with_reducible repeat' first
    | (intro _) | assumption | (exact subP_trans (by decide) hT) | apply within_odSet | split | dsimp only

theorem within_railFlag (T : List Part) (orig : State) (hT : subP [.od] T = true) (n : Nat) (b : Nat) (v : Bool) (s :
    State) (h1 : Within T orig s) :
    Within T orig (railFlag n b v s) := by
  unfold railFlag
  try dsimp only
  with_reducible repeat' first
    | (intro _) | assumption | (exact subP_trans (by decide) hT) | apply within_odBit | split | dsimp only

theorem within_phasesTo (T : List Part) (orig : State) (hT : subP [.od] T = true) (n : Nat) (v : Nat) (s : State) (h1
    : Within T orig s) :
    Within T orig (phasesTo n v s) := by
  unfold phasesTo
  try dsimp only
  with_reducible repeat' first
    | (intro _) | assumption | (exact subP_trans (by decide) hT) | apply within_showPhases | apply within_setPhase
    | apply within_ite | apply within_foldl | split | dsimp only

theorem within_railStop (T : List Part) (orig : State) (hT : subP [.od, .trw] T = true) (n : Nat) (st : Nat) (s :
    State) (h1 : Within T orig s) :
    Within T orig (railStop n st s) := by
  unfold railStop
  try dsimp only
  with_reducible repeat' first
    | (intro _) | assumption | (exact subP_trans (by decide) hT) | apply within_railFlag | apply within_modRail
    | apply within_phasesTo | apply within_railPut | split | dsimp only

theorem within_softStop (T : List Part) (orig : State) (hT : subP [.od, .trw] T = true) (n : Nat) (s : State) (h1 :
    Within T orig s) :
    Within T orig (softStop n s) := by
  unfold softStop
  try dsimp only
  with_reducible repeat' first
    | (intro _) | assumption | (exact subP_trans (by decide) hT) | apply within_railFlag | apply within_railPut
    | apply within_modRail | split | dsimp only

theorem within_softStopGroup (T : List Part) (orig : State) (hT : subP [.od, .trw] T = true) (s : State) (h1 : Within
    T orig s) :
    Within T orig (softStopGroup s) := by
  unfold softStopGroup
  try dsimp only
  with_reducible repeat' first
    | (intro _) | assumption | (exact subP_trans (by decide) hT) | apply within_modTrw | apply within_railStop
    | apply within_softStop | apply within_ite | apply within_foldl | split | dsimp only

theorem within_softStopNext (T : List Part) (orig : State) (hT : subP [.od, .trw] T = true) (s : State) (h1 : Within T
    orig s) :
    Within T orig (softStopNext s) := by
  unfold softStopNext
  try dsimp only
  with_reducible repeat' first
    | (intro _) | assumption | (exact subP_trans (by decide) hT) | apply within_softStopGroup | apply within_foldl
    | split | dsimp only

theorem within_stopRails (T : List Part) (orig : State) (hT : subP [.od, .trw] T = true) (s : State) (h1 : Within T
    orig s) :
    Within T orig (stopRails s) := by
  unfold stopRails
  try dsimp only
  with_reducible repeat' first
    | (intro _) | assumption | (exact subP_trans (by decide) hT) | apply within_softStopNext | apply within_modTrw
    | split | dsimp only

theorem within_startFailed (T : List Part) (orig : State) (hT : subP [.od, .obs, .log, .frz] T = true) (step : Nat)
    (code : Nat) (src : Nat) (s : State) (h1 : Within T orig s) :
    Within T orig (startFailed step code src s) := by
  unfold startFailed
  try dsimp only
  with_reducible repeat' first
    | (intro _) | assumption | (exact subP_trans (by decide) hT) | apply within_odSet | apply within_logEvent | split
    | dsimp only

theorem within_setModState (T : List Part) (orig : State) (hT : subP [.od, .mod] T = true) (v : Nat) (s : State) (h1 :
    Within T orig s) :
    Within T orig (setModState v s) := by
  unfold setModState
  try dsimp only
  with_reducible repeat' first
    | (intro _) | assumption | (exact subP_trans (by decide) hT) | apply within_laserUpdate | apply within_odSet
    | split | dsimp only

theorem within_primerAbort (T : List Part) (orig : State) (hT : subP [.od, .flt, .sec] T = true) (s : State) (h1 :
    Within T orig s) :
    Within T orig (primerAbort s) := by
  unfold primerAbort
  try dsimp only
  with_reducible repeat' first
    | (intro _) | assumption | (exact subP_trans (by decide) hT) | apply within_modFlt | apply within_odSet
    | apply within_setCapBit | apply within_ite | split | dsimp only | apply within_set_sec

theorem within_mainLost (T : List Part) (orig : State) (hT : subP [.od, .freeCtr, .mem, .ecc, .tiles, .mesh, .graphs,
    .cmds, .fab, .rem, .flt, .sec, .meas, .tim, .obs] T = true) (s0 : State) (h1 : Within T orig s0) :
    Within T orig (mainLost s0) := by
  unfold mainLost
  try dsimp only
  with_reducible repeat' first
    | (intro _) | assumption | (exact subP_trans (by decide) hT) | apply within_primerAbort | apply within_toDisabled
    | apply within_modFlt | apply within_odBit | apply within_loseMemory | apply within_odSet | apply within_foldl
    | split | dsimp only | apply within_set_fab | apply within_set_ecc_tiles_mesh_graphs_cmds_rem_meas_tim_obs

theorem within_mainDown (T : List Part) (orig : State) (hT : subP [.od, .freeCtr, .mem, .ecc, .tiles, .mesh, .graphs,
    .cmds, .hst, .fab, .rem, .flt, .sec, .meas, .tim, .obs, .log, .frz] T = true) (s : State) (h1 : Within T orig s) :
    Within T orig (mainDown s) := by
  unfold mainDown
  try dsimp only
  with_reducible repeat' first
    | (intro _) | assumption | (exact subP_trans (by decide) hT) | apply within_mainLost | apply within_linkDown
    | apply within_hostReset | split | dsimp only

theorem within_faultStop (T : List Part) (orig : State) (hT : subP [.od, .out, .freeCtr, .mem, .ecc, .tiles, .mesh,
    .graphs, .cmds, .hst, .fab, .rem, .flt, .trw, .sec, .meas, .tim, .obs, .log, .frz, .can, .mod] T = true) (bad :
    List Nat) (src : Nat) (s : State) (h1 : Within T orig s) :
    Within T orig (faultStop bad src s) := by
  unfold faultStop
  try dsimp only
  with_reducible repeat' first
    | (intro _) | assumption | (exact subP_trans (by decide) hT) | apply within_stopRails | apply within_railStop
    | apply within_logSimple | apply within_odSet | apply within_startFailed | apply within_emcyEvent
    | apply within_closeOpen | apply within_setModState | apply within_mainDown | apply within_ite
    | apply within_foldl | split | dsimp only

theorem within_railsOff (T : List Part) (orig : State) (hT : subP [.od, .trw] T = true) (s : State) (h1 : Within T
    orig s) :
    Within T orig (railsOff s) := by
  unfold railsOff
  try dsimp only
  with_reducible repeat' first
    | (intro _) | assumption | (exact subP_trans (by decide) hT) | apply within_railStop | apply within_modTrw
    | apply within_ite | apply within_foldl | split | dsimp only

theorem within_wTripTest (T : List Part) (orig : State) (hT : subP [.od, .flt, .obs, .log, .frz] T = true) (v : Nat)
    (failed : List Nat) (s : State) (h1 : Within T orig s) :
    Within T orig (wTripTest v failed s).2 := by
  unfold wTripTest
  try dsimp only
  with_reducible repeat' first
    | (intro _) | assumption | (exact subP_trans (by decide) hT) | apply within_modFlt | apply within_logSimple
    | apply within_odSet | apply within_ite | apply within_snd_ite | (apply withinPair_of; assumption)
    | apply within_foldl | split | dsimp only

theorem within_railFault (T : List Part) (orig : State) (hT : subP [.od, .out, .freeCtr, .mem, .ecc, .tiles, .mesh,
    .graphs, .cmds, .hst, .fab, .rem, .flt, .trw, .sec, .meas, .tim, .obs, .log, .frz, .can, .mod] T = true) (n : Nat)
    (s : State) (h1 : Within T orig s) :
    Within T orig (railFault n s) := by
  unfold railFault
  try dsimp only
  with_reducible repeat' first
    | (intro _) | assumption | (exact subP_trans (by decide) hT) | apply within_faultStop | apply within_softStopNext
    | apply within_railStop | apply within_ite | split | dsimp only

theorem within_inputStop (T : List Part) (orig : State) (hT : subP [.od, .out, .freeCtr, .mem, .ecc, .tiles, .mesh,
    .graphs, .cmds, .hst, .fab, .rem, .flt, .trw, .sec, .meas, .tim, .obs, .log, .frz, .can, .mod] T = true) (s :
    State) (h1 : Within T orig s) :
    Within T orig (inputStop s) := by
  unfold inputStop
  try dsimp only
  with_reducible repeat' first
    | (intro _) | assumption | (exact subP_trans (by decide) hT) | apply within_odSet | apply within_logSimple
    | apply within_odAdd32 | apply within_emcyEvent | apply within_closeOpen | apply within_setModState
    | apply within_mainDown | apply within_railsOff | apply within_ite | split | dsimp only | apply within_set_mod

theorem within_inputOut (T : List Part) (orig : State) (hT : subP [.od, .out, .freeCtr, .mem, .ecc, .tiles, .mesh,
    .graphs, .cmds, .hst, .fab, .rem, .flt, .trw, .sec, .meas, .tim, .obs, .log, .frz, .can, .mod] T = true) (s :
    State) (h1 : Within T orig s) :
    Within T orig (inputOut s) := by
  unfold inputOut
  try dsimp only
  with_reducible repeat' first
    | (intro _) | assumption | (exact subP_trans (by decide) hT) | apply within_inputStop | split | dsimp only
    | apply within_set_mod

theorem within_startFail (T : List Part) (orig : State) (hT : subP [.od, .freeCtr, .mem, .ecc, .tiles, .mesh, .graphs,
    .cmds, .hst, .fab, .rem, .flt, .trw, .sec, .meas, .tim, .obs, .log, .frz, .mod] T = true) (code : Nat) (src : Nat)
    (s : State) (h1 : Within T orig s) :
    Within T orig (startFail code src s) := by
  unfold startFail
  try dsimp only
  with_reducible repeat' first
    | (intro _) | assumption | (exact subP_trans (by decide) hT) | apply within_closeOpen | apply within_setModState
    | apply within_mainDown | apply within_stopRails | apply within_odSet | apply within_startFailed | split
    | dsimp only

theorem within_tripRails (T : List Part) (orig : State) (hT : subP [.od, .trw] T = true) (s : State) (h1 : Within T
    orig s) :
    Within T orig (tripRails s) := by
  unfold tripRails
  try dsimp only
  with_reducible repeat' first
    | (intro _) | assumption | (exact subP_trans (by decide) hT) | apply within_railFlag | apply within_railStop
    | apply within_modTrw | apply within_foldl | split | dsimp only

theorem within_thermalTrip (T : List Part) (orig : State) (hT : subP [.od, .out, .freeCtr, .mem, .ecc, .tiles, .mesh,
    .graphs, .cmds, .hst, .fab, .rem, .flt, .trw, .sec, .meas, .tim, .obs, .log, .frz, .can, .mod] T = true) (n : Nat)
    (s : State) (h1 : Within T orig s) :
    Within T orig (thermalTrip n s) := by
  unfold thermalTrip
  try dsimp only
  with_reducible repeat' first
    | (intro _) | assumption | (exact subP_trans (by decide) hT) | apply within_odSet | apply within_logSimple
    | apply within_tripRails | apply within_emcyRaise | apply within_closeOpen | apply within_setModState
    | apply within_mainDown | apply within_ite | split | dsimp only | apply within_set_mod

theorem within_thermalTrips (T : List Part) (orig : State) (hT : subP [.od, .out, .freeCtr, .mem, .ecc, .tiles, .mesh,
    .graphs, .cmds, .hst, .fab, .rem, .flt, .trw, .sec, .meas, .tim, .obs, .log, .frz, .can, .mod] T = true) (ns :
    List Nat) (s : State) (h1 : Within T orig s) :
    Within T orig (thermalTrips ns s) := by
  unfold thermalTrips
  try dsimp only
  with_reducible repeat' first
    | (intro _) | assumption | (exact subP_trans (by decide) hT) | apply within_thermalTrip | apply within_ite | split
    | dsimp only

theorem within_setBankValid (T : List Part) (orig : State) (hT : subP [.od] T = true) (b : Nat) (v : Bool) (s : State)
    (h1 : Within T orig s) :
    Within T orig (setBankValid b v s) := by
  unfold setBankValid
  try dsimp only
  with_reducible repeat' first
    | (intro _) | assumption | (exact subP_trans (by decide) hT) | apply within_odBit | split | dsimp only

theorem within_setInactive (T : List Part) (orig : State) (hT : subP [.od] T = true) (a : Nat) (b : Nat) (s : State)
    (h1 : Within T orig s) :
    Within T orig (setInactive a b s) := by
  unfold setInactive
  try dsimp only
  with_reducible repeat' first
    | (intro _) | assumption | (exact subP_trans (by decide) hT) | apply within_odSet | split | dsimp only

theorem within_wGainImage (T : List Part) (orig : State) (hT : subP [.od, .trw] T = true) (bs : List Byte) (s : State)
    (h1 : Within T orig s) :
    Within T orig (wGainImage bs s).2 := by
  unfold wGainImage
  try dsimp only
  with_reducible repeat' first
    | (intro _) | assumption | (exact subP_trans (by decide) hT) | apply within_modTrw | apply within_setBankValid
    | apply within_setInactive | apply within_odSet | apply within_ite | apply within_snd_ite
    | (apply withinPair_of; assumption) | split | dsimp only

theorem within_wVset (T : List Part) (orig : State) (hT : subP [.od, .trw] T = true) (n : Nat) (v : Nat) (s : State)
    (h1 : Within T orig s) :
    Within T orig (wVset n v s).2 := by
  unfold wVset
  try dsimp only
  with_reducible repeat' first
    | (intro _) | assumption | (exact subP_trans (by decide) hT) | apply within_railFlag | apply within_modRail
    | apply within_railPut | apply within_ite | apply within_snd_ite | (apply withinPair_of; assumption) | split
    | dsimp only

theorem within_wPeakClear (T : List Part) (orig : State) (hT : subP [.od, .trw] T = true) (n : Nat) (v : Nat) (s :
    State) (h1 : Within T orig s) :
    Within T orig (wPeakClear n v s).2 := by
  unfold wPeakClear
  try dsimp only
  with_reducible repeat' first
    | (intro _) | assumption | (exact subP_trans (by decide) hT) | apply within_modRail | apply within_railPut
    | apply within_ite | apply within_snd_ite | (apply withinPair_of; assumption) | apply within_foldl | split
    | dsimp only

theorem within_wSlewLimit (T : List Part) (orig : State) (hT : subP [.od] T = true) (d : Nat) (v : Nat) (s : State)
    (h1 : Within T orig s) :
    Within T orig (wSlewLimit d v s).2 := by
  unfold wSlewLimit
  try dsimp only
  with_reducible repeat' first
    | (intro _) | assumption | (exact subP_trans (by decide) hT) | apply within_odSet | apply within_ite
    | apply within_snd_ite | (apply withinPair_of; assumption) | split | dsimp only

theorem within_gainResult (T : List Part) (orig : State) (hT : subP [.od] T = true) (code : Nat) (detail : Nat) (s :
    State) (h1 : Within T orig s) :
    Within T orig (gainResult code detail s) := by
  unfold gainResult
  try dsimp only
  with_reducible repeat' first
    | (intro _) | assumption | (exact subP_trans (by decide) hT) | apply within_odSet | split | dsimp only

theorem within_wGainCommit (T : List Part) (orig : State) (hT : subP [.od] T = true) (b : Nat) (s : State) (h1 :
    Within T orig s) :
    Within T orig (wGainCommit b s).2 := by
  unfold wGainCommit
  try dsimp only
  with_reducible repeat' first
    | (intro _) | assumption | (exact subP_trans (by decide) hT) | apply within_setInactive
    | apply within_setBankValid | apply within_gainResult | apply within_ite | apply within_snd_ite
    | (apply withinPair_of; assumption) | split | dsimp only

theorem within_wGainSwap (T : List Part) (orig : State) (hT : subP [.trw] T = true) (v : Nat) (s : State) (h1 : Within
    T orig s) :
    Within T orig (wGainSwap v s).2 := by
  unfold wGainSwap
  try dsimp only
  with_reducible repeat' first
    | (intro _) | assumption | (exact subP_trans (by decide) hT) | apply within_modTrw | apply within_ite
    | apply within_snd_ite | (apply withinPair_of; assumption) | split | dsimp only

theorem within_swapBanks (T : List Part) (orig : State) (hT : subP [.od, .trw, .obs, .log, .frz] T = true) (s : State)
    (h1 : Within T orig s) :
    Within T orig (swapBanks s) := by
  unfold swapBanks
  try dsimp only
  with_reducible repeat' first
    | (intro _) | assumption | (exact subP_trans (by decide) hT) | apply within_setInactive | apply within_odSet
    | apply within_modTrw | apply within_logEvent | split | dsimp only

theorem within_nmtBoot (T : List Part) (orig : State) (hT : subP [.od, .out, .can] T = true) (auto : Bool) (s : State)
    (h1 : Within T orig s) :
    Within T orig (nmtBoot auto s) := by
  unfold nmtBoot
  try dsimp only
  with_reducible repeat' first
    | (intro _) | assumption | (exact subP_trans (by decide) hT) | apply within_canSend | apply within_odSet
    | apply within_ite | split | dsimp only

theorem within_coldProfile (T : List Part) (orig : State) (hT : subP [.od, .obs, .log, .frz] T = true) (n : Nat) (s :
    State) (h1 : Within T orig s) :
    Within T orig (coldProfile n s) := by
  unfold coldProfile
  try dsimp only
  with_reducible repeat' first
    | (intro _) | assumption | (exact subP_trans (by decide) hT) | apply within_odSet | apply within_logEvent
    | apply within_ite | apply within_foldl | split | dsimp only

theorem within_profLost (T : List Part) (orig : State) (hT : subP [.od, .obs, .log, .frz, .can] T = true) (n : Nat) (s
    : State) (h1 : Within T orig s) :
    Within T orig (profLost n s) := by
  unfold profLost
  try dsimp only
  with_reducible repeat' first
    | (intro _) | assumption | (exact subP_trans (by decide) hT) | apply within_logEvent | split | dsimp only
    | apply within_set_can

theorem within_showPending (T : List Part) (orig : State) (hT : subP [.od] T = true) (s : State) (h1 : Within T orig
    s) :
    Within T orig (showPending s) := by
  unfold showPending
  try dsimp only
  with_reducible repeat' first
    | (intro _) | assumption | (exact subP_trans (by decide) hT) | apply within_odSet | split | dsimp only

theorem within_putFields (T : List Part) (orig : State) (hT : subP [.od] T = true) (n : Nat) (ks : List Nat) (s :
    State) (h1 : Within T orig s) :
    Within T orig (putFields n ks s) := by
  unfold putFields
  try dsimp only
  with_reducible repeat' first
    | (intro _) | assumption | (exact subP_trans (by decide) hT) | apply within_odSet | apply within_foldl | split
    | dsimp only

theorem within_wProfile (T : List Part) (orig : State) (hT : subP [.od] T = true) (n : Nat) (s : State) (h1 : Within T
    orig s) :
    Within T orig (wProfile n s).2 := by
  unfold wProfile
  try dsimp only
  with_reducible repeat' first
    | (intro _) | assumption | (exact subP_trans (by decide) hT) | apply within_showPending | apply within_odSet
    | apply within_putFields | (apply withinPair_of; assumption) | split | dsimp only

theorem within_wProfSave (T : List Part) (orig : State) (hT : subP [.can] T = true) (path : Nat) (n : Nat) (s : State)
    (h1 : Within T orig s) :
    Within T orig (wProfSave path n s).2 := by
  unfold wProfSave
  try dsimp only
  with_reducible repeat' first
    | (intro _) | assumption | (exact subP_trans (by decide) hT) | apply within_ite | apply within_snd_ite
    | (apply withinPair_of; assumption) | apply within_foldl | split | dsimp only | apply within_set_can

theorem within_wProfFactory (T : List Part) (orig : State) (hT : subP [.can] T = true) (path : Nat) (n : Nat) (s :
    State) (h1 : Within T orig s) :
    Within T orig (wProfFactory path n s).2 := by
  unfold wProfFactory
  try dsimp only
  with_reducible repeat' first
    | (intro _) | assumption | (exact subP_trans (by decide) hT) | apply within_ite | apply within_snd_ite
    | (apply withinPair_of; assumption) | split | dsimp only | apply within_set_can

theorem within_flashDone (T : List Part) (orig : State) (hT : subP [.od, .resp, .can] T = true) (s : State) (h1 :
    Within T orig s) :
    Within T orig (flashDone s) := by
  unfold flashDone
  try dsimp only
  with_reducible repeat' first
    | (intro _) | assumption | (exact subP_trans (by decide) hT) | apply within_tell | apply within_showPending
    | apply within_ite | split | dsimp only | apply within_set_can

theorem within_flashWrite (T : List Part) (orig : State) (hT : subP [.od, .resp] T = true) (path : Nat) (k : Nat) (v :
    Nat) (eff : State → Nat × State) (s : State) (hf : ∀ x0, Within T orig x0 → Within T orig (eff x0).2) (h1 : Within
    T orig s) :
    Within T orig (flashWrite path k v eff s) := by
  unfold flashWrite
  try dsimp only
  with_reducible repeat' first
    | (intro _) | assumption | (exact subP_trans (by decide) hT) | apply within_odTry | apply within_tell
    | apply within_ite | (apply withinPair_of; assumption) | split | apply_assumption | dsimp only
    | apply within_set_resp

theorem within_addrHit (T : List Part) (orig : State) (hT : subP [.od, .freeCtr, .tiles, .flt, .obs, .frz] T = true)
    (t : Nat) (s : State) (h1 : Within T orig s) :
    Within T orig (addrHit t s) := by
  unfold addrHit
  try dsimp only
  with_reducible repeat' first
    | (intro _) | assumption | (exact subP_trans (by decide) hT) | apply within_brkHit | apply within_setTile
    | apply within_ite | split | dsimp only

theorem within_ageWatch (T : List Part) (orig : State) (hT : subP [.od, .tiles, .fab, .flt, .obs, .log, .frz] T =
    true) (s : State) (h1 : Within T orig s) :
    Within T orig (ageWatch s) := by
  unfold ageWatch
  try dsimp only
  with_reducible repeat' first
    | (intro _) | assumption | (exact subP_trans (by decide) hT) | apply within_switchSat | apply within_stepSat
    | apply within_tileSat | apply within_foldl | split | dsimp only

theorem within_modTim (T : List Part) (orig : State) (hT : subP [.tim] T = true) (f : TimeSt → TimeSt) (s : State) (h1
    : Within T orig s) :
    Within T orig (modTim f s) := by
  unfold modTim
  try dsimp only
  with_reducible repeat' first
    | (intro _) | assumption | (exact subP_trans (by decide) hT) | split | apply_assumption | dsimp only
    | apply within_set_tim

theorem within_alignWindowEnd (T : List Part) (orig : State) (hT : subP [.tim] T = true) (s : State) (h1 : Within T
    orig s) :
    Within T orig (alignWindowEnd s) := by
  unfold alignWindowEnd
  try dsimp only
  with_reducible repeat' first
    | (intro _) | assumption | (exact subP_trans (by decide) hT) | apply within_modTim | apply within_ite | split
    | dsimp only

theorem within_aligned (T : List Part) (orig : State) (hT : subP [.now, .od, .flt, .tim, .obs, .log, .frz, .mod] T =
    true) (step : Int) (port : Nat) (depth : Nat) (s : State) (h1 : Within T orig s) :
    Within T orig (aligned step port depth s) := by
  unfold aligned
  try dsimp only
  with_reducible repeat' first
    | (intro _) | assumption | (exact subP_trans (by decide) hT) | apply within_modFlt | apply within_modTim
    | apply within_odSet | apply within_odBit | apply within_traceAlways | apply within_logEvent | split | dsimp only
    | apply within_set_now_mod

theorem within_refLoss (T : List Part) (orig : State) (hT : subP [.od, .tim, .obs, .log, .frz, .mod] T = true) (s :
    State) (h1 : Within T orig s) :
    Within T orig (refLoss s) := by
  unfold refLoss
  try dsimp only
  with_reducible repeat' first
    | (intro _) | assumption | (exact subP_trans (by decide) hT) | apply within_modTim | apply within_logSimple
    | apply within_odBit | apply within_ite | split | dsimp only | apply within_set_mod

theorem within_breakDone (T : List Part) (orig : State) (hT : subP [.od, .dom, .obs, .frz] T = true) (b : BreakSt) (s
    : State) (h1 : Within T orig s) :
    Within T orig (breakDone b s) := by
  unfold breakDone
  try dsimp only
  with_reducible repeat' first
    | (intro _) | assumption | (exact subP_trans (by decide) hT) | apply within_freezeSource | apply within_trace
    | apply within_odSet | split | dsimp only | apply within_set_dom_obs

theorem within_traceEmpty (T : List Part) (orig : State) (hT : subP [.od, .obs] T = true) (s : State) (h1 : Within T
    orig s) :
    Within T orig (traceEmpty s) := by
  unfold traceEmpty
  try dsimp only
  with_reducible repeat' first
    | (intro _) | assumption | (exact subP_trans (by decide) hT) | apply within_odClear | apply within_odSet
    | apply within_foldl | split | dsimp only | apply within_set_obs

theorem within_clearDiag (T : List Part) (orig : State) (hT : subP [.od, .dom, .obs] T = true) (s : State) (h1 :
    Within T orig s) :
    Within T orig (clearDiag s) := by
  unfold clearDiag
  try dsimp only
  with_reducible repeat' first
    | (intro _) | assumption | (exact subP_trans (by decide) hT) | apply within_traceEmpty | apply within_odClear
    | apply within_foldl | split | dsimp only | apply within_set_dom_obs

theorem within_clearTenant (T : List Part) (orig : State) (hT : subP [.od, .flt, .frz] T = true) (s : State) (h1 :
    Within T orig s) :
    Within T orig (clearTenant s) := by
  unfold clearTenant
  try dsimp only
  with_reducible repeat' first
    | (intro _) | assumption | (exact subP_trans (by decide) hT) | apply within_modFlt | split | dsimp only
    | apply within_set_od_frz

theorem within_drainComplete (T : List Part) (orig : State) (hT : subP [.od, .dom, .obs, .frz] T = true) (s : State)
    (h1 : Within T orig s) :
    Within T orig (drainComplete s) := by
  unfold drainComplete
  try dsimp only
  with_reducible repeat' first
    | (intro _) | assumption | (exact subP_trans (by decide) hT) | apply within_breakDone | apply within_ite | split
    | dsimp only

theorem within_drainLate (T : List Part) (orig : State) (hT : subP [.od, .freeCtr, .mem, .ecc, .tiles, .mesh, .graphs,
    .cmds, .rem, .flt, .meas, .obs, .log, .frz] T = true) (s : State) (h1 : Within T orig s) :
    Within T orig (drainLate s) := by
  unfold drainLate
  try dsimp only
  with_reducible repeat' first
    | (intro _) | assumption | (exact subP_trans (by decide) hT) | apply within_afterRun | apply within_dropBreak
    | apply within_undefineAll | apply within_stopGraph | apply within_ite | split | dsimp only

theorem within_wBrkAddr (T : List Part) (orig : State) (hT : subP [.od] T = true) (i : Nat) (v : Nat) (s : State) (h1
    : Within T orig s) :
    Within T orig (wBrkAddr i v s).2 := by
  unfold wBrkAddr
  try dsimp only
  with_reducible repeat' first
    | (intro _) | assumption | (exact subP_trans (by decide) hT) | apply within_odSet | apply within_ite
    | apply within_snd_ite | (apply withinPair_of; assumption) | split | dsimp only

theorem within_wOpc (T : List Part) (orig : State) (hT : subP [.od, .flt] T = true) (i : Nat) (v : Nat) (s : State)
    (h1 : Within T orig s) :
    Within T orig (wOpc i v s).2 := by
  unfold wOpc
  try dsimp only
  with_reducible repeat' first
    | (intro _) | assumption | (exact subP_trans (by decide) hT) | apply within_modFlt | apply within_odSet
    | (apply withinPair_of; assumption) | split | dsimp only

theorem within_wTimeRef (T : List Part) (orig : State) (hT : subP [.od] T = true) (v : Nat) (s : State) (h1 : Within T
    orig s) :
    Within T orig (wTimeRef v s).2 := by
  unfold wTimeRef
  try dsimp only
  with_reducible repeat' first
    | (intro _) | assumption | (exact subP_trans (by decide) hT) | apply within_odSet | apply within_ite
    | apply within_snd_ite | (apply withinPair_of; assumption) | split | dsimp only

theorem within_wTraceCtl (T : List Part) (orig : State) (hT : subP [.od] T = true) (v : Nat) (s : State) (h1 : Within
    T orig s) :
    Within T orig (wTraceCtl v s).2 := by
  unfold wTraceCtl
  try dsimp only
  with_reducible repeat' first
    | (intro _) | assumption | (exact subP_trans (by decide) hT) | apply within_odSet | apply within_ite
    | apply within_snd_ite | (apply withinPair_of; assumption) | split | dsimp only

theorem within_wTraceArm (T : List Part) (orig : State) (hT : subP [.od, .obs] T = true) (v : Nat) (s : State) (h1 :
    Within T orig s) :
    Within T orig (wTraceArm v s).2 := by
  unfold wTraceArm
  try dsimp only
  with_reducible repeat' first
    | (intro _) | assumption | (exact subP_trans (by decide) hT) | apply within_odSet | apply within_traceEmpty
    | apply within_ite | apply within_snd_ite | (apply withinPair_of; assumption) | split | dsimp only

theorem within_traceStop (T : List Part) (orig : State) (hT : subP [.od, .obs] T = true) (s : State) (h1 : Within T
    orig s) :
    Within T orig (traceStop s) := by
  unfold traceStop
  try dsimp only
  with_reducible repeat' first
    | (intro _) | assumption | (exact subP_trans (by decide) hT) | apply within_odSet | apply within_ite | split
    | dsimp only | apply within_set_obs

theorem within_wTraceStop (T : List Part) (orig : State) (hT : subP [.od, .obs] T = true) (v : Nat) (s : State) (h1 :
    Within T orig s) :
    Within T orig (wTraceStop v s).2 := by
  unfold wTraceStop
  try dsimp only
  with_reducible repeat' first
    | (intro _) | assumption | (exact subP_trans (by decide) hT) | apply within_traceStop | apply within_ite
    | apply within_snd_ite | (apply withinPair_of; assumption) | split | dsimp only

theorem within_wTraceTrigger (T : List Part) (orig : State) (hT : subP [.od, .obs, .frz] T = true) (v : Nat) (s :
    State) (h1 : Within T orig s) :
    Within T orig (wTraceTrigger v s).2 := by
  unfold wTraceTrigger
  try dsimp only
  with_reducible repeat' first
    | (intro _) | assumption | (exact subP_trans (by decide) hT) | apply within_traceEvent | apply within_ite
    | apply within_snd_ite | (apply withinPair_of; assumption) | split | dsimp only

theorem within_wTraceOffset (T : List Part) (orig : State) (hT : subP [.od] T = true) (v : Nat) (s : State) (h1 :
    Within T orig s) :
    Within T orig (wTraceOffset v s).2 := by
  unfold wTraceOffset
  try dsimp only
  with_reducible repeat' first
    | (intro _) | assumption | (exact subP_trans (by decide) hT) | apply within_odSet | apply within_ite
    | apply within_snd_ite | (apply withinPair_of; assumption) | split | dsimp only

theorem within_resume (T : List Part) (orig : State) (hT : subP [.od, .freeCtr, .mem, .ecc, .tiles, .mesh, .graphs,
    .cmds, .rem, .flt, .meas, .obs, .log, .frz] T = true) (b : BreakSt) (s : State) (h1 : Within T orig s) :
    Within T orig (resume b s) := by
  unfold resume
  try dsimp only
  with_reducible repeat' first
    | (intro _) | assumption | (exact subP_trans (by decide) hT) | apply within_dropBreak | apply within_runReported
    | apply within_raiseReq | apply within_endFiller | apply within_ite | apply within_foldl | split | dsimp only

theorem within_wBrkResume (T : List Part) (orig : State) (hT : subP [.od, .freeCtr, .mem, .ecc, .tiles, .mesh,
    .graphs, .cmds, .rem, .flt, .meas, .obs, .log, .frz] T = true) (v : Nat) (s : State) (h1 : Within T orig s) :
    Within T orig (wBrkResume v s).2 := by
  unfold wBrkResume
  try dsimp only
  with_reducible repeat' first
    | (intro _) | assumption | (exact subP_trans (by decide) hT) | apply within_resume | apply within_ite
    | apply within_snd_ite | (apply withinPair_of; assumption) | split | dsimp only

theorem within_wfgStart (T : List Part) (orig : State) (hT : subP [.od, .obs] T = true) (h : Nat) (hang : Bool) (s :
    State) (h1 : Within T orig s) :
    Within T orig (wfgStart h hang s) := by
  unfold wfgStart
  try dsimp only
  with_reducible repeat' first
    | (intro _) | assumption | (exact subP_trans (by decide) hT) | apply within_odSet | split | dsimp only
    | apply within_set_obs

theorem within_wWfgRequest (T : List Part) (orig : State) (hT : subP [.od, .obs] T = true) (h : Nat) (s : State) (h1 :
    Within T orig s) :
    Within T orig (wWfgRequest h s).2 := by
  unfold wWfgRequest
  try dsimp only
  with_reducible repeat' first
    | (intro _) | assumption | (exact subP_trans (by decide) hT) | apply within_wfgStart | apply within_ite
    | apply within_snd_ite | (apply withinPair_of; assumption) | split | dsimp only

theorem within_wFreezeNow (T : List Part) (orig : State) (hT : subP [.od, .obs, .frz] T = true) (v : Nat) (s : State)
    (h1 : Within T orig s) :
    Within T orig (wFreezeNow v s).2 := by
  unfold wFreezeNow
  try dsimp only
  with_reducible repeat' first
    | (intro _) | assumption | (exact subP_trans (by decide) hT) | apply within_freeze | apply within_ite
    | apply within_snd_ite | (apply withinPair_of; assumption) | split | dsimp only

theorem within_wFreezeAt (T : List Part) (orig : State) (hT : subP [.od, .obs, .frz] T = true) (v : Nat) (s : State)
    (h1 : Within T orig s) :
    Within T orig (wFreezeAt v s).2 := by
  unfold wFreezeAt
  try dsimp only
  with_reducible repeat' first
    | (intro _) | assumption | (exact subP_trans (by decide) hT) | apply within_odSet | apply within_freeze
    | apply within_ite | apply within_snd_ite | (apply withinPair_of; assumption) | split | dsimp only

theorem within_wFreezeRelease (T : List Part) (orig : State) (hT : subP [.od, .frz] T = true) (v : Nat) (s : State)
    (h1 : Within T orig s) :
    Within T orig (wFreezeRelease v s).2 := by
  unfold wFreezeRelease
  try dsimp only
  with_reducible repeat' first
    | (intro _) | assumption | (exact subP_trans (by decide) hT) | apply within_odSet | apply within_ite
    | apply within_snd_ite | (apply withinPair_of; assumption) | split | dsimp only | apply within_set_frz

theorem within_freezeReached (T : List Part) (orig : State) (hT : subP [.od, .obs, .frz] T = true) (s : State) (h1 :
    Within T orig s) :
    Within T orig (freezeReached s) := by
  unfold freezeReached
  try dsimp only
  with_reducible repeat' first
    | (intro _) | assumption | (exact subP_trans (by decide) hT) | apply within_freeze | apply within_ite | split
    | dsimp only

theorem within_hang (T : List Part) (orig : State) (hT : subP [.od, .graphs, .obs, .log, .frz] T = true) (h : Nat) (s
    : State) (h1 : Within T orig s) :
    Within T orig (hang h s) := by
  unfold hang
  try dsimp only
  with_reducible repeat' first
    | (intro _) | assumption | (exact subP_trans (by decide) hT) | apply within_odSet | apply within_odAdd32
    | apply within_modRunG | apply within_logEvent | apply within_freezeSource | apply within_traceEvent
    | apply within_wfgStart | apply within_ite | split | dsimp only

theorem within_timeTick (T : List Part) (orig : State) (hT : subP [.now, .tim] T = true) (s : State) (h1 : Within T
    orig s) :
    Within T orig (timeTick s) := by
  unfold timeTick
  try dsimp only
  with_reducible repeat' first
    | (intro _) | assumption | (exact subP_trans (by decide) hT) | apply within_modTim | split | dsimp only
    | apply within_set_now

theorem within_idleTick (T : List Part) (orig : State) (hT : subP [.now, .od, .out, .freeCtr, .mem, .ecc, .tiles,
    .graphs, .cmds, .fab, .rem, .flt, .tim, .obs, .log, .frz, .can] T = true) (s : State) (h1 : Within T orig s) :
    Within T orig (idleTick s) := by
  unfold idleTick
  try dsimp only
  with_reducible repeat' first
    | (intro _) | assumption | (exact subP_trans (by decide) hT) | apply within_timeTick | apply within_traceMoves
    | apply within_pumpAll | apply within_ageWatch | apply within_ite | split | dsimp only

theorem within_refRelock (T : List Part) (orig : State) (hT : subP [.od, .tim, .mod] T = true) (s : State) (h1 :
    Within T orig s) :
    Within T orig (refRelock s) := by
  unfold refRelock
  try dsimp only
  with_reducible repeat' first
    | (intro _) | assumption | (exact subP_trans (by decide) hT) | apply within_odSet | apply within_modTim
    | apply within_odBit | apply within_ite | split | dsimp only | apply within_set_mod

theorem within_takeUpBreak (T : List Part) (orig : State) (hT : subP [.od, .dom, .obs, .frz] T = true) (s : State) (h1
    : Within T orig s) :
    Within T orig (takeUpBreak s) := by
  unfold takeUpBreak
  try dsimp only
  with_reducible repeat' first
    | (intro _) | assumption | (exact subP_trans (by decide) hT) | apply within_odSet | apply within_breakDone
    | apply within_ite | split | dsimp only | apply within_set_obs

theorem within_timeAlign (T : List Part) (orig : State) (hT : subP [.now, .od, .flt, .tim, .obs, .log, .frz, .mod] T =
    true) (s : State) (h1 : Within T orig s) :
    Within T orig (timeAlign s) := by
  unfold timeAlign
  try dsimp only
  with_reducible repeat' first
    | (intro _) | assumption | (exact subP_trans (by decide) hT) | apply within_aligned | apply within_ite | split
    | dsimp only

theorem within_traceFilled (T : List Part) (orig : State) (hT : subP [.od, .obs] T = true) (s : State) (h1 : Within T
    orig s) :
    Within T orig (traceFilled s) := by
  unfold traceFilled
  try dsimp only
  with_reducible repeat' first
    | (intro _) | assumption | (exact subP_trans (by decide) hT) | apply within_traceStop | apply within_ite | split
    | dsimp only

theorem within_tracePostDone (T : List Part) (orig : State) (hT : subP [.od, .obs] T = true) (s : State) (h1 : Within
    T orig s) :
    Within T orig (tracePostDone s) := by
  unfold tracePostDone
  try dsimp only
  with_reducible repeat' first
    | (intro _) | assumption | (exact subP_trans (by decide) hT) | apply within_traceStop | apply within_ite | split
    | dsimp only

theorem within_traceRead (T : List Part) (orig : State) (hT : subP [.od, .out, .resp] T = true) (path : Nat) (s :
    State) (h1 : Within T orig s) :
    Within T orig (traceRead path s) := by
  unfold traceRead
  try dsimp only
  with_reducible repeat' first
    | (intro _) | assumption | (exact subP_trans (by decide) hT) | apply within_tell | apply within_emit
    | apply within_ite | split | dsimp only

theorem within_wfgSecond (T : List Part) (orig : State) (hT : subP [.od, .dom, .obs] T = true) (s : State) (h1 :
    Within T orig s) :
    Within T orig (wfgSecond s) := by
  unfold wfgSecond
  try dsimp only
  with_reducible repeat' first
    | (intro _) | assumption | (exact subP_trans (by decide) hT) | apply within_odSet | split | dsimp only
    | apply within_set_dom_obs

theorem within_setCore (T : List Part) (orig : State) (hT : subP [.od] T = true) (c : Nat) (v : Nat) (s : State) (h1 :
    Within T orig s) :
    Within T orig (setCore c v s) := by
  unfold setCore
  try dsimp only
  with_reducible repeat' first
    | (intro _) | assumption | (exact subP_trans (by decide) hT) | apply within_odSet | split | dsimp only

theorem within_modSec (T : List Part) (orig : State) (hT : subP [.sec] T = true) (f : SecSt → SecSt) (s : State) (h1 :
    Within T orig s) :
    Within T orig (modSec f s) := by
  unfold modSec
  try dsimp only
  with_reducible repeat' first
    | (intro _) | assumption | (exact subP_trans (by decide) hT) | split | apply_assumption | dsimp only
    | apply within_set_sec

theorem within_bootRecords (T : List Part) (orig : State) (hT : subP [.sec] T = true) (s : State) (h1 : Within T orig
    s) :
    Within T orig (bootRecords s) := by
  unfold bootRecords
  try dsimp only
  with_reducible repeat' first
    | (intro _) | assumption | (exact subP_trans (by decide) hT) | apply within_modSec | split | dsimp only

theorem within_ownBy (T : List Part) (orig : State) (hT : subP [.od, .mod] T = true) (c : Nat) (v : Nat) (s : State)
    (h1 : Within T orig s) :
    Within T orig (ownBy c v s) := by
  unfold ownBy
  try dsimp only
  with_reducible repeat' first
    | (intro _) | assumption | (exact subP_trans (by decide) hT) | apply within_odSet | apply within_setCore | split
    | dsimp only | apply within_set_mod

theorem within_runSlot (T : List Part) (orig : State) (hT : subP [.od, .sec] T = true) (k : Nat) (bad : Nat) (s :
    State) (h1 : Within T orig s) :
    Within T orig (runSlot k bad s) := by
  unfold runSlot
  try dsimp only
  with_reducible repeat' first
    | (intro _) | assumption | (exact subP_trans (by decide) hT) | apply within_modSec | apply within_odSet | split
    | dsimp only

theorem within_bootCores (T : List Part) (orig : State) (hT : subP [.od, .out, .sec, .obs, .log, .frz, .can, .mod] T =
    true) (b : BootIn) (s : State) (h1 : Within T orig s) :
    Within T orig (bootCores b s) := by
  unfold bootCores
  try dsimp only
  with_reducible repeat' first
    | (intro _) | assumption | (exact subP_trans (by decide) hT) | apply within_odSet | apply within_modSec
    | apply within_bootRecords | apply within_setCore | apply within_ownBy | apply within_runSlot
    | apply within_logEvent | apply within_nmtBoot | apply within_coldProfile | apply within_ite | split | dsimp only
    | apply within_set_mod

theorem within_spdmSend (T : List Part) (orig : State) (hT : subP [.dom, .out] T = true) (tr : Nat) (bs : List Byte)
    (s : State) (h1 : Within T orig s) :
    Within T orig (spdmSend tr bs s) := by
  unfold spdmSend
  try dsimp only
  with_reducible repeat' first
    | (intro _) | assumption | (exact subP_trans (by decide) hT) | apply within_emit | apply within_ite | split
    | dsimp only | apply within_set_dom

theorem within_spdmError (T : List Part) (orig : State) (hT : subP [.dom, .out] T = true) (tr : Nat) (code : Nat) (s :
    State) (h1 : Within T orig s) :
    Within T orig (spdmError tr code s) := by
  unfold spdmError
  try dsimp only
  with_reducible repeat' first
    | (intro _) | assumption | (exact subP_trans (by decide) hT) | apply within_spdmSend | split | dsimp only

theorem within_certSet (T : List Part) (orig : State) (hT : subP [.od, .dom, .out, .resp, .sec, .obs, .log, .frz] T =
    true) (tr : Nat) (chain : List Byte) (ok : Bool) (anchor : List Byte) (s : State) (h1 : Within T orig s) :
    Within T orig (certSet tr chain ok anchor s) := by
  unfold certSet
  try dsimp only
  with_reducible repeat' first
    | (intro _) | assumption | (exact subP_trans (by decide) hT) | apply within_spdmError | apply within_modSec
    | apply within_spdmSend | apply within_logSimple | apply within_ite | split | dsimp only | apply within_set_resp
    | apply within_set_dom_resp

theorem within_commitDone (T : List Part) (orig : State) (hT : subP [.od, .sec, .obs, .log, .frz] T = true) (cert :
    Bool) (sig : Bool) (digest : Bool) (s : State) (h1 : Within T orig s) :
    Within T orig (commitDone cert sig digest s) := by
  unfold commitDone
  try dsimp only
  with_reducible repeat' first
    | (intro _) | assumption | (exact subP_trans (by decide) hT) | apply within_odSet | apply within_modSec
    | apply within_logEvent | apply within_ite | split | dsimp only

theorem within_vendorSend (T : List Part) (orig : State) (hT : subP [.dom, .out, .resp] T = true) (tr : Nat) (cmd :
    Nat) (code : Nat) (fields : List Byte) (s : State) (h1 : Within T orig s) :
    Within T orig (vendorSend tr cmd code fields s) := by
  unfold vendorSend
  try dsimp only
  with_reducible repeat' first
    | (intro _) | assumption | (exact subP_trans (by decide) hT) | apply within_spdmSend | split | dsimp only
    | apply within_set_resp

theorem within_contextClear (T : List Part) (orig : State) (hT : subP [.dom, .out, .resp, .hst] T = true) (tr : Nat)
    (ctx : Nat) (rsv : Nat) (s : State) (h1 : Within T orig s) :
    Within T orig (contextClear tr ctx rsv s) := by
  unfold contextClear
  try dsimp only
  with_reducible repeat' first
    | (intro _) | assumption | (exact subP_trans (by decide) hT) | apply within_setCtx | apply within_vendorSend
    | apply within_ite | split | dsimp only

theorem within_ctxAnswer (T : List Part) (orig : State) (hT : subP [.dom, .out, .resp] T = true) (tr : Nat) (code :
    Nat) (r : CtxReq) (s : State) (h1 : Within T orig s) :
    Within T orig (ctxAnswer tr code r s) := by
  unfold ctxAnswer
  try dsimp only
  with_reducible repeat' first
    | (intro _) | assumption | (exact subP_trans (by decide) hT) | apply within_vendorSend | split | dsimp only

theorem within_contextKeyed (T : List Part) (orig : State) (hT : subP [.dom, .out, .resp, .hst, .meas] T = true) (tr :
    Nat) (r : CtxReq) (s : State) (h1 : Within T orig s) :
    Within T orig (contextKeyed tr r s) := by
  unfold contextKeyed
  try dsimp only
  with_reducible repeat' first
    | (intro _) | assumption | (exact subP_trans (by decide) hT) | apply within_ctxAnswer | apply within_setCtx
    | apply within_ite | split | dsimp only | apply within_set_meas

theorem within_contextSet (T : List Part) (orig : State) (hT : subP [.dom, .out, .resp, .sec] T = true) (tr : Nat) (r
    : CtxReq) (s : State) (h1 : Within T orig s) :
    Within T orig (contextSet tr r s) := by
  unfold contextSet
  try dsimp only
  with_reducible repeat' first
    | (intro _) | assumption | (exact subP_trans (by decide) hT) | apply within_ctxAnswer | apply within_secAdd
    | apply within_ite | split | dsimp only

theorem within_dikDone (T : List Part) (orig : State) (hT : subP [.sec] T = true) (s : State) (h1 : Within T orig s) :
    Within T orig (dikDone s) := by
  unfold dikDone
  try dsimp only
  with_reducible repeat' first
    | (intro _) | assumption | (exact subP_trans (by decide) hT) | apply within_modSec | apply within_ite | split
    | dsimp only

theorem within_setConn (T : List Part) (orig : State) (hT : subP [.sec] T = true) (tr : Nat) (c : ConnSt) (s : State)
    (h1 : Within T orig s) :
    Within T orig (setConn tr c s) := by
  unfold setConn
  try dsimp only
  with_reducible repeat' first
    | (intro _) | assumption | (exact subP_trans (by decide) hT) | apply within_modSec | split | dsimp only

theorem within_spdmVersion (T : List Part) (orig : State) (hT : subP [.dom, .out, .sec] T = true) (tr : Nat) (s :
    State) (h1 : Within T orig s) :
    Within T orig (spdmVersion tr s) := by
  unfold spdmVersion
  try dsimp only
  with_reducible repeat' first
    | (intro _) | assumption | (exact subP_trans (by decide) hT) | apply within_spdmSend | apply within_setConn
    | apply within_ite | split | dsimp only

theorem within_spdmDo (T : List Part) (orig : State) (hT : subP [.dom, .out] T = true) (tr : Nat) (need : Nat) (f :
    State → State) (s : State) (hf : ∀ x0, Within T orig x0 → Within T orig (f x0)) (h1 : Within T orig s) :
    Within T orig (spdmDo tr need f s) := by
  unfold spdmDo
  try dsimp only
  with_reducible repeat' first
    | (intro _) | assumption | (exact subP_trans (by decide) hT) | apply within_spdmError | apply within_ite | split
    | apply_assumption | dsimp only

theorem within_spdmCaps (T : List Part) (orig : State) (hT : subP [.dom, .out, .sec] T = true) (tr : Nat) (s : State)
    (h1 : Within T orig s) :
    Within T orig (spdmCaps tr s) := by
  unfold spdmCaps
  try dsimp only
  with_reducible repeat' first
    | (intro _) | assumption | (exact subP_trans (by decide) hT) | apply within_spdmSend | apply within_setConn
    | split | dsimp only

theorem within_spdmAlgs (T : List Part) (orig : State) (hT : subP [.dom, .out, .sec] T = true) (tr : Nat) (asym : Nat)
    (hash : Nat) (mhash : Nat) (s : State) (h1 : Within T orig s) :
    Within T orig (spdmAlgs tr asym hash mhash s) := by
  unfold spdmAlgs
  try dsimp only
  with_reducible repeat' first
    | (intro _) | assumption | (exact subP_trans (by decide) hT) | apply within_spdmSend | apply within_setConn
    | apply within_spdmError | apply within_ite | split | dsimp only

theorem within_spdmDigests (T : List Part) (orig : State) (hT : subP [.dom, .out] T = true) (tr : Nat) (s : State) (h1
    : Within T orig s) :
    Within T orig (spdmDigests tr s) := by
  unfold spdmDigests
  try dsimp only
  with_reducible repeat' first
    | (intro _) | assumption | (exact subP_trans (by decide) hT) | apply within_spdmSend | split | dsimp only

theorem within_spdmCert (T : List Part) (orig : State) (hT : subP [.dom, .out] T = true) (tr : Nat) (slot : Nat) (off
    : Nat) (len : Nat) (s : State) (h1 : Within T orig s) :
    Within T orig (spdmCert tr slot off len s) := by
  unfold spdmCert
  try dsimp only
  with_reducible repeat' first
    | (intro _) | assumption | (exact subP_trans (by decide) hT) | apply within_spdmError | apply within_spdmSend
    | apply within_ite | split | dsimp only

theorem within_spdmSign (T : List Part) (orig : State) (hT : subP [.dom, .out, .sec] T = true) (tr : Nat) (req : List
    Byte) (body : List Byte) (a3 : Option (List Byte × List Byte)) (s : State) (h1 : Within T orig s) :
    Within T orig (spdmSign tr req body a3 s) := by
  unfold spdmSign
  try dsimp only
  with_reducible repeat' first
    | (intro _) | assumption | (exact subP_trans (by decide) hT) | apply within_secAdd | apply within_spdmError
    | apply within_ite | split | dsimp only

theorem within_spdmChallenge (T : List Part) (orig : State) (hT : subP [.dom, .out, .freeCtr, .sec] T = true) (tr :
    Nat) (slot : Nat) (summary : Bool) (c : ChalReq) (s : State) (h1 : Within T orig s) :
    Within T orig (spdmChallenge tr slot summary c s) := by
  unfold spdmChallenge
  try dsimp only
  with_reducible repeat' first
    | (intro _) | assumption | (exact subP_trans (by decide) hT) | apply within_spdmError | apply within_freeNext
    | apply within_spdmSign | apply within_ite | (apply withinPair_of; assumption) | split | dsimp only

theorem within_spdmMeas (T : List Part) (orig : State) (hT : subP [.dom, .out, .freeCtr, .sec] T = true) (tr : Nat) (r
    : MeasReq) (s : State) (h1 : Within T orig s) :
    Within T orig (spdmMeas tr r s) := by
  unfold spdmMeas
  try dsimp only
  with_reducible repeat' first
    | (intro _) | assumption | (exact subP_trans (by decide) hT) | apply within_spdmError | apply within_freeNext
    | apply within_spdmSign | apply within_spdmSend | apply within_ite | (apply withinPair_of; assumption) | split
    | dsimp only

theorem within_spdmMel (T : List Part) (orig : State) (hT : subP [.dom, .out] T = true) (tr : Nat) (off : Nat) (len :
    Nat) (s : State) (h1 : Within T orig s) :
    Within T orig (spdmMel tr off len s) := by
  unfold spdmMel
  try dsimp only
  with_reducible repeat' first
    | (intro _) | assumption | (exact subP_trans (by decide) hT) | apply within_spdmError | apply within_spdmSend
    | apply within_ite | split | dsimp only

theorem within_spdmCsr (T : List Part) (orig : State) (hT : subP [.dom, .out, .sec] T = true) (tr : Nat) (s : State)
    (h1 : Within T orig s) :
    Within T orig (spdmCsr tr s) := by
  unfold spdmCsr
  try dsimp only
  with_reducible repeat' first
    | (intro _) | assumption | (exact subP_trans (by decide) hT) | apply within_spdmSign | split | dsimp only

theorem within_spdmSetCert (T : List Part) (orig : State) (hT : subP [.dom, .out, .sec] T = true) (tr : Nat) (slot :
    Nat) (chain : List Byte) (ok : Bool) (anchor : List Byte) (s : State) (h1 : Within T orig s) :
    Within T orig (spdmSetCert tr slot chain ok anchor s) := by
  unfold spdmSetCert
  try dsimp only
  with_reducible repeat' first
    | (intro _) | assumption | (exact subP_trans (by decide) hT) | apply within_spdmError | apply within_secAdd
    | apply within_ite | split | dsimp only

theorem within_rangeStart (T : List Part) (orig : State) (hT : subP [.od, .meas] T = true) (a : Nat) (n : Nat) (s :
    State) (h1 : Within T orig s) :
    Within T orig (rangeStart a n s) := by
  unfold rangeStart
  try dsimp only
  with_reducible repeat' first
    | (intro _) | assumption | (exact subP_trans (by decide) hT) | apply within_regionLoaded | split | dsimp only
    | apply within_set_meas

theorem within_measureRange (T : List Part) (orig : State) (hT : subP [.od, .dom, .out, .resp, .meas] T = true) (tr :
    Nat) (a : Nat) (n : Nat) (s : State) (h1 : Within T orig s) :
    Within T orig (measureRange tr a n s) := by
  unfold measureRange
  try dsimp only
  with_reducible repeat' first
    | (intro _) | assumption | (exact subP_trans (by decide) hT) | apply within_vendorSend | apply within_rangeStart
    | apply within_ite | split | dsimp only

theorem within_spdmServe (T : List Part) (orig : State) (hT : subP [.od, .dom, .out, .resp, .freeCtr, .hst, .sec,
    .meas] T = true) (tr : Nat) (r : SpdmReq) (s : State) (h1 : Within T orig s) :
    Within T orig (spdmServe tr r s) := by
  unfold spdmServe
  try dsimp only
  with_reducible repeat' first
    | (intro _) | assumption | (exact subP_trans (by decide) hT) | apply within_spdmVersion | apply within_spdmDo
    | apply within_spdmCaps | apply within_spdmAlgs | apply within_spdmDigests | apply within_spdmCert
    | apply within_spdmChallenge | apply within_spdmMeas | apply within_spdmMel | apply within_spdmCsr
    | apply within_spdmSetCert | apply within_contextSet | apply within_contextClear | apply within_measureRange
    | apply within_spdmError | apply within_ite | split | dsimp only

theorem within_drainSpdm (T : List Part) (orig : State) (hT : subP [.od, .dom, .out, .resp, .freeCtr, .hst, .sec,
    .meas] T = true) (s : State) (h1 : Within T orig s) :
    Within T orig (drainSpdm s) := by
  unfold drainSpdm
  try dsimp only
  with_reducible repeat' first
    | (intro _) | assumption | (exact subP_trans (by decide) hT) | apply within_spdmServe | apply within_modSec
    | apply within_ite | apply within_foldl | split | dsimp only

theorem within_wStageChunk (T : List Part) (orig : State) (hT : subP [.od, .sec] T = true) (bs : List Byte) (s :
    State) (h1 : Within T orig s) :
    Within T orig (wStageChunk bs s).2 := by
  unfold wStageChunk
  try dsimp only
  with_reducible repeat' first
    | (intro _) | assumption | (exact subP_trans (by decide) hT) | apply within_odSet | apply within_modSec
    | apply within_ite | apply within_snd_ite | (apply withinPair_of; assumption) | split | dsimp only

theorem within_wLinkAuth (T : List Part) (orig : State) (hT : subP [.od] T = true) (v : Nat) (s : State) (h1 : Within
    T orig s) :
    Within T orig (wLinkAuth v s).2 := by
  unfold wLinkAuth
  try dsimp only
  with_reducible repeat' first
    | (intro _) | assumption | (exact subP_trans (by decide) hT) | apply within_odSet | apply within_ite
    | apply within_snd_ite | (apply withinPair_of; assumption) | split | dsimp only

theorem within_wStageOffset (T : List Part) (orig : State) (hT : subP [.od] T = true) (v : Nat) (s : State) (h1 :
    Within T orig s) :
    Within T orig (wStageOffset v s).2 := by
  unfold wStageOffset
  try dsimp only
  with_reducible repeat' first
    | (intro _) | assumption | (exact subP_trans (by decide) hT) | apply within_odSet | apply within_ite
    | apply within_snd_ite | (apply withinPair_of; assumption) | split | dsimp only

theorem within_wStageCommit (T : List Part) (orig : State) (hT : subP [.sec] T = true) (v : Nat) (s : State) (h1 :
    Within T orig s) :
    Within T orig (wStageCommit v s).2 := by
  unfold wStageCommit
  try dsimp only
  with_reducible repeat' first
    | (intro _) | assumption | (exact subP_trans (by decide) hT) | apply within_modSec | apply within_ite
    | apply within_snd_ite | (apply withinPair_of; assumption) | split | dsimp only

theorem within_wActivate (T : List Part) (orig : State) (hT : subP [.od, .out, .sec, .meas, .obs, .log, .frz, .can,
    .mod] T = true) (v : Nat) (b : BootIn) (s : State) (h1 : Within T orig s) :
    Within T orig (wActivate v b s).2 := by
  unfold wActivate
  try dsimp only
  with_reducible repeat' first
    | (intro _) | assumption | (exact subP_trans (by decide) hT) | apply within_modSec | apply within_measChange
    | apply within_bootCores | apply within_ite | apply within_snd_ite | (apply withinPair_of; assumption) | split
    | dsimp only

theorem within_wCommitSvn (T : List Part) (orig : State) (hT : subP [.od] T = true) (v : Nat) (s : State) (h1 : Within
    T orig s) :
    Within T orig (wCommitSvn v s).2 := by
  unfold wCommitSvn
  try dsimp only
  with_reducible repeat' first
    | (intro _) | assumption | (exact subP_trans (by decide) hT) | apply within_odSet | apply within_ite
    | apply within_snd_ite | (apply withinPair_of; assumption) | split | dsimp only

theorem within_spdmSigned (T : List Part) (orig : State) (hT : subP [.dom, .out, .sec] T = true) (tr : Nat) (req :
    List Byte) (body : List Byte) (a3 : Option (List Byte × List Byte)) (s : State) (h1 : Within T orig s) :
    Within T orig (spdmSigned tr req body a3 s) := by
  unfold spdmSigned
  try dsimp only
  with_reducible repeat' first
    | (intro _) | assumption | (exact subP_trans (by decide) hT) | apply within_setConn | apply within_spdmSend
    | split | dsimp only

theorem within_opDone (T : List Part) (orig : State) (hT : subP [.od, .dom, .out, .resp, .freeCtr, .hst, .fab, .sec,
    .meas, .obs, .log, .frz] T = true) (o : SecOp) (s : State) (h1 : Within T orig s) :
    Within T orig (opDone o s) := by
  unfold opDone
  try dsimp only
  with_reducible repeat' first
    | (intro _) | assumption | (exact subP_trans (by decide) hT) | apply within_spdmSigned | apply within_certSet
    | apply within_contextKeyed | apply within_certDone | apply within_offerNow | apply within_installKey | split
    | dsimp only

theorem within_engineDone (T : List Part) (orig : State) (hT : subP [.od, .dom, .out, .resp, .freeCtr, .hst, .fab,
    .sec, .meas, .obs, .log, .frz] T = true) (s : State) (h1 : Within T orig s) :
    Within T orig (engineDone s) := by
  unfold engineDone
  try dsimp only
  with_reducible repeat' first
    | (intro _) | assumption | (exact subP_trans (by decide) hT) | apply within_opDone | apply within_secFill | split
    | dsimp only

theorem within_rangeRead (T : List Part) (orig : State) (hT : subP [.od, .out, .ecc, .obs, .log, .frz, .can] T = true)
    (a : Nat) (n : Nat) (s : State) (h1 : Within T orig s) :
    Within T orig (rangeRead a n s) := by
  unfold rangeRead
  try dsimp only
  with_reducible repeat' first
    | (intro _) | assumption | (exact subP_trans (by decide) hT) | apply within_touchChannel | apply within_correctIn
    | apply within_ueRecord | split | dsimp only

theorem within_rangeDone (T : List Part) (orig : State) (hT : subP [.od, .out, .ecc, .meas, .obs, .log, .frz, .can] T
    = true) (d : Nat) (s : State) (h1 : Within T orig s) :
    Within T orig (rangeDone d s) := by
  unfold rangeDone
  try dsimp only
  with_reducible repeat' first
    | (intro _) | assumption | (exact subP_trans (by decide) hT) | apply within_rangeRead | apply within_measChange
    | apply within_odAdd | split | dsimp only | apply within_set_meas

theorem within_spdmArrive (T : List Part) (orig : State) (hT : subP [.od, .dom, .out, .resp, .freeCtr, .hst, .sec,
    .meas] T = true) (tr : Nat) (r : SpdmReq) (s : State) (h1 : Within T orig s) :
    Within T orig (spdmArrive tr r s) := by
  unfold spdmArrive
  try dsimp only
  with_reducible repeat' first
    | (intro _) | assumption | (exact subP_trans (by decide) hT) | apply within_modSec | apply within_spdmServe
    | apply within_ite | split | dsimp only

theorem within_ringsOff (T : List Part) (orig : State) (hT : subP [.hst] T = true) (s : State) (h1 : Within T orig s)
    :
    Within T orig (ringsOff s) := by
  unfold ringsOff
  try dsimp only
  with_reducible repeat' first
    | (intro _) | assumption | (exact subP_trans (by decide) hT) | split | dsimp only | apply within_set_hst

theorem within_dropCommands (T : List Part) (orig : State) (hT : subP [.od, .out, .freeCtr, .mem, .cmds, .hst, .rem] T
    = true) (code : Nat) (s : State) (h1 : Within T orig s) :
    Within T orig (dropCommands code s) := by
  unfold dropCommands
  try dsimp only
  with_reducible repeat' first
    | (intro _) | assumption | (exact subP_trans (by decide) hT) | apply within_dropHostWork | apply within_finish
    | apply within_completeAll | apply within_ite | apply within_foldl | split | dsimp only | apply within_set_cmds

theorem within_dropGraphs (T : List Part) (orig : State) (hT : subP [.od, .freeCtr, .mem, .ecc, .tiles, .mesh,
    .graphs, .cmds, .rem, .flt, .meas, .obs, .log, .frz] T = true) (code : Nat) (s : State) (h1 : Within T orig s) :
    Within T orig (dropGraphs code s) := by
  unfold dropGraphs
  try dsimp only
  with_reducible repeat' first
    | (intro _) | assumption | (exact subP_trans (by decide) hT) | apply within_freeGraph | apply within_stopGraph
    | apply within_measUnload | apply within_ite | apply within_foldl | split | dsimp only | apply within_set_mesh

theorem within_regionClear (T : List Part) (orig : State) (hT : subP [.od, .meas] T = true) (d : Nat) (s0 : State) (h1
    : Within T orig s0) :
    Within T orig (regionClear d s0) := by
  unfold regionClear
  try dsimp only
  with_reducible repeat' first
    | (intro _) | assumption | (exact subP_trans (by decide) hT) | apply within_measChange | apply within_odSet
    | apply within_ite | split | dsimp only | apply within_set_meas

theorem within_primerBegin (T : List Part) (orig : State) (hT : subP [.od, .out, .freeCtr, .mem, .ecc, .tiles, .mesh,
    .graphs, .cmds, .hst, .rem, .flt, .sec, .meas, .obs, .log, .frz, .mod] T = true) (s : State) (h1 : Within T orig
    s) :
    Within T orig (primerBegin s) := by
  unfold primerBegin
  try dsimp only
  with_reducible repeat' first
    | (intro _) | assumption | (exact subP_trans (by decide) hT) | apply within_ringsOff | apply within_dropCommands
    | apply within_dropGraphs | apply within_disarm | apply within_regionClear | apply within_modFlt
    | apply within_modSec | apply within_odSet | apply within_setModState | apply within_setCapBit | split
    | dsimp only | apply within_set_cmds

theorem within_wConfMode (T : List Part) (orig : State) (hT : subP [.od, .out, .freeCtr, .mem, .ecc, .tiles, .mesh,
    .graphs, .cmds, .hst, .rem, .flt, .sec, .meas, .obs, .log, .frz, .mod] T = true) (v : Nat) (s : State) (h1 :
    Within T orig s) :
    Within T orig (wConfMode v s).2 := by
  unfold wConfMode
  try dsimp only
  with_reducible repeat' first
    | (intro _) | assumption | (exact subP_trans (by decide) hT) | apply within_primerBegin | apply within_odSet
    | apply within_modSec | apply within_ite | apply within_snd_ite | (apply withinPair_of; assumption) | split
    | dsimp only

theorem within_wPrimerStart (T : List Part) (orig : State) (hT : subP [.od, .out, .freeCtr, .mem, .ecc, .tiles, .mesh,
    .graphs, .cmds, .hst, .rem, .flt, .sec, .meas, .obs, .log, .frz, .mod] T = true) (v : Nat) (s : State) (h1 :
    Within T orig s) :
    Within T orig (wPrimerStart v s).2 := by
  unfold wPrimerStart
  try dsimp only
  with_reducible repeat' first
    | (intro _) | assumption | (exact subP_trans (by decide) hT) | apply within_primerBegin | apply within_ite
    | apply within_snd_ite | (apply withinPair_of; assumption) | split | dsimp only

theorem within_eraseSwitch (T : List Part) (orig : State) (hT : subP [.fab] T = true) (s : State) (h1 : Within T orig
    s) :
    Within T orig (eraseSwitch s) := by
  unfold eraseSwitch
  try dsimp only
  with_reducible repeat' first
    | (intro _) | assumption | (exact subP_trans (by decide) hT) | apply within_freeSlots | apply within_foldl | split
    | dsimp only | apply within_set_fab

theorem within_regionDone (T : List Part) (orig : State) (hT : subP [.od, .meas] T = true) (d : Nat) (s : State) (h1 :
    Within T orig s) :
    Within T orig (regionDone d s) := by
  unfold regionDone
  try dsimp only
  with_reducible repeat' first
    | (intro _) | assumption | (exact subP_trans (by decide) hT) | apply within_measChange | apply within_odSet
    | split | dsimp only

theorem within_primerCheck (T : List Part) (orig : State) (hT : subP [.od, .mem, .ecc, .hst, .rem, .flt, .sec, .meas,
    .obs, .log, .frz] T = true) (whole : Bool) (s : State) (h1 : Within T orig s) :
    Within T orig (primerCheck whole s) := by
  unfold primerCheck
  try dsimp only
  with_reducible repeat' first
    | (intro _) | assumption | (exact subP_trans (by decide) hT) | apply within_modSec | apply within_zeroFill
    | apply within_modFlt | apply within_regionDone | apply within_setStale | apply within_ite | split | dsimp only
    | apply within_set_hst_rem

theorem within_primerFinish (T : List Part) (orig : State) (hT : subP [.od, .out, .hst, .flt, .sec, .meas, .obs, .log,
    .frz, .mod] T = true) (s : State) (h1 : Within T orig s) :
    Within T orig (primerFinish s) := by
  unfold primerFinish
  try dsimp only
  with_reducible repeat' first
    | (intro _) | assumption | (exact subP_trans (by decide) hT) | apply within_modSec | apply within_odSet
    | apply within_odAdd32 | apply within_logEvent | apply within_modFlt | apply within_setCapBit
    | apply within_flushMsix | apply within_setModState | apply within_ite | split | dsimp only
    | apply within_set_meas

theorem within_primerRun (T : List Part) (orig : State) (hT : subP [.od, .dom, .freeCtr, .mem, .ecc, .tiles, .fab,
    .rem, .flt, .sec, .obs, .log, .frz] T = true) (s : State) (h1 : Within T orig s) :
    Within T orig (primerRun s) := by
  unfold primerRun
  try dsimp only
  with_reducible repeat' first
    | (intro _) | assumption | (exact subP_trans (by decide) hT) | apply within_setCapBit | apply within_odSet
    | apply within_clearTenant | apply within_eraseSwitch | apply within_modSec | apply within_clearDiag
    | apply within_forceKeys | apply within_dropCells | apply within_zeroFill | apply within_ite | split | dsimp only
    | apply within_set_tiles_rem

end Sys2Proof.Machine
end

