-- ==== Sys2Proof/Laws/WithinModule.lean ====
section
/-! SUPPORT. The parts of the state that each operation may change: Trowel, start and stop, the dictionary, the field network and BAR 0. -/
namespace Sys2Proof.Machine
open Sys2Proof

theorem within_adoptOwn (T : List Part) (orig : State) (hT : subP [.od, .trw] T = true) (e : Nat) (n : Nat) (s :
    State) (h1 : Within T orig s) :
    Within T orig (adoptOwn e n s) := by
  unfold adoptOwn
  try dsimp only
  with_reducible repeat' first
    | (intro _) | assumption | (exact subP_trans (by decide) hT) | apply within_modRail | apply within_railPut
    | apply within_showPhases | apply within_setPhase | apply within_ite | apply within_foldl | split | dsimp only

theorem within_setEngRail (T : List Part) (orig : State) (hT : subP [.trw] T = true) (e : Nat) (n : Nat) (x : ERail)
    (s : State) (h1 : Within T orig s) :
    Within T orig (setEngRail e n x s) := by
  unfold setEngRail
  try dsimp only
  with_reducible repeat' first
    | (intro _) | assumption | (exact subP_trans (by decide) hT) | apply within_modTrw | apply within_ite | split
    | dsimp only

theorem within_adoptRail (T : List Part) (orig : State) (hT : subP [.trw] T = true) (e : Nat) (n : Nat) (s : State)
    (h1 : Within T orig s) :
    Within T orig (adoptRail e n s) := by
  unfold adoptRail
  try dsimp only
  with_reducible repeat' first
    | (intro _) | assumption | (exact subP_trans (by decide) hT) | apply within_setEngRail | apply within_ite | split
    | dsimp only

theorem within_allRailsFault (T : List Part) (orig : State) (hT : subP [.od, .out, .freeCtr, .mem, .ecc, .tiles,
    .mesh, .graphs, .cmds, .hst, .fab, .rem, .flt, .trw, .sec, .meas, .tim, .obs, .log, .frz, .can, .mod] T = true)
    (src : Nat) (s : State) (h1 : Within T orig s) :
    Within T orig (allRailsFault src s) := by
  unfold allRailsFault
  try dsimp only
  with_reducible repeat' first
    | (intro _) | assumption | (exact subP_trans (by decide) hT) | apply within_faultStop | apply within_railStop
    | apply within_ite | apply within_foldl | split | dsimp only

theorem within_busConverterOff (T : List Part) (orig : State) (hT : subP [.od, .out, .obs, .log, .frz, .can] T = true)
    (c : Nat) (s : State) (h1 : Within T orig s) :
    Within T orig (busConverterOff c s) := by
  unfold busConverterOff
  try dsimp only
  with_reducible repeat' first
    | (intro _) | assumption | (exact subP_trans (by decide) hT) | apply within_logSimple | apply within_odBit
    | apply within_emcyMsg | apply within_emcyRaise | apply within_ite | split | dsimp only

theorem within_setEng (T : List Part) (orig : State) (hT : subP [.od] T = true) (e : Nat) (v : Nat) (s : State) (h1 :
    Within T orig s) :
    Within T orig (setEng e v s) := by
  unfold setEng
  try dsimp only
  with_reducible repeat' first
    | (intro _) | assumption | (exact subP_trans (by decide) hT) | apply within_odSet | split | dsimp only

theorem within_wHandover (T : List Part) (orig : State) (hT : subP [.trw] T = true) (v : Nat) (s : State) (h1 : Within
    T orig s) :
    Within T orig (wHandover v s).2 := by
  unfold wHandover
  try dsimp only
  with_reducible repeat' first
    | (intro _) | assumption | (exact subP_trans (by decide) hT) | apply within_modTrw | apply within_ite
    | apply within_snd_ite | (apply withinPair_of; assumption) | split | dsimp only

theorem within_engFailed (T : List Part) (orig : State) (hT : subP [.od, .trw] T = true) (e : Nat) (s : State) (h1 :
    Within T orig s) :
    Within T orig (engFailed e s) := by
  unfold engFailed
  try dsimp only
  with_reducible repeat' first
    | (intro _) | assumption | (exact subP_trans (by decide) hT) | apply within_modTrw | apply within_setEng
    | apply within_ite | split | dsimp only

theorem within_engineFault (T : List Part) (orig : State) (hT : subP [.od, .out, .freeCtr, .mem, .ecc, .tiles, .mesh,
    .graphs, .cmds, .hst, .fab, .rem, .flt, .trw, .sec, .meas, .tim, .obs, .log, .frz, .can, .mod] T = true) (e : Nat)
    (s : State) (h1 : Within T orig s) :
    Within T orig (engineFault e s) := by
  unfold engineFault
  try dsimp only
  with_reducible repeat' first
    | (intro _) | assumption | (exact subP_trans (by decide) hT) | apply within_modTrw | apply within_engFailed
    | apply within_allRailsFault | apply within_logSimple | apply within_ite | split | dsimp only

theorem within_engineRestart (T : List Part) (orig : State) (hT : subP [.od, .trw] T = true) (e : Nat) (s : State) (h1
    : Within T orig s) :
    Within T orig (engineRestart e s) := by
  unfold engineRestart
  try dsimp only
  with_reducible repeat' first
    | (intro _) | assumption | (exact subP_trans (by decide) hT) | apply within_setEng | apply within_modTrw
    | apply within_ite | split | dsimp only

theorem within_engineStep (T : List Part) (orig : State) (hT : subP [.od, .trw] T = true) (e : Nat) (n : Nat) (vin :
    Nat) (m : RailMean) (iin : Int) (chk : Bool) (ps : List Nat) (s : State) (h1 : Within T orig s) :
    Within T orig (engineStep e n vin m iin chk ps s) := by
  unfold engineStep
  try dsimp only
  with_reducible repeat' first
    | (intro _) | assumption | (exact subP_trans (by decide) hT) | apply within_setEngRail | apply within_railFlag
    | apply within_railPut | apply within_modRail | apply within_ite | split | dsimp only

theorem within_suspend (T : List Part) (orig : State) (hT : subP [.trw] T = true) (n : Nat) (s : State) (h1 : Within T
    orig s) :
    Within T orig (suspend n s) := by
  unfold suspend
  try dsimp only
  with_reducible repeat' first
    | (intro _) | assumption | (exact subP_trans (by decide) hT) | apply within_modRail | split | dsimp only

theorem within_softStart (T : List Part) (orig : State) (hT : subP [.od, .flt, .trw] T = true) (n : Nat) (s : State)
    (h1 : Within T orig s) :
    Within T orig (softStart n s) := by
  unfold softStart
  try dsimp only
  with_reducible repeat' first
    | (intro _) | assumption | (exact subP_trans (by decide) hT) | apply within_phasesTo | apply within_railPut
    | apply within_suspend | apply within_modRail | apply within_modFlt | apply within_ite | split | dsimp only

theorem within_groupRailStart (T : List Part) (orig : State) (hT : subP [.od, .out, .freeCtr, .mem, .ecc, .tiles,
    .mesh, .graphs, .cmds, .hst, .fab, .rem, .flt, .trw, .sec, .meas, .tim, .obs, .log, .frz, .can, .mod] T = true) (s
    : State) (n : Nat) (h1 : Within T orig s) :
    Within T orig (groupRailStart s n) := by
  unfold groupRailStart
  try dsimp only
  with_reducible repeat' first
    | (intro _) | assumption | (exact subP_trans (by decide) hT) | apply within_softStart | apply within_railPut
    | apply within_railFault | apply within_ite | split | dsimp only

theorem within_groupStart (T : List Part) (orig : State) (hT : subP [.od, .out, .freeCtr, .mem, .ecc, .tiles, .mesh,
    .graphs, .cmds, .hst, .fab, .rem, .flt, .trw, .sec, .meas, .tim, .obs, .log, .frz, .can, .mod] T = true) (g : Nat)
    (s : State) (h1 : Within T orig s) :
    Within T orig (groupStart g s) := by
  unfold groupStart
  try dsimp only
  with_reducible repeat' first
    | (intro _) | assumption | (exact subP_trans (by decide) hT) | apply within_groupRailStart | apply within_ite
    | apply within_foldl | split | dsimp only

theorem within_restartWindows (T : List Part) (orig : State) (hT : subP [.trw] T = true) (e : Nat) (s : State) (h1 :
    Within T orig s) :
    Within T orig (restartWindows e s) := by
  unfold restartWindows
  try dsimp only
  with_reducible repeat' first
    | (intro _) | assumption | (exact subP_trans (by decide) hT) | apply within_setEngRail | apply within_modRail
    | apply within_modTrw | apply within_foldl | split | dsimp only

theorem within_handOver (T : List Part) (orig : State) (hT : subP [.od, .trw] T = true) (s : State) (h1 : Within T
    orig s) :
    Within T orig (handOver s) := by
  unfold handOver
  try dsimp only
  with_reducible repeat' first
    | (intro _) | assumption | (exact subP_trans (by decide) hT) | apply within_modTrw | apply within_adoptOwn
    | apply within_restartWindows | apply within_odSet | apply within_setEng | apply within_ite | apply within_foldl
    | split | dsimp only

theorem within_latchOff (T : List Part) (orig : State) (hT : subP [.od, .out, .freeCtr, .mem, .ecc, .tiles, .mesh,
    .graphs, .cmds, .hst, .fab, .rem, .flt, .trw, .sec, .meas, .tim, .obs, .log, .frz, .can, .mod] T = true) (n : Nat)
    (s : State) (h1 : Within T orig s) :
    Within T orig (latchOff n s) := by
  unfold latchOff
  try dsimp only
  with_reducible repeat' first
    | (intro _) | assumption | (exact subP_trans (by decide) hT) | apply within_railFlag | apply within_railStop
    | apply within_logSimple | apply within_startFail | apply within_emcyRaise | split | dsimp only

theorem within_limitFlags (T : List Part) (orig : State) (hT : subP [.od] T = true) (n : Nat) (s : State) (h1 : Within
    T orig s) :
    Within T orig (limitFlags n s) := by
  unfold limitFlags
  try dsimp only
  with_reducible repeat' first
    | (intro _) | assumption | (exact subP_trans (by decide) hT) | apply within_railFlag | split | dsimp only

theorem within_meansStep (T : List Part) (orig : State) (hT : subP [.od, .trw] T = true) (n : Nat) (m : RailMean) (y :
    Int) (s : State) (h1 : Within T orig s) :
    Within T orig (meansStep n m y s) := by
  unfold meansStep
  try dsimp only
  with_reducible repeat' first
    | (intro _) | assumption | (exact subP_trans (by decide) hT) | apply within_modRail | apply within_railPut
    | apply within_ite | apply within_foldl | split | dsimp only

theorem within_mirrorDeadline (T : List Part) (orig : State) (hT : subP [.od, .out, .freeCtr, .mem, .ecc, .tiles,
    .mesh, .graphs, .cmds, .hst, .fab, .rem, .flt, .trw, .sec, .meas, .tim, .obs, .log, .frz, .can, .mod] T = true) (s
    : State) (h1 : Within T orig s) :
    Within T orig (mirrorDeadline s) := by
  unfold mirrorDeadline
  try dsimp only
  with_reducible repeat' first
    | (intro _) | assumption | (exact subP_trans (by decide) hT) | apply within_engineFault | apply within_modTrw
    | apply within_ite | split | dsimp only

theorem within_mirrorFrame (T : List Part) (orig : State) (hT : subP [.od, .trw] T = true) (s : State) (h1 : Within T
    orig s) :
    Within T orig (mirrorFrame s) := by
  unfold mirrorFrame
  try dsimp only
  with_reducible repeat' first
    | (intro _) | assumption | (exact subP_trans (by decide) hT) | apply within_modTrw | apply within_adoptRail
    | apply within_setEng | apply within_ite | apply within_foldl | split | dsimp only

theorem within_syncStep (T : List Part) (orig : State) (hT : subP [.od, .mod] T = true) (sync : Option (Nat × Int)) (s
    : State) (h1 : Within T orig s) :
    Within T orig (syncStep sync s) := by
  unfold syncStep
  try dsimp only
  with_reducible repeat' first
    | (intro _) | assumption | (exact subP_trans (by decide) hT) | apply within_odSet | apply within_ite | split
    | dsimp only | apply within_set_mod

theorem within_regionStep (T : List Part) (orig : State) (hT : subP [.od, .trw] T = true) (e : Nat) (n : Nat) (swapped
    : Bool) (s : State) (h1 : Within T orig s) :
    Within T orig (regionStep e n swapped s) := by
  unfold regionStep
  try dsimp only
  with_reducible repeat' first
    | (intro _) | assumption | (exact subP_trans (by decide) hT) | apply within_setEngRail | apply within_odAdd32
    | apply within_railFlag | apply within_ite | split | dsimp only

theorem within_standbyStep (T : List Part) (orig : State) (hT : subP [.trw] T = true) (n : Nat) (swapped : Bool) (s :
    State) (h1 : Within T orig s) :
    Within T orig (standbyStep n swapped s) := by
  unfold standbyStep
  try dsimp only
  with_reducible repeat' first
    | (intro _) | assumption | (exact subP_trans (by decide) hT) | apply within_setEngRail | apply within_ite | split
    | dsimp only

theorem within_phaseEffects (T : List Part) (orig : State) (hT : subP [.od, .trw] T = true) (n : Nat) (s : State) (h1
    : Within T orig s) :
    Within T orig (phaseEffects n s) := by
  unfold phaseEffects
  try dsimp only
  with_reducible repeat' first
    | (intro _) | assumption | (exact subP_trans (by decide) hT) | apply within_suspend | apply within_odAdd32
    | apply within_modRail | apply within_setPhase | apply within_showPhases | apply within_ite | apply within_foldl
    | split | dsimp only

theorem within_setpointStep (T : List Part) (orig : State) (hT : subP [.od, .trw] T = true) (n : Nat) (s : State) (h1
    : Within T orig s) :
    Within T orig (setpointStep n s) := by
  unfold setpointStep
  try dsimp only
  with_reducible repeat' first
    | (intro _) | assumption | (exact subP_trans (by decide) hT) | apply within_railFlag | apply within_modRail
    | apply within_ite | split | dsimp only

theorem within_phaseDecide (T : List Part) (orig : State) (hT : subP [.trw] T = true) (n : Nat) (was : Nat) (yi : Int)
    (s : State) (h1 : Within T orig s) :
    Within T orig (phaseDecide n was yi s) := by
  unfold phaseDecide
  try dsimp only
  with_reducible repeat' first
    | (intro _) | assumption | (exact subP_trans (by decide) hT) | apply within_modRail | apply within_ite | split
    | dsimp only

theorem within_senseStep (T : List Part) (orig : State) (hT : subP [.od, .trw, .obs, .log, .frz] T = true) (n : Nat)
    (m : RailMean) (chk : Bool) (s : State) (h1 : Within T orig s) :
    Within T orig (senseStep n m chk s) := by
  unfold senseStep
  try dsimp only
  with_reducible repeat' first
    | (intro _) | assumption | (exact subP_trans (by decide) hT) | apply within_modRail | apply within_logSimple
    | apply within_railFlag | apply within_ite | split | dsimp only

theorem within_protectStep (T : List Part) (orig : State) (hT : subP [.od, .out, .freeCtr, .mem, .ecc, .tiles, .mesh,
    .graphs, .cmds, .hst, .fab, .rem, .flt, .trw, .sec, .meas, .tim, .obs, .log, .frz, .can, .mod] T = true) (n : Nat)
    (m : RailMean) (s : State) (h1 : Within T orig s) :
    Within T orig (protectStep n m s) := by
  unfold protectStep
  try dsimp only
  with_reducible repeat' first
    | (intro _) | assumption | (exact subP_trans (by decide) hT) | apply within_modRail | apply within_railFault
    | apply within_ite | split | dsimp only

theorem within_retire (T : List Part) (orig : State) (hT : subP [.od, .out, .freeCtr, .mem, .ecc, .tiles, .mesh,
    .graphs, .cmds, .hst, .fab, .rem, .flt, .trw, .sec, .meas, .tim, .obs, .log, .frz, .can, .mod] T = true) (n : Nat)
    (p : Nat) (reason : Nat) (s : State) (h1 : Within T orig s) :
    Within T orig (retire n p reason s) := by
  unfold retire
  try dsimp only
  with_reducible repeat' first
    | (intro _) | assumption | (exact subP_trans (by decide) hT) | apply within_odSet | apply within_setPhase
    | apply within_railFlag | apply within_railPut | apply within_showPhases | apply within_suspend
    | apply within_modRail | apply within_emcyEvent | apply within_logEvent | apply within_railFault
    | apply within_latchOff | apply within_ite | split | dsimp only

theorem within_phaseSupervise (T : List Part) (orig : State) (hT : subP [.od, .out, .freeCtr, .mem, .ecc, .tiles,
    .mesh, .graphs, .cmds, .hst, .fab, .rem, .flt, .trw, .sec, .meas, .tim, .obs, .log, .frz, .can, .mod] T = true) (n
    : Nat) (m : RailMean) (ps : List Nat) (s : State) (h1 : Within T orig s) :
    Within T orig (phaseSupervise n m ps s) := by
  unfold phaseSupervise
  try dsimp only
  with_reducible repeat' first
    | (intro _) | assumption | (exact subP_trans (by decide) hT) | apply within_modRail | apply within_retire
    | apply within_foldl | split | dsimp only

theorem within_stopAttempt (T : List Part) (orig : State) (hT : subP [.od, .out, .freeCtr, .mem, .ecc, .tiles, .mesh,
    .graphs, .cmds, .hst, .fab, .rem, .flt, .trw, .sec, .meas, .tim, .obs, .log, .frz, .can, .mod] T = true) (n : Nat)
    (s : State) (h1 : Within T orig s) :
    Within T orig (stopAttempt n s) := by
  unfold stopAttempt
  try dsimp only
  with_reducible repeat' first
    | (intro _) | assumption | (exact subP_trans (by decide) hT) | apply within_latchOff | apply within_railStop
    | apply within_ite | split | dsimp only

theorem within_powerGood (T : List Part) (orig : State) (hT : subP [.od, .trw] T = true) (n : Nat) (s : State) (h1 :
    Within T orig s) :
    Within T orig (powerGood n s) := by
  unfold powerGood
  try dsimp only
  with_reducible repeat' first
    | (intro _) | assumption | (exact subP_trans (by decide) hT) | apply within_railFlag | apply within_railPut
    | apply within_modRail | split | dsimp only

theorem within_softStartStep (T : List Part) (orig : State) (hT : subP [.od, .out, .freeCtr, .mem, .ecc, .tiles,
    .mesh, .graphs, .cmds, .hst, .fab, .rem, .flt, .trw, .sec, .meas, .tim, .obs, .log, .frz, .can, .mod] T = true) (n
    : Nat) (m : RailMean) (y : Int) (s : State) (h1 : Within T orig s) :
    Within T orig (softStartStep n m y s) := by
  unfold softStartStep
  try dsimp only
  with_reducible repeat' first
    | (intro _) | assumption | (exact subP_trans (by decide) hT) | apply within_modRail | apply within_stopAttempt
    | apply within_powerGood | apply within_ite | split | dsimp only

theorem within_regulatingStep (T : List Part) (orig : State) (hT : subP [.od, .out, .freeCtr, .mem, .ecc, .tiles,
    .mesh, .graphs, .cmds, .hst, .fab, .rem, .flt, .trw, .sec, .meas, .tim, .obs, .log, .frz, .can, .mod] T = true) (n
    : Nat) (y : Int) (s : State) (h1 : Within T orig s) :
    Within T orig (regulatingStep n y s) := by
  unfold regulatingStep
  try dsimp only
  with_reducible repeat' first
    | (intro _) | assumption | (exact subP_trans (by decide) hT) | apply within_modRail | apply within_railFlag
    | apply within_railFault | apply within_ite | split | dsimp only

theorem within_railPeriod (T : List Part) (orig : State) (hT : subP [.od, .out, .freeCtr, .mem, .ecc, .tiles, .mesh,
    .graphs, .cmds, .hst, .fab, .rem, .flt, .trw, .sec, .meas, .tim, .obs, .log, .frz, .can, .mod] T = true) (n : Nat)
    (e : PeriodIn) (swapped : Bool) (s : State) (h1 : Within T orig s) :
    Within T orig (railPeriod n e swapped s) := by
  unfold railPeriod
  try dsimp only
  with_reducible repeat' first
    | (intro _) | assumption | (exact subP_trans (by decide) hT) | apply within_modRail | apply within_regionStep
    | apply within_standbyStep | apply within_phaseEffects | apply within_meansStep | apply within_setpointStep
    | apply within_engineStep | apply within_phaseDecide | apply within_senseStep | apply within_limitFlags
    | apply within_protectStep | apply within_phaseSupervise | apply within_softStartStep
    | apply within_regulatingStep | apply within_ite | split | dsimp only

theorem within_plausFault (T : List Part) (orig : State) (hT : subP [.od, .out, .freeCtr, .mem, .ecc, .tiles, .mesh,
    .graphs, .cmds, .hst, .fab, .rem, .flt, .trw, .sec, .meas, .tim, .obs, .log, .frz, .can, .mod] T = true) (e : Nat)
    (s : State) (h1 : Within T orig s) :
    Within T orig (plausFault e s) := by
  unfold plausFault
  try dsimp only
  with_reducible repeat' first
    | (intro _) | assumption | (exact subP_trans (by decide) hT) | apply within_engineFault | apply within_ite | split
    | dsimp only

theorem within_periodBoundary (T : List Part) (orig : State) (hT : subP [.od, .out, .freeCtr, .mem, .ecc, .tiles,
    .mesh, .graphs, .cmds, .hst, .fab, .rem, .flt, .trw, .sec, .meas, .tim, .obs, .log, .frz, .can, .mod] T = true) (e
    : PeriodIn) (s : State) (h1 : Within T orig s) :
    Within T orig (periodBoundary e s) := by
  unfold periodBoundary
  try dsimp only
  with_reducible repeat' first
    | (intro _) | assumption | (exact subP_trans (by decide) hT) | apply within_handOver | apply within_syncStep
    | apply within_swapBanks | apply within_modTrw | apply within_modFlt | apply within_railPeriod
    | apply within_plausFault | apply within_ite | apply within_foldl | split | dsimp only

theorem within_powerGoodTimeout (T : List Part) (orig : State) (hT : subP [.od, .out, .freeCtr, .mem, .ecc, .tiles,
    .mesh, .graphs, .cmds, .hst, .fab, .rem, .flt, .trw, .sec, .meas, .tim, .obs, .log, .frz, .can, .mod] T = true) (n
    : Nat) (s : State) (h1 : Within T orig s) :
    Within T orig (powerGoodTimeout n s) := by
  unfold powerGoodTimeout
  try dsimp only
  with_reducible repeat' first
    | (intro _) | assumption | (exact subP_trans (by decide) hT) | apply within_stopAttempt | apply within_ite | split
    | dsimp only

theorem within_railTelemetry (T : List Part) (orig : State) (hT : subP [.od, .trw] T = true) (n : Nat) (s : State) (h1
    : Within T orig s) :
    Within T orig (railTelemetry n s) := by
  unfold railTelemetry
  try dsimp only
  with_reducible repeat' first
    | (intro _) | assumption | (exact subP_trans (by decide) hT) | apply within_railPut | apply within_odSet
    | apply within_modRail | apply within_foldl | split | dsimp only

theorem within_regSyncLoss (T : List Part) (orig : State) (hT : subP [.od, .obs, .log, .frz, .mod] T = true) (s :
    State) (h1 : Within T orig s) :
    Within T orig (regSyncLoss s) := by
  unfold regSyncLoss
  try dsimp only
  with_reducible repeat' first
    | (intro _) | assumption | (exact subP_trans (by decide) hT) | apply within_logSimple | apply within_odSet
    | apply within_ite | split | dsimp only | apply within_set_mod

theorem within_regSyncRecovered (T : List Part) (orig : State) (hT : subP [.od, .mod] T = true) (s : State) (h1 :
    Within T orig s) :
    Within T orig (regSyncRecovered s) := by
  unfold regSyncRecovered
  try dsimp only
  with_reducible repeat' first
    | (intro _) | assumption | (exact subP_trans (by decide) hT) | apply within_odSet | apply within_ite | split
    | dsimp only | apply within_set_mod

theorem within_retryExpiry (T : List Part) (orig : State) (hT : subP [.od, .out, .freeCtr, .mem, .ecc, .tiles, .mesh,
    .graphs, .cmds, .hst, .fab, .rem, .flt, .trw, .sec, .meas, .tim, .obs, .log, .frz, .can, .mod] T = true) (n : Nat)
    (s : State) (h1 : Within T orig s) :
    Within T orig (retryExpiry n s) := by
  unfold retryExpiry
  try dsimp only
  with_reducible repeat' first
    | (intro _) | assumption | (exact subP_trans (by decide) hT) | apply within_softStart | apply within_latchOff
    | apply within_ite | split | dsimp only

theorem within_shedTimer (T : List Part) (orig : State) (hT : subP [.trw] T = true) (n : Nat) (s : State) (h1 : Within
    T orig s) :
    Within T orig (shedTimer n s) := by
  unfold shedTimer
  try dsimp only
  with_reducible repeat' first
    | (intro _) | assumption | (exact subP_trans (by decide) hT) | apply within_modRail | apply within_ite | split
    | dsimp only

theorem within_softStopDone (T : List Part) (orig : State) (hT : subP [.od, .trw] T = true) (n : Nat) (s : State) (h1
    : Within T orig s) :
    Within T orig (softStopDone n s) := by
  unfold softStopDone
  try dsimp only
  with_reducible repeat' first
    | (intro _) | assumption | (exact subP_trans (by decide) hT) | apply within_softStopNext | apply within_railStop
    | apply within_ite | split | dsimp only

theorem within_stageWarnStep (T : List Part) (orig : State) (hT : subP [.od, .obs, .log, .frz] T = true) (ts : List
    Int) (n : Nat) (s : State) (h1 : Within T orig s) :
    Within T orig (stageWarnStep ts n s) := by
  unfold stageWarnStep
  try dsimp only
  with_reducible repeat' first
    | (intro _) | assumption | (exact subP_trans (by decide) hT) | apply within_railFlag | apply within_logEvent
    | apply within_ite | split | dsimp only

theorem within_stageTempRead (T : List Part) (orig : State) (hT : subP [.od, .out, .freeCtr, .mem, .ecc, .tiles,
    .mesh, .graphs, .cmds, .hst, .fab, .rem, .flt, .trw, .sec, .meas, .tim, .obs, .log, .frz, .can, .mod] T = true)
    (ts : List Int) (s : State) (h1 : Within T orig s) :
    Within T orig (stageTempRead ts s) := by
  unfold stageTempRead
  try dsimp only
  with_reducible repeat' first
    | (intro _) | assumption | (exact subP_trans (by decide) hT) | apply within_modTrw | apply within_stageWarnStep
    | apply within_emcyWhile | apply within_retire | apply within_ite | apply within_foldl | split | dsimp only

theorem within_takeover (T : List Part) (orig : State) (hT : subP [.od, .out, .freeCtr, .flt, .trw, .obs, .log, .frz,
    .can] T = true) (s : State) (h1 : Within T orig s) :
    Within T orig (takeover s) := by
  unfold takeover
  try dsimp only
  with_reducible repeat' first
    | (intro _) | assumption | (exact subP_trans (by decide) hT) | apply within_freeNext | apply within_adoptOwn
    | apply within_restartWindows | apply within_modTrw | apply within_odAdd32 | apply within_odSet
    | apply within_setEng | apply within_modFlt | apply within_emcyEvent | apply within_logEvent | apply within_ite
    | (apply withinPair_of; assumption) | apply within_foldl | split | dsimp only

theorem within_telemetryUpdate (T : List Part) (orig : State) (hT : subP [.od, .trw] T = true) (s : State) (h1 :
    Within T orig s) :
    Within T orig (telemetryUpdate s) := by
  unfold telemetryUpdate
  try dsimp only
  with_reducible repeat' first
    | (intro _) | assumption | (exact subP_trans (by decide) hT) | apply within_railTelemetry | apply within_odSet
    | apply within_modTrw | apply within_ite | apply within_foldl | split | dsimp only

theorem within_modMod (T : List Part) (orig : State) (hT : subP [.mod] T = true) (f : ModSt → ModSt) (s : State) (h1 :
    Within T orig s) :
    Within T orig (modMod f s) := by
  unfold modMod
  try dsimp only
  with_reducible repeat' first
    | (intro _) | assumption | (exact subP_trans (by decide) hT) | split | apply_assumption | dsimp only
    | apply within_set_mod

theorem within_saveSeconds (T : List Part) (orig : State) (hT : subP [.od, .mod] T = true) (s : State) (h1 : Within T
    orig s) :
    Within T orig (saveSeconds s) := by
  unfold saveSeconds
  try dsimp only
  with_reducible repeat' first
    | (intro _) | assumption | (exact subP_trans (by decide) hT) | apply within_modMod | apply within_odSet | split
    | dsimp only

theorem within_modLog (T : List Part) (orig : State) (hT : subP [.log] T = true) (f : LogSt → LogSt) (s : State) (h1 :
    Within T orig s) :
    Within T orig (modLog f s) := by
  unfold modLog
  try dsimp only
  with_reducible repeat' first
    | (intro _) | assumption | (exact subP_trans (by decide) hT) | split | apply_assumption | dsimp only
    | apply within_set_log

theorem within_modPins (T : List Part) (orig : State) (hT : subP [.mod] T = true) (f : Pins → Pins) (s : State) (h1 :
    Within T orig s) :
    Within T orig (modPins f s) := by
  unfold modPins
  try dsimp only
  with_reducible repeat' first
    | (intro _) | assumption | (exact subP_trans (by decide) hT) | apply within_modMod | split | apply_assumption
    | dsimp only

theorem within_auxLoss (T : List Part) (orig : State) (hT : subP [.od, .freeCtr, .mem, .ecc, .tiles, .mesh, .graphs,
    .cmds, .hst, .fab, .rem, .flt, .trw, .sec, .meas, .tim, .obs, .log, .frz, .mod] T = true) (s : State) (h1 : Within
    T orig s) :
    Within T orig (auxLoss s) := by
  unfold auxLoss
  try dsimp only
  with_reducible repeat' first
    | (intro _) | assumption | (exact subP_trans (by decide) hT) | apply within_closeOpen | apply within_mainDown
    | apply within_railsOff | apply within_saveSeconds | apply within_modLog | apply within_setCore
    | apply within_odSet | apply within_modPins | apply within_modMod | apply within_ite | split | dsimp only
    | apply within_set_ecc

theorem within_auxRise (T : List Part) (orig : State) (hT : subP [.now, .od, .dom, .ecc, .tiles, .mesh, .graphs,
    .cmds, .hst, .fab, .rem, .flt, .trw, .sec, .meas, .tim, .obs, .log, .frz, .can, .mod] T = true) (e : AuxIn) (s :
    State) (h1 : Within T orig s) :
    Within T orig (auxRise e s) := by
  unfold auxRise
  try dsimp only
  with_reducible repeat' first
    | (intro _) | assumption | (exact subP_trans (by decide) hT) | apply within_odSet | apply within_odAdd32
    | apply within_railFlag | apply within_railPut | apply within_ite | apply within_foldl | split | dsimp only
    | apply within_set_now_od_dom_ecc_tiles_mesh_graphs_cmds_hst_fab_rem_flt_trw_sec_meas_tim_obs_log_frz_can_mod

theorem within_auxPowerOn (T : List Part) (orig : State) (hT : subP [.now, .od, .dom, .out, .ecc, .tiles, .mesh,
    .graphs, .cmds, .hst, .fab, .rem, .flt, .trw, .sec, .meas, .tim, .obs, .log, .frz, .can, .mod] T = true) (e :
    AuxIn) (s : State) (h1 : Within T orig s) :
    Within T orig (auxPowerOn e s) := by
  unfold auxPowerOn
  try dsimp only
  with_reducible repeat' first
    | (intro _) | assumption | (exact subP_trans (by decide) hT) | apply within_bootCores | apply within_auxRise
    | apply within_refLoss | apply within_ite | split | dsimp only

theorem within_logRecord (T : List Part) (orig : State) (hT : subP [.log] T = true) (path : Nat) (s : State) (h1 :
    Within T orig s) :
    Within T orig (logRecord path s).2.2 := by
  unfold logRecord
  try dsimp only
  with_reducible repeat' first
    | (intro _) | assumption | (exact subP_trans (by decide) hT) | apply within_modLog | apply within_ite
    | apply within_snd_ite | split | dsimp only

theorem within_clearAlign (T : List Part) (orig : State) (hT : subP [.od] T = true) (s : State) (h1 : Within T orig s)
    :
    Within T orig (clearAlign s) := by
  unfold clearAlign
  try dsimp only
  with_reducible repeat' first
    | (intro _) | assumption | (exact subP_trans (by decide) hT) | apply within_odClear | apply within_odBit
    | apply within_foldl | split | dsimp only | apply within_set_od

theorem within_clearCounters (T : List Part) (orig : State) (hT : subP [.od, .flt, .tim] T = true) (s : State) (h1 :
    Within T orig s) :
    Within T orig (clearCounters s) := by
  unfold clearCounters
  try dsimp only
  with_reducible repeat' first
    | (intro _) | assumption | (exact subP_trans (by decide) hT) | apply within_modTim | apply within_modFlt | split
    | dsimp only | apply within_set_od

theorem within_clearFloat (T : List Part) (orig : State) (hT : subP [.od, .flt] T = true) (s : State) (h1 : Within T
    orig s) :
    Within T orig (clearFloat s) := by
  unfold clearFloat
  try dsimp only
  with_reducible repeat' first
    | (intro _) | assumption | (exact subP_trans (by decide) hT) | apply within_modFlt | apply within_showDuty
    | apply within_showFreq | apply within_showVolt | apply within_ite | split | dsimp only

theorem within_engineReset (T : List Part) (orig : State) (hT : subP [.od, .trw] T = true) (e : Nat) (s : State) (h1 :
    Within T orig s) :
    Within T orig (engineReset e s) := by
  unfold engineReset
  try dsimp only
  with_reducible repeat' first
    | (intro _) | assumption | (exact subP_trans (by decide) hT) | apply within_modTrw | apply within_setEng
    | apply within_ite | split | dsimp only

theorem within_coldStart (T : List Part) (orig : State) (hT : subP [.now, .od, .dom, .freeCtr, .mem, .ecc, .tiles,
    .flt, .trw, .sec, .meas, .tim, .obs, .log, .frz, .can, .mod] T = true) (slot : Nat) (prof : Nat) (lost : List Nat)
    (s : State) (h1 : Within T orig s) :
    Within T orig (coldStart slot prof lost s) := by
  unfold coldStart
  try dsimp only
  with_reducible repeat' first
    | (intro _) | assumption | (exact subP_trans (by decide) hT) | apply within_modPins | apply within_modMod
    | apply within_odSet | apply within_clearFloat | apply within_clearAlign | apply within_clearDiag
    | apply within_clearCounters | apply within_loseMemory | apply within_setCapBit | apply within_modSec
    | apply within_coldProfile | apply within_profLost | apply within_engineReset | apply within_setModState
    | apply within_logEvent | apply within_aligned | apply within_ite | apply within_foldl | split | dsimp only
    | apply within_set_tiles | apply within_set_meas

theorem within_coreBoots (T : List Part) (orig : State) (hT : subP [.od, .out, .can, .mod] T = true) (c : Nat) (ok :
    Bool) (s : State) (h1 : Within T orig s) :
    Within T orig (coreBoots c ok s) := by
  unfold coreBoots
  try dsimp only
  with_reducible repeat' first
    | (intro _) | assumption | (exact subP_trans (by decide) hT) | apply within_setCore | apply within_nmtBoot
    | apply within_modMod | apply within_ownBy | apply within_ite | split | dsimp only

theorem within_coreFails (T : List Part) (orig : State) (hT : subP [.od, .mod] T = true) (c : Nat) (s : State) (h1 :
    Within T orig s) :
    Within T orig (coreFails c s) := by
  unfold coreFails
  try dsimp only
  with_reducible repeat' first
    | (intro _) | assumption | (exact subP_trans (by decide) hT) | apply within_setCore | apply within_modMod
    | apply within_ite | split | dsimp only

theorem within_usdoSend (T : List Part) (orig : State) (hT : subP [.out, .can] T = true) (bus : Nat) (bs : List Byte)
    (s : State) (h1 : Within T orig s) :
    Within T orig (usdoSend bus bs s) := by
  unfold usdoSend
  try dsimp only
  with_reducible repeat' first
    | (intro _) | assumption | (exact subP_trans (by decide) hT) | apply within_emit | apply within_busSent
    | apply within_ite | split | dsimp only

theorem within_usdoAbort (T : List Part) (orig : State) (hT : subP [.out, .can] T = true) (bus : Nat) (key : Nat)
    (abort : Nat) (s : State) (h1 : Within T orig s) :
    Within T orig (usdoAbort bus key abort s) := by
  unfold usdoAbort
  try dsimp only
  with_reducible repeat' first
    | (intro _) | assumption | (exact subP_trans (by decide) hT) | apply within_usdoSend | split | dsimp only

theorem within_endSession (T : List Part) (orig : State) (hT : subP [.od, .out, .resp, .can] T = true) (bus : Nat)
    (abort : Nat) (code : Nat) (s : State) (h1 : Within T orig s) :
    Within T orig (endSession bus abort code s) := by
  unfold endSession
  try dsimp only
  with_reducible repeat' first
    | (intro _) | assumption | (exact subP_trans (by decide) hT) | apply within_tell | apply within_usdoAbort | split
    | dsimp only | apply within_set_can

theorem within_mailDone (T : List Part) (orig : State) (hT : subP [.od, .out, .resp, .hst, .can] T = true) (code :
    Nat) (s : State) (h1 : Within T orig s) :
    Within T orig (mailDone code s) := by
  unfold mailDone
  try dsimp only
  with_reducible repeat' first
    | (intro _) | assumption | (exact subP_trans (by decide) hT) | apply within_tell | apply within_sendMsix
    | apply within_ite | split | dsimp only | apply within_set_can

theorem within_mgmtTakeover (T : List Part) (orig : State) (hT : subP [.od, .out, .resp, .hst, .obs, .log, .frz, .can,
    .mod] T = true) (c : Nat) (s : State) (h1 : Within T orig s) :
    Within T orig (mgmtTakeover c s) := by
  unfold mgmtTakeover
  try dsimp only
  with_reducible repeat' first
    | (intro _) | assumption | (exact subP_trans (by decide) hT) | apply within_endSession | apply within_ownBy
    | apply within_mailDone | apply within_emcyEvent | apply within_logEvent | apply within_odAdd32 | apply within_ite
    | split | dsimp only | apply within_set_can

theorem within_ownerFails (T : List Part) (orig : State) (hT : subP [.od, .out, .resp, .hst, .obs, .log, .frz, .can,
    .mod] T = true) (c : Nat) (s : State) (h1 : Within T orig s) :
    Within T orig (ownerFails c s) := by
  unfold ownerFails
  try dsimp only
  with_reducible repeat' first
    | (intro _) | assumption | (exact subP_trans (by decide) hT) | apply within_modMod | apply within_coreFails
    | apply within_mgmtTakeover | apply within_ite | split | dsimp only

theorem within_coreFault (T : List Part) (orig : State) (hT : subP [.od, .out, .resp, .hst, .obs, .log, .frz, .can,
    .mod] T = true) (c : Nat) (s : State) (h1 : Within T orig s) :
    Within T orig (coreFault c s) := by
  unfold coreFault
  try dsimp only
  with_reducible repeat' first
    | (intro _) | assumption | (exact subP_trans (by decide) hT) | apply within_ownerFails | apply within_logSimple
    | apply within_coreFails | apply within_ite | split | dsimp only

theorem within_coreRestart (T : List Part) (orig : State) (hT : subP [.od, .out, .can, .mod] T = true) (c : Nat) (ok :
    Bool) (s : State) (h1 : Within T orig s) :
    Within T orig (coreRestart c ok s) := by
  unfold coreRestart
  try dsimp only
  with_reducible repeat' first
    | (intro _) | assumption | (exact subP_trans (by decide) hT) | apply within_coreBoots | apply within_modMod
    | apply within_setCore | apply within_ite | split | dsimp only

theorem within_stopWhenRest (T : List Part) (orig : State) (hT : subP [.od, .trw] T = true) (s : State) (h1 : Within T
    orig s) :
    Within T orig (stopWhenRest s) := by
  unfold stopWhenRest
  try dsimp only
  with_reducible repeat' first
    | (intro _) | assumption | (exact subP_trans (by decide) hT) | apply within_stopRails | apply within_ite | split
    | dsimp only

theorem within_wPortEnable (T : List Part) (orig : State) (hT : subP [.od, .out, .fab, .trw, .sec, .obs, .log, .frz,
    .can, .mod] T = true) (p : Nat) (v : Nat) (s : State) (h1 : Within T orig s) :
    Within T orig (wPortEnable p v s).2 := by
  unfold wPortEnable
  try dsimp only
  with_reducible repeat' first
    | (intro _) | assumption | (exact subP_trans (by decide) hT) | apply within_wEnable | apply within_stopWhenRest
    | (apply withinPair_of; assumption) | split | dsimp only

theorem within_orderedStop (T : List Part) (orig : State) (hT : subP [.od, .out, .freeCtr, .mem, .ecc, .tiles, .mesh,
    .graphs, .cmds, .hst, .fab, .rem, .flt, .trw, .sec, .meas, .obs, .log, .frz, .can, .mod] T = true) (req : Nat) (s
    : State) (h1 : Within T orig s) :
    Within T orig (orderedStop req s) := by
  unfold orderedStop
  try dsimp only
  with_reducible repeat' first
    | (intro _) | assumption | (exact subP_trans (by decide) hT) | apply within_dropCommands | apply within_dropGraphs
    | apply within_logEvent | apply within_setModState | apply within_modMod | apply within_stopWhenRest
    | apply within_startDrain | apply within_portOff | apply within_ite | apply within_foldl | split | dsimp only

theorem within_wResetMain (T : List Part) (orig : State) (hT : subP [.od, .out, .freeCtr, .mem, .ecc, .tiles, .mesh,
    .graphs, .cmds, .hst, .fab, .rem, .flt, .trw, .sec, .meas, .obs, .log, .frz, .can, .mod] T = true) (v : Nat) (s :
    State) (h1 : Within T orig s) :
    Within T orig (wResetMain v s).2 := by
  unfold wResetMain
  try dsimp only
  with_reducible repeat' first
    | (intro _) | assumption | (exact subP_trans (by decide) hT) | apply within_orderedStop | apply within_setModState
    | apply within_odSet | apply within_modMod | apply within_ite | apply within_snd_ite
    | (apply withinPair_of; assumption) | split | dsimp only

theorem within_dropHostIssued (T : List Part) (orig : State) (hT : subP [.freeCtr, .mem, .cmds, .rem] T = true) (d :
    Nat) (code : Nat) (s : State) (h1 : Within T orig s) :
    Within T orig (dropHostIssued d code s) := by
  unfold dropHostIssued
  try dsimp only
  with_reducible repeat' first
    | (intro _) | assumption | (exact subP_trans (by decide) hT) | apply within_finish | apply within_undefineAll
    | apply within_ite | apply within_foldl | split | dsimp only | apply within_set_rem

theorem within_dropTileRobs (T : List Part) (orig : State) (hT : subP [.od, .out, .freeCtr, .mem, .ecc, .tiles,
    .graphs, .cmds, .rem, .obs, .log, .frz, .can] T = true) (fe : Nat) (code : Nat) (a2 : Nat) (s : State) (h1 :
    Within T orig s) :
    Within T orig (dropTileRobs fe code a2 s) := by
  revert h1
  fun_induction dropTileRobs fe code a2 s <;> intro h1
  all_goals (try dsimp only)
  with_reducible repeat' first
    | (intro _) | assumption | (exact subP_trans (by decide) hT) | apply within_finishRob | apply within_setRob
    | split | apply_assumption | dsimp only

theorem within_dropIssued (T : List Part) (orig : State) (hT : subP [.od, .out, .freeCtr, .mem, .ecc, .tiles, .graphs,
    .cmds, .rem, .obs, .log, .frz, .can] T = true) (d : Nat) (code : Nat) (s : State) (h1 : Within T orig s) :
    Within T orig (dropIssued d code s) := by
  unfold dropIssued
  try dsimp only
  with_reducible repeat' first
    | (intro _) | assumption | (exact subP_trans (by decide) hT) | apply within_dropHostIssued
    | apply within_dropTileRobs | apply within_foldl | split | dsimp only

theorem within_dropRegionGraph (T : List Part) (orig : State) (hT : subP [.od, .freeCtr, .mem, .ecc, .tiles, .mesh,
    .graphs, .cmds, .rem, .flt, .meas, .obs, .log, .frz] T = true) (h : Nat) (code : Nat) (s : State) (h1 : Within T
    orig s) :
    Within T orig (dropRegionGraph h code s) := by
  unfold dropRegionGraph
  try dsimp only
  with_reducible repeat' first
    | (intro _) | assumption | (exact subP_trans (by decide) hT) | apply within_freeGraph | apply within_stopGraph
    | apply within_finish | apply within_measUnload | split | dsimp only

theorem within_regionReset (T : List Part) (orig : State) (hT : subP [.od, .out, .freeCtr, .mem, .ecc, .tiles, .mesh,
    .graphs, .cmds, .rem, .flt, .meas, .obs, .log, .frz, .can] T = true) (d : Nat) (s : State) (h1 : Within T orig s)
    :
    Within T orig (regionReset d s) := by
  unfold regionReset
  try dsimp only
  with_reducible repeat' first
    | (intro _) | assumption | (exact subP_trans (by decide) hT) | apply within_dropIssued
    | apply within_dropRegionGraph | apply within_regionClear | apply within_dropCells | apply within_disarmIn
    | apply within_zeroFill | apply within_logEvent | apply within_modFlt | apply within_ite | apply within_foldl
    | split | dsimp only | apply within_set_tiles

theorem within_wResetRegion (T : List Part) (orig : State) (hT : subP [.od, .out, .freeCtr, .mem, .ecc, .tiles, .mesh,
    .graphs, .cmds, .rem, .flt, .meas, .obs, .log, .frz, .can] T = true) (d : Nat) (s : State) (h1 : Within T orig s)
    :
    Within T orig (wResetRegion d s).2 := by
  unfold wResetRegion
  try dsimp only
  with_reducible repeat' first
    | (intro _) | assumption | (exact subP_trans (by decide) hT) | apply within_regionReset | apply within_ite
    | apply within_snd_ite | (apply withinPair_of; assumption) | split | dsimp only

theorem within_wHandMgmt (T : List Part) (orig : State) (hT : subP [.od, .out, .resp, .hst, .obs, .log, .frz, .can,
    .mod] T = true) (ok : Bool) (s : State) (h1 : Within T orig s) :
    Within T orig (wHandMgmt ok s).2 := by
  unfold wHandMgmt
  try dsimp only
  with_reducible repeat' first
    | (intro _) | assumption | (exact subP_trans (by decide) hT) | apply within_coreBoots | apply within_mgmtTakeover
    | apply within_setCore | apply within_ite | apply within_snd_ite | (apply withinPair_of; assumption) | split
    | dsimp only

theorem within_wReset (T : List Part) (orig : State) (hT : subP [.od, .out, .resp, .freeCtr, .mem, .ecc, .tiles,
    .mesh, .graphs, .cmds, .hst, .fab, .rem, .flt, .trw, .sec, .meas, .obs, .log, .frz, .can, .mod] T = true) (v :
    Nat) (ok : Bool) (s : State) (h1 : Within T orig s) :
    Within T orig (wReset v ok s).2 := by
  unfold wReset
  try dsimp only
  with_reducible repeat' first
    | (intro _) | assumption | (exact subP_trans (by decide) hT) | apply within_wResetMain | apply within_wResetRegion
    | apply within_wHandMgmt | apply within_ite | apply within_snd_ite | (apply withinPair_of; assumption) | split
    | dsimp only

theorem within_eraseDone (T : List Part) (orig : State) (hT : subP [.log] T = true) (k : Nat) (s : State) (h1 : Within
    T orig s) :
    Within T orig (eraseDone k s) := by
  unfold eraseDone
  try dsimp only
  with_reducible repeat' first
    | (intro _) | assumption | (exact subP_trans (by decide) hT) | apply within_modLog | apply within_ite | split
    | dsimp only

theorem within_freshTiles (T : List Part) (orig : State) (hT : subP [.od, .mem, .ecc, .tiles, .mesh, .obs, .log, .frz]
    T = true) (s : State) (h1 : Within T orig s) :
    Within T orig (freshTiles s) := by
  unfold freshTiles
  try dsimp only
  with_reducible repeat' first
    | (intro _) | assumption | (exact subP_trans (by decide) hT) | apply within_setTile | apply within_zeroFill
    | apply within_ite | apply within_foldl | split | dsimp only | apply within_set_tiles_mesh

theorem within_heartbeatLost (T : List Part) (orig : State) (hT : subP [.od, .out, .resp, .hst, .obs, .log, .frz,
    .can, .mod] T = true) (s : State) (h1 : Within T orig s) :
    Within T orig (heartbeatLost s) := by
  unfold heartbeatLost
  try dsimp only
  with_reducible repeat' first
    | (intro _) | assumption | (exact subP_trans (by decide) hT) | apply within_ownerFails | apply within_ite | split
    | dsimp only

theorem within_logCommit (T : List Part) (orig : State) (hT : subP [.log] T = true) (s : State) (h1 : Within T orig s)
    :
    Within T orig (logCommit s) := by
  unfold logCommit
  try dsimp only
  with_reducible repeat' first
    | (intro _) | assumption | (exact subP_trans (by decide) hT) | apply within_modLog | apply within_ite | split
    | dsimp only

theorem within_loseRecord (T : List Part) (orig : State) (hT : subP [.log] T = true) (path : Nat) (s : State) (h1 :
    Within T orig s) :
    Within T orig (loseRecord path s) := by
  unfold loseRecord
  try dsimp only
  with_reducible repeat' first
    | (intro _) | assumption | (exact subP_trans (by decide) hT) | apply within_modLog | apply within_ite | split
    | dsimp only

theorem within_logRecordRead (T : List Part) (orig : State) (hT : subP [.od, .out, .resp, .log] T = true) (path : Nat)
    (lost : Bool) (s0 : State) (h1 : Within T orig s0) :
    Within T orig (logRecordRead path lost s0) := by
  unfold logRecordRead
  try dsimp only
  with_reducible repeat' first
    | (intro _) | assumption | (exact subP_trans (by decide) hT) | apply within_loseRecord | apply within_tell
    | apply within_logRecord | apply within_emit | apply within_ite | (apply withinTriple_of; assumption) | split
    | dsimp only

theorem within_mateRise (T : List Part) (orig : State) (hT : subP [.od, .out, .freeCtr, .mem, .ecc, .tiles, .mesh,
    .graphs, .cmds, .hst, .fab, .rem, .flt, .trw, .sec, .meas, .tim, .obs, .log, .frz, .can, .mod] T = true) (s :
    State) (h1 : Within T orig s) :
    Within T orig (mateRise s) := by
  unfold mateRise
  try dsimp only
  with_reducible repeat' first
    | (intro _) | assumption | (exact subP_trans (by decide) hT) | apply within_modPins | apply within_inputOut
    | apply within_ite | split | dsimp only

theorem within_noOwner (T : List Part) (orig : State) (hT : subP [.mod] T = true) (s : State) (h1 : Within T orig s) :
    Within T orig (noOwner s) := by
  unfold noOwner
  try dsimp only
  with_reducible repeat' first
    | (intro _) | assumption | (exact subP_trans (by decide) hT) | apply within_modPins | apply within_modMod
    | apply within_ite | split | dsimp only

theorem within_pulseTest (T : List Part) (orig : State) (hT : subP [.od, .trw] T = true) (e : Nat) (fails : List Nat)
    (s : State) (h1 : Within T orig s) :
    Within T orig (pulseTest e fails s) := by
  unfold pulseTest
  try dsimp only
  with_reducible repeat' first
    | (intro _) | assumption | (exact subP_trans (by decide) hT) | apply within_engFailed | apply within_setEng
    | apply within_ite | split | dsimp only

theorem within_recoveryClaim (T : List Part) (orig : State) (hT : subP [.od, .out, .can, .mod] T = true) (s : State)
    (h1 : Within T orig s) :
    Within T orig (recoveryClaim s) := by
  unfold recoveryClaim
  try dsimp only
  with_reducible repeat' first
    | (intro _) | assumption | (exact subP_trans (by decide) hT) | apply within_nmtBoot | apply within_ownBy
    | apply within_ite | split | dsimp only

theorem within_repairRows (T : List Part) (orig : State) (hT : subP [.od, .ecc, .obs, .log, .frz] T = true) (rows :
    List Nat) (s : State) (h1 : Within T orig s) :
    Within T orig (repairRows rows s) := by
  unfold repairRows
  try dsimp only
  with_reducible repeat' first
    | (intro _) | assumption | (exact subP_trans (by decide) hT) | apply within_logEvent | apply within_odSet
    | apply within_foldl | split | dsimp only | apply within_set_ecc

theorem within_startStep1 (T : List Part) (orig : State) (hT : subP [.od, .out, .freeCtr, .mem, .ecc, .tiles, .mesh,
    .graphs, .cmds, .hst, .fab, .rem, .flt, .trw, .sec, .meas, .tim, .obs, .log, .frz, .can, .mod] T = true) (e :
    StartIn) (s : State) (h1 : Within T orig s) :
    Within T orig (startStep1 e s) := by
  unfold startStep1
  try dsimp only
  with_reducible repeat' first
    | (intro _) | assumption | (exact subP_trans (by decide) hT) | apply within_pulseTest | apply within_retire
    | apply within_startFail | apply within_odSet | apply within_setEng | apply within_modFlt | apply within_ite
    | apply within_foldl | split | dsimp only

theorem within_startStep4 (T : List Part) (orig : State) (hT : subP [.od, .fab, .sec, .obs, .log, .frz, .mod] T =
    true) (s : State) (h1 : Within T orig s) :
    Within T orig (startStep4 s) := by
  unfold startStep4
  try dsimp only
  with_reducible repeat' first
    | (intro _) | assumption | (exact subP_trans (by decide) hT) | apply within_raisePorts | apply within_laserUpdate
    | apply within_odSet | split | dsimp only

theorem within_startStep6 (T : List Part) (orig : State) (hT : subP [.od, .freeCtr, .mem, .ecc, .tiles, .mesh,
    .graphs, .cmds, .hst, .fab, .rem, .flt, .trw, .sec, .meas, .tim, .obs, .log, .frz, .mod] T = true) (e : StartIn)
    (s : State) (h1 : Within T orig s) :
    Within T orig (startStep6 e s) := by
  unfold startStep6
  try dsimp only
  with_reducible repeat' first
    | (intro _) | assumption | (exact subP_trans (by decide) hT) | apply within_repairRows | apply within_logEvent
    | apply within_startFail | apply within_odSet | split | dsimp only | apply within_set_ecc

theorem within_startStep8 (T : List Part) (orig : State) (hT : subP [.od, .freeCtr, .mem, .ecc, .tiles, .mesh,
    .graphs, .cmds, .hst, .fab, .rem, .flt, .trw, .sec, .meas, .tim, .obs, .log, .frz, .mod] T = true) (e : StartIn)
    (s : State) (h1 : Within T orig s) :
    Within T orig (startStep8 e s) := by
  unfold startStep8
  try dsimp only
  with_reducible repeat' first
    | (intro _) | assumption | (exact subP_trans (by decide) hT) | apply within_startFail | apply within_logSimple
    | apply within_setModState | apply within_odSet | apply within_voltStep | apply within_freshTiles
    | apply within_ite | split | dsimp only

theorem within_startStep (T : List Part) (orig : State) (hT : subP [.od, .out, .freeCtr, .mem, .ecc, .tiles, .mesh,
    .graphs, .cmds, .hst, .fab, .rem, .flt, .trw, .sec, .meas, .tim, .obs, .log, .frz, .can, .mod] T = true) (e :
    StartIn) (s : State) (h1 : Within T orig s) :
    Within T orig (startStep e s) := by
  unfold startStep
  try dsimp only
  with_reducible repeat' first
    | (intro _) | assumption | (exact subP_trans (by decide) hT) | apply within_startStep1 | apply within_odSet
    | apply within_startStep4 | apply within_zeroFill | apply within_startStep6 | apply within_startStep8
    | apply within_ite | split | dsimp only

theorem within_stopDone (T : List Part) (orig : State) (hT : subP [.od, .freeCtr, .mem, .ecc, .tiles, .mesh, .graphs,
    .cmds, .hst, .fab, .rem, .flt, .sec, .meas, .tim, .obs, .log, .frz, .mod] T = true) (s : State) (h1 : Within T
    orig s) :
    Within T orig (stopDone s) := by
  unfold stopDone
  try dsimp only
  with_reducible repeat' first
    | (intro _) | assumption | (exact subP_trans (by decide) hT) | apply within_odSet | apply within_setModState
    | apply within_mainDown | apply within_ite | split | dsimp only

theorem within_odRead (T : List Part) (orig : State) (hT : subP [.log] T = true) (path : Nat) (k : Nat) (s : State)
    (h1 : Within T orig s) :
    Within T orig (odRead path k s).2.2 := by
  unfold odRead
  try dsimp only
  with_reducible repeat' first
    | (intro _) | assumption | (exact subP_trans (by decide) hT) | apply within_logRecord | apply within_ite
    | apply within_snd_ite | (apply withinTriple_of; assumption) | split | dsimp only

theorem within_wSpdm (T : List Part) (orig : State) (_hT : subP [] T = true) (n : Nat) (s : State) (h1 : Within T orig
    s) :
    Within T orig (wSpdm n s).2 := by
  unfold wSpdm
  try dsimp only
  with_reducible repeat' first
    | (intro _) | assumption | (exact subP_trans (by decide) hT) | apply within_ite | apply within_snd_ite
    | (apply withinPair_of; assumption) | split | dsimp only

theorem within_firstEff (T : List Part) (orig : State) (hT : subP [.od] T = true) (k : Nat) (v : Nat) (s : State) (a3
    : List (Option (Nat × State))) (hl : ∀ o2 ∈ a3, WithinAns T orig o2) (h1 : Within T orig s) :
    Within T orig (firstEff k v s a3).2 := by
  induction a3 with
  | nil => exact within_wStore T orig (subP_trans (by decide) hT) k v s h1
  | cons o2 l ih =>
    cases o2 with
    | none => exact ih fun o2 ho => hl o2 (List.mem_cons_of_mem _ ho)
    | some r => exact hl (some r) List.mem_cons_self

theorem within_wLocate (T : List Part) (orig : State) (hT : subP [.od, .out] T = true) (p : Nat) (v : Nat) (s : State)
    (h1 : Within T orig s) :
    Within T orig (wLocate p v s).2 := by
  unfold wLocate
  try dsimp only
  with_reducible repeat' first
    | (intro _) | assumption | (exact subP_trans (by decide) hT) | apply within_odSet | apply within_sendLocate
    | (apply withinPair_of; assumption) | split | dsimp only

theorem within_wOcSlow (T : List Part) (orig : State) (hT : subP [.od] T = true) (n : Nat) (v : Nat) (s : State) (h1 :
    Within T orig s) :
    Within T orig (wOcSlow n v s).2 := by
  unfold wOcSlow
  try dsimp only
  with_reducible repeat' first
    | (intro _) | assumption | (exact subP_trans (by decide) hT) | apply within_wStore | apply within_ite
    | apply within_snd_ite | (apply withinPair_of; assumption) | split | dsimp only

theorem within_wClearBits (T : List Part) (orig : State) (hT : subP [.od] T = true) (k : Nat) (bits : List Nat) (v :
    Nat) (s : State) (h1 : Within T orig s) :
    Within T orig (wClearBits k bits v s).2 := by
  unfold wClearBits
  try dsimp only
  with_reducible repeat' first
    | (intro _) | assumption | (exact subP_trans (by decide) hT) | apply within_odSet | apply within_ite
    | apply within_snd_ite | (apply withinPair_of; assumption) | apply within_foldl | split | dsimp only

theorem within_wMapCount (T : List Part) (orig : State) (hT : subP [.od] T = true) (idx : Nat) (n : Nat) (s : State)
    (h1 : Within T orig s) :
    Within T orig (wMapCount idx n s).2 := by
  unfold wMapCount
  try dsimp only
  with_reducible repeat' first
    | (intro _) | assumption | (exact subP_trans (by decide) hT) | apply within_odSet | apply within_ite
    | apply within_snd_ite | (apply withinPair_of; assumption) | split | dsimp only

theorem within_wTxType (T : List Part) (orig : State) (hT : subP [.od] T = true) (k : Nat) (v : Nat) (s : State) (h1 :
    Within T orig s) :
    Within T orig (wTxType k v s).2 := by
  unfold wTxType
  try dsimp only
  with_reducible repeat' first
    | (intro _) | assumption | (exact subP_trans (by decide) hT) | apply within_wStore | apply within_ite
    | apply within_snd_ite | (apply withinPair_of; assumption) | split | dsimp only

theorem within_wIndexed (T : List Part) (orig : State) (hT : subP [.od, .out, .freeCtr, .mem, .ecc, .tiles, .fab,
    .flt, .trw, .sec, .obs, .log, .frz, .can, .mod] T = true) (k : Nat) (v : Nat) (env : WriteEnv) (s : State) (h1 :
    Within T orig s) :
    WithinAns T orig (wIndexed k v env s) := by
  unfold wIndexed
  try dsimp only
  with_reducible repeat' first
    | (intro _) | assumption | (exact subP_trans (by decide) hT) | apply within_wPortEnable | apply within_wFecMode
    | apply within_wLocate | apply within_wRetrainNow | apply within_wVset | apply within_wOcSlow
    | apply within_wPeakClear | apply within_wClearBits | apply within_wTileEnable | apply within_wMapCount
    | apply within_wTxType | apply within_wBrkAddr | apply within_wOpc | apply within_ite | apply withinAns_ite
    | apply withinAns_some | apply withinAns_none | (apply withinPair_of; assumption) | split | dsimp only

theorem within_wPower (T : List Part) (orig : State) (hT : subP [.od, .out, .flt, .trw, .obs, .log, .frz, .can] T =
    true) (k : Nat) (v : Nat) (env : WriteEnv) (s : State) (h1 : Within T orig s) :
    WithinAns T orig (wPower k v env s) := by
  unfold wPower
  try dsimp only
  with_reducible repeat' first
    | (intro _) | assumption | (exact subP_trans (by decide) hT) | apply within_wCapTarget | apply within_wCap
    | apply within_wClearBits | apply within_wSafeClear | apply within_wSlewLimit | apply within_wStepTest
    | apply within_wHandover | apply within_wFlowLpm | apply within_wFlowLoss | apply within_wTripTest
    | apply within_wGainCommit | apply within_wGainSwap | apply within_ite | apply withinAns_ite
    | apply withinAns_some | apply withinAns_none | (apply withinPair_of; assumption) | split | dsimp only

theorem within_wUnits (T : List Part) (orig : State) (hT : subP [.od, .out, .freeCtr, .mem, .ecc, .tiles, .mesh,
    .graphs, .cmds, .hst, .fab, .rem, .flt, .sec, .meas, .obs, .log, .frz, .can, .mod] T = true) (k : Nat) (v : Nat)
    (env : WriteEnv) (s : State) (h1 : Within T orig s) :
    WithinAns T orig (wUnits k v env s) := by
  unfold wUnits
  try dsimp only
  with_reducible repeat' first
    | (intro _) | assumption | (exact subP_trans (by decide) hT) | apply within_wNodeId | apply within_wMachineId
    | apply within_wFabricDims | apply within_wRekeyAll | apply within_wLaserRestart | apply within_wMemberRevive
    | apply within_wInjectArm | apply within_wConfMode | apply within_wLinkAuth | apply within_wPrimerStart
    | apply within_wStageOffset | apply within_wStageCommit | apply within_wActivate | apply within_wCommitSvn
    | apply within_ite | apply withinAns_ite | apply withinAns_some | apply withinAns_none
    | (apply withinPair_of; assumption) | split | dsimp only

theorem within_wReadSeq (T : List Part) (orig : State) (hT : subP [.log] T = true) (path : Nat) (v : Nat) (s : State)
    (h1 : Within T orig s) :
    Within T orig (wReadSeq path v s).2 := by
  unfold wReadSeq
  try dsimp only
  with_reducible repeat' first
    | (intro _) | assumption | (exact subP_trans (by decide) hT) | apply within_modLog
    | (apply withinPair_of; assumption) | split | dsimp only

theorem within_wMsixVector (T : List Part) (orig : State) (hT : subP [.od] T = true) (v : Nat) (s : State) (h1 :
    Within T orig s) :
    Within T orig (wMsixVector v s).2 := by
  unfold wMsixVector
  try dsimp only
  with_reducible repeat' first
    | (intro _) | assumption | (exact subP_trans (by decide) hT) | apply within_wStore | apply within_ite
    | apply within_snd_ite | (apply withinPair_of; assumption) | split | dsimp only

theorem within_wResetField (T : List Part) (orig : State) (hT : subP [.od] T = true) (k : Nat) (v : Nat) (s : State)
    (h1 : Within T orig s) :
    Within T orig (wResetField k v s).2 := by
  unfold wResetField
  try dsimp only
  with_reducible repeat' first
    | (intro _) | assumption | (exact subP_trans (by decide) hT) | apply within_showPending | apply within_odSet
    | (apply withinPair_of; assumption) | split | dsimp only

theorem within_wLife (T : List Part) (orig : State) (hT : subP [.od, .out, .resp, .freeCtr, .mem, .ecc, .tiles, .mesh,
    .graphs, .cmds, .hst, .fab, .rem, .flt, .trw, .sec, .meas, .obs, .log, .frz, .can, .mod] T = true) (path : Nat) (k
    : Nat) (v : Nat) (env : WriteEnv) (s : State) (h1 : Within T orig s) :
    WithinAns T orig (wLife path k v env s) := by
  unfold wLife
  try dsimp only
  with_reducible repeat' first
    | (intro _) | assumption | (exact subP_trans (by decide) hT) | apply within_wTimeRef | apply within_wTraceCtl
    | apply within_wTraceArm | apply within_wTraceStop | apply within_wTraceTrigger | apply within_wTraceOffset
    | apply within_wBrkResume | apply within_wWfgRequest | apply within_wFreezeNow | apply within_wFreezeAt
    | apply within_wFreezeRelease | apply within_wReadSeq | apply within_wReset | apply within_wMsixVector
    | apply within_wResetField | apply within_wProfile | apply within_wProfSave | apply within_wProfFactory
    | apply within_ite | apply withinAns_ite | apply withinAns_some | apply withinAns_none
    | (apply withinPair_of; assumption) | split | dsimp only

theorem within_wAny (T : List Part) (orig : State) (hT : subP [.od, .out, .resp, .freeCtr, .mem, .ecc, .tiles, .mesh,
    .graphs, .cmds, .hst, .fab, .rem, .flt, .trw, .sec, .meas, .obs, .log, .frz, .can, .mod] T = true) (path : Nat) (k
    : Nat) (bs : List Byte) (env : WriteEnv) (s : State) (h1 : Within T orig s) :
    Within T orig (wAny path k bs env s).2 := by
  unfold wAny
  dsimp only
  with_reducible repeat' first
    | (intro _) | assumption | (exact subP_trans (by decide) hT) | apply within_wGainImage | apply within_wStageChunk
    | apply within_wSpdm | apply within_firstEff | apply within_wIndexed | apply within_wPower | apply within_wUnits
    | apply within_wLife | apply within_ite | apply within_snd_ite | (apply withinPair_of; assumption)
    | (apply withinAns_of; assumption) | split | dsimp only
  rename_i o2 ho
  simp only [List.mem_cons, List.not_mem_nil, or_false] at ho
  rcases ho with rfl | rfl | rfl | rfl
  · exact within_wIndexed T orig (subP_trans (by decide) hT) _ _ _ _ h1
  · exact within_wPower T orig (subP_trans (by decide) hT) _ _ _ _ h1
  · exact within_wUnits T orig (subP_trans (by decide) hT) _ _ _ _ h1
  · exact within_wLife T orig (subP_trans (by decide) hT) _ _ _ _ _ h1

theorem within_odWrite (T : List Part) (orig : State) (hT : subP [.od, .out, .resp, .freeCtr, .mem, .ecc, .tiles,
    .mesh, .graphs, .cmds, .hst, .fab, .rem, .flt, .trw, .sec, .meas, .obs, .log, .frz, .can, .mod] T = true) (path :
    Nat) (k : Nat) (bs : List Byte) (env : WriteEnv) (s : State) (h1 : Within T orig s) :
    Within T orig (odWrite path k bs env s).2 := by
  unfold odWrite
  try dsimp only
  with_reducible repeat' first
    | (intro _) | assumption | (exact subP_trans (by decide) hT) | apply within_odTry | apply within_wAny
    | apply within_ite | apply within_snd_ite | (apply withinPair_of; assumption) | split | dsimp only

theorem within_objectWrite (T : List Part) (orig : State) (hT : subP [.od, .out, .resp, .freeCtr, .mem, .ecc, .tiles,
    .mesh, .graphs, .cmds, .hst, .fab, .rem, .flt, .trw, .sec, .meas, .obs, .log, .frz, .can, .mod] T = true) (path :
    Nat) (k : Nat) (bs : List Byte) (env : WriteEnv) (s : State) (h1 : Within T orig s) :
    Within T orig (objectWrite path k bs env s) := by
  unfold objectWrite
  try dsimp only
  with_reducible repeat' first
    | (intro _) | assumption | (exact subP_trans (by decide) hT) | apply within_odWrite | apply within_tell
    | apply within_ite | (apply withinPair_of; assumption) | split | dsimp only | apply within_set_resp

theorem within_modCan (T : List Part) (orig : State) (hT : subP [.can] T = true) (f : CanSt → CanSt) (s : State) (h1 :
    Within T orig s) :
    Within T orig (modCan f s) := by
  unfold modCan
  try dsimp only
  with_reducible repeat' first
    | (intro _) | assumption | (exact subP_trans (by decide) hT) | split | apply_assumption | dsimp only
    | apply within_set_can

theorem within_modMail (T : List Part) (orig : State) (hT : subP [.can] T = true) (f : MailSt → MailSt) (s : State)
    (h1 : Within T orig s) :
    Within T orig (modMail f s) := by
  unfold modMail
  try dsimp only
  with_reducible repeat' first
    | (intro _) | assumption | (exact subP_trans (by decide) hT) | apply within_modCan | split | apply_assumption
    | dsimp only

theorem within_mailReadNow (T : List Part) (orig : State) (hT : subP [.log, .can] T = true) (s : State) (h1 : Within T
    orig s) :
    Within T orig (mailReadNow s) := by
  unfold mailReadNow
  try dsimp only
  with_reducible repeat' first
    | (intro _) | assumption | (exact subP_trans (by decide) hT) | apply within_modMail | apply within_odRead
    | apply within_ite | (apply withinTriple_of; assumption) | split | dsimp only

theorem within_mailStart (T : List Part) (orig : State) (hT : subP [.log, .can] T = true) (cmd : Nat) (s : State) (h1
    : Within T orig s) :
    Within T orig (mailStart cmd s) := by
  unfold mailStart
  try dsimp only
  with_reducible repeat' first
    | (intro _) | assumption | (exact subP_trans (by decide) hT) | apply within_modMail | apply within_mailReadNow
    | apply within_ite | split | dsimp only

theorem within_busHeard (T : List Part) (orig : State) (hT : subP [.can] T = true) (bus : Nat) (s : State) (h1 :
    Within T orig s) :
    Within T orig (busHeard bus s) := by
  unfold busHeard
  try dsimp only
  with_reducible repeat' first
    | (intro _) | assumption | (exact subP_trans (by decide) hT) | apply within_modCan | apply within_ite | split
    | dsimp only

theorem within_busAlive (T : List Part) (orig : State) (hT : subP [.od, .can] T = true) (bus : Nat) (s0 : State) (h1 :
    Within T orig s0) :
    Within T orig (busAlive bus s0) := by
  unfold busAlive
  try dsimp only
  with_reducible repeat' first
    | (intro _) | assumption | (exact subP_trans (by decide) hT) | apply within_busHeard | apply within_odSet
    | apply within_ite | split | dsimp only

theorem within_busLost (T : List Part) (orig : State) (hT : subP [.od, .can] T = true) (e : BusLoss) (s : State) (h1 :
    Within T orig s) :
    Within T orig (busLost e s) := by
  unfold busLost
  try dsimp only
  with_reducible repeat' first
    | (intro _) | assumption | (exact subP_trans (by decide) hT) | apply within_modCan | apply within_odSet
    | apply within_ite | split | dsimp only

theorem within_busOffEnd (T : List Part) (orig : State) (hT : subP [.od, .out, .obs, .log, .frz, .can] T = true) (bus
    : Nat) (s : State) (h1 : Within T orig s) :
    Within T orig (busOffEnd bus s) := by
  unfold busOffEnd
  try dsimp only
  with_reducible repeat' first
    | (intro _) | assumption | (exact subP_trans (by decide) hT) | apply within_odSet | apply within_modCan
    | apply within_emcyEvent | apply within_logSimple | apply within_ite | split | dsimp only

theorem within_closeSession (T : List Part) (orig : State) (hT : subP [.can] T = true) (bus : Nat) (s : State) (h1 :
    Within T orig s) :
    Within T orig (closeSession bus s) := by
  unfold closeSession
  try dsimp only
  with_reducible repeat' first
    | (intro _) | assumption | (exact subP_trans (by decide) hT) | apply within_modCan | split | dsimp only

theorem within_usdoRefuse (T : List Part) (orig : State) (hT : subP [.od, .out, .resp, .can] T = true) (bus : Nat)
    (key : Nat) (code : Nat) (s : State) (h1 : Within T orig s) :
    Within T orig (usdoRefuse bus key code s) := by
  unfold usdoRefuse
  try dsimp only
  with_reducible repeat' first
    | (intro _) | assumption | (exact subP_trans (by decide) hT) | apply within_tell | apply within_usdoAbort | split
    | dsimp only

theorem within_usdoAnswer (T : List Part) (orig : State) (hT : subP [.out, .can] T = true) (bus : Nat) (kind : Nat)
    (key : Nat) (bs : List Byte) (s : State) (h1 : Within T orig s) :
    Within T orig (usdoAnswer bus kind key bs s) := by
  unfold usdoAnswer
  try dsimp only
  with_reducible repeat' first
    | (intro _) | assumption | (exact subP_trans (by decide) hT) | apply within_usdoSend | split | dsimp only

theorem within_openSession (T : List Part) (orig : State) (hT : subP [.can] T = true) (bus : Nat) (u : UsdoSt) (s :
    State) (h1 : Within T orig s) :
    Within T orig (openSession bus u s) := by
  unfold openSession
  try dsimp only
  with_reducible repeat' first
    | (intro _) | assumption | (exact subP_trans (by decide) hT) | apply within_modCan | split | dsimp only

theorem within_usdoRead (T : List Part) (orig : State) (hT : subP [.od, .out, .resp, .log, .can] T = true) (bus : Nat)
    (key : Nat) (s : State) (h1 : Within T orig s) :
    Within T orig (usdoRead bus key s) := by
  unfold usdoRead
  try dsimp only
  with_reducible repeat' first
    | (intro _) | assumption | (exact subP_trans (by decide) hT) | apply within_odRead | apply within_usdoRefuse
    | apply within_tell | apply within_usdoAnswer | apply within_openSession | apply within_ite
    | (apply withinTriple_of; assumption) | split | dsimp only

theorem within_usdoWrite (T : List Part) (orig : State) (hT : subP [.od, .out, .resp, .freeCtr, .mem, .ecc, .tiles,
    .mesh, .graphs, .cmds, .hst, .fab, .rem, .flt, .trw, .sec, .meas, .obs, .log, .frz, .can, .mod] T = true) (bus :
    Nat) (kind : Nat) (key : Nat) (bs : List Byte) (env : WriteEnv) (s : State) (h1 : Within T orig s) :
    Within T orig (usdoWrite bus kind key bs env s) := by
  unfold usdoWrite
  try dsimp only
  with_reducible repeat' first
    | (intro _) | assumption | (exact subP_trans (by decide) hT) | apply within_odWrite | apply within_openSession
    | apply within_tell | apply within_usdoAnswer | apply within_usdoRefuse | apply within_ite
    | (apply withinPair_of; assumption) | split | dsimp only | apply within_set_resp

theorem within_usdoInitiate (T : List Part) (orig : State) (hT : subP [.od, .out, .resp, .freeCtr, .mem, .ecc, .tiles,
    .mesh, .graphs, .cmds, .hst, .fab, .rem, .flt, .trw, .sec, .meas, .obs, .log, .frz, .can, .mod] T = true) (bus :
    Nat) (r : UsdoReq) (env : WriteEnv) (s0 : State) (h1 : Within T orig s0) :
    Within T orig (usdoInitiate bus r env s0) := by
  unfold usdoInitiate
  try dsimp only
  with_reducible repeat' first
    | (intro _) | assumption | (exact subP_trans (by decide) hT) | apply within_busAlive | apply within_usdoRefuse
    | apply within_usdoRead | apply within_usdoWrite | apply within_usdoAnswer | apply within_openSession
    | apply within_ite | split | dsimp only

theorem within_gainPart (T : List Part) (orig : State) (hT : subP [.od, .trw] T = true) (bs : List Byte) (s : State)
    (h1 : Within T orig s) :
    Within T orig (gainPart bs s).2 := by
  unfold gainPart
  try dsimp only
  with_reducible repeat' first
    | (intro _) | assumption | (exact subP_trans (by decide) hT) | apply within_modTrw | apply within_setBankValid
    | apply within_setInactive | apply within_odSet | apply within_ite | apply within_snd_ite
    | (apply withinPair_of; assumption) | split | dsimp only

theorem within_segmentIn (T : List Part) (orig : State) (hT : subP [.od, .out, .resp, .freeCtr, .mem, .ecc, .tiles,
    .mesh, .graphs, .cmds, .hst, .fab, .rem, .flt, .trw, .sec, .meas, .obs, .log, .frz, .can, .mod] T = true) (bus :
    Nat) (u : UsdoSt) (bs : List Byte) (last : Bool) (env : WriteEnv) (s : State) (h1 : Within T orig s) :
    Within T orig (segmentIn bus u bs last env s) := by
  unfold segmentIn
  try dsimp only
  with_reducible repeat' first
    | (intro _) | assumption | (exact subP_trans (by decide) hT) | apply within_usdoRefuse | apply within_closeSession
    | apply within_gainPart | apply within_usdoAnswer | apply within_openSession | apply within_usdoWrite
    | apply within_ite | (apply withinPair_of; assumption) | split | dsimp only

theorem within_usdoSegment (T : List Part) (orig : State) (hT : subP [.od, .out, .resp, .freeCtr, .mem, .ecc, .tiles,
    .mesh, .graphs, .cmds, .hst, .fab, .rem, .flt, .trw, .sec, .meas, .obs, .log, .frz, .can, .mod] T = true) (bus :
    Nat) (bs : List Byte) (last : Bool) (env : WriteEnv) (s0 : State) (h1 : Within T orig s0) :
    Within T orig (usdoSegment bus bs last env s0) := by
  unfold usdoSegment
  try dsimp only
  with_reducible repeat' first
    | (intro _) | assumption | (exact subP_trans (by decide) hT) | apply within_busAlive | apply within_segmentIn
    | apply within_usdoAnswer | apply within_closeSession | apply within_openSession | apply within_ite | split
    | dsimp only

theorem within_nmtCommand (T : List Part) (orig : State) (hT : subP [.od, .can] T = true) (bus : Nat) (cmd : Nat) (f :
    State → State) (s0 : State) (hf : ∀ x0, Within T orig x0 → Within T orig (f x0)) (h1 : Within T orig s0) :
    Within T orig (nmtCommand bus cmd f s0) := by
  unfold nmtCommand
  try dsimp only
  with_reducible repeat' first
    | (intro _) | assumption | (exact subP_trans (by decide) hT) | apply within_busAlive | apply within_modCan
    | apply within_ite | split | apply_assumption | dsimp only

theorem within_setNmt (T : List Part) (orig : State) (hT : subP [.od] T = true) (v : Nat) (s : State) (h1 : Within T
    orig s) :
    Within T orig (setNmt v s) := by
  unfold setNmt
  try dsimp only
  with_reducible repeat' first
    | (intro _) | assumption | (exact subP_trans (by decide) hT) | apply within_odSet | split | dsimp only

theorem within_resetComm (T : List Part) (orig : State) (hT : subP [.od, .out, .can] T = true) (s : State) (h1 :
    Within T orig s) :
    Within T orig (resetComm s) := by
  unfold resetComm
  try dsimp only
  with_reducible repeat' first
    | (intro _) | assumption | (exact subP_trans (by decide) hT) | apply within_nmtBoot | apply within_showPending
    | apply within_modCan | split | dsimp only | apply within_set_od

theorem within_resetNode (T : List Part) (orig : State) (hT : subP [.od, .out, .can] T = true) (s : State) (h1 :
    Within T orig s) :
    Within T orig (resetNode s) := by
  unfold resetNode
  try dsimp only
  with_reducible repeat' first
    | (intro _) | assumption | (exact subP_trans (by decide) hT) | apply within_resetComm | apply within_wProfile
    | (apply withinPair_of; assumption) | split | dsimp only

theorem within_nmtEffect (T : List Part) (orig : State) (hT : subP [.od, .out, .can] T = true) (cmd : Nat) (s : State)
    (h1 : Within T orig s) :
    Within T orig (nmtEffect cmd s) := by
  unfold nmtEffect
  try dsimp only
  with_reducible repeat' first
    | (intro _) | assumption | (exact subP_trans (by decide) hT) | apply within_setNmt | apply within_resetComm
    | apply within_resetNode | apply within_ite | split | dsimp only

theorem within_rmAlive (T : List Part) (orig : State) (hT : subP [.od, .out, .can] T = true) (s : State) (h1 : Within
    T orig s) :
    Within T orig (rmAlive s) := by
  unfold rmAlive
  try dsimp only
  with_reducible repeat' first
    | (intro _) | assumption | (exact subP_trans (by decide) hT) | apply within_modCan | apply within_emcyClear
    | apply within_odSet | apply within_ite | split | dsimp only

theorem within_rmHeartbeat (T : List Part) (orig : State) (hT : subP [.od, .out, .can] T = true) (bus : Nat) (node :
    Nat) (s0 : State) (h1 : Within T orig s0) :
    Within T orig (rmHeartbeat bus node s0) := by
  unfold rmHeartbeat
  try dsimp only
  with_reducible repeat' first
    | (intro _) | assumption | (exact subP_trans (by decide) hT) | apply within_busAlive | apply within_rmAlive
    | apply within_ite | split | dsimp only

theorem within_sendTpdo (T : List Part) (orig : State) (hT : subP [.out, .can] T = true) (n : Nat) (s : State) (h1 :
    Within T orig s) :
    Within T orig (sendTpdo n s) := by
  unfold sendTpdo
  try dsimp only
  with_reducible repeat' first
    | (intro _) | assumption | (exact subP_trans (by decide) hT) | apply within_canSend | apply within_ite | split
    | dsimp only

theorem within_syncTpdo (T : List Part) (orig : State) (hT : subP [.out, .can] T = true) (n : Nat) (s : State) (h1 :
    Within T orig s) :
    Within T orig (syncTpdo n s) := by
  unfold syncTpdo
  try dsimp only
  with_reducible repeat' first
    | (intro _) | assumption | (exact subP_trans (by decide) hT) | apply within_modCan | apply within_sendTpdo
    | apply within_ite | split | dsimp only

theorem within_sync (T : List Part) (orig : State) (hT : subP [.od, .out, .can] T = true) (bus : Nat) (s0 : State) (h1
    : Within T orig s0) :
    Within T orig (sync bus s0) := by
  unfold sync
  try dsimp only
  with_reducible repeat' first
    | (intro _) | assumption | (exact subP_trans (by decide) hT) | apply within_busAlive | apply within_syncTpdo
    | apply within_modCan | apply within_ite | apply within_foldl | split | dsimp only

theorem within_rpdoApply (T : List Part) (orig : State) (hT : subP [.od, .out, .resp, .freeCtr, .mem, .ecc, .tiles,
    .mesh, .graphs, .cmds, .hst, .fab, .rem, .flt, .trw, .sec, .meas, .obs, .log, .frz, .can, .mod] T = true) (bus :
    Nat) (env : WriteEnv) (a2 : List Nat) (a3 : List Byte) (s : State) (h1 : Within T orig s) :
    Within T orig (rpdoApply bus env a2 a3 s) := by
  induction a2 generalizing a3 s with
  | nil => exact h1
  | cons e es ih =>
    unfold rpdoApply
    dsimp only
    split
    · exact ih _ _ h1
    · apply ih
      with_reducible repeat' first
        | (intro _) | assumption | (exact subP_trans (by decide) hT) | apply within_odWrite | apply within_tell
        | apply within_odAdd32 | apply within_ite | (apply withinPair_of; assumption) | split | apply_assumption
        | dsimp only

theorem within_rpdo (T : List Part) (orig : State) (hT : subP [.od, .out, .resp, .freeCtr, .mem, .ecc, .tiles, .mesh,
    .graphs, .cmds, .hst, .fab, .rem, .flt, .trw, .sec, .meas, .obs, .log, .frz, .can, .mod] T = true) (bus : Nat) (bs
    : List Byte) (env : WriteEnv) (s0 : State) (h1 : Within T orig s0) :
    Within T orig (rpdo bus bs env s0) := by
  unfold rpdo
  try dsimp only
  with_reducible repeat' first
    | (intro _) | assumption | (exact subP_trans (by decide) hT) | apply within_busAlive | apply within_rmAlive
    | apply within_emcyEvent | apply within_logSimple | apply within_rpdoApply | apply within_ite | split | dsimp only

theorem within_serveFrame (T : List Part) (orig : State) (hT : subP [.od, .out, .resp, .freeCtr, .mem, .ecc, .tiles,
    .mesh, .graphs, .cmds, .hst, .fab, .rem, .flt, .trw, .sec, .meas, .obs, .log, .frz, .can, .mod] T = true) (bus :
    Nat) (f : CanFrame) (s : State) (h1 : Within T orig s) :
    Within T orig (serveFrame bus f s) := by
  unfold serveFrame
  try dsimp only
  with_reducible repeat' first
    | (intro _) | assumption | (exact subP_trans (by decide) hT) | apply within_usdoInitiate
    | apply within_usdoSegment | apply within_nmtCommand | apply within_nmtEffect | apply within_rmHeartbeat
    | apply within_sync | apply within_rpdo | split | dsimp only

theorem within_drainRx (T : List Part) (orig : State) (hT : subP [.od, .dom, .out, .resp, .freeCtr, .mem, .ecc,
    .tiles, .mesh, .graphs, .cmds, .hst, .fab, .rem, .flt, .trw, .sec, .meas, .obs, .log, .frz, .can, .mod] T = true)
    (s : State) (h1 : Within T orig s) :
    Within T orig (drainRx s) := by
  unfold drainRx
  try dsimp only
  with_reducible repeat' first
    | (intro _) | assumption | (exact subP_trans (by decide) hT) | apply within_drainSpdm | apply within_serveFrame
    | apply within_modCan | apply within_ite | apply within_foldl | split | dsimp only

theorem within_heartbeat (T : List Part) (orig : State) (hT : subP [.out, .can] T = true) (s : State) (h1 : Within T
    orig s) :
    Within T orig (heartbeat s) := by
  unfold heartbeat
  try dsimp only
  with_reducible repeat' first
    | (intro _) | assumption | (exact subP_trans (by decide) hT) | apply within_canSend | apply within_modCan
    | apply within_ite | split | dsimp only

theorem within_inhibitEnd (T : List Part) (orig : State) (hT : subP [.out, .can] T = true) (s : State) (h1 : Within T
    orig s) :
    Within T orig (inhibitEnd s) := by
  unfold inhibitEnd
  try dsimp only
  with_reducible repeat' first
    | (intro _) | assumption | (exact subP_trans (by decide) hT) | apply within_modCan | apply within_canSend
    | apply within_ite | split | dsimp only

theorem within_mailWriteNow (T : List Part) (orig : State) (hT : subP [.od, .out, .resp, .freeCtr, .mem, .ecc, .tiles,
    .mesh, .graphs, .cmds, .hst, .fab, .rem, .flt, .trw, .sec, .meas, .obs, .log, .frz, .can, .mod] T = true) (env :
    WriteEnv) (s : State) (h1 : Within T orig s) :
    Within T orig (mailWriteNow env s) := by
  unfold mailWriteNow
  try dsimp only
  with_reducible repeat' first
    | (intro _) | assumption | (exact subP_trans (by decide) hT) | apply within_mailDone | apply within_odWrite
    | apply within_modMail | apply within_ite | (apply withinPair_of; assumption) | split | dsimp only

theorem within_mailComplete (T : List Part) (orig : State) (hT : subP [.od, .out, .resp, .freeCtr, .mem, .ecc, .tiles,
    .mesh, .graphs, .cmds, .hst, .fab, .rem, .flt, .trw, .sec, .meas, .obs, .log, .frz, .can, .mod] T = true) (env :
    WriteEnv) (s : State) (h1 : Within T orig s) :
    Within T orig (mailComplete env s) := by
  unfold mailComplete
  try dsimp only
  with_reducible repeat' first
    | (intro _) | assumption | (exact subP_trans (by decide) hT) | apply within_mailWriteNow | apply within_mailDone
    | apply within_mailReadNow | apply within_ite | split | dsimp only

theorem within_profileDone (T : List Part) (orig : State) (hT : subP [.od, .out, .resp, .can] T = true) (s : State)
    (h1 : Within T orig s) :
    Within T orig (profileDone s) := by
  unfold profileDone
  try dsimp only
  with_reducible repeat' first
    | (intro _) | assumption | (exact subP_trans (by decide) hT) | apply within_flashDone | apply within_usdoAnswer
    | apply within_closeSession | apply within_ite | split | dsimp only

theorem within_rmSilence (T : List Part) (orig : State) (hT : subP [.od, .out, .obs, .log, .frz, .can] T = true) (s :
    State) (h1 : Within T orig s) :
    Within T orig (rmSilence s) := by
  unfold rmSilence
  try dsimp only
  with_reducible repeat' first
    | (intro _) | assumption | (exact subP_trans (by decide) hT) | apply within_emcyRaise | apply within_logSimple
    | apply within_setCapBit | apply within_odSet | apply within_ite | split | dsimp only

theorem within_rxFrame (T : List Part) (orig : State) (hT : subP [.od, .out, .resp, .freeCtr, .mem, .ecc, .tiles,
    .mesh, .graphs, .cmds, .hst, .fab, .rem, .flt, .trw, .sec, .meas, .obs, .log, .frz, .can, .mod] T = true) (bus :
    Nat) (f : CanFrame) (s : State) (h1 : Within T orig s) :
    Within T orig (rxFrame bus f s) := by
  unfold rxFrame
  try dsimp only
  with_reducible repeat' first
    | (intro _) | assumption | (exact subP_trans (by decide) hT) | apply within_odAdd32 | apply within_busAlive
    | apply within_modCan | apply within_serveFrame | apply within_ite | split | dsimp only

theorem within_tpdoTimer (T : List Part) (orig : State) (hT : subP [.out, .can] T = true) (n : Nat) (s : State) (h1 :
    Within T orig s) :
    Within T orig (tpdoTimer n s) := by
  unfold tpdoTimer
  try dsimp only
  with_reducible repeat' first
    | (intro _) | assumption | (exact subP_trans (by decide) hT) | apply within_sendTpdo | apply within_modCan
    | apply within_ite | split | dsimp only

theorem within_usdoTimeout (T : List Part) (orig : State) (hT : subP [.od, .out, .resp, .can] T = true) (bus : Nat) (s
    : State) (h1 : Within T orig s) :
    Within T orig (usdoTimeout bus s) := by
  unfold usdoTimeout
  try dsimp only
  with_reducible repeat' first
    | (intro _) | assumption | (exact subP_trans (by decide) hT) | apply within_endSession | apply within_ite | split
    | dsimp only

theorem within_mailPut (T : List Part) (orig : State) (hT : subP [.can] T = true) (f : MailSt → MailSt) (s : State)
    (h1 : Within T orig s) :
    Within T orig (mailPut f s) := by
  unfold mailPut
  try dsimp only
  with_reducible repeat' first
    | (intro _) | assumption | (exact subP_trans (by decide) hT) | apply within_modMail | apply within_ite | split
    | apply_assumption | dsimp only

theorem within_mailCtrl (T : List Part) (orig : State) (hT : subP [.log, .can] T = true) (v : Nat) (s : State) (h1 :
    Within T orig s) :
    Within T orig (mailCtrl v s) := by
  unfold mailCtrl
  try dsimp only
  with_reducible repeat' first
    | (intro _) | assumption | (exact subP_trans (by decide) hT) | apply within_modMail | apply within_mailStart
    | apply within_ite | split | dsimp only

theorem within_mailDword (T : List Part) (orig : State) (hT : subP [.log, .can] T = true) (off : Nat) (v : Nat) (s :
    State) (h1 : Within T orig s) :
    Within T orig (mailDword off v s) := by
  unfold mailDword
  try dsimp only
  with_reducible repeat' first
    | (intro _) | assumption | (exact subP_trans (by decide) hT) | apply within_mailPut | apply within_mailCtrl
    | apply within_ite | split | dsimp only

theorem within_ringDword (T : List Part) (orig : State) (hT : subP [.od, .out, .hst] T = true) (r : Nat) (o : Nat) (v
    : Nat) (s : State) (h1 : Within T orig s) :
    Within T orig (ringDword r o v s) := by
  unfold ringDword
  try dsimp only
  with_reducible repeat' first
    | (intro _) | assumption | (exact subP_trans (by decide) hT) | apply within_setRing | apply within_wRingCtl
    | apply within_ite | split | dsimp only

theorem within_cqDword (T : List Part) (orig : State) (hT : subP [.hst] T = true) (c : Nat) (o : Nat) (v : Nat) (s :
    State) (h1 : Within T orig s) :
    Within T orig (cqDword c o v s) := by
  unfold cqDword
  try dsimp only
  with_reducible repeat' first
    | (intro _) | assumption | (exact subP_trans (by decide) hT) | apply within_setCq | apply within_wCqCtl
    | apply within_ite | split | dsimp only

theorem within_bar2Half (T : List Part) (orig : State) (hT : subP [.hst] T = true) (hi : Nat) (v : Nat) (s : State)
    (h1 : Within T orig s) :
    Within T orig (bar2Half hi v s) := by
  unfold bar2Half
  try dsimp only
  with_reducible repeat' first
    | (intro _) | assumption | (exact subP_trans (by decide) hT) | split | dsimp only | apply within_set_hst

theorem within_msixDword (T : List Part) (orig : State) (hT : subP [.od, .out, .hst] T = true) (o : Nat) (v : Nat) (s
    : State) (h1 : Within T orig s) :
    Within T orig (msixDword o v s) := by
  unfold msixDword
  try dsimp only
  with_reducible repeat' first
    | (intro _) | assumption | (exact subP_trans (by decide) hT) | apply within_setMsix | apply within_flushMsix
    | split | dsimp only

theorem within_bar0Dword (T : List Part) (orig : State) (hT : subP [.od, .out, .hst, .log, .can] T = true) (off : Nat)
    (v : Nat) (s : State) (h1 : Within T orig s) :
    Within T orig (bar0Dword off v s) := by
  unfold bar0Dword
  try dsimp only
  with_reducible repeat' first
    | (intro _) | assumption | (exact subP_trans (by decide) hT) | apply within_mailDword | apply within_ringDword
    | apply within_cqDword | apply within_bar2Half | apply within_msixDword | apply within_ite | split | dsimp only

theorem within_bar0Read (T : List Part) (orig : State) (hT : subP [.od, .out, .hst] T = true) (off : Nat) (n : Nat) (s
    : State) (h1 : Within T orig s) :
    Within T orig (bar0Read off n s) := by
  unfold bar0Read
  try dsimp only
  with_reducible repeat' first
    | (intro _) | assumption | (exact subP_trans (by decide) hT) | apply within_unsupported | apply within_pcieCount
    | apply within_emit | apply within_ite | split | dsimp only

theorem within_bar0Write (T : List Part) (orig : State) (hT : subP [.od, .out, .hst, .log, .can] T = true) (off : Nat)
    (bs : List Byte) (s : State) (h1 : Within T orig s) :
    Within T orig (bar0Write off bs s) := by
  unfold bar0Write
  try dsimp only
  with_reducible repeat' first
    | (intro _) | assumption | (exact subP_trans (by decide) hT) | apply within_unsupported | apply within_pcieCount
    | apply within_bar0Dword | apply within_wCqCtl | apply within_ite | split | dsimp only

theorem within_cfgAccess (T : List Part) (orig : State) (hT : subP [.od, .out, .hst] T = true) (f : CfgField) (v :
    Option Nat) (s : State) (h1 : Within T orig s) :
    Within T orig (cfgAccess f v s) := by
  unfold cfgAccess
  try dsimp only
  with_reducible repeat' first
    | (intro _) | assumption | (exact subP_trans (by decide) hT) | apply within_flushMsix | apply within_emit
    | apply within_ite | split | dsimp only | apply within_set_hst

theorem within_hostAccess (T : List Part) (orig : State) (hT : subP [.od, .out, .hst, .log, .can] T = true) (off :
    Nat) (a : HostAccess) (s : State) (h1 : Within T orig s) :
    Within T orig (hostAccess off a s) := by
  unfold hostAccess
  try dsimp only
  with_reducible repeat' first
    | (intro _) | assumption | (exact subP_trans (by decide) hT) | apply within_bar0Write | apply within_bar0Read
    | apply within_cfgAccess | apply within_emit | apply within_ite | split | dsimp only

end Sys2Proof.Machine
end

