-- ==== Sys2Proof/Laws/CommandModule.lean ====
section
/-! SUPPORT. Every command completes, keeps memory canonical and the queue as it is, and changes no part of the state but
those it may touch: Trowel, start and stop, the dictionary, the field network and BAR 0. -/
namespace Sys2Proof.Machine
open Sys2Proof

theorem tidy_execCreditTakeBack (q : List Instr) (t : TileId) (s : State) (h1 : Tidy q s) : ∃ z, execCreditTakeBack t
    s = .next z ∧ Tidy q z := by
  refine ⟨_, rfl, ?_⟩
  with_reducible repeat' first
    | (intro _) | assumption | apply tidy_stopWhenRest | apply tidy_takeBack | (simp only [tidy_mk]; apply tidy_back)
    | split | dsimp only

theorem within_execCreditTakeBack (T : List Part) (orig : State) (hT : subP [.od, .freeCtr, .mem, .ecc, .tiles, .flt,
    .trw, .obs, .frz] T = true) (t : TileId) (s : State) (h1 : Within T orig s) : ∃ z, execCreditTakeBack t s = .next
    z ∧ Within T orig z := by
  refine ⟨_, rfl, ?_⟩
  with_reducible repeat' first
    | (intro _) | assumption | (exact subP_trans (by decide) hT) | apply within_stopWhenRest | apply within_takeBack
    | split | dsimp only

theorem tidy_execPortEnableWrite (q : List Instr) (path : Fin 4) (p : Fin 16) (v : Nat) (s : State) (h1 : Tidy q s) :
    ∃ z, execPortEnableWrite path p v s = .next z ∧ Tidy q z := by
  refine ⟨_, rfl, ?_⟩
  with_reducible repeat' first
    | (intro _) | assumption | apply tidy_namedWrite | apply tidy_wPortEnable | (apply tidyPair_of; assumption)
    | (simp only [tidy_mk]; apply tidy_back) | split | dsimp only

theorem within_execPortEnableWrite (T : List Part) (orig : State) (hT : subP [.od, .out, .resp, .fab, .trw, .sec,
    .obs, .log, .frz, .can, .mod] T = true) (path : Fin 4) (p : Fin 16) (v : Nat) (s : State) (h1 : Within T orig s) :
    ∃ z, execPortEnableWrite path p v s = .next z ∧ Within T orig z := by
  refine ⟨_, rfl, ?_⟩
  with_reducible repeat' first
    | (intro _) | assumption | (exact subP_trans (by decide) hT) | apply within_namedWrite | apply within_wPortEnable
    | (apply withinPair_of; assumption) | split | dsimp only

theorem tidy_execLaserOkFall (q : List Instr) (s : State) (h1 : Tidy q s) : ∃ z, execLaserOkFall s = .next z ∧ Tidy q
    z := by
  refine ⟨_, rfl, ?_⟩
  with_reducible repeat' first
    | (intro _) | assumption | apply tidy_stopWhenRest | apply tidy_laserOkFall
    | (simp only [tidy_mk]; apply tidy_back) | split | dsimp only

theorem within_execLaserOkFall (T : List Part) (orig : State) (hT : subP [.od, .out, .fab, .trw, .sec, .obs, .log,
    .frz, .can, .mod] T = true) (s : State) (h1 : Within T orig s) : ∃ z, execLaserOkFall s = .next z ∧ Within T orig
    z := by
  refine ⟨_, rfl, ?_⟩
  with_reducible repeat' first
    | (intro _) | assumption | (exact subP_trans (by decide) hT) | apply within_stopWhenRest
    | apply within_laserOkFall | split | dsimp only

theorem tidy_execLossOfLight (q : List Instr) (p : Fin 16) (s : State) (h1 : Tidy q s) : ∃ z, execLossOfLight p s =
    .next z ∧ Tidy q z := by
  refine ⟨_, rfl, ?_⟩
  with_reducible repeat' first
    | (intro _) | assumption | apply tidy_stopWhenRest | apply tidy_lossOfLight
    | (simp only [tidy_mk]; apply tidy_back) | split | dsimp only

theorem within_execLossOfLight (T : List Part) (orig : State) (hT : subP [.od, .out, .fab, .trw, .sec, .obs, .log,
    .frz, .can] T = true) (p : Fin 16) (s : State) (h1 : Within T orig s) : ∃ z, execLossOfLight p s = .next z ∧
    Within T orig z := by
  refine ⟨_, rfl, ?_⟩
  with_reducible repeat' first
    | (intro _) | assumption | (exact subP_trans (by decide) hT) | apply within_stopWhenRest
    | apply within_lossOfLight | split | dsimp only

theorem tidy_execRetrainComplete (q : List Instr) (p : Fin 16) (ok : Fin 256) (s : State) (h1 : Tidy q s) : ∃ z,
    execRetrainComplete p ok s = .next z ∧ Tidy q z := by
  refine ⟨_, rfl, ?_⟩
  with_reducible repeat' first
    | (intro _) | assumption | apply tidy_stopWhenRest | apply tidy_retrainComplete
    | (simp only [tidy_mk]; apply tidy_back) | split | dsimp only

theorem within_execRetrainComplete (T : List Part) (orig : State) (hT : subP [.od, .out, .fab, .trw, .sec, .obs, .log,
    .frz, .can] T = true) (p : Fin 16) (ok : Fin 256) (s : State) (h1 : Within T orig s) : ∃ z, execRetrainComplete p
    ok s = .next z ∧ Within T orig z := by
  refine ⟨_, rfl, ?_⟩
  with_reducible repeat' first
    | (intro _) | assumption | (exact subP_trans (by decide) hT) | apply within_stopWhenRest
    | apply within_retrainComplete | split | dsimp only

theorem tidy_execRetrainTimeout (q : List Instr) (p : Fin 16) (s : State) (h1 : Tidy q s) : ∃ z, execRetrainTimeout p
    s = .next z ∧ Tidy q z := by
  refine ⟨_, rfl, ?_⟩
  with_reducible repeat' first
    | (intro _) | assumption | apply tidy_stopWhenRest | apply tidy_retrainTimeout
    | (simp only [tidy_mk]; apply tidy_back) | split | dsimp only

theorem within_execRetrainTimeout (T : List Part) (orig : State) (hT : subP [.od, .out, .fab, .trw, .sec, .obs, .log,
    .frz, .can] T = true) (p : Fin 16) (s : State) (h1 : Within T orig s) : ∃ z, execRetrainTimeout p s = .next z ∧
    Within T orig z := by
  refine ⟨_, rfl, ?_⟩
  with_reducible repeat' first
    | (intro _) | assumption | (exact subP_trans (by decide) hT) | apply within_stopWhenRest
    | apply within_retrainTimeout | split | dsimp only

theorem tidy_execPortLost (q : List Instr) (p : Fin 16) (s : State) (h1 : Tidy q s) : ∃ z, execPortLost p s = .next z
    ∧ Tidy q z := by
  refine ⟨_, rfl, ?_⟩
  with_reducible repeat' first
    | (intro _) | assumption | apply tidy_stopWhenRest | apply tidy_portLoss | (simp only [tidy_mk]; apply tidy_back)
    | split | dsimp only

theorem within_execPortLost (T : List Part) (orig : State) (hT : subP [.od, .out, .fab, .trw, .sec, .obs, .log, .frz,
    .can] T = true) (p : Fin 16) (s : State) (h1 : Within T orig s) : ∃ z, execPortLost p s = .next z ∧ Within T orig
    z := by
  refine ⟨_, rfl, ?_⟩
  with_reducible repeat' first
    | (intro _) | assumption | (exact subP_trans (by decide) hT) | apply within_stopWhenRest | apply within_portLoss
    | split | dsimp only

theorem tidy_execDrainTimeout (q : List Instr) (p : Fin 16) (s : State) (h1 : Tidy q s) : ∃ z, execDrainTimeout p s =
    .next z ∧ Tidy q z := by
  refine ⟨_, rfl, ?_⟩
  with_reducible repeat' first
    | (intro _) | assumption | apply tidy_stopWhenRest | apply tidy_drainTimeout
    | (simp only [tidy_mk]; apply tidy_back) | split | dsimp only

theorem within_execDrainTimeout (T : List Part) (orig : State) (hT : subP [.od, .out, .fab, .trw, .sec, .obs, .log,
    .frz, .can] T = true) (p : Fin 16) (s : State) (h1 : Within T orig s) : ∃ z, execDrainTimeout p s = .next z ∧
    Within T orig z := by
  refine ⟨_, rfl, ?_⟩
  with_reducible repeat' first
    | (intro _) | assumption | (exact subP_trans (by decide) hT) | apply within_stopWhenRest
    | apply within_drainTimeout | split | dsimp only

theorem tidy_execFlitReceive (q : List Instr) (p : Fin 16) (f : FlitIn) (s : State) (h1 : Tidy q s) : ∃ z,
    execFlitReceive p f s = .next z ∧ Tidy q z := by
  refine ⟨_, rfl, ?_⟩
  with_reducible repeat' first
    | (intro _) | assumption | apply tidy_stopWhenRest | apply tidy_flitReceive
    | (simp only [tidy_mk]; apply tidy_back) | split | dsimp only

theorem within_execFlitReceive (T : List Part) (orig : State) (hT : subP [.od, .out, .fab, .trw, .sec, .obs, .log,
    .frz, .can] T = true) (p : Fin 16) (f : FlitIn) (s : State) (h1 : Within T orig s) : ∃ z, execFlitReceive p f s =
    .next z ∧ Within T orig z := by
  refine ⟨_, rfl, ?_⟩
  with_reducible repeat' first
    | (intro _) | assumption | (exact subP_trans (by decide) hT) | apply within_stopWhenRest
    | apply within_flitReceive | split | dsimp only

theorem tidy_execKeyChange (q : List Instr) (p : Fin 16) (s : State) (h1 : Tidy q s) : ∃ z, execKeyChange p s = .next
    z ∧ Tidy q z := by
  refine ⟨_, rfl, ?_⟩
  with_reducible repeat' first
    | (intro _) | assumption | apply tidy_stopWhenRest | apply tidy_keyChange | (simp only [tidy_mk]; apply tidy_back)
    | split | dsimp only

theorem within_execKeyChange (T : List Part) (orig : State) (hT : subP [.od, .out, .fab, .trw, .sec, .obs, .log, .frz,
    .can] T = true) (p : Fin 16) (s : State) (h1 : Within T orig s) : ∃ z, execKeyChange p s = .next z ∧ Within T orig
    z := by
  refine ⟨_, rfl, ?_⟩
  with_reducible repeat' first
    | (intro _) | assumption | (exact subP_trans (by decide) hT) | apply within_stopWhenRest | apply within_keyChange
    | split | dsimp only

theorem tidy_execGoingDownNotice (q : List Instr) (p : Fin 16) (s : State) (h1 : Tidy q s) : ∃ z, execGoingDownNotice
    p s = .next z ∧ Tidy q z := by
  refine ⟨_, rfl, ?_⟩
  with_reducible repeat' first
    | (intro _) | assumption | apply tidy_stopWhenRest | apply tidy_goingDown | (simp only [tidy_mk]; apply tidy_back)
    | split | dsimp only

theorem within_execGoingDownNotice (T : List Part) (orig : State) (hT : subP [.od, .fab, .trw, .sec, .obs, .log, .frz]
    T = true) (p : Fin 16) (s : State) (h1 : Within T orig s) : ∃ z, execGoingDownNotice p s = .next z ∧ Within T orig
    z := by
  refine ⟨_, rfl, ?_⟩
  with_reducible repeat' first
    | (intro _) | assumption | (exact subP_trans (by decide) hT) | apply within_stopWhenRest | apply within_goingDown
    | split | dsimp only

theorem tidy_execPeerFailureNotice (q : List Instr) (p : Fin 16) (s : State) (h1 : Tidy q s) : ∃ z,
    execPeerFailureNotice p s = .next z ∧ Tidy q z := by
  refine ⟨_, rfl, ?_⟩
  with_reducible repeat' first
    | (intro _) | assumption | apply tidy_stopWhenRest | apply tidy_portLoss | (simp only [tidy_mk]; apply tidy_back)
    | split | dsimp only

theorem within_execPeerFailureNotice (T : List Part) (orig : State) (hT : subP [.od, .out, .fab, .trw, .sec, .obs,
    .log, .frz, .can] T = true) (p : Fin 16) (s : State) (h1 : Within T orig s) : ∃ z, execPeerFailureNotice p s =
    .next z ∧ Within T orig z := by
  refine ⟨_, rfl, ?_⟩
  with_reducible repeat' first
    | (intro _) | assumption | (exact subP_trans (by decide) hT) | apply within_stopWhenRest | apply within_portLoss
    | split | dsimp only

theorem tidy_execBar0RegisterWrite (q : List Instr) (off : Fin 67108864) (a : HostAccess) (s : State) (h1 : Tidy q s)
    : ∃ z, execBar0RegisterWrite off a s = .next z ∧ Tidy q z := by
  refine ⟨_, rfl, ?_⟩
  with_reducible repeat' first
    | (intro _) | assumption | apply tidy_hostAccess | (simp only [tidy_mk]; apply tidy_back) | split | dsimp only

theorem within_execBar0RegisterWrite (T : List Part) (orig : State) (hT : subP [.od, .out, .hst, .log, .can] T = true)
    (off : Fin 67108864) (a : HostAccess) (s : State) (h1 : Within T orig s) : ∃ z, execBar0RegisterWrite off a s =
    .next z ∧ Within T orig z := by
  refine ⟨_, rfl, ?_⟩
  with_reducible repeat' first
    | (intro _) | assumption | (exact subP_trans (by decide) hT) | apply within_hostAccess | split | dsimp only

theorem tidy_execSwitchingPeriodBoundary (q : List Instr) (e : PeriodIn) (s : State) (h1 : Tidy q s) : ∃ z,
    execSwitchingPeriodBoundary e s = .next z ∧ Tidy q z := by
  refine ⟨_, rfl, ?_⟩
  with_reducible repeat' first
    | (intro _) | assumption | apply tidy_periodBoundary | (simp only [tidy_mk]; apply tidy_back) | split | dsimp only

theorem within_execSwitchingPeriodBoundary (T : List Part) (orig : State) (hT : subP [.od, .out, .freeCtr, .mem, .ecc,
    .tiles, .mesh, .graphs, .cmds, .hst, .fab, .rem, .flt, .trw, .sec, .meas, .tim, .obs, .log, .frz, .can, .mod] T =
    true) (e : PeriodIn) (s : State) (h1 : Within T orig s) : ∃ z, execSwitchingPeriodBoundary e s = .next z ∧ Within
    T orig z := by
  refine ⟨_, rfl, ?_⟩
  with_reducible repeat' first
    | (intro _) | assumption | (exact subP_trans (by decide) hT) | apply within_periodBoundary | split | dsimp only

theorem tidy_execShedTimerExpiry (q : List Instr) (rail : Fin 11) (s : State) (h1 : Tidy q s) : ∃ z,
    execShedTimerExpiry rail s = .next z ∧ Tidy q z := by
  refine ⟨_, rfl, ?_⟩
  with_reducible repeat' first
    | (intro _) | assumption | apply tidy_shedTimer | (simp only [tidy_mk]; apply tidy_back) | split | dsimp only

theorem within_execShedTimerExpiry (T : List Part) (orig : State) (hT : subP [.trw] T = true) (rail : Fin 11) (s :
    State) (h1 : Within T orig s) : ∃ z, execShedTimerExpiry rail s = .next z ∧ Within T orig z := by
  refine ⟨_, rfl, ?_⟩
  with_reducible repeat' first
    | (intro _) | assumption | (exact subP_trans (by decide) hT) | apply within_shedTimer | split | dsimp only

theorem tidy_execAddHoldoffExpiry (q : List Instr) (rail : Fin 11) (s : State) (h1 : Tidy q s) : ∃ z,
    execAddHoldoffExpiry rail s = .next z ∧ Tidy q z := by
  refine ⟨_, rfl, ?_⟩
  with_reducible repeat' first
    | (intro _) | assumption | apply tidy_modRail | (simp only [tidy_mk]; apply tidy_back) | split | dsimp only

theorem within_execAddHoldoffExpiry (T : List Part) (orig : State) (hT : subP [.trw] T = true) (rail : Fin 11) (s :
    State) (h1 : Within T orig s) : ∃ z, execAddHoldoffExpiry rail s = .next z ∧ Within T orig z := by
  refine ⟨_, rfl, ?_⟩
  with_reducible repeat' first
    | (intro _) | assumption | (exact subP_trans (by decide) hT) | apply within_modRail | split | dsimp only

theorem tidy_execMirrorFrame (q : List Instr) (s : State) (h1 : Tidy q s) : ∃ z, execMirrorFrame s = .next z ∧ Tidy q
    z := by
  refine ⟨_, rfl, ?_⟩
  with_reducible repeat' first
    | (intro _) | assumption | apply tidy_mirrorFrame | (simp only [tidy_mk]; apply tidy_back) | split | dsimp only

theorem within_execMirrorFrame (T : List Part) (orig : State) (hT : subP [.od, .trw] T = true) (s : State) (h1 :
    Within T orig s) : ∃ z, execMirrorFrame s = .next z ∧ Within T orig z := by
  refine ⟨_, rfl, ?_⟩
  with_reducible repeat' first
    | (intro _) | assumption | (exact subP_trans (by decide) hT) | apply within_mirrorFrame | split | dsimp only

theorem tidy_execMirrorDeadline (q : List Instr) (s : State) (h1 : Tidy q s) : ∃ z, execMirrorDeadline s = .next z ∧
    Tidy q z := by
  refine ⟨_, rfl, ?_⟩
  with_reducible repeat' first
    | (intro _) | assumption | apply tidy_mirrorDeadline | (simp only [tidy_mk]; apply tidy_back) | split | dsimp only

theorem within_execMirrorDeadline (T : List Part) (orig : State) (hT : subP [.od, .out, .freeCtr, .mem, .ecc, .tiles,
    .mesh, .graphs, .cmds, .hst, .fab, .rem, .flt, .trw, .sec, .meas, .tim, .obs, .log, .frz, .can, .mod] T = true) (s
    : State) (h1 : Within T orig s) : ∃ z, execMirrorDeadline s = .next z ∧ Within T orig z := by
  refine ⟨_, rfl, ?_⟩
  with_reducible repeat' first
    | (intro _) | assumption | (exact subP_trans (by decide) hT) | apply within_mirrorDeadline | split | dsimp only

theorem tidy_execEngineTakeover (q : List Instr) (s : State) (h1 : Tidy q s) : ∃ z, execEngineTakeover s = .next z ∧
    Tidy q z := by
  refine ⟨_, rfl, ?_⟩
  with_reducible repeat' first
    | (intro _) | assumption | apply tidy_takeover | (simp only [tidy_mk]; apply tidy_back) | split | dsimp only

theorem within_execEngineTakeover (T : List Part) (orig : State) (hT : subP [.od, .out, .freeCtr, .flt, .trw, .obs,
    .log, .frz, .can] T = true) (s : State) (h1 : Within T orig s) : ∃ z, execEngineTakeover s = .next z ∧ Within T
    orig z := by
  refine ⟨_, rfl, ?_⟩
  with_reducible repeat' first
    | (intro _) | assumption | (exact subP_trans (by decide) hT) | apply within_takeover | split | dsimp only

theorem tidy_execClaimOverlapEnd (q : List Instr) (s : State) (h1 : Tidy q s) : ∃ z, execClaimOverlapEnd s = .next z ∧
    Tidy q z := by
  refine ⟨_, rfl, ?_⟩
  with_reducible repeat' first
    | (intro _) | assumption | apply tidy_modTrw | (simp only [tidy_mk]; apply tidy_back) | split | dsimp only

theorem within_execClaimOverlapEnd (T : List Part) (orig : State) (hT : subP [.trw] T = true) (s : State) (h1 : Within
    T orig s) : ∃ z, execClaimOverlapEnd s = .next z ∧ Within T orig z := by
  refine ⟨_, rfl, ?_⟩
  with_reducible repeat' first
    | (intro _) | assumption | (exact subP_trans (by decide) hT) | apply within_modTrw | split | dsimp only

theorem tidy_execEngineRestart (q : List Instr) (engine : Fin 2) (s : State) (h1 : Tidy q s) : ∃ z, execEngineRestart
    engine s = .next z ∧ Tidy q z := by
  refine ⟨_, rfl, ?_⟩
  with_reducible repeat' first
    | (intro _) | assumption | apply tidy_engineRestart | (simp only [tidy_mk]; apply tidy_back) | split | dsimp only

theorem within_execEngineRestart (T : List Part) (orig : State) (hT : subP [.od, .trw] T = true) (engine : Fin 2) (s :
    State) (h1 : Within T orig s) : ∃ z, execEngineRestart engine s = .next z ∧ Within T orig z := by
  refine ⟨_, rfl, ?_⟩
  with_reducible repeat' first
    | (intro _) | assumption | (exact subP_trans (by decide) hT) | apply within_engineRestart | split | dsimp only

theorem tidy_execTrowelHandover (q : List Instr) (path : Fin 4) (v : Nat) (s : State) (h1 : Tidy q s) : ∃ z,
    execTrowelHandover path v s = .next z ∧ Tidy q z := by
  refine ⟨_, rfl, ?_⟩
  with_reducible repeat' first
    | (intro _) | assumption | apply tidy_namedWrite | apply tidy_wHandover | (apply tidyPair_of; assumption)
    | (simp only [tidy_mk]; apply tidy_back) | split | dsimp only

theorem within_execTrowelHandover (T : List Part) (orig : State) (hT : subP [.od, .resp, .trw] T = true) (path : Fin
    4) (v : Nat) (s : State) (h1 : Within T orig s) : ∃ z, execTrowelHandover path v s = .next z ∧ Within T orig z :=
    by
  refine ⟨_, rfl, ?_⟩
  with_reducible repeat' first
    | (intro _) | assumption | (exact subP_trans (by decide) hT) | apply within_namedWrite | apply within_wHandover
    | (apply withinPair_of; assumption) | split | dsimp only

theorem tidy_execRailTelemetryUpdate (q : List Instr) (s : State) (h1 : Tidy q s) : ∃ z, execRailTelemetryUpdate s =
    .next z ∧ Tidy q z := by
  refine ⟨_, rfl, ?_⟩
  with_reducible repeat' first
    | (intro _) | assumption | apply tidy_telemetryUpdate | (simp only [tidy_mk]; apply tidy_back) | split
    | dsimp only

theorem within_execRailTelemetryUpdate (T : List Part) (orig : State) (hT : subP [.od, .trw] T = true) (s : State) (h1
    : Within T orig s) : ∃ z, execRailTelemetryUpdate s = .next z ∧ Within T orig z := by
  refine ⟨_, rfl, ?_⟩
  with_reducible repeat' first
    | (intro _) | assumption | (exact subP_trans (by decide) hT) | apply within_telemetryUpdate | split | dsimp only

theorem tidy_execRailGroupStart (q : List Instr) (g : Fin 6) (s : State) (h1 : Tidy q s) : ∃ z, execRailGroupStart g s
    = .next z ∧ Tidy q z := by
  refine ⟨_, rfl, ?_⟩
  with_reducible repeat' first
    | (intro _) | assumption | apply tidy_groupStart | (simp only [tidy_mk]; apply tidy_back) | split | dsimp only

theorem within_execRailGroupStart (T : List Part) (orig : State) (hT : subP [.od, .out, .freeCtr, .mem, .ecc, .tiles,
    .mesh, .graphs, .cmds, .hst, .fab, .rem, .flt, .trw, .sec, .meas, .tim, .obs, .log, .frz, .can, .mod] T = true) (g
    : Fin 6) (s : State) (h1 : Within T orig s) : ∃ z, execRailGroupStart g s = .next z ∧ Within T orig z := by
  refine ⟨_, rfl, ?_⟩
  with_reducible repeat' first
    | (intro _) | assumption | (exact subP_trans (by decide) hT) | apply within_groupStart | split | dsimp only

theorem tidy_execPowerGoodTimeout (q : List Instr) (rail : Fin 11) (s : State) (h1 : Tidy q s) : ∃ z,
    execPowerGoodTimeout rail s = .next z ∧ Tidy q z := by
  refine ⟨_, rfl, ?_⟩
  with_reducible repeat' first
    | (intro _) | assumption | apply tidy_powerGoodTimeout | (simp only [tidy_mk]; apply tidy_back) | split
    | dsimp only

theorem within_execPowerGoodTimeout (T : List Part) (orig : State) (hT : subP [.od, .out, .freeCtr, .mem, .ecc,
    .tiles, .mesh, .graphs, .cmds, .hst, .fab, .rem, .flt, .trw, .sec, .meas, .tim, .obs, .log, .frz, .can, .mod] T =
    true) (rail : Fin 11) (s : State) (h1 : Within T orig s) : ∃ z, execPowerGoodTimeout rail s = .next z ∧ Within T
    orig z := by
  refine ⟨_, rfl, ?_⟩
  with_reducible repeat' first
    | (intro _) | assumption | (exact subP_trans (by decide) hT) | apply within_powerGoodTimeout | split | dsimp only

theorem tidy_execRetryWaitExpiry (q : List Instr) (rail : Fin 11) (s : State) (h1 : Tidy q s) : ∃ z,
    execRetryWaitExpiry rail s = .next z ∧ Tidy q z := by
  refine ⟨_, rfl, ?_⟩
  with_reducible repeat' first
    | (intro _) | assumption | apply tidy_retryExpiry | (simp only [tidy_mk]; apply tidy_back) | split | dsimp only

theorem within_execRetryWaitExpiry (T : List Part) (orig : State) (hT : subP [.od, .out, .freeCtr, .mem, .ecc, .tiles,
    .mesh, .graphs, .cmds, .hst, .fab, .rem, .flt, .trw, .sec, .meas, .tim, .obs, .log, .frz, .can, .mod] T = true)
    (rail : Fin 11) (s : State) (h1 : Within T orig s) : ∃ z, execRetryWaitExpiry rail s = .next z ∧ Within T orig z
    := by
  refine ⟨_, rfl, ?_⟩
  with_reducible repeat' first
    | (intro _) | assumption | (exact subP_trans (by decide) hT) | apply within_retryExpiry | split | dsimp only

theorem tidy_execSoftStopComplete (q : List Instr) (rail : Fin 11) (s : State) (h1 : Tidy q s) : ∃ z,
    execSoftStopComplete rail s = .next z ∧ Tidy q z := by
  refine ⟨_, rfl, ?_⟩
  with_reducible repeat' first
    | (intro _) | assumption | apply tidy_softStopDone | (simp only [tidy_mk]; apply tidy_back) | split | dsimp only

theorem within_execSoftStopComplete (T : List Part) (orig : State) (hT : subP [.od, .trw] T = true) (rail : Fin 11) (s
    : State) (h1 : Within T orig s) : ∃ z, execSoftStopComplete rail s = .next z ∧ Within T orig z := by
  refine ⟨_, rfl, ?_⟩
  with_reducible repeat' first
    | (intro _) | assumption | (exact subP_trans (by decide) hT) | apply within_softStopDone | split | dsimp only

theorem tidy_execFastOvervoltage (q : List Instr) (rail : Fin 11) (s : State) (h1 : Tidy q s) : ∃ z,
    execFastOvervoltage rail s = .next z ∧ Tidy q z := by
  refine ⟨_, rfl, ?_⟩
  with_reducible repeat' first
    | (intro _) | assumption | apply tidy_modRail | (simp only [tidy_mk]; apply tidy_back) | split | dsimp only

theorem within_execFastOvervoltage (T : List Part) (orig : State) (hT : subP [.trw] T = true) (rail : Fin 11) (s :
    State) (h1 : Within T orig s) : ∃ z, execFastOvervoltage rail s = .next z ∧ Within T orig z := by
  refine ⟨_, rfl, ?_⟩
  with_reducible repeat' first
    | (intro _) | assumption | (exact subP_trans (by decide) hT) | apply within_modRail | split | dsimp only

theorem tidy_execBusConverterFault (q : List Instr) (conv : Fin 4) (s : State) (h1 : Tidy q s) : ∃ z,
    execBusConverterFault conv s = .next z ∧ Tidy q z := by
  refine ⟨_, rfl, ?_⟩
  with_reducible repeat' first
    | (intro _) | assumption | apply tidy_busConverterOff | (simp only [tidy_mk]; apply tidy_back) | split
    | dsimp only

theorem within_execBusConverterFault (T : List Part) (orig : State) (hT : subP [.od, .out, .obs, .log, .frz, .can] T =
    true) (conv : Fin 4) (s : State) (h1 : Within T orig s) : ∃ z, execBusConverterFault conv s = .next z ∧ Within T
    orig z := by
  refine ⟨_, rfl, ?_⟩
  with_reducible repeat' first
    | (intro _) | assumption | (exact subP_trans (by decide) hT) | apply within_busConverterOff | split | dsimp only

theorem tidy_execStageTempRead (q : List Instr) (ts : List Int) (s : State) (h1 : Tidy q s) : ∃ z, execStageTempRead
    ts s = .next z ∧ Tidy q z := by
  refine ⟨_, rfl, ?_⟩
  with_reducible repeat' first
    | (intro _) | assumption | apply tidy_stageTempRead | (simp only [tidy_mk]; apply tidy_back) | split | dsimp only

theorem within_execStageTempRead (T : List Part) (orig : State) (hT : subP [.od, .out, .freeCtr, .mem, .ecc, .tiles,
    .mesh, .graphs, .cmds, .hst, .fab, .rem, .flt, .trw, .sec, .meas, .tim, .obs, .log, .frz, .can, .mod] T = true)
    (ts : List Int) (s : State) (h1 : Within T orig s) : ∃ z, execStageTempRead ts s = .next z ∧ Within T orig z := by
  refine ⟨_, rfl, ?_⟩
  with_reducible repeat' first
    | (intro _) | assumption | (exact subP_trans (by decide) hT) | apply within_stageTempRead | split | dsimp only

theorem tidy_execRegSyncLoss (q : List Instr) (s : State) (h1 : Tidy q s) : ∃ z, execRegSyncLoss s = .next z ∧ Tidy q
    z := by
  refine ⟨_, rfl, ?_⟩
  with_reducible repeat' first
    | (intro _) | assumption | apply tidy_regSyncLoss | (simp only [tidy_mk]; apply tidy_back) | split | dsimp only

theorem within_execRegSyncLoss (T : List Part) (orig : State) (hT : subP [.od, .obs, .log, .frz, .mod] T = true) (s :
    State) (h1 : Within T orig s) : ∃ z, execRegSyncLoss s = .next z ∧ Within T orig z := by
  refine ⟨_, rfl, ?_⟩
  with_reducible repeat' first
    | (intro _) | assumption | (exact subP_trans (by decide) hT) | apply within_regSyncLoss | split | dsimp only

theorem tidy_execRegSyncRecovered (q : List Instr) (s : State) (h1 : Tidy q s) : ∃ z, execRegSyncRecovered s = .next z
    ∧ Tidy q z := by
  refine ⟨_, rfl, ?_⟩
  with_reducible repeat' first
    | (intro _) | assumption | apply tidy_regSyncRecovered | (simp only [tidy_mk]; apply tidy_back) | split
    | dsimp only

theorem within_execRegSyncRecovered (T : List Part) (orig : State) (hT : subP [.od, .mod] T = true) (s : State) (h1 :
    Within T orig s) : ∃ z, execRegSyncRecovered s = .next z ∧ Within T orig z := by
  refine ⟨_, rfl, ?_⟩
  with_reducible repeat' first
    | (intro _) | assumption | (exact subP_trans (by decide) hT) | apply within_regSyncRecovered | split | dsimp only

theorem tidy_execUsdoInitiate (q : List Instr) (bus : Fin 2) (r : UsdoReq) (env : WriteEnv) (s : State) (h1 : Tidy q
    s) : ∃ z, execUsdoInitiate bus r env s = .next z ∧ Tidy q z := by
  refine ⟨_, rfl, ?_⟩
  with_reducible repeat' first
    | (intro _) | assumption | apply tidy_rxFrame | (simp only [tidy_mk]; apply tidy_back) | split | dsimp only

theorem within_execUsdoInitiate (T : List Part) (orig : State) (hT : subP [.od, .out, .resp, .freeCtr, .mem, .ecc,
    .tiles, .mesh, .graphs, .cmds, .hst, .fab, .rem, .flt, .trw, .sec, .meas, .obs, .log, .frz, .can, .mod] T = true)
    (bus : Fin 2) (r : UsdoReq) (env : WriteEnv) (s : State) (h1 : Within T orig s) : ∃ z, execUsdoInitiate bus r env
    s = .next z ∧ Within T orig z := by
  refine ⟨_, rfl, ?_⟩
  with_reducible repeat' first
    | (intro _) | assumption | (exact subP_trans (by decide) hT) | apply within_rxFrame | split | dsimp only

theorem tidy_execUsdoSegment (q : List Instr) (bus : Fin 2) (bs : List Byte) (last : Bool) (env : WriteEnv) (s :
    State) (h1 : Tidy q s) : ∃ z, execUsdoSegment bus bs last env s = .next z ∧ Tidy q z := by
  refine ⟨_, rfl, ?_⟩
  with_reducible repeat' first
    | (intro _) | assumption | apply tidy_rxFrame | (simp only [tidy_mk]; apply tidy_back) | split | dsimp only

theorem within_execUsdoSegment (T : List Part) (orig : State) (hT : subP [.od, .out, .resp, .freeCtr, .mem, .ecc,
    .tiles, .mesh, .graphs, .cmds, .hst, .fab, .rem, .flt, .trw, .sec, .meas, .obs, .log, .frz, .can, .mod] T = true)
    (bus : Fin 2) (bs : List Byte) (last : Bool) (env : WriteEnv) (s : State) (h1 : Within T orig s) : ∃ z,
    execUsdoSegment bus bs last env s = .next z ∧ Within T orig z := by
  refine ⟨_, rfl, ?_⟩
  with_reducible repeat' first
    | (intro _) | assumption | (exact subP_trans (by decide) hT) | apply within_rxFrame | split | dsimp only

theorem tidy_execUsdoSessionTimeout (q : List Instr) (bus : Fin 2) (s : State) (h1 : Tidy q s) : ∃ z,
    execUsdoSessionTimeout bus s = .next z ∧ Tidy q z := by
  refine ⟨_, rfl, ?_⟩
  with_reducible repeat' first
    | (intro _) | assumption | apply tidy_usdoTimeout | (simp only [tidy_mk]; apply tidy_back) | split | dsimp only

theorem within_execUsdoSessionTimeout (T : List Part) (orig : State) (hT : subP [.od, .out, .resp, .can] T = true)
    (bus : Fin 2) (s : State) (h1 : Within T orig s) : ∃ z, execUsdoSessionTimeout bus s = .next z ∧ Within T orig z
    := by
  refine ⟨_, rfl, ?_⟩
  with_reducible repeat' first
    | (intro _) | assumption | (exact subP_trans (by decide) hT) | apply within_usdoTimeout | split | dsimp only

theorem tidy_execObjectWrite (q : List Instr) (path : Fin 4) (idx : Fin 65536) (sub : Fin 256) (bs : List Byte) (env :
    WriteEnv) (s : State) (h1 : Tidy q s) : ∃ z, execObjectWrite path idx sub bs env s = .next z ∧ Tidy q z := by
  refine ⟨_, rfl, ?_⟩
  with_reducible repeat' first
    | (intro _) | assumption | apply tidy_objectWrite | (simp only [tidy_mk]; apply tidy_back) | split | dsimp only

theorem within_execObjectWrite (T : List Part) (orig : State) (hT : subP [.od, .out, .resp, .freeCtr, .mem, .ecc,
    .tiles, .mesh, .graphs, .cmds, .hst, .fab, .rem, .flt, .trw, .sec, .meas, .obs, .log, .frz, .can, .mod] T = true)
    (path : Fin 4) (idx : Fin 65536) (sub : Fin 256) (bs : List Byte) (env : WriteEnv) (s : State) (h1 : Within T orig
    s) : ∃ z, execObjectWrite path idx sub bs env s = .next z ∧ Within T orig z := by
  refine ⟨_, rfl, ?_⟩
  with_reducible repeat' first
    | (intro _) | assumption | (exact subP_trans (by decide) hT) | apply within_objectWrite | split | dsimp only

theorem tidy_execMailboxRead (q : List Instr) (s : State) (h1 : Tidy q s) : ∃ z, execMailboxRead s = .next z ∧ Tidy q
    z := by
  refine ⟨_, rfl, ?_⟩
  with_reducible repeat' first
    | (intro _) | assumption | apply tidy_mailStart | apply tidy_pcieCount | apply tidy_ite
    | (simp only [tidy_mk]; apply tidy_back) | split | dsimp only

theorem within_execMailboxRead (T : List Part) (orig : State) (hT : subP [.od, .log, .can] T = true) (s : State) (h1 :
    Within T orig s) : ∃ z, execMailboxRead s = .next z ∧ Within T orig z := by
  refine ⟨_, rfl, ?_⟩
  with_reducible repeat' first
    | (intro _) | assumption | (exact subP_trans (by decide) hT) | apply within_mailStart | apply within_pcieCount
    | apply within_ite | split | dsimp only

theorem tidy_execMailboxWrite (q : List Instr) (s : State) (h1 : Tidy q s) : ∃ z, execMailboxWrite s = .next z ∧ Tidy
    q z := by
  refine ⟨_, rfl, ?_⟩
  with_reducible repeat' first
    | (intro _) | assumption | apply tidy_mailStart | apply tidy_pcieCount | apply tidy_ite
    | (simp only [tidy_mk]; apply tidy_back) | split | dsimp only

theorem within_execMailboxWrite (T : List Part) (orig : State) (hT : subP [.od, .log, .can] T = true) (s : State) (h1
    : Within T orig s) : ∃ z, execMailboxWrite s = .next z ∧ Within T orig z := by
  refine ⟨_, rfl, ?_⟩
  with_reducible repeat' first
    | (intro _) | assumption | (exact subP_trans (by decide) hT) | apply within_mailStart | apply within_pcieCount
    | apply within_ite | split | dsimp only

theorem tidy_execMailboxComplete (q : List Instr) (env : WriteEnv) (s : State) (h1 : Tidy q s) : ∃ z,
    execMailboxComplete env s = .next z ∧ Tidy q z := by
  refine ⟨_, rfl, ?_⟩
  with_reducible repeat' first
    | (intro _) | assumption | apply tidy_mailComplete | (simp only [tidy_mk]; apply tidy_back) | split | dsimp only

theorem within_execMailboxComplete (T : List Part) (orig : State) (hT : subP [.od, .out, .resp, .freeCtr, .mem, .ecc,
    .tiles, .mesh, .graphs, .cmds, .hst, .fab, .rem, .flt, .trw, .sec, .meas, .obs, .log, .frz, .can, .mod] T = true)
    (env : WriteEnv) (s : State) (h1 : Within T orig s) : ∃ z, execMailboxComplete env s = .next z ∧ Within T orig z
    := by
  refine ⟨_, rfl, ?_⟩
  with_reducible repeat' first
    | (intro _) | assumption | (exact subP_trans (by decide) hT) | apply within_mailComplete | split | dsimp only

theorem tidy_execNmtStart (q : List Instr) (bus : Fin 2) (s : State) (h1 : Tidy q s) : ∃ z, execNmtStart bus s = .next
    z ∧ Tidy q z := by
  refine ⟨_, rfl, ?_⟩
  with_reducible repeat' first
    | (intro _) | assumption | apply tidy_rxFrame | (simp only [tidy_mk]; apply tidy_back) | split | dsimp only

theorem within_execNmtStart (T : List Part) (orig : State) (hT : subP [.od, .out, .resp, .freeCtr, .mem, .ecc, .tiles,
    .mesh, .graphs, .cmds, .hst, .fab, .rem, .flt, .trw, .sec, .meas, .obs, .log, .frz, .can, .mod] T = true) (bus :
    Fin 2) (s : State) (h1 : Within T orig s) : ∃ z, execNmtStart bus s = .next z ∧ Within T orig z := by
  refine ⟨_, rfl, ?_⟩
  with_reducible repeat' first
    | (intro _) | assumption | (exact subP_trans (by decide) hT) | apply within_rxFrame | split | dsimp only

theorem tidy_execNmtStop (q : List Instr) (bus : Fin 2) (s : State) (h1 : Tidy q s) : ∃ z, execNmtStop bus s = .next z
    ∧ Tidy q z := by
  refine ⟨_, rfl, ?_⟩
  with_reducible repeat' first
    | (intro _) | assumption | apply tidy_rxFrame | (simp only [tidy_mk]; apply tidy_back) | split | dsimp only

theorem within_execNmtStop (T : List Part) (orig : State) (hT : subP [.od, .out, .resp, .freeCtr, .mem, .ecc, .tiles,
    .mesh, .graphs, .cmds, .hst, .fab, .rem, .flt, .trw, .sec, .meas, .obs, .log, .frz, .can, .mod] T = true) (bus :
    Fin 2) (s : State) (h1 : Within T orig s) : ∃ z, execNmtStop bus s = .next z ∧ Within T orig z := by
  refine ⟨_, rfl, ?_⟩
  with_reducible repeat' first
    | (intro _) | assumption | (exact subP_trans (by decide) hT) | apply within_rxFrame | split | dsimp only

theorem tidy_execNmtEnterPreOperational (q : List Instr) (bus : Fin 2) (s : State) (h1 : Tidy q s) : ∃ z,
    execNmtEnterPreOperational bus s = .next z ∧ Tidy q z := by
  refine ⟨_, rfl, ?_⟩
  with_reducible repeat' first
    | (intro _) | assumption | apply tidy_rxFrame | (simp only [tidy_mk]; apply tidy_back) | split | dsimp only

theorem within_execNmtEnterPreOperational (T : List Part) (orig : State) (hT : subP [.od, .out, .resp, .freeCtr, .mem,
    .ecc, .tiles, .mesh, .graphs, .cmds, .hst, .fab, .rem, .flt, .trw, .sec, .meas, .obs, .log, .frz, .can, .mod] T =
    true) (bus : Fin 2) (s : State) (h1 : Within T orig s) : ∃ z, execNmtEnterPreOperational bus s = .next z ∧ Within
    T orig z := by
  refine ⟨_, rfl, ?_⟩
  with_reducible repeat' first
    | (intro _) | assumption | (exact subP_trans (by decide) hT) | apply within_rxFrame | split | dsimp only

theorem tidy_execNmtResetCommunication (q : List Instr) (bus : Fin 2) (s : State) (h1 : Tidy q s) : ∃ z,
    execNmtResetCommunication bus s = .next z ∧ Tidy q z := by
  refine ⟨_, rfl, ?_⟩
  with_reducible repeat' first
    | (intro _) | assumption | apply tidy_rxFrame | (simp only [tidy_mk]; apply tidy_back) | split | dsimp only

theorem within_execNmtResetCommunication (T : List Part) (orig : State) (hT : subP [.od, .out, .resp, .freeCtr, .mem,
    .ecc, .tiles, .mesh, .graphs, .cmds, .hst, .fab, .rem, .flt, .trw, .sec, .meas, .obs, .log, .frz, .can, .mod] T =
    true) (bus : Fin 2) (s : State) (h1 : Within T orig s) : ∃ z, execNmtResetCommunication bus s = .next z ∧ Within T
    orig z := by
  refine ⟨_, rfl, ?_⟩
  with_reducible repeat' first
    | (intro _) | assumption | (exact subP_trans (by decide) hT) | apply within_rxFrame | split | dsimp only

theorem tidy_execNmtResetNode (q : List Instr) (bus : Fin 2) (s : State) (h1 : Tidy q s) : ∃ z, execNmtResetNode bus s
    = .next z ∧ Tidy q z := by
  refine ⟨_, rfl, ?_⟩
  with_reducible repeat' first
    | (intro _) | assumption | apply tidy_rxFrame | (simp only [tidy_mk]; apply tidy_back) | split | dsimp only

theorem within_execNmtResetNode (T : List Part) (orig : State) (hT : subP [.od, .out, .resp, .freeCtr, .mem, .ecc,
    .tiles, .mesh, .graphs, .cmds, .hst, .fab, .rem, .flt, .trw, .sec, .meas, .obs, .log, .frz, .can, .mod] T = true)
    (bus : Fin 2) (s : State) (h1 : Within T orig s) : ∃ z, execNmtResetNode bus s = .next z ∧ Within T orig z := by
  refine ⟨_, rfl, ?_⟩
  with_reducible repeat' first
    | (intro _) | assumption | (exact subP_trans (by decide) hT) | apply within_rxFrame | split | dsimp only

theorem tidy_execPdoMappingWrite (q : List Instr) (path : Fin 4) (pdo : Fin 4) (n : Fin 256) (s : State) (h1 : Tidy q
    s) : ∃ z, execPdoMappingWrite path pdo n s = .next z ∧ Tidy q z := by
  refine ⟨_, rfl, ?_⟩
  with_reducible repeat' first
    | (intro _) | assumption | apply tidy_namedWrite | apply tidy_wMapCount | (apply tidyPair_of; assumption)
    | (simp only [tidy_mk]; apply tidy_back) | split | dsimp only

theorem within_execPdoMappingWrite (T : List Part) (orig : State) (hT : subP [.od, .resp] T = true) (path : Fin 4)
    (pdo : Fin 4) (n : Fin 256) (s : State) (h1 : Within T orig s) : ∃ z, execPdoMappingWrite path pdo n s = .next z ∧
    Within T orig z := by
  refine ⟨_, rfl, ?_⟩
  with_reducible repeat' first
    | (intro _) | assumption | (exact subP_trans (by decide) hT) | apply within_namedWrite | apply within_wMapCount
    | (apply withinPair_of; assumption) | split | dsimp only

theorem tidy_execRpdo1 (q : List Instr) (bus : Fin 2) (bs : List Byte) (env : WriteEnv) (s : State) (h1 : Tidy q s) :
    ∃ z, execRpdo1 bus bs env s = .next z ∧ Tidy q z := by
  refine ⟨_, rfl, ?_⟩
  with_reducible repeat' first
    | (intro _) | assumption | apply tidy_rxFrame | (simp only [tidy_mk]; apply tidy_back) | split | dsimp only

theorem within_execRpdo1 (T : List Part) (orig : State) (hT : subP [.od, .out, .resp, .freeCtr, .mem, .ecc, .tiles,
    .mesh, .graphs, .cmds, .hst, .fab, .rem, .flt, .trw, .sec, .meas, .obs, .log, .frz, .can, .mod] T = true) (bus :
    Fin 2) (bs : List Byte) (env : WriteEnv) (s : State) (h1 : Within T orig s) : ∃ z, execRpdo1 bus bs env s = .next
    z ∧ Within T orig z := by
  refine ⟨_, rfl, ?_⟩
  with_reducible repeat' first
    | (intro _) | assumption | (exact subP_trans (by decide) hT) | apply within_rxFrame | split | dsimp only

theorem tidy_execSyncFrame (q : List Instr) (bus : Fin 2) (s : State) (h1 : Tidy q s) : ∃ z, execSyncFrame bus s =
    .next z ∧ Tidy q z := by
  refine ⟨_, rfl, ?_⟩
  with_reducible repeat' first
    | (intro _) | assumption | apply tidy_rxFrame | (simp only [tidy_mk]; apply tidy_back) | split | dsimp only

theorem within_execSyncFrame (T : List Part) (orig : State) (hT : subP [.od, .out, .resp, .freeCtr, .mem, .ecc,
    .tiles, .mesh, .graphs, .cmds, .hst, .fab, .rem, .flt, .trw, .sec, .meas, .obs, .log, .frz, .can, .mod] T = true)
    (bus : Fin 2) (s : State) (h1 : Within T orig s) : ∃ z, execSyncFrame bus s = .next z ∧ Within T orig z := by
  refine ⟨_, rfl, ?_⟩
  with_reducible repeat' first
    | (intro _) | assumption | (exact subP_trans (by decide) hT) | apply within_rxFrame | split | dsimp only

theorem tidy_execTpdoTimer (q : List Instr) (n : Fin 3) (s : State) (h1 : Tidy q s) : ∃ z, execTpdoTimer n s = .next z
    ∧ Tidy q z := by
  refine ⟨_, rfl, ?_⟩
  with_reducible repeat' first
    | (intro _) | assumption | apply tidy_tpdoTimer | (simp only [tidy_mk]; apply tidy_back) | split | dsimp only

theorem within_execTpdoTimer (T : List Part) (orig : State) (hT : subP [.out, .can] T = true) (n : Fin 3) (s : State)
    (h1 : Within T orig s) : ∃ z, execTpdoTimer n s = .next z ∧ Within T orig z := by
  refine ⟨_, rfl, ?_⟩
  with_reducible repeat' first
    | (intro _) | assumption | (exact subP_trans (by decide) hT) | apply within_tpdoTimer | split | dsimp only

theorem tidy_execHeartbeatTimer (q : List Instr) (s : State) (h1 : Tidy q s) : ∃ z, execHeartbeatTimer s = .next z ∧
    Tidy q z := by
  refine ⟨_, rfl, ?_⟩
  with_reducible repeat' first
    | (intro _) | assumption | apply tidy_heartbeat | (simp only [tidy_mk]; apply tidy_back) | split | dsimp only

theorem within_execHeartbeatTimer (T : List Part) (orig : State) (hT : subP [.out, .can] T = true) (s : State) (h1 :
    Within T orig s) : ∃ z, execHeartbeatTimer s = .next z ∧ Within T orig z := by
  refine ⟨_, rfl, ?_⟩
  with_reducible repeat' first
    | (intro _) | assumption | (exact subP_trans (by decide) hT) | apply within_heartbeat | split | dsimp only

theorem tidy_execRmHeartbeat (q : List Instr) (bus : Fin 2) (node : Fin 128) (s : State) (h1 : Tidy q s) : ∃ z,
    execRmHeartbeat bus node s = .next z ∧ Tidy q z := by
  refine ⟨_, rfl, ?_⟩
  with_reducible repeat' first
    | (intro _) | assumption | apply tidy_rxFrame | (simp only [tidy_mk]; apply tidy_back) | split | dsimp only

theorem within_execRmHeartbeat (T : List Part) (orig : State) (hT : subP [.od, .out, .resp, .freeCtr, .mem, .ecc,
    .tiles, .mesh, .graphs, .cmds, .hst, .fab, .rem, .flt, .trw, .sec, .meas, .obs, .log, .frz, .can, .mod] T = true)
    (bus : Fin 2) (node : Fin 128) (s : State) (h1 : Within T orig s) : ∃ z, execRmHeartbeat bus node s = .next z ∧
    Within T orig z := by
  refine ⟨_, rfl, ?_⟩
  with_reducible repeat' first
    | (intro _) | assumption | (exact subP_trans (by decide) hT) | apply within_rxFrame | split | dsimp only

theorem tidy_execRmSilenceTimeout (q : List Instr) (s : State) (h1 : Tidy q s) : ∃ z, execRmSilenceTimeout s = .next z
    ∧ Tidy q z := by
  refine ⟨_, rfl, ?_⟩
  with_reducible repeat' first
    | (intro _) | assumption | apply tidy_rmSilence | (simp only [tidy_mk]; apply tidy_back) | split | dsimp only

theorem within_execRmSilenceTimeout (T : List Part) (orig : State) (hT : subP [.od, .out, .obs, .log, .frz, .can] T =
    true) (s : State) (h1 : Within T orig s) : ∃ z, execRmSilenceTimeout s = .next z ∧ Within T orig z := by
  refine ⟨_, rfl, ?_⟩
  with_reducible repeat' first
    | (intro _) | assumption | (exact subP_trans (by decide) hT) | apply within_rmSilence | split | dsimp only

theorem tidy_execEmcyInhibitExpiry (q : List Instr) (s : State) (h1 : Tidy q s) : ∃ z, execEmcyInhibitExpiry s = .next
    z ∧ Tidy q z := by
  refine ⟨_, rfl, ?_⟩
  with_reducible repeat' first
    | (intro _) | assumption | apply tidy_inhibitEnd | (simp only [tidy_mk]; apply tidy_back) | split | dsimp only

theorem within_execEmcyInhibitExpiry (T : List Part) (orig : State) (hT : subP [.out, .can] T = true) (s : State) (h1
    : Within T orig s) : ∃ z, execEmcyInhibitExpiry s = .next z ∧ Within T orig z := by
  refine ⟨_, rfl, ?_⟩
  with_reducible repeat' first
    | (intro _) | assumption | (exact subP_trans (by decide) hT) | apply within_inhibitEnd | split | dsimp only

theorem tidy_execCanBusOffRecovery (q : List Instr) (bus : Fin 2) (s : State) (h1 : Tidy q s) : ∃ z,
    execCanBusOffRecovery bus s = .next z ∧ Tidy q z := by
  refine ⟨_, rfl, ?_⟩
  with_reducible repeat' first
    | (intro _) | assumption | apply tidy_busOffEnd | (simp only [tidy_mk]; apply tidy_back) | split | dsimp only

theorem within_execCanBusOffRecovery (T : List Part) (orig : State) (hT : subP [.od, .out, .obs, .log, .frz, .can] T =
    true) (bus : Fin 2) (s : State) (h1 : Within T orig s) : ∃ z, execCanBusOffRecovery bus s = .next z ∧ Within T
    orig z := by
  refine ⟨_, rfl, ?_⟩
  with_reducible repeat' first
    | (intro _) | assumption | (exact subP_trans (by decide) hT) | apply within_busOffEnd | split | dsimp only

theorem tidy_execProfileFlashDone (q : List Instr) (s : State) (h1 : Tidy q s) : ∃ z, execProfileFlashDone s = .next z
    ∧ Tidy q z := by
  refine ⟨_, rfl, ?_⟩
  with_reducible repeat' first
    | (intro _) | assumption | apply tidy_profileDone | (simp only [tidy_mk]; apply tidy_back) | split | dsimp only

theorem within_execProfileFlashDone (T : List Part) (orig : State) (hT : subP [.od, .out, .resp, .can] T = true) (s :
    State) (h1 : Within T orig s) : ∃ z, execProfileFlashDone s = .next z ∧ Within T orig z := by
  refine ⟨_, rfl, ?_⟩
  with_reducible repeat' first
    | (intro _) | assumption | (exact subP_trans (by decide) hT) | apply within_profileDone | split | dsimp only

theorem tidy_execAuxPowerOn (q : List Instr) (e : AuxIn) (s : State) (h1 : Tidy q s) : ∃ z, execAuxPowerOn e s = .next
    z ∧ Tidy q z := by
  refine ⟨_, rfl, ?_⟩
  with_reducible repeat' first
    | (intro _) | assumption | apply tidy_auxPowerOn | (simp only [tidy_mk]; apply tidy_back) | split | dsimp only

theorem within_execAuxPowerOn (T : List Part) (orig : State) (hT : subP [.now, .od, .dom, .out, .ecc, .tiles, .mesh,
    .graphs, .cmds, .hst, .fab, .rem, .flt, .trw, .sec, .meas, .tim, .obs, .log, .frz, .can, .mod] T = true) (e :
    AuxIn) (s : State) (h1 : Within T orig s) : ∃ z, execAuxPowerOn e s = .next z ∧ Within T orig z := by
  refine ⟨_, rfl, ?_⟩
  with_reducible repeat' first
    | (intro _) | assumption | (exact subP_trans (by decide) hT) | apply within_auxPowerOn | split | dsimp only

theorem tidy_execRecoveryClaim (q : List Instr) (s : State) (h1 : Tidy q s) : ∃ z, execRecoveryClaim s = .next z ∧
    Tidy q z := by
  refine ⟨_, rfl, ?_⟩
  with_reducible repeat' first
    | (intro _) | assumption | apply tidy_drainRx | apply tidy_recoveryClaim | (simp only [tidy_mk]; apply tidy_back)
    | split | dsimp only

theorem within_execRecoveryClaim (T : List Part) (orig : State) (hT : subP [.od, .dom, .out, .resp, .freeCtr, .mem,
    .ecc, .tiles, .mesh, .graphs, .cmds, .hst, .fab, .rem, .flt, .trw, .sec, .meas, .obs, .log, .frz, .can, .mod] T =
    true) (s : State) (h1 : Within T orig s) : ∃ z, execRecoveryClaim s = .next z ∧ Within T orig z := by
  refine ⟨_, rfl, ?_⟩
  with_reducible repeat' first
    | (intro _) | assumption | (exact subP_trans (by decide) hT) | apply within_drainRx | apply within_recoveryClaim
    | split | dsimp only

theorem tidy_execAuxLoss (q : List Instr) (s : State) (h1 : Tidy q s) : ∃ z, execAuxLoss s = .next z ∧ Tidy q z := by
  refine ⟨_, rfl, ?_⟩
  with_reducible repeat' first
    | (intro _) | assumption | apply tidy_auxLoss | (simp only [tidy_mk]; apply tidy_back) | split | dsimp only

theorem within_execAuxLoss (T : List Part) (orig : State) (hT : subP [.od, .freeCtr, .mem, .ecc, .tiles, .mesh,
    .graphs, .cmds, .hst, .fab, .rem, .flt, .trw, .sec, .meas, .tim, .obs, .log, .frz, .mod] T = true) (s : State) (h1
    : Within T orig s) : ∃ z, execAuxLoss s = .next z ∧ Within T orig z := by
  refine ⟨_, rfl, ?_⟩
  with_reducible repeat' first
    | (intro _) | assumption | (exact subP_trans (by decide) hT) | apply within_auxLoss | split | dsimp only

theorem tidy_execColdStart (q : List Instr) (slot : Fin 64) (prof : Fin 4) (lost : List (Fin 4)) (s : State) (h1 :
    Tidy q s) : ∃ z, execColdStart slot prof lost s = .next z ∧ Tidy q z := by
  refine ⟨_, rfl, ?_⟩
  with_reducible repeat' first
    | (intro _) | assumption | apply tidy_coldStart | (simp only [tidy_mk]; apply tidy_back) | split | dsimp only

theorem within_execColdStart (T : List Part) (orig : State) (hT : subP [.now, .od, .dom, .freeCtr, .mem, .ecc, .tiles,
    .flt, .trw, .sec, .meas, .tim, .obs, .log, .frz, .can, .mod] T = true) (slot : Fin 64) (prof : Fin 4) (lost : List
    (Fin 4)) (s : State) (h1 : Within T orig s) : ∃ z, execColdStart slot prof lost s = .next z ∧ Within T orig z :=
    by
  refine ⟨_, rfl, ?_⟩
  with_reducible repeat' first
    | (intro _) | assumption | (exact subP_trans (by decide) hT) | apply within_coldStart | split | dsimp only

theorem tidy_execStartStepComplete (q : List Instr) (e : StartIn) (s : State) (h1 : Tidy q s) : ∃ z,
    execStartStepComplete e s = .next z ∧ Tidy q z := by
  refine ⟨_, rfl, ?_⟩
  with_reducible repeat' first
    | (intro _) | assumption | apply tidy_startStep | (simp only [tidy_mk]; apply tidy_back) | split | dsimp only

theorem within_execStartStepComplete (T : List Part) (orig : State) (hT : subP [.od, .out, .freeCtr, .mem, .ecc,
    .tiles, .mesh, .graphs, .cmds, .hst, .fab, .rem, .flt, .trw, .sec, .meas, .tim, .obs, .log, .frz, .can, .mod] T =
    true) (e : StartIn) (s : State) (h1 : Within T orig s) : ∃ z, execStartStepComplete e s = .next z ∧ Within T orig
    z := by
  refine ⟨_, rfl, ?_⟩
  with_reducible repeat' first
    | (intro _) | assumption | (exact subP_trans (by decide) hT) | apply within_startStep | split | dsimp only

theorem tidy_execResetRequestColdStart (q : List Instr) (path : Fin 4) (s : State) (h1 : Tidy q s) : ∃ z,
    execResetRequestColdStart path s = .next z ∧ Tidy q z := by
  refine ⟨_, rfl, ?_⟩
  with_reducible repeat' first
    | (intro _) | assumption | apply tidy_namedWrite | apply tidy_wReset | (apply tidyPair_of; assumption)
    | (simp only [tidy_mk]; apply tidy_back) | split | dsimp only

theorem within_execResetRequestColdStart (T : List Part) (orig : State) (hT : subP [.od, .out, .resp, .freeCtr, .mem,
    .ecc, .tiles, .mesh, .graphs, .cmds, .hst, .fab, .rem, .flt, .trw, .sec, .meas, .obs, .log, .frz, .can, .mod] T =
    true) (path : Fin 4) (s : State) (h1 : Within T orig s) : ∃ z, execResetRequestColdStart path s = .next z ∧ Within
    T orig z := by
  refine ⟨_, rfl, ?_⟩
  with_reducible repeat' first
    | (intro _) | assumption | (exact subP_trans (by decide) hT) | apply within_namedWrite | apply within_wReset
    | (apply withinPair_of; assumption) | split | dsimp only

theorem tidy_execResetRequestStandby (q : List Instr) (path : Fin 4) (s : State) (h1 : Tidy q s) : ∃ z,
    execResetRequestStandby path s = .next z ∧ Tidy q z := by
  refine ⟨_, rfl, ?_⟩
  with_reducible repeat' first
    | (intro _) | assumption | apply tidy_namedWrite | apply tidy_wReset | (apply tidyPair_of; assumption)
    | (simp only [tidy_mk]; apply tidy_back) | split | dsimp only

theorem within_execResetRequestStandby (T : List Part) (orig : State) (hT : subP [.od, .out, .resp, .freeCtr, .mem,
    .ecc, .tiles, .mesh, .graphs, .cmds, .hst, .fab, .rem, .flt, .trw, .sec, .meas, .obs, .log, .frz, .can, .mod] T =
    true) (path : Fin 4) (s : State) (h1 : Within T orig s) : ∃ z, execResetRequestStandby path s = .next z ∧ Within T
    orig z := by
  refine ⟨_, rfl, ?_⟩
  with_reducible repeat' first
    | (intro _) | assumption | (exact subP_trans (by decide) hT) | apply within_namedWrite | apply within_wReset
    | (apply withinPair_of; assumption) | split | dsimp only

theorem tidy_execRegionReset (q : List Instr) (path : Fin 4) (die : Fin 2) (s : State) (h1 : Tidy q s) : ∃ z,
    execRegionReset path die s = .next z ∧ Tidy q z := by
  refine ⟨_, rfl, ?_⟩
  with_reducible repeat' first
    | (intro _) | assumption | apply tidy_namedWrite | apply tidy_wReset | (apply tidyPair_of; assumption)
    | (simp only [tidy_mk]; apply tidy_back) | split | dsimp only

theorem within_execRegionReset (T : List Part) (orig : State) (hT : subP [.od, .out, .resp, .freeCtr, .mem, .ecc,
    .tiles, .mesh, .graphs, .cmds, .hst, .fab, .rem, .flt, .trw, .sec, .meas, .obs, .log, .frz, .can, .mod] T = true)
    (path : Fin 4) (die : Fin 2) (s : State) (h1 : Within T orig s) : ∃ z, execRegionReset path die s = .next z ∧
    Within T orig z := by
  refine ⟨_, rfl, ?_⟩
  with_reducible repeat' first
    | (intro _) | assumption | (exact subP_trans (by decide) hT) | apply within_namedWrite | apply within_wReset
    | (apply withinPair_of; assumption) | split | dsimp only

theorem tidy_execRegionResetComplete (q : List Instr) (die : Fin 2) (s : State) (h1 : Tidy q s) : ∃ z,
    execRegionResetComplete die s = .next z ∧ Tidy q z := by
  refine ⟨_, rfl, ?_⟩
  with_reducible repeat' first
    | (intro _) | assumption | apply tidy_regionDone | apply tidy_ite | (simp only [tidy_mk]; apply tidy_back) | split
    | dsimp only

theorem within_execRegionResetComplete (T : List Part) (orig : State) (hT : subP [.od, .meas] T = true) (die : Fin 2)
    (s : State) (h1 : Within T orig s) : ∃ z, execRegionResetComplete die s = .next z ∧ Within T orig z := by
  refine ⟨_, rfl, ?_⟩
  with_reducible repeat' first
    | (intro _) | assumption | (exact subP_trans (by decide) hT) | apply within_regionDone | apply within_ite | split
    | dsimp only

theorem tidy_execMgmtHandover (q : List Instr) (path : Fin 4) (imageOk : Bool) (s : State) (h1 : Tidy q s) : ∃ z,
    execMgmtHandover path imageOk s = .next z ∧ Tidy q z := by
  refine ⟨_, rfl, ?_⟩
  with_reducible repeat' first
    | (intro _) | assumption | apply tidy_namedWrite | apply tidy_wReset | (apply tidyPair_of; assumption)
    | (simp only [tidy_mk]; apply tidy_back) | split | dsimp only

theorem within_execMgmtHandover (T : List Part) (orig : State) (hT : subP [.od, .out, .resp, .freeCtr, .mem, .ecc,
    .tiles, .mesh, .graphs, .cmds, .hst, .fab, .rem, .flt, .trw, .sec, .meas, .obs, .log, .frz, .can, .mod] T = true)
    (path : Fin 4) (imageOk : Bool) (s : State) (h1 : Within T orig s) : ∃ z, execMgmtHandover path imageOk s = .next
    z ∧ Within T orig z := by
  refine ⟨_, rfl, ?_⟩
  with_reducible repeat' first
    | (intro _) | assumption | (exact subP_trans (by decide) hT) | apply within_namedWrite | apply within_wReset
    | (apply withinPair_of; assumption) | split | dsimp only

theorem tidy_execOrderedStopComplete (q : List Instr) (s : State) (h1 : Tidy q s) : ∃ z, execOrderedStopComplete s =
    .next z ∧ Tidy q z := by
  refine ⟨_, rfl, ?_⟩
  with_reducible repeat' first
    | (intro _) | assumption | apply tidy_stopDone | (simp only [tidy_mk]; apply tidy_back) | split | dsimp only

theorem within_execOrderedStopComplete (T : List Part) (orig : State) (hT : subP [.od, .freeCtr, .mem, .ecc, .tiles,
    .mesh, .graphs, .cmds, .hst, .fab, .rem, .flt, .sec, .meas, .tim, .obs, .log, .frz, .mod] T = true) (s : State)
    (h1 : Within T orig s) : ∃ z, execOrderedStopComplete s = .next z ∧ Within T orig z := by
  refine ⟨_, rfl, ?_⟩
  with_reducible repeat' first
    | (intro _) | assumption | (exact subP_trans (by decide) hT) | apply within_stopDone | split | dsimp only

theorem tidy_execMgmtHeartbeatTimeout (q : List Instr) (s : State) (h1 : Tidy q s) : ∃ z, execMgmtHeartbeatTimeout s =
    .next z ∧ Tidy q z := by
  refine ⟨_, rfl, ?_⟩
  with_reducible repeat' first
    | (intro _) | assumption | apply tidy_heartbeatLost | (simp only [tidy_mk]; apply tidy_back) | split | dsimp only

theorem within_execMgmtHeartbeatTimeout (T : List Part) (orig : State) (hT : subP [.od, .out, .resp, .hst, .obs, .log,
    .frz, .can, .mod] T = true) (s : State) (h1 : Within T orig s) : ∃ z, execMgmtHeartbeatTimeout s = .next z ∧
    Within T orig z := by
  refine ⟨_, rfl, ?_⟩
  with_reducible repeat' first
    | (intro _) | assumption | (exact subP_trans (by decide) hT) | apply within_heartbeatLost | split | dsimp only

theorem tidy_execMgmtCoreRestart (q : List Instr) (core : Fin 2) (imageOk : Bool) (s : State) (h1 : Tidy q s) : ∃ z,
    execMgmtCoreRestart core imageOk s = .next z ∧ Tidy q z := by
  refine ⟨_, rfl, ?_⟩
  with_reducible repeat' first
    | (intro _) | assumption | apply tidy_drainRx | apply tidy_coreRestart | (simp only [tidy_mk]; apply tidy_back)
    | split | dsimp only

theorem within_execMgmtCoreRestart (T : List Part) (orig : State) (hT : subP [.od, .dom, .out, .resp, .freeCtr, .mem,
    .ecc, .tiles, .mesh, .graphs, .cmds, .hst, .fab, .rem, .flt, .trw, .sec, .meas, .obs, .log, .frz, .can, .mod] T =
    true) (core : Fin 2) (imageOk : Bool) (s : State) (h1 : Within T orig s) : ∃ z, execMgmtCoreRestart core imageOk s
    = .next z ∧ Within T orig z := by
  refine ⟨_, rfl, ?_⟩
  with_reducible repeat' first
    | (intro _) | assumption | (exact subP_trans (by decide) hT) | apply within_drainRx | apply within_coreRestart
    | split | dsimp only

theorem tidy_execNoOwnerTimeout (q : List Instr) (s : State) (h1 : Tidy q s) : ∃ z, execNoOwnerTimeout s = .next z ∧
    Tidy q z := by
  refine ⟨_, rfl, ?_⟩
  with_reducible repeat' first
    | (intro _) | assumption | apply tidy_noOwner | (simp only [tidy_mk]; apply tidy_back) | split | dsimp only

theorem within_execNoOwnerTimeout (T : List Part) (orig : State) (hT : subP [.mod] T = true) (s : State) (h1 : Within
    T orig s) : ∃ z, execNoOwnerTimeout s = .next z ∧ Within T orig z := by
  refine ⟨_, rfl, ?_⟩
  with_reducible repeat' first
    | (intro _) | assumption | (exact subP_trans (by decide) hT) | apply within_noOwner | split | dsimp only

theorem tidy_execMateNRise (q : List Instr) (s : State) (h1 : Tidy q s) : ∃ z, execMateNRise s = .next z ∧ Tidy q z :=
    by
  refine ⟨_, rfl, ?_⟩
  with_reducible repeat' first
    | (intro _) | assumption | apply tidy_mateRise | (simp only [tidy_mk]; apply tidy_back) | split | dsimp only

theorem within_execMateNRise (T : List Part) (orig : State) (hT : subP [.od, .out, .freeCtr, .mem, .ecc, .tiles,
    .mesh, .graphs, .cmds, .hst, .fab, .rem, .flt, .trw, .sec, .meas, .tim, .obs, .log, .frz, .can, .mod] T = true) (s
    : State) (h1 : Within T orig s) : ∃ z, execMateNRise s = .next z ∧ Within T orig z := by
  refine ⟨_, rfl, ?_⟩
  with_reducible repeat' first
    | (intro _) | assumption | (exact subP_trans (by decide) hT) | apply within_mateRise | split | dsimp only

theorem tidy_execInputSwitchOn (q : List Instr) (s : State) (h1 : Tidy q s) : ∃ z, execInputSwitchOn s = .next z ∧
    Tidy q z := by
  refine ⟨_, rfl, ?_⟩
  with_reducible repeat' first
    | (intro _) | assumption | apply tidy_modPins | (simp only [tidy_mk]; apply tidy_back) | split | dsimp only

theorem within_execInputSwitchOn (T : List Part) (orig : State) (hT : subP [.mod] T = true) (s : State) (h1 : Within T
    orig s) : ∃ z, execInputSwitchOn s = .next z ∧ Within T orig z := by
  refine ⟨_, rfl, ?_⟩
  with_reducible repeat' first
    | (intro _) | assumption | (exact subP_trans (by decide) hT) | apply within_modPins | split | dsimp only

theorem tidy_execLogCommit (q : List Instr) (s : State) (h1 : Tidy q s) : ∃ z, execLogCommit s = .next z ∧ Tidy q z :=
    by
  refine ⟨_, rfl, ?_⟩
  with_reducible repeat' first
    | (intro _) | assumption | apply tidy_logCommit | (simp only [tidy_mk]; apply tidy_back) | split | dsimp only

theorem within_execLogCommit (T : List Part) (orig : State) (hT : subP [.log] T = true) (s : State) (h1 : Within T
    orig s) : ∃ z, execLogCommit s = .next z ∧ Within T orig z := by
  refine ⟨_, rfl, ?_⟩
  with_reducible repeat' first
    | (intro _) | assumption | (exact subP_trans (by decide) hT) | apply within_logCommit | split | dsimp only

theorem tidy_execLogSectorEraseDone (q : List Instr) (sector : Fin 1024) (s : State) (h1 : Tidy q s) : ∃ z,
    execLogSectorEraseDone sector s = .next z ∧ Tidy q z := by
  refine ⟨_, rfl, ?_⟩
  with_reducible repeat' first
    | (intro _) | assumption | apply tidy_eraseDone | (simp only [tidy_mk]; apply tidy_back) | split | dsimp only

theorem within_execLogSectorEraseDone (T : List Part) (orig : State) (hT : subP [.log] T = true) (sector : Fin 1024)
    (s : State) (h1 : Within T orig s) : ∃ z, execLogSectorEraseDone sector s = .next z ∧ Within T orig z := by
  refine ⟨_, rfl, ?_⟩
  with_reducible repeat' first
    | (intro _) | assumption | (exact subP_trans (by decide) hT) | apply within_eraseDone | split | dsimp only

theorem tidy_execLogRecordRead (q : List Instr) (e : LogRead) (s : State) (h1 : Tidy q s) : ∃ z, execLogRecordRead e s
    = .next z ∧ Tidy q z := by
  refine ⟨_, rfl, ?_⟩
  with_reducible repeat' first
    | (intro _) | assumption | apply tidy_logRecordRead | (simp only [tidy_mk]; apply tidy_back) | split | dsimp only

theorem within_execLogRecordRead (T : List Part) (orig : State) (hT : subP [.od, .out, .resp, .log] T = true) (e :
    LogRead) (s : State) (h1 : Within T orig s) : ∃ z, execLogRecordRead e s = .next z ∧ Within T orig z := by
  refine ⟨_, rfl, ?_⟩
  with_reducible repeat' first
    | (intro _) | assumption | (exact subP_trans (by decide) hT) | apply within_logRecordRead | split | dsimp only

theorem tidy_execOperatingSecondsSave (q : List Instr) (s : State) (h1 : Tidy q s) : ∃ z, execOperatingSecondsSave s =
    .next z ∧ Tidy q z := by
  refine ⟨_, rfl, ?_⟩
  with_reducible repeat' first
    | (intro _) | assumption | apply tidy_saveSeconds | apply tidy_ite | (simp only [tidy_mk]; apply tidy_back)
    | split | dsimp only

theorem within_execOperatingSecondsSave (T : List Part) (orig : State) (hT : subP [.od, .mod] T = true) (s : State)
    (h1 : Within T orig s) : ∃ z, execOperatingSecondsSave s = .next z ∧ Within T orig z := by
  refine ⟨_, rfl, ?_⟩
  with_reducible repeat' first
    | (intro _) | assumption | (exact subP_trans (by decide) hT) | apply within_saveSeconds | apply within_ite | split
    | dsimp only

theorem tidy_execEngineSelfCheckFault (q : List Instr) (engine : Fin 2) (s : State) (h1 : Tidy q s) : ∃ z,
    execEngineSelfCheckFault engine s = .next z ∧ Tidy q z := by
  refine ⟨_, rfl, ?_⟩
  with_reducible repeat' first
    | (intro _) | assumption | apply tidy_engineFault | (simp only [tidy_mk]; apply tidy_back) | split | dsimp only

theorem within_execEngineSelfCheckFault (T : List Part) (orig : State) (hT : subP [.od, .out, .freeCtr, .mem, .ecc,
    .tiles, .mesh, .graphs, .cmds, .hst, .fab, .rem, .flt, .trw, .sec, .meas, .tim, .obs, .log, .frz, .can, .mod] T =
    true) (engine : Fin 2) (s : State) (h1 : Within T orig s) : ∃ z, execEngineSelfCheckFault engine s = .next z ∧
    Within T orig z := by
  refine ⟨_, rfl, ?_⟩
  with_reducible repeat' first
    | (intro _) | assumption | (exact subP_trans (by decide) hT) | apply within_engineFault | split | dsimp only

theorem tidy_execMgmtSelfCheckFault (q : List Instr) (core : Fin 2) (s : State) (h1 : Tidy q s) : ∃ z,
    execMgmtSelfCheckFault core s = .next z ∧ Tidy q z := by
  refine ⟨_, rfl, ?_⟩
  with_reducible repeat' first
    | (intro _) | assumption | apply tidy_coreFault | (simp only [tidy_mk]; apply tidy_back) | split | dsimp only

theorem within_execMgmtSelfCheckFault (T : List Part) (orig : State) (hT : subP [.od, .out, .resp, .hst, .obs, .log,
    .frz, .can, .mod] T = true) (core : Fin 2) (s : State) (h1 : Within T orig s) : ∃ z, execMgmtSelfCheckFault core s
    = .next z ∧ Within T orig z := by
  refine ⟨_, rfl, ?_⟩
  with_reducible repeat' first
    | (intro _) | assumption | (exact subP_trans (by decide) hT) | apply within_coreFault | split | dsimp only

theorem tidy_execCanBusNoFrame (q : List Instr) (e : BusLoss) (s : State) (h1 : Tidy q s) : ∃ z, execCanBusNoFrame e s
    = .next z ∧ Tidy q z := by
  refine ⟨_, rfl, ?_⟩
  with_reducible repeat' first
    | (intro _) | assumption | apply tidy_busLost | (simp only [tidy_mk]; apply tidy_back) | split | dsimp only

theorem within_execCanBusNoFrame (T : List Part) (orig : State) (hT : subP [.od, .can] T = true) (e : BusLoss) (s :
    State) (h1 : Within T orig s) : ∃ z, execCanBusNoFrame e s = .next z ∧ Within T orig z := by
  refine ⟨_, rfl, ?_⟩
  with_reducible repeat' first
    | (intro _) | assumption | (exact subP_trans (by decide) hT) | apply within_busLost | split | dsimp only

end Sys2Proof.Machine
end

