-- ==== Sys2Proof/Laws/CommandPower.lean ====
section
/-! SUPPORT. Every command completes, keeps memory canonical and the queue as it is, and changes no part of the state but
those it may touch: the envelope, stops, gains, profiles, observation and security. -/
namespace Sys2Proof.Machine
open Sys2Proof

theorem tidy_execTileEnableWrite (q : List Instr) (path : Fin 4) (t : TileId) (v : Nat) (power : Nat) (s : State) (h1
    : Tidy q s) : ∃ z, execTileEnableWrite path t v power s = .next z ∧ Tidy q z := by
  refine ⟨_, rfl, ?_⟩
  with_reducible repeat' first
    | (intro _) | assumption | apply tidy_namedWrite | apply tidy_wTileEnable | (apply tidyPair_of; assumption)
    | (simp only [tidy_mk]; apply tidy_back) | split | dsimp only

theorem within_execTileEnableWrite (T : List Part) (orig : State) (hT : subP [.od, .resp, .freeCtr, .mem, .ecc,
    .tiles, .flt, .obs, .frz] T = true) (path : Fin 4) (t : TileId) (v : Nat) (power : Nat) (s : State) (h1 : Within T
    orig s) : ∃ z, execTileEnableWrite path t v power s = .next z ∧ Within T orig z := by
  refine ⟨_, rfl, ?_⟩
  with_reducible repeat' first
    | (intro _) | assumption | (exact subP_trans (by decide) hT) | apply within_namedWrite | apply within_wTileEnable
    | (apply withinPair_of; assumption) | split | dsimp only

theorem tidy_execSlewLimitWrite (q : List Instr) (path : Fin 4) (die : Fin 2) (v : Nat) (s : State) (h1 : Tidy q s) :
    ∃ z, execSlewLimitWrite path die v s = .next z ∧ Tidy q z := by
  refine ⟨_, rfl, ?_⟩
  with_reducible repeat' first
    | (intro _) | assumption | apply tidy_namedWrite | apply tidy_wSlewLimit | (apply tidyPair_of; assumption)
    | (simp only [tidy_mk]; apply tidy_back) | split | dsimp only

theorem within_execSlewLimitWrite (T : List Part) (orig : State) (hT : subP [.od, .resp] T = true) (path : Fin 4) (die
    : Fin 2) (v : Nat) (s : State) (h1 : Within T orig s) : ∃ z, execSlewLimitWrite path die v s = .next z ∧ Within T
    orig z := by
  refine ⟨_, rfl, ?_⟩
  with_reducible repeat' first
    | (intro _) | assumption | (exact subP_trans (by decide) hT) | apply within_namedWrite | apply within_wSlewLimit
    | (apply withinPair_of; assumption) | split | dsimp only

theorem tidy_execEstimatorUpdate (q : List Instr) (evs : List EvCount) (s : State) (h1 : Tidy q s) : ∃ z,
    execEstimatorUpdate evs s = .next z ∧ Tidy q z := by
  refine ⟨_, rfl, ?_⟩
  with_reducible repeat' first
    | (intro _) | assumption | apply tidy_estimatorUpdate | (simp only [tidy_mk]; apply tidy_back) | split
    | dsimp only

theorem within_execEstimatorUpdate (T : List Part) (orig : State) (hT : subP [.od, .out, .tiles, .flt, .obs, .log,
    .frz, .can] T = true) (evs : List EvCount) (s : State) (h1 : Within T orig s) : ∃ z, execEstimatorUpdate evs s =
    .next z ∧ Within T orig z := by
  refine ⟨_, rfl, ?_⟩
  with_reducible repeat' first
    | (intro _) | assumption | (exact subP_trans (by decide) hT) | apply within_estimatorUpdate | split | dsimp only

theorem tidy_execCalibration (q : List Instr) (pIn : Nat) (vin : Fin 65536) (s : State) (h1 : Tidy q s) : ∃ z,
    execCalibration pIn vin s = .next z ∧ Tidy q z := by
  refine ⟨_, rfl, ?_⟩
  with_reducible repeat' first
    | (intro _) | assumption | apply tidy_calibrate | (simp only [tidy_mk]; apply tidy_back) | split | dsimp only

theorem within_execCalibration (T : List Part) (orig : State) (hT : subP [.od, .out, .flt, .obs, .log, .frz, .can,
    .mod] T = true) (pIn : Nat) (vin : Fin 65536) (s : State) (h1 : Within T orig s) : ∃ z, execCalibration pIn vin s
    = .next z ∧ Within T orig z := by
  refine ⟨_, rfl, ?_⟩
  with_reducible repeat' first
    | (intro _) | assumption | (exact subP_trans (by decide) hT) | apply within_calibrate | split | dsimp only

theorem tidy_execShareRecompute (q : List Instr) (ops : List (Nat × Nat)) (s : State) (h1 : Tidy q s) : ∃ z,
    execShareRecompute ops s = .next z ∧ Tidy q z := by
  refine ⟨_, rfl, ?_⟩
  with_reducible repeat' first
    | (intro _) | assumption | apply tidy_shareRecompute | (simp only [tidy_mk]; apply tidy_back) | split | dsimp only

theorem within_execShareRecompute (T : List Part) (orig : State) (hT : subP [.tiles, .flt] T = true) (ops : List (Nat
    × Nat)) (s : State) (h1 : Within T orig s) : ∃ z, execShareRecompute ops s = .next z ∧ Within T orig z := by
  refine ⟨_, rfl, ?_⟩
  with_reducible repeat' first
    | (intro _) | assumption | (exact subP_trans (by decide) hT) | apply within_shareRecompute | split | dsimp only

theorem tidy_execFreqModeSwitch (q : List Instr) (s : State) (h1 : Tidy q s) : ∃ z, execFreqModeSwitch s = .next z ∧
    Tidy q z := by
  refine ⟨_, rfl, ?_⟩
  with_reducible repeat' first
    | (intro _) | assumption | apply tidy_freqModeSwitch | (simp only [tidy_mk]; apply tidy_back) | split | dsimp only

theorem within_execFreqModeSwitch (T : List Part) (orig : State) (hT : subP [.od, .flt] T = true) (s : State) (h1 :
    Within T orig s) : ∃ z, execFreqModeSwitch s = .next z ∧ Within T orig z := by
  refine ⟨_, rfl, ?_⟩
  with_reducible repeat' first
    | (intro _) | assumption | (exact subP_trans (by decide) hT) | apply within_freqModeSwitch | split | dsimp only

theorem tidy_execFreqRaiseDecision (q : List Instr) (p0 : Nat) (p1 : Nat) (fix : Nat) (s : State) (h1 : Tidy q s) : ∃
    z, execFreqRaiseDecision p0 p1 fix s = .next z ∧ Tidy q z := by
  refine ⟨_, rfl, ?_⟩
  with_reducible repeat' first
    | (intro _) | assumption | apply tidy_freqRaise | (simp only [tidy_mk]; apply tidy_back) | split | dsimp only

theorem within_execFreqRaiseDecision (T : List Part) (orig : State) (hT : subP [.od, .flt] T = true) (p0 : Nat) (p1 :
    Nat) (fix : Nat) (s : State) (h1 : Within T orig s) : ∃ z, execFreqRaiseDecision p0 p1 fix s = .next z ∧ Within T
    orig z := by
  refine ⟨_, rfl, ?_⟩
  with_reducible repeat' first
    | (intro _) | assumption | (exact subP_trans (by decide) hT) | apply within_freqRaise | split | dsimp only

theorem tidy_execFreqRaiseAfterSettle (q : List Instr) (die : Fin 2) (s : State) (h1 : Tidy q s) : ∃ z,
    execFreqRaiseAfterSettle die s = .next z ∧ Tidy q z := by
  refine ⟨_, rfl, ?_⟩
  with_reducible repeat' first
    | (intro _) | assumption | apply tidy_raiseSettled | (simp only [tidy_mk]; apply tidy_back) | split | dsimp only

theorem within_execFreqRaiseAfterSettle (T : List Part) (orig : State) (hT : subP [.od, .flt] T = true) (die : Fin 2)
    (s : State) (h1 : Within T orig s) : ∃ z, execFreqRaiseAfterSettle die s = .next z ∧ Within T orig z := by
  refine ⟨_, rfl, ?_⟩
  with_reducible repeat' first
    | (intro _) | assumption | (exact subP_trans (by decide) hT) | apply within_raiseSettled | split | dsimp only

theorem tidy_execCapTargetWrite (q : List Instr) (path : Fin 4) (v : Nat) (s : State) (h1 : Tidy q s) : ∃ z,
    execCapTargetWrite path v s = .next z ∧ Tidy q z := by
  refine ⟨_, rfl, ?_⟩
  with_reducible repeat' first
    | (intro _) | assumption | apply tidy_namedWrite | apply tidy_wCapTarget | (apply tidyPair_of; assumption)
    | (simp only [tidy_mk]; apply tidy_back) | split | dsimp only

theorem within_execCapTargetWrite (T : List Part) (orig : State) (hT : subP [.od, .resp] T = true) (path : Fin 4) (v :
    Nat) (s : State) (h1 : Within T orig s) : ∃ z, execCapTargetWrite path v s = .next z ∧ Within T orig z := by
  refine ⟨_, rfl, ?_⟩
  with_reducible repeat' first
    | (intro _) | assumption | (exact subP_trans (by decide) hT) | apply within_namedWrite | apply within_wCapTarget
    | (apply withinPair_of; assumption) | split | dsimp only

theorem tidy_execAutonomousCapWrite (q : List Instr) (path : Fin 4) (v : Nat) (s : State) (h1 : Tidy q s) : ∃ z,
    execAutonomousCapWrite path v s = .next z ∧ Tidy q z := by
  refine ⟨_, rfl, ?_⟩
  with_reducible repeat' first
    | (intro _) | assumption | apply tidy_namedWrite | apply tidy_wCap | (apply tidyPair_of; assumption)
    | (simp only [tidy_mk]; apply tidy_back) | split | dsimp only

theorem within_execAutonomousCapWrite (T : List Part) (orig : State) (hT : subP [.od, .resp] T = true) (path : Fin 4)
    (v : Nat) (s : State) (h1 : Within T orig s) : ∃ z, execAutonomousCapWrite path v s = .next z ∧ Within T orig z :=
    by
  refine ⟨_, rfl, ?_⟩
  with_reducible repeat' first
    | (intro _) | assumption | (exact subP_trans (by decide) hT) | apply within_namedWrite | apply within_wCap
    | (apply withinPair_of; assumption) | split | dsimp only

theorem tidy_execSafeCapWrite (q : List Instr) (path : Fin 4) (v : Nat) (s : State) (h1 : Tidy q s) : ∃ z,
    execSafeCapWrite path v s = .next z ∧ Tidy q z := by
  refine ⟨_, rfl, ?_⟩
  with_reducible repeat' first
    | (intro _) | assumption | apply tidy_namedWrite | apply tidy_wCap | (apply tidyPair_of; assumption)
    | (simp only [tidy_mk]; apply tidy_back) | split | dsimp only

theorem within_execSafeCapWrite (T : List Part) (orig : State) (hT : subP [.od, .resp] T = true) (path : Fin 4) (v :
    Nat) (s : State) (h1 : Within T orig s) : ∃ z, execSafeCapWrite path v s = .next z ∧ Within T orig z := by
  refine ⟨_, rfl, ?_⟩
  with_reducible repeat' first
    | (intro _) | assumption | (exact subP_trans (by decide) hT) | apply within_namedWrite | apply within_wCap
    | (apply withinPair_of; assumption) | split | dsimp only

theorem tidy_execThermalLoopUpdate (q : List Instr) (s : State) (h1 : Tidy q s) : ∃ z, execThermalLoopUpdate s = .next
    z ∧ Tidy q z := by
  refine ⟨_, rfl, ?_⟩
  with_reducible repeat' first
    | (intro _) | assumption | apply tidy_thermalUpdate | (simp only [tidy_mk]; apply tidy_back) | split | dsimp only

theorem within_execThermalLoopUpdate (T : List Part) (orig : State) (hT : subP [.od, .flt] T = true) (s : State) (h1 :
    Within T orig s) : ∃ z, execThermalLoopUpdate s = .next z ∧ Within T orig z := by
  refine ⟨_, rfl, ?_⟩
  with_reducible repeat' first
    | (intro _) | assumption | (exact subP_trans (by decide) hT) | apply within_thermalUpdate | split | dsimp only

theorem tidy_execSensorRead (q : List Instr) (ts : List Int) (inlet : Int) (outlet : Int) (s : State) (h1 : Tidy q s)
    : ∃ z, execSensorRead ts inlet outlet s = .next z ∧ Tidy q z := by
  refine ⟨_, rfl, ?_⟩
  with_reducible repeat' first
    | (intro _) | assumption | apply tidy_sensorRead | (simp only [tidy_mk]; apply tidy_back) | split | dsimp only

theorem within_execSensorRead (T : List Part) (orig : State) (hT : subP [.od, .out, .flt, .obs, .log, .frz, .can] T =
    true) (ts : List Int) (inlet : Int) (outlet : Int) (s : State) (h1 : Within T orig s) : ∃ z, execSensorRead ts
    inlet outlet s = .next z ∧ Within T orig z := by
  refine ⟨_, rfl, ?_⟩
  with_reducible repeat' first
    | (intro _) | assumption | (exact subP_trans (by decide) hT) | apply within_sensorRead | split | dsimp only

theorem tidy_execCoolantCapUpdate (q : List Instr) (s : State) (h1 : Tidy q s) : ∃ z, execCoolantCapUpdate s = .next z
    ∧ Tidy q z := by
  refine ⟨_, rfl, ?_⟩
  with_reducible repeat' first
    | (intro _) | assumption | apply tidy_coolantUpdate | (simp only [tidy_mk]; apply tidy_back) | split | dsimp only

theorem within_execCoolantCapUpdate (T : List Part) (orig : State) (hT : subP [.od, .obs, .log, .frz] T = true) (s :
    State) (h1 : Within T orig s) : ∃ z, execCoolantCapUpdate s = .next z ∧ Within T orig z := by
  refine ⟨_, rfl, ?_⟩
  with_reducible repeat' first
    | (intro _) | assumption | (exact subP_trans (by decide) hT) | apply within_coolantUpdate | split | dsimp only

theorem tidy_execFlowLossWrite (q : List Instr) (path : Fin 4) (v : Nat) (s : State) (h1 : Tidy q s) : ∃ z,
    execFlowLossWrite path v s = .next z ∧ Tidy q z := by
  refine ⟨_, rfl, ?_⟩
  with_reducible repeat' first
    | (intro _) | assumption | apply tidy_namedWrite | apply tidy_wFlowLoss | (apply tidyPair_of; assumption)
    | (simp only [tidy_mk]; apply tidy_back) | split | dsimp only

theorem within_execFlowLossWrite (T : List Part) (orig : State) (hT : subP [.od, .out, .resp, .obs, .log, .frz, .can]
    T = true) (path : Fin 4) (v : Nat) (s : State) (h1 : Within T orig s) : ∃ z, execFlowLossWrite path v s = .next z
    ∧ Within T orig z := by
  refine ⟨_, rfl, ?_⟩
  with_reducible repeat' first
    | (intro _) | assumption | (exact subP_trans (by decide) hT) | apply within_namedWrite | apply within_wFlowLoss
    | (apply withinPair_of; assumption) | split | dsimp only

theorem tidy_execFlowLpmWrite (q : List Instr) (path : Fin 4) (v : Nat) (s : State) (h1 : Tidy q s) : ∃ z,
    execFlowLpmWrite path v s = .next z ∧ Tidy q z := by
  refine ⟨_, rfl, ?_⟩
  with_reducible repeat' first
    | (intro _) | assumption | apply tidy_namedWrite | apply tidy_wFlowLpm | (apply tidyPair_of; assumption)
    | (simp only [tidy_mk]; apply tidy_back) | split | dsimp only

theorem within_execFlowLpmWrite (T : List Part) (orig : State) (hT : subP [.od, .out, .resp, .flt, .obs, .log, .frz,
    .can] T = true) (path : Fin 4) (v : Nat) (s : State) (h1 : Within T orig s) : ∃ z, execFlowLpmWrite path v s =
    .next z ∧ Within T orig z := by
  refine ⟨_, rfl, ?_⟩
  with_reducible repeat' first
    | (intro _) | assumption | (exact subP_trans (by decide) hT) | apply within_namedWrite | apply within_wFlowLpm
    | (apply withinPair_of; assumption) | split | dsimp only

theorem tidy_execSafeCapClear (q : List Instr) (path : Fin 4) (v : Nat) (s : State) (h1 : Tidy q s) : ∃ z,
    execSafeCapClear path v s = .next z ∧ Tidy q z := by
  refine ⟨_, rfl, ?_⟩
  with_reducible repeat' first
    | (intro _) | assumption | apply tidy_namedWrite | apply tidy_wSafeClear | (apply tidyPair_of; assumption)
    | (simp only [tidy_mk]; apply tidy_back) | split | dsimp only

theorem within_execSafeCapClear (T : List Part) (orig : State) (hT : subP [.od, .out, .resp, .can] T = true) (path :
    Fin 4) (v : Nat) (s : State) (h1 : Within T orig s) : ∃ z, execSafeCapClear path v s = .next z ∧ Within T orig z
    := by
  refine ⟨_, rfl, ?_⟩
  with_reducible repeat' first
    | (intro _) | assumption | (exact subP_trans (by decide) hT) | apply within_namedWrite | apply within_wSafeClear
    | (apply withinPair_of; assumption) | split | dsimp only

theorem tidy_execBrakeAssert (q : List Instr) (s : State) (h1 : Tidy q s) : ∃ z, execBrakeAssert s = .next z ∧ Tidy q
    z := by
  refine ⟨_, rfl, ?_⟩
  with_reducible repeat' first
    | (intro _) | assumption | apply tidy_brakeAssert | (simp only [tidy_mk]; apply tidy_back) | split | dsimp only

theorem within_execBrakeAssert (T : List Part) (orig : State) (hT : subP [.od, .out, .flt, .obs, .log, .frz, .can,
    .mod] T = true) (s : State) (h1 : Within T orig s) : ∃ z, execBrakeAssert s = .next z ∧ Within T orig z := by
  refine ⟨_, rfl, ?_⟩
  with_reducible repeat' first
    | (intro _) | assumption | (exact subP_trans (by decide) hT) | apply within_brakeAssert | split | dsimp only

theorem tidy_execBrakeRelease (q : List Instr) (s : State) (h1 : Tidy q s) : ∃ z, execBrakeRelease s = .next z ∧ Tidy
    q z := by
  refine ⟨_, rfl, ?_⟩
  with_reducible repeat' first
    | (intro _) | assumption | apply tidy_brakeRelease | (simp only [tidy_mk]; apply tidy_back) | split | dsimp only

theorem within_execBrakeRelease (T : List Part) (orig : State) (hT : subP [.od, .out, .flt, .can, .mod] T = true) (s :
    State) (h1 : Within T orig s) : ∃ z, execBrakeRelease s = .next z ∧ Within T orig z := by
  refine ⟨_, rfl, ?_⟩
  with_reducible repeat' first
    | (intro _) | assumption | (exact subP_trans (by decide) hT) | apply within_brakeRelease | split | dsimp only

theorem tidy_execDroopDetected (q : List Instr) (die : Fin 2) (s : State) (h1 : Tidy q s) : ∃ z, execDroopDetected die
    s = .next z ∧ Tidy q z := by
  refine ⟨_, rfl, ?_⟩
  with_reducible repeat' first
    | (intro _) | assumption | apply tidy_droop | (simp only [tidy_mk]; apply tidy_back) | split | dsimp only

theorem within_execDroopDetected (T : List Part) (orig : State) (hT : subP [.od, .flt, .obs, .log, .frz] T = true)
    (die : Fin 2) (s : State) (h1 : Within T orig s) : ∃ z, execDroopDetected die s = .next z ∧ Within T orig z := by
  refine ⟨_, rfl, ?_⟩
  with_reducible repeat' first
    | (intro _) | assumption | (exact subP_trans (by decide) hT) | apply within_droop | split | dsimp only

theorem tidy_execStretchEnd (q : List Instr) (die : Fin 2) (cycles : Nat) (s : State) (h1 : Tidy q s) : ∃ z,
    execStretchEnd die cycles s = .next z ∧ Tidy q z := by
  refine ⟨_, rfl, ?_⟩
  with_reducible repeat' first
    | (intro _) | assumption | apply tidy_stretchEnd | (simp only [tidy_mk]; apply tidy_back) | split | dsimp only

theorem within_execStretchEnd (T : List Part) (orig : State) (hT : subP [.od, .flt] T = true) (die : Fin 2) (cycles :
    Nat) (s : State) (h1 : Within T orig s) : ∃ z, execStretchEnd die cycles s = .next z ∧ Within T orig z := by
  refine ⟨_, rfl, ?_⟩
  with_reducible repeat' first
    | (intro _) | assumption | (exact subP_trans (by decide) hT) | apply within_stretchEnd | split | dsimp only

theorem tidy_execStepTest (q : List Instr) (path : Fin 4) (v : Nat) (s : State) (h1 : Tidy q s) : ∃ z, execStepTest
    path v s = .next z ∧ Tidy q z := by
  refine ⟨_, rfl, ?_⟩
  with_reducible repeat' first
    | (intro _) | assumption | apply tidy_namedWrite | apply tidy_wStepTest | (apply tidyPair_of; assumption)
    | (simp only [tidy_mk]; apply tidy_back) | split | dsimp only

theorem within_execStepTest (T : List Part) (orig : State) (hT : subP [.od, .resp, .flt] T = true) (path : Fin 4) (v :
    Nat) (s : State) (h1 : Within T orig s) : ∃ z, execStepTest path v s = .next z ∧ Within T orig z := by
  refine ⟨_, rfl, ?_⟩
  with_reducible repeat' first
    | (intro _) | assumption | (exact subP_trans (by decide) hT) | apply within_namedWrite | apply within_wStepTest
    | (apply withinPair_of; assumption) | split | dsimp only

theorem tidy_execStepTestHoldEnd (q : List Instr) (s : State) (h1 : Tidy q s) : ∃ z, execStepTestHoldEnd s = .next z ∧
    Tidy q z := by
  refine ⟨_, rfl, ?_⟩
  with_reducible repeat' first
    | (intro _) | assumption | apply tidy_stepTestEnd | (simp only [tidy_mk]; apply tidy_back) | split | dsimp only

theorem within_execStepTestHoldEnd (T : List Part) (orig : State) (hT : subP [.flt] T = true) (s : State) (h1 : Within
    T orig s) : ∃ z, execStepTestHoldEnd s = .next z ∧ Within T orig z := by
  refine ⟨_, rfl, ?_⟩
  with_reducible repeat' first
    | (intro _) | assumption | (exact subP_trans (by decide) hT) | apply within_stepTestEnd | split | dsimp only

theorem tidy_execThermalTrip (q : List Instr) (sensors : List (Fin 40)) (s : State) (h1 : Tidy q s) : ∃ z,
    execThermalTrip sensors s = .next z ∧ Tidy q z := by
  refine ⟨_, rfl, ?_⟩
  with_reducible repeat' first
    | (intro _) | assumption | apply tidy_thermalTrips | (simp only [tidy_mk]; apply tidy_back) | split | dsimp only

theorem within_execThermalTrip (T : List Part) (orig : State) (hT : subP [.od, .out, .freeCtr, .mem, .ecc, .tiles,
    .mesh, .graphs, .cmds, .hst, .fab, .rem, .flt, .trw, .sec, .meas, .tim, .obs, .log, .frz, .can, .mod] T = true)
    (sensors : List (Fin 40)) (s : State) (h1 : Within T orig s) : ∃ z, execThermalTrip sensors s = .next z ∧ Within T
    orig z := by
  refine ⟨_, rfl, ?_⟩
  with_reducible repeat' first
    | (intro _) | assumption | (exact subP_trans (by decide) hT) | apply within_thermalTrips | split | dsimp only

theorem tidy_execTripTest (q : List Instr) (path : Fin 4) (v : Nat) (failed : List (Fin 40)) (s : State) (h1 : Tidy q
    s) : ∃ z, execTripTest path v failed s = .next z ∧ Tidy q z := by
  refine ⟨_, rfl, ?_⟩
  with_reducible repeat' first
    | (intro _) | assumption | apply tidy_namedWrite | apply tidy_wTripTest | (apply tidyPair_of; assumption)
    | (simp only [tidy_mk]; apply tidy_back) | split | dsimp only

theorem within_execTripTest (T : List Part) (orig : State) (hT : subP [.od, .resp, .flt, .obs, .log, .frz] T = true)
    (path : Fin 4) (v : Nat) (failed : List (Fin 40)) (s : State) (h1 : Within T orig s) : ∃ z, execTripTest path v
    failed s = .next z ∧ Within T orig z := by
  refine ⟨_, rfl, ?_⟩
  with_reducible repeat' first
    | (intro _) | assumption | (exact subP_trans (by decide) hT) | apply within_namedWrite | apply within_wTripTest
    | (apply withinPair_of; assumption) | split | dsimp only

theorem tidy_execGainBankImage (q : List Instr) (path : Fin 4) (bs : List Byte) (s : State) (h1 : Tidy q s) : ∃ z,
    execGainBankImage path bs s = .next z ∧ Tidy q z := by
  refine ⟨_, rfl, ?_⟩
  with_reducible repeat' first
    | (intro _) | assumption | apply tidy_namedBytes | apply tidy_wGainImage | (apply tidyPair_of; assumption)
    | (simp only [tidy_mk]; apply tidy_back) | split | dsimp only

theorem within_execGainBankImage (T : List Part) (orig : State) (hT : subP [.od, .resp, .trw] T = true) (path : Fin 4)
    (bs : List Byte) (s : State) (h1 : Within T orig s) : ∃ z, execGainBankImage path bs s = .next z ∧ Within T orig z
    := by
  refine ⟨_, rfl, ?_⟩
  with_reducible repeat' first
    | (intro _) | assumption | (exact subP_trans (by decide) hT) | apply within_namedBytes | apply within_wGainImage
    | (apply withinPair_of; assumption) | split | dsimp only

theorem tidy_execGainBankCommit (q : List Instr) (path : Fin 4) (v : Nat) (s : State) (h1 : Tidy q s) : ∃ z,
    execGainBankCommit path v s = .next z ∧ Tidy q z := by
  refine ⟨_, rfl, ?_⟩
  with_reducible repeat' first
    | (intro _) | assumption | apply tidy_namedWrite | apply tidy_wGainCommit | (apply tidyPair_of; assumption)
    | (simp only [tidy_mk]; apply tidy_back) | split | dsimp only

theorem within_execGainBankCommit (T : List Part) (orig : State) (hT : subP [.od, .resp] T = true) (path : Fin 4) (v :
    Nat) (s : State) (h1 : Within T orig s) : ∃ z, execGainBankCommit path v s = .next z ∧ Within T orig z := by
  refine ⟨_, rfl, ?_⟩
  with_reducible repeat' first
    | (intro _) | assumption | (exact subP_trans (by decide) hT) | apply within_namedWrite | apply within_wGainCommit
    | (apply withinPair_of; assumption) | split | dsimp only

theorem tidy_execGainBankSwap (q : List Instr) (path : Fin 4) (v : Nat) (s : State) (h1 : Tidy q s) : ∃ z,
    execGainBankSwap path v s = .next z ∧ Tidy q z := by
  refine ⟨_, rfl, ?_⟩
  with_reducible repeat' first
    | (intro _) | assumption | apply tidy_namedWrite | apply tidy_wGainSwap | (apply tidyPair_of; assumption)
    | (simp only [tidy_mk]; apply tidy_back) | split | dsimp only

theorem within_execGainBankSwap (T : List Part) (orig : State) (hT : subP [.od, .resp, .trw] T = true) (path : Fin 4)
    (v : Nat) (s : State) (h1 : Within T orig s) : ∃ z, execGainBankSwap path v s = .next z ∧ Within T orig z := by
  refine ⟨_, rfl, ?_⟩
  with_reducible repeat' first
    | (intro _) | assumption | (exact subP_trans (by decide) hT) | apply within_namedWrite | apply within_wGainSwap
    | (apply withinPair_of; assumption) | split | dsimp only

theorem tidy_execVsetWrite (q : List Instr) (path : Fin 4) (rail : Fin 11) (v : Nat) (s : State) (h1 : Tidy q s) : ∃
    z, execVsetWrite path rail v s = .next z ∧ Tidy q z := by
  refine ⟨_, rfl, ?_⟩
  with_reducible repeat' first
    | (intro _) | assumption | apply tidy_namedWrite | apply tidy_wVset | (apply tidyPair_of; assumption)
    | (simp only [tidy_mk]; apply tidy_back) | split | dsimp only

theorem within_execVsetWrite (T : List Part) (orig : State) (hT : subP [.od, .resp, .trw] T = true) (path : Fin 4)
    (rail : Fin 11) (v : Nat) (s : State) (h1 : Within T orig s) : ∃ z, execVsetWrite path rail v s = .next z ∧ Within
    T orig z := by
  refine ⟨_, rfl, ?_⟩
  with_reducible repeat' first
    | (intro _) | assumption | (exact subP_trans (by decide) hT) | apply within_namedWrite | apply within_wVset
    | (apply withinPair_of; assumption) | split | dsimp only

theorem tidy_execPeakClear (q : List Instr) (path : Fin 4) (rail : Fin 11) (v : Nat) (s : State) (h1 : Tidy q s) : ∃
    z, execPeakClear path rail v s = .next z ∧ Tidy q z := by
  refine ⟨_, rfl, ?_⟩
  with_reducible repeat' first
    | (intro _) | assumption | apply tidy_namedWrite | apply tidy_wPeakClear | (apply tidyPair_of; assumption)
    | (simp only [tidy_mk]; apply tidy_back) | split | dsimp only

theorem within_execPeakClear (T : List Part) (orig : State) (hT : subP [.od, .resp, .trw] T = true) (path : Fin 4)
    (rail : Fin 11) (v : Nat) (s : State) (h1 : Within T orig s) : ∃ z, execPeakClear path rail v s = .next z ∧ Within
    T orig z := by
  refine ⟨_, rfl, ?_⟩
  with_reducible repeat' first
    | (intro _) | assumption | (exact subP_trans (by decide) hT) | apply within_namedWrite | apply within_wPeakClear
    | (apply withinPair_of; assumption) | split | dsimp only

theorem tidy_execInputUndervoltage (q : List Instr) (s : State) (h1 : Tidy q s) : ∃ z, execInputUndervoltage s = .next
    z ∧ Tidy q z := by
  refine ⟨_, rfl, ?_⟩
  with_reducible repeat' first
    | (intro _) | assumption | apply tidy_inputOut | (simp only [tidy_mk]; apply tidy_back) | split | dsimp only

theorem within_execInputUndervoltage (T : List Part) (orig : State) (hT : subP [.od, .out, .freeCtr, .mem, .ecc,
    .tiles, .mesh, .graphs, .cmds, .hst, .fab, .rem, .flt, .trw, .sec, .meas, .tim, .obs, .log, .frz, .can, .mod] T =
    true) (s : State) (h1 : Within T orig s) : ∃ z, execInputUndervoltage s = .next z ∧ Within T orig z := by
  refine ⟨_, rfl, ?_⟩
  with_reducible repeat' first
    | (intro _) | assumption | (exact subP_trans (by decide) hT) | apply within_inputOut | split | dsimp only

theorem tidy_execInputOvervoltage (q : List Instr) (s : State) (h1 : Tidy q s) : ∃ z, execInputOvervoltage s = .next z
    ∧ Tidy q z := by
  refine ⟨_, rfl, ?_⟩
  with_reducible repeat' first
    | (intro _) | assumption | apply tidy_inputOut | (simp only [tidy_mk]; apply tidy_back) | split | dsimp only

theorem within_execInputOvervoltage (T : List Part) (orig : State) (hT : subP [.od, .out, .freeCtr, .mem, .ecc,
    .tiles, .mesh, .graphs, .cmds, .hst, .fab, .rem, .flt, .trw, .sec, .meas, .tim, .obs, .log, .frz, .can, .mod] T =
    true) (s : State) (h1 : Within T orig s) : ∃ z, execInputOvervoltage s = .next z ∧ Within T orig z := by
  refine ⟨_, rfl, ?_⟩
  with_reducible repeat' first
    | (intro _) | assumption | (exact subP_trans (by decide) hT) | apply within_inputOut | split | dsimp only

theorem tidy_execProfileActiveWrite (q : List Instr) (path : Fin 4) (n : Nat) (s : State) (h1 : Tidy q s) : ∃ z,
    execProfileActiveWrite path n s = .next z ∧ Tidy q z := by
  refine ⟨_, rfl, ?_⟩
  with_reducible repeat' first
    | (intro _) | assumption | apply tidy_namedWrite | apply tidy_wProfile | (apply tidyPair_of; assumption)
    | (simp only [tidy_mk]; apply tidy_back) | split | dsimp only

theorem within_execProfileActiveWrite (T : List Part) (orig : State) (hT : subP [.od, .resp] T = true) (path : Fin 4)
    (n : Nat) (s : State) (h1 : Within T orig s) : ∃ z, execProfileActiveWrite path n s = .next z ∧ Within T orig z :=
    by
  refine ⟨_, rfl, ?_⟩
  with_reducible repeat' first
    | (intro _) | assumption | (exact subP_trans (by decide) hT) | apply within_namedWrite | apply within_wProfile
    | (apply withinPair_of; assumption) | split | dsimp only

theorem tidy_execProfileSave (q : List Instr) (path : Fin 4) (n : Nat) (s : State) (h1 : Tidy q s) : ∃ z,
    execProfileSave path n s = .next z ∧ Tidy q z := by
  refine ⟨_, rfl, ?_⟩
  with_reducible repeat' first
    | (intro _) | assumption | apply tidy_flashWrite | apply tidy_wProfSave | (apply tidyPair_of; assumption)
    | (simp only [tidy_mk]; apply tidy_back) | split | dsimp only

theorem within_execProfileSave (T : List Part) (orig : State) (hT : subP [.od, .resp, .can] T = true) (path : Fin 4)
    (n : Nat) (s : State) (h1 : Within T orig s) : ∃ z, execProfileSave path n s = .next z ∧ Within T orig z := by
  refine ⟨_, rfl, ?_⟩
  with_reducible repeat' first
    | (intro _) | assumption | (exact subP_trans (by decide) hT) | apply within_flashWrite | apply within_wProfSave
    | (apply withinPair_of; assumption) | split | dsimp only

theorem tidy_execProfileFactory (q : List Instr) (path : Fin 4) (n : Nat) (s : State) (h1 : Tidy q s) : ∃ z,
    execProfileFactory path n s = .next z ∧ Tidy q z := by
  refine ⟨_, rfl, ?_⟩
  with_reducible repeat' first
    | (intro _) | assumption | apply tidy_flashWrite | apply tidy_wProfFactory | (apply tidyPair_of; assumption)
    | (simp only [tidy_mk]; apply tidy_back) | split | dsimp only

theorem within_execProfileFactory (T : List Part) (orig : State) (hT : subP [.od, .resp, .can] T = true) (path : Fin
    4) (n : Nat) (s : State) (h1 : Within T orig s) : ∃ z, execProfileFactory path n s = .next z ∧ Within T orig z :=
    by
  refine ⟨_, rfl, ?_⟩
  with_reducible repeat' first
    | (intro _) | assumption | (exact subP_trans (by decide) hT) | apply within_flashWrite | apply within_wProfFactory
    | (apply withinPair_of; assumption) | split | dsimp only

theorem tidy_execGetVersion (q : List Instr) (tr : Fin 2) (s : State) (h1 : Tidy q s) : ∃ z, execGetVersion tr s =
    .next z ∧ Tidy q z := by
  refine ⟨_, rfl, ?_⟩
  with_reducible repeat' first
    | (intro _) | assumption | apply tidy_spdmArrive | (simp only [tidy_mk]; apply tidy_back) | split | dsimp only

theorem within_execGetVersion (T : List Part) (orig : State) (hT : subP [.od, .dom, .out, .resp, .freeCtr, .hst, .sec,
    .meas] T = true) (tr : Fin 2) (s : State) (h1 : Within T orig s) : ∃ z, execGetVersion tr s = .next z ∧ Within T
    orig z := by
  refine ⟨_, rfl, ?_⟩
  with_reducible repeat' first
    | (intro _) | assumption | (exact subP_trans (by decide) hT) | apply within_spdmArrive | split | dsimp only

theorem tidy_execGetCapabilities (q : List Instr) (tr : Fin 2) (s : State) (h1 : Tidy q s) : ∃ z, execGetCapabilities
    tr s = .next z ∧ Tidy q z := by
  refine ⟨_, rfl, ?_⟩
  with_reducible repeat' first
    | (intro _) | assumption | apply tidy_spdmArrive | (simp only [tidy_mk]; apply tidy_back) | split | dsimp only

theorem within_execGetCapabilities (T : List Part) (orig : State) (hT : subP [.od, .dom, .out, .resp, .freeCtr, .hst,
    .sec, .meas] T = true) (tr : Fin 2) (s : State) (h1 : Within T orig s) : ∃ z, execGetCapabilities tr s = .next z ∧
    Within T orig z := by
  refine ⟨_, rfl, ?_⟩
  with_reducible repeat' first
    | (intro _) | assumption | (exact subP_trans (by decide) hT) | apply within_spdmArrive | split | dsimp only

theorem tidy_execNegotiateAlgorithms (q : List Instr) (tr : Fin 2) (asym : Fin 4294967296) (hash : Fin 4294967296)
    (mhash : Fin 4294967296) (s : State) (h1 : Tidy q s) : ∃ z, execNegotiateAlgorithms tr asym hash mhash s = .next z
    ∧ Tidy q z := by
  refine ⟨_, rfl, ?_⟩
  with_reducible repeat' first
    | (intro _) | assumption | apply tidy_spdmArrive | (simp only [tidy_mk]; apply tidy_back) | split | dsimp only

theorem within_execNegotiateAlgorithms (T : List Part) (orig : State) (hT : subP [.od, .dom, .out, .resp, .freeCtr,
    .hst, .sec, .meas] T = true) (tr : Fin 2) (asym : Fin 4294967296) (hash : Fin 4294967296) (mhash : Fin 4294967296)
    (s : State) (h1 : Within T orig s) : ∃ z, execNegotiateAlgorithms tr asym hash mhash s = .next z ∧ Within T orig z
    := by
  refine ⟨_, rfl, ?_⟩
  with_reducible repeat' first
    | (intro _) | assumption | (exact subP_trans (by decide) hT) | apply within_spdmArrive | split | dsimp only

theorem tidy_execGetDigests (q : List Instr) (tr : Fin 2) (s : State) (h1 : Tidy q s) : ∃ z, execGetDigests tr s =
    .next z ∧ Tidy q z := by
  refine ⟨_, rfl, ?_⟩
  with_reducible repeat' first
    | (intro _) | assumption | apply tidy_spdmArrive | (simp only [tidy_mk]; apply tidy_back) | split | dsimp only

theorem within_execGetDigests (T : List Part) (orig : State) (hT : subP [.od, .dom, .out, .resp, .freeCtr, .hst, .sec,
    .meas] T = true) (tr : Fin 2) (s : State) (h1 : Within T orig s) : ∃ z, execGetDigests tr s = .next z ∧ Within T
    orig z := by
  refine ⟨_, rfl, ?_⟩
  with_reducible repeat' first
    | (intro _) | assumption | (exact subP_trans (by decide) hT) | apply within_spdmArrive | split | dsimp only

theorem tidy_execGetCertificate (q : List Instr) (tr : Fin 2) (slot : Fin 16) (off : Fin 65536) (len : Fin 65536) (s :
    State) (h1 : Tidy q s) : ∃ z, execGetCertificate tr slot off len s = .next z ∧ Tidy q z := by
  refine ⟨_, rfl, ?_⟩
  with_reducible repeat' first
    | (intro _) | assumption | apply tidy_spdmArrive | (simp only [tidy_mk]; apply tidy_back) | split | dsimp only

theorem within_execGetCertificate (T : List Part) (orig : State) (hT : subP [.od, .dom, .out, .resp, .freeCtr, .hst,
    .sec, .meas] T = true) (tr : Fin 2) (slot : Fin 16) (off : Fin 65536) (len : Fin 65536) (s : State) (h1 : Within T
    orig s) : ∃ z, execGetCertificate tr slot off len s = .next z ∧ Within T orig z := by
  refine ⟨_, rfl, ?_⟩
  with_reducible repeat' first
    | (intro _) | assumption | (exact subP_trans (by decide) hT) | apply within_spdmArrive | split | dsimp only

theorem tidy_execChallenge (q : List Instr) (tr : Fin 2) (slot : Fin 16) (summary : Bool) (c : ChalReq) (s : State)
    (h1 : Tidy q s) : ∃ z, execChallenge tr slot summary c s = .next z ∧ Tidy q z := by
  refine ⟨_, rfl, ?_⟩
  with_reducible repeat' first
    | (intro _) | assumption | apply tidy_spdmArrive | (simp only [tidy_mk]; apply tidy_back) | split | dsimp only

theorem within_execChallenge (T : List Part) (orig : State) (hT : subP [.od, .dom, .out, .resp, .freeCtr, .hst, .sec,
    .meas] T = true) (tr : Fin 2) (slot : Fin 16) (summary : Bool) (c : ChalReq) (s : State) (h1 : Within T orig s) :
    ∃ z, execChallenge tr slot summary c s = .next z ∧ Within T orig z := by
  refine ⟨_, rfl, ?_⟩
  with_reducible repeat' first
    | (intro _) | assumption | (exact subP_trans (by decide) hT) | apply within_spdmArrive | split | dsimp only

theorem tidy_execGetMeasurements (q : List Instr) (tr : Fin 2) (r : MeasReq) (s : State) (h1 : Tidy q s) : ∃ z,
    execGetMeasurements tr r s = .next z ∧ Tidy q z := by
  refine ⟨_, rfl, ?_⟩
  with_reducible repeat' first
    | (intro _) | assumption | apply tidy_spdmArrive | (simp only [tidy_mk]; apply tidy_back) | split | dsimp only

theorem within_execGetMeasurements (T : List Part) (orig : State) (hT : subP [.od, .dom, .out, .resp, .freeCtr, .hst,
    .sec, .meas] T = true) (tr : Fin 2) (r : MeasReq) (s : State) (h1 : Within T orig s) : ∃ z, execGetMeasurements tr
    r s = .next z ∧ Within T orig z := by
  refine ⟨_, rfl, ?_⟩
  with_reducible repeat' first
    | (intro _) | assumption | (exact subP_trans (by decide) hT) | apply within_spdmArrive | split | dsimp only

theorem tidy_execGetMeasurementExtensionLog (q : List Instr) (tr : Fin 2) (off : Fin 4294967296) (len : Fin
    4294967296) (s : State) (h1 : Tidy q s) : ∃ z, execGetMeasurementExtensionLog tr off len s = .next z ∧ Tidy q z :=
    by
  refine ⟨_, rfl, ?_⟩
  with_reducible repeat' first
    | (intro _) | assumption | apply tidy_spdmArrive | (simp only [tidy_mk]; apply tidy_back) | split | dsimp only

theorem within_execGetMeasurementExtensionLog (T : List Part) (orig : State) (hT : subP [.od, .dom, .out, .resp,
    .freeCtr, .hst, .sec, .meas] T = true) (tr : Fin 2) (off : Fin 4294967296) (len : Fin 4294967296) (s : State) (h1
    : Within T orig s) : ∃ z, execGetMeasurementExtensionLog tr off len s = .next z ∧ Within T orig z := by
  refine ⟨_, rfl, ?_⟩
  with_reducible repeat' first
    | (intro _) | assumption | (exact subP_trans (by decide) hT) | apply within_spdmArrive | split | dsimp only

theorem tidy_execGetCsr (q : List Instr) (tr : Fin 2) (s : State) (h1 : Tidy q s) : ∃ z, execGetCsr tr s = .next z ∧
    Tidy q z := by
  refine ⟨_, rfl, ?_⟩
  with_reducible repeat' first
    | (intro _) | assumption | apply tidy_spdmArrive | (simp only [tidy_mk]; apply tidy_back) | split | dsimp only

theorem within_execGetCsr (T : List Part) (orig : State) (hT : subP [.od, .dom, .out, .resp, .freeCtr, .hst, .sec,
    .meas] T = true) (tr : Fin 2) (s : State) (h1 : Within T orig s) : ∃ z, execGetCsr tr s = .next z ∧ Within T orig
    z := by
  refine ⟨_, rfl, ?_⟩
  with_reducible repeat' first
    | (intro _) | assumption | (exact subP_trans (by decide) hT) | apply within_spdmArrive | split | dsimp only

theorem tidy_execSetCertificate (q : List Instr) (tr : Fin 2) (slot : Fin 16) (chain : List Byte) (ok : Bool) (anchor
    : List Byte) (s : State) (h1 : Tidy q s) : ∃ z, execSetCertificate tr slot chain ok anchor s = .next z ∧ Tidy q z
    := by
  refine ⟨_, rfl, ?_⟩
  with_reducible repeat' first
    | (intro _) | assumption | apply tidy_spdmArrive | (simp only [tidy_mk]; apply tidy_back) | split | dsimp only

theorem within_execSetCertificate (T : List Part) (orig : State) (hT : subP [.od, .dom, .out, .resp, .freeCtr, .hst,
    .sec, .meas] T = true) (tr : Fin 2) (slot : Fin 16) (chain : List Byte) (ok : Bool) (anchor : List Byte) (s :
    State) (h1 : Within T orig s) : ∃ z, execSetCertificate tr slot chain ok anchor s = .next z ∧ Within T orig z :=
    by
  refine ⟨_, rfl, ?_⟩
  with_reducible repeat' first
    | (intro _) | assumption | (exact subP_trans (by decide) hT) | apply within_spdmArrive | split | dsimp only

theorem tidy_execSpdmUnsupportedRequest (q : List Instr) (e : SpdmBad) (s : State) (h1 : Tidy q s) : ∃ z,
    execSpdmUnsupportedRequest e s = .next z ∧ Tidy q z := by
  refine ⟨_, rfl, ?_⟩
  with_reducible repeat' first
    | (intro _) | assumption | apply tidy_spdmArrive | (simp only [tidy_mk]; apply tidy_back) | split | dsimp only

theorem within_execSpdmUnsupportedRequest (T : List Part) (orig : State) (hT : subP [.od, .dom, .out, .resp, .freeCtr,
    .hst, .sec, .meas] T = true) (e : SpdmBad) (s : State) (h1 : Within T orig s) : ∃ z, execSpdmUnsupportedRequest e
    s = .next z ∧ Within T orig z := by
  refine ⟨_, rfl, ?_⟩
  with_reducible repeat' first
    | (intro _) | assumption | (exact subP_trans (by decide) hT) | apply within_spdmArrive | split | dsimp only

theorem tidy_execContextSet (q : List Instr) (tr : Fin 2) (r : CtxReq) (s : State) (h1 : Tidy q s) : ∃ z,
    execContextSet tr r s = .next z ∧ Tidy q z := by
  refine ⟨_, rfl, ?_⟩
  with_reducible repeat' first
    | (intro _) | assumption | apply tidy_spdmArrive | (simp only [tidy_mk]; apply tidy_back) | split | dsimp only

theorem within_execContextSet (T : List Part) (orig : State) (hT : subP [.od, .dom, .out, .resp, .freeCtr, .hst, .sec,
    .meas] T = true) (tr : Fin 2) (r : CtxReq) (s : State) (h1 : Within T orig s) : ∃ z, execContextSet tr r s = .next
    z ∧ Within T orig z := by
  refine ⟨_, rfl, ?_⟩
  with_reducible repeat' first
    | (intro _) | assumption | (exact subP_trans (by decide) hT) | apply within_spdmArrive | split | dsimp only

theorem tidy_execContextClear (q : List Instr) (tr : Fin 2) (ctx : Nat) (rsv : Nat) (s : State) (h1 : Tidy q s) : ∃ z,
    execContextClear tr ctx rsv s = .next z ∧ Tidy q z := by
  refine ⟨_, rfl, ?_⟩
  with_reducible repeat' first
    | (intro _) | assumption | apply tidy_spdmArrive | (simp only [tidy_mk]; apply tidy_back) | split | dsimp only

theorem within_execContextClear (T : List Part) (orig : State) (hT : subP [.od, .dom, .out, .resp, .freeCtr, .hst,
    .sec, .meas] T = true) (tr : Fin 2) (ctx : Nat) (rsv : Nat) (s : State) (h1 : Within T orig s) : ∃ z,
    execContextClear tr ctx rsv s = .next z ∧ Within T orig z := by
  refine ⟨_, rfl, ?_⟩
  with_reducible repeat' first
    | (intro _) | assumption | (exact subP_trans (by decide) hT) | apply within_spdmArrive | split | dsimp only

theorem tidy_execMeasureRange (q : List Instr) (tr : Fin 2) (addr : Nat) (len : Nat) (s : State) (h1 : Tidy q s) : ∃
    z, execMeasureRange tr addr len s = .next z ∧ Tidy q z := by
  refine ⟨_, rfl, ?_⟩
  with_reducible repeat' first
    | (intro _) | assumption | apply tidy_spdmArrive | (simp only [tidy_mk]; apply tidy_back) | split | dsimp only

theorem within_execMeasureRange (T : List Part) (orig : State) (hT : subP [.od, .dom, .out, .resp, .freeCtr, .hst,
    .sec, .meas] T = true) (tr : Fin 2) (addr : Nat) (len : Nat) (s : State) (h1 : Within T orig s) : ∃ z,
    execMeasureRange tr addr len s = .next z ∧ Within T orig z := by
  refine ⟨_, rfl, ?_⟩
  with_reducible repeat' first
    | (intro _) | assumption | (exact subP_trans (by decide) hT) | apply within_spdmArrive | split | dsimp only

theorem tidy_execMeasureRangeComplete (q : List Instr) (die : Fin 2) (s : State) (h1 : Tidy q s) : ∃ z,
    execMeasureRangeComplete die s = .next z ∧ Tidy q z := by
  refine ⟨_, rfl, ?_⟩
  with_reducible repeat' first
    | (intro _) | assumption | apply tidy_rangeDone | (simp only [tidy_mk]; apply tidy_back) | split | dsimp only

theorem within_execMeasureRangeComplete (T : List Part) (orig : State) (hT : subP [.od, .out, .ecc, .meas, .obs, .log,
    .frz, .can] T = true) (die : Fin 2) (s : State) (h1 : Within T orig s) : ∃ z, execMeasureRangeComplete die s =
    .next z ∧ Within T orig z := by
  refine ⟨_, rfl, ?_⟩
  with_reducible repeat' first
    | (intro _) | assumption | (exact subP_trans (by decide) hT) | apply within_rangeDone | split | dsimp only

theorem tidy_execSecurityEngineOpComplete (q : List Instr) (s : State) (h1 : Tidy q s) : ∃ z,
    execSecurityEngineOpComplete s = .next z ∧ Tidy q z := by
  refine ⟨_, rfl, ?_⟩
  with_reducible repeat' first
    | (intro _) | assumption | apply tidy_engineDone | (simp only [tidy_mk]; apply tidy_back) | split | dsimp only

theorem within_execSecurityEngineOpComplete (T : List Part) (orig : State) (hT : subP [.od, .dom, .out, .resp,
    .freeCtr, .hst, .fab, .sec, .meas, .obs, .log, .frz] T = true) (s : State) (h1 : Within T orig s) : ∃ z,
    execSecurityEngineOpComplete s = .next z ∧ Within T orig z := by
  refine ⟨_, rfl, ?_⟩
  with_reducible repeat' first
    | (intro _) | assumption | (exact subP_trans (by decide) hT) | apply within_engineDone | split | dsimp only

theorem tidy_execLinkAuthModeWrite (q : List Instr) (path : Fin 4) (v : Nat) (s : State) (h1 : Tidy q s) : ∃ z,
    execLinkAuthModeWrite path v s = .next z ∧ Tidy q z := by
  refine ⟨_, rfl, ?_⟩
  with_reducible repeat' first
    | (intro _) | assumption | apply tidy_namedWrite | apply tidy_wLinkAuth | (apply tidyPair_of; assumption)
    | (simp only [tidy_mk]; apply tidy_back) | split | dsimp only

theorem within_execLinkAuthModeWrite (T : List Part) (orig : State) (hT : subP [.od, .resp] T = true) (path : Fin 4)
    (v : Nat) (s : State) (h1 : Within T orig s) : ∃ z, execLinkAuthModeWrite path v s = .next z ∧ Within T orig z :=
    by
  refine ⟨_, rfl, ?_⟩
  with_reducible repeat' first
    | (intro _) | assumption | (exact subP_trans (by decide) hT) | apply within_namedWrite | apply within_wLinkAuth
    | (apply withinPair_of; assumption) | split | dsimp only

theorem tidy_execConfModeRequest (q : List Instr) (path : Fin 4) (v : Nat) (s : State) (h1 : Tidy q s) : ∃ z,
    execConfModeRequest path v s = .next z ∧ Tidy q z := by
  refine ⟨_, rfl, ?_⟩
  with_reducible repeat' first
    | (intro _) | assumption | apply tidy_namedWrite | apply tidy_wConfMode | (apply tidyPair_of; assumption)
    | (simp only [tidy_mk]; apply tidy_back) | split | dsimp only

theorem within_execConfModeRequest (T : List Part) (orig : State) (hT : subP [.od, .out, .resp, .freeCtr, .mem, .ecc,
    .tiles, .mesh, .graphs, .cmds, .hst, .rem, .flt, .sec, .meas, .obs, .log, .frz, .mod] T = true) (path : Fin 4) (v
    : Nat) (s : State) (h1 : Within T orig s) : ∃ z, execConfModeRequest path v s = .next z ∧ Within T orig z := by
  refine ⟨_, rfl, ?_⟩
  with_reducible repeat' first
    | (intro _) | assumption | (exact subP_trans (by decide) hT) | apply within_namedWrite | apply within_wConfMode
    | (apply withinPair_of; assumption) | split | dsimp only

theorem tidy_execFwStageChunk (q : List Instr) (path : Fin 4) (bs : List Byte) (s : State) (h1 : Tidy q s) : ∃ z,
    execFwStageChunk path bs s = .next z ∧ Tidy q z := by
  refine ⟨_, rfl, ?_⟩
  with_reducible repeat' first
    | (intro _) | assumption | apply tidy_namedBytes | apply tidy_wStageChunk | (apply tidyPair_of; assumption)
    | (simp only [tidy_mk]; apply tidy_back) | split | dsimp only

theorem within_execFwStageChunk (T : List Part) (orig : State) (hT : subP [.od, .resp, .sec] T = true) (path : Fin 4)
    (bs : List Byte) (s : State) (h1 : Within T orig s) : ∃ z, execFwStageChunk path bs s = .next z ∧ Within T orig z
    := by
  refine ⟨_, rfl, ?_⟩
  with_reducible repeat' first
    | (intro _) | assumption | (exact subP_trans (by decide) hT) | apply within_namedBytes | apply within_wStageChunk
    | (apply withinPair_of; assumption) | split | dsimp only

theorem tidy_execFwStageCommit (q : List Instr) (path : Fin 4) (v : Nat) (s : State) (h1 : Tidy q s) : ∃ z,
    execFwStageCommit path v s = .next z ∧ Tidy q z := by
  refine ⟨_, rfl, ?_⟩
  with_reducible repeat' first
    | (intro _) | assumption | apply tidy_namedWrite | apply tidy_wStageCommit | (apply tidyPair_of; assumption)
    | (simp only [tidy_mk]; apply tidy_back) | split | dsimp only

theorem within_execFwStageCommit (T : List Part) (orig : State) (hT : subP [.od, .resp, .sec] T = true) (path : Fin 4)
    (v : Nat) (s : State) (h1 : Within T orig s) : ∃ z, execFwStageCommit path v s = .next z ∧ Within T orig z := by
  refine ⟨_, rfl, ?_⟩
  with_reducible repeat' first
    | (intro _) | assumption | (exact subP_trans (by decide) hT) | apply within_namedWrite | apply within_wStageCommit
    | (apply withinPair_of; assumption) | split | dsimp only

theorem tidy_execFwStageCommitDone (q : List Instr) (cert : Bool) (sig : Bool) (digest : Bool) (s : State) (h1 : Tidy
    q s) : ∃ z, execFwStageCommitDone cert sig digest s = .next z ∧ Tidy q z := by
  refine ⟨_, rfl, ?_⟩
  with_reducible repeat' first
    | (intro _) | assumption | apply tidy_commitDone | (simp only [tidy_mk]; apply tidy_back) | split | dsimp only

theorem within_execFwStageCommitDone (T : List Part) (orig : State) (hT : subP [.od, .sec, .obs, .log, .frz] T = true)
    (cert : Bool) (sig : Bool) (digest : Bool) (s : State) (h1 : Within T orig s) : ∃ z, execFwStageCommitDone cert
    sig digest s = .next z ∧ Within T orig z := by
  refine ⟨_, rfl, ?_⟩
  with_reducible repeat' first
    | (intro _) | assumption | (exact subP_trans (by decide) hT) | apply within_commitDone | split | dsimp only

theorem tidy_execFwActivate (q : List Instr) (path : Fin 4) (v : Nat) (b : BootIn) (s : State) (h1 : Tidy q s) : ∃ z,
    execFwActivate path v b s = .next z ∧ Tidy q z := by
  refine ⟨_, rfl, ?_⟩
  with_reducible repeat' first
    | (intro _) | assumption | apply tidy_namedWrite | apply tidy_wActivate | (apply tidyPair_of; assumption)
    | (simp only [tidy_mk]; apply tidy_back) | split | dsimp only

theorem within_execFwActivate (T : List Part) (orig : State) (hT : subP [.od, .out, .resp, .sec, .meas, .obs, .log,
    .frz, .can, .mod] T = true) (path : Fin 4) (v : Nat) (b : BootIn) (s : State) (h1 : Within T orig s) : ∃ z,
    execFwActivate path v b s = .next z ∧ Within T orig z := by
  refine ⟨_, rfl, ?_⟩
  with_reducible repeat' first
    | (intro _) | assumption | (exact subP_trans (by decide) hT) | apply within_namedWrite | apply within_wActivate
    | (apply withinPair_of; assumption) | split | dsimp only

theorem tidy_execFwCommitSvn (q : List Instr) (path : Fin 4) (v : Nat) (s : State) (h1 : Tidy q s) : ∃ z,
    execFwCommitSvn path v s = .next z ∧ Tidy q z := by
  refine ⟨_, rfl, ?_⟩
  with_reducible repeat' first
    | (intro _) | assumption | apply tidy_namedWrite | apply tidy_wCommitSvn | (apply tidyPair_of; assumption)
    | (simp only [tidy_mk]; apply tidy_back) | split | dsimp only

theorem within_execFwCommitSvn (T : List Part) (orig : State) (hT : subP [.od, .resp] T = true) (path : Fin 4) (v :
    Nat) (s : State) (h1 : Within T orig s) : ∃ z, execFwCommitSvn path v s = .next z ∧ Within T orig z := by
  refine ⟨_, rfl, ?_⟩
  with_reducible repeat' first
    | (intro _) | assumption | (exact subP_trans (by decide) hT) | apply within_namedWrite | apply within_wCommitSvn
    | (apply withinPair_of; assumption) | split | dsimp only

theorem tidy_execDikGenerationDone (q : List Instr) (s : State) (h1 : Tidy q s) : ∃ z, execDikGenerationDone s = .next
    z ∧ Tidy q z := by
  refine ⟨_, rfl, ?_⟩
  with_reducible repeat' first
    | (intro _) | assumption | apply tidy_dikDone | (simp only [tidy_mk]; apply tidy_back) | split | dsimp only

theorem within_execDikGenerationDone (T : List Part) (orig : State) (hT : subP [.sec] T = true) (s : State) (h1 :
    Within T orig s) : ∃ z, execDikGenerationDone s = .next z ∧ Within T orig z := by
  refine ⟨_, rfl, ?_⟩
  with_reducible repeat' first
    | (intro _) | assumption | (exact subP_trans (by decide) hT) | apply within_dikDone | split | dsimp only

theorem tidy_execPrimerStart (q : List Instr) (path : Fin 4) (v : Nat) (s : State) (h1 : Tidy q s) : ∃ z,
    execPrimerStart path v s = .next z ∧ Tidy q z := by
  refine ⟨_, rfl, ?_⟩
  with_reducible repeat' first
    | (intro _) | assumption | apply tidy_namedWrite | apply tidy_wPrimerStart | (apply tidyPair_of; assumption)
    | (simp only [tidy_mk]; apply tidy_back) | split | dsimp only

theorem within_execPrimerStart (T : List Part) (orig : State) (hT : subP [.od, .out, .resp, .freeCtr, .mem, .ecc,
    .tiles, .mesh, .graphs, .cmds, .hst, .rem, .flt, .sec, .meas, .obs, .log, .frz, .mod] T = true) (path : Fin 4) (v
    : Nat) (s : State) (h1 : Within T orig s) : ∃ z, execPrimerStart path v s = .next z ∧ Within T orig z := by
  refine ⟨_, rfl, ?_⟩
  with_reducible repeat' first
    | (intro _) | assumption | (exact subP_trans (by decide) hT) | apply within_namedWrite | apply within_wPrimerStart
    | (apply withinPair_of; assumption) | split | dsimp only

theorem tidy_execPrimerApproachEnd (q : List Instr) (s : State) (h1 : Tidy q s) : ∃ z, execPrimerApproachEnd s = .next
    z ∧ Tidy q z := by
  refine ⟨_, rfl, ?_⟩
  with_reducible repeat' first
    | (intro _) | assumption | apply tidy_primerRun | (simp only [tidy_mk]; apply tidy_back) | split | dsimp only

theorem within_execPrimerApproachEnd (T : List Part) (orig : State) (hT : subP [.od, .dom, .freeCtr, .mem, .ecc,
    .tiles, .fab, .rem, .flt, .sec, .obs, .log, .frz] T = true) (s : State) (h1 : Within T orig s) : ∃ z,
    execPrimerApproachEnd s = .next z ∧ Within T orig z := by
  refine ⟨_, rfl, ?_⟩
  with_reducible repeat' first
    | (intro _) | assumption | (exact subP_trans (by decide) hT) | apply within_primerRun | split | dsimp only

theorem tidy_execPrimerEraseCheck (q : List Instr) (whole : Bool) (s : State) (h1 : Tidy q s) : ∃ z,
    execPrimerEraseCheck whole s = .next z ∧ Tidy q z := by
  refine ⟨_, rfl, ?_⟩
  with_reducible repeat' first
    | (intro _) | assumption | apply tidy_primerCheck | (simp only [tidy_mk]; apply tidy_back) | split | dsimp only

theorem within_execPrimerEraseCheck (T : List Part) (orig : State) (hT : subP [.od, .mem, .ecc, .hst, .rem, .flt,
    .sec, .meas, .obs, .log, .frz] T = true) (whole : Bool) (s : State) (h1 : Within T orig s) : ∃ z,
    execPrimerEraseCheck whole s = .next z ∧ Within T orig z := by
  refine ⟨_, rfl, ?_⟩
  with_reducible repeat' first
    | (intro _) | assumption | (exact subP_trans (by decide) hT) | apply within_primerCheck | split | dsimp only

theorem tidy_execPrimerEnd (q : List Instr) (s : State) (h1 : Tidy q s) : ∃ z, execPrimerEnd s = .next z ∧ Tidy q z :=
    by
  refine ⟨_, rfl, ?_⟩
  with_reducible repeat' first
    | (intro _) | assumption | apply tidy_primerFinish | (simp only [tidy_mk]; apply tidy_back) | split | dsimp only

theorem within_execPrimerEnd (T : List Part) (orig : State) (hT : subP [.od, .out, .hst, .flt, .sec, .meas, .obs,
    .log, .frz, .mod] T = true) (s : State) (h1 : Within T orig s) : ∃ z, execPrimerEnd s = .next z ∧ Within T orig z
    := by
  refine ⟨_, rfl, ?_⟩
  with_reducible repeat' first
    | (intro _) | assumption | (exact subP_trans (by decide) hT) | apply within_primerFinish | split | dsimp only

theorem tidy_execAlignCollectWindowEnd (q : List Instr) (s : State) (h1 : Tidy q s) : ∃ z, execAlignCollectWindowEnd s
    = .next z ∧ Tidy q z := by
  refine ⟨_, rfl, ?_⟩
  with_reducible repeat' first
    | (intro _) | assumption | apply tidy_alignWindowEnd | (simp only [tidy_mk]; apply tidy_back) | split | dsimp only

theorem within_execAlignCollectWindowEnd (T : List Part) (orig : State) (hT : subP [.tim] T = true) (s : State) (h1 :
    Within T orig s) : ∃ z, execAlignCollectWindowEnd s = .next z ∧ Within T orig z := by
  refine ⟨_, rfl, ?_⟩
  with_reducible repeat' first
    | (intro _) | assumption | (exact subP_trans (by decide) hT) | apply within_alignWindowEnd | split | dsimp only

theorem tidy_execTimeAlign (q : List Instr) (s : State) (h1 : Tidy q s) : ∃ z, execTimeAlign s = .next z ∧ Tidy q z :=
    by
  refine ⟨_, rfl, ?_⟩
  with_reducible repeat' first
    | (intro _) | assumption | apply tidy_timeAlign | (simp only [tidy_mk]; apply tidy_back) | split | dsimp only

theorem within_execTimeAlign (T : List Part) (orig : State) (hT : subP [.now, .od, .flt, .tim, .obs, .log, .frz, .mod]
    T = true) (s : State) (h1 : Within T orig s) : ∃ z, execTimeAlign s = .next z ∧ Within T orig z := by
  refine ⟨_, rfl, ?_⟩
  with_reducible repeat' first
    | (intro _) | assumption | (exact subP_trans (by decide) hT) | apply within_timeAlign | split | dsimp only

theorem tidy_execRef25Loss (q : List Instr) (s : State) (h1 : Tidy q s) : ∃ z, execRef25Loss s = .next z ∧ Tidy q z :=
    by
  refine ⟨_, rfl, ?_⟩
  with_reducible repeat' first
    | (intro _) | assumption | apply tidy_refLoss | (simp only [tidy_mk]; apply tidy_back) | split | dsimp only

theorem within_execRef25Loss (T : List Part) (orig : State) (hT : subP [.od, .tim, .obs, .log, .frz, .mod] T = true)
    (s : State) (h1 : Within T orig s) : ∃ z, execRef25Loss s = .next z ∧ Within T orig z := by
  refine ⟨_, rfl, ?_⟩
  with_reducible repeat' first
    | (intro _) | assumption | (exact subP_trans (by decide) hT) | apply within_refLoss | split | dsimp only

theorem tidy_execRef25Relock (q : List Instr) (s : State) (h1 : Tidy q s) : ∃ z, execRef25Relock s = .next z ∧ Tidy q
    z := by
  refine ⟨_, rfl, ?_⟩
  with_reducible repeat' first
    | (intro _) | assumption | apply tidy_refRelock | (simp only [tidy_mk]; apply tidy_back) | split | dsimp only

theorem within_execRef25Relock (T : List Part) (orig : State) (hT : subP [.od, .tim, .mod] T = true) (s : State) (h1 :
    Within T orig s) : ∃ z, execRef25Relock s = .next z ∧ Within T orig z := by
  refine ⟨_, rfl, ?_⟩
  with_reducible repeat' first
    | (intro _) | assumption | (exact subP_trans (by decide) hT) | apply within_refRelock | split | dsimp only

theorem tidy_execFreezeNow (q : List Instr) (path : Fin 4) (v : Nat) (s : State) (h1 : Tidy q s) : ∃ z, execFreezeNow
    path v s = .next z ∧ Tidy q z := by
  refine ⟨_, rfl, ?_⟩
  with_reducible repeat' first
    | (intro _) | assumption | apply tidy_namedWrite | apply tidy_wFreezeNow | (apply tidyPair_of; assumption)
    | (simp only [tidy_mk]; apply tidy_back) | split | dsimp only

theorem within_execFreezeNow (T : List Part) (orig : State) (hT : subP [.od, .resp, .obs, .frz] T = true) (path : Fin
    4) (v : Nat) (s : State) (h1 : Within T orig s) : ∃ z, execFreezeNow path v s = .next z ∧ Within T orig z := by
  refine ⟨_, rfl, ?_⟩
  with_reducible repeat' first
    | (intro _) | assumption | (exact subP_trans (by decide) hT) | apply within_namedWrite | apply within_wFreezeNow
    | (apply withinPair_of; assumption) | split | dsimp only

theorem tidy_execFreezeAtWrite (q : List Instr) (path : Fin 4) (v : Nat) (s : State) (h1 : Tidy q s) : ∃ z,
    execFreezeAtWrite path v s = .next z ∧ Tidy q z := by
  refine ⟨_, rfl, ?_⟩
  with_reducible repeat' first
    | (intro _) | assumption | apply tidy_namedWrite | apply tidy_wFreezeAt | (apply tidyPair_of; assumption)
    | (simp only [tidy_mk]; apply tidy_back) | split | dsimp only

theorem within_execFreezeAtWrite (T : List Part) (orig : State) (hT : subP [.od, .resp, .obs, .frz] T = true) (path :
    Fin 4) (v : Nat) (s : State) (h1 : Within T orig s) : ∃ z, execFreezeAtWrite path v s = .next z ∧ Within T orig z
    := by
  refine ⟨_, rfl, ?_⟩
  with_reducible repeat' first
    | (intro _) | assumption | (exact subP_trans (by decide) hT) | apply within_namedWrite | apply within_wFreezeAt
    | (apply withinPair_of; assumption) | split | dsimp only

theorem tidy_execFreezeAtReached (q : List Instr) (s : State) (h1 : Tidy q s) : ∃ z, execFreezeAtReached s = .next z ∧
    Tidy q z := by
  refine ⟨_, rfl, ?_⟩
  with_reducible repeat' first
    | (intro _) | assumption | apply tidy_freezeReached | (simp only [tidy_mk]; apply tidy_back) | split | dsimp only

theorem within_execFreezeAtReached (T : List Part) (orig : State) (hT : subP [.od, .obs, .frz] T = true) (s : State)
    (h1 : Within T orig s) : ∃ z, execFreezeAtReached s = .next z ∧ Within T orig z := by
  refine ⟨_, rfl, ?_⟩
  with_reducible repeat' first
    | (intro _) | assumption | (exact subP_trans (by decide) hT) | apply within_freezeReached | split | dsimp only

theorem tidy_execFreezeRelease (q : List Instr) (path : Fin 4) (v : Nat) (s : State) (h1 : Tidy q s) : ∃ z,
    execFreezeRelease path v s = .next z ∧ Tidy q z := by
  refine ⟨_, rfl, ?_⟩
  with_reducible repeat' first
    | (intro _) | assumption | apply tidy_namedWrite | apply tidy_wFreezeRelease | (apply tidyPair_of; assumption)
    | (simp only [tidy_mk]; apply tidy_back) | split | dsimp only

theorem within_execFreezeRelease (T : List Part) (orig : State) (hT : subP [.od, .resp, .frz] T = true) (path : Fin 4)
    (v : Nat) (s : State) (h1 : Within T orig s) : ∃ z, execFreezeRelease path v s = .next z ∧ Within T orig z := by
  refine ⟨_, rfl, ?_⟩
  with_reducible repeat' first
    | (intro _) | assumption | (exact subP_trans (by decide) hT) | apply within_namedWrite
    | apply within_wFreezeRelease | (apply withinPair_of; assumption) | split | dsimp only

theorem tidy_execTraceCtlWrite (q : List Instr) (path : Fin 4) (v : Nat) (s : State) (h1 : Tidy q s) : ∃ z,
    execTraceCtlWrite path v s = .next z ∧ Tidy q z := by
  refine ⟨_, rfl, ?_⟩
  with_reducible repeat' first
    | (intro _) | assumption | apply tidy_namedWrite | apply tidy_wTraceCtl | (apply tidyPair_of; assumption)
    | (simp only [tidy_mk]; apply tidy_back) | split | dsimp only

theorem within_execTraceCtlWrite (T : List Part) (orig : State) (hT : subP [.od, .resp] T = true) (path : Fin 4) (v :
    Nat) (s : State) (h1 : Within T orig s) : ∃ z, execTraceCtlWrite path v s = .next z ∧ Within T orig z := by
  refine ⟨_, rfl, ?_⟩
  with_reducible repeat' first
    | (intro _) | assumption | (exact subP_trans (by decide) hT) | apply within_namedWrite | apply within_wTraceCtl
    | (apply withinPair_of; assumption) | split | dsimp only

theorem tidy_execTraceArm (q : List Instr) (path : Fin 4) (v : Nat) (s : State) (h1 : Tidy q s) : ∃ z, execTraceArm
    path v s = .next z ∧ Tidy q z := by
  refine ⟨_, rfl, ?_⟩
  with_reducible repeat' first
    | (intro _) | assumption | apply tidy_namedWrite | apply tidy_wTraceArm | (apply tidyPair_of; assumption)
    | (simp only [tidy_mk]; apply tidy_back) | split | dsimp only

theorem within_execTraceArm (T : List Part) (orig : State) (hT : subP [.od, .resp, .obs] T = true) (path : Fin 4) (v :
    Nat) (s : State) (h1 : Within T orig s) : ∃ z, execTraceArm path v s = .next z ∧ Within T orig z := by
  refine ⟨_, rfl, ?_⟩
  with_reducible repeat' first
    | (intro _) | assumption | (exact subP_trans (by decide) hT) | apply within_namedWrite | apply within_wTraceArm
    | (apply withinPair_of; assumption) | split | dsimp only

theorem tidy_execTraceStop (q : List Instr) (path : Fin 4) (v : Nat) (s : State) (h1 : Tidy q s) : ∃ z, execTraceStop
    path v s = .next z ∧ Tidy q z := by
  refine ⟨_, rfl, ?_⟩
  with_reducible repeat' first
    | (intro _) | assumption | apply tidy_namedWrite | apply tidy_wTraceStop | (apply tidyPair_of; assumption)
    | (simp only [tidy_mk]; apply tidy_back) | split | dsimp only

theorem within_execTraceStop (T : List Part) (orig : State) (hT : subP [.od, .resp, .obs] T = true) (path : Fin 4) (v
    : Nat) (s : State) (h1 : Within T orig s) : ∃ z, execTraceStop path v s = .next z ∧ Within T orig z := by
  refine ⟨_, rfl, ?_⟩
  with_reducible repeat' first
    | (intro _) | assumption | (exact subP_trans (by decide) hT) | apply within_namedWrite | apply within_wTraceStop
    | (apply withinPair_of; assumption) | split | dsimp only

theorem tidy_execTraceTrigger (q : List Instr) (path : Fin 4) (v : Nat) (s : State) (h1 : Tidy q s) : ∃ z,
    execTraceTrigger path v s = .next z ∧ Tidy q z := by
  refine ⟨_, rfl, ?_⟩
  with_reducible repeat' first
    | (intro _) | assumption | apply tidy_namedWrite | apply tidy_wTraceTrigger | (apply tidyPair_of; assumption)
    | (simp only [tidy_mk]; apply tidy_back) | split | dsimp only

theorem within_execTraceTrigger (T : List Part) (orig : State) (hT : subP [.od, .resp, .obs, .frz] T = true) (path :
    Fin 4) (v : Nat) (s : State) (h1 : Within T orig s) : ∃ z, execTraceTrigger path v s = .next z ∧ Within T orig z
    := by
  refine ⟨_, rfl, ?_⟩
  with_reducible repeat' first
    | (intro _) | assumption | (exact subP_trans (by decide) hT) | apply within_namedWrite
    | apply within_wTraceTrigger | (apply withinPair_of; assumption) | split | dsimp only

theorem tidy_execTraceBufferFull (q : List Instr) (s : State) (h1 : Tidy q s) : ∃ z, execTraceBufferFull s = .next z ∧
    Tidy q z := by
  refine ⟨_, rfl, ?_⟩
  with_reducible repeat' first
    | (intro _) | assumption | apply tidy_traceFilled | (simp only [tidy_mk]; apply tidy_back) | split | dsimp only

theorem within_execTraceBufferFull (T : List Part) (orig : State) (hT : subP [.od, .obs] T = true) (s : State) (h1 :
    Within T orig s) : ∃ z, execTraceBufferFull s = .next z ∧ Within T orig z := by
  refine ⟨_, rfl, ?_⟩
  with_reducible repeat' first
    | (intro _) | assumption | (exact subP_trans (by decide) hT) | apply within_traceFilled | split | dsimp only

theorem tidy_execTracePostComplete (q : List Instr) (s : State) (h1 : Tidy q s) : ∃ z, execTracePostComplete s = .next
    z ∧ Tidy q z := by
  refine ⟨_, rfl, ?_⟩
  with_reducible repeat' first
    | (intro _) | assumption | apply tidy_tracePostDone | (simp only [tidy_mk]; apply tidy_back) | split | dsimp only

theorem within_execTracePostComplete (T : List Part) (orig : State) (hT : subP [.od, .obs] T = true) (s : State) (h1 :
    Within T orig s) : ∃ z, execTracePostComplete s = .next z ∧ Within T orig z := by
  refine ⟨_, rfl, ?_⟩
  with_reducible repeat' first
    | (intro _) | assumption | (exact subP_trans (by decide) hT) | apply within_tracePostDone | split | dsimp only

theorem tidy_execTraceDataRead (q : List Instr) (path : Fin 4) (s : State) (h1 : Tidy q s) : ∃ z, execTraceDataRead
    path s = .next z ∧ Tidy q z := by
  refine ⟨_, rfl, ?_⟩
  with_reducible repeat' first
    | (intro _) | assumption | apply tidy_traceRead | (simp only [tidy_mk]; apply tidy_back) | split | dsimp only

theorem within_execTraceDataRead (T : List Part) (orig : State) (hT : subP [.od, .out, .resp] T = true) (path : Fin 4)
    (s : State) (h1 : Within T orig s) : ∃ z, execTraceDataRead path s = .next z ∧ Within T orig z := by
  refine ⟨_, rfl, ?_⟩
  with_reducible repeat' first
    | (intro _) | assumption | (exact subP_trans (by decide) hT) | apply within_traceRead | split | dsimp only

theorem tidy_execBrkAddrHit (q : List Instr) (t : TileId) (s : State) (h1 : Tidy q s) : ∃ z, execBrkAddrHit t s =
    .next z ∧ Tidy q z := by
  refine ⟨_, rfl, ?_⟩
  with_reducible repeat' first
    | (intro _) | assumption | apply tidy_addrHit | (simp only [tidy_mk]; apply tidy_back) | split | dsimp only

theorem within_execBrkAddrHit (T : List Part) (orig : State) (hT : subP [.od, .freeCtr, .tiles, .flt, .obs, .frz] T =
    true) (t : TileId) (s : State) (h1 : Within T orig s) : ∃ z, execBrkAddrHit t s = .next z ∧ Within T orig z := by
  refine ⟨_, rfl, ?_⟩
  with_reducible repeat' first
    | (intro _) | assumption | (exact subP_trans (by decide) hT) | apply within_addrHit | split | dsimp only

theorem tidy_execBrkDrainComplete (q : List Instr) (s : State) (h1 : Tidy q s) : ∃ z, execBrkDrainComplete s = .next z
    ∧ Tidy q z := by
  refine ⟨_, rfl, ?_⟩
  with_reducible repeat' first
    | (intro _) | assumption | apply tidy_drainComplete | (simp only [tidy_mk]; apply tidy_back) | split | dsimp only

theorem within_execBrkDrainComplete (T : List Part) (orig : State) (hT : subP [.od, .dom, .obs, .frz] T = true) (s :
    State) (h1 : Within T orig s) : ∃ z, execBrkDrainComplete s = .next z ∧ Within T orig z := by
  refine ⟨_, rfl, ?_⟩
  with_reducible repeat' first
    | (intro _) | assumption | (exact subP_trans (by decide) hT) | apply within_drainComplete | split | dsimp only

theorem tidy_execBrkDrainTimeout (q : List Instr) (s : State) (h1 : Tidy q s) : ∃ z, execBrkDrainTimeout s = .next z ∧
    Tidy q z := by
  refine ⟨_, rfl, ?_⟩
  with_reducible repeat' first
    | (intro _) | assumption | apply tidy_drainLate | (simp only [tidy_mk]; apply tidy_back) | split | dsimp only

theorem within_execBrkDrainTimeout (T : List Part) (orig : State) (hT : subP [.od, .freeCtr, .mem, .ecc, .tiles,
    .mesh, .graphs, .cmds, .rem, .flt, .meas, .obs, .log, .frz] T = true) (s : State) (h1 : Within T orig s) : ∃ z,
    execBrkDrainTimeout s = .next z ∧ Within T orig z := by
  refine ⟨_, rfl, ?_⟩
  with_reducible repeat' first
    | (intro _) | assumption | (exact subP_trans (by decide) hT) | apply within_drainLate | split | dsimp only

theorem tidy_execBrkResume (q : List Instr) (path : Fin 4) (v : Nat) (s : State) (h1 : Tidy q s) : ∃ z, execBrkResume
    path v s = .next z ∧ Tidy q z := by
  refine ⟨_, rfl, ?_⟩
  with_reducible repeat' first
    | (intro _) | assumption | apply tidy_namedWrite | apply tidy_wBrkResume | (apply tidyPair_of; assumption)
    | (simp only [tidy_mk]; apply tidy_back) | split | dsimp only

theorem within_execBrkResume (T : List Part) (orig : State) (hT : subP [.od, .resp, .freeCtr, .mem, .ecc, .tiles,
    .mesh, .graphs, .cmds, .rem, .flt, .meas, .obs, .log, .frz] T = true) (path : Fin 4) (v : Nat) (s : State) (h1 :
    Within T orig s) : ∃ z, execBrkResume path v s = .next z ∧ Within T orig z := by
  refine ⟨_, rfl, ?_⟩
  with_reducible repeat' first
    | (intro _) | assumption | (exact subP_trans (by decide) hT) | apply within_namedWrite | apply within_wBrkResume
    | (apply withinPair_of; assumption) | split | dsimp only

theorem tidy_execHeldBreakTakeUp (q : List Instr) (s : State) (h1 : Tidy q s) : ∃ z, execHeldBreakTakeUp s = .next z ∧
    Tidy q z := by
  refine ⟨_, rfl, ?_⟩
  with_reducible repeat' first
    | (intro _) | assumption | apply tidy_takeUpBreak | (simp only [tidy_mk]; apply tidy_back) | split | dsimp only

theorem within_execHeldBreakTakeUp (T : List Part) (orig : State) (hT : subP [.od, .dom, .obs, .frz] T = true) (s :
    State) (h1 : Within T orig s) : ∃ z, execHeldBreakTakeUp s = .next z ∧ Within T orig z := by
  refine ⟨_, rfl, ?_⟩
  with_reducible repeat' first
    | (intro _) | assumption | (exact subP_trans (by decide) hT) | apply within_takeUpBreak | split | dsimp only

theorem tidy_execHangDetected (q : List Instr) (h : Nat) (s : State) (h1 : Tidy q s) : ∃ z, execHangDetected h s =
    .next z ∧ Tidy q z := by
  refine ⟨_, rfl, ?_⟩
  with_reducible repeat' first
    | (intro _) | assumption | apply tidy_hang | (simp only [tidy_mk]; apply tidy_back) | split | dsimp only

theorem within_execHangDetected (T : List Part) (orig : State) (hT : subP [.od, .graphs, .obs, .log, .frz] T = true)
    (h : Nat) (s : State) (h1 : Within T orig s) : ∃ z, execHangDetected h s = .next z ∧ Within T orig z := by
  refine ⟨_, rfl, ?_⟩
  with_reducible repeat' first
    | (intro _) | assumption | (exact subP_trans (by decide) hT) | apply within_hang | split | dsimp only

theorem tidy_execWfgRequest (q : List Instr) (path : Fin 4) (h : Nat) (s : State) (h1 : Tidy q s) : ∃ z,
    execWfgRequest path h s = .next z ∧ Tidy q z := by
  refine ⟨_, rfl, ?_⟩
  with_reducible repeat' first
    | (intro _) | assumption | apply tidy_namedWrite | apply tidy_wWfgRequest | (apply tidyPair_of; assumption)
    | (simp only [tidy_mk]; apply tidy_back) | split | dsimp only

theorem within_execWfgRequest (T : List Part) (orig : State) (hT : subP [.od, .resp, .obs] T = true) (path : Fin 4) (h
    : Nat) (s : State) (h1 : Within T orig s) : ∃ z, execWfgRequest path h s = .next z ∧ Within T orig z := by
  refine ⟨_, rfl, ?_⟩
  with_reducible repeat' first
    | (intro _) | assumption | (exact subP_trans (by decide) hT) | apply within_namedWrite | apply within_wWfgRequest
    | (apply withinPair_of; assumption) | split | dsimp only

theorem tidy_execWfgSecondRead (q : List Instr) (s : State) (h1 : Tidy q s) : ∃ z, execWfgSecondRead s = .next z ∧
    Tidy q z := by
  refine ⟨_, rfl, ?_⟩
  with_reducible repeat' first
    | (intro _) | assumption | apply tidy_wfgSecond | (simp only [tidy_mk]; apply tidy_back) | split | dsimp only

theorem within_execWfgSecondRead (T : List Part) (orig : State) (hT : subP [.od, .dom, .obs] T = true) (s : State) (h1
    : Within T orig s) : ∃ z, execWfgSecondRead s = .next z ∧ Within T orig z := by
  refine ⟨_, rfl, ?_⟩
  with_reducible repeat' first
    | (intro _) | assumption | (exact subP_trans (by decide) hT) | apply within_wfgSecond | split | dsimp only

theorem tidy_execOpcSelectWrite (q : List Instr) (path : Fin 4) (i : Fin 16) (v : Nat) (s : State) (h1 : Tidy q s) : ∃
    z, execOpcSelectWrite path i v s = .next z ∧ Tidy q z := by
  refine ⟨_, rfl, ?_⟩
  with_reducible repeat' first
    | (intro _) | assumption | apply tidy_namedWrite | apply tidy_wOpc | (apply tidyPair_of; assumption)
    | (simp only [tidy_mk]; apply tidy_back) | split | dsimp only

theorem within_execOpcSelectWrite (T : List Part) (orig : State) (hT : subP [.od, .resp, .flt] T = true) (path : Fin
    4) (i : Fin 16) (v : Nat) (s : State) (h1 : Within T orig s) : ∃ z, execOpcSelectWrite path i v s = .next z ∧
    Within T orig z := by
  refine ⟨_, rfl, ?_⟩
  with_reducible repeat' first
    | (intro _) | assumption | (exact subP_trans (by decide) hT) | apply within_namedWrite | apply within_wOpc
    | (apply withinPair_of; assumption) | split | dsimp only

end Sys2Proof.Machine
end

