-- ==== Sys2Proof/Laws/CommandRemote.lean ====
section
/-! SUPPORT. Every command completes, keeps memory canonical and the queue as it is, and changes no part of the state but
those it may touch: remote operations, collectives, the commands and the host interface. -/
namespace Sys2Proof.Machine
open Sys2Proof

theorem tidy_execRobFetch (q : List Instr) (t : TileId) (oq : Fin 16) (k : Fin 4) (s : State) (h1 : Tidy q s) : ∃ z,
    execRobFetch t oq k s = .next z ∧ Tidy q z := by
  refine ⟨_, rfl, ?_⟩
  with_reducible repeat' first
    | (intro _) | assumption | apply tidy_robFetch | (simp only [tidy_mk]; apply tidy_back) | split | dsimp only

theorem within_execRobFetch (T : List Part) (orig : State) (hT : subP [.od, .out, .freeCtr, .mem, .ecc, .tiles, .mesh,
    .graphs, .cmds, .fab, .rem, .obs, .log, .frz, .can] T = true) (t : TileId) (oq : Fin 16) (k : Fin 4) (s : State)
    (h1 : Within T orig s) : ∃ z, execRobFetch t oq k s = .next z ∧ Within T orig z := by
  refine ⟨_, rfl, ?_⟩
  with_reducible repeat' first
    | (intro _) | assumption | (exact subP_trans (by decide) hT) | apply within_robFetch | split | dsimp only

theorem tidy_execRd (q : List Instr) (s : State) (h1 : Tidy q s) : ∃ z, execRd s = .next z ∧ Tidy q z := by
  refine ⟨_, rfl, ?_⟩
  with_reducible repeat' first
    | (intro _) | assumption | apply tidy_serve | apply tidy_serveRd | apply tidyRes_ok | apply tidyRes_ue
    | (apply tidyServe_of; assumption) | (apply tidyServe_ofUe; assumption) | (simp only [tidy_mk]; apply tidy_back)
    | split | dsimp only

theorem within_execRd (T : List Part) (orig : State) (hT : subP [.od, .out, .ecc, .fab, .obs, .log, .frz, .can] T =
    true) (s : State) (h1 : Within T orig s) : ∃ z, execRd s = .next z ∧ Within T orig z := by
  refine ⟨_, rfl, ?_⟩
  with_reducible repeat' first
    | (intro _) | assumption | (exact subP_trans (by decide) hT) | apply within_serve | apply within_serveRd
    | apply withinRes_ok | apply withinRes_ue | (apply withinServe_of; assumption)
    | (apply withinServe_ofUe; assumption) | split | dsimp only

theorem tidy_execWr (q : List Instr) (s : State) (h1 : Tidy q s) : ∃ z, execWr s = .next z ∧ Tidy q z := by
  refine ⟨_, rfl, ?_⟩
  with_reducible repeat' first
    | (intro _) | assumption | apply tidy_serve | apply tidy_serveWr | apply tidyRes_ok | apply tidyRes_ue
    | (apply tidyServe_of; assumption) | (apply tidyServe_ofUe; assumption) | (simp only [tidy_mk]; apply tidy_back)
    | split | dsimp only

theorem within_execWr (T : List Part) (orig : State) (hT : subP [.od, .out, .mem, .ecc, .fab, .obs, .log, .frz, .can]
    T = true) (s : State) (h1 : Within T orig s) : ∃ z, execWr s = .next z ∧ Within T orig z := by
  refine ⟨_, rfl, ?_⟩
  with_reducible repeat' first
    | (intro _) | assumption | (exact subP_trans (by decide) hT) | apply within_serve | apply within_serveWr
    | apply withinRes_ok | apply withinRes_ue | (apply withinServe_of; assumption)
    | (apply withinServe_ofUe; assumption) | split | dsimp only

theorem tidy_execAtAdd (q : List Instr) (s : State) (h1 : Tidy q s) : ∃ z, execAtAdd s = .next z ∧ Tidy q z := by
  refine ⟨_, rfl, ?_⟩
  with_reducible repeat' first
    | (intro _) | assumption | apply tidy_serve | apply tidy_serveAt | apply tidyRes_ok | apply tidyRes_ue
    | (apply tidyServe_of; assumption) | (apply tidyServe_ofUe; assumption) | (simp only [tidy_mk]; apply tidy_back)
    | split | dsimp only

theorem within_execAtAdd (T : List Part) (orig : State) (hT : subP [.od, .out, .mem, .ecc, .fab, .obs, .log, .frz,
    .can] T = true) (s : State) (h1 : Within T orig s) : ∃ z, execAtAdd s = .next z ∧ Within T orig z := by
  refine ⟨_, rfl, ?_⟩
  with_reducible repeat' first
    | (intro _) | assumption | (exact subP_trans (by decide) hT) | apply within_serve | apply within_serveAt
    | apply withinRes_ok | apply withinRes_ue | (apply withinServe_of; assumption)
    | (apply withinServe_ofUe; assumption) | split | dsimp only

theorem tidy_execAtAnd (q : List Instr) (s : State) (h1 : Tidy q s) : ∃ z, execAtAnd s = .next z ∧ Tidy q z := by
  refine ⟨_, rfl, ?_⟩
  with_reducible repeat' first
    | (intro _) | assumption | apply tidy_serve | apply tidy_serveAt | apply tidyRes_ok | apply tidyRes_ue
    | (apply tidyServe_of; assumption) | (apply tidyServe_ofUe; assumption) | (simp only [tidy_mk]; apply tidy_back)
    | split | dsimp only

theorem within_execAtAnd (T : List Part) (orig : State) (hT : subP [.od, .out, .mem, .ecc, .fab, .obs, .log, .frz,
    .can] T = true) (s : State) (h1 : Within T orig s) : ∃ z, execAtAnd s = .next z ∧ Within T orig z := by
  refine ⟨_, rfl, ?_⟩
  with_reducible repeat' first
    | (intro _) | assumption | (exact subP_trans (by decide) hT) | apply within_serve | apply within_serveAt
    | apply withinRes_ok | apply withinRes_ue | (apply withinServe_of; assumption)
    | (apply withinServe_ofUe; assumption) | split | dsimp only

theorem tidy_execAtOr (q : List Instr) (s : State) (h1 : Tidy q s) : ∃ z, execAtOr s = .next z ∧ Tidy q z := by
  refine ⟨_, rfl, ?_⟩
  with_reducible repeat' first
    | (intro _) | assumption | apply tidy_serve | apply tidy_serveAt | apply tidyRes_ok | apply tidyRes_ue
    | (apply tidyServe_of; assumption) | (apply tidyServe_ofUe; assumption) | (simp only [tidy_mk]; apply tidy_back)
    | split | dsimp only

theorem within_execAtOr (T : List Part) (orig : State) (hT : subP [.od, .out, .mem, .ecc, .fab, .obs, .log, .frz,
    .can] T = true) (s : State) (h1 : Within T orig s) : ∃ z, execAtOr s = .next z ∧ Within T orig z := by
  refine ⟨_, rfl, ?_⟩
  with_reducible repeat' first
    | (intro _) | assumption | (exact subP_trans (by decide) hT) | apply within_serve | apply within_serveAt
    | apply withinRes_ok | apply withinRes_ue | (apply withinServe_of; assumption)
    | (apply withinServe_ofUe; assumption) | split | dsimp only

theorem tidy_execAtXor (q : List Instr) (s : State) (h1 : Tidy q s) : ∃ z, execAtXor s = .next z ∧ Tidy q z := by
  refine ⟨_, rfl, ?_⟩
  with_reducible repeat' first
    | (intro _) | assumption | apply tidy_serve | apply tidy_serveAt | apply tidyRes_ok | apply tidyRes_ue
    | (apply tidyServe_of; assumption) | (apply tidyServe_ofUe; assumption) | (simp only [tidy_mk]; apply tidy_back)
    | split | dsimp only

theorem within_execAtXor (T : List Part) (orig : State) (hT : subP [.od, .out, .mem, .ecc, .fab, .obs, .log, .frz,
    .can] T = true) (s : State) (h1 : Within T orig s) : ∃ z, execAtXor s = .next z ∧ Within T orig z := by
  refine ⟨_, rfl, ?_⟩
  with_reducible repeat' first
    | (intro _) | assumption | (exact subP_trans (by decide) hT) | apply within_serve | apply within_serveAt
    | apply withinRes_ok | apply withinRes_ue | (apply withinServe_of; assumption)
    | (apply withinServe_ofUe; assumption) | split | dsimp only

theorem tidy_execAtMin (q : List Instr) (s : State) (h1 : Tidy q s) : ∃ z, execAtMin s = .next z ∧ Tidy q z := by
  refine ⟨_, rfl, ?_⟩
  with_reducible repeat' first
    | (intro _) | assumption | apply tidy_serve | apply tidy_serveAt | apply tidyRes_ok | apply tidyRes_ue
    | (apply tidyServe_of; assumption) | (apply tidyServe_ofUe; assumption) | (simp only [tidy_mk]; apply tidy_back)
    | split | dsimp only

theorem within_execAtMin (T : List Part) (orig : State) (hT : subP [.od, .out, .mem, .ecc, .fab, .obs, .log, .frz,
    .can] T = true) (s : State) (h1 : Within T orig s) : ∃ z, execAtMin s = .next z ∧ Within T orig z := by
  refine ⟨_, rfl, ?_⟩
  with_reducible repeat' first
    | (intro _) | assumption | (exact subP_trans (by decide) hT) | apply within_serve | apply within_serveAt
    | apply withinRes_ok | apply withinRes_ue | (apply withinServe_of; assumption)
    | (apply withinServe_ofUe; assumption) | split | dsimp only

theorem tidy_execAtMax (q : List Instr) (s : State) (h1 : Tidy q s) : ∃ z, execAtMax s = .next z ∧ Tidy q z := by
  refine ⟨_, rfl, ?_⟩
  with_reducible repeat' first
    | (intro _) | assumption | apply tidy_serve | apply tidy_serveAt | apply tidyRes_ok | apply tidyRes_ue
    | (apply tidyServe_of; assumption) | (apply tidyServe_ofUe; assumption) | (simp only [tidy_mk]; apply tidy_back)
    | split | dsimp only

theorem within_execAtMax (T : List Part) (orig : State) (hT : subP [.od, .out, .mem, .ecc, .fab, .obs, .log, .frz,
    .can] T = true) (s : State) (h1 : Within T orig s) : ∃ z, execAtMax s = .next z ∧ Within T orig z := by
  refine ⟨_, rfl, ?_⟩
  with_reducible repeat' first
    | (intro _) | assumption | (exact subP_trans (by decide) hT) | apply within_serve | apply within_serveAt
    | apply withinRes_ok | apply withinRes_ue | (apply withinServe_of; assumption)
    | (apply withinServe_ofUe; assumption) | split | dsimp only

theorem tidy_execAtSwap (q : List Instr) (s : State) (h1 : Tidy q s) : ∃ z, execAtSwap s = .next z ∧ Tidy q z := by
  refine ⟨_, rfl, ?_⟩
  with_reducible repeat' first
    | (intro _) | assumption | apply tidy_serve | apply tidy_serveAt | apply tidyRes_ok | apply tidyRes_ue
    | (apply tidyServe_of; assumption) | (apply tidyServe_ofUe; assumption) | (simp only [tidy_mk]; apply tidy_back)
    | split | dsimp only

theorem within_execAtSwap (T : List Part) (orig : State) (hT : subP [.od, .out, .mem, .ecc, .fab, .obs, .log, .frz,
    .can] T = true) (s : State) (h1 : Within T orig s) : ∃ z, execAtSwap s = .next z ∧ Within T orig z := by
  refine ⟨_, rfl, ?_⟩
  with_reducible repeat' first
    | (intro _) | assumption | (exact subP_trans (by decide) hT) | apply within_serve | apply within_serveAt
    | apply withinRes_ok | apply withinRes_ue | (apply withinServe_of; assumption)
    | (apply withinServe_ofUe; assumption) | split | dsimp only

theorem tidy_execAtCas (q : List Instr) (s : State) (h1 : Tidy q s) : ∃ z, execAtCas s = .next z ∧ Tidy q z := by
  refine ⟨_, rfl, ?_⟩
  with_reducible repeat' first
    | (intro _) | assumption | apply tidy_serve | apply tidy_serveAt | apply tidyRes_ok | apply tidyRes_ue
    | (apply tidyServe_of; assumption) | (apply tidyServe_ofUe; assumption) | (simp only [tidy_mk]; apply tidy_back)
    | split | dsimp only

theorem within_execAtCas (T : List Part) (orig : State) (hT : subP [.od, .out, .mem, .ecc, .fab, .obs, .log, .frz,
    .can] T = true) (s : State) (h1 : Within T orig s) : ∃ z, execAtCas s = .next z ∧ Within T orig z := by
  refine ⟨_, rfl, ?_⟩
  with_reducible repeat' first
    | (intro _) | assumption | (exact subP_trans (by decide) hT) | apply within_serve | apply within_serveAt
    | apply withinRes_ok | apply withinRes_ue | (apply withinServe_of; assumption)
    | (apply withinServe_ofUe; assumption) | split | dsimp only

theorem tidy_execRemoteEaadd (q : List Instr) (s : State) (h1 : Tidy q s) : ∃ z, execRemoteEaadd s = .next z ∧ Tidy q
    z := by
  refine ⟨_, rfl, ?_⟩
  with_reducible repeat' first
    | (intro _) | assumption | apply tidy_remoteEaadd | (simp only [tidy_mk]; apply tidy_back) | split | dsimp only

theorem within_execRemoteEaadd (T : List Part) (orig : State) (hT : subP [.od, .out, .mem, .ecc, .graphs, .fab, .rem,
    .obs, .log, .frz, .can] T = true) (s : State) (h1 : Within T orig s) : ∃ z, execRemoteEaadd s = .next z ∧ Within T
    orig z := by
  refine ⟨_, rfl, ?_⟩
  with_reducible repeat' first
    | (intro _) | assumption | (exact subP_trans (by decide) hT) | apply within_remoteEaadd | split | dsimp only

theorem tidy_execRemoteHprobe (q : List Instr) (s : State) (h1 : Tidy q s) : ∃ z, execRemoteHprobe s = .next z ∧ Tidy
    q z := by
  refine ⟨_, rfl, ?_⟩
  with_reducible repeat' first
    | (intro _) | assumption | apply tidy_serve | apply tidy_serveHash | apply tidyRes_ok | apply tidyRes_ue
    | (apply tidyServe_of; assumption) | (apply tidyServe_ofUe; assumption) | (simp only [tidy_mk]; apply tidy_back)
    | split | dsimp only

theorem within_execRemoteHprobe (T : List Part) (orig : State) (hT : subP [.od, .out, .freeCtr, .mem, .ecc, .fab,
    .obs, .log, .frz, .can] T = true) (s : State) (h1 : Within T orig s) : ∃ z, execRemoteHprobe s = .next z ∧ Within
    T orig z := by
  refine ⟨_, rfl, ?_⟩
  with_reducible repeat' first
    | (intro _) | assumption | (exact subP_trans (by decide) hT) | apply within_serve | apply within_serveHash
    | apply withinRes_ok | apply withinRes_ue | (apply withinServe_of; assumption)
    | (apply withinServe_ofUe; assumption) | split | dsimp only

theorem tidy_execRemoteHinsert (q : List Instr) (s : State) (h1 : Tidy q s) : ∃ z, execRemoteHinsert s = .next z ∧
    Tidy q z := by
  refine ⟨_, rfl, ?_⟩
  with_reducible repeat' first
    | (intro _) | assumption | apply tidy_serve | apply tidy_serveHash | apply tidyRes_ok | apply tidyRes_ue
    | (apply tidyServe_of; assumption) | (apply tidyServe_ofUe; assumption) | (simp only [tidy_mk]; apply tidy_back)
    | split | dsimp only

theorem within_execRemoteHinsert (T : List Part) (orig : State) (hT : subP [.od, .out, .freeCtr, .mem, .ecc, .fab,
    .obs, .log, .frz, .can] T = true) (s : State) (h1 : Within T orig s) : ∃ z, execRemoteHinsert s = .next z ∧ Within
    T orig z := by
  refine ⟨_, rfl, ?_⟩
  with_reducible repeat' first
    | (intro _) | assumption | (exact subP_trans (by decide) hT) | apply within_serve | apply within_serveHash
    | apply withinRes_ok | apply withinRes_ue | (apply withinServe_of; assumption)
    | (apply withinServe_ofUe; assumption) | split | dsimp only

theorem tidy_execCollStep (q : List Instr) (s : State) (h1 : Tidy q s) : ∃ z, execCollStep s = .next z ∧ Tidy q z :=
    by
  refine ⟨_, rfl, ?_⟩
  with_reducible repeat' first
    | (intro _) | assumption | apply tidy_collStep | (simp only [tidy_mk]; apply tidy_back) | split | dsimp only

theorem within_execCollStep (T : List Part) (orig : State) (hT : subP [.od, .out, .freeCtr, .mem, .ecc, .graphs,
    .cmds, .fab, .rem, .obs, .log, .frz, .can] T = true) (s : State) (h1 : Within T orig s) : ∃ z, execCollStep s =
    .next z ∧ Within T orig z := by
  refine ⟨_, rfl, ?_⟩
  with_reducible repeat' first
    | (intro _) | assumption | (exact subP_trans (by decide) hT) | apply within_collStep | split | dsimp only

theorem tidy_execPace (q : List Instr) (s : State) (h1 : Tidy q s) : ∃ z, execPace s = .next z ∧ Tidy q z := by
  refine ⟨_, rfl, ?_⟩
  with_reducible repeat' first
    | (intro _) | assumption | apply tidy_withPacket | apply tidy_paceIn | (simp only [tidy_mk]; apply tidy_back)
    | split | dsimp only

theorem within_execPace (T : List Part) (orig : State) (hT : subP [.od, .fab, .rem, .obs, .frz] T = true) (s : State)
    (h1 : Within T orig s) : ∃ z, execPace s = .next z ∧ Within T orig z := by
  refine ⟨_, rfl, ?_⟩
  with_reducible repeat' first
    | (intro _) | assumption | (exact subP_trans (by decide) hT) | apply within_withPacket | apply within_paceIn
    | split | dsimp only

theorem tidy_execDiscard (q : List Instr) (s : State) (h1 : Tidy q s) : ∃ z, execDiscard s = .next z ∧ Tidy q z := by
  refine ⟨_, rfl, ?_⟩
  with_reducible repeat' first
    | (intro _) | assumption | apply tidy_withPacket | apply tidy_discardIn | (simp only [tidy_mk]; apply tidy_back)
    | split | dsimp only

theorem within_execDiscard (T : List Part) (orig : State) (hT : subP [.od, .out, .freeCtr, .mem, .ecc, .tiles,
    .graphs, .cmds, .fab, .rem, .obs, .log, .frz, .can] T = true) (s : State) (h1 : Within T orig s) : ∃ z,
    execDiscard s = .next z ∧ Within T orig z := by
  refine ⟨_, rfl, ?_⟩
  with_reducible repeat' first
    | (intro _) | assumption | (exact subP_trans (by decide) hT) | apply within_withPacket | apply within_discardIn
    | split | dsimp only

theorem tidy_execRdRsp (q : List Instr) (s : State) (h1 : Tidy q s) : ∃ z, execRdRsp s = .next z ∧ Tidy q z := by
  refine ⟨_, rfl, ?_⟩
  with_reducible repeat' first
    | (intro _) | assumption | apply tidy_withPacket | apply tidy_rdRsp | (simp only [tidy_mk]; apply tidy_back)
    | split | dsimp only

theorem within_execRdRsp (T : List Part) (orig : State) (hT : subP [.od, .out, .freeCtr, .mem, .ecc, .tiles, .graphs,
    .cmds, .fab, .rem, .obs, .log, .frz, .can] T = true) (s : State) (h1 : Within T orig s) : ∃ z, execRdRsp s = .next
    z ∧ Within T orig z := by
  refine ⟨_, rfl, ?_⟩
  with_reducible repeat' first
    | (intro _) | assumption | (exact subP_trans (by decide) hT) | apply within_withPacket | apply within_rdRsp
    | split | dsimp only

theorem tidy_execWrAck (q : List Instr) (s : State) (h1 : Tidy q s) : ∃ z, execWrAck s = .next z ∧ Tidy q z := by
  refine ⟨_, rfl, ?_⟩
  with_reducible repeat' first
    | (intro _) | assumption | apply tidy_withPacket | apply tidy_wrAck | (simp only [tidy_mk]; apply tidy_back)
    | split | dsimp only

theorem within_execWrAck (T : List Part) (orig : State) (hT : subP [.od, .out, .freeCtr, .mem, .ecc, .tiles, .graphs,
    .cmds, .fab, .rem, .obs, .log, .frz, .can] T = true) (s : State) (h1 : Within T orig s) : ∃ z, execWrAck s = .next
    z ∧ Within T orig z := by
  refine ⟨_, rfl, ?_⟩
  with_reducible repeat' first
    | (intro _) | assumption | (exact subP_trans (by decide) hT) | apply within_withPacket | apply within_wrAck
    | split | dsimp only

theorem tidy_execAtRsp (q : List Instr) (s : State) (h1 : Tidy q s) : ∃ z, execAtRsp s = .next z ∧ Tidy q z := by
  refine ⟨_, rfl, ?_⟩
  with_reducible repeat' first
    | (intro _) | assumption | apply tidy_withPacket | apply tidy_atRsp | (simp only [tidy_mk]; apply tidy_back)
    | split | dsimp only

theorem within_execAtRsp (T : List Part) (orig : State) (hT : subP [.od, .out, .freeCtr, .mem, .ecc, .tiles, .graphs,
    .cmds, .fab, .rem, .obs, .log, .frz, .can] T = true) (s : State) (h1 : Within T orig s) : ∃ z, execAtRsp s = .next
    z ∧ Within T orig z := by
  refine ⟨_, rfl, ?_⟩
  with_reducible repeat' first
    | (intro _) | assumption | (exact subP_trans (by decide) hT) | apply within_withPacket | apply within_atRsp
    | split | dsimp only

theorem tidy_execEaAck (q : List Instr) (s : State) (h1 : Tidy q s) : ∃ z, execEaAck s = .next z ∧ Tidy q z := by
  refine ⟨_, rfl, ?_⟩
  with_reducible repeat' first
    | (intro _) | assumption | apply tidy_withPacket | apply tidy_eaAck | (simp only [tidy_mk]; apply tidy_back)
    | split | dsimp only

theorem within_execEaAck (T : List Part) (orig : State) (hT : subP [.od, .out, .freeCtr, .mem, .ecc, .tiles, .graphs,
    .cmds, .fab, .rem, .obs, .log, .frz, .can] T = true) (s : State) (h1 : Within T orig s) : ∃ z, execEaAck s = .next
    z ∧ Within T orig z := by
  refine ⟨_, rfl, ?_⟩
  with_reducible repeat' first
    | (intro _) | assumption | (exact subP_trans (by decide) hT) | apply within_withPacket | apply within_eaAck
    | split | dsimp only

theorem tidy_execHtRsp (q : List Instr) (s : State) (h1 : Tidy q s) : ∃ z, execHtRsp s = .next z ∧ Tidy q z := by
  refine ⟨_, rfl, ?_⟩
  with_reducible repeat' first
    | (intro _) | assumption | apply tidy_withPacket | apply tidy_htRsp | (simp only [tidy_mk]; apply tidy_back)
    | split | dsimp only

theorem within_execHtRsp (T : List Part) (orig : State) (hT : subP [.od, .out, .freeCtr, .mem, .ecc, .tiles, .graphs,
    .cmds, .fab, .rem, .obs, .log, .frz, .can] T = true) (s : State) (h1 : Within T orig s) : ∃ z, execHtRsp s = .next
    z ∧ Within T orig z := by
  refine ⟨_, rfl, ?_⟩
  with_reducible repeat' first
    | (intro _) | assumption | (exact subP_trans (by decide) hT) | apply within_withPacket | apply within_htRsp
    | split | dsimp only

theorem tidy_execRemoteTimeout (q : List Instr) (fe : Fin 16) (tag : Fin 4096) (s : State) (h1 : Tidy q s) : ∃ z,
    execRemoteTimeout fe tag s = .next z ∧ Tidy q z := by
  refine ⟨_, rfl, ?_⟩
  with_reducible repeat' first
    | (intro _) | assumption | apply tidy_remoteTimeoutAt | (simp only [tidy_mk]; apply tidy_back) | split
    | dsimp only

theorem within_execRemoteTimeout (T : List Part) (orig : State) (hT : subP [.od, .out, .freeCtr, .mem, .ecc, .tiles,
    .graphs, .cmds, .fab, .rem, .obs, .log, .frz, .can] T = true) (fe : Fin 16) (tag : Fin 4096) (s : State) (h1 :
    Within T orig s) : ∃ z, execRemoteTimeout fe tag s = .next z ∧ Within T orig z := by
  refine ⟨_, rfl, ?_⟩
  with_reducible repeat' first
    | (intro _) | assumption | (exact subP_trans (by decide) hT) | apply within_remoteTimeoutAt | split | dsimp only

theorem tidy_execEaSlotFlush (q : List Instr) (a : Nat) (s : State) (h1 : Tidy q s) : ∃ z, execEaSlotFlush a s = .next
    z ∧ Tidy q z := by
  refine ⟨_, rfl, ?_⟩
  with_reducible repeat' first
    | (intro _) | assumption | apply tidy_slotFlush | (simp only [tidy_mk]; apply tidy_back) | split | dsimp only

theorem within_execEaSlotFlush (T : List Part) (orig : State) (hT : subP [.od, .out, .mem, .ecc, .graphs, .fab, .rem,
    .obs, .log, .frz, .can] T = true) (a : Nat) (s : State) (h1 : Within T orig s) : ∃ z, execEaSlotFlush a s = .next
    z ∧ Within T orig z := by
  refine ⟨_, rfl, ?_⟩
  with_reducible repeat' first
    | (intro _) | assumption | (exact subP_trans (by decide) hT) | apply within_slotFlush | split | dsimp only

theorem tidy_execMemberRevive (q : List Instr) (path : Fin 4) (v : Nat) (s : State) (h1 : Tidy q s) : ∃ z,
    execMemberRevive path v s = .next z ∧ Tidy q z := by
  refine ⟨_, rfl, ?_⟩
  with_reducible repeat' first
    | (intro _) | assumption | apply tidy_namedWrite | apply tidy_wMemberRevive | (apply tidyPair_of; assumption)
    | (simp only [tidy_mk]; apply tidy_back) | split | dsimp only

theorem within_execMemberRevive (T : List Part) (orig : State) (hT : subP [.od, .resp, .rem] T = true) (path : Fin 4)
    (v : Nat) (s : State) (h1 : Within T orig s) : ∃ z, execMemberRevive path v s = .next z ∧ Within T orig z := by
  refine ⟨_, rfl, ?_⟩
  with_reducible repeat' first
    | (intro _) | assumption | (exact subP_trans (by decide) hT) | apply within_namedWrite
    | apply within_wMemberRevive | (apply withinPair_of; assumption) | split | dsimp only

theorem tidy_execCollTimeout (q : List Instr) (id : Fin 65536) (mask : Fin 65536) (s : State) (h1 : Tidy q s) : ∃ z,
    execCollTimeout id mask s = .next z ∧ Tidy q z := by
  refine ⟨_, rfl, ?_⟩
  with_reducible repeat' first
    | (intro _) | assumption | apply tidy_collTimeout | (simp only [tidy_mk]; apply tidy_back) | split | dsimp only

theorem within_execCollTimeout (T : List Part) (orig : State) (hT : subP [.freeCtr, .mem, .graphs, .cmds, .rem] T =
    true) (id : Fin 65536) (mask : Fin 65536) (s : State) (h1 : Within T orig s) : ∃ z, execCollTimeout id mask s =
    .next z ∧ Within T orig z := by
  refine ⟨_, rfl, ?_⟩
  with_reducible repeat' first
    | (intro _) | assumption | (exact subP_trans (by decide) hT) | apply within_collTimeout | split | dsimp only

theorem tidy_execPaceSend (q : List Instr) (s : State) (h1 : Tidy q s) : ∃ z, execPaceSend s = .next z ∧ Tidy q z :=
    by
  refine ⟨_, rfl, ?_⟩
  with_reducible repeat' first
    | (intro _) | assumption | apply tidy_paceSend | (simp only [tidy_mk]; apply tidy_back) | split | dsimp only

theorem within_execPaceSend (T : List Part) (orig : State) (hT : subP [.od, .fab, .rem, .obs, .frz] T = true) (s :
    State) (h1 : Within T orig s) : ∃ z, execPaceSend s = .next z ∧ Within T orig z := by
  refine ⟨_, rfl, ?_⟩
  with_reducible repeat' first
    | (intro _) | assumption | (exact subP_trans (by decide) hT) | apply within_paceSend | split | dsimp only

theorem tidy_execPaceExpiry (q : List Instr) (origin : Fin 65536) (s : State) (h1 : Tidy q s) : ∃ z, execPaceExpiry
    origin s = .next z ∧ Tidy q z := by
  refine ⟨_, rfl, ?_⟩
  with_reducible repeat' first
    | (intro _) | assumption | apply tidy_paceExpiry | (simp only [tidy_mk]; apply tidy_back) | split | dsimp only

theorem within_execPaceExpiry (T : List Part) (orig : State) (hT : subP [.od, .rem] T = true) (origin : Fin 65536) (s
    : State) (h1 : Within T orig s) : ∃ z, execPaceExpiry origin s = .next z ∧ Within T orig z := by
  refine ⟨_, rfl, ?_⟩
  with_reducible repeat' first
    | (intro _) | assumption | (exact subP_trans (by decide) hT) | apply within_paceExpiry | split | dsimp only

theorem tidy_execFunctionLevelReset (q : List Instr) (s : State) (h1 : Tidy q s) : ∃ z, execFunctionLevelReset s =
    .next z ∧ Tidy q z := by
  refine ⟨_, rfl, ?_⟩
  with_reducible repeat' first
    | (intro _) | assumption | apply tidy_hostReset | apply tidy_ite | (simp only [tidy_mk]; apply tidy_back) | split
    | dsimp only

theorem within_execFunctionLevelReset (T : List Part) (orig : State) (hT : subP [.od, .freeCtr, .mem, .ecc, .tiles,
    .mesh, .graphs, .cmds, .hst, .rem, .flt, .obs, .log, .frz] T = true) (s : State) (h1 : Within T orig s) : ∃ z,
    execFunctionLevelReset s = .next z ∧ Within T orig z := by
  refine ⟨_, rfl, ?_⟩
  with_reducible repeat' first
    | (intro _) | assumption | (exact subP_trans (by decide) hT) | apply within_hostReset | apply within_ite | split
    | dsimp only

theorem tidy_execHotReset (q : List Instr) (s : State) (h1 : Tidy q s) : ∃ z, execHotReset s = .next z ∧ Tidy q z :=
    by
  refine ⟨_, rfl, ?_⟩
  with_reducible repeat' first
    | (intro _) | assumption | apply tidy_hostReset | apply tidy_ite | (simp only [tidy_mk]; apply tidy_back) | split
    | dsimp only

theorem within_execHotReset (T : List Part) (orig : State) (hT : subP [.od, .freeCtr, .mem, .ecc, .tiles, .mesh,
    .graphs, .cmds, .hst, .rem, .flt, .obs, .log, .frz] T = true) (s : State) (h1 : Within T orig s) : ∃ z,
    execHotReset s = .next z ∧ Within T orig z := by
  refine ⟨_, rfl, ?_⟩
  with_reducible repeat' first
    | (intro _) | assumption | (exact subP_trans (by decide) hT) | apply within_hostReset | apply within_ite | split
    | dsimp only

theorem tidy_execPcieLinkDown (q : List Instr) (s : State) (h1 : Tidy q s) : ∃ z, execPcieLinkDown s = .next z ∧ Tidy
    q z := by
  refine ⟨_, rfl, ?_⟩
  with_reducible repeat' first
    | (intro _) | assumption | apply tidy_pcieDown | (simp only [tidy_mk]; apply tidy_back) | split | dsimp only

theorem within_execPcieLinkDown (T : List Part) (orig : State) (hT : subP [.od, .freeCtr, .mem, .ecc, .tiles, .mesh,
    .graphs, .cmds, .hst, .rem, .flt, .obs, .log, .frz] T = true) (s : State) (h1 : Within T orig s) : ∃ z,
    execPcieLinkDown s = .next z ∧ Within T orig z := by
  refine ⟨_, rfl, ?_⟩
  with_reducible repeat' first
    | (intro _) | assumption | (exact subP_trans (by decide) hT) | apply within_pcieDown | split | dsimp only

theorem tidy_execPerstAssert (q : List Instr) (level : Bool) (s : State) (h1 : Tidy q s) : ∃ z, execPerstAssert level
    s = .next z ∧ Tidy q z := by
  refine ⟨_, rfl, ?_⟩
  with_reducible repeat' first
    | (intro _) | assumption | apply tidy_perst | (simp only [tidy_mk]; apply tidy_back) | split | dsimp only

theorem within_execPerstAssert (T : List Part) (orig : State) (hT : subP [.od, .freeCtr, .mem, .ecc, .tiles, .mesh,
    .graphs, .cmds, .hst, .rem, .flt, .obs, .log, .frz, .mod] T = true) (level : Bool) (s : State) (h1 : Within T orig
    s) : ∃ z, execPerstAssert level s = .next z ∧ Within T orig z := by
  refine ⟨_, rfl, ?_⟩
  with_reducible repeat' first
    | (intro _) | assumption | (exact subP_trans (by decide) hT) | apply within_perst | split | dsimp only

theorem tidy_execPcieD3hotEntry (q : List Instr) (s : State) (h1 : Tidy q s) : ∃ z, execPcieD3hotEntry s = .next z ∧
    Tidy q z := by
  refine ⟨_, rfl, ?_⟩
  with_reducible repeat' first
    | (intro _) | assumption | apply tidy_d3Entry | (simp only [tidy_mk]; apply tidy_back) | split | dsimp only

theorem within_execPcieD3hotEntry (T : List Part) (orig : State) (hT : subP [.hst] T = true) (s : State) (h1 : Within
    T orig s) : ∃ z, execPcieD3hotEntry s = .next z ∧ Within T orig z := by
  refine ⟨_, rfl, ?_⟩
  with_reducible repeat' first
    | (intro _) | assumption | (exact subP_trans (by decide) hT) | apply within_d3Entry | split | dsimp only

theorem tidy_execPcieD0Return (q : List Instr) (s : State) (h1 : Tidy q s) : ∃ z, execPcieD0Return s = .next z ∧ Tidy
    q z := by
  refine ⟨_, rfl, ?_⟩
  with_reducible repeat' first
    | (intro _) | assumption | apply tidy_d0Return | (simp only [tidy_mk]; apply tidy_back) | split | dsimp only

theorem within_execPcieD0Return (T : List Part) (orig : State) (hT : subP [.od, .out, .cmds, .hst] T = true) (s :
    State) (h1 : Within T orig s) : ∃ z, execPcieD0Return s = .next z ∧ Within T orig z := by
  refine ⟨_, rfl, ?_⟩
  with_reducible repeat' first
    | (intro _) | assumption | (exact subP_trans (by decide) hT) | apply within_d0Return | split | dsimp only

theorem tidy_execRingPoll (q : List Instr) (r : Fin 64) (p : PollIn) (s : State) (h1 : Tidy q s) : ∃ z, execRingPoll r
    p s = .next z ∧ Tidy q z := by
  refine ⟨_, rfl, ?_⟩
  with_reducible repeat' first
    | (intro _) | assumption | apply tidy_ringPoll | (simp only [tidy_mk]; apply tidy_back) | split | dsimp only

theorem within_execRingPoll (T : List Part) (orig : State) (hT : subP [.od, .out, .cmds, .hst] T = true) (r : Fin 64)
    (p : PollIn) (s : State) (h1 : Within T orig s) : ∃ z, execRingPoll r p s = .next z ∧ Within T orig z := by
  refine ⟨_, rfl, ?_⟩
  with_reducible repeat' first
    | (intro _) | assumption | (exact subP_trans (by decide) hT) | apply within_ringPoll | split | dsimp only

theorem tidy_execRingEnable (q : List Instr) (r : Fin 64) (fields : Fin 2147483648) (s : State) (h1 : Tidy q s) : ∃ z,
    execRingEnable r fields s = .next z ∧ Tidy q z := by
  refine ⟨_, rfl, ?_⟩
  with_reducible repeat' first
    | (intro _) | assumption | apply tidy_wRingCtl | apply tidy_pcieCount | apply tidy_ite
    | (simp only [tidy_mk]; apply tidy_back) | split | dsimp only

theorem within_execRingEnable (T : List Part) (orig : State) (hT : subP [.od, .out, .hst] T = true) (r : Fin 64)
    (fields : Fin 2147483648) (s : State) (h1 : Within T orig s) : ∃ z, execRingEnable r fields s = .next z ∧ Within T
    orig z := by
  refine ⟨_, rfl, ?_⟩
  with_reducible repeat' first
    | (intro _) | assumption | (exact subP_trans (by decide) hT) | apply within_wRingCtl | apply within_pcieCount
    | apply within_ite | split | dsimp only

theorem tidy_execRingDisable (q : List Instr) (r : Fin 64) (fields : Fin 2147483648) (s : State) (h1 : Tidy q s) : ∃
    z, execRingDisable r fields s = .next z ∧ Tidy q z := by
  refine ⟨_, rfl, ?_⟩
  with_reducible repeat' first
    | (intro _) | assumption | apply tidy_wRingCtl | apply tidy_pcieCount | apply tidy_ite
    | (simp only [tidy_mk]; apply tidy_back) | split | dsimp only

theorem within_execRingDisable (T : List Part) (orig : State) (hT : subP [.od, .out, .hst] T = true) (r : Fin 64)
    (fields : Fin 2147483648) (s : State) (h1 : Within T orig s) : ∃ z, execRingDisable r fields s = .next z ∧ Within
    T orig z := by
  refine ⟨_, rfl, ?_⟩
  with_reducible repeat' first
    | (intro _) | assumption | (exact subP_trans (by decide) hT) | apply within_wRingCtl | apply within_pcieCount
    | apply within_ite | split | dsimp only

theorem tidy_execCqEnable (q : List Instr) (c : Fin 64) (fields : Fin 9223372036854775808) (s : State) (h1 : Tidy q s)
    : ∃ z, execCqEnable c fields s = .next z ∧ Tidy q z := by
  refine ⟨_, rfl, ?_⟩
  with_reducible repeat' first
    | (intro _) | assumption | apply tidy_wCqCtl | apply tidy_pcieCount | apply tidy_ite
    | (simp only [tidy_mk]; apply tidy_back) | split | dsimp only

theorem within_execCqEnable (T : List Part) (orig : State) (hT : subP [.od, .hst] T = true) (c : Fin 64) (fields : Fin
    9223372036854775808) (s : State) (h1 : Within T orig s) : ∃ z, execCqEnable c fields s = .next z ∧ Within T orig z
    := by
  refine ⟨_, rfl, ?_⟩
  with_reducible repeat' first
    | (intro _) | assumption | (exact subP_trans (by decide) hT) | apply within_wCqCtl | apply within_pcieCount
    | apply within_ite | split | dsimp only

theorem tidy_execCqDisable (q : List Instr) (c : Fin 64) (fields : Fin 9223372036854775808) (s : State) (h1 : Tidy q
    s) : ∃ z, execCqDisable c fields s = .next z ∧ Tidy q z := by
  refine ⟨_, rfl, ?_⟩
  with_reducible repeat' first
    | (intro _) | assumption | apply tidy_wCqCtl | apply tidy_pcieCount | apply tidy_ite
    | (simp only [tidy_mk]; apply tidy_back) | split | dsimp only

theorem within_execCqDisable (T : List Part) (orig : State) (hT : subP [.od, .hst] T = true) (c : Fin 64) (fields :
    Fin 9223372036854775808) (s : State) (h1 : Within T orig s) : ∃ z, execCqDisable c fields s = .next z ∧ Within T
    orig z := by
  refine ⟨_, rfl, ?_⟩
  with_reducible repeat' first
    | (intro _) | assumption | (exact subP_trans (by decide) hT) | apply within_wCqCtl | apply within_pcieCount
    | apply within_ite | split | dsimp only

theorem tidy_execCommandStart (q : List Instr) (ring : Fin 64) (s : State) (h1 : Tidy q s) : ∃ z, execCommandStart
    ring s = .next z ∧ Tidy q z := by
  refine ⟨_, rfl, ?_⟩
  with_reducible repeat' first
    | (intro _) | assumption | apply tidy_commandStart | (simp only [tidy_mk]; apply tidy_back) | split | dsimp only

theorem within_execCommandStart (T : List Part) (orig : State) (hT : subP [.cmds] T = true) (ring : Fin 64) (s :
    State) (h1 : Within T orig s) : ∃ z, execCommandStart ring s = .next z ∧ Within T orig z := by
  refine ⟨_, rfl, ?_⟩
  with_reducible repeat' first
    | (intro _) | assumption | (exact subP_trans (by decide) hT) | apply within_commandStart | split | dsimp only

theorem tidy_execNop (q : List Instr) (ring : Fin 64) (idx : Nat) (s : State) (h1 : Tidy q s) : ∃ z, execNop ring idx
    s = .next z ∧ Tidy q z := by
  refine ⟨_, rfl, ?_⟩
  with_reducible repeat' first
    | (intro _) | assumption | apply tidy_beginCmd | apply tidy_okCmd | (simp only [tidy_mk]; apply tidy_back) | split
    | dsimp only

theorem within_execNop (T : List Part) (orig : State) (hT : subP [.cmds] T = true) (ring : Fin 64) (idx : Nat) (s :
    State) (h1 : Within T orig s) : ∃ z, execNop ring idx s = .next z ∧ Within T orig z := by
  refine ⟨_, rfl, ?_⟩
  with_reducible repeat' first
    | (intro _) | assumption | (exact subP_trans (by decide) hT) | apply within_beginCmd | apply within_okCmd | split
    | dsimp only

theorem tidy_execBufsetDefine (q : List Instr) (ring : Fin 64) (idx : Nat) (h : HostIn) (s : State) (h1 : Tidy q s) :
    ∃ z, execBufsetDefine ring idx h s = .next z ∧ Tidy q z := by
  refine ⟨_, rfl, ?_⟩
  with_reducible repeat' first
    | (intro _) | assumption | apply tidy_beginCmd | apply tidy_bufsetDefine | (simp only [tidy_mk]; apply tidy_back)
    | split | dsimp only

theorem within_execBufsetDefine (T : List Part) (orig : State) (hT : subP [.od, .out, .cmds, .hst] T = true) (ring :
    Fin 64) (idx : Nat) (h : HostIn) (s : State) (h1 : Within T orig s) : ∃ z, execBufsetDefine ring idx h s = .next z
    ∧ Within T orig z := by
  refine ⟨_, rfl, ?_⟩
  with_reducible repeat' first
    | (intro _) | assumption | (exact subP_trans (by decide) hT) | apply within_beginCmd | apply within_bufsetDefine
    | split | dsimp only

theorem tidy_execDmaCopy (q : List Instr) (ring : Fin 64) (idx : Nat) (h : HostIn) (s : State) (h1 : Tidy q s) : ∃ z,
    execDmaCopy ring idx h s = .next z ∧ Tidy q z := by
  refine ⟨_, rfl, ?_⟩
  with_reducible repeat' first
    | (intro _) | assumption | apply tidy_beginCmd | apply tidy_dmaCopy | (simp only [tidy_mk]; apply tidy_back)
    | split | dsimp only

theorem within_execDmaCopy (T : List Part) (orig : State) (hT : subP [.od, .out, .freeCtr, .mem, .ecc, .cmds, .hst,
    .obs, .log, .frz, .can] T = true) (ring : Fin 64) (idx : Nat) (h : HostIn) (s : State) (h1 : Within T orig s) : ∃
    z, execDmaCopy ring idx h s = .next z ∧ Within T orig z := by
  refine ⟨_, rfl, ?_⟩
  with_reducible repeat' first
    | (intro _) | assumption | (exact subP_trans (by decide) hT) | apply within_beginCmd | apply within_dmaCopy
    | split | dsimp only

theorem tidy_execGraphLoad (q : List Instr) (ring : Fin 64) (idx : Nat) (h : HostIn) (s : State) (h1 : Tidy q s) : ∃
    z, execGraphLoad ring idx h s = .next z ∧ Tidy q z := by
  refine ⟨_, rfl, ?_⟩
  with_reducible repeat' first
    | (intro _) | assumption | apply tidy_beginCmd | apply tidy_graphLoad | (simp only [tidy_mk]; apply tidy_back)
    | split | dsimp only

theorem within_execGraphLoad (T : List Part) (orig : State) (hT : subP [.od, .out, .ecc, .tiles, .graphs, .cmds, .hst,
    .obs, .log, .frz, .can] T = true) (ring : Fin 64) (idx : Nat) (h : HostIn) (s : State) (h1 : Within T orig s) : ∃
    z, execGraphLoad ring idx h s = .next z ∧ Within T orig z := by
  refine ⟨_, rfl, ?_⟩
  with_reducible repeat' first
    | (intro _) | assumption | (exact subP_trans (by decide) hT) | apply within_beginCmd | apply within_graphLoad
    | split | dsimp only

theorem tidy_execGraphStart (q : List Instr) (ring : Fin 64) (idx : Nat) (s : State) (h1 : Tidy q s) : ∃ z,
    execGraphStart ring idx s = .next z ∧ Tidy q z := by
  refine ⟨_, rfl, ?_⟩
  with_reducible repeat' first
    | (intro _) | assumption | apply tidy_beginCmd | apply tidy_startGraph | (simp only [tidy_mk]; apply tidy_back)
    | split | dsimp only

theorem within_execGraphStart (T : List Part) (orig : State) (hT : subP [.od, .tiles, .graphs, .cmds, .obs, .frz] T =
    true) (ring : Fin 64) (idx : Nat) (s : State) (h1 : Within T orig s) : ∃ z, execGraphStart ring idx s = .next z ∧
    Within T orig z := by
  refine ⟨_, rfl, ?_⟩
  with_reducible repeat' first
    | (intro _) | assumption | (exact subP_trans (by decide) hT) | apply within_beginCmd | apply within_startGraph
    | split | dsimp only

theorem tidy_execGraphUnload (q : List Instr) (ring : Fin 64) (idx : Nat) (s : State) (h1 : Tidy q s) : ∃ z,
    execGraphUnload ring idx s = .next z ∧ Tidy q z := by
  refine ⟨_, rfl, ?_⟩
  with_reducible repeat' first
    | (intro _) | assumption | apply tidy_beginCmd | apply tidy_graphUnload | (simp only [tidy_mk]; apply tidy_back)
    | split | dsimp only

theorem within_execGraphUnload (T : List Part) (orig : State) (hT : subP [.od, .freeCtr, .mem, .ecc, .tiles, .mesh,
    .graphs, .cmds, .rem, .flt, .meas, .obs, .log, .frz] T = true) (ring : Fin 64) (idx : Nat) (s : State) (h1 :
    Within T orig s) : ∃ z, execGraphUnload ring idx s = .next z ∧ Within T orig z := by
  refine ⟨_, rfl, ?_⟩
  with_reducible repeat' first
    | (intro _) | assumption | (exact subP_trans (by decide) hT) | apply within_beginCmd | apply within_graphUnload
    | split | dsimp only

theorem tidy_execRemoteOp (q : List Instr) (ring : Fin 64) (idx : Nat) (s : State) (h1 : Tidy q s) : ∃ z, execRemoteOp
    ring idx s = .next z ∧ Tidy q z := by
  refine ⟨_, rfl, ?_⟩
  with_reducible repeat' first
    | (intro _) | assumption | apply tidy_beginCmd | apply tidy_remoteOp | (simp only [tidy_mk]; apply tidy_back)
    | split | dsimp only

theorem within_execRemoteOp (T : List Part) (orig : State) (hT : subP [.od, .out, .freeCtr, .mem, .ecc, .tiles,
    .graphs, .cmds, .fab, .rem, .obs, .log, .frz, .can] T = true) (ring : Fin 64) (idx : Nat) (s : State) (h1 : Within
    T orig s) : ∃ z, execRemoteOp ring idx s = .next z ∧ Within T orig z := by
  refine ⟨_, rfl, ?_⟩
  with_reducible repeat' first
    | (intro _) | assumption | (exact subP_trans (by decide) hT) | apply within_beginCmd | apply within_remoteOp
    | split | dsimp only

theorem tidy_execCollective (q : List Instr) (ring : Fin 64) (idx : Nat) (s : State) (h1 : Tidy q s) : ∃ z,
    execCollective ring idx s = .next z ∧ Tidy q z := by
  refine ⟨_, rfl, ?_⟩
  with_reducible repeat' first
    | (intro _) | assumption | apply tidy_beginCmd | apply tidy_collective | (simp only [tidy_mk]; apply tidy_back)
    | split | dsimp only

theorem within_execCollective (T : List Part) (orig : State) (hT : subP [.od, .out, .freeCtr, .mem, .ecc, .graphs,
    .cmds, .fab, .rem, .obs, .log, .frz, .can] T = true) (ring : Fin 64) (idx : Nat) (s : State) (h1 : Within T orig
    s) : ∃ z, execCollective ring idx s = .next z ∧ Within T orig z := by
  refine ⟨_, rfl, ?_⟩
  with_reducible repeat' first
    | (intro _) | assumption | (exact subP_trans (by decide) hT) | apply within_beginCmd | apply within_collective
    | split | dsimp only

theorem tidy_execWindowsLoad (q : List Instr) (ring : Fin 64) (idx : Nat) (h : HostIn) (s : State) (h1 : Tidy q s) : ∃
    z, execWindowsLoad ring idx h s = .next z ∧ Tidy q z := by
  refine ⟨_, rfl, ?_⟩
  with_reducible repeat' first
    | (intro _) | assumption | apply tidy_beginCmd | apply tidy_windowsLoad | (simp only [tidy_mk]; apply tidy_back)
    | split | dsimp only

theorem within_execWindowsLoad (T : List Part) (orig : State) (hT : subP [.od, .out, .ecc, .cmds, .hst, .rem, .obs,
    .log, .frz, .can] T = true) (ring : Fin 64) (idx : Nat) (h : HostIn) (s : State) (h1 : Within T orig s) : ∃ z,
    execWindowsLoad ring idx h s = .next z ∧ Within T orig z := by
  refine ⟨_, rfl, ?_⟩
  with_reducible repeat' first
    | (intro _) | assumption | (exact subP_trans (by decide) hT) | apply within_beginCmd | apply within_windowsLoad
    | split | dsimp only

theorem tidy_execShardMapLoad (q : List Instr) (ring : Fin 64) (idx : Nat) (h : HostIn) (s : State) (h1 : Tidy q s) :
    ∃ z, execShardMapLoad ring idx h s = .next z ∧ Tidy q z := by
  refine ⟨_, rfl, ?_⟩
  with_reducible repeat' first
    | (intro _) | assumption | apply tidy_beginCmd | apply tidy_shardMapLoad | (simp only [tidy_mk]; apply tidy_back)
    | split | dsimp only

theorem within_execShardMapLoad (T : List Part) (orig : State) (hT : subP [.od, .out, .ecc, .cmds, .hst, .rem, .obs,
    .log, .frz, .can] T = true) (ring : Fin 64) (idx : Nat) (h : HostIn) (s : State) (h1 : Within T orig s) : ∃ z,
    execShardMapLoad ring idx h s = .next z ∧ Within T orig z := by
  refine ⟨_, rfl, ?_⟩
  with_reducible repeat' first
    | (intro _) | assumption | (exact subP_trans (by decide) hT) | apply within_beginCmd | apply within_shardMapLoad
    | split | dsimp only

theorem tidy_execCommandComplete (q : List Instr) (ring : Fin 64) (idx : Nat) (s : State) (h1 : Tidy q s) : ∃ z,
    execCommandComplete ring idx s = .next z ∧ Tidy q z := by
  refine ⟨_, rfl, ?_⟩
  with_reducible repeat' first
    | (intro _) | assumption | apply tidy_commandComplete | (simp only [tidy_mk]; apply tidy_back) | split
    | dsimp only

theorem within_execCommandComplete (T : List Part) (orig : State) (hT : subP [.od, .out, .cmds, .hst] T = true) (ring
    : Fin 64) (idx : Nat) (s : State) (h1 : Within T orig s) : ∃ z, execCommandComplete ring idx s = .next z ∧ Within
    T orig z := by
  refine ⟨_, rfl, ?_⟩
  with_reducible repeat' first
    | (intro _) | assumption | (exact subP_trans (by decide) hT) | apply within_commandComplete | split | dsimp only

theorem tidy_execCoalTimerExpiry (q : List Instr) (c : Fin 64) (s : State) (h1 : Tidy q s) : ∃ z, execCoalTimerExpiry
    c s = .next z ∧ Tidy q z := by
  refine ⟨_, rfl, ?_⟩
  with_reducible repeat' first
    | (intro _) | assumption | apply tidy_coalExpiry | (simp only [tidy_mk]; apply tidy_back) | split | dsimp only

theorem within_execCoalTimerExpiry (T : List Part) (orig : State) (hT : subP [.od, .out, .hst] T = true) (c : Fin 64)
    (s : State) (h1 : Within T orig s) : ∃ z, execCoalTimerExpiry c s = .next z ∧ Within T orig z := by
  refine ⟨_, rfl, ?_⟩
  with_reducible repeat' first
    | (intro _) | assumption | (exact subP_trans (by decide) hT) | apply within_coalExpiry | split | dsimp only

theorem tidy_execConsRecordRead (q : List Instr) (c : Fin 64) (rd : HostRead) (cons : Fin 4294967296) (s : State) (h1
    : Tidy q s) : ∃ z, execConsRecordRead c rd cons s = .next z ∧ Tidy q z := by
  refine ⟨_, rfl, ?_⟩
  with_reducible repeat' first
    | (intro _) | assumption | apply tidy_consRead | (simp only [tidy_mk]; apply tidy_back) | split | dsimp only

theorem within_execConsRecordRead (T : List Part) (orig : State) (hT : subP [.od, .out, .hst] T = true) (c : Fin 64)
    (rd : HostRead) (cons : Fin 4294967296) (s : State) (h1 : Within T orig s) : ∃ z, execConsRecordRead c rd cons s =
    .next z ∧ Within T orig z := by
  refine ⟨_, rfl, ?_⟩
  with_reducible repeat' first
    | (intro _) | assumption | (exact subP_trans (by decide) hT) | apply within_consRead | split | dsimp only

theorem tidy_execPcieLinkUp (q : List Instr) (speed : Fin 7) (width : Fin 9) (flit : Bool) (s : State) (h1 : Tidy q s)
    : ∃ z, execPcieLinkUp speed width flit s = .next z ∧ Tidy q z := by
  refine ⟨_, rfl, ?_⟩
  with_reducible repeat' first
    | (intro _) | assumption | apply tidy_pcieUp | (simp only [tidy_mk]; apply tidy_back) | split | dsimp only

theorem within_execPcieLinkUp (T : List Part) (orig : State) (hT : subP [.od, .hst] T = true) (speed : Fin 7) (width :
    Fin 9) (flit : Bool) (s : State) (h1 : Within T orig s) : ∃ z, execPcieLinkUp speed width flit s = .next z ∧
    Within T orig z := by
  refine ⟨_, rfl, ?_⟩
  with_reducible repeat' first
    | (intro _) | assumption | (exact subP_trans (by decide) hT) | apply within_pcieUp | split | dsimp only

end Sys2Proof.Machine
end

