-- ==== Sys2Proof/Laws/CommandSched.lean ====
section
/-! SUPPORT. Every command completes, keeps memory canonical and the queue as it is, and changes no part of the state but
those it may touch: the credits, the judged writes, memory upkeep, the switch and the links. -/
namespace Sys2Proof.Machine
open Sys2Proof

theorem tidy_execGraphExceptionStop (q : List Instr) (h : Nat) (s : State) (h1 : Tidy q s) : ∃ z,
    execGraphExceptionStop h s = .next z ∧ Tidy q z := by
  refine ⟨_, rfl, ?_⟩
  with_reducible repeat' first
    | (intro _) | assumption | apply tidy_exceptionStop | (simp only [tidy_mk]; apply tidy_back) | split | dsimp only

theorem within_execGraphExceptionStop (T : List Part) (orig : State) (hT : subP [.od, .freeCtr, .mem, .ecc, .tiles,
    .mesh, .graphs, .cmds, .rem, .flt, .meas, .obs, .log, .frz] T = true) (h : Nat) (s : State) (h1 : Within T orig s)
    : ∃ z, execGraphExceptionStop h s = .next z ∧ Within T orig z := by
  refine ⟨_, rfl, ?_⟩
  with_reducible repeat' first
    | (intro _) | assumption | (exact subP_trans (by decide) hT) | apply within_exceptionStop | split | dsimp only

theorem tidy_execTokenArrival (q : List Instr) (t : TileId) (oq : Fin 16) (k : Fin 4) (s : State) (h1 : Tidy q s) : ∃
    z, execTokenArrival t oq k s = .next z ∧ Tidy q z := by
  refine ⟨_, rfl, ?_⟩
  with_reducible repeat' first
    | (intro _) | assumption | apply tidy_tokenArrival | (simp only [tidy_mk]; apply tidy_back) | split | dsimp only

theorem within_execTokenArrival (T : List Part) (orig : State) (hT : subP [.od, .tiles, .mesh, .graphs, .obs, .frz] T
    = true) (t : TileId) (oq : Fin 16) (k : Fin 4) (s : State) (h1 : Within T orig s) : ∃ z, execTokenArrival t oq k s
    = .next z ∧ Within T orig z := by
  refine ⟨_, rfl, ?_⟩
  with_reducible repeat' first
    | (intro _) | assumption | (exact subP_trans (by decide) hT) | apply within_tokenArrival | split | dsimp only

theorem tidy_execQueueCreditReturn (q : List Instr) (t : TileId) (oq : Fin 16) (k : Fin 4) (s : State) (h1 : Tidy q s)
    : ∃ z, execQueueCreditReturn t oq k s = .next z ∧ Tidy q z := by
  refine ⟨_, rfl, ?_⟩
  with_reducible repeat' first
    | (intro _) | assumption | apply tidy_creditReturn | (simp only [tidy_mk]; apply tidy_back) | split | dsimp only

theorem within_execQueueCreditReturn (T : List Part) (orig : State) (hT : subP [.od, .tiles, .mesh, .graphs, .obs,
    .frz] T = true) (t : TileId) (oq : Fin 16) (k : Fin 4) (s : State) (h1 : Within T orig s) : ∃ z,
    execQueueCreditReturn t oq k s = .next z ∧ Within T orig z := by
  refine ⟨_, rfl, ?_⟩
  with_reducible repeat' first
    | (intro _) | assumption | (exact subP_trans (by decide) hT) | apply within_creditReturn | split | dsimp only

theorem tidy_execTaskFire (q : List Instr) (t : TileId) (s : State) (h1 : Tidy q s) : ∃ z, execTaskFire t s = .next z
    ∧ Tidy q z := by
  refine ⟨_, rfl, ?_⟩
  with_reducible repeat' first
    | (intro _) | assumption | apply tidy_taskFire | (simp only [tidy_mk]; apply tidy_back) | split | dsimp only

theorem within_execTaskFire (T : List Part) (orig : State) (hT : subP [.od, .out, .freeCtr, .ecc, .tiles, .mesh,
    .graphs, .rem, .flt, .obs, .log, .frz, .can] T = true) (t : TileId) (s : State) (h1 : Within T orig s) : ∃ z,
    execTaskFire t s = .next z ∧ Within T orig z := by
  refine ⟨_, rfl, ?_⟩
  with_reducible repeat' first
    | (intro _) | assumption | (exact subP_trans (by decide) hT) | apply within_taskFire | split | dsimp only

theorem tidy_execTaskEnd (q : List Instr) (t : TileId) (cyc : Nat) (p : Nat) (s : State) (h1 : Tidy q s) : ∃ z,
    execTaskEnd t cyc p s = .next z ∧ Tidy q z := by
  refine ⟨_, rfl, ?_⟩
  with_reducible repeat' first
    | (intro _) | assumption | apply tidy_taskEnd | (simp only [tidy_mk]; apply tidy_back) | split | dsimp only

theorem within_execTaskEnd (T : List Part) (orig : State) (hT : subP [.od, .freeCtr, .tiles, .graphs, .flt, .obs,
    .frz] T = true) (t : TileId) (cyc : Nat) (p : Nat) (s : State) (h1 : Within T orig s) : ∃ z, execTaskEnd t cyc p s
    = .next z ∧ Within T orig z := by
  refine ⟨_, rfl, ?_⟩
  with_reducible repeat' first
    | (intro _) | assumption | (exact subP_trans (by decide) hT) | apply within_taskEnd | split | dsimp only

theorem tidy_execPowerCreditGrant (q : List Instr) (die : Fin 2) (s : State) (h1 : Tidy q s) : ∃ z,
    execPowerCreditGrant die s = .next z ∧ Tidy q z := by
  refine ⟨_, rfl, ?_⟩
  with_reducible repeat' first
    | (intro _) | assumption | apply tidy_creditGrant | (simp only [tidy_mk]; apply tidy_back) | split | dsimp only

theorem within_execPowerCreditGrant (T : List Part) (orig : State) (hT : subP [.od, .tiles, .graphs, .flt, .obs, .log,
    .frz] T = true) (die : Fin 2) (s : State) (h1 : Within T orig s) : ∃ z, execPowerCreditGrant die s = .next z ∧
    Within T orig z := by
  refine ⟨_, rfl, ?_⟩
  with_reducible repeat' first
    | (intro _) | assumption | (exact subP_trans (by decide) hT) | apply within_creditGrant | split | dsimp only

theorem tidy_execTileWake (q : List Instr) (t : TileId) (s : State) (h1 : Tidy q s) : ∃ z, execTileWake t s = .next z
    ∧ Tidy q z := by
  refine ⟨_, rfl, ?_⟩
  with_reducible repeat' first
    | (intro _) | assumption | apply tidy_tileWake | (simp only [tidy_mk]; apply tidy_back) | split | dsimp only

theorem within_execTileWake (T : List Part) (orig : State) (hT : subP [.od, .out, .freeCtr, .ecc, .tiles, .graphs,
    .flt, .obs, .log, .frz, .can] T = true) (t : TileId) (s : State) (h1 : Within T orig s) : ∃ z, execTileWake t s =
    .next z ∧ Within T orig z := by
  refine ⟨_, rfl, ?_⟩
  with_reducible repeat' first
    | (intro _) | assumption | (exact subP_trans (by decide) hT) | apply within_tileWake | split | dsimp only

theorem tidy_execDieStepSlot (q : List Instr) (die : Fin 2) (s : State) (h1 : Tidy q s) : ∃ z, execDieStepSlot die s =
    .next z ∧ Tidy q z := by
  refine ⟨_, rfl, ?_⟩
  with_reducible repeat' first
    | (intro _) | assumption | apply tidy_dieStepSlot | (simp only [tidy_mk]; apply tidy_back) | split | dsimp only

theorem within_execDieStepSlot (T : List Part) (orig : State) (hT : subP [.od, .flt, .obs, .log, .frz] T = true) (die
    : Fin 2) (s : State) (h1 : Within T orig s) : ∃ z, execDieStepSlot die s = .next z ∧ Within T orig z := by
  refine ⟨_, rfl, ?_⟩
  with_reducible repeat' first
    | (intro _) | assumption | (exact subP_trans (by decide) hT) | apply within_dieStepSlot | split | dsimp only

theorem tidy_execPupaDwellExpiry (q : List Instr) (t : TileId) (s : State) (h1 : Tidy q s) : ∃ z, execPupaDwellExpiry
    t s = .next z ∧ Tidy q z := by
  refine ⟨_, rfl, ?_⟩
  with_reducible repeat' first
    | (intro _) | assumption | apply tidy_dwellExpiry | (simp only [tidy_mk]; apply tidy_back) | split | dsimp only

theorem within_execPupaDwellExpiry (T : List Part) (orig : State) (hT : subP [.tiles] T = true) (t : TileId) (s :
    State) (h1 : Within T orig s) : ∃ z, execPupaDwellExpiry t s = .next z ∧ Within T orig z := by
  refine ⟨_, rfl, ?_⟩
  with_reducible repeat' first
    | (intro _) | assumption | (exact subP_trans (by decide) hT) | apply within_dwellExpiry | split | dsimp only

theorem tidy_execPupaEntryCommit (q : List Instr) (t : TileId) (s : State) (h1 : Tidy q s) : ∃ z, execPupaEntryCommit
    t s = .next z ∧ Tidy q z := by
  refine ⟨_, rfl, ?_⟩
  with_reducible repeat' first
    | (intro _) | assumption | apply tidy_entryCommit | (simp only [tidy_mk]; apply tidy_back) | split | dsimp only

theorem within_execPupaEntryCommit (T : List Part) (orig : State) (hT : subP [.od, .tiles, .obs, .frz] T = true) (t :
    TileId) (s : State) (h1 : Within T orig s) : ∃ z, execPupaEntryCommit t s = .next z ∧ Within T orig z := by
  refine ⟨_, rfl, ?_⟩
  with_reducible repeat' first
    | (intro _) | assumption | (exact subP_trans (by decide) hT) | apply within_entryCommit | split | dsimp only

theorem tidy_execSinkReport (q : List Instr) (t : TileId) (oq : Fin 16) (k : Fin 4) (s : State) (h1 : Tidy q s) : ∃ z,
    execSinkReport t oq k s = .next z ∧ Tidy q z := by
  refine ⟨_, rfl, ?_⟩
  with_reducible repeat' first
    | (intro _) | assumption | apply tidy_sinkReport | (simp only [tidy_mk]; apply tidy_back) | split | dsimp only

theorem within_execSinkReport (T : List Part) (orig : State) (hT : subP [.od, .freeCtr, .mem, .ecc, .tiles, .mesh,
    .graphs, .cmds, .rem, .flt, .meas, .obs, .log, .frz] T = true) (t : TileId) (oq : Fin 16) (k : Fin 4) (s : State)
    (h1 : Within T orig s) : ∃ z, execSinkReport t oq k s = .next z ∧ Within T orig z := by
  refine ⟨_, rfl, ?_⟩
  with_reducible repeat' first
    | (intro _) | assumption | (exact subP_trans (by decide) hT) | apply within_sinkReport | split | dsimp only

theorem tidy_execGraphLoadComplete (q : List Instr) (h : Nat) (s : State) (h1 : Tidy q s) : ∃ z, execGraphLoadComplete
    h s = .next z ∧ Tidy q z := by
  refine ⟨_, rfl, ?_⟩
  with_reducible repeat' first
    | (intro _) | assumption | apply tidy_loadComplete | (simp only [tidy_mk]; apply tidy_back) | split | dsimp only

theorem within_execGraphLoadComplete (T : List Part) (orig : State) (hT : subP [.od, .ecc, .tiles, .graphs, .cmds,
    .meas] T = true) (h : Nat) (s : State) (h1 : Within T orig s) : ∃ z, execGraphLoadComplete h s = .next z ∧ Within
    T orig z := by
  refine ⟨_, rfl, ?_⟩
  with_reducible repeat' first
    | (intro _) | assumption | (exact subP_trans (by decide) hT) | apply within_loadComplete | split | dsimp only

theorem tidy_execScrubRead (q : List Instr) (e : ScrubIn) (s : State) (h1 : Tidy q s) : ∃ z, execScrubRead e s = .next
    z ∧ Tidy q z := by
  refine ⟨_, rfl, ?_⟩
  with_reducible repeat' first
    | (intro _) | assumption | apply tidy_scrubRead | (simp only [tidy_mk]; apply tidy_back) | split | dsimp only

theorem within_execScrubRead (T : List Part) (orig : State) (hT : subP [.od, .out, .ecc, .obs, .log, .frz, .can] T =
    true) (e : ScrubIn) (s : State) (h1 : Within T orig s) : ∃ z, execScrubRead e s = .next z ∧ Within T orig z := by
  refine ⟨_, rfl, ?_⟩
  with_reducible repeat' first
    | (intro _) | assumption | (exact subP_trans (by decide) hT) | apply within_scrubRead | split | dsimp only

theorem tidy_execMr4Poll (q : List Instr) (dev : Fin 128) (rate : Nat) (hot : Bool) (s : State) (h1 : Tidy q s) : ∃ z,
    execMr4Poll dev rate hot s = .next z ∧ Tidy q z := by
  refine ⟨_, rfl, ?_⟩
  with_reducible repeat' first
    | (intro _) | assumption | apply tidy_mr4Poll | (simp only [tidy_mk]; apply tidy_back) | split | dsimp only

theorem within_execMr4Poll (T : List Part) (orig : State) (hT : subP [.od, .ecc, .obs, .log, .frz] T = true) (dev :
    Fin 128) (rate : Nat) (hot : Bool) (s : State) (h1 : Within T orig s) : ∃ z, execMr4Poll dev rate hot s = .next z
    ∧ Within T orig z := by
  refine ⟨_, rfl, ?_⟩
  with_reducible repeat' first
    | (intro _) | assumption | (exact subP_trans (by decide) hT) | apply within_mr4Poll | split | dsimp only

theorem tidy_execChannelPowerDown (q : List Instr) (c : Fin 64) (s : State) (h1 : Tidy q s) : ∃ z,
    execChannelPowerDown c s = .next z ∧ Tidy q z := by
  refine ⟨_, rfl, ?_⟩
  with_reducible repeat' first
    | (intro _) | assumption | apply tidy_powerDown | (simp only [tidy_mk]; apply tidy_back) | split | dsimp only

theorem within_execChannelPowerDown (T : List Part) (orig : State) (hT : subP [.ecc] T = true) (c : Fin 64) (s :
    State) (h1 : Within T orig s) : ∃ z, execChannelPowerDown c s = .next z ∧ Within T orig z := by
  refine ⟨_, rfl, ?_⟩
  with_reducible repeat' first
    | (intro _) | assumption | (exact subP_trans (by decide) hT) | apply within_powerDown | split | dsimp only

theorem tidy_execChannelSelfRefresh (q : List Instr) (c : Fin 64) (s : State) (h1 : Tidy q s) : ∃ z,
    execChannelSelfRefresh c s = .next z ∧ Tidy q z := by
  refine ⟨_, rfl, ?_⟩
  with_reducible repeat' first
    | (intro _) | assumption | apply tidy_selfRefresh | (simp only [tidy_mk]; apply tidy_back) | split | dsimp only

theorem within_execChannelSelfRefresh (T : List Part) (orig : State) (hT : subP [.ecc] T = true) (c : Fin 64) (s :
    State) (h1 : Within T orig s) : ∃ z, execChannelSelfRefresh c s = .next z ∧ Within T orig z := by
  refine ⟨_, rfl, ?_⟩
  with_reducible repeat' first
    | (intro _) | assumption | (exact subP_trans (by decide) hT) | apply within_selfRefresh | split | dsimp only

theorem tidy_execWck2dqOscillatorRun (q : List Instr) (c : Fin 64) (s : State) (h1 : Tidy q s) : ∃ z,
    execWck2dqOscillatorRun c s = .next z ∧ Tidy q z := by
  refine ⟨_, rfl, ?_⟩
  with_reducible repeat' first
    | (intro _) | assumption | apply tidy_oscRun | (simp only [tidy_mk]; apply tidy_back) | split | dsimp only

theorem within_execWck2dqOscillatorRun (T : List Part) (orig : State) (hT : subP [.ecc] T = true) (c : Fin 64) (s :
    State) (h1 : Within T orig s) : ∃ z, execWck2dqOscillatorRun c s = .next z ∧ Within T orig z := by
  refine ⟨_, rfl, ?_⟩
  with_reducible repeat' first
    | (intro _) | assumption | (exact subP_trans (by decide) hT) | apply within_oscRun | split | dsimp only

theorem tidy_execZqCalibrationLatch (q : List Instr) (c : Fin 64) (s : State) (h1 : Tidy q s) : ∃ z,
    execZqCalibrationLatch c s = .next z ∧ Tidy q z := by
  refine ⟨_, rfl, ?_⟩
  with_reducible repeat' first
    | (intro _) | assumption | apply tidy_zqLatch | (simp only [tidy_mk]; apply tidy_back) | split | dsimp only

theorem within_execZqCalibrationLatch (T : List Part) (orig : State) (hT : subP [.ecc] T = true) (c : Fin 64) (s :
    State) (h1 : Within T orig s) : ∃ z, execZqCalibrationLatch c s = .next z ∧ Within T orig z := by
  refine ⟨_, rfl, ?_⟩
  with_reducible repeat' first
    | (intro _) | assumption | (exact subP_trans (by decide) hT) | apply within_zqLatch | split | dsimp only

theorem tidy_execErrInjectArm (q : List Instr) (path : Fin 4) (v : Nat) (s : State) (h1 : Tidy q s) : ∃ z,
    execErrInjectArm path v s = .next z ∧ Tidy q z := by
  refine ⟨_, rfl, ?_⟩
  with_reducible repeat' first
    | (intro _) | assumption | apply tidy_namedWrite | apply tidy_wInjectArm | (apply tidyPair_of; assumption)
    | (simp only [tidy_mk]; apply tidy_back) | split | dsimp only

theorem within_execErrInjectArm (T : List Part) (orig : State) (hT : subP [.od, .resp, .ecc] T = true) (path : Fin 4)
    (v : Nat) (s : State) (h1 : Within T orig s) : ∃ z, execErrInjectArm path v s = .next z ∧ Within T orig z := by
  refine ⟨_, rfl, ?_⟩
  with_reducible repeat' first
    | (intro _) | assumption | (exact subP_trans (by decide) hT) | apply within_namedWrite | apply within_wInjectArm
    | (apply withinPair_of; assumption) | split | dsimp only

theorem tidy_execBar2Read (q : List Instr) (off : Fin 17179869184) (n : Nat) (s : State) (h1 : Tidy q s) : ∃ z,
    execBar2Read off n s = .next z ∧ Tidy q z := by
  refine ⟨_, rfl, ?_⟩
  with_reducible repeat' first
    | (intro _) | assumption | apply tidy_bar2Read | (simp only [tidy_mk]; apply tidy_back) | split | dsimp only

theorem within_execBar2Read (T : List Part) (orig : State) (hT : subP [.od, .out, .ecc, .hst, .obs, .log, .frz, .can]
    T = true) (off : Fin 17179869184) (n : Nat) (s : State) (h1 : Within T orig s) : ∃ z, execBar2Read off n s = .next
    z ∧ Within T orig z := by
  refine ⟨_, rfl, ?_⟩
  with_reducible repeat' first
    | (intro _) | assumption | (exact subP_trans (by decide) hT) | apply within_bar2Read | split | dsimp only

theorem tidy_execBar2Write (q : List Instr) (off : Fin 17179869184) (bs : List Byte) (s : State) (h1 : Tidy q s) : ∃
    z, execBar2Write off bs s = .next z ∧ Tidy q z := by
  refine ⟨_, rfl, ?_⟩
  with_reducible repeat' first
    | (intro _) | assumption | apply tidy_bar2Write | (simp only [tidy_mk]; apply tidy_back) | split | dsimp only

theorem within_execBar2Write (T : List Part) (orig : State) (hT : subP [.od, .out, .mem, .ecc, .hst, .obs, .log, .frz,
    .can] T = true) (off : Fin 17179869184) (bs : List Byte) (s : State) (h1 : Within T orig s) : ∃ z, execBar2Write
    off bs s = .next z ∧ Within T orig z := by
  refine ⟨_, rfl, ?_⟩
  with_reducible repeat' first
    | (intro _) | assumption | (exact subP_trans (by decide) hT) | apply within_bar2Write | split | dsimp only

theorem tidy_execFabricDimsWrite (q : List Instr) (path : Fin 4) (v : Nat) (s : State) (h1 : Tidy q s) : ∃ z,
    execFabricDimsWrite path v s = .next z ∧ Tidy q z := by
  refine ⟨_, rfl, ?_⟩
  with_reducible repeat' first
    | (intro _) | assumption | apply tidy_namedWrite | apply tidy_wFabricDims | (apply tidyPair_of; assumption)
    | (simp only [tidy_mk]; apply tidy_back) | split | dsimp only

theorem within_execFabricDimsWrite (T : List Part) (orig : State) (hT : subP [.od, .resp, .fab, .sec, .obs, .log,
    .frz, .mod] T = true) (path : Fin 4) (v : Nat) (s : State) (h1 : Within T orig s) : ∃ z, execFabricDimsWrite path
    v s = .next z ∧ Within T orig z := by
  refine ⟨_, rfl, ?_⟩
  with_reducible repeat' first
    | (intro _) | assumption | (exact subP_trans (by decide) hT) | apply within_namedWrite | apply within_wFabricDims
    | (apply withinPair_of; assumption) | split | dsimp only

theorem tidy_execNodeIdWrite (q : List Instr) (path : Fin 4) (v : Nat) (s : State) (h1 : Tidy q s) : ∃ z,
    execNodeIdWrite path v s = .next z ∧ Tidy q z := by
  refine ⟨_, rfl, ?_⟩
  with_reducible repeat' first
    | (intro _) | assumption | apply tidy_namedWrite | apply tidy_wNodeId | (apply tidyPair_of; assumption)
    | (simp only [tidy_mk]; apply tidy_back) | split | dsimp only

theorem within_execNodeIdWrite (T : List Part) (orig : State) (hT : subP [.od, .resp, .fab, .sec, .obs, .log, .frz] T
    = true) (path : Fin 4) (v : Nat) (s : State) (h1 : Within T orig s) : ∃ z, execNodeIdWrite path v s = .next z ∧
    Within T orig z := by
  refine ⟨_, rfl, ?_⟩
  with_reducible repeat' first
    | (intro _) | assumption | (exact subP_trans (by decide) hT) | apply within_namedWrite | apply within_wNodeId
    | (apply withinPair_of; assumption) | split | dsimp only

theorem tidy_execMachineIdWrite (q : List Instr) (path : Fin 4) (v : Nat) (s : State) (h1 : Tidy q s) : ∃ z,
    execMachineIdWrite path v s = .next z ∧ Tidy q z := by
  refine ⟨_, rfl, ?_⟩
  with_reducible repeat' first
    | (intro _) | assumption | apply tidy_namedWrite | apply tidy_wMachineId | (apply tidyPair_of; assumption)
    | (simp only [tidy_mk]; apply tidy_back) | split | dsimp only

theorem within_execMachineIdWrite (T : List Part) (orig : State) (hT : subP [.od, .resp] T = true) (path : Fin 4) (v :
    Nat) (s : State) (h1 : Within T orig s) : ∃ z, execMachineIdWrite path v s = .next z ∧ Within T orig z := by
  refine ⟨_, rfl, ?_⟩
  with_reducible repeat' first
    | (intro _) | assumption | (exact subP_trans (by decide) hT) | apply within_namedWrite | apply within_wMachineId
    | (apply withinPair_of; assumption) | split | dsimp only

theorem tidy_execFecModeWrite (q : List Instr) (path : Fin 4) (p : Fin 16) (v : Nat) (s : State) (h1 : Tidy q s) : ∃
    z, execFecModeWrite path p v s = .next z ∧ Tidy q z := by
  refine ⟨_, rfl, ?_⟩
  with_reducible repeat' first
    | (intro _) | assumption | apply tidy_namedWrite | apply tidy_wFecMode | (apply tidyPair_of; assumption)
    | (simp only [tidy_mk]; apply tidy_back) | split | dsimp only

theorem within_execFecModeWrite (T : List Part) (orig : State) (hT : subP [.od, .resp, .fab, .sec] T = true) (path :
    Fin 4) (p : Fin 16) (v : Nat) (s : State) (h1 : Within T orig s) : ∃ z, execFecModeWrite path p v s = .next z ∧
    Within T orig z := by
  refine ⟨_, rfl, ?_⟩
  with_reducible repeat' first
    | (intro _) | assumption | (exact subP_trans (by decide) hT) | apply within_namedWrite | apply within_wFecMode
    | (apply withinPair_of; assumption) | split | dsimp only

theorem tidy_execRetrainNow (q : List Instr) (path : Fin 4) (p : Fin 16) (v : Nat) (s : State) (h1 : Tidy q s) : ∃ z,
    execRetrainNow path p v s = .next z ∧ Tidy q z := by
  refine ⟨_, rfl, ?_⟩
  with_reducible repeat' first
    | (intro _) | assumption | apply tidy_namedWrite | apply tidy_wRetrainNow | (apply tidyPair_of; assumption)
    | (simp only [tidy_mk]; apply tidy_back) | split | dsimp only

theorem within_execRetrainNow (T : List Part) (orig : State) (hT : subP [.od, .resp, .fab, .sec] T = true) (path : Fin
    4) (p : Fin 16) (v : Nat) (s : State) (h1 : Within T orig s) : ∃ z, execRetrainNow path p v s = .next z ∧ Within T
    orig z := by
  refine ⟨_, rfl, ?_⟩
  with_reducible repeat' first
    | (intro _) | assumption | (exact subP_trans (by decide) hT) | apply within_namedWrite | apply within_wRetrainNow
    | (apply withinPair_of; assumption) | split | dsimp only

theorem tidy_execRekeyAll (q : List Instr) (path : Fin 4) (v : Nat) (s : State) (h1 : Tidy q s) : ∃ z, execRekeyAll
    path v s = .next z ∧ Tidy q z := by
  refine ⟨_, rfl, ?_⟩
  with_reducible repeat' first
    | (intro _) | assumption | apply tidy_namedWrite | apply tidy_wRekeyAll | (apply tidyPair_of; assumption)
    | (simp only [tidy_mk]; apply tidy_back) | split | dsimp only

theorem within_execRekeyAll (T : List Part) (orig : State) (hT : subP [.od, .resp, .freeCtr, .fab] T = true) (path :
    Fin 4) (v : Nat) (s : State) (h1 : Within T orig s) : ∃ z, execRekeyAll path v s = .next z ∧ Within T orig z := by
  refine ⟨_, rfl, ?_⟩
  with_reducible repeat' first
    | (intro _) | assumption | (exact subP_trans (by decide) hT) | apply within_namedWrite | apply within_wRekeyAll
    | (apply withinPair_of; assumption) | split | dsimp only

theorem tidy_execLaserRestart (q : List Instr) (path : Fin 4) (v : Nat) (s : State) (h1 : Tidy q s) : ∃ z,
    execLaserRestart path v s = .next z ∧ Tidy q z := by
  refine ⟨_, rfl, ?_⟩
  with_reducible repeat' first
    | (intro _) | assumption | apply tidy_namedWrite | apply tidy_wLaserRestart | (apply tidyPair_of; assumption)
    | (simp only [tidy_mk]; apply tidy_back) | split | dsimp only

theorem within_execLaserRestart (T : List Part) (orig : State) (hT : subP [.od, .resp, .fab, .mod] T = true) (path :
    Fin 4) (v : Nat) (s : State) (h1 : Within T orig s) : ∃ z, execLaserRestart path v s = .next z ∧ Within T orig z
    := by
  refine ⟨_, rfl, ?_⟩
  with_reducible repeat' first
    | (intro _) | assumption | (exact subP_trans (by decide) hT) | apply within_namedWrite
    | apply within_wLaserRestart | (apply withinPair_of; assumption) | split | dsimp only

theorem tidy_execLaserOkRise (q : List Instr) (s : State) (h1 : Tidy q s) : ∃ z, execLaserOkRise s = .next z ∧ Tidy q
    z := by
  refine ⟨_, rfl, ?_⟩
  with_reducible repeat' first
    | (intro _) | assumption | apply tidy_laserOkRise | (simp only [tidy_mk]; apply tidy_back) | split | dsimp only

theorem within_execLaserOkRise (T : List Part) (orig : State) (hT : subP [.od, .fab, .sec, .obs, .log, .frz, .mod] T =
    true) (s : State) (h1 : Within T orig s) : ∃ z, execLaserOkRise s = .next z ∧ Within T orig z := by
  refine ⟨_, rfl, ?_⟩
  with_reducible repeat' first
    | (intro _) | assumption | (exact subP_trans (by decide) hT) | apply within_laserOkRise | split | dsimp only

theorem tidy_execLaserOkTimeout (q : List Instr) (s : State) (h1 : Tidy q s) : ∃ z, execLaserOkTimeout s = .next z ∧
    Tidy q z := by
  refine ⟨_, rfl, ?_⟩
  with_reducible repeat' first
    | (intro _) | assumption | apply tidy_laserOkTimeout | (simp only [tidy_mk]; apply tidy_back) | split | dsimp only

theorem within_execLaserOkTimeout (T : List Part) (orig : State) (hT : subP [.od, .obs, .log, .frz] T = true) (s :
    State) (h1 : Within T orig s) : ∃ z, execLaserOkTimeout s = .next z ∧ Within T orig z := by
  refine ⟨_, rfl, ?_⟩
  with_reducible repeat' first
    | (intro _) | assumption | (exact subP_trans (by decide) hT) | apply within_laserOkTimeout | split | dsimp only

theorem tidy_execFeedOpen (q : List Instr) (e : Fin 8) (s : State) (h1 : Tidy q s) : ∃ z, execFeedOpen e s = .next z ∧
    Tidy q z := by
  refine ⟨_, rfl, ?_⟩
  with_reducible repeat' first
    | (intro _) | assumption | apply tidy_feedOpen | (simp only [tidy_mk]; apply tidy_back) | split | dsimp only

theorem within_execFeedOpen (T : List Part) (orig : State) (hT : subP [.od, .fab, .obs, .log, .frz, .mod] T = true) (e
    : Fin 8) (s : State) (h1 : Within T orig s) : ∃ z, execFeedOpen e s = .next z ∧ Within T orig z := by
  refine ⟨_, rfl, ?_⟩
  with_reducible repeat' first
    | (intro _) | assumption | (exact subP_trans (by decide) hT) | apply within_feedOpen | split | dsimp only

theorem tidy_execLaserFeedLow (q : List Instr) (e : Fin 8) (power : Int) (s : State) (h1 : Tidy q s) : ∃ z,
    execLaserFeedLow e power s = .next z ∧ Tidy q z := by
  refine ⟨_, rfl, ?_⟩
  with_reducible repeat' first
    | (intro _) | assumption | apply tidy_feedLow | (simp only [tidy_mk]; apply tidy_back) | split | dsimp only

theorem within_execLaserFeedLow (T : List Part) (orig : State) (hT : subP [.od, .fab, .obs, .log, .frz] T = true) (e :
    Fin 8) (power : Int) (s : State) (h1 : Within T orig s) : ∃ z, execLaserFeedLow e power s = .next z ∧ Within T
    orig z := by
  refine ⟨_, rfl, ?_⟩
  with_reducible repeat' first
    | (intro _) | assumption | (exact subP_trans (by decide) hT) | apply within_feedLow | split | dsimp only

theorem tidy_execPortProbe (q : List Instr) (p : Fin 16) (s : State) (h1 : Tidy q s) : ∃ z, execPortProbe p s = .next
    z ∧ Tidy q z := by
  refine ⟨_, rfl, ?_⟩
  with_reducible repeat' first
    | (intro _) | assumption | apply tidy_portProbe | (simp only [tidy_mk]; apply tidy_back) | split | dsimp only

theorem within_execPortProbe (T : List Part) (orig : State) (hT : subP [.fab] T = true) (p : Fin 16) (s : State) (h1 :
    Within T orig s) : ∃ z, execPortProbe p s = .next z ∧ Within T orig z := by
  refine ⟨_, rfl, ?_⟩
  with_reducible repeat' first
    | (intro _) | assumption | (exact subP_trans (by decide) hT) | apply within_portProbe | split | dsimp only

theorem tidy_execLightDetected (q : List Instr) (p : Fin 16) (s : State) (h1 : Tidy q s) : ∃ z, execLightDetected p s
    = .next z ∧ Tidy q z := by
  refine ⟨_, rfl, ?_⟩
  with_reducible repeat' first
    | (intro _) | assumption | apply tidy_lightDetected | (simp only [tidy_mk]; apply tidy_back) | split | dsimp only

theorem within_execLightDetected (T : List Part) (orig : State) (hT : subP [.od, .fab, .sec] T = true) (p : Fin 16) (s
    : State) (h1 : Within T orig s) : ∃ z, execLightDetected p s = .next z ∧ Within T orig z := by
  refine ⟨_, rfl, ?_⟩
  with_reducible repeat' first
    | (intro _) | assumption | (exact subP_trans (by decide) hT) | apply within_lightDetected | split | dsimp only

theorem tidy_execTrainingComplete (q : List Instr) (p : Fin 16) (ok : Fin 256) (s : State) (h1 : Tidy q s) : ∃ z,
    execTrainingComplete p ok s = .next z ∧ Tidy q z := by
  refine ⟨_, rfl, ?_⟩
  with_reducible repeat' first
    | (intro _) | assumption | apply tidy_trainingComplete | (simp only [tidy_mk]; apply tidy_back) | split
    | dsimp only

theorem within_execTrainingComplete (T : List Part) (orig : State) (hT : subP [.od, .out, .sec] T = true) (p : Fin 16)
    (ok : Fin 256) (s : State) (h1 : Within T orig s) : ∃ z, execTrainingComplete p ok s = .next z ∧ Within T orig z
    := by
  refine ⟨_, rfl, ?_⟩
  with_reducible repeat' first
    | (intro _) | assumption | (exact subP_trans (by decide) hT) | apply within_trainingComplete | split | dsimp only

theorem tidy_execTrainingTimeout (q : List Instr) (p : Fin 16) (s : State) (h1 : Tidy q s) : ∃ z, execTrainingTimeout
    p s = .next z ∧ Tidy q z := by
  refine ⟨_, rfl, ?_⟩
  with_reducible repeat' first
    | (intro _) | assumption | apply tidy_trainingTimeout | (simp only [tidy_mk]; apply tidy_back) | split
    | dsimp only

theorem within_execTrainingTimeout (T : List Part) (orig : State) (hT : subP [.od, .fab, .sec] T = true) (p : Fin 16)
    (s : State) (h1 : Within T orig s) : ∃ z, execTrainingTimeout p s = .next z ∧ Within T orig z := by
  refine ⟨_, rfl, ?_⟩
  with_reducible repeat' first
    | (intro _) | assumption | (exact subP_trans (by decide) hT) | apply within_trainingTimeout | split | dsimp only

theorem tidy_execIdentExchange (q : List Instr) (p : Fin 16) (i : IdentIn) (s : State) (h1 : Tidy q s) : ∃ z,
    execIdentExchange p i s = .next z ∧ Tidy q z := by
  refine ⟨_, rfl, ?_⟩
  with_reducible repeat' first
    | (intro _) | assumption | apply tidy_identExchange | (simp only [tidy_mk]; apply tidy_back) | split | dsimp only

theorem within_execIdentExchange (T : List Part) (orig : State) (hT : subP [.od, .freeCtr, .fab, .sec, .tim, .obs,
    .log, .frz] T = true) (p : Fin 16) (i : IdentIn) (s : State) (h1 : Within T orig s) : ∃ z, execIdentExchange p i s
    = .next z ∧ Within T orig z := by
  refine ⟨_, rfl, ?_⟩
  with_reducible repeat' first
    | (intro _) | assumption | (exact subP_trans (by decide) hT) | apply within_identExchange | split | dsimp only

theorem tidy_execIdentRepeat (q : List Instr) (p : Fin 16) (i : IdentIn) (s : State) (h1 : Tidy q s) : ∃ z,
    execIdentRepeat p i s = .next z ∧ Tidy q z := by
  refine ⟨_, rfl, ?_⟩
  with_reducible repeat' first
    | (intro _) | assumption | apply tidy_identRepeat | (simp only [tidy_mk]; apply tidy_back) | split | dsimp only

theorem within_execIdentRepeat (T : List Part) (orig : State) (hT : subP [.od, .out, .freeCtr, .fab, .sec, .obs, .log,
    .frz] T = true) (p : Fin 16) (i : IdentIn) (s : State) (h1 : Within T orig s) : ∃ z, execIdentRepeat p i s = .next
    z ∧ Within T orig z := by
  refine ⟨_, rfl, ?_⟩
  with_reducible repeat' first
    | (intro _) | assumption | (exact subP_trans (by decide) hT) | apply within_identRepeat | split | dsimp only

theorem tidy_execKeyingTimeout (q : List Instr) (p : Fin 16) (s : State) (h1 : Tidy q s) : ∃ z, execKeyingTimeout p s
    = .next z ∧ Tidy q z := by
  refine ⟨_, rfl, ?_⟩
  with_reducible repeat' first
    | (intro _) | assumption | apply tidy_keyingTimeout | (simp only [tidy_mk]; apply tidy_back) | split | dsimp only

theorem within_execKeyingTimeout (T : List Part) (orig : State) (hT : subP [.od, .fab, .sec, .obs, .log, .frz] T =
    true) (p : Fin 16) (s : State) (h1 : Within T orig s) : ∃ z, execKeyingTimeout p s = .next z ∧ Within T orig z :=
    by
  refine ⟨_, rfl, ?_⟩
  with_reducible repeat' first
    | (intro _) | assumption | (exact subP_trans (by decide) hT) | apply within_keyingTimeout | split | dsimp only

theorem tidy_execFailedPortTimeout (q : List Instr) (p : Fin 16) (s : State) (h1 : Tidy q s) : ∃ z,
    execFailedPortTimeout p s = .next z ∧ Tidy q z := by
  refine ⟨_, rfl, ?_⟩
  with_reducible repeat' first
    | (intro _) | assumption | apply tidy_failedTimeout | (simp only [tidy_mk]; apply tidy_back) | split | dsimp only

theorem within_execFailedPortTimeout (T : List Part) (orig : State) (hT : subP [.od, .fab, .sec] T = true) (p : Fin
    16) (s : State) (h1 : Within T orig s) : ∃ z, execFailedPortTimeout p s = .next z ∧ Within T orig z := by
  refine ⟨_, rfl, ?_⟩
  with_reducible repeat' first
    | (intro _) | assumption | (exact subP_trans (by decide) hT) | apply within_failedTimeout | split | dsimp only

theorem tidy_execLaneFailure (q : List Instr) (p : Fin 16) (lane : Option (Fin 8)) (s : State) (h1 : Tidy q s) : ∃ z,
    execLaneFailure p lane s = .next z ∧ Tidy q z := by
  refine ⟨_, rfl, ?_⟩
  with_reducible repeat' first
    | (intro _) | assumption | apply tidy_laneFailure | (simp only [tidy_mk]; apply tidy_back) | split | dsimp only

theorem within_execLaneFailure (T : List Part) (orig : State) (hT : subP [.od, .fab, .sec] T = true) (p : Fin 16)
    (lane : Option (Fin 8)) (s : State) (h1 : Within T orig s) : ∃ z, execLaneFailure p lane s = .next z ∧ Within T
    orig z := by
  refine ⟨_, rfl, ?_⟩
  with_reducible repeat' first
    | (intro _) | assumption | (exact subP_trans (by decide) hT) | apply within_laneFailure | split | dsimp only

theorem tidy_execFlitTransmit (q : List Instr) (p : Fin 16) (crVc : Fin 8) (crCount : Fin 1024) (s : State) (h1 : Tidy
    q s) : ∃ z, execFlitTransmit p crVc crCount s = .next z ∧ Tidy q z := by
  refine ⟨_, rfl, ?_⟩
  with_reducible repeat' first
    | (intro _) | assumption | apply tidy_flitTransmit | (simp only [tidy_mk]; apply tidy_back) | split | dsimp only

theorem within_execFlitTransmit (T : List Part) (orig : State) (hT : subP [.od, .out, .fab, .sec] T = true) (p : Fin
    16) (crVc : Fin 8) (crCount : Fin 1024) (s : State) (h1 : Within T orig s) : ∃ z, execFlitTransmit p crVc crCount
    s = .next z ∧ Within T orig z := by
  refine ⟨_, rfl, ?_⟩
  with_reducible repeat' first
    | (intro _) | assumption | (exact subP_trans (by decide) hT) | apply within_flitTransmit | split | dsimp only

theorem tidy_execNakRepeat (q : List Instr) (p : Fin 16) (s : State) (h1 : Tidy q s) : ∃ z, execNakRepeat p s = .next
    z ∧ Tidy q z := by
  refine ⟨_, rfl, ?_⟩
  with_reducible repeat' first
    | (intro _) | assumption | apply tidy_nakRepeat | (simp only [tidy_mk]; apply tidy_back) | split | dsimp only

theorem within_execNakRepeat (T : List Part) (orig : State) (hT : subP [.fab] T = true) (p : Fin 16) (s : State) (h1 :
    Within T orig s) : ∃ z, execNakRepeat p s = .next z ∧ Within T orig z := by
  refine ⟨_, rfl, ?_⟩
  with_reducible repeat' first
    | (intro _) | assumption | (exact subP_trans (by decide) hT) | apply within_nakRepeat | split | dsimp only

theorem tidy_execKeyRequestDue (q : List Instr) (p : Fin 16) (s : State) (h1 : Tidy q s) : ∃ z, execKeyRequestDue p s
    = .next z ∧ Tidy q z := by
  refine ⟨_, rfl, ?_⟩
  with_reducible repeat' first
    | (intro _) | assumption | apply tidy_keyRequestDue | (simp only [tidy_mk]; apply tidy_back) | split | dsimp only

theorem within_execKeyRequestDue (T : List Part) (orig : State) (hT : subP [.freeCtr, .fab] T = true) (p : Fin 16) (s
    : State) (h1 : Within T orig s) : ∃ z, execKeyRequestDue p s = .next z ∧ Within T orig z := by
  refine ⟨_, rfl, ?_⟩
  with_reducible repeat' first
    | (intro _) | assumption | (exact subP_trans (by decide) hT) | apply within_keyRequestDue | split | dsimp only

theorem tidy_execCert (q : List Instr) (p : Fin 16) (mode : Nat) (sec : Nat) (nonce : Nat) (len : Nat) (chainOk :
    Bool) (s : State) (h1 : Tidy q s) : ∃ z, execCert p mode sec nonce len chainOk s = .next z ∧ Tidy q z := by
  refine ⟨_, rfl, ?_⟩
  with_reducible repeat' first
    | (intro _) | assumption | apply tidy_certIn | (simp only [tidy_mk]; apply tidy_back) | split | dsimp only

theorem within_execCert (T : List Part) (orig : State) (hT : subP [.od, .fab, .sec] T = true) (p : Fin 16) (mode :
    Nat) (sec : Nat) (nonce : Nat) (len : Nat) (chainOk : Bool) (s : State) (h1 : Within T orig s) : ∃ z, execCert p
    mode sec nonce len chainOk s = .next z ∧ Within T orig z := by
  refine ⟨_, rfl, ?_⟩
  with_reducible repeat' first
    | (intro _) | assumption | (exact subP_trans (by decide) hT) | apply within_certIn | split | dsimp only

theorem tidy_execKeyRequest (q : List Instr) (p : Fin 16) (phase : Fin 2) (nonce : Nat) (s : State) (h1 : Tidy q s) :
    ∃ z, execKeyRequest p phase nonce s = .next z ∧ Tidy q z := by
  refine ⟨_, rfl, ?_⟩
  with_reducible repeat' first
    | (intro _) | assumption | apply tidy_keyRequestIn | (simp only [tidy_mk]; apply tidy_back) | split | dsimp only

theorem within_execKeyRequest (T : List Part) (orig : State) (hT : subP [.freeCtr, .fab, .sec] T = true) (p : Fin 16)
    (phase : Fin 2) (nonce : Nat) (s : State) (h1 : Within T orig s) : ∃ z, execKeyRequest p phase nonce s = .next z ∧
    Within T orig z := by
  refine ⟨_, rfl, ?_⟩
  with_reducible repeat' first
    | (intro _) | assumption | (exact subP_trans (by decide) hT) | apply within_keyRequestIn | split | dsimp only

theorem tidy_execKeyOffer (q : List Instr) (p : Fin 16) (o : OfferIn) (s : State) (h1 : Tidy q s) : ∃ z, execKeyOffer
    p o s = .next z ∧ Tidy q z := by
  refine ⟨_, rfl, ?_⟩
  with_reducible repeat' first
    | (intro _) | assumption | apply tidy_keyOfferIn | (simp only [tidy_mk]; apply tidy_back) | split | dsimp only

theorem within_execKeyOffer (T : List Part) (orig : State) (hT : subP [.sec] T = true) (p : Fin 16) (o : OfferIn) (s :
    State) (h1 : Within T orig s) : ∃ z, execKeyOffer p o s = .next z ∧ Within T orig z := by
  refine ⟨_, rfl, ?_⟩
  with_reducible repeat' first
    | (intro _) | assumption | (exact subP_trans (by decide) hT) | apply within_keyOfferIn | split | dsimp only

theorem tidy_execKeyAck (q : List Instr) (p : Fin 16) (phase : Fin 2) (effective : Nat) (s : State) (h1 : Tidy q s) :
    ∃ z, execKeyAck p phase effective s = .next z ∧ Tidy q z := by
  refine ⟨_, rfl, ?_⟩
  with_reducible repeat' first
    | (intro _) | assumption | apply tidy_keyAckIn | apply tidy_ite | (simp only [tidy_mk]; apply tidy_back) | split
    | dsimp only

theorem within_execKeyAck (T : List Part) (orig : State) (hT : subP [.od, .out, .fab, .sec] T = true) (p : Fin 16)
    (phase : Fin 2) (effective : Nat) (s : State) (h1 : Within T orig s) : ∃ z, execKeyAck p phase effective s = .next
    z ∧ Within T orig z := by
  refine ⟨_, rfl, ?_⟩
  with_reducible repeat' first
    | (intro _) | assumption | (exact subP_trans (by decide) hT) | apply within_keyAckIn | apply within_ite | split
    | dsimp only

theorem tidy_execLocateForward (q : List Instr) (p : Fin 16) (on : Bool) (s : State) (h1 : Tidy q s) : ∃ z,
    execLocateForward p on s = .next z ∧ Tidy q z := by
  refine ⟨_, rfl, ?_⟩
  with_reducible repeat' first
    | (intro _) | assumption | apply tidy_locateForward | (simp only [tidy_mk]; apply tidy_back) | split | dsimp only

theorem within_execLocateForward (T : List Part) (orig : State) (hT : subP [.fab] T = true) (p : Fin 16) (on : Bool)
    (s : State) (h1 : Within T orig s) : ∃ z, execLocateForward p on s = .next z ∧ Within T orig z := by
  refine ⟨_, rfl, ?_⟩
  with_reducible repeat' first
    | (intro _) | assumption | (exact subP_trans (by decide) hT) | apply within_locateForward | split | dsimp only

theorem tidy_execConnHealthUpdate (q : List Instr) (p : Fin 16) (i : LaneIn) (s : State) (h1 : Tidy q s) : ∃ z,
    execConnHealthUpdate p i s = .next z ∧ Tidy q z := by
  refine ⟨_, rfl, ?_⟩
  with_reducible repeat' first
    | (intro _) | assumption | apply tidy_connHealth | (simp only [tidy_mk]; apply tidy_back) | split | dsimp only

theorem within_execConnHealthUpdate (T : List Part) (orig : State) (hT : subP [.od, .out] T = true) (p : Fin 16) (i :
    LaneIn) (s : State) (h1 : Within T orig s) : ∃ z, execConnHealthUpdate p i s = .next z ∧ Within T orig z := by
  refine ⟨_, rfl, ?_⟩
  with_reducible repeat' first
    | (intro _) | assumption | (exact subP_trans (by decide) hT) | apply within_connHealth | split | dsimp only

theorem tidy_execPacketArrival (q : List Instr) (port : Fin 16) (s : State) (h1 : Tidy q s) : ∃ z, execPacketArrival
    port s = .next z ∧ Tidy q z := by
  refine ⟨_, rfl, ?_⟩
  with_reducible repeat' first
    | (intro _) | assumption | apply tidy_packetArrival | (simp only [tidy_mk]; apply tidy_back) | split | dsimp only

theorem within_execPacketArrival (T : List Part) (orig : State) (hT : subP [.od, .fab, .obs, .log, .frz] T = true)
    (port : Fin 16) (s : State) (h1 : Within T orig s) : ∃ z, execPacketArrival port s = .next z ∧ Within T orig z :=
    by
  refine ⟨_, rfl, ?_⟩
  with_reducible repeat' first
    | (intro _) | assumption | (exact subP_trans (by decide) hT) | apply within_packetArrival | split | dsimp only

theorem tidy_execOutputArbitrationGrant (q : List Instr) (out : Fin 24) (s : State) (h1 : Tidy q s) : ∃ z,
    execOutputArbitrationGrant out s = .next z ∧ Tidy q z := by
  refine ⟨_, rfl, ?_⟩
  with_reducible repeat' first
    | (intro _) | assumption | apply tidy_arbitrate | (simp only [tidy_mk]; apply tidy_back) | split | dsimp only

theorem within_execOutputArbitrationGrant (T : List Part) (orig : State) (hT : subP [.od, .out, .ecc, .fab, .obs,
    .log, .frz, .can] T = true) (out : Fin 24) (s : State) (h1 : Within T orig s) : ∃ z, execOutputArbitrationGrant
    out s = .next z ∧ Within T orig z := by
  refine ⟨_, rfl, ?_⟩
  with_reducible repeat' first
    | (intro _) | assumption | (exact subP_trans (by decide) hT) | apply within_arbitrate | split | dsimp only

end Sys2Proof.Machine
end

