-- ==== Sys2Proof/Laws/CommandTile.lean ====
section
/-! SUPPORT. Every command completes, keeps memory canonical and the queue as it is, and changes no part of the state but
those it may touch: the objects, the trace, the logbook, memory and the tiles. -/
namespace Sys2Proof.Machine
open Sys2Proof

theorem tidy_execMma (q : List Instr) (t : TileId) (f : RegForm) (s : State) (h1 : Tidy q s) : ∃ z, execMma t f s =
    .next z ∧ Tidy q z := by
  refine ⟨_, rfl, ?_⟩
  with_reducible repeat' first
    | (intro _) | assumption | apply tidy_issueReg | apply tidy_matIssue | (apply tidySlot_of; assumption)
    | (apply tidySlot_ofExc; assumption) | (apply tidySlot_ofUe; assumption) | (simp only [tidy_mk]; apply tidy_back)
    | split | dsimp only

theorem within_execMma (T : List Part) (orig : State) (hT : subP [.od, .out, .freeCtr, .mem, .ecc, .tiles, .mesh,
    .graphs, .flt, .obs, .log, .frz, .can] T = true) (t : TileId) (f : RegForm) (s : State) (h1 : Within T orig s) : ∃
    z, execMma t f s = .next z ∧ Within T orig z := by
  refine ⟨_, rfl, ?_⟩
  with_reducible repeat' first
    | (intro _) | assumption | (exact subP_trans (by decide) hT) | apply within_issueReg | apply within_matIssue
    | (apply withinSlot_of; assumption) | (apply withinSlot_ofExc; assumption) | (apply withinSlot_ofUe; assumption)
    | split | dsimp only

theorem tidy_execMmout (q : List Instr) (t : TileId) (f : RegForm) (s : State) (h1 : Tidy q s) : ∃ z, execMmout t f s
    = .next z ∧ Tidy q z := by
  refine ⟨_, rfl, ?_⟩
  with_reducible repeat' first
    | (intro _) | assumption | apply tidy_issueReg | apply tidy_matIssue | (apply tidySlot_of; assumption)
    | (apply tidySlot_ofExc; assumption) | (apply tidySlot_ofUe; assumption) | (simp only [tidy_mk]; apply tidy_back)
    | split | dsimp only

theorem within_execMmout (T : List Part) (orig : State) (hT : subP [.od, .out, .freeCtr, .mem, .ecc, .tiles, .mesh,
    .graphs, .flt, .obs, .log, .frz, .can] T = true) (t : TileId) (f : RegForm) (s : State) (h1 : Within T orig s) : ∃
    z, execMmout t f s = .next z ∧ Within T orig z := by
  refine ⟨_, rfl, ?_⟩
  with_reducible repeat' first
    | (intro _) | assumption | (exact subP_trans (by decide) hT) | apply within_issueReg | apply within_matIssue
    | (apply withinSlot_of; assumption) | (apply withinSlot_ofExc; assumption) | (apply withinSlot_ofUe; assumption)
    | split | dsimp only

theorem tidy_execMldacc (q : List Instr) (t : TileId) (f : RegForm) (s : State) (h1 : Tidy q s) : ∃ z, execMldacc t f
    s = .next z ∧ Tidy q z := by
  refine ⟨_, rfl, ?_⟩
  with_reducible repeat' first
    | (intro _) | assumption | apply tidy_issueReg | apply tidy_matIssue | apply tidy_ite
    | (apply tidySlot_of; assumption) | (apply tidySlot_ofExc; assumption) | (apply tidySlot_ofUe; assumption)
    | (simp only [tidy_mk]; apply tidy_back) | split | dsimp only

theorem within_execMldacc (T : List Part) (orig : State) (hT : subP [.od, .out, .freeCtr, .mem, .ecc, .tiles, .mesh,
    .graphs, .flt, .obs, .log, .frz, .can] T = true) (t : TileId) (f : RegForm) (s : State) (h1 : Within T orig s) : ∃
    z, execMldacc t f s = .next z ∧ Within T orig z := by
  refine ⟨_, rfl, ?_⟩
  with_reducible repeat' first
    | (intro _) | assumption | (exact subP_trans (by decide) hT) | apply within_issueReg | apply within_matIssue
    | apply within_ite | (apply withinSlot_of; assumption) | (apply withinSlot_ofExc; assumption)
    | (apply withinSlot_ofUe; assumption) | split | dsimp only

theorem tidy_execMclr (q : List Instr) (t : TileId) (f : RegForm) (s : State) (h1 : Tidy q s) : ∃ z, execMclr t f s =
    .next z ∧ Tidy q z := by
  refine ⟨_, rfl, ?_⟩
  with_reducible repeat' first
    | (intro _) | assumption | apply tidy_issueReg | apply tidy_matIssue | (apply tidySlot_of; assumption)
    | (apply tidySlot_ofExc; assumption) | (apply tidySlot_ofUe; assumption) | (simp only [tidy_mk]; apply tidy_back)
    | split | dsimp only

theorem within_execMclr (T : List Part) (orig : State) (hT : subP [.od, .out, .freeCtr, .mem, .ecc, .tiles, .mesh,
    .graphs, .flt, .obs, .log, .frz, .can] T = true) (t : TileId) (f : RegForm) (s : State) (h1 : Within T orig s) : ∃
    z, execMclr t f s = .next z ∧ Within T orig z := by
  refine ⟨_, rfl, ?_⟩
  with_reducible repeat' first
    | (intro _) | assumption | (exact subP_trans (by decide) hT) | apply within_issueReg | apply within_matIssue
    | (apply withinSlot_of; assumption) | (apply withinSlot_ofExc; assumption) | (apply withinSlot_ofUe; assumption)
    | split | dsimp only

theorem tidy_execMatrixOpComplete (q : List Instr) (t : TileId) (busy : Nat) (s : State) (h1 : Tidy q s) : ∃ z,
    execMatrixOpComplete t busy s = .next z ∧ Tidy q z := by
  refine ⟨_, rfl, ?_⟩
  with_reducible repeat' first
    | (intro _) | assumption | apply tidy_matComplete | (simp only [tidy_mk]; apply tidy_back) | split | dsimp only

theorem within_execMatrixOpComplete (T : List Part) (orig : State) (hT : subP [.od, .out, .mem, .ecc, .tiles, .graphs,
    .flt, .obs, .log, .frz, .can] T = true) (t : TileId) (busy : Nat) (s : State) (h1 : Within T orig s) : ∃ z,
    execMatrixOpComplete t busy s = .next z ∧ Within T orig z := by
  refine ⟨_, rfl, ?_⟩
  with_reducible repeat' first
    | (intro _) | assumption | (exact subP_trans (by decide) hT) | apply within_matComplete | split | dsimp only

theorem tidy_execFadd (q : List Instr) (t : TileId) (f : RegForm) (s : State) (h1 : Tidy q s) : ∃ z, execFadd t f s =
    .next z ∧ Tidy q z := by
  refine ⟨_, rfl, ?_⟩
  with_reducible repeat' first
    | (intro _) | assumption | apply tidy_issueReg | apply tidy_vecBin | (apply tidySlot_of; assumption)
    | (apply tidySlot_ofExc; assumption) | (apply tidySlot_ofUe; assumption) | (simp only [tidy_mk]; apply tidy_back)
    | split | dsimp only

theorem within_execFadd (T : List Part) (orig : State) (hT : subP [.od, .out, .freeCtr, .mem, .ecc, .tiles, .mesh,
    .graphs, .flt, .obs, .log, .frz, .can] T = true) (t : TileId) (f : RegForm) (s : State) (h1 : Within T orig s) : ∃
    z, execFadd t f s = .next z ∧ Within T orig z := by
  refine ⟨_, rfl, ?_⟩
  with_reducible repeat' first
    | (intro _) | assumption | (exact subP_trans (by decide) hT) | apply within_issueReg | apply within_vecBin
    | (apply withinSlot_of; assumption) | (apply withinSlot_ofExc; assumption) | (apply withinSlot_ofUe; assumption)
    | split | dsimp only

theorem tidy_execFsub (q : List Instr) (t : TileId) (f : RegForm) (s : State) (h1 : Tidy q s) : ∃ z, execFsub t f s =
    .next z ∧ Tidy q z := by
  refine ⟨_, rfl, ?_⟩
  with_reducible repeat' first
    | (intro _) | assumption | apply tidy_issueReg | apply tidy_vecBin | (apply tidySlot_of; assumption)
    | (apply tidySlot_ofExc; assumption) | (apply tidySlot_ofUe; assumption) | (simp only [tidy_mk]; apply tidy_back)
    | split | dsimp only

theorem within_execFsub (T : List Part) (orig : State) (hT : subP [.od, .out, .freeCtr, .mem, .ecc, .tiles, .mesh,
    .graphs, .flt, .obs, .log, .frz, .can] T = true) (t : TileId) (f : RegForm) (s : State) (h1 : Within T orig s) : ∃
    z, execFsub t f s = .next z ∧ Within T orig z := by
  refine ⟨_, rfl, ?_⟩
  with_reducible repeat' first
    | (intro _) | assumption | (exact subP_trans (by decide) hT) | apply within_issueReg | apply within_vecBin
    | (apply withinSlot_of; assumption) | (apply withinSlot_ofExc; assumption) | (apply withinSlot_ofUe; assumption)
    | split | dsimp only

theorem tidy_execFmul (q : List Instr) (t : TileId) (f : RegForm) (s : State) (h1 : Tidy q s) : ∃ z, execFmul t f s =
    .next z ∧ Tidy q z := by
  refine ⟨_, rfl, ?_⟩
  with_reducible repeat' first
    | (intro _) | assumption | apply tidy_issueReg | apply tidy_vecBin | (apply tidySlot_of; assumption)
    | (apply tidySlot_ofExc; assumption) | (apply tidySlot_ofUe; assumption) | (simp only [tidy_mk]; apply tidy_back)
    | split | dsimp only

theorem within_execFmul (T : List Part) (orig : State) (hT : subP [.od, .out, .freeCtr, .mem, .ecc, .tiles, .mesh,
    .graphs, .flt, .obs, .log, .frz, .can] T = true) (t : TileId) (f : RegForm) (s : State) (h1 : Within T orig s) : ∃
    z, execFmul t f s = .next z ∧ Within T orig z := by
  refine ⟨_, rfl, ?_⟩
  with_reducible repeat' first
    | (intro _) | assumption | (exact subP_trans (by decide) hT) | apply within_issueReg | apply within_vecBin
    | (apply withinSlot_of; assumption) | (apply withinSlot_ofExc; assumption) | (apply withinSlot_ofUe; assumption)
    | split | dsimp only

theorem tidy_execFfma (q : List Instr) (t : TileId) (f : RegForm) (s : State) (h1 : Tidy q s) : ∃ z, execFfma t f s =
    .next z ∧ Tidy q z := by
  refine ⟨_, rfl, ?_⟩
  with_reducible repeat' first
    | (intro _) | assumption | apply tidy_issueReg | apply tidy_lanesOp | (apply tidySlot_of; assumption)
    | (apply tidySlot_ofExc; assumption) | (apply tidySlot_ofUe; assumption) | (simp only [tidy_mk]; apply tidy_back)
    | split | dsimp only

theorem within_execFfma (T : List Part) (orig : State) (hT : subP [.od, .out, .freeCtr, .mem, .ecc, .tiles, .mesh,
    .graphs, .flt, .obs, .log, .frz, .can] T = true) (t : TileId) (f : RegForm) (s : State) (h1 : Within T orig s) : ∃
    z, execFfma t f s = .next z ∧ Within T orig z := by
  refine ⟨_, rfl, ?_⟩
  with_reducible repeat' first
    | (intro _) | assumption | (exact subP_trans (by decide) hT) | apply within_issueReg | apply within_lanesOp
    | (apply withinSlot_of; assumption) | (apply withinSlot_ofExc; assumption) | (apply withinSlot_ofUe; assumption)
    | split | dsimp only

theorem tidy_execFmin (q : List Instr) (t : TileId) (f : RegForm) (s : State) (h1 : Tidy q s) : ∃ z, execFmin t f s =
    .next z ∧ Tidy q z := by
  refine ⟨_, rfl, ?_⟩
  with_reducible repeat' first
    | (intro _) | assumption | apply tidy_issueReg | apply tidy_vecBin | (apply tidySlot_of; assumption)
    | (apply tidySlot_ofExc; assumption) | (apply tidySlot_ofUe; assumption) | (simp only [tidy_mk]; apply tidy_back)
    | split | dsimp only

theorem within_execFmin (T : List Part) (orig : State) (hT : subP [.od, .out, .freeCtr, .mem, .ecc, .tiles, .mesh,
    .graphs, .flt, .obs, .log, .frz, .can] T = true) (t : TileId) (f : RegForm) (s : State) (h1 : Within T orig s) : ∃
    z, execFmin t f s = .next z ∧ Within T orig z := by
  refine ⟨_, rfl, ?_⟩
  with_reducible repeat' first
    | (intro _) | assumption | (exact subP_trans (by decide) hT) | apply within_issueReg | apply within_vecBin
    | (apply withinSlot_of; assumption) | (apply withinSlot_ofExc; assumption) | (apply withinSlot_ofUe; assumption)
    | split | dsimp only

theorem tidy_execFmax (q : List Instr) (t : TileId) (f : RegForm) (s : State) (h1 : Tidy q s) : ∃ z, execFmax t f s =
    .next z ∧ Tidy q z := by
  refine ⟨_, rfl, ?_⟩
  with_reducible repeat' first
    | (intro _) | assumption | apply tidy_issueReg | apply tidy_vecBin | (apply tidySlot_of; assumption)
    | (apply tidySlot_ofExc; assumption) | (apply tidySlot_ofUe; assumption) | (simp only [tidy_mk]; apply tidy_back)
    | split | dsimp only

theorem within_execFmax (T : List Part) (orig : State) (hT : subP [.od, .out, .freeCtr, .mem, .ecc, .tiles, .mesh,
    .graphs, .flt, .obs, .log, .frz, .can] T = true) (t : TileId) (f : RegForm) (s : State) (h1 : Within T orig s) : ∃
    z, execFmax t f s = .next z ∧ Within T orig z := by
  refine ⟨_, rfl, ?_⟩
  with_reducible repeat' first
    | (intro _) | assumption | (exact subP_trans (by decide) hT) | apply within_issueReg | apply within_vecBin
    | (apply withinSlot_of; assumption) | (apply withinSlot_ofExc; assumption) | (apply withinSlot_ofUe; assumption)
    | split | dsimp only

theorem tidy_execFabs (q : List Instr) (t : TileId) (f : RegForm) (s : State) (h1 : Tidy q s) : ∃ z, execFabs t f s =
    .next z ∧ Tidy q z := by
  refine ⟨_, rfl, ?_⟩
  with_reducible repeat' first
    | (intro _) | assumption | apply tidy_issueReg | apply tidy_vecUn | (apply tidySlot_of; assumption)
    | (apply tidySlot_ofExc; assumption) | (apply tidySlot_ofUe; assumption) | (simp only [tidy_mk]; apply tidy_back)
    | split | dsimp only

theorem within_execFabs (T : List Part) (orig : State) (hT : subP [.od, .out, .freeCtr, .mem, .ecc, .tiles, .mesh,
    .graphs, .flt, .obs, .log, .frz, .can] T = true) (t : TileId) (f : RegForm) (s : State) (h1 : Within T orig s) : ∃
    z, execFabs t f s = .next z ∧ Within T orig z := by
  refine ⟨_, rfl, ?_⟩
  with_reducible repeat' first
    | (intro _) | assumption | (exact subP_trans (by decide) hT) | apply within_issueReg | apply within_vecUn
    | (apply withinSlot_of; assumption) | (apply withinSlot_ofExc; assumption) | (apply withinSlot_ofUe; assumption)
    | split | dsimp only

theorem tidy_execFneg (q : List Instr) (t : TileId) (f : RegForm) (s : State) (h1 : Tidy q s) : ∃ z, execFneg t f s =
    .next z ∧ Tidy q z := by
  refine ⟨_, rfl, ?_⟩
  with_reducible repeat' first
    | (intro _) | assumption | apply tidy_issueReg | apply tidy_vecUn | (apply tidySlot_of; assumption)
    | (apply tidySlot_ofExc; assumption) | (apply tidySlot_ofUe; assumption) | (simp only [tidy_mk]; apply tidy_back)
    | split | dsimp only

theorem within_execFneg (T : List Part) (orig : State) (hT : subP [.od, .out, .freeCtr, .mem, .ecc, .tiles, .mesh,
    .graphs, .flt, .obs, .log, .frz, .can] T = true) (t : TileId) (f : RegForm) (s : State) (h1 : Within T orig s) : ∃
    z, execFneg t f s = .next z ∧ Within T orig z := by
  refine ⟨_, rfl, ?_⟩
  with_reducible repeat' first
    | (intro _) | assumption | (exact subP_trans (by decide) hT) | apply within_issueReg | apply within_vecUn
    | (apply withinSlot_of; assumption) | (apply withinSlot_ofExc; assumption) | (apply withinSlot_ofUe; assumption)
    | split | dsimp only

theorem tidy_execFdiv (q : List Instr) (t : TileId) (f : RegForm) (s : State) (h1 : Tidy q s) : ∃ z, execFdiv t f s =
    .next z ∧ Tidy q z := by
  refine ⟨_, rfl, ?_⟩
  with_reducible repeat' first
    | (intro _) | assumption | apply tidy_issueReg | apply tidy_vecBin | (apply tidySlot_of; assumption)
    | (apply tidySlot_ofExc; assumption) | (apply tidySlot_ofUe; assumption) | (simp only [tidy_mk]; apply tidy_back)
    | split | dsimp only

theorem within_execFdiv (T : List Part) (orig : State) (hT : subP [.od, .out, .freeCtr, .mem, .ecc, .tiles, .mesh,
    .graphs, .flt, .obs, .log, .frz, .can] T = true) (t : TileId) (f : RegForm) (s : State) (h1 : Within T orig s) : ∃
    z, execFdiv t f s = .next z ∧ Within T orig z := by
  refine ⟨_, rfl, ?_⟩
  with_reducible repeat' first
    | (intro _) | assumption | (exact subP_trans (by decide) hT) | apply within_issueReg | apply within_vecBin
    | (apply withinSlot_of; assumption) | (apply withinSlot_ofExc; assumption) | (apply withinSlot_ofUe; assumption)
    | split | dsimp only

theorem tidy_execFsqrt (q : List Instr) (t : TileId) (f : RegForm) (s : State) (h1 : Tidy q s) : ∃ z, execFsqrt t f s
    = .next z ∧ Tidy q z := by
  refine ⟨_, rfl, ?_⟩
  with_reducible repeat' first
    | (intro _) | assumption | apply tidy_issueReg | apply tidy_vecUn | (apply tidySlot_of; assumption)
    | (apply tidySlot_ofExc; assumption) | (apply tidySlot_ofUe; assumption) | (simp only [tidy_mk]; apply tidy_back)
    | split | dsimp only

theorem within_execFsqrt (T : List Part) (orig : State) (hT : subP [.od, .out, .freeCtr, .mem, .ecc, .tiles, .mesh,
    .graphs, .flt, .obs, .log, .frz, .can] T = true) (t : TileId) (f : RegForm) (s : State) (h1 : Within T orig s) : ∃
    z, execFsqrt t f s = .next z ∧ Within T orig z := by
  refine ⟨_, rfl, ?_⟩
  with_reducible repeat' first
    | (intro _) | assumption | (exact subP_trans (by decide) hT) | apply within_issueReg | apply within_vecUn
    | (apply withinSlot_of; assumption) | (apply withinSlot_ofExc; assumption) | (apply withinSlot_ofUe; assumption)
    | split | dsimp only

theorem tidy_execFrcp (q : List Instr) (t : TileId) (f : RegForm) (s : State) (h1 : Tidy q s) : ∃ z, execFrcp t f s =
    .next z ∧ Tidy q z := by
  refine ⟨_, rfl, ?_⟩
  with_reducible repeat' first
    | (intro _) | assumption | apply tidy_issueReg | apply tidy_vecUn | (apply tidySlot_of; assumption)
    | (apply tidySlot_ofExc; assumption) | (apply tidySlot_ofUe; assumption) | (simp only [tidy_mk]; apply tidy_back)
    | split | dsimp only

theorem within_execFrcp (T : List Part) (orig : State) (hT : subP [.od, .out, .freeCtr, .mem, .ecc, .tiles, .mesh,
    .graphs, .flt, .obs, .log, .frz, .can] T = true) (t : TileId) (f : RegForm) (s : State) (h1 : Within T orig s) : ∃
    z, execFrcp t f s = .next z ∧ Within T orig z := by
  refine ⟨_, rfl, ?_⟩
  with_reducible repeat' first
    | (intro _) | assumption | (exact subP_trans (by decide) hT) | apply within_issueReg | apply within_vecUn
    | (apply withinSlot_of; assumption) | (apply withinSlot_ofExc; assumption) | (apply withinSlot_ofUe; assumption)
    | split | dsimp only

theorem tidy_execFrsq (q : List Instr) (t : TileId) (f : RegForm) (s : State) (h1 : Tidy q s) : ∃ z, execFrsq t f s =
    .next z ∧ Tidy q z := by
  refine ⟨_, rfl, ?_⟩
  with_reducible repeat' first
    | (intro _) | assumption | apply tidy_issueReg | apply tidy_vecUn | (apply tidySlot_of; assumption)
    | (apply tidySlot_ofExc; assumption) | (apply tidySlot_ofUe; assumption) | (simp only [tidy_mk]; apply tidy_back)
    | split | dsimp only

theorem within_execFrsq (T : List Part) (orig : State) (hT : subP [.od, .out, .freeCtr, .mem, .ecc, .tiles, .mesh,
    .graphs, .flt, .obs, .log, .frz, .can] T = true) (t : TileId) (f : RegForm) (s : State) (h1 : Within T orig s) : ∃
    z, execFrsq t f s = .next z ∧ Within T orig z := by
  refine ⟨_, rfl, ?_⟩
  with_reducible repeat' first
    | (intro _) | assumption | (exact subP_trans (by decide) hT) | apply within_issueReg | apply within_vecUn
    | (apply withinSlot_of; assumption) | (apply withinSlot_ofExc; assumption) | (apply withinSlot_ofUe; assumption)
    | split | dsimp only

theorem tidy_execFexp2 (q : List Instr) (t : TileId) (f : RegForm) (s : State) (h1 : Tidy q s) : ∃ z, execFexp2 t f s
    = .next z ∧ Tidy q z := by
  refine ⟨_, rfl, ?_⟩
  with_reducible repeat' first
    | (intro _) | assumption | apply tidy_issueReg | apply tidy_vecUn | (apply tidySlot_of; assumption)
    | (apply tidySlot_ofExc; assumption) | (apply tidySlot_ofUe; assumption) | (simp only [tidy_mk]; apply tidy_back)
    | split | dsimp only

theorem within_execFexp2 (T : List Part) (orig : State) (hT : subP [.od, .out, .freeCtr, .mem, .ecc, .tiles, .mesh,
    .graphs, .flt, .obs, .log, .frz, .can] T = true) (t : TileId) (f : RegForm) (s : State) (h1 : Within T orig s) : ∃
    z, execFexp2 t f s = .next z ∧ Within T orig z := by
  refine ⟨_, rfl, ?_⟩
  with_reducible repeat' first
    | (intro _) | assumption | (exact subP_trans (by decide) hT) | apply within_issueReg | apply within_vecUn
    | (apply withinSlot_of; assumption) | (apply withinSlot_ofExc; assumption) | (apply withinSlot_ofUe; assumption)
    | split | dsimp only

theorem tidy_execFlog2 (q : List Instr) (t : TileId) (f : RegForm) (s : State) (h1 : Tidy q s) : ∃ z, execFlog2 t f s
    = .next z ∧ Tidy q z := by
  refine ⟨_, rfl, ?_⟩
  with_reducible repeat' first
    | (intro _) | assumption | apply tidy_issueReg | apply tidy_vecUn | (apply tidySlot_of; assumption)
    | (apply tidySlot_ofExc; assumption) | (apply tidySlot_ofUe; assumption) | (simp only [tidy_mk]; apply tidy_back)
    | split | dsimp only

theorem within_execFlog2 (T : List Part) (orig : State) (hT : subP [.od, .out, .freeCtr, .mem, .ecc, .tiles, .mesh,
    .graphs, .flt, .obs, .log, .frz, .can] T = true) (t : TileId) (f : RegForm) (s : State) (h1 : Within T orig s) : ∃
    z, execFlog2 t f s = .next z ∧ Within T orig z := by
  refine ⟨_, rfl, ?_⟩
  with_reducible repeat' first
    | (intro _) | assumption | (exact subP_trans (by decide) hT) | apply within_issueReg | apply within_vecUn
    | (apply withinSlot_of; assumption) | (apply withinSlot_ofExc; assumption) | (apply withinSlot_ofUe; assumption)
    | split | dsimp only

theorem tidy_execFtanh (q : List Instr) (t : TileId) (f : RegForm) (s : State) (h1 : Tidy q s) : ∃ z, execFtanh t f s
    = .next z ∧ Tidy q z := by
  refine ⟨_, rfl, ?_⟩
  with_reducible repeat' first
    | (intro _) | assumption | apply tidy_issueReg | apply tidy_vecUn | (apply tidySlot_of; assumption)
    | (apply tidySlot_ofExc; assumption) | (apply tidySlot_ofUe; assumption) | (simp only [tidy_mk]; apply tidy_back)
    | split | dsimp only

theorem within_execFtanh (T : List Part) (orig : State) (hT : subP [.od, .out, .freeCtr, .mem, .ecc, .tiles, .mesh,
    .graphs, .flt, .obs, .log, .frz, .can] T = true) (t : TileId) (f : RegForm) (s : State) (h1 : Within T orig s) : ∃
    z, execFtanh t f s = .next z ∧ Within T orig z := by
  refine ⟨_, rfl, ?_⟩
  with_reducible repeat' first
    | (intro _) | assumption | (exact subP_trans (by decide) hT) | apply within_issueReg | apply within_vecUn
    | (apply withinSlot_of; assumption) | (apply withinSlot_ofExc; assumption) | (apply withinSlot_ofUe; assumption)
    | split | dsimp only

theorem tidy_execIadd (q : List Instr) (t : TileId) (f : RegForm) (s : State) (h1 : Tidy q s) : ∃ z, execIadd t f s =
    .next z ∧ Tidy q z := by
  refine ⟨_, rfl, ?_⟩
  with_reducible repeat' first
    | (intro _) | assumption | apply tidy_issueReg | apply tidy_vecInt | (apply tidySlot_of; assumption)
    | (apply tidySlot_ofExc; assumption) | (apply tidySlot_ofUe; assumption) | (simp only [tidy_mk]; apply tidy_back)
    | split | dsimp only

theorem within_execIadd (T : List Part) (orig : State) (hT : subP [.od, .out, .freeCtr, .mem, .ecc, .tiles, .mesh,
    .graphs, .flt, .obs, .log, .frz, .can] T = true) (t : TileId) (f : RegForm) (s : State) (h1 : Within T orig s) : ∃
    z, execIadd t f s = .next z ∧ Within T orig z := by
  refine ⟨_, rfl, ?_⟩
  with_reducible repeat' first
    | (intro _) | assumption | (exact subP_trans (by decide) hT) | apply within_issueReg | apply within_vecInt
    | (apply withinSlot_of; assumption) | (apply withinSlot_ofExc; assumption) | (apply withinSlot_ofUe; assumption)
    | split | dsimp only

theorem tidy_execIsub (q : List Instr) (t : TileId) (f : RegForm) (s : State) (h1 : Tidy q s) : ∃ z, execIsub t f s =
    .next z ∧ Tidy q z := by
  refine ⟨_, rfl, ?_⟩
  with_reducible repeat' first
    | (intro _) | assumption | apply tidy_issueReg | apply tidy_vecInt | (apply tidySlot_of; assumption)
    | (apply tidySlot_ofExc; assumption) | (apply tidySlot_ofUe; assumption) | (simp only [tidy_mk]; apply tidy_back)
    | split | dsimp only

theorem within_execIsub (T : List Part) (orig : State) (hT : subP [.od, .out, .freeCtr, .mem, .ecc, .tiles, .mesh,
    .graphs, .flt, .obs, .log, .frz, .can] T = true) (t : TileId) (f : RegForm) (s : State) (h1 : Within T orig s) : ∃
    z, execIsub t f s = .next z ∧ Within T orig z := by
  refine ⟨_, rfl, ?_⟩
  with_reducible repeat' first
    | (intro _) | assumption | (exact subP_trans (by decide) hT) | apply within_issueReg | apply within_vecInt
    | (apply withinSlot_of; assumption) | (apply withinSlot_ofExc; assumption) | (apply withinSlot_ofUe; assumption)
    | split | dsimp only

theorem tidy_execImul (q : List Instr) (t : TileId) (f : RegForm) (s : State) (h1 : Tidy q s) : ∃ z, execImul t f s =
    .next z ∧ Tidy q z := by
  refine ⟨_, rfl, ?_⟩
  with_reducible repeat' first
    | (intro _) | assumption | apply tidy_issueReg | apply tidy_vecInt | (apply tidySlot_of; assumption)
    | (apply tidySlot_ofExc; assumption) | (apply tidySlot_ofUe; assumption) | (simp only [tidy_mk]; apply tidy_back)
    | split | dsimp only

theorem within_execImul (T : List Part) (orig : State) (hT : subP [.od, .out, .freeCtr, .mem, .ecc, .tiles, .mesh,
    .graphs, .flt, .obs, .log, .frz, .can] T = true) (t : TileId) (f : RegForm) (s : State) (h1 : Within T orig s) : ∃
    z, execImul t f s = .next z ∧ Within T orig z := by
  refine ⟨_, rfl, ?_⟩
  with_reducible repeat' first
    | (intro _) | assumption | (exact subP_trans (by decide) hT) | apply within_issueReg | apply within_vecInt
    | (apply withinSlot_of; assumption) | (apply withinSlot_ofExc; assumption) | (apply withinSlot_ofUe; assumption)
    | split | dsimp only

theorem tidy_execImin (q : List Instr) (t : TileId) (f : RegForm) (s : State) (h1 : Tidy q s) : ∃ z, execImin t f s =
    .next z ∧ Tidy q z := by
  refine ⟨_, rfl, ?_⟩
  with_reducible repeat' first
    | (intro _) | assumption | apply tidy_issueReg | apply tidy_vecInt | (apply tidySlot_of; assumption)
    | (apply tidySlot_ofExc; assumption) | (apply tidySlot_ofUe; assumption) | (simp only [tidy_mk]; apply tidy_back)
    | split | dsimp only

theorem within_execImin (T : List Part) (orig : State) (hT : subP [.od, .out, .freeCtr, .mem, .ecc, .tiles, .mesh,
    .graphs, .flt, .obs, .log, .frz, .can] T = true) (t : TileId) (f : RegForm) (s : State) (h1 : Within T orig s) : ∃
    z, execImin t f s = .next z ∧ Within T orig z := by
  refine ⟨_, rfl, ?_⟩
  with_reducible repeat' first
    | (intro _) | assumption | (exact subP_trans (by decide) hT) | apply within_issueReg | apply within_vecInt
    | (apply withinSlot_of; assumption) | (apply withinSlot_ofExc; assumption) | (apply withinSlot_ofUe; assumption)
    | split | dsimp only

theorem tidy_execImax (q : List Instr) (t : TileId) (f : RegForm) (s : State) (h1 : Tidy q s) : ∃ z, execImax t f s =
    .next z ∧ Tidy q z := by
  refine ⟨_, rfl, ?_⟩
  with_reducible repeat' first
    | (intro _) | assumption | apply tidy_issueReg | apply tidy_vecInt | (apply tidySlot_of; assumption)
    | (apply tidySlot_ofExc; assumption) | (apply tidySlot_ofUe; assumption) | (simp only [tidy_mk]; apply tidy_back)
    | split | dsimp only

theorem within_execImax (T : List Part) (orig : State) (hT : subP [.od, .out, .freeCtr, .mem, .ecc, .tiles, .mesh,
    .graphs, .flt, .obs, .log, .frz, .can] T = true) (t : TileId) (f : RegForm) (s : State) (h1 : Within T orig s) : ∃
    z, execImax t f s = .next z ∧ Within T orig z := by
  refine ⟨_, rfl, ?_⟩
  with_reducible repeat' first
    | (intro _) | assumption | (exact subP_trans (by decide) hT) | apply within_issueReg | apply within_vecInt
    | (apply withinSlot_of; assumption) | (apply withinSlot_ofExc; assumption) | (apply withinSlot_ofUe; assumption)
    | split | dsimp only

theorem tidy_execAndV (q : List Instr) (t : TileId) (f : RegForm) (s : State) (h1 : Tidy q s) : ∃ z, execAndV t f s =
    .next z ∧ Tidy q z := by
  refine ⟨_, rfl, ?_⟩
  with_reducible repeat' first
    | (intro _) | assumption | apply tidy_issueReg | apply tidy_vecInt | (apply tidySlot_of; assumption)
    | (apply tidySlot_ofExc; assumption) | (apply tidySlot_ofUe; assumption) | (simp only [tidy_mk]; apply tidy_back)
    | split | dsimp only

theorem within_execAndV (T : List Part) (orig : State) (hT : subP [.od, .out, .freeCtr, .mem, .ecc, .tiles, .mesh,
    .graphs, .flt, .obs, .log, .frz, .can] T = true) (t : TileId) (f : RegForm) (s : State) (h1 : Within T orig s) : ∃
    z, execAndV t f s = .next z ∧ Within T orig z := by
  refine ⟨_, rfl, ?_⟩
  with_reducible repeat' first
    | (intro _) | assumption | (exact subP_trans (by decide) hT) | apply within_issueReg | apply within_vecInt
    | (apply withinSlot_of; assumption) | (apply withinSlot_ofExc; assumption) | (apply withinSlot_ofUe; assumption)
    | split | dsimp only

theorem tidy_execOrV (q : List Instr) (t : TileId) (f : RegForm) (s : State) (h1 : Tidy q s) : ∃ z, execOrV t f s =
    .next z ∧ Tidy q z := by
  refine ⟨_, rfl, ?_⟩
  with_reducible repeat' first
    | (intro _) | assumption | apply tidy_issueReg | apply tidy_vecInt | (apply tidySlot_of; assumption)
    | (apply tidySlot_ofExc; assumption) | (apply tidySlot_ofUe; assumption) | (simp only [tidy_mk]; apply tidy_back)
    | split | dsimp only

theorem within_execOrV (T : List Part) (orig : State) (hT : subP [.od, .out, .freeCtr, .mem, .ecc, .tiles, .mesh,
    .graphs, .flt, .obs, .log, .frz, .can] T = true) (t : TileId) (f : RegForm) (s : State) (h1 : Within T orig s) : ∃
    z, execOrV t f s = .next z ∧ Within T orig z := by
  refine ⟨_, rfl, ?_⟩
  with_reducible repeat' first
    | (intro _) | assumption | (exact subP_trans (by decide) hT) | apply within_issueReg | apply within_vecInt
    | (apply withinSlot_of; assumption) | (apply withinSlot_ofExc; assumption) | (apply withinSlot_ofUe; assumption)
    | split | dsimp only

theorem tidy_execXorV (q : List Instr) (t : TileId) (f : RegForm) (s : State) (h1 : Tidy q s) : ∃ z, execXorV t f s =
    .next z ∧ Tidy q z := by
  refine ⟨_, rfl, ?_⟩
  with_reducible repeat' first
    | (intro _) | assumption | apply tidy_issueReg | apply tidy_vecInt | (apply tidySlot_of; assumption)
    | (apply tidySlot_ofExc; assumption) | (apply tidySlot_ofUe; assumption) | (simp only [tidy_mk]; apply tidy_back)
    | split | dsimp only

theorem within_execXorV (T : List Part) (orig : State) (hT : subP [.od, .out, .freeCtr, .mem, .ecc, .tiles, .mesh,
    .graphs, .flt, .obs, .log, .frz, .can] T = true) (t : TileId) (f : RegForm) (s : State) (h1 : Within T orig s) : ∃
    z, execXorV t f s = .next z ∧ Within T orig z := by
  refine ⟨_, rfl, ?_⟩
  with_reducible repeat' first
    | (intro _) | assumption | (exact subP_trans (by decide) hT) | apply within_issueReg | apply within_vecInt
    | (apply withinSlot_of; assumption) | (apply withinSlot_ofExc; assumption) | (apply withinSlot_ofUe; assumption)
    | split | dsimp only

theorem tidy_execShl (q : List Instr) (t : TileId) (f : RegForm) (s : State) (h1 : Tidy q s) : ∃ z, execShl t f s =
    .next z ∧ Tidy q z := by
  refine ⟨_, rfl, ?_⟩
  with_reducible repeat' first
    | (intro _) | assumption | apply tidy_issueReg | apply tidy_vecInt | (apply tidySlot_of; assumption)
    | (apply tidySlot_ofExc; assumption) | (apply tidySlot_ofUe; assumption) | (simp only [tidy_mk]; apply tidy_back)
    | split | dsimp only

theorem within_execShl (T : List Part) (orig : State) (hT : subP [.od, .out, .freeCtr, .mem, .ecc, .tiles, .mesh,
    .graphs, .flt, .obs, .log, .frz, .can] T = true) (t : TileId) (f : RegForm) (s : State) (h1 : Within T orig s) : ∃
    z, execShl t f s = .next z ∧ Within T orig z := by
  refine ⟨_, rfl, ?_⟩
  with_reducible repeat' first
    | (intro _) | assumption | (exact subP_trans (by decide) hT) | apply within_issueReg | apply within_vecInt
    | (apply withinSlot_of; assumption) | (apply withinSlot_ofExc; assumption) | (apply withinSlot_ofUe; assumption)
    | split | dsimp only

theorem tidy_execShr (q : List Instr) (t : TileId) (f : RegForm) (s : State) (h1 : Tidy q s) : ∃ z, execShr t f s =
    .next z ∧ Tidy q z := by
  refine ⟨_, rfl, ?_⟩
  with_reducible repeat' first
    | (intro _) | assumption | apply tidy_issueReg | apply tidy_vecInt | (apply tidySlot_of; assumption)
    | (apply tidySlot_ofExc; assumption) | (apply tidySlot_ofUe; assumption) | (simp only [tidy_mk]; apply tidy_back)
    | split | dsimp only

theorem within_execShr (T : List Part) (orig : State) (hT : subP [.od, .out, .freeCtr, .mem, .ecc, .tiles, .mesh,
    .graphs, .flt, .obs, .log, .frz, .can] T = true) (t : TileId) (f : RegForm) (s : State) (h1 : Within T orig s) : ∃
    z, execShr t f s = .next z ∧ Within T orig z := by
  refine ⟨_, rfl, ?_⟩
  with_reducible repeat' first
    | (intro _) | assumption | (exact subP_trans (by decide) hT) | apply within_issueReg | apply within_vecInt
    | (apply withinSlot_of; assumption) | (apply withinSlot_ofExc; assumption) | (apply withinSlot_ofUe; assumption)
    | split | dsimp only

theorem tidy_execSra (q : List Instr) (t : TileId) (f : RegForm) (s : State) (h1 : Tidy q s) : ∃ z, execSra t f s =
    .next z ∧ Tidy q z := by
  refine ⟨_, rfl, ?_⟩
  with_reducible repeat' first
    | (intro _) | assumption | apply tidy_issueReg | apply tidy_vecInt | (apply tidySlot_of; assumption)
    | (apply tidySlot_ofExc; assumption) | (apply tidySlot_ofUe; assumption) | (simp only [tidy_mk]; apply tidy_back)
    | split | dsimp only

theorem within_execSra (T : List Part) (orig : State) (hT : subP [.od, .out, .freeCtr, .mem, .ecc, .tiles, .mesh,
    .graphs, .flt, .obs, .log, .frz, .can] T = true) (t : TileId) (f : RegForm) (s : State) (h1 : Within T orig s) : ∃
    z, execSra t f s = .next z ∧ Within T orig z := by
  refine ⟨_, rfl, ?_⟩
  with_reducible repeat' first
    | (intro _) | assumption | (exact subP_trans (by decide) hT) | apply within_issueReg | apply within_vecInt
    | (apply withinSlot_of; assumption) | (apply withinSlot_ofExc; assumption) | (apply withinSlot_ofUe; assumption)
    | split | dsimp only

theorem tidy_execScanf (q : List Instr) (t : TileId) (f : RegForm) (s : State) (h1 : Tidy q s) : ∃ z, execScanf t f s
    = .next z ∧ Tidy q z := by
  refine ⟨_, rfl, ?_⟩
  with_reducible repeat' first
    | (intro _) | assumption | apply tidy_issueReg | apply tidy_vecScan | (apply tidySlot_of; assumption)
    | (apply tidySlot_ofExc; assumption) | (apply tidySlot_ofUe; assumption) | (simp only [tidy_mk]; apply tidy_back)
    | split | dsimp only

theorem within_execScanf (T : List Part) (orig : State) (hT : subP [.od, .out, .freeCtr, .mem, .ecc, .tiles, .mesh,
    .graphs, .flt, .obs, .log, .frz, .can] T = true) (t : TileId) (f : RegForm) (s : State) (h1 : Within T orig s) : ∃
    z, execScanf t f s = .next z ∧ Within T orig z := by
  refine ⟨_, rfl, ?_⟩
  with_reducible repeat' first
    | (intro _) | assumption | (exact subP_trans (by decide) hT) | apply within_issueReg | apply within_vecScan
    | (apply withinSlot_of; assumption) | (apply withinSlot_ofExc; assumption) | (apply withinSlot_ofUe; assumption)
    | split | dsimp only

theorem tidy_execScani (q : List Instr) (t : TileId) (f : RegForm) (s : State) (h1 : Tidy q s) : ∃ z, execScani t f s
    = .next z ∧ Tidy q z := by
  refine ⟨_, rfl, ?_⟩
  with_reducible repeat' first
    | (intro _) | assumption | apply tidy_issueReg | apply tidy_vecScan | (apply tidySlot_of; assumption)
    | (apply tidySlot_ofExc; assumption) | (apply tidySlot_ofUe; assumption) | (simp only [tidy_mk]; apply tidy_back)
    | split | dsimp only

theorem within_execScani (T : List Part) (orig : State) (hT : subP [.od, .out, .freeCtr, .mem, .ecc, .tiles, .mesh,
    .graphs, .flt, .obs, .log, .frz, .can] T = true) (t : TileId) (f : RegForm) (s : State) (h1 : Within T orig s) : ∃
    z, execScani t f s = .next z ∧ Within T orig z := by
  refine ⟨_, rfl, ?_⟩
  with_reducible repeat' first
    | (intro _) | assumption | (exact subP_trans (by decide) hT) | apply within_issueReg | apply within_vecScan
    | (apply withinSlot_of; assumption) | (apply withinSlot_ofExc; assumption) | (apply withinSlot_ofUe; assumption)
    | split | dsimp only

theorem tidy_execScanmax (q : List Instr) (t : TileId) (f : RegForm) (s : State) (h1 : Tidy q s) : ∃ z, execScanmax t
    f s = .next z ∧ Tidy q z := by
  refine ⟨_, rfl, ?_⟩
  with_reducible repeat' first
    | (intro _) | assumption | apply tidy_issueReg | apply tidy_vecScan | (apply tidySlot_of; assumption)
    | (apply tidySlot_ofExc; assumption) | (apply tidySlot_ofUe; assumption) | (simp only [tidy_mk]; apply tidy_back)
    | split | dsimp only

theorem within_execScanmax (T : List Part) (orig : State) (hT : subP [.od, .out, .freeCtr, .mem, .ecc, .tiles, .mesh,
    .graphs, .flt, .obs, .log, .frz, .can] T = true) (t : TileId) (f : RegForm) (s : State) (h1 : Within T orig s) : ∃
    z, execScanmax t f s = .next z ∧ Within T orig z := by
  refine ⟨_, rfl, ?_⟩
  with_reducible repeat' first
    | (intro _) | assumption | (exact subP_trans (by decide) hT) | apply within_issueReg | apply within_vecScan
    | (apply withinSlot_of; assumption) | (apply withinSlot_ofExc; assumption) | (apply withinSlot_ofUe; assumption)
    | split | dsimp only

theorem tidy_execScanmin (q : List Instr) (t : TileId) (f : RegForm) (s : State) (h1 : Tidy q s) : ∃ z, execScanmin t
    f s = .next z ∧ Tidy q z := by
  refine ⟨_, rfl, ?_⟩
  with_reducible repeat' first
    | (intro _) | assumption | apply tidy_issueReg | apply tidy_vecScan | (apply tidySlot_of; assumption)
    | (apply tidySlot_ofExc; assumption) | (apply tidySlot_ofUe; assumption) | (simp only [tidy_mk]; apply tidy_back)
    | split | dsimp only

theorem within_execScanmin (T : List Part) (orig : State) (hT : subP [.od, .out, .freeCtr, .mem, .ecc, .tiles, .mesh,
    .graphs, .flt, .obs, .log, .frz, .can] T = true) (t : TileId) (f : RegForm) (s : State) (h1 : Within T orig s) : ∃
    z, execScanmin t f s = .next z ∧ Within T orig z := by
  refine ⟨_, rfl, ?_⟩
  with_reducible repeat' first
    | (intro _) | assumption | (exact subP_trans (by decide) hT) | apply within_issueReg | apply within_vecScan
    | (apply withinSlot_of; assumption) | (apply withinSlot_ofExc; assumption) | (apply withinSlot_ofUe; assumption)
    | split | dsimp only

theorem tidy_execRedf (q : List Instr) (t : TileId) (f : RegForm) (s : State) (h1 : Tidy q s) : ∃ z, execRedf t f s =
    .next z ∧ Tidy q z := by
  refine ⟨_, rfl, ?_⟩
  with_reducible repeat' first
    | (intro _) | assumption | apply tidy_issueReg | apply tidy_vecRed | (apply tidySlot_of; assumption)
    | (apply tidySlot_ofExc; assumption) | (apply tidySlot_ofUe; assumption) | (simp only [tidy_mk]; apply tidy_back)
    | split | dsimp only

theorem within_execRedf (T : List Part) (orig : State) (hT : subP [.od, .out, .freeCtr, .mem, .ecc, .tiles, .mesh,
    .graphs, .flt, .obs, .log, .frz, .can] T = true) (t : TileId) (f : RegForm) (s : State) (h1 : Within T orig s) : ∃
    z, execRedf t f s = .next z ∧ Within T orig z := by
  refine ⟨_, rfl, ?_⟩
  with_reducible repeat' first
    | (intro _) | assumption | (exact subP_trans (by decide) hT) | apply within_issueReg | apply within_vecRed
    | (apply withinSlot_of; assumption) | (apply withinSlot_ofExc; assumption) | (apply withinSlot_ofUe; assumption)
    | split | dsimp only

theorem tidy_execRedi (q : List Instr) (t : TileId) (f : RegForm) (s : State) (h1 : Tidy q s) : ∃ z, execRedi t f s =
    .next z ∧ Tidy q z := by
  refine ⟨_, rfl, ?_⟩
  with_reducible repeat' first
    | (intro _) | assumption | apply tidy_issueReg | apply tidy_vecRed | (apply tidySlot_of; assumption)
    | (apply tidySlot_ofExc; assumption) | (apply tidySlot_ofUe; assumption) | (simp only [tidy_mk]; apply tidy_back)
    | split | dsimp only

theorem within_execRedi (T : List Part) (orig : State) (hT : subP [.od, .out, .freeCtr, .mem, .ecc, .tiles, .mesh,
    .graphs, .flt, .obs, .log, .frz, .can] T = true) (t : TileId) (f : RegForm) (s : State) (h1 : Within T orig s) : ∃
    z, execRedi t f s = .next z ∧ Within T orig z := by
  refine ⟨_, rfl, ?_⟩
  with_reducible repeat' first
    | (intro _) | assumption | (exact subP_trans (by decide) hT) | apply within_issueReg | apply within_vecRed
    | (apply withinSlot_of; assumption) | (apply withinSlot_ofExc; assumption) | (apply withinSlot_ofUe; assumption)
    | split | dsimp only

theorem tidy_execRedmax (q : List Instr) (t : TileId) (f : RegForm) (s : State) (h1 : Tidy q s) : ∃ z, execRedmax t f
    s = .next z ∧ Tidy q z := by
  refine ⟨_, rfl, ?_⟩
  with_reducible repeat' first
    | (intro _) | assumption | apply tidy_issueReg | apply tidy_vecRed | (apply tidySlot_of; assumption)
    | (apply tidySlot_ofExc; assumption) | (apply tidySlot_ofUe; assumption) | (simp only [tidy_mk]; apply tidy_back)
    | split | dsimp only

theorem within_execRedmax (T : List Part) (orig : State) (hT : subP [.od, .out, .freeCtr, .mem, .ecc, .tiles, .mesh,
    .graphs, .flt, .obs, .log, .frz, .can] T = true) (t : TileId) (f : RegForm) (s : State) (h1 : Within T orig s) : ∃
    z, execRedmax t f s = .next z ∧ Within T orig z := by
  refine ⟨_, rfl, ?_⟩
  with_reducible repeat' first
    | (intro _) | assumption | (exact subP_trans (by decide) hT) | apply within_issueReg | apply within_vecRed
    | (apply withinSlot_of; assumption) | (apply withinSlot_ofExc; assumption) | (apply withinSlot_ofUe; assumption)
    | split | dsimp only

theorem tidy_execRedmin (q : List Instr) (t : TileId) (f : RegForm) (s : State) (h1 : Tidy q s) : ∃ z, execRedmin t f
    s = .next z ∧ Tidy q z := by
  refine ⟨_, rfl, ?_⟩
  with_reducible repeat' first
    | (intro _) | assumption | apply tidy_issueReg | apply tidy_vecRed | (apply tidySlot_of; assumption)
    | (apply tidySlot_ofExc; assumption) | (apply tidySlot_ofUe; assumption) | (simp only [tidy_mk]; apply tidy_back)
    | split | dsimp only

theorem within_execRedmin (T : List Part) (orig : State) (hT : subP [.od, .out, .freeCtr, .mem, .ecc, .tiles, .mesh,
    .graphs, .flt, .obs, .log, .frz, .can] T = true) (t : TileId) (f : RegForm) (s : State) (h1 : Within T orig s) : ∃
    z, execRedmin t f s = .next z ∧ Within T orig z := by
  refine ⟨_, rfl, ?_⟩
  with_reducible repeat' first
    | (intro _) | assumption | (exact subP_trans (by decide) hT) | apply within_issueReg | apply within_vecRed
    | (apply withinSlot_of; assumption) | (apply withinSlot_ofExc; assumption) | (apply withinSlot_ofUe; assumption)
    | split | dsimp only

theorem tidy_execEaadd (q : List Instr) (t : TileId) (f : RegForm) (s : State) (h1 : Tidy q s) : ∃ z, execEaadd t f s
    = .next z ∧ Tidy q z := by
  refine ⟨_, rfl, ?_⟩
  with_reducible repeat' first
    | (intro _) | assumption | apply tidy_issueReg | apply tidy_ite | apply tidyRes_ite | apply tidyRes_ok
    | apply tidyRes_ue | apply tidyServe_ok | apply tidyServe_ue | apply tidySlot_ok | apply tidySlot_exc
    | apply tidySlot_ue | apply tidyOpt_some | apply tidyOpt_none | apply tidyAns_some | apply tidyAns_none
    | apply tidy_snd_ite | (apply tidyRes_of; assumption) | (apply tidyRes_ofUe; assumption)
    | (apply tidyServe_of; assumption) | (apply tidyServe_ofUe; assumption) | (apply tidySlot_of; assumption)
    | (apply tidySlot_ofExc; assumption) | (apply tidySlot_ofUe; assumption) | (apply tidyPair_of; assumption)
    | (apply tidyTriple_of; assumption) | (apply tidyOpt_of; assumption) | (apply tidyAns_of; assumption)
    | apply tidy_foldl | (simp only [tidy_mk]; apply tidy_back) | split | (simp only [id_eq]) | apply_assumption
    | dsimp only

theorem within_execEaadd (T : List Part) (orig : State) (hT : subP [.od, .out, .freeCtr, .mem, .ecc, .tiles, .mesh,
    .graphs, .flt, .obs, .log, .frz, .can] T = true) (t : TileId) (f : RegForm) (s : State) (h1 : Within T orig s) : ∃
    z, execEaadd t f s = .next z ∧ Within T orig z := by
  refine ⟨_, rfl, ?_⟩
  with_reducible repeat' first
    | (intro _) | assumption | (exact subP_trans (by decide) hT) | apply within_issueReg | apply within_ite
    | apply withinRes_ite | apply withinRes_ok | apply withinRes_ue | apply withinServe_ok | apply withinServe_ue
    | apply withinSlot_ok | apply withinSlot_exc | apply withinSlot_ue | apply withinOpt_some | apply withinOpt_none
    | apply withinAns_some | apply withinAns_none | apply within_snd_ite | (apply withinRes_of; assumption)
    | (apply withinRes_ofUe; assumption) | (apply withinServe_of; assumption) | (apply withinServe_ofUe; assumption)
    | (apply withinSlot_of; assumption) | (apply withinSlot_ofExc; assumption) | (apply withinSlot_ofUe; assumption)
    | (apply withinPair_of; assumption) | (apply withinTriple_of; assumption) | (apply withinOpt_of; assumption)
    | (apply withinAns_of; assumption) | apply within_foldl | split | (simp only [id_eq]) | apply_assumption
    | dsimp only

theorem tidy_execEared (q : List Instr) (t : TileId) (f : RegForm) (s : State) (h1 : Tidy q s) : ∃ z, execEared t f s
    = .next z ∧ Tidy q z := by
  refine ⟨_, rfl, ?_⟩
  with_reducible repeat' first
    | (intro _) | assumption | apply tidy_issueReg | apply tidy_ite | apply tidyRes_ite | apply tidyRes_ok
    | apply tidyRes_ue | apply tidyServe_ok | apply tidyServe_ue | apply tidySlot_ok | apply tidySlot_exc
    | apply tidySlot_ue | apply tidyOpt_some | apply tidyOpt_none | apply tidyAns_some | apply tidyAns_none
    | apply tidy_snd_ite | (apply tidyRes_of; assumption) | (apply tidyRes_ofUe; assumption)
    | (apply tidyServe_of; assumption) | (apply tidyServe_ofUe; assumption) | (apply tidySlot_of; assumption)
    | (apply tidySlot_ofExc; assumption) | (apply tidySlot_ofUe; assumption) | (apply tidyPair_of; assumption)
    | (apply tidyTriple_of; assumption) | (apply tidyOpt_of; assumption) | (apply tidyAns_of; assumption)
    | apply tidy_foldl | (simp only [tidy_mk]; apply tidy_back) | split | (simp only [id_eq]) | apply_assumption
    | dsimp only

theorem within_execEared (T : List Part) (orig : State) (hT : subP [.od, .out, .freeCtr, .mem, .ecc, .tiles, .mesh,
    .graphs, .flt, .obs, .log, .frz, .can] T = true) (t : TileId) (f : RegForm) (s : State) (h1 : Within T orig s) : ∃
    z, execEared t f s = .next z ∧ Within T orig z := by
  refine ⟨_, rfl, ?_⟩
  with_reducible repeat' first
    | (intro _) | assumption | (exact subP_trans (by decide) hT) | apply within_issueReg | apply within_ite
    | apply withinRes_ite | apply withinRes_ok | apply withinRes_ue | apply withinServe_ok | apply withinServe_ue
    | apply withinSlot_ok | apply withinSlot_exc | apply withinSlot_ue | apply withinOpt_some | apply withinOpt_none
    | apply withinAns_some | apply withinAns_none | apply within_snd_ite | (apply withinRes_of; assumption)
    | (apply withinRes_ofUe; assumption) | (apply withinServe_of; assumption) | (apply withinServe_ofUe; assumption)
    | (apply withinSlot_of; assumption) | (apply withinSlot_ofExc; assumption) | (apply withinSlot_ofUe; assumption)
    | (apply withinPair_of; assumption) | (apply withinTriple_of; assumption) | (apply withinOpt_of; assumption)
    | (apply withinAns_of; assumption) | apply within_foldl | split | (simp only [id_eq]) | apply_assumption
    | dsimp only

theorem tidy_execEaout (q : List Instr) (t : TileId) (f : RegForm) (s : State) (h1 : Tidy q s) : ∃ z, execEaout t f s
    = .next z ∧ Tidy q z := by
  refine ⟨_, rfl, ?_⟩
  with_reducible repeat' first
    | (intro _) | assumption | apply tidy_issueReg | apply tidy_ite | apply tidyRes_ite | apply tidyRes_ok
    | apply tidyRes_ue | apply tidyServe_ok | apply tidyServe_ue | apply tidySlot_ok | apply tidySlot_exc
    | apply tidySlot_ue | apply tidyOpt_ite | apply tidyOpt_some | apply tidyOpt_none | apply tidyAns_ite
    | apply tidyAns_some | apply tidyAns_none | apply tidy_snd_ite | (apply tidyRes_of; assumption)
    | (apply tidyRes_ofUe; assumption) | (apply tidyServe_of; assumption) | (apply tidyServe_ofUe; assumption)
    | (apply tidySlot_of; assumption) | (apply tidySlot_ofExc; assumption) | (apply tidySlot_ofUe; assumption)
    | (apply tidyPair_of; assumption) | (apply tidyTriple_of; assumption) | (apply tidyOpt_of; assumption)
    | (apply tidyAns_of; assumption) | apply tidy_foldl | (simp only [tidy_mk]; apply tidy_back) | split
    | (simp only [id_eq]) | apply_assumption | dsimp only

theorem within_execEaout (T : List Part) (orig : State) (hT : subP [.od, .out, .freeCtr, .mem, .ecc, .tiles, .mesh,
    .graphs, .flt, .obs, .log, .frz, .can] T = true) (t : TileId) (f : RegForm) (s : State) (h1 : Within T orig s) : ∃
    z, execEaout t f s = .next z ∧ Within T orig z := by
  refine ⟨_, rfl, ?_⟩
  with_reducible repeat' first
    | (intro _) | assumption | (exact subP_trans (by decide) hT) | apply within_issueReg | apply within_ite
    | apply withinRes_ite | apply withinRes_ok | apply withinRes_ue | apply withinServe_ok | apply withinServe_ue
    | apply withinSlot_ok | apply withinSlot_exc | apply withinSlot_ue | apply withinOpt_ite | apply withinOpt_some
    | apply withinOpt_none | apply withinAns_ite | apply withinAns_some | apply withinAns_none | apply within_snd_ite
    | (apply withinRes_of; assumption) | (apply withinRes_ofUe; assumption) | (apply withinServe_of; assumption)
    | (apply withinServe_ofUe; assumption) | (apply withinSlot_of; assumption) | (apply withinSlot_ofExc; assumption)
    | (apply withinSlot_ofUe; assumption) | (apply withinPair_of; assumption) | (apply withinTriple_of; assumption)
    | (apply withinOpt_of; assumption) | (apply withinAns_of; assumption) | apply within_foldl | split
    | (simp only [id_eq]) | apply_assumption | dsimp only

theorem tidy_execEaclr (q : List Instr) (t : TileId) (f : RegForm) (s : State) (h1 : Tidy q s) : ∃ z, execEaclr t f s
    = .next z ∧ Tidy q z := by
  refine ⟨_, rfl, ?_⟩
  with_reducible repeat' first
    | (intro _) | assumption | apply tidy_issueReg | apply tidy_ite | apply tidyRes_ite | apply tidyRes_ok
    | apply tidyRes_ue | apply tidyServe_ok | apply tidyServe_ue | apply tidySlot_ok | apply tidySlot_exc
    | apply tidySlot_ue | apply tidyOpt_some | apply tidyOpt_none | apply tidyAns_some | apply tidyAns_none
    | apply tidy_snd_ite | (apply tidyRes_of; assumption) | (apply tidyRes_ofUe; assumption)
    | (apply tidyServe_of; assumption) | (apply tidyServe_ofUe; assumption) | (apply tidySlot_of; assumption)
    | (apply tidySlot_ofExc; assumption) | (apply tidySlot_ofUe; assumption) | (apply tidyPair_of; assumption)
    | (apply tidyTriple_of; assumption) | (apply tidyOpt_of; assumption) | (apply tidyAns_of; assumption)
    | apply tidy_foldl | (simp only [tidy_mk]; apply tidy_back) | split | (simp only [id_eq]) | apply_assumption
    | dsimp only

theorem within_execEaclr (T : List Part) (orig : State) (hT : subP [.od, .out, .freeCtr, .mem, .ecc, .tiles, .mesh,
    .graphs, .flt, .obs, .log, .frz, .can] T = true) (t : TileId) (f : RegForm) (s : State) (h1 : Within T orig s) : ∃
    z, execEaclr t f s = .next z ∧ Within T orig z := by
  refine ⟨_, rfl, ?_⟩
  with_reducible repeat' first
    | (intro _) | assumption | (exact subP_trans (by decide) hT) | apply within_issueReg | apply within_ite
    | apply withinRes_ite | apply withinRes_ok | apply withinRes_ue | apply withinServe_ok | apply withinServe_ue
    | apply withinSlot_ok | apply withinSlot_exc | apply withinSlot_ue | apply withinOpt_some | apply withinOpt_none
    | apply withinAns_some | apply withinAns_none | apply within_snd_ite | (apply withinRes_of; assumption)
    | (apply withinRes_ofUe; assumption) | (apply withinServe_of; assumption) | (apply withinServe_ofUe; assumption)
    | (apply withinSlot_of; assumption) | (apply withinSlot_ofExc; assumption) | (apply withinSlot_ofUe; assumption)
    | (apply withinPair_of; assumption) | (apply withinTriple_of; assumption) | (apply withinOpt_of; assumption)
    | (apply withinAns_of; assumption) | apply within_foldl | split | (simp only [id_eq]) | apply_assumption
    | dsimp only

theorem tidy_execVmov (q : List Instr) (t : TileId) (f : RegForm) (s : State) (h1 : Tidy q s) : ∃ z, execVmov t f s =
    .next z ∧ Tidy q z := by
  refine ⟨_, rfl, ?_⟩
  with_reducible repeat' first
    | (intro _) | assumption | apply tidy_issueReg | apply tidy_moveOp | (apply tidySlot_of; assumption)
    | (apply tidySlot_ofExc; assumption) | (apply tidySlot_ofUe; assumption) | (simp only [tidy_mk]; apply tidy_back)
    | split | dsimp only

theorem within_execVmov (T : List Part) (orig : State) (hT : subP [.od, .out, .freeCtr, .mem, .ecc, .tiles, .mesh,
    .graphs, .flt, .obs, .log, .frz, .can] T = true) (t : TileId) (f : RegForm) (s : State) (h1 : Within T orig s) : ∃
    z, execVmov t f s = .next z ∧ Within T orig z := by
  refine ⟨_, rfl, ?_⟩
  with_reducible repeat' first
    | (intro _) | assumption | (exact subP_trans (by decide) hT) | apply within_issueReg | apply within_moveOp
    | (apply withinSlot_of; assumption) | (apply withinSlot_ofExc; assumption) | (apply withinSlot_ofUe; assumption)
    | split | dsimp only

theorem tidy_execVbcast (q : List Instr) (t : TileId) (f : RegForm) (s : State) (h1 : Tidy q s) : ∃ z, execVbcast t f
    s = .next z ∧ Tidy q z := by
  refine ⟨_, rfl, ?_⟩
  with_reducible repeat' first
    | (intro _) | assumption | apply tidy_issueReg | apply tidy_moveOp | (apply tidySlot_of; assumption)
    | (apply tidySlot_ofExc; assumption) | (apply tidySlot_ofUe; assumption) | (simp only [tidy_mk]; apply tidy_back)
    | split | dsimp only

theorem within_execVbcast (T : List Part) (orig : State) (hT : subP [.od, .out, .freeCtr, .mem, .ecc, .tiles, .mesh,
    .graphs, .flt, .obs, .log, .frz, .can] T = true) (t : TileId) (f : RegForm) (s : State) (h1 : Within T orig s) : ∃
    z, execVbcast t f s = .next z ∧ Within T orig z := by
  refine ⟨_, rfl, ?_⟩
  with_reducible repeat' first
    | (intro _) | assumption | (exact subP_trans (by decide) hT) | apply within_issueReg | apply within_moveOp
    | (apply withinSlot_of; assumption) | (apply withinSlot_ofExc; assumption) | (apply withinSlot_ofUe; assumption)
    | split | dsimp only

theorem tidy_execViota (q : List Instr) (t : TileId) (f : RegForm) (s : State) (h1 : Tidy q s) : ∃ z, execViota t f s
    = .next z ∧ Tidy q z := by
  refine ⟨_, rfl, ?_⟩
  with_reducible repeat' first
    | (intro _) | assumption | apply tidy_issueReg | apply tidy_moveOp | (apply tidySlot_of; assumption)
    | (apply tidySlot_ofExc; assumption) | (apply tidySlot_ofUe; assumption) | (simp only [tidy_mk]; apply tidy_back)
    | split | dsimp only

theorem within_execViota (T : List Part) (orig : State) (hT : subP [.od, .out, .freeCtr, .mem, .ecc, .tiles, .mesh,
    .graphs, .flt, .obs, .log, .frz, .can] T = true) (t : TileId) (f : RegForm) (s : State) (h1 : Within T orig s) : ∃
    z, execViota t f s = .next z ∧ Within T orig z := by
  refine ⟨_, rfl, ?_⟩
  with_reducible repeat' first
    | (intro _) | assumption | (exact subP_trans (by decide) hT) | apply within_issueReg | apply within_moveOp
    | (apply withinSlot_of; assumption) | (apply withinSlot_ofExc; assumption) | (apply withinSlot_ofUe; assumption)
    | split | dsimp only

theorem tidy_execVperm (q : List Instr) (t : TileId) (f : RegForm) (s : State) (h1 : Tidy q s) : ∃ z, execVperm t f s
    = .next z ∧ Tidy q z := by
  refine ⟨_, rfl, ?_⟩
  with_reducible repeat' first
    | (intro _) | assumption | apply tidy_issueReg | apply tidy_moveOp | (apply tidySlot_of; assumption)
    | (apply tidySlot_ofExc; assumption) | (apply tidySlot_ofUe; assumption) | (simp only [tidy_mk]; apply tidy_back)
    | split | dsimp only

theorem within_execVperm (T : List Part) (orig : State) (hT : subP [.od, .out, .freeCtr, .mem, .ecc, .tiles, .mesh,
    .graphs, .flt, .obs, .log, .frz, .can] T = true) (t : TileId) (f : RegForm) (s : State) (h1 : Within T orig s) : ∃
    z, execVperm t f s = .next z ∧ Within T orig z := by
  refine ⟨_, rfl, ?_⟩
  with_reducible repeat' first
    | (intro _) | assumption | (exact subP_trans (by decide) hT) | apply within_issueReg | apply within_moveOp
    | (apply withinSlot_of; assumption) | (apply withinSlot_ofExc; assumption) | (apply withinSlot_ofUe; assumption)
    | split | dsimp only

theorem tidy_execVsel (q : List Instr) (t : TileId) (f : RegForm) (s : State) (h1 : Tidy q s) : ∃ z, execVsel t f s =
    .next z ∧ Tidy q z := by
  refine ⟨_, rfl, ?_⟩
  with_reducible repeat' first
    | (intro _) | assumption | apply tidy_issueReg | apply tidy_moveOp | apply tidy_ite
    | (apply tidySlot_of; assumption) | (apply tidySlot_ofExc; assumption) | (apply tidySlot_ofUe; assumption)
    | (simp only [tidy_mk]; apply tidy_back) | split | dsimp only

theorem within_execVsel (T : List Part) (orig : State) (hT : subP [.od, .out, .freeCtr, .mem, .ecc, .tiles, .mesh,
    .graphs, .flt, .obs, .log, .frz, .can] T = true) (t : TileId) (f : RegForm) (s : State) (h1 : Within T orig s) : ∃
    z, execVsel t f s = .next z ∧ Within T orig z := by
  refine ⟨_, rfl, ?_⟩
  with_reducible repeat' first
    | (intro _) | assumption | (exact subP_trans (by decide) hT) | apply within_issueReg | apply within_moveOp
    | apply within_ite | (apply withinSlot_of; assumption) | (apply withinSlot_ofExc; assumption)
    | (apply withinSlot_ofUe; assumption) | split | dsimp only

theorem tidy_execVcvt (q : List Instr) (t : TileId) (f : RegForm) (s : State) (h1 : Tidy q s) : ∃ z, execVcvt t f s =
    .next z ∧ Tidy q z := by
  refine ⟨_, rfl, ?_⟩
  with_reducible repeat' first
    | (intro _) | assumption | apply tidy_issueReg | apply tidy_cvtOp | (apply tidySlot_of; assumption)
    | (apply tidySlot_ofExc; assumption) | (apply tidySlot_ofUe; assumption) | (simp only [tidy_mk]; apply tidy_back)
    | split | dsimp only

theorem within_execVcvt (T : List Part) (orig : State) (hT : subP [.od, .out, .freeCtr, .mem, .ecc, .tiles, .mesh,
    .graphs, .flt, .obs, .log, .frz, .can] T = true) (t : TileId) (f : RegForm) (s : State) (h1 : Within T orig s) : ∃
    z, execVcvt t f s = .next z ∧ Within T orig z := by
  refine ⟨_, rfl, ?_⟩
  with_reducible repeat' first
    | (intro _) | assumption | (exact subP_trans (by decide) hT) | apply within_issueReg | apply within_cvtOp
    | (apply withinSlot_of; assumption) | (apply withinSlot_ofExc; assumption) | (apply withinSlot_ofUe; assumption)
    | split | dsimp only

theorem tidy_execVpack (q : List Instr) (t : TileId) (f : RegForm) (s : State) (h1 : Tidy q s) : ∃ z, execVpack t f s
    = .next z ∧ Tidy q z := by
  refine ⟨_, rfl, ?_⟩
  with_reducible repeat' first
    | (intro _) | assumption | apply tidy_issueReg | apply tidy_cvtOp | (apply tidySlot_of; assumption)
    | (apply tidySlot_ofExc; assumption) | (apply tidySlot_ofUe; assumption) | (simp only [tidy_mk]; apply tidy_back)
    | split | dsimp only

theorem within_execVpack (T : List Part) (orig : State) (hT : subP [.od, .out, .freeCtr, .mem, .ecc, .tiles, .mesh,
    .graphs, .flt, .obs, .log, .frz, .can] T = true) (t : TileId) (f : RegForm) (s : State) (h1 : Within T orig s) : ∃
    z, execVpack t f s = .next z ∧ Within T orig z := by
  refine ⟨_, rfl, ?_⟩
  with_reducible repeat' first
    | (intro _) | assumption | (exact subP_trans (by decide) hT) | apply within_issueReg | apply within_cvtOp
    | (apply withinSlot_of; assumption) | (apply withinSlot_ofExc; assumption) | (apply withinSlot_ofUe; assumption)
    | split | dsimp only

theorem tidy_execVunpack (q : List Instr) (t : TileId) (f : RegForm) (s : State) (h1 : Tidy q s) : ∃ z, execVunpack t
    f s = .next z ∧ Tidy q z := by
  refine ⟨_, rfl, ?_⟩
  with_reducible repeat' first
    | (intro _) | assumption | apply tidy_issueReg | apply tidy_cvtOp | (apply tidySlot_of; assumption)
    | (apply tidySlot_ofExc; assumption) | (apply tidySlot_ofUe; assumption) | (simp only [tidy_mk]; apply tidy_back)
    | split | dsimp only

theorem within_execVunpack (T : List Part) (orig : State) (hT : subP [.od, .out, .freeCtr, .mem, .ecc, .tiles, .mesh,
    .graphs, .flt, .obs, .log, .frz, .can] T = true) (t : TileId) (f : RegForm) (s : State) (h1 : Within T orig s) : ∃
    z, execVunpack t f s = .next z ∧ Within T orig z := by
  refine ⟨_, rfl, ?_⟩
  with_reducible repeat' first
    | (intro _) | assumption | (exact subP_trans (by decide) hT) | apply within_issueReg | apply within_cvtOp
    | (apply withinSlot_of; assumption) | (apply withinSlot_ofExc; assumption) | (apply withinSlot_ofUe; assumption)
    | split | dsimp only

theorem tidy_execFcmpeq (q : List Instr) (t : TileId) (f : RegForm) (s : State) (h1 : Tidy q s) : ∃ z, execFcmpeq t f
    s = .next z ∧ Tidy q z := by
  refine ⟨_, rfl, ?_⟩
  with_reducible repeat' first
    | (intro _) | assumption | apply tidy_issueReg | apply tidy_cmpOp | (apply tidySlot_of; assumption)
    | (apply tidySlot_ofExc; assumption) | (apply tidySlot_ofUe; assumption) | (simp only [tidy_mk]; apply tidy_back)
    | split | dsimp only

theorem within_execFcmpeq (T : List Part) (orig : State) (hT : subP [.od, .out, .freeCtr, .mem, .ecc, .tiles, .mesh,
    .graphs, .flt, .obs, .log, .frz, .can] T = true) (t : TileId) (f : RegForm) (s : State) (h1 : Within T orig s) : ∃
    z, execFcmpeq t f s = .next z ∧ Within T orig z := by
  refine ⟨_, rfl, ?_⟩
  with_reducible repeat' first
    | (intro _) | assumption | (exact subP_trans (by decide) hT) | apply within_issueReg | apply within_cmpOp
    | (apply withinSlot_of; assumption) | (apply withinSlot_ofExc; assumption) | (apply withinSlot_ofUe; assumption)
    | split | dsimp only

theorem tidy_execFcmplt (q : List Instr) (t : TileId) (f : RegForm) (s : State) (h1 : Tidy q s) : ∃ z, execFcmplt t f
    s = .next z ∧ Tidy q z := by
  refine ⟨_, rfl, ?_⟩
  with_reducible repeat' first
    | (intro _) | assumption | apply tidy_issueReg | apply tidy_cmpOp | (apply tidySlot_of; assumption)
    | (apply tidySlot_ofExc; assumption) | (apply tidySlot_ofUe; assumption) | (simp only [tidy_mk]; apply tidy_back)
    | split | dsimp only

theorem within_execFcmplt (T : List Part) (orig : State) (hT : subP [.od, .out, .freeCtr, .mem, .ecc, .tiles, .mesh,
    .graphs, .flt, .obs, .log, .frz, .can] T = true) (t : TileId) (f : RegForm) (s : State) (h1 : Within T orig s) : ∃
    z, execFcmplt t f s = .next z ∧ Within T orig z := by
  refine ⟨_, rfl, ?_⟩
  with_reducible repeat' first
    | (intro _) | assumption | (exact subP_trans (by decide) hT) | apply within_issueReg | apply within_cmpOp
    | (apply withinSlot_of; assumption) | (apply withinSlot_ofExc; assumption) | (apply withinSlot_ofUe; assumption)
    | split | dsimp only

theorem tidy_execFcmple (q : List Instr) (t : TileId) (f : RegForm) (s : State) (h1 : Tidy q s) : ∃ z, execFcmple t f
    s = .next z ∧ Tidy q z := by
  refine ⟨_, rfl, ?_⟩
  with_reducible repeat' first
    | (intro _) | assumption | apply tidy_issueReg | apply tidy_cmpOp | (apply tidySlot_of; assumption)
    | (apply tidySlot_ofExc; assumption) | (apply tidySlot_ofUe; assumption) | (simp only [tidy_mk]; apply tidy_back)
    | split | dsimp only

theorem within_execFcmple (T : List Part) (orig : State) (hT : subP [.od, .out, .freeCtr, .mem, .ecc, .tiles, .mesh,
    .graphs, .flt, .obs, .log, .frz, .can] T = true) (t : TileId) (f : RegForm) (s : State) (h1 : Within T orig s) : ∃
    z, execFcmple t f s = .next z ∧ Within T orig z := by
  refine ⟨_, rfl, ?_⟩
  with_reducible repeat' first
    | (intro _) | assumption | (exact subP_trans (by decide) hT) | apply within_issueReg | apply within_cmpOp
    | (apply withinSlot_of; assumption) | (apply withinSlot_ofExc; assumption) | (apply withinSlot_ofUe; assumption)
    | split | dsimp only

theorem tidy_execIcmpeq (q : List Instr) (t : TileId) (f : RegForm) (s : State) (h1 : Tidy q s) : ∃ z, execIcmpeq t f
    s = .next z ∧ Tidy q z := by
  refine ⟨_, rfl, ?_⟩
  with_reducible repeat' first
    | (intro _) | assumption | apply tidy_issueReg | apply tidy_cmpOp | (apply tidySlot_of; assumption)
    | (apply tidySlot_ofExc; assumption) | (apply tidySlot_ofUe; assumption) | (simp only [tidy_mk]; apply tidy_back)
    | split | dsimp only

theorem within_execIcmpeq (T : List Part) (orig : State) (hT : subP [.od, .out, .freeCtr, .mem, .ecc, .tiles, .mesh,
    .graphs, .flt, .obs, .log, .frz, .can] T = true) (t : TileId) (f : RegForm) (s : State) (h1 : Within T orig s) : ∃
    z, execIcmpeq t f s = .next z ∧ Within T orig z := by
  refine ⟨_, rfl, ?_⟩
  with_reducible repeat' first
    | (intro _) | assumption | (exact subP_trans (by decide) hT) | apply within_issueReg | apply within_cmpOp
    | (apply withinSlot_of; assumption) | (apply withinSlot_ofExc; assumption) | (apply withinSlot_ofUe; assumption)
    | split | dsimp only

theorem tidy_execIcmplt (q : List Instr) (t : TileId) (f : RegForm) (s : State) (h1 : Tidy q s) : ∃ z, execIcmplt t f
    s = .next z ∧ Tidy q z := by
  refine ⟨_, rfl, ?_⟩
  with_reducible repeat' first
    | (intro _) | assumption | apply tidy_issueReg | apply tidy_cmpOp | (apply tidySlot_of; assumption)
    | (apply tidySlot_ofExc; assumption) | (apply tidySlot_ofUe; assumption) | (simp only [tidy_mk]; apply tidy_back)
    | split | dsimp only

theorem within_execIcmplt (T : List Part) (orig : State) (hT : subP [.od, .out, .freeCtr, .mem, .ecc, .tiles, .mesh,
    .graphs, .flt, .obs, .log, .frz, .can] T = true) (t : TileId) (f : RegForm) (s : State) (h1 : Within T orig s) : ∃
    z, execIcmplt t f s = .next z ∧ Within T orig z := by
  refine ⟨_, rfl, ?_⟩
  with_reducible repeat' first
    | (intro _) | assumption | (exact subP_trans (by decide) hT) | apply within_issueReg | apply within_cmpOp
    | (apply withinSlot_of; assumption) | (apply withinSlot_ofExc; assumption) | (apply withinSlot_ofUe; assumption)
    | split | dsimp only

theorem tidy_execMand (q : List Instr) (t : TileId) (f : RegForm) (s : State) (h1 : Tidy q s) : ∃ z, execMand t f s =
    .next z ∧ Tidy q z := by
  refine ⟨_, rfl, ?_⟩
  with_reducible repeat' first
    | (intro _) | assumption | apply tidy_issueReg | apply tidy_maskOp | (apply tidySlot_of; assumption)
    | (apply tidySlot_ofExc; assumption) | (apply tidySlot_ofUe; assumption) | (simp only [tidy_mk]; apply tidy_back)
    | split | dsimp only

theorem within_execMand (T : List Part) (orig : State) (hT : subP [.od, .out, .freeCtr, .mem, .ecc, .tiles, .mesh,
    .graphs, .flt, .obs, .log, .frz, .can] T = true) (t : TileId) (f : RegForm) (s : State) (h1 : Within T orig s) : ∃
    z, execMand t f s = .next z ∧ Within T orig z := by
  refine ⟨_, rfl, ?_⟩
  with_reducible repeat' first
    | (intro _) | assumption | (exact subP_trans (by decide) hT) | apply within_issueReg | apply within_maskOp
    | (apply withinSlot_of; assumption) | (apply withinSlot_ofExc; assumption) | (apply withinSlot_ofUe; assumption)
    | split | dsimp only

theorem tidy_execMor (q : List Instr) (t : TileId) (f : RegForm) (s : State) (h1 : Tidy q s) : ∃ z, execMor t f s =
    .next z ∧ Tidy q z := by
  refine ⟨_, rfl, ?_⟩
  with_reducible repeat' first
    | (intro _) | assumption | apply tidy_issueReg | apply tidy_maskOp | (apply tidySlot_of; assumption)
    | (apply tidySlot_ofExc; assumption) | (apply tidySlot_ofUe; assumption) | (simp only [tidy_mk]; apply tidy_back)
    | split | dsimp only

theorem within_execMor (T : List Part) (orig : State) (hT : subP [.od, .out, .freeCtr, .mem, .ecc, .tiles, .mesh,
    .graphs, .flt, .obs, .log, .frz, .can] T = true) (t : TileId) (f : RegForm) (s : State) (h1 : Within T orig s) : ∃
    z, execMor t f s = .next z ∧ Within T orig z := by
  refine ⟨_, rfl, ?_⟩
  with_reducible repeat' first
    | (intro _) | assumption | (exact subP_trans (by decide) hT) | apply within_issueReg | apply within_maskOp
    | (apply withinSlot_of; assumption) | (apply withinSlot_ofExc; assumption) | (apply withinSlot_ofUe; assumption)
    | split | dsimp only

theorem tidy_execMnot (q : List Instr) (t : TileId) (f : RegForm) (s : State) (h1 : Tidy q s) : ∃ z, execMnot t f s =
    .next z ∧ Tidy q z := by
  refine ⟨_, rfl, ?_⟩
  with_reducible repeat' first
    | (intro _) | assumption | apply tidy_issueReg | apply tidy_maskOp | (apply tidySlot_of; assumption)
    | (apply tidySlot_ofExc; assumption) | (apply tidySlot_ofUe; assumption) | (simp only [tidy_mk]; apply tidy_back)
    | split | dsimp only

theorem within_execMnot (T : List Part) (orig : State) (hT : subP [.od, .out, .freeCtr, .mem, .ecc, .tiles, .mesh,
    .graphs, .flt, .obs, .log, .frz, .can] T = true) (t : TileId) (f : RegForm) (s : State) (h1 : Within T orig s) : ∃
    z, execMnot t f s = .next z ∧ Within T orig z := by
  refine ⟨_, rfl, ?_⟩
  with_reducible repeat' first
    | (intro _) | assumption | (exact subP_trans (by decide) hT) | apply within_issueReg | apply within_maskOp
    | (apply withinSlot_of; assumption) | (apply withinSlot_ofExc; assumption) | (apply withinSlot_ofUe; assumption)
    | split | dsimp only

theorem tidy_execMpop (q : List Instr) (t : TileId) (f : RegForm) (s : State) (h1 : Tidy q s) : ∃ z, execMpop t f s =
    .next z ∧ Tidy q z := by
  refine ⟨_, rfl, ?_⟩
  with_reducible repeat' first
    | (intro _) | assumption | apply tidy_issueReg | apply tidy_sclOp | (apply tidySlot_of; assumption)
    | (apply tidySlot_ofExc; assumption) | (apply tidySlot_ofUe; assumption) | (simp only [tidy_mk]; apply tidy_back)
    | split | dsimp only

theorem within_execMpop (T : List Part) (orig : State) (hT : subP [.od, .out, .freeCtr, .mem, .ecc, .tiles, .mesh,
    .graphs, .flt, .obs, .log, .frz, .can] T = true) (t : TileId) (f : RegForm) (s : State) (h1 : Within T orig s) : ∃
    z, execMpop t f s = .next z ∧ Within T orig z := by
  refine ⟨_, rfl, ?_⟩
  with_reducible repeat' first
    | (intro _) | assumption | (exact subP_trans (by decide) hT) | apply within_issueReg | apply within_sclOp
    | (apply withinSlot_of; assumption) | (apply withinSlot_ofExc; assumption) | (apply withinSlot_ofUe; assumption)
    | split | dsimp only

theorem tidy_execVext (q : List Instr) (t : TileId) (f : RegForm) (s : State) (h1 : Tidy q s) : ∃ z, execVext t f s =
    .next z ∧ Tidy q z := by
  refine ⟨_, rfl, ?_⟩
  with_reducible repeat' first
    | (intro _) | assumption | apply tidy_issueReg | apply tidy_sclOp | (apply tidySlot_of; assumption)
    | (apply tidySlot_ofExc; assumption) | (apply tidySlot_ofUe; assumption) | (simp only [tidy_mk]; apply tidy_back)
    | split | dsimp only

theorem within_execVext (T : List Part) (orig : State) (hT : subP [.od, .out, .freeCtr, .mem, .ecc, .tiles, .mesh,
    .graphs, .flt, .obs, .log, .frz, .can] T = true) (t : TileId) (f : RegForm) (s : State) (h1 : Within T orig s) : ∃
    z, execVext t f s = .next z ∧ Within T orig z := by
  refine ⟨_, rfl, ?_⟩
  with_reducible repeat' first
    | (intro _) | assumption | (exact subP_trans (by decide) hT) | apply within_issueReg | apply within_sclOp
    | (apply withinSlot_of; assumption) | (apply withinSlot_ofExc; assumption) | (apply withinSlot_ofUe; assumption)
    | split | dsimp only

theorem tidy_execVins (q : List Instr) (t : TileId) (f : RegForm) (s : State) (h1 : Tidy q s) : ∃ z, execVins t f s =
    .next z ∧ Tidy q z := by
  refine ⟨_, rfl, ?_⟩
  with_reducible repeat' first
    | (intro _) | assumption | apply tidy_issueReg | apply tidy_ite | apply tidyRes_ite | apply tidyRes_ok
    | apply tidyRes_ue | apply tidyServe_ok | apply tidyServe_ue | apply tidySlot_ok | apply tidySlot_exc
    | apply tidySlot_ue | apply tidyOpt_some | apply tidyOpt_none | apply tidyAns_some | apply tidyAns_none
    | apply tidy_snd_ite | (apply tidyRes_of; assumption) | (apply tidyRes_ofUe; assumption)
    | (apply tidyServe_of; assumption) | (apply tidyServe_ofUe; assumption) | (apply tidySlot_of; assumption)
    | (apply tidySlot_ofExc; assumption) | (apply tidySlot_ofUe; assumption) | (apply tidyPair_of; assumption)
    | (apply tidyTriple_of; assumption) | (apply tidyOpt_of; assumption) | (apply tidyAns_of; assumption)
    | apply tidy_foldl | (simp only [tidy_mk]; apply tidy_back) | split | (simp only [id_eq]) | apply_assumption
    | dsimp only

theorem within_execVins (T : List Part) (orig : State) (hT : subP [.od, .out, .freeCtr, .mem, .ecc, .tiles, .mesh,
    .graphs, .flt, .obs, .log, .frz, .can] T = true) (t : TileId) (f : RegForm) (s : State) (h1 : Within T orig s) : ∃
    z, execVins t f s = .next z ∧ Within T orig z := by
  refine ⟨_, rfl, ?_⟩
  with_reducible repeat' first
    | (intro _) | assumption | (exact subP_trans (by decide) hT) | apply within_issueReg | apply within_ite
    | apply withinRes_ite | apply withinRes_ok | apply withinRes_ue | apply withinServe_ok | apply withinServe_ue
    | apply withinSlot_ok | apply withinSlot_exc | apply withinSlot_ue | apply withinOpt_some | apply withinOpt_none
    | apply withinAns_some | apply withinAns_none | apply within_snd_ite | (apply withinRes_of; assumption)
    | (apply withinRes_ofUe; assumption) | (apply withinServe_of; assumption) | (apply withinServe_ofUe; assumption)
    | (apply withinSlot_of; assumption) | (apply withinSlot_ofExc; assumption) | (apply withinSlot_ofUe; assumption)
    | (apply withinPair_of; assumption) | (apply withinTriple_of; assumption) | (apply withinOpt_of; assumption)
    | (apply withinAns_of; assumption) | apply within_foldl | split | (simp only [id_eq]) | apply_assumption
    | dsimp only

theorem tidy_execVld (q : List Instr) (t : TileId) (f : ImmForm) (s : State) (h1 : Tidy q s) : ∃ z, execVld t f s =
    .next z ∧ Tidy q z := by
  refine ⟨_, rfl, ?_⟩
  with_reducible repeat' first
    | (intro _) | assumption | apply tidy_issueImm | apply tidy_memLoad | (apply tidySlot_of; assumption)
    | (apply tidySlot_ofExc; assumption) | (apply tidySlot_ofUe; assumption) | (simp only [tidy_mk]; apply tidy_back)
    | split | dsimp only

theorem within_execVld (T : List Part) (orig : State) (hT : subP [.od, .out, .freeCtr, .mem, .ecc, .tiles, .mesh,
    .graphs, .flt, .obs, .log, .frz, .can] T = true) (t : TileId) (f : ImmForm) (s : State) (h1 : Within T orig s) : ∃
    z, execVld t f s = .next z ∧ Within T orig z := by
  refine ⟨_, rfl, ?_⟩
  with_reducible repeat' first
    | (intro _) | assumption | (exact subP_trans (by decide) hT) | apply within_issueImm | apply within_memLoad
    | (apply withinSlot_of; assumption) | (apply withinSlot_ofExc; assumption) | (apply withinSlot_ofUe; assumption)
    | split | dsimp only

theorem tidy_execVst (q : List Instr) (t : TileId) (f : ImmForm) (s : State) (h1 : Tidy q s) : ∃ z, execVst t f s =
    .next z ∧ Tidy q z := by
  refine ⟨_, rfl, ?_⟩
  with_reducible repeat' first
    | (intro _) | assumption | apply tidy_issueImm | apply tidy_memStore | (apply tidySlot_of; assumption)
    | (apply tidySlot_ofExc; assumption) | (apply tidySlot_ofUe; assumption) | (simp only [tidy_mk]; apply tidy_back)
    | split | dsimp only

theorem within_execVst (T : List Part) (orig : State) (hT : subP [.od, .out, .freeCtr, .mem, .ecc, .tiles, .mesh,
    .graphs, .flt, .obs, .log, .frz, .can] T = true) (t : TileId) (f : ImmForm) (s : State) (h1 : Within T orig s) : ∃
    z, execVst t f s = .next z ∧ Within T orig z := by
  refine ⟨_, rfl, ?_⟩
  with_reducible repeat' first
    | (intro _) | assumption | (exact subP_trans (by decide) hT) | apply within_issueImm | apply within_memStore
    | (apply withinSlot_of; assumption) | (apply withinSlot_ofExc; assumption) | (apply withinSlot_ofUe; assumption)
    | split | dsimp only

theorem tidy_execSld (q : List Instr) (t : TileId) (f : ImmForm) (s : State) (h1 : Tidy q s) : ∃ z, execSld t f s =
    .next z ∧ Tidy q z := by
  refine ⟨_, rfl, ?_⟩
  with_reducible repeat' first
    | (intro _) | assumption | apply tidy_issueImm | apply tidy_memLoad | (apply tidySlot_of; assumption)
    | (apply tidySlot_ofExc; assumption) | (apply tidySlot_ofUe; assumption) | (simp only [tidy_mk]; apply tidy_back)
    | split | dsimp only

theorem within_execSld (T : List Part) (orig : State) (hT : subP [.od, .out, .freeCtr, .mem, .ecc, .tiles, .mesh,
    .graphs, .flt, .obs, .log, .frz, .can] T = true) (t : TileId) (f : ImmForm) (s : State) (h1 : Within T orig s) : ∃
    z, execSld t f s = .next z ∧ Within T orig z := by
  refine ⟨_, rfl, ?_⟩
  with_reducible repeat' first
    | (intro _) | assumption | (exact subP_trans (by decide) hT) | apply within_issueImm | apply within_memLoad
    | (apply withinSlot_of; assumption) | (apply withinSlot_ofExc; assumption) | (apply withinSlot_ofUe; assumption)
    | split | dsimp only

theorem tidy_execSst (q : List Instr) (t : TileId) (f : ImmForm) (s : State) (h1 : Tidy q s) : ∃ z, execSst t f s =
    .next z ∧ Tidy q z := by
  refine ⟨_, rfl, ?_⟩
  with_reducible repeat' first
    | (intro _) | assumption | apply tidy_issueImm | apply tidy_memStore | (apply tidySlot_of; assumption)
    | (apply tidySlot_ofExc; assumption) | (apply tidySlot_ofUe; assumption) | (simp only [tidy_mk]; apply tidy_back)
    | split | dsimp only

theorem within_execSst (T : List Part) (orig : State) (hT : subP [.od, .out, .freeCtr, .mem, .ecc, .tiles, .mesh,
    .graphs, .flt, .obs, .log, .frz, .can] T = true) (t : TileId) (f : ImmForm) (s : State) (h1 : Within T orig s) : ∃
    z, execSst t f s = .next z ∧ Within T orig z := by
  refine ⟨_, rfl, ?_⟩
  with_reducible repeat' first
    | (intro _) | assumption | (exact subP_trans (by decide) hT) | apply within_issueImm | apply within_memStore
    | (apply withinSlot_of; assumption) | (apply withinSlot_ofExc; assumption) | (apply withinSlot_ofUe; assumption)
    | split | dsimp only

theorem tidy_execEald (q : List Instr) (t : TileId) (f : ImmForm) (s : State) (h1 : Tidy q s) : ∃ z, execEald t f s =
    .next z ∧ Tidy q z := by
  refine ⟨_, rfl, ?_⟩
  with_reducible repeat' first
    | (intro _) | assumption | apply tidy_issueImm | apply tidy_memLoad | (apply tidySlot_of; assumption)
    | (apply tidySlot_ofExc; assumption) | (apply tidySlot_ofUe; assumption) | (simp only [tidy_mk]; apply tidy_back)
    | split | dsimp only

theorem within_execEald (T : List Part) (orig : State) (hT : subP [.od, .out, .freeCtr, .mem, .ecc, .tiles, .mesh,
    .graphs, .flt, .obs, .log, .frz, .can] T = true) (t : TileId) (f : ImmForm) (s : State) (h1 : Within T orig s) : ∃
    z, execEald t f s = .next z ∧ Within T orig z := by
  refine ⟨_, rfl, ?_⟩
  with_reducible repeat' first
    | (intro _) | assumption | (exact subP_trans (by decide) hT) | apply within_issueImm | apply within_memLoad
    | (apply withinSlot_of; assumption) | (apply withinSlot_ofExc; assumption) | (apply withinSlot_ofUe; assumption)
    | split | dsimp only

theorem tidy_execEast (q : List Instr) (t : TileId) (f : ImmForm) (s : State) (h1 : Tidy q s) : ∃ z, execEast t f s =
    .next z ∧ Tidy q z := by
  refine ⟨_, rfl, ?_⟩
  with_reducible repeat' first
    | (intro _) | assumption | apply tidy_issueImm | apply tidy_memStore | (apply tidySlot_of; assumption)
    | (apply tidySlot_ofExc; assumption) | (apply tidySlot_ofUe; assumption) | (simp only [tidy_mk]; apply tidy_back)
    | split | dsimp only

theorem within_execEast (T : List Part) (orig : State) (hT : subP [.od, .out, .freeCtr, .mem, .ecc, .tiles, .mesh,
    .graphs, .flt, .obs, .log, .frz, .can] T = true) (t : TileId) (f : ImmForm) (s : State) (h1 : Within T orig s) : ∃
    z, execEast t f s = .next z ∧ Within T orig z := by
  refine ⟨_, rfl, ?_⟩
  with_reducible repeat' first
    | (intro _) | assumption | (exact subP_trans (by decide) hT) | apply within_issueImm | apply within_memStore
    | (apply withinSlot_of; assumption) | (apply withinSlot_ofExc; assumption) | (apply withinSlot_ofUe; assumption)
    | split | dsimp only

theorem tidy_execDmain (q : List Instr) (t : TileId) (f : ImmForm) (s : State) (h1 : Tidy q s) : ∃ z, execDmain t f s
    = .next z ∧ Tidy q z := by
  refine ⟨_, rfl, ?_⟩
  with_reducible repeat' first
    | (intro _) | assumption | apply tidy_issueImm | apply tidy_dmaIssue | (apply tidySlot_of; assumption)
    | (apply tidySlot_ofExc; assumption) | (apply tidySlot_ofUe; assumption) | (simp only [tidy_mk]; apply tidy_back)
    | split | dsimp only

theorem within_execDmain (T : List Part) (orig : State) (hT : subP [.od, .out, .freeCtr, .mem, .ecc, .tiles, .mesh,
    .graphs, .flt, .obs, .log, .frz, .can] T = true) (t : TileId) (f : ImmForm) (s : State) (h1 : Within T orig s) : ∃
    z, execDmain t f s = .next z ∧ Within T orig z := by
  refine ⟨_, rfl, ?_⟩
  with_reducible repeat' first
    | (intro _) | assumption | (exact subP_trans (by decide) hT) | apply within_issueImm | apply within_dmaIssue
    | (apply withinSlot_of; assumption) | (apply withinSlot_ofExc; assumption) | (apply withinSlot_ofUe; assumption)
    | split | dsimp only

theorem tidy_execDmaout (q : List Instr) (t : TileId) (f : ImmForm) (s : State) (h1 : Tidy q s) : ∃ z, execDmaout t f
    s = .next z ∧ Tidy q z := by
  refine ⟨_, rfl, ?_⟩
  with_reducible repeat' first
    | (intro _) | assumption | apply tidy_issueImm | apply tidy_dmaIssue | (apply tidySlot_of; assumption)
    | (apply tidySlot_ofExc; assumption) | (apply tidySlot_ofUe; assumption) | (simp only [tidy_mk]; apply tidy_back)
    | split | dsimp only

theorem within_execDmaout (T : List Part) (orig : State) (hT : subP [.od, .out, .freeCtr, .mem, .ecc, .tiles, .mesh,
    .graphs, .flt, .obs, .log, .frz, .can] T = true) (t : TileId) (f : ImmForm) (s : State) (h1 : Within T orig s) : ∃
    z, execDmaout t f s = .next z ∧ Within T orig z := by
  refine ⟨_, rfl, ?_⟩
  with_reducible repeat' first
    | (intro _) | assumption | (exact subP_trans (by decide) hT) | apply within_issueImm | apply within_dmaIssue
    | (apply withinSlot_of; assumption) | (apply withinSlot_ofExc; assumption) | (apply withinSlot_ofUe; assumption)
    | split | dsimp only

theorem tidy_execDmaComplete (q : List Instr) (t : TileId) (s : State) (h1 : Tidy q s) : ∃ z, execDmaComplete t s =
    .next z ∧ Tidy q z := by
  refine ⟨_, rfl, ?_⟩
  with_reducible repeat' first
    | (intro _) | assumption | apply tidy_dmaComplete | (simp only [tidy_mk]; apply tidy_back) | split | dsimp only

theorem within_execDmaComplete (T : List Part) (orig : State) (hT : subP [.od, .out, .mem, .ecc, .tiles, .graphs,
    .obs, .log, .frz, .can] T = true) (t : TileId) (s : State) (h1 : Within T orig s) : ∃ z, execDmaComplete t s =
    .next z ∧ Within T orig z := by
  refine ⟨_, rfl, ?_⟩
  with_reducible repeat' first
    | (intro _) | assumption | (exact subP_trans (by decide) hT) | apply within_dmaComplete | split | dsimp only

theorem tidy_execGather (q : List Instr) (t : TileId) (f : RegForm) (s : State) (h1 : Tidy q s) : ∃ z, execGather t f
    s = .next z ∧ Tidy q z := by
  refine ⟨_, rfl, ?_⟩
  with_reducible repeat' first
    | (intro _) | assumption | apply tidy_issueReg | apply tidy_irrIssue | (apply tidySlot_of; assumption)
    | (apply tidySlot_ofExc; assumption) | (apply tidySlot_ofUe; assumption) | (simp only [tidy_mk]; apply tidy_back)
    | split | dsimp only

theorem within_execGather (T : List Part) (orig : State) (hT : subP [.od, .out, .freeCtr, .mem, .ecc, .tiles, .mesh,
    .graphs, .flt, .obs, .log, .frz, .can] T = true) (t : TileId) (f : RegForm) (s : State) (h1 : Within T orig s) : ∃
    z, execGather t f s = .next z ∧ Within T orig z := by
  refine ⟨_, rfl, ?_⟩
  with_reducible repeat' first
    | (intro _) | assumption | (exact subP_trans (by decide) hT) | apply within_issueReg | apply within_irrIssue
    | (apply withinSlot_of; assumption) | (apply withinSlot_ofExc; assumption) | (apply withinSlot_ofUe; assumption)
    | split | dsimp only

theorem tidy_execScatter (q : List Instr) (t : TileId) (f : RegForm) (s : State) (h1 : Tidy q s) : ∃ z, execScatter t
    f s = .next z ∧ Tidy q z := by
  refine ⟨_, rfl, ?_⟩
  with_reducible repeat' first
    | (intro _) | assumption | apply tidy_issueReg | apply tidy_irrIssue | (apply tidySlot_of; assumption)
    | (apply tidySlot_ofExc; assumption) | (apply tidySlot_ofUe; assumption) | (simp only [tidy_mk]; apply tidy_back)
    | split | dsimp only

theorem within_execScatter (T : List Part) (orig : State) (hT : subP [.od, .out, .freeCtr, .mem, .ecc, .tiles, .mesh,
    .graphs, .flt, .obs, .log, .frz, .can] T = true) (t : TileId) (f : RegForm) (s : State) (h1 : Within T orig s) : ∃
    z, execScatter t f s = .next z ∧ Within T orig z := by
  refine ⟨_, rfl, ?_⟩
  with_reducible repeat' first
    | (intro _) | assumption | (exact subP_trans (by decide) hT) | apply within_issueReg | apply within_irrIssue
    | (apply withinSlot_of; assumption) | (apply withinSlot_ofExc; assumption) | (apply withinSlot_ofUe; assumption)
    | split | dsimp only

theorem tidy_execScadd (q : List Instr) (t : TileId) (f : RegForm) (s : State) (h1 : Tidy q s) : ∃ z, execScadd t f s
    = .next z ∧ Tidy q z := by
  refine ⟨_, rfl, ?_⟩
  with_reducible repeat' first
    | (intro _) | assumption | apply tidy_issueReg | apply tidy_irrIssue | (apply tidySlot_of; assumption)
    | (apply tidySlot_ofExc; assumption) | (apply tidySlot_ofUe; assumption) | (simp only [tidy_mk]; apply tidy_back)
    | split | dsimp only

theorem within_execScadd (T : List Part) (orig : State) (hT : subP [.od, .out, .freeCtr, .mem, .ecc, .tiles, .mesh,
    .graphs, .flt, .obs, .log, .frz, .can] T = true) (t : TileId) (f : RegForm) (s : State) (h1 : Within T orig s) : ∃
    z, execScadd t f s = .next z ∧ Within T orig z := by
  refine ⟨_, rfl, ?_⟩
  with_reducible repeat' first
    | (intro _) | assumption | (exact subP_trans (by decide) hT) | apply within_issueReg | apply within_irrIssue
    | (apply withinSlot_of; assumption) | (apply withinSlot_ofExc; assumption) | (apply withinSlot_ofUe; assumption)
    | split | dsimp only

theorem tidy_execSetisect (q : List Instr) (t : TileId) (f : RegForm) (s : State) (h1 : Tidy q s) : ∃ z, execSetisect
    t f s = .next z ∧ Tidy q z := by
  refine ⟨_, rfl, ?_⟩
  with_reducible repeat' first
    | (intro _) | assumption | apply tidy_issueReg | apply tidy_irrIssue | (apply tidySlot_of; assumption)
    | (apply tidySlot_ofExc; assumption) | (apply tidySlot_ofUe; assumption) | (simp only [tidy_mk]; apply tidy_back)
    | split | dsimp only

theorem within_execSetisect (T : List Part) (orig : State) (hT : subP [.od, .out, .freeCtr, .mem, .ecc, .tiles, .mesh,
    .graphs, .flt, .obs, .log, .frz, .can] T = true) (t : TileId) (f : RegForm) (s : State) (h1 : Within T orig s) : ∃
    z, execSetisect t f s = .next z ∧ Within T orig z := by
  refine ⟨_, rfl, ?_⟩
  with_reducible repeat' first
    | (intro _) | assumption | (exact subP_trans (by decide) hT) | apply within_issueReg | apply within_irrIssue
    | (apply withinSlot_of; assumption) | (apply withinSlot_ofExc; assumption) | (apply withinSlot_ofUe; assumption)
    | split | dsimp only

theorem tidy_execSetunion (q : List Instr) (t : TileId) (f : RegForm) (s : State) (h1 : Tidy q s) : ∃ z, execSetunion
    t f s = .next z ∧ Tidy q z := by
  refine ⟨_, rfl, ?_⟩
  with_reducible repeat' first
    | (intro _) | assumption | apply tidy_issueReg | apply tidy_irrIssue | (apply tidySlot_of; assumption)
    | (apply tidySlot_ofExc; assumption) | (apply tidySlot_ofUe; assumption) | (simp only [tidy_mk]; apply tidy_back)
    | split | dsimp only

theorem within_execSetunion (T : List Part) (orig : State) (hT : subP [.od, .out, .freeCtr, .mem, .ecc, .tiles, .mesh,
    .graphs, .flt, .obs, .log, .frz, .can] T = true) (t : TileId) (f : RegForm) (s : State) (h1 : Within T orig s) : ∃
    z, execSetunion t f s = .next z ∧ Within T orig z := by
  refine ⟨_, rfl, ?_⟩
  with_reducible repeat' first
    | (intro _) | assumption | (exact subP_trans (by decide) hT) | apply within_issueReg | apply within_irrIssue
    | (apply withinSlot_of; assumption) | (apply withinSlot_ofExc; assumption) | (apply withinSlot_ofUe; assumption)
    | split | dsimp only

theorem tidy_execSetdiff (q : List Instr) (t : TileId) (f : RegForm) (s : State) (h1 : Tidy q s) : ∃ z, execSetdiff t
    f s = .next z ∧ Tidy q z := by
  refine ⟨_, rfl, ?_⟩
  with_reducible repeat' first
    | (intro _) | assumption | apply tidy_issueReg | apply tidy_irrIssue | (apply tidySlot_of; assumption)
    | (apply tidySlot_ofExc; assumption) | (apply tidySlot_ofUe; assumption) | (simp only [tidy_mk]; apply tidy_back)
    | split | dsimp only

theorem within_execSetdiff (T : List Part) (orig : State) (hT : subP [.od, .out, .freeCtr, .mem, .ecc, .tiles, .mesh,
    .graphs, .flt, .obs, .log, .frz, .can] T = true) (t : TileId) (f : RegForm) (s : State) (h1 : Within T orig s) : ∃
    z, execSetdiff t f s = .next z ∧ Within T orig z := by
  refine ⟨_, rfl, ?_⟩
  with_reducible repeat' first
    | (intro _) | assumption | (exact subP_trans (by decide) hT) | apply within_issueReg | apply within_irrIssue
    | (apply withinSlot_of; assumption) | (apply withinSlot_ofExc; assumption) | (apply withinSlot_ofUe; assumption)
    | split | dsimp only

theorem tidy_execMjoin (q : List Instr) (t : TileId) (f : RegForm) (s : State) (h1 : Tidy q s) : ∃ z, execMjoin t f s
    = .next z ∧ Tidy q z := by
  refine ⟨_, rfl, ?_⟩
  with_reducible repeat' first
    | (intro _) | assumption | apply tidy_issueReg | apply tidy_irrIssue | (apply tidySlot_of; assumption)
    | (apply tidySlot_ofExc; assumption) | (apply tidySlot_ofUe; assumption) | (simp only [tidy_mk]; apply tidy_back)
    | split | dsimp only

theorem within_execMjoin (T : List Part) (orig : State) (hT : subP [.od, .out, .freeCtr, .mem, .ecc, .tiles, .mesh,
    .graphs, .flt, .obs, .log, .frz, .can] T = true) (t : TileId) (f : RegForm) (s : State) (h1 : Within T orig s) : ∃
    z, execMjoin t f s = .next z ∧ Within T orig z := by
  refine ⟨_, rfl, ?_⟩
  with_reducible repeat' first
    | (intro _) | assumption | (exact subP_trans (by decide) hT) | apply within_issueReg | apply within_irrIssue
    | (apply withinSlot_of; assumption) | (apply withinSlot_ofExc; assumption) | (apply withinSlot_ofUe; assumption)
    | split | dsimp only

theorem tidy_execHinsert (q : List Instr) (t : TileId) (f : RegForm) (s : State) (h1 : Tidy q s) : ∃ z, execHinsert t
    f s = .next z ∧ Tidy q z := by
  refine ⟨_, rfl, ?_⟩
  with_reducible repeat' first
    | (intro _) | assumption | apply tidy_issueReg | apply tidy_irrIssue | (apply tidySlot_of; assumption)
    | (apply tidySlot_ofExc; assumption) | (apply tidySlot_ofUe; assumption) | (simp only [tidy_mk]; apply tidy_back)
    | split | dsimp only

theorem within_execHinsert (T : List Part) (orig : State) (hT : subP [.od, .out, .freeCtr, .mem, .ecc, .tiles, .mesh,
    .graphs, .flt, .obs, .log, .frz, .can] T = true) (t : TileId) (f : RegForm) (s : State) (h1 : Within T orig s) : ∃
    z, execHinsert t f s = .next z ∧ Within T orig z := by
  refine ⟨_, rfl, ?_⟩
  with_reducible repeat' first
    | (intro _) | assumption | (exact subP_trans (by decide) hT) | apply within_issueReg | apply within_irrIssue
    | (apply withinSlot_of; assumption) | (apply withinSlot_ofExc; assumption) | (apply withinSlot_ofUe; assumption)
    | split | dsimp only

theorem tidy_execHprobe (q : List Instr) (t : TileId) (f : RegForm) (s : State) (h1 : Tidy q s) : ∃ z, execHprobe t f
    s = .next z ∧ Tidy q z := by
  refine ⟨_, rfl, ?_⟩
  with_reducible repeat' first
    | (intro _) | assumption | apply tidy_issueReg | apply tidy_irrIssue | (apply tidySlot_of; assumption)
    | (apply tidySlot_ofExc; assumption) | (apply tidySlot_ofUe; assumption) | (simp only [tidy_mk]; apply tidy_back)
    | split | dsimp only

theorem within_execHprobe (T : List Part) (orig : State) (hT : subP [.od, .out, .freeCtr, .mem, .ecc, .tiles, .mesh,
    .graphs, .flt, .obs, .log, .frz, .can] T = true) (t : TileId) (f : RegForm) (s : State) (h1 : Within T orig s) : ∃
    z, execHprobe t f s = .next z ∧ Within T orig z := by
  refine ⟨_, rfl, ?_⟩
  with_reducible repeat' first
    | (intro _) | assumption | (exact subP_trans (by decide) hT) | apply within_issueReg | apply within_irrIssue
    | (apply withinSlot_of; assumption) | (apply withinSlot_ofExc; assumption) | (apply withinSlot_ofUe; assumption)
    | split | dsimp only

theorem tidy_execSort (q : List Instr) (t : TileId) (f : RegForm) (s : State) (h1 : Tidy q s) : ∃ z, execSort t f s =
    .next z ∧ Tidy q z := by
  refine ⟨_, rfl, ?_⟩
  with_reducible repeat' first
    | (intro _) | assumption | apply tidy_issueReg | apply tidy_irrIssue | (apply tidySlot_of; assumption)
    | (apply tidySlot_ofExc; assumption) | (apply tidySlot_ofUe; assumption) | (simp only [tidy_mk]; apply tidy_back)
    | split | dsimp only

theorem within_execSort (T : List Part) (orig : State) (hT : subP [.od, .out, .freeCtr, .mem, .ecc, .tiles, .mesh,
    .graphs, .flt, .obs, .log, .frz, .can] T = true) (t : TileId) (f : RegForm) (s : State) (h1 : Within T orig s) : ∃
    z, execSort t f s = .next z ∧ Within T orig z := by
  refine ⟨_, rfl, ?_⟩
  with_reducible repeat' first
    | (intro _) | assumption | (exact subP_trans (by decide) hT) | apply within_issueReg | apply within_irrIssue
    | (apply withinSlot_of; assumption) | (apply withinSlot_ofExc; assumption) | (apply withinSlot_ofUe; assumption)
    | split | dsimp only

theorem tidy_execSelectk (q : List Instr) (t : TileId) (f : RegForm) (s : State) (h1 : Tidy q s) : ∃ z, execSelectk t
    f s = .next z ∧ Tidy q z := by
  refine ⟨_, rfl, ?_⟩
  with_reducible repeat' first
    | (intro _) | assumption | apply tidy_issueReg | apply tidy_irrIssue | (apply tidySlot_of; assumption)
    | (apply tidySlot_ofExc; assumption) | (apply tidySlot_ofUe; assumption) | (simp only [tidy_mk]; apply tidy_back)
    | split | dsimp only

theorem within_execSelectk (T : List Part) (orig : State) (hT : subP [.od, .out, .freeCtr, .mem, .ecc, .tiles, .mesh,
    .graphs, .flt, .obs, .log, .frz, .can] T = true) (t : TileId) (f : RegForm) (s : State) (h1 : Within T orig s) : ∃
    z, execSelectk t f s = .next z ∧ Within T orig z := by
  refine ⟨_, rfl, ?_⟩
  with_reducible repeat' first
    | (intro _) | assumption | (exact subP_trans (by decide) hT) | apply within_issueReg | apply within_irrIssue
    | (apply withinSlot_of; assumption) | (apply withinSlot_ofExc; assumption) | (apply withinSlot_ofUe; assumption)
    | split | dsimp only

theorem tidy_execIrrOpDequeue (q : List Instr) (t : TileId) (u : Fin 4) (s : State) (h1 : Tidy q s) : ∃ z,
    execIrrOpDequeue t u s = .next z ∧ Tidy q z := by
  refine ⟨_, rfl, ?_⟩
  with_reducible repeat' first
    | (intro _) | assumption | apply tidy_irrDequeue | (simp only [tidy_mk]; apply tidy_back) | split | dsimp only

theorem within_execIrrOpDequeue (T : List Part) (orig : State) (hT : subP [.od, .out, .ecc, .tiles, .graphs, .obs,
    .log, .frz, .can] T = true) (t : TileId) (u : Fin 4) (s : State) (h1 : Within T orig s) : ∃ z, execIrrOpDequeue t
    u s = .next z ∧ Within T orig z := by
  refine ⟨_, rfl, ?_⟩
  with_reducible repeat' first
    | (intro _) | assumption | (exact subP_trans (by decide) hT) | apply within_irrDequeue | split | dsimp only

theorem tidy_execIrrOpComplete (q : List Instr) (t : TileId) (u : Fin 4) (s : State) (h1 : Tidy q s) : ∃ z,
    execIrrOpComplete t u s = .next z ∧ Tidy q z := by
  refine ⟨_, rfl, ?_⟩
  with_reducible repeat' first
    | (intro _) | assumption | apply tidy_irrComplete | (simp only [tidy_mk]; apply tidy_back) | split | dsimp only

theorem within_execIrrOpComplete (T : List Part) (orig : State) (hT : subP [.od, .out, .freeCtr, .mem, .ecc, .tiles,
    .graphs, .obs, .log, .frz, .can] T = true) (t : TileId) (u : Fin 4) (s : State) (h1 : Within T orig s) : ∃ z,
    execIrrOpComplete t u s = .next z ∧ Within T orig z := by
  refine ⟨_, rfl, ?_⟩
  with_reducible repeat' first
    | (intro _) | assumption | (exact subP_trans (by decide) hT) | apply within_irrComplete | split | dsimp only

theorem tidy_execScaddAccept (q : List Instr) (t : TileId) (i : Nat) (s : State) (h1 : Tidy q s) : ∃ z,
    execScaddAccept t i s = .next z ∧ Tidy q z := by
  refine ⟨_, rfl, ?_⟩
  with_reducible repeat' first
    | (intro _) | assumption | apply tidy_scaddAccept | (simp only [tidy_mk]; apply tidy_back) | split | dsimp only

theorem within_execScaddAccept (T : List Part) (orig : State) (hT : subP [.od, .out, .mem, .ecc, .tiles, .graphs,
    .obs, .log, .frz, .can] T = true) (t : TileId) (i : Nat) (s : State) (h1 : Within T orig s) : ∃ z, execScaddAccept
    t i s = .next z ∧ Within T orig z := by
  refine ⟨_, rfl, ?_⟩
  with_reducible repeat' first
    | (intro _) | assumption | (exact subP_trans (by decide) hT) | apply within_scaddAccept | split | dsimp only

theorem tidy_execSli (q : List Instr) (t : TileId) (f : ImmForm) (s : State) (h1 : Tidy q s) : ∃ z, execSli t f s =
    .next z ∧ Tidy q z := by
  refine ⟨_, rfl, ?_⟩
  with_reducible repeat' first
    | (intro _) | assumption | apply tidy_issueImm | apply tidy_sclOp | (apply tidySlot_of; assumption)
    | (apply tidySlot_ofExc; assumption) | (apply tidySlot_ofUe; assumption) | (simp only [tidy_mk]; apply tidy_back)
    | split | dsimp only

theorem within_execSli (T : List Part) (orig : State) (hT : subP [.od, .out, .freeCtr, .mem, .ecc, .tiles, .mesh,
    .graphs, .flt, .obs, .log, .frz, .can] T = true) (t : TileId) (f : ImmForm) (s : State) (h1 : Within T orig s) : ∃
    z, execSli t f s = .next z ∧ Within T orig z := by
  refine ⟨_, rfl, ?_⟩
  with_reducible repeat' first
    | (intro _) | assumption | (exact subP_trans (by decide) hT) | apply within_issueImm | apply within_sclOp
    | (apply withinSlot_of; assumption) | (apply withinSlot_ofExc; assumption) | (apply withinSlot_ofUe; assumption)
    | split | dsimp only

theorem tidy_execSaddi (q : List Instr) (t : TileId) (f : ImmForm) (s : State) (h1 : Tidy q s) : ∃ z, execSaddi t f s
    = .next z ∧ Tidy q z := by
  refine ⟨_, rfl, ?_⟩
  with_reducible repeat' first
    | (intro _) | assumption | apply tidy_issueImm | apply tidy_sclOp | (apply tidySlot_of; assumption)
    | (apply tidySlot_ofExc; assumption) | (apply tidySlot_ofUe; assumption) | (simp only [tidy_mk]; apply tidy_back)
    | split | dsimp only

theorem within_execSaddi (T : List Part) (orig : State) (hT : subP [.od, .out, .freeCtr, .mem, .ecc, .tiles, .mesh,
    .graphs, .flt, .obs, .log, .frz, .can] T = true) (t : TileId) (f : ImmForm) (s : State) (h1 : Within T orig s) : ∃
    z, execSaddi t f s = .next z ∧ Within T orig z := by
  refine ⟨_, rfl, ?_⟩
  with_reducible repeat' first
    | (intro _) | assumption | (exact subP_trans (by decide) hT) | apply within_issueImm | apply within_sclOp
    | (apply withinSlot_of; assumption) | (apply withinSlot_ofExc; assumption) | (apply withinSlot_ofUe; assumption)
    | split | dsimp only

theorem tidy_execSadd (q : List Instr) (t : TileId) (f : RegForm) (s : State) (h1 : Tidy q s) : ∃ z, execSadd t f s =
    .next z ∧ Tidy q z := by
  refine ⟨_, rfl, ?_⟩
  with_reducible repeat' first
    | (intro _) | assumption | apply tidy_issueReg | apply tidy_sclBin | (apply tidySlot_of; assumption)
    | (apply tidySlot_ofExc; assumption) | (apply tidySlot_ofUe; assumption) | (simp only [tidy_mk]; apply tidy_back)
    | split | dsimp only

theorem within_execSadd (T : List Part) (orig : State) (hT : subP [.od, .out, .freeCtr, .mem, .ecc, .tiles, .mesh,
    .graphs, .flt, .obs, .log, .frz, .can] T = true) (t : TileId) (f : RegForm) (s : State) (h1 : Within T orig s) : ∃
    z, execSadd t f s = .next z ∧ Within T orig z := by
  refine ⟨_, rfl, ?_⟩
  with_reducible repeat' first
    | (intro _) | assumption | (exact subP_trans (by decide) hT) | apply within_issueReg | apply within_sclBin
    | (apply withinSlot_of; assumption) | (apply withinSlot_ofExc; assumption) | (apply withinSlot_ofUe; assumption)
    | split | dsimp only

theorem tidy_execSsub (q : List Instr) (t : TileId) (f : RegForm) (s : State) (h1 : Tidy q s) : ∃ z, execSsub t f s =
    .next z ∧ Tidy q z := by
  refine ⟨_, rfl, ?_⟩
  with_reducible repeat' first
    | (intro _) | assumption | apply tidy_issueReg | apply tidy_sclBin | (apply tidySlot_of; assumption)
    | (apply tidySlot_ofExc; assumption) | (apply tidySlot_ofUe; assumption) | (simp only [tidy_mk]; apply tidy_back)
    | split | dsimp only

theorem within_execSsub (T : List Part) (orig : State) (hT : subP [.od, .out, .freeCtr, .mem, .ecc, .tiles, .mesh,
    .graphs, .flt, .obs, .log, .frz, .can] T = true) (t : TileId) (f : RegForm) (s : State) (h1 : Within T orig s) : ∃
    z, execSsub t f s = .next z ∧ Within T orig z := by
  refine ⟨_, rfl, ?_⟩
  with_reducible repeat' first
    | (intro _) | assumption | (exact subP_trans (by decide) hT) | apply within_issueReg | apply within_sclBin
    | (apply withinSlot_of; assumption) | (apply withinSlot_ofExc; assumption) | (apply withinSlot_ofUe; assumption)
    | split | dsimp only

theorem tidy_execSmul (q : List Instr) (t : TileId) (f : RegForm) (s : State) (h1 : Tidy q s) : ∃ z, execSmul t f s =
    .next z ∧ Tidy q z := by
  refine ⟨_, rfl, ?_⟩
  with_reducible repeat' first
    | (intro _) | assumption | apply tidy_issueReg | apply tidy_sclBin | (apply tidySlot_of; assumption)
    | (apply tidySlot_ofExc; assumption) | (apply tidySlot_ofUe; assumption) | (simp only [tidy_mk]; apply tidy_back)
    | split | dsimp only

theorem within_execSmul (T : List Part) (orig : State) (hT : subP [.od, .out, .freeCtr, .mem, .ecc, .tiles, .mesh,
    .graphs, .flt, .obs, .log, .frz, .can] T = true) (t : TileId) (f : RegForm) (s : State) (h1 : Within T orig s) : ∃
    z, execSmul t f s = .next z ∧ Within T orig z := by
  refine ⟨_, rfl, ?_⟩
  with_reducible repeat' first
    | (intro _) | assumption | (exact subP_trans (by decide) hT) | apply within_issueReg | apply within_sclBin
    | (apply withinSlot_of; assumption) | (apply withinSlot_ofExc; assumption) | (apply withinSlot_ofUe; assumption)
    | split | dsimp only

theorem tidy_execSand (q : List Instr) (t : TileId) (f : RegForm) (s : State) (h1 : Tidy q s) : ∃ z, execSand t f s =
    .next z ∧ Tidy q z := by
  refine ⟨_, rfl, ?_⟩
  with_reducible repeat' first
    | (intro _) | assumption | apply tidy_issueReg | apply tidy_sclBin | (apply tidySlot_of; assumption)
    | (apply tidySlot_ofExc; assumption) | (apply tidySlot_ofUe; assumption) | (simp only [tidy_mk]; apply tidy_back)
    | split | dsimp only

theorem within_execSand (T : List Part) (orig : State) (hT : subP [.od, .out, .freeCtr, .mem, .ecc, .tiles, .mesh,
    .graphs, .flt, .obs, .log, .frz, .can] T = true) (t : TileId) (f : RegForm) (s : State) (h1 : Within T orig s) : ∃
    z, execSand t f s = .next z ∧ Within T orig z := by
  refine ⟨_, rfl, ?_⟩
  with_reducible repeat' first
    | (intro _) | assumption | (exact subP_trans (by decide) hT) | apply within_issueReg | apply within_sclBin
    | (apply withinSlot_of; assumption) | (apply withinSlot_ofExc; assumption) | (apply withinSlot_ofUe; assumption)
    | split | dsimp only

theorem tidy_execSor (q : List Instr) (t : TileId) (f : RegForm) (s : State) (h1 : Tidy q s) : ∃ z, execSor t f s =
    .next z ∧ Tidy q z := by
  refine ⟨_, rfl, ?_⟩
  with_reducible repeat' first
    | (intro _) | assumption | apply tidy_issueReg | apply tidy_sclBin | (apply tidySlot_of; assumption)
    | (apply tidySlot_ofExc; assumption) | (apply tidySlot_ofUe; assumption) | (simp only [tidy_mk]; apply tidy_back)
    | split | dsimp only

theorem within_execSor (T : List Part) (orig : State) (hT : subP [.od, .out, .freeCtr, .mem, .ecc, .tiles, .mesh,
    .graphs, .flt, .obs, .log, .frz, .can] T = true) (t : TileId) (f : RegForm) (s : State) (h1 : Within T orig s) : ∃
    z, execSor t f s = .next z ∧ Within T orig z := by
  refine ⟨_, rfl, ?_⟩
  with_reducible repeat' first
    | (intro _) | assumption | (exact subP_trans (by decide) hT) | apply within_issueReg | apply within_sclBin
    | (apply withinSlot_of; assumption) | (apply withinSlot_ofExc; assumption) | (apply withinSlot_ofUe; assumption)
    | split | dsimp only

theorem tidy_execSxor (q : List Instr) (t : TileId) (f : RegForm) (s : State) (h1 : Tidy q s) : ∃ z, execSxor t f s =
    .next z ∧ Tidy q z := by
  refine ⟨_, rfl, ?_⟩
  with_reducible repeat' first
    | (intro _) | assumption | apply tidy_issueReg | apply tidy_sclBin | (apply tidySlot_of; assumption)
    | (apply tidySlot_ofExc; assumption) | (apply tidySlot_ofUe; assumption) | (simp only [tidy_mk]; apply tidy_back)
    | split | dsimp only

theorem within_execSxor (T : List Part) (orig : State) (hT : subP [.od, .out, .freeCtr, .mem, .ecc, .tiles, .mesh,
    .graphs, .flt, .obs, .log, .frz, .can] T = true) (t : TileId) (f : RegForm) (s : State) (h1 : Within T orig s) : ∃
    z, execSxor t f s = .next z ∧ Within T orig z := by
  refine ⟨_, rfl, ?_⟩
  with_reducible repeat' first
    | (intro _) | assumption | (exact subP_trans (by decide) hT) | apply within_issueReg | apply within_sclBin
    | (apply withinSlot_of; assumption) | (apply withinSlot_ofExc; assumption) | (apply withinSlot_ofUe; assumption)
    | split | dsimp only

theorem tidy_execSshl (q : List Instr) (t : TileId) (f : RegForm) (s : State) (h1 : Tidy q s) : ∃ z, execSshl t f s =
    .next z ∧ Tidy q z := by
  refine ⟨_, rfl, ?_⟩
  with_reducible repeat' first
    | (intro _) | assumption | apply tidy_issueReg | apply tidy_sclBin | apply tidy_ite
    | (apply tidySlot_of; assumption) | (apply tidySlot_ofExc; assumption) | (apply tidySlot_ofUe; assumption)
    | (simp only [tidy_mk]; apply tidy_back) | split | dsimp only

theorem within_execSshl (T : List Part) (orig : State) (hT : subP [.od, .out, .freeCtr, .mem, .ecc, .tiles, .mesh,
    .graphs, .flt, .obs, .log, .frz, .can] T = true) (t : TileId) (f : RegForm) (s : State) (h1 : Within T orig s) : ∃
    z, execSshl t f s = .next z ∧ Within T orig z := by
  refine ⟨_, rfl, ?_⟩
  with_reducible repeat' first
    | (intro _) | assumption | (exact subP_trans (by decide) hT) | apply within_issueReg | apply within_sclBin
    | apply within_ite | (apply withinSlot_of; assumption) | (apply withinSlot_ofExc; assumption)
    | (apply withinSlot_ofUe; assumption) | split | dsimp only

theorem tidy_execSshr (q : List Instr) (t : TileId) (f : RegForm) (s : State) (h1 : Tidy q s) : ∃ z, execSshr t f s =
    .next z ∧ Tidy q z := by
  refine ⟨_, rfl, ?_⟩
  with_reducible repeat' first
    | (intro _) | assumption | apply tidy_issueReg | apply tidy_sclBin | apply tidy_ite
    | (apply tidySlot_of; assumption) | (apply tidySlot_ofExc; assumption) | (apply tidySlot_ofUe; assumption)
    | (simp only [tidy_mk]; apply tidy_back) | split | dsimp only

theorem within_execSshr (T : List Part) (orig : State) (hT : subP [.od, .out, .freeCtr, .mem, .ecc, .tiles, .mesh,
    .graphs, .flt, .obs, .log, .frz, .can] T = true) (t : TileId) (f : RegForm) (s : State) (h1 : Within T orig s) : ∃
    z, execSshr t f s = .next z ∧ Within T orig z := by
  refine ⟨_, rfl, ?_⟩
  with_reducible repeat' first
    | (intro _) | assumption | (exact subP_trans (by decide) hT) | apply within_issueReg | apply within_sclBin
    | apply within_ite | (apply withinSlot_of; assumption) | (apply withinSlot_ofExc; assumption)
    | (apply withinSlot_ofUe; assumption) | split | dsimp only

theorem tidy_execScmplt (q : List Instr) (t : TileId) (f : RegForm) (s : State) (h1 : Tidy q s) : ∃ z, execScmplt t f
    s = .next z ∧ Tidy q z := by
  refine ⟨_, rfl, ?_⟩
  with_reducible repeat' first
    | (intro _) | assumption | apply tidy_issueReg | apply tidy_sclCmp | (apply tidySlot_of; assumption)
    | (apply tidySlot_ofExc; assumption) | (apply tidySlot_ofUe; assumption) | (simp only [tidy_mk]; apply tidy_back)
    | split | dsimp only

theorem within_execScmplt (T : List Part) (orig : State) (hT : subP [.od, .out, .freeCtr, .mem, .ecc, .tiles, .mesh,
    .graphs, .flt, .obs, .log, .frz, .can] T = true) (t : TileId) (f : RegForm) (s : State) (h1 : Within T orig s) : ∃
    z, execScmplt t f s = .next z ∧ Within T orig z := by
  refine ⟨_, rfl, ?_⟩
  with_reducible repeat' first
    | (intro _) | assumption | (exact subP_trans (by decide) hT) | apply within_issueReg | apply within_sclCmp
    | (apply withinSlot_of; assumption) | (apply withinSlot_ofExc; assumption) | (apply withinSlot_ofUe; assumption)
    | split | dsimp only

theorem tidy_execScmpeq (q : List Instr) (t : TileId) (f : RegForm) (s : State) (h1 : Tidy q s) : ∃ z, execScmpeq t f
    s = .next z ∧ Tidy q z := by
  refine ⟨_, rfl, ?_⟩
  with_reducible repeat' first
    | (intro _) | assumption | apply tidy_issueReg | apply tidy_sclCmp | (apply tidySlot_of; assumption)
    | (apply tidySlot_ofExc; assumption) | (apply tidySlot_ofUe; assumption) | (simp only [tidy_mk]; apply tidy_back)
    | split | dsimp only

theorem within_execScmpeq (T : List Part) (orig : State) (hT : subP [.od, .out, .freeCtr, .mem, .ecc, .tiles, .mesh,
    .graphs, .flt, .obs, .log, .frz, .can] T = true) (t : TileId) (f : RegForm) (s : State) (h1 : Within T orig s) : ∃
    z, execScmpeq t f s = .next z ∧ Within T orig z := by
  refine ⟨_, rfl, ?_⟩
  with_reducible repeat' first
    | (intro _) | assumption | (exact subP_trans (by decide) hT) | apply within_issueReg | apply within_sclCmp
    | (apply withinSlot_of; assumption) | (apply withinSlot_ofExc; assumption) | (apply withinSlot_ofUe; assumption)
    | split | dsimp only

theorem tidy_execBr (q : List Instr) (t : TileId) (f : ImmForm) (s : State) (h1 : Tidy q s) : ∃ z, execBr t f s =
    .next z ∧ Tidy q z := by
  refine ⟨_, rfl, ?_⟩
  with_reducible repeat' first
    | (intro _) | assumption | apply tidy_issueImm | apply tidy_ite | apply tidyRes_ite | apply tidyRes_ok
    | apply tidyRes_ue | apply tidyServe_ok | apply tidyServe_ue | apply tidySlot_ok | apply tidySlot_exc
    | apply tidySlot_ue | apply tidyOpt_some | apply tidyOpt_none | apply tidyAns_some | apply tidyAns_none
    | apply tidy_snd_ite | (apply tidyRes_of; assumption) | (apply tidyRes_ofUe; assumption)
    | (apply tidyServe_of; assumption) | (apply tidyServe_ofUe; assumption) | (apply tidySlot_of; assumption)
    | (apply tidySlot_ofExc; assumption) | (apply tidySlot_ofUe; assumption) | (apply tidyPair_of; assumption)
    | (apply tidyTriple_of; assumption) | (apply tidyOpt_of; assumption) | (apply tidyAns_of; assumption)
    | apply tidy_foldl | (simp only [tidy_mk]; apply tidy_back) | split | (simp only [id_eq]) | apply_assumption
    | dsimp only

theorem within_execBr (T : List Part) (orig : State) (hT : subP [.od, .out, .freeCtr, .mem, .ecc, .tiles, .mesh,
    .graphs, .flt, .obs, .log, .frz, .can] T = true) (t : TileId) (f : ImmForm) (s : State) (h1 : Within T orig s) : ∃
    z, execBr t f s = .next z ∧ Within T orig z := by
  refine ⟨_, rfl, ?_⟩
  with_reducible repeat' first
    | (intro _) | assumption | (exact subP_trans (by decide) hT) | apply within_issueImm | apply within_ite
    | apply withinRes_ite | apply withinRes_ok | apply withinRes_ue | apply withinServe_ok | apply withinServe_ue
    | apply withinSlot_ok | apply withinSlot_exc | apply withinSlot_ue | apply withinOpt_some | apply withinOpt_none
    | apply withinAns_some | apply withinAns_none | apply within_snd_ite | (apply withinRes_of; assumption)
    | (apply withinRes_ofUe; assumption) | (apply withinServe_of; assumption) | (apply withinServe_ofUe; assumption)
    | (apply withinSlot_of; assumption) | (apply withinSlot_ofExc; assumption) | (apply withinSlot_ofUe; assumption)
    | (apply withinPair_of; assumption) | (apply withinTriple_of; assumption) | (apply withinOpt_of; assumption)
    | (apply withinAns_of; assumption) | apply within_foldl | split | (simp only [id_eq]) | apply_assumption
    | dsimp only

theorem tidy_execLoop (q : List Instr) (t : TileId) (f : ImmForm) (s : State) (h1 : Tidy q s) : ∃ z, execLoop t f s =
    .next z ∧ Tidy q z := by
  refine ⟨_, rfl, ?_⟩
  with_reducible repeat' first
    | (intro _) | assumption | apply tidy_issueImm | apply tidy_ite | apply tidyRes_ite | apply tidyRes_ok
    | apply tidyRes_ue | apply tidyServe_ok | apply tidyServe_ue | apply tidySlot_ok | apply tidySlot_exc
    | apply tidySlot_ue | apply tidyOpt_some | apply tidyOpt_none | apply tidyAns_some | apply tidyAns_none
    | apply tidy_snd_ite | (apply tidyRes_of; assumption) | (apply tidyRes_ofUe; assumption)
    | (apply tidyServe_of; assumption) | (apply tidyServe_ofUe; assumption) | (apply tidySlot_of; assumption)
    | (apply tidySlot_ofExc; assumption) | (apply tidySlot_ofUe; assumption) | (apply tidyPair_of; assumption)
    | (apply tidyTriple_of; assumption) | (apply tidyOpt_of; assumption) | (apply tidyAns_of; assumption)
    | apply tidy_foldl | (simp only [tidy_mk]; apply tidy_back) | split | (simp only [id_eq]) | apply_assumption
    | dsimp only

theorem within_execLoop (T : List Part) (orig : State) (hT : subP [.od, .out, .freeCtr, .mem, .ecc, .tiles, .mesh,
    .graphs, .flt, .obs, .log, .frz, .can] T = true) (t : TileId) (f : ImmForm) (s : State) (h1 : Within T orig s) : ∃
    z, execLoop t f s = .next z ∧ Within T orig z := by
  refine ⟨_, rfl, ?_⟩
  with_reducible repeat' first
    | (intro _) | assumption | (exact subP_trans (by decide) hT) | apply within_issueImm | apply within_ite
    | apply withinRes_ite | apply withinRes_ok | apply withinRes_ue | apply withinServe_ok | apply withinServe_ue
    | apply withinSlot_ok | apply withinSlot_exc | apply withinSlot_ue | apply withinOpt_some | apply withinOpt_none
    | apply withinAns_some | apply withinAns_none | apply within_snd_ite | (apply withinRes_of; assumption)
    | (apply withinRes_ofUe; assumption) | (apply withinServe_of; assumption) | (apply withinServe_ofUe; assumption)
    | (apply withinSlot_of; assumption) | (apply withinSlot_ofExc; assumption) | (apply withinSlot_ofUe; assumption)
    | (apply withinPair_of; assumption) | (apply withinTriple_of; assumption) | (apply withinOpt_of; assumption)
    | (apply withinAns_of; assumption) | apply within_foldl | split | (simp only [id_eq]) | apply_assumption
    | dsimp only

theorem tidy_execTget (q : List Instr) (t : TileId) (f : ImmForm) (s : State) (h1 : Tidy q s) : ∃ z, execTget t f s =
    .next z ∧ Tidy q z := by
  refine ⟨_, rfl, ?_⟩
  with_reducible repeat' first
    | (intro _) | assumption | apply tidy_issueImm | apply tidy_windowOp | (apply tidySlot_of; assumption)
    | (apply tidySlot_ofExc; assumption) | (apply tidySlot_ofUe; assumption) | (simp only [tidy_mk]; apply tidy_back)
    | split | dsimp only

theorem within_execTget (T : List Part) (orig : State) (hT : subP [.od, .out, .freeCtr, .mem, .ecc, .tiles, .mesh,
    .graphs, .flt, .obs, .log, .frz, .can] T = true) (t : TileId) (f : ImmForm) (s : State) (h1 : Within T orig s) : ∃
    z, execTget t f s = .next z ∧ Within T orig z := by
  refine ⟨_, rfl, ?_⟩
  with_reducible repeat' first
    | (intro _) | assumption | (exact subP_trans (by decide) hT) | apply within_issueImm | apply within_windowOp
    | (apply withinSlot_of; assumption) | (apply withinSlot_ofExc; assumption) | (apply withinSlot_ofUe; assumption)
    | split | dsimp only

theorem tidy_execTkind (q : List Instr) (t : TileId) (f : ImmForm) (s : State) (h1 : Tidy q s) : ∃ z, execTkind t f s
    = .next z ∧ Tidy q z := by
  refine ⟨_, rfl, ?_⟩
  with_reducible repeat' first
    | (intro _) | assumption | apply tidy_issueImm | apply tidy_windowOp | (apply tidySlot_of; assumption)
    | (apply tidySlot_ofExc; assumption) | (apply tidySlot_ofUe; assumption) | (simp only [tidy_mk]; apply tidy_back)
    | split | dsimp only

theorem within_execTkind (T : List Part) (orig : State) (hT : subP [.od, .out, .freeCtr, .mem, .ecc, .tiles, .mesh,
    .graphs, .flt, .obs, .log, .frz, .can] T = true) (t : TileId) (f : ImmForm) (s : State) (h1 : Within T orig s) : ∃
    z, execTkind t f s = .next z ∧ Within T orig z := by
  refine ⟨_, rfl, ?_⟩
  with_reducible repeat' first
    | (intro _) | assumption | (exact subP_trans (by decide) hT) | apply within_issueImm | apply within_windowOp
    | (apply withinSlot_of; assumption) | (apply withinSlot_ofExc; assumption) | (apply withinSlot_ofUe; assumption)
    | split | dsimp only

theorem tidy_execTput (q : List Instr) (t : TileId) (f : ImmForm) (s : State) (h1 : Tidy q s) : ∃ z, execTput t f s =
    .next z ∧ Tidy q z := by
  refine ⟨_, rfl, ?_⟩
  with_reducible repeat' first
    | (intro _) | assumption | apply tidy_issueImm | apply tidy_ite | apply tidyRes_ite | apply tidyRes_ok
    | apply tidyRes_ue | apply tidyServe_ok | apply tidyServe_ue | apply tidySlot_ok | apply tidySlot_exc
    | apply tidySlot_ue | apply tidyOpt_ite | apply tidyOpt_some | apply tidyOpt_none | apply tidyAns_ite
    | apply tidyAns_some | apply tidyAns_none | apply tidy_snd_ite | (apply tidyRes_of; assumption)
    | (apply tidyRes_ofUe; assumption) | (apply tidyServe_of; assumption) | (apply tidyServe_ofUe; assumption)
    | (apply tidySlot_of; assumption) | (apply tidySlot_ofExc; assumption) | (apply tidySlot_ofUe; assumption)
    | (apply tidyPair_of; assumption) | (apply tidyTriple_of; assumption) | (apply tidyOpt_of; assumption)
    | (apply tidyAns_of; assumption) | apply tidy_foldl | (simp only [tidy_mk]; apply tidy_back) | split
    | (simp only [id_eq]) | apply_assumption | dsimp only

theorem within_execTput (T : List Part) (orig : State) (hT : subP [.od, .out, .freeCtr, .mem, .ecc, .tiles, .mesh,
    .graphs, .flt, .obs, .log, .frz, .can] T = true) (t : TileId) (f : ImmForm) (s : State) (h1 : Within T orig s) : ∃
    z, execTput t f s = .next z ∧ Within T orig z := by
  refine ⟨_, rfl, ?_⟩
  with_reducible repeat' first
    | (intro _) | assumption | (exact subP_trans (by decide) hT) | apply within_issueImm | apply within_ite
    | apply withinRes_ite | apply withinRes_ok | apply withinRes_ue | apply withinServe_ok | apply withinServe_ue
    | apply withinSlot_ok | apply withinSlot_exc | apply withinSlot_ue | apply withinOpt_ite | apply withinOpt_some
    | apply withinOpt_none | apply withinAns_ite | apply withinAns_some | apply withinAns_none | apply within_snd_ite
    | (apply withinRes_of; assumption) | (apply withinRes_ofUe; assumption) | (apply withinServe_of; assumption)
    | (apply withinServe_ofUe; assumption) | (apply withinSlot_of; assumption) | (apply withinSlot_ofExc; assumption)
    | (apply withinSlot_ofUe; assumption) | (apply withinPair_of; assumption) | (apply withinTriple_of; assumption)
    | (apply withinOpt_of; assumption) | (apply withinAns_of; assumption) | apply within_foldl | split
    | (simp only [id_eq]) | apply_assumption | dsimp only

theorem tidy_execWait (q : List Instr) (t : TileId) (f : ImmForm) (s : State) (h1 : Tidy q s) : ∃ z, execWait t f s =
    .next z ∧ Tidy q z := by
  refine ⟨_, rfl, ?_⟩
  with_reducible repeat' first
    | (intro _) | assumption | apply tidy_issueImm | apply tidy_ite | apply tidyRes_ite | apply tidyRes_ok
    | apply tidyRes_ue | apply tidyServe_ok | apply tidyServe_ue | apply tidySlot_ok | apply tidySlot_exc
    | apply tidySlot_ue | apply tidyOpt_some | apply tidyOpt_none | apply tidyAns_some | apply tidyAns_none
    | apply tidy_snd_ite | (apply tidyRes_of; assumption) | (apply tidyRes_ofUe; assumption)
    | (apply tidyServe_of; assumption) | (apply tidyServe_ofUe; assumption) | (apply tidySlot_of; assumption)
    | (apply tidySlot_ofExc; assumption) | (apply tidySlot_ofUe; assumption) | (apply tidyPair_of; assumption)
    | (apply tidyTriple_of; assumption) | (apply tidyOpt_of; assumption) | (apply tidyAns_of; assumption)
    | apply tidy_foldl | (simp only [tidy_mk]; apply tidy_back) | split | (simp only [id_eq]) | apply_assumption
    | dsimp only

theorem within_execWait (T : List Part) (orig : State) (hT : subP [.od, .out, .freeCtr, .mem, .ecc, .tiles, .mesh,
    .graphs, .flt, .obs, .log, .frz, .can] T = true) (t : TileId) (f : ImmForm) (s : State) (h1 : Within T orig s) : ∃
    z, execWait t f s = .next z ∧ Within T orig z := by
  refine ⟨_, rfl, ?_⟩
  with_reducible repeat' first
    | (intro _) | assumption | (exact subP_trans (by decide) hT) | apply within_issueImm | apply within_ite
    | apply withinRes_ite | apply withinRes_ok | apply withinRes_ue | apply withinServe_ok | apply withinServe_ue
    | apply withinSlot_ok | apply withinSlot_exc | apply withinSlot_ue | apply withinOpt_some | apply withinOpt_none
    | apply withinAns_some | apply withinAns_none | apply within_snd_ite | (apply withinRes_of; assumption)
    | (apply withinRes_ofUe; assumption) | (apply withinServe_of; assumption) | (apply withinServe_ofUe; assumption)
    | (apply withinSlot_of; assumption) | (apply withinSlot_ofExc; assumption) | (apply withinSlot_ofUe; assumption)
    | (apply withinPair_of; assumption) | (apply withinTriple_of; assumption) | (apply withinOpt_of; assumption)
    | (apply withinAns_of; assumption) | apply within_foldl | split | (simp only [id_eq]) | apply_assumption
    | dsimp only

theorem tidy_execDseta (q : List Instr) (t : TileId) (f : ImmForm) (s : State) (h1 : Tidy q s) : ∃ z, execDseta t f s
    = .next z ∧ Tidy q z := by
  refine ⟨_, rfl, ?_⟩
  with_reducible repeat' first
    | (intro _) | assumption | apply tidy_issueImm | apply tidy_ite | apply tidyRes_ite | apply tidyRes_ok
    | apply tidyRes_ue | apply tidyServe_ok | apply tidyServe_ue | apply tidySlot_ok | apply tidySlot_exc
    | apply tidySlot_ue | apply tidyOpt_some | apply tidyOpt_none | apply tidyAns_some | apply tidyAns_none
    | apply tidy_snd_ite | (apply tidyRes_of; assumption) | (apply tidyRes_ofUe; assumption)
    | (apply tidyServe_of; assumption) | (apply tidyServe_ofUe; assumption) | (apply tidySlot_of; assumption)
    | (apply tidySlot_ofExc; assumption) | (apply tidySlot_ofUe; assumption) | (apply tidyPair_of; assumption)
    | (apply tidyTriple_of; assumption) | (apply tidyOpt_of; assumption) | (apply tidyAns_of; assumption)
    | apply tidy_foldl | (simp only [tidy_mk]; apply tidy_back) | split | (simp only [id_eq]) | apply_assumption
    | dsimp only

theorem within_execDseta (T : List Part) (orig : State) (hT : subP [.od, .out, .freeCtr, .mem, .ecc, .tiles, .mesh,
    .graphs, .flt, .obs, .log, .frz, .can] T = true) (t : TileId) (f : ImmForm) (s : State) (h1 : Within T orig s) : ∃
    z, execDseta t f s = .next z ∧ Within T orig z := by
  refine ⟨_, rfl, ?_⟩
  with_reducible repeat' first
    | (intro _) | assumption | (exact subP_trans (by decide) hT) | apply within_issueImm | apply within_ite
    | apply withinRes_ite | apply withinRes_ok | apply withinRes_ue | apply withinServe_ok | apply withinServe_ue
    | apply withinSlot_ok | apply withinSlot_exc | apply withinSlot_ue | apply withinOpt_some | apply withinOpt_none
    | apply withinAns_some | apply withinAns_none | apply within_snd_ite | (apply withinRes_of; assumption)
    | (apply withinRes_ofUe; assumption) | (apply withinServe_of; assumption) | (apply withinServe_ofUe; assumption)
    | (apply withinSlot_of; assumption) | (apply withinSlot_ofExc; assumption) | (apply withinSlot_ofUe; assumption)
    | (apply withinPair_of; assumption) | (apply withinTriple_of; assumption) | (apply withinOpt_of; assumption)
    | (apply withinAns_of; assumption) | apply within_foldl | split | (simp only [id_eq]) | apply_assumption
    | dsimp only

theorem tidy_execRdtime (q : List Instr) (t : TileId) (f : ImmForm) (s : State) (h1 : Tidy q s) : ∃ z, execRdtime t f
    s = .next z ∧ Tidy q z := by
  refine ⟨_, rfl, ?_⟩
  with_reducible repeat' first
    | (intro _) | assumption | apply tidy_issueImm | apply tidy_sclOp | (apply tidySlot_of; assumption)
    | (apply tidySlot_ofExc; assumption) | (apply tidySlot_ofUe; assumption) | (simp only [tidy_mk]; apply tidy_back)
    | split | dsimp only

theorem within_execRdtime (T : List Part) (orig : State) (hT : subP [.od, .out, .freeCtr, .mem, .ecc, .tiles, .mesh,
    .graphs, .flt, .obs, .log, .frz, .can] T = true) (t : TileId) (f : ImmForm) (s : State) (h1 : Within T orig s) : ∃
    z, execRdtime t f s = .next z ∧ Within T orig z := by
  refine ⟨_, rfl, ?_⟩
  with_reducible repeat' first
    | (intro _) | assumption | (exact subP_trans (by decide) hT) | apply within_issueImm | apply within_sclOp
    | (apply withinSlot_of; assumption) | (apply withinSlot_ofExc; assumption) | (apply withinSlot_ofUe; assumption)
    | split | dsimp only

theorem tidy_execBrk (q : List Instr) (t : TileId) (f : ImmForm) (s : State) (h1 : Tidy q s) : ∃ z, execBrk t f s =
    .next z ∧ Tidy q z := by
  refine ⟨_, rfl, ?_⟩
  with_reducible repeat' first
    | (intro _) | assumption | apply tidy_issueImm | apply tidy_ite | apply tidyRes_ite | apply tidyRes_ok
    | apply tidyRes_ue | apply tidyServe_ok | apply tidyServe_ue | apply tidySlot_ok | apply tidySlot_exc
    | apply tidySlot_ue | apply tidyOpt_some | apply tidyOpt_none | apply tidyAns_some | apply tidyAns_none
    | apply tidy_snd_ite | (apply tidyRes_of; assumption) | (apply tidyRes_ofUe; assumption)
    | (apply tidyServe_of; assumption) | (apply tidyServe_ofUe; assumption) | (apply tidySlot_of; assumption)
    | (apply tidySlot_ofExc; assumption) | (apply tidySlot_ofUe; assumption) | (apply tidyPair_of; assumption)
    | (apply tidyTriple_of; assumption) | (apply tidyOpt_of; assumption) | (apply tidyAns_of; assumption)
    | apply tidy_foldl | (simp only [tidy_mk]; apply tidy_back) | split | (simp only [id_eq]) | apply_assumption
    | dsimp only

theorem within_execBrk (T : List Part) (orig : State) (hT : subP [.od, .out, .freeCtr, .mem, .ecc, .tiles, .mesh,
    .graphs, .flt, .obs, .log, .frz, .can] T = true) (t : TileId) (f : ImmForm) (s : State) (h1 : Within T orig s) : ∃
    z, execBrk t f s = .next z ∧ Within T orig z := by
  refine ⟨_, rfl, ?_⟩
  with_reducible repeat' first
    | (intro _) | assumption | (exact subP_trans (by decide) hT) | apply within_issueImm | apply within_ite
    | apply withinRes_ite | apply withinRes_ok | apply withinRes_ue | apply withinServe_ok | apply withinServe_ue
    | apply withinSlot_ok | apply withinSlot_exc | apply withinSlot_ue | apply withinOpt_some | apply withinOpt_none
    | apply withinAns_some | apply withinAns_none | apply within_snd_ite | (apply withinRes_of; assumption)
    | (apply withinRes_ofUe; assumption) | (apply withinServe_of; assumption) | (apply withinServe_ofUe; assumption)
    | (apply withinSlot_of; assumption) | (apply withinSlot_ofExc; assumption) | (apply withinSlot_ofUe; assumption)
    | (apply withinPair_of; assumption) | (apply withinTriple_of; assumption) | (apply withinOpt_of; assumption)
    | (apply withinAns_of; assumption) | apply within_foldl | split | (simp only [id_eq]) | apply_assumption
    | dsimp only

theorem tidy_execBundleStallRelease (q : List Instr) (t : TileId) (s : State) (h1 : Tidy q s) : ∃ z,
    execBundleStallRelease t s = .next z ∧ Tidy q z := by
  refine ⟨_, rfl, ?_⟩
  with_reducible repeat' first
    | (intro _) | assumption | apply tidy_releaseBundle | (simp only [tidy_mk]; apply tidy_back) | split | dsimp only

theorem within_execBundleStallRelease (T : List Part) (orig : State) (hT : subP [.od, .out, .freeCtr, .ecc, .tiles,
    .graphs, .flt, .obs, .log, .frz, .can] T = true) (t : TileId) (s : State) (h1 : Within T orig s) : ∃ z,
    execBundleStallRelease t s = .next z ∧ Within T orig z := by
  refine ⟨_, rfl, ?_⟩
  with_reducible repeat' first
    | (intro _) | assumption | (exact subP_trans (by decide) hT) | apply within_releaseBundle | split | dsimp only

theorem tidy_execAdmissionDutySlot (q : List Instr) (t : TileId) (s : State) (h1 : Tidy q s) : ∃ z,
    execAdmissionDutySlot t s = .next z ∧ Tidy q z := by
  refine ⟨_, rfl, ?_⟩
  with_reducible repeat' first
    | (intro _) | assumption | apply tidy_releaseBundle | apply tidy_ite | (simp only [tidy_mk]; apply tidy_back)
    | split | dsimp only

theorem within_execAdmissionDutySlot (T : List Part) (orig : State) (hT : subP [.od, .out, .freeCtr, .ecc, .tiles,
    .graphs, .flt, .obs, .log, .frz, .can] T = true) (t : TileId) (s : State) (h1 : Within T orig s) : ∃ z,
    execAdmissionDutySlot t s = .next z ∧ Within T orig z := by
  refine ⟨_, rfl, ?_⟩
  with_reducible repeat' first
    | (intro _) | assumption | (exact subP_trans (by decide) hT) | apply within_releaseBundle | apply within_ite
    | split | dsimp only

end Sys2Proof.Machine
end

