-- ==== Sys2Proof/Laws/State.lean ====
section
/-! SUPPORT. What each update of the state writes and what it leaves: one lemma per field. -/
namespace Sys2Proof.Machine
open Sys2Proof

/-! ### odSet -/

@[simp] theorem odSet_pending (s : State) (k v : Nat) : (odSet s k v).pending = s.pending := rfl
@[simp] theorem odSet_now (s : State) (k v : Nat) : (odSet s k v).now = s.now := rfl
@[simp] theorem odSet_od (s : State) (k v : Nat) :
    (odSet s k v).od = tput s.od k v := rfl
@[simp] theorem odSet_dom (s : State) (k v : Nat) : (odSet s k v).dom = s.dom := rfl
@[simp] theorem odSet_out (s : State) (k v : Nat) : (odSet s k v).out = s.out := rfl
@[simp] theorem odSet_resp (s : State) (k v : Nat) : (odSet s k v).resp = s.resp := rfl
@[simp] theorem odSet_freeCtr (s : State) (k v : Nat) : (odSet s k v).freeCtr = s.freeCtr := rfl
@[simp] theorem odSet_mem (s : State) (k v : Nat) : (odSet s k v).mem = s.mem := rfl
@[simp] theorem odSet_ecc (s : State) (k v : Nat) : (odSet s k v).ecc = s.ecc := rfl
@[simp] theorem odSet_tiles (s : State) (k v : Nat) : (odSet s k v).tiles = s.tiles := rfl
@[simp] theorem odSet_mesh (s : State) (k v : Nat) : (odSet s k v).mesh = s.mesh := rfl
@[simp] theorem odSet_graphs (s : State) (k v : Nat) : (odSet s k v).graphs = s.graphs := rfl
@[simp] theorem odSet_cmds (s : State) (k v : Nat) : (odSet s k v).cmds = s.cmds := rfl
@[simp] theorem odSet_hst (s : State) (k v : Nat) : (odSet s k v).hst = s.hst := rfl
@[simp] theorem odSet_fab (s : State) (k v : Nat) : (odSet s k v).fab = s.fab := rfl
@[simp] theorem odSet_rem (s : State) (k v : Nat) : (odSet s k v).rem = s.rem := rfl
@[simp] theorem odSet_flt (s : State) (k v : Nat) : (odSet s k v).flt = s.flt := rfl
@[simp] theorem odSet_trw (s : State) (k v : Nat) : (odSet s k v).trw = s.trw := rfl
@[simp] theorem odSet_sec (s : State) (k v : Nat) : (odSet s k v).sec = s.sec := rfl
@[simp] theorem odSet_meas (s : State) (k v : Nat) : (odSet s k v).meas = s.meas := rfl
@[simp] theorem odSet_tim (s : State) (k v : Nat) : (odSet s k v).tim = s.tim := rfl
@[simp] theorem odSet_obs (s : State) (k v : Nat) : (odSet s k v).obs = s.obs := rfl
@[simp] theorem odSet_log (s : State) (k v : Nat) : (odSet s k v).log = s.log := rfl
@[simp] theorem odSet_frz (s : State) (k v : Nat) : (odSet s k v).frz = s.frz := rfl
@[simp] theorem odSet_can (s : State) (k v : Nat) : (odSet s k v).can = s.can := rfl
@[simp] theorem odSet_mod (s : State) (k v : Nat) : (odSet s k v).mod = s.mod := rfl

/-! ### odClear -/

@[simp] theorem odClear_pending (s : State) (k : Nat) : (odClear s k).pending = s.pending := rfl
@[simp] theorem odClear_now (s : State) (k : Nat) : (odClear s k).now = s.now := rfl
@[simp] theorem odClear_od (s : State) (k : Nat) :
    (odClear s k).od = tdel s.od k := rfl
@[simp] theorem odClear_dom (s : State) (k : Nat) : (odClear s k).dom = s.dom := rfl
@[simp] theorem odClear_out (s : State) (k : Nat) : (odClear s k).out = s.out := rfl
@[simp] theorem odClear_resp (s : State) (k : Nat) : (odClear s k).resp = s.resp := rfl
@[simp] theorem odClear_freeCtr (s : State) (k : Nat) : (odClear s k).freeCtr = s.freeCtr := rfl
@[simp] theorem odClear_mem (s : State) (k : Nat) : (odClear s k).mem = s.mem := rfl
@[simp] theorem odClear_ecc (s : State) (k : Nat) : (odClear s k).ecc = s.ecc := rfl
@[simp] theorem odClear_tiles (s : State) (k : Nat) : (odClear s k).tiles = s.tiles := rfl
@[simp] theorem odClear_mesh (s : State) (k : Nat) : (odClear s k).mesh = s.mesh := rfl
@[simp] theorem odClear_graphs (s : State) (k : Nat) : (odClear s k).graphs = s.graphs := rfl
@[simp] theorem odClear_cmds (s : State) (k : Nat) : (odClear s k).cmds = s.cmds := rfl
@[simp] theorem odClear_hst (s : State) (k : Nat) : (odClear s k).hst = s.hst := rfl
@[simp] theorem odClear_fab (s : State) (k : Nat) : (odClear s k).fab = s.fab := rfl
@[simp] theorem odClear_rem (s : State) (k : Nat) : (odClear s k).rem = s.rem := rfl
@[simp] theorem odClear_flt (s : State) (k : Nat) : (odClear s k).flt = s.flt := rfl
@[simp] theorem odClear_trw (s : State) (k : Nat) : (odClear s k).trw = s.trw := rfl
@[simp] theorem odClear_sec (s : State) (k : Nat) : (odClear s k).sec = s.sec := rfl
@[simp] theorem odClear_meas (s : State) (k : Nat) : (odClear s k).meas = s.meas := rfl
@[simp] theorem odClear_tim (s : State) (k : Nat) : (odClear s k).tim = s.tim := rfl
@[simp] theorem odClear_obs (s : State) (k : Nat) : (odClear s k).obs = s.obs := rfl
@[simp] theorem odClear_log (s : State) (k : Nat) : (odClear s k).log = s.log := rfl
@[simp] theorem odClear_frz (s : State) (k : Nat) : (odClear s k).frz = s.frz := rfl
@[simp] theorem odClear_can (s : State) (k : Nat) : (odClear s k).can = s.can := rfl
@[simp] theorem odClear_mod (s : State) (k : Nat) : (odClear s k).mod = s.mod := rfl

/-! ### setTile -/

@[simp] theorem setTile_pending (s : State) (t : Nat) (x : TileSt) : (setTile s t x).pending = s.pending := rfl
@[simp] theorem setTile_now (s : State) (t : Nat) (x : TileSt) : (setTile s t x).now = s.now := rfl
@[simp] theorem setTile_od (s : State) (t : Nat) (x : TileSt) : (setTile s t x).od = s.od := rfl
@[simp] theorem setTile_dom (s : State) (t : Nat) (x : TileSt) : (setTile s t x).dom = s.dom := rfl
@[simp] theorem setTile_out (s : State) (t : Nat) (x : TileSt) : (setTile s t x).out = s.out := rfl
@[simp] theorem setTile_resp (s : State) (t : Nat) (x : TileSt) : (setTile s t x).resp = s.resp := rfl
@[simp] theorem setTile_freeCtr (s : State) (t : Nat) (x : TileSt) : (setTile s t x).freeCtr = s.freeCtr := rfl
@[simp] theorem setTile_mem (s : State) (t : Nat) (x : TileSt) : (setTile s t x).mem = s.mem := rfl
@[simp] theorem setTile_ecc (s : State) (t : Nat) (x : TileSt) : (setTile s t x).ecc = s.ecc := rfl
@[simp] theorem setTile_tiles (s : State) (t : Nat) (x : TileSt) :
    (setTile s t x).tiles = tput s.tiles t x := rfl
@[simp] theorem setTile_mesh (s : State) (t : Nat) (x : TileSt) : (setTile s t x).mesh = s.mesh := rfl
@[simp] theorem setTile_graphs (s : State) (t : Nat) (x : TileSt) : (setTile s t x).graphs = s.graphs := rfl
@[simp] theorem setTile_cmds (s : State) (t : Nat) (x : TileSt) : (setTile s t x).cmds = s.cmds := rfl
@[simp] theorem setTile_hst (s : State) (t : Nat) (x : TileSt) : (setTile s t x).hst = s.hst := rfl
@[simp] theorem setTile_fab (s : State) (t : Nat) (x : TileSt) : (setTile s t x).fab = s.fab := rfl
@[simp] theorem setTile_rem (s : State) (t : Nat) (x : TileSt) : (setTile s t x).rem = s.rem := rfl
@[simp] theorem setTile_flt (s : State) (t : Nat) (x : TileSt) : (setTile s t x).flt = s.flt := rfl
@[simp] theorem setTile_trw (s : State) (t : Nat) (x : TileSt) : (setTile s t x).trw = s.trw := rfl
@[simp] theorem setTile_sec (s : State) (t : Nat) (x : TileSt) : (setTile s t x).sec = s.sec := rfl
@[simp] theorem setTile_meas (s : State) (t : Nat) (x : TileSt) : (setTile s t x).meas = s.meas := rfl
@[simp] theorem setTile_tim (s : State) (t : Nat) (x : TileSt) : (setTile s t x).tim = s.tim := rfl
@[simp] theorem setTile_obs (s : State) (t : Nat) (x : TileSt) : (setTile s t x).obs = s.obs := rfl
@[simp] theorem setTile_log (s : State) (t : Nat) (x : TileSt) : (setTile s t x).log = s.log := rfl
@[simp] theorem setTile_frz (s : State) (t : Nat) (x : TileSt) : (setTile s t x).frz = s.frz := rfl
@[simp] theorem setTile_can (s : State) (t : Nat) (x : TileSt) : (setTile s t x).can = s.can := rfl
@[simp] theorem setTile_mod (s : State) (t : Nat) (x : TileSt) : (setTile s t x).mod = s.mod := rfl

/-! ### emit -/

@[simp] theorem emit_pending (o : Output) (s : State) : (emit o s).pending = s.pending := rfl
@[simp] theorem emit_now (o : Output) (s : State) : (emit o s).now = s.now := rfl
@[simp] theorem emit_od (o : Output) (s : State) : (emit o s).od = s.od := rfl
@[simp] theorem emit_dom (o : Output) (s : State) : (emit o s).dom = s.dom := rfl
@[simp] theorem emit_out (o : Output) (s : State) :
    (emit o s).out = o :: s.out := rfl
@[simp] theorem emit_resp (o : Output) (s : State) : (emit o s).resp = s.resp := rfl
@[simp] theorem emit_freeCtr (o : Output) (s : State) : (emit o s).freeCtr = s.freeCtr := rfl
@[simp] theorem emit_mem (o : Output) (s : State) : (emit o s).mem = s.mem := rfl
@[simp] theorem emit_ecc (o : Output) (s : State) : (emit o s).ecc = s.ecc := rfl
@[simp] theorem emit_tiles (o : Output) (s : State) : (emit o s).tiles = s.tiles := rfl
@[simp] theorem emit_mesh (o : Output) (s : State) : (emit o s).mesh = s.mesh := rfl
@[simp] theorem emit_graphs (o : Output) (s : State) : (emit o s).graphs = s.graphs := rfl
@[simp] theorem emit_cmds (o : Output) (s : State) : (emit o s).cmds = s.cmds := rfl
@[simp] theorem emit_hst (o : Output) (s : State) : (emit o s).hst = s.hst := rfl
@[simp] theorem emit_fab (o : Output) (s : State) : (emit o s).fab = s.fab := rfl
@[simp] theorem emit_rem (o : Output) (s : State) : (emit o s).rem = s.rem := rfl
@[simp] theorem emit_flt (o : Output) (s : State) : (emit o s).flt = s.flt := rfl
@[simp] theorem emit_trw (o : Output) (s : State) : (emit o s).trw = s.trw := rfl
@[simp] theorem emit_sec (o : Output) (s : State) : (emit o s).sec = s.sec := rfl
@[simp] theorem emit_meas (o : Output) (s : State) : (emit o s).meas = s.meas := rfl
@[simp] theorem emit_tim (o : Output) (s : State) : (emit o s).tim = s.tim := rfl
@[simp] theorem emit_obs (o : Output) (s : State) : (emit o s).obs = s.obs := rfl
@[simp] theorem emit_log (o : Output) (s : State) : (emit o s).log = s.log := rfl
@[simp] theorem emit_frz (o : Output) (s : State) : (emit o s).frz = s.frz := rfl
@[simp] theorem emit_can (o : Output) (s : State) : (emit o s).can = s.can := rfl
@[simp] theorem emit_mod (o : Output) (s : State) : (emit o s).mod = s.mod := rfl

/-! ### measChange -/

@[simp] theorem measChange_pending (s : State) : (measChange s).pending = s.pending := rfl
@[simp] theorem measChange_now (s : State) : (measChange s).now = s.now := rfl
@[simp] theorem measChange_od (s : State) : (measChange s).od = s.od := rfl
@[simp] theorem measChange_dom (s : State) : (measChange s).dom = s.dom := rfl
@[simp] theorem measChange_out (s : State) : (measChange s).out = s.out := rfl
@[simp] theorem measChange_resp (s : State) : (measChange s).resp = s.resp := rfl
@[simp] theorem measChange_freeCtr (s : State) : (measChange s).freeCtr = s.freeCtr := rfl
@[simp] theorem measChange_mem (s : State) : (measChange s).mem = s.mem := rfl
@[simp] theorem measChange_ecc (s : State) : (measChange s).ecc = s.ecc := rfl
@[simp] theorem measChange_tiles (s : State) : (measChange s).tiles = s.tiles := rfl
@[simp] theorem measChange_mesh (s : State) : (measChange s).mesh = s.mesh := rfl
@[simp] theorem measChange_graphs (s : State) : (measChange s).graphs = s.graphs := rfl
@[simp] theorem measChange_cmds (s : State) : (measChange s).cmds = s.cmds := rfl
@[simp] theorem measChange_hst (s : State) : (measChange s).hst = s.hst := rfl
@[simp] theorem measChange_fab (s : State) : (measChange s).fab = s.fab := rfl
@[simp] theorem measChange_rem (s : State) : (measChange s).rem = s.rem := rfl
@[simp] theorem measChange_flt (s : State) : (measChange s).flt = s.flt := rfl
@[simp] theorem measChange_trw (s : State) : (measChange s).trw = s.trw := rfl
@[simp] theorem measChange_sec (s : State) : (measChange s).sec = s.sec := rfl
@[simp] theorem measChange_meas (s : State) :
    (measChange s).meas = { s.meas with gen := (s.meas.gen + 1) % 2 ^ 32 } := rfl
@[simp] theorem measChange_tim (s : State) : (measChange s).tim = s.tim := rfl
@[simp] theorem measChange_obs (s : State) : (measChange s).obs = s.obs := rfl
@[simp] theorem measChange_log (s : State) : (measChange s).log = s.log := rfl
@[simp] theorem measChange_frz (s : State) : (measChange s).frz = s.frz := rfl
@[simp] theorem measChange_can (s : State) : (measChange s).can = s.can := rfl
@[simp] theorem measChange_mod (s : State) : (measChange s).mod = s.mod := rfl

/-! ### modFlt -/

@[simp] theorem modFlt_pending (f : FloatSt → FloatSt) (s : State) : (modFlt f s).pending = s.pending := rfl
@[simp] theorem modFlt_now (f : FloatSt → FloatSt) (s : State) : (modFlt f s).now = s.now := rfl
@[simp] theorem modFlt_od (f : FloatSt → FloatSt) (s : State) : (modFlt f s).od = s.od := rfl
@[simp] theorem modFlt_dom (f : FloatSt → FloatSt) (s : State) : (modFlt f s).dom = s.dom := rfl
@[simp] theorem modFlt_out (f : FloatSt → FloatSt) (s : State) : (modFlt f s).out = s.out := rfl
@[simp] theorem modFlt_resp (f : FloatSt → FloatSt) (s : State) : (modFlt f s).resp = s.resp := rfl
@[simp] theorem modFlt_freeCtr (f : FloatSt → FloatSt) (s : State) : (modFlt f s).freeCtr = s.freeCtr := rfl
@[simp] theorem modFlt_mem (f : FloatSt → FloatSt) (s : State) : (modFlt f s).mem = s.mem := rfl
@[simp] theorem modFlt_ecc (f : FloatSt → FloatSt) (s : State) : (modFlt f s).ecc = s.ecc := rfl
@[simp] theorem modFlt_tiles (f : FloatSt → FloatSt) (s : State) : (modFlt f s).tiles = s.tiles := rfl
@[simp] theorem modFlt_mesh (f : FloatSt → FloatSt) (s : State) : (modFlt f s).mesh = s.mesh := rfl
@[simp] theorem modFlt_graphs (f : FloatSt → FloatSt) (s : State) : (modFlt f s).graphs = s.graphs := rfl
@[simp] theorem modFlt_cmds (f : FloatSt → FloatSt) (s : State) : (modFlt f s).cmds = s.cmds := rfl
@[simp] theorem modFlt_hst (f : FloatSt → FloatSt) (s : State) : (modFlt f s).hst = s.hst := rfl
@[simp] theorem modFlt_fab (f : FloatSt → FloatSt) (s : State) : (modFlt f s).fab = s.fab := rfl
@[simp] theorem modFlt_rem (f : FloatSt → FloatSt) (s : State) : (modFlt f s).rem = s.rem := rfl
@[simp] theorem modFlt_flt (f : FloatSt → FloatSt) (s : State) :
    (modFlt f s).flt = f s.flt := rfl
@[simp] theorem modFlt_trw (f : FloatSt → FloatSt) (s : State) : (modFlt f s).trw = s.trw := rfl
@[simp] theorem modFlt_sec (f : FloatSt → FloatSt) (s : State) : (modFlt f s).sec = s.sec := rfl
@[simp] theorem modFlt_meas (f : FloatSt → FloatSt) (s : State) : (modFlt f s).meas = s.meas := rfl
@[simp] theorem modFlt_tim (f : FloatSt → FloatSt) (s : State) : (modFlt f s).tim = s.tim := rfl
@[simp] theorem modFlt_obs (f : FloatSt → FloatSt) (s : State) : (modFlt f s).obs = s.obs := rfl
@[simp] theorem modFlt_log (f : FloatSt → FloatSt) (s : State) : (modFlt f s).log = s.log := rfl
@[simp] theorem modFlt_frz (f : FloatSt → FloatSt) (s : State) : (modFlt f s).frz = s.frz := rfl
@[simp] theorem modFlt_can (f : FloatSt → FloatSt) (s : State) : (modFlt f s).can = s.can := rfl
@[simp] theorem modFlt_mod (f : FloatSt → FloatSt) (s : State) : (modFlt f s).mod = s.mod := rfl

/-! ### modTrw -/

@[simp] theorem modTrw_pending (f : TrwSt → TrwSt) (s : State) : (modTrw f s).pending = s.pending := rfl
@[simp] theorem modTrw_now (f : TrwSt → TrwSt) (s : State) : (modTrw f s).now = s.now := rfl
@[simp] theorem modTrw_od (f : TrwSt → TrwSt) (s : State) : (modTrw f s).od = s.od := rfl
@[simp] theorem modTrw_dom (f : TrwSt → TrwSt) (s : State) : (modTrw f s).dom = s.dom := rfl
@[simp] theorem modTrw_out (f : TrwSt → TrwSt) (s : State) : (modTrw f s).out = s.out := rfl
@[simp] theorem modTrw_resp (f : TrwSt → TrwSt) (s : State) : (modTrw f s).resp = s.resp := rfl
@[simp] theorem modTrw_freeCtr (f : TrwSt → TrwSt) (s : State) : (modTrw f s).freeCtr = s.freeCtr := rfl
@[simp] theorem modTrw_mem (f : TrwSt → TrwSt) (s : State) : (modTrw f s).mem = s.mem := rfl
@[simp] theorem modTrw_ecc (f : TrwSt → TrwSt) (s : State) : (modTrw f s).ecc = s.ecc := rfl
@[simp] theorem modTrw_tiles (f : TrwSt → TrwSt) (s : State) : (modTrw f s).tiles = s.tiles := rfl
@[simp] theorem modTrw_mesh (f : TrwSt → TrwSt) (s : State) : (modTrw f s).mesh = s.mesh := rfl
@[simp] theorem modTrw_graphs (f : TrwSt → TrwSt) (s : State) : (modTrw f s).graphs = s.graphs := rfl
@[simp] theorem modTrw_cmds (f : TrwSt → TrwSt) (s : State) : (modTrw f s).cmds = s.cmds := rfl
@[simp] theorem modTrw_hst (f : TrwSt → TrwSt) (s : State) : (modTrw f s).hst = s.hst := rfl
@[simp] theorem modTrw_fab (f : TrwSt → TrwSt) (s : State) : (modTrw f s).fab = s.fab := rfl
@[simp] theorem modTrw_rem (f : TrwSt → TrwSt) (s : State) : (modTrw f s).rem = s.rem := rfl
@[simp] theorem modTrw_flt (f : TrwSt → TrwSt) (s : State) : (modTrw f s).flt = s.flt := rfl
@[simp] theorem modTrw_trw (f : TrwSt → TrwSt) (s : State) :
    (modTrw f s).trw = f s.trw := rfl
@[simp] theorem modTrw_sec (f : TrwSt → TrwSt) (s : State) : (modTrw f s).sec = s.sec := rfl
@[simp] theorem modTrw_meas (f : TrwSt → TrwSt) (s : State) : (modTrw f s).meas = s.meas := rfl
@[simp] theorem modTrw_tim (f : TrwSt → TrwSt) (s : State) : (modTrw f s).tim = s.tim := rfl
@[simp] theorem modTrw_obs (f : TrwSt → TrwSt) (s : State) : (modTrw f s).obs = s.obs := rfl
@[simp] theorem modTrw_log (f : TrwSt → TrwSt) (s : State) : (modTrw f s).log = s.log := rfl
@[simp] theorem modTrw_frz (f : TrwSt → TrwSt) (s : State) : (modTrw f s).frz = s.frz := rfl
@[simp] theorem modTrw_can (f : TrwSt → TrwSt) (s : State) : (modTrw f s).can = s.can := rfl
@[simp] theorem modTrw_mod (f : TrwSt → TrwSt) (s : State) : (modTrw f s).mod = s.mod := rfl

/-! ### modTim -/

@[simp] theorem modTim_pending (f : TimeSt → TimeSt) (s : State) : (modTim f s).pending = s.pending := rfl
@[simp] theorem modTim_now (f : TimeSt → TimeSt) (s : State) : (modTim f s).now = s.now := rfl
@[simp] theorem modTim_od (f : TimeSt → TimeSt) (s : State) : (modTim f s).od = s.od := rfl
@[simp] theorem modTim_dom (f : TimeSt → TimeSt) (s : State) : (modTim f s).dom = s.dom := rfl
@[simp] theorem modTim_out (f : TimeSt → TimeSt) (s : State) : (modTim f s).out = s.out := rfl
@[simp] theorem modTim_resp (f : TimeSt → TimeSt) (s : State) : (modTim f s).resp = s.resp := rfl
@[simp] theorem modTim_freeCtr (f : TimeSt → TimeSt) (s : State) : (modTim f s).freeCtr = s.freeCtr := rfl
@[simp] theorem modTim_mem (f : TimeSt → TimeSt) (s : State) : (modTim f s).mem = s.mem := rfl
@[simp] theorem modTim_ecc (f : TimeSt → TimeSt) (s : State) : (modTim f s).ecc = s.ecc := rfl
@[simp] theorem modTim_tiles (f : TimeSt → TimeSt) (s : State) : (modTim f s).tiles = s.tiles := rfl
@[simp] theorem modTim_mesh (f : TimeSt → TimeSt) (s : State) : (modTim f s).mesh = s.mesh := rfl
@[simp] theorem modTim_graphs (f : TimeSt → TimeSt) (s : State) : (modTim f s).graphs = s.graphs := rfl
@[simp] theorem modTim_cmds (f : TimeSt → TimeSt) (s : State) : (modTim f s).cmds = s.cmds := rfl
@[simp] theorem modTim_hst (f : TimeSt → TimeSt) (s : State) : (modTim f s).hst = s.hst := rfl
@[simp] theorem modTim_fab (f : TimeSt → TimeSt) (s : State) : (modTim f s).fab = s.fab := rfl
@[simp] theorem modTim_rem (f : TimeSt → TimeSt) (s : State) : (modTim f s).rem = s.rem := rfl
@[simp] theorem modTim_flt (f : TimeSt → TimeSt) (s : State) : (modTim f s).flt = s.flt := rfl
@[simp] theorem modTim_trw (f : TimeSt → TimeSt) (s : State) : (modTim f s).trw = s.trw := rfl
@[simp] theorem modTim_sec (f : TimeSt → TimeSt) (s : State) : (modTim f s).sec = s.sec := rfl
@[simp] theorem modTim_meas (f : TimeSt → TimeSt) (s : State) : (modTim f s).meas = s.meas := rfl
@[simp] theorem modTim_tim (f : TimeSt → TimeSt) (s : State) :
    (modTim f s).tim = f s.tim := rfl
@[simp] theorem modTim_obs (f : TimeSt → TimeSt) (s : State) : (modTim f s).obs = s.obs := rfl
@[simp] theorem modTim_log (f : TimeSt → TimeSt) (s : State) : (modTim f s).log = s.log := rfl
@[simp] theorem modTim_frz (f : TimeSt → TimeSt) (s : State) : (modTim f s).frz = s.frz := rfl
@[simp] theorem modTim_can (f : TimeSt → TimeSt) (s : State) : (modTim f s).can = s.can := rfl
@[simp] theorem modTim_mod (f : TimeSt → TimeSt) (s : State) : (modTim f s).mod = s.mod := rfl

/-! ### modSec -/

@[simp] theorem modSec_pending (f : SecSt → SecSt) (s : State) : (modSec f s).pending = s.pending := rfl
@[simp] theorem modSec_now (f : SecSt → SecSt) (s : State) : (modSec f s).now = s.now := rfl
@[simp] theorem modSec_od (f : SecSt → SecSt) (s : State) : (modSec f s).od = s.od := rfl
@[simp] theorem modSec_dom (f : SecSt → SecSt) (s : State) : (modSec f s).dom = s.dom := rfl
@[simp] theorem modSec_out (f : SecSt → SecSt) (s : State) : (modSec f s).out = s.out := rfl
@[simp] theorem modSec_resp (f : SecSt → SecSt) (s : State) : (modSec f s).resp = s.resp := rfl
@[simp] theorem modSec_freeCtr (f : SecSt → SecSt) (s : State) : (modSec f s).freeCtr = s.freeCtr := rfl
@[simp] theorem modSec_mem (f : SecSt → SecSt) (s : State) : (modSec f s).mem = s.mem := rfl
@[simp] theorem modSec_ecc (f : SecSt → SecSt) (s : State) : (modSec f s).ecc = s.ecc := rfl
@[simp] theorem modSec_tiles (f : SecSt → SecSt) (s : State) : (modSec f s).tiles = s.tiles := rfl
@[simp] theorem modSec_mesh (f : SecSt → SecSt) (s : State) : (modSec f s).mesh = s.mesh := rfl
@[simp] theorem modSec_graphs (f : SecSt → SecSt) (s : State) : (modSec f s).graphs = s.graphs := rfl
@[simp] theorem modSec_cmds (f : SecSt → SecSt) (s : State) : (modSec f s).cmds = s.cmds := rfl
@[simp] theorem modSec_hst (f : SecSt → SecSt) (s : State) : (modSec f s).hst = s.hst := rfl
@[simp] theorem modSec_fab (f : SecSt → SecSt) (s : State) : (modSec f s).fab = s.fab := rfl
@[simp] theorem modSec_rem (f : SecSt → SecSt) (s : State) : (modSec f s).rem = s.rem := rfl
@[simp] theorem modSec_flt (f : SecSt → SecSt) (s : State) : (modSec f s).flt = s.flt := rfl
@[simp] theorem modSec_trw (f : SecSt → SecSt) (s : State) : (modSec f s).trw = s.trw := rfl
@[simp] theorem modSec_sec (f : SecSt → SecSt) (s : State) :
    (modSec f s).sec = f s.sec := rfl
@[simp] theorem modSec_meas (f : SecSt → SecSt) (s : State) : (modSec f s).meas = s.meas := rfl
@[simp] theorem modSec_tim (f : SecSt → SecSt) (s : State) : (modSec f s).tim = s.tim := rfl
@[simp] theorem modSec_obs (f : SecSt → SecSt) (s : State) : (modSec f s).obs = s.obs := rfl
@[simp] theorem modSec_log (f : SecSt → SecSt) (s : State) : (modSec f s).log = s.log := rfl
@[simp] theorem modSec_frz (f : SecSt → SecSt) (s : State) : (modSec f s).frz = s.frz := rfl
@[simp] theorem modSec_can (f : SecSt → SecSt) (s : State) : (modSec f s).can = s.can := rfl
@[simp] theorem modSec_mod (f : SecSt → SecSt) (s : State) : (modSec f s).mod = s.mod := rfl

/-! ### modCan -/

@[simp] theorem modCan_pending (f : CanSt → CanSt) (s : State) : (modCan f s).pending = s.pending := rfl
@[simp] theorem modCan_now (f : CanSt → CanSt) (s : State) : (modCan f s).now = s.now := rfl
@[simp] theorem modCan_od (f : CanSt → CanSt) (s : State) : (modCan f s).od = s.od := rfl
@[simp] theorem modCan_dom (f : CanSt → CanSt) (s : State) : (modCan f s).dom = s.dom := rfl
@[simp] theorem modCan_out (f : CanSt → CanSt) (s : State) : (modCan f s).out = s.out := rfl
@[simp] theorem modCan_resp (f : CanSt → CanSt) (s : State) : (modCan f s).resp = s.resp := rfl
@[simp] theorem modCan_freeCtr (f : CanSt → CanSt) (s : State) : (modCan f s).freeCtr = s.freeCtr := rfl
@[simp] theorem modCan_mem (f : CanSt → CanSt) (s : State) : (modCan f s).mem = s.mem := rfl
@[simp] theorem modCan_ecc (f : CanSt → CanSt) (s : State) : (modCan f s).ecc = s.ecc := rfl
@[simp] theorem modCan_tiles (f : CanSt → CanSt) (s : State) : (modCan f s).tiles = s.tiles := rfl
@[simp] theorem modCan_mesh (f : CanSt → CanSt) (s : State) : (modCan f s).mesh = s.mesh := rfl
@[simp] theorem modCan_graphs (f : CanSt → CanSt) (s : State) : (modCan f s).graphs = s.graphs := rfl
@[simp] theorem modCan_cmds (f : CanSt → CanSt) (s : State) : (modCan f s).cmds = s.cmds := rfl
@[simp] theorem modCan_hst (f : CanSt → CanSt) (s : State) : (modCan f s).hst = s.hst := rfl
@[simp] theorem modCan_fab (f : CanSt → CanSt) (s : State) : (modCan f s).fab = s.fab := rfl
@[simp] theorem modCan_rem (f : CanSt → CanSt) (s : State) : (modCan f s).rem = s.rem := rfl
@[simp] theorem modCan_flt (f : CanSt → CanSt) (s : State) : (modCan f s).flt = s.flt := rfl
@[simp] theorem modCan_trw (f : CanSt → CanSt) (s : State) : (modCan f s).trw = s.trw := rfl
@[simp] theorem modCan_sec (f : CanSt → CanSt) (s : State) : (modCan f s).sec = s.sec := rfl
@[simp] theorem modCan_meas (f : CanSt → CanSt) (s : State) : (modCan f s).meas = s.meas := rfl
@[simp] theorem modCan_tim (f : CanSt → CanSt) (s : State) : (modCan f s).tim = s.tim := rfl
@[simp] theorem modCan_obs (f : CanSt → CanSt) (s : State) : (modCan f s).obs = s.obs := rfl
@[simp] theorem modCan_log (f : CanSt → CanSt) (s : State) : (modCan f s).log = s.log := rfl
@[simp] theorem modCan_frz (f : CanSt → CanSt) (s : State) : (modCan f s).frz = s.frz := rfl
@[simp] theorem modCan_can (f : CanSt → CanSt) (s : State) :
    (modCan f s).can = f s.can := rfl
@[simp] theorem modCan_mod (f : CanSt → CanSt) (s : State) : (modCan f s).mod = s.mod := rfl

/-! ### modMod -/

@[simp] theorem modMod_pending (f : ModSt → ModSt) (s : State) : (modMod f s).pending = s.pending := rfl
@[simp] theorem modMod_now (f : ModSt → ModSt) (s : State) : (modMod f s).now = s.now := rfl
@[simp] theorem modMod_od (f : ModSt → ModSt) (s : State) : (modMod f s).od = s.od := rfl
@[simp] theorem modMod_dom (f : ModSt → ModSt) (s : State) : (modMod f s).dom = s.dom := rfl
@[simp] theorem modMod_out (f : ModSt → ModSt) (s : State) : (modMod f s).out = s.out := rfl
@[simp] theorem modMod_resp (f : ModSt → ModSt) (s : State) : (modMod f s).resp = s.resp := rfl
@[simp] theorem modMod_freeCtr (f : ModSt → ModSt) (s : State) : (modMod f s).freeCtr = s.freeCtr := rfl
@[simp] theorem modMod_mem (f : ModSt → ModSt) (s : State) : (modMod f s).mem = s.mem := rfl
@[simp] theorem modMod_ecc (f : ModSt → ModSt) (s : State) : (modMod f s).ecc = s.ecc := rfl
@[simp] theorem modMod_tiles (f : ModSt → ModSt) (s : State) : (modMod f s).tiles = s.tiles := rfl
@[simp] theorem modMod_mesh (f : ModSt → ModSt) (s : State) : (modMod f s).mesh = s.mesh := rfl
@[simp] theorem modMod_graphs (f : ModSt → ModSt) (s : State) : (modMod f s).graphs = s.graphs := rfl
@[simp] theorem modMod_cmds (f : ModSt → ModSt) (s : State) : (modMod f s).cmds = s.cmds := rfl
@[simp] theorem modMod_hst (f : ModSt → ModSt) (s : State) : (modMod f s).hst = s.hst := rfl
@[simp] theorem modMod_fab (f : ModSt → ModSt) (s : State) : (modMod f s).fab = s.fab := rfl
@[simp] theorem modMod_rem (f : ModSt → ModSt) (s : State) : (modMod f s).rem = s.rem := rfl
@[simp] theorem modMod_flt (f : ModSt → ModSt) (s : State) : (modMod f s).flt = s.flt := rfl
@[simp] theorem modMod_trw (f : ModSt → ModSt) (s : State) : (modMod f s).trw = s.trw := rfl
@[simp] theorem modMod_sec (f : ModSt → ModSt) (s : State) : (modMod f s).sec = s.sec := rfl
@[simp] theorem modMod_meas (f : ModSt → ModSt) (s : State) : (modMod f s).meas = s.meas := rfl
@[simp] theorem modMod_tim (f : ModSt → ModSt) (s : State) : (modMod f s).tim = s.tim := rfl
@[simp] theorem modMod_obs (f : ModSt → ModSt) (s : State) : (modMod f s).obs = s.obs := rfl
@[simp] theorem modMod_log (f : ModSt → ModSt) (s : State) : (modMod f s).log = s.log := rfl
@[simp] theorem modMod_frz (f : ModSt → ModSt) (s : State) : (modMod f s).frz = s.frz := rfl
@[simp] theorem modMod_can (f : ModSt → ModSt) (s : State) : (modMod f s).can = s.can := rfl
@[simp] theorem modMod_mod (f : ModSt → ModSt) (s : State) :
    (modMod f s).mod = f s.mod := rfl

/-! ### modLog -/

@[simp] theorem modLog_pending (f : LogSt → LogSt) (s : State) : (modLog f s).pending = s.pending := rfl
@[simp] theorem modLog_now (f : LogSt → LogSt) (s : State) : (modLog f s).now = s.now := rfl
@[simp] theorem modLog_od (f : LogSt → LogSt) (s : State) : (modLog f s).od = s.od := rfl
@[simp] theorem modLog_dom (f : LogSt → LogSt) (s : State) : (modLog f s).dom = s.dom := rfl
@[simp] theorem modLog_out (f : LogSt → LogSt) (s : State) : (modLog f s).out = s.out := rfl
@[simp] theorem modLog_resp (f : LogSt → LogSt) (s : State) : (modLog f s).resp = s.resp := rfl
@[simp] theorem modLog_freeCtr (f : LogSt → LogSt) (s : State) : (modLog f s).freeCtr = s.freeCtr := rfl
@[simp] theorem modLog_mem (f : LogSt → LogSt) (s : State) : (modLog f s).mem = s.mem := rfl
@[simp] theorem modLog_ecc (f : LogSt → LogSt) (s : State) : (modLog f s).ecc = s.ecc := rfl
@[simp] theorem modLog_tiles (f : LogSt → LogSt) (s : State) : (modLog f s).tiles = s.tiles := rfl
@[simp] theorem modLog_mesh (f : LogSt → LogSt) (s : State) : (modLog f s).mesh = s.mesh := rfl
@[simp] theorem modLog_graphs (f : LogSt → LogSt) (s : State) : (modLog f s).graphs = s.graphs := rfl
@[simp] theorem modLog_cmds (f : LogSt → LogSt) (s : State) : (modLog f s).cmds = s.cmds := rfl
@[simp] theorem modLog_hst (f : LogSt → LogSt) (s : State) : (modLog f s).hst = s.hst := rfl
@[simp] theorem modLog_fab (f : LogSt → LogSt) (s : State) : (modLog f s).fab = s.fab := rfl
@[simp] theorem modLog_rem (f : LogSt → LogSt) (s : State) : (modLog f s).rem = s.rem := rfl
@[simp] theorem modLog_flt (f : LogSt → LogSt) (s : State) : (modLog f s).flt = s.flt := rfl
@[simp] theorem modLog_trw (f : LogSt → LogSt) (s : State) : (modLog f s).trw = s.trw := rfl
@[simp] theorem modLog_sec (f : LogSt → LogSt) (s : State) : (modLog f s).sec = s.sec := rfl
@[simp] theorem modLog_meas (f : LogSt → LogSt) (s : State) : (modLog f s).meas = s.meas := rfl
@[simp] theorem modLog_tim (f : LogSt → LogSt) (s : State) : (modLog f s).tim = s.tim := rfl
@[simp] theorem modLog_obs (f : LogSt → LogSt) (s : State) : (modLog f s).obs = s.obs := rfl
@[simp] theorem modLog_log (f : LogSt → LogSt) (s : State) :
    (modLog f s).log = f s.log := rfl
@[simp] theorem modLog_frz (f : LogSt → LogSt) (s : State) : (modLog f s).frz = s.frz := rfl
@[simp] theorem modLog_can (f : LogSt → LogSt) (s : State) : (modLog f s).can = s.can := rfl
@[simp] theorem modLog_mod (f : LogSt → LogSt) (s : State) : (modLog f s).mod = s.mod := rfl

/-! ### setPort -/

@[simp] theorem setPort_pending (p : Nat) (x : PortSt) (s : State) : (setPort p x s).pending = s.pending := rfl
@[simp] theorem setPort_now (p : Nat) (x : PortSt) (s : State) : (setPort p x s).now = s.now := rfl
@[simp] theorem setPort_od (p : Nat) (x : PortSt) (s : State) : (setPort p x s).od = s.od := rfl
@[simp] theorem setPort_dom (p : Nat) (x : PortSt) (s : State) : (setPort p x s).dom = s.dom := rfl
@[simp] theorem setPort_out (p : Nat) (x : PortSt) (s : State) : (setPort p x s).out = s.out := rfl
@[simp] theorem setPort_resp (p : Nat) (x : PortSt) (s : State) : (setPort p x s).resp = s.resp := rfl
@[simp] theorem setPort_freeCtr (p : Nat) (x : PortSt) (s : State) : (setPort p x s).freeCtr = s.freeCtr := rfl
@[simp] theorem setPort_mem (p : Nat) (x : PortSt) (s : State) : (setPort p x s).mem = s.mem := rfl
@[simp] theorem setPort_ecc (p : Nat) (x : PortSt) (s : State) : (setPort p x s).ecc = s.ecc := rfl
@[simp] theorem setPort_tiles (p : Nat) (x : PortSt) (s : State) : (setPort p x s).tiles = s.tiles := rfl
@[simp] theorem setPort_mesh (p : Nat) (x : PortSt) (s : State) : (setPort p x s).mesh = s.mesh := rfl
@[simp] theorem setPort_graphs (p : Nat) (x : PortSt) (s : State) : (setPort p x s).graphs = s.graphs := rfl
@[simp] theorem setPort_cmds (p : Nat) (x : PortSt) (s : State) : (setPort p x s).cmds = s.cmds := rfl
@[simp] theorem setPort_hst (p : Nat) (x : PortSt) (s : State) : (setPort p x s).hst = s.hst := rfl
@[simp] theorem setPort_fab (p : Nat) (x : PortSt) (s : State) :
    (setPort p x s).fab = { s.fab with ports := tput s.fab.ports p x } := rfl
@[simp] theorem setPort_rem (p : Nat) (x : PortSt) (s : State) : (setPort p x s).rem = s.rem := rfl
@[simp] theorem setPort_flt (p : Nat) (x : PortSt) (s : State) : (setPort p x s).flt = s.flt := rfl
@[simp] theorem setPort_trw (p : Nat) (x : PortSt) (s : State) : (setPort p x s).trw = s.trw := rfl
@[simp] theorem setPort_sec (p : Nat) (x : PortSt) (s : State) : (setPort p x s).sec = s.sec := rfl
@[simp] theorem setPort_meas (p : Nat) (x : PortSt) (s : State) : (setPort p x s).meas = s.meas := rfl
@[simp] theorem setPort_tim (p : Nat) (x : PortSt) (s : State) : (setPort p x s).tim = s.tim := rfl
@[simp] theorem setPort_obs (p : Nat) (x : PortSt) (s : State) : (setPort p x s).obs = s.obs := rfl
@[simp] theorem setPort_log (p : Nat) (x : PortSt) (s : State) : (setPort p x s).log = s.log := rfl
@[simp] theorem setPort_frz (p : Nat) (x : PortSt) (s : State) : (setPort p x s).frz = s.frz := rfl
@[simp] theorem setPort_can (p : Nat) (x : PortSt) (s : State) : (setPort p x s).can = s.can := rfl
@[simp] theorem setPort_mod (p : Nat) (x : PortSt) (s : State) : (setPort p x s).mod = s.mod := rfl

/-! ### setFe -/

@[simp] theorem setFe_pending (fe : Nat) (x : FeSt) (s : State) : (setFe fe x s).pending = s.pending := rfl
@[simp] theorem setFe_now (fe : Nat) (x : FeSt) (s : State) : (setFe fe x s).now = s.now := rfl
@[simp] theorem setFe_od (fe : Nat) (x : FeSt) (s : State) : (setFe fe x s).od = s.od := rfl
@[simp] theorem setFe_dom (fe : Nat) (x : FeSt) (s : State) : (setFe fe x s).dom = s.dom := rfl
@[simp] theorem setFe_out (fe : Nat) (x : FeSt) (s : State) : (setFe fe x s).out = s.out := rfl
@[simp] theorem setFe_resp (fe : Nat) (x : FeSt) (s : State) : (setFe fe x s).resp = s.resp := rfl
@[simp] theorem setFe_freeCtr (fe : Nat) (x : FeSt) (s : State) : (setFe fe x s).freeCtr = s.freeCtr := rfl
@[simp] theorem setFe_mem (fe : Nat) (x : FeSt) (s : State) : (setFe fe x s).mem = s.mem := rfl
@[simp] theorem setFe_ecc (fe : Nat) (x : FeSt) (s : State) : (setFe fe x s).ecc = s.ecc := rfl
@[simp] theorem setFe_tiles (fe : Nat) (x : FeSt) (s : State) : (setFe fe x s).tiles = s.tiles := rfl
@[simp] theorem setFe_mesh (fe : Nat) (x : FeSt) (s : State) : (setFe fe x s).mesh = s.mesh := rfl
@[simp] theorem setFe_graphs (fe : Nat) (x : FeSt) (s : State) : (setFe fe x s).graphs = s.graphs := rfl
@[simp] theorem setFe_cmds (fe : Nat) (x : FeSt) (s : State) : (setFe fe x s).cmds = s.cmds := rfl
@[simp] theorem setFe_hst (fe : Nat) (x : FeSt) (s : State) : (setFe fe x s).hst = s.hst := rfl
@[simp] theorem setFe_fab (fe : Nat) (x : FeSt) (s : State) : (setFe fe x s).fab = s.fab := rfl
@[simp] theorem setFe_rem (fe : Nat) (x : FeSt) (s : State) :
    (setFe fe x s).rem = { s.rem with fes := tput s.rem.fes fe x } := rfl
@[simp] theorem setFe_flt (fe : Nat) (x : FeSt) (s : State) : (setFe fe x s).flt = s.flt := rfl
@[simp] theorem setFe_trw (fe : Nat) (x : FeSt) (s : State) : (setFe fe x s).trw = s.trw := rfl
@[simp] theorem setFe_sec (fe : Nat) (x : FeSt) (s : State) : (setFe fe x s).sec = s.sec := rfl
@[simp] theorem setFe_meas (fe : Nat) (x : FeSt) (s : State) : (setFe fe x s).meas = s.meas := rfl
@[simp] theorem setFe_tim (fe : Nat) (x : FeSt) (s : State) : (setFe fe x s).tim = s.tim := rfl
@[simp] theorem setFe_obs (fe : Nat) (x : FeSt) (s : State) : (setFe fe x s).obs = s.obs := rfl
@[simp] theorem setFe_log (fe : Nat) (x : FeSt) (s : State) : (setFe fe x s).log = s.log := rfl
@[simp] theorem setFe_frz (fe : Nat) (x : FeSt) (s : State) : (setFe fe x s).frz = s.frz := rfl
@[simp] theorem setFe_can (fe : Nat) (x : FeSt) (s : State) : (setFe fe x s).can = s.can := rfl
@[simp] theorem setFe_mod (fe : Nat) (x : FeSt) (s : State) : (setFe fe x s).mod = s.mod := rfl

/-! ### setRing -/

@[simp] theorem setRing_pending (r : Nat) (g : RingSt) (s : State) : (setRing r g s).pending = s.pending := rfl
@[simp] theorem setRing_now (r : Nat) (g : RingSt) (s : State) : (setRing r g s).now = s.now := rfl
@[simp] theorem setRing_od (r : Nat) (g : RingSt) (s : State) : (setRing r g s).od = s.od := rfl
@[simp] theorem setRing_dom (r : Nat) (g : RingSt) (s : State) : (setRing r g s).dom = s.dom := rfl
@[simp] theorem setRing_out (r : Nat) (g : RingSt) (s : State) : (setRing r g s).out = s.out := rfl
@[simp] theorem setRing_resp (r : Nat) (g : RingSt) (s : State) : (setRing r g s).resp = s.resp := rfl
@[simp] theorem setRing_freeCtr (r : Nat) (g : RingSt) (s : State) : (setRing r g s).freeCtr = s.freeCtr := rfl
@[simp] theorem setRing_mem (r : Nat) (g : RingSt) (s : State) : (setRing r g s).mem = s.mem := rfl
@[simp] theorem setRing_ecc (r : Nat) (g : RingSt) (s : State) : (setRing r g s).ecc = s.ecc := rfl
@[simp] theorem setRing_tiles (r : Nat) (g : RingSt) (s : State) : (setRing r g s).tiles = s.tiles := rfl
@[simp] theorem setRing_mesh (r : Nat) (g : RingSt) (s : State) : (setRing r g s).mesh = s.mesh := rfl
@[simp] theorem setRing_graphs (r : Nat) (g : RingSt) (s : State) : (setRing r g s).graphs = s.graphs := rfl
@[simp] theorem setRing_cmds (r : Nat) (g : RingSt) (s : State) : (setRing r g s).cmds = s.cmds := rfl
@[simp] theorem setRing_hst (r : Nat) (g : RingSt) (s : State) :
    (setRing r g s).hst = { s.hst with rings := tput s.hst.rings r g } := rfl
@[simp] theorem setRing_fab (r : Nat) (g : RingSt) (s : State) : (setRing r g s).fab = s.fab := rfl
@[simp] theorem setRing_rem (r : Nat) (g : RingSt) (s : State) : (setRing r g s).rem = s.rem := rfl
@[simp] theorem setRing_flt (r : Nat) (g : RingSt) (s : State) : (setRing r g s).flt = s.flt := rfl
@[simp] theorem setRing_trw (r : Nat) (g : RingSt) (s : State) : (setRing r g s).trw = s.trw := rfl
@[simp] theorem setRing_sec (r : Nat) (g : RingSt) (s : State) : (setRing r g s).sec = s.sec := rfl
@[simp] theorem setRing_meas (r : Nat) (g : RingSt) (s : State) : (setRing r g s).meas = s.meas := rfl
@[simp] theorem setRing_tim (r : Nat) (g : RingSt) (s : State) : (setRing r g s).tim = s.tim := rfl
@[simp] theorem setRing_obs (r : Nat) (g : RingSt) (s : State) : (setRing r g s).obs = s.obs := rfl
@[simp] theorem setRing_log (r : Nat) (g : RingSt) (s : State) : (setRing r g s).log = s.log := rfl
@[simp] theorem setRing_frz (r : Nat) (g : RingSt) (s : State) : (setRing r g s).frz = s.frz := rfl
@[simp] theorem setRing_can (r : Nat) (g : RingSt) (s : State) : (setRing r g s).can = s.can := rfl
@[simp] theorem setRing_mod (r : Nat) (g : RingSt) (s : State) : (setRing r g s).mod = s.mod := rfl

/-! ### setCq -/

@[simp] theorem setCq_pending (c : Nat) (q : CqSt) (s : State) : (setCq c q s).pending = s.pending := rfl
@[simp] theorem setCq_now (c : Nat) (q : CqSt) (s : State) : (setCq c q s).now = s.now := rfl
@[simp] theorem setCq_od (c : Nat) (q : CqSt) (s : State) : (setCq c q s).od = s.od := rfl
@[simp] theorem setCq_dom (c : Nat) (q : CqSt) (s : State) : (setCq c q s).dom = s.dom := rfl
@[simp] theorem setCq_out (c : Nat) (q : CqSt) (s : State) : (setCq c q s).out = s.out := rfl
@[simp] theorem setCq_resp (c : Nat) (q : CqSt) (s : State) : (setCq c q s).resp = s.resp := rfl
@[simp] theorem setCq_freeCtr (c : Nat) (q : CqSt) (s : State) : (setCq c q s).freeCtr = s.freeCtr := rfl
@[simp] theorem setCq_mem (c : Nat) (q : CqSt) (s : State) : (setCq c q s).mem = s.mem := rfl
@[simp] theorem setCq_ecc (c : Nat) (q : CqSt) (s : State) : (setCq c q s).ecc = s.ecc := rfl
@[simp] theorem setCq_tiles (c : Nat) (q : CqSt) (s : State) : (setCq c q s).tiles = s.tiles := rfl
@[simp] theorem setCq_mesh (c : Nat) (q : CqSt) (s : State) : (setCq c q s).mesh = s.mesh := rfl
@[simp] theorem setCq_graphs (c : Nat) (q : CqSt) (s : State) : (setCq c q s).graphs = s.graphs := rfl
@[simp] theorem setCq_cmds (c : Nat) (q : CqSt) (s : State) : (setCq c q s).cmds = s.cmds := rfl
@[simp] theorem setCq_hst (c : Nat) (q : CqSt) (s : State) :
    (setCq c q s).hst = { s.hst with cqs := tput s.hst.cqs c q } := rfl
@[simp] theorem setCq_fab (c : Nat) (q : CqSt) (s : State) : (setCq c q s).fab = s.fab := rfl
@[simp] theorem setCq_rem (c : Nat) (q : CqSt) (s : State) : (setCq c q s).rem = s.rem := rfl
@[simp] theorem setCq_flt (c : Nat) (q : CqSt) (s : State) : (setCq c q s).flt = s.flt := rfl
@[simp] theorem setCq_trw (c : Nat) (q : CqSt) (s : State) : (setCq c q s).trw = s.trw := rfl
@[simp] theorem setCq_sec (c : Nat) (q : CqSt) (s : State) : (setCq c q s).sec = s.sec := rfl
@[simp] theorem setCq_meas (c : Nat) (q : CqSt) (s : State) : (setCq c q s).meas = s.meas := rfl
@[simp] theorem setCq_tim (c : Nat) (q : CqSt) (s : State) : (setCq c q s).tim = s.tim := rfl
@[simp] theorem setCq_obs (c : Nat) (q : CqSt) (s : State) : (setCq c q s).obs = s.obs := rfl
@[simp] theorem setCq_log (c : Nat) (q : CqSt) (s : State) : (setCq c q s).log = s.log := rfl
@[simp] theorem setCq_frz (c : Nat) (q : CqSt) (s : State) : (setCq c q s).frz = s.frz := rfl
@[simp] theorem setCq_can (c : Nat) (q : CqSt) (s : State) : (setCq c q s).can = s.can := rfl
@[simp] theorem setCq_mod (c : Nat) (q : CqSt) (s : State) : (setCq c q s).mod = s.mod := rfl

/-! ### setCtx -/

@[simp] theorem setCtx_pending (x : Nat) (c : CtxSt) (s : State) : (setCtx x c s).pending = s.pending := rfl
@[simp] theorem setCtx_now (x : Nat) (c : CtxSt) (s : State) : (setCtx x c s).now = s.now := rfl
@[simp] theorem setCtx_od (x : Nat) (c : CtxSt) (s : State) : (setCtx x c s).od = s.od := rfl
@[simp] theorem setCtx_dom (x : Nat) (c : CtxSt) (s : State) : (setCtx x c s).dom = s.dom := rfl
@[simp] theorem setCtx_out (x : Nat) (c : CtxSt) (s : State) : (setCtx x c s).out = s.out := rfl
@[simp] theorem setCtx_resp (x : Nat) (c : CtxSt) (s : State) : (setCtx x c s).resp = s.resp := rfl
@[simp] theorem setCtx_freeCtr (x : Nat) (c : CtxSt) (s : State) : (setCtx x c s).freeCtr = s.freeCtr := rfl
@[simp] theorem setCtx_mem (x : Nat) (c : CtxSt) (s : State) : (setCtx x c s).mem = s.mem := rfl
@[simp] theorem setCtx_ecc (x : Nat) (c : CtxSt) (s : State) : (setCtx x c s).ecc = s.ecc := rfl
@[simp] theorem setCtx_tiles (x : Nat) (c : CtxSt) (s : State) : (setCtx x c s).tiles = s.tiles := rfl
@[simp] theorem setCtx_mesh (x : Nat) (c : CtxSt) (s : State) : (setCtx x c s).mesh = s.mesh := rfl
@[simp] theorem setCtx_graphs (x : Nat) (c : CtxSt) (s : State) : (setCtx x c s).graphs = s.graphs := rfl
@[simp] theorem setCtx_cmds (x : Nat) (c : CtxSt) (s : State) : (setCtx x c s).cmds = s.cmds := rfl
@[simp] theorem setCtx_hst (x : Nat) (c : CtxSt) (s : State) :
    (setCtx x c s).hst = { s.hst with ctxs := tput s.hst.ctxs x c } := rfl
@[simp] theorem setCtx_fab (x : Nat) (c : CtxSt) (s : State) : (setCtx x c s).fab = s.fab := rfl
@[simp] theorem setCtx_rem (x : Nat) (c : CtxSt) (s : State) : (setCtx x c s).rem = s.rem := rfl
@[simp] theorem setCtx_flt (x : Nat) (c : CtxSt) (s : State) : (setCtx x c s).flt = s.flt := rfl
@[simp] theorem setCtx_trw (x : Nat) (c : CtxSt) (s : State) : (setCtx x c s).trw = s.trw := rfl
@[simp] theorem setCtx_sec (x : Nat) (c : CtxSt) (s : State) : (setCtx x c s).sec = s.sec := rfl
@[simp] theorem setCtx_meas (x : Nat) (c : CtxSt) (s : State) : (setCtx x c s).meas = s.meas := rfl
@[simp] theorem setCtx_tim (x : Nat) (c : CtxSt) (s : State) : (setCtx x c s).tim = s.tim := rfl
@[simp] theorem setCtx_obs (x : Nat) (c : CtxSt) (s : State) : (setCtx x c s).obs = s.obs := rfl
@[simp] theorem setCtx_log (x : Nat) (c : CtxSt) (s : State) : (setCtx x c s).log = s.log := rfl
@[simp] theorem setCtx_frz (x : Nat) (c : CtxSt) (s : State) : (setCtx x c s).frz = s.frz := rfl
@[simp] theorem setCtx_can (x : Nat) (c : CtxSt) (s : State) : (setCtx x c s).can = s.can := rfl
@[simp] theorem setCtx_mod (x : Nat) (c : CtxSt) (s : State) : (setCtx x c s).mod = s.mod := rfl

/-! ### setMsix -/

@[simp] theorem setMsix_pending (v : Nat) (m : MsixSt) (s : State) : (setMsix v m s).pending = s.pending := rfl
@[simp] theorem setMsix_now (v : Nat) (m : MsixSt) (s : State) : (setMsix v m s).now = s.now := rfl
@[simp] theorem setMsix_od (v : Nat) (m : MsixSt) (s : State) : (setMsix v m s).od = s.od := rfl
@[simp] theorem setMsix_dom (v : Nat) (m : MsixSt) (s : State) : (setMsix v m s).dom = s.dom := rfl
@[simp] theorem setMsix_out (v : Nat) (m : MsixSt) (s : State) : (setMsix v m s).out = s.out := rfl
@[simp] theorem setMsix_resp (v : Nat) (m : MsixSt) (s : State) : (setMsix v m s).resp = s.resp := rfl
@[simp] theorem setMsix_freeCtr (v : Nat) (m : MsixSt) (s : State) : (setMsix v m s).freeCtr = s.freeCtr := rfl
@[simp] theorem setMsix_mem (v : Nat) (m : MsixSt) (s : State) : (setMsix v m s).mem = s.mem := rfl
@[simp] theorem setMsix_ecc (v : Nat) (m : MsixSt) (s : State) : (setMsix v m s).ecc = s.ecc := rfl
@[simp] theorem setMsix_tiles (v : Nat) (m : MsixSt) (s : State) : (setMsix v m s).tiles = s.tiles := rfl
@[simp] theorem setMsix_mesh (v : Nat) (m : MsixSt) (s : State) : (setMsix v m s).mesh = s.mesh := rfl
@[simp] theorem setMsix_graphs (v : Nat) (m : MsixSt) (s : State) : (setMsix v m s).graphs = s.graphs := rfl
@[simp] theorem setMsix_cmds (v : Nat) (m : MsixSt) (s : State) : (setMsix v m s).cmds = s.cmds := rfl
@[simp] theorem setMsix_hst (v : Nat) (m : MsixSt) (s : State) :
    (setMsix v m s).hst = { s.hst with msix := tput s.hst.msix v m } := rfl
@[simp] theorem setMsix_fab (v : Nat) (m : MsixSt) (s : State) : (setMsix v m s).fab = s.fab := rfl
@[simp] theorem setMsix_rem (v : Nat) (m : MsixSt) (s : State) : (setMsix v m s).rem = s.rem := rfl
@[simp] theorem setMsix_flt (v : Nat) (m : MsixSt) (s : State) : (setMsix v m s).flt = s.flt := rfl
@[simp] theorem setMsix_trw (v : Nat) (m : MsixSt) (s : State) : (setMsix v m s).trw = s.trw := rfl
@[simp] theorem setMsix_sec (v : Nat) (m : MsixSt) (s : State) : (setMsix v m s).sec = s.sec := rfl
@[simp] theorem setMsix_meas (v : Nat) (m : MsixSt) (s : State) : (setMsix v m s).meas = s.meas := rfl
@[simp] theorem setMsix_tim (v : Nat) (m : MsixSt) (s : State) : (setMsix v m s).tim = s.tim := rfl
@[simp] theorem setMsix_obs (v : Nat) (m : MsixSt) (s : State) : (setMsix v m s).obs = s.obs := rfl
@[simp] theorem setMsix_log (v : Nat) (m : MsixSt) (s : State) : (setMsix v m s).log = s.log := rfl
@[simp] theorem setMsix_frz (v : Nat) (m : MsixSt) (s : State) : (setMsix v m s).frz = s.frz := rfl
@[simp] theorem setMsix_can (v : Nat) (m : MsixSt) (s : State) : (setMsix v m s).can = s.can := rfl
@[simp] theorem setMsix_mod (v : Nat) (m : MsixSt) (s : State) : (setMsix v m s).mod = s.mod := rfl

/-! ### setChannel -/

@[simp] theorem setChannel_pending (c v : Nat) (s : State) : (setChannel c v s).pending = s.pending := rfl
@[simp] theorem setChannel_now (c v : Nat) (s : State) : (setChannel c v s).now = s.now := rfl
@[simp] theorem setChannel_od (c v : Nat) (s : State) : (setChannel c v s).od = s.od := rfl
@[simp] theorem setChannel_dom (c v : Nat) (s : State) : (setChannel c v s).dom = s.dom := rfl
@[simp] theorem setChannel_out (c v : Nat) (s : State) : (setChannel c v s).out = s.out := rfl
@[simp] theorem setChannel_resp (c v : Nat) (s : State) : (setChannel c v s).resp = s.resp := rfl
@[simp] theorem setChannel_freeCtr (c v : Nat) (s : State) : (setChannel c v s).freeCtr = s.freeCtr := rfl
@[simp] theorem setChannel_mem (c v : Nat) (s : State) : (setChannel c v s).mem = s.mem := rfl
@[simp] theorem setChannel_ecc (c v : Nat) (s : State) :
    (setChannel c v s).ecc = { s.ecc with channels := tput s.ecc.channels c v } := rfl
@[simp] theorem setChannel_tiles (c v : Nat) (s : State) : (setChannel c v s).tiles = s.tiles := rfl
@[simp] theorem setChannel_mesh (c v : Nat) (s : State) : (setChannel c v s).mesh = s.mesh := rfl
@[simp] theorem setChannel_graphs (c v : Nat) (s : State) : (setChannel c v s).graphs = s.graphs := rfl
@[simp] theorem setChannel_cmds (c v : Nat) (s : State) : (setChannel c v s).cmds = s.cmds := rfl
@[simp] theorem setChannel_hst (c v : Nat) (s : State) : (setChannel c v s).hst = s.hst := rfl
@[simp] theorem setChannel_fab (c v : Nat) (s : State) : (setChannel c v s).fab = s.fab := rfl
@[simp] theorem setChannel_rem (c v : Nat) (s : State) : (setChannel c v s).rem = s.rem := rfl
@[simp] theorem setChannel_flt (c v : Nat) (s : State) : (setChannel c v s).flt = s.flt := rfl
@[simp] theorem setChannel_trw (c v : Nat) (s : State) : (setChannel c v s).trw = s.trw := rfl
@[simp] theorem setChannel_sec (c v : Nat) (s : State) : (setChannel c v s).sec = s.sec := rfl
@[simp] theorem setChannel_meas (c v : Nat) (s : State) : (setChannel c v s).meas = s.meas := rfl
@[simp] theorem setChannel_tim (c v : Nat) (s : State) : (setChannel c v s).tim = s.tim := rfl
@[simp] theorem setChannel_obs (c v : Nat) (s : State) : (setChannel c v s).obs = s.obs := rfl
@[simp] theorem setChannel_log (c v : Nat) (s : State) : (setChannel c v s).log = s.log := rfl
@[simp] theorem setChannel_frz (c v : Nat) (s : State) : (setChannel c v s).frz = s.frz := rfl
@[simp] theorem setChannel_can (c v : Nat) (s : State) : (setChannel c v s).can = s.can := rfl
@[simp] theorem setChannel_mod (c v : Nat) (s : State) : (setChannel c v s).mod = s.mod := rfl

/-! ### strike -/

@[simp] theorem strike_pending (ms : List EccMark) (s : State) : (strike ms s).pending = s.pending := rfl
@[simp] theorem strike_now (ms : List EccMark) (s : State) : (strike ms s).now = s.now := rfl
@[simp] theorem strike_od (ms : List EccMark) (s : State) : (strike ms s).od = s.od := rfl
@[simp] theorem strike_dom (ms : List EccMark) (s : State) : (strike ms s).dom = s.dom := rfl
@[simp] theorem strike_out (ms : List EccMark) (s : State) : (strike ms s).out = s.out := rfl
@[simp] theorem strike_resp (ms : List EccMark) (s : State) : (strike ms s).resp = s.resp := rfl
@[simp] theorem strike_freeCtr (ms : List EccMark) (s : State) : (strike ms s).freeCtr = s.freeCtr := rfl
@[simp] theorem strike_mem (ms : List EccMark) (s : State) : (strike ms s).mem = s.mem := rfl
@[simp] theorem strike_ecc (ms : List EccMark) (s : State) : (strike ms s).ecc = { s.ecc with marks := ms ++ s.ecc.marks } := rfl
@[simp] theorem strike_tiles (ms : List EccMark) (s : State) : (strike ms s).tiles = s.tiles := rfl
@[simp] theorem strike_mesh (ms : List EccMark) (s : State) : (strike ms s).mesh = s.mesh := rfl
@[simp] theorem strike_graphs (ms : List EccMark) (s : State) : (strike ms s).graphs = s.graphs := rfl
@[simp] theorem strike_cmds (ms : List EccMark) (s : State) : (strike ms s).cmds = s.cmds := rfl
@[simp] theorem strike_hst (ms : List EccMark) (s : State) : (strike ms s).hst = s.hst := rfl
@[simp] theorem strike_fab (ms : List EccMark) (s : State) : (strike ms s).fab = s.fab := rfl
@[simp] theorem strike_rem (ms : List EccMark) (s : State) : (strike ms s).rem = s.rem := rfl
@[simp] theorem strike_flt (ms : List EccMark) (s : State) : (strike ms s).flt = s.flt := rfl
@[simp] theorem strike_trw (ms : List EccMark) (s : State) : (strike ms s).trw = s.trw := rfl
@[simp] theorem strike_sec (ms : List EccMark) (s : State) : (strike ms s).sec = s.sec := rfl
@[simp] theorem strike_meas (ms : List EccMark) (s : State) : (strike ms s).meas = s.meas := rfl
@[simp] theorem strike_tim (ms : List EccMark) (s : State) : (strike ms s).tim = s.tim := rfl
@[simp] theorem strike_obs (ms : List EccMark) (s : State) : (strike ms s).obs = s.obs := rfl
@[simp] theorem strike_log (ms : List EccMark) (s : State) : (strike ms s).log = s.log := rfl
@[simp] theorem strike_frz (ms : List EccMark) (s : State) : (strike ms s).frz = s.frz := rfl
@[simp] theorem strike_can (ms : List EccMark) (s : State) : (strike ms s).can = s.can := rfl
@[simp] theorem strike_mod (ms : List EccMark) (s : State) : (strike ms s).mod = s.mod := rfl

/-! ### faultless -/

@[simp] theorem faultless_pending (s : State) : (faultless s).pending = s.pending := rfl
@[simp] theorem faultless_now (s : State) : (faultless s).now = s.now := rfl
@[simp] theorem faultless_od (s : State) : (faultless s).od = s.od := rfl
@[simp] theorem faultless_dom (s : State) : (faultless s).dom = s.dom := rfl
@[simp] theorem faultless_out (s : State) : (faultless s).out = s.out := rfl
@[simp] theorem faultless_resp (s : State) : (faultless s).resp = s.resp := rfl
@[simp] theorem faultless_freeCtr (s : State) : (faultless s).freeCtr = s.freeCtr := rfl
@[simp] theorem faultless_mem (s : State) : (faultless s).mem = s.mem := rfl
@[simp] theorem faultless_ecc (s : State) : (faultless s).ecc = { s.ecc with marks := [], armed := none } := rfl
@[simp] theorem faultless_tiles (s : State) : (faultless s).tiles = s.tiles := rfl
@[simp] theorem faultless_mesh (s : State) : (faultless s).mesh = s.mesh := rfl
@[simp] theorem faultless_graphs (s : State) : (faultless s).graphs = s.graphs := rfl
@[simp] theorem faultless_cmds (s : State) : (faultless s).cmds = s.cmds := rfl
@[simp] theorem faultless_hst (s : State) : (faultless s).hst = s.hst := rfl
@[simp] theorem faultless_fab (s : State) : (faultless s).fab = s.fab := rfl
@[simp] theorem faultless_rem (s : State) : (faultless s).rem = s.rem := rfl
@[simp] theorem faultless_flt (s : State) : (faultless s).flt = s.flt := rfl
@[simp] theorem faultless_trw (s : State) : (faultless s).trw = s.trw := rfl
@[simp] theorem faultless_sec (s : State) : (faultless s).sec = s.sec := rfl
@[simp] theorem faultless_meas (s : State) : (faultless s).meas = s.meas := rfl
@[simp] theorem faultless_tim (s : State) : (faultless s).tim = s.tim := rfl
@[simp] theorem faultless_obs (s : State) : (faultless s).obs = s.obs := rfl
@[simp] theorem faultless_log (s : State) : (faultless s).log = s.log := rfl
@[simp] theorem faultless_frz (s : State) : (faultless s).frz = s.frz := rfl
@[simp] theorem faultless_can (s : State) : (faultless s).can = s.can := rfl
@[simp] theorem faultless_mod (s : State) : (faultless s).mod = s.mod := rfl

/-! ### Objects and tiles read after an update -/

theorem odv_odSet (s : State) (k j v : Nat) : odv (odSet s k v) j = if k = j then v else odv s j := by
  simp [odv, tget_tput]

@[simp] theorem odv_odSet_same (s : State) (k v : Nat) : odv (odSet s k v) k = v := by simp [odv_odSet]

theorem odv_odSet_other (s : State) {k j : Nat} (v : Nat) (h : k ≠ j) : odv (odSet s k v) j = odv s j := by
  simp [odv_odSet, h]

/-- An object's value rests on the dictionary alone. -/
theorem odv_congr {s t : State} (h : s.od = t.od) (k : Nat) : odv s k = odv t k := by simp [odv, h]

@[simp] theorem odv_setTile (s : State) (t : Nat) (x : TileSt) (k : Nat) : odv (setTile s t x) k = odv s k := rfl

@[simp] theorem odv_emit (o : Output) (s : State) (k : Nat) : odv (emit o s) k = odv s k := rfl

theorem tileSt_setTile (s : State) (t u : Nat) (x : TileSt) :
    tileSt (setTile s t x) u = if t = u then x else tileSt s u := by
  simp [tileSt, tget_tput]

@[simp] theorem tileSt_setTile_same (s : State) (t : Nat) (x : TileSt) : tileSt (setTile s t x) t = x := by
  simp [tileSt_setTile]

/-- A tile's state rests on the table of tiles alone. -/
theorem tileSt_congr {s t : State} (h : s.tiles = t.tiles) (u : Nat) : tileSt s u = tileSt t u := by
  simp [tileSt, h]

@[simp] theorem tileSt_odSet (s : State) (k v u : Nat) : tileSt (odSet s k v) u = tileSt s u := rfl

@[simp] theorem tileSt_emit (o : Output) (s : State) (u : Nat) : tileSt (emit o s) u = tileSt s u := rfl

end Sys2Proof.Machine
end

