-- ==== Sys2Proof/Laws/Quiet.lean ====
section
/-! SUPPORT. The objects that a trace record, a freeze, a logbook record and an emergency message write: the trace's and the
freeze's own, LOG_LOST_TOTAL, EMCY_LOST and ERROR_REGISTER. Every other object keeps its value. -/
namespace Sys2Proof.Machine
open Sys2Proof

/-- The objects that tracing, freezing, logging and the emergency messages keep for themselves. -/
def ownKey (k : Nat) : Bool :=
  decide (0x274006 ≤ k ∧ k ≤ 0x274010) || decide (0x277004 ≤ k ∧ k ≤ 0x277006) || k == 0x280006 || k == 0x20100D
    || k == 0x100100

theorem odv_odAdd (s : State) (j k n : Nat) :
    odv (odAdd s j n) k = if j = k then (odv s j + n) % 2 ^ 64 else odv s k := by simp only [odAdd, odv_odSet]
theorem odv_odAdd32 (s : State) (j k n : Nat) :
    odv (odAdd32 s j n) k = if j = k then (odv s j + n) % 2 ^ 32 else odv s k := by simp only [odAdd32, odv_odSet]
theorem ownKey_ne {j k : Nat} (hj : ownKey j = true) (hk : ownKey k = false) : j ≠ k := by
  intro h; rw [h, hk] at hj; cases hj

variable {k : Nat}

theorem odv_setTraceDie (s : State) (d : Nat) (x : TraceDie) : odv (setTraceDie s d x) k = odv s k := by
  unfold setTraceDie; split <;> rfl

theorem odv_traceLose (hk : ownKey k = false) (d : Nat) (hd : d < 2) (s : State) :
    odv (traceLose d s) k = odv s k := by
  have h : oTRACE_LOST + d ≠ k := ownKey_ne (by unfold ownKey oTRACE_LOST; simp; omega) hk
  unfold traceLose
  split <;> exact odv_odSet_other _ _ h

theorem odv_traceMiss (hk : ownKey k = false) (d : Nat) (hd : d < 2) (s : State) :
    odv (traceMiss d s) k = odv s k := by
  unfold traceMiss; split
  · rfl
  · exact odv_traceLose hk d hd s

theorem odv_traceWrite (hk : ownKey k = false) (d : Nat) (hd : d < 2) (r : TraceRec) (p : Bool) (s : State) :
    odv (traceWrite d r p s) k = odv s k := by
  have h1 : oTRACE_RECORDS + d ≠ k := ownKey_ne (by unfold ownKey oTRACE_RECORDS; simp; omega) hk
  have h2 : oTRACE_TRIGGER_SLOT + d ≠ k := ownKey_ne (by unfold ownKey oTRACE_TRIGGER_SLOT; simp; omega) hk
  have h3 : oTRACE_OLDEST_SLOT + d ≠ k := ownKey_ne (by unfold ownKey oTRACE_OLDEST_SLOT; simp; omega) hk
  unfold traceWrite
  simp only
  repeat' split
  all_goals first
    | exact odv_traceMiss hk d hd s
    | exact odv_traceLose hk d hd s
    | rfl
    | simp only [odv_odSet_other _ _ h1, odv_odSet_other _ _ h2, odv_odSet_other _ _ h3, odAdd, odv_setTraceDie]

theorem odv_traceTrig (hk : ownKey k = false) (b : Nat) (s : State) : odv (traceTrig b s) k = odv s k := by
  have h : oTRACE_STATE ≠ k := ownKey_ne (by decide) hk
  have hw (z : State) (r q : TraceRec) (p : Bool) : odv (traceWrite 1 r p (traceWrite 0 q p z)) k = odv z k := by
    rw [odv_traceWrite hk 1 (by omega), odv_traceWrite hk 0 (by omega)]
  have hm : odv (traceMiss 1 (traceMiss 0 s)) k = odv s k := by
    rw [odv_traceMiss hk 1 (by omega), odv_traceMiss hk 0 (by omega)]
  unfold traceTrig
  simp only
  repeat' split
  all_goals first
    | rfl
    | exact hm
    | exact (odv_odSet_other _ _ h).trans (hw s _ _ _)
    | exact hw s _ _ _

theorem odv_freezeLatch (hk : ownKey k = false) (c : Nat) (s : State) : odv (freezeLatch c s) k = odv s k := by
  have h1 : oFREEZE_STATE ≠ k := ownKey_ne (by decide) hk
  have h2 : oFREEZE_TIME ≠ k := ownKey_ne (by decide) hk
  have h3 : oFREEZE_CAUSE ≠ k := ownKey_ne (by decide) hk
  unfold freezeLatch
  simp only [odv_odSet_other _ _ h1, odv_odSet_other _ _ h2, odv_odSet_other _ _ h3]
  rfl

theorem odv_freezeMerge (hk : ownKey k = false) (c : Nat) (s : State) : odv (freezeMerge c s) k = odv s k := by
  have h : oFREEZE_CAUSE ≠ k := ownKey_ne (by decide) hk
  unfold freezeMerge
  split
  · rfl
  · simp only [odv_odSet_other _ _ h]; rfl

theorem odv_freeze (hk : ownKey k = false) (c : Nat) (s : State) : odv (freeze c s) k = odv s k := by
  unfold freeze
  split
  · split
    · rfl
    · exact odv_freezeMerge hk c s
  · simp only
    rw [odv_traceTrig hk]
    have e (z : State) : odv (traceTrig 5 z) k = odv z k := odv_traceTrig hk 5 z
    split <;> first | rw [e] | skip
    all_goals rw [odv_traceWrite hk 1 (by omega), odv_traceWrite hk 0 (by omega), odv_freezeLatch hk]

theorem odv_freezeSource (hk : ownKey k = false) (b : Nat) (s : State) : odv (freezeSource b s) k = odv s k := by
  unfold freezeSource; split
  · exact odv_freeze hk _ s
  · rfl

theorem odv_traceEvent (hk : ownKey k = false) (b : Nat) (s : State) : odv (traceEvent b s) k = odv s k := by
  unfold traceEvent; split
  · rw [odv_freezeSource hk, odv_traceTrig hk]
  · exact odv_traceTrig hk b s

theorem srcDie_lt (src : Nat) : srcDie src < 2 := by
  unfold srcDie bitsOf; simp; omega

theorem odv_traceAccept (hk : ownKey k = false) (r : TraceRec) (s : State) : odv (traceAccept r s) k = odv s k := by
  unfold traceAccept
  repeat' split
  · exact odv_traceMiss hk _ (srcDie_lt _) s
  · rfl
  · exact (odv_traceLose hk _ (srcDie_lt _) _).trans rfl
  · rfl

theorem odv_tracePut (hk : ownKey k = false) (typ src op layer a0 a1 : Nat) (s : State) :
    odv (tracePut typ src op layer a0 a1 s) k = odv s k := by
  unfold tracePut
  simp only
  split
  · rw [odv_traceEvent hk, odv_traceAccept hk]
  · exact odv_traceAccept hk _ s

theorem odv_trace (hk : ownKey k = false) (g typ src op layer a0 a1 : Nat) (s : State) :
    odv (trace g typ src op layer a0 a1 s) k = odv s k := by
  unfold trace
  split
  · exact odv_tracePut hk ..
  · rfl

theorem odv_traceAlways (hk : ownKey k = false) (typ src a0 a1 : Nat) (s : State) :
    odv (traceAlways typ src a0 a1 s) k = odv s k := odv_tracePut hk ..

theorem odv_logEvent (hk : ownKey k = false) (code src a0 a1 : Nat) (c : EvCmd) (s : State) :
    odv (logEvent code src a0 a1 c s) k = odv s k := by
  have h : oLOG_LOST_TOTAL ≠ k := ownKey_ne (by decide) hk
  unfold logEvent
  split
  · rfl
  · simp only
    repeat' split
    all_goals first
      | (rw [odv_freezeSource hk, odv_traceEvent hk]; first | rfl | exact odv_odSet_other _ _ h)
      | exact odv_odSet_other _ _ h
      | rfl

theorem odv_logSimple (hk : ownKey k = false) (code src : Nat) (s : State) : odv (logSimple code src s) k = odv s k :=
  odv_logEvent hk ..

theorem odv_busSent (bus : Nat) (s : State) : odv (busSent bus s) k = odv s k := by
  unfold busSent; simp only; split <;> rfl

theorem odv_canSend (cob : Nat) (bs : List Byte) (s : State) : odv (canSend cob bs s) k = odv s k := by
  unfold canSend; split
  · rfl
  · exact (odv_busSent 1 _).trans (odv_busSent 0 s)

theorem odv_emcyMsg (hk : ownKey k = false) (code reg ev : Nat) (s : State) :
    odv (emcyMsg code reg ev s) k = odv s k := by
  have h : oEMCY_LOST ≠ k := ownKey_ne (by decide) hk
  unfold emcyMsg
  simp only
  repeat' split
  all_goals first
    | rfl
    | exact odv_odSet_other _ _ h
    | exact odv_canSend ..

theorem odv_emcyEvent (hk : ownKey k = false) (code bit ev : Nat) (s : State) :
    odv (emcyEvent code bit ev s) k = odv s k := odv_emcyMsg hk ..

theorem odv_emcyRaise (hk : ownKey k = false) (code bit ev : Nat) (s : State) :
    odv (emcyRaise code bit ev s) k = odv s k := by
  have h : oERROR_REGISTER ≠ k := ownKey_ne (by decide) hk
  unfold emcyRaise
  split
  · rfl
  · simp only; rw [odv_emcyMsg hk, odv_odSet_other _ _ h]; rfl

theorem odv_emcyClear (hk : ownKey k = false) (bit ev : Nat) (s : State) :
    odv (emcyClear bit ev s) k = odv s k := by
  have h : oERROR_REGISTER ≠ k := ownKey_ne (by decide) hk
  unfold emcyClear
  split
  · simp only; rw [odv_emcyMsg hk, odv_odSet_other _ _ h]; rfl
  · rfl

end Sys2Proof.Machine
end

