-- ==== Sys2Proof/Laws/Slot.lean ====
section
/-! SUPPORT. What the issue of a slot does, and the lanes and flags of lane-by-lane results. -/
namespace Sys2Proof.Machine
open Sys2Proof

/-- A slot whose operation succeeds without touching the state issues its effects. -/
theorem issueSlot_ok {t k bits : Nat} {sem : State → TileSt → SlotRes} {s : State} {r : Run} {es : List TEff}
    (h : slotReady s t k bits = some r) (he : sem s (tileSt s t) = .ok es s) :
    issueSlot t k bits sem s = issued t k r es s := by
  simp only [issueSlot, issued, h, he]

/-- A slot whose operation changes the state on the way (a load counts its bytes, an open value takes its number). -/
theorem issueSlot_okState {t k bits : Nat} {sem : State → TileSt → SlotRes} {s s1 : State} {r : Run} {es : List TEff}
    (h : slotReady s t k bits = some r) (he : sem s (tileSt s t) = .ok es s1) :
    issueSlot t k bits sem s = issued t k r es s1 := by
  simp only [issueSlot, issued, h, he]

/-- A slot whose operation raises an exception stops the tile. -/
theorem issueSlot_exc {t k bits : Nat} {sem : State → TileSt → SlotRes} {s s1 : State} {r : Run} {c : Nat}
    (h : slotReady s t k bits = some r) (he : sem s (tileSt s t) = .exc c s1) :
    issueSlot t k bits sem s = tileExc t c none s1 := by
  simp only [issueSlot, h, he]

/-- A slot whose operation meets an uncorrectable error stops the tile with the error's own record. -/
theorem issueSlot_ue {t k bits : Nat} {sem : State → TileSt → SlotRes} {s s1 : State} {r : Run} {m : UeMet}
    (h : slotReady s t k bits = some r) (he : sem s (tileSt s t) = .ue m s1) :
    issueSlot t k bits sem s = ueTile t m s1 := by
  simp only [issueSlot, h, he]

/-- A slot that the tile is not about to issue changes nothing. -/
theorem issueSlot_none {t k bits : Nat} {sem : State → TileSt → SlotRes} {s : State}
    (h : slotReady s t k bits = none) : issueSlot t k bits sem s = s := by
  simp only [issueSlot, h]

@[simp] theorem fOr_zero (a : Nat) : fOr 0 a = a := by simp [fOr]

@[simp] theorem withFlags_zero (es : List TEff) : withFlags 0 es = es := rfl

theorem laneMap_length (mask : Nat) (g : Nat → Lane × Nat) : ∀ n i, (laneMap mask g n i).1.length = n
  | 0, _ => rfl
  | n + 1, i => by simp only [laneMap]; split <;> simp [laneMap_length mask g n (i + 1)]

/-- Lane `j` of a lane-by-lane result from lane `i`. -/
theorem laneMap_lane (mask : Nat) (g : Nat → Lane × Nat) : ∀ n i j, j < n →
    laneAt (laneMap mask g n i).1 j = if bitAt mask (i + j) then (g (i + j)).1 else 0
  | n + 1, i, 0, _ => by simp only [laneMap]; split <;> simp_all [laneAt]
  | n + 1, i, j + 1, h => by
    have ih := laneMap_lane mask g n (i + 1) j (by omega)
    rw [show i + (j + 1) = i + 1 + j by omega, ← ih]
    simp only [laneMap]; split <;> simp [laneAt]

/-- The flags of a lane-by-lane result whose lanes raise none. -/
theorem laneMap_noFlags (mask : Nat) (g : Nat → Lane) : ∀ n i, (laneMap mask (fun i => (g i, 0)) n i).2 = 0
  | 0, _ => rfl
  | n + 1, i => by simp only [laneMap]; split <;> simp [laneMap_noFlags mask g n (i + 1)]

/-- Lane `i` of merged lanes. -/
theorem laneAt_mergeLanes (mask : Nat) (old new : List Lane) (i : Nat) (h : i < 64) :
    laneAt (mergeLanes mask old new) i = if bitAt mask i then laneAt new i else laneAt old i := by
  simp [mergeLanes, laneAt, h]

@[simp] theorem mergeLanes_length (mask : Nat) (old new : List Lane) : (mergeLanes mask old new).length = 64 := by
  simp [mergeLanes]

/-- The lanes of an operation merged into its destination. -/
theorem laneAt_merge_laneMap (mask : Nat) (old : List Lane) (g : Nat → Lane × Nat) (i : Nat) (h : i < 64) :
    laneAt (mergeLanes mask old (laneMap mask g 64 0).1) i = if bitAt mask i then (g i).1 else laneAt old i := by
  rw [laneAt_mergeLanes _ _ _ _ h, laneMap_lane _ _ _ _ _ h, Nat.zero_add]; split <;> rfl

end Sys2Proof.Machine
end

