-- ==== Sys2Proof/Laws/Told.lean ====
section
/-! SUPPORT. The logbook, the trace, the emergency objects and the writes told touch the dictionary and their own records
alone. -/
namespace Sys2Proof.Machine
open Sys2Proof

theorem told_mk (base : State) (pending : List Instr) (now : Nat) (od : Table Nat) (dom : Table (List Byte)) (out : List Output) (resp : Nat) (freeCtr : Nat) (mem : Memory) (ecc : EccSt) (tiles : Table TileSt) (mesh : Mesh) (graphs : Table GraphSt) (cmds : List CmdEnt) (hst : HostSt) (fab : FabSt) (rem : RemSt) (flt : FloatSt) (trw : TrwSt) (sec : SecSt) (meas : MeasSt) (tim : TimeSt) (obs : ObsSt) (log : LogSt) (frz : Table Nat) (can : CanSt) (mod : ModSt) :
    Told base ⟨pending, now, od, dom, out, resp, freeCtr, mem, ecc, tiles, mesh, graphs, cmds, hst, fab, rem, flt, trw, sec, meas, tim, obs, log, frz, can, mod⟩ = (pending = base.pending ∧ now = base.now ∧ freeCtr = base.freeCtr ∧ mem = base.mem ∧ ecc = base.ecc ∧ tiles = base.tiles ∧ mesh = base.mesh ∧ graphs = base.graphs ∧ cmds = base.cmds ∧ hst = base.hst ∧ fab = base.fab ∧ rem = base.rem ∧ flt = base.flt ∧ trw = base.trw ∧ sec = base.sec ∧ meas = base.meas ∧ tim = base.tim ∧ mod = base.mod) := rfl

theorem told_back (base s : State) (h : Told base s) : s.pending = base.pending ∧ s.now = base.now ∧ s.freeCtr = base.freeCtr ∧ s.mem = base.mem ∧ s.ecc = base.ecc ∧ s.tiles = base.tiles ∧ s.mesh = base.mesh ∧ s.graphs = base.graphs ∧ s.cmds = base.cmds ∧ s.hst = base.hst ∧ s.fab = base.fab ∧ s.rem = base.rem ∧ s.flt = base.flt ∧ s.trw = base.trw ∧ s.sec = base.sec ∧ s.meas = base.meas ∧ s.tim = base.tim ∧ s.mod = base.mod := h

theorem told_ite (base : State) (c : Prop) [Decidable c] (s t : State) (hs : Told base s) (ht : Told base t) :
    Told base (if c then s else t) := by split <;> assumption

theorem told_foldl {α : Type} (base : State) (f : State → α → State) (l : List α) (s : State) (h : Told base s)
    (hf : ∀ s x, Told base s → Told base (f s x)) : Told base (l.foldl f s) := by
  induction l generalizing s with
  | nil => exact h
  | cons x r ih => exact ih _ (hf _ _ h)

theorem told_pair {α : Type} (base : State) (r : α × State) (x : α) (s : State) (e : r = (x, s)) (h : Told base r.2) :
    Told base s := by subst e; exact h

theorem told_refl (s : State) : Told s s := by unfold Told; exact ⟨rfl, rfl, rfl, rfl, rfl, rfl, rfl, rfl, rfl, rfl, rfl, rfl, rfl, rfl, rfl, rfl, rfl, rfl⟩

theorem told_odSet (base : State) (s : State) (k : Nat) (v : Nat) (h1 : Told base s) :
    Told base (odSet s k v) := by
  unfold odSet
  try dsimp only
  with_reducible repeat' first | (intro _) | assumption | (simp only [told_mk]; apply told_back) | split | dsimp only

theorem told_odBit (base : State) (s : State) (k : Nat) (i : Nat) (b : Bool) (h1 : Told base s) :
    Told base (odBit s k i b) := by
  unfold odBit
  try dsimp only
  with_reducible repeat' first
    | (intro _) | assumption | apply told_odSet | apply told_odSet | (simp only [told_mk]; apply told_back) | split
    | dsimp only

theorem told_freezeMerge (base : State) (cause : Nat) (s : State) (h1 : Told base s) :
    Told base (freezeMerge cause s) := by
  unfold freezeMerge
  try dsimp only
  with_reducible repeat' first
    | (intro _) | assumption | apply told_odSet | apply told_odSet | apply told_ite
    | (simp only [told_mk]; apply told_back) | split | dsimp only

theorem told_freezeLatch (base : State) (cause : Nat) (s : State) (h1 : Told base s) :
    Told base (freezeLatch cause s) := by
  unfold freezeLatch
  try dsimp only
  with_reducible repeat' first
    | (intro _) | assumption | apply told_odSet | apply told_odSet | (simp only [told_mk]; apply told_back) | split
    | dsimp only

theorem told_odAdd (base : State) (s : State) (k : Nat) (n : Nat) (h1 : Told base s) :
    Told base (odAdd s k n) := by
  unfold odAdd
  try dsimp only
  with_reducible repeat' first
    | (intro _) | assumption | apply told_odSet | apply told_odSet | (simp only [told_mk]; apply told_back) | split
    | dsimp only

theorem told_traceLose (base : State) (d : Nat) (s : State) (h1 : Told base s) :
    Told base (traceLose d s) := by
  unfold traceLose
  try dsimp only
  with_reducible repeat' first
    | (intro _) | assumption | apply told_odAdd | apply told_odAdd | apply told_ite
    | (simp only [told_mk]; apply told_back) | split | dsimp only

theorem told_traceMiss (base : State) (d : Nat) (s : State) (h1 : Told base s) :
    Told base (traceMiss d s) := by
  unfold traceMiss
  try dsimp only
  with_reducible repeat' first
    | (intro _) | assumption | apply told_traceLose | apply told_traceLose | apply told_ite
    | (simp only [told_mk]; apply told_back) | split | dsimp only

theorem told_setTraceDie (base : State) (s : State) (d : Nat) (x : TraceDie) (h1 : Told base s) :
    Told base (setTraceDie s d x) := by
  unfold setTraceDie
  try dsimp only
  with_reducible repeat' first
    | (intro _) | assumption | apply told_ite | (simp only [told_mk]; apply told_back) | split | dsimp only

theorem told_traceWrite (base : State) (d : Nat) (r : TraceRec) (protect : Bool) (s : State) (h1 : Told base s) :
    Told base (traceWrite d r protect s) := by
  unfold traceWrite
  try dsimp only
  with_reducible repeat' first
    | (intro _) | assumption | apply told_traceMiss | apply told_traceLose | apply told_odAdd | apply told_setTraceDie
    | apply told_odSet | apply told_traceMiss | apply told_traceLose | apply told_odAdd | apply told_setTraceDie
    | apply told_odSet | apply told_ite | (simp only [told_mk]; apply told_back) | split | dsimp only

theorem told_traceTrig (base : State) (b : Nat) (s : State) (h1 : Told base s) :
    Told base (traceTrig b s) := by
  unfold traceTrig
  try dsimp only
  with_reducible repeat' first
    | (intro _) | assumption | apply told_traceWrite | apply told_odSet | apply told_traceMiss | apply told_traceWrite
    | apply told_odSet | apply told_traceMiss | apply told_ite | (simp only [told_mk]; apply told_back) | split
    | dsimp only

theorem told_freeze (base : State) (cause : Nat) (s : State) (h1 : Told base s) :
    Told base (freeze cause s) := by
  unfold freeze
  try dsimp only
  with_reducible repeat' first
    | (intro _) | assumption | apply told_freezeMerge | apply told_freezeLatch | apply told_traceWrite
    | apply told_traceTrig | apply told_freezeMerge | apply told_freezeLatch | apply told_traceWrite
    | apply told_traceTrig | apply told_ite | (simp only [told_mk]; apply told_back) | split | dsimp only

theorem told_freezeSource (base : State) (bit : Nat) (s : State) (h1 : Told base s) :
    Told base (freezeSource bit s) := by
  unfold freezeSource
  try dsimp only
  with_reducible repeat' first
    | (intro _) | assumption | apply told_freeze | apply told_freeze | apply told_ite
    | (simp only [told_mk]; apply told_back) | split | dsimp only

theorem told_traceEvent (base : State) (b : Nat) (s : State) (h1 : Told base s) :
    Told base (traceEvent b s) := by
  unfold traceEvent
  try dsimp only
  with_reducible repeat' first
    | (intro _) | assumption | apply told_freezeSource | apply told_traceTrig | apply told_freezeSource
    | apply told_traceTrig | apply told_ite | (simp only [told_mk]; apply told_back) | split | dsimp only

theorem told_traceAccept (base : State) (r : TraceRec) (s : State) (h1 : Told base s) :
    Told base (traceAccept r s) := by
  unfold traceAccept
  try dsimp only
  with_reducible repeat' first
    | (intro _) | assumption | apply told_traceMiss | apply told_traceLose | apply told_traceMiss
    | apply told_traceLose | apply told_ite | (simp only [told_mk]; apply told_back) | split | dsimp only

theorem told_tracePut (base : State) (typ : Nat) (src : Nat) (opId : Nat) (layer : Nat) (arg0 : Nat) (arg1 : Nat) (s :
    State) (h1 : Told base s) :
    Told base (tracePut typ src opId layer arg0 arg1 s) := by
  unfold tracePut
  try dsimp only
  with_reducible repeat' first
    | (intro _) | assumption | apply told_traceAccept | apply told_traceEvent | apply told_traceAccept
    | apply told_traceEvent | apply told_ite | (simp only [told_mk]; apply told_back) | split | dsimp only

theorem told_trace (base : State) (group : Nat) (typ : Nat) (src : Nat) (opId : Nat) (layer : Nat) (arg0 : Nat) (arg1
    : Nat) (s : State) (h1 : Told base s) :
    Told base (trace group typ src opId layer arg0 arg1 s) := by
  unfold trace
  try dsimp only
  with_reducible repeat' first
    | (intro _) | assumption | apply told_tracePut | apply told_tracePut | apply told_ite
    | (simp only [told_mk]; apply told_back) | split | dsimp only

theorem told_logEvent (base : State) (code : Nat) (src : Nat) (arg0 : Nat) (arg1 : Nat) (c : EvCmd) (s : State) (h1 :
    Told base s) :
    Told base (logEvent code src arg0 arg1 c s) := by
  unfold logEvent
  try dsimp only
  with_reducible repeat' first
    | (intro _) | assumption | apply told_odAdd | apply told_freezeSource | apply told_traceEvent | apply told_odAdd
    | apply told_freezeSource | apply told_traceEvent | apply told_ite | (simp only [told_mk]; apply told_back)
    | split | dsimp only

theorem told_odAdd32 (base : State) (s : State) (k : Nat) (n : Nat) (h1 : Told base s) :
    Told base (odAdd32 s k n) := by
  unfold odAdd32
  try dsimp only
  with_reducible repeat' first
    | (intro _) | assumption | apply told_odSet | apply told_odSet | (simp only [told_mk]; apply told_back) | split
    | dsimp only

theorem told_emit (base : State) (o : Output) (s : State) (h1 : Told base s) :
    Told base (emit o s) := by
  unfold emit
  try dsimp only
  with_reducible repeat' first | (intro _) | assumption | (simp only [told_mk]; apply told_back) | split | dsimp only

theorem told_busSent (base : State) (bus : Nat) (s : State) (h1 : Told base s) :
    Told base (busSent bus s) := by
  unfold busSent
  try dsimp only
  with_reducible repeat' first
    | (intro _) | assumption | apply told_ite | (simp only [told_mk]; apply told_back) | split | dsimp only

theorem told_canSend (base : State) (cob : Nat) (bs : List Byte) (s : State) (h1 : Told base s) :
    Told base (canSend cob bs s) := by
  unfold canSend
  try dsimp only
  with_reducible repeat' first
    | (intro _) | assumption | apply told_emit | apply told_busSent | apply told_emit | apply told_busSent
    | apply told_ite | (simp only [told_mk]; apply told_back) | split | dsimp only

theorem told_emcyMsg (base : State) (code : Nat) (reg : Nat) (event : Nat) (s : State) (h1 : Told base s) :
    Told base (emcyMsg code reg event s) := by
  unfold emcyMsg
  try dsimp only
  with_reducible repeat' first
    | (intro _) | assumption | apply told_odAdd32 | apply told_canSend | apply told_odAdd32 | apply told_canSend
    | apply told_ite | (simp only [told_mk]; apply told_back) | split | dsimp only

theorem told_emcyEvent (base : State) (code : Nat) (bit : Nat) (event : Nat) (s : State) (h1 : Told base s) :
    Told base (emcyEvent code bit event s) := by
  unfold emcyEvent
  try dsimp only
  with_reducible repeat' first
    | (intro _) | assumption | apply told_emcyMsg | apply told_emcyMsg | (simp only [told_mk]; apply told_back)
    | split | dsimp only

theorem told_traceAlways (base : State) (typ : Nat) (src : Nat) (arg0 : Nat) (arg1 : Nat) (s : State) (h1 : Told base
    s) :
    Told base (traceAlways typ src arg0 arg1 s) := by
  unfold traceAlways
  try dsimp only
  with_reducible repeat' first
    | (intro _) | assumption | apply told_tracePut | apply told_tracePut | (simp only [told_mk]; apply told_back)
    | split | dsimp only

theorem told_logSimple (base : State) (code : Nat) (src : Nat) (s : State) (h1 : Told base s) :
    Told base (logSimple code src s) := by
  unfold logSimple
  try dsimp only
  with_reducible repeat' first
    | (intro _) | assumption | apply told_logEvent | apply told_logEvent | (simp only [told_mk]; apply told_back)
    | split | dsimp only

theorem told_closeOpen (base : State) (s : State) (h1 : Told base s) :
    Told base (closeOpen s) := by
  unfold closeOpen
  try dsimp only
  with_reducible repeat' first | (intro _) | assumption | (simp only [told_mk]; apply told_back) | split | dsimp only

theorem told_emcyRaise (base : State) (code : Nat) (bit : Nat) (event : Nat) (s : State) (h1 : Told base s) :
    Told base (emcyRaise code bit event s) := by
  unfold emcyRaise
  try dsimp only
  with_reducible repeat' first
    | (intro _) | assumption | apply told_odSet | apply told_emcyMsg | apply told_odSet | apply told_emcyMsg
    | apply told_ite | (simp only [told_mk]; apply told_back) | split | dsimp only

theorem told_emcyClear (base : State) (bit : Nat) (event : Nat) (s : State) (h1 : Told base s) :
    Told base (emcyClear bit event s) := by
  unfold emcyClear
  try dsimp only
  with_reducible repeat' first
    | (intro _) | assumption | apply told_odSet | apply told_emcyMsg | apply told_odSet | apply told_emcyMsg
    | apply told_ite | (simp only [told_mk]; apply told_back) | split | dsimp only

theorem told_emcyWhile (base : State) (b : Bool) (code : Nat) (bit : Nat) (event : Nat) (s : State) (h1 : Told base s)
    :
    Told base (emcyWhile b code bit event s) := by
  unfold emcyWhile
  try dsimp only
  with_reducible repeat' first
    | (intro _) | assumption | apply told_emcyRaise | apply told_emcyClear | apply told_emcyRaise
    | apply told_emcyClear | apply told_ite | (simp only [told_mk]; apply told_back) | split | dsimp only

theorem told_odClear (base : State) (s : State) (k : Nat) (h1 : Told base s) :
    Told base (odClear s k) := by
  unfold odClear
  try dsimp only
  with_reducible repeat' first | (intro _) | assumption | (simp only [told_mk]; apply told_back) | split | dsimp only

theorem told_tell (base : State) (path : Nat) (code : Nat) (s : State) (h1 : Told base s) :
    Told base (tell path code s) := by
  unfold tell
  try dsimp only
  with_reducible repeat' first
    | (intro _) | assumption | apply told_odSet | apply told_odSet | apply told_ite
    | (simp only [told_mk]; apply told_back) | split | dsimp only

theorem told_wStore (base : State) (k : Nat) (v : Nat) (s : State) (h1 : Told base s) :
    Told base (wStore k v s).2 := by
  unfold wStore
  try dsimp only
  with_reducible repeat' first
    | (intro _) | assumption | apply told_odSet | apply told_odSet | (simp only [told_mk]; apply told_back) | split
    | dsimp only

theorem told_traceCollect (base : State) (d : Nat) (s : State) (h1 : Told base s) :
    Told base (traceCollect d s) := by
  unfold traceCollect
  try dsimp only
  with_reducible repeat' first
    | (intro _) | assumption | apply told_traceWrite | apply told_traceWrite | apply told_ite
    | (simp only [told_mk]; apply told_back) | split | dsimp only

theorem told_traceDrain (base : State) (d : Nat) (a1 : Nat) (s : State) (h1 : Told base s) :
    Told base (traceDrain d a1 s) := by
  induction a1 generalizing s with
  | zero => exact h1
  | succ n ih =>
    unfold traceDrain
    split
    · exact h1
    · exact ih _ (told_traceCollect _ d s h1)

theorem told_traceMoves (base : State) (d : Nat) (a : Nat) (b : Nat) (s : State) (h1 : Told base s) :
    Told base (traceMoves d a b s) := by
  unfold traceMoves
  try dsimp only
  with_reducible repeat' first
    | (intro _) | assumption | apply told_traceDrain | apply told_traceDrain | (simp only [told_mk]; apply told_back)
    | split | dsimp only

theorem told_wRefuse (base : State) (code : Nat) (s : State) (h1 : Told base s) :
    Told base (wRefuse code s).2 := by
  unfold wRefuse
  try dsimp only
  with_reducible repeat' first | (intro _) | assumption | (simp only [told_mk]; apply told_back) | split | dsimp only

/-! ### odAdd -/

@[simp] theorem odAdd_pending (s : State) (k : Nat) (n : Nat) : (odAdd s k n).pending = s.pending :=
  (told_odAdd s s k n (told_refl s)).1
@[simp] theorem odAdd_now (s : State) (k : Nat) (n : Nat) : (odAdd s k n).now = s.now :=
  (told_odAdd s s k n (told_refl s)).2.1
@[simp] theorem odAdd_freeCtr (s : State) (k : Nat) (n : Nat) : (odAdd s k n).freeCtr = s.freeCtr :=
  (told_odAdd s s k n (told_refl s)).2.2.1
@[simp] theorem odAdd_mem (s : State) (k : Nat) (n : Nat) : (odAdd s k n).mem = s.mem :=
  (told_odAdd s s k n (told_refl s)).2.2.2.1
@[simp] theorem odAdd_ecc (s : State) (k : Nat) (n : Nat) : (odAdd s k n).ecc = s.ecc :=
  (told_odAdd s s k n (told_refl s)).2.2.2.2.1
@[simp] theorem odAdd_tiles (s : State) (k : Nat) (n : Nat) : (odAdd s k n).tiles = s.tiles :=
  (told_odAdd s s k n (told_refl s)).2.2.2.2.2.1
@[simp] theorem odAdd_mesh (s : State) (k : Nat) (n : Nat) : (odAdd s k n).mesh = s.mesh :=
  (told_odAdd s s k n (told_refl s)).2.2.2.2.2.2.1
@[simp] theorem odAdd_graphs (s : State) (k : Nat) (n : Nat) : (odAdd s k n).graphs = s.graphs :=
  (told_odAdd s s k n (told_refl s)).2.2.2.2.2.2.2.1
@[simp] theorem odAdd_cmds (s : State) (k : Nat) (n : Nat) : (odAdd s k n).cmds = s.cmds :=
  (told_odAdd s s k n (told_refl s)).2.2.2.2.2.2.2.2.1
@[simp] theorem odAdd_hst (s : State) (k : Nat) (n : Nat) : (odAdd s k n).hst = s.hst :=
  (told_odAdd s s k n (told_refl s)).2.2.2.2.2.2.2.2.2.1
@[simp] theorem odAdd_fab (s : State) (k : Nat) (n : Nat) : (odAdd s k n).fab = s.fab :=
  (told_odAdd s s k n (told_refl s)).2.2.2.2.2.2.2.2.2.2.1
@[simp] theorem odAdd_rem (s : State) (k : Nat) (n : Nat) : (odAdd s k n).rem = s.rem :=
  (told_odAdd s s k n (told_refl s)).2.2.2.2.2.2.2.2.2.2.2.1
@[simp] theorem odAdd_flt (s : State) (k : Nat) (n : Nat) : (odAdd s k n).flt = s.flt :=
  (told_odAdd s s k n (told_refl s)).2.2.2.2.2.2.2.2.2.2.2.2.1
@[simp] theorem odAdd_trw (s : State) (k : Nat) (n : Nat) : (odAdd s k n).trw = s.trw :=
  (told_odAdd s s k n (told_refl s)).2.2.2.2.2.2.2.2.2.2.2.2.2.1
@[simp] theorem odAdd_sec (s : State) (k : Nat) (n : Nat) : (odAdd s k n).sec = s.sec :=
  (told_odAdd s s k n (told_refl s)).2.2.2.2.2.2.2.2.2.2.2.2.2.2.1
@[simp] theorem odAdd_meas (s : State) (k : Nat) (n : Nat) : (odAdd s k n).meas = s.meas :=
  (told_odAdd s s k n (told_refl s)).2.2.2.2.2.2.2.2.2.2.2.2.2.2.2.1
@[simp] theorem odAdd_tim (s : State) (k : Nat) (n : Nat) : (odAdd s k n).tim = s.tim :=
  (told_odAdd s s k n (told_refl s)).2.2.2.2.2.2.2.2.2.2.2.2.2.2.2.2.1
@[simp] theorem odAdd_mod (s : State) (k : Nat) (n : Nat) : (odAdd s k n).mod = s.mod :=
  (told_odAdd s s k n (told_refl s)).2.2.2.2.2.2.2.2.2.2.2.2.2.2.2.2.2

/-! ### odAdd32 -/

@[simp] theorem odAdd32_pending (s : State) (k : Nat) (n : Nat) : (odAdd32 s k n).pending = s.pending :=
  (told_odAdd32 s s k n (told_refl s)).1
@[simp] theorem odAdd32_now (s : State) (k : Nat) (n : Nat) : (odAdd32 s k n).now = s.now :=
  (told_odAdd32 s s k n (told_refl s)).2.1
@[simp] theorem odAdd32_freeCtr (s : State) (k : Nat) (n : Nat) : (odAdd32 s k n).freeCtr = s.freeCtr :=
  (told_odAdd32 s s k n (told_refl s)).2.2.1
@[simp] theorem odAdd32_mem (s : State) (k : Nat) (n : Nat) : (odAdd32 s k n).mem = s.mem :=
  (told_odAdd32 s s k n (told_refl s)).2.2.2.1
@[simp] theorem odAdd32_ecc (s : State) (k : Nat) (n : Nat) : (odAdd32 s k n).ecc = s.ecc :=
  (told_odAdd32 s s k n (told_refl s)).2.2.2.2.1
@[simp] theorem odAdd32_tiles (s : State) (k : Nat) (n : Nat) : (odAdd32 s k n).tiles = s.tiles :=
  (told_odAdd32 s s k n (told_refl s)).2.2.2.2.2.1
@[simp] theorem odAdd32_mesh (s : State) (k : Nat) (n : Nat) : (odAdd32 s k n).mesh = s.mesh :=
  (told_odAdd32 s s k n (told_refl s)).2.2.2.2.2.2.1
@[simp] theorem odAdd32_graphs (s : State) (k : Nat) (n : Nat) : (odAdd32 s k n).graphs = s.graphs :=
  (told_odAdd32 s s k n (told_refl s)).2.2.2.2.2.2.2.1
@[simp] theorem odAdd32_cmds (s : State) (k : Nat) (n : Nat) : (odAdd32 s k n).cmds = s.cmds :=
  (told_odAdd32 s s k n (told_refl s)).2.2.2.2.2.2.2.2.1
@[simp] theorem odAdd32_hst (s : State) (k : Nat) (n : Nat) : (odAdd32 s k n).hst = s.hst :=
  (told_odAdd32 s s k n (told_refl s)).2.2.2.2.2.2.2.2.2.1
@[simp] theorem odAdd32_fab (s : State) (k : Nat) (n : Nat) : (odAdd32 s k n).fab = s.fab :=
  (told_odAdd32 s s k n (told_refl s)).2.2.2.2.2.2.2.2.2.2.1
@[simp] theorem odAdd32_rem (s : State) (k : Nat) (n : Nat) : (odAdd32 s k n).rem = s.rem :=
  (told_odAdd32 s s k n (told_refl s)).2.2.2.2.2.2.2.2.2.2.2.1
@[simp] theorem odAdd32_flt (s : State) (k : Nat) (n : Nat) : (odAdd32 s k n).flt = s.flt :=
  (told_odAdd32 s s k n (told_refl s)).2.2.2.2.2.2.2.2.2.2.2.2.1
@[simp] theorem odAdd32_trw (s : State) (k : Nat) (n : Nat) : (odAdd32 s k n).trw = s.trw :=
  (told_odAdd32 s s k n (told_refl s)).2.2.2.2.2.2.2.2.2.2.2.2.2.1
@[simp] theorem odAdd32_sec (s : State) (k : Nat) (n : Nat) : (odAdd32 s k n).sec = s.sec :=
  (told_odAdd32 s s k n (told_refl s)).2.2.2.2.2.2.2.2.2.2.2.2.2.2.1
@[simp] theorem odAdd32_meas (s : State) (k : Nat) (n : Nat) : (odAdd32 s k n).meas = s.meas :=
  (told_odAdd32 s s k n (told_refl s)).2.2.2.2.2.2.2.2.2.2.2.2.2.2.2.1
@[simp] theorem odAdd32_tim (s : State) (k : Nat) (n : Nat) : (odAdd32 s k n).tim = s.tim :=
  (told_odAdd32 s s k n (told_refl s)).2.2.2.2.2.2.2.2.2.2.2.2.2.2.2.2.1
@[simp] theorem odAdd32_mod (s : State) (k : Nat) (n : Nat) : (odAdd32 s k n).mod = s.mod :=
  (told_odAdd32 s s k n (told_refl s)).2.2.2.2.2.2.2.2.2.2.2.2.2.2.2.2.2

/-! ### odBit -/

@[simp] theorem odBit_pending (s : State) (k : Nat) (i : Nat) (b : Bool) : (odBit s k i b).pending = s.pending :=
  (told_odBit s s k i b (told_refl s)).1
@[simp] theorem odBit_now (s : State) (k : Nat) (i : Nat) (b : Bool) : (odBit s k i b).now = s.now :=
  (told_odBit s s k i b (told_refl s)).2.1
@[simp] theorem odBit_freeCtr (s : State) (k : Nat) (i : Nat) (b : Bool) : (odBit s k i b).freeCtr = s.freeCtr :=
  (told_odBit s s k i b (told_refl s)).2.2.1
@[simp] theorem odBit_mem (s : State) (k : Nat) (i : Nat) (b : Bool) : (odBit s k i b).mem = s.mem :=
  (told_odBit s s k i b (told_refl s)).2.2.2.1
@[simp] theorem odBit_ecc (s : State) (k : Nat) (i : Nat) (b : Bool) : (odBit s k i b).ecc = s.ecc :=
  (told_odBit s s k i b (told_refl s)).2.2.2.2.1
@[simp] theorem odBit_tiles (s : State) (k : Nat) (i : Nat) (b : Bool) : (odBit s k i b).tiles = s.tiles :=
  (told_odBit s s k i b (told_refl s)).2.2.2.2.2.1
@[simp] theorem odBit_mesh (s : State) (k : Nat) (i : Nat) (b : Bool) : (odBit s k i b).mesh = s.mesh :=
  (told_odBit s s k i b (told_refl s)).2.2.2.2.2.2.1
@[simp] theorem odBit_graphs (s : State) (k : Nat) (i : Nat) (b : Bool) : (odBit s k i b).graphs = s.graphs :=
  (told_odBit s s k i b (told_refl s)).2.2.2.2.2.2.2.1
@[simp] theorem odBit_cmds (s : State) (k : Nat) (i : Nat) (b : Bool) : (odBit s k i b).cmds = s.cmds :=
  (told_odBit s s k i b (told_refl s)).2.2.2.2.2.2.2.2.1
@[simp] theorem odBit_hst (s : State) (k : Nat) (i : Nat) (b : Bool) : (odBit s k i b).hst = s.hst :=
  (told_odBit s s k i b (told_refl s)).2.2.2.2.2.2.2.2.2.1
@[simp] theorem odBit_fab (s : State) (k : Nat) (i : Nat) (b : Bool) : (odBit s k i b).fab = s.fab :=
  (told_odBit s s k i b (told_refl s)).2.2.2.2.2.2.2.2.2.2.1
@[simp] theorem odBit_rem (s : State) (k : Nat) (i : Nat) (b : Bool) : (odBit s k i b).rem = s.rem :=
  (told_odBit s s k i b (told_refl s)).2.2.2.2.2.2.2.2.2.2.2.1
@[simp] theorem odBit_flt (s : State) (k : Nat) (i : Nat) (b : Bool) : (odBit s k i b).flt = s.flt :=
  (told_odBit s s k i b (told_refl s)).2.2.2.2.2.2.2.2.2.2.2.2.1
@[simp] theorem odBit_trw (s : State) (k : Nat) (i : Nat) (b : Bool) : (odBit s k i b).trw = s.trw :=
  (told_odBit s s k i b (told_refl s)).2.2.2.2.2.2.2.2.2.2.2.2.2.1
@[simp] theorem odBit_sec (s : State) (k : Nat) (i : Nat) (b : Bool) : (odBit s k i b).sec = s.sec :=
  (told_odBit s s k i b (told_refl s)).2.2.2.2.2.2.2.2.2.2.2.2.2.2.1
@[simp] theorem odBit_meas (s : State) (k : Nat) (i : Nat) (b : Bool) : (odBit s k i b).meas = s.meas :=
  (told_odBit s s k i b (told_refl s)).2.2.2.2.2.2.2.2.2.2.2.2.2.2.2.1
@[simp] theorem odBit_tim (s : State) (k : Nat) (i : Nat) (b : Bool) : (odBit s k i b).tim = s.tim :=
  (told_odBit s s k i b (told_refl s)).2.2.2.2.2.2.2.2.2.2.2.2.2.2.2.2.1
@[simp] theorem odBit_mod (s : State) (k : Nat) (i : Nat) (b : Bool) : (odBit s k i b).mod = s.mod :=
  (told_odBit s s k i b (told_refl s)).2.2.2.2.2.2.2.2.2.2.2.2.2.2.2.2.2

/-! ### trace -/

@[simp] theorem trace_pending (group : Nat) (typ : Nat) (src : Nat) (opId : Nat) (layer : Nat) (arg0 : Nat) (arg1 : Nat) (s : State) : (trace group typ src opId layer arg0 arg1 s).pending = s.pending :=
  (told_trace s group typ src opId layer arg0 arg1 s (told_refl s)).1
@[simp] theorem trace_now (group : Nat) (typ : Nat) (src : Nat) (opId : Nat) (layer : Nat) (arg0 : Nat) (arg1 : Nat) (s : State) : (trace group typ src opId layer arg0 arg1 s).now = s.now :=
  (told_trace s group typ src opId layer arg0 arg1 s (told_refl s)).2.1
@[simp] theorem trace_freeCtr (group : Nat) (typ : Nat) (src : Nat) (opId : Nat) (layer : Nat) (arg0 : Nat) (arg1 : Nat) (s : State) : (trace group typ src opId layer arg0 arg1 s).freeCtr = s.freeCtr :=
  (told_trace s group typ src opId layer arg0 arg1 s (told_refl s)).2.2.1
@[simp] theorem trace_mem (group : Nat) (typ : Nat) (src : Nat) (opId : Nat) (layer : Nat) (arg0 : Nat) (arg1 : Nat) (s : State) : (trace group typ src opId layer arg0 arg1 s).mem = s.mem :=
  (told_trace s group typ src opId layer arg0 arg1 s (told_refl s)).2.2.2.1
@[simp] theorem trace_ecc (group : Nat) (typ : Nat) (src : Nat) (opId : Nat) (layer : Nat) (arg0 : Nat) (arg1 : Nat) (s : State) : (trace group typ src opId layer arg0 arg1 s).ecc = s.ecc :=
  (told_trace s group typ src opId layer arg0 arg1 s (told_refl s)).2.2.2.2.1
@[simp] theorem trace_tiles (group : Nat) (typ : Nat) (src : Nat) (opId : Nat) (layer : Nat) (arg0 : Nat) (arg1 : Nat) (s : State) : (trace group typ src opId layer arg0 arg1 s).tiles = s.tiles :=
  (told_trace s group typ src opId layer arg0 arg1 s (told_refl s)).2.2.2.2.2.1
@[simp] theorem trace_mesh (group : Nat) (typ : Nat) (src : Nat) (opId : Nat) (layer : Nat) (arg0 : Nat) (arg1 : Nat) (s : State) : (trace group typ src opId layer arg0 arg1 s).mesh = s.mesh :=
  (told_trace s group typ src opId layer arg0 arg1 s (told_refl s)).2.2.2.2.2.2.1
@[simp] theorem trace_graphs (group : Nat) (typ : Nat) (src : Nat) (opId : Nat) (layer : Nat) (arg0 : Nat) (arg1 : Nat) (s : State) : (trace group typ src opId layer arg0 arg1 s).graphs = s.graphs :=
  (told_trace s group typ src opId layer arg0 arg1 s (told_refl s)).2.2.2.2.2.2.2.1
@[simp] theorem trace_cmds (group : Nat) (typ : Nat) (src : Nat) (opId : Nat) (layer : Nat) (arg0 : Nat) (arg1 : Nat) (s : State) : (trace group typ src opId layer arg0 arg1 s).cmds = s.cmds :=
  (told_trace s group typ src opId layer arg0 arg1 s (told_refl s)).2.2.2.2.2.2.2.2.1
@[simp] theorem trace_hst (group : Nat) (typ : Nat) (src : Nat) (opId : Nat) (layer : Nat) (arg0 : Nat) (arg1 : Nat) (s : State) : (trace group typ src opId layer arg0 arg1 s).hst = s.hst :=
  (told_trace s group typ src opId layer arg0 arg1 s (told_refl s)).2.2.2.2.2.2.2.2.2.1
@[simp] theorem trace_fab (group : Nat) (typ : Nat) (src : Nat) (opId : Nat) (layer : Nat) (arg0 : Nat) (arg1 : Nat) (s : State) : (trace group typ src opId layer arg0 arg1 s).fab = s.fab :=
  (told_trace s group typ src opId layer arg0 arg1 s (told_refl s)).2.2.2.2.2.2.2.2.2.2.1
@[simp] theorem trace_rem (group : Nat) (typ : Nat) (src : Nat) (opId : Nat) (layer : Nat) (arg0 : Nat) (arg1 : Nat) (s : State) : (trace group typ src opId layer arg0 arg1 s).rem = s.rem :=
  (told_trace s group typ src opId layer arg0 arg1 s (told_refl s)).2.2.2.2.2.2.2.2.2.2.2.1
@[simp] theorem trace_flt (group : Nat) (typ : Nat) (src : Nat) (opId : Nat) (layer : Nat) (arg0 : Nat) (arg1 : Nat) (s : State) : (trace group typ src opId layer arg0 arg1 s).flt = s.flt :=
  (told_trace s group typ src opId layer arg0 arg1 s (told_refl s)).2.2.2.2.2.2.2.2.2.2.2.2.1
@[simp] theorem trace_trw (group : Nat) (typ : Nat) (src : Nat) (opId : Nat) (layer : Nat) (arg0 : Nat) (arg1 : Nat) (s : State) : (trace group typ src opId layer arg0 arg1 s).trw = s.trw :=
  (told_trace s group typ src opId layer arg0 arg1 s (told_refl s)).2.2.2.2.2.2.2.2.2.2.2.2.2.1
@[simp] theorem trace_sec (group : Nat) (typ : Nat) (src : Nat) (opId : Nat) (layer : Nat) (arg0 : Nat) (arg1 : Nat) (s : State) : (trace group typ src opId layer arg0 arg1 s).sec = s.sec :=
  (told_trace s group typ src opId layer arg0 arg1 s (told_refl s)).2.2.2.2.2.2.2.2.2.2.2.2.2.2.1
@[simp] theorem trace_meas (group : Nat) (typ : Nat) (src : Nat) (opId : Nat) (layer : Nat) (arg0 : Nat) (arg1 : Nat) (s : State) : (trace group typ src opId layer arg0 arg1 s).meas = s.meas :=
  (told_trace s group typ src opId layer arg0 arg1 s (told_refl s)).2.2.2.2.2.2.2.2.2.2.2.2.2.2.2.1
@[simp] theorem trace_tim (group : Nat) (typ : Nat) (src : Nat) (opId : Nat) (layer : Nat) (arg0 : Nat) (arg1 : Nat) (s : State) : (trace group typ src opId layer arg0 arg1 s).tim = s.tim :=
  (told_trace s group typ src opId layer arg0 arg1 s (told_refl s)).2.2.2.2.2.2.2.2.2.2.2.2.2.2.2.2.1
@[simp] theorem trace_mod (group : Nat) (typ : Nat) (src : Nat) (opId : Nat) (layer : Nat) (arg0 : Nat) (arg1 : Nat) (s : State) : (trace group typ src opId layer arg0 arg1 s).mod = s.mod :=
  (told_trace s group typ src opId layer arg0 arg1 s (told_refl s)).2.2.2.2.2.2.2.2.2.2.2.2.2.2.2.2.2

/-! ### traceEvent -/

@[simp] theorem traceEvent_pending (b : Nat) (s : State) : (traceEvent b s).pending = s.pending :=
  (told_traceEvent s b s (told_refl s)).1
@[simp] theorem traceEvent_now (b : Nat) (s : State) : (traceEvent b s).now = s.now :=
  (told_traceEvent s b s (told_refl s)).2.1
@[simp] theorem traceEvent_freeCtr (b : Nat) (s : State) : (traceEvent b s).freeCtr = s.freeCtr :=
  (told_traceEvent s b s (told_refl s)).2.2.1
@[simp] theorem traceEvent_mem (b : Nat) (s : State) : (traceEvent b s).mem = s.mem :=
  (told_traceEvent s b s (told_refl s)).2.2.2.1
@[simp] theorem traceEvent_ecc (b : Nat) (s : State) : (traceEvent b s).ecc = s.ecc :=
  (told_traceEvent s b s (told_refl s)).2.2.2.2.1
@[simp] theorem traceEvent_tiles (b : Nat) (s : State) : (traceEvent b s).tiles = s.tiles :=
  (told_traceEvent s b s (told_refl s)).2.2.2.2.2.1
@[simp] theorem traceEvent_mesh (b : Nat) (s : State) : (traceEvent b s).mesh = s.mesh :=
  (told_traceEvent s b s (told_refl s)).2.2.2.2.2.2.1
@[simp] theorem traceEvent_graphs (b : Nat) (s : State) : (traceEvent b s).graphs = s.graphs :=
  (told_traceEvent s b s (told_refl s)).2.2.2.2.2.2.2.1
@[simp] theorem traceEvent_cmds (b : Nat) (s : State) : (traceEvent b s).cmds = s.cmds :=
  (told_traceEvent s b s (told_refl s)).2.2.2.2.2.2.2.2.1
@[simp] theorem traceEvent_hst (b : Nat) (s : State) : (traceEvent b s).hst = s.hst :=
  (told_traceEvent s b s (told_refl s)).2.2.2.2.2.2.2.2.2.1
@[simp] theorem traceEvent_fab (b : Nat) (s : State) : (traceEvent b s).fab = s.fab :=
  (told_traceEvent s b s (told_refl s)).2.2.2.2.2.2.2.2.2.2.1
@[simp] theorem traceEvent_rem (b : Nat) (s : State) : (traceEvent b s).rem = s.rem :=
  (told_traceEvent s b s (told_refl s)).2.2.2.2.2.2.2.2.2.2.2.1
@[simp] theorem traceEvent_flt (b : Nat) (s : State) : (traceEvent b s).flt = s.flt :=
  (told_traceEvent s b s (told_refl s)).2.2.2.2.2.2.2.2.2.2.2.2.1
@[simp] theorem traceEvent_trw (b : Nat) (s : State) : (traceEvent b s).trw = s.trw :=
  (told_traceEvent s b s (told_refl s)).2.2.2.2.2.2.2.2.2.2.2.2.2.1
@[simp] theorem traceEvent_sec (b : Nat) (s : State) : (traceEvent b s).sec = s.sec :=
  (told_traceEvent s b s (told_refl s)).2.2.2.2.2.2.2.2.2.2.2.2.2.2.1
@[simp] theorem traceEvent_meas (b : Nat) (s : State) : (traceEvent b s).meas = s.meas :=
  (told_traceEvent s b s (told_refl s)).2.2.2.2.2.2.2.2.2.2.2.2.2.2.2.1
@[simp] theorem traceEvent_tim (b : Nat) (s : State) : (traceEvent b s).tim = s.tim :=
  (told_traceEvent s b s (told_refl s)).2.2.2.2.2.2.2.2.2.2.2.2.2.2.2.2.1
@[simp] theorem traceEvent_mod (b : Nat) (s : State) : (traceEvent b s).mod = s.mod :=
  (told_traceEvent s b s (told_refl s)).2.2.2.2.2.2.2.2.2.2.2.2.2.2.2.2.2

/-! ### freezeSource -/

@[simp] theorem freezeSource_pending (bit : Nat) (s : State) : (freezeSource bit s).pending = s.pending :=
  (told_freezeSource s bit s (told_refl s)).1
@[simp] theorem freezeSource_now (bit : Nat) (s : State) : (freezeSource bit s).now = s.now :=
  (told_freezeSource s bit s (told_refl s)).2.1
@[simp] theorem freezeSource_freeCtr (bit : Nat) (s : State) : (freezeSource bit s).freeCtr = s.freeCtr :=
  (told_freezeSource s bit s (told_refl s)).2.2.1
@[simp] theorem freezeSource_mem (bit : Nat) (s : State) : (freezeSource bit s).mem = s.mem :=
  (told_freezeSource s bit s (told_refl s)).2.2.2.1
@[simp] theorem freezeSource_ecc (bit : Nat) (s : State) : (freezeSource bit s).ecc = s.ecc :=
  (told_freezeSource s bit s (told_refl s)).2.2.2.2.1
@[simp] theorem freezeSource_tiles (bit : Nat) (s : State) : (freezeSource bit s).tiles = s.tiles :=
  (told_freezeSource s bit s (told_refl s)).2.2.2.2.2.1
@[simp] theorem freezeSource_mesh (bit : Nat) (s : State) : (freezeSource bit s).mesh = s.mesh :=
  (told_freezeSource s bit s (told_refl s)).2.2.2.2.2.2.1
@[simp] theorem freezeSource_graphs (bit : Nat) (s : State) : (freezeSource bit s).graphs = s.graphs :=
  (told_freezeSource s bit s (told_refl s)).2.2.2.2.2.2.2.1
@[simp] theorem freezeSource_cmds (bit : Nat) (s : State) : (freezeSource bit s).cmds = s.cmds :=
  (told_freezeSource s bit s (told_refl s)).2.2.2.2.2.2.2.2.1
@[simp] theorem freezeSource_hst (bit : Nat) (s : State) : (freezeSource bit s).hst = s.hst :=
  (told_freezeSource s bit s (told_refl s)).2.2.2.2.2.2.2.2.2.1
@[simp] theorem freezeSource_fab (bit : Nat) (s : State) : (freezeSource bit s).fab = s.fab :=
  (told_freezeSource s bit s (told_refl s)).2.2.2.2.2.2.2.2.2.2.1
@[simp] theorem freezeSource_rem (bit : Nat) (s : State) : (freezeSource bit s).rem = s.rem :=
  (told_freezeSource s bit s (told_refl s)).2.2.2.2.2.2.2.2.2.2.2.1
@[simp] theorem freezeSource_flt (bit : Nat) (s : State) : (freezeSource bit s).flt = s.flt :=
  (told_freezeSource s bit s (told_refl s)).2.2.2.2.2.2.2.2.2.2.2.2.1
@[simp] theorem freezeSource_trw (bit : Nat) (s : State) : (freezeSource bit s).trw = s.trw :=
  (told_freezeSource s bit s (told_refl s)).2.2.2.2.2.2.2.2.2.2.2.2.2.1
@[simp] theorem freezeSource_sec (bit : Nat) (s : State) : (freezeSource bit s).sec = s.sec :=
  (told_freezeSource s bit s (told_refl s)).2.2.2.2.2.2.2.2.2.2.2.2.2.2.1
@[simp] theorem freezeSource_meas (bit : Nat) (s : State) : (freezeSource bit s).meas = s.meas :=
  (told_freezeSource s bit s (told_refl s)).2.2.2.2.2.2.2.2.2.2.2.2.2.2.2.1
@[simp] theorem freezeSource_tim (bit : Nat) (s : State) : (freezeSource bit s).tim = s.tim :=
  (told_freezeSource s bit s (told_refl s)).2.2.2.2.2.2.2.2.2.2.2.2.2.2.2.2.1
@[simp] theorem freezeSource_mod (bit : Nat) (s : State) : (freezeSource bit s).mod = s.mod :=
  (told_freezeSource s bit s (told_refl s)).2.2.2.2.2.2.2.2.2.2.2.2.2.2.2.2.2

/-! ### logEvent -/

@[simp] theorem logEvent_pending (code : Nat) (src : Nat) (arg0 : Nat) (arg1 : Nat) (c : EvCmd) (s : State) : (logEvent code src arg0 arg1 c s).pending = s.pending :=
  (told_logEvent s code src arg0 arg1 c s (told_refl s)).1
@[simp] theorem logEvent_now (code : Nat) (src : Nat) (arg0 : Nat) (arg1 : Nat) (c : EvCmd) (s : State) : (logEvent code src arg0 arg1 c s).now = s.now :=
  (told_logEvent s code src arg0 arg1 c s (told_refl s)).2.1
@[simp] theorem logEvent_freeCtr (code : Nat) (src : Nat) (arg0 : Nat) (arg1 : Nat) (c : EvCmd) (s : State) : (logEvent code src arg0 arg1 c s).freeCtr = s.freeCtr :=
  (told_logEvent s code src arg0 arg1 c s (told_refl s)).2.2.1
@[simp] theorem logEvent_mem (code : Nat) (src : Nat) (arg0 : Nat) (arg1 : Nat) (c : EvCmd) (s : State) : (logEvent code src arg0 arg1 c s).mem = s.mem :=
  (told_logEvent s code src arg0 arg1 c s (told_refl s)).2.2.2.1
@[simp] theorem logEvent_ecc (code : Nat) (src : Nat) (arg0 : Nat) (arg1 : Nat) (c : EvCmd) (s : State) : (logEvent code src arg0 arg1 c s).ecc = s.ecc :=
  (told_logEvent s code src arg0 arg1 c s (told_refl s)).2.2.2.2.1
@[simp] theorem logEvent_tiles (code : Nat) (src : Nat) (arg0 : Nat) (arg1 : Nat) (c : EvCmd) (s : State) : (logEvent code src arg0 arg1 c s).tiles = s.tiles :=
  (told_logEvent s code src arg0 arg1 c s (told_refl s)).2.2.2.2.2.1
@[simp] theorem logEvent_mesh (code : Nat) (src : Nat) (arg0 : Nat) (arg1 : Nat) (c : EvCmd) (s : State) : (logEvent code src arg0 arg1 c s).mesh = s.mesh :=
  (told_logEvent s code src arg0 arg1 c s (told_refl s)).2.2.2.2.2.2.1
@[simp] theorem logEvent_graphs (code : Nat) (src : Nat) (arg0 : Nat) (arg1 : Nat) (c : EvCmd) (s : State) : (logEvent code src arg0 arg1 c s).graphs = s.graphs :=
  (told_logEvent s code src arg0 arg1 c s (told_refl s)).2.2.2.2.2.2.2.1
@[simp] theorem logEvent_cmds (code : Nat) (src : Nat) (arg0 : Nat) (arg1 : Nat) (c : EvCmd) (s : State) : (logEvent code src arg0 arg1 c s).cmds = s.cmds :=
  (told_logEvent s code src arg0 arg1 c s (told_refl s)).2.2.2.2.2.2.2.2.1
@[simp] theorem logEvent_hst (code : Nat) (src : Nat) (arg0 : Nat) (arg1 : Nat) (c : EvCmd) (s : State) : (logEvent code src arg0 arg1 c s).hst = s.hst :=
  (told_logEvent s code src arg0 arg1 c s (told_refl s)).2.2.2.2.2.2.2.2.2.1
@[simp] theorem logEvent_fab (code : Nat) (src : Nat) (arg0 : Nat) (arg1 : Nat) (c : EvCmd) (s : State) : (logEvent code src arg0 arg1 c s).fab = s.fab :=
  (told_logEvent s code src arg0 arg1 c s (told_refl s)).2.2.2.2.2.2.2.2.2.2.1
@[simp] theorem logEvent_rem (code : Nat) (src : Nat) (arg0 : Nat) (arg1 : Nat) (c : EvCmd) (s : State) : (logEvent code src arg0 arg1 c s).rem = s.rem :=
  (told_logEvent s code src arg0 arg1 c s (told_refl s)).2.2.2.2.2.2.2.2.2.2.2.1
@[simp] theorem logEvent_flt (code : Nat) (src : Nat) (arg0 : Nat) (arg1 : Nat) (c : EvCmd) (s : State) : (logEvent code src arg0 arg1 c s).flt = s.flt :=
  (told_logEvent s code src arg0 arg1 c s (told_refl s)).2.2.2.2.2.2.2.2.2.2.2.2.1
@[simp] theorem logEvent_trw (code : Nat) (src : Nat) (arg0 : Nat) (arg1 : Nat) (c : EvCmd) (s : State) : (logEvent code src arg0 arg1 c s).trw = s.trw :=
  (told_logEvent s code src arg0 arg1 c s (told_refl s)).2.2.2.2.2.2.2.2.2.2.2.2.2.1
@[simp] theorem logEvent_sec (code : Nat) (src : Nat) (arg0 : Nat) (arg1 : Nat) (c : EvCmd) (s : State) : (logEvent code src arg0 arg1 c s).sec = s.sec :=
  (told_logEvent s code src arg0 arg1 c s (told_refl s)).2.2.2.2.2.2.2.2.2.2.2.2.2.2.1
@[simp] theorem logEvent_meas (code : Nat) (src : Nat) (arg0 : Nat) (arg1 : Nat) (c : EvCmd) (s : State) : (logEvent code src arg0 arg1 c s).meas = s.meas :=
  (told_logEvent s code src arg0 arg1 c s (told_refl s)).2.2.2.2.2.2.2.2.2.2.2.2.2.2.2.1
@[simp] theorem logEvent_tim (code : Nat) (src : Nat) (arg0 : Nat) (arg1 : Nat) (c : EvCmd) (s : State) : (logEvent code src arg0 arg1 c s).tim = s.tim :=
  (told_logEvent s code src arg0 arg1 c s (told_refl s)).2.2.2.2.2.2.2.2.2.2.2.2.2.2.2.2.1
@[simp] theorem logEvent_mod (code : Nat) (src : Nat) (arg0 : Nat) (arg1 : Nat) (c : EvCmd) (s : State) : (logEvent code src arg0 arg1 c s).mod = s.mod :=
  (told_logEvent s code src arg0 arg1 c s (told_refl s)).2.2.2.2.2.2.2.2.2.2.2.2.2.2.2.2.2

/-! ### logSimple -/

@[simp] theorem logSimple_pending (code : Nat) (src : Nat) (s : State) : (logSimple code src s).pending = s.pending :=
  (told_logSimple s code src s (told_refl s)).1
@[simp] theorem logSimple_now (code : Nat) (src : Nat) (s : State) : (logSimple code src s).now = s.now :=
  (told_logSimple s code src s (told_refl s)).2.1
@[simp] theorem logSimple_freeCtr (code : Nat) (src : Nat) (s : State) : (logSimple code src s).freeCtr = s.freeCtr :=
  (told_logSimple s code src s (told_refl s)).2.2.1
@[simp] theorem logSimple_mem (code : Nat) (src : Nat) (s : State) : (logSimple code src s).mem = s.mem :=
  (told_logSimple s code src s (told_refl s)).2.2.2.1
@[simp] theorem logSimple_ecc (code : Nat) (src : Nat) (s : State) : (logSimple code src s).ecc = s.ecc :=
  (told_logSimple s code src s (told_refl s)).2.2.2.2.1
@[simp] theorem logSimple_tiles (code : Nat) (src : Nat) (s : State) : (logSimple code src s).tiles = s.tiles :=
  (told_logSimple s code src s (told_refl s)).2.2.2.2.2.1
@[simp] theorem logSimple_mesh (code : Nat) (src : Nat) (s : State) : (logSimple code src s).mesh = s.mesh :=
  (told_logSimple s code src s (told_refl s)).2.2.2.2.2.2.1
@[simp] theorem logSimple_graphs (code : Nat) (src : Nat) (s : State) : (logSimple code src s).graphs = s.graphs :=
  (told_logSimple s code src s (told_refl s)).2.2.2.2.2.2.2.1
@[simp] theorem logSimple_cmds (code : Nat) (src : Nat) (s : State) : (logSimple code src s).cmds = s.cmds :=
  (told_logSimple s code src s (told_refl s)).2.2.2.2.2.2.2.2.1
@[simp] theorem logSimple_hst (code : Nat) (src : Nat) (s : State) : (logSimple code src s).hst = s.hst :=
  (told_logSimple s code src s (told_refl s)).2.2.2.2.2.2.2.2.2.1
@[simp] theorem logSimple_fab (code : Nat) (src : Nat) (s : State) : (logSimple code src s).fab = s.fab :=
  (told_logSimple s code src s (told_refl s)).2.2.2.2.2.2.2.2.2.2.1
@[simp] theorem logSimple_rem (code : Nat) (src : Nat) (s : State) : (logSimple code src s).rem = s.rem :=
  (told_logSimple s code src s (told_refl s)).2.2.2.2.2.2.2.2.2.2.2.1
@[simp] theorem logSimple_flt (code : Nat) (src : Nat) (s : State) : (logSimple code src s).flt = s.flt :=
  (told_logSimple s code src s (told_refl s)).2.2.2.2.2.2.2.2.2.2.2.2.1
@[simp] theorem logSimple_trw (code : Nat) (src : Nat) (s : State) : (logSimple code src s).trw = s.trw :=
  (told_logSimple s code src s (told_refl s)).2.2.2.2.2.2.2.2.2.2.2.2.2.1
@[simp] theorem logSimple_sec (code : Nat) (src : Nat) (s : State) : (logSimple code src s).sec = s.sec :=
  (told_logSimple s code src s (told_refl s)).2.2.2.2.2.2.2.2.2.2.2.2.2.2.1
@[simp] theorem logSimple_meas (code : Nat) (src : Nat) (s : State) : (logSimple code src s).meas = s.meas :=
  (told_logSimple s code src s (told_refl s)).2.2.2.2.2.2.2.2.2.2.2.2.2.2.2.1
@[simp] theorem logSimple_tim (code : Nat) (src : Nat) (s : State) : (logSimple code src s).tim = s.tim :=
  (told_logSimple s code src s (told_refl s)).2.2.2.2.2.2.2.2.2.2.2.2.2.2.2.2.1
@[simp] theorem logSimple_mod (code : Nat) (src : Nat) (s : State) : (logSimple code src s).mod = s.mod :=
  (told_logSimple s code src s (told_refl s)).2.2.2.2.2.2.2.2.2.2.2.2.2.2.2.2.2

/-! ### emcyRaise -/

@[simp] theorem emcyRaise_pending (code : Nat) (bit : Nat) (event : Nat) (s : State) : (emcyRaise code bit event s).pending = s.pending :=
  (told_emcyRaise s code bit event s (told_refl s)).1
@[simp] theorem emcyRaise_now (code : Nat) (bit : Nat) (event : Nat) (s : State) : (emcyRaise code bit event s).now = s.now :=
  (told_emcyRaise s code bit event s (told_refl s)).2.1
@[simp] theorem emcyRaise_freeCtr (code : Nat) (bit : Nat) (event : Nat) (s : State) : (emcyRaise code bit event s).freeCtr = s.freeCtr :=
  (told_emcyRaise s code bit event s (told_refl s)).2.2.1
@[simp] theorem emcyRaise_mem (code : Nat) (bit : Nat) (event : Nat) (s : State) : (emcyRaise code bit event s).mem = s.mem :=
  (told_emcyRaise s code bit event s (told_refl s)).2.2.2.1
@[simp] theorem emcyRaise_ecc (code : Nat) (bit : Nat) (event : Nat) (s : State) : (emcyRaise code bit event s).ecc = s.ecc :=
  (told_emcyRaise s code bit event s (told_refl s)).2.2.2.2.1
@[simp] theorem emcyRaise_tiles (code : Nat) (bit : Nat) (event : Nat) (s : State) : (emcyRaise code bit event s).tiles = s.tiles :=
  (told_emcyRaise s code bit event s (told_refl s)).2.2.2.2.2.1
@[simp] theorem emcyRaise_mesh (code : Nat) (bit : Nat) (event : Nat) (s : State) : (emcyRaise code bit event s).mesh = s.mesh :=
  (told_emcyRaise s code bit event s (told_refl s)).2.2.2.2.2.2.1
@[simp] theorem emcyRaise_graphs (code : Nat) (bit : Nat) (event : Nat) (s : State) : (emcyRaise code bit event s).graphs = s.graphs :=
  (told_emcyRaise s code bit event s (told_refl s)).2.2.2.2.2.2.2.1
@[simp] theorem emcyRaise_cmds (code : Nat) (bit : Nat) (event : Nat) (s : State) : (emcyRaise code bit event s).cmds = s.cmds :=
  (told_emcyRaise s code bit event s (told_refl s)).2.2.2.2.2.2.2.2.1
@[simp] theorem emcyRaise_hst (code : Nat) (bit : Nat) (event : Nat) (s : State) : (emcyRaise code bit event s).hst = s.hst :=
  (told_emcyRaise s code bit event s (told_refl s)).2.2.2.2.2.2.2.2.2.1
@[simp] theorem emcyRaise_fab (code : Nat) (bit : Nat) (event : Nat) (s : State) : (emcyRaise code bit event s).fab = s.fab :=
  (told_emcyRaise s code bit event s (told_refl s)).2.2.2.2.2.2.2.2.2.2.1
@[simp] theorem emcyRaise_rem (code : Nat) (bit : Nat) (event : Nat) (s : State) : (emcyRaise code bit event s).rem = s.rem :=
  (told_emcyRaise s code bit event s (told_refl s)).2.2.2.2.2.2.2.2.2.2.2.1
@[simp] theorem emcyRaise_flt (code : Nat) (bit : Nat) (event : Nat) (s : State) : (emcyRaise code bit event s).flt = s.flt :=
  (told_emcyRaise s code bit event s (told_refl s)).2.2.2.2.2.2.2.2.2.2.2.2.1
@[simp] theorem emcyRaise_trw (code : Nat) (bit : Nat) (event : Nat) (s : State) : (emcyRaise code bit event s).trw = s.trw :=
  (told_emcyRaise s code bit event s (told_refl s)).2.2.2.2.2.2.2.2.2.2.2.2.2.1
@[simp] theorem emcyRaise_sec (code : Nat) (bit : Nat) (event : Nat) (s : State) : (emcyRaise code bit event s).sec = s.sec :=
  (told_emcyRaise s code bit event s (told_refl s)).2.2.2.2.2.2.2.2.2.2.2.2.2.2.1
@[simp] theorem emcyRaise_meas (code : Nat) (bit : Nat) (event : Nat) (s : State) : (emcyRaise code bit event s).meas = s.meas :=
  (told_emcyRaise s code bit event s (told_refl s)).2.2.2.2.2.2.2.2.2.2.2.2.2.2.2.1
@[simp] theorem emcyRaise_tim (code : Nat) (bit : Nat) (event : Nat) (s : State) : (emcyRaise code bit event s).tim = s.tim :=
  (told_emcyRaise s code bit event s (told_refl s)).2.2.2.2.2.2.2.2.2.2.2.2.2.2.2.2.1
@[simp] theorem emcyRaise_mod (code : Nat) (bit : Nat) (event : Nat) (s : State) : (emcyRaise code bit event s).mod = s.mod :=
  (told_emcyRaise s code bit event s (told_refl s)).2.2.2.2.2.2.2.2.2.2.2.2.2.2.2.2.2

/-! ### emcyClear -/

@[simp] theorem emcyClear_pending (bit : Nat) (event : Nat) (s : State) : (emcyClear bit event s).pending = s.pending :=
  (told_emcyClear s bit event s (told_refl s)).1
@[simp] theorem emcyClear_now (bit : Nat) (event : Nat) (s : State) : (emcyClear bit event s).now = s.now :=
  (told_emcyClear s bit event s (told_refl s)).2.1
@[simp] theorem emcyClear_freeCtr (bit : Nat) (event : Nat) (s : State) : (emcyClear bit event s).freeCtr = s.freeCtr :=
  (told_emcyClear s bit event s (told_refl s)).2.2.1
@[simp] theorem emcyClear_mem (bit : Nat) (event : Nat) (s : State) : (emcyClear bit event s).mem = s.mem :=
  (told_emcyClear s bit event s (told_refl s)).2.2.2.1
@[simp] theorem emcyClear_ecc (bit : Nat) (event : Nat) (s : State) : (emcyClear bit event s).ecc = s.ecc :=
  (told_emcyClear s bit event s (told_refl s)).2.2.2.2.1
@[simp] theorem emcyClear_tiles (bit : Nat) (event : Nat) (s : State) : (emcyClear bit event s).tiles = s.tiles :=
  (told_emcyClear s bit event s (told_refl s)).2.2.2.2.2.1
@[simp] theorem emcyClear_mesh (bit : Nat) (event : Nat) (s : State) : (emcyClear bit event s).mesh = s.mesh :=
  (told_emcyClear s bit event s (told_refl s)).2.2.2.2.2.2.1
@[simp] theorem emcyClear_graphs (bit : Nat) (event : Nat) (s : State) : (emcyClear bit event s).graphs = s.graphs :=
  (told_emcyClear s bit event s (told_refl s)).2.2.2.2.2.2.2.1
@[simp] theorem emcyClear_cmds (bit : Nat) (event : Nat) (s : State) : (emcyClear bit event s).cmds = s.cmds :=
  (told_emcyClear s bit event s (told_refl s)).2.2.2.2.2.2.2.2.1
@[simp] theorem emcyClear_hst (bit : Nat) (event : Nat) (s : State) : (emcyClear bit event s).hst = s.hst :=
  (told_emcyClear s bit event s (told_refl s)).2.2.2.2.2.2.2.2.2.1
@[simp] theorem emcyClear_fab (bit : Nat) (event : Nat) (s : State) : (emcyClear bit event s).fab = s.fab :=
  (told_emcyClear s bit event s (told_refl s)).2.2.2.2.2.2.2.2.2.2.1
@[simp] theorem emcyClear_rem (bit : Nat) (event : Nat) (s : State) : (emcyClear bit event s).rem = s.rem :=
  (told_emcyClear s bit event s (told_refl s)).2.2.2.2.2.2.2.2.2.2.2.1
@[simp] theorem emcyClear_flt (bit : Nat) (event : Nat) (s : State) : (emcyClear bit event s).flt = s.flt :=
  (told_emcyClear s bit event s (told_refl s)).2.2.2.2.2.2.2.2.2.2.2.2.1
@[simp] theorem emcyClear_trw (bit : Nat) (event : Nat) (s : State) : (emcyClear bit event s).trw = s.trw :=
  (told_emcyClear s bit event s (told_refl s)).2.2.2.2.2.2.2.2.2.2.2.2.2.1
@[simp] theorem emcyClear_sec (bit : Nat) (event : Nat) (s : State) : (emcyClear bit event s).sec = s.sec :=
  (told_emcyClear s bit event s (told_refl s)).2.2.2.2.2.2.2.2.2.2.2.2.2.2.1
@[simp] theorem emcyClear_meas (bit : Nat) (event : Nat) (s : State) : (emcyClear bit event s).meas = s.meas :=
  (told_emcyClear s bit event s (told_refl s)).2.2.2.2.2.2.2.2.2.2.2.2.2.2.2.1
@[simp] theorem emcyClear_tim (bit : Nat) (event : Nat) (s : State) : (emcyClear bit event s).tim = s.tim :=
  (told_emcyClear s bit event s (told_refl s)).2.2.2.2.2.2.2.2.2.2.2.2.2.2.2.2.1
@[simp] theorem emcyClear_mod (bit : Nat) (event : Nat) (s : State) : (emcyClear bit event s).mod = s.mod :=
  (told_emcyClear s bit event s (told_refl s)).2.2.2.2.2.2.2.2.2.2.2.2.2.2.2.2.2

/-! ### emcyEvent -/

@[simp] theorem emcyEvent_pending (code : Nat) (bit : Nat) (event : Nat) (s : State) : (emcyEvent code bit event s).pending = s.pending :=
  (told_emcyEvent s code bit event s (told_refl s)).1
@[simp] theorem emcyEvent_now (code : Nat) (bit : Nat) (event : Nat) (s : State) : (emcyEvent code bit event s).now = s.now :=
  (told_emcyEvent s code bit event s (told_refl s)).2.1
@[simp] theorem emcyEvent_freeCtr (code : Nat) (bit : Nat) (event : Nat) (s : State) : (emcyEvent code bit event s).freeCtr = s.freeCtr :=
  (told_emcyEvent s code bit event s (told_refl s)).2.2.1
@[simp] theorem emcyEvent_mem (code : Nat) (bit : Nat) (event : Nat) (s : State) : (emcyEvent code bit event s).mem = s.mem :=
  (told_emcyEvent s code bit event s (told_refl s)).2.2.2.1
@[simp] theorem emcyEvent_ecc (code : Nat) (bit : Nat) (event : Nat) (s : State) : (emcyEvent code bit event s).ecc = s.ecc :=
  (told_emcyEvent s code bit event s (told_refl s)).2.2.2.2.1
@[simp] theorem emcyEvent_tiles (code : Nat) (bit : Nat) (event : Nat) (s : State) : (emcyEvent code bit event s).tiles = s.tiles :=
  (told_emcyEvent s code bit event s (told_refl s)).2.2.2.2.2.1
@[simp] theorem emcyEvent_mesh (code : Nat) (bit : Nat) (event : Nat) (s : State) : (emcyEvent code bit event s).mesh = s.mesh :=
  (told_emcyEvent s code bit event s (told_refl s)).2.2.2.2.2.2.1
@[simp] theorem emcyEvent_graphs (code : Nat) (bit : Nat) (event : Nat) (s : State) : (emcyEvent code bit event s).graphs = s.graphs :=
  (told_emcyEvent s code bit event s (told_refl s)).2.2.2.2.2.2.2.1
@[simp] theorem emcyEvent_cmds (code : Nat) (bit : Nat) (event : Nat) (s : State) : (emcyEvent code bit event s).cmds = s.cmds :=
  (told_emcyEvent s code bit event s (told_refl s)).2.2.2.2.2.2.2.2.1
@[simp] theorem emcyEvent_hst (code : Nat) (bit : Nat) (event : Nat) (s : State) : (emcyEvent code bit event s).hst = s.hst :=
  (told_emcyEvent s code bit event s (told_refl s)).2.2.2.2.2.2.2.2.2.1
@[simp] theorem emcyEvent_fab (code : Nat) (bit : Nat) (event : Nat) (s : State) : (emcyEvent code bit event s).fab = s.fab :=
  (told_emcyEvent s code bit event s (told_refl s)).2.2.2.2.2.2.2.2.2.2.1
@[simp] theorem emcyEvent_rem (code : Nat) (bit : Nat) (event : Nat) (s : State) : (emcyEvent code bit event s).rem = s.rem :=
  (told_emcyEvent s code bit event s (told_refl s)).2.2.2.2.2.2.2.2.2.2.2.1
@[simp] theorem emcyEvent_flt (code : Nat) (bit : Nat) (event : Nat) (s : State) : (emcyEvent code bit event s).flt = s.flt :=
  (told_emcyEvent s code bit event s (told_refl s)).2.2.2.2.2.2.2.2.2.2.2.2.1
@[simp] theorem emcyEvent_trw (code : Nat) (bit : Nat) (event : Nat) (s : State) : (emcyEvent code bit event s).trw = s.trw :=
  (told_emcyEvent s code bit event s (told_refl s)).2.2.2.2.2.2.2.2.2.2.2.2.2.1
@[simp] theorem emcyEvent_sec (code : Nat) (bit : Nat) (event : Nat) (s : State) : (emcyEvent code bit event s).sec = s.sec :=
  (told_emcyEvent s code bit event s (told_refl s)).2.2.2.2.2.2.2.2.2.2.2.2.2.2.1
@[simp] theorem emcyEvent_meas (code : Nat) (bit : Nat) (event : Nat) (s : State) : (emcyEvent code bit event s).meas = s.meas :=
  (told_emcyEvent s code bit event s (told_refl s)).2.2.2.2.2.2.2.2.2.2.2.2.2.2.2.1
@[simp] theorem emcyEvent_tim (code : Nat) (bit : Nat) (event : Nat) (s : State) : (emcyEvent code bit event s).tim = s.tim :=
  (told_emcyEvent s code bit event s (told_refl s)).2.2.2.2.2.2.2.2.2.2.2.2.2.2.2.2.1
@[simp] theorem emcyEvent_mod (code : Nat) (bit : Nat) (event : Nat) (s : State) : (emcyEvent code bit event s).mod = s.mod :=
  (told_emcyEvent s code bit event s (told_refl s)).2.2.2.2.2.2.2.2.2.2.2.2.2.2.2.2.2

/-! ### tell -/

@[simp] theorem tell_pending (path : Nat) (code : Nat) (s : State) : (tell path code s).pending = s.pending :=
  (told_tell s path code s (told_refl s)).1
@[simp] theorem tell_now (path : Nat) (code : Nat) (s : State) : (tell path code s).now = s.now :=
  (told_tell s path code s (told_refl s)).2.1
@[simp] theorem tell_freeCtr (path : Nat) (code : Nat) (s : State) : (tell path code s).freeCtr = s.freeCtr :=
  (told_tell s path code s (told_refl s)).2.2.1
@[simp] theorem tell_mem (path : Nat) (code : Nat) (s : State) : (tell path code s).mem = s.mem :=
  (told_tell s path code s (told_refl s)).2.2.2.1
@[simp] theorem tell_ecc (path : Nat) (code : Nat) (s : State) : (tell path code s).ecc = s.ecc :=
  (told_tell s path code s (told_refl s)).2.2.2.2.1
@[simp] theorem tell_tiles (path : Nat) (code : Nat) (s : State) : (tell path code s).tiles = s.tiles :=
  (told_tell s path code s (told_refl s)).2.2.2.2.2.1
@[simp] theorem tell_mesh (path : Nat) (code : Nat) (s : State) : (tell path code s).mesh = s.mesh :=
  (told_tell s path code s (told_refl s)).2.2.2.2.2.2.1
@[simp] theorem tell_graphs (path : Nat) (code : Nat) (s : State) : (tell path code s).graphs = s.graphs :=
  (told_tell s path code s (told_refl s)).2.2.2.2.2.2.2.1
@[simp] theorem tell_cmds (path : Nat) (code : Nat) (s : State) : (tell path code s).cmds = s.cmds :=
  (told_tell s path code s (told_refl s)).2.2.2.2.2.2.2.2.1
@[simp] theorem tell_hst (path : Nat) (code : Nat) (s : State) : (tell path code s).hst = s.hst :=
  (told_tell s path code s (told_refl s)).2.2.2.2.2.2.2.2.2.1
@[simp] theorem tell_fab (path : Nat) (code : Nat) (s : State) : (tell path code s).fab = s.fab :=
  (told_tell s path code s (told_refl s)).2.2.2.2.2.2.2.2.2.2.1
@[simp] theorem tell_rem (path : Nat) (code : Nat) (s : State) : (tell path code s).rem = s.rem :=
  (told_tell s path code s (told_refl s)).2.2.2.2.2.2.2.2.2.2.2.1
@[simp] theorem tell_flt (path : Nat) (code : Nat) (s : State) : (tell path code s).flt = s.flt :=
  (told_tell s path code s (told_refl s)).2.2.2.2.2.2.2.2.2.2.2.2.1
@[simp] theorem tell_trw (path : Nat) (code : Nat) (s : State) : (tell path code s).trw = s.trw :=
  (told_tell s path code s (told_refl s)).2.2.2.2.2.2.2.2.2.2.2.2.2.1
@[simp] theorem tell_sec (path : Nat) (code : Nat) (s : State) : (tell path code s).sec = s.sec :=
  (told_tell s path code s (told_refl s)).2.2.2.2.2.2.2.2.2.2.2.2.2.2.1
@[simp] theorem tell_meas (path : Nat) (code : Nat) (s : State) : (tell path code s).meas = s.meas :=
  (told_tell s path code s (told_refl s)).2.2.2.2.2.2.2.2.2.2.2.2.2.2.2.1
@[simp] theorem tell_tim (path : Nat) (code : Nat) (s : State) : (tell path code s).tim = s.tim :=
  (told_tell s path code s (told_refl s)).2.2.2.2.2.2.2.2.2.2.2.2.2.2.2.2.1
@[simp] theorem tell_mod (path : Nat) (code : Nat) (s : State) : (tell path code s).mod = s.mod :=
  (told_tell s path code s (told_refl s)).2.2.2.2.2.2.2.2.2.2.2.2.2.2.2.2.2

end Sys2Proof.Machine
end

