-- ==== Sys2Proof/Tests/Slice0.lean ====
section
/-! SUPPORT. The model's own tests: the checks of WellFormed refuse an ill-formed command, each statement's hypotheses are
met by a state and operands, and single steps do what the manual's own words and tables say. -/
namespace Sys2Proof.Tests
open Sys2Proof Sys2Proof.Machine

set_option Elab.async false
/-- A tile 0 of a module in READY that stands at a bundle with one slot left to issue. -/
def tile0 (k bits : Nat) (f : TileSt → TileSt) : State :=
  { State.reset with
    od := [(oMODULE_STATE, 2)]
    tiles := [(0, f { TileSt.initial with
      mode := .active, credit := true
      run := some ⟨0, 0, 0, [k], [], [], [], [], false, false, [], 0, 0, 0⟩
      store := memWrite ⟨[], []⟩ 0 (leBytes 32 (bits * 2 ^ (16 + 40 * k))) })] }

/-- A tile 0 and its module, with no bundle. -/
def tileX (x : TileSt) : State := { State.reset with od := [(oMODULE_STATE, 2)], tiles := [(0, x)] }

/-- The module right after reset, with some objects. -/
def objs (od : List (Nat × Nat)) : State :=
  { State.reset with od := od.foldl (fun t e => tput t e.1 e.2) [] }

/-- A module that core A owns, with some objects. -/
def owned (od : List (Nat × Nat)) : State :=
  { objs od with mod := { State.reset.mod with owner := some 0 } }

/-- A field of the state that a command leaves. -/
def after {α : Type} (c : Instr) (s : State) (f : State → α) : Option α :=
  match exec c s with | .next z => some (f z) | _ => none

/-- A slot's operands by number. -/
def reg (d a b c m : Nat) : RegForm := ⟨Fin.ofNat 64 d, Fin.ofNat 64 a, Fin.ofNat 64 b, Fin.ofNat 64 c, Fin.ofNat 256 m⟩
def imm (d a i : Nat) : ImmForm := ⟨Fin.ofNat 64 d, Fin.ofNat 64 a, Fin.ofNat 1048576 i⟩

/-- Tile 0 stands ready at a slot. -/
def readyAt (k bits : Nat) : Bool := (slotReady (tile0 k bits id) 0 k bits).isSome
/-- A program store with numbers of a width at addresses. -/
def storeW (l : List (Nat × Nat × Nat)) : Memory := l.foldl (fun m e => memWrite m e.1 (leBytes e.2.1 e.2.2)) ⟨[], []⟩

/-- A token that carries a number. -/
def tok (n : Nat) : Token := ⟨n, 5, 0, 0⟩

/-- A graph of tiles 0 and 1 with a run, or none. -/
def graphG (r : Option RunG) : GraphSt := ⟨0, [], 0, [(0, [1, 2]), (1, [])], [(0, 0)], none, none, r, none, [], [], []⟩
def runG (sinks reports : Nat) : RunG := ⟨3, 7, 0, 0, 0, [], none, sinks, reports, 1, 0, false, []⟩

/-- A command entry of ring 0 and index 7 with an opcode and fields as (offset, width, value); it has started. -/
def cmdE (op : Nat) (l : List (Nat × Nat × Nat)) : CmdEnt :=
  ⟨0, 7, 0, l.foldl (fun b e => b.take e.1 ++ leBytes e.2.1 e.2.2 ++ b.drop (e.1 + e.2.1)) (leBytes 1 op ++ zeros 127),
    [⟨0x100000000, 0x1000, false, true, true, 0, 0⟩, ⟨0x5000, 0x1000, true, true, true, 0, 0⟩,
     ⟨0x100004000, 0x1000, false, true, true, 0, 0⟩], true, false, none, 0, 0⟩

/-- A run of tile 0 that is held at bundle 0, its header as given. -/
def heldT (w duty : Nat) : State :=
  { tileX { TileSt.initial with
      mode := .active, graph := 5
      run := some ⟨0, 0, 0, [], [], [], [], [], false, true, [], 0, 0, 0⟩
      store := memWrite ⟨[], []⟩ 0 (leBytes 32 w) } with
    now := 320
    od := (objs [(oDUTY, duty)]).od }
def heldRun : Run := ⟨0, 0, 0, [], [], [], [], [], false, true, [], 0, 0, 0⟩

/-- A module in READY with auxiliary power, an owner and some objects. -/
def ready (od : List (Nat × Nat)) : State := owned ((oMODULE_STATE, 2) :: od)
/-- Octets for the tests. -/
def octets (n : Nat) : List Byte := List.replicate n 0#8
def probe0 : Probe := ⟨0, 0, 0, 0⟩
def ident0 : IdentIn := ⟨0, 0, 0, 0, List.replicate 8 probe0, false, 1⟩
def flit0 : FlitIn := ⟨0, 0, false, false, 0, 0, 0, 0, 0, [], [], 0, true⟩
def lane0 : LaneIn := ⟨[], [], [], 0, [], false⟩
def offer0 : OfferIn := ⟨0, 0, 0, 0, 0, 0, true, none⟩
def poll0 : PollIn := ⟨.good, 0, 0, 0, .good, []⟩
def ev0 : EvCount := ⟨0, .vector, 5, 1⟩
def mean0 : RailMean := ⟨0, 0, 0, 0, [], []⟩
def period0 : PeriodIn := ⟨List.replicate 11 mean0, 0, 0, 0, 0, 0, none⟩
def ctx0 : CtxReq := ⟨0, 0, 0, octets 32, none⟩
def boot0 : BootIn := ⟨(true, true), (true, true), 0⟩
def env0 : WriteEnv := ⟨[], boot0, true, 0⟩
def aux0 : AuxIn := ⟨boot0, 0, 0, true, false, []⟩
def start0 : StartIn := ⟨[], [], none, none, [], true⟩
def meas0 : MeasReq := ⟨0, false, 0, octets 32, octets 8⟩

/-- Terms that WellFormed accepts, one of each shape it checks. -/
theorem smoke_accepts : [Instr.identExchange 0 ident0, .flitReceive 0 flit0, .connHealthUpdate 0 lane0, .keyOffer 0 offer0,
    .ringPoll 0 poll0, .estimatorUpdate [ev0], .switchingPeriodBoundary period0, .contextSet 0 ctx0,
    .usdoInitiate 0 (.expedited 0x2000 0 (octets 60)) env0, .auxPowerOn aux0, .startStepComplete start0,
    .getMeasurements 0 meas0, .bar2Read (2 ^ 34 - 4) 4, .bar0RegisterWrite 8 (.write (octets 8)), .bar0RegisterWrite 4 (.read 4), .bar0RegisterWrite 0 .cfgClass, .stretchEnd 0 1,
    .sensorRead (List.replicate 40 0) 0 0, .stageTempRead (List.replicate 108 0), .challenge 0 0 false ⟨octets 32, octets 8⟩, .scrubRead ⟨0, [⟨0, 5, true⟩]⟩].all
      Instr.wf = true := by decide +kernel

/-- R223, R470: an IDENT exchange with a field too wide, or without its eight probes. -/
theorem smoke_ident : [{ ident0 with machine := 2 ^ 32 }, { ident0 with dims := 2 ^ 32 }, { ident0 with node := 2 ^ 16 },
    { ident0 with port := 16 }, { ident0 with probes := [probe0] }].all (fun i =>
      !Instr.wf (.identExchange 0 i) && !Instr.wf (.identRepeat 0 i)) = true := by decide +kernel

/-- R206, R208: a flit whose slots are not those its header counts, not of 32 bytes, or with too many lanes. -/
theorem smoke_flit : [{ flit0 with count := 1 }, { flit0 with count := 1, slots := [octets 31] },
    { flit0 with fixed := List.replicate 9 0 }].all (fun f => !Instr.wf (.flitReceive 0 f)) = true := by decide +kernel

/-- R203, R225: more than eight lanes. -/
theorem smoke_lanes : [{ lane0 with rx := List.replicate 9 0 }, { lane0 with refl := List.replicate 9 0 },
    { lane0 with launch := List.replicate 9 0 }].all (fun l => !Instr.wf (.connHealthUpdate 0 l)) = true := by decide +kernel

/-- R455: key messages with a field too wide. -/
theorem smoke_keys : [Instr.keyOffer 0 { offer0 with node := 2 ^ 16 }, .keyOffer 0 { offer0 with port := 16 },
    .keyOffer 0 { offer0 with machine := 2 ^ 32 }, .keyOffer 0 { offer0 with effective := 2 ^ 64 },
    .keyOffer 0 { offer0 with nonce := 2 ^ 64 }, .keyOffer 0 { offer0 with key := some (2 ^ 256) },
    .cert 0 256 0 0 0 true, .cert 0 0 256 0 0 true, .cert 0 0 0 (2 ^ 64) 0 true, .cert 0 0 0 0 (2 ^ 32) true,
    .keyRequest 0 0 (2 ^ 64), .keyAck 0 0 (2 ^ 64)].all (fun i => !i.wf) = true := by decide +kernel

/-- R283, R287: a poll with an entry of less than 64 bytes; R276: a register write that is not one of 4 or 8 aligned bytes;
R277: a BAR2 access of no bytes or past its end. -/
theorem smoke_host : [Instr.ringPoll 0 { poll0 with entries := [octets 63] }, .bar0RegisterWrite 0 (.write (octets 2)),
    .bar0RegisterWrite 4 (.write (octets 8)), .bar0RegisterWrite 4 (.read 8), .bar2Read 0 0, .bar2Read (2 ^ 34 - 4) 5, .bar2Write 0 [],
    .bar2Write (2 ^ 34 - 4) (octets 5)].all (fun i => !i.wf) = true := by decide +kernel

/-- R287: an entry's index has 32 bits, and so has a graph's handle. -/
theorem smoke_index : [Instr.nop 0 (2 ^ 32), .bufsetDefine 0 (2 ^ 32) ⟨.good, [], []⟩, .dmaCopy 0 (2 ^ 32) ⟨.good, [], []⟩,
    .graphLoad 0 (2 ^ 32) ⟨.good, [], []⟩, .graphStart 0 (2 ^ 32), .graphUnload 0 (2 ^ 32), .remoteOp 0 (2 ^ 32),
    .collective 0 (2 ^ 32), .windowsLoad 0 (2 ^ 32) ⟨.good, [], []⟩, .shardMapLoad 0 (2 ^ 32) ⟨.good, [], []⟩,
    .commandComplete 0 (2 ^ 32), .graphExceptionStop (2 ^ 32), .graphLoadComplete (2 ^ 32), .hangDetected (2 ^ 32),
    .wfgRequest 0 (2 ^ 32)].all (fun i => !i.wf) = true := by decide +kernel

/-- A written value has at most 64 bits, and so have a task's cycles and power and a profile's number. -/
theorem smoke_values : [Instr.taskEnd 0 (2 ^ 64) 0, .taskEnd 0 0 (2 ^ 64), .tileEnableWrite 0 0 (2 ^ 64) 0,
    .slewLimitWrite 0 0 (2 ^ 64), .errInjectArm 0 (2 ^ 64), .fabricDimsWrite 0 (2 ^ 64), .nodeIdWrite 0 (2 ^ 64),
    .machineIdWrite 0 (2 ^ 64), .portEnableWrite 0 0 (2 ^ 64), .fecModeWrite 0 0 (2 ^ 64), .retrainNow 0 0 (2 ^ 64),
    .rekeyAll 0 (2 ^ 64), .laserRestart 0 (2 ^ 64), .memberRevive 0 (2 ^ 64), .capTargetWrite 0 (2 ^ 64),
    .autonomousCapWrite 0 (2 ^ 64), .safeCapWrite 0 (2 ^ 64), .flowLossWrite 0 (2 ^ 64), .flowLpmWrite 0 (2 ^ 64),
    .safeCapClear 0 (2 ^ 64), .stepTest 0 (2 ^ 64), .tripTest 0 (2 ^ 64) [], .trowelHandover 0 (2 ^ 64),
    .gainBankCommit 0 (2 ^ 64), .gainBankSwap 0 (2 ^ 64), .vsetWrite 0 0 (2 ^ 64), .peakClear 0 0 (2 ^ 64),
    .linkAuthModeWrite 0 (2 ^ 64), .confModeRequest 0 (2 ^ 64), .fwStageCommit 0 (2 ^ 64), .fwActivate 0 (2 ^ 64) boot0,
    .fwCommitSvn 0 (2 ^ 64), .primerStart 0 (2 ^ 64), .freezeNow 0 (2 ^ 64), .freezeAtWrite 0 (2 ^ 64),
    .freezeRelease 0 (2 ^ 64), .traceCtlWrite 0 (2 ^ 64), .traceArm 0 (2 ^ 64), .traceStop 0 (2 ^ 64),
    .traceTrigger 0 (2 ^ 64), .brkResume 0 (2 ^ 64), .opcSelectWrite 0 0 (2 ^ 64), .profileActiveWrite 0 (2 ^ 64),
    .profileSave 0 (2 ^ 64), .profileFactory 0 (2 ^ 64)].all (fun i => !i.wf) = true := by decide +kernel

/-- Measured values: the sensors' count, the stages' count, a period's rails, its widths, a poll's rate, a stretch of none. -/
theorem smoke_measured : [Instr.mr4Poll 0 8 false,
    .sensorRead (List.replicate 39 0) 0 0, .stretchEnd 0 0, .switchingPeriodBoundary { period0 with rails := [mean0] },
    .switchingPeriodBoundary { period0 with vinA := 2 ^ 16 }, .switchingPeriodBoundary { period0 with vinB := 2 ^ 16 },
    .scrubRead ⟨0, [⟨0, 0, true⟩]⟩, .scrubRead ⟨0, [⟨0, 6, true⟩]⟩, .stageTempRead (List.replicate 107 0),
    .auxPowerOn { aux0 with bad := [65536] }, .startStepComplete { start0 with repaired := [2 ^ 32] }].all
      (fun i => !i.wf) = true := by decide +kernel

/-- Octet strings of a length that no request has. -/
theorem smoke_lengths : [Instr.gainBankImage 0 [], .objectWrite 0 0x2000 1 [] env0, .fwStageChunk 0 [],
    .usdoInitiate 0 (.expedited 0x2000 1 []) env0, .usdoInitiate 0 (.expedited 0x2000 1 (octets 61)) env0,
    .usdoSegment 0 (octets 65) true env0, .rpdo1 0 (octets 65) env0, .challenge 0 0 false ⟨octets 31, octets 8⟩, .challenge 0 0 false ⟨octets 32, octets 7⟩,
    .getMeasurements 0 { meas0 with nonce := octets 31 }, .getMeasurements 0 { meas0 with ctx := octets 9 }].all
      (fun i => !i.wf) = true := by decide +kernel

/-- R446, R452, R453: requests of Cloister with a field too wide. -/
theorem smoke_contexts : [Instr.contextSet 0 { ctx0 with ctx := 256 }, .contextSet 0 { ctx0 with rsv := 2 ^ 24 },
    .contextSet 0 { ctx0 with chan := 2 ^ 32 }, .contextSet 0 { ctx0 with nonce := octets 31 },
    .contextSet 0 { ctx0 with keys := some (2 ^ 256, 0) }, .contextSet 0 { ctx0 with keys := some (0, 2 ^ 256) },
    .contextClear 0 256 0, .contextClear 0 0 (2 ^ 24), .measureRange 0 (2 ^ 64) 0, .measureRange 0 0 (2 ^ 64)].all
      (fun i => !i.wf) = true := by decide +kernel
/-! ### A state and operands that meet the hypotheses of each statement -/

theorem witness_IntegerLanes : (intLaneOps.all fun e => readyAt 1 (regBits e.1 (reg 2 0 1 0 7))) = true := by
  decide +kernel
theorem witness_MoveLanes : (moveLaneOps.all fun e => readyAt e.1 (regBits e.2.1 (reg 63 0 1 2 0))) = true := by
  decide +kernel
theorem witness_FloatLanes : (floatLaneOps.all fun e => readyAt 1 (regBits e.1 (reg 0 63 1 2 7))) = true := by
  decide +kernel
theorem witness_ScansAndReductions :
    (scanOps.all fun e => readyAt 1 (regBits e.2.1 (reg 1 2 3 0 8))) = true ∧
    (redOps.all fun e => readyAt 1 (regBits e.2.1 (reg 1 2 3 31 0))) = true := by decide +kernel
theorem witness_LaneAccumulators :
    ([0x30, 0x31, 0x32, 0x33].all fun op => readyAt 1 (regBits op (reg 1 2 3 0 16))) = true ∧
    fmtIsMX (ctxArith (tile0 1 (regBits 0x32 (reg 1 2 3 0 0)) id) 0 0).outFmt = false ∧
    fmtIsMX (ctxArith (tileX { TileSt.initial with store := storeW [(0x3CA00, 4, 5)] }) 0 0).outFmt = true := by
  decide +kernel
theorem witness_MaskResults : (maskOps.all fun e => readyAt 2 (regBits e.1 (reg 7 0 1 0 7))) = true := by decide +kernel
theorem witness_Conversions :
    ([6, 7, 8].all fun op => readyAt 2 (regBits op (reg 1 2 3 0 128))) = true ∧ fmtIsMX 0 = false := by decide +kernel
theorem witness_Scalars :
    (scalarOps.all fun e => readyAt e.1 (regBits e.2.1 (reg 31 0 1 0 0))) = true ∧
    ([0x09, 0x0A, 0x0B, 0x0C].all fun op => readyAt 5 (regBits op (reg 1 2 3 0 0))) = true ∧
    ([0x01, 0x02, 0x18].all fun op => readyAt 5 (immBits op (imm 1 2 0xFFFFF))) = true ∧
    readyAt 2 (regBits 0x1D (reg 1 2 3 0 0)) = true := by decide +kernel
theorem witness_ControlSlots :
    ([0x10, 0x11, 0x12, 0x13, 0x14, 0x16, 0x17, 0x19].all fun op => readyAt 5 (immBits op (imm 1 2 0xFFFFF))) = true := by
  decide +kernel
theorem witness_LoadsAndStores :
    ([1, 2, 3, 4, 5, 6].all fun op => readyAt 3 (immBits op (imm 1 2 0))) = true ∧
    (let s := tile0 3 (immBits 1 (imm 1 2 0)) fun x => { x with sregs := [(2, 4194304 - 256)] }
     sreg (tileSt s 0) 2 % 64 = 0 ∧ sreg (tileSt s 0) 2 + 256 ≤ 4194304 ∧ ueRead s (sreg (tileSt s 0) 2) 256 = none) := by
  decide +kernel
theorem witness_MemoryTraps :
    (memOps.all fun e => readyAt 3 (immBits e.1 (imm 1 2 1))) = true ∧
    (let s := tile0 3 (immBits 3 (imm 1 2 0)) fun x => { x with sregs := [(2, 0)] }
     ueRead { s with ecc := { s.ecc with marks := [⟨0, 1, false⟩] } } 0 8 = some ⟨1, 0, []⟩) ∧
    4194304 < 4194304 - 255 + 256 ∧ 1 % 64 ≠ 0 := by decide +kernel
theorem witness_TileDma :
    ([0x10, 0x11].all fun op => readyAt 3 (immBits op (imm 0 1 0))) = true ∧
    (tileSt (tileX { TileSt.initial with dmas := [⟨true, 0, 0⟩] }) 0).dmas = ⟨true, 0, 0⟩ :: [] := by decide +kernel
theorem witness_MatrixUnit :
    ([1, 2, 3, 4].all fun op => readyAt 0 (regBits op (reg 3 0 1 0 3))) = true ∧
    (tileSt (tileX { TileSt.initial with mats := [⟨4, 3, 0, 0, 0, 0, 0, 0⟩] }) 0).mats ≠ [] := by decide +kernel
theorem witness_IrregularIssue :
    (irrOps.all fun e => readyAt 4 (regBits e.1 (reg 0 1 0 0 0))) = true ∧ irrModOk 0x10 255 = false ∧
    irrModOk 0x01 0 = true := by decide +kernel
theorem witness_IrregularRun :
    (let o : IrrOp := ⟨3, 0, 0, zeros 64, false, 0, 0, 0⟩
     match scaddStart 0 o (tileX { TileSt.initial with irrs := [o] }) with | .ok _ _ => true | .ue _ _ => false) = true ∧
    (match engineAdd ⟨some 0, 0⟩ ⟨0x100000000, Ea.zero⟩ (tileX { TileSt.initial with adds := [⟨0x100000000, Ea.zero⟩] }) with
      | .ok _ _ => true | .ue _ _ => false) = true ∧
    (let o : IrrOp := ⟨1, 0, 0, zeros 64, true, 0, 0, 0⟩
     match irrRun 0 o [] (tileX { TileSt.initial with irrs := [] }) with
     | .ok r s1 => (match iobWrite 0 o r s1 with | .ok _ _ => true | .ue _ _ => false)
     | .ue _ _ => false) = true := by decide +kernel
theorem witness_BundleWritesRegisters :
    ([TEff.vreg 0 [], .sreg 31 5, .mask 7 1, .pred 15 true, .lacc 63 Ea.zero].all regEff) = true ∧
    (tileSt (tile0 5 0 id) 0).run.isSome = true ∧ (tileSt (tile0 5 0 id) 0).stopped = none := by decide +kernel
theorem witness_StoreLands :
    (tileSt (tile0 3 0 id) 0).run.isSome = true ∧ ueWrite (tile0 3 0 id) (tileBase 0 + 4194303) 1 = none := by
  decide +kernel
theorem witness_BundleFollows :
    jumpOf [TEff.jump 7679] = some 7679 ∧ loopOf [TEff.loop 3 0] = some (3, 0) ∧ jumpOf [TEff.loop 3 0] = none ∧
    jumpOf [] = none ∧ loopOf [] = none := by decide +kernel
theorem witness_HeldBundles :
    (let s := heldT 0 16
     (tileSt s 0).mode = .active ∧ (tileSt s 0).stopped = none ∧ (tileSt s 0).run = some heldRun ∧ dutyOpen s 0 = true ∧
     issueHeld s 0 heldRun 0 = false ∧ bitsOf (bundleAt (tileSt s 0) 0) 15 13 = 0) ∧
    bitsOf (bundleAt (tileSt (heldT (2 ^ 13) 16) 0) 0) 15 13 ≠ 0 ∧ bitAt (bundleAt (tileSt (heldT 64 16) 0) 0) 6 = true ∧
    (enabledSlots (regBits 0x09 (reg 1 2 3 0 0) * 2 ^ (16 + 40 * 5) + 2 ^ 5)).filter
      (fun k => slotOp (slotBits (regBits 0x09 (reg 1 2 3 0 0) * 2 ^ (16 + 40 * 5) + 2 ^ 5) k) != 0) ≠ [] ∧
    issueHeld (heldT 0 1) 0 heldRun 0 = true ∧ dutyOpen (heldT 0 1) 0 = false ∧ ueIn (heldT 0 16) (bundleCells 0 0 0) = none ∧
    (ueIn { heldT 0 16 with ecc := { EccSt.initial with marks := [⟨storeCell 0 0, 1, false⟩] } } (bundleCells 0 0 0)).isSome = true := by decide +kernel
/-- Tile 0's output queue 1 feeds destination `w`; a token and a credit of it are on the mesh. -/
def meshS (w sinks : Nat) : State :=
  { tileX { TileSt.initial with graph := 5, oqs := [(1, ⟨[2], 0⟩)], store := storeW [(0x3CA40 + 16, 16, 1 + w * 2 ^ 16)] } with
    mesh := ⟨[⟨0, 1, 0, tok 8⟩], [(0, 1, 0)]⟩
    graphs := [(5, graphG (some (runG sinks 1)))] }
theorem witness_TokensOnTheMesh :
    (let s := { meshS 0x012 2 with tiles := tput (meshS 0x012 2).tiles 1 { TileSt.initial with iqs := [(2, ⟨4, [], none⟩)] } }
     let w := (oqDests (oqWord (tileSt s 0) 1)).getD 0 0
     destCore w = false ∧ destTile w = 1 ∧ (tfind (tileSt s 1).iqs (destQ w)).isSome = true ∧ (0, 1, 0) ∈ s.mesh.credits ∧
     (s.mesh.toks.find? fun m => m.src == 0 && m.oq == 1 && m.k == 0) = some ⟨0, 1, 0, tok 8⟩) ∧
    (∀ n, n < 4 → let s := meshS 0xF02 n
     destCore ((oqDests (oqWord (tileSt s 0) 1)).getD 0 0) = true ∧
     (tfind s.graphs (tileSt s 0).graph) = some (graphG (some (runG n 1)))) := by decide +kernel
/-- Tile 0 with three ready tasks; task 1 takes two tokens and puts one. -/
def fireT : State :=
  { tileX { TileSt.initial with
      mode := .active, graph := 5, credit := true, iqs := [(2, ⟨4, [tok 1, tok 2], none⟩)], oqs := [(1, ⟨[2], 0⟩)]
      store := storeW [(0x3C000 + 16, 16, 2 ^ 13 + 2 ^ 16 + 2 ^ 19 + 0x22 * 2 ^ 32 + 0x11 * 2 ^ 64),
        (0x3C000 + 31 * 16, 16, 2 ^ 13 + 2 ^ 16 + 0x12 * 2 ^ 32), (0x3CA40 + 16, 16, 1 + 0xF02 * 2 ^ 16)] } with
    now := 3
    graphs := [(5, graphG none)] }
theorem witness_TaskFiresAndEnds :
    (pickTask fireT (tileSt fireT 0)).map (·.1) = some 1 ∧ taskReady (tileSt fireT 0) 31 = true ∧ mayStart fireT 0 = true ∧
    ((taskIns (taskAt (tileSt fireT 0) 1)).map (·.1)).Nodup ∧ (tileSt fireT 0).run = none ∧
    (let x := { TileSt.initial with
       oqs := [(1, ⟨[2], 0⟩)], run := some ⟨1, 0, 0, [], [], [], [], [(1, 1)], true, false, [], 0, 0, 0⟩ }
     x.mats = [] ∧ x.dmas = [] ∧ x.irrs = [] ∧ x.stopped = none ∧ (tfind x.oqs 1).isSome = true) := by decide +kernel
/-- Die 0 and its tiles; the envelope and tile 0 as given. -/
def credS (od : List (Nat × Nat)) (fl : FloatSt → FloatSt) (f : TileSt → TileSt) : State :=
  { ready ([(oDIE_VCORE, 7500), (oDIE_VCORE + 1, 7500), (oBRAKE_ACTIVE, 0)] ++ od) with
    now := 1000000
    flt := fl { FloatSt.initial with pLim := 2200000000000, pEst := 500000000000 }
    tiles := [(0, f { TileSt.initial with mode := .rest })] }
/-- Tile 0 runs Filler and has a fireable task. -/
def fillT (declined : Bool) (ready : Bool) : State :=
  { credS [(oFILLER_FLOOR_PCT, 0)] (fun f => { f with declined0 := declined }) fun _ =>
      { tileSt fireT 0 with filler := some 2, iqs := if ready then (tileSt fireT 0).iqs else [] } with
    graphs := [(5, graphG none)] }
theorem witness_PowerCredits :
    (let s := credS [] id fun x => { x with req := some (5, 100) }
     slotOpen s 0 = true ∧ odv s oBRAKE_ACTIVE ≠ 1 ∧ s.flt.test = none ∧ railHead s 0 = some ⟨0, 5, none⟩ ∧
     yields s 0 ⟨0, 5, none⟩ = false) ∧
    odv (credS [(oBRAKE_ACTIVE, 1)] id id) oBRAKE_ACTIVE = 1 ∧
    slotOpen (credS [] (fun f => { f with slot0 := some 1000000 }) id) 0 = false ∧
    (tileSt (credS [] id fun x => { x with waking := true }) 0).waking = true ∧
    (∀ b c, let s := fillT b c
     (tileSt s 0).mode = .active ∧ (tileSt s 0).credit = true ∧ runsFiller (tileSt s 0) = true ∧ slotOpen s 0 = true ∧
     s.flt.test = none ∧ railIdle s 0 = true ∧ releaseOk s 0 false = true ∧ holdRelease s 0 = true ∧ fDeclined s 0 = b ∧
     longestFiller s 0 = true ∧ fireable s 0 = c) := by decide +kernel
theorem witness_DieSteps :
    ([0, 1, 2].all fun k => [true, false].all fun up => [1, 2].all fun n =>
      let x : DieStep := ⟨0, k, up, 3, 2, n, 1000, false⟩
      let s := credS [] (fun f => { f with steps := [x] }) id
      slotOpen s 0 && railHead s 0 == some ⟨144 + k, 3, some 0⟩ && s.flt.steps[0]? == some x && odv s oBRAKE_ACTIVE != 1
        && !yields s 0 ⟨144 + k, 3, some 0⟩) = true := by decide +kernel
theorem witness_PupaLoadsAndExceptions :
    (let x := { TileSt.initial with mode := .rest, iqs := [(2, ⟨4, [], none⟩)] }
     x.waking = false ∧ x.req = none ∧ x.run = none ∧ queuesEmpty x = true ∧ { x with entry := true }.entry = true ∧
     odv (tileX x) oPUPA_DWELL_US ≠ 0) ∧
    odv (objs [(oPUPA_DWELL_US, 0)]) oPUPA_DWELL_US = 0 ∧
    queuesEmpty { TileSt.initial with iqs := [(2, ⟨4, [tok 1], none⟩)] } = false ∧
    (let g := { graphG (some (runG 2 0)) with loading := some (3, 8), exc := some (0, 0x0140) }
     (graphTiles g).Nodup ∧ g.unload = none ∧ g.run.isSome = true) := by decide +kernel
theorem witness_MemoryUpkeep :
    mainUp (objs []) = false ∧ mainUp (ready []) = true ∧ scrubPeriod (ready [(oSCRUB_PERIOD_TILE_S, 0)]) 1 = 0 ∧
    scrubPeriod (ready [(oSCRUB_PERIOD_TILE_S + 2, 1)]) 3 ≠ 0 ∧ channelSt (ready []) 63 = 0 ∧
    odv (ready [(oLP_SR_IDLE_US, 1)]) oLP_SR_IDLE_US ≠ 0 := by decide +kernel
/-- A module in READY whose host link is up. -/
def host (f : HostSt → HostSt) (od : List (Nat × Nat)) : State :=
  { ready od with hst := f { State.reset.hst with linkUp := true } }
theorem witness_HostWindow :
    (host id []).hst.linkUp = true ∧ (host id []).hst.d3 = false ∧ confidential (host id []) = false ∧
    confidential (host id [(oSEC_MODE, 1)]) = true ∧ bar2Closed (host id []) 0x100000000 64 = false ∧
    bar2Closed (host id []) 0 64 = true ∧
    ueRead { host id [] with ecc := { EccSt.initial with marks := [⟨0, 1, false⟩] } } 0 8 = some ⟨1, 0, []⟩ ∧
    ueRead (host id []) 0 8 = none ∧ ueWrite (host id []) 0 8 = none := by decide +kernel
/-- A packet of an opcode with a payload, an address and an operand. -/
def pkt (op ga opnd : Nat) (bs : List Byte) : Pkt :=
  ⟨5, 3, 2, false, 0, 5, op, (bs.length + 31) / 32, bs.length % 32, 0, 9, 0, 0, ga, opnd, bs⟩
/-- Node 5 of 16 with ports 0 to 3 UP. -/
def node5 : State :=
  let s := ready [(oNODE_ID, 5), (oFABRIC_DIMS, 4)]
  (List.range 4).foldl (fun s p => setPState p 6 (setPort p { PortSt.initial with credit := [(2, 40)] } s)) s
def bigPkt : Pkt :=
  ⟨65535, 65535, 7, true, 31, 4095, 255, 31, 63, 255, 65535, 65535, 65535, 2 ^ 64 - 1, 2 ^ 64 - 1, []⟩
theorem witness_HeaderRoundTrip :
    bigPkt.dst < 2 ^ 16 ∧ bigPkt.src < 2 ^ 16 ∧ bigPkt.vc < 8 ∧ bigPkt.last < 32 ∧ bigPkt.age < 2 ^ 12 ∧ bigPkt.op < 256 ∧
    bigPkt.pslots < 32 ∧ bigPkt.lastBytes < 64 ∧ bigPkt.rsv < 256 ∧ bigPkt.rtag < 2 ^ 16 ∧ bigPkt.ea < 2 ^ 16 ∧
    bigPkt.opId < 2 ^ 16 ∧ bigPkt.gaddr < 2 ^ 64 ∧ bigPkt.operand < 2 ^ 64 := by decide +kernel
theorem witness_PacketsInTheSwitch :
    takePacket (portOf node5 0).rxs = none ∧
    (takePacket [headerOf (pkt 1 0x4000 64 [])]).isSome = true ∧
    pktBad node5 (pkt 0xEE 0 0 []) = true ∧
    ([4, 5].all fun dst =>
      let p := { pkt 1 0x4000 64 [] with dst := dst }
      let s := { node5 with fab := { node5.fab with sw := [⟨0, some (0, 2), false, p⟩] } }
      (s.fab.sw.all fun q => (outputOf s q.pkt).isSome)
        && ((List.range 24).any fun o => (bestCand s 0 (candsOf s o 0 s.fab.sw [])).isSome)) = true := by decide +kernel
/-- The module with every port in a state, its laser on or not. -/
def portsIn (st : Nat) (laser : Bool) (f : PortSt → PortSt) (od : List (Nat × Nat)) : State :=
  let s := ready od
  let s := { s with
    mod := { s.mod with pins := { s.mod.pins with laserOk := laser } }
    fab := { s.fab with ports := (List.range 16).map fun p => (p, f PortSt.initial) } }
  (List.range 16).foldl (fun s p => setPState p st s) s
theorem witness_PortBringUp :
    ([0, 1, 2, 3, 4, 5, 6, 7, 8].all fun st => portState (portsIn st true id []) 15 == st) = true ∧
    pickGroup 3 8 = some 3 ∧ pickGroup 255 8 = some 255 ∧ pickGroup 0 8 = none ∧
    (portOf (portsIn 1 true id []) 15).txOn = 0 ∧ (portsIn 1 true id []).mod.pins.laserOk = true := by decide +kernel
theorem witness_PortLossAndRetrain :
    ([2, 5, 6, 7].all fun st => portState (portsIn st true id []) 15 == st) = true ∧
    (portOf (portsIn 6 true (fun x => { x with drain := true }) []) 0).drain = true ∧
    pickGroup ((List.range 8).foldl (fun a n => if bitAt 255 n ∧ n ∉ [0, 1, 2, 3] then a + 2 ^ n else a) 0) 8 = some 240 := by
  decide +kernel
theorem witness_LaserFeedAndConnectors :
    (let s := { objs [] with mod := { State.reset.mod with pins := { Pins.initial with laserEn := true } } }
     s.mod.pins.laserEn = true ∧ s.mod.pins.laserOk = false) ∧
    mainUp (ready []) = true ∧ (ready []).fab.latch = false ∧
    ([0, 2, 3, 6].all fun st => portState (portsIn st true id []) 0 == st) = true ∧
    ([0, 1, 2, 3, 4, 5, 6].all fun m => modState (owned [(oMODULE_STATE, m)]) == m) = true ∧
    ownerless (ready []) = false ∧ attention (ready []) = false ∧ attention (ready [(oCAP_STATUS, 64)]) = true ∧
    odv (ready []) oLOCATE_ALL ≠ 1 ∧ (ready []).mod.auxUp = true ∧
    ownerless { objs [] with mod := { State.reset.mod with pins := { Pins.initial with faultHeld := true } } } = true := by
  decide +kernel
def flit (lost : Nat) (tag : Bool) : FlitIn := ⟨0, 3, true, false, 0, 0, 2, 1, 5, [[1], [2, 3]], [], lost, tag⟩
theorem witness_Flits :
    portSends (portsIn 6 true id []) 0 = true ∧ portSends (portsIn 1 true id []) 0 = false ∧
    keyDue (portsIn 6 true id []) 0 = false ∧
    (let x := portOf (portsIn 6 true (fun x => { x with replay := [⟨3, [1, 2], []⟩], again := some 0 }) []) 0
     x.again = some 0 ∧ x.replay[0]? = some ⟨3, [1, 2], []⟩) ∧
    (flit 0 true).fseq.val = (portOf (portsIn 6 true id []) 0).rx % 65536 ∧ (flit 1 true).lost ≠ 0 ∧
    (portOf (portsIn 6 true (fun x => { x with bad := 7 }) []) 0).bad = 7 := by decide +kernel
theorem witness_LinkKeys :
    (let s := portsIn 6 true (fun x => { x with tx := 2 ^ 20, txNext := some (5, 2 ^ 20) }) [(oREKEY_LOG2, 20)]
     keyDue s 0 = true ∧ (portOf s 0).txNext = some (5, 2 ^ 20)) ∧
    keyDue (portsIn 6 true (fun x => { x with tx := 2 ^ 20 }) [(oREKEY_LOG2, 20)]) 0 = true ∧
    (let s := portsIn 6 true (fun x => { x with tx := 2 ^ 19, rx := 2 ^ 19, rxNext := some (9, 0) }) [(oREKEY_LOG2, 20)]
     (portOf s 0).asked = false ∧ 2 ^ odv s oREKEY_LOG2 / 2 ≤ (portOf s 0).tx % 2 ^ odv s oREKEY_LOG2 ∧
     (portOf s 0).forced = false ∧ 2 ^ odv s oREKEY_LOG2 / 2 ≤ (portOf s 0).rx % 2 ^ odv s oREKEY_LOG2 ∧
     (portOf s 0).rxNext = some (9, 0)) ∧
    ([5, 6].all fun st =>
      let s := portsIn st true (fun x => { x with nonce := some 2 }) [(pKey oNEIGHBOUR_NODE 15, 0), (pKey oNEIGHBOUR_PORT 15, 0)]
      offerOk s 15 ⟨0, 0, 0, pv s oNEIGHBOUR_MACHINE 15, 0, 2, true, some 77⟩) = true ∧
    ([2, 4].all fun st => portState (portsIn st true id []) 0 == st) = true ∧
    ([SecOp.cert 15 2 true, .offer 15 0 2 0, .install 15 ⟨0, 0, 0, 0, 0, 2, true, some 77⟩].all fun o =>
      [5, 6].all fun st => (secAdd o (portsIn st true id [])).sec.ops == [o]) = true := by decide +kernel
/-- Node 5 with packets that wait to be served and a remote window over the first 1 MiB of die 0's stacked SRAM. -/
def served (l : List Pkt) (e : List EccMark) : State :=
  { ready [(oNODE_ID, 5), (oFABRIC_DIMS, 4)] with
    ecc := { EccSt.initial with marks := e }
    rem := { State.reset.rem with windows := [(0x100000000, 0x100000, 0xFF)] }
    fab := { State.reset.fab with ej := l.map fun p => ⟨1, some (1, 2), false, p⟩ } }
def hashBody : List Byte := leBytes 8 (2 ^ 38) ++ zeros 24 ++ zeros 8
/-- The oldest packet of an opcode and its judgement. -/
def judged (s : State) (op : Nat) : Option Nat := (takeEjected (fun q => q.op == op) s).map fun r => windowJudge r.2 r.1
theorem witness_RemoteRequests :
    ([1, 2, 0x10, 0x11, 0x12, 0x13, 0x14, 0x15, 0x16, 0x17, 0x30, 0x31].all fun op =>
      let a := if op < 3 then 0x1000FFFF8 else 0x1000FFFC0
      let b := if op = 1 then [] else if op = 0x30 ∨ op = 0x31 then hashBody else leBytes 8 (2 ^ 63)
      judged (served [pkt op a 8 b] []) op == some 0 && judged (served [pkt op 0x100100000 8 b] []) op != some 0
        && judged (served [] []) op == none) = true ∧
    ueRead (served [] [⟨0x100000040, 2, false⟩]) 0x100000040 8 = some ⟨2, 0x100000040, []⟩ ∧
    ueWrite (served [] [⟨0x100000040, 2, false⟩]) 0x100000041 3 = some ⟨2, 0x100000040, []⟩ ∧
    (match serveHash false (pkt 0x30 0x100000040 8 hashBody) 0x100000040 (served [] []) with
      | .ok _ _ => true | .ue _ _ => false) = true := by decide +kernel
def addBody : Pkt := { pkt 0x20 0x100000060 0 (zeros 7 ++ [1]) with ea := 1 }
theorem witness_RemoteAdditions :
    judged (served [addBody] []) 0x20 = some 0 ∧ (eaUnwire addBody.ea addBody.data).isSome = true ∧
    eaUnwire 3 addBody.data = none ∧ judged (served [pkt 0x20 0 0 []] []) 0x20 ≠ some 0 ∧
    (let s := { served [addBody] [] with
       rem := { (served [] []).rem with slots := [(0x100000060, ⟨Ea.zero, 63, 3, [(addBody, 0)]⟩)] } }
     (tfind s.rem.slots 0x100000060).isSome = true ∧ judged s 0x20 = some 0 ∧ tget s.ecc.engines (engineOf 0x100000060) [] = [] ∧
     ueRead s 0x100000060 96 = none) := by
  decide +kernel
def robBytes (op ga n : Nat) : List Byte := zeros 16 ++ [BitVec.ofNat 8 op, 0, 0, 0] ++ leBytes 4 n ++ leBytes 8 ga ++ zeros 32
/-- Front end 1 holds a ROB of tile 0 with outstanding packets; a response waits. -/
def front (op rop : Nat) (outs : List Nat) (ga : Nat) : State :=
  let r : RobSt := ⟨some 0, 0, 0, 0x100, robBytes rop 0x100000040 64, 0x2000, 0x3000, 0, 0, [], [],
    outs.map fun t => ⟨0, 7, 0x100000040, 64, t, 3, []⟩, [], 0, 0, 3, true, 0, 0⟩
  { served [{ pkt op ga 0x0355 (zeros 64) with rtag := 0x1009 }] [] with
    rem := { State.reset.rem with fes := [(1, ⟨[r], [], 0⟩)] } }
def fetchT (dst off : Nat) (b : List Byte) : State :=
  { tileX { TileSt.initial with graph := 5, iqs := [(0, ⟨4, [], none⟩)], oqs := [(1, ⟨[2], 0⟩)], store := storeW [(0x3CA40 + 16, 16, 1 + dst * 2 ^ 16)] } with
    mem := memWrite ⟨[], []⟩ off b
    mesh := ⟨[⟨0, 1, 0, ⟨off, 5, 0, 0⟩⟩], []⟩ }
theorem witness_RemoteResponses :
    (let s := fetchT 0xF10 0x3FFFC0 (robBytes 0x77 0 0)
     let b := zeros 16 ++ memRead s.mem (tileBase 0 + 0x3FFFC0 + 16) 48
     destCore ((oqDests (oqWord (tileSt s 0) 1)).getD 0 0) = true ∧ feTakes s 1 b = true ∧
     (robCheck s (some 0) [] 0x3FFFC0 (fld b 0x20 4) (rOp2 b % 2 ^ 22) b).isSome = true) ∧
    (let s := fetchT 0xF10 0x40 (robBytes 1 0x100000040 64)
     let b := zeros 16 ++ memRead s.mem (tileBase 0 + 0x40 + 16) 48
     (s.mesh.toks.find? fun m => m.src == 0 && m.oq == 1 && m.k == 0 && m.tok.kind == 0) ≠ none ∧ feTakes s 1 b = true ∧
     s.ecc.marks = [] ∧ robCheck s (some 0) [] 0x40 (fld b 0x20 4) (rOp2 b % 2 ^ 22) b = none ∧ rOp b = 1 ∧
     gSpace (rGaddr b) = 0 ∧ rBytes b ≤ 512 ∧ (feSt s 1).robs = [] ∧ (feSt s 1).tags = []) ∧
    destCore ((oqDests (oqWord (tileSt (fetchT 0x012 0 []) 0) 1)).getD 0 0) = false ∧
    ([(0x81, 1), (0x82, 2), (0x90, 0x10), (0xA0, 0x20), (0xB0, 0x30), (0xF0, 2)].all fun e =>
      let s := front e.1 e.2 [9, 8] 0
      match takeEjected (fun q => q.op == e.1) s with
      | some (p, s1) => decide (p.gaddr = 0 ∧ p.operand % 65536 ≠ 0)
          && (findOut s1 (p.rtag / 4096 % 16) (p.rtag % 4096)).isSome
          && (findOut (front e.1 e.2 [8] 0) 1 9).isNone && (ueWrite s1 0x2000 64).isNone
      | none => false) = true ∧
    (findOut (front 0x90 0x10 [9] 0) 1 9).isSome = true ∧ gSpace (rGaddr (robBytes 2 0x100000040 64)) ≠ 1 ∧
    ((takeEjected (fun q => q.op == 0xF0) (front 0xF0 2 [9] 5)).all fun r =>
      r.1.gaddr != 0 && (findColl r.2 (r.1.gaddr % 65536) (bitsOf r.1.gaddr 31 16)).isNone) = true := by decide +kernel
def collD : List Byte := [1, 0] ++ leBytes 2 9 ++ leBytes 2 3 ++ zeros 58
/-- An exact ALLREDUCE, kind 0, of 64 elements and a floating-point one, kind 2, with a step packet of each. -/
def collN (k : Nat) : List Byte := [BitVec.ofNat 8 k, 0] ++ leBytes 2 9 ++ leBytes 2 3 ++ zeros 2 ++ leBytes 8 64 ++ zeros 48
def stepN (k : Nat) (bs : List Byte) : Pkt := pkt 0x40 (9 + 3 * 65536 + collSig (collN k) * 2 ^ 41) 0 bs
/-- A collective with identifier 9 and mask 3 in progress, and packets that wait. -/
def collS (st : Nat) (l : List Pkt) (prop : Nat) : State :=
  { owned [(oMODULE_STATE, st), (oNODE_ID, 5), (oFABRIC_DIMS, 4), (oCAP_PROPAGATE, prop)] with
    now := 5000000
    rem := { State.reset.rem with colls := [⟨3, 7, collD, 0, [0], [], [], [], [], 0, 5, 0, 0⟩], pace := [⟨6, 3, 4, 0⟩, ⟨6, 3, 4, 1⟩] }
    fab := { State.reset.fab with ej := l.map fun p => ⟨1, some (1, 2), false, p⟩ } }
/-- A collective of kind `k` that waits for its first step's packets, one of which is there. -/
def collOf (k : Nat) : CollSt := ⟨3, 7, collN k, 0, [0], [], [], [], [], 0, 5, 0, 0⟩
def collW (k : Nat) (bs : List Byte) : State :=
  { collS 2 [stepN k bs] 1 with rem := { State.reset.rem with colls := [collOf k] } }
theorem takes_one (f : Pkt → Bool) (s : State) (q : QPkt) (h : s.fab.ej = [q]) (hf : f q.pkt = true) :
    ∃ s1, takeEjected f s = some (q.pkt, s1) := by simp [takeEjected, h, hf]
theorem stepN_fields (k : Nat) (bs : List Byte) :
    bitsOf (stepN k bs).gaddr 63 41 = collSig (collN k) ∧ (stepN k bs).gaddr % 65536 = 9 ∧
    bitsOf (stepN k bs).gaddr 31 16 = 3 ∧ bitsOf (stepN k bs).gaddr 36 32 = 0 := by
  have h : collSig (collN k) < 2 ^ 23 := Nat.mod_lt _ (by decide)
  simp only [stepN, pkt, bitsOf, Nat.shiftRight_eq_div_pow]
  omega
theorem witness_CollectivesAndPace_waits :
    (∀ k bs, k = 1 ∨ k = 4 → findColl (collW k bs) ((stepN k bs).gaddr % 65536) (bitsOf (stepN k bs).gaddr 31 16) = some (collOf k) ∧
      ∃ s1, takeEjected (fun p => p.op == 0x40 && ((findColl (collW k bs) (p.gaddr % 65536) (bitsOf p.gaddr 31 16)).isSome
        || decide (earlyBytes (collW k bs) (collHalf p) + p.data.length ≤ 2097152))) (collW k bs) = some (stepN k bs, s1)) ∧
    cExact (collN 1) = true ∧ cExact (collN 4) = false ∧ unwireAll 256 (wireBytes ⟨5, 0⟩) = some [⟨5, 0⟩] ∧
    (List.range (cN (collN 1))).map (fun c => expected (collN 1) (packRank 5 (cDims (collN 1))) c 0) = [16, 16] ∧
    (List.range (cN (collN 4))).map (fun c => expected (collN 4) (packRank 5 (cDims (collN 4))) c 0) = [16, 16] := by
  refine ⟨fun k bs hk => ?_, by decide +kernel⟩
  obtain ⟨-, hi, hm, -⟩ := stepN_fields k bs
  have hf : findColl (collW k bs) ((stepN k bs).gaddr % 65536) (bitsOf (stepN k bs).gaddr 31 16) = some (collOf k) := by
    rw [hi, hm]
    show List.find? (collIs 9 3) [collOf k] = _
    rcases hk with rfl | rfl <;> decide +kernel
  exact ⟨hf, takes_one _ (collW k bs) _ rfl (by simp only [hf, Option.isSome_some, Bool.true_or, Bool.and_true]; rfl)⟩
theorem witness_CollectivesAndPace :
    (let s := collS 2 [pkt 0x40 (8 + 3 * 65536) 0 (zeros 64)] 1
     (takeEjected (fun p => p.op == 0x40) s).isSome = true ∧ findColl s 8 3 = none ∧ (findColl s 9 3).isSome = true ∧
     modState s ≠ 3 ∧ earlyBytes s 0 + 64 ≤ 2097152) ∧
    modState (collS 3 [] 0) = 3 ∧ odv (collS 2 [] 0) oCAP_PROPAGATE ≠ 1 ∧ odv (collS 2 [] 1) oCAP_PROPAGATE = 1 ∧
    ([1, 16].all fun d => [5, 6].all fun o =>
      let p := pkt 0x50 0 (o + 65536 + (d - 1) * 2 ^ 32 + 2 ^ 36) []
      (takeEjected (fun p => p.op == 0x50) (collS 2 [p] 0)).isSome && bitsOf p.operand 35 32 + 1 == d
        && p.operand % 65536 == o) = true := by decide +kernel
theorem witness_HostFunctionStates :
    (State.reset).hst.linkUp = false ∧ (host id []).hst.linkUp = true ∧ (host (fun h => { h with d3 := true }) []).hst.d3 = true ∧
    modState (ready []) ≠ 3 ∧ modState (owned [(oMODULE_STATE, 3)]) = 3 ∧ pllsUp (ready []) = true ∧
    (let s := { ready [] with mod := { (ready []).mod with pins := { Pins.initial with perstN := true } } }
     s.hst.linkUp = false ∧ s.mod.pins.perstN = true ∧ pllsUp s = true) ∧
    (ready []).mod.pins.perstN = true ∧ 0x1004004 < 67108864 ∧ 0x1000000 + 64 * 63 < 67108864 := by decide +kernel
/-- Ring 0 and completion ring 0 with 64 entries each, as given; a command of ring 0. -/
def ringS (g : RingSt → RingSt) (q : CqSt → CqSt) (done : Option CmdRes) : State :=
  { host (fun h => { h with
      rings := [(0, g ⟨0x1000, 0x40, 12 + 5 * 2 ^ 12, 0, 1, false, 62, 0⟩)]
      cqs := [(0, q ⟨0x2000, 0x80, 12 + 2 ^ 6 + 2 ^ 7 * 3 + 2 ^ 13 + 2 ^ 14 + 5 * 2 ^ 22, 0, true, false, 0, 0, 1⟩)]
      cfg := { h.cfg with msixOn := true }
      msix := [(3, ⟨0x5000, 9, 0, false⟩)] }) [] with
    cmds := [{ cmdE 1 [] with done := done }] }
theorem witness_RingsAndCompletions :
    (let s := ringS id id none
     (ringAt s 0).st = 1 ∧ isReady s = true ∧ barOpen s = true ∧ rgConf (ringAt s 0) = false ∧ cqFull s 0 = false ∧
     2 ^ rgLog2 (ringAt s 0) = 64 ∧ (62 + 64 + 2 ^ 32 - (ringAt s 0).cons) % 2 ^ 32 = 64 ∧
     (cqAt s 0).on = true ∧ cqIrq (cqAt s 0) = true ∧ cqConf (cqAt s 0) = false ∧ 0 < (cqAt s 0).since ∧
     s.hst.cfg.msixOn = true ∧ msixHeld s (cqVector (cqAt s 0)) = false) ∧
    (let s := ringS (fun g => { g with st := 0 }) (fun q => { q with on := false }) (some ⟨0, 0, 0, 0⟩)
     (ringAt s 0).st = 0 ∧ (cqAt s 0).on = false ∧ readyCode s = 0 ∧ cqOk s (cqAt s 0) = true ∧ mayComplete s = true ∧
     (findCmd s 0 7).isSome = true) ∧
    ringOk (ringS id id none) (ringAt (ringS id id none) 0) = true ∧
    cqFull (ringS id (fun q => { q with prod := 64 }) none) 0 = true ∧ barOpen (ready []) = false := by decide +kernel
/-- The command of ring 0 and index 7, with objects as a command needs them. -/
def cmdS (c : CmdEnt) : State :=
  { host (fun h => { h with rings := [(0, ⟨0x1000, 0x40, 12, 0, 1, false, 62, 0⟩)], sets := [(5, c.set)] })
      [(oFABRIC_DIMS, 4)] with cmds := [c] }
def bufBytes : List Byte := leBytes 8 0x100000000 ++ leBytes 8 (0x1000 + 2 ^ 43) ++ zeros 16
theorem witness_HostCommands :
    (let c := { cmdE 1 [(2, 2, 0xFFFF)] with started := false }
     nextCmd (cmdS c) 0 = some c ∧ mayBegin (cmdS c) c = true ∧ earlier (cmdS c) c = false ∧
     findCmd (cmdS c) 0 c.idx = some c ∧ entryCheck (cmdS c) false c.bytes = none ∧
     entryCheck (cmdS c) false (cmdE 0x77 []).bytes = some (0x0190, 0)) ∧
    (let c := cmdE 2 [(0x20, 2, 1023), (0x22, 2, 1), (0x28, 8, 32)]
     eOp c.bytes = 2 ∧ fld c.bytes 0x20 2 = 1023 ∧ fld c.bytes 0x22 2 = 1 ∧ fld c.bytes 0x28 8 % 32 = 0 ∧
     setInUse (cmdS c) 0 1023 = false ∧
     (match hostFetch { c with begun := true } 0 32 0 0 32 ⟨.good, bufBytes, []⟩ (cmdS c) with
       | (.data bs, s1) => (match bufList s1 bs 0 1 with | .ok l => decide (l.length = 1) | .error _ => false)
       | _ => false) = true) ∧
    (let c := cmdE 3 [(0x20, 1, 0), (0x21, 1, 2), (0x28, 8, 0xFC0), (0x30, 8, 0x80), (0x38, 5, 64)]
     (pickBuf c 0 false).isSome = true ∧ (pickBuf c 2 true).isSome = true ∧ pickBuf c 9 false = none ∧
     (pickBuf c 1 true).any (·.host) = true ∧
     ((pickBuf c 0 false).all fun a => (pickBuf c 2 true).all fun b =>
       (copyCheck (cmdS c) a b 0xFC0 0x80 64).isNone && (copyCheck (cmdS c) a b 0xFC0 0x80 65).isSome) = true ∧
     ueRead (cmdS c) (0x100000000 + 0xFC0) 64 = none ∧ confidential (cmdS c) = false) ∧
    (let c := cmdE 0x22 [(0x20, 1, 1), (0x22, 2, 1)]
     (match (tableData 64 ⟨.good, zeros 32, []⟩ c (cmdS c)).1 with | .ok _ => true | .error _ => false) = true ∧
     (match (tableData 64 ⟨.failed, [], []⟩ c (cmdS c)).1 with | .ok _ => false | .error _ => true) = true ∧
     windowEntryOk (zeros 32) = true ∧ windowEntryOk ([1] ++ zeros 31) = false) ∧
    (let c := cmdE 0x23 [(0x20, 1, 1), (0x22, 2, 1)]
     (match shardList (cmdS c) (leBytes 2 15 ++ zeros 14 ++ [1] ++ zeros 15) [] 1 0 with
       | .ok m => m == [[15]] | .error _ => false) = true ∧
     (match shardList (cmdS c) (zeros 32) [] 1 0 with | .ok _ => false | .error e => e == 0x0102) = true) := by decide +kernel
/-- A command of the module's work, with graph 5 as given on tiles 0 and 1. -/
def workS (c : CmdEnt) (g : GraphSt) : State :=
  { cmdS c with
    graphs := [(5, g)]
    tiles := [(0, { TileSt.initial with mode := .rest }), (1, { TileSt.initial with mode := .rest })] }
theorem witness_HostWork :
    (let c := cmdE 0x10 [(0x20, 1, 1)]
     findCmd (workS c (graphG none)) 0 7 = some c ∧ c.started = true ∧ c.begun = false ∧ c.done = none ∧
     (pickBuf c 1 false).isSome = true ∧ pickBuf c 9 false = none ∧
     ((pickBuf c 1 false).all fun f => !offsetBad (workS c (graphG none)) f 0 && (bufRegionBad (workS c (graphG none)) f 0 64).isNone)
       = true ∧
     ((pickBuf c 1 false).all fun f =>
       match imageCheck (workS c (graphG none)) (zeros 64) 64 (imageReach (workS c (graphG none)) f 0) with
       | .error e => e == 0x0147 | .ok _ => false) = true) ∧
    (let c := cmdE 0x11 [(0x20, 2, 5), (0x22, 2, 1)]
     loadedGraph (workS c (graphG none)) 5 = some (graphG none) ∧ loadedGraph (workS c (graphG none)) 6 = none ∧
     fld c.bytes 0x20 2 ≠ 0 ∧ fld c.bytes 0x22 2 ≠ 0 ∧ graphTurn (workS c (graphG none)) { c with begun := true } = true ∧
     graphTurn { workS c (graphG none) with cmds := [{ c with idx := 6 }, c] } { c with begun := true } = false ∧
     (loadedGraph (workS c (graphG (some (runG 1 0)))) 5).all (fun g => g.run.isSome) = true) ∧
    (let c := cmdE 0x20 [(0x20, 1, 0x10), (0x24, 4, 8), (0x28, 8, 0x100000040), (0x38, 8, 3)]
     let rob := zeros 16 ++ (c.bytes.drop 0x20).take 48
     feTakes (workS c (graphG none)) 0 rob = true ∧ opAtomic (rOp rob) = true ∧ remoteCheck (workS c (graphG none)) c rob = none ∧
     (feOuts (workS c (graphG none)) 0).length < 4096 ∧ (freeTag (workS c (graphG none)) 0).isSome = true) ∧
    (let c := cmdE 0x20 [(0x20, 1, 0x10), (0x22, 1, 1), (0x24, 4, 8)]
     (remoteCheck (workS c (graphG none)) c (zeros 16 ++ (c.bytes.drop 0x20).take 48)).isSome = true) ∧
    (let c := cmdE 0x12 [(0x20, 2, 5), (0x22, 1, 1)]
     byteAt c.bytes 0x22 = 1 ∧ (graphG (some (runG 1 0))).run = some (runG 1 0) ∧ (runG 1 0).ring ≠ 0) ∧
    (let c := cmdE 0x21 [(0x20, 1, 2), (0x22, 2, 9), (0x24, 2, 1), (0x28, 4, 4), (0x38, 8, 0x100000000), (0x40, 8, 0x100004000)]
     let d := (c.bytes.drop 0x20).take 64
     collCheck (workS c (graphG none)) d (hostRegionBad (workS c (graphG none)) c.set) = none ∧
     ueRead (workS c (graphG none)) (cIn d) (inBytes d) = none ∧
     (collCheck (workS c (graphG none)) (zeros 64) (hostRegionBad (workS c (graphG none)) c.set)).isSome = true) := by
  decide +kernel
/-- A graph image of one section, for tile 0, whose input queue 0 is in use with depth 3 and takes the one START token. -/
def imgTail : List Byte := leBytes 4 3 ++ zeros 28
def imgSec : List Byte := zeros 0x3CB40 ++ imgTail
def imgHead : List Byte := leBytes 4 0x4652475A ++ leBytes 2 1 ++ leBytes 2 1 ++ leBytes 4 248752 ++ leBytes 2 5 ++ leBytes 2 0 ++
  zeros 32 ++ [1] ++ zeros 15 ++ zeros 4 ++ leBytes 4 248672 ++ zeros 8
def imgOne : List Byte := imgHead ++ imgSec
theorem leNat_zeros (n : Nat) : leNat (List.replicate n 0) = 0 := by
  induction n with
  | zero => rfl
  | succ n ih =>
    rw [List.replicate_succ, leNat, ih]
    rfl
theorem zeros_length (n : Nat) : (zeros n).length = n := List.length_replicate
theorem fld_zeros (n off k : Nat) (r : List Byte) (h : off + k ≤ n) : fld (zeros n ++ r) off k = 0 := by
  unfold fld zeros
  rw [List.drop_append_of_le_length (by simp; omega), List.drop_replicate,
    List.take_append_of_le_length (by simp; omega), List.take_replicate]
  exact leNat_zeros _
theorem fld_past_zeros (n o k : Nat) (r : List Byte) : fld (zeros n ++ r) (n + o) k = fld r o k := by
  unfold fld
  rw [List.drop_append, List.drop_eq_nil_of_le (by rw [zeros_length]; omega), zeros_length]
  simp
theorem imgSec_zero (off k : Nat) (h : off + k ≤ 0x3CB40) : secWord imgSec off k = 0 := fld_zeros _ _ _ _ h
theorem imgSec_tail (o k : Nat) : secWord imgSec (0x3CB40 + o) k = fld imgTail o k := fld_past_zeros _ _ _ _
theorem imgSec_depth (q : Nat) (h : q < 16) : secWord imgSec (0x3CB40 + 4 * q) 4 = if q = 0 then 3 else 0 := by
  rw [imgSec_tail]
  revert q
  decide +kernel
theorem firstOf_none (l : List (Option Nat)) (h : ∀ x ∈ l, x = none) : firstOf l = none := by
  simpa [firstOf, List.findSome?_eq_none_iff] using h
theorem imgSec_check : sectionCheck imgSec = none := by
  unfold sectionCheck
  refine firstOf_none _ fun x hx => ?_
  rw [List.mem_append, List.mem_append, List.mem_append, List.mem_append, List.mem_map, List.mem_map, List.mem_map,
    List.mem_map, List.mem_singleton] at hx
  rcases hx with (((⟨i, hi, e⟩ | ⟨c, hc, e⟩) | ⟨q, hq, e⟩) | ⟨q, hq, e⟩) | e
  · have := List.mem_range.1 hi
    rw [← e]
    unfold taskCheck
    rw [imgSec_zero _ _ (by omega)]
    decide +kernel
  · have := List.mem_range.1 hc
    rw [← e]
    show firstOf [arithCheck (secWord imgSec (0x3CA00 + 16 * c) 4) true, must (secWord imgSec (0x3CA00 + 16 * c + 4) 4 == 0) 0x0134] = none
    rw [imgSec_zero (0x3CA00 + 16 * c) _ (by omega), imgSec_zero (0x3CA00 + 16 * c + 4) _ (by omega)]
    decide +kernel
  · have := List.mem_range.1 hq
    rw [← e]
    unfold outQCheck
    rw [imgSec_zero _ _ (by omega)]
    decide +kernel
  · rw [← e]
    unfold inQCheck
    rw [imgSec_depth q (List.mem_range.1 hq)]
    split <;> decide +kernel
  · have h : (List.range 16).map (fun q => secWord imgSec (0x3CB40 + 4 * q) 4) = (List.range 16).map fun q => if q = 0 then 3 else 0 :=
      List.map_congr_left fun q hq => imgSec_depth q (List.mem_range.1 hq)
    rw [e, h]
    decide +kernel
theorem imgSec_dests : sectionDests imgSec = [] := by
  unfold sectionDests
  rw [List.flatMap_eq_nil_iff]
  intro q hq
  have := List.mem_range.1 hq
  simp only [imgSec_zero (0x3CA40 + 16 * q) 16 (by omega), Nat.zero_mod, if_true]
theorem imgOne_heads : headerCheck imgOne 248752 (fun _ => none) = none ∧ (sectionHeads imgOne 248752 [] (fld imgOne 6 2) 64).toOption = some ([(0, 80, 248672)], 248752) ∧
    fld imgOne 8 4 = 248752 ∧ imgStarts imgOne = [(0, 0)] ∧ imageSpan (fld imgOne) = 248752 := by decide +kernel
theorem imgSec_length : imgSec.length = 248672 := by
  rw [imgSec, List.length_append, zeros_length]
  rfl
theorem imgOne_length : imgOne.length = 248752 := by
  rw [imgOne, List.length_append, imgSec_length]
  rfl
theorem imgHeads_ok : sectionHeads imgOne 248752 [] (fld imgOne 6 2) 64 = .ok ([(0, 80, 248672)], 248752) := by
  have h := imgOne_heads.2.1
  generalize sectionHeads imgOne 248752 [] (fld imgOne 6 2) 64 = e at h
  cases e <;> simp_all [Except.toOption]
theorem imgOne_section : (imgOne.drop 80).take 248672 = imgSec := by
  have h : imgHead.length = 80 := by decide +kernel
  rw [imgOne, ← h, List.drop_left, List.take_of_length_le (Nat.le_of_eq imgSec_length)]
theorem imgOne_fed : fedOk [(0, imgSec)] [] [(0, 0)] = true := by
  unfold fedOk
  rw [List.all_cons, List.all_nil, Bool.and_true, List.all_eq_true]
  intro q hq
  rw [imgSec_depth q (List.mem_range.1 hq)]
  have : ∀ q, q ∈ List.range 16 → ((if q = 0 then 3 else 0) == 0 || ([] : List (Nat × Nat)).contains (0, q) ||
      [((0 : Nat), (0 : Nat))].contains (0, q) || bindsCore imgSec) = true := by
    intro q _
    by_cases h : q = 0
    · subst h; simp
    · simp [h]
  exact this q hq
theorem headerCheck_reach {img : List Byte} {n : Nat} {reach : Nat → Option Nat} (h : headerCheck img n (fun _ => none) = none)
    (hr : reach (fld img 8 4) = none) : headerCheck img n reach = none := by
  unfold headerCheck at *
  rw [hr]
  exact h
theorem image_of_one (s : State) (reach : Nat → Option Nat) (img sec : List Byte) (n a k : Nat)
    (h1 : headerCheck img n reach = none)
    (h2 : sectionHeads img n [] (fld img 6 2) 64 = .ok ([(0, a, k)], n)) (h3 : fld img 8 4 = n)
    (h4 : imgStarts img = [(0, 0)]) (hs : (img.drop a).take k = sec) (hc : sectionCheck sec = none)
    (hd : sectionDests sec = []) (hf : fedOk [(0, sec)] [] [(0, 0)] = true) (hw : 1 ≤ secWord sec (0x3CB40 + 4 * 0) 4)
    (h : (tileSt s 0).mode ≠ .off ∧ (tileSt s 0).graph = 0) : imageCheck s img n reach = .ok [(0, sec)] := by
  have hst : startsOk [(0, sec)] [(0, 0)] = true := by
    generalize hw' : secWord sec (0x3CB40 + 4 * 0) 4 = w at hw
    simp [startsOk, hw'] at *
    omega
  unfold imageCheck
  rw [h1]
  simp only [h2, h3, h4, List.map_cons, List.map_nil, hs, List.flatMap_cons, List.flatMap_nil, hd, List.append_nil, hc, hf, hst]
  simp [firstOf, must, linksOk, h.1, h.2]
theorem witness_HostWork_image (s : State) (f : Buf) (h : (tileSt s 0).mode ≠ .off ∧ (tileSt s 0).graph = 0)
    (hr : imageReach s f 0 248752 = none) :
    imageCheck s imgOne 248752 (imageReach s f 0) = .ok [(0, imgSec)] ∧ imageSpan (fld imgOne) = 248752 ∧ padTo 248752 imgOne = imgOne := by
  obtain ⟨h1, -, h3, h4, h5⟩ := imgOne_heads
  refine ⟨image_of_one s _ _ _ _ _ _ (headerCheck_reach h1 (by rw [h3]; exact hr)) imgHeads_ok h3 h4 imgOne_section imgSec_check imgSec_dests imgOne_fed ?_ h, h5, ?_⟩
  · rw [imgSec_depth 0 (by decide)]
    decide
  · rw [padTo, ← imgOne_length, Nat.sub_self, zeros, List.replicate_zero, List.append_nil, List.take_length]
/-- A module in a state with its input switched on, its envelope as given. -/
def power (st : Nat) (od : List (Nat × Nat)) (f : FloatSt → FloatSt) : State :=
  { credS ((oMODULE_STATE, st) :: od) f id with mod := { (owned []).mod with pins := { Pins.initial with inSwitch := true } } }
theorem witness_PowerUpdates :
    (power 2 [] id).mod.auxUp = true ∧ mainUp (power 2 [] id) = true ∧ mainUp (power 0 [] id) = false ∧
    (power 2 [] id).graphs = [] ∧ odv (power 2 [(oFREQ_MODE, 1), (oFREQ_MODE_ACTIVE, 0)] id) oFREQ_MODE ≠ 0 ∧
    (power 2 [(oFREQ_MODE, 0), (oFREQ_MODE_ACTIVE, 1)] id).flt.steps = [] ∧
    mayRise (power 2 [] id) 0 0 0 = false ∧ mayRise (power 2 [] id) 1 0 0 = false ∧
    bitAt (odv (power 2 [(oRAIL_FLAGS + 256, 2)] id) (oRAIL_FLAGS + 256)) 1 = true ∧
    tfind (power 2 [] fun f => { f with settle := [(1, 7)] }).flt.settle 1 = some 7 ∧
    (power 2 [] fun f => { f with test := some ⟨0, 4, [1], false⟩ }).flt.test = some ⟨0, 4, [1], false⟩ := by decide +kernel
/-- Die 0 at point 5 of dynamic mode with 110 W of core-scaled events, in a mode still to come or the same; every point has
one voltage, so that the leakage, an open value, is the same at each. `raw` is P_raw as the last window gave it. -/
def riseAt (mode raw : Nat) : State :=
  { power 2 [(oFREQ_MODE, mode), (oFREQ_MODE_ACTIVE, 1)]
      fun f => { f with point0 := 5, pLim := 2400000000000, core0 := 110000000000, corr := 2 ^ 32, pRaw := raw } with
    tiles := [(0, { TileSt.initial with mode := .rest })] }
def riseS (mode : Nat) : State := riseAt mode 1
theorem riseS_gap (m : Nat) (h : m = 0 ∨ m = 1) : pointGap (riseS m) 0 6 = 10000000000 := by
  have hv : voltAt (riseS m) 0 6 = 7500 ∧ odv (riseS m) (oDIE_VCORE + 0) = 7500 := by
    rcases h with rfl | rfl <;> decide +kernel
  have hf : fPoint (riseS m) 0 = 5 ∧ fCore (riseS m) 0 = 110000000000 ∧ fOther (riseS m) 0 = 0 ∧ (riseS m).flt.corr = 2 ^ 32 :=
    ⟨rfl, rfl, rfl, rfl⟩
  simp only [pointGap, diePower, calibrated, hv.1, hv.2, hf.1, hf.2.1, hf.2.2.1, hf.2.2.2, powerGap, vScale]
  generalize leakAt (riseS m) 0 7500 = l
  split <;> omega
theorem witness_PowerUpdates_rise :
    mayRise (riseS 1) 0 (pointGap (riseS 1) 0 (fPoint (riseS 1) 0 + 1)) 0 = true ∧ (riseS 1).flt.pRaw ≠ 0 ∧
    mayRise (riseAt 1 0) 0 10000000000 0 = true ∧ creditsOf (riseS 1) 0 (pointGap (riseS 1) 0 (fPoint (riseS 1) 0 + 1)) ≠ 0 ∧
    fPoint (riseS 0) 0 ≠ 12 ∧ tfind (riseS 0).flt.settle 0 = none ∧ (riseS 0).flt.steps = [] ∧ (riseS 0).graphs = [] ∧
    odv (riseS 0) oFREQ_MODE ≠ odv (riseS 0) oFREQ_MODE_ACTIVE ∧
    creditsOf (riseS 0) 0 (pointGap (riseS 0) 0 (if fPoint (riseS 0) 0 < 12 then fPoint (riseS 0) 0 + 1 else 0)) ≠ 0 := by
  have h0 := riseS_gap 0 (.inl rfl)
  have h1 := riseS_gap 1 (.inr rfl)
  have p0 : fPoint (riseS 0) 0 = 5 := rfl
  have p1 : fPoint (riseS 1) 0 = 5 := rfl
  refine ⟨?_, by decide +kernel, by decide +kernel, ?_, ?_⟩
  · simp only [p1, h1]
    decide +kernel
  · simp only [p1, h1]
    decide +kernel
  · simp only [p0, Nat.reduceLT, if_true, Nat.reduceAdd, h0]
    decide +kernel
theorem witness_ThermalBrakeAndDroop :
    (power 2 [] id).mod.owner ≠ none ∧ odv (power 2 [] id) oBRAKE_ACTIVE = 0 ∧
    odv (power 2 [(oBRAKE_ACTIVE, 1)] id) oBRAKE_ACTIVE = 1 ∧ odv (power 2 [(oFREQ_MODE_ACTIVE, 1)] id) oFREQ_MODE_ACTIVE = 1 ∧
    0 ∉ (power 2 [] id).flt.stretch ∧ 1 ∈ (power 2 [] fun f => { f with stretch := [1] }).flt.stretch ∧
    mainUp (power 2 [] id) = true ∧ mainUp (power 0 [] id) = false := by decide +kernel
theorem witness_ProtectionStops :
    (power 2 [] id).mod.auxUp = true ∧ (power 2 [] id).mod.tripLatch = false ∧ mainUp (power 2 [] id) = true ∧
    mainUp (power 0 [] id) = false := by decide +kernel
/-- The engines' states and the owner. -/
def engines (a b o : Nat) (f : TrwSt → TrwSt) : State :=
  { power 2 [(oTROWEL_STATE_A, a), (oTROWEL_STATE_B, b), (oTROWEL_OWNER, o)] id with trw := f TrwSt.initial }
theorem witness_TrowelEngines :
    (∀ o, o < 2 → let s := engines (if o = 0 then 3 else 2) (if o = 0 then 2 else 3) o id
      let t := 1 - trwOwner s
      engState s (1 - t) = 3 ∧ engState s t = 2 ∧ s.trw.mirrored = false ∧ s.trw.due = false) ∧
    engState (engines 1 3 1 id) 0 = 1 ∧ (engines 2 3 1 fun t => { t with due := true }).trw.due = true ∧
    (let s := engines 4 3 1 fun t => { t with autoAt := [(0, 0)] }
     engState s 0 = 4 ∧ 0 ∉ s.trw.held ∧ s.mod.owner ≠ none ∧ tfind s.trw.autoAt 0 = some 0 ∧ s.now < 3600000000000) ∧
    engState (engines 0 3 1 id) 0 = 0 ∧ engState (engines 3 4 0 id) 1 ≠ 2 ∧ mainUp (engines 3 4 0 id) = true := by
  decide +kernel
/-- The eleven rails in a state, with attempts made. -/
def railsS (m st tries : Nat) (low : Bool) : State :=
  { power m ((oSTART_STEP, 3) :: (List.range 11).flatMap fun n =>
      [(railKey oRAIL_STATE n, st), (railKey oSTART_ATTEMPTS n, tries), (oPHASE_STATE + n, 2)]) id with
    trw := { TrwSt.initial with rails := (List.range 11).map fun n => (n, { RailSt.initial with low := low }) } }
theorem witness_TrowelRails :
    (let s := railsS 2 2 1 true
     railState s 0 = 2 ∧ (railSt s 0).low = true ∧ (railSt s 0).hold = false ∧ (railSt s 0).shed = none ∧
     (railSt s 0).add = 0 ∧ 4 < (activePhases s 0).length ∧ issuerQuiet s 0 = true) ∧
    (let s := railsS 1 0 0 false
     groupMayStart s 0 = true ∧ (groupRails 0).all (fun n => decide (railNeeded n ≤ railV s oPHASES_HEALTHY n)) = true) ∧
    groupMayStart (railsS 1 0 0 false) 5 = false ∧
    (∀ st, st < 6 → railState (railsS 1 st 4 false) 10 = st ∧ railV (railsS 1 st 3 false) oSTART_ATTEMPTS 10 = 3) ∧
    bitAt (odv (power 2 [(oBUSCONV_STATE, 15)] id) oBUSCONV_STATE) 3 = true := by decide +kernel
/-- The field network's state of a module that core A owns. -/
def canS (od : List (Nat × Nat)) (f : CanSt → CanSt) : State :=
  { host id od with now := 1000000, can := f CanSt.initial }
theorem witness_FieldNetwork :
    canUp (canS [] id) = true ∧ canUp State.reset = false ∧ inRecovery (canS [] id) = false ∧
    nmtRepeat (canS [] id) 0 1 = false ∧ nmtRepeat (canS [] fun c => { c with nmtLast := [(256 + 1, 999999)] }) 0 1 = true ∧
    odv (canS [(oNMT_STATE, 5)] id) oNMT_STATE = 5 ∧ odv (canS [] id) oRM_NODE_ID < 128 ∧
    odv (canS [] id) oRM_SILENT ≠ 1 ∧ odv (canS [(oRM_SILENT, 1)] id) oRM_SILENT = 1 ∧
    tpdoType (canS [(0x180002, 254)] id) 0 = 254 ∧
    (canS [] fun c => { c with syncAt := some (1, 900000) }).can.syncAt = some (1, 900000) ∧
    (canS [] fun c => { c with emcyQ := [[1], [2]] }).can.emcyQ ≠ [] ∧
    (canS [] fun c => { c with profBusy := some (0, 1, []) }).can.profBusy = some (0, 1, []) ∧
    ([31, 32].all fun n =>
      let s := { objs [] with can := { CanSt.initial with rx := [(1, List.replicate n .sync)] } }
      s.mod.auxUp && s.mod.owner == none && (tget s.can.rx 1 []).length == n) = true := by decide +kernel
theorem witness_UsdoMailboxAndObjects :
    (let s := canS [(oNMT_STATE, 5), (0x140001, 0x200)] fun c => { c with usdo := [(0, ⟨oCAP_TARGET_W, 4, [1], true, false⟩)] }
     s.mod.owner ≠ none ∧ canUp s = true ∧ odv s oNMT_STATE = 5 ∧ (tfind s.can.usdo 0).isSome = true ∧
     tfind s.can.usdo 1 = none ∧ barOpen s = true ∧ (pdoCob s 0x140001).isSome = true) ∧
    odJudge (canS [] id) 2 oCAP_TARGET_W 2 2200 = 0 ∧ domBusy (canS [] id) 2 oCAP_TARGET_W = false ∧
    odJudge (canS [] id) 2 oMODULE_STATE 1 0 ≠ 0 ∧
    (odRead 0 oMODULE_STATE (busAlive 0 (canS [] id))).1 < 0x100 ∧
    (∀ k, k < 4 → (canS [] fun c => { c with mail := { c.mail with busy := true, cmd := k } }).can.mail.cmd = k) ∧
    mailCode { (canS [] id).can.mail with busy := true, cmd := 2, addr := 0x7FFFFFFF } ≠ 0 ∧
    (let s := canS [] fun c => { c with usdo := [(0, ⟨oGAIN_BANK_IMAGE, 50, [], true, false⟩)] }
     s.mod.owner ≠ none ∧ odJudge s 2 oGAIN_BANK_IMAGE 1 0 = 0 ∧ isDomain oGAIN_BANK_IMAGE = true ∧
     domBusy s 2 oGAIN_BANK_IMAGE = true) ∧
    (let e := oCAP_TARGET_W * 256 + 16
     let s := canS [(oNMT_STATE, 5), (0x140001, 0x200), (0x160000, 1), (0x160001, e)] id
     canUp s = true ∧ (pdoCob (busAlive 0 s) 0x140001).isSome = true ∧ mapEntries (busAlive 0 s) 0x1600 (odv s 0x160000) = [e] ∧
     isFiller e = false ∧ entryBits e / 8 = 2 ∧ entryKey e = oCAP_TARGET_W) ∧
    (let m := fun (cmd code key len : Nat) => { (canS [] id).can.mail with
       busy := true, cmd := cmd, code := code, addr := key / 256 + key % 256 * 2 ^ 16 + len * 2 ^ 32 }
     mailCode (m 2 0x570 oFREEZE_NOW 1) = 0 ∧ odJudge (canS [] id) 2 (mailKey (m 2 0x570 oFREEZE_NOW 1)) 1 1 = 0 ∧
     mailCode (m 4 0 oMODULE_STATE 1) = 0 ∧ (odRead 2 (mailKey (m 4 0 oMODULE_STATE 1)) (canS [] id)).1 < 0x100 ∧
     (odRead 2 (mailKey (m 4 0 oMODULE_STATE 1)) (canS [] id)).2.1.length ≤ mailLen (m 4 0 oMODULE_STATE 1)) := by
  decide +kernel
/-- Both connections at a stage, with the identity as given. -/
def spdmS (stage : Nat) (od : List (Nat × Nat)) (f : SecSt → SecSt) : State :=
  { canS od id with sec := f { SecSt.initial with conns := [(0, ⟨stage, none, 0, []⟩), (1, ⟨stage, none, 0, []⟩)] } }
def fwHead : List Byte :=
  leBytes 4 0x50494755 ++ leBytes 2 1 ++ leBytes 2 0 ++ leBytes 4 0 ++ leBytes 4 5 ++ leBytes 4 4096 ++ leBytes 4 3488 ++ zeros 104
theorem witness_Attestation :
    (∀ n, n < 4 → (connOf (spdmS n [] id) 0).stage = n) ∧ (∀ tr, tr < 2 → spdmOpen (spdmS 3 [] id) tr = true) ∧
    spdmOpen State.reset 0 = false ∧ hasChain (spdmS 3 [] fun c => { c with slot1 := [1] }) 1 = true ∧
    hasChain (spdmS 3 [] id) 2 = false ∧ (spdmS 3 [] id).sec.dik = true ∧
    (spdmS 3 [] fun c => { c with dik := false }).sec.dik = false ∧
    rangeCode (spdmS 3 [] id) 0x100000000 64 = 0 ∧ rangeCode (spdmS 3 [] id) 1 64 = 0x01D1 ∧ ctxEarly (spdmS 3 [] id) 0 ⟨1, 0, 5, [], none⟩ = 0x0588 ∧
    ctxEarly (spdmS 3 [(oSEC_MODE, 1)] id) 0 ⟨64, 0, 5, [], none⟩ = 0x01D2 ∧ ctxInUse (spdmS 3 [] id) 63 = false ∧
    ctxInUse { spdmS 3 [] id with hst := { (spdmS 3 [] id).hst with rings := [(0, ⟨0, 0, 2 ^ 22, 0, 1, false, 0, 0⟩)] } } 0
      = true ∧
    (spdmS 3 [] fun c => { c with ops := [.spdm 0 [] [1] (some ([7], [8]))] }).sec.ops ≠ [] ∧
    (let s := spdmS 0 [] fun c => { c with commit := true, slots := [(1, ⟨true, [(0, fwHead)], false⟩)] }
     s.sec.commit = true ∧ stagedSlot s = 1 ∧ fwHeaderOk s 1 = true) ∧
    tfind { (spdmS 3 [] id).meas with measuring := [(1, (0, 64))] }.measuring 1 = some (0, 64) := by decide +kernel
/-- A confidential module whose last quote, of nonce 7, shows the blocks as they are. -/
def quoted : State :=
  let s := spdmS 3 [(oSEC_MODE, 1)] id
  { s with sec := { s.sec with conns := [(0, ⟨3, some [7], s.now, bootBlocks s⟩)] } }
theorem witness_Attestation_context : ctxEarly quoted 0 ⟨63, 0, 5, [7], some (1, 2)⟩ = 0 ∧
    ctxCode quoted 0 ⟨63, 0, 5, [7], some (1, 2)⟩ = 0 := by
  have h1 : confidential quoted = true ∧ ctxInUse quoted 63 = false := by decide +kernel
  have h2 : quoteFresh quoted 0 [7] = true := by
    have : (connOf quoted 0).blocks = bootBlocks quoted := rfl
    have : (connOf quoted 0).nonce = some [7] ∧ quoted.now ≤ (connOf quoted 0).at_ + 60000000000 := by decide +kernel
    simp [quoteFresh, *]
  have h3 : quoteFresh quoted 0 [7#8] = true := h2
  simp [ctxCode, ctxEarly, h1, h3]
/-- The time base, the trace and the breaks as given. -/
def obsS (od : List (Nat × Nat)) (t : TimeSt → TimeSt) (f : ObsSt → ObsSt) : State :=
  { canS od id with tim := t State.reset.tim, obs := f ObsSt.initial }
theorem witness_TimeAndTrace :
    (obsS [] (fun t => { t with collect := true, cands := [(3, 2, -5), (1, 2, 7)] }) id).tim.cands ≠ [] ∧
    (let s := obsS [] (fun t => { t with step := some (-5, 1, 2) }) id
     s.tim.step = some (-5, 1, 2) ∧ s.graphs = [] ∧ s.rem.fes = [] ∧ s.rem.colls = [] ∧
     bitAt (odv s oTIME_FLAGS) 1 = false ∧ mayAlign s = true ∧ s.tim.lostAt = none ∧ s.mod.auxUp = true) ∧
    mayAlign (obsS [(oTIME_FLAGS, 2)] id id) = false ∧ (obsS [] (fun t => { t with lostAt := some 5 }) id).tim.lostAt = some 5 ∧
    (let s := obsS [(oFREEZE_STATE, 1), (oFREEZE_AT, 1000000)] id id
     odv s oFREEZE_STATE = 1 ∧ odv s oFREEZE_AT ≤ s.now) ∧
    (let s := obsS [(oTRACE_STATE, 1), (oTRACE_CTL, 1)] id fun o => { o with trace1 := { TraceDie.initial with wrapped := true } }
     odv s oTRACE_STATE = 1 ∧ traceMode s = 1 ∧ s.obs.trace1.wrapped = true ∧ capturing s = true) ∧
    (let s := obsS [(oTRACE_STATE, 2)] id fun o => { o with trace0 := { TraceDie.initial with post := some 0 } }
     odv s oTRACE_STATE = 2 ∧ s.obs.trace0.post = some 0) ∧
    (obsS [] id id).mod.owner ≠ none ∧ inRecovery (obsS [] id id) = false ∧ inRecovery (obsS [(coreKey 0, 4)] id id) = true ∧
    confidential (obsS [(oSEC_MODE, 1)] id id) = true ∧ capturing (obsS [] id id) = false := by decide +kernel
def brk0 : BreakSt := ⟨5, 0, 2, 4, 9, false⟩
/-- Graph 5 runs on tile 0, which is held at bundle 7; a breakpoint names that bundle. -/
def brkS (f : ObsSt → ObsSt) (od : List (Nat × Nat)) (held : Bool) : State :=
  { obsS ([(oBRK_ENABLE, 1), (oBRK_ADDR + 7, 2 ^ 22 + 7)] ++ od) id f with
    graphs := [(5, graphG (some (runG 2 0)))]
    tiles := [(0, { TileSt.initial with
      mode := .active, graph := 5, run := some ⟨0, 0, 7, [], [], [], [], [], false, held, [], 0, 0, 0⟩ })] }
theorem witness_BreaksAndHangs :
    (let s := brkS id [] true
     brkAddrHitOf s 0 7 [] = some 7 ∧ (tileSt s 0).mode = .active ∧ (tileSt s 0).stopped = none ∧
     bundleWaits (tileSt s 0) (bundleAt (tileSt s 0) 7) = false ∧ brkEnabled s = true ∧ breakOf s 5 = none ∧ s.obs.brk = none) ∧
    breakOf (brkS (fun o => { o with brk := some { brk0 with graph := 6 } }) [] true) 5 = none ∧
    brkAddrHitOf (brkS id [] true) 0 7 [7] = none ∧ brkEnabled (brkS id [(oSEC_MODE, 1)] true) = false ∧
    graphDrained (brkS (fun o => { o with brk := some brk0 }) [] true) 5 = true ∧
    graphDrained (brkS (fun o => { o with brk := some brk0 }) [] false) 5 = false ∧
    (tfind (brkS id [] true).graphs 5) = some (graphG (some (runG 2 0))) ∧ (runG 2 0).hung = false ∧
    odv (brkS id [] true) oHANG_TIMEOUT_MS ≠ 0 ∧ odv (brkS id [(oHANG_TIMEOUT_MS, 0)] true) oHANG_TIMEOUT_MS = 0 := by
  decide +kernel
/-- The module in a state at a start step, its rails as given. -/
def start (st step rail : Nat) : State :=
  let s := owned ([(oMODULE_STATE, st), (oSTART_STEP, step), (coreKey 0, 2)] ++ (List.range 11).map fun n => (railKey oRAIL_STATE n, rail))
  { s with
    now := 100000000
    mod := { s.mod with vinAt := some 0 }
    mem := ⟨[(5, 7), (0x100000005, 9), (0x10000000005, 8)], []⟩ }
def found : StartIn := ⟨[1, 2, 3, 4], [5, 6, 7, 8, 9], none, none, [], true⟩
theorem witness_LifeCycle :
    (let s := State.reset
     s.mod.owner = none ∧ s.mod.everOwned = false ∧ coreState s 0 = 0 ∧ coreState s 1 = 0 ∧ s.mod.auxUp = true) ∧
    (start 0 0 0).mod.owner ≠ none ∧ mayColdStart (start 0 0 0) = true ∧ (start 0 0 0).now < 2 ^ 64 ∧
    slotsOk State.reset (true, false) = (true, false) ∧ mayColdStart (start 2 0 2) = false ∧
    (let s := objs [(coreKey 0, 4), (coreKey 1, 4)]
     s.mod.auxUp = true ∧ s.mod.owner = none ∧ s.mod.everOwned = false ∧ coreState s 0 = 4 ∧ coreState s 1 = 4) ∧
    (∀ k, k < 10 → modState (start 1 k 2) = 1 ∧ odv (start 1 k 2) oSTART_STEP = k) ∧
    (start 1 1 0).trw.held = [] ∧ (∀ p, p ∈ found.failsA → p ∉ found.failsB) ∧ found.failsA.length ≤ 4 ∧
    4 < found.failsB.length ∧ (∀ n, n < 11 → railState (start 1 3 2) n = 2) ∧ railState (start 1 3 1) 10 ≠ 2 ∧
    modState (start 4 0 0) = 4 ∧ (∀ n, n < 11 → railState (start 4 0 0) n = 0) ∧ mainUp (start 2 0 2) = true := by
  decide +kernel
/-- Primer in a state, its erase check as given, with port 0 due for new keys. -/
def primer (st : Nat) (check : Option Nat) (changes : Nat) : State :=
  { owned [(oMODULE_STATE, 3), (oPRIMER_STATE, st), (oSEC_MODE, 3), (pKey oKEY_CHANGES 0, changes), (oREGION_STATE, 2)] with
    sec := { SecSt.initial with check := check, keyed := [(0, 0)], prev := 1 } }
theorem witness_PrimerRuns :
    (∀ k, k < 3 → odv (primer k none 0) oPRIMER_STATE = k ∧ (primer k (some k) 0).sec.check = some k) ∧
    (∀ n, n < 2 → (0, 0) ∈ (primer 2 none n).sec.keyed ∧ pv (primer 2 none n) oKEY_CHANGES 0 = n) ∧
    regionState (ready [(oREGION_STATE, 2)]) 0 = 2 ∧ modState (ready []) = 2 := by decide +kernel
def logR (k : Nat) : LogRec := ⟨k, 2, 3, 4, evLASER_OK_TIMEOUT, 6, 3, 0, 0, 0, 0, 2, 0, 0, 0, 0, 0, 0, 0, []⟩
/-- The cores' states, the owner and the logbook. -/
def cores (a b : Nat) (o : Option Nat) (f : LogSt → LogSt) : State :=
  { objs [(oMODULE_STATE, 2), (coreKey 0, a), (coreKey 1, b)] with
    now := 3600000000001
    mod := { ModSt.initial with owner := o, autoAt := [(1, 1)] }
    log := f LogSt.initial }
theorem witness_ManagementAndLogbook :
    (let s := cores 2 1 (some 0) id
     s.mod.owner = some 0 ∧ coreState s 0 = 2 ∧ coreState s 1 = 1) ∧
    coreState (cores 2 4 (some 0) id) 1 ≠ 1 ∧ coreState (cores 3 2 (some 0) id) 0 ≠ 2 ∧
    (∀ o, o ∈ [none, some 0] → let s := cores 2 3 o id
      s.mod.auxUp = true ∧ coreState s 1 = 3 ∧ tfind s.mod.autoAt 1 = some 1 ∧ ¬s.now < 1 + 3600000000000) ∧
    (cores 3 3 none id).mod.owner = none ∧
    (let s := cores 2 1 (some 0) fun l => { l with queue := [logR 0], wslot := 47, isOpen := false }
     s.log.queue ≠ [] ∧ (s.log.wslot / 16) ∈ s.log.erased ∧ (s.log.wslot + 1) % 16384 % 16 = 0 ∧ s.log.isOpen = false) ∧
    1023 ∈ (cores 2 1 (some 0) fun l => { l with erasing := [1023] }).log.erasing ∧
    inRecovery (cores 2 1 (some 0) id) = false ∧ inRecovery (cores 4 4 (some 0) id) = true ∧
    (let s := cores 2 1 (some 0) fun l => { l with nextSeq := 1, wslot := 1, ring := [(0, (logR 0, true))] }
     heldRec s (tget s.log.readSeq 3 (logTail s)) = some (0, logR 0, true)) ∧
    heldRec (cores 2 1 (some 0) id) 0 = none := by decide +kernel
theorem witness_WritesOfPowerAndFabric :
    (State.reset).mod.owner = none ∧ (ready []).mod.owner ≠ none ∧
    odJudge (ready []) 2 oMODULE_STATE 1 0 ≠ 0 ∧
    ([(oCAP_TARGET_W, 399), (oAUTONOMOUS_CAP_W, 400), (oSAFE_CAP_W, 400), (oSAFE_CAP_CLEAR, 1),
      (oSTEP_TEST, 145), (oTRIP_TEST, 1), (oTROWEL_HANDOVER, 1), (oGAIN_BANK_COMMIT, 1), (oGAIN_BANK_SWAP, 1),
      (oSLEW_LIMIT_CORE0, 100), (railKey oVSET 10, 18000), (railKey oPEAK_CLEAR 10, 1), (enableKey 287, 0), (oFABRIC_DIMS, 16),
      (oNODE_ID, 1), (oMACHINE_ID, 1), (pKey oPORT_ENABLE 15, 0), (pKey oFEC_MODE 15, 1), (pKey oRETRAIN_NOW 15, 1),
      (oREKEY_ALL, 1), (oLASER_RESTART, 1), (oERR_INJECT_ARM, 1), (oMEMBER_REVIVE, 1)].all fun e =>
        odJudge (ready []) 2 e.1 (objSize e.1) e.2 == 0) = true ∧
    ([(oFLOW_LOSS, 1), (oFLOW_LPM, 49)].all fun e => odJudge (ready []) 3 e.1 (objSize e.1) e.2 == 0) = true ∧
    odJudge (ready []) 2 oGAIN_BANK_IMAGE 1 0 = 0 := by decide +kernel
theorem witness_WritesOfTheModule :
    ([(oPROFILE_ACTIVE, 3), (oPROFILE_SAVE, 3), (oPROFILE_FACTORY, 3), (oLINK_AUTH_MODE, 1), (oCONF_MODE_REQUEST, 1),
      (oPRIMER_START, 1), (oFW_STAGE_COMMIT, 1), (oFW_ACTIVATE, 1), (oFREEZE_NOW, 1), (oFREEZE_AT, 1),
      (oFREEZE_RELEASE, 1), 
      (oRESET_REQUEST, 1), (oRESET_REQUEST, 5), (pdoMapIdx 3 * 256, 0)].all fun e =>
        odJudge (ready [(oNMT_STATE, 0x7F)]) 0 e.1 (objSize e.1) e.2 == 0) = true ∧
    ([(oFW_COMMIT_SVN, 1), (oTRACE_CTL, 1), (oTRACE_ARM, 1), (oTRACE_STOP, 1), (oTRACE_TRIGGER, 1), (oBRK_RESUME, 1),
      (oWFG_REQUEST, 5), (oOPC_SELECT + 15, 7)].all fun e => odJudge (ready []) 2 e.1 (objSize e.1) e.2 == 0) = true ∧
    odJudge (ready []) 2 oFW_STAGE_CHUNK 65536 0 = 0 ∧ (ready []).can.profBusy = none ∧ regionState (ready []) 1 ≠ 2 ∧
    (let s := cores 2 1 (some 0) id
     s.mod.owner = some 0 ∧ coreState s 1 = 1) := by decide +kernel
theorem witness_StepRunsFront :
    ({ State.reset with pending := [.brakeRelease, .pace] } : State).pending = .brakeRelease :: [.pace] ∧
    State.reset.pending = [] ∧ State.reset.mod.auxUp = true ∧ State.reset.tim.hold = 0 := by decide +kernel
theorem witness_StepKeepsTidy :
    State.reset.mem.wf = true ∧ ∃ z, step { State.reset with pending := [.brakeRelease] } = .next z :=
  ⟨by decide +kernel, _, rfl⟩
theorem witness_CommandsTouchOnly :
    (∃ z, exec .brakeRelease State.reset = .next z) ∧ (touched .brakeRelease).contains .mem = false :=
  ⟨⟨_, rfl⟩, by decide +kernel⟩
/-- Errors that cannot be corrected at the places a tile's commands read. -/
def marked (a : Nat) : State := { tile0 0 0 id with ecc := { EccSt.initial with marks := [⟨a, 1, false⟩] } }
theorem witness_errors :
    (ueRead (marked (tileBase 0 + 0x40 + 16)) (tileBase 0 + 0x40 + 16) 48).isSome = true ∧
    ueRead (marked 5) (tileBase 0 + 0x40 + 16) 48 = none ∧
    (ueRead { served [] [] with ecc := { EccSt.initial with marks := [⟨switchCell 0, 4, false⟩] } } (switchCell 0) 4).isSome = true ∧
    ueIn (collS 2 [] 1) [(collCell 0, 2 ^ 24)] = none ∧
    ueIn { collS 2 [] 1 with ecc := { EccSt.initial with marks := [⟨collCell 0, 4, false⟩] } } [(collCell 0, 2 ^ 24)] ≠ none := by
  decide +kernel
theorem witness_breaks_held :
    breakHeld (brkS id [] true) 0 ⟨0, 0, 7, [], [], [], [], [], false, true, [], 0, 0, 0⟩ = true ∧
    breakHeld (heldT 0 16) 0 heldRun = false ∧ graphDrained (brkS id [] true) 5 = true := by decide +kernel
theorem witness_channels :
    chanIdle (host id []) 63 100 = true ∧ chanIdle { host id [] with ecc := { EccSt.initial with chanLast := [(63, 0)] } } 63 100 = false := by
  decide +kernel
theorem witness_flits_sent :
    (let x := portOf (portsIn 6 true (fun x => { x with replay := List.replicate 1024 ⟨3, [], []⟩ }) []) 0
     x.again = none ∧ 1024 ≤ x.replay.length) ∧
    (let s := portsIn 6 true (fun x => x) []
     portState s 0 = 6 ∧ (portOf s 0).again = none ∧ (portOf s 0).replay.length < 1024 ∧ keyDue s 0 = false ∧
     (flit 0 true).fseq.val = (portOf s 0).rx % 65536 ∧ (portOf s 0).drain = false) ∧
    (flit 0 true).fseq.val ≠ (portOf (portsIn 6 true (fun x => { x with rx := 4 }) []) 0).rx % 65536 ∧
    (let x := portOf (portsIn 6 true (fun x => { x with drain := true }) []) 0
     x.drain = true ∧ x.txq = [] ∧ ackTo 0 x.replay = []) := by decide +kernel
theorem witness_key_requests :
    (let s := portsIn 6 true (fun x => { x with rx := 2 ^ 19 }) [(oREKEY_LOG2, 20)]
     2 ^ odv s oREKEY_LOG2 / 2 ≤ (portOf s 0).rx % 2 ^ odv s oREKEY_LOG2 ∧ (portOf s 0).sched ≠ nextInterval s (portOf s 0).rx) ∧
    (let s := portsIn 6 true (fun x => { x with rx := 2 ^ 19, sched := 2 ^ 20 }) [(oREKEY_LOG2, 20)]
     (portOf s 0).sched = nextInterval s (portOf s 0).rx) := by decide +kernel
theorem witness_collective_ends :
    (∀ k, k ∈ [2, 2] → endStep (collN 1) ≤ k) ∧ unwireAll 256 [1, 2, 3] = none ∧
    (let d := collN 4
     let r := packRank 5 (cDims d)
     cN d ≤ 2 ∧ ((List.range 64).any fun e => sends d (stepPeer d r 0 2) 0 2 e) = true) := by decide +kernel
theorem witness_completions_in_turn :
    (let s := ringS id id (some ⟨0, 0, 0, 0⟩)
     ∀ e, findCmd s 0 7 = some e → dueWith s e = [e]) := by
  intro s e h
  have : e = { cmdE 1 [] with done := some ⟨0, 0, 0, 0⟩ } := by
    have : findCmd s 0 7 = some { cmdE 1 [] with done := some ⟨0, 0, 0, 0⟩ } := by decide +kernel
    rw [this] at h
    exact (Option.some.inj h).symm
  subst this
  decide +kernel
theorem witness_graphs_at_rest :
    (let c := cmdE 0x10 [(0x20, 2, 5), (0x22, 2, 1)]
     let s := { host id [] with graphs := [(5, graphG none)], cmds := [c] }
     graphTurn s c = true ∧ loadedGraph s 5 = some (graphG none) ∧ loadedGraph s 6 = none) := by decide +kernel
theorem witness_buses :
    busOff (canS [] fun c => { c with errs := [(1, ⟨256, 0⟩)] }) 1 = true ∧ busOff (canS [] id) 1 = false ∧
    canBusState (canS [] fun c => { c with errs := [(1, ⟨256, 0⟩)] }) 1 = 2 ∧
    canBusState (canS [(oCAN_BUS_STATE + 1, 0)] fun c => { c with errs := [(1, ⟨128, 0⟩)] }) 1 = 1 := by decide +kernel
theorem witness_held_requests :
    (let s := { spdmS 3 [] id with mod := { (spdmS 3 [] id).mod with owner := none } }
     s.mod.auxUp = true ∧ s.mod.owner = none ∧ s.hst.linkUp = true ∧ spdmOpen s 1 = false) ∧
    (spdmS 3 [] fun c => { c with ops := [.context 0 ctx0] }).sec.ops = [.context 0 ctx0] ∧
    (spdmS 3 [] fun c => { c with ops := [.setCert 0 [1] true [2]] }).sec.ops = [.setCert 0 [1] true [2]] := by decide +kernel
theorem witness_domain_sessions :
    domBusy (canS [] fun c => { c with usdo := [(0, ⟨oFW_STAGE_CHUNK, 4, [1], true, false⟩)] }) 2 oFW_STAGE_CHUNK = true ∧
    domBusy (canS [] id) 2 oFW_STAGE_CHUNK = false ∧ odv (canS [(oFREEZE_STATE, 2)] id) oFREEZE_STATE = 2 := by decide +kernel
theorem witness_cores_again :
    (let s := { cores 3 3 none id with now := 1000 }
     ∃ t, tfind s.mod.autoAt 1 = some t ∧ s.now < t + 3600000000000) ∧
    1 ∉ (cores 3 3 none id).mod.dead ∧ (cores 3 3 none id).can.rx = [] ∧ (cores 3 3 none id).sec.held = [] := by
  exact ⟨⟨1, by decide +kernel⟩, by decide +kernel⟩
theorem witness_trips :
    (power 2 [] id).mod.auxUp = true ∧ (power 2 [] id).mod.tripLatch = false ∧
    (∀ m, m ∈ ([3, 5] : List (Fin 40)) → 3 ≤ m) := by decide +kernel
theorem witness_mirrors :
    (let m : Mirror := mirrorOf (railsS 2 2 1 true) 10
     m.tries = 1 ∧ drivenState m.st = true) ∧ frameFits (engines 3 2 0 fun t => { t with banks := [(0, [])] }) 0 ERail.initial ERail.initial = true ∧
    frameFits (engines 3 2 0 fun t => { t with banks := [(0, [])] }) 0 { ERail.initial with vhat := 1 } ERail.initial = false ∧
    (engines 3 2 0 fun t => { t with due := true, handover := true }).trw.handover = true ∧
    nearFreq 1000000 1000000 = true ∧ nearFreq 900000 1000000 = false := by decide +kernel
/-! ### What the manual's worked examples and tables say -/

/-- Section 3, "encoding one bundle": the 32 bytes hold these two slots. -/
def bundleEx : Nat := fld ([0x0A, 0, 0, 0, 0, 0, 0, 0x04, 0x43, 0x20, 0x0C, 0, 0, 0, 0, 0, 0, 0x01, 0x01, 0x01, 0x10, 0].map (BitVec.ofNat 8)) 0 32
theorem test_bundle_example :
    enabledSlots bundleEx = [1, 3] ∧ slotBits bundleEx 1 = regBits 0x04 (reg 3 1 2 3 0) ∧
    slotBits bundleEx 3 = immBits 0x01 (imm 1 4 0x100) := by decide +kernel

/-- Section 2, "one MXFP8 E4M3 block": 100.0, -0.3 and 0.001 as FP32, then zeros. -/
theorem test_mxfp8_example :
    (mxQuantise { arithRNE with outFmt := 5 } 0 (([0x42C80000, 0xBE99999A, 0x3A83126F].map (decodeElem fmtFP32)) ++
      List.replicate 29 (decodeElem fmtFP32 0))).1.take 4 = [0x7C, 0xBA, 0x02, 0] ∧
    (mxQuantise { arithRNE with outFmt := 5 } 0 (([0x42C80000, 0xBE99999A, 0x3A83126F].map (decodeElem fmtFP32)) ++
      List.replicate 29 (decodeElem fmtFP32 0))).2.1 = 0x7D := by decide +kernel

/-- Section 2, "stochastic rounding to BF16": 1 + 2^-9 at indices 0 and 1 under SR_SEED 0. -/
theorem test_stochastic_example :
    srValue 0 0 = 0xE220 ∧ srValue 0 1 = 0x6E78 ∧
    [0, 1].map (fun k => (convOut ⟨fmtBF16, rmStochastic, false, false, 0, 0⟩ k (.fin ⟨false, 513, -9⟩)).1) = [0x3F81, 0x3F80] := by
  decide +kernel

/-- Section 2, "one sum in two orders", outside exact mode. -/
theorem test_fadd_orders :
    (fp32Add (fp32Add 0x4B800000#32 0x3F800000#32).1 0xCB800000#32).1 = 0#32 ∧
    (fp32Add 0x4B800000#32 (fp32Add 0x3F800000#32 0xCB800000#32).1).1 = 0x3F800000#32 := by decide +kernel

/-- The same sum in exact mode: both orders end with 1.0, and order B's intermediate is descriptor 0x1010. -/
def ea3 (a b c : Nat) : Ea := (eaAdd (eaAdd (eaOfX (decodeElem 0 a)).1 (eaOfX (decodeElem 0 b)).1).1 (eaOfX (decodeElem 0 c)).1).1
theorem test_exact_orders :
    ea3 0x4B800000 0x3F800000 0xCB800000 = ea3 0x3F800000 0xCB800000 0x4B800000 ∧
    eaWire (ea3 0x4B800000 0x3F800000 0xCB800000) = (0x0010, [0, 0, 1, 0, 0, 0, 0, 0].map (BitVec.ofNat 8)) ∧
    eaWire (eaAdd (eaOfX (decodeElem 0 0x3F800000)).1 (eaOfX (decodeElem 0 0xCB800000)).1).1 =
      (0x1010, [0, 0, 1, 0, 0, 0xFF, 0xFF, 0xFF].map (BitVec.ofNat 8)) ∧
    (eaOut arithRNE 0 (ea3 0x4B800000 0x3F800000 0xCB800000)).1 = 0x3F800000 := by decide +kernel

/-- Section 4, "the five operations on one pair of streams". -/
def keysA : List SetEl := setStream 4 4 0 6 ([3, 5, 5, 5, 9, 12].flatMap (leBytes 4))
def keysB : List SetEl := setStream 4 4 0 6 ([5, 5, 7, 9, 9, 14].flatMap (leBytes 4))
def setOut (op md : Nat) : List Nat := ((setLoop op md 12 0 0 (2 ^ 64) 20 keysA keysB [] 0).out.reverse).map fun b => fld b 0 4
theorem test_set_example :
    setOut 0x10 0 = [5, 5, 9] ∧ setOut 0x10 4 = [5, 9] ∧ setOut 0x11 0 = [3, 5, 5, 5, 7, 9, 9, 12, 14] ∧
    setOut 0x11 8 = [3, 5, 5, 5, 5, 5, 7, 9, 9, 9, 12, 14] ∧ setOut 0x12 0 = [3, 5, 12] := by decide +kernel
def joinOut (sa sb rb : Nat) : List (Nat × Nat) × Nat × Option (Nat × Nat × Nat) :=
  let r := setLoop 0x13 0 5 sa sb (2 ^ 64) 20 (keysA.drop sa) (keysB.drop rb) [] 0
  (r.out.reverse.map fun b => (fld b 0 4, fld b 4 4), r.status, r.more)
theorem test_join_example :
    joinOut 0 0 0 = ([(1, 0), (1, 1), (2, 0), (2, 1), (3, 0)], 0x0010, some (3, 1, 0)) ∧
    joinOut 3 1 0 = ([(3, 1), (4, 3), (4, 4)], 0, none) := by decide +kernel


def nodeX (n : Nat) (down : Option Nat) : State :=
  (List.range 4).foldl (fun s p => if some p = down then s else setPState p 6 s) (ready [(oNODE_ID, n), (oFABRIC_DIMS, 4)])
def hopX (n : Nat) (down : Option Nat) (dst vc last : Nat) (det : Bool) : Option (Nat × Nat × Bool) :=
  (route (nodeX n down) { pkt 0x01 0 0 [] with dst := dst, vc := vc, last := last, detour := det }).map fun r =>
    (r.1, r.2.vc, r.2.detour)
theorem test_route_example_first :
    hopX 0 none 0xB 0 31 false = some (0, 0, false) ∧ hopX 1 (some 1) 0xB 0 0 false = some (3, 0, false) ∧
    hopX 9 none 0xB 0 3 false = some (1, 1, false) := by decide +kernel
theorem test_route_example_second :
    hopX 1 (some 1) 3 0 31 false = some (0, 0, true) ∧ hopX 0 none 3 0 0 true = some (1, 0, true) ∧
    hopX 2 none 3 0 1 true = some (0, 1, true) := by decide +kernel

/-- Section 8, "a confidential 1 MiB copy": the nonce of block 255. -/
theorem test_nonce_example : nonceOf 0x0A17 1 5 0x00010203 255 = 0x00000A174500010203000000 + 255 := by decide +kernel

/-- Section 1, "one die wakes all at once": at the default 20 A/µs a credit falls every 250 ns. -/
theorem test_grant_interval : grantGap (odv State.reset oSLEW_LIMIT_CORE0) = 250 := by decide +kernel

/-! ### Single steps -/

/-- R92, R84: the low 32 bits; a lane outside the mask M1 keeps its value. -/
theorem test_iadd_wraps : after (.iadd 0 (reg 2 0 1 0 1)) (tile0 1 (regBits 0x10 (reg 2 0 1 0 1)) fun x =>
    { x with masks := [(1, 2)], vregs := [(0, [7, 0xFFFFFFFF#32]), (1, [8, 2#32]), (2, [9, 9])] })
    (fun z => (laneAt (vreg (tileSt z 0) 2) 0, laneAt (vreg (tileSt z 0) 2) 1)) = some (9#32, 1#32) := by decide +kernel
/-- R89, R92: the sources are read before the result is written. -/
theorem test_isub_source_is_destination : after (.isub 0 (reg 1 0 1 0 0)) (tile0 1 (regBits 0x11 (reg 1 0 1 0 0)) fun x =>
    { x with vregs := [(0, [3]), (1, [5])] })
    (fun z => laneAt (vreg (tileSt z 0) 1) 0) = some 0xFFFFFFFE#32 := by decide +kernel
/-- R92: SRA keeps the sign, SHR does not. -/
theorem test_shifts_right :
    after (.sra 0 (reg 2 0 1 0 0)) (tile0 1 (regBits 0x1A (reg 2 0 1 0 0)) fun x =>
      { x with vregs := [(0, [0x80000000#32]), (1, [4])] }) (fun z => laneAt (vreg (tileSt z 0) 2) 0) = some 0xF8000000#32 ∧
    after (.shr 0 (reg 2 0 1 0 0)) (tile0 1 (regBits 0x19 (reg 2 0 1 0 0)) fun x =>
      { x with vregs := [(0, [0x80000000#32]), (1, [4])] }) (fun z => laneAt (vreg (tileSt z 0) 2) 0) = some 0x08000000#32 := by
  decide +kernel
/-- R92: division by zero gives an infinity of the operands' sign. -/
theorem test_fdiv_by_zero : after (.fdiv 0 (reg 2 0 1 0 0)) (tile0 1 (regBits 0x09 (reg 2 0 1 0 0)) fun x =>
    { x with vregs := [(0, [0xBF800000#32]), (1, [0])] })
    (fun z => laneAt (vreg (tileSt z 0) 2) 0) = some 0xFF800000#32 := by decide +kernel
/-- R93: ICMPLT is signed and writes the mask. -/
theorem test_icmplt_signed : after (.icmplt 0 (reg 3 0 1 0 0)) (tile0 2 (regBits 0x14 (reg 3 0 1 0 0)) fun x =>
    { x with masks := [(3, 0)], vregs := [(0, [0xFFFFFFFF#32, 1]), (1, [0, 0])] })
    (fun z => mreg (tileSt z 0) 3) = some 1 := by decide +kernel
/-- R96: the immediate is sign-extended to 64 bits. -/
theorem test_sli_sign : after (.sli 0 (imm 4 0 0xFFFFF)) (tile0 5 (immBits 0x01 (imm 4 0 0xFFFFF)) id)
    (fun z => sreg (tileSt z 0) 4) = some (2 ^ 64 - 1) := by decide +kernel
/-- R94, R14: SST stores eight bytes, the lowest first. -/
theorem test_sst_bytes : after (.sst 0 (imm 1 2 8)) (tile0 3 (immBits 0x04 (imm 1 2 8)) fun x =>
    { x with sregs := [(1, 0x0102030405060708), (2, 64)] })
    (fun z => [72, 79, 71, 80].map fun a => memByte z.mem (tileBase 0 + a)) = some [0x08#8, 0x01#8, 0#8, 0#8] := by decide +kernel
/-- R104: a token reaches the queue that the mesh carries it to and leaves the mesh. -/
theorem test_token_arrival : after (.tokenArrival 0 1 0)
    { meshS 0x012 2 with tiles := tput (meshS 0x012 2).tiles 1 { TileSt.initial with iqs := [(2, ⟨4, [], none⟩)] } }
    (fun z => (((tfind (tileSt z 1).iqs 2).map fun q => q.toks.map (·.payload)), z.mesh.toks.length)) = some (some [8], 0) := by
  decide +kernel

/-- R322: 0 to 399 set 400 and answer 0x0011; 2,201 is refused with 0x0103 and the value stays. -/
theorem test_cap_target_clamps : after (.capTargetWrite 2 399) (ready []) (fun z => (z.resp, odv z oCAP_TARGET_W)) = some (0x0011, 400) ∧
    after (.capTargetWrite 2 2201) (ready []) (fun z => (z.resp, odv z oCAP_TARGET_W)) = some (0x0103, 2200) := by decide +kernel
/-- R405: an RO object refuses with 0x01C2; R403: a length that is not the type's with 0x01C3; R404: a path with 0x0450. -/
theorem test_object_write_refusals :
    (odJudge (ready []) 2 oMODULE_STATE 1 0, odJudge (ready []) 2 oCAP_TARGET_W 4 500, odJudge (ready []) 2 oFLOW_LPM 2 49,
      odJudge (ready []) 2 0x500000 1 0) = (0x01C2, 0x01C3, 0x0450, 0x01C0) := by decide +kernel
/-- R223: the peer's node differs from the expected one: HELD with NODE_MISMATCH. -/
theorem test_ident_node_mismatch : after (.identExchange 2 { ident0 with node := 0x12B, port := 3, dims := 12, machine := 0 })
    (portsIn 3 true id [(oNODE_ID, 0x123), (oFABRIC_DIMS, 12), (oMACHINE_ID, 0)])
    (fun z => (portState z 2, pv z oHOLD_REASON 2)) = some (4, 3) := by decide +kernel
/-- R277, R165: bytes written through BAR2 are read back at the module address they map to. -/
theorem test_bar2_write : after (.bar2Write 5 [0xAB#8, 0xCD#8]) { host id [] with hst := { (host id []).hst with bar2 := 0x100000000 } }
    (fun z => (memByte z.mem 0x100000005, memByte z.mem 0x100000006, memByte z.mem 0x100000004)) = some (0xAB#8, 0xCD#8, 0#8) := by decide +kernel
/-- R351: THERMTRIP while the main domain is up ends in TRIPPED. -/
theorem test_thermal_trip : after (.thermalTrip [3, 5]) (power 2 [] id) modState = some 6 := by decide +kernel
/-- R413: NMT stop and start. -/
theorem test_nmt : after (.nmtStop 0) (canS [(oNMT_STATE, 5)] id) (fun z => odv z oNMT_STATE) = some 4 ∧
    after (.nmtStart 0) (canS [(oNMT_STATE, 4)] id) (fun z => odv z oNMT_STATE) = some 5 := by decide +kernel
/-- R475: a write of 1 to FREEZE_NOW freezes. -/
theorem test_freeze : after (.freezeNow 2 1) (ready []) (fun z => odv z oFREEZE_STATE) = some 2 := by decide +kernel
/-- An empty queue idles for one tick of 40 ns (log entry 21). -/
theorem test_idle_tick : (match step State.reset with | .next z => some (z.now, z.pending) | _ => none) = some (40, []) := by
  decide +kernel
/-- R64, R51: 300 to INT8 saturates to 127, and the result differs from the exact value. -/
theorem test_saturation_is_inexact :
    (convOut ⟨fmtINT8, rmNearest, false, false, 0, 0⟩ 0 (.fin ⟨false, 300, 0⟩)) = (127, Nat.lor fSaturated fInexact) := by decide +kernel
/-- R539: TRIPPED shows before a FAULT and a location request; the POWER LED follows AUX. -/
theorem test_status_led :
    (statusLed (owned [(oMODULE_STATE, 6), (oLOCATE_ALL, 1)]), statusLed (owned [(oMODULE_STATE, 5)]),
      statusLed (ready [(oLOCATE_ALL, 1)]), powerLed (ready [])) = (⟨.red, 0⟩, ⟨.red, 4⟩, ⟨.blue, 4⟩, ⟨.green, 0⟩) := by decide +kernel
/-- R229: a response of the front ends of die 1 that arrives at a port of half 0 is granted over the die bridge first. -/
theorem test_bridge_crossing :
    (let p := { pkt 0x81 0 0 [] with dst := 5, rtag := 9 * 4096 }
     let s := { node5 with fab := { node5.fab with sw := [⟨0, some (0, 2), false, p⟩] } }
     (List.range 24).filter fun o => (bestCand s 0 (candsOf s o 0 s.fab.sw [])).isSome) = [18] := by decide +kernel

end Sys2Proof.Tests
end

section
/-! The firing of tasks and their end: the choice of R24, the window of R107, what the taking up of bundles keeps of a firing,
and the credits that the end of a task returns (R108). -/
namespace Sys2Proof.Machine
open Sys2Proof

/-- Induction on a list from its end. -/
theorem list_concat_induction {α : Type} {P : List α → Prop} (nil : P []) (concat : ∀ l a, P l → P (l ++ [a]))
    (l : List α) : P l := by
  have h (r : List α) : P r.reverse := by
    induction r with
    | nil => exact nil
    | cons a r ih => rw [List.reverse_cons]; exact concat _ a ih
  exact l.reverse_reverse ▸ h l.reverse

/-! ### The task that R24 chooses -/

/-- One step of the choice: a task that has waited longer takes the place of the best one so far. -/
def longerWait (wait : Nat → Nat) (b : Option (Nat × Nat)) (i : Nat) : Option (Nat × Nat) :=
  match b with
  | none => some (i, wait i)
  | some (j, w) => if w < wait i then some (i, wait i) else some (j, w)

theorem pickTask_eq_foldl (s : State) (x : TileSt) :
    pickTask s x = (readyTasks x).foldl (longerWait (taskWait s x)) none := rfl

/-- The first of those elements of a list that have waited longest, with its waiting time; none of an empty list. -/
def FirstLongest (wait : Nat → Nat) (l : List Nat) : Option (Nat × Nat) → Prop
  | none => l = []
  | some (i, w) => i ∈ l ∧ w = wait i ∧ ∀ j, j ∈ l → wait j ≤ w ∧ (wait j = w → i ≤ j)

theorem firstLongest_foldl (wait : Nat → Nat) (l : List Nat) (hl : l.Pairwise (· < ·)) :
    FirstLongest wait l (l.foldl (longerWait wait) none) := by
  induction l using list_concat_induction with
  | nil => rfl
  | concat l k ih =>
    rw [List.pairwise_append] at hl
    obtain ⟨hl, -, hlt⟩ := hl
    have hk (j : Nat) (hj : j ∈ l) : j < k := hlt j hj k (List.mem_singleton_self k)
    rw [List.foldl_append, List.foldl_cons, List.foldl_nil]
    have best := ih hl
    generalize l.foldl (longerWait wait) none = b at best ⊢
    match b, best with
    | none, best => simp only [FirstLongest] at best; subst best; simp [longerWait, FirstLongest]
    | some (i, w), ⟨hi, hw, best⟩ =>
      by_cases h : w < wait k
      · simp only [longerWait, if_pos h, FirstLongest, List.mem_append, List.mem_singleton, or_true, true_and]
        rintro j (hj | rfl)
        · have := (best j hj).1; omega
        · omega
      · simp only [longerWait, if_neg h, FirstLongest, List.mem_append, List.mem_singleton]
        refine ⟨.inl hi, hw, ?_⟩
        rintro j (hj | rfl)
        · exact best j hj
        · have := hk i hi; omega

theorem mem_readyTasks {x : TileSt} {i : Nat} : i ∈ readyTasks x ↔ x.graph ≠ 0 ∧ i < 32 ∧ taskReady x i = true := by
  unfold readyTasks; split <;> simp_all

theorem pairwise_readyTasks (x : TileSt) : (readyTasks x).Pairwise (· < ·) := by
  unfold readyTasks
  split
  · exact .nil
  · exact List.Pairwise.filter _ List.pairwise_lt_range

/-- R24: the choice is a ready task that has waited longest, the lowest-numbered of those. -/
theorem pickTask_firstLongest (s : State) (x : TileSt) : FirstLongest (taskWait s x) (readyTasks x) (pickTask s x) :=
  pickTask_eq_foldl s x ▸ firstLongest_foldl _ _ (pairwise_readyTasks x)

/-! ### The window (R107) -/

theorem takeTokens_fst (t q n : Nat) (s : State) : (takeTokens t q n s).1 = (iqToks (tileSt s t) q).take n := by
  unfold takeTokens iqToks; dsimp only; split <;> simp_all

theorem iqToks_takeTokens {q k : Nat} (h : q ≠ k) (t n : Nat) (s : State) :
    iqToks (tileSt (takeTokens t q n s).2 t) k = iqToks (tileSt s t) k := by
  unfold takeTokens
  dsimp only
  split
  · rfl
  · split <;>
    · simp only [tileSt, setTile, tget_tput_same, iqToks, tfind_tput_other _ _ h]

/-- Entries that name different queues each take the oldest tokens of their queue. -/
theorem takeAll_fst (t : Nat) (es : List (Nat × Nat)) (s : State) (h : (es.map (·.1)).Nodup) :
    (takeAll t es s).1 = es.flatMap fun e => (iqToks (tileSt s t) e.1).take e.2 := by
  induction es generalizing s with
  | nil => rfl
  | cons e r ih =>
    obtain ⟨q, n⟩ := e
    obtain ⟨hq, hr⟩ := List.nodup_cons.1 h
    simp only [takeAll, ih _ hr, takeTokens_fst, List.flatMap_cons]
    rw [List.flatMap_def, List.flatMap_def]
    refine congrArg (_ ++ List.flatten ·) (List.map_congr_left fun e he => ?_)
    have hne : q ≠ e.1 := by rintro rfl; exact hq (List.mem_map_of_mem (f := (·.1)) he)
    rw [iqToks_takeTokens hne]

/-! ### What stays of a firing -/

/-- What a firing keeps while its bundles are taken up: its task and window, and the registers. -/
def firingOf (x : TileSt) : Option (Nat × Nat × List Token) × Table (List Lane) × Table Nat × Table Nat × Table Bool ×
    Table Ea × Table Carry × Table BankSt :=
  (x.run.map fun r => (r.task, r.opId, r.window), x.vregs, x.sregs, x.masks, x.preds, x.laccs, x.carries, x.banks)

theorem tileSt_of_within {T : List Part} {o s : State} (h : Within T o s) (hT : T.contains .tiles = false) (t : Nat) :
    tileSt s t = tileSt o t := tileSt_congr (within_f_tiles h hT) t

@[simp] theorem tileSt_modGraph (s : State) (h t : Nat) (f : GraphSt → GraphSt) :
    tileSt (modGraph s h f) t = tileSt s t :=
  tileSt_of_within (within_modGraph [.graphs] s rfl s h f (within_refl _ s)) rfl t

@[simp] theorem tileSt_progress (h t : Nat) (s : State) : tileSt (progress h s) t = tileSt s t :=
  tileSt_of_within (within_progress [.graphs] s rfl h s (within_refl _ s)) rfl t

@[simp] theorem tileSt_trace (g ty src op l a b t : Nat) (s : State) :
    tileSt (trace g ty src op l a b s) t = tileSt s t :=
  tileSt_congr (trace_tiles ..) t

@[simp] theorem tileSt_modFlt (f : FloatSt → FloatSt) (t : Nat) (s : State) : tileSt (modFlt f s) t = tileSt s t := rfl

@[simp] theorem tileSt_correctAll (rs : List (Nat × Nat)) (t : Nat) (s : State) :
    tileSt (correctAll rs s) t = tileSt s t :=
  tileSt_of_within (within_correctAll [.od, .ecc, .obs, .log, .frz] s rfl rs s (within_refl _ s)) rfl t

@[simp] theorem tileSt_ueRecord (m : UeMet) (c : EvCmd) (t : Nat) (s : State) : tileSt (ueRecord m c s) t = tileSt s t :=
  tileSt_of_within (within_ueRecord [.od, .out, .ecc, .obs, .log, .frz, .can] s rfl m c s (within_refl _ s)) rfl t

@[simp] theorem tileSt_opcCount (b op n t : Nat) (s : State) : tileSt (opcCount b op n s) t = tileSt s t :=
  tileSt_of_within (within_opcCount [.od] s rfl b op n s (within_refl _ s)) rfl t

@[simp] theorem tileSt_countTask (u op n t : Nat) (s : State) : tileSt (countTask u op n s) t = tileSt s t :=
  tileSt_of_within (within_countTask [.od] s rfl u op n s (within_refl _ s)) rfl t

/-- A tile that starts Filler changes its level, its time and its last power alone. -/
theorem tileSt_startFiller (t : Nat) (s : State) :
    tileSt (startFiller t s) t = { tileSt s t with
      filler := some (fillLevel s (dieOf t) (lastPower (tileSt s t) s).1), fillAt := s.now
      pLast := some (lastPower (tileSt s t) s).1 } := by
  unfold startFiller; dsimp only; split <;> simp

theorem firingOf_breakFill (t : Nat) (s : State) : firingOf (tileSt (breakFill t s) t) = firingOf (tileSt s t) := by
  unfold breakFill
  split
  · rw [tileSt_startFiller]; rfl
  · rfl

/-- R121: an exception keeps the firing's task and window, and its registers. -/
theorem firingOf_tileExc (t c : Nat) (ue : Option UeMet) (s : State) :
    firingOf (tileSt (tileExc t c ue s) t) = firingOf (tileSt s t) := by
  have e (z : State) (b d : Nat) : tileSt (freezeSource b (traceEvent d z)) t = tileSt z t :=
    tileSt_congr ((freezeSource_tiles ..).trans (traceEvent_tiles ..)) t
  unfold tileExc
  rw [e]
  cases ue <;> simp [firingOf, Function.comp_def]

theorem firingOf_settle (t fuel : Nat) (s : State) : firingOf (tileSt (settle fuel t s) t) = firingOf (tileSt s t) := by
  induction fuel generalizing s with
  | zero => simp [settle, firingOf, Function.comp_def]
  | succ n ih =>
    unfold settle
    dsimp only
    cases hr : (tileSt s t).run with
    | none => rfl
    | some r =>
      dsimp only
      -- Each way on is an exception, Filler under a break, or a write of `run` that keeps the firing, perhaps gone on from.
      repeat' split
      all_goals
        simp only [firingOf_breakFill, firingOf_tileExc, ueTile, ih, tileSt_setTile_same, tileSt_correctAll]
      all_goals simp [firingOf, hr]

/-! ### The end of a task (R108) -/

/-- What the end of a task leaves and its later steps keep: no run, the last power and the OP_ID that ran last. -/
def endedAs (x : TileSt) : Option Run × Option Nat × Nat := (x.run, x.pLast, x.lastOp)

/-- A tile's state replaced by one that agrees with it in a field leaves that field of every tile as it was. -/
theorem field_setTile {α : Type} (f : TileSt → α) {s : State} {t : Nat} {x : TileSt} (h : f x = f (tileSt s t))
    (u : Nat) :
    f (tileSt (setTile s t x) u) = f (tileSt s u) := by
  rw [tileSt_setTile]; split
  · subst_vars; exact h
  · rfl

theorem field_raiseReq {α : Type} (f : TileSt → α)
    (hf : ∀ (x : TileSt) q, f { x with req := q, reqSat := false, entry := false } = f x) (t u : Nat) (s : State) :
    f (tileSt (raiseReq t s) u) = f (tileSt s u) := by
  unfold raiseReq
  dsimp only
  repeat' split
  · rfl
  · rw [tileSt_trace]; exact field_setTile f (hf _ _) u
  · rfl

theorem endedAs_startToken {tag t q : Nat} {s z : State} (h : startToken tag t q s = some z) (u : Nat) :
    endedAs (tileSt z u) = endedAs (tileSt s u) := by
  have put (y : State) (qs : Table InQ) (g : Nat) :
      endedAs (tileSt (raiseReq t (progress g (setTile y t { tileSt y t with entry := false, iqs := qs }))) u)
        = endedAs (tileSt y u) := by
    rw [field_raiseReq endedAs (fun _ _ => rfl), tileSt_progress]; exact field_setTile endedAs (by rfl) u
  unfold startToken at h
  dsimp only at h
  repeat' split at h
  all_goals simp only [Option.some.injEq, reduceCtorEq] at h
  · rw [h]
  · subst h; exact put ..
  · subst h; exact (put ..).trans (field_setTile endedAs (by rfl) u)

theorem endedAs_feedStarts (h tag : Nat) (l : List (Nat × Nat)) (s : State) (u : Nat) :
    endedAs (tileSt (feedStarts h tag l s) u) = endedAs (tileSt s u) := by
  induction l generalizing s with
  | nil => rfl
  | cons e r ih =>
    simp only [feedStarts]
    split
    · rw [ih, endedAs_startToken ‹_›]
    · rw [ih, tileSt_modGraph]

theorem endedAs_flushStarts (h : Nat) (s : State) (u : Nat) :
    endedAs (tileSt (flushStarts h s) u) = endedAs (tileSt s u) := by
  unfold flushStarts
  repeat' split
  · rw [endedAs_feedStarts, tileSt_modGraph]
  · rfl
  · rfl

/-- R103: where no start token of the graph waits for a credit, no tile changes. -/
theorem tileSt_flushStarts_idle {h : Nat} {s : State} (hp : ∀ g, tfind s.graphs h = some g → g.pend = []) (u : Nat) :
    tileSt (flushStarts h s) u = tileSt s u := by
  unfold flushStarts
  repeat' split
  · rw [hp _ ‹_›]; simp [feedStarts]
  · rfl
  · rfl

/-- A tile whose last power is known enters Filler without changing it, its task or its queues. -/
theorem field_enterFiller {α : Type} (f : TileSt → α)
    (hf : ∀ (x : TileSt) l a, f { x with filler := l, fillAt := a } = f x)
    {t p : Nat} {s : State} (hp : (tileSt s t).pLast = some p) : f (tileSt (enterFiller t s) t) = f (tileSt s t) := by
  have hl : (lastPower (tileSt s t) s).1 = p := by unfold lastPower; rw [hp]
  unfold enterFiller
  dsimp only
  split
  · rw [tileSt_startFiller, hl, ← hp]; exact hf ..
  · rfl

theorem tfind_moveCredits (t q n j : Nat) (s : State) :
    tfind (tileSt (moveCredits t q n true s) t).oqs j =
      (tfind (tileSt s t).oqs j).map fun o => if j = q then { o with credits := o.credits.map (· + n) } else o := by
  unfold moveCredits
  dsimp only
  split
  · next h => by_cases hj : j = q <;> simp [hj, h]
  · next o h =>
    by_cases hj : j = q
    · subst hj; simp [h]
    · simp [tfind_tput, hj, Ne.symm hj]

theorem graphs_moveCredits (t q n : Nat) (g : Bool) (s : State) : (moveCredits t q n g s).graphs = s.graphs := by
  unfold moveCredits; dsimp only; split <;> rfl

theorem graphs_returnCredits (t : Nat) (l : List (Nat × Nat)) (s : State) :
    (l.foldl (fun s e => moveCredits t e.1 e.2 true s) s).graphs = s.graphs := by
  induction l generalizing s with
  | nil => rfl
  | cons e r ih => rw [List.foldl_cons, ih, graphs_moveCredits]

/-- An output queue that no entry names keeps its credits. -/
theorem tfind_returnCredits_other (t j : Nat) (l : List (Nat × Nat)) (s : State) (h : j ∉ l.map (·.1)) :
    tfind (tileSt (l.foldl (fun s e => moveCredits t e.1 e.2 true s) s) t).oqs j = tfind (tileSt s t).oqs j := by
  induction l generalizing s with
  | nil => rfl
  | cons e r ih =>
    simp only [List.map_cons, List.mem_cons, not_or] at h
    rw [List.foldl_cons, ih _ h.2, tfind_moveCredits]; simp [h.1]

/-- R108: entries that name different queues each return their count to every destination of their queue. -/
theorem tfind_returnCredits (t : Nat) (l : List (Nat × Nat)) (s : State) (hl : (l.map (·.1)).Nodup) {e : Nat × Nat}
    (he : e ∈ l) {o : OutQ} (ho : tfind (tileSt s t).oqs e.1 = some o) :
    tfind (tileSt (l.foldl (fun s e => moveCredits t e.1 e.2 true s) s) t).oqs e.1 =
      some { o with credits := o.credits.map (· + e.2) } := by
  induction l generalizing s with
  | nil => cases he
  | cons d r ih =>
    rw [List.map_cons, List.nodup_cons] at hl
    rw [List.foldl_cons]
    rcases List.mem_cons.1 he with rfl | he
    · rw [tfind_returnCredits_other _ _ _ _ hl.1, tfind_moveCredits, ho]; simp
    · have hne : e.1 ≠ d.1 := fun h => hl.1 (h ▸ List.mem_map_of_mem he)
      exact ih _ hl.2 he (by rw [tfind_moveCredits, ho]; simp [hne])

/-- R334: counting a task's running time changes the time from which it is counted on alone. -/
theorem tileSt_countRan {t : Nat} {s : State} {r : Run} (hr : (tileSt s t).run = some r) :
    tileSt (countRan t s) t = { tileSt s t with run := some { r with at_ := s.now } } := by
  unfold countRan; dsimp only; rw [hr]; simp

theorem graphs_countRan (t : Nat) (s : State) : (countRan t s).graphs = s.graphs := by
  unfold countRan; dsimp only; split <;> rfl

/-! ### Firing and end, as commands -/

section
variable {t i wt : Nat} {s : State}

/-- R105, R107: what a firing reads of its tile's storage: its task's descriptor and a word of each input queue. -/
def fireCells (t i : Nat) (x : TileSt) : List (Nat × Nat) :=
  (storeCell t (0x3C000 + 16 * i), 16) :: (taskIns (taskAt x i)).map fun e => (queueCell t e.1, 4)

variable (hm : (tileSt s t).mode = .active) (hc : (tileSt s t).credit = true) (hr : (tileSt s t).run = none)
  (hs : mayStart s t = true) (hp : pickTask s (tileSt s t) = some (i, wt))
include hm hc hr hs hp

theorem taskFire_of_error {m : UeMet} (hu : ueIn s (fireCells t i (tileSt s t)) = some m) :
    taskFire t s = ueTile t m (correctAll (fireCells t i (tileSt s t)) s) := by
  unfold fireCells at hu ⊢
  unfold taskFire
  dsimp only
  rw [if_pos ⟨hm, hc, hr, hs⟩, hp]
  dsimp only
  rw [hu]

/-- R106, R107: the firing that begins: the chosen task with its window, and every register open. -/
theorem firingOf_taskFire (hu : ueIn s (fireCells t i (tileSt s t)) = none) :
    firingOf (tileSt (taskFire t s) t) = (some (i, taskOpId (taskAt (tileSt s t) i),
      (takeAll t (taskIns (taskAt (tileSt s t) i)) (correctAll (fireCells t i (tileSt s t)) s)).1),
      [], [], [], [], [], [], []) := by
  unfold fireCells at hu ⊢
  unfold taskFire
  dsimp only
  rw [if_pos ⟨hm, hc, hr, hs⟩, hp]
  dsimp only
  rw [hu]
  dsimp only
  rw [firingOf_settle]
  simp [firingOf, odAdd]

end

/-- A field that neither a request nor Filler touches stays through the last steps of a task's end. -/
theorem field_endSteps {α : Type} (f : TileSt → α)
    (hr : ∀ (x : TileSt) q, f { x with req := q, reqSat := false, entry := false } = f x)
    (hl : ∀ (x : TileSt) l a, f { x with filler := l, fillAt := a } = f x) {t p : Nat} (op k cyc l : Nat) {s : State}
    (hp : (tileSt s t).pLast = some p) :
    f (tileSt (enterFiller t (raiseReq t (trace 0 0x02 (srcTile t) op l k cyc (countTask t op cyc s)))) t) =
      f (tileSt s t) := by
  have same {β : Type} (h : TileSt → β)
      (hh : ∀ (x : TileSt) q, h { x with req := q, reqSat := false, entry := false } = h x) :
      h (tileSt (raiseReq t (trace 0 0x02 (srcTile t) op l k cyc (countTask t op cyc s))) t) = h (tileSt s t) := by
    rw [field_raiseReq h hh, tileSt_trace, tileSt_countTask]
  rw [field_enterFiller f hl ((same TileSt.pLast fun _ _ => rfl).trans hp), same f hr]

section
variable {t : Nat} {s : State} {r : Run} (cyc p : Nat) (hr : (tileSt s t).run = some r) (he : r.ending = true)
  (hs : (tileSt s t).stopped = none) (hm : (tileSt s t).mats = []) (hd : (tileSt s t).dmas = [])
  (hi : (tileSt s t).irrs = [])

/-- R108: the state in which a task has returned the credits it did not use and has left its tile. -/
def taskLeft (t p : Nat) (r : Run) (s : State) : State :=
  let s1 := r.resv.foldl (fun s e => moveCredits t e.1 e.2 true s) (countRan t s)
  setTile s1 t { tileSt s1 t with run := none, pLast := some p, lastOp := r.opId }

include hr he hs hm hd hi

theorem taskEnd_eq : ∃ l, taskEnd t cyc p s = enterFiller t (raiseReq t (trace 0 0x02 (srcTile t) r.opId l r.task cyc
    (countTask t r.opId cyc (flushStarts (tileSt s t).graph (taskLeft t p r s))))) := by
  unfold taskEnd taskLeft
  dsimp only
  rw [tileSt_countRan hr]
  dsimp only
  rw [if_pos ⟨he, hs, hm, hd, hi⟩]
  exact ⟨_, rfl⟩

/-- R108: a task that ends leaves its tile without a run, with its power and its OP_ID noted. -/
theorem endedAs_taskEnd : endedAs (tileSt (taskEnd t cyc p s) t) = (none, some p, r.opId) := by
  obtain ⟨l, e⟩ := taskEnd_eq cyc p hr he hs hm hd hi
  have h : endedAs (tileSt (flushStarts (tileSt s t).graph (taskLeft t p r s)) t) = (none, some p, r.opId) := by
    rw [endedAs_flushStarts]; simp [taskLeft, endedAs]
  rw [e, field_endSteps endedAs (fun _ _ => rfl) (fun _ _ _ => rfl) _ _ _ _ (congrArg (·.2.1) h), h]

/-- R108: where no start token waits for them, a task that ends gives back the credits that it did not use. -/
theorem tfind_oqs_taskEnd (hn : (r.resv.map (·.1)).Nodup)
    (hg : ∀ g, tfind s.graphs (tileSt s t).graph = some g → g.pend = []) {e : Nat × Nat} {o : OutQ} (hin : e ∈ r.resv)
    (ho : tfind (tileSt s t).oqs e.1 = some o) :
    tfind (tileSt (taskEnd t cyc p s) t).oqs e.1 = some { o with credits := o.credits.map (· + e.2) } := by
  obtain ⟨l, eq⟩ := taskEnd_eq cyc p hr he hs hm hd hi
  have hleft : tileSt (flushStarts (tileSt s t).graph (taskLeft t p r s)) t = tileSt (taskLeft t p r s) t := by
    refine tileSt_flushStarts_idle (fun g h => hg g ?_) t
    simpa [taskLeft, graphs_returnCredits, graphs_countRan] using h
  rw [eq, field_endSteps TileSt.oqs (fun _ _ => rfl) (fun _ _ _ => rfl) (p := p) _ _ _ _
      (by rw [hleft]; simp [taskLeft]), hleft, taskLeft, tileSt_setTile_same]
  exact tfind_returnCredits t r.resv _ hn hin (by rw [tileSt_countRan hr]; exact ho)

end

/-- Settles O21: the choice as the running maximum of a search in rising order, the firing as what the taking up of its
bundles keeps, and the end as the credits returned entry by entry. -/
theorem taskFiresAndEnds : Obligations.TaskFiresAndEnds := by
  refine ⟨fun s x i w h => ?_, fun t s => ⟨fun i wt hm hc hr hs hp => ⟨fun m hu => ?_, fun hu => ?_⟩, ?_⟩⟩
  · have best := pickTask_firstLongest s x
    rw [h] at best
    obtain ⟨hi, hw, hbest⟩ := best
    obtain ⟨hg, hlt, hready⟩ := mem_readyTasks.1 hi
    exact ⟨hlt, hready, hw, fun j hj hjr => hbest j (mem_readyTasks.2 ⟨hg, hj, hjr⟩)⟩
  · exact congrArg Host.Outcome.next (taskFire_of_error hm hc hr hs hp hu)
  · have hf := firingOf_taskFire hm hc hr hs hp hu
    simp only [firingOf, Prod.mk.injEq] at hf
    obtain ⟨hrun, hv, hsr, hmk, hpr, hla, hca, hb⟩ := hf
    obtain ⟨r, hr', he⟩ := Option.map_eq_some_iff.1 hrun
    simp only [Prod.mk.injEq] at he
    obtain ⟨htask, hop, hwin⟩ := he
    refine ⟨_, r, rfl, hr', htask, hop, fun hn => ?_, hv, hsr, hmk, hpr, hla, hca, hb, ?_⟩
    · rw [hwin, takeAll_fst _ _ _ hn, tileSt_correctAll]
    · exact within_f_mem (within_taskFire (touched (.taskFire t)) s rfl t s (within_refl _ s)) rfl
  · intro cyc p r hr he hs hm hd hi
    have hend := endedAs_taskEnd cyc p hr he hs hm hd hi
    simp only [endedAs, Prod.mk.injEq] at hend
    obtain ⟨hrun, hlast, hop⟩ := hend
    refine ⟨_, rfl, hrun, hlast, hop, ?_, fun hn hg e o => tfind_oqs_taskEnd cyc p hr he hs hm hd hi hn hg⟩
    exact within_f_mem (within_taskEnd (touched (.taskEnd t cyc p)) s rfl t cyc p s (within_refl _ s)) rfl

end Sys2Proof.Machine
end

section
/-! The frame of the writes of power, rails, tiles and fabric in the dictionary: which objects their steps leave alone, and
what they leave in those that they write. -/
namespace Sys2Proof.Machine
open Sys2Proof

/-! ### Bits of a word -/

/-- A bit of a word in which one bit has been replaced. -/
theorem bitAt_setBits_one (w lo v i : Nat) :
    bitAt (setBits w lo 1 v) i = if i = lo then v % 2 == 1 else bitAt w i := by
  have hb (x j : Nat) : bitAt x j = x.testBit j := by
    rw [bitAt, Nat.testBit_eq_decide_div_mod_eq, Nat.shiftRight_eq_div_pow, Bool.beq_eq_decide_eq]
  have hpos : 0 < 2 ^ lo := Nat.two_pow_pos lo
  have hw : 2 ^ lo * (w / 2 ^ lo) + w % 2 ^ lo = w := Nat.div_add_mod ..
  have hq : w / 2 ^ lo % 2 ≤ w / 2 ^ lo := Nat.mod_le ..
  have hset : setBits w lo 1 v = 2 ^ lo * (w / 2 ^ lo - w / 2 ^ lo % 2 + v % 2) + w % 2 ^ lo := by
    rw [setBits, Nat.shiftRight_eq_div_pow, Nat.pow_one, Nat.mul_add, Nat.mul_sub, Nat.mul_comm _ (2 ^ lo),
      Nat.mul_comm (v % 2)]
    have := Nat.mul_le_mul_left (2 ^ lo) hq
    omega
  rw [hb, hb, hset]
  rw [Nat.testBit_two_pow_mul_add _ (Nat.mod_lt _ hpos)]
  rcases Nat.lt_trichotomy i lo with h | rfl | h
  · rw [if_pos h, if_neg (by omega), Nat.testBit_mod_two_pow, decide_eq_true h, Bool.true_and]
  · rw [if_neg (Nat.lt_irrefl i), if_pos rfl, Nat.sub_self, Nat.testBit_zero, Bool.beq_eq_decide_eq]
    congr 2; omega
  · obtain ⟨j, rfl⟩ : ∃ j, i = j + 1 + lo := ⟨i - lo - 1, by omega⟩
    rw [if_neg (by omega), if_neg (by omega), Nat.add_sub_cancel, Nat.testBit_add _ (j + 1) lo, Nat.testBit_add_one,
      Nat.testBit_add_one]
    congr 1; omega

theorem bitAt_odBit (s : State) (k b i : Nat) (v : Bool) :
    bitAt (odv (odBit s k b v) k) i = if i = b then v else bitAt (odv s k) i := by
  unfold odBit
  rw [odv_odSet_same, bitAt_setBits_one]
  cases v <;> rfl

theorem odv_odBit_other (s : State) {k j : Nat} (b : Nat) (v : Bool) (h : k ≠ j) : odv (odBit s k b v) j = odv s j :=
  odv_odSet_other _ _ h

/-! ### A write told on its path -/

/-- R433: the objects of the last status that a path was told. -/
def statusKey (k : Nat) : Bool := decide (oOD_LAST_STATUS ≤ k ∧ k < oOD_LAST_STATUS + 3)

theorem odv_tell {k : Nat} (hk : statusKey k = false) (path c : Nat) (s : State) : odv (tell path c s) k = odv s k := by
  unfold tell
  dsimp only
  split
  · have h : oOD_LAST_STATUS + path ≠ k := by
      rintro rfl; simp only [statusKey, decide_eq_false_iff_not] at hk; omega
    rw [odv_odSet_other _ _ h]; rfl
  · rfl

@[simp] theorem tell_resp (path c : Nat) (s : State) : (tell path c s).resp = c := by
  unfold tell; dsimp only; split <;> rfl

/-- R405: what the rule of a write that has passed R405's checks gives: its code; an error changes nothing, and a success,
once told, has `Q`. -/
def Ruled (path code : Nat) (Q : State → Prop) (s : State) (r : Nat × State) : Prop :=
  r.1 = code ∧ (0x100 ≤ code → r.2 = s) ∧ (code < 0x100 → Q (tell path code r.2))

section
variable {path code c1 c2 : Nat} {Q : State → Prop} {s z : State} {r r1 r2 : Nat × State}

theorem ruled_refused (h : 0x100 ≤ code) : Ruled path code Q s (code, s) :=
  ⟨rfl, fun _ => rfl, fun h1 => absurd h1 (by omega)⟩

theorem ruled_done (h : code < 0x100) (hQ : Q (tell path code z)) : Ruled path code Q s (code, z) :=
  ⟨rfl, fun h1 => absurd h1 (by omega), fun _ => hQ⟩

/-- A rule that asks a question, and the code that asks the same one. -/
theorem ruled_ite {p q : Prop} [Decidable p] [Decidable q] (h : p ↔ q) (h1 : q → Ruled path c1 Q s r1)
    (h2 : ¬q → Ruled path c2 Q s r2) : Ruled path (if q then c1 else c2) Q s (if p then r1 else r2) := by
  by_cases hq : q
  · rw [if_pos hq, if_pos (h.2 hq)]; exact h1 hq
  · rw [if_neg hq, if_neg (mt h.1 hq)]; exact h2 hq

/-- A rule that asks a question on which its code does not depend. -/
theorem ruled_cases {p : Prop} [Decidable p] (h1 : p → Ruled path code Q s r1) (h2 : ¬p → Ruled path code Q s r2) :
    Ruled path code Q s (if p then r1 else r2) := by
  by_cases hp : p
  · rw [if_pos hp]; exact h1 hp
  · rw [if_neg hp]; exact h2 hp

theorem tells_of_ruled {c : Instr} (hc : exec c s = .next (tell path r.1 r.2)) (h : Ruled path code Q s r) :
    tells path c code Q s := by
  obtain ⟨rfl, hrefused, hdone⟩ := h
  refine ⟨fun hcode => ?_, fun hcode => ⟨_, hc, tell_resp .., hdone hcode⟩⟩
  rw [hc, hrefused hcode]

variable {k v : Nat} {c : Instr} {P : Prop} {eff : State → Nat × State}

theorem namedWrite_eq (path k v : Nat) (eff : State → Nat × State) (s : State) :
    namedWrite path k v eff s = if s.mod.owner = none then s else
      tell path (odTry path k (objSize k) v eff s).1 (odTry path k (objSize k) v eff s).2 := rfl

/-- R405, R512: a named write of an object's own size, in terms of the effect of its rule. -/
theorem writes_of_namedWrite (hc : exec c s = .next (namedWrite path k v eff s))
    (hP : exec c s = .next (tell path (eff s).1 (eff s).2) → P) : writes path k (objSize k) v c P s := by
  rw [namedWrite_eq, odTry] at hc
  refine ⟨fun ho => ?_, fun ho hj => ?_, fun ho hj => hP ?_⟩
  · rw [hc, if_pos ho]
  · rw [hc, if_neg ho, if_pos hj]
  · rw [hc, if_neg ho, if_neg (Decidable.not_not.2 hj)]

theorem writesOwn_of_ruled (hc : exec c s = .next (namedWrite path k v eff s)) (h : Ruled path code Q s (eff s)) :
    writesOwn path k v c code Q s :=
  writes_of_namedWrite hc fun he => tells_of_ruled he h

/-- R403, R407, R512: a named write of a DOMAIN object, refused while a session of another path writes it. -/
theorem writes_of_namedBytes {bs : List Byte} (hd : isDomain k = true) (hc : exec c s = .next (namedBytes path k bs eff s))
    (h : Ruled path code Q s (eff s)) :
    writes path k bs.length 0 c (tells path c (if domBusy s path k = true then 0x0570 else code) Q s) s := by
  unfold namedBytes odTry at hc
  dsimp only at hc
  rw [hd, Bool.true_and] at hc
  refine ⟨fun ho => ?_, fun ho hj => ?_, fun ho hj => ?_⟩
  · rw [hc, if_pos ho]
  · rw [hc, if_neg ho, if_pos hj]
  · rw [if_neg ho, if_neg (Decidable.not_not.2 hj)] at hc
    exact tells_of_ruled hc (ruled_ite Iff.rfl (fun _ => ruled_refused (by decide)) fun _ => h)

end

/-! ### The objects that a step leaves alone -/

theorem odv_foldl {α : Type} {k : Nat} (f : State → α → State) (l : List α) (h : ∀ s, ∀ x ∈ l, odv (f s x) k = odv s k)
    (s : State) : odv (l.foldl f s) k = odv s k := by
  induction l generalizing s with
  | nil => rfl
  | cons x r ih =>
    rw [List.foldl_cons, ih (fun s y hy => h s y (List.mem_cons_of_mem x hy)), h s x List.mem_cons_self]

theorem ownKey_of_range {k : Nat} (h1 : 0x210000 ≤ k) (h2 : k < 0x270000 ∨ 0x290000 ≤ k) : ownKey k = false := by
  simp only [ownKey, Bool.or_eq_false_iff, decide_eq_false_iff_not, beq_eq_false_iff_ne, ne_eq]; omega

/-! #### Rails that stop: objects below 0x2400 -/

section
variable {k : Nat} (hk : 0x240000 ≤ k)
include hk

theorem odv_railPut {base n : Nat} (hb : base ≤ 0x2200FF) (hn : n < 11) (v : Nat) (s : State) :
    odv (railPut base n v s) k = odv s k :=
  odv_odSet_other _ _ (by unfold railKey; omega)

theorem odv_railFlag {n : Nat} (hn : n < 11) (b : Nat) (v : Bool) (s : State) : odv (railFlag n b v s) k = odv s k :=
  odv_railPut hk (base := oRAIL_FLAGS) (by decide) hn _ s

theorem odv_phasesTo {n : Nat} (hn : n < 11) (v : Nat) (s : State) : odv (phasesTo n v s) k = odv s k := by
  have hp : ∀ n < 11, ∀ p ∈ phasesOf n, p < 256 := by decide
  unfold phasesTo showPhases
  rw [odv_railPut hk (by decide) hn, odv_foldl]
  intro z p hmem
  have hlt := hp n hn p hmem
  split
  · rfl
  · exact odv_odSet_other _ _ (by unfold oPHASE_STATE; omega)

theorem odv_railStop {n : Nat} (hn : n < 11) (st : Nat) (s : State) : odv (railStop n st s) k = odv s k := by
  unfold railStop
  rw [odv_railFlag hk hn, odv_railFlag hk hn]
  exact (odv_phasesTo hk hn 1 _).trans (odv_railPut hk (by decide) hn st s)

theorem odv_softStop {n : Nat} (hn : n < 11) (s : State) : odv (softStop n s) k = odv s k := by
  unfold softStop
  rw [odv_railFlag hk hn, odv_railFlag hk hn, odv_railPut hk (by decide) hn]
  rfl

theorem odv_softStopGroup (s : State) : odv (softStopGroup s) k = odv s k := by
  unfold softStopGroup
  split
  · rfl
  · dsimp only
    split
    · rfl
    · refine odv_foldl _ _ (fun z n hn => ?_) s
      have hlt : n < 11 := List.mem_range.1 (List.mem_filter.1 hn).1
      repeat' split
      · rfl
      · exact odv_railStop hk hlt 0 z
      · exact odv_softStop hk hlt z

/-- R508: the soft stop of the rails leaves the objects of every later chapter alone. -/
theorem odv_stopWhenRest (s : State) : odv (stopWhenRest s) k = odv s k := by
  unfold stopWhenRest stopRails softStopNext
  split
  · exact odv_foldl _ _ (fun z _ _ => odv_softStopGroup hk z) _
  · rfl

end

/-! #### The voltage of a die and a tile that goes off -/

theorem odv_dropCells (a n k : Nat) (s : State) : odv (dropCells a n s) k = odv s k := rfl

theorem odv_undefine (a n k : Nat) (s : State) : odv (undefine a n s) k = odv s k :=
  odv_congr (within_f_od (within_undefine [.freeCtr, .mem] s rfl a n s (within_refl _ s)) rfl) k

section
variable {k : Nat} (hk : 0x300000 ≤ k)
include hk

theorem odv_showVolt {d : Nat} (hd : d < 2) (s : State) : odv (showVolt d s) k = odv s k := by
  have h1 : oDIE_VCORE + d ≠ k := by unfold oDIE_VCORE; omega
  have h2 : oRAIL_FLAGS + 256 * d ≠ k := by unfold oRAIL_FLAGS; omega
  unfold showVolt
  dsimp only
  rw [odv_odSet_other _ _ h1]
  split
  · rfl
  · exact odv_odBit_other _ _ _ h2

theorem odv_voltStepBy {d : Nat} (hd : d < 2) (gap : Nat → Nat) (s : State) : odv (voltStepBy d gap s) k = odv s k := by
  have hw : odv (withdraw d 3 s) k = odv s k := by unfold withdraw; dsimp only; split <;> rfl
  unfold voltStepBy
  dsimp only
  split
  · exact hw
  · refine .trans ?_ hw
    unfold queueStep
    dsimp only
    split
    · simpa [stepEffect] using odv_showVolt hk hd _
    · rfl

theorem odv_setMode (t : Nat) (m : TileMode) (s : State) : odv (setMode t m s) k = odv s k := by
  unfold setMode
  dsimp only
  split
  · rfl
  · exact odv_trace (ownKey_of_range (by omega) (by omega)) ..

theorem odv_tileOff (t : Nat) (s : State) : odv (tileOff t s) k = odv s k := by
  unfold tileOff
  rw [odv_undefine, odv_dropCells, odv_dropCells, odv_setMode hk, odv_setTile]

end

theorem odv_notice {k : Nat} (c : Nat) (q : Pkt) (z : State) : odv (notice c q z) k = odv z k := by
  unfold notice; dsimp only; split <;> rfl

/-! #### Ports that come up or go down -/

/-- The objects of a port that its owner writes; every other object of its own the port keeps. -/
def portBase (base : Nat) : Bool :=
  decide (0x240000 ≤ base ∧ base < 0x240100) && base != oPORT_ENABLE && base != oFEC_MODE

/-- The objects that ports keep: their own, the counters of their traffic, and the flag of the fabric reference. -/
def LinkKey (k : Nat) : Prop :=
  (0x240000 ≤ k ∧ k < 0x241000 ∧ k % 256 ≠ 2 ∧ k % 256 ≠ 9) ∨ (0x273001 ≤ k ∧ k < 0x274000) ∨ k = oTIME_FLAGS

section
variable {k : Nat} (hk : ¬LinkKey k)
include hk

theorem linkKey_ne {j : Nat} (hj : LinkKey j) : j ≠ k := by rintro rfl; exact hk hj

theorem odv_pSet {p base : Nat} (hp : p < 16) (hb : portBase base = true) (v : Nat) (s : State) :
    odv (pSet base p v s) k = odv s k := by
  refine odv_odSet_other _ _ (linkKey_ne hk ?_)
  simp only [portBase, oPORT_ENABLE, oFEC_MODE, Bool.and_eq_true, decide_eq_true_eq, bne_iff_ne] at hb
  unfold LinkKey pKey; omega

omit hk in
theorem odv_setPort (p : Nat) (x : PortSt) (s : State) : odv (setPort p x s) k = odv s k := rfl

omit hk in
theorem odv_requeue (p : Nat) (s : State) : odv (requeue p s) k = odv s k := by unfold requeue; exact odv_setPort ..

theorem odv_setPState {p : Nat} (hp : p < 16) (v : Nat) (s : State) : odv (setPState p v s) k = odv s k := by
  unfold setPState coarseUpdate
  rw [odv_odBit_other _ _ _ (linkKey_ne hk (.inr (.inr rfl))), odv_pSet hk hp (by decide)]
  split <;> rfl

theorem odv_clearLink {p : Nat} (hp : p < 16) (s : State) : odv (clearLink p s) k = odv s k := by
  unfold clearLink
  rw [odv_pSet hk hp (by decide), odv_pSet hk hp (by decide), odv_pSet hk hp (by decide), odv_pSet hk hp (by decide)]

theorem odv_forgetPeer {p : Nat} (hp : p < 16) (s : State) : odv (forgetPeer p s) k = odv s k := by
  unfold forgetPeer
  rw [odv_pSet hk hp (by decide), odv_pSet hk hp (by decide), odv_pSet hk hp (by decide)]

theorem odv_toDisabled {p : Nat} (hp : p < 16) (s : State) : odv (toDisabled p s) k = odv s k := by
  unfold toDisabled
  rw [odv_setPort, odv_setPState hk hp, odv_forgetPeer hk hp, odv_clearLink hk hp]

theorem odv_toDark {p : Nat} (hp : p < 16) (s : State) : odv (toDark p s) k = odv s k := by
  unfold toDark
  rw [odv_setPort, odv_setPState hk hp, odv_forgetPeer hk hp, odv_clearLink hk hp]

theorem odv_startRetrain {p : Nat} (hp : p < 16) (fec : Nat) (w : Bool) (s : State) :
    odv (startRetrain p fec w s) k = odv s k := by
  unfold startRetrain
  split
  · rw [modPort, odv_setPort, odv_requeue, odv_setPState hk hp]
  · rfl

variable (ho : ownKey k = false)
include ho

theorem odv_raisePort {p : Nat} (hp : p < 16) (s : State) : odv (raisePort p s) k = odv s k := by
  unfold raisePort
  repeat' split
  · exact odv_toDark hk hp s
  · rfl
  · exact odv_logSimple ho ..
  · rfl

theorem odv_raisePorts (s : State) : odv (raisePorts s) k = odv s k := by
  unfold raisePorts
  dsimp only
  rw [odv_foldl _ _ fun z p hp => odv_raisePort hk ho (List.mem_range.1 hp) z]
  split <;> rfl

theorem odv_packetArrival {p : Nat} (hp : p < 16) (s : State) : odv (packetArrival p s) k = odv s k := by
  have h1 : oLINK_PAYLOAD_BYTES + 256 * p + 1 ≠ k := linkKey_ne hk (by unfold LinkKey oLINK_PAYLOAD_BYTES; omega)
  have h2 : oLINK_PACKETS + 256 * p + 1 ≠ k := linkKey_ne hk (by unfold LinkKey oLINK_PACKETS; omega)
  unfold packetArrival
  dsimp only
  repeat' split
  · rfl
  · rw [odv_logEvent ho, odv_notice]; rfl
  · rw [odv_odAdd, if_neg h2, odv_odAdd, if_neg h1]; rfl
  · rfl

theorem odv_takeWhole {p : Nat} (hp : p < 16) (n : Nat) (s : State) : odv (takeWhole p n s) k = odv s k := by
  induction n generalizing s with
  | zero => rfl
  | succ n ih =>
    unfold takeWhole
    split
    · rw [ih, odv_packetArrival hk ho hp]
    · rfl

theorem odv_portLoss {p : Nat} (hp : p < 16) (auth : Bool) (s : State) : odv (portLoss p auth s) k = odv s k := by
  have hloss : pKey oPORT_LOSSES p ≠ k := linkKey_ne hk (by unfold LinkKey pKey oPORT_LOSSES; omega)
  have hnotices (l : List TxPkt) (z : State) : odv (l.foldl (fun s q => notice 0x0350 q.out s) z) k = odv z k :=
    odv_foldl _ _ (fun z q _ => odv_notice _ _ z) z
  unfold portLoss
  split
  · dsimp only
    rw [odv_emcyEvent ho, apply_ite (odv · k), odv_logSimple ho, odv_logSimple ho, ite_self, linkNote, odv_emit, hnotices,
      odv_setPort, pAdd, odv_odAdd, if_neg hloss, odv_clearLink hk hp, odv_setPState hk hp, odv_requeue,
      odv_takeWhole hk ho hp]
  · rfl

theorem odv_portOff {p : Nat} (hp : p < 16) (s : State) : odv (portOff p s) k = odv s k := by
  unfold portOff
  split
  · rfl
  · rw [odv_toDisabled hk hp, odv_portLoss hk ho hp]

theorem odv_startDrain {p : Nat} (hp : p < 16) (s : State) : odv (startDrain p s) k = odv s k := by
  unfold startDrain drainCheck
  dsimp only
  split
  · rw [odv_raisePort hk ho hp, odv_toDisabled hk hp, odv_takeWhole hk ho hp, linkNote, odv_emit, modPort, odv_setPort,
      odv_requeue]
  · rw [modPort, odv_setPort, odv_requeue]

end

theorem odv_laserUpdate {k : Nat} (h : oLASER_STATE ≠ k) (s : State) : odv (laserUpdate s) k = odv s k :=
  odv_odSet_other _ _ h

/-! #### The cap's status -/

theorem odv_safeOn {k : Nat} (ho : ownKey k = false) (h : oCAP_STATUS ≠ k) (s : State) : odv (safeOn s) k = odv s k := by
  unfold safeOn capCond emcyWhile setCapBit
  split
  · rfl
  · rw [if_pos rfl, odv_emcyRaise ho, odv_logSimple ho, odv_odBit_other _ _ _ h]

theorem bit_safeOn (s : State) : bitAt (odv (safeOn s) oCAP_STATUS) 4 = true := by
  unfold safeOn
  split
  · assumption
  · rw [capCond, emcyWhile, if_pos rfl, odv_emcyRaise (by decide), odv_logSimple (by decide), setCapBit,
      bitAt_odBit, if_pos rfl]
end Sys2Proof.Machine
end

section
/-! The named writes of power, rails, tiles and fabric, one lemma each. -/
namespace Sys2Proof.Machine
open Sys2Proof

/-! ### The keys of indexed objects -/

theorem statusKey_of_le {k : Nat} (h : 0x201010 ≤ k) : statusKey k = false := by
  exact decide_eq_false (by unfold oOD_LAST_STATUS; omega)

section
variable (path : Fin 4) (v : Nat) (s : State)

/-! ### The caps and the coolant (R322, R323, R349, R350) -/

/-- A cap is stored, not below 400 W; a clamp shows in CAP_STATUS. -/
theorem odv_wCap {k : Nat} (hk : oCAP_STATUS ≠ k) : odv (wCap k v s).2 k = max v 400 := by
  unfold wCap setCapBit
  split
  · rw [odv_odBit_other _ _ _ hk, odv_odSet_same]; omega
  · rw [odv_odSet_same]; omega

theorem bit_wCap {k : Nat} (hk : oCAP_STATUS ≠ k) (b : Nat) :
    bitAt (odv (wCap k v s).2 oCAP_STATUS) b = if v < 400 ∧ b = 0 then true else bitAt (odv s oCAP_STATUS) b := by
  unfold wCap
  by_cases hv : v < 400
  · rw [if_pos hv, setCapBit, bitAt_odBit, odv_odSet_other _ _ hk.symm]; simp [hv]
  · rw [if_neg hv, odv_odSet_other _ _ hk.symm]; simp [hv]

theorem wCap_fst (k : Nat) : (wCap k v s).1 = if v < 400 then 0x0011 else 0 := by unfold wCap; split <;> rfl

/-- R322, R323: a write of a cap, as the write of any of the three judges and stores it. -/
theorem ruled_wCap {k : Nat} {Q : State → Prop} {s z : State} (h : ∀ c, c < 0x100 → Q (tell path c (wCap k v z).2)) :
    Ruled path (if v < 400 then 0x0011 else 0) Q s (wCap k v z) := by
  have hlt : (if v < 400 then 0x0011 else 0) < 0x100 := by split <;> omega
  exact ⟨wCap_fst v z k, fun hc => absurd hc (by omega), h _⟩

theorem capTargetWrite_writes :
    writesOwn path oCAP_TARGET_W v (.capTargetWrite path v) (if v < 400 then 0x0011 else 0) (fun z =>
      odv z oCAP_TARGET_W = max v 400 ∧ bitAt (odv z oCAP_STATUS) 3 = false ∧
        (v < 400 → bitAt (odv z oCAP_STATUS) 0 = true)) s := by
  have hne : oCAP_STATUS ≠ oCAP_TARGET_W := by decide
  refine writesOwn_of_ruled (eff := wCapTarget v) rfl (ruled_wCap path v fun c _ => ?_)
  rw [odv_tell (by decide), odv_tell (by decide), odv_wCap _ _ hne, bit_wCap _ _ hne, bit_wCap _ _ hne, setCapBit,
    bitAt_odBit]
  simp +contextual

/-- R323: the Autonomous and the Safe cap. -/
theorem capWrite_writes {k : Nat} {c : Instr} (hne : oCAP_STATUS ≠ k) (hk : statusKey k = false)
    (hc : exec c s = .next (namedWrite path k v (wCap k v) s)) :
    writesOwn path k v c (if v < 400 then 0x0011 else 0) (fun z =>
      odv z k = max v 400 ∧ (v < 400 → bitAt (odv z oCAP_STATUS) 0 = true)) s := by
  refine writesOwn_of_ruled hc (ruled_wCap path v fun c _ => ?_)
  rw [odv_tell hk, odv_tell (by decide), odv_wCap _ _ hne, bit_wCap _ _ hne]
  simp +contextual

theorem flowLossWrite_writes :
    writesOwn path oFLOW_LOSS v (.flowLossWrite path v) 0 (fun z =>
      odv z oFLOW_LOSS = v ∧ (v = 1 → bitAt (odv z oCAP_STATUS) 4 = true)) s := by
  refine writesOwn_of_ruled (eff := wFlowLoss v) rfl (ruled_done (by decide) ?_)
  rw [odv_tell (by decide), odv_tell (by decide)]
  split
  · rw [odv_safeOn (by decide) (by decide), odv_odSet_same, bit_safeOn]; simp
  · rw [odv_odSet_same]; simp [*]

theorem flowLpmWrite_writes :
    writesOwn path oFLOW_LPM v (.flowLpmWrite path v) 0 (fun z =>
      odv z oFLOW_LPM = v ∧ z.flt.flowAt = s.now ∧ (v < 50 → bitAt (odv z oCAP_STATUS) 4 = true)) s := by
  refine writesOwn_of_ruled (eff := wFlowLpm v) rfl (ruled_done (by decide) ?_)
  have hset : odv (modFlt (fun f => { f with flowAt := (odSet s oFLOW_LPM v).now }) (odSet s oFLOW_LPM v)) oFLOW_LPM
      = v := odv_odSet_same ..
  rw [odv_tell (by decide), odv_tell (by decide), tell_flt]
  split
  · rw [odv_safeOn (by decide) (by decide), bit_safeOn,
      within_f_flt (within_safeOn [.od, .out, .obs, .log, .frz, .can] _ rfl _ (within_refl _ _)) rfl]
    exact ⟨hset, rfl, fun _ => rfl⟩
  · exact ⟨hset, rfl, fun h => absurd h ‹_›⟩

theorem safeCapClear_writes :
    writesOwn path oSAFE_CAP_CLEAR v (.safeCapClear path v) 0 (fun z => bitAt (odv z oCAP_STATUS) 4 =
      if v = 1 ∧ odv s oFLOW_LOSS = 0 then false else bitAt (odv s oCAP_STATUS) 4) s := by
  refine writesOwn_of_ruled (eff := wSafeClear v) rfl ?_
  refine ruled_cases (fun h => ?_) fun h => ?_
  · refine ruled_done (by decide) ?_
    rw [odv_tell (by decide), capCond, emcyWhile, if_neg (by decide), odv_emcyClear (by decide), setCapBit, bitAt_odBit,
      if_pos rfl, if_pos h]
  · exact ruled_done (by decide) (by rw [odv_tell (by decide), if_neg h])

/-! ### Tests (R345, R352) -/

theorem stepTest_writes :
    writesOwn path oSTEP_TEST v (.stepTest path v) (if v % 256 = 0 then 0x0102
      else if 144 < v % 256 ∨ 512 ≤ v then 0x0103
      else if (s.graphs.any fun g => g.2.tiles.any fun e => dieOf e.1 == bitsOf v 8 8) = true then 0x05A0 else 0) (fun z =>
      s.flt.test = none → z.flt = { s.flt with test := some ⟨bitsOf v 8 8, v % 256, [], false⟩ }) s := by
  refine writesOwn_of_ruled (eff := wStepTest v) rfl ?_
  refine ruled_ite .rfl (fun _ => ruled_refused (by decide)) fun _ => ?_
  refine ruled_ite .rfl (fun _ => ruled_refused (by decide)) fun _ => ?_
  refine ruled_ite .rfl (fun _ => ruled_refused (by decide)) fun _ => ?_
  refine ruled_cases (fun h => ?_) fun _ => ?_
  · exact ruled_done (by decide) fun hn => by rw [hn] at h; cases h
  · exact ruled_done (by decide) fun _ => tell_flt ..

/-- R352: of the comparators that fail in turn the last one stays recorded. -/
theorem odv_tripTestFailed (l : List Nat) (z : State) :
    odv (l.foldl (fun s n => logSimple evTripTestFailed (0x3000 + n) (odSet s oTRIP_TEST_FAILED n)) z) oTRIP_TEST_FAILED =
      l.getLast?.getD (odv z oTRIP_TEST_FAILED) := by
  induction l using list_concat_induction with
  | nil => rfl
  | concat l n _ =>
    rw [List.foldl_append, List.foldl_cons, List.foldl_nil, odv_logSimple (by decide), odv_odSet_same, List.getLast?_concat]; rfl

theorem tripTest_writes (failed : List (Fin 40)) :
    writesOwn path oTRIP_TEST v (.tripTest path v failed) (if isReady s = false then 0x0590 else 0) (fun z =>
      z.tiles = s.tiles ∧ (v ≠ 0 → odv z oTRIP_TEST_FAILED =
        match failed.getLast? with | some n => n.val + 1 | none => 0)) s := by
  refine writesOwn_of_ruled (eff := wTripTest v (failed.map (·.val + 1))) rfl ?_
  refine ruled_ite .rfl (fun _ => ruled_refused (by decide)) fun _ => ?_
  refine ruled_cases (fun hv => ?_) fun _ => ?_
  · exact ruled_done (by decide) ⟨tell_tiles .., fun h => absurd hv h⟩
  · refine ruled_done (by decide) ⟨?_, fun _ => ?_⟩
    · rw [tell_tiles]
      exact List.foldlRecOn (motive := fun z : State => z.tiles = s.tiles) _ _ rfl fun z h n _ =>
        (logSimple_tiles ..).trans h
    · rw [odv_tell (by decide), odv_tripTestFailed, odv_odSet_same, List.getLast?_map]
      cases failed.getLast? <;> rfl

/-! ### Trowel (R34, R35, R370 to R372, R377, R388, R396) -/

theorem trowelHandover_writes :
    writesOwn path oTROWEL_HANDOVER v (.trowelHandover path v)
      (if v = 0 then 0 else if engState s (1 - trwOwner s) ≠ 2 then 0x05B3 else 0)
      (fun z => z.trw = if v = 0 then s.trw else { s.trw with handover := true }) s := by
  refine writesOwn_of_ruled (eff := wHandover v) rfl ?_
  refine ruled_ite .rfl (fun h => ruled_done (by decide) ?_) fun h => ?_
  · rw [tell_trw, if_pos h]
  · refine ruled_ite .rfl (fun _ => ruled_refused (by decide)) fun _ => ruled_done (by decide) ?_
    rw [tell_trw, if_neg h]; rfl

theorem bankValid_setBankValid (b : Nat) (w : Bool) : bankValid (setBankValid b w s) b = w := by
  unfold bankValid setBankValid; rw [bitAt_odBit, if_pos rfl]

/-- Of the objects, what a bank supports is kept in its own two. -/
theorem odv_setInactive {k : Nat} (h : k < oSLEW_SUPPORTED_INACTIVE) (a b : Nat) : odv (setInactive a b s) k = odv s k := by
  unfold setInactive
  rw [odv_odSet_other _ _ (by omega), odv_odSet_other _ _ (by omega)]

theorem gainBankImage_writes (bs : List Byte) :
    writes path oGAIN_BANK_IMAGE bs.length 0 (.gainBankImage path bs) (tells path (.gainBankImage path bs)
      (if domBusy s path oGAIN_BANK_IMAGE = true then 0x0570 else if bs.length = 0 then 0x0102
        else if gainSize < bs.length then 0x0103 else if bs.length ≠ gainSize ∨ 1 < byteAt bs 6 then 0x01B0
        else if bankLive s (byteAt bs 6) = true then 0x05B1 else 0)
      (fun z => tfind z.trw.banks (byteAt bs 6) = some bs ∧ bankValid z (byteAt bs 6) = false ∧
        odv z (oGAIN_BANK_CRC + byteAt bs 6) = crc32c (bs.drop 32)) s) s := by
  refine writes_of_namedBytes (eff := wGainImage bs) (by decide) rfl ?_
  refine ruled_ite .rfl (fun _ => ruled_refused (by decide)) fun _ => ?_
  refine ruled_ite .rfl (fun _ => ruled_refused (by decide)) fun _ => ?_
  refine ruled_ite .rfl (fun _ => ruled_refused (by decide)) fun hb => ?_
  refine ruled_ite .rfl (fun _ => ruled_refused (by decide)) fun _ => ruled_done (by decide) ?_
  have hb1 : byteAt bs 6 ≤ 1 := by omega
  generalize byteAt bs 6 = b at hb1
  have hcrc : oGAIN_BANK_CRC + b < oSLEW_SUPPORTED_INACTIVE := by unfold oGAIN_BANK_CRC oSLEW_SUPPORTED_INACTIVE; omega
  have hvalid : oGAIN_BANK_CRC + b ≠ oGAIN_BANK_VALID := by unfold oGAIN_BANK_CRC oGAIN_BANK_VALID; omega
  refine ⟨?_, ?_, ?_⟩
  · rw [tell_trw]; exact tfind_tput_same ..
  · rw [bankValid, odv_tell (by decide), odv_setInactive _ (by decide), odv_odSet_other _ _ hvalid]
    exact bankValid_setBankValid s b false
  · rw [odv_tell (statusKey_of_le (by unfold oGAIN_BANK_CRC; omega)), odv_setInactive _ hcrc, odv_odSet_same]

/-- R371: the code of a commit of bank `v`. -/
def gainCommitCode (s : State) (v : Nat) : Nat :=
  if 1 < v then 0x0103 else if bankLive s v = true then 0x05B1 else match tfind s.trw.banks v with
    | none => 0
    | some g => if gainHeaderOk v g = false then 0x01B0 else if (gainBadSet g).isSome = true then 0x01B1 else 0

/-- R371: what a commit of bank `v` that ends with a code leaves: a bank without fault is valid, and a validation's outcome
shows in GAIN_COMMIT_STATUS. -/
def CommitEnds (v : Nat) (s : State) (r : Nat × State) (code : Nat) : Prop :=
  r.1 = code ∧ r.2.trw = s.trw ∧ (code = 0 → bankValid r.2 v = true) ∧
    (code = 0 ∨ code = 0x01B0 ∨ code = 0x01B1 → odv r.2 oGAIN_COMMIT_STATUS = code)

theorem commitEnds_valid (a b : Nat) :
    CommitEnds v s (0, setInactive a b (setBankValid v true (gainResult 0 0 s))) 0 := by
  refine ⟨rfl, rfl, fun _ => ?_, fun _ => ?_⟩
  · rw [bankValid, odv_setInactive _ (by decide)]; exact bankValid_setBankValid _ v true
  · rw [odv_setInactive _ (by decide), setBankValid, odv_odBit_other _ _ _ (by decide), gainResult,
      odv_odSet_other _ _ (by decide), odv_odSet_same]

theorem commitEnds_fault {c : Nat} (h : c ≠ 0) (d : Nat) : CommitEnds v s (c, gainResult c d s) c :=
  ⟨rfl, rfl, fun h0 => absurd h0 h, fun _ => by rw [gainResult, odv_odSet_other _ _ (by decide), odv_odSet_same]⟩

theorem commitEnds_refused {c : Nat} (h : c ≠ 0 ∧ c ≠ 0x01B0 ∧ c ≠ 0x01B1) : CommitEnds v s (c, s) c :=
  ⟨rfl, rfl, fun h0 => absurd h0 h.1, fun h1 => by omega⟩

theorem wGainCommit_ends : CommitEnds v s (wGainCommit v s) (gainCommitCode s v) := by
  unfold wGainCommit gainCommitCode
  by_cases h1 : 1 < v
  · rw [if_pos h1, if_pos h1]; exact commitEnds_refused v s (by decide)
  rw [if_neg h1, if_neg h1]
  by_cases h2 : bankLive s v = true
  · rw [if_pos h2, if_pos h2]; exact commitEnds_refused v s (by decide)
  rw [if_neg h2, if_neg h2]
  cases tfind s.trw.banks v with
  | none => exact commitEnds_valid ..
  | some g =>
    dsimp only
    by_cases h3 : gainHeaderOk v g = false
    · rw [if_pos h3, if_pos h3]; exact commitEnds_fault v s (by decide) _
    rw [if_neg h3, if_neg h3]
    cases gainBadSet g with
    | none => exact commitEnds_valid ..
    | some i => exact commitEnds_fault v s (by decide) _

theorem gainBankCommit_writes :
    writes path oGAIN_BANK_COMMIT (objSize oGAIN_BANK_COMMIT) v (.gainBankCommit path v)
      (∃ z, exec (.gainBankCommit path v) s = .next z ∧ z.resp = gainCommitCode s v ∧ z.trw = s.trw ∧
        (gainCommitCode s v = 0 → bankValid z v = true) ∧
        (gainCommitCode s v = 0 ∨ gainCommitCode s v = 0x01B0 ∨ gainCommitCode s v = 0x01B1 →
          odv z oGAIN_COMMIT_STATUS = gainCommitCode s v)) s := by
  obtain ⟨hc, ht, hb, hs⟩ := wGainCommit_ends v s
  refine writes_of_namedWrite (eff := wGainCommit v) rfl fun he => ⟨_, he, ?_⟩
  rw [tell_resp, tell_trw, bankValid, odv_tell (by decide), odv_tell (by decide)]
  exact ⟨hc, ht, hb, hs⟩

theorem gainBankSwap_writes :
    writesOwn path oGAIN_BANK_SWAP v (.gainBankSwap path v) (if v = 0 ∨ s.trw.swap = true then 0
      else if bankValid s (1 - odv s oGAIN_BANK_ACTIVE) = false then 0x05B2
      else if odv s (oSLEW_SUPPORTED_INACTIVE + 0) < odv s (oSLEW_LIMIT_CORE0 + 0) ∨
        odv s (oSLEW_SUPPORTED_INACTIVE + 1) < odv s (oSLEW_LIMIT_CORE0 + 1) then 0x0510 else 0)
      (fun z => z.trw = if v = 0 then s.trw else { s.trw with swap := true }) s := by
  refine writesOwn_of_ruled (eff := wGainSwap v) rfl ?_
  refine ruled_ite .rfl (fun h => ruled_done (by decide) ?_) fun h => ?_
  · rw [tell_trw]
    split
    · rfl
    · next hv => rw [← h.resolve_left hv]
  · refine ruled_ite .rfl (fun _ => ruled_refused (by decide)) fun _ => ?_
    refine ruled_ite (by simp) (fun _ => ruled_refused (by decide)) fun _ => ruled_done (by decide) ?_
    rw [tell_trw, if_neg fun hv => h (.inl hv)]; rfl

theorem slewLimitWrite_writes (die : Fin 2) :
    writesOwn path (oSLEW_LIMIT_CORE0 + die) v (.slewLimitWrite path die v) (if slewCap s die < v then 0x0120 else 0)
      (fun z => odv z (oSLEW_LIMIT_CORE0 + die) = v) s := by
  refine writesOwn_of_ruled (eff := wSlewLimit die v) rfl ?_
  refine ruled_ite .rfl (fun _ => ruled_refused (by decide)) fun _ => ruled_done (by decide) ?_
  rw [odv_tell (statusKey_of_le (by unfold oSLEW_LIMIT_CORE0; omega)), odv_odSet_same]

theorem statusKey_railKey {base : Nat} (h : 0x220000 ≤ base) (n : Nat) : statusKey (railKey base n) = false :=
  statusKey_of_le (by unfold railKey; omega)

theorem vsetWrite_writes (rail : Fin 11) :
    writesOwn path (railKey oVSET rail) v (.vsetWrite path rail v)
      (if rail.val < 2 then 0x05B0 else if 103 * railNominal rail < 100 * v then 0x0103
        else if 100 * v < 97 * railNominal rail then 0x01B2 else 0)
      (fun z => railV z oVSET rail = v ∧ bitAt (railV z oRAIL_FLAGS rail) 1 =
        (bitAt (railV s oRAIL_FLAGS rail) 1 && v == railV s oVSET rail)) s := by
  refine writesOwn_of_ruled (eff := wVset rail v) rfl ?_
  refine ruled_ite .rfl (fun _ => ruled_refused (by decide)) fun _ => ?_
  refine ruled_ite .rfl (fun _ => ruled_refused (by decide)) fun _ => ?_
  refine ruled_ite .rfl (fun _ => ruled_refused (by decide)) fun _ => ?_
  have hne : railKey oRAIL_FLAGS rail ≠ railKey oVSET rail := by unfold railKey oRAIL_FLAGS oVSET; omega
  have told (z : State) (base : Nat) (hb : 0x220000 ≤ base) : railV (tell path 0 z) base rail = railV z base rail :=
    odv_tell (statusKey_railKey hb _) ..
  refine ruled_cases (fun h => ruled_done (by decide) ?_) fun h => ruled_done (by decide) ?_
  · rw [told _ _ (by decide), told _ _ (by decide), h]; simp
  · rw [told _ _ (by decide), told _ _ (by decide)]
    constructor
    · exact (odv_odBit_other _ _ _ hne).trans (odv_odSet_same ..)
    · have hbit := bitAt_odBit (modRail rail (fun r => { r with settle := 0 }) (railPut oVSET rail v s))
        (railKey oRAIL_FLAGS rail) 1 1 false
      rw [if_pos rfl] at hbit
      rw [show (v == railV s oVSET rail) = false from beq_false_of_ne h, Bool.and_false]
      exact hbit

theorem peakClear_writes (rail : Fin 11) :
    writesOwn path (railKey oPEAK_CLEAR rail) v (.peakClear path rail v) 0 (fun z => (v = 0 → z.trw = s.trw) ∧
      (v ≠ 0 → railV z oI_PEAK rail = 0 ∧ railV z oV_MIN rail = 0 ∧ railV z oV_MAX rail = 0 ∧
        (railSt z rail).fresh = true)) s := by
  refine writesOwn_of_ruled (eff := wPeakClear rail v) rfl ?_
  refine ruled_cases (fun h => ruled_done (by decide) ?_) fun h => ruled_done (by decide) ?_
  · exact ⟨fun _ => tell_trw .., fun hv => absurd h hv⟩
  · have told (z : State) (base : Nat) (hb : 0x220000 ≤ base) : railV (tell path 0 z) base rail = railV z base rail :=
      odv_tell (statusKey_railKey hb _) ..
    have held (z : State) : let y := [oI_PEAK, oV_MIN, oV_MAX].foldl (fun s k => railPut k rail 0 s) z
        railV y oI_PEAK rail = 0 ∧ railV y oV_MIN rail = 0 ∧ railV y oV_MAX rail = 0 := by
      simp [railV, railPut, railKey, odv_odSet, oI_PEAK, oV_MIN, oV_MAX]
    refine ⟨fun hv => absurd hv h, fun _ => ?_⟩
    rw [told _ _ (by decide), told _ _ (by decide), told _ _ (by decide), railSt, tell_trw]
    obtain ⟨hi, hmin, hmax⟩ := held s
    exact ⟨hi, hmin, hmax, by simp [modRail]⟩

/-! ### Tiles (R110, R111) -/

theorem tileSt_setMode (t : Nat) (m : TileMode) : tileSt (setMode t m s) t = { tileSt s t with mode := m } := by
  unfold setMode; dsimp only; split <;> simp

theorem tileSt_dropCells (a n u : Nat) : tileSt (dropCells a n s) u = tileSt s u := rfl

theorem tileSt_undefine (a n u : Nat) : tileSt (undefine a n s) u = tileSt s u :=
  tileSt_of_within (within_undefine [.freeCtr, .mem] s rfl a n s (within_refl _ s)) rfl u

theorem mode_tileOff (t : Nat) : (tileSt (tileOff t s) t).mode = .off := by
  unfold tileOff
  rw [tileSt_undefine, tileSt_dropCells, tileSt_dropCells, tileSt_setMode]

theorem tileEnableWrite_writes (t : TileId) (power : Nat) :
    writesOwn path (enableKey t) v (.tileEnableWrite path t v power)
      (if v = 0 ∧ (tileSt s t).graph ≠ 0 then 0x0541 else 0)
      (fun z => odv z (enableKey t) = v ∧ (mainUp s = false → z.tiles = s.tiles) ∧
        (mainUp s = true → v = 0 → (tileSt s t).mode = .rest ∨ (tileSt s t).mode = .pupa → (tileSt s t).waking = false →
          (tileSt z t).mode = .off) ∧
        (mainUp s = true → v = 1 → (tileSt s t).mode = .off → tileSt z t = { tileSt s t with mode := .rest })) s := by
  have hk : 0x300000 ≤ enableKey t := by unfold enableKey oTILE_ENABLE; omega
  have hd : dieOf t < 2 := by have := t.isLt; unfold dieOf; omega
  have volt (gap : Nat → Nat) (z : State) : odv (tell path 0 (voltStepBy (dieOf t) gap z)) (enableKey t) =
      odv z (enableKey t) := by rw [odv_tell (statusKey_of_le (by omega)), odv_voltStepBy hk hd]
  have tile (gap : Nat → Nat) (z : State) : tileSt (tell path 0 (voltStepBy (dieOf t) gap z)) t = tileSt z t :=
    (tileSt_congr (tell_tiles ..) _).trans
      (tileSt_of_within (within_voltStepBy [.od, .flt] _ rfl _ gap z (within_refl _ z)) rfl _)
  refine writesOwn_of_ruled (eff := wTileEnable t v power) rfl ?_
  refine ruled_ite .rfl (fun _ => ruled_refused (by decide)) fun _ => ?_
  refine ruled_cases (fun hm => ruled_done (by decide) ?_) fun hm => ?_
  · rw [odv_tell (statusKey_of_le (by omega)), odv_odSet_same]
    exact ⟨rfl, fun _ => tell_tiles .., fun h => by simp [hm] at h, fun h => by simp [hm] at h⟩
  refine ruled_cases (fun h => ruled_done (by decide) ?_) fun h => ?_
  · refine ⟨?_, fun h => absurd h hm, fun _ _ _ _ => ?_, fun _ h1 => by omega⟩
    · rw [volt, odv_tileOff hk, odv_odSet_same]
    · rw [tile, mode_tileOff]
  refine ruled_cases (fun h1 => ruled_done (by decide) ?_) fun h1 => ruled_done (by decide) ?_
  · refine ⟨?_, fun h => absurd h hm, fun _ h0 => by omega, fun _ _ _ => ?_⟩
    · rw [volt, odv_setMode hk, odv_odSet_same]
    · rw [tile, tileSt_setMode]; rfl
  · rw [odv_tell (statusKey_of_le (by omega)), odv_odSet_same]
    exact ⟨rfl, fun _ => tell_tiles .., fun _ h0 hr hw => absurd ⟨h0, hr, hw⟩ h, fun _ hv ho => absurd ⟨hv, ho⟩ h1⟩

/-! ### The fabric's numbers (R197, R198) -/

theorem fabricDimsWrite_writes :
    writesOwn path oFABRIC_DIMS v (.fabricDimsWrite path v)
      (if anyPortOn s = true then 0x0550 else if 16 < v then 0x0103 else if 2 ^ v ≤ odv s oNODE_ID then 0x0172 else 0)
      (fun z => odv z oFABRIC_DIMS = v) s := by
  refine writesOwn_of_ruled (eff := wFabricDims v) rfl ?_
  refine ruled_ite .rfl (fun _ => ruled_refused (by decide)) fun _ => ?_
  refine ruled_ite .rfl (fun _ => ruled_refused (by decide)) fun _ => ?_
  refine ruled_ite (by simp [nodeFits]) (fun _ => ruled_refused (by decide)) fun _ => ruled_done (by decide) ?_
  rw [odv_tell (by decide), odv_raisePorts (by unfold LinkKey; decide) (by decide), odv_laserUpdate (by decide),
    odv_odSet_same]

theorem nodeIdWrite_writes :
    writesOwn path oNODE_ID v (.nodeIdWrite path v)
      (if anyPortOn s = true then 0x0550 else if slotFits s (odv s oFABRIC_DIMS) v = false then 0x0170
        else if 2 ^ odv s oFABRIC_DIMS ≤ v then 0x0172 else 0) (fun z => odv z oNODE_ID = v) s := by
  refine writesOwn_of_ruled (eff := wNodeId v) rfl ?_
  refine ruled_ite .rfl (fun _ => ruled_refused (by decide)) fun _ => ?_
  refine ruled_ite .rfl (fun _ => ruled_refused (by decide)) fun _ => ?_
  refine ruled_ite (by simp [nodeFits]) (fun _ => ruled_refused (by decide)) fun _ => ruled_done (by decide) ?_
  rw [odv_tell (by decide), odv_raisePorts (by unfold LinkKey; decide) (by decide), odv_odSet_same]

theorem machineIdWrite_writes :
    writesOwn path oMACHINE_ID v (.machineIdWrite path v) (if anyPortOn s = true then 0x0550 else 0)
      (fun z => odv z oMACHINE_ID = v ∧ z.fab = s.fab) s := by
  refine writesOwn_of_ruled (eff := wMachineId v) rfl ?_
  refine ruled_ite .rfl (fun _ => ruled_refused (by decide)) fun _ => ruled_done (by decide) ?_
  rw [odv_tell (by decide), odv_odSet_same, tell_fab]; exact ⟨rfl, rfl⟩

/-! ### Ports (R201, R205, R221, R232, R234, R237) -/

theorem portState_eq (z : State) (p : Nat) : portState z p = odv z (pKey oPORT_STATE p) := rfl

theorem portState_setPState (p w : Nat) (z : State) : portState (setPState p w z) p = w := by
  unfold setPState coarseUpdate
  rw [portState_eq, odv_odBit_other _ _ _ (by unfold oTIME_FLAGS pKey oPORT_STATE; omega)]
  exact odv_odSet_same ..

theorem portState_toDisabled (p : Nat) (z : State) : portState (toDisabled p z) p = 0 := by
  unfold toDisabled; rw [portState_eq, odv_setPort, ← portState_eq, portState_setPState]

theorem portState_portOff (p : Nat) (z : State) : portState (portOff p z) p = 0 := by
  unfold portOff
  split
  · assumption
  · exact portState_toDisabled p _

theorem portState_startRetrain (p fec : Nat) (w : Bool) (z : State) :
    portState (startRetrain p fec w z) p = if portState z p = 6 then 7 else portState z p := by
  unfold startRetrain
  split
  · rw [modPort, portState_eq, odv_setPort, odv_requeue, ← portState_eq, portState_setPState]
  · rfl

theorem statusKey_pKey {base : Nat} (h : 0x240000 ≤ base) (p : Nat) : statusKey (pKey base p) = false :=
  statusKey_of_le (by unfold pKey; omega)

section
variable (p : Fin 16)

theorem portEnableWrite_writes :
    writesOwn path (pKey oPORT_ENABLE p) v (.portEnableWrite path p v) 0 (fun z => pv z oPORT_ENABLE p = v ∧
      (v = 0 → portState s p ≠ 6 → portState z p = 0) ∧
      (v ≠ 0 → portState s p ≠ 0 → portState z p = portState s p)) s := by
  have hlink : ¬LinkKey (pKey oPORT_ENABLE p) := by unfold LinkKey pKey oPORT_ENABLE oTIME_FLAGS; omega
  have hown : ownKey (pKey oPORT_ENABLE p) = false :=
    ownKey_of_range (by unfold pKey oPORT_ENABLE; omega) (by unfold pKey oPORT_ENABLE; omega)
  have told {base : Nat} (hb : 0x240000 ≤ base) (z : State) :
      odv (tell path 0 (stopWhenRest z)) (pKey base p) = odv z (pKey base p) := by
    rw [odv_tell (statusKey_pKey hb _), odv_stopWhenRest (by unfold pKey; omega)]
  let s1 := laserUpdate (pSet oPORT_ENABLE p v s)
  have henable : odv s1 (pKey oPORT_ENABLE p) = v := by
    rw [odv_laserUpdate (by unfold oLASER_STATE pKey oPORT_ENABLE; omega)]; exact odv_odSet_same ..
  have hstate : portState s1 p = portState s p := by
    rw [portState_eq, odv_laserUpdate (by unfold oLASER_STATE pKey oPORT_STATE; omega)]
    exact odv_odSet_other _ _ (by unfold pKey oPORT_ENABLE oPORT_STATE; omega)
  refine writesOwn_of_ruled (eff := wPortEnable p v) rfl ?_
  unfold wPortEnable wEnable
  by_cases hv : v = 0
  · simp only [if_pos hv]
    refine ruled_done (by decide) ⟨?_, fun _ h6 => ?_, fun h => absurd hv h⟩
    · rw [pv, told (by decide)]
      split
      · exact (odv_startDrain hlink hown p.isLt s1).trans henable
      · exact (odv_portOff hlink hown p.isLt s1).trans henable
    · rw [portState_eq, told (by decide), if_neg h6]; exact portState_portOff p s1
  · simp only [if_neg hv]
    refine ruled_done (by decide) ⟨?_, fun h => absurd h hv, fun _ h0 => ?_⟩
    · rw [pv, told (by decide)]; exact (odv_raisePort hlink hown p.isLt s1).trans henable
    · have hup : raisePort p s1 = s1 := by unfold raisePort; rw [if_neg fun h => h0 (hstate ▸ h.1)]
      rw [portState_eq, told (by decide)]; exact (congrArg (portState · p) hup).trans hstate

theorem fecModeWrite_writes :
    writesOwn path (pKey oFEC_MODE p) v (.fecModeWrite path p v)
      (if v = 1 ∧ 20 ≤ pv s oFIBRE_LENGTH p then 0x0171 else 0) (fun z =>
      pv z oFEC_MODE p = v ∧ portState z p = if portState s p = 6 then 7 else portState s p) s := by
  have hlink : ¬LinkKey (pKey oFEC_MODE p) := by unfold LinkKey pKey oFEC_MODE oTIME_FLAGS; omega
  have hstate : portState (pSet oFEC_MODE p v s) p = portState s p :=
    odv_odSet_other _ _ (by unfold pKey oFEC_MODE oPORT_STATE; omega)
  refine writesOwn_of_ruled (eff := wFecMode p v) rfl ?_
  refine ruled_ite .rfl (fun _ => ruled_refused (by decide)) fun _ => ruled_done (by decide) ?_
  rw [pv, odv_tell (statusKey_pKey (by decide) _), odv_startRetrain hlink p.isLt, portState_eq,
    odv_tell (statusKey_pKey (by decide) _), ← portState_eq, portState_startRetrain, hstate]
  exact ⟨odv_odSet_same .., rfl⟩

theorem retrainNow_writes :
    writesOwn path (pKey oRETRAIN_NOW p) v (.retrainNow path p v) 0 (fun z =>
      portState z p = if v ≠ 0 ∧ portState s p = 6 then 7 else portState s p) s := by
  refine writesOwn_of_ruled (eff := wRetrainNow p v) rfl ?_
  refine ruled_cases (fun hv => ruled_done (by decide) ?_) fun hv => ruled_done (by decide) ?_
  · rw [portState_eq, odv_tell (statusKey_pKey (by decide) _), if_neg fun h => h.1 hv]; rfl
  · rw [portState_eq, odv_tell (statusKey_pKey (by decide) _), ← portState_eq, portState_startRetrain]
    simp only [ne_eq, hv, not_false_eq_true, true_and]; rfl

/-- R219: one port's turn in REKEY_ALL. -/
def forceKey (s : State) (p : Nat) : State :=
  if portState s p = 6 then modPort p (fun x => { x with forced := true }) (sendRequest p s) else s

theorem forceKeys_eq : forceKeys s = (List.range 16).foldl forceKey s := rfl

theorem portState_forceKey (z : State) (q r : Nat) : portState (forceKey z q) r = portState z r := by
  unfold forceKey; split <;> rfl

theorem portOf_setPort (z : State) (q r : Nat) (x : PortSt) :
    portOf (setPort q x z) r = if q = r then x else portOf z r := tget_tput ..

theorem portOf_forceKey_same {z : State} {q : Nat} (h : portState z q = 6) : (portOf (forceKey z q) q).forced = true := by
  unfold forceKey modPort; rw [if_pos h, portOf_setPort, if_pos rfl]

theorem portOf_forceKey_other {z : State} {q r : Nat} (h : q ≠ r) : portOf (forceKey z q) r = portOf z r := by
  unfold forceKey sendRequest sendLink modPort
  split
  · simp only [portOf_setPort, if_neg h]; rfl
  · rfl

/-- R219: every port that is UP has its turn, and keeps what it was given. -/
theorem portOf_foldl_forceKey (l : List Nat) (z : State) {q : Nat} (hu : portState z q = 6)
    (h : q ∈ l ∨ (portOf z q).forced = true) : (portOf (l.foldl forceKey z) q).forced = true := by
  induction l generalizing z with
  | nil => exact h.resolve_left List.not_mem_nil
  | cons r l ih =>
    refine ih _ ((portState_forceKey z r q).trans hu) ?_
    by_cases hq : r = q
    · subst hq; exact .inr (portOf_forceKey_same hu)
    · rw [portOf_forceKey_other hq, List.mem_cons] at *
      exact h.imp (·.resolve_left (Ne.symm hq)) id

theorem rekeyAll_writes :
    writesOwn path oREKEY_ALL v (.rekeyAll path v) 0 (fun z => (v = 0 → z.fab = s.fab) ∧
      (v ≠ 0 → portState s p = 6 → (portOf z p).forced = true)) s := by
  refine writesOwn_of_ruled (eff := wRekeyAll v) rfl (ruled_done (by decide) ⟨fun hv => ?_, fun hv h6 => ?_⟩)
  · rw [tell_fab, if_pos hv]
  · have h := portOf_foldl_forceKey (List.range 16) s h6 (.inl (List.mem_range.2 p.isLt))
    rw [← forceKeys_eq, portOf] at h
    rwa [portOf, tell_fab, if_neg hv]

end

theorem laserRestart_writes :
    writesOwn path oLASER_RESTART v (.laserRestart path v) 0
      (fun z => z.fab = if v = 0 then s.fab else { s.fab with latch := false }) s := by
  refine writesOwn_of_ruled (eff := wLaserRestart v) rfl (ruled_done (by decide) ?_)
  rw [tell_fab]
  split <;> rfl

/-! ### Memory and members (R193, R258) -/

theorem errInjectArm_writes :
    writesOwn path oERR_INJECT_ARM v (.errInjectArm path v) (if v = 0 then 0 else if confidential s = true then 0x0440
      else if odv s oERR_INJECT_KIND = 0 then 0x0102 else if inMap (odv s oERR_INJECT_ADDR) 1 = false then 0x0160
      else if injectFits (odv s oERR_INJECT_KIND) (odv s oERR_INJECT_ADDR) = false then 0x0163 else 0)
      (fun z => z.ecc = if v = 0 then s.ecc
        else { s.ecc with armed := some (odv s oERR_INJECT_ADDR, odv s oERR_INJECT_KIND) }) s := by
  refine writesOwn_of_ruled (eff := wInjectArm v) rfl ?_
  refine ruled_ite .rfl (fun hv => ruled_done (by decide) ?_) fun hv => ?_
  · rw [tell_ecc, if_pos hv]
  refine ruled_ite .rfl (fun _ => ruled_refused (by decide)) fun _ => ?_
  refine ruled_ite .rfl (fun _ => ruled_refused (by decide)) fun _ => ?_
  refine ruled_ite .rfl (fun _ => ruled_refused (by decide)) fun _ => ?_
  refine ruled_ite .rfl (fun _ => ruled_refused (by decide)) fun _ => ruled_done (by decide) ?_
  rw [tell_ecc, if_neg hv]

theorem memberRevive_writes :
    writesOwn path oMEMBER_REVIVE v (.memberRevive path v) 0 (fun z => z.rem.stale = s.rem.stale.filter (· ≠ v)) s :=
  writesOwn_of_ruled (eff := wMemberRevive v) rfl (ruled_done (by decide) (congrArg RemSt.stale (tell_rem ..)))

end

/-- Settles O55, write by write: each named write is judged by its rule's questions in order, and its steps leave alone the
objects that the others keep. -/
theorem writesOfPowerAndFabric : Obligations.WritesOfPowerAndFabric := fun path v power bs t die p rail failed s =>
  ⟨capTargetWrite_writes path v s, capWrite_writes path v s (by decide) (by decide) rfl,
    capWrite_writes path v s (by decide) (by decide) rfl, flowLossWrite_writes path v s, flowLpmWrite_writes path v s,
    safeCapClear_writes path v s, stepTest_writes path v s, tripTest_writes path v s failed, trowelHandover_writes path v s,
    gainBankImage_writes path s bs, gainBankCommit_writes path v s, gainBankSwap_writes path v s,
    slewLimitWrite_writes path v s die, vsetWrite_writes path v s rail, peakClear_writes path v s rail,
    tileEnableWrite_writes path v s t power, fabricDimsWrite_writes path v s, nodeIdWrite_writes path v s,
    machineIdWrite_writes path v s, portEnableWrite_writes path v s p, fecModeWrite_writes path v s p,
    retrainNow_writes path v s p, rekeyAll_writes path v s p, laserRestart_writes path v s, errInjectArm_writes path v s,
    memberRevive_writes path v s⟩

end Sys2Proof.Machine
end

section
/-! The rings of the host interface: how they are enabled, polled and drained (R281 to R285), and how finished commands are
completed (R293 to R298). -/
namespace Sys2Proof.Machine
open Sys2Proof

/-! ### Rings and completion rings read after an update -/

theorem ringAt_setRing (r j : Nat) (g : RingSt) (s : State) :
    ringAt (setRing r g s) j = if r = j then g else ringAt s j := tget_tput ..

@[simp] theorem ringAt_setRing_same (r : Nat) (g : RingSt) (s : State) : ringAt (setRing r g s) r = g :=
  tget_tput_same ..

@[simp] theorem cqAt_setCq_same (c : Nat) (q : CqSt) (s : State) : cqAt (setCq c q s) c = q := tget_tput_same ..

@[simp] theorem ringAt_setCq (c r : Nat) (q : CqSt) (s : State) : ringAt (setCq c q s) r = ringAt s r := rfl

/-- Two states that agree in their rings, completion rings and commands. -/
structure SameRings (s z : State) : Prop where
  rings : z.hst.rings = s.hst.rings
  cqs : z.hst.cqs = s.hst.cqs
  cmds : z.cmds = s.cmds

namespace SameRings

variable {s y z : State} (h : SameRings s z)
include h

theorem trans (h0 : SameRings y s) : SameRings y z :=
  ⟨h.rings.trans h0.rings, h.cqs.trans h0.cqs, h.cmds.trans h0.cmds⟩

theorem ringAt (r : Nat) : Machine.ringAt z r = Machine.ringAt s r := by unfold Machine.ringAt; rw [h.rings]

theorem cqAt (c : Nat) : Machine.cqAt z c = Machine.cqAt s c := by unfold Machine.cqAt; rw [h.cqs]

theorem cqLoad (c : Nat) : Machine.cqLoad z c = Machine.cqLoad s c := by
  simp only [Machine.cqLoad, h.cqAt, h.cmds, h.ringAt]

theorem cqFull (c : Nat) : Machine.cqFull z c = Machine.cqFull s c := by
  simp only [Machine.cqFull, h.cqAt, h.cqLoad]

theorem cqBound (c : Nat) : Machine.cqBound z c = Machine.cqBound s c := by unfold Machine.cqBound; rw [h.rings]

end SameRings

/-- A state that differs in its objects and in what it sent has the same rings. -/
theorem sameRings_of_within {T : List Part} {s z : State} (h : Within T s z) (hh : T.contains .hst = false)
    (hc : T.contains .cmds = false) : SameRings s z := by
  have hhst := within_f_hst h hh
  exact ⟨by rw [hhst], by rw [hhst], within_f_cmds h hc⟩

theorem sameRings_odSet (s : State) (k v : Nat) : SameRings s (odSet s k v) := ⟨rfl, rfl, rfl⟩

theorem sameRings_odAdd (s : State) (k n : Nat) : SameRings s (odAdd s k n) := ⟨rfl, rfl, rfl⟩

theorem sameRings_pcieCount (d n : Nat) (s : State) : SameRings s (pcieCount d n s) := ⟨rfl, rfl, rfl⟩

theorem sameRings_hostAsk (a n : Nat) (s : State) : SameRings s (hostAsk a n s) :=
  sameRings_of_within (within_hostAsk [.od, .out] s rfl a n s (within_refl _ s)) rfl rfl

theorem sameRings_hostWrite (a : Nat) (bs : List Byte) (s : State) : SameRings s (hostWrite a bs s) :=
  sameRings_of_within (within_hostWrite [.od, .out] s rfl a bs s (within_refl _ s)) rfl rfl

theorem sameRings_notePoison (rd : HostRead) (s : State) : SameRings s (notePoison rd s) := by
  unfold notePoison; split <;> exact ⟨rfl, rfl, rfl⟩

/-! ### A counter of 32 bits -/

/-- A counter that has gone `n` steps up from `x`, each modulo 2^32. -/
def countedUp (x n : Nat) : Nat := if n = 0 then x else (x + n) % 2 ^ 32

theorem countedUp_pos (x : Nat) {n : Nat} (h : n ≠ 0) : countedUp x n = (x + n) % 2 ^ 32 := if_neg h

theorem countedUp_add (x m n : Nat) : countedUp (countedUp x m) n = countedUp x (m + n) := by
  unfold countedUp
  by_cases hm : m = 0 <;> by_cases hn : n = 0 <;> simp [hm, hn, Nat.add_assoc]

/-! ### A poll (R282 to R284) -/

section
variable {r : Nat} {s : State}

/-- R282: the ring is polled: it runs, the module is READY and BAR0 answers. -/
def Polled (r : Nat) (s : State) : Prop := (ringAt s r).st = 1 ∧ isReady s = true ∧ barOpen s = true

theorem ringPoll_of_not_polled (p : PollIn) (h : ¬Polled r s) : ringPoll r p s = s := by
  refine if_pos (Decidable.byContradiction fun hn => h ?_)
  simpa only [Polled, not_or, ne_eq, Decidable.not_not, Bool.not_eq_false] using hn

/-- R282: the state in which the producer record has been read. -/
def recordRead (r : Nat) (p : PollIn) (s : State) : State :=
  odSet (odAdd (notePoison p.rec_ (hostAsk (ringAt s r).rec_ 64 s)) oPOLL_READS 1) oHOST_RD_RTT_NS (p.rtt % 2 ^ 32)

theorem sameRings_recordRead (r : Nat) (p : PollIn) (s : State) : SameRings s (recordRead r p s) :=
  (sameRings_odSet ..).trans <| (sameRings_odAdd ..).trans <| (sameRings_notePoison ..).trans (sameRings_hostAsk ..)

theorem ringPoll_of_polled (p : PollIn) (h : Polled r s) : ringPoll r p s =
    if p.rec_ ≠ .good then stopRing r 0x0360 (recordRead r p s) else ringFetch r p (recordRead r p s) := by
  obtain ⟨hst, hready, hbar⟩ := h
  unfold ringPoll
  rw [if_neg (by simp [hst, hready, hbar])]
  rfl

/-- R285: a running ring stops with a code at the next index to fetch, and no command is fetched or lost. -/
theorem stopRing_stops {z : State} (code : Nat) (hring : ringAt z r = ringAt s r) (hcmds : z.cmds = s.cmds)
    (hst : (ringAt s r).st = 1) : (stopRing r code z).cmds = s.cmds ∧ ringAt (stopRing r code z) r =
      { ringAt s r with st := 3, code := code, err := (ringAt s r).cons } := by
  rw [within_f_cmds (within_stopRing [.hst] z rfl r code z (within_refl _ z)) rfl]
  exact ⟨hcmds, by simp [stopRing, hring, hst]⟩

theorem cmds_readCons (c cons : Nat) (s : State) : (readCons c cons s).cmds = s.cmds := by
  rw [readCons, setCq_cmds, (sameRings_hostAsk ..).cmds]

theorem ringAt_readCons (c cons r : Nat) (s : State) : ringAt (readCons c cons s) r = ringAt s r := by
  rw [readCons, ringAt_setCq, (sameRings_hostAsk ..).ringAt]

/-- R283: how many entries the producer index lets the module fetch. -/
def pollAhead (r : Nat) (p : PollIn) (s : State) : Nat := (p.prod.val + 2 ^ 32 - (ringAt s r).cons) % 2 ^ 32

/-- R283, R297: the number of entries of a fetch: at most 32, none past the ring's end, and room for each in the completion
ring and in the command store. -/
def fetchCount (r : Nat) (p : PollIn) (s : State) : Nat :=
  let g := ringAt s r
  min (min (pollAhead r p s) 32) (min (2 ^ rgLog2 g - g.cons % 2 ^ rgLog2 g)
    (min (2 ^ cqLog2 (cqAt s (rgCq g)) - cqLoad s (rgCq g)) (4096 - s.cmds.length)))

theorem SameRings.pollAhead {z : State} (h : SameRings s z) (p : PollIn) :
    Machine.pollAhead r p z = Machine.pollAhead r p s := by
  simp only [Machine.pollAhead, h.ringAt]

theorem SameRings.fetchCount {z : State} (h : SameRings s z) (p : PollIn) :
    Machine.fetchCount r p z = Machine.fetchCount r p s := by
  simp only [Machine.fetchCount, h.pollAhead, h.ringAt, h.cqAt, h.cqLoad, h.cmds]

/-- R284: the producer index is further ahead than the ring is long. -/
theorem ringFetch_of_overrun {p : PollIn} (h : 2 ^ rgLog2 (ringAt s r) < pollAhead r p s) :
    ringFetch r p s = stopRing r 0x0563
      (if cqFull s (rgCq (ringAt s r)) then readCons (rgCq (ringAt s r)) p.cons.val s else s) := by
  have hne := Nat.ne_of_gt (Nat.zero_lt_of_lt h)
  unfold pollAhead at h hne
  unfold ringFetch
  dsimp only
  rw [if_neg hne, if_pos h]

/-- R282, R284, R285: a bad record or index stops the ring with its code, and nothing more is fetched. -/
theorem ringPoll_stops {p : PollIn} (h : Polled r s)
    (hbad : p.rec_ ≠ .good ∨ 2 ^ rgLog2 (ringAt s r) < pollAhead r p s) :
    (ringPoll r p s).cmds = s.cmds ∧ ringAt (ringPoll r p s) r =
      { ringAt s r with st := 3, code := if p.rec_ ≠ .good then 0x0360 else 0x0563, err := (ringAt s r).cons } := by
  have same := sameRings_recordRead r p s
  have hring := same.ringAt r
  rw [ringPoll_of_polled p h]
  by_cases hrec : p.rec_ ≠ .good
  · rw [if_pos hrec, if_pos hrec]
    exact stopRing_stops _ hring same.cmds h.1
  · have hover := hbad.resolve_left hrec
    rw [← hring, ← same.pollAhead] at hover
    rw [if_neg hrec, if_neg hrec, ringFetch_of_overrun hover]
    split
    · exact stopRing_stops _ ((ringAt_readCons ..).trans hring) ((cmds_readCons ..).trans same.cmds) h.1
    · exact stopRing_stops _ hring same.cmds h.1

/-! ### A fetch (R283) -/

/-- R283: an entry enters the command store, and the ring goes on to the next. -/
def takeEntry (r : Nat) (b : List Byte) (s : State) : State :=
  let s1 := odAdd (setRing r { ringAt s r with cons := ((ringAt s r).cons + 1) % 2 ^ 32 } s) oCMDS_FETCHED 1
  { s1 with cmds := s1.cmds ++ [⟨r, (ringAt s r).cons, s.now, b, [], false, false, none, 0, 0⟩] }

theorem ringAt_takeEntry (r : Nat) (b : List Byte) (s : State) :
    ringAt (takeEntry r b s) r = { ringAt s r with cons := countedUp (ringAt s r).cons 1 } := ringAt_setRing_same ..

theorem bytes_takeEntry (r : Nat) (b : List Byte) (s : State) :
    (takeEntry r b s).cmds.map (·.bytes) = s.cmds.map (·.bytes) ++ [b] := List.map_append

theorem fetchEntries_cons (hst : (ringAt s r).st = 1) (hconf : rgConf (ringAt s r) = false) (e : List Byte)
    (es : List (List Byte)) : fetchEntries r (e :: es) s = fetchEntries r es (takeEntry r (padTo 128 e) s) := by
  simp [fetchEntries, openEntry, takeEntry, hst, hconf]

/-- R283: the entries of a ring in clear enter the command store in order, as its index counts them. -/
theorem fetchEntries_clear (hst : (ringAt s r).st = 1) (hconf : rgConf (ringAt s r) = false) (es : List (List Byte)) :
    ringAt (fetchEntries r es s) r = { ringAt s r with cons := countedUp (ringAt s r).cons es.length } ∧
    (fetchEntries r es s).cmds.map (·.bytes) = s.cmds.map (·.bytes) ++ es.map (padTo 128) := by
  induction es generalizing s with
  | nil => exact ⟨rfl, (List.append_nil _).symm⟩
  | cons e es ih =>
    obtain ⟨hring, hcmds⟩ := ih (s := takeEntry r (padTo 128 e) s) (by rw [ringAt_takeEntry]; exact hst)
      (by rw [ringAt_takeEntry]; exact hconf)
    rw [fetchEntries_cons hst hconf, hring, hcmds, bytes_takeEntry, ringAt_takeEntry, List.append_assoc,
      List.length_cons, Nat.add_comm, ← countedUp_add]
    exact ⟨rfl, rfl⟩

theorem ringFetch_of_room {p : PollIn} (hdiff : pollAhead r p s ≤ 2 ^ rgLog2 (ringAt s r))
    (hfull : cqFull s (rgCq (ringAt s r)) = false) (hk : fetchCount r p s ≠ 0) (hfetch : p.fetch = .good) :
    ∃ s2, SameRings s s2 ∧ SameRings
      (fetchEntries r ((List.range (fetchCount r p s)).map fun i => p.entries.getD i []) s2) (ringFetch r p s) := by
  have hne : pollAhead r p s ≠ 0 := by unfold fetchCount at hk; dsimp only at hk; omega
  unfold fetchCount pollAhead at hk
  unfold pollAhead at hdiff hne
  unfold ringFetch
  simp only [hfull, Bool.false_eq_true, if_false, if_neg hne, if_neg (Nat.not_lt.2 hdiff), if_neg hk, hfetch, ne_eq,
    not_true_eq_false]
  exact ⟨_, (sameRings_notePoison ..).trans (sameRings_hostAsk ..), sameRings_hostWrite ..⟩

/-- R283: a poll of a ring in clear fetches as many entries as the rules leave, in order. -/
theorem ringPoll_fetches {p : PollIn} (h : Polled r s) (hrec : p.rec_ = .good)
    (hdiff : pollAhead r p s ≤ 2 ^ rgLog2 (ringAt s r)) (hfull : cqFull s (rgCq (ringAt s r)) = false)
    (hk : fetchCount r p s ≠ 0) (hconf : rgConf (ringAt s r) = false) (hfetch : p.fetch = .good) :
    ringAt (ringPoll r p s) r = { ringAt s r with cons := ((ringAt s r).cons + fetchCount r p s) % 2 ^ 32 } ∧
    (ringPoll r p s).cmds.map (·.bytes) = s.cmds.map (·.bytes) ++
      (List.range (fetchCount r p s)).map fun i => padTo 128 (p.entries.getD i []) := by
  have read := sameRings_recordRead r p s
  obtain ⟨s2, asked, written⟩ := ringFetch_of_room (s := recordRead r p s) (by rwa [read.pollAhead, read.ringAt])
    (by rwa [read.ringAt, read.cqFull]) (by rwa [read.fetchCount]) hfetch
  have same := asked.trans read
  obtain ⟨hring, hcmds⟩ := fetchEntries_clear (s := s2) (by rw [same.ringAt]; exact h.1) (by rwa [same.ringAt])
    ((List.range (fetchCount r p s)).map fun i => p.entries.getD i [])
  rw [read.fetchCount] at written
  rw [ringPoll_of_polled p h, if_neg (fun hne => hne hrec), written.ringAt, written.cmds, hring, hcmds, same.ringAt, same.cmds,
    List.length_map, List.length_range, countedUp_pos _ hk, List.map_map]
  exact ⟨rfl, rfl⟩

end

/-! ### Enabling and disabling (R281, R285, R294, R295) -/

/-- R476: a transfer is counted in its own object alone. -/
theorem odv_pcieCount {d k : Nat} (h : oPCIE_BYTES + d ≠ k) (n : Nat) (s : State) :
    odv (pcieCount d n s) k = odv s k := odv_odSet_other _ _ h

@[simp] theorem readyCode_pcieCount (n : Nat) (s : State) : readyCode (pcieCount 0 n s) = readyCode s := by
  have h : odv (pcieCount 0 n s) oMODULE_STATE = odv s oMODULE_STATE := odv_pcieCount (by decide) n s
  simp only [readyCode, isReady, modState, h]; rfl

theorem confOk_pcieCount (n : Nat) (s : State) (conf : Bool) (ctx : Nat) :
    confOk (pcieCount 0 n s) conf ctx = confOk s conf ctx := by
  have h : odv (pcieCount 0 n s) oSEC_MODE = odv s oSEC_MODE := odv_pcieCount (by decide) n s
  simp only [confOk, confidential, h]; rfl

@[simp] theorem ringOk_pcieCount (n : Nat) (s : State) (g : RingSt) : ringOk (pcieCount 0 n s) g = ringOk s g := by
  simp only [ringOk, confOk_pcieCount]; rfl

@[simp] theorem cqOk_pcieCount (n : Nat) (s : State) (q : CqSt) : cqOk (pcieCount 0 n s) q = cqOk s q := by
  simp only [cqOk, confOk_pcieCount]

section
variable {r c f : Nat} {s : State}

/-- R285, R504: how a ring stands once its enabling has been judged. -/
theorem ringAt_ringEnable (r : Nat) (s : State) : ringAt (ringEnable r s) r =
    if readyCode s ≠ 0 then { ringAt s r with code := readyCode s }
    else if ringOk s (ringAt s r) = false then { ringAt s r with code := 0x0562 }
    else { ringAt s r with code := 0, st := 1, cons := 0 } := by
  unfold ringEnable
  dsimp only
  split
  · exact ringAt_setRing_same ..
  · split
    · exact ringAt_setRing_same ..
    · rw [(sameRings_hostWrite ..).ringAt, ringAt_setRing_same]

/-- R281, R285: a write that enables a disabled ring takes its fields first. -/
theorem ringAt_wRingCtl_enable (n : Nat) (h : (ringAt s r).st = 0) :
    let g := { ringAt s r with ctl := f * 2 }
    ringAt (wRingCtl r (2 * f + 1) (pcieCount 0 n s)) r =
      if readyCode s ≠ 0 then { g with code := readyCode s }
      else if ringOk s g = false then { g with code := 0x0562 }
      else { g with code := 0, st := 1, cons := 0 } := by
  have hctl : (2 * f + 1) / 2 * 2 = f * 2 := by omega
  have hodd : (2 * f + 1) % 2 = 1 := by omega
  have hready (g : RingSt) (z : State) : readyCode (setRing r g z) = readyCode z := rfl
  have hok (g g' : RingSt) (z : State) : ringOk (setRing r g z) g' = ringOk z g' := rfl
  unfold wRingCtl
  simp only [(sameRings_pcieCount ..).ringAt, h, if_true, hodd, hctl, ringAt_ringEnable, ringAt_setRing_same, hready, hok,
    readyCode_pcieCount, ringOk_pcieCount]

/-- R281: a ring that is not disabled keeps its fields, and CFG_IGNORED shows a write that would change them. -/
theorem ringAt_wRingCtl_again (n : Nat) (h : (ringAt s r).st ≠ 0) :
    ringAt (wRingCtl r (2 * f + 1) (pcieCount 0 n s)) r =
    if f = (ringAt s r).ctl / 2 then ringAt s r else { ringAt s r with ign := true } := by
  have hfields : (2 * f + 1) / 2 = f := by omega
  unfold wRingCtl
  simp only [(sameRings_pcieCount ..).ringAt, if_neg h, hfields]
  rw [if_neg (by omega), ringAt_setRing_same]

/-- R285: a draining ring is disabled once no command of it is left. -/
theorem ringAt_drained (h : (ringAt s r).st = 2) : ringAt (drained r s) r =
    { ringAt s r with st := if (s.cmds.all fun c => c.ring != r) then 0 else 2 } := by
  unfold drained
  dsimp only
  by_cases hall : (s.cmds.all fun c => c.ring != r) = true
  · rw [if_pos ⟨h, hall⟩, if_pos hall, ringAt_setRing_same]
  · rw [if_neg fun hd => hall hd.2, if_neg hall, ← h]

/-- R285: a running or stopped ring that is disabled drains. -/
theorem ringAt_wRingCtl_disable (n : Nat) (h : (ringAt s r).st = 1 ∨ (ringAt s r).st = 3)
    (hf : f = (ringAt s r).ctl / 2) : ringAt (wRingCtl r (2 * f) (pcieCount 0 n s)) r =
      { ringAt s r with st := if (s.cmds.all fun c => c.ring != r) then 0 else 2 } := by
  have same := sameRings_pcieCount 0 n s
  have hon : ringOn (ringAt s r) = true := by rcases h with h | h <;> simp [ringOn, h]
  have hfields : 2 * f / 2 = (ringAt s r).ctl / 2 := by omega
  unfold wRingCtl
  simp only [same.ringAt, if_neg (show ¬(ringAt s r).st = 0 by omega), if_pos hfields]
  rw [if_pos ⟨by omega, hon⟩, ringAt_drained (by rw [ringAt_setRing_same]), ringAt_setRing_same]
  rfl

/-- R295, R504: how a completion ring stands once its enabling has been judged. -/
theorem cqAt_cqEnable (c : Nat) (s : State) : cqAt (cqEnable c s) c =
    if readyCode s ≠ 0 then { cqAt s c with code := readyCode s }
    else if cqOk s (cqAt s c) = false then { cqAt s c with code := 0x0562 }
    else { cqAt s c with code := 0, on := true, prod := 0, cons := 0, since := 0 } := by
  unfold cqEnable
  dsimp only
  split
  · exact cqAt_setCq_same ..
  · split <;> exact cqAt_setCq_same ..

/-- R294, R295: a write that enables a disabled completion ring takes its fields first. -/
theorem cqAt_wCqCtl_enable (n : Nat) (h : (cqAt s c).on = false) :
    let q := { cqAt s c with ctl := f * 2 }
    cqAt (wCqCtl c (2 * f + 1) (pcieCount 0 n s)) c =
      if readyCode s ≠ 0 then { q with code := readyCode s }
      else if cqOk s q = false then { q with code := 0x0562 }
      else { q with code := 0, on := true, prod := 0, cons := 0, since := 0 } := by
  have hctl : (2 * f + 1) / 2 * 2 = f * 2 := by omega
  have hodd : (2 * f + 1) % 2 = 1 := by omega
  have hready (q : CqSt) (z : State) : readyCode (setCq c q z) = readyCode z := rfl
  have hok (q q' : CqSt) (z : State) : cqOk (setCq c q z) q' = cqOk z q' := rfl
  unfold wCqCtl
  simp only [(sameRings_pcieCount ..).cqAt, h, Bool.false_eq_true, if_false, if_true, hodd, hctl, cqAt_cqEnable,
    cqAt_setCq_same, hready, hok, readyCode_pcieCount, cqOk_pcieCount]

/-- R294: an enabled completion ring is disabled unless a command ring that is not disabled is bound to it. -/
theorem cqAt_wCqCtl_disable (n : Nat) (h : (cqAt s c).on = true) (hf : f = (cqAt s c).ctl / 2) :
    cqAt (wCqCtl c (2 * f) (pcieCount 0 n s)) c =
      if cqBound s c then { cqAt s c with ign := true } else { cqAt s c with on := false } := by
  have same := sameRings_pcieCount 0 n s
  have hfields : 2 * f / 2 = (cqAt s c).ctl / 2 := by omega
  unfold wCqCtl
  simp only [same.cqAt, same.cqBound, if_pos h, if_pos hfields]
  rw [if_neg (by omega)]
  split <;> exact cqAt_setCq_same ..

end

/-! ### Messages and the consumer record (R297, R298) -/

section
variable {c : Nat} {s : State}

/-- A message leaves the rings and the commands as they are. -/
theorem sameRings_sendMsix (v : Nat) (s : State) : SameRings s (sendMsix v s) := by
  unfold sendMsix
  repeat' split
  all_goals exact ⟨rfl, rfl, rfl⟩

/-- R298: a message only adds to what has been sent. -/
theorem mem_out_sendMsix {o : Output} (v : Nat) (h : o ∈ s.out) : o ∈ (sendMsix v s).out := by
  unfold sendMsix
  repeat' split
  · exact h
  · exact h
  · exact List.mem_cons_of_mem _ h

theorem out_sendMsix {v : Nat} (hup : s.hst.linkUp = true) (hon : s.hst.cfg.msixOn = true)
    (hheld : msixHeld s v = false) : (sendMsix v s).out = .msix v :: s.out := by
  unfold sendMsix
  rw [if_neg (by simp [hup, hon]), if_neg (by simp [hheld])]
  rfl

theorem cqAt_cqFire (c : Nat) (s : State) : cqAt (cqFire c s) c = { cqAt s c with since := 0 } :=
  ((sameRings_sendMsix ..).cqAt c).trans (cqAt_setCq_same ..)

theorem coalExpiry_idle (h : (cqAt s c).on = false ∨ cqIrq (cqAt s c) = false ∨ (cqAt s c).since = 0) :
    coalExpiry c s = s := by
  unfold coalExpiry
  refine if_neg fun ⟨hon, hirq, hsince⟩ => ?_
  rcases h with h | h | h
  · rw [h] at hon; cases hon
  · rw [h] at hirq; cases hirq
  · omega

theorem coalExpiry_due (hon : (cqAt s c).on = true) (hirq : cqIrq (cqAt s c) = true) (hs : 0 < (cqAt s c).since) :
    coalExpiry c s = cqFire c s := if_pos ⟨hon, hirq, hs⟩

theorem consRead_idle (rd : HostRead) (cons : Nat) (h : (cqAt s c).on = false ∨ cqFull s c = false) :
    consRead c rd cons s = s := by
  unfold consRead
  refine if_neg fun ⟨hon, hfull, _⟩ => ?_
  rcases h with h | h
  · rw [h] at hon; cases hon
  · rw [h] at hfull; cases hfull

/-- R293, R297: a good read of the consumer record gives the host's index, another leaves it as it was. -/
theorem cqAt_consRead (rd : HostRead) (cons : Nat) (hon : (cqAt s c).on = true) (hfull : cqFull s c = true)
    (hready : isReady s = true) (hbar : barOpen s = true) :
    cqAt (consRead c rd cons s) c = if rd = .good then { cqAt s c with cons := cons } else cqAt s c := by
  unfold consRead
  rw [if_pos ⟨hon, hfull, hready, hbar⟩]
  split
  · exact cqAt_setCq_same ..
  · exact (sameRings_notePoison ..).cqAt c

end

/-! ### The commands that finished, in order (R298) -/

theorem linsert_perm {α : Type} (before : α → α → Bool) (x : α) (l : List α) : (linsert before x l).Perm (x :: l) := by
  induction l with
  | nil => exact .refl _
  | cons y r ih =>
    unfold linsert
    split
    · exact .refl _
    · exact (ih.cons y).trans (.swap ..)

theorem lsort_perm {α : Type} (before : α → α → Bool) (l : List α) : (lsort before l).Perm l := by
  induction l with
  | nil => exact .refl _
  | cons x r ih => exact (linsert_perm ..).trans (ih.cons x)

theorem byFinish_perm (l : List CmdEnt) : (byFinish l).Perm l := lsort_perm ..

section
variable {s : State} {e : CmdEnt}

theorem mem_dueWith {d : CmdEnt} : d ∈ dueWith s e ↔ d ∈ s.cmds ∧ d.done ≠ none ∧
    rgCq (ringAt s d.ring) = rgCq (ringAt s e.ring) ∧ d.doneOrd ≤ e.doneOrd := by
  simp [dueWith, and_assoc, Option.isSome_iff_ne_none]

theorem findCmd_some {r idx : Nat} (h : findCmd s r idx = some e) : e ∈ s.cmds ∧ e.ring = r := by
  have hp := List.find?_some h
  simp only [Bool.and_eq_true, beq_iff_eq] at hp
  exact ⟨List.mem_of_find?_eq_some h, hp.1⟩

theorem commandComplete_idle {r idx : Nat} (h : findCmd s r idx = none ∨ mayComplete s = false) :
    commandComplete r idx s = s := by
  unfold commandComplete
  split
  · rfl
  · next hf => exact if_neg fun hd => by simp [hf, hd.2] at h

theorem commandComplete_due {r idx : Nat} (hf : findCmd s r idx = some e) (hd : e.done ≠ none)
    (hm : mayComplete s = true) : commandComplete r idx s = completeAll (byFinish (dueWith s e)) s := by
  unfold commandComplete
  rw [hf]
  exact if_pos ⟨Option.isSome_iff_ne_none.2 hd, hm⟩

end

/-! ### The commands that leave the command store (R298) -/

section
variable {s : State} {c : CmdEnt} {r : CmdRes}

/-- R43, R289: the state in which a finished command has left the command store, and a set that it defines is in effect. -/
def leftStore (c : CmdEnt) (r : CmdRes) (s : State) : State :=
  let s1 := if eOp c.bytes = 2 ∧ r.status = 0 then
      { s with hst := { s.hst with sets := tput s.hst.sets (fld c.bytes 0x20 2) c.set } } else s
  { s1 with cmds := s1.cmds.filter fun d => !(d.ring == c.ring && d.idx == c.idx) }

theorem cmds_leftStore (c : CmdEnt) (r : CmdRes) (s : State) :
    (leftStore c r s).cmds = s.cmds.filter fun d => !(d.ring == c.ring && d.idx == c.idx) := by
  unfold leftStore; dsimp only; split <;> rfl

theorem cfg_leftStore (c : CmdEnt) (r : CmdRes) (s : State) : (leftStore c r s).hst.cfg = s.hst.cfg := by
  unfold leftStore; dsimp only; split <;> rfl

theorem ringAt_leftStore (c : CmdEnt) (r : CmdRes) (s : State) (j : Nat) :
    ringAt (leftStore c r s) j = ringAt s j := by
  unfold leftStore; dsimp only; split <;> rfl

theorem cqAt_leftStore (c : CmdEnt) (r : CmdRes) (s : State) (b : Nat) : cqAt (leftStore c r s) b = cqAt s b := by
  unfold leftStore; dsimp only; split <;> rfl

theorem completeCmd_eq (c : CmdEnt) (r : CmdRes) (s : State) :
    completeCmd c r s = drained c.ring (writeCpl (rgCq (ringAt s c.ring)) c r (leftStore c r s)) := by
  rw [← ringAt_leftStore c r s]
  unfold completeCmd leftStore
  dsimp only
  split <;> rfl

theorem cmds_completeCmd (c : CmdEnt) (r : CmdRes) (s : State) :
    (completeCmd c r s).cmds = s.cmds.filter fun d => !(d.ring == c.ring && d.idx == c.idx) := by
  rw [completeCmd_eq, ← cmds_leftStore c r s]
  refine within_f_cmds (T := [.od, .out, .hst]) ?_ rfl
  exact within_drained _ _ rfl _ _ (within_writeCpl _ _ rfl _ _ _ _ (within_refl _ _))

theorem completeAll_cons {d : CmdRes} (hd : c.done = some d) (l : List CmdEnt) :
    completeAll (c :: l) s = completeAll l (completeCmd c d s) := by
  rw [completeAll, hd]

/-- R298: the commands of a list that have finished leave the command store, each by its ring and index. -/
theorem mem_cmds_completeAll {l : List CmdEnt} (hl : ∀ c ∈ l, c.done ≠ none) (s : State) (d : CmdEnt) :
    d ∈ (completeAll l s).cmds ↔ d ∈ s.cmds ∧ ∀ u ∈ l, u.ring ≠ d.ring ∨ u.idx ≠ d.idx := by
  induction l generalizing s with
  | nil => simp [completeAll]
  | cons c l ih =>
    obtain ⟨x, hx⟩ := Option.ne_none_iff_exists'.1 (hl c List.mem_cons_self)
    have hkeep : (!(d.ring == c.ring && d.idx == c.idx)) = true ↔ c.ring ≠ d.ring ∨ c.idx ≠ d.idx := by
      rw [Bool.not_eq_true', Bool.and_eq_false_iff, beq_eq_false_iff_ne, beq_eq_false_iff_ne, ne_comm,
        ne_comm (a := d.idx)]
    rw [completeAll_cons hx, ih fun c hc => hl c (List.mem_cons_of_mem _ hc), cmds_completeCmd, List.mem_filter, hkeep,
      List.forall_mem_cons, and_assoc]

end

/-! ### The entries of a completion ring (R296 to R298) -/

/-- From `s` to `z`, completion ring `b` has counted `n` entries and stays as it is configured, and every ring keeps its
fields. -/
structure Counts (b n : Nat) (s z : State) : Prop where
  on : (cqAt z b).on = (cqAt s b).on
  ctl : (cqAt z b).ctl = (cqAt s b).ctl
  prod : (cqAt z b).prod = countedUp (cqAt s b).prod n
  ringCtl : ∀ j, (ringAt z j).ctl = (ringAt s j).ctl

section
variable {b m n : Nat} {s y z : State} {c : CmdEnt} {r : CmdRes}

theorem Counts.rgCq (h : Counts b n s z) (j : Nat) : Machine.rgCq (ringAt z j) = Machine.rgCq (ringAt s j) := by
  unfold Machine.rgCq; rw [h.ringCtl]

theorem Counts.cqConf (h : Counts b n s z) : Machine.cqConf (cqAt z b) = Machine.cqConf (cqAt s b) := by
  unfold Machine.cqConf; rw [h.ctl]

theorem Counts.trans (h1 : Counts b m s y) (h2 : Counts b n y z) : Counts b (m + n) s z :=
  ⟨h2.on.trans h1.on, h2.ctl.trans h1.ctl, by rw [h2.prod, h1.prod, countedUp_add],
    fun j => (h2.ringCtl j).trans (h1.ringCtl j)⟩

theorem SameRings.counts (b : Nat) (h : SameRings s z) : Counts b 0 s z :=
  ⟨by rw [h.cqAt], by rw [h.cqAt], by rw [h.cqAt]; rfl, fun j => by rw [h.ringAt]⟩

/-- R298: a message, or a completion noted for one, changes the count of completions not yet signalled alone. -/
theorem counts_cqSignal (b : Nat) (cpl : Bool) (s : State) : Counts b 0 s (cqSignal b cpl s) := by
  have hset (k : Nat) : Counts b 0 s (setCq b { cqAt s b with since := k } s) := by
    refine ⟨?_, ?_, ?_, fun _ => rfl⟩ <;> rw [cqAt_setCq_same]
    rfl
  unfold cqSignal
  dsimp only
  repeat' split
  · exact SameRings.counts b ⟨rfl, rfl, rfl⟩
  · exact (hset 0).trans ((sameRings_sendMsix ..).counts b)
  · exact hset _

/-- R285: a ring that may have drained keeps its fields. -/
theorem counts_drained (b r : Nat) (s : State) : Counts b 0 s (drained r s) := by
  unfold drained
  dsimp only
  split
  · refine ⟨rfl, rfl, rfl, fun j => ?_⟩
    rw [ringAt_setRing]
    split
    · subst_vars; rfl
    · rfl
  · exact SameRings.counts b ⟨rfl, rfl, rfl⟩

/-- R296, R498: the state in which a completion entry in clear is written and counted, before its message. -/
def entryWritten (b : Nat) (c : CmdEnt) (r : CmdRes) (s : State) : State :=
  let q := cqAt s b
  let w := cplBytes q b (ctxAt s (cqCtx q)) (cplEntry q c r)
  let s0 := odAdd s oCOMMANDS_COMPLETED 1
  setCq b { q with prod := (q.prod + 1) % 2 ^ 32 } (hostWrite (q.base + q.prod % 2 ^ cqLog2 q * w.length) w
    (if class3 r.status then odAdd s0 oCOMMANDS_DISCARDED 1 else s0))

theorem writeCpl_clear (hon : (cqAt s b).on = true) (hconf : cqConf (cqAt s b) = false) :
    writeCpl b c r s = cqSignal b (eCplIrq c.bytes) (entryWritten b c r s) := by
  unfold writeCpl entryWritten
  simp only [hon, hconf, Bool.true_eq_false, Bool.false_eq_true, false_and, if_false]

theorem counts_entryWritten (b : Nat) (c : CmdEnt) (r : CmdRes) (s : State) : Counts b 1 s (entryWritten b c r s) := by
  unfold entryWritten
  dsimp only
  refine ⟨?_, ?_, ?_, fun j => ?_⟩
  · rw [cqAt_setCq_same]
  · rw [cqAt_setCq_same]
  · rw [cqAt_setCq_same]; rfl
  · rw [ringAt_setCq, (sameRings_hostWrite ..).ringAt]; split <;> rfl

theorem counts_leftStore (b : Nat) (c : CmdEnt) (r : CmdRes) (s : State) : Counts b 0 s (leftStore c r s) :=
  ⟨by rw [cqAt_leftStore], by rw [cqAt_leftStore], by rw [cqAt_leftStore]; rfl, fun j => by rw [ringAt_leftStore]⟩

theorem completeCmd_clear (hb : rgCq (ringAt s c.ring) = b) (hon : (cqAt s b).on = true)
    (hconf : cqConf (cqAt s b) = false) : completeCmd c r s =
      drained c.ring (cqSignal b (eCplIrq c.bytes) (entryWritten b c r (leftStore c r s))) := by
  rw [completeCmd_eq, hb, writeCpl_clear] <;> rwa [cqAt_leftStore]

/-- R298: a command completes on an enabled completion ring in clear, which counts its entry. -/
theorem counts_completeCmd (hb : rgCq (ringAt s c.ring) = b) (hon : (cqAt s b).on = true)
    (hconf : cqConf (cqAt s b) = false) : Counts b 1 s (completeCmd c r s) := by
  rw [completeCmd_clear hb hon hconf]
  have left := counts_leftStore b c r s
  have written := left.trans (counts_entryWritten b c r _)
  have signalled := written.trans (counts_cqSignal b (eCplIrq c.bytes) _)
  exact signalled.trans (counts_drained b c.ring _)

/-- R298: the finished commands of an enabled completion ring in clear complete, an entry each. -/
theorem counts_completeAll {l : List CmdEnt} (hl : ∀ c ∈ l, c.done ≠ none ∧ rgCq (ringAt s c.ring) = b)
    (hon : (cqAt s b).on = true) (hconf : cqConf (cqAt s b) = false) : Counts b l.length s (completeAll l s) := by
  induction l generalizing s with
  | nil => exact SameRings.counts b ⟨rfl, rfl, rfl⟩
  | cons c l ih =>
    obtain ⟨⟨hd, hb⟩, hrest⟩ := List.forall_mem_cons.1 hl
    obtain ⟨x, hx⟩ := Option.ne_none_iff_exists'.1 hd
    have one := counts_completeCmd (r := x) hb hon hconf
    rw [completeAll_cons hx, List.length_cons, Nat.add_comm]
    exact one.trans <| ih (fun d hd => ⟨(hrest d hd).1, (one.rgCq _).trans (hrest d hd).2⟩) (one.on.trans hon)
      (one.cqConf.trans hconf)

/-! ### A completion entry as it is sent (R275, R296) -/

theorem length_leBytes (n v : Nat) : (leBytes n v).length = n := by
  induction n generalizing v with
  | zero => rfl
  | succ n ih => rw [leBytes, List.length_cons, ih]

/-- R296: an entry in clear begins with its command's TAG. -/
theorem take_cplBytes {q : CqSt} (hq : cqConf q = false) (b : Nat) (x : CtxSt) (c : CmdEnt) (r : CmdRes) :
    (cplBytes q b x (cplEntry q c r)).take 4 = leBytes 4 (eTag c.bytes) := by
  have htag (l : List Byte) : (leBytes 4 (eTag c.bytes) ++ l).take 4 = leBytes 4 (eTag c.bytes) := by
    have hlen := length_leBytes 4 (eTag c.bytes)
    rw [List.take_append_of_le_length (Nat.le_of_eq hlen.symm), List.take_of_length_le (Nat.le_of_eq hlen)]
  unfold cplBytes cplEntry
  simp only [hq, Bool.false_eq_true, if_false]
  split <;> simp only [List.append_assoc, htag]

theorem out_foldl_emit {α : Type} (f : α → Output) (l : List α) (s : State) :
    (l.foldl (fun s x => emit (f x) s) s).out = (l.map f).reverse ++ s.out := by
  induction l generalizing s with
  | nil => rfl
  | cons x l ih => rw [List.foldl_cons, ih]; simp

/-- R275, R298: every TLP of a write that keeps its order is sent. -/
theorem mem_out_hostWrite {a : Nat} {bs : List Byte} {p : Nat × List Byte} (h : p ∈ hostTlps s a bs) :
    .host p.1 p.2 false ∈ (hostWrite a bs s).out := by
  have hout : (hostWrite a bs s).out = ((hostTlps s a bs).map fun p => Output.host p.1 p.2 false).reverse ++ s.out :=
    out_foldl_emit (fun p : Nat × List Byte => Output.host p.1 p.2 false) ..
  rw [hout, List.mem_append, List.mem_reverse]
  exact .inl (List.mem_map_of_mem (f := fun p : Nat × List Byte => Output.host p.1 p.2 false) h)

theorem mem_out_cqSignal {o : Output} (b : Nat) (cpl : Bool) (h : o ∈ s.out) : o ∈ (cqSignal b cpl s).out := by
  unfold cqSignal
  dsimp only
  repeat' split
  · exact h
  · exact mem_out_sendMsix _ h
  · exact h

theorem out_drained (r : Nat) (s : State) : (drained r s).out = s.out :=
  within_f_out (within_drained [.hst] s rfl r s (within_refl _ s)) rfl

/-- The split of a write into TLPs rests on the configured payload size alone. -/
theorem hostTlps_congr (h : z.hst.cfg = s.hst.cfg) (a : Nat) (bs : List Byte) : hostTlps z a bs = hostTlps s a bs := by
  unfold hostTlps; rw [h]

/-- R296, R298: a command that completes on an enabled completion ring in clear sends its entry. -/
theorem completeCmd_sends_entry (hb : rgCq (ringAt s c.ring) = b) (hon : (cqAt s b).on = true)
    (hconf : cqConf (cqAt s b) = false) : ∃ w, w.take 4 = leBytes 4 (eTag c.bytes) ∧
      ∀ p, p ∈ hostTlps s ((cqAt s b).base + (cqAt s b).prod % 2 ^ cqLog2 (cqAt s b) * w.length) w →
        .host p.1 p.2 false ∈ (completeCmd c r s).out := by
  refine ⟨_, take_cplBytes hconf b (ctxAt (leftStore c r s) (cqCtx (cqAt s b))) c r, fun p hp => ?_⟩
  rw [completeCmd_clear hb hon hconf, out_drained]
  refine mem_out_cqSignal _ _ ?_
  unfold entryWritten
  dsimp only
  rw [setCq_out, cqAt_leftStore]
  refine mem_out_hostWrite ?_
  rw [hostTlps_congr (s := s)]
  · exact hp
  · rw [← cfg_leftStore c r s]; split <;> rfl

end

section
variable {r idx : Nat} {s : State} {e : CmdEnt} {x : CmdRes} (hf : findCmd s r idx = some e) (hd : e.done = some x)
  (hm : mayComplete s = true)
include hf hd hm

/-- R298: those that leave the command store are the finished commands of the completion ring, up to the one named. -/
theorem mem_cmds_commandComplete (d : CmdEnt) : d ∈ (commandComplete r idx s).cmds ↔
    d ∈ s.cmds ∧ ∀ u, u ∈ dueWith s e → u.ring ≠ d.ring ∨ u.idx ≠ d.idx := by
  rw [commandComplete_due hf (by simp [hd]) hm, mem_cmds_completeAll]
  · simp only [(byFinish_perm _).mem_iff]
  · exact fun c hc => (mem_dueWith.1 ((byFinish_perm _).mem_iff.1 hc)).2.1

variable (hon : (cqAt s (rgCq (ringAt s r))).on = true) (hconf : cqConf (cqAt s (rgCq (ringAt s r))) = false)
include hon hconf

theorem prod_commandComplete : (cqAt (commandComplete r idx s) (rgCq (ringAt s r))).prod =
    ((cqAt s (rgCq (ringAt s r))).prod + (dueWith s e).length) % 2 ^ 32 := by
  obtain ⟨hmem, rfl⟩ := findCmd_some hf
  have hdone : e.done ≠ none := by simp [hd]
  have hne : (dueWith s e).length ≠ 0 :=
    Nat.ne_of_gt (List.length_pos_of_mem (mem_dueWith.2 ⟨hmem, hdone, rfl, Nat.le_refl _⟩))
  rw [commandComplete_due hf hdone hm, ← countedUp_pos _ hne, ← (byFinish_perm _).length_eq]
  refine (counts_completeAll (fun c hc => ?_) hon hconf).prod
  obtain ⟨-, hdc, hcq, -⟩ := mem_dueWith.1 ((byFinish_perm _).mem_iff.1 hc)
  exact ⟨hdc, hcq⟩

/-- R296, R298: a command before which none of its completion ring finished is the one whose entry is sent. -/
theorem commandComplete_sends_entry (honly : ∀ u, u ∈ dueWith s e → u = e) (hone : (dueWith s e).length = 1) :
    ∃ w, w.take 4 = leBytes 4 (eTag e.bytes) ∧ ∀ p, p ∈ hostTlps s ((cqAt s (rgCq (ringAt s r))).base +
        (cqAt s (rgCq (ringAt s r))).prod % 2 ^ cqLog2 (cqAt s (rgCq (ringAt s r))) * w.length) w →
      .host p.1 p.2 false ∈ (commandComplete r idx s).out := by
  obtain ⟨-, rfl⟩ := findCmd_some hf
  have hlast : dueWith s e = [e] := List.eq_replicate_iff.2 ⟨hone, honly⟩
  have hlist : commandComplete e.ring idx s = completeCmd e x s := by
    rw [commandComplete_due hf (by simp [hd]) hm, hlast]
    exact completeAll_cons hd []
  rw [hlist]
  exact completeCmd_sends_entry rfl hon hconf

end

/-- Settles O39: a poll by the number of entries that its rules leave and an induction on those it fetches, the enabling and
disabling of a ring by the judgement of its fields, and the completions by what each adds to its completion ring. -/
theorem ringsAndCompletions : Obligations.RingsAndCompletions := by
  intro r c p f h rd cons idx s
  dsimp only
  refine ⟨fun hn => congrArg Host.Outcome.next (ringPoll_of_not_polled p hn),
    fun hruns hbad => ⟨_, rfl, ringPoll_stops hruns hbad⟩,
    fun hruns hrec hdiff hfull hk hconf hfetch => ⟨_, rfl, ringPoll_fetches hruns hrec hdiff hfull hk hconf hfetch⟩,
    fun hshut => ?_, fun hopen => ⟨fun hst => ?_, fun hst => ?_, fun hst hf => ?_, fun hoff => ?_, fun hon hf => ?_⟩,
    fun hidle => congrArg Host.Outcome.next (commandComplete_idle hidle), fun e x hf hd hm => ⟨_, rfl, ?_, ?_⟩,
    fun hidle => congrArg Host.Outcome.next (coalExpiry_idle hidle), fun hon hirq hsince => ⟨_, rfl, ?_⟩,
    fun hidle => congrArg Host.Outcome.next (consRead_idle rd cons hidle),
    fun hon hfull hready hbar => ⟨_, rfl, cqAt_consRead rd cons hon hfull hready hbar⟩⟩
  · have hno : ¬barOpen s = true := by simp [hshut]
    refine ⟨?_, ?_, ?_, ?_⟩ <;> exact congrArg Host.Outcome.next (if_neg hno)
  · exact ⟨_, congrArg Host.Outcome.next (if_pos hopen), ringAt_wRingCtl_enable 4 hst⟩
  · exact ⟨_, congrArg Host.Outcome.next (if_pos hopen), ringAt_wRingCtl_again 4 hst⟩
  · exact ⟨_, congrArg Host.Outcome.next (if_pos hopen), ringAt_wRingCtl_disable 4 hst hf⟩
  · exact ⟨_, congrArg Host.Outcome.next (if_pos hopen), cqAt_wCqCtl_enable 8 hoff⟩
  · exact ⟨_, congrArg Host.Outcome.next (if_pos hopen), cqAt_wCqCtl_disable 8 hon hf⟩
  · intro d
    simpa only [mem_dueWith, (findCmd_some hf).2] using mem_cmds_commandComplete hf hd hm d
  · intro hon hconf
    refine ⟨prod_commandComplete hf hd hm hon hconf, fun honly hone => ?_⟩
    refine commandComplete_sends_entry hf hd hm hon hconf (fun u hu => honly u ?_) hone
    simpa only [mem_dueWith, (findCmd_some hf).2] using hu
  · rw [coalExpiry_due hon hirq hsince]
    exact ⟨cqAt_cqFire .., fun hup hmsix hheld => out_sendMsix hup hmsix hheld⟩

end Sys2Proof.Machine
end
